-- ==== Sys2Proof/Word.lean ====
section
/-! DEFINITION. The machine's plain words: a byte, a 64-bit register value, a fault cause code. -/
namespace Sys2Proof

/-- One byte of memory. -/
abbrev Byte := BitVec 8

/-- A 64-bit value: a scalar register, an MMIO register, a counter (R1, register and operand names). -/
abbrev Word := BitVec 64

/-- A cause code, class [9:6] above detail [5:0] (R288). -/
abbrev Cause := BitVec 10

/-- A sparse array: index and value pairs in rising index order, entries at their default left out. -/
abbrev Assoc (α : Type) := List (Nat × α)

end Sys2Proof
end

