-- ==== Sys2Proof/Machine/Map.lean ====
section
/-! DEFINITION. Sparse arrays in one canonical form: index and value pairs in strictly rising index order, no entry equal to
what an unlisted index reads as. Every register file, every memory and every table of the machine is one of these. -/
namespace Sys2Proof.Machine

/-- Reading index `k`; an unlisted index reads as `d k`. -/
def Map.get {α : Type} (d : Nat → α) : Assoc α → Nat → α
  | [], k => d k
  | (i, v) :: m, k => if k = i then v else if k < i then d k else Map.get d m k

/-- Removing index `k`. -/
def Map.erase {α : Type} : Assoc α → Nat → Assoc α
  | [], _ => []
  | (i, v) :: m, k => if k = i then m else if k < i then (i, v) :: m else (i, v) :: Map.erase m k

/-- Listing `v` at index `k`. -/
def Map.insert {α : Type} : Assoc α → Nat → α → Assoc α
  | [], k, v => [(k, v)]
  | (i, w) :: m, k, v =>
    if k = i then (k, v) :: m else if k < i then (k, v) :: (i, w) :: m else (i, w) :: Map.insert m k v

/-- Writing `v` at index `k`; writing what an unlisted index reads as removes the entry. -/
def Map.set {α : Type} [DecidableEq α] (d : Nat → α) (m : Assoc α) (k : Nat) (v : α) : Assoc α :=
  if v = d k then Map.erase m k else Map.insert m k v

/-- The lower bound of the indices from `lo` on: every listed index is at least `lo`, rising, and no entry is the default. -/
def Map.wfFrom {α : Type} [DecidableEq α] (d : Nat → α) : Nat → Assoc α → Bool
  | _, [] => true
  | lo, (i, v) :: m => decide (lo ≤ i) && decide (v ≠ d i) && Map.wfFrom d (i + 1) m

/-- The canonical form. -/
def Map.wf {α : Type} [DecidableEq α] (d : Nat → α) (m : Assoc α) : Bool := Map.wfFrom d 0 m

/-- Changing the value at an index. -/
def Map.upd {α : Type} [DecidableEq α] (d : Nat → α) (m : Assoc α) (k : Nat) (f : α → α) : Assoc α :=
  Map.set d m k (f (Map.get d m k))

/-- Whether an index is listed. -/
def Map.has {α : Type} : Assoc α → Nat → Bool
  | [], _ => false
  | (i, _) :: m, k => k == i || (decide (i < k) && Map.has m k)

/-- The value listed at an index, if any. -/
def Map.find {α : Type} : Assoc α → Nat → Option α
  | [], _ => none
  | (i, v) :: m, k => if k = i then some v else if k < i then none else Map.find m k

/-- Reading `n` consecutive indices. -/
def Map.getN {α : Type} (d : Nat → α) (m : Assoc α) (a : Nat) : Nat → List α
  | 0 => []
  | n + 1 => Map.get d m a :: Map.getN d m (a + 1) n

/-- Writing a list to consecutive indices. -/
def Map.setN {α : Type} [DecidableEq α] (d : Nat → α) (m : Assoc α) (a : Nat) : List α → Assoc α
  | [] => m
  | v :: vs => Map.setN d (Map.set d m a v) (a + 1) vs

/-- Removing the indices `lo ≤ i < hi`. -/
def Map.clear {α : Type} (m : Assoc α) (lo hi : Nat) : Assoc α := m.filter fun e => decide (e.1 < lo) || decide (hi ≤ e.1)

/-- The entries with `lo ≤ i < hi`. -/
def Map.slice {α : Type} (m : Assoc α) (lo hi : Nat) : Assoc α := m.filter fun e => decide (lo ≤ e.1) && decide (e.1 < hi)

/-! Words and their bytes, least significant first (R2). -/

/-- The value of a byte list, least significant byte first. -/
def leVal : List Byte → Nat
  | [] => 0
  | b :: bs => b.toNat + 256 * leVal bs

/-- The `n` low bytes of a number, least significant first. -/
def leBytes : Nat → Nat → List Byte
  | 0, _ => []
  | n + 1, v => BitVec.ofNat 8 v :: leBytes n (v / 256)

/-- The word of (up to) eight bytes. -/
def leWord (bs : List Byte) : Word := BitVec.ofNat 64 (leVal bs)

/-- Bits `[lo + n − 1 : lo]` of a number. -/
def bitsAt (v lo n : Nat) : Nat := (v >>> lo) % 2 ^ n

/-- Bits `[lo + n − 1 : lo]` of a word, as a number. -/
def Word.bits (w : Word) (lo n : Nat) : Nat := (w.extractLsb' lo n).toNat

/-- One bit of a word. -/
def Word.bit (w : Word) (i : Nat) : Bool := w.getLsbD i

/-- Bits `[lo + n − 1 : lo]` of a word replaced by the low bits of `v`. -/
def Word.setBits (w : Word) (lo n v : Nat) : Word :=
  let mask : Word := BitVec.ofNat 64 ((2 ^ n - 1) <<< lo)
  (w &&& ~~~mask) ||| (BitVec.ofNat 64 ((v % 2 ^ n) <<< lo))

/-- One bit of a word replaced. -/
def Word.setBit (w : Word) (i : Nat) (b : Bool) : Word := Word.setBits w i 1 b.toNat

/-- The numbers `lo, …, lo + n − 1`. -/
def range (lo n : Nat) : List Nat := (List.range n).map (lo + ·)

end Sys2Proof.Machine
end

