-- ==== Sys2Proof/Machine/Num.lean ====
section
/-! DEFINITION. Number formats and exact arithmetic (chapter 09): values of every format, the one rounding of R324, conversions
(R325–R327), and the scalar and tile operations on exact values (R329). -/
namespace Sys2Proof.Machine

/-- An exact value: a NaN, an infinity, or ±`m` × 2^`e`. -/
inductive FV | nan | inf (neg : Bool) | fin (neg : Bool) (m : Nat) (e : Int)
  deriving DecidableEq, Repr

/-- A floating-point format (R317): exponent and mantissa widths, bias, and its special values: 0 IEEE infinities and NaNs,
1 the one NaN of E4M3, 2 none. -/
structure Fmt where
  eb : Nat
  mb : Nat
  bias : Nat
  kind : Nat
  deriving DecidableEq, Repr

/-- The formats of the type codes 0x00–0x08 (R242, R317). -/
def Fmt.ofCode : Nat → Option Fmt
  | 0 => some ⟨11, 52, 1023, 0⟩
  | 1 => some ⟨8, 23, 127, 0⟩
  | 2 => some ⟨8, 7, 127, 0⟩
  | 3 => some ⟨5, 10, 15, 0⟩
  | 4 => some ⟨4, 3, 7, 1⟩
  | 5 => some ⟨5, 2, 15, 0⟩
  | 6 => some ⟨3, 2, 3, 2⟩
  | 7 => some ⟨2, 3, 1, 2⟩
  | 8 => some ⟨2, 1, 1, 2⟩
  | _ => none

def Fmt.fp64 : Fmt := ⟨11, 52, 1023, 0⟩
def Fmt.fp32 : Fmt := ⟨8, 23, 127, 0⟩

def Fmt.bits (f : Fmt) : Nat := 1 + f.eb + f.mb
def Fmt.signBit (f : Fmt) : Nat := 2 ^ (f.eb + f.mb)

/-- The exponent of the unit in the last place of subnormals. -/
def Fmt.qmin (f : Fmt) : Int := 1 - (f.bias : Int) - (f.mb : Int)

/-- The largest finite magnitude in units of 2^qmin. -/
def Fmt.maxUnits (f : Fmt) : Nat :=
  if f.kind = 0 then (2 ^ (f.mb + 1) - 1) <<< (2 ^ f.eb - 3)
  else if f.kind = 1 then 14 <<< 14
  else (2 ^ (f.mb + 1) - 1) <<< (2 ^ f.eb - 2)

/-- The canonical NaN (R322); FP6 and FP4 have none. -/
def Fmt.nanBits (f : Fmt) : Nat :=
  if f.kind = 1 then 0x7F else if f.kind = 0 then ((2 ^ f.eb - 1) <<< f.mb) + 2 ^ (f.mb - 1) else 0

def Fmt.infBits (f : Fmt) : Nat := (2 ^ f.eb - 1) <<< f.mb

/-- The magnitude bits of `n` units of 2^qmin, a representable magnitude. -/
def Fmt.encUnits (f : Fmt) (n : Nat) : Nat :=
  if n < 2 ^ f.mb then n
  else
    let sh := Nat.log2 n - f.mb
    ((sh + 1) <<< f.mb) + ((n >>> sh) - 2 ^ f.mb)

def Fmt.sign (f : Fmt) (neg : Bool) : Nat := if neg then f.signBit else 0

/-- The value of an encoding (R317, R318). -/
def Fmt.val (f : Fmt) (b : Nat) : FV :=
  let neg := b / f.signBit % 2 == 1
  let ex := b / 2 ^ f.mb % 2 ^ f.eb
  let ma := b % 2 ^ f.mb
  if f.kind = 0 && ex == 2 ^ f.eb - 1 then (if ma = 0 then .inf neg else .nan)
  else if f.kind = 1 && ex == 15 && ma == 7 then .nan
  else if ex = 0 then .fin neg ma f.qmin
  else .fin neg (ma + 2 ^ f.mb) (f.qmin + (ex : Int) - 1)

/-- The largest integer multiple of 2^`q` in `m` × 2^`e` by rounding mode `rm` (R323), and whether it is inexact. -/
def roundMag (rm : Nat) (neg : Bool) (m : Nat) (e q : Int) : Nat × Bool :=
  if q ≤ e then (m <<< (e - q).toNat, false)
  else
    let sh := (q - e).toNat
    let fl := m >>> sh
    let rem := m - (fl <<< sh)
    let up := match rm with
      | 0 => decide (2 ^ sh < 2 * rem) || (2 * rem == 2 ^ sh && fl % 2 == 1)
      | 1 => false
      | 2 => neg && rem != 0
      | _ => ! neg && rem != 0
    (if up then fl + 1 else fl, rem != 0)

/-- The sticky flags of SR.FPF (R239): [4] invalid, [3] divide by zero, [2] overflow, [1] underflow, [0] inexact. -/
abbrev Flags := BitVec 5

def Flags.invalid : Flags := 16#5
def Flags.divZero : Flags := 8#5
def Flags.overflow : Flags := 4#5
def Flags.underflow : Flags := 2#5
def Flags.inexact : Flags := 1#5

/-- One rounding of an exact value to a format (R324), with the flags of R328. -/
def Fmt.round (f : Fmt) (rm : Nat) (sat : Bool) (v : FV) : Nat × Flags :=
  let overflowed (neg : Bool) : Nat :=
    let away := rm == 0 || (rm == 3 && ! neg) || (rm == 2 && neg)
    if sat || f.kind == 2 || ! away then f.sign neg + f.encUnits f.maxUnits
    else if f.kind = 1 then f.nanBits else f.sign neg + f.infBits
  match v with
  | .nan => (f.nanBits, 0#5)
  | .inf neg => if f.kind = 0 then (f.sign neg + f.infBits, 0#5) else
      (if sat || f.kind == 2 then f.sign neg + f.encUnits f.maxUnits else overflowed neg, 0#5)
  | .fin neg m e =>
    if m = 0 then (f.sign neg, 0#5)
    else
      let top : Int := (Nat.log2 m : Int) + e
      let q := max (top - (f.mb : Int)) f.qmin
      let (n, inex) := roundMag rm neg m e q
      let units := n <<< (q - f.qmin).toNat
      if f.maxUnits < units then (overflowed neg, Flags.overflow ||| Flags.inexact)
      else
        let free := (roundMag rm neg m e (top - (f.mb : Int))).1
        let tiny := decide (top - (f.mb : Int) < f.qmin) &&
          decide (free < 2 ^ (f.mb + (f.qmin - (top - (f.mb : Int))).toNat))
        (f.sign neg + f.encUnits units,
          (if inex then Flags.inexact else 0#5) ||| (if tiny && inex then Flags.underflow else 0#5))

def FV.isNan : FV → Bool
  | .nan => true
  | _ => false

def FV.isZero : FV → Bool
  | .fin _ m _ => m == 0
  | _ => false

def FV.neg : FV → Bool
  | .nan => false
  | .inf n => n
  | .fin n _ _ => n

def FV.negate : FV → FV
  | .nan => .nan
  | .inf n => .inf (! n)
  | .fin n m e => .fin (! n) m e

def FV.abs : FV → FV
  | .nan => .nan
  | .inf _ => .inf false
  | .fin _ m e => .fin false m e

def FV.ofInt (i : Int) : FV := .fin (decide (i < 0)) i.natAbs 0

/-- The signed integer multiple of 2^`q`, for `q` at most the value's exponent. -/
def FV.at (neg : Bool) (m : Nat) (e q : Int) : Int :=
  let n : Int := ((m <<< (e - q).toNat : Nat) : Int)
  if neg then -n else n

/-- The exact product (IEEE 754-2019: 0 × ∞ is a NaN). -/
def FV.mul : FV → FV → FV
  | .nan, _ => .nan
  | _, .nan => .nan
  | .inf a, .inf b => .inf (a != b)
  | .inf a, .fin b m _ => if m = 0 then .nan else .inf (a != b)
  | .fin a m _, .inf b => if m = 0 then .nan else .inf (a != b)
  | .fin a m e, .fin b n f => .fin (a != b) (m * n) (e + f)

/-- The exact sum. An exact zero from non-zero terms is +0 (R324); a sum of zeros has the sign of IEEE 754-2019. -/
def FV.add (rm : Nat) : FV → FV → FV
  | .nan, _ => .nan
  | _, .nan => .nan
  | .inf a, .inf b => if a = b then .inf a else .nan
  | .inf a, .fin _ _ _ => .inf a
  | .fin _ _ _, .inf b => .inf b
  | .fin a m e, .fin b n f =>
    if m = 0 ∧ n = 0 then .fin (if a = b then a else rm == 2) 0 0
    else
      let q := min e f
      let s := FV.at a m e q + FV.at b n f q
      .fin (decide (s < 0)) s.natAbs q

/-- A quotient of magnitudes with its remainder folded into the lowest bit, precise enough for every rounding of R324–R327. -/
def quotSticky (m n : Nat) (e f : Int) : Nat × Int :=
  let k := Nat.log2 n + 4500
  let q := (m <<< k) / n
  let r := (m <<< k) % n
  (2 * q + (if r = 0 then 0 else 1), e - f - (k : Int) - 1)

/-- The exact quotient for rounding; x / 0 is an infinity, 0 / 0 and ∞ / ∞ are NaNs. -/
def FV.div : FV → FV → FV
  | .nan, _ => .nan
  | _, .nan => .nan
  | .inf _, .inf _ => .nan
  | .inf a, .fin b _ _ => .inf (a != b)
  | .fin a _ _, .inf b => .fin (a != b) 0 0
  | .fin a m e, .fin b n f =>
    if n = 0 then (if m = 0 then .nan else .inf (a != b))
    else if m = 0 then .fin (a != b) 0 0
    else let (q, x) := quotSticky m n e f; .fin (a != b) q x

/-- The integer square root by binary search over `b` bits. -/
def isqrtAux (n : Nat) : Nat → Nat → Nat
  | 0, acc => acc
  | b + 1, acc =>
    let t := acc + 2 ^ b
    isqrtAux n b (if t * t ≤ n then t else acc)

def isqrt (n : Nat) : Nat := isqrtAux n (Nat.log2 n / 2 + 1) 0

/-- The exact square root for rounding; of a negative value it is a NaN, of −0 it is −0. -/
def FV.sqrt : FV → FV
  | .nan => .nan
  | .inf neg => if neg then .nan else .inf false
  | .fin neg m e =>
    if m = 0 then .fin neg 0 0
    else if neg then .nan
    else
      let odd : Nat := (e % 2).toNat
      let m2 := m <<< (odd + 400)
      let r := isqrt m2
      .fin false (2 * r + (if r * r = m2 then 0 else 1)) ((e - (odd : Int) - 400) / 2 - 1)

/-- Exact comparison of finite or infinite values: −1, 0 or 1. −0 equals +0 (R318). -/
def FV.cmp : FV → FV → Int
  | .nan, _ => 0
  | _, .nan => 0
  | .inf a, .inf b => if a = b then 0 else if a then -1 else 1
  | .inf a, .fin _ _ _ => if a then -1 else 1
  | .fin _ _ _, .inf b => if b then 1 else -1
  | .fin a m e, .fin b n f =>
    let q := min e f
    let d := FV.at a m e q - FV.at b n f q
    if d < 0 then -1 else if d = 0 then 0 else 1

/-- minimumNumber (R329): a NaN operand yields the other; −0 is less than +0. -/
def FV.minNum (a b : FV) : FV :=
  if a.isNan then b else if b.isNan then a
  else
    let c := FV.cmp a b
    if c < 0 then a else if 0 < c then b else if a.isZero && b.isZero then (if a.neg then a else b) else a

/-- maximumNumber (R329). -/
def FV.maxNum (a b : FV) : FV :=
  if a.isNan then b else if b.isNan then a
  else
    let c := FV.cmp a b
    if c < 0 then b else if 0 < c then a else if a.isZero && b.isZero then (if a.neg then b else a) else a

/-- The exact value of A × B + C, to be rounded once. -/
def FV.fma (rm : Nat) (a b c : FV) : FV := FV.add rm (FV.mul a b) c

/-- The exact sum of a list under R333, R340 and R436: a NaN term, or infinities of both signs, gives NaN; an exact zero
gives +0, or −0 if `keepNeg` and every term is −0. -/
def FV.sum (keepNeg : Bool) (vs : List FV) : FV :=
  if vs.any FV.isNan then .nan
  else
    let pinf := vs.any fun v => match v with | .inf n => ! n | _ => false
    let ninf := vs.any fun v => match v with | .inf n => n | _ => false
    if pinf && ninf then .nan else if pinf then .inf false else if ninf then .inf true
    else
      let q := vs.foldl (fun q v => match v with | .fin _ m e => if m = 0 then q else min q e | _ => q) (0 : Int)
      let s := vs.foldl (fun s v => match v with | .fin a m e => if m = 0 then s else s + FV.at a m e q | _ => s) (0 : Int)
      if s = 0 then .fin (keepNeg && ! vs.isEmpty && vs.all fun v => v.isZero && v.neg) 0 0
      else .fin (decide (s < 0)) s.natAbs q

/-- The value rounded to an integer by `rm`. -/
def FV.toInt (rm : Nat) (neg : Bool) (m : Nat) (e : Int) : Int :=
  let n : Int := ((roundMag rm neg m e 0).1 : Int)
  if neg then -n else n

/-! Element types (R242, R320, R321). -/

/-- The width of an element type in bits; 0 for a reserved code. -/
def typBits : Nat → Nat
  | 0x00 => 64 | 0x01 => 32 | 0x02 => 16 | 0x03 => 16 | 0x04 => 8 | 0x05 => 8 | 0x06 => 6 | 0x07 => 6 | 0x08 => 4
  | 0x09 => 8 | 0x0A => 4 | 0x0B => 8 | 0x0C => 16 | 0x0D => 32 | 0x0E => 64 | 0x0F => 4 | 0x10 => 8 | 0x11 => 16
  | 0x12 => 32 | 0x13 => 64 | 0x14 => 64 | 0x15 => 128 | _ => 0

def typOk (t : Nat) : Bool := decide (t ≤ 0x15)
def isFPA (t : Nat) : Bool := decide (t ≤ 5)
def isFloat (t : Nat) : Bool := decide (t ≤ 8)
def isINTS (t : Nat) : Bool := decide (0x0A ≤ t) && decide (t ≤ 0x13)
def isINTA (t : Nat) : Bool := isINTS t && t != 0x0A && t != 0x0F
def isCPX (t : Nat) : Bool := t == 0x14 || t == 0x15
def isReal (t : Nat) : Bool := typOk t && ! isCPX t
def intSigned (t : Nat) : Bool := decide (0x0A ≤ t) && decide (t ≤ 0x0E)

/-- The component type of a complex type: FP32 or FP64. -/
def cpxBase (t : Nat) : Nat := if t = 0x14 then 1 else 0

/-- The integer a bit pattern of an integer type stands for. -/
def intVal (t b : Nat) : Int :=
  let w := typBits t
  if intSigned t && decide (2 ^ (w - 1) ≤ b) then (b : Int) - (2 : Int) ^ w else (b : Int)

def intMin (t : Nat) : Int := if intSigned t then -((2 : Int) ^ (typBits t - 1)) else 0
def intMax (t : Nat) : Int := if intSigned t then (2 : Int) ^ (typBits t - 1) - 1 else (2 : Int) ^ typBits t - 1

/-- The low `w` bits of an integer. -/
def intBits (w : Nat) (v : Int) : Nat := (v % (2 : Int) ^ w).toNat

/-- An exact integer result delivered in an integer type: clamped with SAT, its low bits without (R327, R428). -/
def cvtInt (t : Nat) (sat : Bool) (v : Int) : Nat :=
  intBits (typBits t) (if sat then max (intMin t) (min (intMax t) v) else v)

/-- The exact value of a real element. -/
def realVal (t b : Nat) : FV :=
  match Fmt.ofCode t with
  | some f => f.val b
  | none => if t = 9 then (if b = 0xFF then .nan else .fin false 1 ((b : Int) - 127)) else FV.ofInt (intVal t b)

/-- A conversion to E8M0 (R326). -/
def toE8M0 (rm : Nat) (sat : Bool) : FV → Nat
  | .nan => 0xFF
  | .inf _ => if sat then 0xFE else 0xFF
  | .fin _ m e =>
    if m = 0 then 0
    else
      let k : Int := (Nat.log2 m : Int) + e
      let frac := m - 2 ^ Nat.log2 m
      let up := match rm with
        | 0 => decide (2 ^ Nat.log2 m ≤ 2 * frac)
        | 3 => frac != 0
        | _ => false
      if k < -127 ∨ (k = -127 ∧ frac = 0) then 0
      else
        let r : Int := if up then k + 1 else k
        if 127 < r then (if sat then 0xFE else 0xFF) else (r + 127).toNat

/-- An exact real value delivered in a real type (R324–R327). -/
def cvtReal (t rm : Nat) (sat : Bool) (v : FV) : Nat :=
  match Fmt.ofCode t with
  | some f => (f.round rm sat v).1
  | none =>
    if t = 9 then toE8M0 rm sat v
    else
      intBits (typBits t) (match v with
        | .nan => 0
        | .inf neg => if neg then intMin t else intMax t
        | .fin neg m e => max (intMin t) (min (intMax t) (FV.toInt rm neg m e)))

/-- A conversion of one real element from type `s` to type `t` (R325–R327, R433). -/
def cvtElem (s t rm : Nat) (sat : Bool) (b : Nat) : Nat :=
  if isINTS s && isINTS t then cvtInt t sat (intVal s b) else cvtReal t rm sat (realVal s b)

/-- A list cut to complex components: the real part at the lower bits (R321). -/
def cpxRe (t b : Nat) : Nat := b % 2 ^ typBits (cpxBase t)
def cpxIm (t b : Nat) : Nat := b / 2 ^ typBits (cpxBase t)
def cpxMk (t re im : Nat) : Nat := re + im * 2 ^ typBits (cpxBase t)

/-! Scalar floating point (R382–R385) with its flags (R328). -/

/-- The invalid flag for a NaN result: a NaN operand, or an invalid operation (R328). -/
def nanFlags (v : FV) : Flags := if v.isNan then Flags.invalid else 0#5

/-- One rounding of the exact result with the flags of the operation. -/
def fpResult (f : Fmt) (rm : Nat) (sat : Bool) (v : FV) : Nat × Flags :=
  let (b, fl) := f.round rm sat v
  (b, fl ||| nanFlags v)

/-- Division, with the divide-by-zero flag for a finite non-zero dividend. -/
def fpDiv (f : Fmt) (rm : Nat) (sat : Bool) (a b : FV) : Nat × Flags :=
  let dz := match a, b with
    | .fin _ m _, .fin _ n _ => m != 0 && n == 0
    | _, _ => false
  let (r, fl) := fpResult f rm sat (FV.div a b)
  (r, fl ||| (if dz then Flags.divZero else 0#5))

/-- minimumNumber and maximumNumber set invalid only when both operands are NaN (R383). -/
def fpMinMax (f : Fmt) (isMax : Bool) (a b : FV) : Nat × Flags :=
  f.round 0 false (if isMax then FV.maxNum a b else FV.minNum a b) |> fun r =>
    (r.1, if a.isNan && b.isNan then Flags.invalid else 0#5)

/-- Conversion to a 64-bit integer type with its flags: out of range and NaN are invalid, otherwise inexact (R327, R328). -/
def fpToInt (t rm : Nat) (v : FV) : Nat × Flags :=
  match v with
  | .nan => (0, Flags.invalid)
  | .inf neg => (intBits 64 (if neg then intMin t else intMax t), Flags.invalid)
  | .fin neg m e =>
    let i := FV.toInt rm neg m e
    if i < intMin t then (intBits 64 (intMin t), Flags.invalid)
    else if intMax t < i then (intBits 64 (intMax t), Flags.invalid)
    else (intBits 64 i, if (roundMag rm neg m e 0).2 then Flags.inexact else 0#5)

end Sys2Proof.Machine
end

