-- ==== Sys2Proof/Machine/Crypto.lean ====
section
/-! DEFINITION. The algorithms that the spec names: CRC-32C (R122), SHA-384 and HKDF (R116, R118, R120), AES-256-GCM for flits
(R59, R61), ECDSA on brainpoolP384 (R116, R121). Hashes take and give byte lists in transmission order. -/
namespace Sys2Proof.Machine

/-! CRC-32C: polynomial 0x1EDC6F41 reflected, initial value and final XOR all ones (R122). -/

def crcBit (c : Nat) : Nat := if c % 2 = 1 then (c / 2) ^^^ 0x82F63B78 else c / 2
def crcByte (c : Nat) (b : Byte) : Nat :=
  crcBit (crcBit (crcBit (crcBit (crcBit (crcBit (crcBit (crcBit (c ^^^ b.toNat))))))))
def crc32c (bs : List Byte) : Nat := (bs.foldl crcByte 0xFFFFFFFF) ^^^ 0xFFFFFFFF

/-! SHA-384 (FIPS 180-4). -/

/-- The bytes of a number, most significant first. -/
def beBytes (n v : Nat) : List Byte := (leBytes n v).reverse
def beVal (bs : List Byte) : Nat := leVal bs.reverse

/-- The first `n` primes from `p` on, with fuel. -/
def isPrime (p : Nat) : Bool := decide (2 ≤ p) && (List.range (p - 2)).all fun d => p % (d + 2) != 0
def primes80 : List Nat := (List.range 410).filter isPrime

/-- The integer part of the `k`-th root of `n` by binary search over `b` bits. -/
def rootAux (k n : Nat) : Nat → Nat → Nat
  | 0, acc => acc
  | b + 1, acc => let t := acc + 2 ^ b; rootAux k n b (if t ^ k ≤ n then t else acc)

/-- The round constants: 64 fraction bits of the cube roots of the first 80 primes. -/
def shaK : List Nat := primes80.map fun p => rootAux 3 (p <<< 192) 67 0 % 2 ^ 64

/-- The initial state of SHA-384: 64 fraction bits of the square roots of the 9th to 16th primes. -/
def sha384Init : List Word := ((primes80.drop 8).take 8).map fun p => BitVec.ofNat 64 (rootAux 2 (p <<< 128) 68 0 % 2 ^ 64)

def ror (x : Word) (n : Nat) : Word := (x >>> n) ||| (x <<< (64 - n))

/-- The message schedule, newest word first, with `n` words to add. -/
def shaSchedule : Nat → List Word → List Word
  | 0, w => w
  | n + 1, w =>
    let a := w.getD 14 0#64
    let b := w.getD 1 0#64
    let s0 := ror a 1 ^^^ ror a 8 ^^^ (a >>> 7)
    let s1 := ror b 19 ^^^ ror b 61 ^^^ (b >>> 6)
    shaSchedule n ((w.getD 15 0#64 + s0 + w.getD 6 0#64 + s1) :: w)

def shaRound (st : List Word) (kw : Nat × Word) : List Word :=
  let a := st.getD 0 0#64; let b := st.getD 1 0#64; let c := st.getD 2 0#64; let d := st.getD 3 0#64
  let e := st.getD 4 0#64; let f := st.getD 5 0#64; let g := st.getD 6 0#64; let h := st.getD 7 0#64
  let s1 := ror e 14 ^^^ ror e 18 ^^^ ror e 41
  let ch := (e &&& f) ^^^ (~~~e &&& g)
  let t1 := h + s1 + ch + BitVec.ofNat 64 kw.1 + kw.2
  let s0 := ror a 28 ^^^ ror a 34 ^^^ ror a 39
  let maj := (a &&& b) ^^^ (a &&& c) ^^^ (b &&& c)
  [t1 + (s0 + maj), a, b, c, d + t1, e, f, g]

def beWords : Nat → List Byte → List Word
  | 0, _ => []
  | n + 1, bs => BitVec.ofNat 64 (beVal (bs.take 8)) :: beWords n (bs.drop 8)

def shaBlock (st : List Word) (block : List Byte) : List Word :=
  let w := (shaSchedule 64 (beWords 16 block).reverse).reverse
  let r := (shaK.zip w).foldl shaRound st
  List.zipWith (· + ·) st r

def shaBlocks : Nat → List Word → List Byte → List Word
  | 0, st, _ => st
  | n + 1, st, bs => shaBlocks n (shaBlock st (bs.take 128)) (bs.drop 128)

def sha384 (bs : List Byte) : List Byte :=
  let n := bs.length
  let padLen := (128 - (n + 17) % 128) % 128
  let msg := bs ++ [0x80#8] ++ List.replicate padLen 0#8 ++ beBytes 16 (8 * n)
  ((shaBlocks (msg.length / 128) sha384Init msg).take 6).flatMap fun w => beBytes 8 w.toNat

/-- HMAC-SHA-384 (RFC 2104) and HKDF (RFC 5869). -/
def hmac384 (key msg : List Byte) : List Byte :=
  let k := if 128 < key.length then sha384 key else key
  let k := k ++ List.replicate (128 - k.length) 0#8
  sha384 (k.map (· ^^^ 0x5C#8) ++ sha384 (k.map (· ^^^ 0x36#8) ++ msg))

def hkdfExpand (prk info : List Byte) : Nat → Nat → List Byte → List Byte
  | 0, _, _ => []
  | n + 1, i, t =>
    let t' := hmac384 prk (t ++ info ++ [BitVec.ofNat 8 i])
    t' ++ hkdfExpand prk info n (i + 1) t'

def hkdf384 (salt secret info : List Byte) (len : Nat) : List Byte :=
  (hkdfExpand (hmac384 salt secret) info (len / 48 + 1) 1 []).take len

/-! AES-256 in Galois/counter mode (FIPS 197, SP 800-38D). -/

def gfDouble (x : Nat) : Nat := if 128 ≤ x then ((2 * x) ^^^ 0x11B) else 2 * x

def gfMulAux : Nat → Nat → Nat → Nat → Nat
  | 0, _, _, acc => acc
  | n + 1, a, b, acc => gfMulAux n (gfDouble a) (b / 2) (if b % 2 = 1 then acc ^^^ a else acc)

def gfMul (a b : Nat) : Nat := gfMulAux 8 a b 0

def gfPow (a : Nat) : Nat → Nat
  | 0 => 1
  | n + 1 => gfMul a (gfPow a n)

def sbox (b : Byte) : Byte :=
  let i := BitVec.ofNat 8 (gfPow b.toNat 254)
  i ^^^ i.rotateLeft 1 ^^^ i.rotateLeft 2 ^^^ i.rotateLeft 3 ^^^ i.rotateLeft 4 ^^^ 0x63#8

def chunk4 : Nat → List Byte → List (List Byte)
  | 0, _ => []
  | n + 1, bs => bs.take 4 :: chunk4 n (bs.drop 4)

/-- The key schedule, newest word first, with `n` words to add; `i` counts the words so far. -/
def aesExpand : Nat → Nat → Nat → List (List Byte) → List (List Byte)
  | 0, _, _, ws => ws
  | n + 1, i, rcon, ws =>
    let last := ws.headD []
    let t :=
      if i % 8 = 0 then
        (match (last.drop 1 ++ last.take 1).map sbox with
          | a :: r => (a ^^^ BitVec.ofNat 8 rcon) :: r
          | [] => [])
      else if i % 8 = 4 then last.map sbox else last
    aesExpand n (i + 1) (if i % 8 = 0 then gfDouble rcon else rcon) (List.zipWith (· ^^^ ·) (ws.getD 7 []) t :: ws)

def aesKeys (key : List Byte) : List (List Byte) := (aesExpand 52 8 1 (chunk4 8 key).reverse).reverse

def aesShift (s : List Byte) : List Byte := (List.range 16).map fun i => s.getD ((i + 4 * (i % 4)) % 16) 0#8

def aesMixCol (c : List Byte) : List Byte :=
  (List.range 4).map fun i =>
    let x (k : Nat) := (c.getD ((i + k) % 4) 0#8).toNat
    BitVec.ofNat 8 (gfMul 2 (x 0) ^^^ gfMul 3 (x 1) ^^^ x 2 ^^^ x 3)

def aesMix (s : List Byte) : List Byte := (chunk4 4 s).flatMap aesMixCol

def aesRounds (ks : List (List Byte)) : Nat → Nat → List Byte → List Byte
  | 0, _, s => s
  | n + 1, r, s =>
    let t := aesShift (s.map sbox)
    let t := if n = 0 then t else aesMix t
    aesRounds ks n (r + 1) (List.zipWith (· ^^^ ·) t ((ks.drop (4 * r)).take 4).flatten)

def aesBlock (ks : List (List Byte)) (b : List Byte) : List Byte :=
  aesRounds ks 14 1 (List.zipWith (· ^^^ ·) b (ks.take 4).flatten)

/-- Multiplication in GF(2^128) as GCM numbers it. -/
def ghMul : Nat → Nat → Nat → Nat → Nat
  | 0, _, _, z => z
  | n + 1, x, v, z =>
    ghMul n x (if v % 2 = 1 then (v / 2) ^^^ (0xE1 <<< 120) else v / 2) (if x / 2 ^ n % 2 = 1 then z ^^^ v else z)

def ghash (h : Nat) : Nat → List Byte → Nat → Nat
  | 0, _, y => y
  | n + 1, bs, y =>
    let b := bs.take 16
    ghash h n (bs.drop 16) (ghMul 128 (y ^^^ beVal (b ++ List.replicate (16 - b.length) 0#8)) h 0)

def gcmStream (ks : List (List Byte)) (iv : List Byte) : Nat → Nat → List Byte
  | 0, _ => []
  | n + 1, i => aesBlock ks (iv ++ beBytes 4 i) ++ gcmStream ks iv n (i + 1)

def pad16 (bs : List Byte) : List Byte := bs ++ List.replicate ((16 - bs.length % 16) % 16) 0#8

/-- The tag of a ciphertext and its additional data under a 12-byte IV. -/
def gcmTag (ks : List (List Byte)) (iv aad ct : List Byte) : List Byte :=
  let h := beVal (aesBlock ks (List.replicate 16 0#8))
  let d := pad16 aad ++ pad16 ct ++ beBytes 8 (8 * aad.length) ++ beBytes 8 (8 * ct.length)
  List.zipWith (· ^^^ ·) (beBytes 16 (ghash h (d.length / 16) d 0)) (aesBlock ks (iv ++ beBytes 4 1))

/-- Encryption and decryption of a text in counter mode. -/
def gcmText (ks : List (List Byte)) (iv text : List Byte) : List Byte :=
  List.zipWith (· ^^^ ·) text (gcmStream ks iv (text.length / 16 + 1) 2)

/-! ECDSA on brainpoolP384r1 (RFC 5639). -/

def bpP : Nat := 0x8CB91E82A3386D280F5D6F7E50E641DF152F7109ED5456B412B1DA197FB71123ACD3A729901D1A71874700133107EC53
def bpA : Nat := 0x7BC382C63D8C150C3C72080ACE05AFA0C2BEA28E4FB22787139165EFBA91F90F8AA5814A503AD4EB04A8C7DD22CE2826
def bpB : Nat := 0x04A8C7DD22CE28268B39B55416F0447C2FB77DE107DCD2A62E880EA53EEB62D57CB4390295DBC9943AB78696FA504C11
def bpG : Nat × Nat :=
  (0x1D1C64F068CF45FFA2A63A81B7C13F6B8847A3E77EF14FE3DB7FCAFE0CBD10E8E826E03436D646AAEF87B2E247D4AF1E,
   0x8ABE1D7520F9C2A45CB1EB8E95CFD55262B70B29FEEC5864E19C054FF99129280E4646217791811142820341263C5315)
def bpN : Nat := 0x8CB91E82A3386D280F5D6F7E50E641DF152F7109ED5456B31F166E6CAC0425A7CF3AB6AF6B7FC3103B883202E9046565

def powMod (m : Nat) : Nat → Nat → Nat → Nat → Nat
  | 0, _, _, acc => acc
  | n + 1, b, e, acc => powMod m n (b * b % m) (e / 2) (if e % 2 = 1 then acc * b % m else acc)

/-- The inverse modulo a prime. -/
def invMod (m x : Nat) : Nat := powMod m 400 (x % m) (m - 2) 1

def subMod (m a b : Nat) : Nat := (a + (m - b % m)) % m

/-- Point addition; `none` is the point at infinity. -/
def ecAdd : Option (Nat × Nat) → Option (Nat × Nat) → Option (Nat × Nat)
  | none, q => q
  | p, none => p
  | some (x1, y1), some (x2, y2) =>
    if x1 = x2 ∧ (y1 + y2) % bpP = 0 then none
    else
      let l := if x1 = x2 then (3 * x1 * x1 + bpA) % bpP * invMod bpP (2 * y1) % bpP
        else subMod bpP y2 y1 * invMod bpP (subMod bpP x2 x1) % bpP
      let x3 := subMod bpP (subMod bpP (l * l % bpP) x1) x2
      some (x3, subMod bpP (l * subMod bpP x1 x3 % bpP) y1)

def ecMulAux : Nat → Nat → Option (Nat × Nat) → Option (Nat × Nat) → Option (Nat × Nat)
  | 0, _, _, acc => acc
  | n + 1, k, p, acc => ecMulAux n (k / 2) (ecAdd p p) (if k % 2 = 1 then ecAdd acc p else acc)

def ecMul (k : Nat) (p : Nat × Nat) : Option (Nat × Nat) := ecMulAux 384 k (some p) none

def onCurve (p : Nat × Nat) : Bool :=
  decide (p.1 < bpP) && decide (p.2 < bpP) && (p.2 * p.2 % bpP == (p.1 * p.1 * p.1 + bpA * p.1 + bpB) % bpP)

/-- Whether `(r, s)` signs the digest under the public key. -/
def ecdsaVerify (pub : Nat × Nat) (digest : List Byte) (r s : Nat) : Bool :=
  if ! onCurve pub || r == 0 || s == 0 || decide (bpN ≤ r) || decide (bpN ≤ s) then false
  else
    let w := invMod bpN s
    match ecAdd (ecMul (beVal digest * w % bpN) bpG) (ecMul (r * w % bpN) pub) with
    | none => false
    | some (x, _) => x % bpN == r

/-- A signature with nonce `k`. -/
def ecdsaSign (d k : Nat) (digest : List Byte) : Nat × Nat :=
  match ecMul k bpG with
  | none => (0, 0)
  | some (x, _) =>
    let r := x % bpN
    (r, invMod bpN k * ((beVal digest + r * d) % bpN) % bpN)

/-- The identity private key (R120). -/
def identityKey (secret : List Byte) : Nat :=
  beVal (hkdf384 (List.replicate 48 0#8) secret [0x4B#8, 0x51#8, 0x2D#8, 0x49#8, 0x44#8] 64) % (bpN - 1) + 1

/-- An uncompressed public key. -/
def pubBytes : Option (Nat × Nat) → List Byte
  | none => List.replicate 97 0#8
  | some (x, y) => 0x04#8 :: (beBytes 48 x ++ beBytes 48 y)

end Sys2Proof.Machine
end

