-- ==== Sys2Proof/Config.lean ====
section
/-! DEFINITION. What the spec leaves open: constants with no body, so that nothing can be proved of their values. -/
namespace Sys2Proof

/-- Every open choice among finitely many outcomes: the point of choice, two numbers that tell occasions apart, and an answer
of any size, which the place of use reduces to the choices it has (log 1). -/
opaque Config.pick : Nat → Nat → Nat → Nat

/-- The value that a special function of R330 returns within its bounds: one fixed function of the function's number, the
format's type code and the source bits, as an offset into the allowed results (log 2). -/
opaque Config.special : Nat → Nat → Nat → Nat

/-- Bytes the spec states an event delivers without saying which: a response body, a key, a certificate (log 3). -/
opaque Config.bytes : Nat → Nat → Nat → Byte

/-- A word the spec states an event delivers without saying which. -/
opaque Config.word : Nat → Nat → Word

end Sys2Proof
end

