-- ==== Sys2Proof/Syntax.lean ====
section
/-! DEFINITION. The operations of the part as syntax: one constructor of `Instr` per row of the opcode table.
The rows of the instruction set carry the fields of their slots (R352, R354); the rows that are device events carry what
comes from outside the machine with them (a written value, a sampled temperature, a received flit). -/
namespace Sys2Proof

/-- The four engines of a core that run a stream (R231). -/
inductive Eng | A | X | M | F
  deriving DecidableEq, Repr

/-- Who executes an instruction: a stream of a core, a core's service context (R260), a front end (R131), or the
management controller. Cores are numbered 32 × cluster + core (R154). -/
inductive Agent
  | stream (core : Nat) (e : Eng)
  | service (core : Nat)
  | frontEnd (f : Nat)
  | mgmt
  deriving DecidableEq, Repr

/-- Who writes a register: its world and its route decide what the register takes (R20, R105, R106). -/
inductive Writer
  | mgmt        -- the management controller, secure
  | secure      -- another secure-world agent
  | nonSecure   -- a non-secure agent of the package
  | host        -- a host request through BAR0, non-secure
  | board       -- the board controller on the I3C/SMBus target (R20)
  deriving DecidableEq, Repr

/-- The thermal actions of R40, which end one by one. -/
inductive ThermalAction
  | cluster (n : Nat) | ioDie | hbmRefresh (n : Nat) | hbmThrottle (n : Nat)
  deriving DecidableEq, Repr

/-- What a patrol-scrub read of a block finds (R47, R127). -/
inductive Scrub | clean | corrected | uncorrectable
  deriving DecidableEq, Repr

/-- A whole fabric message after tag verification: the header fields that reach its consumer, and its payload (R57, R58). -/
structure Msg where
  typ : BitVec 8
  world : Bool
  src : BitVec 10
  dst : BitVec 10
  tspec : BitVec 32
  payload : List Byte
  deriving DecidableEq, Repr

/-- An access that the proxy port serves for a non-resident logical core (R227, R257). -/
inductive ProxyOp
  | write (off : Nat) (data : List Byte)
  | memAdd (off : Nat) (v : Word)
  | coreAdd (k : Nat) (v : Word)
  deriving DecidableEq, Repr

/-- The fields of a format R, I or B slot below OPC and FN (R352). In format I, `imm` is SIMM; in format B, TARGET. -/
structure Args where
  mod : BitVec 4
  d : BitVec 8
  a : BitVec 8
  b : BitVec 8
  g : BitVec 4
  imm : BitVec 20
  deriving DecidableEq, Repr

/-- The fields of a format L slot below OPC and FN (R352). -/
structure LArgs where
  mod : BitVec 4
  d : BitVec 8
  a : BitVec 8
  imm : BitVec 32
  deriving DecidableEq, Repr

/-- A command's extension slot (R354). -/
structure Ext where
  wsel : BitVec 9
  wthr : BitVec 24
  acq : BitVec 1
  ssel : BitVec 9
  sinc : BitVec 20
  rel : BitVec 1
  deriving DecidableEq, Repr

/-- A stamp prefix slot below its OPC: reserved bits and the stamp (R352, R357). -/
structure Stamp where
  resv : BitVec 8
  s : BitVec 48
  deriving DecidableEq, Repr

/-- A command: its first slot, its extension, and its stamp prefix where it has one (R351). -/
structure CArgs where
  x : Args
  ext : Ext
  stamp : Option Stamp
  deriving DecidableEq, Repr

/-- An MMA command: the FN bits Z, P and T beside the command (R445, R446). -/
structure MArgs where
  z : BitVec 1
  p : BitVec 1
  t : BitVec 1
  c : CArgs
  deriving DecidableEq, Repr

/-- One constructor per row of the opcode table, in its order. -/
inductive Instr
  | porstNDeassert 
  | railEnWrite (w : Writer)(v : Word)
  | railPowerGood (rail : Nat)
  | railFault (rail : Nat)
  | rstCtlWrite (w : Writer)(v : Word)
  | d2dLinkTrained (cl : Nat)
  | clkCtlWrite (w : Writer)(v : Word)
  | timebaseLock 
  | dccTick 
  | refclkLoss (other : Bool)
  | dvfsCtlWrite (w : Writer)(v : Word)
  | dvfsTransitionDone (cl : Nat)
  | pcapCtlWrite (w : Writer)(v : Word)
  | powerSample (pinst pavg : BitVec 16)
  | cycleSkipEnd 
  | cappingTick (power : List Nat)
  | thmCfgWrite (w : Writer)(v : Word)
  | thermalSample (die hbm : List Nat)
  | thermalActionEnd (action : ThermalAction)
  | hbmTrnGo (n : Nat)(w : Writer)(v : Word)
  | hbmPhyReset (n : Nat)(w : Writer)(v : Word)
  | hbmTrainingStepDone (n err spares : Nat)
  | patrolScrub (block : Nat)(f : Scrub)
  | optTrnGo (p : Nat)(w : Writer)(v : Word)
  | opticalTrainingStepDone (p : Nat)(failed : BitVec 8)(own : Bool)
  | d2dLinkDown (cl : Nat)
  | portCtlEnWrite (p : Nat)(w : Writer)(v : Word)
  | portDrained (p : Nat)
  | portRetrainWrite (p : Nat)(w : Writer)(v : Word)
  | portUnlock (p : Nat)(w : Writer)(v : Word)
  | portSecretWrite (p k : Nat)(w : Writer)(v : Word)
  | flitReceive (p : Nat)(bytes : List Byte)
  | nakReceive (p : Nat)(seq : BitVec 32)
  | flitSend (p : Nat)
  | replayTimeout (p : Nat)
  | keepaliveTimeout (p : Nat)
  | ackThreshold (p : Nat)
  | sessionExhausted (p : Nat)
  | attestMessageReceive (p : Nat)(body : List Byte)
  | retrainTrigger (p : Nat)
  | retrainDone (p : Nat)(full half : BitVec 8)
  | lsrSend (p : Nat)
  | lsrReceive (p : Nat)(body : List Byte)
  | lsrTimeout (p : Nat)
  | slotCfgWrite (p : Nat)(w : Writer)(v : Word)
  | rotationStart (p : Nat)
  | slotGuardEnd (p : Nat)
  | slotWindowEnd (p : Nat)
  | circuitTrained (p i : Nat)(ok : Bool)
  | routeWrite (n : Nat)(w : Writer)(v : Word)
  | rankTableConfigWrite (k off : Nat)(w : Writer)(v : Word)
  | tsyncCtlWrite (w : Writer)(v : Word)
  | tsyncPeriod 
  | tsyncReceive (m : Msg)(t : Word)
  | remoteRequestReceive (m : Msg)
  | remoteResponseReceive (m : Msg)
  | holdTimeout (tag : Nat)
  | responseTimeout (tag : Nat)
  | flitCaddReceive (m : Msg)
  | chimReceive (m : Msg)
  | rsuspReceive (m : Msg)
  | rsackReceive (m : Msg)
  | rresumeReceive (m : Msg)
  | colltoExpiry (k i rank : Nat)
  | rgnEntryWrite (off : Nat)(w : Writer)(v : Word)
  | rgnSyncGo (w : Writer)(v : Word)
  | rgnSyncDone 
  | hostrdy 
  | reload 
  | hostrdyTimeout 
  | measExtend (w : Writer)(v : Word)
  | spdmRequest (req : List Byte)
  | hostMemWrite (pa : Nat)(data : List Byte)(poison : Bool)
  | hostMemRead (pa n : Nat)
  | secondTierReadArrival (pa : Nat)(data : List Byte)(poison : Bool)
  | ringCtlWrite (f : Nat)(w : Writer)(v : Word)
  | ringRestart (f : Nat)(w : Writer)(v : Word)
  | ringBaseWrite (f off : Nat)(w : Writer)(v : Word)
  | tailWriteCheck (f : Nat)
  | feQpushPush (f : Nat)(w : Writer)(v : Word)
  | feQpushStop (f : Nat)(w : Writer)(v : Word)
  | queueSpaceFreed (f : Nat)
  | cmdNop (k c : Nat)
  | cmdLaunchSlot (k c : Nat)
  | cmdGraphRun (k c : Nat)
  | cmdCoach (k c : Nat)
  | cmdCadd (k c : Nat)
  | cmdCwait (k c : Nat)
  | cmdSlotLoad (k c : Nat)
  | slotLoadDone (k slot : Nat)
  | cmdSlotEvict (k c : Nat)
  | slotEvictDone (k slot : Nat)
  | cmdMigrateFreeze (k c : Nat)
  | cmdMigrateThaw (k c : Nat)
  | cmdQbar (k c : Nat)
  | cmdStamp (k c : Nat)
  | cmdWaitCancel (k c : Nat)
  | completionPost (f : Nat)
  | wdogCfgWrite (f : Nat)(w : Writer)(v : Word)
  | wdogKick (f : Nat)(w : Writer)(v : Word)
  | watchdogExpiry (f : Nat)
  | t2CfgWrite (w : Writer)(v : Word)
  | partCreate (k : Nat)(w : Writer)(v : Word)
  | partDestroy (k : Nat)(w : Writer)(v : Word)
  | partBusyDone (k : Nat)
  | schedCfgWrite (k : Nat)(w : Writer)(v : Word)
  | graphCapture (k : Nat)
  | nodeTaskIssue (k : Nat)
  | nodeCoachIssue (k : Nat)
  | nodeQbarIssue (k : Nat)
  | nodeNopIssue (k : Nat)
  | nodeCancel (k : Nat)
  | stepDrained (k : Nat)
  | sweepClose (k : Nat)
  | sweepReturn (k : Nat)
  | taskStart (k t : Nat)
  | jobEnd (c : Nat)
  | taskEnd (k t : Nat)
  | fatalContextError (k t : Nat)(cause : Cause)
  | quantumExpiry (c : Nat)
  | jobPreemptSave (c : Nat)
  | jobRestore (c j : Nat)
  | residencyChange (c : Nat)
  | proxyPortAccess (k l : Nat)(a : ProxyOp)
  | psbDelivery (c : Nat)
  | deadlockFault (c : Nat)
  | shadowConfigWrite (k off : Nat)(w : Writer)(v : Word)
  | ctxResume (k : Nat)(w : Writer)(v : Word)
  | ptRootWrite (k : Nat)(w : Writer)(v : Word)
  | invGo (k : Nat)(w : Writer)(v : Word)
  | invDone (k : Nat)
  | phaseWriteback (c : Nat)
  | waitSatisfied (c : Nat)(e : Eng)
  | waitaReevaluate (ag : Agent)
  | timedIssue (c : Nat)(e : Eng)
  | exposedPipelineStall (c cycles : Nat)
  | serviceEntry (c : Nat)(cause : Cause)(aux : Word)
  | serviceOpportunity (c : Nat)
  | doubleFault (c : Nat)(cause : Cause)
  | cartCommandStart (c : Nat)(store : Bool)
  | cartCommandComplete (c : Nat)(store : Bool)(n : Nat)
  | cartCommandFail (c : Nat)(store : Bool)
  | mfCommandComplete (c : Nat)(e : Eng)(n : Nat)
  | mfAsyncFault (c : Nat)(e : Eng)(cause : Cause)
  | pairRendezvous (c : Nat)
  | rldResponse (c id : Nat)(fail : Cause)
  | coachStepIssue (k i rank : Nat)
  | coachStepSignal (k i peer : Nat)
  | coachPairFail (k i rank peer : Nat)(cause : Cause)
  | heldAddApply (k : Nat)
  | heldAddExpiry (k i : Nat)
  | sealEffectPoint (c : Nat)
  | regWrite (w : Writer)(addr : Nat)(v : Word)
  | nop (x : Args)
  | add (x : Args)
  | sub (x : Args)
  | and (x : Args)
  | or (x : Args)
  | xor (x : Args)
  | andn (x : Args)
  | shl (x : Args)
  | shr (x : Args)
  | sar (x : Args)
  | rol (x : Args)
  | min (x : Args)
  | max (x : Args)
  | minu (x : Args)
  | maxu (x : Args)
  | mul (x : Args)
  | mulh (x : Args)
  | addi (x : Args)
  | subi (x : Args)
  | andi (x : Args)
  | ori (x : Args)
  | xori (x : Args)
  | andni (x : Args)
  | shli (x : Args)
  | shri (x : Args)
  | sari (x : Args)
  | roli (x : Args)
  | mini (x : Args)
  | maxi (x : Args)
  | minui (x : Args)
  | maxui (x : Args)
  | muli (x : Args)
  | mulhi (x : Args)
  | mulhu (x : Args)
  | div (x : Args)
  | divu (x : Args)
  | rem (x : Args)
  | remu (x : Args)
  | cmpEq (x : Args)
  | cmpNe (x : Args)
  | cmpLt (x : Args)
  | cmpLe (x : Args)
  | cmpLtu (x : Args)
  | cmpLeu (x : Args)
  | cmpGt (x : Args)
  | cmpGe (x : Args)
  | cmpGtu (x : Args)
  | cmpGeu (x : Args)
  | cmpiEq (x : Args)
  | cmpiNe (x : Args)
  | cmpiLt (x : Args)
  | cmpiLe (x : Args)
  | cmpiLtu (x : Args)
  | cmpiLeu (x : Args)
  | cmpiGt (x : Args)
  | cmpiGe (x : Args)
  | cmpiGtu (x : Args)
  | cmpiGeu (x : Args)
  | movi (x : LArgs)
  | movhi (x : LArgs)
  | clz (x : Args)
  | ctz (x : Args)
  | popc (x : Args)
  | brev (x : Args)
  | bswap (x : Args)
  | sext8 (x : Args)
  | sext16 (x : Args)
  | sext32 (x : Args)
  | zext8 (x : Args)
  | zext16 (x : Args)
  | zext32 (x : Args)
  | shadd (x : Args)
  | alignup (x : Args)
  | aligndn (x : Args)
  | mzip (x : Args)
  | meven (x : Args)
  | modd (x : Args)
  | maddx (x : Args)
  | maddy (x : Args)
  | gand (x : Args)
  | gor (x : Args)
  | gxor (x : Args)
  | gandn (x : Args)
  | gset (x : Args)
  | gget (x : Args)
  | mov (x : Args)
  | sel (x : Args)
  | faddS (x : Args)
  | fsubS (x : Args)
  | fmulS (x : Args)
  | fdivS (x : Args)
  | fsqrtS (x : Args)
  | fminS (x : Args)
  | fmaxS (x : Args)
  | fmaS (x : Args)
  | fmsS (x : Args)
  | fnmaS (x : Args)
  | fabsS (x : Args)
  | fnegS (x : Args)
  | faddD (x : Args)
  | fsubD (x : Args)
  | fmulD (x : Args)
  | fdivD (x : Args)
  | fsqrtD (x : Args)
  | fminD (x : Args)
  | fmaxD (x : Args)
  | fmaD (x : Args)
  | fmsD (x : Args)
  | fnmaD (x : Args)
  | fabsD (x : Args)
  | fnegD (x : Args)
  | fcmpEq (x : Args)
  | fcmpLt (x : Args)
  | fcmpLe (x : Args)
  | fcmpUn (x : Args)
  | fcvtSD (x : Args)
  | fcvtDS (x : Args)
  | fcvtSL (x : Args)
  | fcvtDL (x : Args)
  | fcvtSLu (x : Args)
  | fcvtDLu (x : Args)
  | fcvtLS (x : Args)
  | fcvtLD (x : Args)
  | fcvtLuS (x : Args)
  | fcvtLuD (x : Args)
  | fcvtBS (x : Args)
  | fcvtHS (x : Args)
  | fcvtSB (x : Args)
  | fcvtSH (x : Args)
  | ldB (x : Args)
  | ldBu (x : Args)
  | ldH (x : Args)
  | ldHu (x : Args)
  | ldW (x : Args)
  | ldWu (x : Args)
  | ldD (x : Args)
  | stB (x : Args)
  | stH (x : Args)
  | stW (x : Args)
  | stD (x : Args)
  | ldspB (x : Args)
  | ldspBu (x : Args)
  | ldspH (x : Args)
  | ldspHu (x : Args)
  | ldspW (x : Args)
  | ldspWu (x : Args)
  | ldspD (x : Args)
  | stspB (x : Args)
  | stspH (x : Args)
  | stspW (x : Args)
  | stspD (x : Args)
  | rldB (x : Args)
  | rldBu (x : Args)
  | rldH (x : Args)
  | rldHu (x : Args)
  | rldW (x : Args)
  | rldWu (x : Args)
  | rldD (x : Args)
  | atomAdd (x : Args)
  | atomAnd (x : Args)
  | atomOr (x : Args)
  | atomXor (x : Args)
  | atomMin (x : Args)
  | atomMax (x : Args)
  | atomMinu (x : Args)
  | atomMaxu (x : Args)
  | atomSwap (x : Args)
  | atomCas (x : Args)
  | br (x : Args)
  | call (x : Args)
  | jr (x : Args)
  | loop (x : Args)
  | beos (x : Args)
  | join (x : Args)
  | halt (x : Args)
  | yield (x : Args)
  | svc (x : Args)
  | eret (x : Args)
  | cadd (x : Args)
  | caddi (x : Args)
  | cwait (x : Args)
  | crd (x : Args)
  | cinit (x : Args)
  | caddM (x : Args)
  | cwaitM (x : Args)
  | waita (x : Args)
  | fenceRel (x : Args)
  | fenceAcq (x : Args)
  | fenceAr (x : Args)
  | sealRange (x : Args)
  | unsealRange (x : Args)
  | qbar (x : Args)
  | dqpush (x : Args)
  | dqpop (x : Args)
  | dqsteal (x : Args)
  | dqlen (x : Args)
  | launch (x : Args)
  | launchT (x : Args)
  | xpose (x : Args)
  | csrr (x : Args)
  | csrw (x : Args)
  | csrs (x : Args)
  | csrc (x : Args)
  | rprobe (x : Args)
  | rttld (x : Args)
  | pbind (x : Args)
  | punbind (x : Args)
  | ppos (x : Args)
  | tcfg (x : Args)
  | tcfgZ (x : Args)
  | tval (x : Args)
  | tdesc (x : Args)
  | tld (x : Args)
  | tst (x : Args)
  | tadd (x : Args)
  | tsub (x : Args)
  | tmul (x : Args)
  | tdiv (x : Args)
  | tmin (x : Args)
  | tmax (x : Args)
  | tand (x : Args)
  | tor (x : Args)
  | txor (x : Args)
  | tshl (x : Args)
  | tshr (x : Args)
  | tabsd (x : Args)
  | tfma (x : Args)
  | tfms (x : Args)
  | tfnma (x : Args)
  | tsel (x : Args)
  | tabs (x : Args)
  | tneg (x : Args)
  | tsqrt (x : Args)
  | trcp (x : Args)
  | trsq (x : Args)
  | texp2 (x : Args)
  | texp (x : Args)
  | tlog2 (x : Args)
  | tln (x : Args)
  | tsin (x : Args)
  | tcos (x : Args)
  | ttanh (x : Args)
  | tsigm (x : Args)
  | tcmpEq (x : Args)
  | tcmpNe (x : Args)
  | tcmpLt (x : Args)
  | tcmpLe (x : Args)
  | tcmpGt (x : Args)
  | tcmpGe (x : Args)
  | tcmpUn (x : Args)
  | tcmul (x : Args)
  | tconj (x : Args)
  | tcmulc (x : Args)
  | tcvt (x : Args)
  | tcvtSc (x : Args)
  | tdq (x : Args)
  | trsum (x : Args)
  | trmax (x : Args)
  | trmin (x : Args)
  | tcsum (x : Args)
  | tcmax (x : Args)
  | tcmin (x : Args)
  | tscanAdd (x : Args)
  | tscanMax (x : Args)
  | ttrn (x : Args)
  | tperm (x : Args)
  | tshuf (x : Args)
  | tgath (x : Args)
  | tscat (x : Args)
  | tbcr (x : Args)
  | tbcc (x : Args)
  | tbcs (x : Args)
  | tmov (x : Args)
  | text (x : Args)
  | tins (x : Args)
  | tiota (x : Args)
  | tfill (x : Args)
  | mmaFp8 (x : MArgs)
  | mmaFp6 (x : MArgs)
  | mmaFp4 (x : MArgs)
  | mmaBf16 (x : MArgs)
  | mmaFp16 (x : MArgs)
  | mmaFp32 (x : MArgs)
  | mmaFp64 (x : MArgs)
  | mmaInt8 (x : MArgs)
  | accld (x : CArgs)
  | accst (x : CArgs)
  | accclr (x : CArgs)
  | accstg (x : CArgs)
  | fft (x : CArgs)
  | ifft (x : CArgs)
  | rfft (x : CArgs)
  | irfft (x : CArgs)
  | fplan (x : CArgs)
  | leggen (x : CArgs)
  | ftwm (x : CArgs)
  | ccopy (x : CArgs)
  | cmort (x : CArgs)
  | cgath (x : CArgs)
  | cscat (x : CArgs)
  | cred (x : CArgs)
  | ired (x : CArgs)
  | atomnAdd (x : CArgs)
  | atomnAnd (x : CArgs)
  | atomnOr (x : CArgs)
  | atomnXor (x : CArgs)
  | atomnMin (x : CArgs)
  | atomnMax (x : CArgs)
  | atomnMinu (x : CArgs)
  | atomnMaxu (x : CArgs)
  | atomnSwap (x : CArgs)
  | put (x : CArgs)
  | get (x : CArgs)
  | porstNAssert 
  | vauxLoss 
  | writeAccepted (c : Nat)
  | bootWindowWrite (off : Nat)(data : List Byte)
  | unassignedOpcode (cause : Cause)
  deriving DecidableEq, Repr

end Sys2Proof
end

