-- ==== Sys2Proof/Machine/CoreState.lean ====
section
/-! DEFINITION. The state of a core, of a job and of a stream, as plain data (chapters 06 to 08 and 14 of the spec). -/
namespace Sys2Proof.Machine

/-- What a party knows of published global writes: every granule holds at least the newest version published at or before
`base`, and granule `g` at least version `per g` (R291, R298). -/
structure Know where
  base : Nat
  per : Assoc Nat
  deriving DecidableEq, Repr

/-- The parties of a scope (R296): a package, a partition, a logical core of it, and the agent itself. -/
structure Party where
  pkg : Nat
  part : Nat
  lcore : Option Nat
  agent : Nat
  deriving DecidableEq, Repr

/-- A release as an acquirer may gain it (R298). -/
structure Rel where
  party : Party
  scope : Nat
  know : Know
  deriving DecidableEq, Repr

/-- A phase of a stream: its number, the publication count when it opened, and what it gained by then (R290, R291). -/
structure Phase where
  id : Nat
  openSeq : Nat
  know : Know
  deriving DecidableEq, Repr

/-- A counter named by an instruction: a core counter, or a counter reference (R355, R393). -/
inductive CRef | core (n : Nat) | mem (ref : Word)
  deriving DecidableEq, Repr

/-- A wait that a stream is stopped at: the counter, or for WAITA the word, the threshold, and the scope of its acquire. -/
structure WaitRec where
  ref : CRef
  waita : Bool
  thr : Nat
  acq : Option Nat
  deriving DecidableEq, Repr

/-- Why a stream does not advance, where it does not (R182, R236). -/
inductive Block
  | none | chan | port | pbind | cwait | cmdWait (core : Bool) | cartFull | memWait | launch | stamp | pair | qbar | sealing
  | custody | engine | park
  deriving DecidableEq, Repr

/-- Whether a stream runs, has executed JOIN, is stopped at a precise fault or SVC (R264), or is halted; idle where no job
has the stream. -/
inductive HStat | idle | running | joined | stopped (cause : Cause) (svc : Bool) | halted
  deriving DecidableEq, Repr

/-- An operand entry of a restart record (R286): which operand it is (0 D, 1 A, 2 B, 3 the selector in IMM[7:0], 4 the one in
IMM[15:8]), whether it stands for a tile of a port, the port or channel, and the value, the handle or the position. -/
structure Opnd where
  which : Nat
  tile : Bool
  idx : Nat
  value : Word
  deriving DecidableEq, Repr

/-- A restart record (R286). -/
structure Restart where
  pc : Nat
  cursor : Nat
  ckind : Nat
  opnds : List Opnd
  deriving DecidableEq, Repr

/-- One hardware context: a stream (R231), a service context (R260), a front end (R131) or the management controller. -/
structure Hart where
  pc : Nat
  s : Assoc Word
  g : Assoc Bool
  cause : Cause                 -- SR.CAUSE
  fpf : BitVec 5                -- SR.FPF
  stat : HStat
  blocked : Block
  wait : Option WaitRec
  newLine : Bool                -- the next fetch crosses a line boundary (R349)
  restart : Restart
  grant : Bool                  -- CONTINUE: the timed command issues without its stamp (R264)
  priv : Assoc Byte             -- private writes, by virtual address (R292)
  shown : Assoc Byte             -- the published part of the overlay (R290)
  phases : List Phase           -- the phase open now first, earlier ones behind it
  know : Know                   -- what the stream has gained and published
  lastWait : List Rel           -- the prefix of adds of its last satisfied plain wait (R299)
  fenceRel : Option Nat         -- the release of a fence, for the next plain add (R299)
  pairs : Nat                   -- MMA.P commands issued so far (R450)
  deriving DecidableEq, Repr

/-- A core counter of a job (R256). -/
structure Counter where
  phys : Word
  base : Word
  poison : Option Cause
  rels : List Rel
  deriving DecidableEq, Repr

/-- What lies with a memory counter beside its value: the poison flag with its cause (R259) and the adds that carry releases. -/
structure MemCounter where
  poison : Option Cause
  rels : List Rel
  deriving DecidableEq, Repr

/-- Storage with a written bit per 64-byte granule (R197): bytes of granules whose bit is clear read zero. -/
structure Store where
  bytes : Assoc Byte
  written : Assoc Bool
  deriving DecidableEq, Repr

/-- A tile descriptor (R241). -/
structure Desc where
  vcols : Nat
  vrows : Nat
  v : Bool
  morton : Bool
  typ : Nat
  colsM1 : Nat
  rowsM1 : Nat
  cap : Nat
  base : Nat
  deriving DecidableEq, Repr

/-- A channel entry (R247, R249): a scalar, a tile handle, or the place of a remote load. -/
inductive Entry | scalar (w : Word) | handle (t : Nat) | reserved (id : Nat)
  deriving DecidableEq, Repr

/-- A captured pattern descriptor (R250), with BASE′ formed (R251). -/
structure Pattern where
  raw : List Byte
  base : Nat
  write : Bool
  scratch : Bool
  tile : Bool
  faultEnd : Bool
  unb : Bool
  typ : Nat
  trows : Nat
  tcols : Nat
  tpitch : Nat
  ext : List Nat
  str : List Int
  deriving DecidableEq, Repr

/-- A bound stream port (R252–R254). EOS stays set until the next binding. -/
structure Port where
  bound : Bool
  pat : Pattern
  pos : Nat
  eng : Eng
  eos : Bool
  deriving DecidableEq, Repr

/-- An entry of the range translation table (R275); `stale` marks an entry that an invalidation covers and that is walked
again before its next use (R282). -/
structure Rtt where
  base : Nat
  limit : Nat
  offset : Nat
  dref : Nat
  dkind : Bool
  integ : Bool
  sealed : Bool
  ms : Bool
  w : Bool
  v : Bool
  stale : Bool
  deriving DecidableEq, Repr

/-- A Cart record (R474). -/
structure CartRec where
  src : Word
  dst : Word
  ssp : Nat
  dsp : Nat
  typ : Nat
  ndim : Nat
  op : Nat
  ext : List Nat
  sstr : List Int
  dstr : List Int
  raw : List Byte
  deriving DecidableEq, Repr

/-- The clauses of a command (R354): its wait and whether it acquires; its signal, increment and whether it releases. -/
structure Clauses where
  wait : Option CRef
  thr : Nat
  acq : Bool
  sig : Option CRef
  sinc : Nat
  rel : Bool
  deriving DecidableEq, Repr

/-- A command in a Cart queue (R233, R471): the two slots as issued, what was captured at issue, and how far it is. -/
structure CartCmd where
  id : Nat
  w0 : Word
  w1 : Word
  opc : Nat
  fn : Nat
  mod : BitVec 4
  pc : Nat
  cr : CartRec
  a : Word
  b : Word
  cl : Clauses
  started : Bool
  dest : Option (Nat × Nat)       -- the rank of a PUT or GET: its package and logical core
  sent : Bool                   -- its messages to another package have left
  done : Nat                    -- rows, entries or granules done
  sub : Nat                     -- bytes done of the row under way
  entry : Option Nat            -- the index entry of that row
  gs : List (Nat × Nat)         -- granules of global memory written, with the versions that the writes made (R303)
  bad : Option (Cause × Word × Nat)  -- the first failed source block, delivered at completion (R126)
  floor : Know                  -- what its reads hold at least (R302)
  deriving DecidableEq, Repr

/-- A tile operand as a command holds it: a tile of the tile store by its descriptor, the content of a port's tile in global
memory as read at issue, or a port's tile in a scratchpad by its pattern position, read as the command runs (R285). -/
inductive TileRef
  | store (d : Desc)
  | data (d : Desc) (rows : List (List Nat))
  | scratch (p : Pattern) (pos : Nat)
  deriving DecidableEq, Repr

/-- What an issued M or F command does (R449, R454–R457, R462–R469). -/
inductive MfOp
  | mma (opc : Nat) (z t pair : Bool) (bank : Nat) (a b : TileRef) (sa sb : Option TileRef) (gran : Nat)
  | accld (bank : Nat) (a : TileRef)
  | accst (d : Desc) (port : Option (Nat × Pattern × Nat)) (bank af : Nat) (rm : Nat) (sat : Bool)
  | accclr (bank : Nat)
  | accstg (addr pitch : Word) (bank af : Nat) (rows cols typ : Nat) (sp : Bool) (rm : Nat) (sat : Bool)
  | fft (inv scale : Bool) (a : TileRef) (d : Desc) (n : Nat) (seq : List Nat)
  | rfft (inv scale : Bool) (a : TileRef) (d w : Desc) (n : Nat) (seq : List Nat)
  | fplan (d : Desc) (w0 w1 : Word)
  | leggen (t : Bool) (a : TileRef) (d : Desc) (port : Option (Nat × Pattern × Nat)) (m l0 : Nat)
  | ftwm (a : TileRef) (d : Desc) (port : Option (Nat × Pattern × Nat)) (n : Nat) (inv : Bool) (row0 col0 : Nat)
  deriving DecidableEq, Repr

/-- An issued M or F command that has not completed (R441, R443). -/
structure MfCmd where
  op : MfOp
  cursor : Nat
  units : Nat                   -- restart units in all
  ckind : Nat
  cl : Clauses
  pc : Nat
  push : Option (Nat × Nat)     -- the channel and the tile register whose handle goes there at the end (R411)
  visible : Nat                 -- the issue-clock cycle of R459 from which its result is visible
  exact : Bool                  -- issued on a locked cluster: the times are exact
  gs : List (Nat × Nat)         -- granules of global memory written, with the versions that the writes made (R303)
  deriving DecidableEq, Repr

/-- A result in the pipeline snapshot buffer (R208). -/
structure Psb where
  cmd : MfCmd
  eng : Eng
  left : Nat                    -- issue-clock cycles left before delivery
  deriving DecidableEq, Repr

/-- A remote load in flight into a channel (R249, R387). -/
structure Rld where
  id : Nat
  chan : Nat
  pc : Nat
  addr : Word
  pa : Nat                      -- as translated at issue
  size : Nat
  signed : Bool
  deriving DecidableEq, Repr

/-- An MMA.P that has reached its rendezvous (R451): what its pair is checked by, and the command; `n` is 0 without a B. -/
structure PairReq where
  opc : Nat
  z : Bool
  t : Bool
  gran : Nat
  bank : Nat
  k : Nat
  n : Nat
  bNone : Bool
  sbNone : Bool
  stamped : Bool
  cmd : MfCmd
  deriving DecidableEq, Repr

/-- The units of the M and F engines: the issue-clock cycle from which each is free (R459). -/
structure Units where
  array : Nat
  port : Nat
  fpipe : Nat
  bank0 : Nat
  bank1 : Nat
  mNext : Nat                   -- the cycle from which the M stream may issue again: one command per cycle
  fNext : Nat
  deriving DecidableEq, Repr

/-- A job (R196): everything that is saved with it except its streams' contexts. -/
structure Job where
  live : Bool                   -- the core has a job
  id : Nat
  part : Nat
  task : Nat
  cls : Nat
  lcore : Nat                   -- logical core of the partition
  first : Nat
  nlc : Nat
  emask : BitVec 4
  step : Word
  slot : Nat
  timed : Bool
  stampb : Word                 -- SR.STAMPB
  j : Nat                       -- the issue clock
  stall : Nat                   -- timebase cycles for which an exposed-pipeline stall still freezes it (R268)
  desc : Assoc (BitVec 128)
  tstore : Store
  c0 : Store
  c1 : Store
  chans : Assoc (List Entry)
  ports : Assoc Port
  counters : Assoc Counter
  rtt : Assoc Rtt
  deque : List (Word × List Rel)  -- head first
  dqHead : Nat                  -- entries ever taken from the head, modulo 256
  loadQ : List CartCmd
  storeQ : List CartCmd
  mcmds : List MfCmd
  fcmds : List MfCmd
  psb : List Psb
  rlds : List Rld
  rldFault : List (Rld × Cause) -- failures not yet raised (R387)
  privOrder : List (Nat × Nat)  -- stream and virtual granule of the private writes, oldest first (R293)
  pairReq : Option PairReq
  units : Units
  qbar : Bool                   -- waits in a QBAR instruction (R399)
  quantumOver : Bool
  stopping : Bool               -- stops at its next pre-emption points (R181)
  issueTime : Nat
  rel : Assoc Word              -- REL0–REL15 the job runs with (R179)
  deriving DecidableEq, Repr

/-- A core (R231). -/
structure Core where
  job : Job
  resting : Assoc Word          -- resting values of K0–K255 (R256)
  rel : Assoc Word              -- REL0–REL15
  resident : Nat                -- the resident logical core (R225)
  share : Nat                   -- SR.SHARE (R261)
  fqHead : Nat                  -- SR.FQSTAT (R263)
  fqTail : Nat
  fqLost : Nat
  oppWindow : List Bool         -- the last opportunities at which the service context had work: taken or not (R261)
  opportunity : Bool            -- an opportunity is open
  svcMem : Assoc Byte           -- service memory
  dirtied : List Nat            -- pages whose dirty bit the core has set since their last invalidation (R279)
  deadCycles : Nat              -- cycles for which the conditions of R236 have held
  deriving DecidableEq, Repr

/-- A job in its job frame: the job and the contexts of its A, X, M and F streams (R202). -/
structure Frame where
  job : Job
  harts : List Hart
  running : Bool
  fresh : Bool                  -- its job starts when its logical core first becomes resident (R226)
  bad : Bool                    -- an uncorrectable error lies in the frame (R228)
  deriving DecidableEq, Repr

def Know.zero : Know := ⟨0, []⟩
def Restart.empty : Restart := ⟨0, 0, 0, []⟩
def Store.empty : Store := ⟨[], []⟩
def Pattern.empty : Pattern := ⟨[], 0, false, false, false, false, false, 0, 0, 0, 0, [], []⟩
def Port.unbound : Port := ⟨false, .empty, 0, .A, false⟩
def Counter.zero : Counter := ⟨0#64, 0#64, none, []⟩
def MemCounter.clear : MemCounter := ⟨none, []⟩
def Rtt.invalid : Rtt := ⟨0, 0, 0, 0, false, false, false, false, false, false, false⟩

def Hart.reset : Hart :=
  { pc := 0, s := [], g := [], cause := 0#10, fpf := 0#5, stat := .idle, blocked := .none, wait := none, newLine := false,
    restart := .empty, grant := false, priv := [], shown := [], phases := [], know := .zero, lastWait := [], fenceRel := none,
    pairs := 0 }

def Job.absent : Job :=
  { live := false, id := 0, part := 0, task := 0, cls := 0, lcore := 0, first := 0, nlc := 0, emask := 0#4, step := 0#64,
    slot := 0, timed := false, stampb := 0#64, j := 0, stall := 0, desc := [], tstore := .empty, c0 := .empty, c1 := .empty, chans := [],
    ports := [], counters := [], rtt := [], deque := [], dqHead := 0, loadQ := [], storeQ := [], mcmds := [], fcmds := [],
    psb := [], rlds := [], rldFault := [], privOrder := [], pairReq := none, units := ⟨0, 0, 0, 0, 0, 0, 0⟩, qbar := false,
    quantumOver := false, stopping := false, issueTime := 0, rel := [] }

/-- A core after reset; SR.SHARE resets to 2 (R261). -/
def Core.reset : Core :=
  { job := .absent, resting := [], rel := [], resident := 0, share := 2, fqHead := 0, fqTail := 0, fqLost := 0,
    oppWindow := [], opportunity := false, svcMem := [], dirtied := [], deadCycles := 0 }

end Sys2Proof.Machine
end

