-- ==== Sys2Proof/Machine/PartState.lean ====
section
/-! DEFINITION. The state of a partition: its hearth slots, command queues, tasks, sequencer and Coach transfers
(chapters 04 to 06 and 14 of the spec). -/
namespace Sys2Proof.Machine

/-- The states of a hearth slot (R148). -/
inductive SlotState | empty | loading | resident | evicting
  deriving DecidableEq, Repr

/-- A pinned range and its flag (R149). -/
structure Pin where
  base : Nat
  limit : Nat
  flag : Bool
  deriving DecidableEq, Repr

/-- A hearth slot (R148–R150, R175). -/
structure Slot where
  state : SlotState
  gen : Nat
  world : Bool
  image : Assoc Byte
  imglen : Nat
  step : Word
  launched : Bool
  pins : List Pin
  deriving DecidableEq, Repr

/-- Where a queue entry stands (R145, R166): waiting for its turn and its wait; its action under way; its action done. -/
inductive Stage | queued | acting | acted
  deriving DecidableEq, Repr

/-- An entry of a class queue (R165): a host entry group (with the buffer addresses of its continuations), a child inserted
by LAUNCH (with the REL values of the job that executed it), or a Coach entry inserted by XPOSE. -/
structure QEntry where
  source : Nat                  -- 0 host, 1 LAUNCH child, 2 XPOSE
  bytes : List Byte
  rels : List Word
  cmdidx : Nat
  reserve : Bool
  parent : Nat
  slot : Nat                    -- the slot and the step of a child's or XPOSE's parent (R183)
  step : Word
  stage : Stage
  gained : List Rel             -- releases its start gains
  deriving DecidableEq, Repr

/-- A completion event waiting to be published (R151, R152). -/
structure Cpl where
  kind : Nat
  irq : Bool
  tag : Nat
  status : Cause
  steplo : Nat
  value : Word
  cmdidx : Nat
  deriving DecidableEq, Repr

/-- A live task (R185): from its dispatch until its last job ends. -/
structure Task where
  node : List Byte
  cls : Nat
  slot : Nat
  step : Word
  parent : Nat
  started : Bool
  jobs : List Nat               -- its jobs that have not ended
  rels : Option (List Word)     -- REL values of a child (R183)
  firstUsed : Bool              -- its reserve entry has been used (R184)
  fatal : Option Cause
  gained : List Rel
  jobRels : List Rel            -- the device-scope releases of its ended jobs' streams
  deriving DecidableEq, Repr

/-- The states of a sequencer (R163). -/
inductive SeqState | idle | capture | issue | drain | sweep | frozen
  deriving DecidableEq, Repr

/-- A graph sequencer (R172). -/
structure Seq where
  state : SeqState
  before : SeqState             -- the state saved by a freeze
  node : Nat
  slot : Nat
  cause : Cause
  stepsLeft : Nat
  step : Word
  hdr : List Byte
  nodes : List (List Byte)
  entry : Option QEntry
  qbarNode : Bool               -- a QBAR node's sweep is open
  deriving DecidableEq, Repr

/-- Who started a sweep (R191). -/
inductive SweepBy | stepEnd | node (i : Nat) | entry (e : QEntry) | instr (task : Nat) | freeze
  deriving DecidableEq, Repr

/-- An open pair of sweeps (R188, R190): its QBAR number, the sums of each sweep once it has returned, and whether it has met
R188. -/
structure Sweep where
  by_ : SweepBy
  num : Nat
  first : Option (Nat × Nat)
  second : Option (Nat × Nat)
  met : Bool
  deriving DecidableEq, Repr

/-- The sums of a child package for a sweep (R100): the package, the QBAR number, the sweep, sent and received. -/
structure Chim where
  pkg : Nat
  num : Nat
  sweep : Nat
  sent : Nat
  recv : Nat
  deriving DecidableEq, Repr

/-- A Coach transfer (R489–R495, R516): where it comes from, its class and number, its parameter block, and how far it is. What
concerns step `t` and rank `r` is listed under 65,536 × `t` + `r`. -/
structure Transfer where
  source : Nat                  -- 0 host entry, 1 node, 2 XPOSE
  cls : Nat
  num : Nat
  owner : Nat                   -- owner task
  node : Nat
  entry : Option QEntry
  block : List Byte
  step : Nat                    -- the step under issue
  issued : List Nat             -- source ranks that have issued it
  opened : List Nat             -- steps counted at the Coach node (R189)
  outTo : Assoc Nat             -- bytes sent to a peer and not accepted yet
  outFrom : Assoc Nat           -- and by source rank
  bytesTo : Assoc Nat           -- bytes accepted at a peer
  bytesFrom : Assoc Nat
  wrote : Assoc Know            -- what the writes to a peer have published
  toSignal : List Nat           -- peers whose add is to come
  toDrain : List Nat            -- source ranks whose drain add is to come
  failed : List (Nat × Nat × Cause)  -- failed pairs not yet delivered: step and source rank, peer, cause
  cause : Cause                 -- the first failure recorded (R519)
  base : Nat                    -- writes published when the transfer began (R302)
  gained : List Rel
  deriving DecidableEq, Repr

/-- A held Coach add (R517): its class, number, rank, counter, amount or poison, and release. -/
structure Held where
  cls : Nat
  num : Nat
  rank : Nat
  counter : Nat
  amount : Word
  poison : Option Cause
  rel : Option Rel
  payload : List Byte
  deriving DecidableEq, Repr

/-- Ranks of this partition that a peer package or this one has suspended (R101, R102). -/
structure Susp where
  pkg : Nat
  first : Nat
  last : Nat
  epoch : Nat
  deriving DecidableEq, Repr

/-- A partition (R159–R164). -/
structure Part where
  slots : Assoc Slot
  queues : Assoc (List QEntry)  -- by class
  coachNum : Assoc Nat
  tasks : Assoc Task
  nextTask : Nat
  seq : Seq
  cpl : List Cpl
  sweeps : List Sweep           -- open pairs: at most one that counts job tokens, and one for each task in QBAR
  chims : List Chim
  running : List QEntry         -- dispatched entries not complete
  transfers : Assoc Transfer
  nextTransfer : Nat
  held : List Held
  owners : Assoc Nat            -- owner tasks, plus 1, of the XPOSE transfers dispatched so far, by 4 × number + class (R516)
  custody : Assoc (Nat × Nat)   -- received and sent by node of the chimney tree (R189)
  closed : Nat                  -- published writes counted when a sweep last closed (R314)
  lastStep : Word               -- step count of the slot the sequencer last advanced (R175)
  issueTime : Assoc Nat         -- issue time by core and class (R180)
  ready : Assoc (List Nat)      -- ready jobs by core and class, head first (R180)
  susp : List Susp
  epoch : Nat
  acks : List (Nat × Nat)       -- packages whose RSACK is outstanding, with the epoch
  lcores : Nat                  -- logical cores
  phys : List Nat               -- physical cores in R161 order
  holdWdog : Bool               -- third watchdog expiry: queues stop dispatching (R157)
  expiries : List Nat           -- times of the last watchdog expiries
  invs : List (Nat × Nat)       -- the range of the invalidation in progress (R282)
  seals : List (Nat × Nat × Nat × Bool)  -- SEAL and UNSEAL in progress: core, range, which
  deriving DecidableEq, Repr

def Slot.reset : Slot :=
  { state := .empty, gen := 0, world := false, image := [], imglen := 0, step := 0#64, launched := false, pins := [] }

def Seq.reset : Seq :=
  { state := .idle, before := .idle, node := 0, slot := 0, cause := 0#10, stepsLeft := 0, step := 0#64, hdr := [], nodes := [],
    entry := none, qbarNode := false }

def Task.absent : Task :=
  { node := [], cls := 0, slot := 0, step := 0#64, parent := 0, started := false, jobs := [], rels := none,
    firstUsed := false, fatal := none, gained := [], jobRels := [] }

def Part.reset : Part :=
  { slots := [], queues := [], coachNum := [], tasks := [], nextTask := 0, seq := .reset, cpl := [], sweeps := [], chims := [],
    running := [], transfers := [], nextTransfer := 0, held := [], custody := [], closed := 0,
    lastStep := 0#64, issueTime := [], ready := [], susp := [], epoch := 0, acks := [], owners := [], lcores := 0, phys := [],
    holdWdog := false, expiries := [], invs := [], seals := [] }

end Sys2Proof.Machine
end

