-- ==== Sys2Proof/Machine/DevState.lean ====
section
/-! DEFINITION. The state of the I/O chiplet beside its registers: power, boot, optical links, remote requests
(chapters 01 to 03 of the spec). Registers themselves are one array by MMIO address. -/
namespace Sys2Proof.Machine

/-- Power management beside its registers (R24–R44). -/
structure Power where
  porst : Bool                  -- PORST_N asserted
  seqStep : Nat                 -- step of the power-up sequence the management controller is at; 0 before it (R44)
  training : Assoc Nat          -- running training steps: HBM stacks from 0, optical ports from 16 (R48, R52)
  dieHot : Assoc Bool           -- clusters (0–3) and the I/O chiplet (4) under the die throttle (R40)
  hbmHot : Assoc Bool           -- stacks under the HBM throttle
  hbmRef : Assoc Bool           -- stacks with double refresh
  eff : Assoc Nat               -- the highest point the capping loop lets each cluster run at (R36); 2 where it has not lowered it
  target : Assoc Nat            -- the point a transition under way moves to (R28)
  hbmRate : Nat                 -- HBM request rate of the capping loop, percent (R36)
  samples : Nat                 -- power measurements so far
  above : Nat                   -- consecutive 100 µs samples above PL1 (R37)
  calm : Nat                    -- consecutive measurements below PL1 (R37)
  cool : Assoc Nat              -- consecutive samples 5 °C below a threshold: dies from 0, double refresh from 16, stacks from 32 (R40)
  below : Nat                   -- consecutive ticks below PL1 − 100 W (R36)
  thermtrip : Bool              -- THERMTRIP_N asserted (R40)
  deriving DecidableEq, Repr

/-- The boot chain (R113–R120): what the ROM is doing, the staged image, the fuses and the straps. -/
structure Boot where
  step : Nat                    -- step of R116; 0 not running
  host : Bool                   -- the source is the host
  hostrdy : Bool
  staging : Assoc Byte          -- staging SRAM
  straps : Nat                  -- boot-source straps
  keyhash : Assoc Byte          -- four KEYHASH slots of 48 bytes
  revoked : BitVec 4
  minsvn : Nat
  secret : Assoc Byte           -- device unique secret
  dbgFuse : Bool
  serial : Word
  flash : Assoc Byte            -- SPI flash
  svn : Nat
  measD : Assoc Word            -- MEAS_D0–MEAS_D5
  mbox : List Byte              -- the DOE mailbox's last response (R121)
  deriving DecidableEq, Repr

/-- A flit as sent or received (R57, R58): header and payload in clear. -/
structure Flit where
  hdr : BitVec 128
  payload : List Byte
  deriving DecidableEq, Repr

/-- A message in a send queue (R75): its virtual channel, bytes already sent, and whether it is parked (R102). -/
structure SendMsg where
  key : Nat
  vc : Nat
  msg : Msg
  sent : Nat
  parked : Bool
  deriving DecidableEq, Repr

/-- A session (R61–R64): secret, sequence numbers and replay buffer. -/
structure Session where
  secret : List Byte            -- empty: none yet
  sendSeq : Nat
  expect : Nat                  -- e of R63
  nextSeq : Nat                 -- the last accepted number but LSR, plus 1 (R68)
  keyed : Bool                  -- a circuit's session runs: it has been unlocked and not locked since (R66, R78)
  nakOut : Bool                 -- a NAK is outstanding
  failsAtE : Nat                -- tag failures with SEQ = e, e unchanged
  fails : Nat                   -- consecutive tag failures
  replay : List (Nat × Flit)    -- unacknowledged sequenced flits, oldest first
  resend : List (Nat × Flit)    -- flits to send again, before any new one
  accepted : Nat                -- sequenced flits accepted since the last ACK sent (R503)
  lsrPeer : List Byte           -- the peer's record held (R69)
  attempt : Nat
  own : Nat × Nat × Nat         -- own record of this attempt: WIDTH, LANEMAP, SPEED
  deriving DecidableEq, Repr

/-- An optical port's link beside its registers (R56–R82). -/
structure Link where
  sess : Assoc Session          -- the session of packet mode under 4096, those of circuits under their ids
  queue : List SendMsg          -- messages in their send queues, in arrival order
  waiting : List SendMsg        -- messages that wait at the port's input for a queue (R75)
  rr : Nat                      -- the queue key the round-robin is at
  partial_ : Assoc (List Byte)  -- bytes of unfinished messages by virtual channel
  attest : List Byte            -- bytes of an unfinished ATTEST message (R65)
  attestIn : List (List Byte)   -- ATTEST messages for the secure firmware
  draining : Bool               -- EN = 0 written, the port drains (R56)
  table : List Word             -- the slot table captured for the running rotation (R77)
  running : Bool                -- a rotation runs
  entry : Nat                   -- its entry
  window : Bool                 -- the entry's window is open
  mark : Nat                    -- SR.DCC at which the rotation to come, the guard or the window under way began (R76)
  silent : Bool                 -- sends nothing since SYNC was lost (R79)
  late : Option Word            -- the entry whose window closed last, up to the end of the guard that follows (R503)
  record : Nat × Nat × Nat      -- lanes, width and speed as trained: the record of attempt 1 (R68)
  out : List (List Byte)        -- flits that have left by the port, newest first
  deriving DecidableEq, Repr

/-- Who waits for a remote request's answer (R95). -/
inductive Requester
  | hart (agent : Nat)                          -- a load or atomic of an agent
  | rld (core id : Nat)
  | write (core : Nat)                          -- a published store
  | cart (core id : Nat)
  | engine (core eng : Nat)                     -- the rows an M or F command writes to memory
  | coach (part transfer rank peer : Nat)
  | add (core : Nat)
  deriving DecidableEq, Repr

/-- A remote request without its answer yet (R94–R96), by request tag. -/
structure Remote where
  who : Requester
  part : Nat
  msg : Msg
  port : Nat
  answer : Option (Cause × List Byte)
  bytes : Nat
  deriving DecidableEq, Repr

/-- One effect on its way to its ordering point (R94, R292): published bytes of a granule, a counter add that may carry a
release, or a store or an add that has left for another package under a request tag. Releases are numbered; 0 is none. -/
inductive OutOp
  | store (va pa : Nat) (data : List (Nat × Byte)) (rel : Nat)
  | add (ref : CRef) (amount : Word) (rel : Nat)
  | remote (tag : Nat) (rel : Nat)
  deriving DecidableEq, Repr

/-- A release (R292, R297): who made it, its scope, what an acquirer gains, and how many of its writes are not yet accepted. -/
structure RelInfo where
  party : Party
  scope : Nat
  know : Know
  pending : Nat
  deriving DecidableEq, Repr

/-- An effect waiting for acceptance, with the job and the agent that made it. -/
structure Out where
  core : Nat
  job : Nat
  agent : Nat
  op : OutOp
  deriving DecidableEq, Repr

/-- What lies with a 256-byte block beside its data (R122, R123, R127): the stored check value XOR the data's own, an
uncorrectable ECC error, and the poison bit with the cause of the poisoning. -/
structure Meta where
  synd : BitVec 32
  ecc : Bool
  poison : Option Cause
  deriving DecidableEq, Repr

/-- A superseded version of a 64-byte granule: when it was published, its bytes, and whether it was written poisoned (R515). -/
structure Ver where
  seq : Nat
  data : List Byte
  poison : Option Cause
  deriving DecidableEq, Repr

def Power.reset : Power :=
  { porst := true, seqStep := 0, training := [], dieHot := [], hbmHot := [], hbmRef := [], eff := [], target := [], hbmRate := 100,
    samples := 0, above := 0, calm := 0, cool := [], below := 0, thermtrip := false }

def Boot.reset : Boot :=
  { step := 0, host := false, hostrdy := false, staging := [], straps := 0, keyhash := [], revoked := 0#4, minsvn := 0,
    secret := [], dbgFuse := false, serial := 0#64, flash := [], svn := 0, measD := [], mbox := [] }

def Session.fresh : Session :=
  { secret := [], sendSeq := 0, expect := 0, nextSeq := 0, keyed := false, nakOut := false, failsAtE := 0, fails := 0, replay := [], resend := [],
    accepted := 0, lsrPeer := [], attempt := 0, own := (0, 0, 0) }

def Link.reset : Link :=
  { sess := [], queue := [], waiting := [], rr := 0, partial_ := [], attest := [], attestIn := [], draining := false, table := [],
    running := false, entry := 0, window := false, mark := 0, silent := false, late := none, record := (0, 0, 0), out := [] }

def RelInfo.nobody : RelInfo := ⟨⟨0, 0, none, 0⟩, 0, .zero, 0⟩

def Meta.clear : Meta := ⟨0#32, false, none⟩

end Sys2Proof.Machine
end

