-- ==== Sys2Proof/Machine/Regs.lean ====
section
/-! DEFINITION. The MMIO registers: their offsets from 0xF_0000_0000_0000, reset values and access types (R5, R6), block by
block as the chapters give them. -/
namespace Sys2Proof.Machine

/-- The base of the MMIO range. -/
def mmioBase : Nat := 0xF000000000000

namespace Reg
def railEn : Nat := 0x01000000
def railStat : Nat := 0x01000008
def rstCtl : Nat := 0x01000010
def clkCtl : Nat := 0x01000018
def dvfsCtl : Nat := 0x01000020
def dvfsStat : Nat := 0x01000028
def pcapCtl : Nat := 0x01000030
def pcapStat : Nat := 0x01000038
def thmCfg : Nat := 0x01000040
def thmStat : Nat := 0x01000048
def mgmtEvt : Nat := 0x01000050
def bringStat : Nat := 0x01000058
def hbmTrn (n : Nat) : Nat := 0x01100000 + 0x1000 * n
def hbmTstat (n : Nat) : Nat := 0x01100008 + 0x1000 * n
def hbmRef (n : Nat) : Nat := 0x01100010 + 0x1000 * n
def optTrn (p : Nat) : Nat := 0x01200000 + 0x1000 * p
def optTstat (p : Nat) : Nat := 0x01200008 + 0x1000 * p
def portCtl (p : Nat) : Nat := 0x01400000 + 0x1000 * p
def portStat (p : Nat) : Nat := 0x01400008 + 0x1000 * p
def linkErr (p : Nat) : Nat := 0x01400010 + 0x1000 * p
def portSecret (p k : Nat) : Nat := 0x01400020 + 0x1000 * p + 8 * k
def slotCfg (p : Nat) : Nat := 0x01400100 + 0x1000 * p
def circStat (p : Nat) : Nat := 0x01400108 + 0x1000 * p
def slotEnt (p i : Nat) : Nat := 0x01400200 + 0x1000 * p + 8 * i
def route (n : Nat) : Nat := 0x01800000 + 8 * n
def fabCfg : Nat := 0x01802000
def tsyncCtl : Nat := 0x01802008
def tsyncStat : Nat := 0x01802010
def rankBase (k : Nat) : Nat := 0x01803000 + 0x20 * k
def rankCfg (k : Nat) : Nat := 0x01803008 + 0x20 * k
def rgnCfg : Nat := 0x02000000
def rgnSync : Nat := 0x02000008
def bootStat : Nat := 0x02000010
def bootCtl : Nat := 0x02000018
def integLast : Nat := 0x02000040
def integCnt : Nat := 0x02000048
def meas (n w : Nat) : Nat := 0x02000100 + 0x40 * n + 8 * w
def measD (w : Nat) : Nat := 0x02000300 + 8 * w
def measCmd : Nat := 0x02000330
def rgnLo (k : Nat) : Nat := 0x02001000 + 0x10 * k
def rgnHi (k : Nat) : Nat := 0x02001008 + 0x10 * k
def ringCtl (f : Nat) : Nat := 0x03000000 + 0x1000 * f
def cmdBase (f : Nat) : Nat := 0x03000008 + 0x1000 * f
def cplBase (f : Nat) : Nat := 0x03000010 + 0x1000 * f
def ptrBase (f : Nat) : Nat := 0x03000018 + 0x1000 * f
def cwinBase (f : Nat) : Nat := 0x03000020 + 0x1000 * f
def ringStat (f : Nat) : Nat := 0x03000028 + 0x1000 * f
def wdogCfg (f : Nat) : Nat := 0x03000030 + 0x1000 * f
def wdogKick (f : Nat) : Nat := 0x03000038 + 0x1000 * f
def ringPos (f : Nat) : Nat := 0x03000040 + 0x1000 * f
def feQpush (f : Nat) : Nat := 0x03000048 + 0x1000 * f
def t2Cfg : Nat := 0x03800000
def flue : Nat := 0x04000000
def flueEnd : Nat := 0x04020000
def partCtl (k : Nat) : Nat := 0x05000000 + 0x1000 * k
def schedCfg (k : Nat) : Nat := 0x05000008 + 0x1000 * k
def seqStat (k : Nat) : Nat := 0x05000010 + 0x1000 * k
def seqQbar (k : Nat) : Nat := 0x05000018 + 0x1000 * k
def qStat (k : Nat) : Nat := 0x05000020 + 0x1000 * k
def shadowBase (k : Nat) : Nat := 0x05000100 + 0x1000 * k
def shadowCfg (k : Nat) : Nat := 0x05000108 + 0x1000 * k
def ctxCtl (k : Nat) : Nat := 0x05000110 + 0x1000 * k
def ctxStat (k : Nat) : Nat := 0x05000118 + 0x1000 * k
def ptRoot (k : Nat) : Nat := 0x05000120 + 0x1000 * k
def invBase (k : Nat) : Nat := 0x05000128 + 0x1000 * k
def invLimit (k : Nat) : Nat := 0x05000130 + 0x1000 * k
def invCtl (k : Nat) : Nat := 0x05000138 + 0x1000 * k
end Reg

/-- A register's access types (R6) as masks, and its reset value: RW bits, W1C bits, bits that read (RW, RO and W1C). -/
structure RegSpec where
  rw : Nat
  w1c : Nat
  ro : Nat
  reset : Nat
  deriving DecidableEq, Repr

/-- The PMB (R21–R43). -/
def pmbSpec : Nat → Option RegSpec
  | 0x000 => some ⟨0x7FFF, 0, 0, 0⟩
  | 0x008 => some ⟨0, 0xFFFF00000000, 0x7FFF, 0⟩
  | 0x010 => some ⟨0xFF0F, 0, 0xF00000, 0xFF0F⟩
  | 0x018 => some ⟨0x201, 0, 0x100, 0⟩
  | 0x020 => some ⟨0x83838383, 0, 0, 0⟩
  | 0x028 => some ⟨0, 0x50505050, 0xA3A3A3A3, 0⟩
  | 0x030 => some ⟨0xFFFFFFFFFF01, 0, 0, 0x0D480C806401⟩
  | 0x038 => some ⟨0, 0x8, 0xFFFFFFFF0017, 0⟩
  | 0x040 => some ⟨0xFFFF00FF00, 0, 0xFF0000FF0000, 0x645A55695F00⟩
  | 0x048 => some ⟨0, 0, 0xFFF0FFF0000F, 0⟩
  | 0x050 => some ⟨0, 0xFF, 0, 0⟩
  | 0x058 => some ⟨0xFFFFFFFF, 0, 0, 0⟩
  | _ => none

/-- A training block of an HBM stack (R45–R47). -/
def hbmSpec : Nat → Option RegSpec
  | 0x000 => some ⟨0xFF0E, 0, 0, 2⟩
  | 0x008 => some ⟨0, 0, 0xFFFFFF0007, 0⟩
  | 0x010 => some ⟨0xFF01, 0, 0x2, 0x1800⟩
  | _ => none

/-- A training block of an optical port (R50, R51). -/
def optSpec : Nat → Option RegSpec
  | 0x000 => some ⟨0xFFFF02, 0, 0, 0xFF0000⟩
  | 0x008 => some ⟨0, 0, 0xFFFFFF07, 0⟩
  | _ => none

/-- A link block of an optical port (R70–R74, R80–R82). -/
def linkSpec (o : Nat) : Option RegSpec :=
  if o = 0x000 then some ⟨0xFFF1, 0, 0, 1⟩
  else if o = 0x008 then some ⟨0, 0, 0x00FFFFFFFFFFFFFF, 0⟩
  else if o = 0x010 then some ⟨0xFFFFFFFFFFFFFFFF, 0, 0, 0⟩
  else if 0x020 ≤ o ∧ o ≤ 0x048 then some ⟨0, 0, 0, 0⟩
  else if o = 0x100 then some ⟨0xFFFFFFFF00003F01, 2, 0, 0⟩
  else if o = 0x108 then some ⟨0, 0, 0xFFFFFFFFFFFFFFFF, 0⟩
  else if 0x200 ≤ o ∧ o < 0x400 then some ⟨0xFFFFFF3FFFFF, 0, 0, 0⟩
  else none

/-- Routes, the fabric configuration, time synchronisation and rank tables (R84–R93). -/
def fabSpec (o : Nat) : Option RegSpec :=
  if o < 0x2000 then some ⟨0xFFFF, 0, 0, 0x3F⟩
  else if o = 0x2000 then some ⟨0xFFFFFF00000000, 0, 0x3FF0000, 0x0064640A00000000⟩
  else if o = 0x2008 then some ⟨0xFF3F01, 0, 0, 0xA0000⟩
  else if o = 0x2010 then some ⟨0, 0, 0xFFFF0001, 0⟩
  else if 0x3000 ≤ o ∧ o < 0x3100 then
    (match o % 0x20 with
      | 0 => some ⟨0xFFFFFFFFFFFC0, 0, 0, 0⟩
      | 8 => some ⟨0xFFFF0001FFFF, 0, 0, 0⟩
      | _ => none)
  else none

/-- The security block (R107–R119, R128). -/
def secSpec (o : Nat) : Option RegSpec :=
  if o = 0x000 then some ⟨1, 2, 0, 1⟩
  else if o = 0x008 then some ⟨0, 0, 2, 0⟩
  else if o = 0x010 then some ⟨0, 0, 0xFF0F, 0⟩
  else if o = 0x018 then some ⟨0, 0, 0, 0⟩
  else if o = 0x040 then some ⟨0, 1, 0xFFCFFFFFFFFFFF00, 0⟩
  else if o = 0x048 then some ⟨0xFFFFFFFFFFFFFFFF, 0, 0, 0⟩
  else if 0x100 ≤ o ∧ o < 0x300 ∧ o % 0x40 < 0x30 then some ⟨0, 0, 0xFFFFFFFFFFFFFFFF, 0⟩
  else if 0x300 ≤ o ∧ o ≤ 0x328 then some ⟨0, 0, 0, 0⟩
  else if o = 0x330 then some ⟨0x100, 0x80, 0, 0⟩
  else if 0x1000 ≤ o ∧ o < 0x2000 then
    some (if o % 16 = 0 then ⟨0xF00FFFFFFFFF0000, 0, 0, 0⟩ else ⟨0xFFFFFFFFF0000, 0, 0, 0⟩)
  else none

/-- A front end's block (R133–R138, R155, R512). -/
def feSpec : Nat → Option RegSpec
  | 0x000 => some ⟨0xFFFF05, 0, 0, 0⟩
  | 0x008 => some ⟨0xFFFFFFFFFFFC0, 0, 0, 0⟩
  | 0x010 => some ⟨0xFFFFFFFFFFFC0, 0, 0, 0⟩
  | 0x018 => some ⟨0xFFFFFFFFFFF00, 0, 0, 0⟩
  | 0x020 => some ⟨0xFFFFFFFFF0000, 0, 0, 0⟩
  | 0x028 => some ⟨0, 1, 0x3FF00030000, 0⟩
  | 0x030 => some ⟨0xFFFF0001, 0, 0, 0x03E80001⟩
  | 0x038 => some ⟨0, 0, 0, 0⟩
  | 0x040 => some ⟨0, 0, 0xFFFFFFFFFFFFFFFF, 0⟩
  | 0x048 => some ⟨0, 0, 0, 0⟩
  | _ => none

/-- A partition's sequencer block (R159–R164, R200, R201, R272, R281). -/
def seqSpec : Nat → Option RegSpec
  | 0x000 => some ⟨0xFF0011, 4, 2, 0⟩
  | 0x008 => some ⟨0xFFFF0000FFFF, 0, 0, 0x6400001248⟩
  | 0x010 => some ⟨0, 8, 0xFFFFFFFFFF07, 0⟩
  | 0x018 => some ⟨0, 0, 0xFFFFFFFFFFFFFFFF, 0⟩
  | 0x020 => some ⟨0, 0, 0x07FF07FF07FF07FF, 0⟩
  | 0x100 => some ⟨0xFFFFFFFFF0000, 0, 0, 0⟩
  | 0x108 => some ⟨0xFFFF, 0, 0, 0⟩
  | 0x110 => some ⟨0, 0, 0, 0⟩
  | 0x118 => some ⟨0, 8, 0xFFFF03FF0107, 0⟩
  | 0x120 => some ⟨0xFFFFFFFFFFE01, 0, 0, 0⟩
  | 0x128 => some ⟨0x1FFFFFFFFFF0000, 0, 0, 0⟩
  | 0x130 => some ⟨0x1FFFFFFFFFF0000, 0, 0, 0⟩
  | 0x138 => some ⟨0x1FFF0000, 0, 2, 0⟩
  | _ => none

/-- The register at an offset from the MMIO base, if there is one. -/
def regSpec (o : Nat) : Option RegSpec :=
  if o % 8 ≠ 0 then none
  else if o < 0x01000000 then none
  else if o < 0x01100000 then pmbSpec (o - 0x01000000)
  else if o < 0x01110000 then hbmSpec (o % 0x1000)
  else if o < 0x01200000 then none
  else if o < 0x01224000 then optSpec (o % 0x1000)
  else if o < 0x01400000 then none
  else if o < 0x01424000 then linkSpec (o % 0x1000)
  else if o < 0x01800000 then none
  else if o < 0x01804000 then fabSpec (o - 0x01800000)
  else if o < 0x02000000 then none
  else if o < 0x02002000 then secSpec (o - 0x02000000)
  else if o < 0x03000000 then none
  else if o < 0x03008000 then feSpec (o % 0x1000)
  else if o = 0x03800000 then some ⟨0xFFFFFFFB01, 0, 0, 0⟩
  else if o < 0x05000000 then none
  else if o < 0x05008000 then seqSpec (o % 0x1000)
  else none

/-- The reset value of a register; an offset without a register reads zero (R107). -/
def regReset (o : Nat) : Word :=
  match regSpec o with
  | some sp => BitVec.ofNat 64 sp.reset
  | none => 0#64

/-- What a plain write leaves: RW bits take the value, W1C bits written 1 clear, all others stay (R6). -/
def RegSpec.write (sp : RegSpec) (old v : Word) : Word :=
  let rw := BitVec.ofNat 64 sp.rw
  let w1c := BitVec.ofNat 64 sp.w1c
  ((old &&& ~~~rw) ||| (v &&& rw)) &&& ~~~(v &&& w1c)

end Sys2Proof.Machine
end

