-- ==== Sys2Proof/Machine/State.lean ====
section
/-! DEFINITION. The machine's state, its reset, and the reasons a step can stop. -/
namespace Sys2Proof.Machine

/-- Why the machine stops. Every fault the spec describes is TAKEN by the part itself (a record, a poisoned counter, an ended
task), so no instruction stops the machine. -/
inductive Fault
  /-- Raised by `step` where the turn to come names an agent the part does not have (a core of 128 or above, a front end of 8 or
  above). Safe: the part has no such agent. -/
  | noSuchAgent
  deriving DecidableEq, Repr

/-- What the model refuses. -/
inductive Refusal
  /-- An arm of `exec` without a meaning. Safe: nothing is said of the instruction. -/
  | notModelled (mnemonic : String)
  deriving DecidableEq, Repr

/-- Whose turn it is: an agent executes its next instruction, or something happens at or outside the part. -/
inductive Turn | agent (a : Agent) | event (i : Instr)
  deriving DecidableEq, Repr

/-- The state. Sparse arrays hold no entry equal to what an unlisted index reads as. -/
structure State where
  -- who acts
  sched : List Turn             -- the order of turns to come: the model's own (log 4)
  cur : Agent                   -- the agent whose instruction is executing: the model's own
  tick : Nat                    -- occasions of free choice so far: the model's own
  -- contexts, cores, jobs
  harts : Assoc Hart            -- by agent number: 8 × core + engine, 8 × core + 4 service, 2048 + front end, 3072 management
  cores : Assoc Core
  frames : Assoc Frame          -- saved jobs by job number
  nextJob : Nat
  parts : Assoc Part
  -- memory
  mem : List Host.Cell          -- every physical byte: HBM, second tier, host and fabric windows, scratchpads by alias
  swritten : Assoc Bool         -- written bits of the scratchpads by alias granule (R197)
  blocks : Assoc Meta           -- check values, ECC errors and poison by 256-byte block (R122, R123)
  mcnts : Assoc MemCounter      -- memory counters by address
  gseq : Nat                    -- writes published so far
  gver : Assoc Nat              -- when each 64-byte granule's present version was published
  hist : Assoc (List Ver)       -- superseded versions of each granule, newest first
  wrel : Assoc Nat              -- the release that published each granule's present version (R396); 0 none
  releases : Assoc RelInfo      -- the releases made so far, by number
  nextRel : Nat
  hostKnow : Know               -- what host writes have published (R315)
  farKnow : Assoc Know          -- what writes from other packages have published here, by package (R316)
  outq : List Out               -- published effects not yet accepted (R94)
  nextPhase : Nat
  nextTag : Nat
  remotes : Assoc Remote        -- remote requests by tag
  -- the I/O chiplet
  regs : Assoc Word             -- MMIO registers by offset
  flue : Assoc Byte             -- the Flue's 128 KiB
  flueCnt : Assoc Nat           -- records written to each Flue slot since PORST_N (R154)
  feCode : Assoc Byte           -- code SRAM of front end f at 256 KiB × f
  feData : Assoc Byte           -- data SRAM of front end f at 256 KiB × f
  mgmtMem : Assoc Byte          -- the management controller's data memory
  mgmtCode : Assoc Byte         -- the kind 3 section
  svcCode : Assoc Byte          -- the kind 2 section
  config : Assoc Byte           -- the kind 4 section
  sections : Assoc Nat          -- lengths of the loaded firmware sections by kind (R114)
  dcc : Word                    -- SR.DCC
  dccRun : Bool                 -- the timebase counts (R26)
  power : Power
  boot : Boot
  links : Assoc Link
  tsGood : Nat                  -- consecutive exchanges with a small offset (R91)
  tsEver : Bool                 -- SYNC has been set once (R90)
  tsT1 : Option Word            -- t1 of the exchange under way
  tsSlew : Int                  -- the offset still to be corrected (R89)
  tsPhase : Nat                 -- timebase cycles counted towards the next correction
  nodesE : Assoc (Nat × Nat)    -- egress nodes of the ports: received and sent (R99)
  nodesI : Assoc (Nat × Nat)    -- ingress nodes
  msix : List Nat               -- MSI-X vectors raised, newest first
  wdog : Assoc Nat              -- watchdog counts by front end, in cycles (R155, R156)
  feWait : Assoc Word           -- an FE_QPUSH store that waits (R513)
  feHold : Assoc Bool           -- front ends parked in an FE_QPUSH store or held by R157
  rankCache : Assoc Word        -- cached rank entries (R88), by 65,536 × partition + rank, as 2^32 + entry
  hostOut : List (List Byte)    -- responses delivered to the host (DOE, reads), newest first
  deriving DecidableEq, Repr

/-- The number of an agent's context. -/
def agentNo : Agent → Nat
  | .stream c .A => 8 * c
  | .stream c .X => 8 * c + 1
  | .stream c .M => 8 * c + 2
  | .stream c .F => 8 * c + 3
  | .service c => 8 * c + 4
  | .frontEnd f => 2048 + f
  | .mgmt => 3072

/-- The machine right after reset: PORST_N holds the package, every register at its reset value (R5), nothing stored, no
context present. -/
def State.reset : State :=
  { sched := [], cur := .mgmt, tick := 0, harts := [], cores := [], frames := [], nextJob := 1, parts := [], mem := [],
    swritten := [], blocks := [], mcnts := [], gseq := 0, gver := [], hist := [], wrel := [], releases := [], nextRel := 1, hostKnow := .zero, farKnow := [], outq := [], nextPhase := 1,
    nextTag := 1, remotes := [], regs := [], flue := [], flueCnt := [], feCode := [], feData := [], mgmtMem := [],
    mgmtCode := [], svcCode := [], config := [], sections := [], dcc := 0#64, dccRun := false, power := .reset, boot := .reset,
    links := [], tsGood := 0, tsEver := false, tsT1 := none, tsSlew := 0, tsPhase := 0, nodesE := [], nodesI := [], msix := [], wdog := [], feWait := [],
    feHold := [], rankCache := [], hostOut := [] }

end Sys2Proof.Machine
end

