-- ==== Sys2Proof/WellFormed.lean ====
section
/-! DEFINITION. Which encodings of an assigned opcode are instructions: the operand selectors (R237), the class of every
operand field, the reserved bits, and the checks of R360 in its order. -/
namespace Sys2Proof

/-- An operand selector (R237). -/
inductive Sel
  | s (n : Nat) | t (n : Nat) | q (n : Nat) | p (n : Nat) | g (n : Nat) | c (n : Nat)
  | rel (n : Nat) | pk (n : Nat) | resv
  deriving DecidableEq, Repr

/-- The selector a code names (R237). -/
def Sel.ofCode (c : BitVec 8) : Sel :=
  let n := c.toNat
  if n < 0x20 then .s n
  else if n < 0x60 then .t (n - 0x20)
  else if n < 0x70 then .q (n - 0x60)
  else if n < 0x80 then .p (n - 0x70)
  else if n < 0x88 then .g (n - 0x80)
  else if n < 0x8A then .c (n - 0x88)
  else if n < 0xA0 then .resv
  else if n < 0xB0 then .rel (n - 0xA0)
  else if n < 0xF0 then .resv
  else .pk (n - 0xF0)

/-- Who executes, as far as encodings are concerned: a user stream of an engine, or a controller of R406. -/
inductive Who | user (e : Eng) | frontEnd | mgmt | service
  deriving DecidableEq, Repr

/-- The class of an operand field (R372, R410). -/
inductive Cls
  | none      -- the field is reserved
  | idx       -- a number, not a selector
  | port      -- a port code as an index (R388, R405)
  | src | srcNoRel | dst | guard | gdst
  | sreg | sreg1 | chan
  | tsrc | tdst | treg | treq | bcast | topt | acc
  deriving DecidableEq, Repr

/-- Checks of single members beyond field masks and classes. -/
inductive Extra
  | plain
  | scope         -- MOD[2:0] is a scope (R296, R397)
  | scopeOpt      -- MOD[3] with a scope, or MOD = 0 (R392)
  | scopeOptPos   -- and SIMM not negative (CADDI, R392)
  | target        -- a slot value of 0 is reserved (R352)
  | halt          -- SIMM[9:0] in 0x3C0–0x3FF in a user stream (R390)
  | mort          -- B is s0 when MOD[1] is set (R422)
  | seg           -- SEG = 1 is reserved (R435)
  | accFmt        -- AF = 3 is reserved (R444)
  | scales        -- IMM[15:8] is the second scale selector (R445)
  deriving DecidableEq, Repr

/-- How an instruction uses its fields: the classes of D, A, B and C (IMM[7:0]), and the MOD and IMM bits it uses. -/
structure Shape where
  d : Cls
  a : Cls
  b : Cls
  c : Cls
  modMask : BitVec 4
  immMask : BitVec 20
  extra : Extra
  deriving DecidableEq, Repr

/-- An instruction's opcode, FN and fields, by slot form (R351, R352). -/
inductive Enc
  | one (opc : BitVec 8) (fn : BitVec 4) (x : Args)
  | long (opc : BitVec 8) (fn : BitVec 4) (x : LArgs)
  | cmd (opc : BitVec 8) (fn : BitVec 4) (x : CArgs)
  deriving DecidableEq, Repr

def Enc.opc : Enc → Nat
  | .one o _ _ => o.toNat
  | .long o _ _ => o.toNat
  | .cmd o _ _ => o.toNat

def Enc.fn : Enc → Nat
  | .one _ f _ => f.toNat
  | .long _ f _ => f.toNat
  | .cmd _ f _ => f.toNat

/-- The fields common to all slot forms; a format L slot has no B, G or C. -/
def Enc.args : Enc → Args
  | .one _ _ x => x
  | .long _ _ x => ⟨x.mod, x.d, x.a, 0#8, 0#4, 0#20⟩
  | .cmd _ _ x => x.x

/-- How many slots the instruction takes (R351). -/
def Enc.slots : Enc → Nat
  | .one _ _ _ => 1
  | .long _ _ _ => 1
  | .cmd _ _ x => match x.stamp with | some _ => 3 | none => 2

/-- The opcode, FN and fields of every instruction (R359); none for the device events. -/
def Instr.enc : Instr → Option Enc
  | .nop x => some (.one 0x01#8 0#4 x)
  | .add x => some (.one 0x02#8 0#4 x)
  | .sub x => some (.one 0x02#8 1#4 x)
  | .and x => some (.one 0x02#8 2#4 x)
  | .or x => some (.one 0x02#8 3#4 x)
  | .xor x => some (.one 0x02#8 4#4 x)
  | .andn x => some (.one 0x02#8 5#4 x)
  | .shl x => some (.one 0x02#8 6#4 x)
  | .shr x => some (.one 0x02#8 7#4 x)
  | .sar x => some (.one 0x02#8 8#4 x)
  | .rol x => some (.one 0x02#8 9#4 x)
  | .min x => some (.one 0x02#8 10#4 x)
  | .max x => some (.one 0x02#8 11#4 x)
  | .minu x => some (.one 0x02#8 12#4 x)
  | .maxu x => some (.one 0x02#8 13#4 x)
  | .mul x => some (.one 0x02#8 14#4 x)
  | .mulh x => some (.one 0x02#8 15#4 x)
  | .addi x => some (.one 0x03#8 0#4 x)
  | .subi x => some (.one 0x03#8 1#4 x)
  | .andi x => some (.one 0x03#8 2#4 x)
  | .ori x => some (.one 0x03#8 3#4 x)
  | .xori x => some (.one 0x03#8 4#4 x)
  | .andni x => some (.one 0x03#8 5#4 x)
  | .shli x => some (.one 0x03#8 6#4 x)
  | .shri x => some (.one 0x03#8 7#4 x)
  | .sari x => some (.one 0x03#8 8#4 x)
  | .roli x => some (.one 0x03#8 9#4 x)
  | .mini x => some (.one 0x03#8 10#4 x)
  | .maxi x => some (.one 0x03#8 11#4 x)
  | .minui x => some (.one 0x03#8 12#4 x)
  | .maxui x => some (.one 0x03#8 13#4 x)
  | .muli x => some (.one 0x03#8 14#4 x)
  | .mulhi x => some (.one 0x03#8 15#4 x)
  | .mulhu x => some (.one 0x04#8 0#4 x)
  | .div x => some (.one 0x04#8 1#4 x)
  | .divu x => some (.one 0x04#8 2#4 x)
  | .rem x => some (.one 0x04#8 3#4 x)
  | .remu x => some (.one 0x04#8 4#4 x)
  | .cmpEq x => some (.one 0x05#8 0#4 x)
  | .cmpNe x => some (.one 0x05#8 1#4 x)
  | .cmpLt x => some (.one 0x05#8 2#4 x)
  | .cmpLe x => some (.one 0x05#8 3#4 x)
  | .cmpLtu x => some (.one 0x05#8 4#4 x)
  | .cmpLeu x => some (.one 0x05#8 5#4 x)
  | .cmpGt x => some (.one 0x05#8 6#4 x)
  | .cmpGe x => some (.one 0x05#8 7#4 x)
  | .cmpGtu x => some (.one 0x05#8 8#4 x)
  | .cmpGeu x => some (.one 0x05#8 9#4 x)
  | .cmpiEq x => some (.one 0x06#8 0#4 x)
  | .cmpiNe x => some (.one 0x06#8 1#4 x)
  | .cmpiLt x => some (.one 0x06#8 2#4 x)
  | .cmpiLe x => some (.one 0x06#8 3#4 x)
  | .cmpiLtu x => some (.one 0x06#8 4#4 x)
  | .cmpiLeu x => some (.one 0x06#8 5#4 x)
  | .cmpiGt x => some (.one 0x06#8 6#4 x)
  | .cmpiGe x => some (.one 0x06#8 7#4 x)
  | .cmpiGtu x => some (.one 0x06#8 8#4 x)
  | .cmpiGeu x => some (.one 0x06#8 9#4 x)
  | .movi x => some (.long 0x07#8 0#4 x)
  | .movhi x => some (.long 0x08#8 0#4 x)
  | .clz x => some (.one 0x09#8 0#4 x)
  | .ctz x => some (.one 0x09#8 1#4 x)
  | .popc x => some (.one 0x09#8 2#4 x)
  | .brev x => some (.one 0x09#8 3#4 x)
  | .bswap x => some (.one 0x09#8 4#4 x)
  | .sext8 x => some (.one 0x09#8 5#4 x)
  | .sext16 x => some (.one 0x09#8 6#4 x)
  | .sext32 x => some (.one 0x09#8 7#4 x)
  | .zext8 x => some (.one 0x09#8 8#4 x)
  | .zext16 x => some (.one 0x09#8 9#4 x)
  | .zext32 x => some (.one 0x09#8 10#4 x)
  | .shadd x => some (.one 0x0A#8 0#4 x)
  | .alignup x => some (.one 0x0A#8 1#4 x)
  | .aligndn x => some (.one 0x0A#8 2#4 x)
  | .mzip x => some (.one 0x0A#8 3#4 x)
  | .meven x => some (.one 0x0A#8 4#4 x)
  | .modd x => some (.one 0x0A#8 5#4 x)
  | .maddx x => some (.one 0x0A#8 6#4 x)
  | .maddy x => some (.one 0x0A#8 7#4 x)
  | .gand x => some (.one 0x0B#8 0#4 x)
  | .gor x => some (.one 0x0B#8 1#4 x)
  | .gxor x => some (.one 0x0B#8 2#4 x)
  | .gandn x => some (.one 0x0B#8 3#4 x)
  | .gset x => some (.one 0x0B#8 4#4 x)
  | .gget x => some (.one 0x0B#8 5#4 x)
  | .mov x => some (.one 0x0C#8 0#4 x)
  | .sel x => some (.one 0x0C#8 1#4 x)
  | .faddS x => some (.one 0x10#8 0#4 x)
  | .fsubS x => some (.one 0x10#8 1#4 x)
  | .fmulS x => some (.one 0x10#8 2#4 x)
  | .fdivS x => some (.one 0x10#8 3#4 x)
  | .fsqrtS x => some (.one 0x10#8 4#4 x)
  | .fminS x => some (.one 0x10#8 5#4 x)
  | .fmaxS x => some (.one 0x10#8 6#4 x)
  | .fmaS x => some (.one 0x10#8 7#4 x)
  | .fmsS x => some (.one 0x10#8 8#4 x)
  | .fnmaS x => some (.one 0x10#8 9#4 x)
  | .fabsS x => some (.one 0x10#8 10#4 x)
  | .fnegS x => some (.one 0x10#8 11#4 x)
  | .faddD x => some (.one 0x11#8 0#4 x)
  | .fsubD x => some (.one 0x11#8 1#4 x)
  | .fmulD x => some (.one 0x11#8 2#4 x)
  | .fdivD x => some (.one 0x11#8 3#4 x)
  | .fsqrtD x => some (.one 0x11#8 4#4 x)
  | .fminD x => some (.one 0x11#8 5#4 x)
  | .fmaxD x => some (.one 0x11#8 6#4 x)
  | .fmaD x => some (.one 0x11#8 7#4 x)
  | .fmsD x => some (.one 0x11#8 8#4 x)
  | .fnmaD x => some (.one 0x11#8 9#4 x)
  | .fabsD x => some (.one 0x11#8 10#4 x)
  | .fnegD x => some (.one 0x11#8 11#4 x)
  | .fcmpEq x => some (.one 0x12#8 0#4 x)
  | .fcmpLt x => some (.one 0x12#8 1#4 x)
  | .fcmpLe x => some (.one 0x12#8 2#4 x)
  | .fcmpUn x => some (.one 0x12#8 3#4 x)
  | .fcvtSD x => some (.one 0x13#8 0#4 x)
  | .fcvtDS x => some (.one 0x13#8 1#4 x)
  | .fcvtSL x => some (.one 0x13#8 2#4 x)
  | .fcvtDL x => some (.one 0x13#8 3#4 x)
  | .fcvtSLu x => some (.one 0x13#8 4#4 x)
  | .fcvtDLu x => some (.one 0x13#8 5#4 x)
  | .fcvtLS x => some (.one 0x13#8 6#4 x)
  | .fcvtLD x => some (.one 0x13#8 7#4 x)
  | .fcvtLuS x => some (.one 0x13#8 8#4 x)
  | .fcvtLuD x => some (.one 0x13#8 9#4 x)
  | .fcvtBS x => some (.one 0x13#8 10#4 x)
  | .fcvtHS x => some (.one 0x13#8 11#4 x)
  | .fcvtSB x => some (.one 0x13#8 12#4 x)
  | .fcvtSH x => some (.one 0x13#8 13#4 x)
  | .ldB x => some (.one 0x20#8 0#4 x)
  | .ldBu x => some (.one 0x20#8 1#4 x)
  | .ldH x => some (.one 0x20#8 2#4 x)
  | .ldHu x => some (.one 0x20#8 3#4 x)
  | .ldW x => some (.one 0x20#8 4#4 x)
  | .ldWu x => some (.one 0x20#8 5#4 x)
  | .ldD x => some (.one 0x20#8 6#4 x)
  | .stB x => some (.one 0x21#8 0#4 x)
  | .stH x => some (.one 0x21#8 1#4 x)
  | .stW x => some (.one 0x21#8 2#4 x)
  | .stD x => some (.one 0x21#8 3#4 x)
  | .ldspB x => some (.one 0x22#8 0#4 x)
  | .ldspBu x => some (.one 0x22#8 1#4 x)
  | .ldspH x => some (.one 0x22#8 2#4 x)
  | .ldspHu x => some (.one 0x22#8 3#4 x)
  | .ldspW x => some (.one 0x22#8 4#4 x)
  | .ldspWu x => some (.one 0x22#8 5#4 x)
  | .ldspD x => some (.one 0x22#8 6#4 x)
  | .stspB x => some (.one 0x23#8 0#4 x)
  | .stspH x => some (.one 0x23#8 1#4 x)
  | .stspW x => some (.one 0x23#8 2#4 x)
  | .stspD x => some (.one 0x23#8 3#4 x)
  | .rldB x => some (.one 0x24#8 0#4 x)
  | .rldBu x => some (.one 0x24#8 1#4 x)
  | .rldH x => some (.one 0x24#8 2#4 x)
  | .rldHu x => some (.one 0x24#8 3#4 x)
  | .rldW x => some (.one 0x24#8 4#4 x)
  | .rldWu x => some (.one 0x24#8 5#4 x)
  | .rldD x => some (.one 0x24#8 6#4 x)
  | .atomAdd x => some (.one 0x25#8 0#4 x)
  | .atomAnd x => some (.one 0x25#8 1#4 x)
  | .atomOr x => some (.one 0x25#8 2#4 x)
  | .atomXor x => some (.one 0x25#8 3#4 x)
  | .atomMin x => some (.one 0x25#8 4#4 x)
  | .atomMax x => some (.one 0x25#8 5#4 x)
  | .atomMinu x => some (.one 0x25#8 6#4 x)
  | .atomMaxu x => some (.one 0x25#8 7#4 x)
  | .atomSwap x => some (.one 0x25#8 8#4 x)
  | .atomCas x => some (.one 0x25#8 9#4 x)
  | .br x => some (.one 0x30#8 0#4 x)
  | .call x => some (.one 0x31#8 0#4 x)
  | .jr x => some (.one 0x32#8 0#4 x)
  | .loop x => some (.one 0x33#8 0#4 x)
  | .beos x => some (.one 0x34#8 0#4 x)
  | .join x => some (.one 0x35#8 0#4 x)
  | .halt x => some (.one 0x35#8 1#4 x)
  | .yield x => some (.one 0x35#8 2#4 x)
  | .svc x => some (.one 0x35#8 3#4 x)
  | .eret x => some (.one 0x35#8 4#4 x)
  | .cadd x => some (.one 0x40#8 0#4 x)
  | .caddi x => some (.one 0x40#8 1#4 x)
  | .cwait x => some (.one 0x40#8 2#4 x)
  | .crd x => some (.one 0x40#8 3#4 x)
  | .cinit x => some (.one 0x40#8 4#4 x)
  | .caddM x => some (.one 0x41#8 0#4 x)
  | .cwaitM x => some (.one 0x41#8 1#4 x)
  | .waita x => some (.one 0x41#8 2#4 x)
  | .fenceRel x => some (.one 0x42#8 0#4 x)
  | .fenceAcq x => some (.one 0x42#8 1#4 x)
  | .fenceAr x => some (.one 0x42#8 2#4 x)
  | .sealRange x => some (.one 0x43#8 0#4 x)
  | .unsealRange x => some (.one 0x43#8 1#4 x)
  | .qbar x => some (.one 0x43#8 2#4 x)
  | .dqpush x => some (.one 0x44#8 0#4 x)
  | .dqpop x => some (.one 0x44#8 1#4 x)
  | .dqsteal x => some (.one 0x44#8 2#4 x)
  | .dqlen x => some (.one 0x44#8 3#4 x)
  | .launch x => some (.one 0x45#8 0#4 x)
  | .launchT x => some (.one 0x45#8 1#4 x)
  | .xpose x => some (.one 0x45#8 2#4 x)
  | .csrr x => some (.one 0x46#8 0#4 x)
  | .csrw x => some (.one 0x46#8 1#4 x)
  | .csrs x => some (.one 0x46#8 2#4 x)
  | .csrc x => some (.one 0x46#8 3#4 x)
  | .rprobe x => some (.one 0x47#8 0#4 x)
  | .rttld x => some (.one 0x47#8 1#4 x)
  | .pbind x => some (.one 0x48#8 0#4 x)
  | .punbind x => some (.one 0x48#8 1#4 x)
  | .ppos x => some (.one 0x48#8 2#4 x)
  | .tcfg x => some (.one 0x80#8 0#4 x)
  | .tcfgZ x => some (.one 0x80#8 1#4 x)
  | .tval x => some (.one 0x80#8 2#4 x)
  | .tdesc x => some (.one 0x80#8 3#4 x)
  | .tld x => some (.one 0x81#8 0#4 x)
  | .tst x => some (.one 0x82#8 0#4 x)
  | .tadd x => some (.one 0x88#8 0#4 x)
  | .tsub x => some (.one 0x88#8 1#4 x)
  | .tmul x => some (.one 0x88#8 2#4 x)
  | .tdiv x => some (.one 0x88#8 3#4 x)
  | .tmin x => some (.one 0x88#8 4#4 x)
  | .tmax x => some (.one 0x88#8 5#4 x)
  | .tand x => some (.one 0x88#8 6#4 x)
  | .tor x => some (.one 0x88#8 7#4 x)
  | .txor x => some (.one 0x88#8 8#4 x)
  | .tshl x => some (.one 0x88#8 9#4 x)
  | .tshr x => some (.one 0x88#8 10#4 x)
  | .tabsd x => some (.one 0x88#8 11#4 x)
  | .tfma x => some (.one 0x89#8 0#4 x)
  | .tfms x => some (.one 0x89#8 1#4 x)
  | .tfnma x => some (.one 0x89#8 2#4 x)
  | .tsel x => some (.one 0x89#8 3#4 x)
  | .tabs x => some (.one 0x8A#8 0#4 x)
  | .tneg x => some (.one 0x8A#8 1#4 x)
  | .tsqrt x => some (.one 0x8A#8 2#4 x)
  | .trcp x => some (.one 0x8A#8 3#4 x)
  | .trsq x => some (.one 0x8A#8 4#4 x)
  | .texp2 x => some (.one 0x8A#8 5#4 x)
  | .texp x => some (.one 0x8A#8 6#4 x)
  | .tlog2 x => some (.one 0x8A#8 7#4 x)
  | .tln x => some (.one 0x8A#8 8#4 x)
  | .tsin x => some (.one 0x8A#8 9#4 x)
  | .tcos x => some (.one 0x8A#8 10#4 x)
  | .ttanh x => some (.one 0x8A#8 11#4 x)
  | .tsigm x => some (.one 0x8A#8 12#4 x)
  | .tcmpEq x => some (.one 0x8B#8 0#4 x)
  | .tcmpNe x => some (.one 0x8B#8 1#4 x)
  | .tcmpLt x => some (.one 0x8B#8 2#4 x)
  | .tcmpLe x => some (.one 0x8B#8 3#4 x)
  | .tcmpGt x => some (.one 0x8B#8 4#4 x)
  | .tcmpGe x => some (.one 0x8B#8 5#4 x)
  | .tcmpUn x => some (.one 0x8B#8 6#4 x)
  | .tcmul x => some (.one 0x8C#8 0#4 x)
  | .tconj x => some (.one 0x8C#8 1#4 x)
  | .tcmulc x => some (.one 0x8C#8 2#4 x)
  | .tcvt x => some (.one 0x8D#8 0#4 x)
  | .tcvtSc x => some (.one 0x8D#8 1#4 x)
  | .tdq x => some (.one 0x8D#8 2#4 x)
  | .trsum x => some (.one 0x8E#8 0#4 x)
  | .trmax x => some (.one 0x8E#8 1#4 x)
  | .trmin x => some (.one 0x8E#8 2#4 x)
  | .tcsum x => some (.one 0x8E#8 3#4 x)
  | .tcmax x => some (.one 0x8E#8 4#4 x)
  | .tcmin x => some (.one 0x8E#8 5#4 x)
  | .tscanAdd x => some (.one 0x8F#8 0#4 x)
  | .tscanMax x => some (.one 0x8F#8 1#4 x)
  | .ttrn x => some (.one 0x90#8 0#4 x)
  | .tperm x => some (.one 0x90#8 1#4 x)
  | .tshuf x => some (.one 0x90#8 2#4 x)
  | .tgath x => some (.one 0x90#8 3#4 x)
  | .tscat x => some (.one 0x90#8 4#4 x)
  | .tbcr x => some (.one 0x90#8 5#4 x)
  | .tbcc x => some (.one 0x90#8 6#4 x)
  | .tbcs x => some (.one 0x90#8 7#4 x)
  | .tmov x => some (.one 0x91#8 0#4 x)
  | .text x => some (.one 0x91#8 1#4 x)
  | .tins x => some (.one 0x91#8 2#4 x)
  | .tiota x => some (.one 0x91#8 3#4 x)
  | .tfill x => some (.one 0x91#8 4#4 x)
  | .mmaFp8 x => some (.cmd 0xC0#8 (0#1 ++ x.t ++ x.p ++ x.z) x.c)
  | .mmaFp6 x => some (.cmd 0xC1#8 (0#1 ++ x.t ++ x.p ++ x.z) x.c)
  | .mmaFp4 x => some (.cmd 0xC2#8 (0#1 ++ x.t ++ x.p ++ x.z) x.c)
  | .mmaBf16 x => some (.cmd 0xC3#8 (0#1 ++ x.t ++ x.p ++ x.z) x.c)
  | .mmaFp16 x => some (.cmd 0xC4#8 (0#1 ++ x.t ++ x.p ++ x.z) x.c)
  | .mmaFp32 x => some (.cmd 0xC5#8 (0#1 ++ x.t ++ x.p ++ x.z) x.c)
  | .mmaFp64 x => some (.cmd 0xC6#8 (0#1 ++ x.t ++ x.p ++ x.z) x.c)
  | .mmaInt8 x => some (.cmd 0xC7#8 (0#1 ++ x.t ++ x.p ++ x.z) x.c)
  | .accld x => some (.cmd 0xC8#8 0#4 x)
  | .accst x => some (.cmd 0xC8#8 1#4 x)
  | .accclr x => some (.cmd 0xC8#8 2#4 x)
  | .accstg x => some (.cmd 0xC8#8 3#4 x)
  | .fft x => some (.cmd 0xD0#8 0#4 x)
  | .ifft x => some (.cmd 0xD1#8 0#4 x)
  | .rfft x => some (.cmd 0xD2#8 0#4 x)
  | .irfft x => some (.cmd 0xD3#8 0#4 x)
  | .fplan x => some (.cmd 0xD4#8 0#4 x)
  | .leggen x => some (.cmd 0xD5#8 0#4 x)
  | .ftwm x => some (.cmd 0xD6#8 0#4 x)
  | .ccopy x => some (.cmd 0xE0#8 0#4 x)
  | .cmort x => some (.cmd 0xE1#8 0#4 x)
  | .cgath x => some (.cmd 0xE2#8 0#4 x)
  | .cscat x => some (.cmd 0xE3#8 0#4 x)
  | .cred x => some (.cmd 0xE4#8 0#4 x)
  | .ired x => some (.cmd 0xE5#8 0#4 x)
  | .atomnAdd x => some (.cmd 0xE6#8 0#4 x)
  | .atomnAnd x => some (.cmd 0xE6#8 1#4 x)
  | .atomnOr x => some (.cmd 0xE6#8 2#4 x)
  | .atomnXor x => some (.cmd 0xE6#8 3#4 x)
  | .atomnMin x => some (.cmd 0xE6#8 4#4 x)
  | .atomnMax x => some (.cmd 0xE6#8 5#4 x)
  | .atomnMinu x => some (.cmd 0xE6#8 6#4 x)
  | .atomnMaxu x => some (.cmd 0xE6#8 7#4 x)
  | .atomnSwap x => some (.cmd 0xE6#8 8#4 x)
  | .put x => some (.cmd 0xE8#8 0#4 x)
  | .get x => some (.cmd 0xE9#8 0#4 x)
  | _ => none

/-- Which fields each instruction uses, and how (the field tables of the instruction chapters). -/
def Shape.nop : Shape := ⟨.none, .none, .none, .none, 0#4, 0x0#20, .plain⟩
def Shape.alu : Shape := ⟨.dst, .src, .src, .none, 0#4, 0x0#20, .plain⟩
def Shape.alui : Shape := ⟨.dst, .src, .none, .none, 0#4, 0xfffff#20, .plain⟩
def Shape.cmp : Shape := ⟨.gdst, .src, .src, .none, 0#4, 0x0#20, .plain⟩
def Shape.cmpi : Shape := ⟨.gdst, .src, .none, .none, 0#4, 0xfffff#20, .plain⟩
def Shape.movi : Shape := ⟨.dst, .none, .none, .none, 0#4, 0x0#20, .plain⟩
def Shape.movhi : Shape := ⟨.sreg, .none, .none, .none, 0#4, 0x0#20, .plain⟩
def Shape.unary : Shape := ⟨.dst, .src, .none, .none, 0#4, 0x0#20, .plain⟩
def Shape.shadd : Shape := ⟨.dst, .src, .src, .none, 0#4, 0x7#20, .plain⟩
def Shape.ggg : Shape := ⟨.guard, .guard, .guard, .none, 0#4, 0x0#20, .plain⟩
def Shape.gset : Shape := ⟨.guard, .src, .none, .none, 0#4, 0x0#20, .plain⟩
def Shape.gget : Shape := ⟨.dst, .guard, .none, .none, 0#4, 0x0#20, .plain⟩
def Shape.sel : Shape := ⟨.dst, .src, .src, .guard, 0#4, 0x0#20, .plain⟩
def Shape.fun2 : Shape := ⟨.dst, .src, .src, .none, 11#4, 0x0#20, .plain⟩
def Shape.fun1 : Shape := ⟨.dst, .src, .none, .none, 11#4, 0x0#20, .plain⟩
def Shape.fun3 : Shape := ⟨.dst, .src, .src, .src, 11#4, 0x0#20, .plain⟩
def Shape.fcmp : Shape := ⟨.gdst, .src, .src, .none, 4#4, 0x0#20, .plain⟩
def Shape.fcvt : Shape := ⟨.dst, .src, .none, .none, 3#4, 0x0#20, .plain⟩
def Shape.ld : Shape := ⟨.dst, .src, .none, .none, 0#4, 0xfffff#20, .plain⟩
def Shape.st : Shape := ⟨.src, .src, .none, .none, 0#4, 0xfffff#20, .plain⟩
def Shape.ldsp : Shape := ⟨.dst, .srcNoRel, .none, .none, 0#4, 0xfffff#20, .plain⟩
def Shape.stsp : Shape := ⟨.src, .srcNoRel, .none, .none, 0#4, 0xfffff#20, .plain⟩
def Shape.rld : Shape := ⟨.chan, .src, .none, .none, 0#4, 0xfffff#20, .plain⟩
def Shape.atom : Shape := ⟨.dst, .src, .src, .none, 1#4, 0x0#20, .plain⟩
def Shape.atomcas : Shape := ⟨.dst, .src, .src, .src, 1#4, 0x0#20, .plain⟩
def Shape.br : Shape := ⟨.none, .none, .none, .none, 0#4, 0xfffff#20, .target⟩
def Shape.call : Shape := ⟨.sreg, .none, .none, .none, 0#4, 0xfffff#20, .target⟩
def Shape.jr : Shape := ⟨.none, .src, .none, .none, 0#4, 0x0#20, .plain⟩
def Shape.loop : Shape := ⟨.sreg1, .none, .none, .none, 0#4, 0xfffff#20, .target⟩
def Shape.beos : Shape := ⟨.port, .none, .none, .none, 0#4, 0xfffff#20, .target⟩
def Shape.halt : Shape := ⟨.none, .none, .none, .none, 0#4, 0x3ff#20, .halt⟩
def Shape.svc : Shape := ⟨.none, .none, .none, .none, 0#4, 0xfffff#20, .plain⟩
def Shape.srcA : Shape := ⟨.none, .src, .none, .none, 0#4, 0x0#20, .plain⟩
def Shape.cadd : Shape := ⟨.idx, .src, .none, .none, 15#4, 0x0#20, .scopeOpt⟩
def Shape.caddi : Shape := ⟨.idx, .none, .none, .none, 15#4, 0xfffff#20, .scopeOptPos⟩
def Shape.cwait : Shape := ⟨.idx, .src, .none, .none, 15#4, 0xfffff#20, .scopeOpt⟩
def Shape.crd : Shape := ⟨.dst, .idx, .none, .none, 0#4, 0x0#20, .plain⟩
def Shape.cinit : Shape := ⟨.idx, .src, .none, .none, 0#4, 0x0#20, .plain⟩
def Shape.mcnt : Shape := ⟨.src, .src, .none, .none, 15#4, 0xfffff#20, .scopeOpt⟩
def Shape.fence : Shape := ⟨.none, .none, .none, .none, 7#4, 0x0#20, .scope⟩
def Shape.srcAB : Shape := ⟨.none, .src, .src, .none, 0#4, 0x0#20, .plain⟩
def Shape.dqpush : Shape := ⟨.none, .src, .none, .guard, 8#4, 0x0#20, .plain⟩
def Shape.dqpop : Shape := ⟨.dst, .none, .none, .guard, 8#4, 0x0#20, .plain⟩
def Shape.dqsteal : Shape := ⟨.dst, .src, .none, .guard, 8#4, 0x0#20, .plain⟩
def Shape.dqlen : Shape := ⟨.dst, .none, .none, .none, 0#4, 0x0#20, .plain⟩
def Shape.launcht : Shape := ⟨.guard, .src, .none, .none, 0#4, 0x0#20, .plain⟩
def Shape.csrr : Shape := ⟨.dst, .none, .none, .none, 0#4, 0xfff#20, .plain⟩
def Shape.csrw : Shape := ⟨.dst, .src, .none, .none, 0#4, 0xfff#20, .plain⟩
def Shape.pbind : Shape := ⟨.port, .src, .none, .none, 0#4, 0x3#20, .plain⟩
def Shape.punbind : Shape := ⟨.port, .none, .none, .none, 0#4, 0x0#20, .plain⟩
def Shape.ppos : Shape := ⟨.dst, .port, .none, .none, 0#4, 0x0#20, .plain⟩
def Shape.tcfg : Shape := ⟨.treg, .src, .src, .none, 0#4, 0x0#20, .plain⟩
def Shape.tdesc : Shape := ⟨.dst, .treg, .none, .none, 1#4, 0x0#20, .plain⟩
def Shape.tld : Shape := ⟨.tdst, .src, .src, .none, 3#4, 0x0#20, .mort⟩
def Shape.tst : Shape := ⟨.tsrc, .src, .src, .none, 3#4, 0x0#20, .mort⟩
def Shape.tbin : Shape := ⟨.tdst, .tsrc, .bcast, .none, 11#4, 0x0#20, .plain⟩
def Shape.tlog : Shape := ⟨.tdst, .tsrc, .bcast, .none, 3#4, 0x0#20, .plain⟩
def Shape.ttri : Shape := ⟨.tdst, .tsrc, .bcast, .bcast, 11#4, 0x0#20, .plain⟩
def Shape.tsel : Shape := ⟨.tdst, .tsrc, .bcast, .tsrc, 0#4, 0x0#20, .plain⟩
def Shape.tuna : Shape := ⟨.tdst, .tsrc, .none, .none, 11#4, 0x0#20, .plain⟩
def Shape.tunaz : Shape := ⟨.tdst, .tsrc, .none, .none, 8#4, 0x0#20, .plain⟩
def Shape.tcmp : Shape := ⟨.tdst, .tsrc, .bcast, .none, 0#4, 0x0#20, .plain⟩
def Shape.ttrn : Shape := ⟨.tdst, .tsrc, .none, .none, 0#4, 0x0#20, .plain⟩
def Shape.tscale : Shape := ⟨.tdst, .tsrc, .tsrc, .none, 11#4, 0x300#20, .plain⟩
def Shape.trow : Shape := ⟨.tdst, .tsrc, .none, .none, 11#4, 0x300#20, .seg⟩
def Shape.tcol : Shape := ⟨.tdst, .tsrc, .none, .none, 11#4, 0x0#20, .plain⟩
def Shape.tscan : Shape := ⟨.tdst, .tsrc, .none, .none, 15#4, 0x0#20, .plain⟩
def Shape.tperm : Shape := ⟨.tdst, .tsrc, .tsrc, .none, 0#4, 0x0#20, .plain⟩
def Shape.tscat : Shape := ⟨.treg, .tsrc, .tsrc, .none, 0#4, 0x0#20, .plain⟩
def Shape.tbcs : Shape := ⟨.tdst, .src, .none, .none, 15#4, 0x0#20, .plain⟩
def Shape.text : Shape := ⟨.tdst, .tsrc, .src, .none, 0#4, 0x0#20, .plain⟩
def Shape.tins : Shape := ⟨.treg, .tsrc, .src, .none, 0#4, 0x0#20, .plain⟩
def Shape.tiota : Shape := ⟨.tdst, .src, .src, .none, 11#4, 0x0#20, .plain⟩
def Shape.tfill : Shape := ⟨.tdst, .src, .none, .none, 0#4, 0x0#20, .plain⟩
def Shape.mmas : Shape := ⟨.acc, .tsrc, .topt, .topt, 0#4, 0x3ff00#20, .scales⟩
def Shape.mma : Shape := ⟨.acc, .tsrc, .topt, .none, 0#4, 0x0#20, .plain⟩
def Shape.accld : Shape := ⟨.acc, .tsrc, .none, .none, 0#4, 0x0#20, .plain⟩
def Shape.accst : Shape := ⟨.tdst, .acc, .none, .none, 11#4, 0x300#20, .accFmt⟩
def Shape.accclr : Shape := ⟨.acc, .none, .none, .none, 0#4, 0x0#20, .plain⟩
def Shape.accstg : Shape := ⟨.acc, .src, .src, .src, 11#4, 0x700#20, .accFmt⟩
def Shape.fft : Shape := ⟨.treq, .tsrc, .tsrc, .none, 4#4, 0x0#20, .plain⟩
def Shape.rfft : Shape := ⟨.treq, .tsrc, .tsrc, .treg, 4#4, 0x0#20, .plain⟩
def Shape.fplan : Shape := ⟨.treg, .src, .src, .none, 0#4, 0x0#20, .plain⟩
def Shape.leggen : Shape := ⟨.tdst, .tsrc, .src, .none, 4#4, 0x0#20, .plain⟩
def Shape.ftwm : Shape := ⟨.tdst, .tsrc, .src, .src, 0#4, 0x0#20, .plain⟩
def Shape.cart1 : Shape := ⟨.none, .src, .none, .none, 0#4, 0x0#20, .plain⟩
def Shape.cmort : Shape := ⟨.none, .src, .none, .none, 1#4, 0x0#20, .plain⟩
def Shape.cart2 : Shape := ⟨.none, .src, .src, .none, 0#4, 0x0#20, .plain⟩
def Shape.cred : Shape := ⟨.none, .src, .none, .none, 8#4, 0x0#20, .plain⟩
def Shape.ired : Shape := ⟨.none, .src, .src, .none, 8#4, 0x0#20, .plain⟩
def Shape.atomn : Shape := ⟨.none, .src, .src, .none, 1#4, 0x0#20, .plain⟩

/-- The shape of every instruction; none for the rows that are device events, which have no encoding. -/
def Instr.shape : Instr → Option Shape
  | .nop _ => some Shape.nop
  | .add _ => some Shape.alu
  | .sub _ => some Shape.alu
  | .and _ => some Shape.alu
  | .or _ => some Shape.alu
  | .xor _ => some Shape.alu
  | .andn _ => some Shape.alu
  | .shl _ => some Shape.alu
  | .shr _ => some Shape.alu
  | .sar _ => some Shape.alu
  | .rol _ => some Shape.alu
  | .min _ => some Shape.alu
  | .max _ => some Shape.alu
  | .minu _ => some Shape.alu
  | .maxu _ => some Shape.alu
  | .mul _ => some Shape.alu
  | .mulh _ => some Shape.alu
  | .addi _ => some Shape.alui
  | .subi _ => some Shape.alui
  | .andi _ => some Shape.alui
  | .ori _ => some Shape.alui
  | .xori _ => some Shape.alui
  | .andni _ => some Shape.alui
  | .shli _ => some Shape.alui
  | .shri _ => some Shape.alui
  | .sari _ => some Shape.alui
  | .roli _ => some Shape.alui
  | .mini _ => some Shape.alui
  | .maxi _ => some Shape.alui
  | .minui _ => some Shape.alui
  | .maxui _ => some Shape.alui
  | .muli _ => some Shape.alui
  | .mulhi _ => some Shape.alui
  | .mulhu _ => some Shape.alu
  | .div _ => some Shape.alu
  | .divu _ => some Shape.alu
  | .rem _ => some Shape.alu
  | .remu _ => some Shape.alu
  | .cmpEq _ => some Shape.cmp
  | .cmpNe _ => some Shape.cmp
  | .cmpLt _ => some Shape.cmp
  | .cmpLe _ => some Shape.cmp
  | .cmpLtu _ => some Shape.cmp
  | .cmpLeu _ => some Shape.cmp
  | .cmpGt _ => some Shape.cmp
  | .cmpGe _ => some Shape.cmp
  | .cmpGtu _ => some Shape.cmp
  | .cmpGeu _ => some Shape.cmp
  | .cmpiEq _ => some Shape.cmpi
  | .cmpiNe _ => some Shape.cmpi
  | .cmpiLt _ => some Shape.cmpi
  | .cmpiLe _ => some Shape.cmpi
  | .cmpiLtu _ => some Shape.cmpi
  | .cmpiLeu _ => some Shape.cmpi
  | .cmpiGt _ => some Shape.cmpi
  | .cmpiGe _ => some Shape.cmpi
  | .cmpiGtu _ => some Shape.cmpi
  | .cmpiGeu _ => some Shape.cmpi
  | .movi _ => some Shape.movi
  | .movhi _ => some Shape.movhi
  | .clz _ => some Shape.unary
  | .ctz _ => some Shape.unary
  | .popc _ => some Shape.unary
  | .brev _ => some Shape.unary
  | .bswap _ => some Shape.unary
  | .sext8 _ => some Shape.unary
  | .sext16 _ => some Shape.unary
  | .sext32 _ => some Shape.unary
  | .zext8 _ => some Shape.unary
  | .zext16 _ => some Shape.unary
  | .zext32 _ => some Shape.unary
  | .shadd _ => some Shape.shadd
  | .alignup _ => some Shape.alu
  | .aligndn _ => some Shape.alu
  | .mzip _ => some Shape.alu
  | .meven _ => some Shape.unary
  | .modd _ => some Shape.unary
  | .maddx _ => some Shape.alu
  | .maddy _ => some Shape.alu
  | .gand _ => some Shape.ggg
  | .gor _ => some Shape.ggg
  | .gxor _ => some Shape.ggg
  | .gandn _ => some Shape.ggg
  | .gset _ => some Shape.gset
  | .gget _ => some Shape.gget
  | .mov _ => some Shape.unary
  | .sel _ => some Shape.sel
  | .faddS _ => some Shape.fun2
  | .fsubS _ => some Shape.fun2
  | .fmulS _ => some Shape.fun2
  | .fdivS _ => some Shape.fun2
  | .fsqrtS _ => some Shape.fun1
  | .fminS _ => some Shape.fun2
  | .fmaxS _ => some Shape.fun2
  | .fmaS _ => some Shape.fun3
  | .fmsS _ => some Shape.fun3
  | .fnmaS _ => some Shape.fun3
  | .fabsS _ => some Shape.fun1
  | .fnegS _ => some Shape.fun1
  | .faddD _ => some Shape.fun2
  | .fsubD _ => some Shape.fun2
  | .fmulD _ => some Shape.fun2
  | .fdivD _ => some Shape.fun2
  | .fsqrtD _ => some Shape.fun1
  | .fminD _ => some Shape.fun2
  | .fmaxD _ => some Shape.fun2
  | .fmaD _ => some Shape.fun3
  | .fmsD _ => some Shape.fun3
  | .fnmaD _ => some Shape.fun3
  | .fabsD _ => some Shape.fun1
  | .fnegD _ => some Shape.fun1
  | .fcmpEq _ => some Shape.fcmp
  | .fcmpLt _ => some Shape.fcmp
  | .fcmpLe _ => some Shape.fcmp
  | .fcmpUn _ => some Shape.fcmp
  | .fcvtSD _ => some Shape.fun1
  | .fcvtDS _ => some Shape.fcvt
  | .fcvtSL _ => some Shape.fcvt
  | .fcvtDL _ => some Shape.fcvt
  | .fcvtSLu _ => some Shape.fcvt
  | .fcvtDLu _ => some Shape.fcvt
  | .fcvtLS _ => some Shape.fcvt
  | .fcvtLD _ => some Shape.fcvt
  | .fcvtLuS _ => some Shape.fcvt
  | .fcvtLuD _ => some Shape.fcvt
  | .fcvtBS _ => some Shape.fun1
  | .fcvtHS _ => some Shape.fun1
  | .fcvtSB _ => some Shape.fcvt
  | .fcvtSH _ => some Shape.fcvt
  | .ldB _ => some Shape.ld
  | .ldBu _ => some Shape.ld
  | .ldH _ => some Shape.ld
  | .ldHu _ => some Shape.ld
  | .ldW _ => some Shape.ld
  | .ldWu _ => some Shape.ld
  | .ldD _ => some Shape.ld
  | .stB _ => some Shape.st
  | .stH _ => some Shape.st
  | .stW _ => some Shape.st
  | .stD _ => some Shape.st
  | .ldspB _ => some Shape.ldsp
  | .ldspBu _ => some Shape.ldsp
  | .ldspH _ => some Shape.ldsp
  | .ldspHu _ => some Shape.ldsp
  | .ldspW _ => some Shape.ldsp
  | .ldspWu _ => some Shape.ldsp
  | .ldspD _ => some Shape.ldsp
  | .stspB _ => some Shape.stsp
  | .stspH _ => some Shape.stsp
  | .stspW _ => some Shape.stsp
  | .stspD _ => some Shape.stsp
  | .rldB _ => some Shape.rld
  | .rldBu _ => some Shape.rld
  | .rldH _ => some Shape.rld
  | .rldHu _ => some Shape.rld
  | .rldW _ => some Shape.rld
  | .rldWu _ => some Shape.rld
  | .rldD _ => some Shape.rld
  | .atomAdd _ => some Shape.atom
  | .atomAnd _ => some Shape.atom
  | .atomOr _ => some Shape.atom
  | .atomXor _ => some Shape.atom
  | .atomMin _ => some Shape.atom
  | .atomMax _ => some Shape.atom
  | .atomMinu _ => some Shape.atom
  | .atomMaxu _ => some Shape.atom
  | .atomSwap _ => some Shape.atom
  | .atomCas _ => some Shape.atomcas
  | .br _ => some Shape.br
  | .call _ => some Shape.call
  | .jr _ => some Shape.jr
  | .loop _ => some Shape.loop
  | .beos _ => some Shape.beos
  | .join _ => some Shape.nop
  | .halt _ => some Shape.halt
  | .yield _ => some Shape.nop
  | .svc _ => some Shape.svc
  | .eret _ => some Shape.srcA
  | .cadd _ => some Shape.cadd
  | .caddi _ => some Shape.caddi
  | .cwait _ => some Shape.cwait
  | .crd _ => some Shape.crd
  | .cinit _ => some Shape.cinit
  | .caddM _ => some Shape.mcnt
  | .cwaitM _ => some Shape.mcnt
  | .waita _ => some Shape.mcnt
  | .fenceRel _ => some Shape.fence
  | .fenceAcq _ => some Shape.fence
  | .fenceAr _ => some Shape.fence
  | .sealRange _ => some Shape.srcAB
  | .unsealRange _ => some Shape.srcAB
  | .qbar _ => some Shape.nop
  | .dqpush _ => some Shape.dqpush
  | .dqpop _ => some Shape.dqpop
  | .dqsteal _ => some Shape.dqsteal
  | .dqlen _ => some Shape.dqlen
  | .launch _ => some Shape.srcA
  | .launchT _ => some Shape.launcht
  | .xpose _ => some Shape.srcA
  | .csrr _ => some Shape.csrr
  | .csrw _ => some Shape.csrw
  | .csrs _ => some Shape.csrw
  | .csrc _ => some Shape.csrw
  | .rprobe _ => some Shape.srcAB
  | .rttld _ => some Shape.srcAB
  | .pbind _ => some Shape.pbind
  | .punbind _ => some Shape.punbind
  | .ppos _ => some Shape.ppos
  | .tcfg _ => some Shape.tcfg
  | .tcfgZ _ => some Shape.tcfg
  | .tval _ => some Shape.tcfg
  | .tdesc _ => some Shape.tdesc
  | .tld _ => some Shape.tld
  | .tst _ => some Shape.tst
  | .tadd _ => some Shape.tbin
  | .tsub _ => some Shape.tbin
  | .tmul _ => some Shape.tbin
  | .tdiv _ => some Shape.tbin
  | .tmin _ => some Shape.tbin
  | .tmax _ => some Shape.tbin
  | .tand _ => some Shape.tlog
  | .tor _ => some Shape.tlog
  | .txor _ => some Shape.tlog
  | .tshl _ => some Shape.tlog
  | .tshr _ => some Shape.tlog
  | .tabsd _ => some Shape.tbin
  | .tfma _ => some Shape.ttri
  | .tfms _ => some Shape.ttri
  | .tfnma _ => some Shape.ttri
  | .tsel _ => some Shape.tsel
  | .tabs _ => some Shape.tuna
  | .tneg _ => some Shape.tuna
  | .tsqrt _ => some Shape.tuna
  | .trcp _ => some Shape.tuna
  | .trsq _ => some Shape.tunaz
  | .texp2 _ => some Shape.tunaz
  | .texp _ => some Shape.tunaz
  | .tlog2 _ => some Shape.tunaz
  | .tln _ => some Shape.tunaz
  | .tsin _ => some Shape.tunaz
  | .tcos _ => some Shape.tunaz
  | .ttanh _ => some Shape.tunaz
  | .tsigm _ => some Shape.tunaz
  | .tcmpEq _ => some Shape.tcmp
  | .tcmpNe _ => some Shape.tcmp
  | .tcmpLt _ => some Shape.tcmp
  | .tcmpLe _ => some Shape.tcmp
  | .tcmpGt _ => some Shape.tcmp
  | .tcmpGe _ => some Shape.tcmp
  | .tcmpUn _ => some Shape.tcmp
  | .tcmul _ => some Shape.tcmp
  | .tconj _ => some Shape.ttrn
  | .tcmulc _ => some Shape.tcmp
  | .tcvt _ => some Shape.tuna
  | .tcvtSc _ => some Shape.tscale
  | .tdq _ => some Shape.tscale
  | .trsum _ => some Shape.trow
  | .trmax _ => some Shape.trow
  | .trmin _ => some Shape.trow
  | .tcsum _ => some Shape.tcol
  | .tcmax _ => some Shape.tcol
  | .tcmin _ => some Shape.tcol
  | .tscanAdd _ => some Shape.tscan
  | .tscanMax _ => some Shape.tscan
  | .ttrn _ => some Shape.ttrn
  | .tperm _ => some Shape.tperm
  | .tshuf _ => some Shape.tperm
  | .tgath _ => some Shape.tperm
  | .tscat _ => some Shape.tscat
  | .tbcr _ => some Shape.ttrn
  | .tbcc _ => some Shape.ttrn
  | .tbcs _ => some Shape.tbcs
  | .tmov _ => some Shape.ttrn
  | .text _ => some Shape.text
  | .tins _ => some Shape.tins
  | .tiota _ => some Shape.tiota
  | .tfill _ => some Shape.tfill
  | .mmaFp8 _ => some Shape.mmas
  | .mmaFp6 _ => some Shape.mmas
  | .mmaFp4 _ => some Shape.mmas
  | .mmaBf16 _ => some Shape.mma
  | .mmaFp16 _ => some Shape.mma
  | .mmaFp32 _ => some Shape.mma
  | .mmaFp64 _ => some Shape.mma
  | .mmaInt8 _ => some Shape.mma
  | .accld _ => some Shape.accld
  | .accst _ => some Shape.accst
  | .accclr _ => some Shape.accclr
  | .accstg _ => some Shape.accstg
  | .fft _ => some Shape.fft
  | .ifft _ => some Shape.fft
  | .rfft _ => some Shape.rfft
  | .irfft _ => some Shape.rfft
  | .fplan _ => some Shape.fplan
  | .leggen _ => some Shape.leggen
  | .ftwm _ => some Shape.ftwm
  | .ccopy _ => some Shape.cart1
  | .cmort _ => some Shape.cmort
  | .cgath _ => some Shape.cart2
  | .cscat _ => some Shape.cart2
  | .cred _ => some Shape.cred
  | .ired _ => some Shape.ired
  | .atomnAdd _ => some Shape.atomn
  | .atomnAnd _ => some Shape.atomn
  | .atomnOr _ => some Shape.atomn
  | .atomnXor _ => some Shape.atomn
  | .atomnMin _ => some Shape.atomn
  | .atomnMax _ => some Shape.atomn
  | .atomnMinu _ => some Shape.atomn
  | .atomnMaxu _ => some Shape.atomn
  | .atomnSwap _ => some Shape.atomn
  | .put _ => some Shape.cart2
  | .get _ => some Shape.cart2
  | _ => none

/-- The engines whose streams execute an opcode (R359). -/
def engineOk (e : Eng) (opc fn : Nat) : Bool :=
  if opc = 0x35 then decide (fn ≤ 2) || e == .A
  else if opc = 0x40 then decide (fn ≤ 3) || e == .A
  else if opc < 0x20 then true
  else if opc ≤ 0x25 then e == .A
  else if opc ≤ 0x34 then true
  else if opc = 0x41 then e == .A
  else if opc = 0x42 || opc = 0x46 then true
  else if opc ≤ 0x48 then e == .A
  else if opc ≤ 0x91 then e == .X
  else if opc ≤ 0xC8 then e == .M
  else if opc ≤ 0xD6 then e == .F
  else e == .A

/-- The opcodes of the A engine that each controller executes (R406). -/
def subsetOk (w : Who) (opc fn : Nat) : Bool :=
  match w with
  | .user _ => true
  | .frontEnd =>
    decide (opc ≤ 0x13) || opc == 0x20 || opc == 0x21 || opc == 0x25 || (decide (0x30 ≤ opc) && decide (opc ≤ 0x33)) ||
    (opc == 0x35 && (fn == 1 || fn == 2)) || opc == 0x41 || opc == 0x42 || opc == 0x46
  | .mgmt =>
    decide (opc ≤ 0x13) || opc == 0x20 || opc == 0x21 || (decide (0x30 ≤ opc) && decide (opc ≤ 0x33)) ||
    (opc == 0x35 && (fn == 1 || fn == 2)) || (opc == 0x41 && fn == 2) || opc == 0x42 || opc == 0x46
  | .service =>
    decide (opc ≤ 0x13) || (decide (0x20 ≤ opc) && decide (opc ≤ 0x23)) || opc == 0x25 ||
    (decide (0x30 ≤ opc) && decide (opc ≤ 0x33)) || (opc == 0x35 && (fn == 2 || fn == 4)) || (opc == 0x40 && fn == 4) ||
    opc == 0x41 || opc == 0x42 || opc == 0x46 || (opc == 0x47 && fn == 1)

/-- ERET, CINIT and RTTLD are service-only (R360). -/
def serviceOnly (opc fn : Nat) : Bool :=
  (opc == 0x35 && fn == 4) || (opc == 0x40 && fn == 4) || (opc == 0x47 && fn == 1)

def Who.eng : Who → Eng
  | .user e => e
  | _ => .A

def Who.isUser : Who → Bool
  | .user _ => true
  | _ => false

def Cls.isSelector : Cls → Bool
  | .none | .idx | .port => false
  | _ => true

def Sel.isScalarSrc (w : Who) : Sel → Bool
  | .s _ => true
  | .q _ | .p _ | .pk _ => w.isUser
  | .rel _ => w == .user .A
  | _ => false

def Sel.isScalarDst (w : Who) : Sel → Bool
  | .s _ => true
  | .q _ | .p _ => w.isUser
  | _ => false

def Sel.isTileSrc : Sel → Bool
  | .t _ | .q _ | .p _ | .pk _ => true
  | _ => false

/-- Whether a selector is of a class (R372, R410); the controllers have s and g selectors only (R406). -/
def Cls.admits (w : Who) (c : Cls) (code : BitVec 8) : Bool :=
  let s := Sel.ofCode code
  match c with
  | .none | .idx => true
  | .port => match s with | .p _ => true | _ => false
  | .src => s.isScalarSrc w
  | .srcNoRel => s.isScalarSrc w && (match s with | .rel _ => false | _ => true)
  | .dst => s.isScalarDst w
  | .guard => match s with | .g _ => true | _ => false
  | .gdst => s.isScalarDst w || (match s with | .g _ => true | _ => false)
  | .sreg => match s with | .s _ => true | _ => false
  | .sreg1 => match s with | .s n => decide (n ≠ 0) | _ => false
  | .chan => match s with | .q _ => true | _ => false
  | .tsrc => s.isTileSrc
  | .tdst => match s with | .t _ | .q _ | .p _ => true | _ => false
  | .treg => match s with | .t _ => true | _ => false
  | .treq => match s with | .t _ | .q _ => true | _ => false
  | .bcast => s.isTileSrc || s.isScalarSrc w
  | .topt => s.isTileSrc || code == 0#8
  | .acc => match s with | .c _ => true | _ => false

/-- IMM[7:0], the third source C. -/
def Args.c (x : Args) : BitVec 8 := x.imm.extractLsb' 0 8

/-- IMM[15:8], the scale selector SB of an MMA. -/
def Args.sb (x : Args) : BitVec 8 := x.imm.extractLsb' 8 8

/-- IMM[9:8], used as GRAN, SEG or AF. -/
def Args.imm98 (x : Args) : Nat := (x.imm.extractLsb' 8 2).toNat

/-- IMM[19:14], the field HT (R411). -/
def Args.ht (x : Args) : Nat := (x.imm.extractLsb' 14 6).toNat

/-- The IMM bits an instruction uses: its own, C's, SB's, and HT where D names a channel (R411). -/
def Shape.immBits (sh : Shape) (x : Args) : BitVec 20 :=
  let c := if sh.c == .none then 0#20 else 0xFF#20
  let ht := match sh.d, Sel.ofCode x.d with
    | .tdst, .q _ => 0xFC000#20
    | .treq, .q _ => 0xFC000#20
    | _, _ => 0#20
  sh.immMask ||| c ||| ht

/-- A breach of a member's own rule that raises 0x044. -/
def Extra.breach (w : Who) (ex : Extra) (x : Args) : Bool :=
  let sc := (x.mod.extractLsb' 0 3).toNat
  let scopeOpt := if x.mod.getLsbD 3 then decide (5 ≤ sc) else decide (sc ≠ 0)
  match ex with
  | .plain => false
  | .scope => decide (5 ≤ sc)
  | .scopeOpt => scopeOpt
  | .scopeOptPos => scopeOpt || x.imm.getLsbD 19
  | .target => x.imm.extractLsb' 0 3 == 0#3
  | .halt => w.isUser && decide ((x.imm.extractLsb' 0 10).toNat < 0x3C0)
  | .mort => x.mod.getLsbD 1 && x.b != 0#8
  | .seg => x.imm98 == 1
  | .accFmt => x.imm98 == 3
  | .scales => false

/-- The commands whose signal counts bytes (R356). -/
def byteCount (opc : Nat) : Bool :=
  (decide (0xE0 ≤ opc) && decide (opc ≤ 0xE5)) || opc == 0xE8 || opc == 0xE9

/-- Whether a counter select code is reserved (R355). -/
def cselReserved (c : BitVec 9) : Bool := decide (0x120 ≤ c.toNat) && decide (c.toNat ≤ 0x1FE)

/-- A breach of the extension rules of R356. -/
def Ext.breach (opc : Nat) (e : Ext) : Bool :=
  cselReserved e.wsel || cselReserved e.ssel ||
  (e.wsel == 0x1FF#9 && (e.wthr != 0#24 || e.acq != 0#1)) ||
  (e.ssel == 0x1FF#9 && (e.sinc != 0#20 || e.rel != 0#1)) ||
  (decide (0x100 ≤ e.wsel.toNat) && e.wsel != 0x1FF#9 && decide (0x20 ≤ e.wthr.toNat)) ||
  (e.ssel != 0x1FF#9 && (if byteCount opc then e.sinc != 0#20 else e.sinc == 0#20))

/-- The clause and prefix bits of a command that raise 0x044; other forms have none. -/
def Enc.clauseBreach : Enc → Bool
  | .cmd o _ x => x.ext.breach o.toNat || (match x.stamp with | some p => p.resv != 0#8 | none => false)
  | _ => false

def Enc.stamped : Enc → Bool
  | .cmd _ _ x => x.stamp.isSome
  | _ => false

/-- A non-zero reserved bit of the instruction (R7, R360 row 0x044). -/
def reservedBreach (w : Who) (sh : Shape) (x : Args) : Bool :=
  (x.mod &&& ~~~sh.modMask) != 0#4 || (sh.d == .none && x.d != 0#8) || (sh.a == .none && x.a != 0#8) ||
  (sh.b == .none && x.b != 0#8) || (x.imm &&& ~~~(sh.immBits x)) != 0#20 || sh.extra.breach w x

/-- The operand fields of an instruction with their classes. -/
def Shape.fields (sh : Shape) (x : Args) : List (Cls × BitVec 8) :=
  [(sh.a, x.a), (sh.b, x.b), (sh.c, x.c), (sh.d, x.d)] ++ (if sh.extra == .scales then [(.topt, x.sb)] else [])

/-- The special-register numbers of R239. -/
def csrAssigned (n : Nat) : Bool := decide (n ≤ 0x00C) || n == 0x100 || n == 0x101

/-- The faults that R239 and R403 attach to a special-register number: reserved, read-only and written, service-only. A
controller may write SR.CAUSE and SR.FPF, and the service context SR.SHARE and SR.FQSTAT (R407). -/
def csrFault (w : Who) (opc fn : Nat) (x : Args) : Option Cause :=
  if opc ≠ 0x46 then none
  else
    let n := (x.imm.extractLsb' 0 12).toNat
    let writes := fn == 1 || ((fn == 2 || fn == 3) && x.a != 0#8)
    let rw := n == 0x009 || n == 0x00C || (w == .service && (n == 0x100 || n == 0x101))
    if ! csrAssigned n then some 0x042#10
    else if w.isUser && (n == 0x100 || n == 0x101) then some 0x047#10
    else if writes && ! rw then some 0x043#10
    else none

/-- The fault of an encoding, in the order of R360's rows after 0x040; none if it is an instruction of `w`. -/
def encFaultOf (w : Who) (e : Enc) (sh : Shape) : Option Cause :=
  let x := e.args
  if ! engineOk w.eng e.opc e.fn then some 0x041#10
  else if e.stamped && (w.eng == .A || w.eng == .X) then some 0x041#10
  else if ! subsetOk w e.opc e.fn then some 0x048#10
  else if w.isUser && serviceOnly e.opc e.fn then some 0x047#10
  else if reservedBreach w sh x || e.clauseBreach then some 0x044#10
  else if (sh.fields x).any (fun f => f.1.isSelector && Sel.ofCode f.2 == .resv) then some 0x042#10
  else if (sh.fields x).any (fun f => ! f.1.admits w f.2) then some 0x043#10
  else csrFault w e.opc e.fn x

def encFault (w : Who) (i : Instr) : Option Cause :=
  match i.enc, i.shape with
  | some e, some sh => encFaultOf w e sh
  | _, _ => none

/-- The executor an instruction is judged by when none is given: the service context for service-only members, and
otherwise a user stream of the first engine that has the opcode. -/
def Instr.home (i : Instr) : Who :=
  match i.enc with
  | some e =>
    if serviceOnly e.opc e.fn then .service
    else if engineOk .A e.opc e.fn then .user .A
    else if engineOk .X e.opc e.fn then .user .X
    else if engineOk .M e.opc e.fn then .user .M
    else .user .F
  | none => .user .A

/-- An instruction whose encoding raises no fault where it belongs. Device events are well formed as they stand. -/
def WellFormed (i : Instr) : Prop := encFault i.home i = none

end Sys2Proof
end

