-- ==== Sys2Proof/Machine/Exec.lean ====
section
/-! DEFINITION. How a meaning is written: a program over the state that can end early and keeps what it did (an instruction
stops where a rule says so, R10), and the named places of the state it reads and writes. -/
namespace Sys2Proof

/-- The core an agent belongs to; agents of the I/O chiplet have none. -/
def Agent.core? : Agent → Option Nat
  | .stream c _ => some c
  | .service c => some c
  | _ => none

def Agent.coreNo (a : Agent) : Nat := a.core?.getD 0

/-- The executor an encoding is judged by (R360, R406). -/
def Agent.who : Agent → Who
  | .stream _ e => .user e
  | .service _ => .service
  | .frontEnd _ => .frontEnd
  | .mgmt => .mgmt

def Agent.isUser : Agent → Bool
  | .stream _ _ => true
  | _ => false

def Eng.no : Eng → Nat
  | .A => 0 | .X => 1 | .M => 2 | .F => 3

def Eng.ofNo : Nat → Eng
  | 0 => .A | 1 => .X | 2 => .M | _ => .F

def engines : List Eng := [.A, .X, .M, .F]

end Sys2Proof

namespace Sys2Proof.Machine

/-- The one way a program ends early: nothing more of it happens. -/
inductive Halt | done
  deriving DecidableEq, Repr

abbrev Exec (α : Type) := EStateM Halt State α

/-- A program as a step: both ways of ending give the state it left. -/
def runExec (x : Exec Unit) (s : State) : Host.Outcome State Fault Refusal :=
  match x s with
  | .ok _ t => .next t
  | .error _ t => .next t

/-- Ending early. -/
def halt {α : Type} : Exec α := throw .done

/-- A program whose early end is its own: what follows it goes on. -/
def within (x : Exec Unit) : Exec Unit := fun s =>
  match x s with
  | .ok _ t => .ok () t
  | .error _ t => .ok () t

/-- Ending early unless a condition holds: a disabled event changes nothing. -/
def require (b : Bool) : Exec Unit := if b then pure () else halt

/-- Doing something for each element of a list, in order. -/
def each {α : Type} : List α → (α → Exec Unit) → Exec Unit
  | [], _ => pure ()
  | a :: as, f => do f a; each as f

/-- The results of a program over a list. -/
def mapE {α β : Type} : List α → (α → Exec β) → Exec (List β)
  | [], _ => pure []
  | a :: as, f => do let b ← f a; let bs ← mapE as f; pure (b :: bs)

/-- The number of further choices made so far, advanced. -/
def fresh : Exec Nat := do
  let s ← get
  set { s with tick := s.tick + 1 }
  pure s.tick

/-- A choice the spec leaves open among `n` outcomes. -/
def choose (what n : Nat) : Exec Nat := do
  let t ← fresh
  pure (if n ≤ 1 then 0 else Config.pick what t n % n)

/-! Contexts. -/

def State.hart (s : State) (a : Agent) : Hart := Map.get (fun _ => Hart.reset) s.harts (agentNo a)

def State.setHart (s : State) (a : Agent) (h : Hart) : State :=
  { s with harts := Map.set (fun _ => Hart.reset) s.harts (agentNo a) h }

def getHart : Exec Hart := do let s ← get; pure (s.hart s.cur)

/-- Changing the context of the executing agent. -/
def updHart (f : Hart → Hart) : Exec Unit := modify fun s => s.setHart s.cur (f (s.hart s.cur))

def updHartOf (a : Agent) (f : Hart → Hart) : Exec Unit := modify fun s => s.setHart a (f (s.hart a))

/-! Cores and jobs. -/

def State.core (s : State) (c : Nat) : Core := Map.get (fun _ => Core.reset) s.cores c

def State.setCore (s : State) (c : Nat) (x : Core) : State := { s with cores := Map.set (fun _ => Core.reset) s.cores c x }

def State.updCore (s : State) (c : Nat) (f : Core → Core) : State := s.setCore c (f (s.core c))

def State.job (s : State) (c : Nat) : Job := (s.core c).job

def State.updJob (s : State) (c : Nat) (f : Job → Job) : State := s.updCore c fun x => { x with job := f x.job }

def updCore (c : Nat) (f : Core → Core) : Exec Unit := modify fun s => s.updCore c f
def updJob (c : Nat) (f : Job → Job) : Exec Unit := modify fun s => s.updJob c f
def getCore (c : Nat) : Exec Core := do let s ← get; pure (s.core c)
def getJob (c : Nat) : Exec Job := do let s ← get; pure (s.job c)

/-- The streams of a job that are present (R169). -/
def Job.streams (j : Job) : List Eng := engines.filter fun e => j.emask.getLsbD e.no

/-- The running job's core where the executing agent is a stream. -/
def curCore : Exec Nat := do let s ← get; pure s.cur.coreNo
def curJob : Exec Job := do let s ← get; pure (s.job s.cur.coreNo)

/-! Partitions. -/

def State.part (s : State) (k : Nat) : Part := Map.get (fun _ => Part.reset) s.parts k

def State.updPart (s : State) (k : Nat) (f : Part → Part) : State :=
  { s with parts := Map.set (fun _ => Part.reset) s.parts k (f (s.part k)) }

def updPart (k : Nat) (f : Part → Part) : Exec Unit := modify fun s => s.updPart k f
def getPart (k : Nat) : Exec Part := do let s ← get; pure (s.part k)

def Part.slot (p : Part) (n : Nat) : Slot := Map.get (fun _ => Slot.reset) p.slots n
def Part.setSlot (p : Part) (n : Nat) (x : Slot) : Part := { p with slots := Map.set (fun _ => Slot.reset) p.slots n x }
def Part.queue (p : Part) (c : Nat) : List QEntry := Map.get (fun _ => []) p.queues c
def Part.setQueue (p : Part) (c : Nat) (q : List QEntry) : Part := { p with queues := Map.set (fun _ => []) p.queues c q }

/-! MMIO registers. -/

def State.reg (s : State) (o : Nat) : Word := Map.get regReset s.regs o
def State.setReg (s : State) (o : Nat) (v : Word) : State := { s with regs := Map.set regReset s.regs o v }
def getReg (o : Nat) : Exec Word := do let s ← get; pure (s.reg o)
def setReg (o : Nat) (v : Word) : Exec Unit := modify fun s => s.setReg o v

/-- A field of a register. -/
def State.field (s : State) (o lo n : Nat) : Nat := Word.bits (s.reg o) lo n
def State.flag (s : State) (o i : Nat) : Bool := Word.bit (s.reg o) i
def setField (o lo n v : Nat) : Exec Unit := modify fun s => s.setReg o (Word.setBits (s.reg o) lo n v)
def setFlag (o i : Nat) (b : Bool) : Exec Unit := setField o i 1 b.toNat

/-! Links. -/

def State.link (s : State) (p : Nat) : Link := Map.get (fun _ => Link.reset) s.links p
def updLink (p : Nat) (f : Link → Link) : Exec Unit :=
  modify fun s => { s with links := Map.set (fun _ => Link.reset) s.links p (f (s.link p)) }

/-! Power, boot. -/

def updPower (f : Power → Power) : Exec Unit := modify fun s => { s with power := f s.power }
def updBoot (f : Boot → Boot) : Exec Unit := modify fun s => { s with boot := f s.boot }

/-! Which partition an agent belongs to, and its world (R104). -/

/-- Whether a partition exists. -/
def State.partOn (s : State) (k : Nat) : Bool := s.flag (Reg.partCtl k) 0

/-- The partition of a physical core. -/
def State.partOfCore (s : State) (c : Nat) : Option Nat :=
  (List.range 8).find? fun k => s.partOn k && (s.part k).phys.contains c

def State.partOf (s : State) : Agent → Option Nat
  | .stream c _ => s.partOfCore c
  | .service c => s.partOfCore c
  | .frontEnd f => if s.partOn f then some f else none
  | .mgmt => none

/-- Whether another job is ready on a core. -/
def State.otherReady (s : State) (c : Nat) : Bool :=
  match s.partOfCore c with
  | none => false
  | some k => (s.part k).ready.any fun e => e.1 / 4 == c && ! e.2.isEmpty

/-- PART_CTL.WORLD: whether a partition is secure. -/
def State.partWorld (s : State) (k : Nat) : Bool := s.flag (Reg.partCtl k) 4

/-- Whether an agent is secure: a core without a partition has none and is non-secure; a front end that serves none is secure. -/
def State.world (s : State) (a : Agent) : Bool :=
  match a with
  | .mgmt => true
  | .frontEnd f => if s.partOn f then s.partWorld f else true
  | _ => match s.partOf a with
    | some k => s.partWorld k
    | none => false

/-- FAB_CFG.PKGID. -/
def State.pkg (s : State) : Nat := s.field Reg.fabCfg 16 10

end Sys2Proof.Machine
end

