-- ==== Sys2Proof/Machine/Mem.lean ====
section
/-! DEFINITION. Physical memory: the map of the address space, the region table (R105–R112), blocks with check values and poison
(R122–R128, R515), and reads and writes at the ordering points with the versions that snapshots choose from (R289–R292). -/
namespace Sys2Proof.Machine

/-- The canonical form of memory: addresses strictly rising, and no byte that is zero, which an unlisted address reads as (log 5). -/
def Memory.wf (m : List Host.Cell) : Bool := Map.wf (fun _ => 0#8) m

/-- What stands at a physical address (R83, R153, R271; log 8). -/
inductive Place
  | hbm | tier2 | beyondTier2 | hostMem | fabric (pkg off : Nat) | fabricReserved | scratch | aliasReserved | mmio | hole
  deriving DecidableEq, Repr

/-- The size of the second tier in bytes; 0 while T2_CFG.EN is 0 (R153). -/
def State.tier2Size (s : State) : Nat := if s.flag Reg.t2Cfg 0 then s.field Reg.t2Cfg 16 16 * 2 ^ 30 else 0

/-- The physical map. The window onto the own package reaches local HBM (R83). -/
def State.place (s : State) (pa : Nat) : Place :=
  if pa < 2 ^ 40 then .hbm
  else if pa < 0x1000000000000 then .hole
  else if pa < 0x1000000000000 + s.tier2Size then .tier2
  else if pa < 0x2000000000000 then .beyondTier2
  else if pa < 0x8000000000000 then .hostMem
  else if pa < 0xC000000000000 then
    let pkg := (pa - 0x8000000000000) / 2 ^ 40
    if pkg = s.pkg then .hbm else .fabric pkg (pa % 2 ^ 40)
  else if pa < 0xE000000000000 then .fabricReserved
  else if pa < 0xE000020000000 then .scratch
  else if pa < 0xF000000000000 then .aliasReserved
  else if pa < 0x10000000000000 then .mmio
  else .hole

/-- The address at which a byte is stored: the window onto the own package is HBM. -/
def State.home (s : State) (pa : Nat) : Nat :=
  if 0x8000000000000 ≤ pa ∧ pa < 0xC000000000000 ∧ (pa - 0x8000000000000) / 2 ^ 40 = s.pkg then pa % 2 ^ 40 else pa

/-- The alias address of an offset of a physical core's scratchpad (R271). -/
def aliasOf (core off : Nat) : Nat := 0xE000000000000 + 0x400000 * core + off

/-! The region table. -/

/-- Whether entry `k` of the region table holds an address (R108). -/
def State.rgnHolds (s : State) (k pa : Nat) : Bool :=
  s.flag (Reg.rgnLo k) 63 && decide (s.field (Reg.rgnLo k) 16 36 ≤ pa / 65536) && decide (pa / 65536 ≤ s.field (Reg.rgnHi k) 16 36)

/-- The lowest-numbered valid entry that holds an address. -/
def State.rgnEntry (s : State) (pa : Nat) : Option Nat := (List.range 256).find? fun k => s.rgnHolds k pa

/-- Whether an address is secure (R108). -/
def State.rgnSecure (s : State) (pa : Nat) : Bool :=
  match s.rgnEntry pa with
  | some k => s.flag (Reg.rgnLo k) 62
  | none => s.flag Reg.rgnCfg 0

/-- Whether an agent of world `w` (true: secure) may access an address (R105). -/
def State.rgnAllows (s : State) (w : Bool) (pa : Nat) : Bool :=
  if s.rgnSecure pa then w
  else ! w || (match s.rgnEntry pa with
    | some k => s.flag (Reg.rgnLo k) 61
    | none => false)

/-! Bytes, blocks and versions. -/

/-- The content of a byte; memory that nothing has written reads zero (log 5). -/
def State.byte (s : State) (pa : Nat) : Byte := Map.get (fun _ => 0#8) s.mem (s.home pa)

/-- `n` bytes at an address, the current content of the ordering point. -/
def State.bytes (s : State) (pa : Nat) : Nat → List Byte
  | 0 => []
  | n + 1 => s.byte pa :: s.bytes (pa + 1) n

def State.word (s : State) (pa : Nat) : Word := leWord (s.bytes pa 8)

def State.meta (s : State) (b : Nat) : Meta := Map.get (fun _ => Meta.clear) s.blocks b

def setMeta (b : Nat) (m : Meta) : Exec Unit :=
  modify fun s => { s with blocks := Map.set (fun _ => Meta.clear) s.blocks b m }

/-- The block of an address. -/
def State.block (s : State) (pa : Nat) : Nat := s.home pa / 256

/-- Poisoning a block, recorded where the bit was clear (R128). -/
def poisonBlock (b : Nat) (cause : Cause) : Exec Unit := do
  let s ← get
  if (s.meta b).poison.isSome then pure ()
  else
    setMeta b { s.meta b with poison := some cause }
    setReg Reg.integLast (BitVec.ofNat 64 (cause.toNat * 2 ^ 54 + b % 2 ^ 44 * 2 ^ 8 + 1))
    setField Reg.integCnt 32 32 (min (s.field Reg.integCnt 32 32 + 1) 0xFFFFFFFF)

/-- Whether a poisoning came from the storage itself and so holds for every version (R515). -/
def storageCause (c : Cause) : Bool := c == 0x290#10 || c == 0x292#10 || c == 0x295#10

/-- The exit check of a block's current content (R126): the cause of its failure, the block then poisoned. -/
def exitCheck (b : Nat) : Exec (Option Cause) := do
  let s ← get
  let m := s.meta b
  if m.ecc then do poisonBlock b 0x292#10; pure (some 0x292#10)
  else if m.poison.isSome then pure (some 0x291#10)
  else if m.synd ≠ 0#32 then do poisonBlock b 0x290#10; pure (some 0x290#10)
  else pure none

/-- The blocks that `n` bytes from an address lie in. -/
def State.blocksOf (s : State) (pa n : Nat) : List Nat :=
  if n = 0 then [] else range (s.block pa) (s.block (pa + n - 1) + 1 - s.block pa)

/-- The exit checks of several blocks, up to the first failure. -/
def exitChecks : List Nat → Exec (Option Cause)
  | [] => pure none
  | b :: bs => do
    match ← exitCheck b with
    | some c => pure (some c)
    | none => exitChecks bs

/-- The publication count of a granule's current content. -/
def State.granVer (s : State) (g : Nat) : Nat := Map.get (fun _ => 0) s.gver g
def State.granHist (s : State) (g : Nat) : List Ver := Map.get (fun _ => []) s.hist g

/-- A granule's content superseded by a write with publication number `seq`. -/
def State.supersede (s : State) (seq g : Nat) : State :=
  { s with
    hist := Map.set (fun _ => []) s.hist g (⟨s.granVer g, s.bytes (64 * g) 64, (s.meta (g / 4)).poison⟩ :: s.granHist g),
    gver := Map.set (fun _ => 0) s.gver g seq,
    wrel := Map.set (fun _ => 0) s.wrel g 0 }

def State.supersedeAll (s : State) (seq : Nat) : List Nat → State
  | [] => s
  | g :: gs => (s.supersede seq g).supersedeAll seq gs

/-- Storing bytes. -/
def State.putBytes (s : State) : List (Nat × Byte) → State
  | [] => s
  | (a, v) :: bs => { s with mem := Map.set (fun _ => 0#8) s.mem (s.home a) v }.putBytes bs

/-- The 64-byte granules of a list of addresses, each once, in order of first occurrence. -/
def granulesOf : List Nat → List Nat
  | [] => []
  | a :: as => let gs := granulesOf as; if gs.contains (a / 64) then gs else a / 64 :: gs

/-- Whether a byte belongs to phase-buffered global memory, whose versions snapshots choose from (R289). -/
def versioned (a : Nat) : Bool := decide (a < 0x8000000000000)

/-- The written bits of scratchpad granules (R197). -/
def State.markWritten (s : State) (gs : List Nat) : State :=
  gs.foldl (fun s g => { s with swritten := Map.set (fun _ => false) s.swritten g true }) s

/-- A write to one 256-byte block at its ordering point (R125): data, check value and poison change together. `poison` marks
data that is poisoned itself. The answer says whether the old block failed its check. -/
def blockWrite (bytes : List (Nat × Byte)) (poison : Option Cause) : Exec Bool := do
  match bytes with
  | [] => pure false
  | (a0, _) :: _ =>
    let s ← get
    let b := s.block a0
    let m := s.meta b
    let whole := decide (256 ≤ bytes.length)
    let failed := ! whole && (m.ecc || m.poison.isSome || m.synd != 0#32)
    let bad : Option Cause := if poison.isSome then poison else if failed then some 0x294#10 else none
    let gs := granulesOf (bytes.map fun e => s.home e.1)
    if versioned (s.home a0) then
      let gs := if bad.isSome || m.poison.isSome || whole then range (4 * b) 4 else gs
      modify fun s => { s.supersedeAll (s.gseq + 1) gs with gseq := s.gseq + 1 }
    else modify fun s => s.markWritten gs
    modify fun s => s.putBytes bytes
    let old := if whole then none else m.poison
    setMeta b ⟨0#32, false, if whole && bad.isSome then m.poison else old⟩
    match bad with
    | some c => poisonBlock b c
    | none => pure ()
    pure failed

/-- The first byte addresses of the pieces of `[a, a + n)` that lie in one `u`-byte unit each, with their lengths. -/
def pieces (u : Nat) : Nat → Nat → Nat → List (Nat × Nat)
  | 0, _, _ => []
  | fuel + 1, a, n =>
    if n = 0 then []
    else
      let k := min n (u - a % u)
      (a, k) :: pieces u fuel (a + k) (n - k)

/-- Pairing bytes with the addresses from `a` on. -/
def addressed (a : Nat) : List Byte → List (Nat × Byte)
  | [] => []
  | b :: bs => (a, b) :: addressed (a + 1) bs

/-- A write of consecutive bytes, block by block in address order; whether any old block failed its check. -/
def physWrite (a : Nat) (data : List Byte) (poison : Option Cause) : Exec Bool := do
  let rs ← mapE (pieces 256 (data.length / 256 + 2) a data.length) fun p =>
    blockWrite (addressed p.1 ((data.drop (p.1 - a)).take p.2)) poison
  pure (rs.any id)

/-- A whole block's data with its carried check value and poison (R124): the destination takes the source's. -/
def carryBlock (dst src : Nat) : Exec Unit := do
  let s ← get
  let m := s.meta (s.block src)
  let data := addressed dst (s.bytes src 256)
  let _ ← blockWrite data none
  let b := s.block dst
  match m.poison with
  | some c => do
    let t ← get
    setMeta b { t.meta b with poison := (s.meta b).poison }
    poisonBlock b c
  | none => pure ()
  modify fun t => { t with blocks := Map.set (fun _ => Meta.clear) t.blocks b { t.meta b with synd := m.synd } }

/-! Memory counters (R259): the word lies in memory, its poison and the adds that carry releases beside it. -/

def State.mcounter (s : State) (pa : Nat) : MemCounter := Map.get (fun _ => MemCounter.clear) s.mcnts (s.home pa)

def setMcounter (pa : Nat) (m : MemCounter) : Exec Unit :=
  modify fun s => { s with mcnts := Map.set (fun _ => MemCounter.clear) s.mcnts (s.home pa) m }

/-- Poisoning a memory counter; a poisoned counter stays as it is. -/
def poisonMcounter (pa : Nat) (cause : Cause) : Exec Unit := do
  let s ← get
  let m := s.mcounter pa
  if m.poison.isSome then pure () else setMcounter pa { m with poison := some cause }

/-- An add to a memory counter at its ordering point (R258, R309): overflow poisons it, and so does a failed read half. The
releases are what the add carries (R298). -/
def addMcounter (pa : Nat) (v : Word) (rels : List Rel) : Exec Unit := do
  let s ← get
  let m := s.mcounter pa
  if m.poison.isSome then pure ()
  else
    match ← exitCheck (s.block pa) with
    | some c => poisonMcounter pa c
    | none =>
      let old := s.word pa
      if 2 ^ 64 ≤ old.toNat + v.toNat then poisonMcounter pa 0x102#10
      else
        let _ ← physWrite pa (leBytes 8 (old + v).toNat) none
        setMcounter pa { m with rels := rels ++ m.rels }

end Sys2Proof.Machine
end

