-- ==== Sys2Proof/Machine/Net.lean ====
section
/-! DEFINITION. Sending messages over the optical fabric (R59, R75, R84, R85, R95, R96, R99): queues at the ports, and the remote
requests that wait for an answer. -/
namespace Sys2Proof.Machine

def tyDATA : BitVec 8 := 0x01#8
def tyRDREQ : BitVec 8 := 0x02#8
def tyRDRSP : BitVec 8 := 0x03#8
def tyWRREQ : BitVec 8 := 0x04#8
def tyATREQ : BitVec 8 := 0x05#8
def tyATRSP : BitVec 8 := 0x06#8
def tyCADD : BitVec 8 := 0x07#8
def tyWRACK : BitVec 8 := 0x08#8
def tyACKONLY : BitVec 8 := 0x10#8
def tyNAK : BitVec 8 := 0x11#8
def tyLSR : BitVec 8 := 0x12#8
def tyTSYNC : BitVec 8 := 0x14#8
def tyCHIM : BitVec 8 := 0x15#8
def tyRSUSP : BitVec 8 := 0x16#8
def tyRRESUME : BitVec 8 := 0x17#8
def tyATTEST : BitVec 8 := 0x18#8
def tyRSACK : BitVec 8 := 0x19#8

/-- The virtual channel of a flit type (R59); none for an unassigned type. -/
def vcOf (t : BitVec 8) : Option Nat :=
  match t.toNat with
  | 0x01 => some 3
  | 0x02 | 0x04 | 0x05 | 0x07 => some 0
  | 0x03 | 0x06 | 0x08 => some 1
  | 0x10 | 0x11 | 0x12 | 0x14 | 0x15 | 0x16 | 0x17 | 0x18 | 0x19 => some 2
  | _ => none

/-- Messages counted by the port nodes of the sweep: those of VC 0, 1 and 3 (R99). -/
def counted (t : BitVec 8) : Bool := vcOf t != some 2

/-- Bytes placed in a payload of zeros. -/
def payloadAt (parts : List (Nat × List Byte)) (n : Nat) : List Byte :=
  (List.range n).map fun i =>
    match parts.find? fun p => decide (p.1 ≤ i) && decide (i < p.1 + p.2.length) with
    | some p => p.2.getD (i - p.1) 0#8
    | none => 0#8

/-- A field of a payload. -/
def msgAt (m : Msg) (off n : Nat) : Nat := leVal ((m.payload.drop off).take n)

def addNode (l : Assoc (Nat × Nat)) (p recv sent : Nat) : Assoc (Nat × Nat) :=
  Map.upd (fun _ => (0, 0)) l p fun c => (c.1 + recv, c.2 + sent)

/-- PORT_STAT.STATE (R56, R71). -/
def State.portState (s : State) (p : Nat) : Nat := s.field (Reg.portStat p) 32 3

/-- Whether a port runs in circuit mode (R50). -/
def State.circuit (s : State) (p : Nat) : Bool := s.flag (Reg.optTrn p) 1

/-- The key of the send queue for a destination at a port (R75). -/
def State.queueKey (s : State) (p dst : Nat) : Nat := if s.circuit p then s.field (Reg.route dst) 6 10 else dst

/-- The keys whose queues a port has assigned. -/
def queueKeys : List SendMsg → List Nat
  | [] => []
  | m :: ms => let ks := queueKeys ms; if ks.contains m.key then ks else m.key :: ks

/-- A message entering a port: into its queue, or at the input while all 64 queues serve other keys, behind the messages of its
flow that wait there already (R75). -/
def State.enqueue (s : State) (p : Nat) (m : Msg) (parked : Bool) : State :=
  let key := s.queueKey p m.dst.toNat
  let l := s.link p
  let e : SendMsg := ⟨key, (vcOf m.typ).getD 2, m, 0, parked⟩
  let ks := queueKeys l.queue
  let room := (ks.contains key || decide (ks.length < 64)) && ! l.waiting.any (fun w => w.key == key && w.vc == e.vc)
  let l := if room then { l with queue := l.queue ++ [e] } else { l with waiting := l.waiting ++ [e] }
  let s := { s with links := Map.set (fun _ => Link.reset) s.links p l }
  if room && counted m.typ then { s with nodesE := addNode s.nodesE p 1 0 } else s

/-- The port a message to a package leaves by, or the cause of its failure at once (R84, R95). -/
def State.routePort (s : State) (dst : Nat) : Except Cause Nat :=
  let p := s.field (Reg.route dst) 0 6
  if p = 0x3F then .error 0x243#10
  else if s.portState p = 5 then .error 0x242#10
  else .ok p

/-- Sending a message that has no answer to wait for; without a route it is lost where it fails. -/
def sendMsg (m : Msg) : Exec Unit := do
  let s ← get
  match s.routePort m.dst.toNat with
  | .ok p => set (s.enqueue p m false)
  | .error _ => pure ()

/-- Sending a request with a fresh tag: the tag, or the cause of its failure at once. -/
def sendRequest (who : Requester) (part : Nat) (typ : BitVec 8) (world : Bool) (dst : Nat) (payload : List Byte) :
    Exec (Except Cause Nat) := do
  let s ← get
  match s.routePort dst with
  | .error c => pure (.error c)
  | .ok p =>
    let tag := s.nextTag
    let m : Msg := ⟨typ, world, BitVec.ofNat 10 s.pkg, BitVec.ofNat 10 dst, BitVec.ofNat 32 tag, payload⟩
    let s := { s with nextTag := tag + 1, remotes := Map.insert s.remotes tag ⟨who, part, m, p, none, payload.length⟩ }
    set (s.enqueue p m false)
    pure (.ok tag)

/-- The request payloads of R96. -/
def rdreqPayload (addr size : Nat) : List Byte := leBytes 8 addr ++ leBytes 4 size

def wrreqPayload (addr : Nat) (data : List (Nat × Byte)) (poison : Bool) : List Byte :=
  let off (b : Nat) := data.find? fun e => e.1 % 64 == b
  let mask := (List.range 64).foldl (fun m b => if (off b).isSome then m + 2 ^ b else m) 0
  leBytes 8 addr ++ leBytes 8 mask ++ ((List.range 64).map fun b => match off b with | some e => e.2 | none => 0#8) ++
    [if poison then 1#8 else 0#8]

def atreqPayload (addr op : Nat) (w ret : Bool) (b c : Word) : List Byte :=
  leBytes 8 addr ++ [BitVec.ofNat 8 op, BitVec.ofNat 8 (w.toNat + 2 * ret.toNat)] ++ leBytes 6 0 ++ leBytes 8 b.toNat ++
    leBytes 8 c.toNat

/-- A CADD to a memory counter (TARGET 0) or to a core counter (TARGET 1). -/
def caddMem (addr : Nat) (inc : Word) (poison : Option Cause) (rel : Bool) : List Byte :=
  [0#8, BitVec.ofNat 8 (poison.isSome.toNat + 2 * rel.toNat)] ++ leBytes 2 ((poison.getD 0#10).toNat) ++ leBytes 4 0 ++
    leBytes 8 addr ++ leBytes 8 0 ++ leBytes 8 inc.toNat

def caddCore (fpid rank k cls num : Nat) (inc : Word) (poison : Option Cause) (rel : Bool) : List Byte :=
  [1#8, BitVec.ofNat 8 (poison.isSome.toNat + 2 * rel.toNat)] ++ leBytes 2 ((poison.getD 0#10).toNat) ++ leBytes 4 0 ++
    leBytes 2 fpid ++ leBytes 2 rank ++ [BitVec.ofNat 8 k] ++ leBytes 3 0 ++ leBytes 4 (cls * 2 ^ 30 + num % 2 ^ 30) ++
    leBytes 4 0 ++ leBytes 8 inc.toNat

/-- The answered requests of one requester, and the ones still out. -/
def State.answerOf (s : State) (who : Requester) (m : Remote → Bool) : Option (Nat × Remote) :=
  s.remotes.find? fun e => e.2.who == who && m e.2

def dropRemote (tag : Nat) : Exec Unit := modify fun s => { s with remotes := Map.erase s.remotes tag }

end Sys2Proof.Machine
end

