-- ==== Sys2Proof/Machine/Xlat.lean ====
section
/-! DEFINITION. Translation: the page table (R272–R274), the range translation table (R275–R277), dirty bits (R279) and
re-walked entries (R282). -/
namespace Sys2Proof.Machine

/-- An entry of a page-table node (R273). -/
structure PtEntry where
  base : Nat
  limit : Nat
  link : Nat
  attr : Nat
  deriving DecidableEq, Repr

/-- A present mapping that a walk found (R274): the leaf, the address of its ATTR, and the page's frame where it is paged. -/
structure Leaf where
  base : Nat
  limit : Nat
  target : Nat
  dmap : Nat
  paged : Bool
  integ : Bool
  seal_ : Bool
  ms : Bool
  w : Bool
  attrPa : Nat
  frame : Nat
  present : Bool                -- PAGED = 0, or the page entry's P
  deriving DecidableEq, Repr

def State.nat (s : State) (pa n : Nat) : Nat := leVal (s.bytes pa n)

def State.ptEntry (s : State) (node e : Nat) : PtEntry :=
  let a := node + 16 + 32 * e
  ⟨s.nat a 8, s.nat (a + 8) 8, s.nat (a + 16) 8, s.nat (a + 24) 8⟩

def inHbm (pa n : Nat) : Bool := decide (pa + n ≤ 2 ^ 40)

/-- Whether an entry of a node is well formed within its parent's range. -/
def PtEntry.ok (e : PtEntry) (leaf : Bool) (lo hi : Nat) : Bool :=
  decide (e.base % 65536 = 0) && decide (e.limit % 65536 = 65535) && decide (e.base ≤ e.limit) && decide (lo ≤ e.base) &&
  decide (e.limit ≤ hi) &&
  (if leaf then
    let a := e.attr
    let npages := (e.limit + 1 - e.base) / 65536
    bitsAt a 52 12 == 0 && bitsAt a 7 9 == 0 && bitsAt a 5 1 == 0 &&
    (if bitsAt a 6 1 = 0 then
      (! (bitsAt a 1 1 == 1 && bitsAt a 16 36 == 0)) && (bitsAt a 16 36 == 0 || inHbm (bitsAt a 16 36 * 65536) npages) &&
      (bitsAt a 4 1 == 0 || inHbm ((e.base + e.link) % 2 ^ 52) (e.limit + 1 - e.base))
    else bitsAt a 16 36 == 0 && inHbm e.link (8 * npages))
  else e.attr == 0 && e.link % 512 == 0 && inHbm e.link 512)

def PtEntry.sorted : List PtEntry → Bool
  | a :: b :: r => decide (a.limit < b.base) && PtEntry.sorted (b :: r)
  | _ => true

/-- A walk for an address from a node that describes `[lo, hi]`: the leaf if there is one, or the malformed table (R274). -/
def State.walkFrom (s : State) (a : Nat) : Nat → Nat → Nat → Nat → Except Cause (Option Leaf)
  | 0, _, _, _ => .error 0x147#10
  | fuel + 1, node, lo, hi =>
    if ! inHbm node 512 then .error 0x147#10
    else
      let typ := s.nat node 1
      let cnt := s.nat (node + 1) 1
      let es := (List.range cnt).map (s.ptEntry node)
      if 1 < typ ∨ cnt = 0 ∨ 15 < cnt ∨ s.nat (node + 2) 14 ≠ 0 ∨ s.nat (node + 496) 16 ≠ 0 then .error 0x147#10
      else if ! (es.all fun e => e.ok (typ == 1) lo hi) || ! PtEntry.sorted es then .error 0x147#10
      else
        match (List.range cnt).find? fun i => decide ((s.ptEntry node i).base ≤ a) && decide (a ≤ (s.ptEntry node i).limit) with
        | none => .ok none
        | some i =>
          let e := s.ptEntry node i
          if typ = 0 then s.walkFrom a fuel e.link e.base e.limit
          else if bitsAt e.attr 0 1 = 0 then .ok none
          else
            let paged := bitsAt e.attr 6 1 == 1
            let pe := if paged then s.nat (e.link + 8 * ((a - e.base) / 65536)) 8 else 0
            let frame := bitsAt pe 16 36 * 65536
            let integ := bitsAt e.attr 4 1 == 1
            let present := ! paged || bitsAt pe 0 1 == 1
            if paged && (bitsAt pe 52 12 != 0 || bitsAt pe 2 14 != 0 || (present && integ && ! inHbm frame 65536)) then
              .error 0x147#10
            else .ok (some ⟨e.base, e.limit, e.link, bitsAt e.attr 16 36 * 65536, paged, integ, bitsAt e.attr 3 1 == 1,
              bitsAt e.attr 2 1 == 1, bitsAt e.attr 1 1 == 1, node + 16 + 32 * i + 24, frame, present⟩)

/-- A walk of a partition's page table (R272): nothing is mapped while PT_ROOT.V is 0. -/
def State.walk (s : State) (k a : Nat) : Except Cause (Option Leaf) :=
  if s.flag (Reg.ptRoot k) 0 then s.walkFrom a 1024 (s.field (Reg.ptRoot k) 9 43 * 512) 0 (2 ^ 64 - 1) else .ok none

/-- The physical address of a mapped address. -/
def Leaf.pa (l : Leaf) (a : Nat) : Nat := if l.paged then l.frame + a % 65536 else (a + l.target) % 2 ^ 52

/-- The RTT entry for one address (R280): the leaf range, or the page where the leaf is paged. -/
def Leaf.rtt (l : Leaf) (a : Nat) : Rtt :=
  if l.paged then
    let page := a / 65536 * 65536
    { base := page, limit := page + 65535, offset := (l.frame + 2 ^ 64 - page) % 2 ^ 64, dref := l.target + 8 * ((a - l.base) / 65536),
      dkind := true, integ := l.integ, sealed := l.seal_, ms := l.ms, w := l.w, v := true, stale := false }
  else
    { base := l.base, limit := l.limit, offset := l.target, dref := l.dmap, dkind := false, integ := l.integ, sealed := l.seal_,
      ms := l.ms, w := l.w, v := true, stale := false }

/-- An entry loaded for a range (R276 steps 2–4): valid where the range lies wholly in one present leaf with PAGED = 0. -/
def State.loadRange (s : State) (k base limit : Nat) (w : Bool) : Except Cause Rtt :=
  match s.walk k base with
  | .error c => .error c
  | .ok none => .ok .invalid
  | .ok (some l) =>
    if l.paged || decide (l.limit < limit) then .ok .invalid
    else .ok { base := base, limit := limit, offset := l.target, dref := l.dmap + (base / 65536 - l.base / 65536), dkind := false,
               integ := l.integ, sealed := l.seal_, ms := l.ms, w := w && l.w, v := true, stale := false }

/-- A range-list entry of 32 bytes (R169, R275): reserved bits set make it malformed, cause 0x148. -/
def rangeEntryOk (attr : Nat) : Bool :=
  bitsAt attr 12 52 == 0 && bitsAt attr 6 2 == 0

/-- Loading one range-list entry with the REL values of its core (R276). -/
def State.loadEntry (s : State) (k : Nat) (rel : Assoc Word) (bytes : List Byte) : Except Cause Rtt :=
  let f (o : Nat) := leVal ((bytes.drop o).take 8)
  let attr := f 24
  if ! rangeEntryOk attr then .error 0x148#10
  else if bitsAt attr 0 1 = 0 then .ok .invalid
  else
    let r := if bitsAt attr 5 1 = 1 then (Map.get (fun _ => 0#64) rel (bitsAt attr 8 4)).toNat else 0
    s.loadRange k ((f 0 + r) % 2 ^ 64) ((f 8 + r) % 2 ^ 64) (bitsAt attr 1 1 == 1)

def Job.rttAt (j : Job) (i : Nat) : Rtt := Map.get (fun _ => Rtt.invalid) j.rtt i
def setRtt (c i : Nat) (r : Rtt) : Exec Unit := updJob c fun j => { j with rtt := Map.set (fun _ => Rtt.invalid) j.rtt i r }

/-- Walking a stale entry again (R282): without a present mapping it becomes invalid, never a fault. -/
def State.rewalk (s : State) (k : Nat) (r : Rtt) : Rtt :=
  if r.dkind then
    match s.walk k r.base with
    | .ok (some l) => if l.paged && l.present then { l.rtt r.base with w := r.w && l.w } else .invalid
    | _ => .invalid
  else
    match s.loadRange k r.base r.limit r.w with
    | .ok e => e
    | .error _ => .invalid

/-- Whether bits [63:57] of an address all equal bit 56 (R269). -/
def canonical (a : Nat) : Bool := a / 2 ^ 56 == 0 || a / 2 ^ 56 == 0xFF

/-- The entry that an address uses: the lowest-numbered valid one that holds it (R277), stale ones walked again first. -/
def rttLookup (c a : Nat) : Nat → Exec (Option (Nat × Rtt))
  | 0 => pure none
  | fuel + 1 => do
    let s ← get
    let j := s.job c
    if ! canonical a then pure none
    else
      match (List.range 64).find? fun i => let r := j.rttAt i; r.v && decide (r.base ≤ a) && decide (a ≤ r.limit) with
      | none => pure none
      | some i =>
        let r := j.rttAt i
        if r.stale then do
          setRtt c i (s.rewalk j.part r)
          rttLookup c a fuel
        else pure (some (i, r))

/-- A translated address. -/
structure Tr where
  pa : Nat
  rtt : Rtt
  deriving DecidableEq, Repr

/-- What stops an access at a physical address, user (through an RTT) or not (R83, R105, R153, R271; log 8). -/
def State.placeFault (s : State) (user world : Bool) (pa : Nat) : Option Cause :=
  match s.place pa with
  | .beyondTier2 => some 0x146#10
  | .fabricReserved => some 0x244#10
  | .aliasReserved => some 0x149#10
  | .hole => some (if user then 0x149#10 else 0x280#10)
  | .fabric _ _ => none
  | .mmio => if user then some 0x149#10 else if s.rgnAllows world pa then none else some 0x281#10
  | _ => if s.rgnAllows world pa then none else some 0x280#10

/-- Setting the dirty bit of a page through an entry, once per page until an invalidation covers it (R279). -/
def setDirty (c a : Nat) (r : Rtt) : Exec Unit := do
  let s ← get
  if (s.core c).dirtied.contains (a / 65536) then pure ()
  else
    updCore c fun x => { x with dirtied := a / 65536 :: x.dirtied }
    let d := if r.dkind then r.dref else r.dref + (a / 65536 - r.base / 65536)
    let b := s.byte d ||| (if r.dkind then 2#8 else 1#8)
    if b = s.byte d then pure ()
    else
      let _ ← blockWrite [(d, b)] none
      pure ()

/-- Translating a global access of the job on core `c` (R269, R277): the fault of the access, or its physical address. A write
through an entry sets the page's dirty bit where `dirty` says that it is made now. -/
def translate (c : Nat) (write dirty : Bool) (a : Nat) : Exec (Except Cause Tr) := do
  match ← rttLookup c a 65 with
  | none => pure (.error 0x140#10)
  | some (_, r) =>
    let pa := (a + r.offset) % 2 ^ 52
    if write && ! r.w then pure (.error 0x141#10)
    else if write && r.sealed then pure (.error 0x145#10)
    else
      let s ← get
      match s.placeFault true (s.partWorld (s.job c).part) pa with
      | some f => pure (.error f)
      | none => do
        if write && dirty then setDirty c a r
        pure (.ok ⟨pa, r⟩)

end Sys2Proof.Machine
end

