-- ==== Sys2Proof/Machine/Ops.lean ====
section
/-! DEFINITION. The named operations: fault records and queues (R262, R263, R283–R287), taking an exception (R264, R265, R283,
R409) and returning from one (R264, R391), core counters (R256–R258), what releases and acquires carry (R296–R299), the
custody counters of the chimney (R189), and the end of a task by a fatal error (R174). -/
namespace Sys2Proof.Machine

/-! Fault records (R287). -/

/-- What a fault record holds beside its cause, place and time. -/
structure FInfo where
  addr : Word
  aux : Word
  pos : Nat
  cursor : Nat
  ckind : Nat
  port : Option Nat
  opnd : Nat
  counter : Nat
  deriving DecidableEq, Repr

def FInfo.plain : FInfo := ⟨0#64, 0#64, 0, 0, 0, none, 0xFF, 0⟩
def FInfo.at (a : Word) : FInfo := { FInfo.plain with addr := a }

/-- The 64 bytes of a fault record. -/
def faultRecord (cause : Cause) (kind source lcore task pc : Nat) (i : FInfo) (dcc : Word) : List Byte :=
  leBytes 2 cause.toNat ++ [BitVec.ofNat 8 kind, BitVec.ofNat 8 source] ++ leBytes 2 lcore ++ leBytes 2 0 ++ leBytes 4 task ++
    leBytes 4 0 ++ leBytes 8 pc ++ leBytes 8 i.addr.toNat ++ leBytes 8 i.aux.toNat ++ leBytes 8 i.pos ++ leBytes 2 i.cursor ++
    [BitVec.ofNat 8 i.ckind, (match i.port with | some p => BitVec.ofNat 8 (0x80 + p) | none => 0#8), BitVec.ofNat 8 i.opnd,
      0#8] ++ leBytes 2 i.counter ++ leBytes 8 dcc.toNat

/-- A counter as COUNTER names it: [15] valid, [14] memory counter, [7:0] index. -/
def CRef.code : CRef → Nat
  | .core n => 0x8000 + n
  | .mem _ => 0xC000

def counterCode : Option CRef → Nat
  | some r => r.code
  | none => 0

/-- Records in a core's fault queue (R263). -/
def Core.fqCount (x : Core) : Nat := (x.fqTail + 16 - x.fqHead) % 16

/-- Writing a record into a core's fault queue: a droppable one leaves five entries free (R263). -/
def fqPush (c : Nat) (droppable : Bool) (rec : List Byte) : Exec Unit :=
  updCore c fun x =>
    if droppable && decide (11 ≤ x.fqCount) then { x with fqLost := min (x.fqLost + 1) 0xFFFF }
    else { x with svcMem := Map.setN (fun _ => 0#8) x.svcMem (64 * x.fqTail) rec, fqTail := (x.fqTail + 1) % 16 }

def fqLost (c : Nat) : Exec Unit := updCore c fun x => { x with fqLost := min (x.fqLost + 1) 0xFFFF }

/-- A record about the job on core `c`. -/
def jobRecord (s : State) (c : Nat) (cause : Cause) (kind source pc : Nat) (i : FInfo) : List Byte :=
  let j := s.job c
  faultRecord cause kind source j.lcore j.task pc i s.dcc

/-- An asynchronous fault record (R283). -/
def asyncRecord (c source pc : Nat) (cause : Cause) (i : FInfo) : Exec Unit := do
  let s ← get
  fqPush c true (jobRecord s c cause 1 source pc i)

/-! Parties, releases and knowledge (R296–R299). -/

def Know.ver (k : Know) (g : Nat) : Nat := max k.base (Map.get (fun _ => 0) k.per g)

/-- Knowledge of one version of a granule. -/
def Know.add (k : Know) (g v : Nat) : Know := { k with per := Map.set (fun _ => 0) k.per g (max v (Map.get (fun _ => 0) k.per g)) }

def Know.join (a b : Know) : Know :=
  { base := max a.base b.base, per := b.per.foldl (fun m e => Map.set (fun _ => 0) m e.1 (max e.2 (Map.get (fun _ => 0) m e.1))) a.per }

/-- The party an agent is. -/
def State.party (s : State) (a : Agent) : Party :=
  match a with
  | .stream c _ => ⟨s.pkg, (s.job c).part, some (s.job c).lcore, agentNo a⟩
  | .service c => ⟨s.pkg, (s.partOfCore c).getD 8, some (s.core c).resident, agentNo a⟩
  | .frontEnd f => ⟨s.pkg, f, none, agentNo a⟩
  | .mgmt => ⟨s.pkg, 8, none, agentNo a⟩

/-- Whether two parties stand inside one scope (R296). -/
def insideScope (scope : Nat) (a b : Party) : Bool :=
  match scope with
  | 0 => a.agent == b.agent && a.pkg == b.pkg
  | 1 => a.pkg == b.pkg && a.part == b.part && a.lcore == b.lcore && a.lcore.isSome
  | 2 => a.pkg == b.pkg && a.part == b.part &&
      (match a.lcore, b.lcore with | some x, some y => x / 32 == y / 32 | _, _ => false)
  | 3 => a.pkg == b.pkg
  | _ => a.pkg == b.pkg || a.part == b.part || b.part == 9 || a.part == 9

/-- What an acquire of `scope` by a party gains from releases (R298): the narrower scope must contain both. -/
def gainOf (scope : Nat) (me : Party) (rels : List Rel) : Know :=
  rels.foldl (fun k r => if insideScope (min scope r.scope) me r.party then k.join r.know else k) .zero

/-- Opening a phase for an agent (R290, R291): its snapshot holds at least what it knows, and what a closed sweep of its
partition made visible (R314). Unpublished writes stay in the overlay (log 11). -/
def openPhase (a : Agent) (gained : Know) : Exec Unit := do
  let s ← get
  let h := s.hart a
  let closed := match s.partOf a with
    | some k => (s.part k).closed
    | none => 0
  let k := (h.know.join gained).join ⟨closed, []⟩
  set { (s.setHart a { h with know := k, shown := [], phases := ⟨s.nextPhase, s.gseq, k⟩ :: h.phases }) with
    nextPhase := s.nextPhase + 1 }

/-- An acquire of `scope` that observed `rels` (R297, R298). -/
def acquire (a : Agent) (scope : Nat) (rels : List Rel) : Exec Unit := do
  let s ← get
  openPhase a (gainOf scope (s.party a) rels)

/-! Core counters (R256–R258). -/

def Job.counter (j : Job) (n : Nat) : Counter := Map.get (fun _ => Counter.zero) j.counters n
def Job.setCounter (j : Job) (n : Nat) (x : Counter) : Job := { j with counters := Map.set (fun _ => Counter.zero) j.counters n x }

/-- Counter[Kn], the view of the job. -/
def Counter.view (x : Counter) : Word := x.phys - x.base

/-- An add to a counter: nothing on a poisoned one; overflow poisons it with 0x102 and leaves the value (R258, R392). -/
def Counter.add (x : Counter) (v : Word) (rels : List Rel) : Counter :=
  if x.poison.isSome then x
  else if 2 ^ 64 ≤ x.phys.toNat + v.toNat then { x with poison := some 0x102#10 }
  else { x with phys := x.phys + v, rels := rels ++ x.rels }

def Counter.poisonWith (x : Counter) (c : Cause) : Counter := if x.poison.isSome then x else { x with poison := some c }

def Job.addCounter (j : Job) (n : Nat) (v : Word) (rels : List Rel) : Job := j.setCounter n ((j.counter n).add v rels)
def Job.poisonCounter (j : Job) (n : Nat) (c : Cause) : Job := j.setCounter n ((j.counter n).poisonWith c)

/-! Custody (R189): received and sent by node of the chimney tree: cores 0–127, their Cart queues from 128, the Coach unit 256
(its held adds apart, 260), the front end by item: job tokens 257, queue entries of children and of XPOSE 258, suspended ranks
259. A host entry that waits in its queue is in no sweep (log 40). -/

def coachNode : Nat := 256
def feNode : Nat := 257
def entryNode : Nat := 258
def suspNode : Nat := 259
def heldNode : Nat := 260

def custody (k node recv sent : Nat) : Exec Unit :=
  updPart k fun p => { p with custody := addNode p.custody node recv sent }

/-- Counter windows (R136): the address of counter `i` of partition `k`. -/
def State.window (s : State) (k i : Nat) : Nat := s.field (Reg.cwinBase k) 16 36 * 65536 + 8 * i

/-- An add to a counter of a partition's window, with what it releases. -/
def addWindow (k i : Nat) (v : Nat) (rels : List Rel) : Exec Unit := do
  let s ← get
  addMcounter (s.window k i) (BitVec.ofNat 64 v) rels

def poisonWindow (k i : Nat) (c : Cause) : Exec Unit := do
  let s ← get
  poisonMcounter (s.window k i) c

/-! The fatal end of a task (R174). -/

/-- The jobs of a task that run on cores. -/
def State.taskCores (s : State) (k t : Nat) : List Nat :=
  (s.part k).phys.filter fun c => (s.job c).live && (s.job c).part == k && (s.job c).task == t

/-- The jobs of a task that lie in job frames. -/
def State.taskFrames (s : State) (k t : Nat) : List Nat :=
  (s.frames.filter fun e => e.2.job.part == k && e.2.job.task == t).map (·.1)

/-- The address of a memory counter reference that names this package's storage, without faults: what poison and adds of a
command in progress reach (R393). A scratchpad form names the logical core of the job's own logical cluster. -/
inductive MRef | here (pa : Nat) | far (pkg off : Nat) | invalid (cause : Cause)
  deriving DecidableEq, Repr

/-- The physical core of a logical core of a partition (R161, R224). -/
def Part.coreOf (p : Part) (l : Nat) : Nat := p.phys.getD (if p.phys.length = 0 then 0 else l % p.phys.length) 0

/-- Whether a logical core is the resident one of its physical core (R225). -/
def State.resident (s : State) (k l : Nat) : Bool := (s.core ((s.part k).coreOf l)).resident == l

/-- The shadow-frame address of an offset of logical core `l`'s scratchpad (R198). -/
def State.shadowOf (s : State) (k l off : Nat) : Nat := s.field (Reg.shadowBase k) 16 36 * 65536 + 4259840 * l + off

/-- Where a scratchpad offset of a logical core is served: its owning port, or its frame through the proxy port (R227). -/
def State.scratchPa (s : State) (k l off : Nat) : Nat :=
  if s.resident k l then aliasOf ((s.part k).coreOf l) off else s.shadowOf k l off

/-- A scratchpad address in the form of R270 for a job of core `c`: logical core and offset. -/
def State.scratchAddr (s : State) (c : Nat) (a : Nat) : Option (Nat × Nat) :=
  let j := s.job c
  let l := j.lcore / 32 * 32 + bitsAt a 22 5
  if a / 2 ^ 27 ≠ 0 ∨ (s.part j.part).lcores ≤ l then none else some (l, a % 2 ^ 22)

/-- Resolving a memory counter reference of a job (R259, R393). -/
def resolveMem (c : Nat) (ref : Word) : Exec MRef := do
  let s ← get
  if Word.bits ref 0 3 ≠ 0 then pure (.invalid 0x104#10)
  else if Word.bit ref 63 && ! canonical ref.toNat then
    match s.scratchAddr c (Word.bits ref 0 63) with
    | none => pure (.invalid 0x104#10)
    | some (l, off) => pure (.here (s.scratchPa (s.job c).part l off))
  else
    match ← rttLookup c ref.toNat 65 with
    | none => pure (.invalid 0x104#10)
    | some (_, r) =>
      let pa := (ref.toNat + r.offset) % 2 ^ 52
      if ! r.ms then pure (.invalid 0x104#10)
      else
        match s.place pa with
        | .hbm => pure (if s.rgnAllows (s.partWorld (s.job c).part) pa then .here (s.home pa) else .invalid 0x280#10)
        | .fabric p o => pure (.far p o)
        | _ => pure (.invalid 0x104#10)

/-- Poisoning the counter that a command of core `c`'s job names. -/
def poisonRef (c : Nat) (r : Option CRef) (cause : Cause) : Exec Unit :=
  match r with
  | none => pure ()
  | some (.core n) => updJob c fun j => j.poisonCounter n cause
  | some (.mem ref) => do
    match ← resolveMem c ref with
    | .here pa => poisonMcounter pa cause
    | .far p o => do
      let s ← get
      let _ ← sendRequest (.add c) (s.job c).part tyCADD (s.partWorld (s.job c).part) p (caddMem o 0#64 (some cause) false)
      pure ()
    | .invalid _ => pure ()

/-- Unstarted Cart entries removed without acting, each poisoning its signal counter (R174); started ones stay. -/
def dropUnstarted (c k : Nat) (cause : Cause) : List CartCmd → Exec (List CartCmd)
  | [] => pure []
  | q :: qs => do
    if q.started then do
      let r ← dropUnstarted c k cause qs
      pure (q :: r)
    else do
      poisonRef c q.cl.sig cause
      custody k (128 + c) 0 1
      dropUnstarted c k cause qs

/-- Ending a job on core `c` by a fatal error: its streams stop, what has not started is removed. -/
def killJob (c : Nat) (cause : Cause) : Exec Unit := do
  let j ← getJob c
  each j.streams fun e => updHartOf (.stream c e) fun h => { h with stat := .halted, blocked := .none, wait := none }
  let lq ← dropUnstarted c j.part cause j.loadQ
  let sq ← dropUnstarted c j.part cause j.storeQ
  custody j.part c 0 j.rlds.length
  updJob c fun j => { j with loadQ := lq, storeQ := sq, mcmds := [], fcmds := [], psb := [], pairReq := none, rlds := [], rldFault := [],
                             qbar := false }

/-- Removing a job that lies in a frame by a fatal error: its saved Cart entries are unstarted and poison memory counters. -/
def killFrame (n : Nat) (cause : Cause) : Exec Unit := do
  let s ← get
  match Map.find s.frames n with
  | none => pure ()
  | some f => do
    let j := f.job
    let c := (s.part j.part).coreOf j.lcore
    each (j.loadQ ++ j.storeQ) fun q =>
      match q.cl.sig with
      | some (.mem r) => poisonRef c (some (.mem r)) cause
      | _ => pure ()
    updCore c fun x => { x with resting := (range 0 256).foldl (fun m i =>
      Map.upd (fun _ => 0#64) m i fun w => if w.toNat < (j.counter i).phys.toNat then (j.counter i).phys else w) x.resting }
    modify fun s => { s with frames := Map.erase s.frames n }
    custody j.part feNode 0 1
    updPart j.part fun p =>
      { p with tasks := Map.upd (fun _ => Task.absent) p.tasks j.task fun t =>
                 { t with jobs := t.jobs.filter (· != n) },
               ready := p.ready.map fun e => (e.1, e.2.filter (· != n)) }

/-- A fatal context error of task `t` of partition `k`: every job of it ends, and the cause goes to SEQ_STAT.CAUSE if that is 0.
The answer says whether this is the task's first (R174, R263). -/
def fatalTask (k t : Nat) (cause : Cause) : Exec Bool := do
  let p ← getPart k
  match Map.find p.tasks t with
  | none => pure false
  | some task =>
    if task.fatal.isSome then pure false
    else do
      updPart k fun p =>
        { p with tasks := Map.insert p.tasks t { task with fatal := some cause },
                 sweeps := p.sweeps.filter (·.by_ != .instr t),
                 seq := if p.seq.cause = 0#10 && p.seq.state != .idle then { p.seq with cause := cause } else p.seq }
      let s ← get
      each (s.taskCores k t) fun c => killJob c cause
      each (s.taskFrames k t) fun n => killFrame n cause
      pure true

/-- A fatal context error found on core `c`: the first of a task is recorded, a later one counts in LOST (R263). -/
def fatalOn (c source pc : Nat) (cause : Cause) (i : FInfo) : Exec Unit := do
  let s ← get
  let j := s.job c
  let rcd := jobRecord s c cause 2 source pc i
  if ← fatalTask j.part j.task cause then fqPush c false rcd else fqLost c

/-! The Flue (R154) and resets of controllers. -/

def flueByte (s : State) (a : Nat) : Byte := Map.get (fun _ => 0#8) s.flue a

/-- Guards g7–g0 as bits [7:0]; g0 is true. -/
def Hart.guardBits (h : Hart) : Nat :=
  (List.range 8).foldl (fun n i => if i = 0 || Map.get (fun _ => false) h.g i then n + 2 ^ i else n) 0

/-- A record written into a Flue slot by hardware. -/
def writeFlue (slot agentCode : Nat) (cause : Cause) (reason part : Nat) (pos cmdidx : Word) (h : Hart) (faddr : Word)
    (rec : List Byte) : Exec Unit :=
  modify fun s =>
    let a := 512 * slot
    let count := (Map.get (fun _ => 0) s.flueCnt slot + 1) % 2 ^ 32
    let body := [0x4B#8, 0x51#8, 0x46#8, 0x4C#8] ++ leBytes 2 1 ++ leBytes 2 agentCode ++ leBytes 8 s.dcc.toNat ++
      leBytes 2 cause.toNat ++ [BitVec.ofNat 8 reason, BitVec.ofNat 8 part] ++ leBytes 4 count ++ leBytes 8 h.pc ++
      leBytes 8 pos.toNat ++ leBytes 8 cmdidx.toNat ++ [BitVec.ofNat 8 h.guardBits] ++ leBytes 7 0 ++ leBytes 8 faddr.toNat ++
      ((range 1 31).flatMap fun i => leBytes 8 (Map.get (fun _ => 0#64) h.s i).toNat) ++
      (rec ++ List.replicate (64 - rec.length) 0#8) ++ List.replicate 132 0#8
    { s with flue := Map.setN (fun _ => 0#8) s.flue a (body ++ leBytes 4 (crc32c body)),
             flueCnt := Map.set (fun _ => 0) s.flueCnt slot count }

/-- The entry point of a firmware section: its first instruction, slot 1 of line 0 (R132, R345; log 45). -/
def entryPoint : Nat := 8

/-- A controller at the entry point of its firmware section, in its first phase. -/
def startController (a : Agent) (cause : Cause) : Exec Unit := do
  modify fun s => s.setHart a { Hart.reset with pc := entryPoint, stat := .running, newLine := true, cause := cause }
  openPhase a .zero

/-- A front-end reset (R132): data SRAM, registers and guards clear; it restarts at the kind 1 entry point. -/
def resetFrontEnd (f : Nat) : Exec Unit := do
  modify fun s => { s with feData := Map.clear s.feData (262144 * f) (262144 * (f + 1)), feWait := Map.erase s.feWait f }
  startController (.frontEnd f) 0#10

/-- The service context at its entry point, its service record kept (R265). -/
def restartService (c : Nat) : Exec Unit := startController (.service c) 0#10

/-! Taking an exception, and returning from one. -/

/-- The causes that are fatal context errors of a user stream wherever an instruction meets them (R288). -/
def isFatal (c : Cause) : Bool :=
  c == 0x140#10 || c == 0x141#10 || c == 0x146#10 || c == 0x149#10 || c == 0x105#10 || c == 0x148#10 || c == 0x346#10 ||
    c == 0x24B#10

/-- The restart record of a stopped instruction: what it holds already if it is of this instruction, else its PC alone (R286). -/
def Hart.restartHere (h : Hart) : Restart := if h.restart.pc = h.pc then h.restart else ⟨h.pc, 0, 0, []⟩

/-- A double fault of the service context (R265). -/
def doubleFault (c : Nat) (cause : Cause) (i : FInfo) : Exec Unit := do
  let s ← get
  let h := s.hart (.service c)
  let x := s.core c
  let rcd := faultRecord cause 0 6 0 0 h.pc i s.dcc
  writeFlue (8 + c) (2 * 2 ^ 14 + c) cause 3 ((s.partOfCore c).getD 0) 0#64 (BitVec.allOnes 64) h i.addr rcd
  let tasks := (range 0 x.fqCount).map fun n => leVal (Map.getN (fun _ => 0#8) x.svcMem (64 * ((x.fqHead + n) % 16) + 8) 4)
  match s.partOfCore c with
  | some k => each tasks fun t => do let _ ← fatalTask k t 0x1C1#10
  | none => pure ()
  updCore c fun x => { x with fqHead := x.fqTail }
  restartService c

/-- TAKING AN EXCEPTION: a fault of the executing agent's instruction (R264, R283, R409). A user stream stops with its cause in
SR.CAUSE, its restart record kept and a record in the fault queue, or its task ends where the cause is fatal; a fault of the
service context is a double fault; a front end writes its Flue slot and stops; the management controller records the fault at
offset 0 of its data memory and restarts. -/
def takeException (a : Agent) (cause : Cause) (i : FInfo) : Exec Unit := do
  let s ← get
  let h := s.hart a
  match a with
  | .stream c e =>
    if isFatal cause then fatalOn c e.no h.pc cause i
    else do
      let i := { i with cursor := if i.ckind = 0 then h.restartHere.cursor else i.cursor,
                        ckind := if i.ckind = 0 then h.restartHere.ckind else i.ckind }
      updHartOf a fun h =>
        { h with stat := .stopped cause false, cause := cause, blocked := .none, wait := none, restart := h.restartHere }
      fqPush c false (jobRecord s c cause 0 e.no h.pc i)
  | .service c => do
    updHartOf a fun h => { h with cause := cause }
    doubleFault c cause i
  | .frontEnd f => do
    updHartOf a fun h => { h with cause := cause, stat := .stopped cause false, blocked := .none, wait := none }
    let h := { h with cause := cause }
    writeFlue f (1 * 2 ^ 14 + f) cause 2 f (s.reg (Reg.ringPos f)) (BitVec.allOnes 64) h i.addr
      (faultRecord cause 0 7 0 0 h.pc i s.dcc)
  | .mgmt => do
    let rcd := faultRecord cause 0 7 0 0 h.pc i s.dcc
    modify fun s => { s with mgmtMem := Map.setN (fun _ => 0#8) s.mgmtMem 0 rcd }
    startController .mgmt cause

/-- A fault of the executing instruction: the exception is taken and nothing more of the instruction happens. -/
def trapWith {α : Type} (cause : Cause) (i : FInfo) : Exec α := do
  let s ← get
  takeException s.cur cause i
  halt

def trap {α : Type} (cause : Cause) : Exec α := trapWith cause .plain
def trapAt {α : Type} (cause : Cause) (addr : Word) : Exec α := trapWith cause (.at addr)

/-- RETURNING FROM AN EXCEPTION: a stream stopped at a precise fault or SVC goes on from its restart record (R264). -/
def resumeStream (a : Agent) (grant : Bool) : Exec Unit :=
  updHartOf a fun h => { h with stat := .running, pc := h.restart.pc, newLine := true, grant := grant, blocked := .none, wait := none }

/-- The executing stream waits: its instruction executes again from the restart record kept so far. -/
def block {α : Type} (b : Block) : Exec α := do
  updHart fun h => { h with blocked := b, restart := h.restartHere }
  halt

/-- Waiting at a counter, remembered for the event that satisfies it (R313). -/
def blockAt {α : Type} (b : Block) (w : WaitRec) : Exec α := do
  updHart fun h => { h with blocked := b, wait := some w, restart := h.restartHere }
  halt

/-- The answers to an agent's remote reads are done with. -/
def clearAnswers (a : Agent) : Exec Unit :=
  modify fun s => { s with remotes := s.remotes.filter fun e => ! (e.2.who == .hart (agentNo a) && e.2.answer.isSome) }

/-- The context once its instruction of `n` slots has completed (R232). -/
def Hart.past (h : Hart) (n : Nat) : Hart :=
  { h with pc := h.pc + 8 * n, restart := .empty, blocked := .none, wait := none, grant := false }

/-- The context after a taken control transfer, which crosses a line boundary (R349). -/
def Hart.to (h : Hart) (pc : Nat) : Hart :=
  { h with pc := pc, newLine := true, restart := .empty, blocked := .none, wait := none, grant := false }

/-! Opportunities of the service context (R261). -/

/-- Whether the service context of a core has work: it runs and is not parked. -/
def State.svcWork (s : State) (c : Nat) : Bool :=
  let h := s.hart (.service c)
  h.stat == .running && (h.blocked == .none || (h.blocked == .park && (s.core c).fqCount != 0))

/-- An opportunity arises; one before it that was not taken counts as such. -/
def opportunity (c : Nat) : Exec Unit := do
  let s ← get
  updCore c fun x =>
    { x with opportunity := true,
             oppWindow := if x.opportunity && s.svcWork c then (false :: x.oppWindow).take 15 else x.oppWindow }

/-- The instruction has completed: the program counter moves past its `n` slots. A command of the user A stream that has issued is
an opportunity of the service context (R261). -/
def retire (n : Nat) : Exec Unit := do
  updHart fun h => h.past n
  let s ← get
  match s.cur with
  | .stream c .A => if 2 ≤ n then opportunity c else pure ()
  | _ => pure ()

/-- A taken control transfer. -/
def transfer (pc : Nat) : Exec Unit := updHart fun h => h.to pc

end Sys2Proof.Machine
end

