-- ==== Sys2Proof/Machine/View.lean ====
section
/-! DEFINITION. Global memory as an agent sees it: snapshots and overlays (R290, R291), current reads (R294), private writes and
their publication (R292, R293, R295, R310), and acceptance at the ordering points (R94, R297). -/
namespace Sys2Proof.Machine

/-- The versions of a granule by publication count, newest first. -/
def State.versions (s : State) (g : Nat) : List Nat := s.granVer g :: (s.granHist g).map (·.seq)

/-- The newest version published at or before `n`. -/
def State.upTo (s : State) (g n : Nat) : Nat := ((s.versions g).find? (· ≤ n)).getD 0

/-- The version of a granule that the newest of a list of phases holds (R291): at or after every gained write and what the phase
before held, published before the phase opened; which of these is open (log 1). -/
def State.snapVer (s : State) (g : Nat) : List Phase → Nat
  | [] => 0
  | p :: ps =>
    let lo := max (max (s.upTo g p.know.base) (s.upTo g (Map.get (fun _ => 0) p.know.per g))) (s.snapVer g ps)
    let cs := (s.versions g).filter fun v => decide (lo ≤ v) && decide (v ≤ p.openSeq)
    cs.getD (Config.pick p.id g 0 % cs.length) lo

/-- The version a context reads; a context without a phase reads what memory held at first. -/
def State.seen (s : State) (h : Hart) (g : Nat) : Nat := s.snapVer g h.phases

/-- A version of a granule where it is superseded. -/
def State.oldVer (s : State) (g v : Nat) : Option Ver := (s.granHist g).find? (·.seq == v)

/-- The bytes of a version: the current content, or a superseded one. -/
def State.verByte (s : State) (g v off : Nat) : Byte :=
  if v = s.granVer g then s.byte (64 * g + off)
  else match s.oldVer g v with
    | some x => x.data.getD off 0#8
    | none => s.byte (64 * g + off)

/-- The exit check of the version a read returns (R515). -/
def verCheck (g v : Nat) : Exec (Option Cause) := do
  let s ← get
  if v = s.granVer g then exitCheck (g / 4)
  else
    let m := s.meta (g / 4)
    if m.ecc then do poisonBlock (g / 4) 0x292#10; pure (some 0x292#10)
    else if (match m.poison with | some c => storageCause c | none => false) then pure (some 0x291#10)
    else match s.oldVer g v with
      | some x => pure (if x.poison.isSome then some 0x291#10 else none)
      | none => pure none

/-- The translation of an access by an agent: through the RTT of its core, or the address itself (R132, R260, R393). -/
def xlate (a : Agent) (write dirty : Bool) (va : Nat) : Exec (Except Cause Nat) := do
  match a with
  | .stream c _ => do
    match ← translate c write dirty va with
    | .ok t => pure (.ok t.pa)
    | .error f => pure (.error f)
  | _ => do
    let s ← get
    match s.placeFault false (s.world a) va with
    | some f => pure (.error f)
    | none => pure (.ok va)

/-- Global bytes with a context's own writes laid over them (R290, R294). -/
def Hart.overlay (h : Hart) (va : Nat) : List Byte → List Byte
  | [] => []
  | b :: bs =>
    (match Map.find h.priv va with
      | some x => x
      | none => match Map.find h.shown va with
        | some x => x
        | none => b) :: h.overlay (va + 1) bs

/-- A read through the fabric window (R94–R96): the request is sent once, and the instruction waits for its answer. -/
def remoteFetch (a : Agent) (i : FInfo) (pkg off n : Nat) : Exec (List Byte) := do
  let s ← get
  let pay := rdreqPayload off n
  match s.answerOf (.hart (agentNo a)) fun r => r.msg.typ == tyRDREQ && r.msg.payload == pay && r.msg.dst.toNat == pkg with
  | some (_, r) =>
    (match r.answer with
      | none => block .memWait
      | some (st, data) =>
        if st = 0#10 then pure data
        else do clearAnswers a; trapWith st i)
  | none => do
    let k := (s.partOf a).getD 8
    match ← sendRequest (.hart (agentNo a)) k tyRDREQ (s.world a) pkg pay with
    | .error c => trapWith c i
    | .ok _ => do
      match a with
      | .stream c _ => custody k c 1 0
      | _ => pure ()
      block .memWait

/-- A plain global read of bytes inside one 64-byte granule, in the agent's view (R290), or a current read (R294). -/
def readPiece (a : Agent) (i : FInfo) (va n : Nat) : Exec (List Byte) := do
  let i := { i with addr := BitVec.ofNat 64 va }
  match ← xlate a false false va with
  | .error f => trapWith f i
  | .ok pa => do
    let s ← get
    let h := s.hart a
    match s.place pa with
    | .fabric pkg off => do
      let bs ← remoteFetch a i pkg off n
      pure (h.overlay va bs)
    | .hbm | .tier2 => do
      let g := s.home pa / 64
      let v := s.seen h g
      match ← verCheck g v with
      | some f => trapWith f i
      | none => pure (h.overlay va ((range (s.home pa % 64) n).map fun o => s.verByte g v o))
    | _ => do
      match ← exitChecks (s.blocksOf pa n) with
      | some f => trapWith f i
      | none => pure (h.overlay va (s.bytes pa n))

/-- A plain global read of any length, granule by granule. -/
def readGlobal (a : Agent) (i : FInfo) (va n : Nat) : Exec (List Byte) := do
  let bs ← mapE (pieces 64 (n / 64 + 2) va n) fun p => readPiece a i p.1 p.2
  pure bs.flatten

/-! Publication and acceptance. -/

def updHartNo (n : Nat) (f : Hart → Hart) : Exec Unit :=
  modify fun s => { s with harts := Map.set (fun _ => Hart.reset) s.harts n (f (Map.get (fun _ => Hart.reset) s.harts n)) }

def State.release (s : State) (n : Nat) : RelInfo := Map.get (fun _ => RelInfo.nobody) s.releases n
def setRelease (n : Nat) (r : RelInfo) : Exec Unit :=
  modify fun s => { s with releases := Map.set (fun _ => RelInfo.nobody) s.releases n r }

/-- What acquirers gain from release number `n`; number 0 is none. -/
def State.rels (s : State) (n : Nat) : List Rel :=
  if n = 0 then [] else let r := s.release n; [⟨r.party, r.scope, r.know⟩]

def pushOut (c job agent : Nat) (op : OutOp) : Exec Unit := modify fun s => { s with outq := s.outq ++ [⟨c, job, agent, op⟩] }

/-- Whether an agent has effects that are not accepted yet. -/
def State.outstanding (s : State) (agent : Nat) : Bool := s.outq.any fun o => o.agent == agent

/-- Whether an outstanding effect is a counter add, on its way here or sent to another package. -/
def State.isAdd (s : State) (o : Out) : Bool :=
  match o.op with
  | .add _ _ _ => true
  | .store _ _ _ _ => false
  | .remote t _ => (match Map.find s.remotes t with | some r => (match r.who with | .add _ => true | _ => false) | none => false)

/-- Whether an agent has counter adds that have not taken effect yet. -/
def State.addsOut (s : State) (agent : Nat) : Bool := s.outq.any fun o => o.agent == agent && s.isAdd o

/-- The local place of a memory counter add that an agent has on its way. -/
def addPlace (a : Agent) (o : Out) : Exec (Option Nat) := do
  match o.op with
  | .add (.mem r) _ _ =>
    (match a with
      | .stream c _ => do
        match ← resolveMem c r with
        | .here pa => pure (some pa)
        | _ => pure none
      | _ => do let s ← get; pure (some (s.home r.toNat)))
  | _ => pure none

/-- An immediate access to `n` bytes at `pa` comes after the executing agent's own earlier adds there (R301, same point). -/
def afterAdds (pa n : Nat) : Exec Unit := do
  let s ← get
  each (s.outq.filter fun o => o.agent == agentNo s.cur) fun o => do
    match ← addPlace s.cur o with
    | some q => if q < s.home pa + n ∧ s.home pa < q + 8 then block .custody else pure ()
    | none => pure ()

/-- The same at another package: every add of the agent has been accepted. -/
def afterFarAdds : Exec Unit := do
  let s ← get
  if s.addsOut (agentNo s.cur) then block .custody else pure ()

/-- The same for a core counter. -/
def afterCoreAdds (n : Nat) : Exec Unit := do
  let s ← get
  if s.outq.any fun o => o.agent == agentNo s.cur && (match o.op with | .add (.core m) _ _ => m == n | _ => false) then block .custody
  else pure ()

/-- The agent's private bytes of a granule leave the private set; with `keep` they stay in its overlay (R290). -/
def Hart.unpriv (h : Hart) (g : Nat) (keep : Bool) : Hart :=
  let bs := Map.slice h.priv (64 * g) (64 * g + 64)
  { h with priv := Map.clear h.priv (64 * g) (64 * g + 64),
           shown := if keep then bs.foldl (fun m e => Map.insert m e.1 e.2) h.shown else Map.clear h.shown (64 * g) (64 * g + 64) }

/-- The private granules of a context. -/
def Hart.privGranules (h : Hart) : List Nat := granulesOf (h.priv.map (·.1))

/-- Publishing one private granule of an agent as part of release `rel` (0: written back, R293). The answer says whether it went
out; a write to sealed memory is discarded (R310). -/
def publishGranule (a : Agent) (rel g : Nat) : Exec Bool := do
  let s ← get
  let h := s.hart a
  let data := Map.slice h.priv (64 * g) (64 * g + 64)
  let va := (data.headD (64 * g, 0#8)).1
  let c := a.coreNo
  let k := (s.partOf a).getD 8
  let gone : Exec Unit := do
    updJob c fun j => if a.isUser then { j with privOrder := j.privOrder.filter (· != (agentNo a % 8, g)) } else j
  match ← xlate a true true va with
  | .error f => do
    updHartOf a fun h => h.unpriv g false
    gone
    if a.isUser then custody k c 0 1
    if f = 0x145#10 then pure false
    else do
      match a with
      | .stream c e =>
        if isFatal f then do fatalOn c e.no h.pc f (.at (BitVec.ofNat 64 va)); halt
        else asyncRecord c e.no h.pc f (.at (BitVec.ofNat 64 va))
      | .service c => asyncRecord c 6 h.pc f (.at (BitVec.ofNat 64 va))
      | _ => pure ()
      pure true
  | .ok pa => do
    updHartOf a fun h => h.unpriv g true
    gone
    let t ← get
    let moved := data.map fun e => (t.home pa + (e.1 - va), e.2)
    match t.place pa with
    | .fabric pkg off => do
      match ← sendRequest (.write c) k tyWRREQ (t.world a) pkg (wrreqPayload (off / 64 * 64) (data.map fun e => (off + (e.1 - va), e.2)) false) with
      | .ok tag => pushOut c (t.job c).id (agentNo a) (.remote tag rel)
      | .error f => do
        if a.isUser then custody k c 0 1
        asyncRecord c (agentNo a % 8) h.pc f (.at (BitVec.ofNat 64 va))
    | _ => pushOut c (t.job c).id (agentNo a) (.store va (t.home pa) moved rel)
    pure true

def publishGranules (a : Agent) (rel : Nat) : List Nat → Option Nat → Exec (Option Nat)
  | [], bad => pure bad
  | g :: gs, bad => do
    let ok ← publishGranule a rel g
    publishGranules a rel gs (if ok || bad.isSome then bad else some (64 * g))

/-- A release of an agent (R292, R297): every private write is published, and earlier write-backs count as published by it
(R293). The answer is the release's number and the first granule discarded under R310. -/
def publish (a : Agent) (scope : Nat) : Exec (Nat × Option Nat) := do
  let s ← get
  let id := s.nextRel
  let no := agentNo a
  let relabel (o : Out) : Out :=
    if o.agent = no then
      { o with op := match o.op with
          | .store va pa d 0 => .store va pa d id
          | .remote t 0 => .remote t id
          | x => x }
    else o
  set { s with nextRel := id + 1, outq := s.outq.map relabel }
  let bad ← publishGranules a id (s.hart a).privGranules none
  let t ← get
  let mine := t.outq.filter fun o => o.agent == no && (match o.op with
    | .store _ _ _ r => r == id
    | .remote _ r => r == id
    | .add _ _ _ => false)
  setRelease id ⟨t.party a, scope, (t.hart a).know, mine.length⟩
  pure (id, bad)

/-- A release by an instruction of the executing agent: a discarded granule faults after the rest is published (R310). -/
def releaseHere (scope : Nat) : Exec Nat := do
  let s ← get
  let (id, bad) ← publish s.cur scope
  match bad with
  | some va => trapAt 0x145#10 (BitVec.ofNat 64 va)
  | none => pure id

/-- Writing back the oldest private granule of a core's streams (R293). -/
def writeBackOldest (c : Nat) : Exec Unit := do
  let j ← getJob c
  match j.privOrder with
  | [] => pure ()
  | (e, g) :: _ => do
    let _ ← publishGranule (.stream c (.ofNo e)) 0 g
    pure ()

/-- A plain global write of bytes inside one granule: private until published (R292), checked when it is made (R295). -/
def writePiece (a : Agent) (i : FInfo) (va : Nat) (data : List Byte) : Exec Unit := do
  let i := { i with addr := BitVec.ofNat 64 va }
  match ← xlate a true false va with
  | .error f => trapWith f i
  | .ok pa => do
    let s ← get
    let g := va / 64
    if ! a.isUser && s.place pa == .scratch then do
      let _ ← physWrite pa data none
      pure ()
    else do
      match a with
      | .stream c e =>
        if ((s.hart a).privGranules).contains g then pure ()
        else do
          if 4096 ≤ (s.job c).privOrder.length then writeBackOldest c
          updJob c fun j => { j with privOrder := j.privOrder ++ [(e.no, g)] }
          custody (s.job c).part c 1 0
      | _ => pure ()
      updHartOf a fun h => { h with priv := (addressed va data).foldl (fun m e => Map.insert m e.1 e.2) h.priv }

/-- A plain global write of any length. -/
def writeGlobal (a : Agent) (i : FInfo) (va : Nat) (data : List Byte) : Exec Unit :=
  each (pieces 64 (data.length / 64 + 2) va data.length) fun p =>
    writePiece a i p.1 ((data.drop (p.1 - va)).take p.2)

/-- An effect that has been accepted for release `rel` of an agent: what its know and its release hold from then on. -/
def noteAccepted (agent rel : Nat) (gs : List Nat) : Exec Unit := do
  let s ← get
  let learn (k : Know) : Know := gs.foldl (fun k g => k.add g (s.granVer g)) k
  updHartNo agent fun h => { h with know := learn h.know }
  if rel = 0 then pure ()
  else do
    let r := s.release rel
    setRelease rel { r with know := learn r.know, pending := r.pending - 1 }
    modify fun s => { s with wrel := gs.foldl (fun m g => Map.set (fun _ => 0) m g rel) s.wrel }

/-- An add to a counter reference of core `c`'s job `id` taking effect (R257, R297): in the bank on the core, or in the frame. -/
def addCore (c id n : Nat) (v : Word) (rels : List Rel) : Exec Unit := do
  let s ← get
  if (s.job c).live && (s.job c).id == id then updJob c fun j => j.addCounter n v rels
  else
    match Map.find s.frames id with
    | some f => modify fun s => { s with frames := Map.insert s.frames id { f with job := f.job.addCounter n v rels } }
    | none => pure ()

/-- An add to a memory counter reference of core `c`'s job; an add to another package leaves as a CADD (R96, R316). The answer
is the tag it waits under. -/
def addMem (c : Nat) (ref : Word) (v : Word) (rels : List Rel) (isRel : Bool) : Exec (Option Nat) := do
  match ← resolveMem c ref with
  | .here pa => do
    addMcounter pa v rels
    let s ← get
    modify fun t => { t with wrel := Map.set (fun _ => 0) t.wrel (s.home pa / 64) 0 }
    pure none
  | .far p o => do
    let s ← get
    let w := s.partWorld (s.job c).part
    match ← sendRequest (.add c) (s.job c).part tyCADD w p (caddMem o v none isRel) with
    | .ok tag => pure (some tag)
    | .error f => do asyncRecord c 7 0 f { FInfo.plain with aux := ref, counter := 0xC000 }; pure none
  | .invalid f => do
    asyncRecord c 7 0 f { FInfo.plain with aux := ref, counter := 0xC000 }
    pure none

/-- Whether an outstanding effect may take effect now (R297, R300): a store after its agent's earlier stores to its granule, a plain
add after its agent's earlier adds, an add that carries a release after everything its agent has out before it. -/
def State.eligible (s : State) (n : Nat) : Bool :=
  match s.outq[n]? with
  | none => false
  | some o =>
    match o.op with
    | .store _ pa _ _ => ! (s.outq.take n).any fun x => x.agent == o.agent && (match x.op with
        | .store _ q _ _ => q / 64 == pa / 64
        | _ => false)
    | .remote _ _ => false
    | .add _ _ rel => ! (s.outq.take n).any fun x => x.agent == o.agent && (rel != 0 || s.isAdd x)

/-- Whether an outstanding effect is of a user stream. -/
def Out.ofUser (o : Out) : Bool := decide (o.agent < 1024) && decide (o.agent % 8 < 4)

/-- One effect is accepted at its ordering point. -/
def acceptOut (n : Nat) : Exec Unit := do
  let s ← get
  match s.outq[n]? with
  | none => pure ()
  | some o => do
    set { s with outq := s.outq.eraseIdx n }
    let k := (s.partOfCore o.core).getD 8
    match o.op with
    | .store va _ data rel => do
      let failed ← blockWrite data none
      if failed && decide (o.agent < 2048) then
        asyncRecord o.core (o.agent % 8) 0 0x294#10 (.at (BitVec.ofNat 64 va))
      noteAccepted o.agent rel (granulesOf (data.map (·.1)))
      if o.ofUser then custody k o.core 0 1
    | .add ref v rel => do
      let t ← get
      let rels := t.rels rel
      match ref with
      | .core m => do
        addCore o.core o.job m v rels
        custody k o.core 0 1
      | .mem r => do
        if o.ofUser then do
          match ← addMem o.core r v rels (rel != 0) with
          | some tag => pushOut o.core o.job o.agent (.remote tag 0)
          | none => custody k o.core 0 1
        else do
          let _ ← addMcounter r.toNat v rels
          pure ()
    | .remote _ _ => pure ()

end Sys2Proof.Machine
end

