-- ==== Sys2Proof/Machine/Operands.lean ====
section
/-! DEFINITION. Operands: guards (R353), scalar sources and destinations (R237, R238, R372), channels (R247, R248), stream ports
(R250–R254), scratchpad accesses (R270, R307), and the frame every instruction runs in: its encoding's fault, its guard, its
program counter. -/
namespace Sys2Proof.Machine

/-! Registers and guards. s0 reads 0 and g0 reads true; writes to them are discarded (R237). -/

def Hart.sreg (h : Hart) (n : Nat) : Word := if n = 0 then 0#64 else Map.get (fun _ => 0#64) h.s n
def Hart.setS (h : Hart) (n : Nat) (v : Word) : Hart := if n = 0 then h else { h with s := Map.set (fun _ => 0#64) h.s n v }
def Hart.guard (h : Hart) (n : Nat) : Bool := n == 0 || Map.get (fun _ => false) h.g n
def Hart.setG (h : Hart) (n : Nat) (b : Bool) : Hart := if n = 0 then h else { h with g := Map.set (fun _ => false) h.g n b }

/-- The guard of an instruction: codes 8–15 select the negation (R353). -/
def Hart.guardOk (h : Hart) (g : BitVec 4) : Bool := if g.toNat < 8 then h.guard g.toNat else ! h.guard (g.toNat - 8)

/-! Restart records: what an instruction has already taken (R286). -/

def findOpnd (which : Nat) : Exec (Option Opnd) := do
  let h ← getHart
  pure (h.restartHere.opnds.find? (·.which == which))

def recordOpnd (o : Opnd) : Exec Unit :=
  updHart fun h => { h with restart := { h.restartHere with opnds := h.restartHere.opnds ++ [o] } }

/-- An entry recorded or replaced. -/
def setOpnd (o : Opnd) : Exec Unit :=
  updHart fun h => { h with restart := { h.restartHere with opnds := h.restartHere.opnds.filter (·.which != o.which) ++ [o] } }

/-! Channels (R247–R249). -/

def Job.chan (j : Job) (n : Nat) : List Entry := Map.get (fun _ => []) j.chans n
def Job.setChan (j : Job) (n : Nat) (q : List Entry) : Job := { j with chans := Map.set (fun _ => []) j.chans n q }

/-- Whether a channel's head can be taken: an entry that a remote load reserves waits (R249). -/
def chanReady : List Entry → Bool
  | [] => false
  | .reserved _ :: _ => false
  | _ :: _ => true

/-- Popping a scalar, or a tile handle where a tile is wanted; a mismatch raises 0x100, the entry being consumed and kept. -/
def popChan (which n : Nat) (wantTile : Bool) : Exec Word := do
  let i := { FInfo.plain with opnd := which }
  match ← findOpnd which with
  | some o => if o.tile == wantTile then pure o.value else trapWith 0x100#10 i
  | none => do
    let c ← curCore
    let j ← getJob c
    match j.chan n with
    | [] => block .chan
    | e :: rest =>
      match e with
      | .reserved _ => block .chan
      | .scalar w => do
        updJob c fun j => j.setChan n rest
        recordOpnd ⟨which, false, n, w⟩
        if wantTile then trapWith 0x100#10 i else pure w
      | .handle t => do
        updJob c fun j => j.setChan n rest
        recordOpnd ⟨which, true, n, BitVec.ofNat 64 t⟩
        if wantTile then pure (BitVec.ofNat 64 t) else trapWith 0x100#10 i

/-- Pushing an entry; a full channel waits. -/
def pushChan (n : Nat) (e : Entry) : Exec Unit := do
  let c ← curCore
  let j ← getJob c
  if 8 ≤ (j.chan n).length then block .chan else updJob c fun j => j.setChan n (j.chan n ++ [e])

/-! Scratchpad accesses of a stream (R270, R307). -/

/-- The place of `n` scratchpad bytes: cause 0x144 for an address without one. -/
def scratchPlace (i : FInfo) (a n : Nat) : Exec Nat := do
  let s ← get
  match s.scratchAddr s.cur.coreNo a with
  | none => trapWith 0x144#10 { i with addr := BitVec.ofNat 64 a }
  | some (l, off) =>
    if 4194304 < off + n then trapWith 0x144#10 { i with addr := BitVec.ofNat 64 a }
    else pure (s.scratchPa (s.job s.cur.coreNo).part l off)

/-- Bytes read at the owning port or the proxy port; a failed exit check is precise (R386). -/
def scratchRead (i : FInfo) (a n : Nat) : Exec (List Byte) := do
  let pa ← scratchPlace i a n
  afterAdds pa n
  let s ← get
  match ← exitChecks (s.blocksOf pa n) with
  | some c => trapWith c { i with addr := BitVec.ofNat 64 a }
  | none => pure (s.bytes pa n)

/-- Bytes written there; a partial write of a block that fails its check poisons it and is logged (R126). -/
def scratchWrite (i : FInfo) (a : Nat) (data : List Byte) : Exec Unit := do
  let pa ← scratchPlace i a data.length
  afterAdds pa data.length
  if ← physWrite pa data none then do
    let s ← get
    match s.cur with
    | .stream c e => asyncRecord c e.no (s.hart s.cur).pc 0x294#10 { i with addr := BitVec.ofNat 64 a }
    | _ => pure ()
  else pure ()

/-! Stream ports (R250–R254). -/

def Job.port (j : Job) (n : Nat) : Port := Map.get (fun _ => Port.unbound) j.ports n
def Job.setPort (j : Job) (n : Nat) (p : Port) : Job := { j with ports := Map.set (fun _ => Port.unbound) j.ports n p }

/-- The number of elements N of a pattern (R251). -/
def Pattern.count (p : Pattern) : Nat := p.ext.foldl (· * ·) 1

/-- Σ i_k × STR_k for element `n`. -/
def strideSum : Nat → List Nat → List Int → Int
  | n, e :: es, t :: ts => (n % e : Nat) * t + strideSum (n / e) es ts
  | _, _, _ => 0

/-- The address of element `n`: for a scratchpad pattern the sum is taken on the offset, none outside 4 MiB (R251). -/
def Pattern.addr (p : Pattern) (n : Nat) : Option Nat :=
  let d := strideSum n p.ext p.str
  if p.scratch then
    let off : Int := (p.base % 4194304 : Nat) + d
    if off < 0 ∨ 4194304 ≤ off then none else some (p.base / 4194304 * 4194304 + off.toNat)
  else some ((p.base + d) % 2 ^ 64).toNat

/-- The element size of a pattern in bytes. -/
def Pattern.size (p : Pattern) : Nat := typBits p.typ / 8

/-- A port after its position has moved on: with UNB it is unbound in the step that takes its last element (R252). -/
def Port.next (p : Port) : Port :=
  let q := { p with pos := p.pos + 1 }
  if p.pat.unb && q.pos == p.pat.count then { q with bound := false } else q

def portInfo (which n : Nat) (p : Port) : FInfo := { FInfo.plain with port := some n, opnd := which, pos := p.pos }

/-- The port as the executing stream has it: the stream waits until the port is bound to it (R252). -/
def boundPort (n : Nat) : Exec Port := do
  let s ← get
  let j ← curJob
  let p := j.port n
  match s.cur with
  | .stream _ e => if p.bound && p.eng == e then pure p else block .port
  | _ => halt

/-- The checks of R253 and R254 before an access: direction, kind, and the end of the pattern. The answer says whether the
access is past the end. -/
def portChecks (which n : Nat) (p : Port) (write tile : Bool) : Exec Bool := do
  if p.pat.write != write then trapWith 0x0C0#10 (portInfo which n p)
  else if p.pat.tile != tile then trapWith 0x0C3#10 (portInfo which n p)
  else if p.pos < p.pat.count then pure false
  else if p.pat.faultEnd then trapWith 0x0C1#10 (portInfo which n p)
  else do
    let c ← curCore
    updJob c fun j => j.setPort n { j.port n with eos := true }
    pure true

/-- The address of a port's element for an access. -/
def portAddr (which n : Nat) (p : Port) : Exec Nat :=
  match p.pat.addr p.pos with
  | some a => pure a
  | none => trapWith 0x144#10 { portInfo which n p with addr := BitVec.ofNat 64 p.pat.base }

/-- The raw bits of an element as a 64-bit value: signed integers sign-extended, others zero-extended (R253). A 128-bit element
gives its low half (log 20). -/
def elemWord (t : Nat) (bs : List Byte) : Word :=
  if intSigned t then BitVec.ofInt 64 (intVal t (leVal bs)) else leWord (bs.take 8)

/-- Popping or peeking an element as a scalar. -/
def portElem (which n : Nat) (peek : Bool) : Exec Word := do
  match ← findOpnd which with
  | some o => pure o.value
  | none => do
    let p ← boundPort n
    let past ← portChecks which n p false false
    if past then do
      recordOpnd ⟨which, false, n, 0#64⟩
      pure 0#64
    else do
      let a ← portAddr which n p
      let s ← get
      let bs ← if p.pat.scratch then scratchRead (portInfo which n p) a p.pat.size
               else readGlobal s.cur (portInfo which n p) a p.pat.size
      clearAnswers s.cur
      let v := elemWord p.pat.typ bs
      let c ← curCore
      if ! peek then updJob c fun j => j.setPort n (j.port n).next
      recordOpnd ⟨which, false, n, v⟩
      pure v

/-- Pushing a scalar to an element port. -/
def pushElem (n : Nat) (v : Word) : Exec Unit := do
  let p ← boundPort n
  let past ← portChecks 0 n p true false
  if past then pure ()
  else do
    let a ← portAddr 0 n p
    let s ← get
    let data := leBytes p.pat.size v.toNat
    if p.pat.scratch then scratchWrite (portInfo 0 n p) a data else writeGlobal s.cur (portInfo 0 n p) a data
    let c ← curCore
    updJob c fun j => j.setPort n (j.port n).next

/-! Scalars. -/

/-- A scalar source at its turn; `which` is 1 for A, 2 for B, 3 for C, 0 for the stored value in D. -/
def readSrc (which : Nat) (code : BitVec 8) : Exec Word := do
  match Sel.ofCode code with
  | .s n => do let h ← getHart; pure (h.sreg n)
  | .rel n => do let j ← curJob; pure (Map.get (fun _ => 0#64) j.rel n)
  | .q n => popChan which n false
  | .p n => portElem which n false
  | .pk n => portElem which n true
  | _ => pure 0#64

/-- A guard read as an operand. -/
def readGuard (code : BitVec 8) : Exec Bool := do
  match Sel.ofCode code with
  | .g n => do let h ← getHart; pure (h.guard n)
  | _ => pure false

/-- Writing a result: a register, a guard (true for a value that is not 0), or a push. A push that waits or stops keeps the
value in the restart record, and only the push is repeated. -/
def writeDst (code : BitVec 8) (v : Word) : Exec Unit := do
  match Sel.ofCode code with
  | .s n => updHart fun h => h.setS n v
  | .g n => updHart fun h => h.setG n (v != 0#64)
  | .q n => do
    setOpnd ⟨0, false, n, v⟩
    pushChan n (.scalar v)
  | .p n => do
    setOpnd ⟨0, false, n, v⟩
    pushElem n v
  | _ => pure ()

/-- The result is delivered and the one-slot instruction completes. -/
def finish (code : BitVec 8) (v : Word) : Exec Unit := do
  writeDst code v
  retire 1

/-- The frame of every instruction: an encoding fault whatever the guard holds (R353, R360); a false guard, and nothing happens;
a result that a push still has to deliver; the effect. -/
def runInstr (e : Enc) (sh : Shape) (body : Exec Unit) : Exec Unit := do
  let s ← get
  match encFaultOf s.cur.who e sh with
  | some c => trap c
  | none =>
    let h := s.hart s.cur
    if ! h.guardOk e.args.g then retire e.slots
    else
      match h.restartHere.opnds.find? (fun o => o.which == 0 && ! o.tile), sh.d with
      | some o, .dst => finish e.args.d o.value
      | some o, .gdst => finish e.args.d o.value
      | _, _ => body

/-- A meaning as an outcome. -/
def run (e : Enc) (sh : Shape) (body : Exec Unit) (s : State) : Host.Outcome State Fault Refusal :=
  runExec (runInstr e sh body) s

/-- SIMM, sign-extended (R373). -/
abbrev simmOf (x : Args) : Word := x.imm.signExtend 64

end Sys2Proof.Machine
end

