-- ==== Sys2Proof/Machine/Command.lean ====
section
/-! DEFINITION. Commands (R232, R354–R356): their clauses, waits and signals, their cancellation (R312), their reads of published
memory (R302) and their writes as they are accepted (R303). -/
namespace Sys2Proof.Machine

/-- The slots of a command (R351). -/
def cmdSlots (c : CArgs) : Nat := match c.stamp with | some _ => 3 | none => 2

/-- The counter a select code names in a stream (R355). -/
def ctrRef (h : Hart) (code : Nat) : Option CRef :=
  if code < 0x100 then some (.core code) else if code < 0x120 then some (.mem (h.sreg (code - 0x100))) else none

/-- The clauses of a command, its registers read (R354–R356). -/
def clausesOf (h : Hart) (e : Ext) : Clauses :=
  let wait := ctrRef h e.wsel.toNat
  { wait := wait,
    thr := match wait with
      | some (.mem _) => (h.sreg (e.wthr.toNat % 32)).toNat
      | _ => e.wthr.toNat,
    acq := e.acq == 1#1, sig := ctrRef h e.ssel.toNat, sinc := e.sinc.toNat, rel := e.rel == 1#1 }

/-- Whether a counter reference is valid: every core counter, and the addresses of memory counters (R259). -/
def refValid (c : Nat) (r : CRef) : Exec Bool := do
  match r with
  | .core _ => pure true
  | .mem ref => do
    match ← resolveMem c ref with
    | .invalid _ => pure false
    | _ => pure true

/-- The first invalid reference of a command's clauses. -/
def badRef (c : Nat) (cl : Clauses) : Exec (Option Word) := do
  let look (r : Option CRef) : Exec (Option Word) := do
    match r with
    | some (.mem ref) => do
      let ok ← refValid c (.mem ref)
      pure (if ok then none else some ref)
    | _ => pure none
  match ← look cl.wait with
  | some r => pure (some r)
  | none => look cl.sig

/-- A command dropped because a register names no counter: its signal is poisoned, and the fault logged (R356). -/
def dropCommand (c source pc : Nat) (cl : Clauses) (ref : Word) : Exec Unit := do
  (match cl.sig with
    | none => pure ()
    | some r => do
      if ← refValid c r then poisonRef c (some r) 0x104#10 else pure ())
  asyncRecord c source pc 0x104#10 { FInfo.plain with aux := ref, counter := 0xC000 }

/-- How a wait stands: met, with the prefix of adds it observes; poisoned; unmet. -/
inductive WaitState | met (rels : List Rel) | poisoned (c : Cause) | unmet
  deriving DecidableEq, Repr

/-- A read of another package's memory by hardware: sent once, and answered later (R94). The answer stays until the requester
clears it. -/
def remoteAsk (who : Requester) (k pkg off n : Nat) (world : Bool) : Exec (Option (Except Cause (List Byte))) := do
  let s ← get
  let pay := rdreqPayload off n
  match s.answerOf who fun r => r.msg.typ == tyRDREQ && r.msg.payload == pay && r.msg.dst.toNat == pkg with
  | some (_, r) =>
    match r.answer with
    | none => pure none
    | some (st, data) => pure (some (if st = 0#10 then .ok data else .error st))
  | none => do
    match ← sendRequest who k tyRDREQ world pkg pay with
    | .error c => pure (some (.error c))
    | .ok _ => pure none

/-- The answers of a requester are done with. -/
def clearWho (who : Requester) : Exec Unit :=
  modify fun s => { s with remotes := s.remotes.filter fun e => ! (e.2.who == who && e.2.answer.isSome) }

/-- Evaluating a command's wait for the job on core `c`. -/
def waitState (who : Requester) (c : Nat) (cl : Clauses) : Exec WaitState := do
  let s ← get
  let j := s.job c
  match cl.wait with
  | none => pure (.met [])
  | some (.core n) =>
    let k := j.counter n
    pure (match k.poison with
      | some p => .poisoned p
      | none => if cl.thr ≤ k.view.toNat then .met k.rels else .unmet)
  | some (.mem ref) => do
    match ← resolveMem c ref with
    | .invalid f => pure (.poisoned f)
    | .here pa =>
      match (s.mcounter pa).poison with
      | some p => pure (.poisoned p)
      | none => do
        match ← exitCheck (s.block pa) with
        | some p => pure (.poisoned p)
        | none => do
          let t ← get
          pure (if cl.thr ≤ (t.word pa).toNat then .met (t.mcounter pa).rels else .unmet)
    | .far pkg off => do
      match ← remoteAsk who j.part pkg off 8 (s.partWorld j.part) with
      | none => pure .unmet
      | some r => do
        clearWho who
        pure (match r with
          | .error f => .poisoned f
          | .ok bs => if cl.thr ≤ leVal bs then .met [] else .unmet)

/-- The release a signal stands for: the granules the command wrote, at the scopes of R303. -/
def signalRels (s : State) (c : Nat) (rel far : Bool) (gs : List (Nat × Nat)) : List Rel :=
  let know := gs.foldl (fun k g => k.add g.1 g.2) Know.zero
  [⟨s.party (.stream c .A), if rel then (if far then 4 else 3) else 1, know⟩]

/-- A command's signal: its add with what it stands for (R303). -/
def signalDone (c : Nat) (cl : Clauses) (inc : Nat) (gs : List (Nat × Nat)) : Exec Unit := do
  let s ← get
  match cl.sig with
  | none => pure ()
  | some (.core n) => updJob c fun j => j.addCounter n (BitVec.ofNat 64 inc) (signalRels s c cl.rel false gs)
  | some (.mem ref) => do
    match ← resolveMem c ref with
    | .far _ _ => do
      let _ ← addMem c ref (BitVec.ofNat 64 inc) (signalRels s c cl.rel true gs) cl.rel
      pure ()
    | _ => do
      let _ ← addMem c ref (BitVec.ofNat 64 inc) (signalRels s c cl.rel false gs) cl.rel
      pure ()

/-- A failed or cancelled command poisons its signal counter (R312). -/
def signalPoison (c : Nat) (cl : Clauses) (cause : Cause) : Exec Unit := poisonRef c cl.sig cause

/-! Reads of published memory (R302): each granule holds some write at or above a floor. -/

/-- The version of a granule a command reads: any published one at or after its floor (log 1). -/
def State.cmdVer (s : State) (floor : Know) (key g : Nat) : Nat :=
  let lo := max (s.upTo g floor.base) (s.upTo g (Map.get (fun _ => 0) floor.per g))
  let cs := (s.versions g).filter fun v => decide (lo ≤ v)
  cs.getD (Config.pick 2 key g % cs.length) (s.granVer g)

/-- A command's read of bytes within one granule: a local read is checked on exit (R126); none while a remote read is out. -/
def cmdReadPiece (who : Requester) (c : Nat) (floor : Know) (va n : Nat) : Exec (Option (Except Cause (List Byte))) := do
  match ← translate c false false va with
  | .error f => pure (some (.error f))
  | .ok t => do
    let s ← get
    match s.place t.pa with
    | .fabric pkg off => remoteAsk who (s.job c).part pkg off n (s.partWorld (s.job c).part)
    | .hbm | .tier2 => do
      let g := s.home t.pa / 64
      let key ← fresh
      let v := s.cmdVer floor key g
      match ← verCheck g v with
      | some f => pure (some (.error f))
      | none => pure (some (.ok ((range (s.home t.pa % 64) n).map fun o => s.verByte g v o)))
    | _ => do
      match ← exitChecks (s.blocksOf t.pa n) with
      | some f => pure (some (.error f))
      | none => pure (some (.ok (s.bytes t.pa n)))

/-- A command's read of any length, granule by granule. -/
def cmdRead (who : Requester) (c : Nat) (floor : Know) : List (Nat × Nat) → Exec (Option (Except Cause (List Byte)))
  | [] => pure (some (.ok []))
  | p :: ps => do
    match ← cmdReadPiece who c floor p.1 p.2 with
    | none => pure none
    | some (.error f) => pure (some (.error f))
    | some (.ok bs) => do
      match ← cmdRead who c floor ps with
      | none => pure none
      | some (.error f) => pure (some (.error f))
      | some (.ok rest) => pure (some (.ok (bs ++ rest)))

/-! Writes, accepted at once at a local destination; at another package once answered. -/

/-- How a command's write stands; a local one names the granules it wrote with their new versions. -/
inductive WriteState | done (gs : List (Nat × Nat)) | sent | failed (c : Cause)
  deriving DecidableEq, Repr

/-- Writing bytes within one granule at a translated physical place. A local merge into a failed block is logged (R126). -/
def cmdWritePa (who : Requester) (c k pa : Nat) (data : List Byte) (poison : Option Cause) (va : Nat) : Exec WriteState := do
  let s ← get
  match s.place pa with
  | .fabric pkg off => do
    match ← sendRequest who k tyWRREQ (s.partWorld k) pkg
        (wrreqPayload (off / 64 * 64) ((addressed off data)) poison.isSome) with
    | .ok _ => pure .sent
    | .error f => pure (.failed f)
  | _ => do
    let merged ← physWrite pa data poison
    if merged then asyncRecord c 4 0 0x294#10 (.at (BitVec.ofNat 64 va)) else pure ()
    let t ← get
    pure (.done ((granulesOf ((addressed (s.home pa) data).map (·.1))).map fun g => (g, t.granVer g)))

/-- A command's write of bytes within one granule at a virtual address. -/
def cmdWritePiece (who : Requester) (c va : Nat) (data : List Byte) (poison : Option Cause) : Exec WriteState := do
  match ← translate c true true va with
  | .error f => pure (.failed f)
  | .ok t => do
    let s ← get
    cmdWritePa who c (s.job c).part t.pa data poison va

/-- Whether a requester still waits for answers, and the first failure among those it has. -/
def State.awaiting (s : State) (who : Requester) : Bool := s.remotes.any fun e => e.2.who == who && e.2.answer.isNone

def State.failedAnswer (s : State) (who : Requester) : Option Cause :=
  (s.remotes.find? fun e => e.2.who == who && (match e.2.answer with | some (st, _) => st != 0#10 | none => false)).bind
    fun e => e.2.answer.map (·.1)

end Sys2Proof.Machine
end

