-- ==== Sys2Proof/Machine/Flags.lean ====
section
/-! DEFINITION. Flag computations: relations of comparisons (R376, R384), the sticky flags of SR.FPF (R239, R328), and the
conversion control of an instruction (R323, R382). -/
namespace Sys2Proof.Machine

/-- The relations of CMP and CMPI by FN (R376). -/
def cmpRel (fn : Nat) (a b : Word) : Bool :=
  match fn with
  | 0 => a == b
  | 1 => a != b
  | 2 => a.slt b
  | 3 => a.sle b
  | 4 => a.ult b
  | 5 => a.ule b
  | 6 => b.slt a
  | 7 => b.sle a
  | 8 => b.ult a
  | _ => b.ule a

/-- A truth value as a scalar: 1 or 0. -/
def boolWord (b : Bool) : Word := if b then 1#64 else 0#64

/-- The sticky flags collect; nothing clears them but a write of SR.FPF (R328). -/
def Hart.addFlags (h : Hart) (f : Flags) : Hart := { h with fpf := h.fpf ||| f }

def addFlags (f : Flags) : Exec Unit := updHart fun h => h.addFlags f

/-- MOD[1:0], the rounding mode, and MOD[3], saturation (R323). -/
def rmOf (x : Args) : Nat := (x.mod.extractLsb' 0 2).toNat
def satOf (x : Args) : Bool := x.mod.getLsbD 3

/-- FP relations by FN: EQ, LT, LE, UN (R384). -/
def fcmpRel (fn : Nat) (a b : FV) : Bool :=
  let ord := ! a.isNan && ! b.isNan
  match fn with
  | 0 => ord && FV.cmp a b == 0
  | 1 => ord && decide (FV.cmp a b < 0)
  | 2 => ord && decide (FV.cmp a b ≤ 0)
  | _ => ! ord

/-- The flags of a comparison: LT and LE of a NaN are invalid. -/
def fcmpFlags (fn : Nat) (a b : FV) : Flags :=
  if (fn == 1 || fn == 2) && (a.isNan || b.isNan) then Flags.invalid else 0#5

/-- The scope of an instruction, MOD[2:0], where its MOD[3] is set (R392). -/
def scopeOf (x : Args) : Nat := (x.mod.extractLsb' 0 3).toNat
def relOf (x : Args) : Bool := x.mod.getLsbD 3

end Sys2Proof.Machine
end

