-- ==== Sys2Proof/Machine/MmioRead.lean ====
section
/-! DEFINITION. Reading the MMIO range: the registers (R5, R6), those whose fields follow the state (R163, R164, R201), and the Flue
(R154). Offsets without a register read zero (R107). -/
namespace Sys2Proof.Machine

def SeqState.code : SeqState → Nat
  | .idle => 0 | .capture => 1 | .issue => 2 | .drain => 3 | .sweep => 4 | .frozen => 5

/-! Jobs and frames in use (R199). -/

/-- The jobs of a partition that have started and not ended: each owns one job frame. -/
def Part.framesUsed (p : Part) : Nat := p.tasks.foldl (fun n t => n + t.2.jobs.length) 0
def State.frameCount (s : State) (k : Nat) : Nat := s.field (Reg.shadowCfg k) 0 16
def State.framesFree (s : State) (k : Nat) : Nat := s.frameCount k - (s.part k).framesUsed

/-- SEQ_STAT of a partition (R163). -/
def State.seqStatWord (s : State) (k : Nat) : Word :=
  let p := s.part k
  BitVec.ofNat 64 (p.seq.state.code + (s.flag (Reg.seqStat k) 3).toNat * 8 + p.seq.node % 8192 * 2 ^ 8 +
    min p.tasks.length 1024 * 2 ^ 21 + p.seq.cause.toNat * 2 ^ 32 + p.seq.slot % 64 * 2 ^ 42)

/-- Q_STAT of a partition (R164). -/
def State.qStatWord (s : State) (k : Nat) : Word :=
  let p := s.part k
  BitVec.ofNat 64 ((List.range 4).foldl (fun n c => n + min (p.queue c).length 1024 * 2 ^ (16 * c)) 0)

/-- The 64 bits at an offset of the MMIO range that is a multiple of 8. -/
def State.mmioWord (s : State) (o : Nat) : Word :=
  if Reg.flue ≤ o ∧ o < Reg.flueEnd then
    (if (o - Reg.flue) / 512 < 136 then leWord (Map.getN (fun _ => 0#8) s.flue (o - Reg.flue) 8) else 0#64)
  else if Reg.partCtl 0 ≤ o ∧ o < Reg.partCtl 8 then
    (match o % 0x1000 with
      | 0x010 => s.seqStatWord (o / 0x1000 % 8)
      | 0x020 => s.qStatWord (o / 0x1000 % 8)
      | 0x118 => Word.setBits (s.reg o) 32 16 (min (s.framesFree (o / 0x1000 % 8)) 65535)
      | _ => s.reg o)
  else s.reg o

/-- `n` bytes of the MMIO range. -/
def State.mmioBytes (s : State) (o n : Nat) : List Byte :=
  (range o n).map fun i => BitVec.ofNat 8 (Word.bits (s.mmioWord (i / 8 * 8)) (8 * (i % 8)) 8)

end Sys2Proof.Machine
end

