-- ==== Sys2Proof/Machine/Counter.lean ====
section
/-! DEFINITION. Counter instructions: CNT on core counters, MCNT on memory counters and words (R392–R396). -/
namespace Sys2Proof.Machine

/-! Adds. -/

/-- An add on its way to its ordering point, in the custody of its issuer until then (R94, R189). -/
def queueAdd (ref : CRef) (v : Word) (rel : Nat) : Exec Unit := do
  let s ← get
  let c := s.cur.coreNo
  if s.cur.isUser then custody (s.job c).part c 1 0
  pushOut c (s.job c).id (agentNo s.cur) (.add ref v rel)

/-- The release an add carries: its own with REL; otherwise that of a release fence before it (R299); 0 none. -/
def addRelease (x : Args) : Exec Nat := do
  if relOf x then releaseHere (scopeOf x)
  else do
    let h ← getHart
    match h.fenceRel with
    | none => pure 0
    | some id => do
      updHart fun h => { h with fenceRel := none }
      pure id

/-- CADD, CADDI: the release, then the add, at once where nothing orders it behind other effects (R300, R392). -/
def addCoreCounter (x : Args) (v : Word) : Exec Unit := do
  let rel ← addRelease x
  let s ← get
  let n := x.d.toNat
  if rel = 0 ∧ s.addsOut (agentNo s.cur) = false then updJob s.cur.coreNo fun j => j.addCounter n v []
  else queueAdd (.core n) v rel
  retire 1

def caddReg (x : Args) : Exec Unit := do
  let a ← readSrc 1 x.a
  addCoreCounter x a

/-! Waits. -/

/-- The scope of a wait that acquires. -/
def acqOf (x : Args) : Option Nat := if relOf x then some (scopeOf x) else none

/-- A satisfied wait: an acquire of its scope; a plain wait leaves what a fence behind it may gain (R297, R299). -/
def waitDone (acq : Option Nat) (rels : List Rel) : Exec Unit := do
  let s ← get
  (match acq with
    | some scope => acquire s.cur scope rels
    | none => updHart fun h => { h with lastWait := rels })
  retire 1

/-- CWAIT: a level on the view; a poisoned counter faults with its cause in AUX (R258, R313). -/
def waitCounter (x : Args) : Exec Unit := do
  let a ← readSrc 1 x.a
  let thr := a + simmOf x
  afterCoreAdds x.d.toNat
  let j ← curJob
  let n := x.d.toNat
  let k := j.counter n
  match k.poison with
  | some c => trapWith 0x101#10 { FInfo.plain with aux := c.setWidth 64, counter := (CRef.core n).code }
  | none =>
    if thr.ule k.view then waitDone (acqOf x) k.rels
    else blockAt .cwait ⟨.core n, false, thr.toNat, acqOf x⟩

def readCounter (x : Args) : Exec Unit := do
  afterCoreAdds x.a.toNat
  let j ← curJob
  finish x.d (j.counter x.a.toNat).view

/-- CINIT: the resting value, while no job is on the core (R394). -/
def initCounter (x : Args) : Exec Unit := do
  let a ← readSrc 1 x.a
  let s ← get
  let c := s.cur.coreNo
  if (s.job c).live then trap 0x103#10
  else do
    updCore c fun y => { y with resting := Map.set (fun _ => 0#64) y.resting x.d.toNat a }
    retire 1

/-! Memory counters and words (R395, R396). -/

/-- What a reference names for the executing agent: through the RTT, or a physical address of a controller (R393, R395). -/
def memRef (ref : Word) : Exec MRef := do
  let s ← get
  match s.cur with
  | .stream c _ => resolveMem c ref
  | _ =>
    match s.place ref.toNat with
    | .hbm => pure (if s.rgnAllows (s.world s.cur) ref.toNat then .here (s.home ref.toNat) else .invalid 0x280#10)
    | _ => pure (.invalid 0x104#10)

def memInfo (ref : Word) : FInfo := { FInfo.at ref with aux := ref, counter := 0xC000 }

/-- The reference and the value in D, and the alignment check. -/
def memOperands (x : Args) : Exec (Word × Word) := do
  let a ← readSrc 1 x.a
  let d ← readSrc 0 x.d
  let ref := a + simmOf x
  if Word.bits ref 0 3 ≠ 0 then trapAt 0x143#10 ref else pure (ref, d)

/-- CADD.M. -/
def addMemCounter (x : Args) : Exec Unit := do
  let (ref, d) ← memOperands x
  match ← memRef ref with
  | .invalid c => trapWith c (memInfo ref)
  | _ => do
    let rel ← addRelease x
    queueAdd (.mem ref) d rel
    retire 1

/-- The word at a local physical address, its exit check made (R126). -/
def checkedWord (ref : Word) (pa : Nat) : Exec Word := do
  let s ← get
  match ← exitCheck (s.block pa) with
  | some c => trapAt c ref
  | none => do let t ← get; pure (t.word pa)

/-- CWAIT.M. -/
def waitMemCounter (x : Args) : Exec Unit := do
  let (ref, d) ← memOperands x
  let unmet : Exec Unit := blockAt .memWait ⟨.mem ref, false, d.toNat, acqOf x⟩
  match ← memRef ref with
  | .invalid c => trapWith c (memInfo ref)
  | .here pa => do
    afterAdds pa 8
    let s ← get
    match (s.mcounter pa).poison with
    | some c => trapWith 0x101#10 { FInfo.at ref with aux := c.setWidth 64, counter := 0xC000 }
    | none => do
      let v ← checkedWord ref pa
      if d.ule v then waitDone (acqOf x) (s.mcounter pa).rels else unmet
  | .far pkg off => do
    afterFarAdds
    let s ← get
    let bs ← remoteFetch s.cur (memInfo ref) pkg off 8
    clearAnswers s.cur
    if d.ule (leWord bs) then waitDone (acqOf x) [] else unmet

/-- The word of a WAITA by a current read (R294), with the release that published it: none while its writes are not all accepted. -/
def currentWord (ref : Word) : Exec (Word × Option (List Rel)) := do
  let s ← get
  let a := s.cur
  match ← xlate a false false ref.toNat with
  | .error f => trapAt f ref
  | .ok pa => do
    let t ← get
    match t.place pa with
    | .fabric pkg off => do
      afterFarAdds
      let bs ← remoteFetch a (FInfo.at ref) pkg off 8
      clearAnswers a
      pure (leWord bs, some [])
    | .mmio => pure (t.mmioWord (pa - mmioBase), some [])
    | _ => do
      afterAdds pa 8
      let v ← checkedWord ref pa
      let u ← get
      let n := Map.get (fun _ => 0) u.wrel (u.home pa / 64)
      pure (v, if n = 0 ∨ (u.release n).pending = 0 then some (u.rels n) else none)

/-- The wait at a word: a level; one that acquires also waits for the release that published the word. -/
def waitWordAt (ref : Word) (thr : Nat) (acq : Option Nat) : Exec Unit := do
  let (v, rels) ← currentWord ref
  let unmet : Exec Unit := blockAt .memWait ⟨.mem ref, true, thr, acq⟩
  if thr ≤ v.toNat then
    (match rels, acq with
      | some r, some _ => waitDone acq r
      | none, some _ => unmet
      | _, none => waitDone none [])
  else unmet

/-- WAITA (R395, R396). -/
def waitWord (x : Args) : Exec Unit := do
  let (ref, d) ← memOperands x
  waitWordAt ref d.toNat (acqOf x)

/-! The instructions. -/

def execCadd (x : Args) (s : State) : Host.Outcome State Fault Refusal :=
  run (.one 0x40#8 0#4 x) .cadd (caddReg x) s

def execCaddi (x : Args) (s : State) : Host.Outcome State Fault Refusal :=
  run (.one 0x40#8 1#4 x) .caddi (addCoreCounter x (simmOf x)) s

def execCwait (x : Args) (s : State) : Host.Outcome State Fault Refusal :=
  run (.one 0x40#8 2#4 x) .cwait (waitCounter x) s

def execCrd (x : Args) (s : State) : Host.Outcome State Fault Refusal :=
  run (.one 0x40#8 3#4 x) .crd (readCounter x) s

def execCinit (x : Args) (s : State) : Host.Outcome State Fault Refusal :=
  run (.one 0x40#8 4#4 x) .cinit (initCounter x) s

def execCaddM (x : Args) (s : State) : Host.Outcome State Fault Refusal :=
  run (.one 0x41#8 0#4 x) .mcnt (addMemCounter x) s

def execCwaitM (x : Args) (s : State) : Host.Outcome State Fault Refusal :=
  run (.one 0x41#8 1#4 x) .mcnt (waitMemCounter x) s

def execWaita (x : Args) (s : State) : Host.Outcome State Fault Refusal :=
  run (.one 0x41#8 2#4 x) .mcnt (waitWord x) s


end Sys2Proof.Machine
end

