-- ==== Sys2Proof/Machine/Atomic.lean ====
section
/-! DEFINITION. Memory-side atomics (R484, R485, R308, R309): the operation at its ordering point, and ATOM. -/
namespace Sys2Proof.Machine

/-- The new value of a member by FN on `n` bytes, the old value being `old`; none where CAS writes nothing (R484). -/
def atomNew (fn n old b c : Nat) : Option Nat :=
  let w := 8 * n
  let x := b % 2 ^ w
  let sx (v : Nat) : Int := if 2 ^ (w - 1) ≤ v then (v : Int) - (2 : Int) ^ w else (v : Int)
  match fn with
  | 0 => some ((old + x) % 2 ^ w)
  | 1 => some (old &&& x)
  | 2 => some (old ||| x)
  | 3 => some (old ^^^ x)
  | 4 => some (if sx old ≤ sx x then old else x)
  | 5 => some (if sx old ≤ sx x then x else old)
  | 6 => some (min old x)
  | 7 => some (max old x)
  | 8 => some x
  | _ => if old = c % 2 ^ w then some x else none

/-- An atomic at its ordering point, as one indivisible step (R485, R309): the old value, or the cause of a failed read half. -/
def atomicAt (pa n fn : Nat) (b c : Word) : Exec (Except Cause Nat) := do
  let s ← get
  match ← exitCheck (s.block pa) with
  | some f => pure (.error f)
  | none => do
    let old := leVal (s.bytes pa n)
    (match atomNew fn n old b.toNat c.toNat with
      | some v => do
        let _ ← physWrite pa (leBytes n v) none
        pure ()
      | none => pure ())
    pure (.ok old)

/-- Where an atomic of core `c`'s job takes effect (R485): translated as a write, on a line with MS in HBM, or in a scratchpad. -/
def atomPlace (c : Nat) (ref : Word) : Exec (Except Cause MRef) := do
  let s ← get
  if Word.bit ref 63 && ! canonical ref.toNat then
    match s.scratchAddr c (Word.bits ref 0 63) with
    | none => pure (.error 0x144#10)
    | some (l, off) => pure (.ok (.here (s.scratchPa (s.job c).part l off)))
  else
    match ← translate c true false ref.toNat with
    | .error f => pure (.error f)
    | .ok t =>
      if ! t.rtt.ms then pure (.error 0x207#10)
      else do
        let s ← get
        match s.place t.pa with
        | .hbm => do
          setDirty c ref.toNat t.rtt
          pure (.ok (.here (s.home t.pa)))
        | .fabric p o => do
          setDirty c ref.toNat t.rtt
          pure (.ok (.far p o))
        | _ => pure (.error 0x207#10)

/-- The same for any agent: a controller's references are physical, checked by the region table (R393, R406). -/
def atomPlaceOf (a : Agent) (ref : Word) : Exec (Except Cause MRef) := do
  match a with
  | .stream c _ => atomPlace c ref
  | _ => do
    let s ← get
    match s.placeFault false (s.world a) ref.toNat with
    | some f => pure (.error f)
    | none =>
      match s.place ref.toNat with
      | .hbm => pure (.ok (.here (s.home ref.toNat)))
      | .fabric p o => pure (.ok (.far p o))
      | _ => pure (.error 0x207#10)

/-- ATOM (R485). -/
def atomic (fn : Nat) (x : Args) : Exec Unit := do
  let a ← readSrc 1 x.a
  let b ← readSrc 2 x.b
  let c ← if fn = 9 then readSrc 3 x.c else pure 0#64
  let w := x.mod.getLsbD 0
  let n := if w then 4 else 8
  if a.toNat % n ≠ 0 then trapAt 0x208#10 a
  else do
    let s ← get
    match ← atomPlaceOf s.cur a with
    | .error f => trapAt f a
    | .ok (.here pa) => do
      afterAdds pa n
      match ← atomicAt pa n fn b c with
      | .error f => trapAt f a
      | .ok old => finish x.d (BitVec.ofNat 64 old)
    | .ok (.far pkg off) => do
      afterFarAdds
      let pay := atreqPayload off fn w true b c
      let who := Requester.hart (agentNo s.cur)
      match s.answerOf who fun r => r.msg.typ == tyATREQ && r.msg.payload == pay && r.msg.dst.toNat == pkg with
      | some (_, r) =>
        (match r.answer with
          | none => block .memWait
          | some (st, data) => do
            clearAnswers s.cur
            if st = 0#10 then finish x.d (leWord (data.take 8)) else trapAt st a)
      | none => do
        match ← sendRequest who ((s.partOf s.cur).getD 8) tyATREQ (s.world s.cur) pkg pay with
        | .error f => trapAt f a
        | .ok _ => do
          match s.cur with
          | .stream k _ => custody (s.job k).part k 1 0
          | _ => pure ()
          block .memWait
    | .ok (.invalid f) => trapAt f a

/-! The instructions. -/

def execAtomAdd (x : Args) (s : State) : Host.Outcome State Fault Refusal :=
  run (.one 0x25#8 0#4 x) .atom (atomic 0 x) s

def execAtomAnd (x : Args) (s : State) : Host.Outcome State Fault Refusal :=
  run (.one 0x25#8 1#4 x) .atom (atomic 1 x) s

def execAtomOr (x : Args) (s : State) : Host.Outcome State Fault Refusal :=
  run (.one 0x25#8 2#4 x) .atom (atomic 2 x) s

def execAtomXor (x : Args) (s : State) : Host.Outcome State Fault Refusal :=
  run (.one 0x25#8 3#4 x) .atom (atomic 3 x) s

def execAtomMin (x : Args) (s : State) : Host.Outcome State Fault Refusal :=
  run (.one 0x25#8 4#4 x) .atom (atomic 4 x) s

def execAtomMax (x : Args) (s : State) : Host.Outcome State Fault Refusal :=
  run (.one 0x25#8 5#4 x) .atom (atomic 5 x) s

def execAtomMinu (x : Args) (s : State) : Host.Outcome State Fault Refusal :=
  run (.one 0x25#8 6#4 x) .atom (atomic 6 x) s

def execAtomMaxu (x : Args) (s : State) : Host.Outcome State Fault Refusal :=
  run (.one 0x25#8 7#4 x) .atom (atomic 7 x) s

def execAtomSwap (x : Args) (s : State) : Host.Outcome State Fault Refusal :=
  run (.one 0x25#8 8#4 x) .atom (atomic 8 x) s

def execAtomCas (x : Args) (s : State) : Host.Outcome State Fault Refusal :=
  run (.one 0x25#8 9#4 x) .atomcas (atomic 9 x) s


end Sys2Proof.Machine
end

