-- ==== Sys2Proof/Machine/Admit.lean ====
section
/-! DEFINITION. Which writes a register takes (R20, R43, R105–R107, R133, R154, R272, R281): the region table's answer for the
writer's world, and the registers that take secure writes only or writes of their partition's world. A write that is not
admitted is a cross-world access with cause 0x281 and has no effect. -/
namespace Sys2Proof

/-- Whether a writer acts in the secure world. -/
def Writer.isSecure : Writer → Bool
  | .mgmt => true
  | .secure => true
  | _ => false

end Sys2Proof

namespace Sys2Proof.Machine

/-- The security block (R107). -/
def inSecurityBlock (o : Nat) : Bool := decide (0x02000000 ≤ o) && decide (o < 0x02002000)

/-- What the region table says of a writer's access to an MMIO offset; the host reaches BOOT_STAT and BOOT_CTL always and no
other register of the security block, the board's target only the PMB. -/
def State.reachable (s : State) (w : Writer) (o : Nat) : Bool :=
  match w with
  | .mgmt => s.rgnAllows true (mmioBase + o)
  | .secure => s.rgnAllows true (mmioBase + o)
  | .nonSecure => s.rgnAllows false (mmioBase + o)
  | .host =>
    if inSecurityBlock o then o == Reg.bootStat || o == Reg.bootCtl
    else decide (o < 0x8000000) && s.rgnAllows false (mmioBase + o)
  | .board => o == Reg.pcapCtl

/-- The partition whose world a register's writes take. -/
def worldOwner (o : Nat) : Option Nat :=
  if 0x03000000 ≤ o ∧ o < 0x03008000 then some (o / 0x1000 % 8)
  else if 0x05000000 ≤ o ∧ o < 0x05008000 ∧ (o % 0x1000 = 0x120 ∨ o % 0x1000 = 0x138) then some (o / 0x1000 % 8)
  else none

/-- The registers that take secure writes only; PORT_CTL does for a write of UNLOCK. -/
def secureOnly (o : Nat) (v : Word) : Bool :=
  (decide (0x01000000 ≤ o) && decide (o < 0x01100000)) ||
  (decide (0x01400000 ≤ o) && decide (o < 0x01424000) &&
    ((decide (0x020 ≤ o % 0x1000) && decide (o % 0x1000 ≤ 0x048)) || (o % 0x1000 == 0 && Word.bit v 2))) ||
  (decide (0x01800000 ≤ o) && decide (o < 0x01802000)) ||
  o == Reg.rgnCfg || o == Reg.rgnSync || o == Reg.measCmd || (decide (0x02001000 ≤ o) && decide (o < 0x02002000)) ||
  (decide (0x03000000 ≤ o) && decide (o < 0x03008000) && o % 0x1000 == 0x030) ||
  o == Reg.t2Cfg || (decide (Reg.flue ≤ o) && decide (o < Reg.flueEnd)) ||
  (decide (0x05000000 ≤ o) && decide (o < 0x05008000) && o % 0x1000 == 0)

/-- Whether a write is admitted. -/
def State.admits (s : State) (w : Writer) (o : Nat) (v : Word) : Bool :=
  s.reachable w o &&
  (w == .board || ! secureOnly o v || w.isSecure) &&
  (o != Reg.bringStat || w == .mgmt) &&
  (match worldOwner o with
    | some k => w.isSecure || ! s.partWorld k
    | none => true)

/-- A register write that has no effect where it is not admitted. -/
def admitted (w : Writer) (o : Nat) (v : Word) (x : Exec Unit) : Exec Unit := do
  let s ← get
  require (s.admits w o v)
  x

/-- A plain write of a register's RW and W1C fields (R6). -/
def plainWrite (o : Nat) (v : Word) : Exec Unit := do
  let s ← get
  match regSpec o with
  | some sp => setReg o (sp.write (s.reg o) v)
  | none => pure ()

end Sys2Proof.Machine
end

