-- ==== Sys2Proof/Decode.lean ====
section
/-! DEFINITION. Decoding of instruction slots (R351, R352, R359), total on any words, and after it the encoder. Both keep every
bit of the slots; what a reserved bit or a wrong class costs is WellFormed's. -/
namespace Sys2Proof

/-- OPC, FN and the fields of a slot (R352). -/
def slotOpc (w : Word) : Nat := (w.extractLsb' 56 8).toNat
def slotFn (w : Word) : Nat := (w.extractLsb' 52 4).toNat

def slotArgs (w : Word) : Args :=
  ⟨w.extractLsb' 48 4, w.extractLsb' 40 8, w.extractLsb' 32 8, w.extractLsb' 24 8, w.extractLsb' 20 4, w.extractLsb' 0 20⟩

def slotLong (w : Word) : LArgs :=
  ⟨w.extractLsb' 48 4, w.extractLsb' 40 8, w.extractLsb' 32 8, w.extractLsb' 0 32⟩

/-- The extension slot (R354). -/
def slotExt (w : Word) : Ext :=
  ⟨w.extractLsb' 55 9, w.extractLsb' 31 24, w.extractLsb' 30 1, w.extractLsb' 21 9, w.extractLsb' 1 20, w.extractLsb' 0 1⟩

/-- The stamp prefix (R352). -/
def slotStamp (w : Word) : Stamp := ⟨w.extractLsb' 48 8, w.extractLsb' 0 48⟩

/-- The bits Z, P and T of an MMA's FN; FN 8–15 is no member (R446). -/
def mmaBits (fn : Nat) (x : CArgs) : Option MArgs :=
  if fn < 8 then some ⟨BitVec.ofNat 1 fn, BitVec.ofNat 1 (fn / 2), BitVec.ofNat 1 (fn / 4), x⟩ else none

/-- The one-slot instructions of formats R, I and B, by OPC and FN (R359). -/
noncomputable def oneSlot (opc fn : Nat) (x : Args) : Option Instr :=
  match opc with
  | 0x01 => match fn with
    | 0 => some (.nop x)
    | _ => none
  | 0x02 => match fn with
    | 0 => some (.add x)
    | 1 => some (.sub x)
    | 2 => some (.and x)
    | 3 => some (.or x)
    | 4 => some (.xor x)
    | 5 => some (.andn x)
    | 6 => some (.shl x)
    | 7 => some (.shr x)
    | 8 => some (.sar x)
    | 9 => some (.rol x)
    | 10 => some (.min x)
    | 11 => some (.max x)
    | 12 => some (.minu x)
    | 13 => some (.maxu x)
    | 14 => some (.mul x)
    | 15 => some (.mulh x)
    | _ => none
  | 0x03 => match fn with
    | 0 => some (.addi x)
    | 1 => some (.subi x)
    | 2 => some (.andi x)
    | 3 => some (.ori x)
    | 4 => some (.xori x)
    | 5 => some (.andni x)
    | 6 => some (.shli x)
    | 7 => some (.shri x)
    | 8 => some (.sari x)
    | 9 => some (.roli x)
    | 10 => some (.mini x)
    | 11 => some (.maxi x)
    | 12 => some (.minui x)
    | 13 => some (.maxui x)
    | 14 => some (.muli x)
    | 15 => some (.mulhi x)
    | _ => none
  | 0x04 => match fn with
    | 0 => some (.mulhu x)
    | 1 => some (.div x)
    | 2 => some (.divu x)
    | 3 => some (.rem x)
    | 4 => some (.remu x)
    | _ => none
  | 0x05 => match fn with
    | 0 => some (.cmpEq x)
    | 1 => some (.cmpNe x)
    | 2 => some (.cmpLt x)
    | 3 => some (.cmpLe x)
    | 4 => some (.cmpLtu x)
    | 5 => some (.cmpLeu x)
    | 6 => some (.cmpGt x)
    | 7 => some (.cmpGe x)
    | 8 => some (.cmpGtu x)
    | 9 => some (.cmpGeu x)
    | _ => none
  | 0x06 => match fn with
    | 0 => some (.cmpiEq x)
    | 1 => some (.cmpiNe x)
    | 2 => some (.cmpiLt x)
    | 3 => some (.cmpiLe x)
    | 4 => some (.cmpiLtu x)
    | 5 => some (.cmpiLeu x)
    | 6 => some (.cmpiGt x)
    | 7 => some (.cmpiGe x)
    | 8 => some (.cmpiGtu x)
    | 9 => some (.cmpiGeu x)
    | _ => none
  | 0x09 => match fn with
    | 0 => some (.clz x)
    | 1 => some (.ctz x)
    | 2 => some (.popc x)
    | 3 => some (.brev x)
    | 4 => some (.bswap x)
    | 5 => some (.sext8 x)
    | 6 => some (.sext16 x)
    | 7 => some (.sext32 x)
    | 8 => some (.zext8 x)
    | 9 => some (.zext16 x)
    | 10 => some (.zext32 x)
    | _ => none
  | 0x0A => match fn with
    | 0 => some (.shadd x)
    | 1 => some (.alignup x)
    | 2 => some (.aligndn x)
    | 3 => some (.mzip x)
    | 4 => some (.meven x)
    | 5 => some (.modd x)
    | 6 => some (.maddx x)
    | 7 => some (.maddy x)
    | _ => none
  | 0x0B => match fn with
    | 0 => some (.gand x)
    | 1 => some (.gor x)
    | 2 => some (.gxor x)
    | 3 => some (.gandn x)
    | 4 => some (.gset x)
    | 5 => some (.gget x)
    | _ => none
  | 0x0C => match fn with
    | 0 => some (.mov x)
    | 1 => some (.sel x)
    | _ => none
  | 0x10 => match fn with
    | 0 => some (.faddS x)
    | 1 => some (.fsubS x)
    | 2 => some (.fmulS x)
    | 3 => some (.fdivS x)
    | 4 => some (.fsqrtS x)
    | 5 => some (.fminS x)
    | 6 => some (.fmaxS x)
    | 7 => some (.fmaS x)
    | 8 => some (.fmsS x)
    | 9 => some (.fnmaS x)
    | 10 => some (.fabsS x)
    | 11 => some (.fnegS x)
    | _ => none
  | 0x11 => match fn with
    | 0 => some (.faddD x)
    | 1 => some (.fsubD x)
    | 2 => some (.fmulD x)
    | 3 => some (.fdivD x)
    | 4 => some (.fsqrtD x)
    | 5 => some (.fminD x)
    | 6 => some (.fmaxD x)
    | 7 => some (.fmaD x)
    | 8 => some (.fmsD x)
    | 9 => some (.fnmaD x)
    | 10 => some (.fabsD x)
    | 11 => some (.fnegD x)
    | _ => none
  | 0x12 => match fn with
    | 0 => some (.fcmpEq x)
    | 1 => some (.fcmpLt x)
    | 2 => some (.fcmpLe x)
    | 3 => some (.fcmpUn x)
    | _ => none
  | 0x13 => match fn with
    | 0 => some (.fcvtSD x)
    | 1 => some (.fcvtDS x)
    | 2 => some (.fcvtSL x)
    | 3 => some (.fcvtDL x)
    | 4 => some (.fcvtSLu x)
    | 5 => some (.fcvtDLu x)
    | 6 => some (.fcvtLS x)
    | 7 => some (.fcvtLD x)
    | 8 => some (.fcvtLuS x)
    | 9 => some (.fcvtLuD x)
    | 10 => some (.fcvtBS x)
    | 11 => some (.fcvtHS x)
    | 12 => some (.fcvtSB x)
    | 13 => some (.fcvtSH x)
    | _ => none
  | 0x20 => match fn with
    | 0 => some (.ldB x)
    | 1 => some (.ldBu x)
    | 2 => some (.ldH x)
    | 3 => some (.ldHu x)
    | 4 => some (.ldW x)
    | 5 => some (.ldWu x)
    | 6 => some (.ldD x)
    | _ => none
  | 0x21 => match fn with
    | 0 => some (.stB x)
    | 1 => some (.stH x)
    | 2 => some (.stW x)
    | 3 => some (.stD x)
    | _ => none
  | 0x22 => match fn with
    | 0 => some (.ldspB x)
    | 1 => some (.ldspBu x)
    | 2 => some (.ldspH x)
    | 3 => some (.ldspHu x)
    | 4 => some (.ldspW x)
    | 5 => some (.ldspWu x)
    | 6 => some (.ldspD x)
    | _ => none
  | 0x23 => match fn with
    | 0 => some (.stspB x)
    | 1 => some (.stspH x)
    | 2 => some (.stspW x)
    | 3 => some (.stspD x)
    | _ => none
  | 0x24 => match fn with
    | 0 => some (.rldB x)
    | 1 => some (.rldBu x)
    | 2 => some (.rldH x)
    | 3 => some (.rldHu x)
    | 4 => some (.rldW x)
    | 5 => some (.rldWu x)
    | 6 => some (.rldD x)
    | _ => none
  | 0x25 => match fn with
    | 0 => some (.atomAdd x)
    | 1 => some (.atomAnd x)
    | 2 => some (.atomOr x)
    | 3 => some (.atomXor x)
    | 4 => some (.atomMin x)
    | 5 => some (.atomMax x)
    | 6 => some (.atomMinu x)
    | 7 => some (.atomMaxu x)
    | 8 => some (.atomSwap x)
    | 9 => some (.atomCas x)
    | _ => none
  | 0x30 => match fn with
    | 0 => some (.br x)
    | _ => none
  | 0x31 => match fn with
    | 0 => some (.call x)
    | _ => none
  | 0x32 => match fn with
    | 0 => some (.jr x)
    | _ => none
  | 0x33 => match fn with
    | 0 => some (.loop x)
    | _ => none
  | 0x34 => match fn with
    | 0 => some (.beos x)
    | _ => none
  | 0x35 => match fn with
    | 0 => some (.join x)
    | 1 => some (.halt x)
    | 2 => some (.yield x)
    | 3 => some (.svc x)
    | 4 => some (.eret x)
    | _ => none
  | 0x40 => match fn with
    | 0 => some (.cadd x)
    | 1 => some (.caddi x)
    | 2 => some (.cwait x)
    | 3 => some (.crd x)
    | 4 => some (.cinit x)
    | _ => none
  | 0x41 => match fn with
    | 0 => some (.caddM x)
    | 1 => some (.cwaitM x)
    | 2 => some (.waita x)
    | _ => none
  | 0x42 => match fn with
    | 0 => some (.fenceRel x)
    | 1 => some (.fenceAcq x)
    | 2 => some (.fenceAr x)
    | _ => none
  | 0x43 => match fn with
    | 0 => some (.sealRange x)
    | 1 => some (.unsealRange x)
    | 2 => some (.qbar x)
    | _ => none
  | 0x44 => match fn with
    | 0 => some (.dqpush x)
    | 1 => some (.dqpop x)
    | 2 => some (.dqsteal x)
    | 3 => some (.dqlen x)
    | _ => none
  | 0x45 => match fn with
    | 0 => some (.launch x)
    | 1 => some (.launchT x)
    | 2 => some (.xpose x)
    | _ => none
  | 0x46 => match fn with
    | 0 => some (.csrr x)
    | 1 => some (.csrw x)
    | 2 => some (.csrs x)
    | 3 => some (.csrc x)
    | _ => none
  | 0x47 => match fn with
    | 0 => some (.rprobe x)
    | 1 => some (.rttld x)
    | _ => none
  | 0x48 => match fn with
    | 0 => some (.pbind x)
    | 1 => some (.punbind x)
    | 2 => some (.ppos x)
    | _ => none
  | 0x80 => match fn with
    | 0 => some (.tcfg x)
    | 1 => some (.tcfgZ x)
    | 2 => some (.tval x)
    | 3 => some (.tdesc x)
    | _ => none
  | 0x81 => match fn with
    | 0 => some (.tld x)
    | _ => none
  | 0x82 => match fn with
    | 0 => some (.tst x)
    | _ => none
  | 0x88 => match fn with
    | 0 => some (.tadd x)
    | 1 => some (.tsub x)
    | 2 => some (.tmul x)
    | 3 => some (.tdiv x)
    | 4 => some (.tmin x)
    | 5 => some (.tmax x)
    | 6 => some (.tand x)
    | 7 => some (.tor x)
    | 8 => some (.txor x)
    | 9 => some (.tshl x)
    | 10 => some (.tshr x)
    | 11 => some (.tabsd x)
    | _ => none
  | 0x89 => match fn with
    | 0 => some (.tfma x)
    | 1 => some (.tfms x)
    | 2 => some (.tfnma x)
    | 3 => some (.tsel x)
    | _ => none
  | 0x8A => match fn with
    | 0 => some (.tabs x)
    | 1 => some (.tneg x)
    | 2 => some (.tsqrt x)
    | 3 => some (.trcp x)
    | 4 => some (.trsq x)
    | 5 => some (.texp2 x)
    | 6 => some (.texp x)
    | 7 => some (.tlog2 x)
    | 8 => some (.tln x)
    | 9 => some (.tsin x)
    | 10 => some (.tcos x)
    | 11 => some (.ttanh x)
    | 12 => some (.tsigm x)
    | _ => none
  | 0x8B => match fn with
    | 0 => some (.tcmpEq x)
    | 1 => some (.tcmpNe x)
    | 2 => some (.tcmpLt x)
    | 3 => some (.tcmpLe x)
    | 4 => some (.tcmpGt x)
    | 5 => some (.tcmpGe x)
    | 6 => some (.tcmpUn x)
    | _ => none
  | 0x8C => match fn with
    | 0 => some (.tcmul x)
    | 1 => some (.tconj x)
    | 2 => some (.tcmulc x)
    | _ => none
  | 0x8D => match fn with
    | 0 => some (.tcvt x)
    | 1 => some (.tcvtSc x)
    | 2 => some (.tdq x)
    | _ => none
  | 0x8E => match fn with
    | 0 => some (.trsum x)
    | 1 => some (.trmax x)
    | 2 => some (.trmin x)
    | 3 => some (.tcsum x)
    | 4 => some (.tcmax x)
    | 5 => some (.tcmin x)
    | _ => none
  | 0x8F => match fn with
    | 0 => some (.tscanAdd x)
    | 1 => some (.tscanMax x)
    | _ => none
  | 0x90 => match fn with
    | 0 => some (.ttrn x)
    | 1 => some (.tperm x)
    | 2 => some (.tshuf x)
    | 3 => some (.tgath x)
    | 4 => some (.tscat x)
    | 5 => some (.tbcr x)
    | 6 => some (.tbcc x)
    | 7 => some (.tbcs x)
    | _ => none
  | 0x91 => match fn with
    | 0 => some (.tmov x)
    | 1 => some (.text x)
    | 2 => some (.tins x)
    | 3 => some (.tiota x)
    | 4 => some (.tfill x)
    | _ => none
  | _ => none

/-- The format L instructions (R359, R377). -/
noncomputable def longSlot (opc fn : Nat) (x : LArgs) : Option Instr :=
  match opc, fn with
  | 0x07, 0 => some (.movi x)
  | 0x08, 0 => some (.movhi x)
  | _, _ => none

/-- The commands (R359); FN is a modifier of the MMA opcodes (R446). -/
noncomputable def command (opc fn : Nat) (x : CArgs) : Option Instr :=
  match opc with
  | 0xC0 => (mmaBits fn x).map .mmaFp8
  | 0xC1 => (mmaBits fn x).map .mmaFp6
  | 0xC2 => (mmaBits fn x).map .mmaFp4
  | 0xC3 => (mmaBits fn x).map .mmaBf16
  | 0xC4 => (mmaBits fn x).map .mmaFp16
  | 0xC5 => (mmaBits fn x).map .mmaFp32
  | 0xC6 => (mmaBits fn x).map .mmaFp64
  | 0xC7 => (mmaBits fn x).map .mmaInt8
  | 0xC8 => match fn with
    | 0 => some (.accld x)
    | 1 => some (.accst x)
    | 2 => some (.accclr x)
    | 3 => some (.accstg x)
    | _ => none
  | 0xD0 => match fn with
    | 0 => some (.fft x)
    | _ => none
  | 0xD1 => match fn with
    | 0 => some (.ifft x)
    | _ => none
  | 0xD2 => match fn with
    | 0 => some (.rfft x)
    | _ => none
  | 0xD3 => match fn with
    | 0 => some (.irfft x)
    | _ => none
  | 0xD4 => match fn with
    | 0 => some (.fplan x)
    | _ => none
  | 0xD5 => match fn with
    | 0 => some (.leggen x)
    | _ => none
  | 0xD6 => match fn with
    | 0 => some (.ftwm x)
    | _ => none
  | 0xE0 => match fn with
    | 0 => some (.ccopy x)
    | _ => none
  | 0xE1 => match fn with
    | 0 => some (.cmort x)
    | _ => none
  | 0xE2 => match fn with
    | 0 => some (.cgath x)
    | _ => none
  | 0xE3 => match fn with
    | 0 => some (.cscat x)
    | _ => none
  | 0xE4 => match fn with
    | 0 => some (.cred x)
    | _ => none
  | 0xE5 => match fn with
    | 0 => some (.ired x)
    | _ => none
  | 0xE6 => match fn with
    | 0 => some (.atomnAdd x)
    | 1 => some (.atomnAnd x)
    | 2 => some (.atomnOr x)
    | 3 => some (.atomnXor x)
    | 4 => some (.atomnMin x)
    | 5 => some (.atomnMax x)
    | 6 => some (.atomnMinu x)
    | 7 => some (.atomnMaxu x)
    | 8 => some (.atomnSwap x)
    | _ => none
  | 0xE8 => match fn with
    | 0 => some (.put x)
    | _ => none
  | 0xE9 => match fn with
    | 0 => some (.get x)
    | _ => none
  | _ => none

/-- The instruction that starts at the first of three consecutive slots, or none where OPC and FN name no instruction
(R351, R358, R360 row 0x040). A stamp prefix and the command behind it are one instruction. -/
noncomputable def decode (w0 w1 w2 : Word) : Option Instr :=
  let opc := slotOpc w0
  if opc = 0xBF then
    command (slotOpc w1) (slotFn w1) ⟨slotArgs w1, slotExt w2, some (slotStamp w0)⟩
  else if 0xC0 ≤ opc then
    command opc (slotFn w0) ⟨slotArgs w0, slotExt w1, none⟩
  else
    match longSlot opc (slotFn w0) (slotLong w0) with
    | some i => some i
    | none => oneSlot opc (slotFn w0) (slotArgs w0)

/-- How many slots an instruction takes, from its first slot alone (R351). -/
def slotsOf (w0 : Word) : Nat :=
  if slotOpc w0 = 0xBF then 3 else if 0xC0 ≤ slotOpc w0 then 2 else 1

/-- The instruction read from the words of spec/opcode_table.json's numbering: bit 0 is the least significant bit of the
first 64-bit slot; the bits above `nbits` are zero. -/
noncomputable def decodeTableWord (nbits w : Nat) : Option Instr :=
  let v := w % 2 ^ nbits
  decode (BitVec.ofNat 64 v) (BitVec.ofNat 64 (v / 2 ^ 64)) (BitVec.ofNat 64 (v / 2 ^ 128))

/-- A slot of formats R, I and B (R352). -/
def packArgs (opc : BitVec 8) (fn : BitVec 4) (x : Args) : Word :=
  opc ++ fn ++ x.mod ++ x.d ++ x.a ++ x.b ++ x.g ++ x.imm

/-- A slot of format L (R352). -/
def packLong (opc : BitVec 8) (fn : BitVec 4) (x : LArgs) : Word :=
  opc ++ fn ++ x.mod ++ x.d ++ x.a ++ x.imm

/-- An extension slot (R354). -/
def packExt (e : Ext) : Word := e.wsel ++ e.wthr ++ e.acq ++ e.ssel ++ e.sinc ++ e.rel

/-- A stamp prefix slot (R352). -/
def packStamp (p : Stamp) : Word := 0xBF#8 ++ p.resv ++ p.s

/-- The slots of an instruction's encoding. -/
def Enc.words : Enc → List Word
  | .one opc fn x => [packArgs opc fn x]
  | .long opc fn x => [packLong opc fn x]
  | .cmd opc fn x =>
    (match x.stamp with | some p => [packStamp p] | none => []) ++ [packArgs opc fn x.x, packExt x.ext]

/-- The words of an instruction (R351–R354, R359); none for the device events. -/
def encode (i : Instr) : Option (List Word) := i.enc.map Enc.words

/-- Decoding of a list of words, absent words read as zero. -/
noncomputable def decodeWords (ws : List Word) : Option Instr :=
  decode (ws.getD 0 0#64) (ws.getD 1 0#64) (ws.getD 2 0#64)

end Sys2Proof
end

