-- ==== Sys2Proof/Machine/Fetch.lean ====
section
/-! DEFINITION. Fetching (R345–R351): where an agent's code lies, the line checks, the move from slot to slot and from line to
line, control-transfer targets, service opportunities (R261), and what a stream meets before it issues (R387). -/
namespace Sys2Proof.Machine

/-! Code. A stream's code is its slot image (R361); a controller's is its firmware section, all of it code (R365). -/

/-- The slot of the job on core `c`. -/
def State.jobSlot (s : State) (c : Nat) : Slot := (s.part (s.job c).part).slot (s.job c).slot

/-- The lines of the section of a kind. -/
def State.sectionLines (s : State) (kind : Nat) : Nat := Map.get (fun _ => 0) s.sections kind / 64

/-- Whether a line lies in the code area of an agent. -/
def State.codeHolds (s : State) (a : Agent) (line : Nat) : Bool :=
  match a with
  | .stream c _ => decide (1 ≤ line) && decide (line ≤ leVal (Map.getN (fun _ => 0#8) (s.jobSlot c).image 8 4))
  | .service _ => decide (line < s.sectionLines 2)
  | .frontEnd _ => decide (line < s.sectionLines 1)
  | .mgmt => decide (line < s.sectionLines 3)

/-- The 64-bit value at a byte offset of an agent's code. -/
def State.codeWord (s : State) (a : Agent) (o : Nat) : Word :=
  leWord (match a with
    | .stream c _ => Map.getN (fun _ => 0#8) (s.jobSlot c).image o 8
    | .service _ => Map.getN (fun _ => 0#8) s.svcCode o 8
    | .frontEnd f => Map.getN (fun _ => 0#8) s.feCode (262144 * f + o) 8
    | .mgmt => Map.getN (fun _ => 0#8) s.mgmtCode o 8)

/-- The engine whose lines an agent executes: the controllers' lines have ENG 0 (R365). -/
def agentEng : Agent → Nat
  | .stream _ e => e.no
  | _ => 0

/-- A line: its header and its seven slots. -/
def State.line (s : State) (a : Agent) (n : Nat) : Word × List Word :=
  (s.codeWord a (64 * n), (range 1 7).map fun i => s.codeWord a (64 * n + 8 * i))

def hdrEng (h : Word) : Nat := Word.bits h 29 3
def hdrUsed (h : Word) (slot : Nat) : Bool := decide (1 ≤ slot) && decide (slot ≤ 7) && Word.bit h slot

/-- NEXT, a signed line offset. -/
def hdrNext (h : Word) : Int := (h.extractLsb' 8 21).toInt

/-- The highest slot in use where the slot-valid mask has the form of R346. -/
def hdrTop (h : Word) : Option Nat := (range 1 7).find? fun k => decide (Word.bits h 0 8 = 2 ^ (k + 1) - 2)

/-- The slots at which instructions start, from slot `i` on (R351). -/
def startsFrom (ws : List Word) : Nat → Nat → List Nat
  | 0, _ => []
  | fuel + 1, i => if 7 < i then [] else i :: startsFrom ws fuel (i + slotsOf (ws.getD (i - 1) 0#64))

/-- Whether the instructions of slots `i` to `k` end exactly at slot `k` (R346, R351). -/
def endsAt (ws : List Word) (k : Nat) : Nat → Nat → Bool
  | 0, _ => false
  | fuel + 1, i =>
    if i = k + 1 then true
    else if k < i then false
    else
      let n := slotsOf (ws.getD (i - 1) 0#64)
      (n != 3 || (decide (i < k) && decide (0xC0 ≤ slotOpc (ws.getD i 0#64)))) && endsAt ws k fuel (i + n)

/-- Whether line `n` with header `h` and slots `ws` is well formed (R346); `holds` tells the lines of its code area. -/
def lineForm (h : Word) (ws : List Word) (holds : Nat → Bool) (n : Nat) : Bool :=
  match hdrTop h with
  | none => false
  | some k =>
    let nx : Int := (n : Int) + hdrNext h
    decide (hdrEng h ≤ 3) && ! Word.bit h 0 && (ws.drop k).all (· == 0#64) && endsAt ws k 8 1 &&
      (hdrNext h == 0 || (decide (0 ≤ nx) && holds nx.toNat))

def State.lineOk (s : State) (a : Agent) (n : Nat) : Bool := lineForm (s.line a n).1 (s.line a n).2 (s.codeHolds a) n

/-- The CRC of a line's slots (R345). -/
def State.lineCrc (s : State) (a : Agent) (n : Nat) : Nat := crc32c ((s.line a n).2.flatMap fun w => leBytes 8 w.toNat)

/-- Whether a PC is valid as a control-transfer target of an agent (R350). -/
def State.targetOk (s : State) (a : Agent) (pc : Nat) : Bool :=
  let (h, ws) := s.line a (pc / 64)
  pc % 8 == 0 && s.codeHolds a (pc / 64) && hdrEng h == agentEng a && hdrUsed h (pc % 64 / 8) && (startsFrom ws 8 1).contains (pc % 64 / 8)

/-- The line that holds the slot before a PC: after slot 7 the PC is a multiple of 64. -/
def lineOf (pc : Nat) : Nat := if pc % 64 = 0 then pc / 64 - 1 else pc / 64
def slotIn (pc : Nat) : Nat := if pc % 64 = 0 then 8 else pc % 64 / 8

/-- Where an agent continues after an instruction that ends before `pc`: that slot, slot 1 of the next line, or `pc` itself, at
which nothing can run, where there is no next line (R348). -/
def State.follow (s : State) (a : Agent) (pc : Nat) : Nat :=
  let h := s.codeWord a (64 * lineOf pc)
  if hdrUsed h (slotIn pc) then pc
  else if hdrNext h = 0 then pc
  else (64 * ((lineOf pc : Int) + hdrNext h) + 8).toNat

/-- The target of a format B instruction: line offset and slot (R352). -/
def branchTarget (pc : Nat) (x : Args) : Int :=
  64 * ((pc / 64 : Nat) + (x.imm.extractLsb' 3 17).toInt) + 8 * (x.imm.extractLsb' 0 3).toNat

/-- A taken control transfer of the executing instruction; an invalid target faults with 0x046 (R350). -/
def jump (target : Int) : Exec Unit := do
  let s ← get
  if 0 ≤ target ∧ s.targetOk s.cur target.toNat then transfer target.toNat
  else trapAt 0x046#10 (BitVec.ofInt 64 target)

/-! Opportunities of the service context (R261). -/

/-- Whether the user A stream of a core is issuing. -/
def State.userIssues (s : State) (c : Nat) : Bool :=
  let h := s.hart (.stream c .A)
  (s.job c).live && h.stat == .running && h.blocked == .none

/-- Whether the service context may begin a line now: while the user A stream issues, only at an opportunity and at most
SR.SHARE of 16 consecutive ones. -/
def State.mayTake (s : State) (c : Nat) : Bool :=
  let x := s.core c
  ! s.userIssues c || (x.opportunity && decide ((x.oppWindow.filter id).length < x.share))

/-! Issue. -/

/-- The checks on arrival in a line (R347), the PC being the slot about to execute. -/
def checkLine (a : Agent) (n : Nat) : Exec Unit := do
  let s ← get
  let h := s.codeWord a (64 * n)
  if ! s.codeHolds a n then trap 0x046#10
  else if Word.bits h 32 32 ≠ s.lineCrc a n then trap 0x045#10
  else if ! s.lineOk a n || hdrEng h != agentEng a then trap 0x046#10
  else pure ()

/-- Crossing a line boundary (R349): a pre-emption point (R181), and an opportunity where the stream is a user A stream. -/
def crossLine (a : Agent) : Exec Unit := do
  match a with
  | .stream c .A => opportunity c
  | .service c => do
    let s ← get
    require (s.mayTake c)
    updCore c fun x =>
      if s.userIssues c then { x with opportunity := false, oppWindow := (true :: x.oppWindow).take 15 } else x
  | _ => pure ()

/-- A failed remote load stops the A stream at the next instruction it would issue: the record carries the load's PC, and its
reserved entry is gone (R387). -/
def remoteFailure (c : Nat) : Exec Unit := do
  let j ← getJob c
  match j.rldFault with
  | [] => pure ()
  | (r, f) :: rest => do
    updJob c fun j => { j with rldFault := rest }
    updHart fun h => { h with stat := .stopped f false, cause := f, blocked := .none, wait := none, restart := h.restartHere }
    let s ← get
    fqPush c false (jobRecord s c f 0 0 r.pc { FInfo.at r.addr with opnd := 0 })
    halt

/-- Whether effects that an agent has released are not yet accepted. -/
def State.releasing (s : State) (agent : Nat) : Bool :=
  s.outq.any fun o => o.agent == agent &&
    (match o.op with | .store _ _ _ r => r != 0 | .add _ _ r => r != 0 | .remote _ r => r != 0)

/-- What an agent has released is accepted before anything it issues behind the release (R297, R301); a timed command keeps its
cycle. -/
def afterRelease (a : Agent) : Exec Unit := do
  let s ← get
  let h := s.hart a
  if s.releasing (agentNo a) && ! (hdrUsed (s.codeWord a (64 * lineOf h.pc)) (slotIn h.pc) && slotOpc (s.codeWord a h.pc) == 0xBF) then
    block .custody
  else pure ()

/-- The words from the next slot of the executing agent to the end of its line, after every check; the program ends early where
the agent stops or waits before it issues. -/
def fetch : Exec (List Word) := do
  let s ← get
  let a := s.cur
  match a with
  | .stream c .A => remoteFailure c
  | _ => pure ()
  afterRelease a
  let h := s.hart a
  let h1 := s.codeWord a (64 * lineOf h.pc)
  if ! h.newLine && ! hdrUsed h1 (slotIn h.pc) then do
    let pc := s.follow a h.pc
    if pc = h.pc then trap 0x046#10
    else updHart fun h => { h with pc := pc, newLine := true }
  else pure ()
  let h ← getHart
  if h.newLine then do
    let t ← get
    (match a with
      | .stream c _ => require (! (t.job c).stopping)
      | _ => pure ())
    crossLine a
    checkLine a (lineOf h.pc)
    if hdrUsed (t.codeWord a (64 * lineOf h.pc)) (slotIn h.pc) then pure () else trap 0x046#10
    updHart fun h => { h with newLine := false }
  else pure ()
  let t ← get
  pure ((range (h.pc % 64 / 8) (8 - h.pc % 64 / 8)).map fun i => t.codeWord a (64 * (h.pc / 64) + 8 * i))

/-- Whether a stream waits at a yield point. -/
def Hart.yields (h : Hart) : Bool :=
  match h.blocked with
  | .chan | .port | .pbind | .cwait | .cmdWait _ | .cartFull | .launch | .pair | .qbar => true
  | .memWait => h.wait.isSome
  | _ => false

/-- Whether a stream stands at a pre-emption point. -/
def Hart.atPoint (h : Hart) : Bool :=
  match h.stat with
  | .running => h.newLine || h.yields || h.blocked == .stamp || h.blocked == .engine
  | _ => true

/-- Whether an agent issues: it runs, and its core has its job. -/
def State.runnable (s : State) (a : Agent) : Bool :=
  let h := s.hart a
  match a with
  | .stream c e => (s.job c).live && (s.job c).emask.getLsbD e.no && h.stat == .running &&
      ! ((s.job c).stopping && h.atPoint)
  | .frontEnd f => h.stat == .running && ! Map.get (fun _ => false) s.feHold f
  | .service c => h.stat == .running && (h.blocked != .park || (s.core c).fqCount != 0)
  | .mgmt => h.stat == .running

/-- The agents of the part: 128 cores, eight front ends, the management controller. -/
def agentExists : Agent → Bool
  | .stream c _ => decide (c < 128)
  | .service c => decide (c < 128)
  | .frontEnd f => decide (f < 8)
  | .mgmt => true

/-- The agents that could issue. -/
def State.candidates (s : State) : List Agent :=
  ((List.range 128).flatMap fun c =>
      (engines.map fun e => Agent.stream c e) ++ [.service c]).filter s.runnable ++
    ((List.range 8).map Agent.frontEnd).filter s.runnable ++ [Agent.mgmt].filter s.runnable

/-- What a turn does where its agent can issue: the words at its program counter, after every check. A turn of an agent that cannot
issue changes nothing. -/
def State.fetched (s : State) (a : Agent) : EStateM.Result Halt State (List Word) :=
  if s.runnable a then fetch { s with cur := a } else .error .done s

/-- The instruction at the front of the words of a line: where they hold none, the encoding fault of R360. -/
noncomputable def decodeSlot (ws : List Word) : Instr :=
  match decodeWords ws with
  | some i => i
  | none => .unassignedOpcode 0x040#10

/-- Whether an instruction is an event at or outside the part, which a turn may name. -/
def isEvent (i : Instr) : Bool :=
  i.enc.isNone && (match i with | .unassignedOpcode _ => false | _ => true)

/-- Whose turn is next where no order is laid down: an agent that could issue, which one being open. -/
def State.nextAgent (s : State) : Option Agent :=
  match s.candidates with
  | [] => none
  | a :: as => some ((a :: as).getD (Config.pick 0 s.tick as.length % (as.length + 1)) a)

/-! Placing an instruction where an agent fetches next. -/

/-- A well-formed line of engine `eng` that holds the `n` words (R345). -/
def lineBytes (eng : Nat) (ws : List Word) : List Byte :=
  let slots := (ws ++ List.replicate (7 - ws.length) 0#64).flatMap fun w => leBytes 8 w.toNat
  leBytes 8 (2 ^ (ws.length + 1) - 2 + eng * 2 ^ 29 + crc32c slots * 2 ^ 32) ++ slots

/-- The agent that an instruction is for: on core 0. -/
def homeAgent (i : Option Instr) : Agent :=
  match i with
  | none => .stream 0 .A
  | some i =>
    match i.home with
    | .user e => .stream 0 e
    | .service => .service 0
    | .frontEnd => .frontEnd 0
    | .mgmt => .mgmt

/-- A context about to issue the instruction at `pc`, on arrival in its line. -/
def Hart.startAt (h : Hart) (pc : Nat) : Hart :=
  { h with pc := pc, stat := .running, blocked := .none, wait := none, newLine := true, restart := .empty }

/-- Code placed for an agent: in line 1 of the image of slot 0 of partition 0 and a job of that slot on core 0, or in line 0 of the
service contexts' section. -/
def State.placeCode (s : State) (a : Agent) (ws : List Word) : State :=
  let bs := lineBytes (agentEng a) ws
  match a with
  | .stream c _ =>
    let s := s.updPart 0 fun p => p.setSlot 0 { p.slot 0 with image := Map.setN (fun _ => 0#8) (p.slot 0).image 8 (leBytes 4 1 ++ List.replicate 52 0#8 ++ bs) }
    let s := s.updJob c fun j => { j with live := true, part := 0, slot := 0, emask := 15#4, stopping := false, rldFault := [] }
    s.setHart a ((s.hart a).startAt 72)
  | .service c =>
    let s := { s with svcCode := Map.setN (fun _ => 0#8) s.svcCode 0 bs, sections := Map.set (fun _ => 0) s.sections 2 64 }
    let s := s.updCore c fun x => { x with opportunity := true, oppWindow := [] }
    s.setHart a ((s.hart a).startAt 8)
  | _ => s

end Sys2Proof.Machine
end

