-- ==== Sys2Proof/Machine/Cart.lean ====
section
/-! DEFINITION. Cart commands (R471–R483, R486, R488): records and their issue. What the copy engine does with them is in CartRun. -/
namespace Sys2Proof.Machine

/-! Records (R474, R476). -/

def sbits (w v : Nat) : Int := if 2 ^ (w - 1) ≤ v % 2 ^ w then ((v % 2 ^ w : Nat) : Int) - (2 : Int) ^ w else ((v % 2 ^ w : Nat) : Int)

/-- A record from its 64 bytes, without the REL values. -/
def cartRec (bs : List Byte) : CartRec :=
  let f (o n : Nat) : Nat := leVal ((bs.drop o).take n)
  { src := BitVec.ofNat 64 (f 0 8), dst := BitVec.ofNat 64 (f 8 8), ssp := bitsAt (f 16 1) 0 2, dsp := bitsAt (f 16 1) 2 2,
    typ := bitsAt (f 18 1) 0 5, ndim := bitsAt (f 19 1) 0 2 + 1, op := bitsAt (f 19 1) 2 4,
    ext := (List.range 4).map fun k => f (20 + 4 * k) 4, sstr := (List.range 3).map fun k => sbits 32 (f (36 + 4 * k) 4),
    dstr := (List.range 3).map fun k => sbits 32 (f (48 + 4 * k) 4), raw := bs }

/-- The bases with the REL values of space 2 added (R475). -/
def CartRec.based (r : CartRec) (rel : Assoc Word) : CartRec :=
  let rels := leVal ((r.raw.drop 17).take 1)
  let add (space i : Nat) (b : Word) : Word := if space = 2 then b + Map.get (fun _ => 0#64) rel i else b
  { r with src := add r.ssp (bitsAt rels 0 4) r.src, dst := add r.dsp (bitsAt rels 4 4) r.dst }

def CartRec.z (r : CartRec) : Nat := max 1 (typBits r.typ / 8)
def CartRec.e (r : CartRec) (k : Nat) : Nat := r.ext.getD k 0

/-- The extents that count: those below NDIM. -/
def CartRec.dims (r : CartRec) : List Nat := r.ext.take r.ndim
def CartRec.count (r : CartRec) : Nat := r.dims.foldl (· * ·) 1

def isIndexed (opc : Nat) : Bool := opc == 0xE2 || opc == 0xE3 || opc == 0xE5

/-- Whether OP and TYPE go together (R480). -/
def redOk (op typ : Nat) (sat : Bool) : Bool :=
  let ints := typ == 0x0D || typ == 0x0E || typ == 0x12 || typ == 0x13
  if op ≤ 2 then typ == 0 || typ == 1 || typ == 2 || typ == 3 || ints else decide (op ≤ 5) && ints && ! sat

/-- Whether a record is well formed for its command (R476–R482, R488). -/
def CartRec.ok (r : CartRec) (opc : Nat) (mod : BitVec 4) : Bool :=
  let f (o n : Nat) : Nat := leVal ((r.raw.drop o).take n)
  let idx := isIndexed opc
  let strs := r.sstr ++ r.dstr
  let z := r.z
  let upper (k : Nat) : Bool :=
    r.e k == 0 || (idx && (k == 2 || k == 3))
  let strUpper (k : Nat) : Bool := r.sstr.getD (k - 1) 0 == 0 && r.dstr.getD (k - 1) 0 == 0
  let base (space : Nat) (b : Word) : Bool := if space = 1 then decide (b.toNat < 2 ^ 27) else b.toNat % z == 0
  let general :=
    bitsAt (f 16 1) 4 4 == 0 && bitsAt (f 18 1) 5 3 == 0 && bitsAt (f 19 1) 6 2 == 0 && f 60 4 == 0 && r.ssp != 3 && r.dsp != 3 &&
    r.dims.all (· != 0) && (range r.ndim (4 - r.ndim)).all (fun k => upper k && strUpper k) && typOk r.typ &&
    (opc == 0xE1 || decide (8 ≤ typBits r.typ)) && base r.ssp r.src && base r.dsp r.dst && strs.all (fun t => t % (z : Int) == 0) &&
    decide (r.count * z ≤ 2 ^ 40) && (r.op == 0 || opc == 0xE4 || opc == 0xE5)
  let own :=
    match opc with
    | 0xE1 =>
      let lin := if mod.getLsbD 0 then r.dstr else r.sstr
      let mor := if mod.getLsbD 0 then r.sstr else r.dstr
      let mb := if mod.getLsbD 0 then r.src else r.dst
      r.ndim == 2 && r.e 0 * typBits r.typ % 8 == 0 && mor.all (· == 0) && (lin.drop 1).all (· == 0) && mb.toNat % 64 == 0
    | 0xE2 => r.ndim == 2 && r.e 3 == 0
    | 0xE3 => r.ndim == 2 && r.e 2 == 0
    | 0xE4 => r.dsp == 1 && redOk r.op r.typ (mod.getLsbD 3)
    | 0xE5 => r.ndim == 2 && r.dsp != 1 && redOk r.op r.typ (mod.getLsbD 3)
    | 0xE8 => r.dsp == 1 && Word.bits r.dst 22 5 == 0
    | 0xE9 => r.ssp == 1 && Word.bits r.src 22 5 == 0
    | _ => true
  general && own

/-- Which queue a command enters (R471): the store queue, or the load queue. -/
def storeSide (opc dsp : Nat) : Bool :=
  match opc with
  | 0xE4 => false
  | 0xE5 => true
  | 0xE6 => true
  | 0xE8 => true
  | 0xE9 => false
  | _ => dsp != 1

def Job.cartQ (j : Job) (store : Bool) : List CartCmd := if store then j.storeQ else j.loadQ
def Job.setCartQ (j : Job) (store : Bool) (q : List CartCmd) : Job := if store then { j with storeQ := q } else { j with loadQ := q }

def CartRec.empty : CartRec := ⟨0#64, 0#64, 0, 0, 0, 1, 0, [], [], [], []⟩

/-- Steps 4 and 5 of R472. -/
def enqueueCart (x : CArgs) (opc fn : Nat) (r : CartRec) (a b : Word) (cl : Clauses) : Exec Unit := do
  let s ← get
  let c := s.cur.coreNo
  let h := s.hart s.cur
  let store := storeSide opc r.dsp
  let j := s.job c
  if 64 ≤ (j.cartQ store).length then block .cartFull
  else do
    let id ← fresh
    custody j.part (128 + c) 1 0
    let cmd : CartCmd :=
      { id := id, w0 := packArgs (BitVec.ofNat 8 opc) (BitVec.ofNat 4 fn) x.x, w1 := packExt x.ext, opc := opc, fn := fn, mod := x.x.mod,
        pc := h.pc, cr := r, a := a, b := b, cl := cl, started := false, dest := none, sent := false, done := 0, sub := 0,
        entry := none, gs := [], bad := none, floor := ⟨s.gseq, []⟩ }
    updJob c fun j => j.setCartQ store (j.cartQ store ++ [cmd])
    clearAnswers s.cur
    retire (cmdSlots x)

/-- Issue of a Cart command (R472). -/
def issueCart (opc fn : Nat) (x : CArgs) : Exec Unit := do
  let a ← readSrc 1 x.x.a
  let b ← readSrc 2 x.x.b
  let s ← get
  let c := s.cur.coreNo
  let cl := clausesOf (s.hart s.cur) x.ext
  match ← badRef c cl with
  | some ref => do
    dropCommand c 0 (s.hart s.cur).pc cl ref
    retire (cmdSlots x)
  | none =>
    if opc = 0xE6 then
      (if a.toNat % (if x.x.mod.getLsbD 0 then 4 else 8) ≠ 0 then trapAt 0x208#10 a
       else enqueueCart x opc fn .empty a b cl)
    else if a.toNat % 64 ≠ 0 then trapAt 0x143#10 a
    else if (opc = 0xE2 ∨ opc = 0xE3) ∧ b.toNat % 4 ≠ 0 then trapAt 0x143#10 b
    else if opc = 0xE5 ∧ b.toNat % 8 ≠ 0 then trapAt 0x143#10 b
    else do
      let bs ← readGlobal s.cur (.at a) a.toNat 64
      let t ← get
      let r := (cartRec bs).based (t.job c).rel
      if r.ok opc x.x.mod then enqueueCart x opc fn r a b cl else trapAt 0x200#10 a

/-! The instructions. -/

def execCcopy (x : CArgs) (s : State) : Host.Outcome State Fault Refusal :=
  run (.cmd 0xE0#8 0#4 x) .cart1 (issueCart 0xE0 0 x) s

def execCmort (x : CArgs) (s : State) : Host.Outcome State Fault Refusal :=
  run (.cmd 0xE1#8 0#4 x) .cmort (issueCart 0xE1 0 x) s

def execCgath (x : CArgs) (s : State) : Host.Outcome State Fault Refusal :=
  run (.cmd 0xE2#8 0#4 x) .cart2 (issueCart 0xE2 0 x) s

def execCscat (x : CArgs) (s : State) : Host.Outcome State Fault Refusal :=
  run (.cmd 0xE3#8 0#4 x) .cart2 (issueCart 0xE3 0 x) s

def execCred (x : CArgs) (s : State) : Host.Outcome State Fault Refusal :=
  run (.cmd 0xE4#8 0#4 x) .cred (issueCart 0xE4 0 x) s

def execIred (x : CArgs) (s : State) : Host.Outcome State Fault Refusal :=
  run (.cmd 0xE5#8 0#4 x) .ired (issueCart 0xE5 0 x) s

def execAtomnAdd (x : CArgs) (s : State) : Host.Outcome State Fault Refusal :=
  run (.cmd 0xE6#8 0#4 x) .atomn (issueCart 0xE6 0 x) s

def execAtomnAnd (x : CArgs) (s : State) : Host.Outcome State Fault Refusal :=
  run (.cmd 0xE6#8 1#4 x) .atomn (issueCart 0xE6 1 x) s

def execAtomnOr (x : CArgs) (s : State) : Host.Outcome State Fault Refusal :=
  run (.cmd 0xE6#8 2#4 x) .atomn (issueCart 0xE6 2 x) s

def execAtomnXor (x : CArgs) (s : State) : Host.Outcome State Fault Refusal :=
  run (.cmd 0xE6#8 3#4 x) .atomn (issueCart 0xE6 3 x) s

def execAtomnMin (x : CArgs) (s : State) : Host.Outcome State Fault Refusal :=
  run (.cmd 0xE6#8 4#4 x) .atomn (issueCart 0xE6 4 x) s

def execAtomnMax (x : CArgs) (s : State) : Host.Outcome State Fault Refusal :=
  run (.cmd 0xE6#8 5#4 x) .atomn (issueCart 0xE6 5 x) s

def execAtomnMinu (x : CArgs) (s : State) : Host.Outcome State Fault Refusal :=
  run (.cmd 0xE6#8 6#4 x) .atomn (issueCart 0xE6 6 x) s

def execAtomnMaxu (x : CArgs) (s : State) : Host.Outcome State Fault Refusal :=
  run (.cmd 0xE6#8 7#4 x) .atomn (issueCart 0xE6 7 x) s

def execAtomnSwap (x : CArgs) (s : State) : Host.Outcome State Fault Refusal :=
  run (.cmd 0xE6#8 8#4 x) .atomn (issueCart 0xE6 8 x) s

def execPut (x : CArgs) (s : State) : Host.Outcome State Fault Refusal :=
  run (.cmd 0xE8#8 0#4 x) .cart2 (issueCart 0xE8 0 x) s

def execGet (x : CArgs) (s : State) : Host.Outcome State Fault Refusal :=
  run (.cmd 0xE9#8 0#4 x) .cart2 (issueCart 0xE9 0 x) s


end Sys2Proof.Machine
end

