-- ==== Sys2Proof/Machine/Rank.lean ====
section
/-! DEFINITION. Ranks (R87, R88): the rank table, its cached entries, and where a rank's scratchpad lies. -/
namespace Sys2Proof.Machine

/-- The number a cached entry is listed under. -/
def rankKey (k r : Nat) : Nat := 65536 * k + r

/-- The entry of rank `r` of partition `k` in the table. -/
def State.rankEntry (s : State) (k r : Nat) : Nat := s.nat (s.field (Reg.rankBase k) 6 46 * 64 + 4 * r) 4

/-- Resolving a rank to a package and a logical core: the table's entry, or the one cached where they differ (R88, log 1). -/
def resolveRank (k r : Nat) : Exec (Except Cause (Nat × Nat)) := do
  let s ← get
  if s.field (Reg.rankCfg k) 0 17 ≤ r then pure (.error 0x246#10)
  else do
    let now := s.rankEntry k r
    let e ← match Map.find s.rankCache (rankKey k r) with
      | some w =>
        if w.toNat % 2 ^ 32 = now then pure now
        else do
          let n ← choose 3 2
          pure (if n = 0 then w.toNat % 2 ^ 32 else now)
      | none => pure now
    modify fun s => { s with rankCache := Map.insert s.rankCache (rankKey k r) (BitVec.ofNat 64 (2 ^ 32 + e)) }
    if bitsAt e 31 1 = 0 then pure (.error 0x245#10)
    else pure (.ok (bitsAt e 16 10, bitsAt e 8 2 * 32 + bitsAt e 0 5))

/-- FPID of a partition, and the partition of this package that has one (R87). -/
def State.fpid (s : State) (k : Nat) : Nat := s.field (Reg.rankCfg k) 32 16
def State.partOfFpid (s : State) (f : Nat) : Option Nat := (List.range 8).find? fun k => s.partOn k && s.fpid k == f

/-- The cached entries of a partition, and of one rank, become invalid (R88). -/
def dropRanks (k : Nat) : Exec Unit := modify fun s => { s with rankCache := Map.clear s.rankCache (rankKey k 0) (rankKey (k + 1) 0) }
def dropRank (k r : Nat) : Exec Unit := modify fun s => { s with rankCache := Map.erase s.rankCache (rankKey k r) }

/-- The physical place of `n` bytes at an offset of a rank's scratchpad on this package; none outside it. -/
def State.rankPa (s : State) (k l : Nat) (off : Int) (n : Nat) : Option Nat :=
  if off < 0 ∨ 4194304 < off + n ∨ (s.part k).lcores ≤ l then none else some (s.scratchPa k l off.toNat)

/-- The transfer header of R502; the reserved bytes are zero. -/
def transferHeader (fpid rank off count tag : Nat) : List Byte :=
  leBytes 2 fpid ++ leBytes 2 rank ++ leBytes 4 0 ++ leBytes 8 off ++ leBytes 8 count ++ leBytes 8 tag

/-- Whether a rank of a partition is suspended for messages to package `pkg` (R101, R102). -/
def State.suspended (s : State) (k pkg r : Nat) : Bool :=
  (s.part k).susp.any fun x => x.pkg == pkg && decide (x.first ≤ r) && decide (r ≤ x.last)

/-- Sending a message to a rank on another package: parked while the rank is suspended (R102). The payload may hold the tag. -/
def sendToRank (who : Requester) (k : Nat) (typ : BitVec 8) (pkg rank : Nat) (payload : Nat → List Byte) : Exec (Except Cause Nat) := do
  let s ← get
  match s.routePort pkg with
  | .error c => pure (.error c)
  | .ok p =>
    let tag := s.nextTag
    let pay := payload tag
    let m : Msg := ⟨typ, s.partWorld k, BitVec.ofNat 10 s.pkg, BitVec.ofNat 10 pkg, BitVec.ofNat 32 tag, pay⟩
    let t := { s with nextTag := tag + 1, remotes := Map.insert s.remotes tag ⟨who, k, m, p, none, pay.length⟩ }
    set (t.enqueue p m (s.suspended k pkg rank))
    pure (.ok tag)

end Sys2Proof.Machine
end

