-- ==== Sys2Proof/Machine/Graph.lean ====
section
/-! DEFINITION. Graph nodes, graph headers and Coach parameter blocks as bytes (R167–R170, R490–R492): their fields and when they
are well formed. -/
namespace Sys2Proof.Machine

/-- A little-endian field of a record. -/
def fld (bs : List Byte) (o n : Nat) : Nat := leVal ((bs.drop o).take n)

/-! Nodes (R168, R169). -/

def nodeKind (n : List Byte) : Nat := fld n 0 1
def nodeWen (n : List Byte) : Bool := bitsAt (fld n 1 1) 0 1 == 1
def nodeAcq (n : List Byte) : Bool := bitsAt (fld n 1 1) 1 1 == 1
def nodeSen (n : List Byte) : Bool := bitsAt (fld n 1 1) 2 1 == 1
def nodeRel (n : List Byte) : Bool := bitsAt (fld n 1 1) 3 1 == 1
def nodeWidx (n : List Byte) : Nat := bitsAt (fld n 2 2) 0 13
def nodeSidx (n : List Byte) : Nat := bitsAt (fld n 4 2) 0 13
def nodeSinc (n : List Byte) : Nat := fld n 20 4

/-- The threshold of a node's wait in step `st`, computed exactly (R177). -/
def nodeThr (n : List Byte) (st : Nat) : Nat := fld n 8 8 + st * fld n 16 4

def taskFirst (n : List Byte) : Nat := fld n 24 2
def taskNlc (n : List Byte) : Nat := fld n 26 2
def taskEmask (n : List Byte) : Nat := fld n 28 1
def taskRlcnt (n : List Byte) : Nat := fld n 29 1
def taskRloff (n : List Byte) : Nat := fld n 32 4
def taskEntry (n : List Byte) (e : Eng) : Nat := fld n (40 + 4 * e.no) 4
def coachPboff (n : List Byte) : Nat := fld n 24 4

/-- Whether a node is well formed in an image of `imglen` bytes whose graph needs `nlcore` logical cores (R170). -/
def nodeOk (nlcore imglen : Nat) (n : List Byte) : Bool :=
  let fl := fld n 1 1
  let head := decide (bitsAt fl 4 4 = 0) && decide (bitsAt (fld n 2 2) 13 3 = 0) && decide (bitsAt (fld n 4 2) 13 3 = 0) &&
    decide (fld n 6 2 = 0) && (nodeWen n || (fld n 8 8 == 0 && fld n 16 4 == 0)) && (nodeSen n == (nodeSinc n != 0))
  head &&
  match nodeKind n with
  | 0 => fld n 24 40 == 0
  | 1 =>
    fld n 30 2 == 0 && fld n 36 4 == 0 && fld n 56 8 == 0 && decide (1 ≤ taskNlc n) && decide (taskNlc n ≤ 128) &&
    decide (taskFirst n + taskNlc n ≤ nlcore) && taskEmask n != 0 && decide (taskEmask n < 16) && decide (taskRlcnt n ≤ 64) &&
    taskRloff n % 64 == 0 && decide (taskRloff n + 32 * taskRlcnt n ≤ imglen) && decide (taskRloff n < imglen) &&
    engines.all fun e => (bitsAt (taskEmask n) e.no 1 == 1) == (taskEntry n e != 0)
  | 2 => fld n 28 36 == 0 && coachPboff n % 64 == 0 && decide (coachPboff n + 64 ≤ imglen)
  | 3 => fld n 24 40 == 0
  | _ => false

/-! The graph header (R167). -/

def Slot.bytes (x : Slot) (o n : Nat) : List Byte := Map.getN (fun _ => 0#8) x.image o n

/-- The graph descriptor's header, at GDOFF of the slot image. -/
def Slot.graph (x : Slot) : List Byte := x.bytes (leVal (x.bytes 12 4)) 64

def graphNnode (g : List Byte) : Nat := fld g 6 2
def graphNodeoff (g : List Byte) : Nat := fld g 8 4
def graphNlcore (g : List Byte) : Nat := fld g 12 2

/-- Whether a graph header is well formed for a partition of `lcores` logical cores (R170). -/
def graphOk (lcores imglen : Nat) (g : List Byte) : Bool :=
  g.take 4 == [0x4B#8, 0x51#8, 0x47#8, 0x44#8] && fld g 4 2 == 1 && decide (1 ≤ graphNnode g) && decide (graphNnode g ≤ 4096) &&
  decide (1 ≤ graphNlcore g) && decide (graphNlcore g ≤ 128) && decide (graphNlcore g ≤ lcores) && graphNodeoff g % 64 == 0 &&
  decide (graphNodeoff g + 64 * graphNnode g ≤ imglen) && fld g 14 50 == 0

def Slot.nodes (x : Slot) (g : List Byte) : List (List Byte) :=
  (List.range (graphNnode g)).map fun i => x.bytes (graphNodeoff g + 64 * i) 64

/-! Coach parameter blocks (R490–R492). -/

/-- A block as its fields. -/
structure CBlock where
  src : Nat
  dst : Nat
  op : Nat
  pat : Bool                    -- the pattern lies on the destination side
  acq : Bool
  rel : Bool
  ssp : Nat
  dsp : Nat
  ndim : Nat
  typ : Nat
  nstep : Nat
  src0 : Nat
  nsrc : Nat
  pmask : Nat
  ext : List Nat
  str : List Int
  pstr : Nat
  rstr : Nat
  wsel : Nat
  wthr : Nat
  winc : Nat
  ssel : Nat
  dsel : Nat
  deriving DecidableEq, Repr

def cblock (b : List Byte) : CBlock :=
  let ops := fld b 16 1
  let spc := fld b 17 1
  { src := fld b 0 8, dst := fld b 8 8, op := bitsAt ops 0 2, pat := bitsAt ops 2 1 == 1, acq := bitsAt ops 3 1 == 1,
    rel := bitsAt ops 4 1 == 1, ssp := bitsAt spc 0 2, dsp := bitsAt spc 2 2, ndim := bitsAt spc 4 2 + 1,
    typ := bitsAt (fld b 18 1) 0 5, nstep := fld b 19 1, src0 := fld b 20 2, nsrc := fld b 22 2 + 1, pmask := fld b 24 8,
    ext := (List.range 4).map fun k => fld b (32 + 2 * k) 2, str := (List.range 3).map fun k => sbits 24 (fld b (40 + 3 * k) 3),
    pstr := fld b 49 3, rstr := fld b 52 3, wsel := fld b 55 1, wthr := fld b 56 3, winc := fld b 59 3, ssel := fld b 62 1,
    dsel := fld b 63 1 }

def CBlock.z (b : CBlock) : Nat := max 1 (typBits b.typ / 8)
def CBlock.nb (b : CBlock) : Nat := (b.ext.take b.ndim).foldl (· * ·) 1

/-- Whether a block is well formed (R491); `own` says that it has an owner task. -/
def blockOk (own : Bool) (bytes : List Byte) : Bool :=
  let b := cblock bytes
  let base (space v : Nat) : Bool := if space = 1 then decide (v < 2 ^ 22) else v % b.z == 0
  bitsAt (fld bytes 16 1) 5 3 == 0 && bitsAt (fld bytes 17 1) 6 2 == 0 && bitsAt (fld bytes 18 1) 5 3 == 0 && b.op != 3 &&
  decide (b.ssp ≤ 1) && decide (b.dsp ≤ 1) && b.nstep != 0 && b.pmask != 0 && decide (b.src0 + b.nsrc ≤ 65536) &&
  (b.ext.take b.ndim).all (· != 0) && (b.ext.drop b.ndim).all (· == 0) && (b.str.drop (b.ndim - 1)).all (· == 0) &&
  typOk b.typ && decide (8 ≤ typBits b.typ) && base b.ssp b.src && base b.dsp b.dst && (b.op != 1 || b.pstr == 0) &&
  (b.op != 2 || (b.dsp != 0 && redOk 0 b.typ false)) && (b.wsel != 0xFF || (b.wthr == 0 && b.winc == 0 && ! b.acq)) &&
  (b.ssel != 0xFF || ! b.rel) && (own || (b.wsel == 0xFF && b.ssel == 0xFF && b.dsel == 0xFF))

/-- The peers of step `t`. -/
def CBlock.peers (b : CBlock) (t : Nat) : List Nat :=
  ((List.range 64).filter fun i => bitsAt b.pmask i 1 == 1).map fun i => 64 * t + i

/-- The source ranks. -/
def CBlock.ranks (b : CBlock) : List Nat := range b.src0 b.nsrc

end Sys2Proof.Machine
end

