-- ==== Sys2Proof/Machine/Sweep.lean ====
section
/-! DEFINITION. Chimney sweeps (R98–R100, R188–R192, R194): how a pair of sweeps starts, its sums, and its way up and down the tree
of packages. -/
namespace Sys2Proof.Machine

/-! Packages of a partition. -/

/-- A number put into a rising list without repeats. -/
def insertNat (n : Nat) : List Nat → List Nat
  | [] => [n]
  | m :: ms => if n = m then m :: ms else if n < m then n :: m :: ms else m :: insertNat n ms

/-- The packages named in a partition's rank table, in order of their ids (R100). -/
def State.rankPkgs (s : State) (k : Nat) : List Nat :=
  (List.range (s.field (Reg.rankCfg k) 0 17)).foldl (fun l r =>
    let e := s.rankEntry k r
    if bitsAt e 31 1 = 1 then insertNat (bitsAt e 16 10) l else l) []

/-- The other packages of a partition. -/
def State.peers (s : State) (k : Nat) : List Nat := (s.rankPkgs k).filter (· != s.pkg)

/-- The place of this package in the tree; the root where no rank names it. -/
def State.treeIndex (s : State) (k : Nat) : Nat := (s.rankPkgs k).idxOf s.pkg

/-- Whether the partition's sweeps travel between packages. -/
def State.multi (s : State) (k : Nat) : Bool := (s.rankPkgs k).contains s.pkg && decide (2 ≤ (s.rankPkgs k).length)

/-- The children of this package in the tree. -/
def State.treeChildren (s : State) (k : Nat) : List Nat :=
  let ps := s.rankPkgs k
  let i := s.treeIndex k
  if ! s.multi k then [] else [2 * i + 1, 2 * i + 2].filterMap fun n => ps[n]?

/-- The parent, if this package is not the root. -/
def State.treeParent (s : State) (k : Nat) : Option Nat :=
  let i := s.treeIndex k
  if ! s.multi k ∨ i = 0 then none else (s.rankPkgs k)[(i - 1) / 2]?

/-! Sums (R189–R191, R194, R215). -/

def sumPairs (l : List (Nat × Nat)) : Nat × Nat := l.foldl (fun a b => (a.1 + b.1, a.2 + b.2)) (0, 0)

/-- Whether a sweep counts job tokens, suspended ranks and queue entries; QBAR instructions and FREEZE do not. -/
def SweepBy.tokens : SweepBy → Bool
  | .instr _ => false
  | .freeze => false
  | _ => true

/-- This package's sums of a partition: received and sent. -/
def State.localSums (s : State) (k : Nat) (b : SweepBy) : Nat × Nat :=
  let nodes := (s.part k).custody.filter fun e =>
    (b.tokens || (e.1 != feNode && e.1 != entryNode && e.1 != suspNode)) && (b != .freeze || e.1 != heldNode)
  sumPairs (nodes.map (·.2) ++ s.nodesE.map (·.2) ++ s.nodesI.map (·.2))

/-! Starting (R164, R190, R191). -/

/-- A pair of sweeps under the next QBAR number. -/
def startSweep (k : Nat) (b : SweepBy) : Exec Unit := do
  let s ← get
  let num := (s.reg (Reg.seqQbar k)).toNat + 1
  setReg (Reg.seqQbar k) (BitVec.ofNat 64 num)
  updPart k fun p => { p with sweeps := p.sweeps ++ [⟨b, num, none, none, false⟩] }

/-- Whether a sweep that counts job tokens is open: nothing dispatches and no node issues (R191). -/
def Part.sweepOpen (p : Part) : Bool := p.sweeps.any fun w => w.by_.tokens

/-- A CHIM flit message (R100). -/
def chimPayload (fpid sweep b3 num sent recv : Nat) : List Byte :=
  leBytes 2 fpid ++ [BitVec.ofNat 8 sweep, BitVec.ofNat 8 b3] ++ leBytes 4 0 ++ leBytes 8 num ++ leBytes 8 sent ++ leBytes 8 recv

def sendCtl (k dst : Nat) (typ : BitVec 8) (payload : List Byte) : Exec Unit := do
  let s ← get
  sendMsg ⟨typ, s.partWorld k, BitVec.ofNat 10 s.pkg, BitVec.ofNat 10 dst, 0#32, payload⟩

def eachChild (k : Nat) (payload : List Byte) : Exec Unit := do
  let s ← get
  each (s.treeChildren k) fun p => sendCtl k p tyCHIM payload

/-- The children's sums of a sweep, once all have come. -/
def State.childSums (s : State) (k num sweep : Nat) : Option (Nat × Nat) :=
  let cs := (s.part k).chims.filter fun x => x.num == num && x.sweep == sweep
  if (s.treeChildren k).all fun p => cs.any fun x => x.pkg == p then
    some (sumPairs (cs.map fun x => (x.recv, x.sent)))
  else none

/-- The job of a task's core reaches QBAR: once every job of the task has, a sweep starts (R191, R399). -/
def qbarReached (k t : Nat) : Exec Unit := do
  let s ← get
  let task := Map.get (fun _ => Task.absent) (s.part k).tasks t
  let at_ (n : Nat) : Bool :=
    (match Map.find s.frames n with
      | some f => f.job.qbar
      | none => (s.part k).phys.any fun c => (s.job c).live && (s.job c).id == n && (s.job c).qbar)
  if task.jobs.all at_ then startSweep k (.instr t) else pure ()

end Sys2Proof.Machine
end

