-- ==== Sys2Proof/Machine/Queue.lean ====
section
/-! DEFINITION. Class queues, host entries and completions (R139–R152, R165, R166): the fields of entries, when they are well
formed, waits and signals of the partition's counter window, and the end of an entry. -/
namespace Sys2Proof.Machine

/-! Host entries (R141–R144). -/

def entKind (e : List Byte) : Nat := fld e 2 1
def entCpl (e : List Byte) : Bool := bitsAt (fld e 3 1) 0 1 == 1
def entIrq (e : List Byte) : Bool := bitsAt (fld e 3 1) 1 1 == 1
def entClass (e : List Byte) : Nat := bitsAt (fld e 3 1) 2 2
def entTag (e : List Byte) : Nat := fld e 4 4
def entWen (e : List Byte) : Bool := bitsAt (fld e 8 2) 15 1 == 1
def entAcq (e : List Byte) : Bool := bitsAt (fld e 8 2) 14 1 == 1
def entWidx (e : List Byte) : Nat := bitsAt (fld e 8 2) 0 13
def entSen (e : List Byte) : Bool := bitsAt (fld e 10 2) 15 1 == 1
def entRel (e : List Byte) : Bool := bitsAt (fld e 10 2) 14 1 == 1
def entSidx (e : List Byte) : Nat := bitsAt (fld e 10 2) 0 13
def entSinc (e : List Byte) : Nat := fld e 12 4
def entWval (e : List Byte) : Nat := fld e 16 8
def entSlot (e : List Byte) : Nat := fld e 24 1
def entNrel (e : List Byte) : Nat := fld e 25 1
def entGen (e : List Byte) : Nat := fld e 28 4
def entNstep (e : List Byte) : Nat := fld e 32 4
def entPbaddr (e : List Byte) : Nat := fld e 24 8
def entImgaddr (e : List Byte) : Nat := fld e 32 8
def entImglen (e : List Byte) : Nat := fld e 40 8

/-- Continuations of an entry (R144). -/
def entCont (e : List Byte) : Nat :=
  if entKind e = 1 ∧ 5 ≤ entNrel e ∧ entNrel e ≤ 16 then (entNrel e + 2) / 7 else 0

/-- Whether an entry other than ARGS is well formed (R143). -/
def entOk (e : List Byte) : Bool :=
  let zero (o n : Nat) : Bool := fld e o n == 0
  let head := bitsAt (fld e 3 1) 4 4 == 0 && bitsAt (fld e 8 2) 13 1 == 0 && bitsAt (fld e 10 2) 13 1 == 0 &&
    (entWen e || entWval e == 0) && (entSen e == (entSinc e != 0))
  head &&
  match entKind e with
  | 0x00 => zero 24 40
  | 0x01 => decide (entSlot e ≤ 63) && decide (entNrel e ≤ 16) && zero 26 2
  | 0x02 => decide (entSlot e ≤ 63) && zero 25 3 && entNstep e != 0 && zero 36 28
  | 0x03 => entPbaddr e % 64 == 0 && zero 32 32
  | 0x04 => zero 24 40 && entSen e
  | 0x05 => zero 24 40 && entWen e
  | 0x06 => decide (entSlot e ≤ 63) && zero 25 3 && entGen e != 0 && entImgaddr e % 64 == 0 && zero 48 16
  | 0x07 => decide (entSlot e ≤ 63) && zero 25 3 && zero 32 32
  | 0x08 => decide (entSlot e ≤ 1) && zero 25 3 && entImgaddr e % 64 == 0 && zero 48 16 && (entSlot e == 1 || entGen e == 0)
  | 0x09 => zero 24 40
  | 0x0A => zero 24 40
  | _ => false

/-- Whether continuation `i` (from 1) of a launch with `nrel` addresses is well formed. -/
def argsOk (nrel i : Nat) (a : List Byte) : Bool :=
  fld a 3 5 == 0 && (List.range 7).all fun n => decide (4 + 7 * (i - 1) + n < nrel) || fld a (8 + 8 * n) 8 == 0

/-- The cause that rejects a group of entries, if any (R513, R142–R144). -/
def groupFault (g : List (List Byte)) : Option Cause :=
  match g with
  | [] => some 0x2C8#10
  | e :: cs =>
    if entKind e = 0x0F ∨ cs.length ≠ entCont e ∨ cs.any (fun a => entKind a != 0x0F) then some 0x2C8#10
    else if ! entOk e || ! (List.range cs.length).all (fun i => argsOk (entNrel e) (i + 1) (cs.getD i [])) then some 0x2C0#10
    else none

/-- Address `i` of a launch. -/
def entRelAddr (g : List Byte) (i : Nat) : Word :=
  if entNrel g ≤ i then 0#64
  else BitVec.ofNat 64 (if i < 4 then fld g (32 + 8 * i) 8 else fld g (64 * (1 + (i - 4) / 7) + 8 + 8 * ((i - 4) % 7)) 8)

/-! Waits and signals in the counter window (R145, R146, R173, R174). -/

/-- How a wait on counter `i` for at least `thr` stands. -/
def windowWait (k i thr : Nat) : Exec WaitState := do
  let s ← get
  let pa := s.window k i
  match (s.mcounter pa).poison with
  | some c => pure (.poisoned c)
  | none => do
    match ← exitCheck (s.block pa) with
    | some c => pure (.poisoned c)
    | none => pure (if thr ≤ (s.word pa).toNat then .met (s.mcounter pa).rels else .unmet)

/-- What a device-scope release of the front end stands for: what it gained, and what a closed sweep made visible. -/
def State.frontRel (s : State) (k : Nat) (gained : List Rel) : List Rel :=
  let me := s.party (.frontEnd k)
  [⟨me, 3, (gainOf 3 me gained).join ⟨(s.part k).closed, []⟩⟩]

/-! Completions (R146, R151, R152). -/

def postCpl (k : Nat) (c : Cpl) : Exec Unit := updPart k fun p => { p with cpl := p.cpl ++ [c] }

/-- The end of a host entry: its signal or poison, and its record where there is one. -/
def endEntry (k : Nat) (e : QEntry) (status : Cause) (value : Word) : Exec Unit := do
  let s ← get
  let b := e.bytes
  if entSen b then
    (if status = 0#10 then addWindow k (entSidx b) (entSinc b) (if entRel b then s.frontRel k e.gained else [])
      else poisonWindow k (entSidx b) status)
  if entCpl b || status != 0#10 then
    postCpl k ⟨entKind b, entIrq b, entTag b, status, (s.part k).lastStep.toNat % 2 ^ 32, value, e.cmdidx⟩

/-- The class of a queued entry's class queue. -/
def Part.setHead (p : Part) (c : Nat) (e : QEntry) : Part :=
  match p.queue c with
  | [] => p
  | _ :: q => p.setQueue c (e :: q)

def Part.dropHead (p : Part) (c : Nat) : Part := p.setQueue c ((p.queue c).drop 1)

/-- The head entry of a class leaves the queue (R166). -/
def dequeue (k c : Nat) : Exec Unit := do
  let p ← getPart k
  match p.queue c with
  | [] => pure ()
  | e :: _ => do
    updPart k fun p => p.dropHead c
    if e.source ≠ 0 then custody k entryNode 0 1

/-- CTX_STAT.PHASE. -/
def State.ctxPhase (s : State) (k : Nat) : Nat := s.field (Reg.ctxStat k) 0 3

/-- Whether a class may dispatch its head (R160, R157, R191, R215, R216): a MIGRATE also while the partition is frozen. -/
def State.mayDispatch (s : State) (k : Nat) (migrate : Bool) : Bool :=
  let p := s.part k
  decide (k < 8) && s.partOn k && ! s.flag (Reg.partCtl k) 1 && ! p.holdWdog && ! p.sweepOpen &&
  (if migrate then s.ctxPhase k == 0 || s.ctxPhase k == 2 else s.ctxPhase k == 0 && p.seq.state != .frozen)

/-- The head of a class queue as a host entry of a kind that has not dispatched, if it may dispatch. -/
def hostHead (k c kind : Nat) : Exec QEntry := do
  let s ← get
  let p := s.part k
  require (s.mayDispatch k (kind == 8))
  match p.queue c with
  | [] => halt
  | e :: _ => do
    require (e.source == 0 && entKind e.bytes == kind && e.stage == .queued && (! entCpl e.bytes || decide (p.cpl.length < 256)))
    pure e

/-- The wait of a host entry. -/
def entryWait (k : Nat) (e : QEntry) : Exec WaitState :=
  if entWen e.bytes then windowWait k (entWidx e.bytes) (entWval e.bytes) else pure (.met [])

/-- Dispatching the head of class `c`, of a kind: once its wait is met, with what it gained. -/
def dispatch (k c kind : Nat) (act : QEntry → Exec Unit) : Exec Unit := do
  let e ← hostHead k c kind
  match ← entryWait k e with
  | .met rels => act { e with gained := if entAcq e.bytes then rels else [] }
  | _ => halt

/-- An entry that completes as it dispatches. -/
def complete (k c : Nat) (e : QEntry) (status : Cause) (value : Word) : Exec Unit := do
  dequeue k c
  endEntry k e status value

/-- CMD_NOP, CMD_CADD, CMD_CWAIT (R142). -/
def execCmdNop (k c : Nat) (s : State) : Host.Outcome State Fault Refusal :=
  runExec (dispatch k c 0x00 fun e => complete k c e 0#10 0#64) s

def execCmdCadd (k c : Nat) (s : State) : Host.Outcome State Fault Refusal :=
  runExec (dispatch k c 0x04 fun e => complete k c e 0#10 0#64) s

def execCmdCwait (k c : Nat) (s : State) : Host.Outcome State Fault Refusal :=
  runExec (dispatch k c 0x05 fun e => complete k c e 0#10 0#64) s

/-- CMD_STAMP (R147): SR.DCC at dispatch. -/
def execCmdStamp (k c : Nat) (s : State) : Host.Outcome State Fault Refusal :=
  runExec (dispatch k c 0x0A fun e => complete k c e 0#10 s.dcc) s

/-- CMD_WAIT_CANCEL (R146): the entry's waited counter is poisoned. -/
def waitCancel (k c : Nat) : Exec Unit := do
  let s ← get
  match (s.part k).queue c with
  | [] => halt
  | e :: _ => do
    let e ← hostHead k c (entKind e.bytes)
    match ← entryWait k e with
    | .poisoned f => complete k c e f 0#64
    | _ => halt

def execCmdWaitCancel (k c : Nat) (s : State) : Host.Outcome State Fault Refusal := runExec (waitCancel k c) s

/-- CMD_QBAR (R191): the sweep starts, and the entry keeps the head of its class until it closes (R166). -/
def execCmdQbar (k c : Nat) (s : State) : Host.Outcome State Fault Refusal :=
  runExec (dispatch k c 0x09 fun e => do
    let e := { e with stage := .acting }
    updPart k fun p => p.setHead c e
    startSweep k (.entry e)) s

/-! Completion records (R151, R152). -/

/-- The bytes of record `j`. -/
def cplRecord (j : Nat) (c : Cpl) : List Byte :=
  leBytes 2 (j % 65536) ++ [BitVec.ofNat 8 c.kind, if c.status = 0#10 then 0#8 else 1#8] ++ leBytes 4 c.tag ++
    leBytes 2 c.status.toNat ++ leBytes 2 0 ++ leBytes 4 c.steplo ++ leBytes 8 c.value.toNat ++ leBytes 8 c.cmdidx

/-- The addresses of a front end's ring (R136). -/
def State.cmdAddr (s : State) (f i : Nat) : Nat := s.field (Reg.cmdBase f) 6 46 * 64 + 64 * (i % 2 ^ s.field (Reg.ringCtl f) 16 4)
def State.cplAddr (s : State) (f j : Nat) : Nat := s.field (Reg.cplBase f) 6 46 * 64 + 32 * (j % 2 ^ s.field (Reg.ringCtl f) 20 4)
def State.ptrAddr (s : State) (f : Nat) : Nat := s.field (Reg.ptrBase f) 8 44 * 256

/-- A write by the front-end block itself: published as it is made, and released to the host (R152, R315). -/
def blockStore (pa : Nat) (data : List Byte) : Exec Unit := do
  let _ ← physWrite pa data none
  let s ← get
  let gs := granulesOf ((addressed (s.home pa) data).map (·.1))
  modify fun t => { t with hostKnow := gs.foldl (fun k g => k.add g (t.granVer g)) t.hostKnow }

/-- COMPLETION_POST. -/
def completionPost (f : Nat) : Exec Unit := do
  let s ← get
  match (s.part f).cpl with
  | [] => halt
  | c :: rest => do
    let ctail := (s.word (s.ptrAddr f + 0x80)).toNat
    let chead := (s.word (s.ptrAddr f + 0xC0)).toNat
    require (decide (f < 8) && decide (6 ≤ s.field (Reg.ringCtl f) 20 4) && decide (ctail - chead < 2 ^ s.field (Reg.ringCtl f) 20 4))
    updPart f fun p => { p with cpl := rest }
    blockStore (s.cplAddr f ctail) (cplRecord ctail c)
    blockStore (s.ptrAddr f + 0x80) (leBytes 8 ((ctail + 1) % 2 ^ 64))
    if c.irq && s.flag (Reg.ringCtl f) 2 then
      modify fun t => { t with msix := s.field (Reg.ringCtl f) 8 8 % 64 :: t.msix }

def execCompletionPost (f : Nat) (s : State) : Host.Outcome State Fault Refusal := runExec (completionPost f) s

end Sys2Proof.Machine
end

