-- ==== Sys2Proof/Machine/Sequencer.lean ====
section
/-! DEFINITION. The graph sequencer (R171–R177, R185, R186): captures, node issue, drains, sweeps that close steps, and the end of
tasks. -/
namespace Sys2Proof.Machine

/-! Runs (R172). -/

/-- The run that the sequencer executes ends: its entry completes with the cause. -/
def endRun (k : Nat) (cause : Cause) : Exec Unit := do
  let p ← getPart k
  updPart k fun p => { p with seq := { p.seq with state := .idle, cause := cause, entry := none } }
  match p.seq.entry with
  | none => pure ()
  | some e => do
    updPart k fun p => { p with running := p.running.erase e }
    endEntry k e cause 0#64

/-- The first failure of a run is kept (R174). -/
def noteFailure (k : Nat) (cause : Cause) : Exec Unit :=
  updPart k fun p => if p.seq.cause = 0#10 then { p with seq := { p.seq with cause := cause } } else p

/-- GRAPH_CAPTURE (R170, R171). -/
def graphCapture (k : Nat) : Exec Unit := do
  let s ← get
  let p := s.part k
  require (p.seq.state == .capture)
  let x := p.slot p.seq.slot
  let g := x.graph
  if ! graphOk p.lcores x.imglen g then endRun k 0x301#10
  else if (x.nodes g).any (fun n => ! nodeOk (graphNlcore g) x.imglen n) then endRun k 0x300#10
  else updPart k fun p => { p with seq := { p.seq with state := .issue, node := 0, step := x.step, hdr := g, nodes := x.nodes g } }

def execGraphCapture (k : Nat) (s : State) : Host.Outcome State Fault Refusal := runExec (graphCapture k) s

/-! Node issue (R173, R174, R177). -/

/-- The node at the head of issue, where nodes may issue. -/
def headNode (k : Nat) : Exec (List Byte) := do
  let s ← get
  let p := s.part k
  require (p.seq.state == .issue && ! p.sweepOpen && s.ctxPhase k == 0)
  match p.seq.nodes[p.seq.node]? with
  | none => halt
  | some n => pure n

/-- How a node's wait stands in step `st`: a threshold above 2^64 − 1 cancels it with 0x302. -/
def nodeWait (k st : Nat) (n : List Byte) : Exec WaitState :=
  if ! nodeWen n then pure (.met [])
  else if 2 ^ 64 ≤ nodeThr n st then pure (.poisoned 0x302#10)
  else windowWait k (nodeWidx n) (nodeThr n st)

/-- The node at the head of issue is done with. -/
def advance (k : Nat) : Exec Unit :=
  updPart k fun p =>
    { p with seq := { p.seq with node := p.seq.node + 1, state := if p.seq.node + 1 = p.seq.nodes.length then .drain else .issue } }

/-- A node's signal. -/
def nodeSignal (k : Nat) (n : List Byte) (rels : List Rel) : Exec Unit :=
  if nodeSen n then addWindow k (nodeSidx n) (nodeSinc n) (if nodeRel n then rels else []) else pure ()

/-- A failed or cancelled node (R174). -/
def nodeFail (k : Nat) (n : List Byte) (cause : Cause) : Exec Unit := do
  if nodeSen n then poisonWindow k (nodeSidx n) cause
  noteFailure k cause

/-- A number for a new task of partition `k`: the first free one behind the last given; which one the first task has is open
(log 41). -/
def Part.freeTask (p : Part) (k : Nat) : Nat :=
  let at_ (i : Nat) : Nat := (Config.pick 59 k 0 + p.nextTask + i) % 65536
  match (List.range 1025).find? fun i => ! Map.has p.tasks (at_ i) with
  | some i => at_ i
  | none => at_ 0

/-- Whether a task of `n` jobs may be dispatched now (R185, R199). -/
def State.taskRoom (s : State) (k n : Nat) : Bool := decide ((s.part k).tasks.length < 1024) && decide (n ≤ s.framesFree k)

/-- A live task of a TASK node that has not started. -/
def newTask (k : Nat) (t : Task) : Exec Nat := do
  let p ← getPart k
  let i := p.freeTask k
  updPart k fun p => { p with tasks := Map.insert p.tasks i t, nextTask := (p.nextTask + 1) % 65536 }
  pure i

/-- A child at the head of a class queue, with its class (R165). -/
def Part.childHead (p : Part) (c : Nat) : Option QEntry :=
  match p.queue c with
  | e :: _ => if e.source = 1 ∧ e.stage = .queued then some e else none
  | [] => none

/-- The classes whose head is a child. -/
def State.childClasses (s : State) (k : Nat) : List Nat :=
  if s.mayDispatch k false then (List.range 4).filter fun c => ((s.part k).childHead c).isSome else []

/-- Issuing the TASK node at the head: its task is placed on its group. -/
def issueTaskNode (k : Nat) : Exec Unit := do
  let n ← headNode k
  let s ← get
  let p := s.part k
  require (nodeKind n == 1)
  match ← nodeWait k p.seq.step.toNat n with
  | .met rels =>
    if s.frameCount k < taskNlc n then do
      nodeFail k n 0x345#10
      advance k
    else do
      require (s.taskRoom k (taskNlc n))
      let cls := match p.seq.entry with | some e => entClass e.bytes | none => 0
      let _ ← newTask k { Task.absent with node := n, cls := cls, slot := p.seq.slot, step := p.seq.step,
                                           gained := if nodeAcq n then rels else [] }
      advance k
  | _ => halt

/-- Dispatching the child at the head of class `c`: its task waits at dispatch until it has started (R166). -/
def issueChild (k c : Nat) : Exec Unit := do
  let s ← get
  match (s.part k).childHead c with
  | none => halt
  | some e => do
    match ← nodeWait k e.step.toNat e.bytes with
    | .met rels =>
      if s.frameCount k < taskNlc e.bytes then do
        dequeue k c
        nodeFail k e.bytes 0x345#10
      else do
        require (s.taskRoom k (taskNlc e.bytes))
        let _ ← newTask k { Task.absent with node := e.bytes, cls := c, slot := e.slot, step := e.step, parent := e.parent,
                                             rels := some e.rels,
                                             gained := e.gained ++ (if nodeAcq e.bytes then rels else []) }
        updPart k fun p => p.setHead c { e with stage := .acting }
    | _ => halt

/-- The first of several programs that is not ended early; none of them leaves anything where all are. -/
def firstOf : List (Exec Unit) → Exec Unit
  | [] => halt
  | x :: xs => fun s =>
    match x s with
    | .ok _ t => .ok () t
    | .error _ _ => firstOf xs s

/-- NODE_TASK_ISSUE: the TASK node at the head of issue, or a child at the head of its class queue, is placed. -/
def execNodeTaskIssue (k : Nat) (s : State) : Host.Outcome State Fault Refusal :=
  runExec (firstOf (issueTaskNode k :: (s.childClasses k).map (issueChild k))) s

/-- Coach transfers begin (R186): the record, its number where it comes from an entry (R516). -/
def newTransfer (k : Nat) (t : Transfer) : Exec Nat := do
  let s ← get
  let p := s.part k
  updPart k fun p =>
    { p with transfers := Map.insert p.transfers p.nextTransfer { t with base := s.gseq }, nextTransfer := p.nextTransfer + 1,
             owners := if t.source = 2 then Map.set (fun _ => 0) p.owners (4 * t.num + t.cls) (t.owner + 1) else p.owners }
  pure p.nextTransfer

def Transfer.start (source cls num owner node : Nat) (entry : Option QEntry) (block : List Byte) (gained : List Rel) : Transfer :=
  { source := source, cls := cls, num := num, owner := owner, node := node, entry := entry, block := block, step := 0, issued := [],
    opened := [], outTo := [], outFrom := [], bytesTo := [], bytesFrom := [], wrote := [], toSignal := [], toDrain := [], failed := [],
    cause := 0#10, base := 0, gained := gained }

/-- NODE_COACH_ISSUE: the block is read in full and handed to the Coach unit; a malformed one cancels the node with 0x201. -/
def nodeCoachIssue (k : Nat) : Exec Unit := do
  let n ← headNode k
  let p ← getPart k
  require (nodeKind n == 2)
  match ← nodeWait k p.seq.step.toNat n with
  | .met rels => do
    let block := (p.slot p.seq.slot).bytes (coachPboff n) 64
    if ! blockOk false block then nodeFail k n 0x201#10
    else do
      let _ ← newTransfer k (Transfer.start 1 0 0 0 p.seq.node none block (if nodeAcq n then rels else []))
      pure ()
    advance k
  | _ => halt

def execNodeCoachIssue (k : Nat) (s : State) : Host.Outcome State Fault Refusal := runExec (nodeCoachIssue k) s

/-- NODE_QBAR_ISSUE: a sweep opens; later nodes and the drain wait for it to close. -/
def nodeQbarIssue (k : Nat) : Exec Unit := do
  let n ← headNode k
  let p ← getPart k
  require (nodeKind n == 3)
  match ← nodeWait k p.seq.step.toNat n with
  | .met _ => do
    startSweep k (.node p.seq.node)
    advance k
  | _ => halt

def execNodeQbarIssue (k : Nat) (s : State) : Host.Outcome State Fault Refusal := runExec (nodeQbarIssue k) s

/-- NODE_NOP_ISSUE. -/
def nodeNopIssue (k : Nat) : Exec Unit := do
  let n ← headNode k
  let p ← getPart k
  require (nodeKind n == 0)
  match ← nodeWait k p.seq.step.toNat n with
  | .met rels => do
    let s ← get
    nodeSignal k n (s.frontRel k (if nodeAcq n then rels else []))
    advance k
  | _ => halt

def execNodeNopIssue (k : Nat) (s : State) : Host.Outcome State Fault Refusal := runExec (nodeNopIssue k) s

/-- Cancelling the node at the head whose counter is poisoned. -/
def cancelHead (k : Nat) : Exec Unit := do
  let n ← headNode k
  let p ← getPart k
  match ← nodeWait k p.seq.step.toNat n with
  | .poisoned f => do
    nodeFail k n f
    advance k
  | _ => halt

/-- Cancelling a child at the head of its class. -/
def cancelChild (k c : Nat) : Exec Unit := do
  let p ← getPart k
  match p.childHead c with
  | none => halt
  | some e => do
    match ← nodeWait k e.step.toNat e.bytes with
    | .poisoned f => do
      dequeue k c
      nodeFail k e.bytes f
    | _ => halt

/-- NODE_CANCEL (R174). -/
def execNodeCancel (k : Nat) (s : State) : Host.Outcome State Fault Refusal :=
  runExec (firstOf (cancelHead k :: (s.childClasses k).map (cancelChild k))) s

/-! Drains and sweeps (R172, R188–R191). -/

/-- STEP_DRAINED: no task, child, node transfer or XPOSE transfer of the step is left. -/
def stepDrained (k : Nat) : Exec Unit := do
  let s ← get
  let p := s.part k
  require (p.seq.state == .drain && s.ctxPhase k == 0 && p.tasks.isEmpty && ! p.sweepOpen &&
    (List.range 4).all (fun c => (p.queue c).all (·.source == 0)) && p.transfers.all (·.2.source == 0))
  updPart k fun p => { p with seq := { p.seq with state := .sweep } }
  startSweep k .stepEnd

def execStepDrained (k : Nat) (s : State) : Host.Outcome State Fault Refusal := runExec (stepDrained k) s

/-- SWEEP_CLOSE: the step count advances, and the next step or the end of the run follows. -/
def sweepClose (k : Nat) : Exec Unit := do
  let s ← get
  let p := s.part k
  match p.sweeps.find? fun w => w.by_ == .stepEnd && w.met with
  | none => halt
  | some w => do
    require (p.seq.state == .sweep)
    let x := p.slot p.seq.slot
    let st := x.step + 1#64
    let more := decide (1 < p.seq.stepsLeft) && p.seq.cause == 0#10
    updPart k fun p =>
      { p.setSlot p.seq.slot { x with step := st } with
        lastStep := st, closed := s.gseq, sweeps := p.sweeps.erase w,
        seq := { p.seq with stepsLeft := p.seq.stepsLeft - 1, state := if more then .capture else p.seq.state } }
    if ! more then endRun k p.seq.cause

def execSweepClose (k : Nat) (s : State) : Host.Outcome State Fault Refusal := runExec (sweepClose k) s

/-- The jobs of a task leave QBAR. -/
def qbarLeave (k t : Nat) : Exec Unit := do
  let s ← get
  each (s.taskCores k t) fun c => updJob c fun j => { j with qbar := false }
  modify fun s => { s with frames := s.frames.map fun e =>
    if e.2.job.part = k ∧ e.2.job.task = t then (e.1, { e.2 with job := { e.2.job with qbar := false } }) else e }

/-- A sweep that has met R188: what waits for it goes on; a step end is left to SWEEP_CLOSE and a FREEZE to its entry. -/
def sweepMet (k : Nat) (w : Sweep) : Exec Unit := do
  let s ← get
  let gone : Exec Unit := updPart k fun p => { p with sweeps := p.sweeps.filter (·.num != w.num), closed := s.gseq }
  match w.by_ with
  | .stepEnd => updPart k fun p => { p with sweeps := p.sweeps.map fun x => if x.num = w.num then { x with met := true } else x }
  | .freeze => updPart k fun p => { p with sweeps := p.sweeps.map fun x => if x.num = w.num then { x with met := true } else x }
  | .node i => do
    gone
    let t ← get
    match (s.part k).seq.nodes[i]? with
    | some n => nodeSignal k n (t.frontRel k [])
    | none => pure ()
  | .entry e => do
    gone
    complete k (entClass e.bytes) e 0#10 (BitVec.ofNat 64 w.num)
  | .instr t => do
    gone
    qbarLeave k t

/-- A pair that has not met R188 is followed by a fresh one under the next number (R190). -/
def sweepAgain (k : Nat) (w : Sweep) : Exec Unit := do
  updPart k fun p => { p with sweeps := p.sweeps.filter (·.num != w.num), chims := p.chims.filter (·.num != w.num) }
  startSweep k w.by_

/-- The root's decision on a pair of sweeps: down the tree, and here. -/
def sweepDecide (k : Nat) (w : Sweep) (ok : Bool) : Exec Unit := do
  let s ← get
  if w.by_ != .freeze then eachChild k (chimPayload (s.fpid k) 3 ok.toNat w.num 0 0)
  if ok then do
    sweepMet k w
    updPart k fun p => { p with chims := p.chims.filter (·.num != w.num) }
  else sweepAgain k w

/-- A sweep put behind the others. -/
def sweepLast (k : Nat) (w : Sweep) : Exec Unit :=
  updPart k fun p => { p with sweeps := p.sweeps.filter (·.num != w.num) ++ [w] }

/-- The sums of the sweep under way come back, this package's with its children's. -/
def sweepSums (k : Nat) (w : Sweep) : Exec Unit := do
  let s ← get
  let own := s.localSums k w.by_
  let n := if w.first.isNone then 1 else 2
  let kids := if w.by_ = .freeze then some (0, 0) else s.childSums k w.num n
  match kids with
  | none => sweepLast k w
  | some cs => do
    let total := ((own.1 + cs.1) % 2 ^ 64, (own.2 + cs.2) % 2 ^ 64)
    let parent := if w.by_ = .freeze then none else s.treeParent k
    (match parent with
      | some p => sendCtl k p tyCHIM (chimPayload (s.fpid k) n 0 w.num total.2 total.1)
      | none => pure ())
    match w.first with
    | none => sweepLast k { w with first := some total }
    | some f =>
      if parent.isSome then sweepLast k { w with second := some total }
      else sweepDecide k w (f == total && total.1 == total.2)

/-- SWEEP_RETURN: the open pair whose turn it is. -/
def sweepReturn (k : Nat) : Exec Unit := do
  let p ← getPart k
  match p.sweeps with
  | [] => halt
  | w :: _ => if w.met || w.second.isSome then sweepLast k w else sweepSums k w

def execSweepReturn (k : Nat) (s : State) : Host.Outcome State Fault Refusal := runExec (sweepReturn k) s

/-- A CHIM message for a partition (R100). -/
def chimReceived (k : Nat) (m : Msg) : Exec Unit := do
  let num := msgAt m 8 8
  let p ← getPart k
  if msgAt m 2 1 = 1 ∨ msgAt m 2 1 = 2 then
    updPart k fun p =>
      { p with chims := p.chims.filter (fun x => ! (x.pkg == m.src.toNat && x.num == num && x.sweep == msgAt m 2 1)) ++
          [⟨m.src.toNat, num, msgAt m 2 1, msgAt m 16 8, msgAt m 24 8⟩] }
  else
    match p.sweeps.find? (·.num == num) with
    | none => pure ()
    | some w => if msgAt m 2 1 = 3 then sweepDecide k w (msgAt m 3 1 == 1) else pure ()

/-! The end of tasks (R173, R174, R185). -/

/-- A child whose dispatch has ended leaves its class queue (R166). -/
def endChildDispatch (k : Nat) (t : Task) : Exec Unit := do
  let p ← getPart k
  match (p.queue t.cls) with
  | e :: _ => if t.rels.isSome ∧ e.source = 1 ∧ e.stage = .acting ∧ e.bytes = t.node then dequeue k t.cls else pure ()
  | [] => pure ()

/-- TASK_END: every job has ended. -/
def taskEnd (k t : Nat) : Exec Unit := do
  let p ← getPart k
  match Map.find p.tasks t with
  | none => halt
  | some task => do
    require (task.jobs.isEmpty && (task.started || task.fatal.isSome))
    if ! task.started then endChildDispatch k task
    updPart k fun p => { p with tasks := Map.erase p.tasks t }
    match task.fatal with
    | none => nodeSignal k task.node task.jobRels
    | some f => nodeFail k task.node f

def execTaskEnd (k t : Nat) (s : State) : Host.Outcome State Fault Refusal := runExec (taskEnd k t) s

/-- FATAL_CONTEXT_ERROR (R174): an error in a job of the task ends the task; its first core's queue takes the record. -/
def fatalError (k t : Nat) (cause : Cause) : Exec Unit := do
  let s ← get
  require (Map.has (s.part k).tasks t && (isFatal cause || cause == 0x147#10 || cause == 0x345#10))
  match s.taskCores k t with
  | c :: _ => fatalOn c 7 0 cause .plain
  | [] => do let _ ← fatalTask k t cause

def execFatalContextError (k t : Nat) (cause : Cause) (s : State) : Host.Outcome State Fault Refusal :=
  runExec (fatalError k t cause) s

end Sys2Proof.Machine
end

