-- ==== Sys2Proof/Machine/Slots.lean ====
section
/-! DEFINITION. Hearth slots (R147–R150, R361–R365) and the entries that act on them: launches, runs, loads, evictions, and COACH
and XPOSE entries (R142, R166, R186). -/
namespace Sys2Proof.Machine

/-! The front end's translation (R147, R149). -/

/-- The physical pieces of `n` bytes of a partition's virtual space; cause 0x2C9 where one does not translate. -/
def State.xlatRange (s : State) (k va n : Nat) : Except Cause (List (Nat × Nat)) :=
  (pieces 65536 (n / 65536 + 2) va n).foldr (fun p acc =>
    match acc, s.walk k p.1 with
    | .ok l, .ok (some f) => if f.present then .ok ((f.pa p.1, p.2) :: l) else .error 0x2C9#10
    | .ok _, _ => .error 0x2C9#10
    | .error c, _ => .error c) (.ok [])

/-- Whether every granule of the region table that some bytes lie in satisfies a test. -/
def granulesAll (pa n : Nat) (f : Nat → Bool) : Bool := (pieces 65536 (n / 65536 + 2) pa n).all fun p => f p.1

/-- Reading translated pieces by the front end: the bytes, or a failed check or a refused address. -/
def frontRead (k : Nat) : List (Nat × Nat) → Exec (Except Cause (List Byte))
  | [] => pure (.ok [])
  | (pa, n) :: ps => do
    let s ← get
    match s.placeFault false (s.partWorld k) pa with
    | some f => pure (.error f)
    | none => do
      match ← exitChecks (s.blocksOf pa n) with
      | some f => pure (.error f)
      | none => do
        match ← frontRead k ps with
        | .error f => pure (.error f)
        | .ok bs => pure (.ok (s.bytes pa n ++ bs))

/-- Whether a virtual range is mapped wholly onto HBM (R149). -/
def State.onHbm (s : State) (k : Nat) : Nat → Nat → Nat → Bool
  | 0, _, _ => false
  | fuel + 1, a, hi =>
    match s.walk k a with
    | .ok (some l) =>
      let last := min hi (if l.paged then a / 65536 * 65536 + 65535 else l.limit)
      l.present && decide (l.pa a + (last - a) < 2 ^ 40) && (last == hi || s.onHbm k fuel (last + 1) hi)
    | _ => false

def State.pinResident (s : State) (k : Nat) (p : Pin) : Bool := s.onHbm k ((p.limit - p.base) / 65536 + 2) p.base p.limit

/-- The pinned ranges after a check: a clear flag walks the range again. -/
def State.checkPins (s : State) (k : Nat) (ps : List Pin) : List Pin := ps.map fun p => { p with flag := p.flag || s.pinResident k p }

/-- The residency check (R149): its cause; the pin flags take what its walks found. -/
def residencyCheck (k : Nat) (e : QEntry) : Exec (Option Cause) := do
  let s ← get
  let n := entSlot e.bytes
  let x := (s.part k).slot n
  if x.state ≠ .resident then pure (some 0x2C2#10)
  else if x.gen ≠ entGen e.bytes then pure (some 0x2C3#10)
  else do
    let pins := s.checkPins k x.pins
    updPart k fun p => p.setSlot n { x with pins := pins }
    if ! pins.all (·.flag) then pure (some 0x2C4#10)
    else if x.world ≠ s.partWorld k then pure (some 0x2C5#10)
    else pure none

/-! Runs (R150, R166, R172). -/

/-- The cores of the target core groups of a slot's graph. -/
def State.graphCores (s : State) (k : Nat) (x : Slot) : List Nat :=
  let p := s.part k
  let g := x.graph
  if ! graphOk p.lcores x.imglen g then []
  else
    let groups := (x.nodes g).flatMap fun n => if nodeKind n = 1 ∧ nodeOk (graphNlcore g) x.imglen n then range (taskFirst n) (taskNlc n) else []
    (groups.map p.coreOf).foldl (fun l c => if l.contains c then l else c :: l) []

/-- The sequencer accepts a run. -/
def acceptRun (k c : Nat) (e : QEntry) (steps : Nat) : Exec Unit := do
  dequeue k c
  updPart k fun p =>
    { p with running := p.running ++ [e],
             seq := { Seq.reset with state := .capture, slot := entSlot e.bytes, stepsLeft := steps,
                                     step := (p.slot (entSlot e.bytes)).step, entry := some e } }

/-- A run's entry while the sequencer is idle: the residency check, then what the kind asks for. -/
def startRun (k c : Nat) (e : QEntry) (act : Slot → Exec Unit) : Exec Unit := do
  let p ← getPart k
  require (p.seq.state == .idle)
  match ← residencyCheck k e with
  | some f => complete k c e f 0#64
  | none => do
    let q ← getPart k
    act (q.slot (entSlot e.bytes))

/-- CMD_LAUNCH_SLOT: the REL registers of the graph's cores are written while no job runs there. -/
def launchSlot (k c : Nat) (e : QEntry) : Exec Unit :=
  startRun k c e fun x => do
    let s ← get
    let cs := s.graphCores k x
    require (cs.all fun n => ! (s.job n).live)
    each cs fun n => updCore n fun y => { y with rel := Map.setN (fun _ => 0#64) [] 0 ((List.range 16).map (entRelAddr e.bytes)) }
    updPart k fun p => p.setSlot (entSlot e.bytes) { x with launched := true }
    acceptRun k c e 1

def execCmdLaunchSlot (k c : Nat) (s : State) : Host.Outcome State Fault Refusal := runExec (dispatch k c 0x01 (launchSlot k c)) s

/-- CMD_GRAPH_RUN: a slot that was never launched fails with 0x2C3. -/
def graphRun (k c : Nat) (e : QEntry) : Exec Unit :=
  startRun k c e fun x =>
    if ! x.launched then complete k c e 0x2C3#10 0#64 else acceptRun k c e (entNstep e.bytes)

def execCmdGraphRun (k c : Nat) (s : State) : Host.Outcome State Fault Refusal := runExec (dispatch k c 0x02 (graphRun k c)) s

/-! Loads (R148, R150, R361–R365). -/

/-- CMD_SLOT_LOAD: an EMPTY slot becomes LOADING; the entry keeps the head of its class until the load has finished. -/
def slotLoad (k c : Nat) (e : QEntry) : Exec Unit := do
  let p ← getPart k
  let n := entSlot e.bytes
  let x := p.slot n
  if x.state ≠ .empty then complete k c e 0x2C6#10 0#64
  else
    updPart k fun p => (p.setHead c { e with stage := .acting }).setSlot n { x with state := .loading, gen := entGen e.bytes }

def execCmdSlotLoad (k c : Nat) (s : State) : Host.Outcome State Fault Refusal := runExec (dispatch k c 0x06 (slotLoad k c)) s

/-- A pin list entry (R363). -/
def Slot.pin (x : Slot) (o : Nat) : Pin := ⟨leVal (x.bytes o 8), leVal (x.bytes (o + 8) 8), false⟩
def Pin.ok (p : Pin) : Bool := p.base % 65536 == 0 && p.limit % 65536 == 65535 && decide (p.base ≤ p.limit)

/-- The header and the areas of a slot image (R361–R364). -/
def Slot.imageOk (x : Slot) (len : Nat) : Bool :=
  let f (o n : Nat) := leVal (x.bytes o n)
  let ncode := f 8 4
  let table := 64 * (ncode + 1)
  let ninit := f 28 4
  let initoff := f 24 4
  let tend := if ninit = 0 then len else initoff
  let npin := f 20 2
  let inTable (o n : Nat) : Bool := o % 64 == 0 && decide (table ≤ o) && decide (o + n ≤ tend)
  x.bytes 0 4 == [0x4B#8, 0x51#8, 0x53#8, 0x49#8] && f 4 2 == 1 && f 6 2 == 0 && f 22 2 == 0 && f 40 20 == 0 &&
  f 60 4 == crc32c (x.bytes 0 60) && f 32 8 == len && len % 64 == 0 && decide (len ≤ 2 ^ 27) && decide (1 ≤ ncode) &&
  decide (ncode ≤ 1048575) && decide (table ≤ len) && inTable (f 12 4) 64 && decide (npin ≤ 64) &&
  (if npin = 0 then f 16 4 == 0 else inTable (f 16 4) (16 * npin) && (List.range npin).all fun i => (x.pin (f 16 4 + 16 * i)).ok) &&
  decide (ninit ≤ 65535) &&
  (if ninit = 0 then initoff == 0
    else initoff % 64 == 0 && decide (table ≤ initoff) && decide (initoff + 32 * ninit ≤ len) &&
      (List.range ninit).all fun i =>
        let o := initoff + 32 * i
        decide (f o 1 < 16) && f (o + 1) 7 == 0 && f (o + 16) 8 % 8 == 0 && decide (initoff ≤ f (o + 24) 8) &&
          decide (f (o + 24) 8 + f (o + 16) 8 ≤ len))

/-- Line `n` of a slot image: its CRC and its link word. -/
def Slot.lineOk (x : Slot) (ncode n : Nat) : Bool :=
  let h := leWord (x.bytes (64 * n) 8)
  let ws := (range 1 7).map fun i => leWord (x.bytes (64 * n + 8 * i) 8)
  Word.bits h 32 32 == crc32c (x.bytes (64 * n + 8) 56) && lineForm h ws (fun m => decide (1 ≤ m) && decide (m ≤ ncode)) n

/-- The slot an image makes; none where it is rejected. -/
def Slot.loaded (x : Slot) (img : List Byte) : Option Slot :=
  let y := { x with image := Map.setN (fun _ => 0#8) [] 0 img, imglen := img.length }
  let ncode := leVal (y.bytes 8 4)
  if y.imageOk img.length && (range 1 ncode).all (y.lineOk ncode) then
    some { y with state := .resident, step := 0#64, launched := false,
                  pins := (List.range (leVal (y.bytes 20 2))).map fun i => y.pin (leVal (y.bytes 16 4) + 16 * i) }
  else none

/-- Extending measurement register `n` (R118). -/
def extendMeas (n : Nat) (d : List Byte) : Exec Unit :=
  modify fun s =>
    let old := (List.range 6).flatMap fun w => leBytes 8 (s.reg (Reg.meas n w)).toNat
    let new := sha384 (old ++ d)
    (List.range 6).foldl (fun s w => s.setReg (Reg.meas n w) (leWord ((new.drop (8 * w)).take 8))) s

/-- The class whose head acts on a slot with a kind of entry. -/
def Part.actingOn (p : Part) (kind slot : Nat) : Option (Nat × QEntry) :=
  (List.range 4).findSome? fun c =>
    match p.queue c with
    | e :: _ => if e.source = 0 ∧ e.stage = .acting ∧ entKind e.bytes = kind ∧ entSlot e.bytes = slot then some (c, e) else none
    | [] => none

/-- The copy and the checks of a load: the slot, or the cause that rejects it. -/
def loadImage (k : Nat) (x : Slot) (e : QEntry) : Exec (Except Cause Slot) := do
  let s ← get
  let len := entImglen e.bytes
  match s.xlatRange k (entImgaddr e.bytes) len with
  | .error f => pure (.error f)
  | .ok ps => do
    match ← frontRead k ps with
    | .error _ => pure (.error 0x2C7#10)
    | .ok bs =>
      match x.loaded bs with
      | none => pure (.error 0x2C7#10)
      | some y => do
        if s.partWorld k then extendMeas 4 (sha384 bs)
        pure (.ok { y with world := ps.all (fun p => granulesAll p.1 p.2 s.rgnSecure), pins := s.checkPins k y.pins })

/-- SLOT_LOAD_DONE: RESIDENT, or EMPTY again with the load's cause. -/
def slotLoadDone (k n : Nat) : Exec Unit := do
  let p ← getPart k
  match p.actingOn 0x06 n with
  | none => halt
  | some (c, e) => do
    let x := p.slot n
    require (x.state == .loading)
    match ← loadImage k x e with
    | .error f => do
      updPart k fun p => p.setSlot n { Slot.reset with gen := x.gen }
      complete k c e f 0#64
    | .ok y => do
      updPart k fun p => p.setSlot n y
      complete k c e 0#10 0#64

def execSlotLoadDone (k slot : Nat) (s : State) : Host.Outcome State Fault Refusal := runExec (slotLoadDone k slot) s

/-! Evictions (R148, R150). -/

/-- CMD_SLOT_EVICT. -/
def slotEvict (k c : Nat) (e : QEntry) : Exec Unit := do
  let p ← getPart k
  let n := entSlot e.bytes
  let x := p.slot n
  match x.state with
  | .empty => complete k c e 0#10 0#64
  | .resident =>
    if x.gen ≠ entGen e.bytes then complete k c e 0x2C3#10 0#64
    else updPart k fun p => (p.setHead c { e with stage := .acting }).setSlot n { x with state := .evicting }
  | _ => complete k c e 0x2C6#10 0#64

def execCmdSlotEvict (k c : Nat) (s : State) : Host.Outcome State Fault Refusal := runExec (dispatch k c 0x07 (slotEvict k c)) s

/-- Whether tasks of a slot are left, started or to be started. -/
def Part.slotBusy (p : Part) (n : Nat) : Bool :=
  p.tasks.any (·.2.slot == n) || (p.seq.state != .idle && p.seq.slot == n) ||
    (List.range 4).any fun c => (p.queue c).any fun e => e.source != 0 && e.slot == n

/-- SLOT_EVICT_DONE: the storage and the pin flags are released; GEN stays. -/
def slotEvictDone (k n : Nat) : Exec Unit := do
  let p ← getPart k
  match p.actingOn 0x07 n with
  | none => halt
  | some (c, e) => do
    let x := p.slot n
    require (x.state == .evicting && ! p.slotBusy n)
    updPart k fun p => p.setSlot n { Slot.reset with gen := x.gen, world := x.world }
    complete k c e 0#10 0#64

def execSlotEvictDone (k slot : Nat) (s : State) : Host.Outcome State Fault Refusal := runExec (slotEvictDone k slot) s

/-! COACH and XPOSE entries (R147, R186, R489, R516). -/

/-- The number of the class's next COACH or XPOSE entry, taken. -/
def takeNumber (k c : Nat) : Exec Nat := do
  let p ← getPart k
  let n := Map.get (fun _ => 0) p.coachNum c
  updPart k fun p => { p with coachNum := Map.set (fun _ => 0) p.coachNum c (n + 1) }
  pure n

/-- The transfer of the entry at the head of class `c` begins. -/
def beginTransfer (k c num : Nat) (e : QEntry) (source owner : Nat) (block : List Byte) : Exec Unit := do
  let e := { e with stage := .acting }
  updPart k fun p => p.setHead c e
  let _ ← newTransfer k (Transfer.start source c num owner 0 (some e) block e.gained)
  pure ()

/-- A host COACH entry: its block is read in full at dispatch. -/
def coachEntry (k c : Nat) (e : QEntry) : Exec Unit := do
  let s ← get
  let num ← takeNumber k c
  match s.xlatRange k (entPbaddr e.bytes) 64 with
  | .error f => complete k c e f 0#64
  | .ok ps => do
    match ← frontRead k ps with
    | .error f => complete k c e f 0#64
    | .ok bs => if blockOk false bs then beginTransfer k c num e 0 0 bs else complete k c e 0x201#10 0#64

/-- An XPOSE entry at the head of its class. -/
def xposeEntry (k c : Nat) : Exec Unit := do
  let s ← get
  require (s.mayDispatch k false)
  match (s.part k).queue c with
  | [] => halt
  | e :: _ => do
    require (e.source == 2 && e.stage == .queued)
    let num ← takeNumber k c
    beginTransfer k c num e 2 e.parent e.bytes

/-- CMD_COACH. -/
def execCmdCoach (k c : Nat) (s : State) : Host.Outcome State Fault Refusal :=
  runExec (firstOf [dispatch k c 0x03 (coachEntry k c), xposeEntry k c]) s

end Sys2Proof.Machine
end

