-- ==== Sys2Proof/Machine/FrontEnd.lean ====
section
/-! DEFINITION. The front ends' registers (R132–R140, R153, R512, R513), their watchdogs (R155–R157), and the insertion of entry
groups into class queues. A register's operation serves both its event and a controller's store to it (R511). -/
namespace Sys2Proof.Machine

/-! The ring's state (R137, R139). -/

def State.ringState (s : State) (f : Nat) : Nat := s.field (Reg.ringStat f) 16 2
def setRingState (f n : Nat) : Exec Unit := setField (Reg.ringStat f) 16 2 n
def rejectRing (f : Nat) : Exec Unit := setFlag (Reg.ringStat f) 0 true

/-- A stop: STOPPED with its cause, and the stop record (R139, R151). -/
def stopRing (f : Nat) (cause : Cause) (idx : Nat) : Exec Unit := do
  setRingState f 2
  setField (Reg.ringStat f) 32 10 cause.toNat
  let p ← getPart f
  postCpl f ⟨0, false, 0, cause, p.lastStep.toNat % 2 ^ 32, 0#64, idx⟩

/-- A store of FE_QPUSH that waits parks the front end. -/
def parkStore (f : Nat) (v : Word) : Exec Unit :=
  modify fun s => { s with feWait := Map.insert s.feWait f v, feHold := Map.set (fun _ => false) s.feHold f true }

/-- The waiting store completes or is given up. -/
def unparkStore (f : Nat) : Exec Unit :=
  modify fun s => { s with feWait := Map.erase s.feWait f, feHold := Map.set (fun _ => false) s.feHold f false }

/-- A front-end reset, with what waited in it (R132). -/
def restartFrontEnd (f : Nat) : Exec Unit := do
  unparkStore f
  resetFrontEnd f

/-- A released front end starts; another than front end 0 has the kind 1 section in its code SRAM, which the secure firmware has
put there (log 49). -/
def loadFrontEnd (f : Nat) : Exec Unit := do
  modify fun s => if f = 0 then s else
    { s with feCode := Map.setN (fun _ => 0#8) (Map.clear s.feCode (262144 * f) (262144 * (f + 1))) (262144 * f)
               (Map.getN (fun _ => 0#8) s.feCode 0 (Map.get (fun _ => 0) s.sections 1)) }
  restartFrontEnd f

/-! RING_CTL (R134, R138, R139). -/

/-- Whether the ring's ranges may be used by partition `f` (R134). -/
def State.ringOk (s : State) (f : Nat) (ctl : Word) : Bool :=
  let logn := Word.bits ctl 16 4
  let logm := Word.bits ctl 20 4
  let w := s.partWorld f
  let base (o : Nat) : Nat := (s.reg o).toNat
  let ok (a n : Nat) : Bool := decide (a < 2 ^ 40) && granulesAll a n (s.rgnAllows w)
  decide (6 ≤ logn) && decide (logn ≤ 15) && decide (6 ≤ logm) && decide (logm ≤ 15) && ok (base (Reg.cmdBase f)) (64 * 2 ^ logn) &&
  ok (base (Reg.cplBase f)) (32 * 2 ^ logm) && ok (base (Reg.ptrBase f)) 256 && ok (base (Reg.cwinBase f)) 65536

/-- The ring starts: RING_POS takes HEAD, and a store that waited for it is discarded (R513). -/
def startRing (f : Nat) : Exec Unit := do
  let s ← get
  setReg (Reg.ringPos f) (s.word (s.ptrAddr f + 0x40))
  setRingState f 1
  if Map.has s.feWait f then do
    unparkStore f
    rejectRing f

/-- RESTART from STOPPED (R139). -/
def restartRing (f : Nat) : Exec Unit := do
  let s ← get
  let tail := s.word (s.ptrAddr f)
  setReg (Reg.ringPos f) tail
  blockStore (s.ptrAddr f + 0x40) (leBytes 8 tail.toNat)
  restartFrontEnd f
  setRingState f 1

/-- Whether a group of the ring waits for its class queue. -/
def State.pushWaits (s : State) (f : Nat) : Bool :=
  match Map.find s.feWait f with
  | some v => s.ringState f == 1 && ! Word.bit v 8
  | none => false

/-- A write of RING_CTL. A group under way is inserted before the ring leaves RUN. -/
def ringCtl (f : Nat) (v : Word) : Exec Unit := do
  let s ← get
  let en := Word.bit v 0
  if en && s.ringState f == 0 then
    (if s.ringOk f v then do
      plainWrite (Reg.ringCtl f) v
      startRing f
    else rejectRing f)
  else do
    plainWrite (Reg.ringCtl f) v
    if Word.bit v 1 && s.ringState f == 2 && ! (s.part f).holdWdog then restartRing f
    let t ← get
    if ! en && ! t.pushWaits f then setRingState f 0

def execRingCtlWrite (f : Nat) (w : Writer) (v : Word) (s : State) : Host.Outcome State Fault Refusal :=
  runExec (admitted w (Reg.ringCtl f) v do require (decide (f < 8)); ringCtl f v) s

/-- RING_RESTART: the write of RING_CTL that leaves STOPPED. -/
def execRingRestart (f : Nat) (w : Writer) (v : Word) (s : State) : Host.Outcome State Fault Refusal :=
  runExec (admitted w (Reg.ringCtl f) v do
    let t ← get
    require (decide (f < 8) && Word.bit v 1 && t.ringState f == 2)
    ringCtl f v) s

/-- A write of a base register at offset `off` of the block (R135). -/
def ringBase (f off : Nat) (v : Word) : Exec Unit := do
  let s ← get
  if s.ringState f = 0 then plainWrite (Reg.ringCtl f + off) v else rejectRing f

def execRingBaseWrite (f off : Nat) (w : Writer) (v : Word) (s : State) : Host.Outcome State Fault Refusal :=
  runExec (admitted w (Reg.ringCtl f + off) v do
    require (decide (f < 8) && (off == 0x008 || off == 0x010 || off == 0x018 || off == 0x020))
    ringBase f off v) s

/-- TAIL_WRITE_CHECK (R140). -/
def tailCheck (f : Nat) : Exec Unit := do
  let s ← get
  require (decide (f < 8) && s.ringState f == 1 && (s.word (s.ptrAddr f)).ult (s.reg (Reg.ringPos f)))
  stopRing f 0x2CB#10 (s.reg (Reg.ringPos f)).toNat

def execTailWriteCheck (f : Nat) (s : State) : Host.Outcome State Fault Refusal := runExec (tailCheck f) s

/-! FE_QPUSH (R512, R513). -/

/-- An entry in the front end's view, or the cause of a failed exit check. -/
def viewEntry (f pa : Nat) : Exec (Except Cause (List Byte)) := do
  let s ← get
  let h := s.hart (.frontEnd f)
  let g := s.home pa / 64
  let v := s.seen h g
  match ← verCheck g v with
  | some c => pure (.error c)
  | none => pure (.ok (h.overlay pa ((List.range 64).map fun o => s.verByte g v o)))

/-- Consecutive entries of the ring. -/
def viewEntries (f : Nat) : Nat → Nat → Exec (Except Cause (List (List Byte)))
  | _, 0 => pure (.ok [])
  | i, n + 1 => do
    let s ← get
    match ← viewEntry f (s.cmdAddr f i) with
    | .error c => pure (.error c)
    | .ok e => do
      match ← viewEntries f (i + 1) n with
      | .error c => pure (.error c)
      | .ok es => pure (.ok (e :: es))

/-- Whether a class queue takes a host entry now (R160, R165, R184). -/
def State.queueTakes (s : State) (k c : Nat) : Bool :=
  s.partOn k && ! s.flag (Reg.partCtl k) 1 && decide ((((s.part k).queue c).filter fun e => ! e.reserve).length < 1024)

/-- RING_POS moves past a group; EN cleared meanwhile takes effect. -/
def groupDone (f pos n : Nat) : Exec Unit := do
  setReg (Reg.ringPos f) (BitVec.ofNat 64 (pos + n))
  unparkStore f
  let s ← get
  if ! s.flag (Reg.ringCtl f) 0 then setRingState f 0

/-- A group rejected at ring read (R151). -/
def rejectGroup (f pos n : Nat) (e : List Byte) (cause : Cause) : Exec Unit := do
  let p ← getPart f
  postCpl f ⟨entKind e, entIrq e && entKind e != 0x0F, entTag e, cause, p.lastStep.toNat % 2 ^ 32, 0#64, pos⟩
  groupDone f pos n

/-- The group of `n` entries at RING_POS: checked, and inserted or rejected; a full queue parks the store. -/
def pushGroup (f n : Nat) (v : Word) : Exec Unit := do
  let s ← get
  let pos := (s.reg (Reg.ringPos f)).toNat
  match ← viewEntries f pos n with
  | .error c => rejectGroup f pos n [] c
  | .ok es =>
    match groupFault es with
    | some c => rejectGroup f pos n (es.headD []) c
    | none => do
      let e := es.headD []
      let t ← get
      if t.queueTakes f (entClass e) then do
        let q : QEntry := { source := 0, bytes := es.flatten, rels := [], cmdidx := pos, reserve := false, parent := 0, slot := entSlot e,
                            step := 0#64, stage := .queued, gained := [] }
        updPart f fun p => p.setQueue (entClass e) (p.queue (entClass e) ++ [q])
        groupDone f pos n
      else parkStore f v

/-- A write of FE_QPUSH. -/
def feQpush (f : Nat) (v : Word) : Exec Unit := do
  let s ← get
  let n := Word.bits v 0 6
  if s.ringState f ≠ 1 then parkStore f v
  else if Word.bit v 8 then
    (if n ≤ 2 then do
      stopRing f (BitVec.ofNat 10 (Word.bits v 16 10)) ((s.reg (Reg.ringPos f)).toNat + n)
      parkStore f v
    else rejectRing f)
  else if 1 ≤ n ∧ n ≤ 3 then pushGroup f n v
  else rejectRing f

/-- The events: a write by an agent whose store does not wait behind another. -/
def feQpushBy (f : Nat) (w : Writer) (v : Word) (stop : Bool) : Exec Unit :=
  admitted w (Reg.feQpush f) v do
    let s ← get
    require (decide (f < 8) && Word.bit v 8 == stop && ! Map.has s.feWait f)
    feQpush f v

def execFeQpushPush (f : Nat) (w : Writer) (v : Word) (s : State) : Host.Outcome State Fault Refusal :=
  runExec (feQpushBy f w v false) s

def execFeQpushStop (f : Nat) (w : Writer) (v : Word) (s : State) : Host.Outcome State Fault Refusal :=
  runExec (feQpushBy f w v true) s

/-- QUEUE_SPACE_FREED: the waiting insertion is made if the queue takes it. -/
def queueSpace (f : Nat) : Exec Unit := do
  let s ← get
  require (decide (f < 8) && s.pushWaits f)
  match Map.find s.feWait f with
  | some v => pushGroup f (Word.bits v 0 6) v
  | none => halt

def execQueueSpaceFreed (f : Nat) (s : State) : Host.Outcome State Fault Refusal := runExec (queueSpace f) s

/-! The watchdog (R155–R157). -/

/-- A write of WDOG_CFG. -/
def wdogCfg (f : Nat) (v : Word) : Exec Unit :=
  if Word.bits v 16 16 < 10 then rejectRing f else plainWrite (Reg.wdogCfg f) v

def execWdogCfgWrite (f : Nat) (w : Writer) (v : Word) (s : State) : Host.Outcome State Fault Refusal :=
  runExec (admitted w (Reg.wdogCfg f) v do require (decide (f < 8)); wdogCfg f v) s

/-- A write of WDOG_KICK. -/
def wdogKick (f : Nat) : Exec Unit := modify fun s => { s with wdog := Map.set (fun _ => 0) s.wdog f 0 }

def execWdogKick (f : Nat) (w : Writer) (v : Word) (s : State) : Host.Outcome State Fault Refusal :=
  runExec (admitted w (Reg.wdogKick f) v do require (decide (f < 8)); wdogKick f) s

/-- Whether a front end is in a state in which its watchdog counts (R156). -/
def State.wdogCounts (s : State) (f : Nat) : Bool :=
  let h := s.hart (.frontEnd f)
  s.flag (Reg.wdogCfg f) 0 && ! s.flag Reg.rstCtl (8 + f) && ! Map.get (fun _ => false) s.feHold f &&
  (match h.stat with
    | .running => h.blocked == .none
    | .halted => true
    | .stopped _ _ => true
    | _ => false)

/-- The host COACH entries that a front end drives. -/
def Part.driven (p : Part) : List QEntry :=
  (p.running ++ (List.range 4).filterMap fun c => (p.queue c).head?).filter fun e =>
    e.source == 0 && entKind e.bytes == 3 && e.stage == .acting

/-- An entry whose end has been reported already. -/
def QEntry.reported (e : QEntry) (driven : List QEntry) : QEntry := if driven.contains e then { e with stage := .acted } else e

/-- Marking the driven entries wherever they stand. -/
def Part.reported (p : Part) : Part :=
  let ds := p.driven
  { p with running := p.running.map (·.reported ds),
           queues := p.queues.map (fun e => (e.1, e.2.map (·.reported ds))),
           transfers := p.transfers.map fun e => (e.1, { e.2 with entry := e.2.entry.map (·.reported ds) }) }

/-- A front end held in reset. -/
def holdFrontEnd (f : Nat) : Exec Unit := do
  setFlag Reg.rstCtl (8 + f) true
  unparkStore f
  modify fun s => s.setHart (.frontEnd f) Hart.reset

/-- The third expiry within one second (R157). -/
def wdogHold (f : Nat) : Exec Unit := do
  holdFrontEnd f
  setRingState f 2
  setField (Reg.ringStat f) 32 10 0x2CA
  updPart f fun p => { p with holdWdog := true }

/-- WATCHDOG_EXPIRY (R156): steps 1 to 5. -/
def wdogExpiry (f : Nat) : Exec Unit := do
  let s ← get
  require (decide (f < 8) && s.wdogCounts f &&
    decide (s.field (Reg.wdogCfg f) 16 16 * 15000 ≤ Map.get (fun _ => 0) s.wdog f))
  let ds := (s.part f).driven
  let slot (o n : Nat) := Map.getN (fun _ => 0#8) s.flue (512 * f + o) n
  writeFlue f (1 * 2 ^ 14 + f) 0x2CA#10 1 f (s.reg (Reg.ringPos f))
    (match ds with | e :: _ => BitVec.ofNat 64 e.cmdidx | [] => BitVec.allOnes 64) (s.hart (.frontEnd f)) (leWord (slot 56 8)) (slot 312 64)
  each ds fun e => endEntry f e 0x2CA#10 0#64
  updPart f fun p => p.reported
  wdogKick f
  let now := s.dcc.toNat
  let times := now :: (s.part f).expiries.filter fun t => decide (now < t + 1500000000)
  updPart f fun p => { p with expiries := times }
  if 3 ≤ times.length then wdogHold f else restartFrontEnd f

def execWatchdogExpiry (f : Nat) (s : State) : Host.Outcome State Fault Refusal := runExec (wdogExpiry f) s

/-! The second tier (R153). -/

/-- The number of 1 bits among the low `n`. -/
def popcount (v : Nat) : Nat → Nat
  | 0 => 0
  | n + 1 => v / 2 ^ n % 2 + popcount v n

/-- A write of T2_CFG. -/
def t2Cfg (v : Word) : Exec Unit := do
  let iw := Word.bits v 8 2
  let ig := Word.bits v 11 5
  let size := Word.bits v 16 16
  if Word.bit v 0 && (popcount (Word.bits v 32 8) 8 != 2 ^ iw || size * 2 ^ 30 % (2 ^ iw * 2 ^ ig) != 0 || decide (ig < 8) ||
      decide (16 < ig) || size == 0 || decide (16384 < size)) then setFlag Reg.t2Cfg 0 false
  else plainWrite Reg.t2Cfg v

def execT2CfgWrite (w : Writer) (v : Word) (s : State) : Host.Outcome State Fault Refusal :=
  runExec (admitted w Reg.t2Cfg v (t2Cfg v)) s

end Sys2Proof.Machine
end

