-- ==== Sys2Proof/Machine/Special.lean ====
section
/-! DEFINITION. Constants and functions of real numbers: correctly rounded cosines, sines and square roots for transforms
(R339, R340, R469), and the special functions of the tile engine within the bounds of R330. Fixed-point numbers have 320
fraction bits. -/
namespace Sys2Proof.Machine

def fixP : Nat := 320
def fixOne : Nat := 2 ^ 320

/-- π and ln 2, cut to 320 fraction bits. -/
def piFix : Nat := 0x3243f6a8885a308d313198a2e03707344a4093822299f31d0082efa98ec4e6c89452821e638d01377
def ln2Fix : Nat := 0xb17217f7d1cf79abc9e3b39803f2f6af40f343267298b62d8a0d175b8baafa2be7b876206debac98

def fixMul (a b : Nat) : Nat := (a * b) >>> fixP

/-- Terms of Σ xⁿ/n! from term `k` on, `t` being the term before it. -/
def expTerms (x : Nat) : Nat → Nat → Nat → Nat
  | 0, _, _ => 0
  | n + 1, k, t => let t' := fixMul t x / k; t' + expTerms x n (k + 1) t'

/-- e^`r` for a fixed-point `r` below 1. -/
def expSmall (r : Nat) : Nat := fixOne + expTerms r 90 1 fixOne

/-- Terms of the alternating series of sine and cosine. -/
def trigTerms (x2 : Nat) : Nat → Nat → Nat → Int
  | 0, _, _ => 0
  | n + 1, k, t => let t' := fixMul t x2 / ((k + 1) * (k + 2)); -(t' : Int) - trigTerms x2 n (k + 2) t'

/-- The sine and the cosine of a fixed-point angle of at most π/2. -/
def sinSmall (x : Nat) : Int := (x : Int) + trigTerms (fixMul x x) 48 1 x
def cosSmall (x : Nat) : Int := (fixOne : Int) + trigTerms (fixMul x x) 48 0 fixOne

/-- The sine (`co` false) or cosine of a non-negative fixed-point angle. -/
def trigFix (co : Bool) (x : Nat) : Int :=
  let half := piFix / 2
  let q := (2 * x) / piFix
  let r := x - (q * piFix) / 2
  let r := if half < r then half else r
  match (q + (if co then 1 else 0)) % 4 with
  | 0 => sinSmall r
  | 1 => cosSmall r
  | 2 => -sinSmall r
  | _ => -cosSmall r

/-- A fixed-point integer as a value. -/
def FV.ofFix (v : Int) : FV := .fin (decide (v < 0)) v.natAbs (-320)

/-- The magnitude `m` × 2^`e` in fixed point. -/
def toFix (m : Nat) (e : Int) : Nat :=
  if -320 ≤ e then m <<< (e + 320).toNat else m >>> (-320 - e).toNat

/-- cos(2π`j`/`n`) or sin(2π`j`/`n`), exact where it is 0, ±1/2 or ±1. -/
def turn (co : Bool) (j n : Nat) : FV :=
  let j := j % n
  let j4 := if co then (4 * j + n) % (4 * n) else (4 * j) % (4 * n)   -- the sine of (j4/4n) turns
  if j4 = 0 ∨ j4 = 2 * n then .fin false 0 0
  else if j4 = n then .fin false 1 0
  else if j4 = 3 * n then .fin true 1 0
  else if 3 * j4 = n ∨ 3 * j4 = 5 * n then .fin false 1 (-1)
  else if 3 * j4 = 7 * n ∨ 3 * j4 = 11 * n then .fin true 1 (-1)
  else FV.ofFix (trigFix false ((piFix * j4) / (2 * n)))

/-- √(`a`/`b`) as a value for rounding. -/
def sqrtQuot (a b : Nat) : FV := FV.sqrt (FV.div (.fin false a 0) (.fin false b 0))

/-- 1/√(4π) (R469). -/
def k0Value : FV := FV.sqrt (FV.div (.fin false 1 0) (.fin false piFix (2 - 320)))

/-! Special functions (R330, R430): the exact value to far more than the format's precision. -/

/-- e^`x` for a signed fixed-point `x`. -/
def expValue (neg : Bool) (x : Nat) : FV :=
  if neg then
    let k := x / ln2Fix + 1
    .fin false (expSmall (k * ln2Fix - x)) (-(k : Int) - 320)
  else .fin false (expSmall (x % ln2Fix)) ((x / ln2Fix : Nat) - 320)

/-- Terms of Σ z^(2i+1)/(2i+1). -/
def atanhTerms (z2 : Nat) : Nat → Nat → Nat → Nat
  | 0, _, _ => 0
  | n + 1, k, t => t / k + atanhTerms z2 n (k + 2) (fixMul t z2)

/-- ln(`m` × 2^`e`) in fixed point. -/
def lnFix (m : Nat) (e : Int) : Int :=
  let l := Nat.log2 m
  let mant := if l ≤ 320 then m <<< (320 - l) else m >>> (l - 320)
  let z := ((mant - fixOne) <<< fixP) / (mant + fixOne)
  (2 * atanhTerms (fixMul z z) 110 1 z : Nat) + ((l : Int) + e) * (ln2Fix : Int)

/-- A value beyond every format, with the exponent of an overflow or an underflow. -/
def hugeOrTiny (tiny : Bool) : FV := .fin false 1 (if tiny then -5000 else 5000)

/-- The functions TRSQ to TSIGM (FN 4–12) on a value: the exact value, as far as one rounding and its neighbours need it. -/
def specialValue (fn : Nat) (v : FV) : FV :=
  match fn, v with
  | _, .nan => .nan
  | 4, .inf neg => if neg then .nan else .fin false 0 0
  | 4, .fin neg m e => if m = 0 then .inf neg else if neg then .nan else FV.sqrt (FV.div (.fin false 1 0) (.fin false m e))
  | 5, .inf neg => if neg then .fin false 0 0 else .inf false
  | 5, .fin neg m e =>
    if 4096 * fixOne ≤ toFix m e then hugeOrTiny neg
    else
      let x := toFix m e
      let fr := x % fixOne
      if fr = 0 then .fin false 1 (if neg then -((x / fixOne : Nat) : Int) else ((x / fixOne : Nat) : Int))
      else if neg then .fin false (expSmall (fixMul (fixOne - fr) ln2Fix)) (-((x / fixOne + 1 : Nat) : Int) - 320)
      else .fin false (expSmall (fixMul fr ln2Fix)) (((x / fixOne : Nat) : Int) - 320)
  | 6, .inf neg => if neg then .fin false 0 0 else .inf false
  | 6, .fin neg m e =>
    if m = 0 then .fin false 1 0 else if 4096 * fixOne ≤ toFix m e then hugeOrTiny neg else expValue neg (toFix m e)
  | 7, .inf neg => if neg then .nan else .inf false
  | 7, .fin neg m e =>
    if m = 0 then .inf true
    else if neg then .nan
    else if m = 2 ^ Nat.log2 m then FV.ofInt ((Nat.log2 m : Int) + e)
    else FV.ofFix ((lnFix m e * (fixOne : Int)) / (ln2Fix : Int))
  | 8, .inf neg => if neg then .nan else .inf false
  | 8, .fin neg m e =>
    if m = 0 then .inf true else if neg then .nan
    else if m = 2 ^ Nat.log2 m ∧ (Nat.log2 m : Int) + e = 0 then .fin false 0 0 else FV.ofFix (lnFix m e)
  | 9, .inf _ => .nan
  | 9, .fin neg m e =>
    if m = 0 then .fin neg 0 0 else let r := FV.ofFix (trigFix false (toFix m e)); if neg then r.negate else r
  | 10, .inf _ => .nan
  | 10, .fin _ m e => if m = 0 then .fin false 1 0 else FV.ofFix (trigFix true (toFix m e))
  | 11, .inf neg => .fin neg 1 0
  | 11, .fin neg m e =>
    if m = 0 then .fin neg 0 0
    else if 128 * fixOne ≤ toFix m e then .fin neg (fixOne - 1) (-320)
    else
      let r := FV.div (FV.add 0 (expValue false (2 * toFix m e)) (.fin true 1 0))
        (FV.add 0 (expValue false (2 * toFix m e)) (.fin false 1 0))
      if neg then r.negate else r
  | 12, .inf neg => if neg then .fin false 0 0 else .fin false 1 0
  | 12, .fin neg m e =>
    if m = 0 then .fin false 1 (-1)
    else
      let x := if 4096 * fixOne ≤ toFix m e then hugeOrTiny false else expValue false (toFix m e)
      let d := FV.add 0 x (.fin false 1 0)
      if neg then FV.div (.fin false 1 0) d else FV.div x d
  | _, v => v

/-- The place of an encoding in the order of its format's values. -/
def Fmt.ord (f : Fmt) (b : Nat) : Int := if f.signBit ≤ b then -((b - f.signBit : Nat) : Int) else (b : Int)

/-- The encoding at a place of that order; place 0 is −0 where `neg`. -/
def Fmt.ofOrd (f : Fmt) (neg : Bool) (o : Int) : Nat :=
  if o < 0 ∨ (o = 0 ∧ neg) then f.signBit + o.natAbs else o.natAbs

/-- The error bound of a special function in ulp; none where an absolute bound holds (R330). FP32 has code 1. -/
def ulpBound (fn t : Nat) : Nat :=
  if fn = 4 then (if t = 1 then 1 else 0)
  else if fn = 11 ∨ fn = 12 then (if t = 1 then 3 else 1)
  else if t = 1 then 2 else 1

/-- Whether a sine or cosine argument lies beyond 2^16 π (R330). -/
def beyondTrig (m : Nat) (e : Int) : Bool := decide ((piFix : Nat) <<< 16 < toFix m e)

/-- The results the architecture allows: the first and the last, in the order of the format's values (R330). -/
def specialWindow (fn t : Nat) (f : Fmt) (src v : FV) : Int × Int :=
  let dn := f.ord (f.round 2 false v).1
  let up := f.ord (f.round 3 false v).1
  let far := match src with
    | .fin _ m e => (fn == 9 || fn == 10) && beyondTrig m e
    | _ => false
  if far then
    let eps : FV := .fin false 1 (if t = 1 then -20 else -8)
    (f.ord (f.round 3 false (FV.add 0 v eps.negate)).1, f.ord (f.round 2 false (FV.add 0 v eps)).1)
  else
    let b := ulpBound fn t
    if dn = up then (dn - b, up + b) else (dn - (b - 1 : Nat), up + (b - 1 : Nat))

/-- A special function's result: one fixed function of the source bits among those allowed (R330). -/
def specialResult (fn t : Nat) (sat : Bool) (b : Nat) : Nat :=
  match Fmt.ofCode t with
  | none => 0
  | some f =>
    let src := f.val b
    let v := specialValue fn src
    match v with
    | .nan => f.nanBits
    | .inf _ => (f.round 0 false v).1
    | .fin neg m e =>
      let exact := m == 0 || (match src with | .inf _ => true | .fin _ 0 _ => true | _ => false)
      if exact || ulpBound fn t == 0 then (f.round 0 sat (.fin neg m e)).1
      else
        let (lo, hi) := specialWindow fn t f src v
        let k : Int := ((Config.special fn t b % ((hi - lo).toNat + 1) : Nat) : Int)
        let o := max (-(f.infBits : Int)) (min (f.infBits : Int) (lo + k))
        if sat && o.natAbs == f.infBits then f.sign (decide (o < 0)) + f.encUnits f.maxUnits else f.ofOrd neg o

end Sys2Proof.Machine
end

