-- ==== Sys2Proof/Machine/Integer.lean ====
section
/-! DEFINITION. The integer instructions: ALU, ALUI, MULDIV, CMP, CMPI, MOVI, MOVHI, BITS, ADDR, GUARD and MOV (R374–R381). -/
namespace Sys2Proof.Machine

/-! Results. -/

def shamt (b : Word) : Nat := (b.extractLsb' 0 6).toNat
def mulHigh (a b : Word) : Word := BitVec.ofInt 64 (a.toInt * b.toInt / 2 ^ 64)
def mulHighU (a b : Word) : Word := BitVec.ofNat 64 (a.toNat * b.toNat / 2 ^ 64)

/-- The results of ALU and ALUI by FN (R374). -/
def aluResult (fn : Nat) (a b : Word) : Word :=
  match fn with
  | 0 => a + b
  | 1 => a - b
  | 2 => a &&& b
  | 3 => a ||| b
  | 4 => a ^^^ b
  | 5 => a &&& ~~~b
  | 6 => a <<< shamt b
  | 7 => a >>> shamt b
  | 8 => a.sshiftRight (shamt b)
  | 9 => a.rotateLeft (shamt b)
  | 10 => if a.slt b then a else b
  | 11 => if a.slt b then b else a
  | 12 => if a.ult b then a else b
  | 13 => if a.ult b then b else a
  | 14 => a * b
  | _ => mulHigh a b

/-- The results of MULDIV by FN, with the edge cases of R375. -/
def muldivResult (fn : Nat) (a b : Word) : Word :=
  match fn with
  | 0 => mulHighU a b
  | 1 => if b = 0#64 then BitVec.allOnes 64 else a.sdiv b
  | 2 => if b = 0#64 then BitVec.allOnes 64 else a / b
  | 3 => if b = 0#64 then a else a.srem b
  | _ => if b = 0#64 then a else a % b

/-- Counting leading zeros of the low `n` bits. -/
def clzFrom (w : Word) : Nat → Nat
  | 0 => 0
  | n + 1 => if w.getLsbD n then 0 else 1 + clzFrom w n

/-- Counting trailing zeros from bit `k` on, over `n` bits. -/
def ctzFrom (w : Word) : Nat → Nat → Nat
  | _, 0 => 0
  | k, n + 1 => if w.getLsbD k then 0 else 1 + ctzFrom w (k + 1) n

def popc (w : Word) : Nat := ((List.range 64).filter fun i => w.getLsbD i).length

/-- The results of BITS by FN (R378). -/
def bitsResult (fn : Nat) (a : Word) : Word :=
  match fn with
  | 0 => BitVec.ofNat 64 (clzFrom a 64)
  | 1 => BitVec.ofNat 64 (ctzFrom a 0 64)
  | 2 => BitVec.ofNat 64 (popc a)
  | 3 => a.reverse
  | 4 => BitVec.ofNat 64 (leVal (leBytes 8 a.toNat).reverse)
  | 5 => (a.extractLsb' 0 8).signExtend 64
  | 6 => (a.extractLsb' 0 16).signExtend 64
  | 7 => (a.extractLsb' 0 32).signExtend 64
  | 8 => (a.extractLsb' 0 8).setWidth 64
  | 9 => (a.extractLsb' 0 16).setWidth 64
  | _ => (a.extractLsb' 0 32).setWidth 64

/-- The bits `2k + o` of a key for `k` below `n` (R381). -/
def mortonPick (w o : Nat) : Nat → Nat
  | 0 => 0
  | n + 1 => mortonPick w o n + (if w.testBit (2 * n + o) then 2 ^ n else 0)

/-- Bit `k` of `x` at bit `2k + o`, for `k` below `n`. -/
def mortonSpread (x o : Nat) : Nat → Nat
  | 0 => 0
  | n + 1 => mortonSpread x o n + (if x.testBit n then 2 ^ (2 * n + o) else 0)

/-- The Morton key of a column and a row (R243, R381). -/
def mortonKey (x y : Nat) : Nat := mortonSpread x 0 32 + mortonSpread y 1 32

/-- 2^k − 1 for k = B[5:0]. -/
def alignMask (b : Word) : Word := BitVec.ofNat 64 (2 ^ shamt b - 1)

/-- The results of ADDR by FN; SHADD has its shift apart (R381). -/
def addrResult (fn : Nat) (a b : Word) : Word :=
  let x := mortonPick a.toNat 0 32
  let y := mortonPick a.toNat 1 32
  let lo := b.toNat % 2 ^ 32
  match fn with
  | 1 => (a + alignMask b) &&& ~~~(alignMask b)
  | 2 => a &&& ~~~(alignMask b)
  | 3 => BitVec.ofNat 64 (mortonKey (a.toNat % 2 ^ 32) lo)
  | 4 => BitVec.ofNat 64 x
  | 5 => BitVec.ofNat 64 y
  | 6 => BitVec.ofNat 64 (mortonKey ((x + lo) % 2 ^ 32) y)
  | _ => BitVec.ofNat 64 (mortonKey x ((y + lo) % 2 ^ 32))

/-! Shapes of effect. -/

/-- D := f(A, B). -/
def binary (x : Args) (f : Word → Word → Word) : Exec Unit := do
  let a ← readSrc 1 x.a
  let b ← readSrc 2 x.b
  finish x.d (f a b)

/-- D := f(A, imm). -/
def immediate (x : Args) (f : Word → Word → Word) : Exec Unit := do
  let a ← readSrc 1 x.a
  finish x.d (f a (simmOf x))

/-- D := f(A). -/
def unary (x : Args) (f : Word → Word) : Exec Unit := do
  let a ← readSrc 1 x.a
  finish x.d (f a)

/-- The guard D := f(A, B), A and B guards (R380). -/
def guards (x : Args) (f : Bool → Bool → Bool) : Exec Unit := do
  let a ← readGuard x.a
  let b ← readGuard x.b
  finish x.d (boolWord (f a b))

/-- MOVHI reads D before it writes it (R377). -/
def moveHigh (x : LArgs) : Exec Unit := do
  let d ← readSrc 0 x.d
  finish x.d (x.imm ++ d.extractLsb' 0 32)

/-- SEL evaluates both operands (R379). -/
def select (x : Args) : Exec Unit := do
  let a ← readSrc 1 x.a
  let b ← readSrc 2 x.b
  let g ← readGuard x.c
  finish x.d (if g then a else b)

/-! The instructions. -/

def execNop (x : Args) (s : State) : Host.Outcome State Fault Refusal :=
  run (.one 0x01#8 0#4 x) .nop (retire 1) s

def execAdd (x : Args) (s : State) : Host.Outcome State Fault Refusal :=
  run (.one 0x02#8 0#4 x) .alu (binary x (aluResult 0)) s

def execSub (x : Args) (s : State) : Host.Outcome State Fault Refusal :=
  run (.one 0x02#8 1#4 x) .alu (binary x (aluResult 1)) s

def execAnd (x : Args) (s : State) : Host.Outcome State Fault Refusal :=
  run (.one 0x02#8 2#4 x) .alu (binary x (aluResult 2)) s

def execOr (x : Args) (s : State) : Host.Outcome State Fault Refusal :=
  run (.one 0x02#8 3#4 x) .alu (binary x (aluResult 3)) s

def execXor (x : Args) (s : State) : Host.Outcome State Fault Refusal :=
  run (.one 0x02#8 4#4 x) .alu (binary x (aluResult 4)) s

def execAndn (x : Args) (s : State) : Host.Outcome State Fault Refusal :=
  run (.one 0x02#8 5#4 x) .alu (binary x (aluResult 5)) s

def execShl (x : Args) (s : State) : Host.Outcome State Fault Refusal :=
  run (.one 0x02#8 6#4 x) .alu (binary x (aluResult 6)) s

def execShr (x : Args) (s : State) : Host.Outcome State Fault Refusal :=
  run (.one 0x02#8 7#4 x) .alu (binary x (aluResult 7)) s

def execSar (x : Args) (s : State) : Host.Outcome State Fault Refusal :=
  run (.one 0x02#8 8#4 x) .alu (binary x (aluResult 8)) s

def execRol (x : Args) (s : State) : Host.Outcome State Fault Refusal :=
  run (.one 0x02#8 9#4 x) .alu (binary x (aluResult 9)) s

def execMin (x : Args) (s : State) : Host.Outcome State Fault Refusal :=
  run (.one 0x02#8 10#4 x) .alu (binary x (aluResult 10)) s

def execMax (x : Args) (s : State) : Host.Outcome State Fault Refusal :=
  run (.one 0x02#8 11#4 x) .alu (binary x (aluResult 11)) s

def execMinu (x : Args) (s : State) : Host.Outcome State Fault Refusal :=
  run (.one 0x02#8 12#4 x) .alu (binary x (aluResult 12)) s

def execMaxu (x : Args) (s : State) : Host.Outcome State Fault Refusal :=
  run (.one 0x02#8 13#4 x) .alu (binary x (aluResult 13)) s

def execMul (x : Args) (s : State) : Host.Outcome State Fault Refusal :=
  run (.one 0x02#8 14#4 x) .alu (binary x (aluResult 14)) s

def execMulh (x : Args) (s : State) : Host.Outcome State Fault Refusal :=
  run (.one 0x02#8 15#4 x) .alu (binary x (aluResult 15)) s

def execAddi (x : Args) (s : State) : Host.Outcome State Fault Refusal :=
  run (.one 0x03#8 0#4 x) .alui (immediate x (aluResult 0)) s

def execSubi (x : Args) (s : State) : Host.Outcome State Fault Refusal :=
  run (.one 0x03#8 1#4 x) .alui (immediate x (aluResult 1)) s

def execAndi (x : Args) (s : State) : Host.Outcome State Fault Refusal :=
  run (.one 0x03#8 2#4 x) .alui (immediate x (aluResult 2)) s

def execOri (x : Args) (s : State) : Host.Outcome State Fault Refusal :=
  run (.one 0x03#8 3#4 x) .alui (immediate x (aluResult 3)) s

def execXori (x : Args) (s : State) : Host.Outcome State Fault Refusal :=
  run (.one 0x03#8 4#4 x) .alui (immediate x (aluResult 4)) s

def execAndni (x : Args) (s : State) : Host.Outcome State Fault Refusal :=
  run (.one 0x03#8 5#4 x) .alui (immediate x (aluResult 5)) s

def execShli (x : Args) (s : State) : Host.Outcome State Fault Refusal :=
  run (.one 0x03#8 6#4 x) .alui (immediate x (aluResult 6)) s

def execShri (x : Args) (s : State) : Host.Outcome State Fault Refusal :=
  run (.one 0x03#8 7#4 x) .alui (immediate x (aluResult 7)) s

def execSari (x : Args) (s : State) : Host.Outcome State Fault Refusal :=
  run (.one 0x03#8 8#4 x) .alui (immediate x (aluResult 8)) s

def execRoli (x : Args) (s : State) : Host.Outcome State Fault Refusal :=
  run (.one 0x03#8 9#4 x) .alui (immediate x (aluResult 9)) s

def execMini (x : Args) (s : State) : Host.Outcome State Fault Refusal :=
  run (.one 0x03#8 10#4 x) .alui (immediate x (aluResult 10)) s

def execMaxi (x : Args) (s : State) : Host.Outcome State Fault Refusal :=
  run (.one 0x03#8 11#4 x) .alui (immediate x (aluResult 11)) s

def execMinui (x : Args) (s : State) : Host.Outcome State Fault Refusal :=
  run (.one 0x03#8 12#4 x) .alui (immediate x (aluResult 12)) s

def execMaxui (x : Args) (s : State) : Host.Outcome State Fault Refusal :=
  run (.one 0x03#8 13#4 x) .alui (immediate x (aluResult 13)) s

def execMuli (x : Args) (s : State) : Host.Outcome State Fault Refusal :=
  run (.one 0x03#8 14#4 x) .alui (immediate x (aluResult 14)) s

def execMulhi (x : Args) (s : State) : Host.Outcome State Fault Refusal :=
  run (.one 0x03#8 15#4 x) .alui (immediate x (aluResult 15)) s

def execMulhu (x : Args) (s : State) : Host.Outcome State Fault Refusal :=
  run (.one 0x04#8 0#4 x) .alu (binary x (muldivResult 0)) s

def execDiv (x : Args) (s : State) : Host.Outcome State Fault Refusal :=
  run (.one 0x04#8 1#4 x) .alu (binary x (muldivResult 1)) s

def execDivu (x : Args) (s : State) : Host.Outcome State Fault Refusal :=
  run (.one 0x04#8 2#4 x) .alu (binary x (muldivResult 2)) s

def execRem (x : Args) (s : State) : Host.Outcome State Fault Refusal :=
  run (.one 0x04#8 3#4 x) .alu (binary x (muldivResult 3)) s

def execRemu (x : Args) (s : State) : Host.Outcome State Fault Refusal :=
  run (.one 0x04#8 4#4 x) .alu (binary x (muldivResult 4)) s

def execCmpEq (x : Args) (s : State) : Host.Outcome State Fault Refusal :=
  run (.one 0x05#8 0#4 x) .cmp (binary x fun a b => boolWord (cmpRel 0 a b)) s

def execCmpNe (x : Args) (s : State) : Host.Outcome State Fault Refusal :=
  run (.one 0x05#8 1#4 x) .cmp (binary x fun a b => boolWord (cmpRel 1 a b)) s

def execCmpLt (x : Args) (s : State) : Host.Outcome State Fault Refusal :=
  run (.one 0x05#8 2#4 x) .cmp (binary x fun a b => boolWord (cmpRel 2 a b)) s

def execCmpLe (x : Args) (s : State) : Host.Outcome State Fault Refusal :=
  run (.one 0x05#8 3#4 x) .cmp (binary x fun a b => boolWord (cmpRel 3 a b)) s

def execCmpLtu (x : Args) (s : State) : Host.Outcome State Fault Refusal :=
  run (.one 0x05#8 4#4 x) .cmp (binary x fun a b => boolWord (cmpRel 4 a b)) s

def execCmpLeu (x : Args) (s : State) : Host.Outcome State Fault Refusal :=
  run (.one 0x05#8 5#4 x) .cmp (binary x fun a b => boolWord (cmpRel 5 a b)) s

def execCmpGt (x : Args) (s : State) : Host.Outcome State Fault Refusal :=
  run (.one 0x05#8 6#4 x) .cmp (binary x fun a b => boolWord (cmpRel 6 a b)) s

def execCmpGe (x : Args) (s : State) : Host.Outcome State Fault Refusal :=
  run (.one 0x05#8 7#4 x) .cmp (binary x fun a b => boolWord (cmpRel 7 a b)) s

def execCmpGtu (x : Args) (s : State) : Host.Outcome State Fault Refusal :=
  run (.one 0x05#8 8#4 x) .cmp (binary x fun a b => boolWord (cmpRel 8 a b)) s

def execCmpGeu (x : Args) (s : State) : Host.Outcome State Fault Refusal :=
  run (.one 0x05#8 9#4 x) .cmp (binary x fun a b => boolWord (cmpRel 9 a b)) s

def execCmpiEq (x : Args) (s : State) : Host.Outcome State Fault Refusal :=
  run (.one 0x06#8 0#4 x) .cmpi (immediate x fun a b => boolWord (cmpRel 0 a b)) s

def execCmpiNe (x : Args) (s : State) : Host.Outcome State Fault Refusal :=
  run (.one 0x06#8 1#4 x) .cmpi (immediate x fun a b => boolWord (cmpRel 1 a b)) s

def execCmpiLt (x : Args) (s : State) : Host.Outcome State Fault Refusal :=
  run (.one 0x06#8 2#4 x) .cmpi (immediate x fun a b => boolWord (cmpRel 2 a b)) s

def execCmpiLe (x : Args) (s : State) : Host.Outcome State Fault Refusal :=
  run (.one 0x06#8 3#4 x) .cmpi (immediate x fun a b => boolWord (cmpRel 3 a b)) s

def execCmpiLtu (x : Args) (s : State) : Host.Outcome State Fault Refusal :=
  run (.one 0x06#8 4#4 x) .cmpi (immediate x fun a b => boolWord (cmpRel 4 a b)) s

def execCmpiLeu (x : Args) (s : State) : Host.Outcome State Fault Refusal :=
  run (.one 0x06#8 5#4 x) .cmpi (immediate x fun a b => boolWord (cmpRel 5 a b)) s

def execCmpiGt (x : Args) (s : State) : Host.Outcome State Fault Refusal :=
  run (.one 0x06#8 6#4 x) .cmpi (immediate x fun a b => boolWord (cmpRel 6 a b)) s

def execCmpiGe (x : Args) (s : State) : Host.Outcome State Fault Refusal :=
  run (.one 0x06#8 7#4 x) .cmpi (immediate x fun a b => boolWord (cmpRel 7 a b)) s

def execCmpiGtu (x : Args) (s : State) : Host.Outcome State Fault Refusal :=
  run (.one 0x06#8 8#4 x) .cmpi (immediate x fun a b => boolWord (cmpRel 8 a b)) s

def execCmpiGeu (x : Args) (s : State) : Host.Outcome State Fault Refusal :=
  run (.one 0x06#8 9#4 x) .cmpi (immediate x fun a b => boolWord (cmpRel 9 a b)) s

def execClz (x : Args) (s : State) : Host.Outcome State Fault Refusal :=
  run (.one 0x09#8 0#4 x) .unary (unary x (bitsResult 0)) s

def execCtz (x : Args) (s : State) : Host.Outcome State Fault Refusal :=
  run (.one 0x09#8 1#4 x) .unary (unary x (bitsResult 1)) s

def execPopc (x : Args) (s : State) : Host.Outcome State Fault Refusal :=
  run (.one 0x09#8 2#4 x) .unary (unary x (bitsResult 2)) s

def execBrev (x : Args) (s : State) : Host.Outcome State Fault Refusal :=
  run (.one 0x09#8 3#4 x) .unary (unary x (bitsResult 3)) s

def execBswap (x : Args) (s : State) : Host.Outcome State Fault Refusal :=
  run (.one 0x09#8 4#4 x) .unary (unary x (bitsResult 4)) s

def execSext8 (x : Args) (s : State) : Host.Outcome State Fault Refusal :=
  run (.one 0x09#8 5#4 x) .unary (unary x (bitsResult 5)) s

def execSext16 (x : Args) (s : State) : Host.Outcome State Fault Refusal :=
  run (.one 0x09#8 6#4 x) .unary (unary x (bitsResult 6)) s

def execSext32 (x : Args) (s : State) : Host.Outcome State Fault Refusal :=
  run (.one 0x09#8 7#4 x) .unary (unary x (bitsResult 7)) s

def execZext8 (x : Args) (s : State) : Host.Outcome State Fault Refusal :=
  run (.one 0x09#8 8#4 x) .unary (unary x (bitsResult 8)) s

def execZext16 (x : Args) (s : State) : Host.Outcome State Fault Refusal :=
  run (.one 0x09#8 9#4 x) .unary (unary x (bitsResult 9)) s

def execZext32 (x : Args) (s : State) : Host.Outcome State Fault Refusal :=
  run (.one 0x09#8 10#4 x) .unary (unary x (bitsResult 10)) s

def execShadd (x : Args) (s : State) : Host.Outcome State Fault Refusal :=
  run (.one 0x0A#8 0#4 x) .shadd (binary x fun a b => a + b <<< (x.imm.extractLsb' 0 3).toNat) s

def execAlignup (x : Args) (s : State) : Host.Outcome State Fault Refusal :=
  run (.one 0x0A#8 1#4 x) .alu (binary x (addrResult 1)) s

def execAligndn (x : Args) (s : State) : Host.Outcome State Fault Refusal :=
  run (.one 0x0A#8 2#4 x) .alu (binary x (addrResult 2)) s

def execMzip (x : Args) (s : State) : Host.Outcome State Fault Refusal :=
  run (.one 0x0A#8 3#4 x) .alu (binary x (addrResult 3)) s

def execMeven (x : Args) (s : State) : Host.Outcome State Fault Refusal :=
  run (.one 0x0A#8 4#4 x) .unary (unary x fun a => addrResult 4 a 0#64) s

def execModd (x : Args) (s : State) : Host.Outcome State Fault Refusal :=
  run (.one 0x0A#8 5#4 x) .unary (unary x fun a => addrResult 5 a 0#64) s

def execMaddx (x : Args) (s : State) : Host.Outcome State Fault Refusal :=
  run (.one 0x0A#8 6#4 x) .alu (binary x (addrResult 6)) s

def execMaddy (x : Args) (s : State) : Host.Outcome State Fault Refusal :=
  run (.one 0x0A#8 7#4 x) .alu (binary x (addrResult 7)) s

def execMovi (x : LArgs) (s : State) : Host.Outcome State Fault Refusal :=
  run (.long 0x07#8 0#4 x) .movi (finish x.d (x.imm.signExtend 64)) s

def execMovhi (x : LArgs) (s : State) : Host.Outcome State Fault Refusal :=
  run (.long 0x08#8 0#4 x) .movhi (moveHigh x) s

def execGand (x : Args) (s : State) : Host.Outcome State Fault Refusal :=
  run (.one 0x0B#8 0#4 x) .ggg (guards x fun a b => a && b) s

def execGor (x : Args) (s : State) : Host.Outcome State Fault Refusal :=
  run (.one 0x0B#8 1#4 x) .ggg (guards x fun a b => a || b) s

def execGxor (x : Args) (s : State) : Host.Outcome State Fault Refusal :=
  run (.one 0x0B#8 2#4 x) .ggg (guards x fun a b => a != b) s

def execGandn (x : Args) (s : State) : Host.Outcome State Fault Refusal :=
  run (.one 0x0B#8 3#4 x) .ggg (guards x fun a b => a && ! b) s

def execGset (x : Args) (s : State) : Host.Outcome State Fault Refusal :=
  run (.one 0x0B#8 4#4 x) .gset (unary x fun a => a) s

def execGget (x : Args) (s : State) : Host.Outcome State Fault Refusal :=
  run (.one 0x0B#8 5#4 x) .gget (do let a ← readGuard x.a; finish x.d (boolWord a)) s

def execMov (x : Args) (s : State) : Host.Outcome State Fault Refusal :=
  run (.one 0x0C#8 0#4 x) .unary (unary x fun a => a) s

def execSel (x : Args) (s : State) : Host.Outcome State Fault Refusal :=
  run (.one 0x0C#8 1#4 x) .sel (select x) s


end Sys2Proof.Machine
end

