-- ==== Sys2Proof/Machine/Tile.lean ====
section
/-! DEFINITION. Tiles (R240–R248): descriptors, layouts, elements of the tile store, tile operands and destinations (R410–R414),
and the row-by-row run of a tile instruction (R415). -/
namespace Sys2Proof.Machine

/-! Descriptors (R241, R244). -/

def Desc.ofBits (w : BitVec 128) : Desc :=
  let f (lo n : Nat) := (w.extractLsb' lo n).toNat
  { vcols := f 57 11, vrows := f 48 9, v := w.getLsbD 47, morton := w.getLsbD 46, typ := f 41 5, colsM1 := f 31 10, rowsM1 := f 23 8,
    cap := f 11 12, base := f 0 11 }

def Desc.toBits (d : Desc) : BitVec 128 :=
  BitVec.ofNat 128 (d.base + d.cap * 2 ^ 11 + d.rowsM1 * 2 ^ 23 + d.colsM1 * 2 ^ 31 + d.typ * 2 ^ 41 + d.morton.toNat * 2 ^ 46 +
    d.v.toNat * 2 ^ 47 + d.vrows * 2 ^ 48 + d.vcols * 2 ^ 57)

def Desc.rows (d : Desc) : Nat := d.rowsM1 + 1
def Desc.cols (d : Desc) : Nat := d.colsM1 + 1
def Desc.bits (d : Desc) : Nat := typBits d.typ

/-- Row bytes w (R243). -/
def Desc.rowBytes (d : Desc) : Nat := (d.cols * d.bits + 511) / 512 * 64

/-- The bytes a tile occupies (R243). -/
def Desc.size (d : Desc) : Nat :=
  if d.morton then (d.rows + 7) / 8 * 8 * d.rowBytes else d.rows * d.rowBytes

/-- Whether a descriptor is valid (R244). -/
def Desc.ok (d : Desc) : Bool :=
  typOk d.typ && decide (d.vrows ≤ d.rows) && decide (d.vcols ≤ d.cols) && decide (d.base + d.cap ≤ 2048) && decide (d.size ≤ d.cap * 512)

/-- A tile of a port: its shape and type, fully valid, row-major (R253). -/
def Pattern.desc (p : Pattern) : Desc :=
  ⟨p.tcols, p.trows, true, false, p.typ, p.tcols - 1, p.trows - 1, 0, 0⟩

/-- The number of blocks of a `br` × `bc` grid whose Morton key is smaller than that of (`bi`, `bj`) (R243). -/
def mortonRank (br bc bi bj : Nat) : Nat :=
  let key := mortonKey bj bi
  ((List.range br).map fun i => ((List.range bc).filter fun j => decide (mortonKey j i < key)).length).foldl (· + ·) 0

/-- The offset within a tile's image of byte `o` of row `i` (R243). -/
def Desc.at (d : Desc) (i o : Nat) : Nat :=
  if d.morton then
    512 * mortonRank ((d.rows + 7) / 8) (d.rowBytes / 64) (i / 8) (o / 64) + 64 * (i % 8) + o % 64
  else i * d.rowBytes + o

/-! Elements in rows of bytes. -/

/-- The element of `b` bits at index `j` of a row given by its bytes. -/
def elemOf (b : Nat) (row : List Byte) (j : Nat) : Nat :=
  let lo := j * b / 8
  (leVal ((row.drop lo).take ((j * b + b + 7) / 8 - lo)) >>> (j * b % 8)) % 2 ^ b

def elemsOf (b n : Nat) (row : List Byte) : List Nat := (List.range n).map (elemOf b row)

/-- Bytes of a row with elements laid over them; `none` keeps an element's old bits. -/
def layElems (b : Nat) (old : List Byte) (es : List (Option Nat)) : List Byte :=
  let v := (List.range es.length).foldl (fun v j =>
    match es.getD j none with
    | none => v
    | some e => v - ((v >>> (j * b)) % 2 ^ b) <<< (j * b) + (e % 2 ^ b) <<< (j * b)) (leVal old)
  leBytes old.length v

/-! The tile store (R197, R240): a byte that nothing has written in this job reads zero. -/

def Store.byte (t : Store) (a : Nat) : Byte := Map.get (fun _ => 0#8) t.bytes a

def Store.put (t : Store) (a : Nat) (v : Byte) : Store :=
  { bytes := Map.set (fun _ => 0#8) t.bytes a v, written := Map.set (fun _ => false) t.written (a / 64) true }

/-- Clearing the written bits of the granules of `[lo, hi)`; both are multiples of 64. -/
def Store.clear (t : Store) (lo hi : Nat) : Store :=
  { bytes := Map.clear t.bytes lo hi, written := Map.clear t.written (lo / 64) (hi / 64) }

/-- The bytes of a row that its `n` first elements touch. -/
def Desc.span (d : Desc) (n : Nat) : Nat := (n * d.bits + 7) / 8

/-- Row `i` of a tile as bytes of its first `n` elements. -/
def Store.rowBytes (t : Store) (d : Desc) (i n : Nat) : List Byte :=
  (List.range (d.span n)).map fun o => t.byte (512 * d.base + d.at i o)

/-- Row `i` of a tile: its elements, zero outside the valid region (R245). -/
def Store.row (t : Store) (d : Desc) (i : Nat) : List Nat :=
  if i < d.vrows then
    (let es := elemsOf d.bits d.vcols (t.rowBytes d i d.vcols)
     es ++ List.replicate (d.cols - d.vcols) 0)
  else List.replicate d.cols 0

/-- Writing elements of row `i` inside the valid region; other elements keep their bits (R245). -/
def Store.setRow (t : Store) (d : Desc) (i : Nat) (es : List (Option Nat)) : Store :=
  if i < d.vrows then
    let es := es.take d.vcols
    let old := t.rowBytes d i es.length
    let new := layElems d.bits old es
    let touched (o : Nat) : Bool := (List.range es.length).any fun j =>
      (es.getD j none).isSome && decide (j * d.bits / 8 ≤ o) && decide (o ≤ (j * d.bits + d.bits - 1) / 8)
    (List.range new.length).foldl (fun t o => if touched o then t.put (512 * d.base + d.at i o) (new.getD o 0#8) else t) t
  else t

def Job.tdesc (j : Job) (n : Nat) : Desc := Desc.ofBits (Map.get (fun _ => 0#128) j.desc n)

/-! Memory behind a row: a list of (address, length) pieces. -/

/-- The pieces of row `i` of a tile's memory image of `n` bytes per row (R421): a pitch, or the Morton image. -/
def imagePieces (d : Desc) (morton : Bool) (pitch : Int) (i n : Nat) : List (Int × Nat) :=
  if morton then
    let m := { d with morton := true }
    (pieces 64 (n / 64 + 2) 0 n).map fun p => ((m.at i p.1 : Nat), p.2)
  else [((i : Int) * pitch, n)]

/-- Reading the pieces of a row from global memory, or from a scratchpad at an address with its offset taken without wrapping. -/
def readPieces (i : FInfo) (sp : Bool) (a : Nat) (ps : List (Int × Nat)) : Exec (List Byte) := do
  let bs ← mapE ps fun p => do
    let s ← get
    if sp then do
      let off : Int := (a % 4194304 : Nat) + p.1
      if off < 0 ∨ 4194304 < off + p.2 then trapWith 0x144#10 { i with addr := BitVec.ofInt 64 (a + p.1) }
      else scratchRead i (a / 4194304 * 4194304 + off.toNat) p.2
    else readGlobal s.cur i ((a + p.1) % 2 ^ 64).toNat p.2
  pure bs.flatten

/-- The checks of a write of pieces, made before any of it (R424). -/
def checkPieces (i : FInfo) (sp : Bool) (a : Nat) (ps : List (Int × Nat)) : Exec Unit :=
  each ps fun p => do
    if sp then do
      let off : Int := (a % 4194304 : Nat) + p.1
      if off < 0 ∨ 4194304 < off + p.2 then trapWith 0x144#10 { i with addr := BitVec.ofInt 64 (a + p.1) }
      else do
        let _ ← scratchPlace i (a / 4194304 * 4194304 + off.toNat) p.2
        pure ()
    else
      each (pieces 64 (p.2 / 64 + 2) ((a + p.1) % 2 ^ 64).toNat p.2) fun q => do
        let s ← get
        match ← xlate s.cur true false q.1 with
        | .ok _ => pure ()
        | .error f => trapWith f { i with addr := BitVec.ofNat 64 q.1 }

/-- Writing the pieces of a row, all of it or none. -/
def writePieces (i : FInfo) (sp : Bool) (a : Nat) (ps : List (Int × Nat)) (data : List Byte) : Exec Unit := do
  checkPieces i sp a ps
  let rec go : List (Int × Nat) → List Byte → Exec Unit
    | [], _ => pure ()
    | p :: rest, bs => do
      let s ← get
      (if sp then scratchWrite i (a / 4194304 * 4194304 + ((a % 4194304 : Nat) + p.1).toNat) (bs.take p.2)
        else writeGlobal s.cur i ((a + p.1) % 2 ^ 64).toNat (bs.take p.2))
      go rest (bs.drop p.2)
  go ps data

/-! Tile operands. -/

/-- A tile source: a tile of the store by its descriptor, or a port's tile at a pattern position; or a broadcast scalar. -/
inductive Src
  | store (d : Desc)
  | port (n : Nat) (p : Pattern) (pos which : Nat)
  | scalar (w : Word)
  deriving DecidableEq, Repr

def Src.desc : Src → Desc
  | .store d => d
  | .port _ p _ _ => p.desc
  | .scalar _ => ⟨0, 0, true, false, 0, 0, 0, 0, 0⟩

def Src.isTile : Src → Bool
  | .scalar _ => false
  | _ => true

/-- A tile register as an operand: cause 0x080 where it is not configured (R244). -/
def storeSrc (which t : Nat) : Exec Src := do
  let j ← curJob
  let d := j.tdesc t
  if d.v then pure (.store d) else trapWith 0x080#10 { FInfo.plain with opnd := which }

/-- A port's tile popped or peeked: the position is recorded, and the port moves on at the operand's turn (R414, R285). Past the
end it is a zero tile. -/
def portTile (which n : Nat) (peek : Bool) : Exec Src := do
  let j ← curJob
  match ← findOpnd which with
  | some o => pure (.port n (j.port n).pat o.value.toNat which)
  | none => do
    let p ← boundPort n
    let past ← portChecks which n p false true
    recordOpnd ⟨which, true, n, BitVec.ofNat 64 p.pos⟩
    if ! past && ! peek then do
      let c ← curCore
      updJob c fun j => j.setPort n (j.port n).next
    pure (.port n p.pat p.pos which)

/-- A tile source at its turn. -/
def tileSrc (which : Nat) (code : BitVec 8) : Exec Src := do
  match Sel.ofCode code with
  | .t n => storeSrc which n
  | .q n => do
    let t ← popChan which n true
    storeSrc which t.toNat
  | .p n => portTile which n false
  | .pk n => portTile which n true
  | _ => pure (.scalar 0#64)

/-- A channel in a broadcast position supplies what it pops (R410). -/
def popAny (which n : Nat) : Exec Src := do
  match ← findOpnd which with
  | some o => if o.tile then storeSrc which o.value.toNat else pure (.scalar o.value)
  | none => do
    let j ← curJob
    match j.chan n with
    | .handle _ :: _ => do
      let t ← popChan which n true
      storeSrc which t.toNat
    | _ => do
      let w ← popChan which n false
      pure (.scalar w)

/-- A broadcast source at its turn: the operand itself decides which of the two it supplies. -/
def bcastSrc (which : Nat) (code : BitVec 8) : Exec Src := do
  let port (n : Nat) (peek : Bool) : Exec Src := do
    match ← findOpnd which with
    | some o => if o.tile then portTile which n peek else pure (.scalar o.value)
    | none => do
      let p ← boundPort n
      if p.pat.tile then portTile which n peek
      else do
        let w ← portElem which n peek
        pure (.scalar w)
  match Sel.ofCode code with
  | .t n => storeSrc which n
  | .q n => popAny which n
  | .p n => port n false
  | .pk n => port n true
  | _ => do
    let w ← readSrc which code
    pure (.scalar w)

/-- Row `i` of a source as elements of its type, zero outside its valid region; a scalar gives its low bits at every column. -/
def Src.row (src : Src) (typ cols i : Nat) : Exec (List Nat) := do
  match src with
  | .scalar w => pure (List.replicate cols (w.toNat % 2 ^ typBits typ))
  | .store d => do
    let j ← curJob
    pure (j.tstore.row d i)
  | .port n p pos which =>
    if p.count ≤ pos ∨ p.trows ≤ i then pure (List.replicate p.tcols 0)
    else do
      let info := { FInfo.plain with port := some n, opnd := which, pos := pos }
      match p.addr pos with
      | none => trapWith 0x144#10 { info with addr := BitVec.ofNat 64 p.base }
      | some a => do
        let bs ← readPieces info p.scratch a [((i * p.tpitch : Nat), (p.tcols * typBits p.typ + 7) / 8)]
        pure (elemsOf (typBits p.typ) p.tcols bs)

/-- All rows of a source, for members that need rows other than their own. -/
def Src.all (src : Src) : Exec (List (List Nat)) := mapE (List.range src.desc.rows) fun i => src.row src.desc.typ src.desc.cols i

/-! Tile destinations (R411, R253). -/

/-- A tile destination: a tile of the store, with the channel that its handle goes to, or a port's tile. -/
inductive Dst
  | store (t : Nat) (d : Desc) (push : Option Nat)
  | port (n : Nat) (p : Pattern) (pos : Nat)
  deriving DecidableEq, Repr

def Dst.desc : Dst → Desc
  | .store _ d _ => d
  | .port _ p _ => p.desc

def storeDst (t : Nat) (push : Option Nat) : Exec Dst := do
  let j ← curJob
  let d := j.tdesc t
  if d.v then pure (.store t d push) else trapWith 0x080#10 { FInfo.plain with opnd := 0 }

/-- The destination at its turn, after the sources. The position of a push is recorded. -/
def tileDst (x : Args) : Exec Dst := do
  match Sel.ofCode x.d with
  | .t n => storeDst n none
  | .q n => storeDst x.ht (some n)
  | .p n => do
    let j ← curJob
    match ← findOpnd 0 with
    | some o => pure (.port n (j.port n).pat o.value.toNat)
    | none => do
      let p ← boundPort n
      let _ ← portChecks 0 n p true true
      setOpnd ⟨0, true, n, BitVec.ofNat 64 p.pos⟩
      pure (.port n p.pat p.pos)
  | _ => storeDst 0 none

/-- Writing elements of a row of a destination. -/
def Dst.setRow (dst : Dst) (i : Nat) (es : List (Option Nat)) : Exec Unit := do
  match dst with
  | .store _ d _ => do
    let c ← curCore
    updJob c fun j => { j with tstore := j.tstore.setRow d i es }
  | .port n p pos =>
    if p.count ≤ pos then pure ()
    else do
      let info := { FInfo.plain with port := some n, opnd := 0, pos := pos }
      match p.addr pos with
      | none => trapWith 0x144#10 { info with addr := BitVec.ofNat 64 p.base }
      | some a => do
        let b := typBits p.typ
        let n := (p.tcols * b + 7) / 8
        let data := layElems b (List.replicate n 0#8) (es.take p.tcols)
        writePieces info p.scratch a [((i * p.tpitch : Nat), n)] data

/-- What follows the last row: a handle pushed, a port moved on; then the instruction completes. -/
def Dst.done (dst : Dst) : Exec Unit := do
  match dst with
  | .store t _ (some n) => pushChan n (.handle t)
  | .store _ _ none => pure ()
  | .port n p pos => do
    let c ← curCore
    if pos < p.count then updJob c fun j => j.setPort n (j.port n).next
  let s ← get
  clearAnswers s.cur
  retire 1

/-! Checks before any effect (R246, R412). -/

/-- The source's descriptor bytes overlap the destination's; equal descriptors are no overlap unless the member is cross-row. -/
def overlaps (d s : Desc) (cross : Bool) : Bool :=
  let same := d.base == s.base && d.cap == s.cap && d.rowsM1 == s.rowsM1 && d.colsM1 == s.colsM1 && d.typ == s.typ && d.morton == s.morton
  decide (512 * d.base < 512 * s.base + s.size) && decide (512 * s.base < 512 * d.base + d.size) && (cross || ! same)

/-- Cause 0x083. -/
def checkOverlap (dst : Dst) (srcs : List Src) (cross : Bool) : Exec Unit := do
  match dst with
  | .store _ d _ =>
    if srcs.any fun s => match s with | .store e => overlaps d e cross | _ => false then trap 0x083#10 else pure ()
  | .port _ _ _ => pure ()

def typeFault {α : Type} : Exec α := trap 0x084#10
def shapeFault {α : Type} : Exec α := trap 0x082#10
def needType (b : Bool) : Exec Unit := if b then pure () else typeFault
def needShape (b : Bool) : Exec Unit := if b then pure () else shapeFault

/-- A source has shape `r` × `c`; a scalar has every shape. -/
def Src.shaped (s : Src) (r c : Nat) : Bool := ! s.isTile || (s.desc.rows == r && s.desc.cols == c)

/-- A source can serve an operation type: a tile of that type, or a scalar, which complex FP64 does not take (R412). -/
def Src.serves (s : Src) (t : Nat) : Bool := if s.isTile then s.desc.typ == t else t != 0x15

/-! The run. -/

/-- The row cursor moves on: a restart point (R415). -/
def setCursor (q : Nat) : Exec Unit :=
  updHart fun h => { h with restart := { h.restartHere with cursor := q, ckind := 1 } }

/-- Destination rows from the cursor on, in increasing order (R415). -/
def rowsFrom (q : Nat) : Nat → (Nat → Exec Unit) → Exec Unit
  | 0, _ => pure ()
  | n + 1, f => do
    f q
    setCursor (q + 1)
    rowsFrom (q + 1) n f

/-- Running a tile instruction: each row of the valid region, then what follows the last row. -/
def runRows (dst : Dst) (row : Nat → Exec (List (Option Nat))) : Exec Unit := do
  let h ← getHart
  let q := h.restartHere.cursor
  rowsFrom q (dst.desc.vrows - q) fun i => do
    let es ← row i
    dst.setRow i es
  dst.done

/-- Rows given as plain elements. -/
def runFull (dst : Dst) (row : Nat → Exec (List Nat)) : Exec Unit :=
  runRows dst fun i => do
    let es ← row i
    pure (es.map some)

end Sys2Proof.Machine
end

