-- ==== Sys2Proof/Machine/TileArith.lean ====
section
/-! DEFINITION. Tile arithmetic: TBIN, TTRI, TUNA, TCMP, TCPX, TCVT, TRED and TSCN (R426–R437). -/
namespace Sys2Proof.Machine

/-! Elements. -/

def fmtOf (t : Nat) : Fmt := (Fmt.ofCode t).getD .fp32

/-- A result by component of a complex type. -/
def byParts (t : Nat) (a b : Nat) (f : Nat → Nat → Nat) : Nat := cpxMk t (f (cpxRe t a) (cpxRe t b)) (f (cpxIm t a) (cpxIm t b))

/-- TBIN by FN on floating-point elements (R427). -/
def binFloat (f : Fmt) (fn rm : Nat) (sat : Bool) (a b : Nat) : Nat :=
  let x := f.val a
  let y := f.val b
  let v := match fn with
    | 0 => FV.add rm x y
    | 1 => FV.add rm x y.negate
    | 2 => FV.mul x y
    | 3 => FV.div x y
    | 4 => FV.minNum x y
    | 5 => FV.maxNum x y
    | _ => (FV.add rm x y.negate).abs
  (f.round rm sat v).1

/-- TBIN by FN on integers (R427, R428). -/
def binInt (t fn : Nat) (sat : Bool) (a b : Nat) : Nat :=
  let w := typBits t
  let x := intVal t a
  let y := intVal t b
  match fn with
  | 0 => cvtInt t sat (x + y)
  | 1 => cvtInt t sat (x - y)
  | 2 => cvtInt t sat (x * y)
  | 3 => if y = 0 then 2 ^ w - 1 else cvtInt t sat (x.tdiv y)
  | 4 => if x ≤ y then a else b
  | 5 => if x ≤ y then b else a
  | 6 => a &&& b
  | 7 => a ||| b
  | 8 => a ^^^ b
  | 9 => (a <<< (b % w)) % 2 ^ w
  | 10 => intBits w (x / (2 : Int) ^ (b % w))
  | _ => cvtInt t sat (x - y).natAbs

def binElem (t fn rm : Nat) (sat : Bool) (a b : Nat) : Nat :=
  if isCPX t then byParts t a b (binFloat (fmtOf (cpxBase t)) fn rm sat)
  else if isFloat t then binFloat (fmtOf t) fn rm sat a b
  else binInt t fn sat a b

/-- The types TBIN accepts by FN. -/
def binTypes (fn t : Nat) : Bool :=
  if fn ≤ 1 then isFPA t || isINTA t || isCPX t
  else if 6 ≤ fn ∧ fn ≤ 10 then isINTA t
  else isFPA t || isINTA t

/-- TFMA, TFMS and TFNMA (R429). -/
def triElem (t fn rm : Nat) (sat : Bool) (a b c : Nat) : Nat :=
  if isFloat t then
    let f := fmtOf t
    let p := FV.mul (f.val a) (f.val b)
    let p := if fn = 2 then p.negate else p
    let z := if fn = 1 then (f.val c).negate else f.val c
    (f.round rm sat (FV.add rm p z)).1
  else
    let p := intVal t a * intVal t b
    let z := intVal t c
    cvtInt t sat (match fn with | 0 => p + z | 1 => p - z | _ => z - p)

/-- A sign change, a NaN becoming the canonical NaN (R430, R432). -/
def signElem (f : Fmt) (neg : Bool) (a : Nat) : Nat :=
  if (f.val a).isNan then f.nanBits
  else if neg then (if f.signBit ≤ a then a - f.signBit else a + f.signBit) else a % f.signBit

/-- TUNA by FN (R430). -/
def unaElem (t fn rm : Nat) (sat : Bool) (a : Nat) : Nat :=
  if isCPX t then cpxMk t (signElem (fmtOf (cpxBase t)) true (cpxRe t a)) (signElem (fmtOf (cpxBase t)) true (cpxIm t a))
  else if isFloat t then
    (let f := fmtOf t
     match fn with
     | 0 => signElem f false a
     | 1 => signElem f true a
     | 2 => (f.round rm sat (FV.sqrt (f.val a))).1
     | 3 => (f.round rm sat (FV.div (.fin false 1 0) (f.val a))).1
     | _ => specialResult fn t sat a)
  else cvtInt t sat (if fn = 0 then (intVal t a).natAbs else -(intVal t a))

def unaTypes (fn t : Nat) : Bool :=
  if fn = 0 then isFPA t || isINTA t
  else if fn = 1 then isFPA t || isINTA t || isCPX t
  else t == 1 || t == 2 || t == 3

/-- A relation by FN: EQ, NE, LT, LE, GT, GE, UN (R431). -/
def relFloat (f : Fmt) (fn : Nat) (a b : Nat) : Bool :=
  let x := f.val a
  let y := f.val b
  let un := x.isNan || y.isNan
  let c := FV.cmp x y
  match fn with
  | 0 => ! un && c == 0
  | 1 => un || c != 0
  | 2 => ! un && decide (c < 0)
  | 3 => ! un && decide (c ≤ 0)
  | 4 => ! un && decide (0 < c)
  | 5 => ! un && decide (0 ≤ c)
  | _ => un

def relInt (t fn : Nat) (a b : Nat) : Bool :=
  let x := intVal t a
  let y := intVal t b
  match fn with
  | 0 => x == y
  | 1 => x != y
  | 2 => decide (x < y)
  | 3 => decide (x ≤ y)
  | 4 => decide (y < x)
  | 5 => decide (y ≤ x)
  | _ => false

/-- The relation on elements; for complex types EQ holds in both components, NE and UN in one. -/
def relElem (t fn : Nat) (a b : Nat) : Bool :=
  if isCPX t then
    let f := fmtOf (cpxBase t)
    let re := relFloat f fn (cpxRe t a) (cpxRe t b)
    let im := relFloat f fn (cpxIm t a) (cpxIm t b)
    if fn = 0 then re && im else re || im
  else if isFloat t then relFloat (fmtOf t) fn a b
  else relInt t fn a b

/-- The two-FMA complex product, `conj` negating the second operand's imaginary part first (R339, R432). -/
def cpxMul (t : Nat) (conj : Bool) (a b : Nat) : Nat :=
  let f := fmtOf (cpxBase t)
  let rnd (v : FV) : FV := f.val (f.round 0 false v).1
  let ar := f.val (cpxRe t a)
  let ai := f.val (cpxIm t a)
  let br := f.val (cpxRe t b)
  let bi := if conj then (f.val (cpxIm t b)).negate else f.val (cpxIm t b)
  cpxMk t (f.round 0 false (FV.fma 0 ar br (rnd (FV.mul ai bi)).negate)).1 (f.round 0 false (FV.fma 0 ar bi (rnd (FV.mul ai br)))).1

/-- TCONJ: the imaginary part's sign; a NaN component becomes the canonical NaN. -/
def conjElem (t : Nat) (a : Nat) : Nat :=
  let f := fmtOf (cpxBase t)
  cpxMk t (if (f.val (cpxRe t a)).isNan then f.nanBits else cpxRe t a) (signElem f true (cpxIm t a))

/-- TCVT on one element (R433). -/
def tcvtElem (s t rm : Nat) (sat : Bool) (a : Nat) : Nat :=
  if isCPX s then
    cpxMk t (cvtElem (cpxBase s) (cpxBase t) rm sat (cpxRe s a)) (cvtElem (cpxBase s) (cpxBase t) rm sat (cpxIm s a))
  else cvtElem s t rm sat a

/-- A conversion by a scale: the exact quotient, or the product for TDQ (R434). -/
def scaleElem (s t bt rm : Nat) (sat mul : Bool) (a sc : Nat) : Nat :=
  cvtReal t rm sat ((if mul then FV.mul else FV.div) (realVal s a) (realVal bt sc))

/-! Reductions (R436). -/

/-- An exact sum delivered in type `t`. -/
def sumElems (s t rm : Nat) (sat : Bool) (es : List Nat) : Nat :=
  if isCPX s then
    cpxMk t (cvtReal (cpxBase t) rm sat (FV.sum true (es.map fun e => realVal (cpxBase s) (cpxRe s e))))
      (cvtReal (cpxBase t) rm sat (FV.sum true (es.map fun e => realVal (cpxBase s) (cpxIm s e))))
  else if isFloat s then cvtReal t rm sat (FV.sum true (es.map (realVal s)))
  else cvtInt t sat ((es.map (intVal s)).foldl (· + ·) 0)

/-- The largest or smallest of two elements of a type. -/
def pickElem (t : Nat) (isMax : Bool) (a b : Nat) : Nat := binElem t (if isMax then 5 else 4) 0 false a b

/-- A maximum or minimum of a list; of an empty one, zero. -/
def extremeElems (t : Nat) (isMax : Bool) : List Nat → Nat
  | [] => 0
  | e :: es => es.foldl (pickElem t isMax) (pickElem t isMax e e)

/-- The types of a reduction (R436). -/
def redTypes (sum : Bool) (s t : Nat) : Bool :=
  if sum then (isFPA s && isFPA t) || (isINTA s && isINTA t) || (isCPX s && isCPX t)
  else s == t && (isFPA s || isINTA s)

/-- What an empty exclusive prefix of a running maximum gives (R437). -/
def lowest (t : Nat) : Nat :=
  if isFloat t then
    let f := fmtOf t
    f.signBit + (if f.kind = 0 then f.infBits else f.encUnits f.maxUnits)
  else intBits (typBits t) (intMin t)

/-! Shapes of effect. -/

/-- Element-wise members of one, two or three sources of the destination's shape and type (R426). -/
def elementwise (x : Args) (srcs : List Src) (ok : Nat → Bool) (f : List Nat → Nat → Nat) : Exec Unit := do
  let dst ← tileDst x
  let d := dst.desc
  needType (ok d.typ && srcs.all fun s => s.serves d.typ)
  needShape (srcs.all fun s => s.shaped d.rows d.cols)
  checkOverlap dst srcs false
  runFull dst fun i => do
    let rs ← mapE srcs fun s => s.row d.typ d.cols i
    pure ((List.range d.vcols).map fun j => f (rs.map fun r => r.getD j 0) d.typ)

def tileBin (fn : Nat) (x : Args) : Exec Unit := do
  let a ← tileSrc 1 x.a
  let b ← bcastSrc 2 x.b
  elementwise x [a, b] (binTypes fn) fun es t => binElem t fn (rmOf x) (satOf x) (es.getD 0 0) (es.getD 1 0)

def tileTri (fn : Nat) (x : Args) : Exec Unit := do
  let a ← tileSrc 1 x.a
  let b ← bcastSrc 2 x.b
  let c ← bcastSrc 3 x.c
  elementwise x [a, b, c] (fun t => isFPA t || isINTA t) fun es t =>
    triElem t fn (rmOf x) (satOf x) (es.getD 0 0) (es.getD 1 0) (es.getD 2 0)

/-- TSEL copies bits; its C has an integer type of its own (R429). -/
def tileSel (x : Args) : Exec Unit := do
  let a ← tileSrc 1 x.a
  let b ← bcastSrc 2 x.b
  let c ← tileSrc 3 x.c
  let dst ← tileDst x
  let d := dst.desc
  needType (a.serves d.typ && b.serves d.typ && isINTS c.desc.typ)
  needShape (a.shaped d.rows d.cols && b.shaped d.rows d.cols && c.shaped d.rows d.cols)
  checkOverlap dst [a, b, c] false
  runFull dst fun i => do
    let ra ← a.row d.typ d.cols i
    let rb ← b.row d.typ d.cols i
    let rc ← c.row d.typ d.cols i
    pure ((List.range d.vcols).map fun j => if rc.getD j 0 = 0 then rb.getD j 0 else ra.getD j 0)

def tileUna (fn : Nat) (x : Args) : Exec Unit := do
  let a ← tileSrc 1 x.a
  elementwise x [a] (unaTypes fn) fun es t => unaElem t fn (rmOf x) (satOf x) (es.getD 0 0)

/-- TCMP: the operation type is A's (R431). -/
def tileCmp (fn : Nat) (x : Args) : Exec Unit := do
  let a ← tileSrc 1 x.a
  let b ← bcastSrc 2 x.b
  let dst ← tileDst x
  let d := dst.desc
  let t := a.desc.typ
  needType ((isFPA t || isINTA t || (isCPX t && (fn == 0 || fn == 1 || fn == 6))) && b.serves t && isINTS d.typ)
  needShape (a.shaped d.rows d.cols && b.shaped d.rows d.cols)
  checkOverlap dst [a, b] false
  runFull dst fun i => do
    let ra ← a.row t d.cols i
    let rb ← b.row t d.cols i
    pure ((List.range d.vcols).map fun j => (relElem t fn (ra.getD j 0) (rb.getD j 0)).toNat)

def tileCpx (fn : Nat) (x : Args) : Exec Unit := do
  let a ← tileSrc 1 x.a
  let b ← bcastSrc 2 x.b
  elementwise x [a, b] isCPX fun es t => cpxMul t (fn == 2) (es.getD 0 0) (es.getD 1 0)

def tileConj (x : Args) : Exec Unit := do
  let a ← tileSrc 1 x.a
  elementwise x [a] isCPX fun es t => conjElem t (es.getD 0 0)

/-- TCVT (R433). -/
def tileCvt (x : Args) : Exec Unit := do
  let a ← tileSrc 1 x.a
  let dst ← tileDst x
  let d := dst.desc
  let t := a.desc.typ
  needType (typOk t && isCPX t == isCPX d.typ)
  needShape (a.shaped d.rows d.cols)
  checkOverlap dst [a] false
  runFull dst fun i => do
    let ra ← a.row t d.cols i
    pure ((ra.take d.vcols).map fun e => tcvtElem t d.typ (rmOf x) (satOf x) e)

/-- The shape of a scale tile by granularity, for `r` rows and `c` columns (R331, R434). -/
def scaleShape (gran r c : Nat) : Nat × Nat :=
  match gran with
  | 0 => (1, 1)
  | 1 => (r, 1)
  | 2 => (r, (c + 31) / 32)
  | _ => (r, (c + 15) / 16)

/-- The scale's row and column for an element. -/
def scaleAt (gran i j : Nat) : Nat × Nat :=
  match gran with
  | 0 => (0, 0)
  | 1 => (i, 0)
  | 2 => (i, j / 32)
  | _ => (i, j / 16)

/-- TCVT.SC and TDQ (R434). -/
def tileScale (mul : Bool) (x : Args) : Exec Unit := do
  let a ← tileSrc 1 x.a
  let b ← tileSrc 2 x.b
  let dst ← tileDst x
  let d := dst.desc
  let t := a.desc.typ
  let bt := b.desc.typ
  let g := x.imm98
  needType ((bt == 9 || bt == 4) && isReal t && t != 9 && isReal d.typ && d.typ != 9)
  let sh := scaleShape g d.rows d.cols
  needShape (b.shaped sh.1 sh.2 && a.shaped d.rows d.cols)
  checkOverlap dst [a, b] false
  runFull dst fun i => do
    let ra ← a.row t d.cols i
    let rb ← b.row bt sh.2 (scaleAt g i 0).1
    pure ((List.range d.vcols).map fun j =>
      scaleElem t d.typ bt (rmOf x) (satOf x) mul (ra.getD j 0) (rb.getD (scaleAt g i j).2 0))

/-- The segment width of a row reduction (R435). -/
def segWidth (seg cols : Nat) : Nat := if seg = 0 then cols else if seg = 2 then 32 else 16

/-- A reduction by FN mod 3: sum, maximum, minimum. -/
def reduce (fn s t rm : Nat) (sat : Bool) (es : List Nat) : Nat :=
  match fn with
  | 0 => sumElems s t rm sat es
  | 1 => extremeElems s true es
  | _ => extremeElems s false es

/-- TRSUM, TRMAX, TRMIN (R435). -/
def tileRows (fn : Nat) (x : Args) : Exec Unit := do
  let a ← tileSrc 1 x.a
  let dst ← tileDst x
  let d := dst.desc
  let s := a.desc
  let w := segWidth x.imm98 s.cols
  needType (redTypes (fn == 0) s.typ d.typ)
  needShape (d.rows == s.rows && d.cols == (s.cols + w - 1) / w)
  checkOverlap dst [a] false
  runFull dst fun i => do
    let ra ← a.row s.typ s.cols i
    let valid := if i < s.vrows then ra.take s.vcols else []
    pure ((List.range d.vcols).map fun t => reduce fn s.typ d.typ (rmOf x) (satOf x) ((valid.drop (t * w)).take w))

/-- TCSUM, TCMAX, TCMIN: cross-row (R435). -/
def tileCols (fn : Nat) (x : Args) : Exec Unit := do
  let a ← tileSrc 1 x.a
  let dst ← tileDst x
  let d := dst.desc
  let s := a.desc
  needType (redTypes (fn == 0) s.typ d.typ)
  needShape (d.rows == 1 && d.cols == s.cols)
  checkOverlap dst [a] true
  runFull dst fun _ => do
    let rs ← a.all
    pure ((List.range d.vcols).map fun j =>
      reduce fn s.typ d.typ (rmOf x) (satOf x) (if j < s.vcols then (rs.take s.vrows).map fun r => r.getD j 0 else []))

/-- TSCAN.ADD and TSCAN.MAX; MOD[2] is the exclusive form (R437). -/
def tileScan (isMax : Bool) (x : Args) : Exec Unit := do
  let a ← tileSrc 1 x.a
  let dst ← tileDst x
  let d := dst.desc
  let s := a.desc
  let ex := x.mod.getLsbD 2
  needType (redTypes (! isMax) s.typ d.typ)
  needShape (d.rows == s.rows && d.cols == s.cols)
  checkOverlap dst [a] false
  runFull dst fun i => do
    let ra ← a.row s.typ s.cols i
    pure ((List.range d.vcols).map fun j =>
      let es := ra.take (if ex then j else j + 1)
      if isMax then (if es.isEmpty then lowest s.typ else extremeElems s.typ true es)
      else sumElems s.typ d.typ (rmOf x) (satOf x) es)

/-! The instructions. -/

def execTadd (x : Args) (s : State) : Host.Outcome State Fault Refusal :=
  run (.one 0x88#8 0#4 x) .tbin (tileBin 0 x) s

def execTsub (x : Args) (s : State) : Host.Outcome State Fault Refusal :=
  run (.one 0x88#8 1#4 x) .tbin (tileBin 1 x) s

def execTmul (x : Args) (s : State) : Host.Outcome State Fault Refusal :=
  run (.one 0x88#8 2#4 x) .tbin (tileBin 2 x) s

def execTdiv (x : Args) (s : State) : Host.Outcome State Fault Refusal :=
  run (.one 0x88#8 3#4 x) .tbin (tileBin 3 x) s

def execTmin (x : Args) (s : State) : Host.Outcome State Fault Refusal :=
  run (.one 0x88#8 4#4 x) .tbin (tileBin 4 x) s

def execTmax (x : Args) (s : State) : Host.Outcome State Fault Refusal :=
  run (.one 0x88#8 5#4 x) .tbin (tileBin 5 x) s

def execTand (x : Args) (s : State) : Host.Outcome State Fault Refusal :=
  run (.one 0x88#8 6#4 x) .tlog (tileBin 6 x) s

def execTor (x : Args) (s : State) : Host.Outcome State Fault Refusal :=
  run (.one 0x88#8 7#4 x) .tlog (tileBin 7 x) s

def execTxor (x : Args) (s : State) : Host.Outcome State Fault Refusal :=
  run (.one 0x88#8 8#4 x) .tlog (tileBin 8 x) s

def execTshl (x : Args) (s : State) : Host.Outcome State Fault Refusal :=
  run (.one 0x88#8 9#4 x) .tlog (tileBin 9 x) s

def execTshr (x : Args) (s : State) : Host.Outcome State Fault Refusal :=
  run (.one 0x88#8 10#4 x) .tlog (tileBin 10 x) s

def execTabsd (x : Args) (s : State) : Host.Outcome State Fault Refusal :=
  run (.one 0x88#8 11#4 x) .tbin (tileBin 11 x) s

def execTfma (x : Args) (s : State) : Host.Outcome State Fault Refusal :=
  run (.one 0x89#8 0#4 x) .ttri (tileTri 0 x) s

def execTfms (x : Args) (s : State) : Host.Outcome State Fault Refusal :=
  run (.one 0x89#8 1#4 x) .ttri (tileTri 1 x) s

def execTfnma (x : Args) (s : State) : Host.Outcome State Fault Refusal :=
  run (.one 0x89#8 2#4 x) .ttri (tileTri 2 x) s

def execTsel (x : Args) (s : State) : Host.Outcome State Fault Refusal :=
  run (.one 0x89#8 3#4 x) .tsel (tileSel x) s

def execTabs (x : Args) (s : State) : Host.Outcome State Fault Refusal :=
  run (.one 0x8A#8 0#4 x) .tuna (tileUna 0 x) s

def execTneg (x : Args) (s : State) : Host.Outcome State Fault Refusal :=
  run (.one 0x8A#8 1#4 x) .tuna (tileUna 1 x) s

def execTsqrt (x : Args) (s : State) : Host.Outcome State Fault Refusal :=
  run (.one 0x8A#8 2#4 x) .tuna (tileUna 2 x) s

def execTrcp (x : Args) (s : State) : Host.Outcome State Fault Refusal :=
  run (.one 0x8A#8 3#4 x) .tuna (tileUna 3 x) s

def execTrsq (x : Args) (s : State) : Host.Outcome State Fault Refusal :=
  run (.one 0x8A#8 4#4 x) .tunaz (tileUna 4 x) s

def execTexp2 (x : Args) (s : State) : Host.Outcome State Fault Refusal :=
  run (.one 0x8A#8 5#4 x) .tunaz (tileUna 5 x) s

def execTexp (x : Args) (s : State) : Host.Outcome State Fault Refusal :=
  run (.one 0x8A#8 6#4 x) .tunaz (tileUna 6 x) s

def execTlog2 (x : Args) (s : State) : Host.Outcome State Fault Refusal :=
  run (.one 0x8A#8 7#4 x) .tunaz (tileUna 7 x) s

def execTln (x : Args) (s : State) : Host.Outcome State Fault Refusal :=
  run (.one 0x8A#8 8#4 x) .tunaz (tileUna 8 x) s

def execTsin (x : Args) (s : State) : Host.Outcome State Fault Refusal :=
  run (.one 0x8A#8 9#4 x) .tunaz (tileUna 9 x) s

def execTcos (x : Args) (s : State) : Host.Outcome State Fault Refusal :=
  run (.one 0x8A#8 10#4 x) .tunaz (tileUna 10 x) s

def execTtanh (x : Args) (s : State) : Host.Outcome State Fault Refusal :=
  run (.one 0x8A#8 11#4 x) .tunaz (tileUna 11 x) s

def execTsigm (x : Args) (s : State) : Host.Outcome State Fault Refusal :=
  run (.one 0x8A#8 12#4 x) .tunaz (tileUna 12 x) s

def execTcmpEq (x : Args) (s : State) : Host.Outcome State Fault Refusal :=
  run (.one 0x8B#8 0#4 x) .tcmp (tileCmp 0 x) s

def execTcmpNe (x : Args) (s : State) : Host.Outcome State Fault Refusal :=
  run (.one 0x8B#8 1#4 x) .tcmp (tileCmp 1 x) s

def execTcmpLt (x : Args) (s : State) : Host.Outcome State Fault Refusal :=
  run (.one 0x8B#8 2#4 x) .tcmp (tileCmp 2 x) s

def execTcmpLe (x : Args) (s : State) : Host.Outcome State Fault Refusal :=
  run (.one 0x8B#8 3#4 x) .tcmp (tileCmp 3 x) s

def execTcmpGt (x : Args) (s : State) : Host.Outcome State Fault Refusal :=
  run (.one 0x8B#8 4#4 x) .tcmp (tileCmp 4 x) s

def execTcmpGe (x : Args) (s : State) : Host.Outcome State Fault Refusal :=
  run (.one 0x8B#8 5#4 x) .tcmp (tileCmp 5 x) s

def execTcmpUn (x : Args) (s : State) : Host.Outcome State Fault Refusal :=
  run (.one 0x8B#8 6#4 x) .tcmp (tileCmp 6 x) s

def execTcmul (x : Args) (s : State) : Host.Outcome State Fault Refusal :=
  run (.one 0x8C#8 0#4 x) .tcmp (tileCpx 0 x) s

def execTconj (x : Args) (s : State) : Host.Outcome State Fault Refusal :=
  run (.one 0x8C#8 1#4 x) .ttrn (tileConj x) s

def execTcmulc (x : Args) (s : State) : Host.Outcome State Fault Refusal :=
  run (.one 0x8C#8 2#4 x) .tcmp (tileCpx 2 x) s

def execTcvt (x : Args) (s : State) : Host.Outcome State Fault Refusal :=
  run (.one 0x8D#8 0#4 x) .tuna (tileCvt x) s

def execTcvtSc (x : Args) (s : State) : Host.Outcome State Fault Refusal :=
  run (.one 0x8D#8 1#4 x) .tscale (tileScale false x) s

def execTdq (x : Args) (s : State) : Host.Outcome State Fault Refusal :=
  run (.one 0x8D#8 2#4 x) .tscale (tileScale true x) s

def execTrsum (x : Args) (s : State) : Host.Outcome State Fault Refusal :=
  run (.one 0x8E#8 0#4 x) .trow (tileRows 0 x) s

def execTrmax (x : Args) (s : State) : Host.Outcome State Fault Refusal :=
  run (.one 0x8E#8 1#4 x) .trow (tileRows 1 x) s

def execTrmin (x : Args) (s : State) : Host.Outcome State Fault Refusal :=
  run (.one 0x8E#8 2#4 x) .trow (tileRows 2 x) s

def execTcsum (x : Args) (s : State) : Host.Outcome State Fault Refusal :=
  run (.one 0x8E#8 3#4 x) .tcol (tileCols 0 x) s

def execTcmax (x : Args) (s : State) : Host.Outcome State Fault Refusal :=
  run (.one 0x8E#8 4#4 x) .tcol (tileCols 1 x) s

def execTcmin (x : Args) (s : State) : Host.Outcome State Fault Refusal :=
  run (.one 0x8E#8 5#4 x) .tcol (tileCols 2 x) s

def execTscanAdd (x : Args) (s : State) : Host.Outcome State Fault Refusal :=
  run (.one 0x8F#8 0#4 x) .tscan (tileScan false x) s

def execTscanMax (x : Args) (s : State) : Host.Outcome State Fault Refusal :=
  run (.one 0x8F#8 1#4 x) .tscan (tileScan true x) s


end Sys2Proof.Machine
end

