-- ==== Sys2Proof/Machine/CartRun.lean ====
section
/-! DEFINITION. The copy engine (R233, R473, R475–R483, R486, R488, R502): how a Cart command starts, moves its data, signals and
fails. -/
namespace Sys2Proof.Machine

/-! Places. -/

/-- A place of a side of a command: a global address, a scratchpad offset of a logical core, or none. -/
inductive CLoc | va (a : Nat) | sc (l : Nat) (off : Int) | bad (a : Nat)
  deriving DecidableEq, Repr

/-- The place at byte offset `off` of a side (R475): `rank` where the side is a rank's scratchpad on this package. -/
def State.cartLoc (s : State) (c : Nat) (space : Nat) (base : Word) (rank : Option Nat) (off : Int) : CLoc :=
  if space = 1 then
    match rank with
    | some l => .sc l ((Word.bits base 0 22 : Nat) + off)
    | none =>
      match s.scratchAddr c base.toNat with
      | none => .bad base.toNat
      | some (l, o) => .sc l ((o : Int) + off)
  else .va ((base.toNat + off) % 2 ^ 64).toNat

/-- The address a fault record gives. -/
def CLoc.addr : CLoc → Word
  | .va a => BitVec.ofNat 64 a
  | .sc l off => BitVec.ofInt 64 ((l % 32 * 2 ^ 22 : Nat) + off)
  | .bad a => BitVec.ofNat 64 a

/-- Bytes from a place up to the end of its `u`-byte unit. -/
def CLoc.left (u : Nat) : CLoc → Nat
  | .va a => u - a % u
  | .sc _ off => u - (off % (u : Int)).toNat
  | .bad _ => u

/-- The physical place of `n` bytes of a scratchpad side. -/
def State.scPa (s : State) (c l : Nat) (off : Int) (n : Nat) : Option Nat := s.rankPa (s.job c).part l off n

/-- Reading `n` bytes inside one granule; none while another package has not answered. -/
def cartRead (who : Requester) (c : Nat) (floor : Know) (p : CLoc) (n : Nat) : Exec (Option (Except Cause (List Byte))) := do
  match p with
  | .va a => cmdRead who c floor (pieces 64 (n / 64 + 2) a n)
  | .bad _ => pure (some (.error 0x144#10))
  | .sc l off => do
    let s ← get
    match s.scPa c l off n with
    | none => pure (some (.error 0x144#10))
    | some pa => do
      match ← exitChecks (s.blocksOf pa n) with
      | some f => pure (some (.error f))
      | none => pure (some (.ok (s.bytes pa n)))

/-- Writing bytes inside one granule. -/
def cartWrite (who : Requester) (c : Nat) (p : CLoc) (data : List Byte) (poison : Option Cause) : Exec WriteState := do
  match p with
  | .va a => cmdWritePiece who c a data poison
  | .bad _ => pure (.failed 0x144#10)
  | .sc l off => do
    let s ← get
    match s.scPa c l off data.length with
    | none => pure (.failed 0x144#10)
    | some pa => do
      let merged ← physWrite pa data poison
      if merged then asyncRecord c 4 0 0x294#10 (.at p.addr) else pure ()
      pure (.done [])

/-! Carried blocks (R124, R278). -/

/-- The physical place of a whole block of a side inside the integrity domain that no integrity-checked range covers. -/
def carryPlace (c : Nat) (write : Bool) (p : CLoc) : Exec (Option (Except Cause Nat)) := do
  match p with
  | .bad _ => pure none
  | .sc l off => do
    let s ← get
    pure ((s.scPa c l off 256).map .ok)
  | .va a => do
    match ← translate c write write a with
    | .error f => pure (some (.error f))
    | .ok t => do
      let s ← get
      pure (if t.rtt.integ || s.place t.pa != .hbm || t.pa % 256 != 0 then none else some (.ok (s.home t.pa)))

/-! One piece of a move. -/

/-- What one piece of a command's work gives. -/
inductive CartStep
  | more (cmd : CartCmd)
  | waits (cmd : CartCmd)
  | ended (cmd : CartCmd)
  | fails (cmd : CartCmd) (cause : Cause) (addr : Word)
  deriving DecidableEq, Repr

/-- A failed block that the other blocks do not wait for: the first is kept (R126). -/
def CartCmd.spoil (cmd : CartCmd) (f : Cause) (addr : Word) (pos : Nat) : CartCmd :=
  if cmd.bad.isSome then cmd else { cmd with bad := some (f, addr, pos) }

/-- A failed check of a source block (R126). -/
def isCheck (f : Cause) : Bool := f == 0x290#10 || f == 0x291#10 || f == 0x292#10

/-- Moving the next bytes of a run of `len`, `sub` of which are done: a carried block, or bytes inside one granule of each side. -/
def movePiece (c : Nat) (cmd : CartCmd) (src dst : Nat → CLoc) (len pos : Nat) : Exec CartStep := do
  let who := Requester.cart c cmd.id
  let o := cmd.sub
  let a := src o
  let b := dst o
  let whole := decide (256 ≤ len - o) && a.left 256 == 256 && b.left 256 == 256
  let moved (n : Nat) (cmd : CartCmd) : CartCmd := { cmd with sub := o + n }
  let plain : Exec CartStep := do
    let n := min (len - o) (min (a.left 64) (b.left 64))
    match ← cartRead who c cmd.floor a n with
    | none => pure (.waits cmd)
    | some (.error f) =>
      if isCheck f then do
        clearWho who
        match ← cartWrite who c b (List.replicate n 0#8) (some f) with
        | .failed g => pure (.fails cmd g b.addr)
        | _ => pure (.more (moved n (cmd.spoil f a.addr pos)))
      else pure (.fails cmd f a.addr)
    | some (.ok bs) => do
      clearWho who
      match ← cartWrite who c b bs none with
      | .failed f => pure (.fails cmd f b.addr)
      | .sent => pure (.waits { cmd with sent := true })
      | .done gs => pure (.more (moved n { cmd with gs := gs ++ cmd.gs }))
  if whole then do
    match ← carryPlace c false a with
    | some (.error f) => pure (.fails cmd f a.addr)
    | none => plain
    | some (.ok pa) => do
      match ← carryPlace c true b with
      | some (.error f) => pure (.fails cmd f b.addr)
      | none => plain
      | some (.ok pb) => do
        carryBlock pb pa
        let s ← get
        pure (.more (moved 256 { cmd with gs := (range (pb / 64) 4).map (fun g => (g, s.granVer g)) ++ cmd.gs }))
  else plain

/-! Rows (R475, R479). -/

/-- The offset of row `r` on a side: dimension 0 is the row itself. -/
def rowOffset : Nat → List Nat → List Int → Int
  | r, e :: es, t :: ts => (r % e : Nat) * t + rowOffset (r / e) es ts
  | _, _, _ => 0

def CartRec.rows (r : CartRec) : Nat := (r.dims.drop 1).foldl (· * ·) 1
def CartRec.rowLen (r : CartRec) : Nat := r.e 0 * r.z

/-- The offsets of row `r` of a command whose index entry is `entry`. -/
def CartCmd.rowOffs (cmd : CartCmd) (r entry : Nat) : Int × Int :=
  let t := cmd.cr
  let s1 := t.sstr.getD 0 0
  let d1 := t.dstr.getD 0 0
  match cmd.opc with
  | 0xE2 => ((entry : Int) * s1, (r : Int) * d1)
  | 0xE3 => ((r : Int) * s1, (entry : Int) * d1)
  | 0xE5 => ((bitsAt entry 0 32 : Nat) * s1, (bitsAt entry 32 32 : Nat) * d1)
  | _ => (rowOffset r (t.dims.drop 1) t.sstr, rowOffset r (t.dims.drop 1) t.dstr)

/-- The index entry of row `r`, its limits checked (R479). -/
def readEntry (c : Nat) (cmd : CartCmd) (r : Nat) : Exec (Option (Except (Cause × Word) Nat)) := do
  let s ← get
  let n := if cmd.opc = 0xE5 then 8 else 4
  let ref := cmd.b
  let p := if Word.bit ref 63 && ! canonical ref.toNat then s.cartLoc c 1 (BitVec.ofNat 64 (Word.bits ref 0 63)) none (r * n : Nat)
           else s.cartLoc c 0 ref none (r * n : Nat)
  match ← cartRead (.cart c cmd.id) c cmd.floor p n with
  | none => pure none
  | some (.error f) => pure (some (.error (f, p.addr)))
  | some (.ok bs) => do
    clearWho (.cart c cmd.id)
    let v := leVal bs
    let ok := match cmd.opc with
      | 0xE2 => decide (v < cmd.cr.e 2)
      | 0xE3 => decide (v < cmd.cr.e 3)
      | _ => decide (bitsAt v 0 32 < cmd.cr.e 2) && decide (bitsAt v 32 32 < cmd.cr.e 3)
    pure (some (if ok then .ok v else .error (0x206#10, p.addr)))

/-- The element number a fault record gives: the entry of an indexed command, else the element of the row. -/
def CartCmd.pos (cmd : CartCmd) : Nat :=
  if isIndexed cmd.opc then cmd.done else cmd.done * cmd.cr.e 0 + cmd.sub / cmd.cr.z

/-! Combination (R480–R482). -/

/-- A destination element combined with a source element. -/
def redElem (op typ : Nat) (sat : Bool) (d s : Nat) : Nat :=
  match op with
  | 0 => binElem typ 0 0 sat d s
  | 1 => binElem typ 4 0 sat d s
  | 2 => binElem typ 5 0 sat d s
  | 3 => d &&& s
  | 4 => d ||| s
  | _ => d ^^^ s

/-- One read-modify-write of an element at its ordering point; a failed read half writes nothing (R309). -/
def combineAt (pa op typ : Nat) (sat : Bool) (v : Nat) : Exec (Option Cause) := do
  let s ← get
  let n := typBits typ / 8
  match ← exitChecks (s.blocksOf pa n) with
  | some f => pure (some f)
  | none => do
    let _ ← physWrite pa (leBytes n (redElem op typ sat (leVal (s.bytes pa n)) v)) none
    pure none

/-- The request that combines an element in another package's HBM: an ATREQ whose OP is the reduce operator with its TYPE (log 30). -/
def iredPayload (off op typ : Nat) (sat : Bool) (v : Nat) : List Byte :=
  leBytes 8 off ++ [BitVec.ofNat 8 (0x80 + op), BitVec.ofNat 8 (sat.toNat * 4)] ++ [BitVec.ofNat 8 typ] ++ leBytes 5 0 ++ leBytes 8 v ++ leBytes 8 0

/-- Combining the next element of a row. -/
def combinePiece (c : Nat) (cmd : CartCmd) (src dst : Nat → CLoc) (pos : Nat) : Exec CartStep := do
  let who := Requester.cart c cmd.id
  let z := cmd.cr.z
  let a := src cmd.sub
  let b := dst cmd.sub
  let sat := cmd.mod.getLsbD 3
  let next (cmd : CartCmd) : CartCmd := { cmd with sub := cmd.sub + z }
  match ← cartRead who c cmd.floor a z with
  | none => pure (.waits cmd)
  | some (.error f) => if isCheck f then pure (.more (next (cmd.spoil f a.addr pos))) else pure (.fails cmd f a.addr)
  | some (.ok bs) => do
    clearWho who
    let v := leVal bs
    let combine (pa : Nat) : Exec CartStep := do
      match ← combineAt pa cmd.cr.op cmd.cr.typ sat v with
      | some f => pure (.more (next (cmd.spoil f b.addr pos)))
      | none => do
        let s ← get
        let gs := if versioned pa then [(pa / 64, s.granVer (pa / 64))] else []
        pure (.more (next { cmd with gs := gs ++ cmd.gs }))
    match b with
    | .bad _ => pure (.fails cmd 0x144#10 b.addr)
    | .sc l off => do
      let s ← get
      match s.scPa c l off z with
      | none => pure (.fails cmd 0x144#10 b.addr)
      | some pa => combine pa
    | .va va => do
      match ← atomPlace c (BitVec.ofNat 64 va) with
      | .error f => pure (.fails cmd f b.addr)
      | .ok (.here pa) => combine pa
      | .ok (.far pkg off) => do
        let s ← get
        match ← sendRequest who (s.job c).part tyATREQ (s.partWorld (s.job c).part) pkg (iredPayload off cmd.cr.op cmd.cr.typ sat v) with
        | .error f => pure (.fails cmd f b.addr)
        | .ok _ => pure (.waits { cmd with sent := true })
      | .ok (.invalid f) => pure (.fails cmd f b.addr)

/-! Morton conversion (R478). -/

/-- The descriptor of the Morton image of a record. -/
def CartRec.image (r : CartRec) : Desc := ⟨r.e 0, r.e 1, true, true, r.typ, r.e 0 - 1, r.e 1 - 1, 0, 0⟩

/-- The row and the 64-byte column of a granule of the image. -/
def imageGranule (d : Desc) (g : Nat) : Nat × Nat :=
  let br := (d.rows + 7) / 8
  let bc := d.rowBytes / 64
  match (List.range (br * bc)).find? fun x => mortonRank br bc (x / bc) (x % bc) == g / 8 with
  | some x => (x / bc * 8 + g % 8, x % bc)
  | none => (0, 0)

/-- How many granules a CMORT moves: the whole image, or the linear rows. -/
def CartCmd.mortUnits (cmd : CartCmd) : Nat :=
  let d := cmd.cr.image
  let bc := d.rowBytes / 64
  if cmd.mod.getLsbD 0 then d.rows * bc else (d.rows + 7) / 8 * 8 * bc

/-- One granule of a CMORT. -/
def mortPiece (c : Nat) (cmd : CartCmd) : Exec CartStep := do
  let s ← get
  let who := Requester.cart c cmd.id
  let r := cmd.cr
  let d := r.image
  let bc := d.rowBytes / 64
  let rowLen := r.e 0 * typBits r.typ / 8
  let toLin := cmd.mod.getLsbD 0
  let (i, bj) := if toLin then (cmd.done / bc, cmd.done % bc) else imageGranule d cmd.done
  let n := if d.rows ≤ i then 0 else min 64 (rowLen - 64 * bj)
  let lin (str : Int) : Int := (i : Int) * str + (64 * bj : Nat)
  let a := if toLin then s.cartLoc c r.ssp r.src none (d.at i (64 * bj) : Nat) else s.cartLoc c r.ssp r.src none (lin (r.sstr.getD 0 0))
  let b := if toLin then s.cartLoc c r.dsp r.dst none (lin (r.dstr.getD 0 0)) else s.cartLoc c r.dsp r.dst none (64 * cmd.done : Nat)
  let pos := i * r.e 0 + bj * 512 / typBits r.typ
  let next (cmd : CartCmd) : CartCmd := { cmd with done := cmd.done + 1 }
  let got ← if n = 0 then pure (some (.ok [])) else cartRead who c cmd.floor a n
  let write (cmd : CartCmd) (bs : List Byte) (poison : Option Cause) : Exec CartStep := do
    clearWho who
    let data := if toLin then bs else bs ++ List.replicate (64 - bs.length) 0#8
    if data.isEmpty then pure (.more (next cmd))
    else
      match ← cartWrite who c b data poison with
      | .failed f => pure (.fails cmd f b.addr)
      | .sent => pure (.waits { cmd with sent := true })
      | .done gs => pure (.more (next { cmd with gs := gs ++ cmd.gs }))
  match got with
  | none => pure (.waits cmd)
  | some (.error f) => if isCheck f then write (cmd.spoil f a.addr pos) (List.replicate n 0#8) (some f) else pure (.fails cmd f a.addr)
  | some (.ok bs) => write cmd bs none

/-! ATOMN (R486). -/

def atomnPiece (c : Nat) (cmd : CartCmd) : Exec CartStep := do
  let w := cmd.mod.getLsbD 0
  let n := if w then 4 else 8
  match ← atomPlace c cmd.a with
  | .error f => pure (.fails cmd f cmd.a)
  | .ok (.invalid f) => pure (.fails cmd f cmd.a)
  | .ok (.here pa) => do
    match ← atomicAt pa n cmd.fn cmd.b 0#64 with
    | .error f => pure (.fails cmd f cmd.a)
    | .ok _ => do
      let s ← get
      pure (.ended { cmd with done := 1, gs := if versioned pa then [(pa / 64, s.granVer (pa / 64))] else [] })
  | .ok (.far pkg off) => do
    let s ← get
    match ← sendRequest (.cart c cmd.id) (s.job c).part tyATREQ (s.partWorld (s.job c).part) pkg (atreqPayload off cmd.fn w false cmd.b 0#64) with
    | .error f => pure (.fails cmd f cmd.a)
    | .ok _ => pure (.waits { cmd with sent := true })

/-! PUT and GET with another package (R488, R502). -/

/-- The pieces of the local side of a rank move: (element, offset on the rank side, local place, length). -/
def rankPieces (s : State) (c : Nat) (cmd : CartCmd) : List (Nat × Int × CLoc × Nat) :=
  let r := cmd.cr
  (List.range r.rows).flatMap fun row =>
    let (so, d0) := cmd.rowOffs row 0
    let put := cmd.opc == 0xE8
    let lo := if put then so else d0
    let ro := if put then d0 else so
    let base := if put then s.cartLoc c r.ssp r.src none lo else s.cartLoc c r.dsp r.dst none lo
    (pieces 64 (r.rowLen / 64 + 2) (match base with | .va a => a % 64 | .sc _ o => (o % 64).toNat | .bad _ => 0) r.rowLen).foldl
      (fun (acc : List (Nat × Int × CLoc × Nat) × Nat) p =>
        (acc.1 ++ [(row * r.e 0 + acc.2 / r.z, ro + (acc.2 : Nat),
          if put then s.cartLoc c r.ssp r.src none (lo + (acc.2 : Nat)) else s.cartLoc c r.dsp r.dst none (lo + (acc.2 : Nat)), p.2)],
          acc.2 + p.2)) ([], 0) |>.1

/-- Runs of bytes at consecutive offsets put together. -/
def joinRuns : List (Int × List Byte) → List (Int × List Byte)
  | (o, bs) :: rest =>
    match joinRuns rest with
    | (p, cs) :: more => if p = o + bs.length then (o, bs ++ cs) :: more else (o, bs) :: (p, cs) :: more
    | [] => [(o, bs)]
  | [] => []

/-- Reading all that a PUT sends; a failed block is left out (R126). None while a read waits. -/
def putData (c : Nat) : CartCmd → List (Nat × Int × CLoc × Nat) → Exec (Option (Except (Cause × Word) (CartCmd × List (Int × List Byte))))
  | cmd, [] => pure (some (.ok (cmd, [])))
  | cmd, (pos, ro, p, n) :: rest => do
    match ← cartRead (.cart c cmd.id) c cmd.floor p n with
    | none => pure none
    | some (.error f) => if isCheck f then putData c (cmd.spoil f p.addr pos) rest else pure (some (.error (f, p.addr)))
    | some (.ok bs) => do
      match ← putData c cmd rest with
      | some (.ok (cmd, more)) => pure (some (.ok (cmd, (ro, bs) :: more)))
      | x => pure x

/-- Sending one DATA message for each run, or one header for each run of a GET. -/
def sendRuns (c : Nat) (cmd : CartCmd) (pkg : Nat) : List (Int × List Byte) → Exec (Option Cause)
  | [] => pure none
  | (off, bs) :: rest => do
    let s ← get
    let k := (s.job c).part
    let rank := cmd.b.toNat
    let base := (Word.bits (if cmd.opc = 0xE8 then cmd.cr.dst else cmd.cr.src) 0 22 : Nat)
    let o := (base : Int) + off
    if o < 0 ∨ 4194304 < o + bs.length then pure (some 0x144#10)
    else do
      match ← sendToRank (.cart c cmd.id) k tyDATA pkg rank fun tag =>
          transferHeader (s.fpid k) rank o.toNat bs.length tag ++ (if cmd.opc = 0xE8 then bs else []) with
      | .error f => pure (some f)
      | .ok _ => sendRuns c cmd pkg rest

/-- The messages of a PUT or GET to another package. -/
def rankSend (c : Nat) (cmd : CartCmd) (pkg : Nat) : Exec CartStep := do
  let s ← get
  let ps := rankPieces s c cmd
  let finish (cmd : CartCmd) (runs : List (Int × List Byte)) : Exec CartStep := do
    match ← sendRuns c cmd pkg (joinRuns runs) with
    | some f => pure (.fails cmd f (if cmd.opc = 0xE8 then cmd.cr.dst else cmd.cr.src))
    | none => pure (.waits { cmd with sent := true })
  if cmd.opc = 0xE8 then do
    match ← putData c cmd ps with
    | none => pure (.waits cmd)
    | some (.error (f, a)) => pure (.fails cmd f a)
    | some (.ok (cmd, runs)) => do
      clearWho (.cart c cmd.id)
      finish cmd runs
  else finish cmd (ps.map fun p => (p.2.1, List.replicate p.2.2.2 0#8))

/-- The bytes that the answers of a GET hold for an offset of the rank's scratchpad. -/
def getBytes (s : State) (c : Nat) (cmd : CartCmd) (off : Int) (n : Nat) : List Byte :=
  let o := ((Word.bits cmd.cr.src 0 22 : Nat) : Int) + off
  let rs := s.remotes.filterMap fun e =>
    if e.2.who == .cart c cmd.id then e.2.answer.map fun a => (leVal ((e.2.msg.payload.drop 8).take 8), a.2) else none
  let a := o.toNat
  (List.range n).map fun i =>
    match rs.find? fun r => decide (r.1 ≤ a + i) && decide (a + i < r.1 + r.2.length) with
    | some r => r.2.getD (a + i - r.1) 0#8
    | none => 0#8

/-- Writing the data of a GET where the record puts it. -/
def getWrite (c : Nat) : CartCmd → List (Nat × Int × CLoc × Nat) → Exec CartStep
  | cmd, [] => pure (.more cmd)
  | cmd, (_, ro, p, n) :: rest => do
    let s ← get
    match ← cartWrite (.cart c cmd.id) c p (getBytes s c cmd ro n) none with
    | .failed f => pure (.fails cmd f p.addr)
    | .sent => do
      let r ← getWrite c { cmd with sub := 1 } rest
      pure r
    | .done gs => getWrite c { cmd with gs := gs ++ cmd.gs } rest

/-! The steps of a command. -/

/-- Whether a command moves data with a rank on another package. -/
def CartCmd.farRank (cmd : CartCmd) (s : State) : Option Nat :=
  match cmd.dest with
  | some (p, _) => if p = s.pkg then none else some p
  | none => none

/-- One piece of a started command that has nothing outstanding. -/
def cartPiece (c : Nat) (cmd : CartCmd) : Exec CartStep := do
  let s ← get
  match cmd.farRank s with
  | some pkg => rankSend c cmd pkg
  | none =>
    let r := cmd.cr
    if cmd.opc = 0xE6 then (if cmd.done = 1 then pure (.ended cmd) else atomnPiece c cmd)
    else if cmd.opc = 0xE1 then (if cmd.mortUnits ≤ cmd.done then pure (.ended cmd) else mortPiece c cmd)
    else if r.rows ≤ cmd.done then pure (.ended cmd)
    else if r.rowLen ≤ cmd.sub then pure (.more { cmd with done := cmd.done + 1, sub := 0, entry := none })
    else do
      let lrank := cmd.dest.map (·.2)
      let run (entry : Nat) (cmd : CartCmd) : Exec CartStep := do
        let (so, d0) := cmd.rowOffs cmd.done entry
        let src (o : Nat) : CLoc := s.cartLoc c r.ssp r.src (if cmd.opc = 0xE9 then lrank else none) (so + (o : Nat))
        let dst (o : Nat) : CLoc := s.cartLoc c r.dsp r.dst (if cmd.opc = 0xE8 then lrank else none) (d0 + (o : Nat))
        if cmd.opc = 0xE4 ∨ cmd.opc = 0xE5 then combinePiece c cmd src dst cmd.pos
        else movePiece c cmd src dst r.rowLen cmd.pos
      if isIndexed cmd.opc then
        match cmd.entry with
        | some e => run e cmd
        | none => do
          match ← readEntry c cmd cmd.done with
          | none => pure (.waits cmd)
          | some (.error (f, a)) => pure (.fails cmd f a)
          | some (.ok e) => run e { cmd with entry := some e }
      else run 0 cmd

/-- What follows once another package has accepted what a command sent, or answered with its data. -/
def cartAnswered (c : Nat) (cmd : CartCmd) : Exec CartStep := do
  let s ← get
  let who := Requester.cart c cmd.id
  let cmd0 := { cmd with sent := false }
  match s.failedAnswer who with
  | some f => do
    clearWho who
    pure (.fails cmd f cmd.cr.dst)
  | none =>
    match cmd.farRank s with
    | some _ =>
      if cmd.opc = 0xE9 ∧ cmd.sub = 0 then do
        let r ← getWrite c cmd (rankPieces s c cmd)
        modify fun t => { t with remotes := t.remotes.filter fun e => ! (e.2.who == who && e.2.msg.typ == tyDATA) }
        match r with
        | .more x => if x.sub = 0 then pure (.ended x) else pure (.waits x)
        | x => pure x
      else do
        clearWho who
        pure (.ended cmd)
    | none => do
      clearWho who
      if cmd.opc = 0xE6 then pure (.ended { cmd0 with done := 1 })
      else if cmd.opc = 0xE1 then pure (.more { cmd0 with done := cmd.done + 1 })
      else
        let r := cmd.cr
        let (so, d0) := cmd.rowOffs cmd.done (cmd.entry.getD 0)
        let lrank := cmd.dest.map (·.2)
        let a := s.cartLoc c r.ssp r.src (if cmd.opc = 0xE9 then lrank else none) (so + (cmd.sub : Nat))
        let b := s.cartLoc c r.dsp r.dst (if cmd.opc = 0xE8 then lrank else none) (d0 + (cmd.sub : Nat))
        let n := if cmd.opc = 0xE5 then r.z else min (r.rowLen - cmd.sub) (min (a.left 64) (b.left 64))
        pure (.more { cmd0 with sub := cmd.sub + n })

/-- One step of a started command. -/
def cartStep (c : Nat) (cmd : CartCmd) : Exec CartStep := do
  let s ← get
  let who := Requester.cart c cmd.id
  if s.awaiting who then pure (.waits cmd)
  else if cmd.sent then cartAnswered c cmd
  else cartPiece c cmd

/-- Steps of a command until it ends, waits or `n` are done; a step that fails is not taken. -/
def cartSteps (c : Nat) : Nat → CartCmd → Exec CartStep
  | 0, cmd => pure (.more cmd)
  | n + 1, cmd => fun s =>
    match cartStep c cmd s with
    | .ok (.more x) t => cartSteps c n x t
    | .ok (.fails _ _ _) _ => .ok (.more cmd) s
    | r => r

/-- The bytes a byte-count command adds (R356, R478, R481, R482). -/
def CartCmd.total (cmd : CartCmd) : Nat :=
  let r := cmd.cr
  match cmd.opc with
  | 0xE6 => cmd.cl.sinc
  | 0xE1 =>
    if cmd.mod.getLsbD 0 then r.e 1 * (r.e 0 * typBits r.typ / 8)
    else (r.image.rows + 7) / 8 * 8 * r.image.rowBytes
  | _ => r.count * r.z

/-! Events. -/

def setCart (c : Nat) (store : Bool) (cmd : CartCmd) : Exec Unit :=
  updJob c fun j => j.setCartQ store ((j.cartQ store).map fun q => if q.id = cmd.id then cmd else q)

def dropCart (c : Nat) (store : Bool) (id : Nat) : Exec Unit := do
  let j ← getJob c
  updJob c fun j => j.setCartQ store ((j.cartQ store).filter fun q => q.id != id)
  custody j.part (128 + c) 0 1

def cartInfo (cmd : CartCmd) (addr : Word) (pos : Nat) : FInfo :=
  { FInfo.plain with addr := addr, pos := pos, counter := counterCode cmd.cl.sig,
                     aux := match cmd.cl.sig with | some (.mem r) => r | _ => 0#64 }

/-- A failure of a started command (R483). -/
def failCart (c : Nat) (store : Bool) (cmd : CartCmd) (f : Cause) (addr : Word) (pos : Nat) : Exec Unit := do
  clearWho (.cart c cmd.id)
  dropCart c store cmd.id
  let source := if store then 5 else 4
  signalPoison c cmd.cl f
  if f = 0x140#10 ∨ f = 0x141#10 then fatalOn c source cmd.pc f (cartInfo cmd addr pos)
  else asyncRecord c source cmd.pc f (cartInfo cmd addr pos)

/-- The first unstarted command of a queue: it may start once all before it have started (R233). -/
def firstUnstarted (q : List CartCmd) : Option CartCmd := q.find? fun x => ! x.started

/-- CART_COMMAND_START (R233, R302, R312, R488). -/
def cartStart (c : Nat) (store : Bool) : Exec Unit := do
  let s ← get
  let j := s.job c
  require j.live
  match firstUnstarted (j.cartQ store) with
  | none => halt
  | some cmd => do
    match ← waitState (.cart c cmd.id) c cmd.cl with
    | .unmet => pure ()
    | .poisoned f => do
      dropCart c store cmd.id
      signalPoison c cmd.cl f
    | .met rels => do
      let t ← get
      let floor := if cmd.cl.acq then cmd.floor.join (gainOf 3 (t.party (.stream c .A)) rels) else cmd.floor
      let cmd := { cmd with started := true, floor := floor }
      if cmd.opc = 0xE8 ∨ cmd.opc = 0xE9 then do
        match ← if cmd.b.toNat < 65536 then resolveRank j.part cmd.b.toNat else pure (.error 0x246#10) with
        | .error f => failCart c store cmd f (if cmd.opc = 0xE8 then cmd.cr.dst else cmd.cr.src) 0
        | .ok place => do
          let cmd := { cmd with dest := some place }
          let u ← get
          match cmd.farRank u with
          | none => setCart c store cmd
          | some pkg => do
            match ← rankSend c cmd pkg with
            | .more x => setCart c store x
            | .waits x => setCart c store x
            | .ended x => setCart c store x
            | .fails x f a => failCart c store x f a x.pos
      else setCart c store cmd

def execCartCommandStart (c : Nat) (store : Bool) (s : State) : Host.Outcome State Fault Refusal := runExec (cartStart c store) s

/-- CART_COMMAND_COMPLETE: the command at the head of a queue does up to `n` further pieces of its work; once all are accepted
its signal makes its add (R473). A piece that fails is left to CART_COMMAND_FAIL. -/
def cartComplete (c : Nat) (store : Bool) (n : Nat) : Exec Unit := do
  let j ← getJob c
  require j.live
  match j.cartQ store with
  | [] => halt
  | cmd :: _ => do
    require cmd.started
    match ← cartSteps c (n + 1) cmd with
    | .more x => setCart c store x
    | .waits x => setCart c store x
    | .fails x _ _ => setCart c store x
    | .ended x => do
      dropCart c store x.id
      match x.bad with
      | some (f, addr, pos) => do
        signalPoison c x.cl f
        asyncRecord c (if store then 5 else 4) x.pc f (cartInfo x addr pos)
      | none => signalDone c x.cl x.total x.gs

def execCartCommandComplete (c : Nat) (store : Bool) (n : Nat) (s : State) : Host.Outcome State Fault Refusal :=
  runExec (cartComplete c store n) s

/-- CART_COMMAND_FAIL: the next piece of the command at the head of a queue fails, and the command stops there (R483). Where that
piece does not fail, nothing happens. -/
def cartFail (c : Nat) (store : Bool) : Exec Unit := fun s =>
  match (s.job c).cartQ store with
  | [] => .error .done s
  | cmd :: _ =>
    if ! (s.job c).live || ! cmd.started then .error .done s
    else
      match cartStep c cmd s with
      | .ok (.fails x f a) t => failCart c store x f a x.pos t
      | _ => .error .done s

def execCartCommandFail (c : Nat) (store : Bool) (s : State) : Host.Outcome State Fault Refusal := runExec (cartFail c store) s

end Sys2Proof.Machine
end

