-- ==== Sys2Proof/Machine/Engine.lean ====
section
/-! DEFINITION. How M and F commands run (R440–R443, R458–R460): stamps and waits, operands, issue, the rows a command writes, and
its completion. -/
namespace Sys2Proof.Machine

/-! Operands (R440, R470). Causes of ports and channels come first, the causes of the tiles after all operands. -/

/-- A tile source at its turn; a code of 0 is no operand. -/
def mfSrc (which : Nat) (code : BitVec 8) : Exec Src := do
  match Sel.ofCode code with
  | .t n => do let j ← curJob; pure (.store (j.tdesc n))
  | .q n => do
    let t ← popChan which n true
    let j ← curJob
    pure (.store (j.tdesc t.toNat))
  | .p n => portTile which n false
  | .pk n => portTile which n true
  | _ => pure (.scalar 0#64)

/-- The port of a command's destination. -/
def MfOp.port : MfOp → Option (Nat × Pattern × Nat)
  | .accst _ p _ _ _ _ => p
  | .leggen _ _ _ p _ _ => p
  | .ftwm _ _ p _ _ _ _ => p
  | _ => none

def Job.queueOf (j : Job) (e : Eng) : List MfCmd := if e = .M then j.mcmds else j.fcmds
def Job.setQueueOf (j : Job) (e : Eng) (q : List MfCmd) : Job := if e = .M then { j with mcmds := q } else { j with fcmds := q }

/-- The tile destination at its turn. A port moves on when the command that pushes to it completes, so a later command of the
stream that pushes to it waits for that. -/
def mfDst (x : Args) : Exec Dst := do
  let j ← curJob
  match Sel.ofCode x.d with
  | .t n => pure (.store n (j.tdesc n) none)
  | .q n => pure (.store x.ht (j.tdesc x.ht) (some n))
  | .p n => do
    if (j.mcmds ++ j.fcmds).any fun m => m.op.port.any fun p => p.1 == n then block .engine
    else
      match ← findOpnd 0 with
      | some o => pure (.port n (j.port n).pat o.value.toNat)
      | none => do
        let p ← boundPort n
        let _ ← portChecks 0 n p true true
        setOpnd ⟨0, true, n, BitVec.ofNat 64 p.pos⟩
        pure (.port n p.pat p.pos)
  | _ => pure (.store 0 (j.tdesc 0) none)

/-- Cause 0x080 for the first of several tiles that is not configured. -/
def needValid (ds : List (Nat × Desc)) : Exec Unit :=
  match ds.find? fun e => ! e.2.v with
  | some (w, _) => trapWith 0x080#10 { FInfo.plain with opnd := w }
  | none => pure ()

/-- A port's tile as the command holds it: global elements are published memory at or above the floor (R302), read at issue; a
scratchpad tile is read when the command runs. -/
def capture (floor : Know) (src : Src) : Exec TileRef := do
  match src with
  | .scalar _ => pure (.data src.desc [])
  | .store d => pure (.store d)
  | .port n p pos which =>
    if p.count ≤ pos then pure (.data p.desc [])
    else do
      let i := { FInfo.plain with port := some n, opnd := which, pos := pos }
      match p.addr pos with
      | none => trapWith 0x144#10 { i with addr := BitVec.ofNat 64 p.base }
      | some a =>
        let len := (p.tcols * typBits p.typ + 7) / 8
        if p.scratch then do
          checkPieces i true a ((List.range p.trows).map fun r => ((r * p.tpitch : Nat), len))
          pure (.scratch p pos)
        else do
          let s ← get
          let who := Requester.hart (agentNo s.cur)
          let rows ← mapE (List.range p.trows) fun r => do
            let va := (a + r * p.tpitch) % 2 ^ 64
            match ← cmdRead who s.cur.coreNo floor (pieces 64 (len / 64 + 2) va len) with
            | none => block .memWait
            | some (.error f) => do
              clearWho who
              trapWith f { i with addr := BitVec.ofNat 64 va }
            | some (.ok bs) => pure (elemsOf (typBits p.typ) p.tcols bs)
          clearWho who
          pure (.data p.desc rows)

/-! Stamps and waits. -/

/-- DVFS_STAT.LOCKED of a core's cluster (R33). -/
def State.locked (s : State) (c : Nat) : Bool := s.flag Reg.dvfsStat (8 * (c / 32) + 7)

/-- What a command uses: the array, the accumulator port or the transform pipeline, and a bank (R459). -/
inductive MfUnit | array | port | fpipe
  deriving DecidableEq, Repr

/-- The first cycle at which a command's unit and bank are free. -/
def Units.free (u : Units) (m : MfUnit) (bank : Option Nat) : Nat :=
  max (match m with | .array => u.array | .port => u.port | .fpipe => u.fpipe)
    (match bank with | none => 0 | some 0 => u.bank0 | some _ => u.bank1)

def Units.next (u : Units) (m : MfUnit) : Nat := if m = .fpipe then u.fNext else u.mNext

/-- A timed command at its cycle: what would wait is a schedule miss instead, and nothing is popped (R267, R440). -/
def orMiss (x : Exec Unit) : Exec Unit := fun s =>
  match x s with
  | .ok _ t => .ok () t
  | .error e t => if (t.hart t.cur).blocked = .none then .error e t else trap 0x180#10 s

/-- Timed issue (R266, R267, R460): causes 0x181, 0x182 and 0x180, and the wait for the stamp. CONTINUE has granted a command that
goes on without it (R264). -/
def stampGate (c : CArgs) (m : MfUnit) (bank : Option Nat) (go : Exec Unit) : Exec Unit := do
  let s ← get
  let h := s.hart s.cur
  let j := s.job s.cur.coreNo
  match c.stamp with
  | none => go
  | some p => do
    updJob s.cur.coreNo fun j => { j with timed := true }
    let st := p.s.toNat
    if h.grant then go
    else if ! s.locked s.cur.coreNo then trap 0x181#10
    else if st < j.j ∨ (st = j.j ∧ j.j < j.units.next m) then trap 0x182#10
    else if j.j < st then blockAt .stamp ⟨.core 0, false, st, none⟩
    else if j.j < j.units.free m bank then trap 0x180#10
    else do
      updHart fun h => { h with blocked := .none, wait := none }
      orMiss go


/-- The wait clause (R312, R354, R356). A command that has popped operands has passed it. What follows gets the floor of the
command's reads (R302). -/
def waitClause (c : CArgs) (go : Clauses → Know → Exec Unit) : Exec Unit := do
  let s ← get
  let h := s.hart s.cur
  let cl := clausesOf h c.ext
  let n := s.cur.coreNo
  let floor (rels : List Rel) : Know :=
    (if cl.acq then gainOf 3 (s.party s.cur) rels else Know.zero).join ⟨s.gseq, []⟩
  match ← badRef n cl with
  | some ref => do
    dropCommand n (agentNo s.cur % 8) h.pc cl ref
    retire (cmdSlots c)
  | none => do
    match ← waitState (.hart (agentNo s.cur)) n cl with
    | .met rels => go cl (floor rels)
    | .poisoned f =>
      if h.restartHere.opnds.isEmpty then do
        signalPoison n cl f
        retire (cmdSlots c)
      else go cl (floor [])
    | .unmet =>
      if h.restartHere.opnds.isEmpty then
        (match cl.wait with
          | some r => blockAt (.cmdWait (match r with | .core _ => true | .mem _ => false)) ⟨r, false, cl.thr, none⟩
          | none => go cl (floor []))
      else go cl (floor [])

/-- Steps 3 and 4 of R440, and what follows. -/
def mfCommand (c : CArgs) (m : MfUnit) (bank : Option Nat) (go : Clauses → Know → Exec Unit) : Exec Unit :=
  stampGate c m bank (waitClause c go)

/-! Issue. -/

/-- The cycles of R459, from the command's start. -/
structure Timing where
  unit : MfUnit
  bank : Option Nat
  busy : Nat
  bankUse : Nat
  visible : Nat
  deriving DecidableEq, Repr

/-- The units with a command that starts at cycle `t`. -/
def Units.use (u : Units) (tm : Timing) (j t : Nat) : Units :=
  let u := match tm.unit with
    | .array => { u with array := t + tm.busy, mNext := j + 1 }
    | .port => { u with port := t + tm.busy, mNext := j + 1 }
    | .fpipe => { u with fpipe := t + tm.busy, fNext := j + 1 }
  match tm.bank with
  | none => u
  | some 0 => { u with bank0 := t + tm.bankUse }
  | some _ => { u with bank1 := t + tm.bankUse }

def MfUnit.eng (m : MfUnit) : Eng := if m = .fpipe then .F else .M

/-- Whether the table of R459 fixes when a command's result is visible: not where it waits for acceptance, for its partner or for
room in a channel. -/
def MfCmd.fixedTime (m : MfCmd) : Bool :=
  m.push.isNone && (match m.op with
    | .accstg _ _ _ _ _ _ _ _ _ _ => false
    | .mma _ _ _ pair _ _ _ _ _ _ => ! pair
    | _ => m.op.port.isNone)

/-- A command enters its engine on core `c`. -/
def enterEngine (c : Nat) (tm : Timing) (cmd : MfCmd) : Exec Unit := do
  let s ← get
  let j := s.job c
  let start := max j.j (max (j.units.next tm.unit) (j.units.free tm.unit tm.bank))
  let cmd := { cmd with visible := start + tm.visible, exact := s.locked c && cmd.fixedTime }
  let e := tm.unit.eng
  updJob c fun j => { (j.setQueueOf e (j.queueOf e ++ [cmd])) with units := j.units.use tm j.j start }

/-- The handle a command pushes at its end. -/
def Dst.pushOf : Dst → Option (Nat × Nat)
  | .store t _ (some n) => some (n, t)
  | _ => none

def Dst.portOf : Dst → Option (Nat × Pattern × Nat)
  | .port n p pos => some (n, p, pos)
  | _ => none

/-- A command before its issue. -/
def newCmd (h : Hart) (cl : Clauses) (op : MfOp) (units ckind : Nat) (push : Option (Nat × Nat)) : MfCmd :=
  { op := op, cursor := 0, units := units, ckind := ckind, cl := cl, pc := h.pc, push := push, visible := 0, exact := false,
    gs := [] }

/-- The executing stream issues a command and goes on. -/
def issueMf (c : CArgs) (tm : Timing) (cl : Clauses) (op : MfOp) (units ckind : Nat) (push : Option (Nat × Nat)) : Exec Unit := do
  let s ← get
  enterEngine s.cur.coreNo tm (newCmd (s.hart s.cur) cl op units ckind push)
  retire (cmdSlots c)

/-! Running. -/

def TileRef.desc : TileRef → Desc
  | .store d => d
  | .data d _ => d
  | .scratch p _ => p.desc

/-- The elements of a tile operand, row by row, or the cause of a failed read. -/
def TileRef.elems (c : Nat) (r : TileRef) : Exec (Except Cause (List (List Nat))) := do
  match r with
  | .store d => do
    let j ← getJob c
    pure (.ok ((List.range d.rows).map (j.tstore.row d)))
  | .data d rows => pure (.ok ((List.range d.rows).map fun i => rows.getD i (List.replicate d.cols 0)))
  | .scratch p pos =>
    let len := (p.tcols * typBits p.typ + 7) / 8
    let rec go : List Nat → Exec (Except Cause (List (List Nat)))
      | [] => pure (.ok [])
      | i :: is => do
        let s ← get
        match (p.addr pos).bind fun a => s.scratchAddr c (a + i * p.tpitch) with
        | none => pure (.error 0x144#10)
        | some (l, off) => do
          let pa := s.scratchPa (s.job c).part l off
          match ← exitChecks (s.blocksOf pa len) with
          | some f => pure (.error f)
          | none => do
            match ← go is with
            | .error f => pure (.error f)
            | .ok rest => pure (.ok (elemsOf (typBits p.typ) p.tcols (s.bytes pa len) :: rest))
    go (List.range p.trows)

/-- The elements of several operands. -/
def elemsAll (c : Nat) : List TileRef → Exec (Except Cause (List (List (List Nat))))
  | [] => pure (.ok [])
  | r :: rs => do
    match ← r.elems c with
    | .error f => pure (.error f)
    | .ok m => do
      match ← elemsAll c rs with
      | .error f => pure (.error f)
      | .ok ms => pure (.ok (m :: ms))

/-- Writing the pieces of a row to global memory: the granules written here, and whether some went to another package. -/
def writeGranules (who : Requester) (c : Nat) : List (Nat × List Byte) → Exec (Except (Cause × Word) (List (Nat × Nat) × Bool))
  | [] => pure (.ok ([], false))
  | (va, bs) :: ps => do
    match ← cmdWritePiece who c va bs none with
    | .failed f => pure (.error (f, BitVec.ofNat 64 va))
    | .sent => do
      match ← writeGranules who c ps with
      | .error f => pure (.error f)
      | .ok (gs, _) => pure (.ok (gs, true))
    | .done g => do
      match ← writeGranules who c ps with
      | .error f => pure (.error f)
      | .ok (gs, far) => pure (.ok (g ++ gs, far))

/-- The first failing translation of a row, with its address. -/
def checkGranules (c : Nat) : List (Nat × List Byte) → Exec (Option (Cause × Word))
  | [] => pure none
  | (va, _) :: ps => do
    match ← translate c true false va with
    | .error f => pure (some (f, BitVec.ofNat 64 va))
    | .ok _ => checkGranules c ps

/-- A row of bytes written by a command at `off` from address `a` (R458): all of it or, where it fails, none. -/
def memRow (who : Requester) (c : Nat) (sp : Bool) (a : Nat) (off : Int) (data : List Byte) : Exec (Except (Cause × Word) (List (Nat × Nat) × Bool)) := do
  let s ← get
  if sp then do
    let o : Int := (a % 4194304 : Nat) + off
    if o < 0 ∨ 4194304 < o + data.length then pure (.error (0x144#10, BitVec.ofInt 64 (a + off)))
    else
      match s.scratchAddr c (a / 4194304 * 4194304 + o.toNat) with
      | none => pure (.error (0x144#10, BitVec.ofInt 64 (a + off)))
      | some (l, o) => do
        let merged ← physWrite (s.scratchPa (s.job c).part l o) data none
        if merged then asyncRecord c (match who with | .engine _ e => e | _ => 4) 0 0x294#10 (.at (BitVec.ofNat 64 a)) else pure ()
        pure (.ok ([], false))
  else do
    let va := ((a + off) % 2 ^ 64).toNat
    let ps := (pieces 64 (data.length / 64 + 2) va data.length).map fun p => (p.1, (data.drop (p.1 - va)).take p.2)
    match ← checkGranules c ps with
    | some f => pure (.error f)
    | none => writeGranules who c ps

/-- A row of a command's tile destination: of the tile store, or of a port's tile. -/
def tileRow (who : Requester) (c : Nat) (d : Desc) (port : Option (Nat × Pattern × Nat)) (i : Nat) (es : List Nat) :
    Exec (Except (Cause × Word) (List (Nat × Nat) × Bool)) := do
  match port with
  | none => do
    updJob c fun j => { j with tstore := j.tstore.setRow d i (es.map some) }
    pure (.ok ([], false))
  | some (_, p, pos) =>
    if p.count ≤ pos then pure (.ok ([], false))
    else
      match p.addr pos with
      | none => pure (.error (0x144#10, BitVec.ofNat 64 p.base))
      | some a =>
        let b := typBits p.typ
        memRow who c p.scratch a (i * p.tpitch : Nat) (layElems b (List.replicate ((p.tcols * b + 7) / 8) 0#8) ((es.take p.tcols).map some))

/-- How far a run of a command came: to its new cursor, to a row that waits for its remote acceptance, or to a failure
with the failing address, 0 where it has none. -/
inductive Progress | upTo (cmd : MfCmd) | waits (cmd : MfCmd) | fails (cmd : MfCmd) (cause : Cause) (addr : Word)
  deriving DecidableEq, Repr

/-- Rows from the cursor on, at most `n`. -/
def runRowsOf (row : Nat → Exec (Except (Cause × Word) (List (Nat × Nat) × Bool))) : Nat → MfCmd → Exec Progress
  | 0, cmd => pure (.upTo cmd)
  | n + 1, cmd => do
    match ← row cmd.cursor with
    | .error (f, a) => pure (.fails cmd f a)
    | .ok (gs, far) =>
      let cmd := { cmd with gs := cmd.gs ++ gs }
      if far then pure (.waits cmd) else runRowsOf row n { cmd with cursor := cmd.cursor + 1 }

/-! Banks (R444). -/

def Job.bank (j : Job) (b : Nat) : Store := if b = 0 then j.c0 else j.c1
def Job.setBank (j : Job) (b : Nat) (t : Store) : Job := if b = 0 then { j with c0 := t } else { j with c1 := t }

/-- Element (i, j) of a bank in elements of `w` bytes. -/
def Store.acc (t : Store) (w i j : Nat) : Nat := leVal ((range (1536 * i + w * j) w).map t.byte)

def Store.putAll (t : Store) : Nat → List Byte → Store
  | _, [] => t
  | a, b :: bs => (t.put a b).putAll (a + 1) bs

def Store.setAcc (t : Store) (w i j v : Nat) : Store := t.putAll (1536 * i + w * j) (leBytes w v)

/-- The element type of an accumulator format: F32, F64, I32 (R444). -/
def accType (af : Nat) : Nat := if af = 0 then 1 else if af = 1 then 0 else 0x0D

/-- Row `i` of a bank, `n` elements converted to type `t` (R455). -/
def Store.accRow (b : Store) (af t rm : Nat) (sat : Bool) (i n : Nat) : List Nat :=
  (List.range n).map fun j => cvtElem (accType af) t rm sat (b.acc (typBits (accType af) / 8) i j)

/-- A row of the memory image of an ACCSTG. -/
def accBytes (t : Nat) (es : List Nat) : List Byte :=
  layElems (typBits t) (List.replicate ((es.length * typBits t + 7) / 8) 0#8) (es.map some)

end Sys2Proof.Machine
end

