-- ==== Sys2Proof/Machine/Matrix.lean ====
section
/-! DEFINITION. The M engine: MMA with scales and pairs, and the accumulator commands (R444–R458). -/
namespace Sys2Proof.Machine

/-! Arithmetic (R331–R334, R449). -/

/-- The element types of an MMA's A and B (R447). -/
def mmaTypes (opc t : Nat) : Bool :=
  match opc with
  | 0xC0 => t == 4 || t == 5
  | 0xC1 => t == 6 || t == 7
  | 0xC2 => t == 8
  | 0xC3 => t == 2
  | 0xC4 => t == 3
  | 0xC5 => t == 1
  | 0xC6 => t == 0
  | _ => t == 0x0B || t == 0x10

/-- The chunk width, which is also the restart unit (R333, R443). -/
def mmaChunk (opc : Nat) : Nat := if opc = 0xC3 ∨ opc = 0xC4 then 16 else 32

/-- The type of an MMA's accumulator (R447). -/
def mmaAccType (opc : Nat) : Nat := if opc = 0xC6 then 0 else if opc = 0xC7 then 0x0D else 1

/-- The array cycles O of an MMA (R459). -/
def mmaCycles (opc k : Nat) : Nat :=
  match opc with
  | 0xC1 => (k + 1) / 2
  | 0xC2 => (k + 1) / 2
  | 0xC3 => 2 * k
  | 0xC4 => 2 * k
  | 0xC5 => 4 * k
  | 0xC6 => 8 * k
  | _ => k

/-- The exact scaled product of R332. -/
def scaledProduct (sa a b sb : FV) : FV := FV.mul (FV.mul (FV.mul sa a) b) sb

/-- The chunks of R333 from product `k0` up to `k1`: each an exact sum, added with one rounding. -/
def chunkSums (w k1 : Nat) (p : Nat → FV) : Nat → Nat → Nat → Nat
  | 0, _, c => c
  | fuel + 1, k0, c =>
    if k1 ≤ k0 then c
    else
      let hi := min k1 (k0 + w)
      let s := FV.sum false ((range k0 (hi - k0)).map p)
      chunkSums w k1 p fuel hi (Fmt.fp32.round 0 false (FV.add 0 (Fmt.fp32.val c) s)).1

/-- One output element: the accumulator value `c` with products `k0` to `k1` − 1 added (R333, R334). -/
def mmaElem (opc ta tb : Nat) (a b : Nat → Nat) (sa sb : Nat → FV) (k0 k1 c : Nat) : Nat :=
  if opc = 0xC7 then
    intBits 32 ((range k0 (k1 - k0)).foldl (fun v k => v + intVal ta (a k) * intVal tb (b k)) (c : Int))
  else if opc = 0xC5 ∨ opc = 0xC6 then
    let f := fmtOf (mmaAccType opc)
    (range k0 (k1 - k0)).foldl (fun c k => (f.round 0 false (FV.fma 0 (f.val (a k)) (f.val (b k)) (f.val c))).1) c
  else
    chunkSums (mmaChunk opc) k1 (fun k => scaledProduct (sa k) ((fmtOf ta).val (a k)) ((fmtOf tb).val (b k)) (sb k)) (k1 - k0) k0 c

def elemAt (m : List (List Nat)) (i j : Nat) : Nat := (m.getD i []).getD j 0

/-- The scale of row `i` and product `k` (R331); 1 without a scale tile. -/
def scaleOf (sc : Option (Nat × List (List Nat))) (gran i k : Nat) : FV :=
  match sc with
  | none => .fin false 1 0
  | some (t, m) => let p := scaleAt gran i k; realVal t (elemAt m p.1 p.2)

/-- The effect of an MMA on its bank for products `k0` to `k1` − 1 (R449). -/
def mmaBank (opc : Nat) (z t : Bool) (gran ta tb m n k0 k1 : Nat) (a b : List (List Nat))
    (sa sb : Option (Nat × List (List Nat))) (bank : Store) : Store :=
  let w := typBits (mmaAccType opc) / 8
  (List.range m).foldl (fun bank i =>
    (List.range n).foldl (fun bank j =>
      let c := if z && k0 == 0 then 0 else bank.acc w i j
      bank.setAcc w i j (mmaElem opc ta tb (elemAt a i) (fun k => if t then elemAt b j k else elemAt b k j)
        (scaleOf sa gran i) (scaleOf sb gran j) k0 k1 c)) bank) bank

/-- A scale operand with its type. -/
def scaleArg (r : Option TileRef) (m : List (List Nat)) : Option (Nat × List (List Nat)) := r.map fun r => (r.desc.typ, m)

/-- Running an M command on core `c` for at most `n` restart units. -/
def runM (c n : Nat) (cmd : MfCmd) : Exec Progress := do
  let who := Requester.engine c 2
  let u := min n (cmd.units - cmd.cursor)
  match cmd.op with
  | .mma opc z t _ bank a b sa sb gran => do
    let none1 (r : Option TileRef) : TileRef := r.getD (.data ⟨0, 0, true, false, 0, 0, 0, 0, 0⟩ [])
    match ← elemsAll c [a, b, none1 sa, none1 sb] with
    | .error f => pure (.fails cmd f 0#64)
    | .ok ms => do
      let k := a.desc.cols
      let cols := if t then b.desc.rows else b.desc.cols
      let k1 := min k (cmd.cursor + n * mmaChunk opc)
      updJob c fun j => j.setBank bank
        (mmaBank opc z t gran a.desc.typ b.desc.typ a.desc.rows cols cmd.cursor k1 (ms.getD 0 []) (ms.getD 1 [])
          (scaleArg sa (ms.getD 2 [])) (scaleArg sb (ms.getD 3 [])) (j.bank bank))
      pure (.upTo { cmd with cursor := k1 })
  | .accld bank a => do
    match ← a.elems c with
    | .error f => pure (.fails cmd f 0#64)
    | .ok m => do
      let w := typBits a.desc.typ / 8
      updJob c fun j => j.setBank bank ((range cmd.cursor u).foldl (fun b i =>
        (List.range a.desc.cols).foldl (fun b x => b.setAcc w i x (elemAt m i x)) b) (j.bank bank))
      pure (.upTo { cmd with cursor := cmd.cursor + u })
  | .accst d port bank af rm sat =>
    runRowsOf (fun i => do
      let j ← getJob c
      tileRow who c d port i ((j.bank bank).accRow af d.typ rm sat i d.vcols)) u cmd
  | .accclr bank => do
    updJob c fun j => j.setBank bank .empty
    pure (.upTo { cmd with cursor := 1 })
  | .accstg addr pitch bank af _ cols typ sp rm sat =>
    runRowsOf (fun i => do
      let j ← getJob c
      memRow who c sp addr.toNat (i * pitch.toInt) (accBytes typ ((j.bank bank).accRow af typ rm sat i cols))) u cmd
  | _ => pure (.upTo cmd)

/-! Issue. -/

def bankOf (code : BitVec 8) : Nat := code.toNat - 0x88

/-- A source as an optional operand. -/
def Src.opt (s : Src) : Option Src := if s.isTile then some s else none

def captureOpt (floor : Know) (s : Src) : Exec (Option TileRef) := do
  if s.isTile then do
    let r ← capture floor s
    pure (some r)
  else pure none

/-- MMA at its head of the stream (R445–R448, R451, R470). -/
def issueMma (opc : Nat) (x : MArgs) : Exec Unit := do
  let y := x.c.x
  let bank := bankOf y.d
  let pair := x.p == 1#1
  let scaled := decide (opc ≤ 0xC2)
  let step (cl : Clauses) (floor : Know) : Exec Unit := do
    let a ← mfSrc 1 y.a
    let b ← mfSrc 2 y.b
    let sa ← mfSrc 3 (if scaled then y.c else 0#8)
    let sb ← mfSrc 4 (if scaled then y.sb else 0#8)
    needValid [(1, a.desc), (2, b.desc), (3, sa.desc), (3, sb.desc)]
    let sc (s : Src) : Bool := ! s.isTile || s.desc.typ == 9 || s.desc.typ == 4
    needType (mmaTypes opc a.desc.typ && (! b.isTile || mmaTypes opc b.desc.typ) && sc sa && sc sb)
    let m := a.desc.rows
    let k := a.desc.cols
    let t := x.t == 1#1
    let kb := if t then b.desc.cols else b.desc.rows
    let n := if ! b.isTile then 0 else if t then b.desc.rows else b.desc.cols
    let gran := if scaled then (y.imm.extractLsb' 16 2).toNat else 0
    let shA := scaleShape gran m k
    let shB := scaleShape gran n k
    needShape ((! b.isTile || (kb == k && decide (n ≤ if opc = 0xC6 then 192 else 384))) && decide (m ≤ 128) &&
      sa.shaped shA.1 shA.2 && (! b.isTile || sb.shaped shB.1 shB.2))
    if ! b.isTile && ! pair then trap 0x202#10
    else do
      let ra ← capture floor a
      let rb ← capture floor b
      let rsa ← captureOpt floor sa
      let rsb ← captureOpt floor sb
      let s ← get
      let cmd := newCmd (s.hart s.cur) cl (.mma opc (x.z == 1#1) t pair bank ra rb rsa rsb gran) k 2 none
      if pair then do
        updJob s.cur.coreNo fun j =>
          { j with pairReq := some ⟨opc, x.z == 1#1, t, gran, bank, k, n, ! b.isTile, ! sb.isTile, x.c.stamp.isSome, cmd⟩ }
        block .pair
      else do
        let o := mmaCycles opc k
        enterEngine s.cur.coreNo ⟨.array, some bank, o, o + 8, o + 8⟩ cmd
        retire (cmdSlots x.c)
  if pair then waitClause x.c step else mfCommand x.c .array (some bank) step

/-- ACCLD (R454). -/
def issueAccld (x : CArgs) : Exec Unit :=
  let bank := bankOf x.x.d
  mfCommand x .port (some bank) fun cl floor => do
    let a ← mfSrc 1 x.x.a
    needValid [(1, a.desc)]
    let d := a.desc
    needType (d.typ == 1 || d.typ == 0 || d.typ == 0x0D)
    needShape (decide (d.rows ≤ 128) && decide (d.cols ≤ if d.typ = 0 then 192 else 384))
    let ra ← capture floor a
    let b := (d.rows + 1) / 2
    issueMf x ⟨.port, some bank, b, b + 4, b + 4⟩ cl (.accld bank ra) d.rows 1 none

/-- ACCST (R455). -/
def issueAccst (x : CArgs) : Exec Unit :=
  let bank := bankOf x.x.a
  mfCommand x .port (some bank) fun cl _ => do
    let dst ← mfDst x.x
    needValid [(0, dst.desc)]
    let d := dst.desc
    let af := x.x.imm98
    needType (isReal d.typ && d.typ != 9)
    needShape (decide (d.rows ≤ 128) && decide (d.cols ≤ if af = 1 then 192 else 384))
    let b := (d.rows + 1) / 2
    issueMf x ⟨.port, some bank, b, b, b + 4⟩ cl (.accst d dst.portOf bank af (rmOf x.x) (satOf x.x)) d.vrows 1 dst.pushOf

/-- ACCCLR (R456). -/
def issueAccclr (x : CArgs) : Exec Unit :=
  let bank := bankOf x.x.d
  mfCommand x .port (some bank) fun cl _ => issueMf x ⟨.port, some bank, 1, 1, 1⟩ cl (.accclr bank) 1 0 none

/-- ACCSTG (R457). -/
def issueAccstg (x : CArgs) : Exec Unit :=
  let bank := bankOf x.x.d
  mfCommand x .port (some bank) fun cl _ => do
    let a ← readSrc 1 x.x.a
    let b ← readSrc 2 x.x.b
    let w ← readSrc 3 x.x.c
    let af := x.x.imm98
    let rows := Word.bits w 0 8 + 1
    let cols := Word.bits w 8 10 + 1
    let typ := Word.bits w 18 5
    if Word.bits w 23 41 ≠ 0 then trap 0x044#10
    else do
      needType (isReal typ && typ != 9)
      let e := if 8 ≤ typBits typ then typBits typ / 8 else 1
      needShape (decide (rows ≤ 128) && decide (cols ≤ if af = 1 then 192 else 384) &&
        (decide (8 ≤ typBits typ) || decide (cols * typBits typ % 8 = 0)))
      if a.toNat % e ≠ 0 ∨ b.toNat % e ≠ 0 then trapAt 0x143#10 a
      else do
        let n := (rows + 1) / 2
        issueMf x ⟨.port, some bank, n, n, n + 4⟩ cl
          (.accstg a b bank af rows cols typ (x.x.imm.getLsbD 10) (rmOf x.x) (satOf x.x)) rows 1 none

/-! The instructions. -/

def execMmaFp8 (x : MArgs) (s : State) : Host.Outcome State Fault Refusal :=
  run (.cmd 0xC0#8 (0#1 ++ x.t ++ x.p ++ x.z) x.c) .mmas (issueMma 0xC0 x) s

def execMmaFp6 (x : MArgs) (s : State) : Host.Outcome State Fault Refusal :=
  run (.cmd 0xC1#8 (0#1 ++ x.t ++ x.p ++ x.z) x.c) .mmas (issueMma 0xC1 x) s

def execMmaFp4 (x : MArgs) (s : State) : Host.Outcome State Fault Refusal :=
  run (.cmd 0xC2#8 (0#1 ++ x.t ++ x.p ++ x.z) x.c) .mmas (issueMma 0xC2 x) s

def execMmaBf16 (x : MArgs) (s : State) : Host.Outcome State Fault Refusal :=
  run (.cmd 0xC3#8 (0#1 ++ x.t ++ x.p ++ x.z) x.c) .mma (issueMma 0xC3 x) s

def execMmaFp16 (x : MArgs) (s : State) : Host.Outcome State Fault Refusal :=
  run (.cmd 0xC4#8 (0#1 ++ x.t ++ x.p ++ x.z) x.c) .mma (issueMma 0xC4 x) s

def execMmaFp32 (x : MArgs) (s : State) : Host.Outcome State Fault Refusal :=
  run (.cmd 0xC5#8 (0#1 ++ x.t ++ x.p ++ x.z) x.c) .mma (issueMma 0xC5 x) s

def execMmaFp64 (x : MArgs) (s : State) : Host.Outcome State Fault Refusal :=
  run (.cmd 0xC6#8 (0#1 ++ x.t ++ x.p ++ x.z) x.c) .mma (issueMma 0xC6 x) s

def execMmaInt8 (x : MArgs) (s : State) : Host.Outcome State Fault Refusal :=
  run (.cmd 0xC7#8 (0#1 ++ x.t ++ x.p ++ x.z) x.c) .mma (issueMma 0xC7 x) s

def execAccld (x : CArgs) (s : State) : Host.Outcome State Fault Refusal :=
  run (.cmd 0xC8#8 0#4 x) .accld (issueAccld x) s

def execAccst (x : CArgs) (s : State) : Host.Outcome State Fault Refusal :=
  run (.cmd 0xC8#8 1#4 x) .accst (issueAccst x) s

def execAccclr (x : CArgs) (s : State) : Host.Outcome State Fault Refusal :=
  run (.cmd 0xC8#8 2#4 x) .accclr (issueAccclr x) s

def execAccstg (x : CArgs) (s : State) : Host.Outcome State Fault Refusal :=
  run (.cmd 0xC8#8 3#4 x) .accstg (issueAccstg x) s


end Sys2Proof.Machine
end

