-- ==== Sys2Proof/Machine/Transform.lean ====
section
/-! DEFINITION. The F engine: plans and Fourier transforms (R337–R342, R461–R466), twiddle multiplication (R467) and associated
Legendre values (R468, R469). -/
namespace Sys2Proof.Machine

/-! Plans. -/

/-- The exponent of a prime in `n`, and what is left. -/
def primePart (p : Nat) : Nat → Nat → Nat × Nat
  | 0, n => (0, n)
  | fuel + 1, n => if n ≠ 0 ∧ n % p = 0 then let r := primePart p fuel (n / p); (r.1 + 1, r.2) else (0, n)

/-- The default radix sequence (R338); none where N has another prime factor. -/
def defaultSeq (n : Nat) : Option (List Nat) :=
  let (a, r) := primePart 2 20 n
  let (b, r) := primePart 3 20 r
  let (c, r) := primePart 5 20 r
  let (d, r) := primePart 7 20 r
  if r = 1 then
    some (List.replicate (a / 3) 8 ++ (if a % 3 = 2 then [4] else if a % 3 = 1 then [2] else []) ++ List.replicate d 7 ++
      List.replicate c 5 ++ List.replicate b 3)
  else none

/-- The plan that two words hold: N and the radix sequence; none where it is invalid (R461). -/
def planOf (w0 w1 : Nat) : Option (Nat × List Nat) :=
  let n := bitsAt w0 0 17
  let s := bitsAt w0 17 5
  if n = 0 ∨ 65536 < n ∨ w0 / 2 ^ 22 ≠ 0 ∨ 16 < s ∨ w1 / 2 ^ (4 * s) ≠ 0 then none
  else
    match defaultSeq n with
    | none => none
    | some def_ =>
      let seq := (List.range s).map fun e => bitsAt w1 (4 * e) 4
      if s = 0 then some (n, def_)
      else if seq.all (fun f => [2, 3, 4, 5, 7, 8].contains f) && seq.foldl (· * ·) 1 == n then some (n, seq) else none

/-- The words of a plan written out (R462). -/
def planWords (n : Nat) (seq : List Nat) : Nat × Nat :=
  (n + seq.length * 2 ^ 17, (List.range seq.length).foldl (fun v e => v + seq.getD e 0 * 2 ^ (4 * e)) 0)

/-! Stages. -/

/-- The twiddle factor of index `j` (R339): cosine and sine rounded to the working format. -/
def twiddle (t : Nat) (inv : Bool) (n j : Nat) : Nat :=
  let f := fmtOf (cpxBase t)
  let s := turn false j n
  cpxMk t (f.round 0 false (turn true j n)).1 (f.round 0 false (if inv then s else s.negate)).1

/-- Twid(a, j): exact for the quarter turns, two FMAs elsewhere (R339). -/
def twid (t : Nat) (inv : Bool) (n j a : Nat) : Nat :=
  let f := fmtOf (cpxBase t)
  let j := j % n
  let keep (b : Nat) : Nat := if (f.val b).isNan then f.nanBits else b
  let re := keep (cpxRe t a)
  let im := keep (cpxIm t a)
  if j = 0 then cpxMk t re im
  else if 2 * j = n then cpxMk t (signElem f true re) (signElem f true im)
  else if 4 * j = n ∨ 4 * j = 3 * n then
    (if (4 * j == n) == inv then cpxMk t (signElem f true im) re else cpxMk t im (signElem f true re))
  else cpxMul t false a (twiddle t inv n j)

/-- Bfly(t, p, c): each component one rounding of an exact sum (R340). -/
def bfly (t : Nat) (inv : Bool) (p c : Nat) (xs : List Nat) : Nat :=
  let f := fmtOf (cpxBase t)
  let terms (g : FV → FV → FV → FV → List FV) : List FV := (List.range p).flatMap fun q =>
    let x := xs.getD q 0
    let w := twiddle t inv p (q * c % p)
    g (f.val (cpxRe t x)) (f.val (cpxIm t x)) (f.val (cpxRe t w)) (f.val (cpxIm t w))
  cpxMk t (f.round 0 false (FV.sum false (terms fun xr xi wr wi => [FV.mul xr wr, (FV.mul xi wi).negate]))).1
    (f.round 0 false (FV.sum false (terms fun xr xi wr wi => [FV.mul xr wi, FV.mul xi wr]))).1

/-- One stage of a pencil in its stage store (R338, R466): `ns` outputs stand together before it, `ns` × `p` after it. -/
def fftStage (t : Nat) (inv : Bool) (n ns p : Nat) (xs : List Nat) : List Nat :=
  let big := ns * p
  let q0 := n / big
  (List.range n).map fun pos =>
    let k := pos % big % ns
    bfly t inv p (pos % big / ns) ((List.range p).map fun q =>
      twid t inv n (q * k * q0) (xs.getD ((pos / big + q * q0) * ns + k) 0))

/-- Stages `s` to `s` + `k` − 1 of a pencil. -/
def fftStages (t : Nat) (inv : Bool) (n : Nat) (seq : List Nat) : Nat → Nat → List Nat → List Nat
  | 0, _, xs => xs
  | k + 1, s, xs => fftStages t inv n seq k (s + 1) (fftStage t inv n ((seq.take s).foldl (· * ·) 1) (seq.getD s 1) xs)

/-- A delivered real component: divided by N with SCALE (R342). -/
def deliverReal (f : Fmt) (scale : Bool) (n b : Nat) : Nat :=
  if scale then (f.round 0 false (FV.div (f.val b) (.fin false n 0))).1 else b

def deliverCpx (t : Nat) (scale : Bool) (n x : Nat) : Nat :=
  let f := fmtOf (cpxBase t)
  cpxMk t (deliverReal f scale n (cpxRe t x)) (deliverReal f scale n (cpxIm t x))

/-- Pencil `p` of length `l` of a list of elements. -/
def pencil (l p : Nat) (xs : List Nat) : List Nat := (xs.drop (l * p)).take l

/-- The input of pencil `p` of a real-to-complex transform. -/
def realPencil (t n p : Nat) (xs : List Nat) : List Nat := (pencil n p xs).map fun b => cpxMk t b 0

/-- The conjugate extension of pencil `p` of a complex-to-real transform (R341). -/
def conjPencil (t n p : Nat) (xs : List Nat) : List Nat :=
  let f := fmtOf (cpxBase t)
  let bins := pencil (n / 2 + 1) p xs
  (List.range n).map fun k =>
    if k = 0 ∨ k = n / 2 then cpxMk t (cpxRe t (bins.getD k 0)) 0
    else if k < n / 2 then bins.getD k 0
    else let x := bins.getD (n - k) 0; cpxMk t (cpxRe t x) (signElem f true (cpxIm t x))

/-- Elements in row-major order laid over a tile. -/
def Store.setElems (t : Store) (d : Desc) (es : List (Option Nat)) : Store :=
  (List.range d.rows).foldl (fun t i => t.setRow d i ((es.drop (i * d.cols)).take d.cols)) t

/-- All elements of a tile of the store in row-major order. -/
def Store.elems (t : Store) (d : Desc) : List Nat := (List.range d.rows).flatMap fun i => t.row d i

/-- Stages `s` to `s` + `u` − 1 of FFT or IFFT; the stage store is D (R466). -/
def fftRun (inv scale : Bool) (d : Desc) (n : Nat) (seq : List Nat) (s u : Nat) (input : List Nat) (st : Store) : Store :=
  let xs := if s = 0 then input else st.elems d
  let t := d.typ
  let last := decide (seq.length ≤ s + u)
  st.setElems d (((List.range (d.rows * d.cols / n)).flatMap fun p =>
    (fftStages t inv n seq (min u (seq.length - s)) s (pencil n p xs)).map fun x =>
      if last then deliverCpx t scale n x else x).map some)

/-- Stages of RFFT or IRFFT; the stage store is W, and the last stage delivers to D as well (R464, R466). -/
def rfftRun (inv scale : Bool) (ad d w : Desc) (n : Nat) (seq : List Nat) (s u : Nat) (input : List Nat) (st : Store) : Store :=
  let t := w.typ
  let np := if inv then d.rows * d.cols / n else ad.rows * ad.cols / n
  let ys := (List.range np).map fun p =>
    fftStages t inv n seq (min u (seq.length - s)) s
      (if s = 0 then (if inv then conjPencil t n p input else realPencil t n p input) else pencil n p (st.elems w))
  let st := st.setElems w (ys.flatten.map some)
  if seq.length ≤ s + u then
    let f := fmtOf (cpxBase t)
    st.setElems d ((ys.flatMap fun y =>
      if inv then y.map fun x => deliverReal f scale n (cpxRe t x)
      else (y.take (n / 2 + 1)).map (deliverCpx t scale n)).map some)
  else st

/-! Legendre values (R469). -/

/-- P̄(l, m, x) in format `f`; `x` and the result are encodings. -/
def legendre (f : Fmt) (l m x : Nat) : Nat :=
  let rn (v : FV) : FV := f.val (f.round 0 false v).1
  let mul (a b : FV) : FV := rn (FV.mul a b)
  let xv := f.val x
  let q := rn (FV.sqrt (rn (FV.fma 0 xv.negate xv (.fin false 1 0))))
  let pmm := (range 1 m).foldl (fun p k => mul (mul (rn (sqrtQuot (2 * k + 1) (2 * k))) q).negate p) (rn k0Value)
  let out (v : FV) : Nat := (f.round 0 false v).1
  if l = m then out pmm
  else
    let p1 := mul (mul (rn (sqrtQuot (2 * m + 3) 1)) xv) pmm
    out ((range (m + 2) (l - m - 1)).foldl (fun (st : FV × FV) l' =>
      let a := rn (sqrtQuot (4 * l' * l' - 1) (l' * l' - m * m))
      let b := rn (sqrtQuot (((l' - 1) * (l' - 1) - m * m) * (2 * l' + 1)) ((2 * l' - 3) * (l' * l' - m * m)))
      (rn (FV.fma 0 (mul a xv) st.1 (mul b st.2).negate), st.1)) (p1, pmm)).1

/-- Going on with the elements of an operand, or failing with its cause. -/
def withElems (c : Nat) (cmd : MfCmd) (a : TileRef) (f : List (List Nat) → Exec Progress) : Exec Progress := do
  match ← a.elems c with
  | .error x => pure (.fails cmd x 0#64)
  | .ok m => f m

/-- Running an F command on core `c` for at most `n` restart units. -/
def runF (c n : Nat) (cmd : MfCmd) : Exec Progress := do
  let who := Requester.engine c 3
  let u := min n (cmd.units - cmd.cursor)
  match cmd.op with
  | .fft inv scale a d n seq =>
    withElems c cmd a (fun m => do
      updJob c fun j => { j with tstore := fftRun inv scale d n seq cmd.cursor u m.flatten j.tstore }
      pure (.upTo { cmd with cursor := cmd.cursor + u }))
  | .rfft inv scale a d w n seq =>
    withElems c cmd a (fun m => do
      updJob c fun j => { j with tstore := rfftRun inv scale a.desc d w n seq cmd.cursor u m.flatten j.tstore }
      pure (.upTo { cmd with cursor := cmd.cursor + u }))
  | .fplan d w0 w1 => do
    updJob c fun j => { j with tstore := j.tstore.setRow d 0 [some w0.toNat, some w1.toNat] }
    pure (.upTo { cmd with cursor := 1 })
  | .leggen t a d port m l0 =>
    withElems c cmd a (fun xs => runRowsOf (fun i => tileRow who c d port i ((List.range d.vcols).map fun j =>
      if t then legendre (fmtOf d.typ) (l0 + j) m (elemAt xs i 0) else legendre (fmtOf d.typ) (l0 + i) m (elemAt xs 0 j))) u cmd)
  | .ftwm a d port n inv row0 col0 =>
    withElems c cmd a (fun xs => runRowsOf (fun i => tileRow who c d port i ((List.range d.vcols).map fun j =>
      twid d.typ inv n ((row0 + i) * (col0 + j) % n) (elemAt xs i j))) u cmd)
  | _ => pure (.upTo cmd)

/-! Issue. -/

/-- Elements per cycle of the pipeline (R459). -/
def ratePer (t : Nat) : Nat := if t = 0 ∨ t = 0x15 then 32 else 64

def ceilDiv (a b : Nat) : Nat := (a + b - 1) / b

/-- A tile of `nr` × `nc` qualifies for pencils of length `l` (R463). -/
def Desc.pencils (d : Desc) (l : Nat) : Bool :=
  (d.cols % l == 0 || l % d.cols == 0) && d.rows * d.cols % l == 0

def Desc.fullyValid (d : Desc) : Bool := d.vrows == d.rows && d.vcols == d.cols

/-- Descriptor bytes in common. -/
def Desc.meets (a b : Desc) : Bool :=
  decide (512 * a.base < 512 * b.base + b.size) && decide (512 * b.base < 512 * a.base + a.size)

/-- Overlap with a source in the tile store. -/
def Src.meets (d : Desc) : Src → Bool
  | .store e => d.meets e
  | _ => false

/-- The tiles of the tile store that a command writes. -/
def MfOp.writes : MfOp → List Desc
  | .accst d none _ _ _ _ => [d]
  | .fft _ _ _ d _ _ => [d]
  | .rfft _ _ _ d w _ _ => [d, w]
  | .fplan d _ _ => [d]
  | .leggen _ _ d none _ _ => [d]
  | .ftwm _ d none _ _ _ _ => [d]
  | _ => []

/-- The words of a plan that the last earlier command of the stream to write its tile leaves there (R441), where that command has
not completed and is an FPLAN; a command behind another writer waits. -/
def pendingPlan (q : List MfCmd) (b : Src) : Exec (Option (Nat × Nat)) :=
  match q.reverse.find? fun m => m.op.writes.any fun d => b.meets d with
  | none => pure none
  | some m =>
    match m.op, b with
    | .fplan d w0 w1, .store e => if d = e then pure (some (w0.toNat, w1.toNat)) else block .engine
    | _, _ => block .engine

/-- The plan a command holds, its words read now. -/
def readPlan (b : Src) (floor : Know) : Exec (Option (Nat × List Nat)) := do
  let j ← curJob
  match ← pendingPlan j.fcmds b with
  | some p => pure (planOf p.1 p.2)
  | none => do
    let r ← capture floor b
    let s ← get
    match ← r.elems s.cur.coreNo with
    | .error f => trap f
    | .ok m => pure (planOf (elemAt m 0 0) (elemAt m 0 1))

def planShape (b : Src) : Exec Unit := needShape (b.shaped 1 2)

/-- FFT and IFFT (R463–R465, R470). -/
def issueFft (inv : Bool) (x : CArgs) : Exec Unit :=
  mfCommand x .fpipe none fun cl floor => do
    let a ← mfSrc 1 x.x.a
    let b ← mfSrc 2 x.x.b
    let dst ← mfDst x.x
    let d := dst.desc
    needValid [(1, a.desc), (2, b.desc), (0, d)]
    needType (isCPX d.typ && a.desc.typ == d.typ && b.desc.typ == 0x13)
    needShape (b.shaped 1 2 && a.shaped d.rows d.cols && d.fullyValid)
    let plan ← readPlan b floor
    needShape (match plan with | some (n, _) => d.pencils n | none => true)
    if overlapsFft a b dst then trap 0x083#10
    else
      match plan with
      | none => trap 0x203#10
      | some (n, seq) => do
        let ra ← capture floor a
        let o := seq.length * ceilDiv (d.rows * d.cols) (ratePer d.typ)
        issueMf x ⟨.fpipe, none, o, o, o + 16⟩ cl (.fft inv (x.x.mod.getLsbD 2) ra d n seq) (max 1 seq.length) 3 dst.pushOf
where
  /-- D may equal A; any other overlap with A or the plan is forbidden. -/
  overlapsFft (a b : Src) (dst : Dst) : Bool :=
    (match a with | .store e => overlaps dst.desc e false | _ => false) || b.meets dst.desc

/-- RFFT and IRFFT (R464, R470). -/
def issueRfft (inv : Bool) (x : CArgs) : Exec Unit :=
  mfCommand x .fpipe none fun cl floor => do
    let a ← mfSrc 1 x.x.a
    let b ← mfSrc 2 x.x.b
    let wsrc ← mfSrc 3 x.x.c
    let dst ← mfDst x.x
    let d := dst.desc
    let w := wsrc.desc
    needValid [(1, a.desc), (2, b.desc), (3, w), (0, d)]
    let real := if inv then d else a.desc
    let cpx := if inv then a.desc else d
    needType ((real.typ == 0 || real.typ == 1) && cpx.typ == (if real.typ = 1 then 0x14 else 0x15) && b.desc.typ == 0x13 &&
      w.typ == cpx.typ)
    needShape (b.shaped 1 2 && w.fullyValid)
    let plan ← readPlan b floor
    needShape (match plan with
      | some (n, _) =>
        let np := real.rows * real.cols / n
        real.pencils n && (n % 2 == 1 || decide (np * (n / 2 + 1) ≤ cpx.rows * cpx.cols)) && decide (np * n ≤ w.rows * w.cols)
      | none => true)
    if (wsrc.isTile && (a.meets w || b.meets w || w.meets d)) || a.meets d || b.meets d then trap 0x083#10
    else
      match plan with
      | none => trap 0x203#10
      | some (n, seq) =>
        if n % 2 = 1 then trap 0x203#10
        else do
          let ra ← capture floor a
          let np := real.rows * real.cols / n
          let o := (seq.length + 1) * ceilDiv (np * n) (ratePer real.typ)
          issueMf x ⟨.fpipe, none, o, o, o + 16⟩ cl (.rfft inv (x.x.mod.getLsbD 2) ra d w n seq) (max 1 seq.length) 3 dst.pushOf

/-- FPLAN (R462). -/
def issueFplan (x : CArgs) : Exec Unit :=
  mfCommand x .fpipe none fun cl _ => do
    let a ← readSrc 1 x.x.a
    let b ← readSrc 2 x.x.b
    let dst ← mfDst x.x
    let d := dst.desc
    needValid [(0, d)]
    needType (d.typ == 0x13)
    needShape (d.rows == 1 && d.cols == 2)
    match planOf a.toNat b.toNat with
    | none => trap 0x203#10
    | some (n, seq) =>
      let p := planWords n seq
      issueMf x ⟨.fpipe, none, 1, 1, 4⟩ cl (.fplan d (BitVec.ofNat 64 p.1) (BitVec.ofNat 64 p.2)) 1 0 none

/-- LEGGEN (R468). -/
def issueLeggen (x : CArgs) : Exec Unit :=
  mfCommand x .fpipe none fun cl floor => do
    let a ← mfSrc 1 x.x.a
    let b ← readSrc 2 x.x.b
    let dst ← mfDst x.x
    let d := dst.desc
    let t := x.x.mod.getLsbD 2
    let m := Word.bits b 0 16
    let l0 := Word.bits b 16 16
    let nl := if t then d.cols else d.rows
    let nx := if t then d.rows else d.cols
    needValid [(1, a.desc), (0, d)]
    needType ((d.typ == 0 || d.typ == 1) && a.desc.typ == d.typ)
    needShape (if t then a.shaped nx 1 else a.shaped 1 nx)
    if l0 < m ∨ 65535 < l0 + nl - 1 ∨ Word.bits b 32 32 ≠ 0 then trap 0x204#10
    else do
      let ra ← capture floor a
      let o := (l0 + nl - m) * ceilDiv nx (ratePer d.typ)
      issueMf x ⟨.fpipe, none, o, o, o + 16⟩ cl (.leggen t ra d dst.portOf m l0) d.vrows 1 dst.pushOf

/-- FTWM (R467). -/
def issueFtwm (x : CArgs) : Exec Unit :=
  mfCommand x .fpipe none fun cl floor => do
    let a ← mfSrc 1 x.x.a
    let b ← readSrc 2 x.x.b
    let k ← readSrc 3 x.x.c
    let dst ← mfDst x.x
    let d := dst.desc
    let n := Word.bits b 0 25
    needValid [(1, a.desc), (0, d)]
    needType (isCPX d.typ && a.desc.typ == d.typ)
    needShape (a.shaped d.rows d.cols && Word.bits k 32 32 == 0)
    if n = 0 ∨ 2 ^ 24 < n ∨ Word.bits b 26 38 ≠ 0 then trap 0x203#10
    else do
      let ra ← capture floor a
      let o := ceilDiv (d.rows * d.cols) (ratePer d.typ)
      issueMf x ⟨.fpipe, none, o, o, o + 16⟩ cl
        (.ftwm ra d dst.portOf n (Word.bit b 25) (Word.bits k 16 16) (Word.bits k 0 16)) d.vrows 1 dst.pushOf

/-! The instructions. -/

def execFft (x : CArgs) (s : State) : Host.Outcome State Fault Refusal :=
  run (.cmd 0xD0#8 0#4 x) .fft (issueFft false x) s

def execIfft (x : CArgs) (s : State) : Host.Outcome State Fault Refusal :=
  run (.cmd 0xD1#8 0#4 x) .fft (issueFft true x) s

def execRfft (x : CArgs) (s : State) : Host.Outcome State Fault Refusal :=
  run (.cmd 0xD2#8 0#4 x) .rfft (issueRfft false x) s

def execIrfft (x : CArgs) (s : State) : Host.Outcome State Fault Refusal :=
  run (.cmd 0xD3#8 0#4 x) .rfft (issueRfft true x) s

def execFplan (x : CArgs) (s : State) : Host.Outcome State Fault Refusal :=
  run (.cmd 0xD4#8 0#4 x) .fplan (issueFplan x) s

def execLeggen (x : CArgs) (s : State) : Host.Outcome State Fault Refusal :=
  run (.cmd 0xD5#8 0#4 x) .leggen (issueLeggen x) s

def execFtwm (x : CArgs) (s : State) : Host.Outcome State Fault Refusal :=
  run (.cmd 0xD6#8 0#4 x) .ftwm (issueFtwm x) s


end Sys2Proof.Machine
end

