-- ==== Sys2Proof/Machine/EngineEv.lean ====
section
/-! DEFINITION. What happens in the M and F engines: timed issue (R266, R267), completion and failure of commands (R304, R442,
R443), pairs (R450–R452), results saved in the pipeline snapshot buffer (R208, R209), and exposed-pipeline stalls (R268). -/
namespace Sys2Proof.Machine

/-! Which command runs (R441): a later one runs beside an earlier one only where that is invisible. -/

def TileRef.stored : TileRef → List Desc
  | .store d => [d]
  | _ => []

/-- The banks and the tiles read by a command. -/
def MfOp.banks : MfOp → List Nat
  | .mma _ _ _ _ b _ _ _ _ _ => [b]
  | .accld b _ => [b]
  | .accst _ _ b _ _ _ => [b]
  | .accclr b => [b]
  | .accstg _ _ b _ _ _ _ _ _ _ => [b]
  | _ => []

def MfOp.reads : MfOp → List Desc
  | .mma _ _ _ _ _ a b sa sb _ =>
    a.stored ++ b.stored ++ (match sa with | some r => r.stored | none => []) ++ (match sb with | some r => r.stored | none => [])
  | .accld _ a => a.stored
  | .fft _ _ a _ _ _ => a.stored
  | .rfft _ _ a _ _ _ _ => a.stored
  | .leggen _ a _ _ _ _ => a.stored
  | .ftwm a _ _ _ _ _ _ => a.stored
  | _ => []

def anyMeets (xs ys : List Desc) : Bool := xs.any fun x => ys.any fun y => x.meets y

/-- Whether a later command must wait for an earlier one of its stream. -/
def MfOp.conflicts (a b : MfOp) : Bool :=
  (a.banks.any fun x => b.banks.contains x) || anyMeets a.writes (b.reads ++ b.writes) || anyMeets a.reads b.writes

/-- The commands that may run now, by place in the queue. -/
def freeCmds (q : List MfCmd) : List Nat :=
  (List.range q.length).filter fun i =>
    match q[i]? with
    | none => false
    | some m => ! (q.take i).any fun e => e.op.conflicts m.op

def MfOp.isPair : MfOp → Bool
  | .mma _ _ _ pair _ _ _ _ _ _ => pair
  | _ => false

/-- The next command to complete: the one whose result is visible first; in queue order where a pair stands in the queue. -/
def nextCmd (q : List MfCmd) : Option Nat :=
  if q.any fun m => m.op.isPair then some 0 else (freeCmds q).foldl (fun (b : Option Nat) i =>
    match b with
    | none => some i
    | some k => if (q.map (·.visible)).getD i 0 < (q.map (·.visible)).getD k 0 then some i else some k) none

/-! Completion. -/

def setCmd (c : Nat) (e : Eng) (i : Nat) (m : MfCmd) : Exec Unit := updJob c fun j => j.setQueueOf e ((j.queueOf e).set i m)
def dropCmd (c : Nat) (e : Eng) (i : Nat) : Exec Unit := updJob c fun j => j.setQueueOf e ((j.queueOf e).eraseIdx i)

/-- What follows the last unit of a command: its handle, its port's position, its signal (R304, R411). -/
def finishCmd (c : Nat) (cmd : MfCmd) : Exec Unit := do
  (match cmd.push with
    | some (n, t) => updJob c fun j => j.setChan n (j.chan n ++ [.handle t])
    | none => pure ())
  (match cmd.op.port with
    | some (n, p, pos) => if pos < p.count then updJob c fun j => j.setPort n (j.port n).next else pure ()
    | none => pure ())
  signalDone c cmd.cl cmd.cl.sinc cmd.gs

/-- A command that fails after its issue (R442, R458). -/
def failCmd (c : Nat) (e : Eng) (cmd : MfCmd) (cause : Cause) (addr : Word) : Exec Unit := do
  let i : FInfo := { FInfo.plain with addr := addr, aux := (match cmd.cl.sig with | some (.mem r) => r | _ => 0#64),
                                      counter := counterCode cmd.cl.sig, cursor := cmd.cursor, ckind := cmd.ckind, port := cmd.op.port.map (·.1),
                                      pos := match cmd.op.port with | some p => p.2.2 | none => 0 }
  signalPoison c cmd.cl cause
  if isFatal cause then fatalOn c e.no cmd.pc cause i else asyncRecord c e.no cmd.pc cause i

def runCmd (c : Nat) (e : Eng) (n : Nat) (cmd : MfCmd) : Exec Progress := if e = .M then runM c n cmd else runF c n cmd

/-- Whether a command that ends now can deliver its handle. -/
def Job.room (j : Job) (cmd : MfCmd) : Bool :=
  match cmd.push with
  | some (n, _) => decide ((j.chan n).length < 8)
  | none => true

/-- What a run of the command at place `i` leaves. -/
def settle (c : Nat) (e : Eng) (i : Nat) (p : Progress) : Exec Unit := do
  match p with
  | .upTo cmd =>
    if cmd.units ≤ cmd.cursor then do
      dropCmd c e i
      finishCmd c cmd
    else setCmd c e i cmd
  | .waits cmd => setCmd c e i cmd
  | .fails cmd f a => do
    dropCmd c e i
    failCmd c e cmd f a

/-- The partner's core of a job in a pair (R450), where its job runs. -/
def State.partner (s : State) (c : Nat) : Option Nat :=
  let j := s.job c
  let l := if j.lcore % 2 = 0 then j.lcore + 1 else j.lcore - 1
  let c2 := (s.part j.part).coreOf l
  let k := s.job c2
  if k.live && k.part == j.part && k.task == j.task && k.lcore == l then some c2 else none

/-- The command of a pair at the head of what may run on a core. -/
def Job.pairHead (j : Job) : Option MfCmd :=
  match j.mcmds with
  | m :: _ => if m.op.isPair then some m else none
  | [] => none

/-- Both multiplies of a pair run together, to the same chunk boundary (R452). -/
def runPair (c n : Nat) : Exec Unit := do
  let s ← get
  match s.partner c with
  | none => halt
  | some c2 =>
    match (s.job c).pairHead, (s.job c2).pairHead with
    | some m, some m2 => do
      let stop := (s.job c).stopping || (s.job c2).stopping
      require (m.cursor == m2.cursor && (if stop then decide (0 < n) else
        decide (m.visible ≤ (s.job c).j + 1) && decide (m2.visible ≤ (s.job c2).j + 1)))
      let k := if stop then n else m.units
      let p ← runM c k m
      settle c .M 0 p
      let p2 ← runM c2 k m2
      settle c2 .M 0 p2
    | _, _ => halt

/-- Rows of a command that another package has answered. -/
def answeredRows (who : Requester) (cmd : MfCmd) : Exec Progress := do
  let s ← get
  if s.remotes.any fun r => r.2.who == who then
    match s.failedAnswer who with
    | some f => do
      clearWho who
      pure (.fails cmd f 0#64)
    | none => do
      clearWho who
      pure (.upTo { cmd with cursor := cmd.cursor + 1 })
  else pure (.upTo cmd)

def mfComplete (c : Nat) (e : Eng) (n : Nat) : Exec Unit := do
  let s ← get
  let j := s.job c
  require (j.live && (e == .M || e == .F) && ! s.awaiting (.engine c e.no))
  match nextCmd (j.queueOf e) with
  | none => halt
  | some i =>
    match (j.queueOf e)[i]? with
    | none => halt
    | some cmd =>
      if cmd.op.isPair then runPair c n
      else do
        require ((if j.stopping then decide (0 < n) else decide (cmd.visible ≤ j.j + 1)) && j.room cmd)
        match ← answeredRows (.engine c e.no) cmd with
        | .upTo cmd => do
          let p ← runCmd c e (if j.stopping then n else cmd.units) cmd
          settle c e i p
        | p => settle c e i p

/-- MF_COMMAND_COMPLETE: the next command of an engine finishes and adds its signal; in a job that is stopping it does at most
`n` more restart units. -/
def execMfCommandComplete (c : Nat) (e : Eng) (n : Nat) (s : State) : Host.Outcome State Fault Refusal :=
  runExec (mfComplete c e n) s

/-- MF_ASYNC_FAULT: an uncorrectable error in a granule that the running command reads (R442). -/
def mfAsyncFault (c : Nat) (e : Eng) (cause : Cause) : Exec Unit := do
  let s ← get
  let j := s.job c
  require (j.live && (e == .M || e == .F) && cause == 0x292#10)
  match nextCmd (j.queueOf e) with
  | none => halt
  | some i =>
    match (j.queueOf e)[i]? with
    | none => halt
    | some cmd => settle c e i (.fails cmd cause 0#64)

def execMfAsyncFault (c : Nat) (e : Eng) (cause : Cause) (s : State) : Host.Outcome State Fault Refusal :=
  runExec (mfAsyncFault c e cause) s

/-! Timed issue. -/

/-- The M or F command that two slots hold, as its meaning. -/
def mfCommandOf (w0 w1 : Word) (stamp : Option Stamp) : Option (Exec Unit) :=
  let opc := slotOpc w0
  let fn := slotFn w0
  let x : CArgs := ⟨slotArgs w0, slotExt w1, stamp⟩
  let r (sh : Shape) (b : Exec Unit) : Option (Exec Unit) :=
    some (runInstr (.cmd (BitVec.ofNat 8 opc) (BitVec.ofNat 4 fn) x) sh b)
  if 0xC0 ≤ opc ∧ opc ≤ 0xC7 then
    (mmaBits fn x).bind fun y => r (if opc ≤ 0xC2 then Shape.mmas else Shape.mma) (issueMma opc y)
  else
    match opc, fn with
    | 0xC8, 0 => r Shape.accld (issueAccld x)
    | 0xC8, 1 => r Shape.accst (issueAccst x)
    | 0xC8, 2 => r Shape.accclr (issueAccclr x)
    | 0xC8, 3 => r Shape.accstg (issueAccstg x)
    | 0xD0, 0 => r Shape.fft (issueFft false x)
    | 0xD1, 0 => r Shape.fft (issueFft true x)
    | 0xD2, 0 => r Shape.rfft (issueRfft false x)
    | 0xD3, 0 => r Shape.rfft (issueRfft true x)
    | 0xD4, 0 => r Shape.fplan (issueFplan x)
    | 0xD5, 0 => r Shape.leggen (issueLeggen x)
    | 0xD6, 0 => r Shape.ftwm (issueFtwm x)
    | _, _ => none

/-- TIMED_ISSUE: the timed command that a stream waits at, when J has reached its stamp. -/
def timedIssue (c : Nat) (e : Eng) : Exec Unit := do
  let s ← get
  let a := Agent.stream c e
  let h := s.hart a
  require ((s.job c).live && h.stat == .running && h.blocked == .stamp &&
    (match h.wait with | some w => decide (w.thr ≤ (s.job c).j) | none => false))
  modify fun s => { s with cur := a }
  match mfCommandOf (s.codeWord a (h.pc + 8)) (s.codeWord a (h.pc + 16)) (some (slotStamp (s.codeWord a h.pc))) with
  | some x => x
  | none => halt

def execTimedIssue (c : Nat) (e : Eng) (s : State) : Host.Outcome State Fault Refusal := runExec (timedIssue c e) s

/-- EXPOSED_PIPELINE_STALL (R268): J freezes for the stall's cycles, which SR.STAMPB gains, and a service event is recorded. -/
def pipelineStall (c cycles : Nat) : Exec Unit := do
  let s ← get
  require ((s.job c).live && (s.job c).timed)
  updJob c fun j => { j with stall := j.stall + cycles, stampb := j.stampb + BitVec.ofNat 64 cycles }
  fqPush c true (jobRecord s c 0x183#10 3 7 0 .plain)

def execExposedPipelineStall (c cycles : Nat) (s : State) : Host.Outcome State Fault Refusal := runExec (pipelineStall c cycles) s

/-! Pairs. -/

/-- One side of a pair faults at its MMA.P. -/
def pairFault (c : Nat) (cause : Cause) : Exec Unit := do
  updJob c fun j => { j with pairReq := none }
  takeException (.stream c .M) cause .plain

/-- One side issues with the B operands of the leader. -/
def pairIssue (c : Nat) (r : PairReq) (b sb : List (List Nat)) (lead : MfCmd) : Exec Unit := do
  let data (t : TileRef) (m : List (List Nat)) : TileRef := .data t.desc m
  let op := match r.cmd.op, lead.op with
    | .mma opc z t p bank a _ sa _ g, .mma _ _ _ _ _ _ lb _ lsb _ => .mma opc z t p bank a (data lb b) sa (lsb.map fun x => data x sb) g
    | x, _ => x
  let o := mmaCycles r.opc r.k
  updJob c fun j => { j with pairReq := none }
  enterEngine c ⟨.array, some r.bank, o, o + 8, o + 8⟩ { r.cmd with op := op }
  updHartOf (.stream c .M) fun h => { h.past 2 with pairs := h.pairs + 1 }

/-- Whether a core's M stream stands at its rendezvous. -/
def State.atPair (s : State) (c : Nat) : Bool :=
  let h := s.hart (.stream c .M)
  h.stat == .running && h.blocked == .pair && (s.job c).pairReq.isSome

/-- PAIR_RENDEZVOUS (R451): the checks of a pair, and its issue. -/
def pairRendezvous (c : Nat) : Exec Unit := do
  let s ← get
  let j := s.job c
  require (j.live && s.atPair c)
  let l := if j.lcore % 2 = 0 then j.lcore + 1 else j.lcore - 1
  let saved := s.frames.any fun f => f.2.job.part == j.part && f.2.job.task == j.task && f.2.job.lcore == l
  match s.partner c with
  | none => if saved then halt else pairFault c 0x202#10
  | some c2 => do
    require (s.atPair c2)
    let (lc, fc) := if j.lcore % 2 = 0 then (c, c2) else (c2, c)
    match (s.job lc).pairReq, (s.job fc).pairReq with
    | some lr, some fr =>
      let cause : Option Cause :=
        if lr.opc ≠ fr.opc ∨ lr.z ≠ fr.z ∨ lr.t ≠ fr.t ∨ lr.gran ≠ fr.gran ∨ lr.k ≠ fr.k ∨ ! fr.bNone ∨ ! fr.sbNone ∨ lr.bNone ∨
          lr.stamped ∨ fr.stamped then some 0x202#10
        else if lr.bank ≠ fr.bank then some 0x205#10
        else none
      (match cause with
        | some f => do
          pairFault lc f
          pairFault fc f
        | none => do
          let (b, sb) := match lr.cmd.op with
            | .mma _ _ _ _ _ _ b _ sb _ => (b, sb)
            | _ => (.data ⟨0, 0, true, false, 0, 0, 0, 0, 0⟩ [], none)
          match ← elemsAll lc [b, sb.getD (.data ⟨0, 0, true, false, 0, 0, 0, 0, 0⟩ [])] with
          | .error f => do
            pairFault lc f
            pairFault fc f
          | .ok ms => do
            pairIssue lc lr (ms.getD 0 []) (ms.getD 1 []) lr.cmd
            pairIssue fc fr (ms.getD 0 []) (ms.getD 1 []) lr.cmd)
    | _, _ => halt

def execPairRendezvous (c : Nat) (s : State) : Host.Outcome State Fault Refusal := runExec (pairRendezvous c) s

/-! The pipeline snapshot buffer (R208, R209). -/

/-- The results of a job's commands that are past their unit but not visible yet: what a save of a timed job moves to the
buffer, with the issue-clock cycles each has left. -/
def Job.toPsb (j : Job) : Job :=
  let exposed (unitFree : Nat) (m : MfCmd) : Bool := decide (unitFree ≤ j.j) && decide (j.j < m.visible) && m.fixedTime && m.cursor == 0
  let isArray (m : MfCmd) : Bool := match m.op with | .mma _ _ _ _ _ _ _ _ _ _ => true | _ => false
  let outM (m : MfCmd) : Bool := exposed (if isArray m then j.units.array else j.units.port) m
  let outF (m : MfCmd) : Bool := exposed j.units.fpipe m
  if ! j.timed then j
  else
    { j with mcmds := j.mcmds.filter (fun m => ! outM m), fcmds := j.fcmds.filter (fun m => ! outF m),
             psb := j.psb ++ (j.mcmds.filter outM).map (fun m => ⟨m, .M, m.visible - j.j⟩) ++
               (j.fcmds.filter outF).map (fun m => ⟨m, .F, m.visible - j.j⟩) }

/-- PSB_DELIVERY: the first saved result of a core whose cycle has come. J continues from its saved value, so the cycle is the
one the result had at first. -/
def psbDelivery (c : Nat) : Exec Unit := do
  let j ← getJob c
  match j.psb.find? fun p => decide (p.cmd.visible ≤ j.j + 1) with
  | none => halt
  | some p => do
    require (j.live && j.room p.cmd)
    updJob c fun j => { j with psb := j.psb.erase p }
    match ← runCmd c p.eng p.cmd.units p.cmd with
    | .upTo cmd => finishCmd c cmd
    | .waits cmd => finishCmd c cmd
    | .fails cmd f a => failCmd c p.eng cmd f a

def execPsbDelivery (c : Nat) (s : State) : Host.Outcome State Fault Refusal := runExec (psbDelivery c) s

/-- Whether the issue clock of a core must not pass its present cycle: a stream waits for exactly this stamp, or a result is due
whose time the table of R459 fixes on a locked cluster. -/
def State.clockHeld (s : State) (c : Nat) : Bool :=
  let j := s.job c
  let waits (e : Eng) : Bool :=
    let h := s.hart (.stream c e)
    h.stat == .running && h.blocked == .stamp && (match h.wait with | some w => w.thr == j.j | none => false)
  let due (q : List MfCmd) : Bool :=
    match (nextCmd q).bind fun i => q[i]? with
    | some m => m.exact && decide (m.visible ≤ j.j + 1)
    | none => false
  j.live && (waits .M || waits .F || (! j.stopping && (due j.mcmds || due j.fcmds ||
    j.psb.any fun p => p.cmd.exact && decide (p.cmd.visible ≤ j.j + 1))))

end Sys2Proof.Machine
end

