-- ==== Sys2Proof/Machine/Jobs.lean ====
section
/-! DEFINITION. Jobs on cores (R178–R182, R193, R199, R202–R210, R225–R228, R235, R236): readiness, task start, the end of a job,
pre-emption and restore, residency, the proxy port and the deadlock fault. -/
namespace Sys2Proof.Machine

/-! Readiness (R180, R182). -/

/-- Whether a stream neither waits at a yield point nor has stopped for good; one stopped at a fault goes on by ERET (log 42). -/
def Hart.couldIssue (h : Hart) : Bool :=
  match h.stat with
  | .running => ! h.yields
  | .stopped _ _ => true
  | _ => false

/-- Whether the job on a core is ready. -/
def State.jobReady (s : State) (c : Nat) : Bool :=
  (s.job c).live && ((s.job c).streams.any fun e => (s.hart (.stream c e)).couldIssue)

/-- Whether the wait of a saved stream would be met now. -/
def State.wouldGo (s : State) (f : Frame) (h : Hart) : Bool :=
  h.couldIssue ||
  (h.stat == .running &&
    match h.blocked with
    | .launch => decide (((s.part f.job.part).queue f.job.cls).length < 1024)
    | .qbar => ! f.job.qbar
    | .cartFull => true
    | .cmdWait _ => true
    | .pair => true
    | .cwait =>
      (match h.wait with
        | some ⟨.core n, _, t, _⟩ => let k := f.job.counter n; k.poison.isSome || decide (t ≤ k.view.toNat)
        | _ => true)
    | .memWait => true
    | _ => false)

/-- Whether a job in a frame is ready. -/
def State.frameReady (s : State) (f : Frame) : Bool := f.fresh || f.harts.any fun h => s.wouldGo f h

/-- The ready queue of a core and a class (R180). -/
def Part.readyQ (p : Part) (c cls : Nat) : List Nat := Map.get (fun _ => []) p.ready (4 * c + cls)
def Part.setReadyQ (p : Part) (c cls : Nat) (q : List Nat) : Part := { p with ready := Map.set (fun _ => []) p.ready (4 * c + cls) q }

/-- Saved jobs of a partition that have become ready enter the tails of their queues. -/
def refreshReady (k : Nat) : Exec Unit := do
  let s ← get
  each (s.frames.filter fun e => e.2.job.part == k) fun e => do
    let p ← getPart k
    let c := p.coreOf e.2.job.lcore
    if s.frameReady e.2 && ! (p.readyQ c e.2.job.cls).contains e.1 then
      updPart k fun p => p.setReadyQ c e.2.job.cls (p.readyQ c e.2.job.cls ++ [e.1])

/-- The issue weight of a class (R162). -/
def State.share (s : State) (k cls : Nat) : Nat := s.field (Reg.schedCfg k) (4 * cls) 4

/-- The better of two classes for a core's next quantum: least issue time by share, ties to the lower number; a class without
share only where no other is ready. -/
def State.betterClass (s : State) (k c a b : Nat) : Nat :=
  let it (x : Nat) := Map.get (fun _ => 0) (s.part k).issueTime (4 * c + x)
  let sa := s.share k a
  let sb := s.share k b
  if sa = 0 ∧ sb ≠ 0 then b
  else if sb = 0 ∧ sa ≠ 0 then a
  else if sa = 0 then min a b
  else if it b * sa < it a * sb ∨ (it b * sa = it a * sb ∧ b < a) then b
  else a

/-- The class of a core's next quantum among those with a ready job and those of `extra` (R180). -/
def State.nextClass (s : State) (k c : Nat) (extra : List Nat) : Option Nat :=
  let p := s.part k
  let mine := if s.jobReady c then [(s.job c).cls] else []
  match (List.range 4).filter fun x => ! (p.readyQ c x).isEmpty || extra.contains x || mine.contains x with
  | [] => none
  | x :: xs => some (xs.foldl (s.betterClass k c) x)

/-! Starting jobs (R178, R179, R256, R276). -/

/-- A task's range list loaded with a core's REL values. -/
def State.loadRanges (s : State) (k : Nat) (rel : Assoc Word) (x : Slot) (n : List Byte) : Nat → Except Cause (Assoc Rtt)
  | 0 => .ok []
  | i + 1 =>
    match s.loadRanges k rel x n i with
    | .error c => .error c
    | .ok m =>
      match s.loadEntry k rel (x.bytes (taskRloff n + 32 * i) 32) with
      | .error c => .error c
      | .ok r => .ok (Map.set (fun _ => Rtt.invalid) m i r)

/-- The REL values a job of task `t` takes on core `c`: a child's are those of the job that launched it (R183). -/
def State.startRel (s : State) (t : Task) (c : Nat) : Assoc Word :=
  match t.rels with
  | some ws => Map.setN (fun _ => 0#64) [] 0 ws
  | none => (s.core c).rel

/-- A job of task `t` of partition `k` on logical core `l`, as it begins on core `c`. -/
def State.newJob (s : State) (k t : Nat) (task : Task) (l id c : Nat) (rtt : Assoc Rtt) : Job :=
  { Job.absent with
    live := true, id := id, part := k, task := t, cls := task.cls, lcore := l, first := taskFirst task.node, nlc := taskNlc task.node,
    emask := BitVec.ofNat 4 (taskEmask task.node), step := task.step, slot := task.slot, stampb := s.dcc,
    counters := (s.core c).resting.map fun e => (e.1, ⟨e.2, e.2, none, []⟩), rtt := rtt, rel := s.startRel task c }

/-- The job starts on its core: its streams at their entry lines, each in a first phase that the task's start acquires. -/
def startJobOn (k t : Nat) (task : Task) (l id c : Nat) : Exec Unit := do
  let s ← get
  let rel := s.startRel task c
  match s.loadRanges k rel ((s.part k).slot task.slot) task.node (taskRlcnt task.node) with
  | .error f => do
    updCore c fun x => { x with job := { s.newJob k t task l id c [] with emask := 0#4 } }
    if ← fatalTask k t f then fqPush c false (jobRecord s c f 2 7 0 .plain) else pure ()
  | .ok rtt => do
    updCore c fun x => { x with rel := rel, job := s.newJob k t task l id c rtt, deadCycles := 0 }
    each engines fun e => do
      let a := Agent.stream c e
      if bitsAt (taskEmask task.node) e.no 1 = 1 then do
        updHartOf a fun _ => { Hart.reset with pc := 64 * taskEntry task.node e + 8, stat := .running, newLine := true }
        let u ← get
        openPhase a (gainOf 3 (u.party a) task.gained)
      else updHartOf a fun _ => Hart.reset

/-- Whether every job of a task has started on a core. -/
def State.allStarted (s : State) (k t : Nat) : Bool := ! s.frames.any fun e => e.2.fresh && e.2.job.part == k && e.2.job.task == t

/-- The job numbers of a new group: the job of member `i` has the number `id + i`. -/
def startGroup (k t id : Nat) (task : Task) (mux : Bool) : Exec Unit :=
  each (range 0 (taskNlc task.node)) fun i => do
    let s ← get
    let l := taskFirst task.node + i
    let c := (s.part k).coreOf l
    custody k feNode 1 0
    if mux && ! (s.resident k l && ! (s.job c).live) then do
      let j := s.newJob k t task l (id + i) c []
      modify fun s => { s with frames := Map.insert s.frames (id + i) ⟨j, [], false, true, false⟩ }
      updPart k fun p => p.setReadyQ c task.cls (p.readyQ c task.cls ++ [id + i])
    else startJobOn k t task l (id + i) c

/-- The cores of a task's group. -/
def State.groupCores (s : State) (k : Nat) (task : Task) : List Nat :=
  (range (taskFirst task.node) (taskNlc task.node)).map (s.part k).coreOf

/-- Whether a core can be given to a task (R179). -/
def State.canGive (s : State) (k : Nat) (task : Task) (c : Nat) : Bool :=
  let j := s.job c
  (! j.live || ! s.jobReady c || j.quantumOver) && s.nextClass k c [task.cls] == some task.cls

/-- TASK_START: jobs still issuing on the group are stopped first; once none is left the group starts together. -/
def taskStart (k t : Nat) : Exec Unit := do
  refreshReady k
  let s ← get
  let p := s.part k
  match Map.find p.tasks t with
  | none => halt
  | some task => do
    let cs := s.groupCores k task
    let n := taskNlc task.node
    let mux := s.flag (Reg.ctxStat k) 8
    require (! task.started && task.fatal.isNone && s.ctxPhase k == 0 && p.seq.state != .frozen && decide (n ≤ s.framesFree k))
    if mux || cs.all fun c => ! (s.job c).live then do
      require (mux || cs.all fun c => s.canGive k task c)
      let id := s.nextJob
      let task := { task with started := true, jobs := range id n }
      modify fun s => { s with nextJob := id + n }
      updPart k fun p => { p with tasks := Map.insert p.tasks t task }
      startGroup k t id task mux
      let u ← get
      if u.allStarted k t then endChildDispatch k task
    else do
      require (cs.all fun c => s.canGive k task c)
      each cs fun c => updJob c fun j => if j.live then { j with stopping := true } else j

def execTaskStart (k t : Nat) (s : State) : Host.Outcome State Fault Refusal := runExec (taskStart k t) s

/-! The end of a job (R235, R256). -/

/-- What a job's streams have published, as the release of the task's end. -/
def State.endRels (s : State) (c : Nat) : List Rel :=
  (s.job c).streams.map fun e => ⟨s.party (.stream c e), 3, (s.hart (.stream c e)).know⟩

/-- Whether effects of a job are on their way. -/
def State.jobOut (s : State) (c : Nat) : Bool := s.outq.any fun o => o.core == c && o.job == (s.job c).id

/-- Whether a core waits for an answer that a stream of its job asked for. -/
def State.coreAwaits (s : State) (c : Nat) : Bool :=
  s.remotes.any fun e => e.2.answer.isNone && (match e.2.who with
    | .hart a => a / 8 == c && decide (a % 8 < 4)
    | .rld x _ => x == c
    | .engine x _ => x == c
    | _ => false)

/-- The resting values after a job with these counters. -/
def restingAfter (j : Job) (resting : Assoc Word) : Assoc Word :=
  j.counters.foldl (fun m e =>
    if (Map.get (fun _ => 0#64) m e.1).toNat < e.2.phys.toNat then Map.set (fun _ => 0#64) m e.1 e.2.phys else m) resting

/-- The job on a core is gone: its frame, its contexts and its resting counters. -/
def removeJob (c : Nat) : Exec Unit := do
  let j ← getJob c
  updCore c fun x => { x with job := .absent, resting := restingAfter j x.resting, deadCycles := 0 }
  each engines fun e => updHartOf (.stream c e) fun _ => Hart.reset
  clearWho (.engine c 2)
  clearWho (.engine c 3)
  each engines fun e => clearWho (.hart (8 * c + e.no))

/-- JOB_END: what its streams still hold private is published first; the job ends once nothing of it is left. -/
def jobEnd (c : Nat) : Exec Unit := do
  let s ← get
  let j := s.job c
  let k := j.part
  require (j.live && (j.streams.all fun e => let h := s.hart (.stream c e); h.stat == .joined || h.stat == .halted) &&
    j.mcmds.isEmpty && j.fcmds.isEmpty && j.psb.isEmpty && j.loadQ.isEmpty && j.storeQ.isEmpty && j.rlds.isEmpty && ! s.coreAwaits c)
  if j.streams.any fun e => ! (s.hart (.stream c e)).priv.isEmpty then
    each j.streams fun e => do
      let _ ← publish (.stream c e) 3
      pure ()
  else do
    require (! s.jobOut c)
    let rels := s.endRels c
    removeJob c
    custody k feNode 0 1
    updPart k fun p =>
      { p with tasks := Map.upd (fun _ => Task.absent) p.tasks j.task fun t =>
          { t with jobs := t.jobs.filter (· != j.id), jobRels := rels ++ t.jobRels } }

def execJobEnd (c : Nat) (s : State) : Host.Outcome State Fault Refusal := runExec (jobEnd c) s

/-! Suspended ranks (R101, R193). -/

/-- The ranks of a logical core of this package. -/
def State.ranksOf (s : State) (k l : Nat) : List Nat :=
  (List.range (s.field (Reg.rankCfg k) 0 17)).filter fun r =>
    let e := s.rankEntry k r
    bitsAt e 31 1 == 1 && bitsAt e 16 10 == s.pkg && bitsAt e 8 2 * 32 + bitsAt e 0 5 == l

/-- The RSUSP payload of some ranks, one range each (R101). -/
def suspPayload (fpid epoch : Nat) (ranks : List Nat) : List Byte :=
  leBytes 2 fpid ++ [BitVec.ofNat 8 ranks.length, 0#8] ++ leBytes 8 epoch ++ leBytes 4 0 ++ ranks.flatMap fun r => leBytes 2 r ++ leBytes 2 0

/-- A list in parts of at most `n`. -/
def chunks {α : Type} (n : Nat) : Nat → List α → List (List α)
  | 0, _ => []
  | fuel + 1, l => if l.isEmpty then [] else l.take n :: chunks n fuel (l.drop n)

/-- Sending RSUSP or RRESUME for ranks to every other package of a partition. -/
def sendSusp (k : Nat) (typ : BitVec 8) (epoch : Nat) (ranks : List Nat) : Exec Unit := do
  let s ← get
  each (s.peers k) fun p => each (chunks 54 (ranks.length + 1) ranks) fun rs => sendCtl k p typ (suspPayload (s.fpid k) epoch rs)

/-- Suspending ranks under the next epoch: what waits for the answers of the other packages. -/
def suspend (k : Nat) (ranks : List Nat) : Exec Unit := do
  let s ← get
  let e := (s.part k).epoch + 1
  updPart k fun p =>
    { p with epoch := e, susp := p.susp ++ ranks.map (fun r => ⟨s.pkg, r, r, e⟩), 
               acks := p.acks ++ (chunks 54 (ranks.length + 1) ranks).flatMap fun _ => (s.peers k).map (fun q => (q, e)) }
  sendSusp k tyRSUSP e ranks
  custody k suspNode ranks.length 0

/-- This package's suspensions of some ranks. -/
def Part.ownSusp (p : Part) (pkg : Nat) (ranks : List Nat) : List Susp := p.susp.filter fun x => x.pkg == pkg && ranks.contains x.first

/-- Ranks resume: RRESUME goes to every peer under the epoch of each suspension. -/
def resumeRanks (k : Nat) (ranks : List Nat) : Exec Unit := do
  let s ← get
  each ((s.part k).ownSusp s.pkg ranks) fun x => sendSusp k tyRRESUME x.epoch [x.first]
  updPart k fun p => { p with susp := p.susp.filter fun x => ! (x.pkg == s.pkg && ranks.contains x.first) }
  custody k suspNode 0 ((s.part k).ownSusp s.pkg ranks).length

/-! Pre-emption (R181, R193, R202–R204, R208). -/

/-- Whether nothing is under way that writes the job's state. -/
def State.jobQuiet (s : State) (c : Nat) : Bool :=
  let j := s.job c
  (j.loadQ ++ j.storeQ).all (fun q => ! q.started) && j.rlds.isEmpty && ! s.jobOut c && ! s.coreAwaits c

/-- The streams' contexts as they lie in the frame. -/
def State.savedHarts (s : State) (c : Nat) : List Hart := engines.map fun e => s.hart (.stream c e)

/-- Saving the job of a core into its frame. -/
def saveJob (c : Nat) (running : Bool) : Exec Unit := do
  let s ← get
  let j := s.job c
  let k := j.part
  let ready := s.jobReady c
  custody k (128 + c) 0 (j.loadQ.length + j.storeQ.length)
  custody k c 0 j.privOrder.length
  let saved := { j.toPsb with pairReq := none, stopping := false, quantumOver := false, issueTime := 0 }
  let frame : Frame := ⟨saved, s.savedHarts c, running, false, false⟩
  modify fun s => { s with frames := Map.insert s.frames j.id frame }
  updCore c fun x => { x with job := .absent, deadCycles := 0 }
  each engines fun e => updHartOf (.stream c e) fun _ => Hart.reset
  if ready then updPart k fun p => p.setReadyQ c j.cls (p.readyQ c j.cls ++ [j.id])

/-- JOB_PREEMPT_SAVE: a job that is stopping, or waits while another is ready, is saved once all its streams stand at their
points; ranks that other packages know are suspended first. -/
def preemptSave (c : Nat) : Exec Unit := do
  let s ← get
  let j := s.job c
  let k := j.part
  require (j.live && (j.stopping || (! s.jobReady c && s.otherReady c)) &&
    (j.streams.all fun e => (s.hart (.stream c e)).atPoint) && (j.streams.any fun e => (s.hart (.stream c e)).stat != .halted) &&
    s.jobQuiet c)
  updJob c fun j => { j with stopping := true }
  let ranks := if s.multi k then s.ranksOf k j.lcore else []
  let mine := (s.part k).ownSusp s.pkg ranks
  if ! ranks.isEmpty && mine.isEmpty then suspend k ranks
  else do
    require (mine.all fun x => ! (s.part k).acks.any fun a => a.2 == x.epoch)
    saveJob c (s.ctxPhase k == 1)

def execJobPreemptSave (c : Nat) (s : State) : Host.Outcome State Fault Refusal := runExec (preemptSave c) s

/-- A stream's context as it goes on after a restore: its wait is evaluated again (R206). -/
def Hart.restored (h : Hart) : Hart :=
  if h.stat = .running ∧ h.blocked ≠ .none ∧ h.blocked ≠ .qbar then { h with blocked := .none, wait := none, newLine := true } else h

/-- Job `id` comes back onto core `c` from its frame (R207, R209). -/
def restoreJob (c id : Nat) (f : Frame) : Exec Unit := do
  let s ← get
  let j := f.job
  let k := j.part
  modify fun s => { s with frames := Map.erase s.frames id }
  updPart k fun p => p.setReadyQ c j.cls ((p.readyQ c j.cls).filter (· != id))
  let task := Map.get (fun _ => Task.absent) (s.part k).tasks j.task
  if f.fresh then do
    startJobOn k j.task task j.lcore id c
    let u ← get
    if u.allStarted k j.task then endChildDispatch k task
  else if f.bad then do
    updCore c fun x => { x with job := { j with emask := 0#4, loadQ := [], storeQ := [], mcmds := [], fcmds := [], psb := [] } }
    fatalOn c 7 0 0x346#10 .plain
  else do
    updCore c fun x => { x with job := { j with stampb := s.dcc - BitVec.ofNat 64 j.j }, deadCycles := 0 }
    each engines fun e => updHartOf (.stream c e) fun _ => (f.harts.getD e.no Hart.reset).restored
    custody k (128 + c) (j.loadQ.length + j.storeQ.length) 0
    custody k c j.privOrder.length 0
    resumeRanks k (s.ranksOf k j.lcore)

/-- The job that core `c` takes next: the head of the queue of the class R180 chooses. -/
def State.nextJobOn (s : State) (k c : Nat) : Option Nat := (s.nextClass k c []).bind fun cls => ((s.part k).readyQ c cls).head?

/-- JOB_RESTORE: the ready job whose turn it is comes back onto its core; where no job is ready on it, a blocked one may, so that what
lies queued with it goes on (log 54). -/
def jobRestore (c id : Nat) : Exec Unit := do
  let s0 ← get
  match Map.find s0.frames id with
  | none => halt
  | some f => do
    let k := f.job.part
    refreshReady k
    let s ← get
    require (! (s.job c).live && (s.part k).coreOf f.job.lcore == c && s.partOfCore c == some k && s.ctxPhase k == 0 &&
      (s.part k).seq.state != .frozen && (s.nextJobOn k c).getD id == id && s.resident k f.job.lcore)
    restoreJob c id f

def execJobRestore (c j : Nat) (s : State) : Host.Outcome State Fault Refusal := runExec (jobRestore c j) s

/-- QUANTUM_EXPIRY (R181): the quantum is over; with another job ready the job stops at its next points. -/
def quantumExpiry (c : Nat) : Exec Unit := do
  let s ← get
  let j := s.job c
  require (j.live && decide (1500 * s.field (Reg.schedCfg j.part) 32 16 ≤ j.issueTime))
  refreshReady j.part
  let t ← get
  updJob c fun j => { j with quantumOver := true, stopping := j.stopping || t.otherReady c }

def execQuantumExpiry (c : Nat) (s : State) : Host.Outcome State Fault Refusal := runExec (quantumExpiry c) s

/-! Residency (R224–R228). -/

/-- Moving the entries of `[a, a + n)` of a sparse array to `b`; what lay at the target is gone, the source is empty. -/
def moveRange {α : Type} (m : Assoc α) (a b n : Nat) : Assoc α :=
  let moved := Map.slice m a (a + n)
  moved.foldl (fun x e => Map.insert x (b + (e.1 - a)) e.2) (Map.clear (Map.clear m b (b + n)) a (a + n))

/-- A scratchpad's 4 MiB moved between its alias and its frame, with poison and counter state. -/
def State.moveScratch (s : State) (a b : Nat) : State :=
  { s with mem := moveRange s.mem a b 4194304, blocks := moveRange s.blocks (a / 256) (b / 256) 16384, mcnts := moveRange s.mcnts a b 4194304 }

/-- The written bits of a scratchpad that has been loaded: set where a granule is not zero (R197). -/
def State.loadWritten (s : State) (a : Nat) : State :=
  { s with swritten := ((Map.slice s.mem a (a + 4194304)).foldl (fun m e => Map.insert m (e.1 / 64) true)
      (Map.clear s.swritten (a / 64) (a / 64 + 65536))) }

/-- The logical core that becomes resident next on a core: the next in rising order, round, with a ready job. -/
def State.nextResident (s : State) (k c : Nat) : Option Nat :=
  let p := s.part k
  let now := (s.core c).resident
  let homed := (List.range p.lcores).filter fun l => p.coreOf l == c && l != now && (s.frames.any fun e => e.2.job.part == k && e.2.job.lcore == l && s.frameReady e.2)
  match homed.find? (now < ·) with
  | some l => some l
  | none => homed.head?

/-- RESIDENCY_CHANGE: the scratchpads change places; the job follows by JOB_RESTORE. -/
def residencyChange (c : Nat) : Exec Unit := do
  let s ← get
  match s.partOfCore c with
  | none => halt
  | some k => do
    require (s.flag (Reg.ctxStat k) 8 && ! (s.job c).live && s.ctxPhase k == 0 && (s.part k).seq.state != .frozen)
    match s.nextResident k c with
    | none => halt
    | some l => do
      let a := aliasOf c 0
      modify fun s => ((s.moveScratch a (s.shadowOf k (s.core c).resident 0)).moveScratch (s.shadowOf k l 0) a).loadWritten a
      updCore c fun x => { x with resident := l }

def execResidencyChange (c : Nat) (s : State) : Host.Outcome State Fault Refusal := runExec (residencyChange c) s

/-- PROXY_PORT_ACCESS: an access to what a logical core that is not resident, or a job that is saved, keeps in its frame. -/
def proxyAccess (k l : Nat) (a : ProxyOp) : Exec Unit := do
  let s ← get
  require (decide (l < (s.part k).lcores))
  match a with
  | .write off data => do
    require (! s.resident k l && decide (off + data.length ≤ 4194304))
    let _ ← physWrite (s.shadowOf k l off) data none
    pure ()
  | .memAdd off v => do
    require (! s.resident k l && decide (off + 8 ≤ 4194304) && off % 8 == 0)
    addMcounter (s.shadowOf k l off) v []
  | .coreAdd n v =>
    match s.frames.find? fun e => e.2.job.part == k && e.2.job.lcore == l with
    | none => halt
    | some e => do
      require (decide (n < 256))
      modify fun s => { s with frames := Map.insert s.frames e.1 { e.2 with job := e.2.job.addCounter n v [] } }

def execProxyPortAccess (k l : Nat) (a : ProxyOp) (s : State) : Host.Outcome State Fault Refusal := runExec (proxyAccess k l a) s

/-! Deadlock (R236). -/

/-- Whether a stream is blocked on something only its own core can end. -/
def Hart.coreLocal (h : Hart) : Bool :=
  match h.stat with
  | .joined => true
  | .running =>
    (match h.blocked with
      | .chan | .port | .pbind | .cwait | .cartFull => true
      | .cmdWait c => c
      | _ => false)
  | _ => false

/-- Whether a queued Cart command waits on a counter of its core. -/
def CartCmd.waitsHere (q : CartCmd) : Bool := ! q.started && (match q.cl.wait with | some (.core _) => true | _ => false)

/-- Whether a Coach transfer of the partition, dispatched or queued, or a held add, would add to a counter of the job (R236, R517). -/
def State.coachMayAdd (s : State) (c : Nat) : Bool :=
  let j := s.job c
  let p := s.part j.part
  let names (b : List Byte) : Bool := (cblock b).ssel != 0xFF || (cblock b).dsel != 0xFF
  p.transfers.any (fun t => t.2.source == 2 && t.2.owner == j.task && names t.2.block) ||
  (List.range 4).any (fun x => (p.queue x).any fun e => e.source == 2 && e.parent == j.task && names e.bytes) ||
  p.held.any fun h => (s.ranksOf j.part j.lcore).contains h.rank

/-- Whether the conditions of a deadlock hold on a core now. -/
def State.deadlocked (s : State) (c : Nat) : Bool :=
  let j := s.job c
  j.live && (j.streams.all fun e => (s.hart (.stream c e)).coreLocal) && (j.streams.any fun e => (s.hart (.stream c e)).stat == .running) &&
  j.mcmds.isEmpty && j.fcmds.isEmpty && j.psb.isEmpty && (j.loadQ ++ j.storeQ).all CartCmd.waitsHere && j.rlds.isEmpty &&
  ! s.coachMayAdd c

/-- DEADLOCK_FAULT: the conditions have held for 4,096 cycles. -/
def deadlockFault (c : Nat) : Exec Unit := do
  let s ← get
  require (s.deadlocked c && decide (4096 ≤ (s.core c).deadCycles))
  fatalOn c 7 0 0x105#10 .plain

def execDeadlockFault (c : Nat) (s : State) : Host.Outcome State Fault Refusal := runExec (deadlockFault c) s

end Sys2Proof.Machine
end

