-- ==== Sys2Proof/Machine/PortInstr.lean ====
section
/-! DEFINITION. Translation and port instructions: RPROBE, RTTLD, PBIND, PUNBIND and PPOS (R250–R252, R280, R404, R405). -/
namespace Sys2Proof.Machine

/-! XLAT (R280, R404). -/

/-- Whether a core has an access that is not accepted or answered. -/
def State.accessesOut (s : State) (c : Nat) : Bool :=
  let j := s.job c
  (s.outq.any fun o => o.core == c) || ! j.rlds.isEmpty || (j.loadQ ++ j.storeQ).any (·.started) ||
  s.remotes.any fun e => match e.2.who with
    | .hart a => a / 8 == c && e.2.answer.isNone
    | .rld d _ => d == c
    | .write d => d == c
    | .cart d _ => d == c
    | .engine d _ => d == c
    | .add d => d == c
    | .coach _ _ _ _ => false

/-- RPROBE: a walk for A into RTT index B[5:0], with the pipeline empty. -/
def probe (x : Args) : Exec Unit := do
  let a ← readSrc 1 x.a
  let b ← readSrc 2 x.b
  let s ← get
  let c := s.cur.coreNo
  let k := (s.job c).part
  if s.accessesOut c then block .memWait
  else
    match if canonical a.toNat then s.walk k a.toNat else .ok none with
    | .error f => trapAt f a
    | .ok none => trapAt 0x142#10 a
    | .ok (some l) =>
      if ! l.present then trapAt 0x142#10 a
      else do
        let r := l.rtt a.toNat
        let under := (s.part k).invs.any fun q => decide (r.base ≤ q.2) && decide (q.1 ≤ r.limit)
        setRtt c (b.toNat % 64) { r with stale := under }
        retire 1

/-- RTTLD: a range-list entry at a physical address into the RTT of the job on the core (R276). -/
def loadRtt (x : Args) : Exec Unit := do
  let a ← readSrc 1 x.a
  let b ← readSrc 2 x.b
  if a.toNat % 32 ≠ 0 then trapAt 0x143#10 a
  else do
    let s ← get
    let c := s.cur.coreNo
    if ! (s.job c).live then retire 1
    else do
      let bs ← readGlobal s.cur (FInfo.at a) a.toNat 32
      let t ← get
      match t.loadEntry (t.job c).part (t.job c).rel bs with
      | .ok r => do
        setRtt c (b.toNat % 64) r
        retire 1
      | .error f =>
        if f = 0x147#10 then trapAt f a
        else do
          fatalOn c 6 0 f (FInfo.at a)
          retire 1

/-! PBIND (R250–R252, R405). -/

/-- A signed 48-bit stride. -/
def stride48 (bs : List Byte) : Int := ((BitVec.ofNat 48 (leVal bs)).toInt)

/-- The fields of a descriptor; BASE′ takes the REL value (R250, R251). -/
def Pattern.ofBytes (rel : Assoc Word) (bs : List Byte) : Pattern :=
  let f (o n : Nat) := leVal ((bs.drop o).take n)
  let ctrl := f 8 1
  let dims := f 10 1
  let nd := bitsAt dims 4 3
  let space := bitsAt ctrl 1 2
  let base := f 0 8 + (if space = 2 then (Map.get (fun _ => 0#64) rel (dims % 16)).toNat else 0)
  { raw := bs, base := base % 2 ^ 64, write := bitsAt ctrl 0 1 == 1, scratch := space == 1, tile := bitsAt ctrl 3 1 == 1,
    faultEnd := bitsAt ctrl 4 1 == 1, unb := bitsAt ctrl 5 1 == 1, typ := f 9 1 % 32, trows := f 12 2, tcols := f 14 2,
    tpitch := f 16 4, ext := (List.range nd).map fun k => f (24 + 4 * k) 4,
    str := (List.range nd).map fun k => stride48 ((bs.drop (40 + 6 * k)).take 6) }

/-- Whether a descriptor is well formed (R251). -/
def Pattern.ok (p : Pattern) : Bool :=
  let f (o n : Nat) := leVal ((p.raw.drop o).take n)
  let ctrl := f 8 1
  let dims := f 10 1
  let nd := bitsAt dims 4 3
  let bits := typBits p.typ
  let unit := if p.tile then 64 else bits / 8
  decide (bitsAt ctrl 6 2 = 0) && decide (f 9 1 / 32 = 0) && decide (dims < 128) && f 11 1 == 0 && f 20 4 == 0 && typOk p.typ &&
  bitsAt ctrl 1 2 != 3 && decide (1 ≤ nd) && decide (nd ≤ 4) && p.ext.all (· != 0) &&
  ((range nd (4 - nd)).all fun k => f (24 + 4 * k) 4 == 0 && f (40 + 6 * k) 6 == 0) && decide (p.count ≤ 2 ^ 48) &&
  (if p.tile then
      decide (1 ≤ p.trows) && decide (p.trows ≤ 256) && decide (1 ≤ p.tcols) && decide (p.tcols ≤ 1024) &&
      decide (p.tpitch % 64 = 0) && decide ((p.tcols * bits + 7) / 8 ≤ p.tpitch) && decide (p.tcols * bits % 8 = 0)
    else p.trows == 0 && p.tcols == 0 && p.tpitch == 0 && decide (8 ≤ bits)) &&
  decide (p.base % unit = 0) && p.str.all fun t => decide (t % (unit : Int) = 0)

/-- PBIND: its checks in order, and the binding, which waits while an UNB binding has elements left (R252). -/
def bindPort (x : Args) : Exec Unit := do
  let a ← readSrc 1 x.a
  let n := x.d.toNat - 0x70
  let e := Eng.ofNo (x.imm.toNat % 4)
  let i := { FInfo.at a with port := some n }
  if a.toNat % 64 ≠ 0 then trapWith 0x143#10 i
  else do
    let s ← get
    let c := s.cur.coreNo
    if ! (s.job c).emask.getLsbD e.no then trapWith 0x0C4#10 i
    else do
      let bs ← readGlobal s.cur i a.toNat 64
      let j ← getJob c
      let p := Pattern.ofBytes j.rel bs
      let old := j.port n
      if ! p.ok then trapWith 0x0C2#10 i
      else if old.bound && old.pat.unb && decide (old.pos < old.pat.count) then block .pbind
      else do
        updJob c fun j => j.setPort n ⟨true, p, 0, e, false⟩
        clearAnswers s.cur
        retire 1

def unbindPort (x : Args) : Exec Unit := do
  let c ← curCore
  updJob c fun j => j.setPort (x.d.toNat - 0x70) .unbound
  retire 1

def portPos (x : Args) : Exec Unit := do
  let j ← curJob
  let p := j.port (x.a.toNat - 0x70)
  finish x.d (if p.bound then BitVec.ofNat 64 p.pos else BitVec.allOnes 64)

/-! The instructions. -/

def execRprobe (x : Args) (s : State) : Host.Outcome State Fault Refusal :=
  run (.one 0x47#8 0#4 x) .srcAB (probe x) s

def execRttld (x : Args) (s : State) : Host.Outcome State Fault Refusal :=
  run (.one 0x47#8 1#4 x) .srcAB (loadRtt x) s

def execPbind (x : Args) (s : State) : Host.Outcome State Fault Refusal :=
  run (.one 0x48#8 0#4 x) .pbind (bindPort x) s

def execPunbind (x : Args) (s : State) : Host.Outcome State Fault Refusal :=
  run (.one 0x48#8 1#4 x) .punbind (unbindPort x) s

def execPpos (x : Args) (s : State) : Host.Outcome State Fault Refusal :=
  run (.one 0x48#8 2#4 x) .ppos (portPos x) s


end Sys2Proof.Machine
end

