-- ==== Sys2Proof/Machine/Image.lean ====
section
/-! DEFINITION. Portable context images (R211, R212, R217–R220): coded regions, job records and sections as bytes, and reading them
back. -/
namespace Sys2Proof.Machine

/-! Coded regions (R211, R212). -/

def gran0 : List Byte := List.replicate 64 0#8

/-- Zeros up to a multiple of `n`. -/
def padTo (n : Nat) (bs : List Byte) : List Byte := bs ++ List.replicate ((n - bs.length % n) % n) 0#8

/-- The code of a granule, the one before it given. -/
def granCode (poisoned : Bool) (prev : Option (List Byte)) (g : List Byte) : Nat :=
  if poisoned then 2
  else if g == gran0 then 0
  else if prev == some g then 3
  else if (List.range 16).all fun i => (g.drop (4 * i)).take 4 == g.take 4 then 1
  else 2

/-- Codes and payloads of a list of granules. -/
def encodeGrans (poisoned : Nat → Bool) : Nat → Option (List Byte) → List (List Byte) → List (Nat × List Byte)
  | _, _, [] => []
  | i, prev, g :: gs =>
    let c := granCode (poisoned i) prev g
    (c, if c = 1 then g.take 4 else if c = 2 then g else []) :: encodeGrans poisoned (i + 1) (some g) gs

/-- The code bytes: four codes in each. -/
def codeBytes : Nat → List Nat → List Byte
  | 0, _ => []
  | n + 1, cs => BitVec.ofNat 8 (cs.getD 0 0 + 4 * cs.getD 1 0 + 16 * cs.getD 2 0 + 64 * cs.getD 3 0) :: codeBytes n (cs.drop 4)

def encodeRegion (gs : List (List Byte)) (poisoned : Nat → Bool) : List Byte :=
  let cs := encodeGrans poisoned 0 none gs
  let pay := cs.flatMap (·.2)
  leBytes 4 gs.length ++ leBytes 4 0 ++ leBytes 8 pay.length ++ padTo 8 (codeBytes ((gs.length + 3) / 4) (cs.map (·.1))) ++ padTo 8 pay

/-- Granules from codes and a payload; none where a code or the payload's length is wrong. -/
def decodeGrans (code : Nat → Nat) : Nat → Nat → Option (List Byte) → List Byte → Option (List (List Byte))
  | 0, _, _, pay => if pay.isEmpty then some [] else none
  | n + 1, i, prev, pay =>
    match code i with
    | 0 => (decodeGrans code n (i + 1) (some gran0) pay).map (gran0 :: ·)
    | 1 =>
      if pay.length < 4 then none
      else
        let g := (List.replicate 16 (pay.take 4)).flatten
        (decodeGrans code n (i + 1) (some g) (pay.drop 4)).map (g :: ·)
    | 2 => if pay.length < 64 then none else (decodeGrans code n (i + 1) (some (pay.take 64)) (pay.drop 64)).map (pay.take 64 :: ·)
    | _ =>
      match prev with
      | none => none
      | some g => (decodeGrans code n (i + 1) (some g) pay).map (g :: ·)

def decodeRegion (ngran : Nat) (bs : List Byte) : Option (List (List Byte)) :=
  let nc := (ngran + 3) / 4
  let ncp := (nc + 7) / 8 * 8
  let len := fld bs 8 8
  let codes := (bs.drop 16).take ncp
  let rest := bs.drop (16 + ncp)
  if fld bs 0 4 ≠ ngran ∨ fld bs 4 4 ≠ 0 ∨ bs.length ≠ 16 + ncp + (len + 7) / 8 * 8 ∨ (codes.drop nc).any (· != 0#8) ∨
    (rest.drop len).any (· != 0#8) ∨ (ngran % 4 ≠ 0 ∧ fld codes (nc - 1) 1 ≥ 4 ^ (ngran % 4)) then none
  else decodeGrans (fun i => bitsAt (fld codes (i / 4) 1) (2 * (i % 4)) 2) ngran 0 none (rest.take len)

/-- Storage as granules, and granules as storage: a granule that is not zero gets its written bit (R197). -/
def granules (m : Assoc Byte) (a n : Nat) : List (List Byte) := (List.range n).map fun i => Map.getN (fun _ => 0#8) m (a + 64 * i) 64

def storeOf (gs : List (List Byte)) : Store :=
  { bytes := Map.setN (fun _ => 0#8) [] 0 gs.flatten,
    written := ((List.range gs.length).filter fun i => gs.getD i [] != gran0).map fun i => (i, true) }

/-! Job records (R220, R286). -/

/-- A restart record. -/
def restartBytes (r : Restart) : List Byte :=
  let os := (r.opnds.filter fun o => decide (o.which ≤ 4)).filter fun o => decide (o.which ≤ 3) || o.tile
  let one (o : Opnd) : List Byte :=
    [BitVec.ofNat 8 (128 + o.tile.toNat * 64 + min o.which 3 * 16 + o.idx % 16), if o.which = 4 then 8#8 else 0#8] ++ leBytes 2 0 ++
      leBytes 8 o.value.toNat
  let body := (os.take 4).flatMap one
  leBytes 8 r.pc ++ leBytes 2 r.cursor ++ [BitVec.ofNat 8 r.ckind, BitVec.ofNat 8 (min os.length 4)] ++ leBytes 4 0 ++ body ++
    List.replicate (48 - body.length) 0#8

def restartOf (bs : List Byte) : Restart :=
  { pc := fld bs 0 8, cursor := fld bs 8 2, ckind := fld bs 10 1,
    opnds := (List.range (min (fld bs 11 1) 4)).map fun i =>
      let o := 16 + 12 * i
      let b := fld bs o 1
      let w := bitsAt b 4 2
      ⟨if w = 3 ∧ fld bs (o + 1) 1 = 8 then 4 else w, bitsAt b 6 1 == 1, bitsAt b 0 4, BitVec.ofNat 64 (fld bs (o + 4) 8)⟩ }

/-- An RTT entry as 32 bytes (R275). -/
def rttBytes (r : Rtt) : List Byte :=
  leBytes 8 r.base ++ leBytes 8 r.limit ++ leBytes 8 r.offset ++
    leBytes 8 (r.dref * 4096 + r.dkind.toNat * 128 + r.integ.toNat * 16 + r.sealed.toNat * 8 + r.ms.toNat * 4 + r.w.toNat * 2 +
      (r.v && ! r.stale).toNat)

def rttOf (bs : List Byte) : Rtt :=
  let a := fld bs 24 8
  { base := fld bs 0 8, limit := fld bs 8 8, offset := fld bs 16 8, dref := bitsAt a 12 52, dkind := bitsAt a 7 1 == 1,
    integ := bitsAt a 4 1 == 1, sealed := bitsAt a 3 1 == 1, ms := bitsAt a 2 1 == 1, w := bitsAt a 1 1 == 1, v := bitsAt a 0 1 == 1,
    stale := false }

/-- A captured pattern as a descriptor whose BASE is the one formed (R251). -/
def patternBytes (p : Pattern) : List Byte :=
  if p.raw.isEmpty then List.replicate 64 0#8
  else
    let ctrl := fld p.raw 8 1
    leBytes 8 p.base ++ [BitVec.ofNat 8 (if bitsAt ctrl 1 2 = 2 then ctrl - 4 else ctrl)] ++ p.raw.drop 9

def entryWord : Entry → Nat
  | .scalar w => w.toNat
  | .handle t => t
  | .reserved _ => 0

def isHandle : Entry → Bool
  | .handle _ => true
  | _ => false

def chanBytes (q : List Entry) : List Byte :=
  let mask := (List.range 8).foldl (fun m i => if (q[i]?.map isHandle).getD false then m + 2 ^ i else m) 0
  [BitVec.ofNat 8 q.length, BitVec.ofNat 8 mask] ++ leBytes 6 0 ++ (q.flatMap fun e => leBytes 8 (entryWord e)) ++
    List.replicate (64 - 8 * q.length) 0#8 ++ leBytes 8 0

def chanOf (bs : List Byte) : List Entry :=
  (List.range (min (fld bs 0 1) 8)).map fun i =>
    if bitsAt (fld bs 1 1) i 1 = 1 then .handle (fld bs (8 + 8 * i) 8) else .scalar (BitVec.ofNat 64 (fld bs (8 + 8 * i) 8))

def portBytes (p : Port) : List Byte :=
  (if p.bound then patternBytes p.pat else List.replicate 64 0#8) ++ leBytes 8 p.pos ++
    [BitVec.ofNat 8 (if p.bound then 128 + p.eng.no else 0), BitVec.ofNat 8 p.eos.toNat] ++ leBytes 6 0

def portOf (bs : List Byte) : Port :=
  let b := fld bs 72 1
  if 128 ≤ b then ⟨true, Pattern.ofBytes [] (bs.take 64), fld bs 64 8, Eng.ofNo (b % 4), fld bs 73 1 == 1⟩
  else ⟨false, .empty, fld bs 64 8, .A, fld bs 73 1 == 1⟩

/-- The PC of a stream in a record: 0 where it has executed JOIN (log 43). -/
def Hart.recordPc (h : Hart) : Nat :=
  match h.stat with
  | .running => h.pc
  | .stopped _ _ => h.restart.pc
  | _ => 0

/-- The 16,384 bytes of a job record; tasks are named by their number. -/
def jobRecordBytes (f : Frame) : List Byte :=
  let j := f.job
  let hs := engines.map fun e => f.harts.getD e.no Hart.reset
  let k (i : Nat) := j.counter i
  let body := leBytes 2 j.lcore ++ [BitVec.ofNat 8 j.emask.toNat, BitVec.ofNat 8 j.cls] ++ leBytes 4 j.task ++ leBytes 8 j.step.toNat ++
    leBytes 8 j.j ++ [BitVec.ofNat 8 (j.timed.toNat + f.running.toNat * 2)] ++ leBytes 7 0 ++ (hs.flatMap fun h => leBytes 8 h.recordPc) ++
    (hs.flatMap fun h => (range 1 31).flatMap fun i => leBytes 8 (h.sreg i).toNat) ++ (hs.map fun h => BitVec.ofNat 8 h.guardBits) ++
    leBytes 4 0 ++ ((List.range 64).flatMap fun i => leBytes 16 (Map.get (fun _ => 0#128) j.desc i).toNat) ++
    ((List.range 16).flatMap fun i => chanBytes (j.chan i)) ++ ((List.range 16).flatMap fun i => portBytes (j.port i)) ++
    ((List.range 256).flatMap fun i => leBytes 8 (k i).phys.toNat ++ leBytes 8 (k i).base.toNat) ++
    ((List.range 256).flatMap fun i => leBytes 2 (match (k i).poison with | some c => 0x8000 + c.toNat | none => 0)) ++
    ((List.range 64).flatMap fun i => rttBytes (j.rttAt i)) ++ leBytes 8 j.dqHead ++ leBytes 8 ((j.dqHead + j.deque.length) % 256) ++
    ((List.range 256).flatMap fun i =>
      leBytes 8 (match j.deque[(i + 256 - j.dqHead % 256) % 256]? with | some e => e.1.toNat | none => 0)) ++
    (hs.flatMap fun h => restartBytes h.restart)
  body ++ List.replicate (16384 - body.length) 0#8

/-- A job and its contexts from a record. What a record does not hold is open: the flags and causes of its streams and the REL
values it ran with (log 43). -/
def jobOfRecord (bs : List Byte) (id part slot : Nat) (node : List Byte) (tick : Nat) : Frame :=
  let w (o : Nat) : Word := BitVec.ofNat 64 (fld bs o 8)
  let emask : BitVec 4 := BitVec.ofNat 4 (fld bs 2 1)
  let set (n : Nat) (f : Nat → Word) : Assoc Word := Map.setN (fun _ => 0#64) [] 0 ((List.range n).map f)
  let dqh := fld bs 11304 8 % 256
  let dqn := (fld bs 11312 8 + 256 - dqh) % 256
  let job : Job :=
    { Job.absent with
      live := true, id := id, part := part, task := fld bs 4 4, cls := fld bs 3 1, lcore := fld bs 0 2, first := taskFirst node,
      nlc := taskNlc node, emask := emask, step := w 8, slot := slot, timed := bitsAt (fld bs 24 1) 0 1 == 1, j := fld bs 16 8,
      desc := Map.setN (fun _ => 0#128) [] 0 ((List.range 64).map fun i => BitVec.ofNat 128 (fld bs (1064 + 16 * i) 16)),
      chans := Map.setN (fun _ => []) [] 0 ((List.range 16).map fun i => chanOf ((bs.drop (2088 + 80 * i)).take 80)),
      ports := Map.setN (fun _ => Port.unbound) [] 0 ((List.range 16).map fun i => portOf ((bs.drop (3368 + 80 * i)).take 80)),
      counters := Map.setN (fun _ => Counter.zero) [] 0 ((List.range 256).map fun i =>
        ⟨w (4648 + 16 * i), w (4656 + 16 * i), let p := fld bs (8744 + 2 * i) 2; if 0x8000 ≤ p then some (BitVec.ofNat 10 p) else none, []⟩),
      rtt := Map.setN (fun _ => Rtt.invalid) [] 0 ((List.range 64).map fun i => rttOf ((bs.drop (9256 + 32 * i)).take 32)),
      deque := (List.range dqn).map fun i => (w (11320 + 8 * ((dqh + i) % 256)), []), dqHead := dqh,
      rel := set 16 fun i => Config.word tick i }
  let hart (e : Eng) : Hart :=
    let pc := fld bs (32 + 8 * e.no) 8
    if ! emask.getLsbD e.no then Hart.reset
    else
      { Hart.reset with
        pc := pc, stat := if pc = 0 then .joined else .running, newLine := true,
        s := Map.setN (fun _ => 0#64) [] 1 ((List.range 31).map fun i => w (64 + 248 * e.no + 8 * i)),
        g := Map.setN (fun _ => false) [] 1 ((range 1 7).map fun i => bitsAt (fld bs (1056 + e.no) 1) i 1 == 1),
        cause := (Config.word tick (16 + e.no)).setWidth 10, fpf := (Config.word tick (20 + e.no)).setWidth 5,
        restart := restartOf ((bs.drop (13368 + 64 * e.no)).take 64) }
  { job := job, harts := engines.map hart, running := bitsAt (fld bs 24 1) 1 1 == 1, fresh := false, bad := false }

/-! Private writes and Cart entries (R219). -/

/-- The private granules of a frame's streams, oldest first; the low bits of the address hold the stream (log 43). -/
def privBytes (f : Frame) : List Byte :=
  f.job.privOrder.flatMap fun (e, g) =>
    let h := f.harts.getD e Hart.reset
    let at_ (i : Nat) := Map.find h.priv (64 * g + i)
    let mask := (List.range 64).foldl (fun m i => if (at_ i).isSome then m + 2 ^ i else m) 0
    leBytes 8 (64 * g + e) ++ leBytes 8 mask ++ (List.range 64).map fun i => (at_ i).getD 0#8

/-- One private granule laid into its stream's context. -/
def addPriv (f : Frame) (bs : List Byte) : Frame :=
  let a := fld bs 0 8
  let mask := fld bs 8 8
  let e := a % 4
  let h := f.harts.getD e Hart.reset
  let priv := (List.range 64).foldl (fun m i =>
    if bitsAt mask i 1 = 1 then Map.insert m (a / 64 * 64 + i) ((bs.drop (16 + i)).headD 0#8) else m) h.priv
  { f with harts := f.harts.set e { h with priv := priv }, job := { f.job with privOrder := f.job.privOrder ++ [(e, a / 64)] } }

/-- A Cart entry: its slots, its record with the bases formed (for ATOMN, its two operands), and its queue. -/
def cartBytes (store : Bool) (q : CartCmd) : List Byte :=
  let r := q.cr
  let rec_ := if r.raw.isEmpty then leBytes 8 q.a.toNat ++ leBytes 8 q.b.toNat ++ List.replicate 48 0#8
    else
      let sp := fld r.raw 16 1
      let sp := (if bitsAt sp 0 2 = 2 then sp - 2 else sp) - (if bitsAt sp 2 2 = 2 then 8 else 0)
      leBytes 8 r.src.toNat ++ leBytes 8 r.dst.toNat ++ [BitVec.ofNat 8 sp] ++ r.raw.drop 17
  leBytes 8 q.w0.toNat ++ leBytes 8 q.w1.toNat ++ rec_ ++ [BitVec.ofNat 8 store.toNat] ++ leBytes 15 0

/-- A Cart entry back in its queue; operands and counter references come from the A stream's registers (log 43). -/
def cartOf (f : Frame) (id : Nat) (bs : List Byte) : Bool × CartCmd :=
  let w0 : Word := BitVec.ofNat 64 (fld bs 0 8)
  let w1 : Word := BitVec.ofNat 64 (fld bs 8 8)
  let opc := slotOpc w0
  let x := slotArgs w0
  let h := f.harts.getD 0 Hart.reset
  let raw := (bs.drop 16).take 64
  let reg (code : BitVec 8) : Word := match Sel.ofCode code with | .s n => h.sreg n | _ => 0#64
  let atom := opc == 0xE6
  (fld bs 80 1 == 1,
    { id := id, w0 := w0, w1 := w1, opc := opc, fn := slotFn w0, mod := x.mod, pc := h.recordPc,
      cr := if atom then .empty else (cartRec raw).based [],
      a := if atom then BitVec.ofNat 64 (fld bs 16 8) else reg x.a, b := if atom then BitVec.ofNat 64 (fld bs 24 8) else reg x.b,
      cl := clausesOf h (slotExt w1), started := false, dest := none, sent := false, done := 0, sub := 0, entry := none, gs := [],
      bad := none, floor := .zero })

/-- Parts of `n` bytes. -/
def splitBytes (n : Nat) (bs : List Byte) : List (List Byte) := (List.range (bs.length / n)).map fun i => (bs.drop (n * i)).take n

end Sys2Proof.Machine
end

