-- ==== Sys2Proof/Machine/PsbImage.lean ====
section
/-! DEFINITION. Section 0x13 of an image (R208, R219): the results in the pipeline snapshot buffer and the M and F commands that stand
at a boundary. The spec gives no layout for it; here it is a list of 16-byte numbers (log 43). -/
namespace Sys2Proof.Machine

/-! Writing. -/

def putB (b : Bool) : List Nat := [b.toNat]
def putO {α : Type} (f : α → List Nat) : Option α → List Nat
  | none => [0]
  | some a => 1 :: f a
def putL {α : Type} (f : α → List Nat) (l : List α) : List Nat := l.length :: l.flatMap f

def putDesc (d : Desc) : List Nat := [d.toBits.toNat]
def putPat (p : Pattern) : List Nat := (patternBytes p).map (·.toNat)
def putPort (x : Nat × Pattern × Nat) : List Nat := x.1 :: x.2.2 :: putPat x.2.1

def putTile : TileRef → List Nat
  | .store d => 0 :: putDesc d
  | .data d rows => 1 :: putDesc d ++ putL (putL fun e => [e]) rows
  | .scratch p pos => 2 :: pos :: putPat p

def putCRef : CRef → List Nat
  | .core n => [0, n]
  | .mem r => [1, r.toNat]

def putCl (c : Clauses) : List Nat :=
  putO putCRef c.wait ++ [c.thr] ++ putB c.acq ++ putO putCRef c.sig ++ [c.sinc] ++ putB c.rel

def putOp : MfOp → List Nat
  | .mma opc z t pair bank a b sa sb gran =>
    [0, opc] ++ putB z ++ putB t ++ putB pair ++ [bank, gran] ++ putTile a ++ putTile b ++ putO putTile sa ++ putO putTile sb
  | .accld bank a => [1, bank] ++ putTile a
  | .accst d port bank af rm sat => [2, bank, af, rm] ++ putB sat ++ putDesc d ++ putO putPort port
  | .accclr bank => [3, bank]
  | .accstg addr pitch bank af rows cols typ sp rm sat => [4, addr.toNat, pitch.toNat, bank, af, rows, cols, typ, rm] ++ putB sp ++ putB sat
  | .fft inv scale a d n sq => [5, n] ++ putB inv ++ putB scale ++ putTile a ++ putDesc d ++ putL (fun e => [e]) sq
  | .rfft inv scale a d w n sq => [6, n] ++ putB inv ++ putB scale ++ putTile a ++ putDesc d ++ putDesc w ++ putL (fun e => [e]) sq
  | .fplan d w0 w1 => [7, w0.toNat, w1.toNat] ++ putDesc d
  | .leggen t a d port m l0 => [8, m, l0] ++ putB t ++ putTile a ++ putDesc d ++ putO putPort port
  | .ftwm a d port n inv row0 col0 => [9, n, row0, col0] ++ putB inv ++ putTile a ++ putDesc d ++ putO putPort port

def putCmd (m : MfCmd) : List Nat :=
  putOp m.op ++ [m.cursor, m.units, m.ckind] ++ putCl m.cl ++ [m.pc] ++ putO (fun p => [p.1, p.2]) m.push ++ [m.visible] ++ putB m.exact

def putPsb (p : Psb) : List Nat := p.eng.no :: p.left :: putCmd p.cmd

def psbBytes (j : Job) : List Byte :=
  if j.psb.isEmpty && j.mcmds.isEmpty && j.fcmds.isEmpty then []
  else (putL putPsb j.psb ++ putL putCmd j.mcmds ++ putL putCmd j.fcmds).flatMap fun n => leBytes 16 n

/-! Reading. -/

abbrev Parse (α : Type) := StateT (List Nat) Option α

def tok : Parse Nat := fun l =>
  match l with
  | [] => none
  | n :: r => some (n, r)

def getB : Parse Bool := do let n ← tok; pure (n == 1)
def getO {α : Type} (p : Parse α) : Parse (Option α) := do
  let n ← tok
  if n = 0 then pure none else let a ← p; pure (some a)
def getN {α : Type} (p : Parse α) : Nat → Parse (List α)
  | 0 => pure []
  | n + 1 => do let a ← p; let r ← getN p n; pure (a :: r)
def getL {α : Type} (p : Parse α) : Parse (List α) := do
  let n ← tok
  let s ← get
  if s.length < n then failure else getN p n

def getDesc : Parse Desc := do let n ← tok; pure (Desc.ofBits (BitVec.ofNat 128 n))
def getPat : Parse Pattern := do let bs ← getN tok 64; pure (Pattern.ofBytes [] (bs.map (BitVec.ofNat 8)))
def getPort : Parse (Nat × Pattern × Nat) := do let n ← tok; let pos ← tok; let p ← getPat; pure (n, p, pos)

def getTile : Parse TileRef := do
  match ← tok with
  | 0 => let d ← getDesc; pure (.store d)
  | 1 => let d ← getDesc; let r ← getL (getL tok); pure (.data d r)
  | 2 => let pos ← tok; let p ← getPat; pure (.scratch p pos)
  | _ => failure

def getCRef : Parse CRef := do
  let k ← tok
  let n ← tok
  pure (if k = 0 then .core n else .mem (BitVec.ofNat 64 n))

def getCl : Parse Clauses := do
  let wait ← getO getCRef
  let thr ← tok
  let acq ← getB
  let sig ← getO getCRef
  let sinc ← tok
  let rel ← getB
  pure ⟨wait, thr, acq, sig, sinc, rel⟩

def getOp : Parse MfOp := do
  match ← tok with
  | 0 => do
    let opc ← tok; let z ← getB; let t ← getB; let pair ← getB; let bank ← tok; let gran ← tok
    let a ← getTile; let b ← getTile; let sa ← getO getTile; let sb ← getO getTile
    pure (.mma opc z t pair bank a b sa sb gran)
  | 1 => do let bank ← tok; let a ← getTile; pure (.accld bank a)
  | 2 => do
    let bank ← tok; let af ← tok; let rm ← tok; let sat ← getB; let d ← getDesc; let port ← getO getPort
    pure (.accst d port bank af rm sat)
  | 3 => do let bank ← tok; pure (.accclr bank)
  | 4 => do
    let addr ← tok; let pitch ← tok; let bank ← tok; let af ← tok; let rows ← tok; let cols ← tok; let typ ← tok; let rm ← tok
    let sp ← getB; let sat ← getB
    pure (.accstg (BitVec.ofNat 64 addr) (BitVec.ofNat 64 pitch) bank af rows cols typ sp rm sat)
  | 5 => do
    let n ← tok; let inv ← getB; let scale ← getB; let a ← getTile; let d ← getDesc; let sq ← getL tok
    pure (.fft inv scale a d n sq)
  | 6 => do
    let n ← tok; let inv ← getB; let scale ← getB; let a ← getTile; let d ← getDesc; let w ← getDesc; let sq ← getL tok
    pure (.rfft inv scale a d w n sq)
  | 7 => do let w0 ← tok; let w1 ← tok; let d ← getDesc; pure (.fplan d (BitVec.ofNat 64 w0) (BitVec.ofNat 64 w1))
  | 8 => do
    let m ← tok; let l0 ← tok; let t ← getB; let a ← getTile; let d ← getDesc; let port ← getO getPort
    pure (.leggen t a d port m l0)
  | 9 => do
    let n ← tok; let row0 ← tok; let col0 ← tok; let inv ← getB; let a ← getTile; let d ← getDesc; let port ← getO getPort
    pure (.ftwm a d port n inv row0 col0)
  | _ => failure

def getCmd : Parse MfCmd := do
  let op ← getOp
  let cursor ← tok
  let units ← tok
  let ckind ← tok
  let cl ← getCl
  let pc ← tok
  let push ← getO (do let a ← tok; let b ← tok; pure (a, b))
  let visible ← tok
  let exact_ ← getB
  pure { op := op, cursor := cursor, units := units, ckind := ckind, cl := cl, pc := pc, push := push, visible := visible,
         exact := exact_, gs := [] }

def getPsb : Parse Psb := do
  let e ← tok
  let left ← tok
  let c ← getCmd
  pure ⟨c, Eng.ofNo e, left⟩

/-- The commands of a section 0x13, laid into a job; none where it is malformed. -/
def addPsb (j : Job) (bs : List Byte) : Option Job :=
  if bs.isEmpty then some j
  else
    let p : Parse Job := do
      let psb ← getL getPsb
      let m ← getL getCmd
      let f ← getL getCmd
      pure { j with psb := psb, mcmds := m, fcmds := f }
    match p ((splitBytes 16 bs).map fun b => leVal b) with
    | some (x, []) => some x
    | _ => none

end Sys2Proof.Machine
end

