-- ==== Sys2Proof/Machine/Sync.lean ====
section
/-! DEFINITION. Fences, sealing and QBAR (R397–R399), and the invalidation of translations (R282). -/
namespace Sys2Proof.Machine

/-! Fences (R299, R300). -/

/-- Waiting until the stream's accesses to immediate storage have taken effect. -/
def afterImmediate (x : Exec Unit) : Exec Unit := do
  let s ← get
  if s.addsOut (agentNo s.cur) then block .custody else x

/-- The release half: a plain add behind the fence carries it. -/
def fenceRelease (scope : Nat) : Exec Unit := do
  let id ← releaseHere scope
  updHart fun h => { h with fenceRel := some id }

/-- The acquire half: what the stream's last plain wait observed. -/
def fenceAcquire (scope : Nat) : Exec Unit := do
  let s ← get
  acquire s.cur scope (s.hart s.cur).lastWait

def fence (x : Args) (rel acq : Bool) : Exec Unit :=
  afterImmediate do
    if rel then fenceRelease (scopeOf x)
    if acq then fenceAcquire (scopeOf x)
    retire 1

/-! Invalidation (R282). -/

def Rtt.overlaps (r : Rtt) (lo hi : Nat) : Bool := r.v && decide (r.base ≤ hi) && decide (lo ≤ r.limit)

def Job.stale (j : Job) (lo hi : Nat) : Job :=
  { j with rtt := j.rtt.map fun e => if e.2.overlaps lo hi then (e.1, { e.2 with stale := true }) else e }

/-- From now on no core of the partition uses an entry that overlaps the range under its old contents. -/
def startInvalidation (k lo hi : Nat) : Exec Unit := do
  let s ← get
  each (s.part k).phys fun c => updJob c fun j => j.stale lo hi
  modify fun s => { s with frames := s.frames.map fun e =>
    if e.2.job.part = k then (e.1, { e.2 with job := e.2.job.stale lo hi }) else e }

/-- The pin flags and the record of dirty bits of the range. -/
def endInvalidation (k lo hi : Nat) : Exec Unit := do
  let s ← get
  each (s.part k).phys fun c => updCore c fun x =>
    { x with dirtied := x.dirtied.filter fun p => decide (p < lo / 65536) || decide (hi / 65536 < p) }
  updPart k fun p => { p with slots := p.slots.map fun e =>
    (e.1, { e.2 with pins := e.2.pins.map fun q => if q.base ≤ hi ∧ lo ≤ q.limit then { q with flag := false } else q }) }

/-! Sealing (R310, R311, R398). -/

/-- The present leaves of a page table that overlap a range, with the addresses of their ATTR bytes, in address order. -/
def State.leavesIn (s : State) (lo hi : Nat) : Nat → Nat → Except Cause (List (Leaf × Nat))
  | 0, _ => .error 0x147#10
  | fuel + 1, node =>
    let typ := s.nat node 1
    let cnt := s.nat (node + 1) 1
    if ! inHbm node 512 || decide (1 < typ) || cnt == 0 || decide (15 < cnt) then .error 0x147#10
    else
      (List.range cnt).foldr (fun i acc =>
        let e := s.ptEntry node i
        if hi < e.base ∨ e.limit < lo then acc
        else
          match acc with
          | .error c => .error c
          | .ok rest =>
            if typ = 0 then
              (match s.leavesIn lo hi fuel e.link with
                | .error c => .error c
                | .ok l => .ok (l ++ rest))
            else if bitsAt e.attr 0 1 = 0 then .ok rest
            else .ok ((⟨e.base, e.limit, e.link, 0, false, false, bitsAt e.attr 3 1 == 1, false, false, node + 16 + 32 * i + 24, 0,
                true⟩, e.attr) :: rest)) (.ok [])

/-- Whether every page from `a` to `hi` lies in an entry of a job's RTT. -/
def Job.covered (j : Job) (hi : Nat) : Nat → Nat → Bool
  | 0, _ => false
  | fuel + 1, a =>
    if hi < a then true
    else
      match (List.range 64).find? fun i => let r := j.rttAt i; r.v && decide (r.base ≤ a) && decide (a ≤ r.limit) with
      | none => false
      | some i => j.covered hi fuel ((j.rttAt i).limit + 1)

/-- The checks of SEAL and UNSEAL: the leaves of the range. -/
def sealLeaves (a b : Word) : Exec (List (Leaf × Nat)) := do
  if a.toNat % 65536 ≠ 0 ∨ b.toNat % 65536 ≠ 65535 ∨ b.toNat < a.toNat then trapAt 0x143#10 a
  else do
    let s ← get
    let c := s.cur.coreNo
    let k := (s.job c).part
    let ls := if s.flag (Reg.ptRoot k) 0 then s.leavesIn a.toNat b.toNat 64 (s.field (Reg.ptRoot k) 9 43 * 512) else .ok []
    match ls with
    | .error f => trapAt f a
    | .ok ls =>
      match ls.find? fun l => decide (l.1.base < a.toNat) || decide (b.toNat < l.1.limit) with
      | some l => trapAt 0x147#10 (BitVec.ofNat 64 l.1.base)
      | none =>
        if (s.job c).covered b.toNat 65 a.toNat && canonical a.toNat && canonical b.toNat then pure ls else trapAt 0x140#10 a

/-- SEAL and UNSEAL: the release, the leaves, and the wait for the effect point, at which the invalidation completes. -/
def sealRange (x : Args) (on : Bool) : Exec Unit := do
  let a ← readSrc 1 x.a
  let b ← readSrc 2 x.b
  let s ← get
  let c := s.cur.coreNo
  let k := (s.job c).part
  if (s.hart s.cur).blocked == .sealing then
    (if (s.part k).seals.any fun e => e.1 == c then block .sealing else retire 1)
  else do
    let ls ← sealLeaves a b
    let _ ← releaseHere 3
    if ls.all fun l => l.1.seal_ == on then retire 1
    else do
      each ls fun l => do
        let d := BitVec.ofNat 8 (l.2 % 256)
        let _ ← blockWrite [(l.1.attrPa, if on then d ||| 8#8 else d &&& ~~~8#8)] none
        pure ()
      startInvalidation k a.toNat b.toNat
      updPart k fun p => { p with seals := p.seals ++ [(c, a.toNat, b.toNat, on)] }
      block .sealing

/-! QBAR (R399, R314). -/

/-- QBAR: a system-scope release; the wait for every job of the task and for the sweep; a system-scope acquire. -/
def qbarHere : Exec Unit := do
  let s ← get
  let c := s.cur.coreNo
  if (s.hart s.cur).blocked == .qbar then
    (if (s.job c).qbar then block .qbar
      else do
        acquire s.cur 4 []
        retire 1)
  else do
    let _ ← releaseHere 4
    updJob c fun j => { j with qbar := true }
    qbarReached (s.job c).part (s.job c).task
    block .qbar

/-! The instructions. -/

def execFenceRel (x : Args) (s : State) : Host.Outcome State Fault Refusal :=
  run (.one 0x42#8 0#4 x) .fence (fence x true false) s

def execFenceAcq (x : Args) (s : State) : Host.Outcome State Fault Refusal :=
  run (.one 0x42#8 1#4 x) .fence (fence x false true) s

def execFenceAr (x : Args) (s : State) : Host.Outcome State Fault Refusal :=
  run (.one 0x42#8 2#4 x) .fence (fence x true true) s

def execSealRange (x : Args) (s : State) : Host.Outcome State Fault Refusal :=
  run (.one 0x43#8 0#4 x) .srcAB (sealRange x true) s

def execUnsealRange (x : Args) (s : State) : Host.Outcome State Fault Refusal :=
  run (.one 0x43#8 1#4 x) .srcAB (sealRange x false) s

def execQbar (x : Args) (s : State) : Host.Outcome State Fault Refusal :=
  run (.one 0x43#8 2#4 x) .nop (qbarHere) s


end Sys2Proof.Machine
end

