-- ==== Sys2Proof/Machine/Migrate.lean ====
section
/-! DEFINITION. Clearing a partition (R160, R161), FREEZE and THAW (R214–R224). -/
namespace Sys2Proof.Machine

/-! The cores and the cleared state of a partition. -/

/-- The physical cores of a mask of half-clusters, in R161 order. -/
def maskCores (mask : Nat) : List Nat :=
  (List.range 8).flatMap fun h => if bitsAt mask h 1 = 1 then range (32 * (h / 2) + 16 * (h % 2)) 16 else []

def State.memberCores (s : State) (k : Nat) : List Nat := maskCores (s.field (Reg.partCtl k) 16 8)

/-- A core without a job, its storage and counters clear (R160). -/
def clearCore (c l : Nat) : Exec Unit := do
  let a := aliasOf c 0
  modify fun s =>
    { s with mem := Map.clear s.mem a (a + 4194304), blocks := Map.clear s.blocks (a / 256) (a / 256 + 16384),
             mcnts := Map.clear s.mcnts a (a + 4194304), swritten := Map.clear s.swritten (a / 64) (a / 64 + 65536) }
  updCore c fun x => { x with job := .absent, resting := [], resident := l, dirtied := [], deadCycles := 0 }
  each engines fun e => updHartOf (.stream c e) fun _ => Hart.reset

/-- Queues, slot table, tasks, transfers and sequencer of a partition cleared; its completion events stay. -/
def clearPart (k lcores : Nat) (phys : List Nat) : Exec Unit := do
  updPart k fun p => { Part.reset with cpl := p.cpl, lcores := lcores, phys := phys, epoch := p.epoch }
  modify fun s => { s with frames := s.frames.filter fun e => e.2.job.part != k }
  setReg (Reg.seqQbar k) 0#64
  dropRanks k

/-! FREEZE: the sections of an image (R217–R219). -/

/-- A job that has not begun, as it would begin (R226). -/
def State.begun (s : State) (k : Nat) (f : Frame) : Frame :=
  if ! f.fresh then f
  else
    let p := s.part k
    let t := Map.get (fun _ => Task.absent) p.tasks f.job.task
    let c := p.coreOf f.job.lcore
    let rtt := match s.loadRanges k (s.startRel t c) (p.slot t.slot) t.node (taskRlcnt t.node) with | .ok m => m | .error _ => []
    { f with job := s.newJob k f.job.task t f.job.lcore f.job.id c rtt,
             harts := engines.map fun e =>
               if bitsAt (taskEmask t.node) e.no 1 = 1 then { Hart.reset with pc := 64 * taskEntry t.node e + 8, stat := .running } else Hart.reset }

/-- The jobs of a partition, by number. -/
def State.partFrames (s : State) (k : Nat) : List Frame := (s.frames.filter fun e => e.2.job.part == k).map fun e => s.begun k e.2

abbrev Section := Nat × Nat × List Byte

/-- A queue entry of 128 bytes for each of its ring entries. -/
def queueBytes (e : QEntry) (ref : Nat) : List Byte :=
  let one (b : List Byte) : List Byte :=
    [BitVec.ofNat 8 e.source, BitVec.ofNat 8 e.reserve.toNat] ++ leBytes 2 0 ++ leBytes 4 ref ++ List.replicate 56 0#8 ++ b
  (splitBytes 64 e.bytes).flatMap one

def taskBytes (s : State) (k n : Nat) (t : Task) : List Byte :=
  let fs := (s.partFrames k).filter fun f => f.job.task == n
  t.node ++ [BitVec.ofNat 8 t.cls, BitVec.ofNat 8 t.firstUsed.toNat] ++ leBytes 6 0 ++ leBytes 8 t.step.toNat ++
    leBytes 16 (fs.foldl (fun m f => m + 2 ^ (f.job.lcore - f.job.first)) 0) ++ leBytes 4 fs.length

/-- Whether an entry that keeps the head of its class has dispatched: COACH, XPOSE and QBAR. -/
def QEntry.underWay (e : QEntry) : Bool :=
  e.stage == .acting && (e.source == 2 || (e.source == 0 && (entKind e.bytes == 3 || entKind e.bytes == 9)))

/-- The dispatched entries that are not complete, with the number of their transfers. -/
def Part.dispatched (p : Part) : List (QEntry × Nat) :=
  let heads := (List.range 4).filterMap fun c => (p.queue c).head?.bind fun e => if e.underWay then some e else none
  (p.running ++ heads).map fun e =>
    (e, match p.transfers.find? fun t => t.2.entry == some e with | some t => t.1 | none => 0)

/-- What stays in a class queue: all but dispatched heads and the MIGRATE itself. -/
def Part.waiting (p : Part) (c : Nat) : List QEntry :=
  (p.queue c).filter fun e => ! e.underWay && ! (e.source == 0 && entKind e.bytes == 8 && e.stage == .acting)

/-- The place of a logical core's scratchpad. -/
def State.scratchBase (s : State) (k l : Nat) : Nat := s.scratchPa k l 0

/-- The pages of a partition whose dirty bits are set (R213). -/
def State.dirtyPages (s : State) (k : Nat) : List Nat :=
  if ! s.flag (Reg.ptRoot k) 0 then []
  else
    match s.leavesIn 0 (2 ^ 64 - 1) 1024 (s.field (Reg.ptRoot k) 9 43 * 512) with
    | .error _ => []
    | .ok ls => ls.flatMap fun (l, a) =>
      let n := (l.limit + 1 - l.base) / 65536
      if bitsAt a 6 1 = 1 then
        ((Map.slice s.mem l.target (l.target + 8 * n)).filter fun e => (e.1 - l.target) % 8 == 0 && e.2.getLsbD 1).map fun e =>
          l.base + 65536 * ((e.1 - l.target) / 8)
      else
        let d := bitsAt a 16 36 * 65536
        if d = 0 then [] else ((Map.slice s.mem d (d + n)).filter fun e => e.2.getLsbD 0).map fun e => l.base + 65536 * (e.1 - d)

/-- Whether a granule of the integrity domain is poisoned. -/
def State.granPoisoned (s : State) (g : Nat) : Bool := (s.meta (g / 4)).poison.isSome

def State.imageSections (s : State) (k : Nat) : List Section :=
  let p := s.part k
  let fs := s.partFrames k
  let js := List.range fs.length
  let f (i : Nat) : Frame := fs.getD i ⟨.absent, [], false, false, false⟩
  let nodes : List Section := if p.seq.before = .idle then [] else [(0x01, 0, p.seq.hdr ++ p.seq.nodes.flatten)]
  let slots : List Section := (p.slots.filter fun e => e.2.state != .empty).map fun e =>
    (0x02, e.1, leBytes 4 e.2.gen ++ [BitVec.ofNat 8 e.2.world.toNat] ++ leBytes 3 0 ++ leBytes 8 e.2.step.toNat ++
      leBytes 8 e.2.imglen ++ List.replicate 40 0#8 ++ e.2.bytes 0 e.2.imglen)
  let queues : List Section := ((List.range 4).filter fun c => ! (p.waiting c).isEmpty).map fun c =>
    (0x03, c, (p.waiting c).flatMap fun e => queueBytes e e.parent)
  let tasks : List Section := (p.tasks.filter (·.2.started)).map fun t => (0x04, t.1, taskBytes s k t.1 t.2)
  let trans : List Section := (List.range p.transfers.length).filterMap fun i => (p.transfers[i]?).map fun t =>
    (0x05, i, t.2.block ++ leBytes 8 t.2.step ++ leBytes 4 (if t.2.source = 1 then t.2.node else t.2.owner))
  let at_ (n : Nat) : Nat := ((p.transfers.map (·.1)).idxOf n)
  let disp : List Section := if p.dispatched.isEmpty then [] else
    [(0x06, 0, p.dispatched.flatMap fun (e, n) => queueBytes e (if e.source = 2 ∨ entKind e.bytes = 3 then at_ n else 0))]
  let held : List Section := (List.range p.held.length).filterMap fun i => (p.held[i]?).map fun h => (0x07, i, h.payload)
  let recs : List Section := js.map fun i => (0x10, i, jobRecordBytes (f i))
  let tstores : List Section := js.map fun i => (0x11, i, encodeRegion (granules (f i).job.tstore.bytes 0 16384) fun _ => false)
  let accs : List Section := js.map fun i =>
    (0x12, i, encodeRegion (granules (f i).job.c0.bytes 0 3072 ++ granules (f i).job.c1.bytes 0 3072) fun _ => false)
  let psbs : List Section := (js.map fun i => (0x13, i, psbBytes (f i).job)).filter fun x => ! x.2.2.isEmpty
  let privs : List Section := (js.map fun i => (0x14, i, privBytes (f i))).filter fun x => ! x.2.2.isEmpty
  let carts : List Section := (js.map fun i =>
    (0x15, i, ((f i).job.loadQ.flatMap (cartBytes false)) ++ (f i).job.storeQ.flatMap (cartBytes true))).filter fun x => ! x.2.2.isEmpty
  let pads : List Section := (List.range p.lcores).map fun l =>
    (0x20, l, encodeRegion (granules s.mem (s.scratchBase k l) 65536) fun i => s.granPoisoned (s.scratchBase k l / 64 + i))
  let recs2 : List Section := (List.range p.lcores).map fun l => (0x21, l, s.bytes (s.shadowOf k l 4194304) 4096)
  let dirty : List Section := [(0x30, 0, (s.dirtyPages k).flatMap (leBytes 8))]
  let bad : List Section := [(0x31, 0, (List.range p.lcores).flatMap fun l =>
    ((List.range 65536).filter fun i => s.granPoisoned (s.scratchBase k l / 64 + i)).flatMap fun i =>
      leBytes 8 (0x20 * 2 ^ 48 + l * 2 ^ 32 + i))]
  nodes ++ slots ++ queues ++ tasks ++ trans ++ disp ++ held ++ recs ++ tstores ++ accs ++ psbs ++ privs ++ carts ++ pads ++ recs2 ++ dirty ++ bad

/-- Sections laid out from an offset on: the directory and the bodies. -/
def laySections : Nat → List Section → List Byte × List Byte
  | _, [] => ([], [])
  | o, (t, i, b) :: rest =>
    let body := padTo 64 b
    let (d, bs) := laySections (o + body.length) rest
    (leBytes 2 t ++ leBytes 2 i ++ leBytes 4 0 ++ leBytes 8 o ++ leBytes 8 b.length ++ leBytes 4 (crc32c b) ++ leBytes 4 0 ++ d, body ++ bs)

/-- NODE as the image gives it: a QBAR node whose sweep was open issues again. -/
def State.imageNode (s : State) (k : Nat) : Nat := if (s.part k).seq.qbarNode then (s.part k).seq.node - 1 else (s.part k).seq.node

/-- The image of a frozen partition. -/
def State.image (s : State) (k : Nat) : List Byte :=
  let p := s.part k
  let secs := s.imageSections k
  let start := (128 + 32 * secs.length + 63) / 64 * 64
  let (dir, body) := laySections start secs
  let before := if p.seq.qbarNode then SeqState.issue else p.seq.before
  let hdr := [0x4B#8, 0x51#8, 0x43#8, 0x58#8] ++ leBytes 2 1 ++ leBytes 2 p.lcores ++ leBytes 8 (start + body.length) ++
    leBytes 8 s.dcc.toNat ++ leBytes 8 (if s.multi k then p.epoch else 0) ++ leBytes 2 (s.fpid k) ++ leBytes 2 s.pkg ++
    [BitVec.ofNat 8 ((s.partWorld k).toNat + 2 * (s.multi k).toNat), BitVec.ofNat 8 before.code, BitVec.ofNat 8 p.seq.slot, 0#8] ++
    leBytes 2 (s.imageNode k) ++ leBytes 2 p.seq.cause.toNat ++ leBytes 4 secs.length ++ leBytes 8 p.seq.stepsLeft ++
    leBytes 8 (s.reg (Reg.seqQbar k)).toNat ++ ((List.range 4).flatMap fun c => leBytes 8 (Map.get (fun _ => 0) p.coachNum c)) ++ leBytes 28 0
  hdr ++ leBytes 4 (crc32c hdr) ++ padTo 64 dir ++ body

/-! FREEZE: the steps (R215, R216). -/

/-- The last MIGRATE failed. -/
def migrateFailed (k c : Nat) (e : QEntry) (cause : Cause) : Exec Unit := do
  setField (Reg.ctxStat k) 16 10 cause.toNat
  complete k c e cause 0#64

/-- Step 6 and 7: the image goes out, or the entry fails with the partition frozen as it is. -/
def writeImage (k c : Nat) (e : QEntry) : Exec Unit := do
  let s ← get
  let img := s.image k
  setField (Reg.ctxStat k) 0 3 2
  if entImglen e.bytes < img.length then migrateFailed k c e 0x340#10
  else
    match s.xlatRange k (entImgaddr e.bytes) img.length with
    | .error f => migrateFailed k c e f
    | .ok ps => do
      match ps.find? fun p => (s.placeFault false (s.partWorld k) p.1).isSome with
      | some p => migrateFailed k c e ((s.placeFault false (s.partWorld k) p.1).getD 0x2C9#10)
      | none => do
        let _ ← ps.foldlM (fun o p => do
          let _ ← physWrite p.1 ((img.drop o).take p.2) none
          pure (o + p.2)) 0
        complete k c e 0#10 (BitVec.ofNat 64 img.length)

/-- Steps 1 to 4: dispatch stops, the sequencer freezes, ranks are suspended, jobs stop. -/
def beginFreeze (k c : Nat) (e : QEntry) : Exec Unit := do
  let s ← get
  setField (Reg.ctxStat k) 0 3 1
  let open_ := (s.part k).sweeps.any fun w => match w.by_ with | .node _ => true | _ => false
  updPart k fun p =>
    { p.setHead c { e with stage := .acting } with
      sweeps := [], seq := { p.seq with before := p.seq.state, state := .frozen, qbarNode := open_ } }
  each (s.part k).phys fun n => updJob n fun j => if j.live then { j with stopping := true } else j
  if s.multi k then do
    let ranks := (List.range (s.part k).lcores).flatMap (s.ranksOf k)
    let mine := (s.part k).ownSusp s.pkg ranks
    let rest := ranks.filter fun r => ! mine.any (·.first == r)
    suspend k rest

/-- Step 5, once every job is saved and no load is under way: package-local sweeps, and then the image. -/
def freezeOn (k c : Nat) (e : QEntry) : Exec Unit := do
  let s ← get
  let p := s.part k
  require (s.ctxPhase k == 1 && p.acks.isEmpty && (p.phys.all fun n => ! (s.job n).live) && ! p.slots.any (·.2.state == .loading))
  match p.sweeps with
  | [] => startSweep k .freeze
  | w :: _ => do
    require w.met
    updPart k fun p => { p with sweeps := [] }
    writeImage k c e

/-- CMD_MIGRATE_FREEZE: each occurrence takes the freeze one stage on. -/
def migrateFreeze (k c : Nat) : Exec Unit := do
  let s ← get
  match (s.part k).queue c with
  | [] => halt
  | e :: _ => do
    require (e.source == 0 && entKind e.bytes == 8 && entSlot e.bytes == 0)
    if e.stage = .acting then freezeOn k c e
    else dispatch k c 0x08 fun e =>
      if (s.part k).seq.state = .frozen then writeImage k c e else beginFreeze k c e

def execCmdMigrateFreeze (k c : Nat) (s : State) : Host.Outcome State Fault Refusal := runExec (migrateFreeze k c) s

/-! THAW: reading an image (R221). -/

def seqStateOf : Nat → SeqState
  | 1 => .capture
  | 2 => .issue
  | 3 => .drain
  | 4 => .sweep
  | _ => .idle

/-- Whether a shadow region lies wholly in HBM, in ranges of the partition's world (R200). -/
def State.shadowOk (s : State) (k : Nat) (base cfg : Word) : Bool :=
  let a := Word.bits base 16 36 * 65536
  let n := 545259520 + 2097152 * Word.bits cfg 0 16
  decide (a + n ≤ 2 ^ 40) && (List.range (n / 65536)).all fun i => s.rgnSecure (a + 65536 * i) == s.partWorld k

/-- The sections of an image; none where its header or directory is malformed (R217, R218). -/
def parseImage (img : List Byte) : Option (List Section) :=
  let n := fld img 44 4
  let ents := (splitBytes 32 ((img.drop 128).take (32 * n)))
  let key (e : List Byte) : Nat := fld e 0 2 * 65536 + fld e 2 2
  let sorted := (List.range (ents.length - 1)).all fun i => decide (key (ents.getD i []) < key (ents.getD (i + 1) []))
  let okEnt (e : List Byte) : Bool :=
    let o := fld e 8 8
    let l := fld e 16 8
    [0x01, 0x02, 0x03, 0x04, 0x05, 0x06, 0x07, 0x10, 0x11, 0x12, 0x13, 0x14, 0x15, 0x20, 0x21, 0x30, 0x31].contains (fld e 0 2) &&
    fld e 4 4 == 0 && fld e 28 4 == 0 && o % 64 == 0 && decide (128 + 32 * n ≤ o) && decide (o + l ≤ img.length) &&
    fld e 24 4 == crc32c ((img.drop o).take l)
  if img.take 4 == [0x4B#8, 0x51#8, 0x43#8, 0x58#8] && fld img 4 2 == 1 && decide (1 ≤ fld img 6 2) && decide (fld img 6 2 ≤ 128) &&
    fld img 8 8 == img.length && img.length % 64 == 0 && decide (128 + 32 * n ≤ img.length) && decide (fld img 36 1 < 4) &&
    decide (fld img 37 1 ≤ 4) && fld img 39 1 == 0 && fld img 96 28 == 0 && fld img 124 4 == crc32c (img.take 124) && sorted &&
    ents.all okEnt
  then some (ents.map fun e => (fld e 0 2, fld e 2 2, (img.drop (fld e 8 8)).take (fld e 16 8)))
  else none

/-- The sections of a type. -/
def secsOf (secs : List Section) (t : Nat) : List (Nat × List Byte) := (secs.filter (·.1 == t)).map (·.2)
def secOf (secs : List Section) (t i : Nat) : List Byte := ((secs.find? fun x => x.1 == t && x.2.1 == i).map (·.2.2)).getD []

/-- Whether the contents of the sections are well formed (R211–R220). -/
def sectionsOk (lcores before : Nat) (secs : List Section) : Bool :=
  secs.all fun (t, i, b) =>
    match t with
    | 0x01 => decide (before ≠ 0) && graphOk lcores (2 ^ 27) (b.take 64) && b.length == 64 + 64 * graphNnode b
    | 0x02 => decide (i < 64) && fld b 5 3 == 0 && fld b 24 40 == 0 && b.length == 64 + fld b 16 8
    | 0x03 => decide (i < 4) && b.length % 128 == 0 && (splitBytes 128 b).all fun e => decide (fld e 0 1 ≤ 2)
    | 0x04 => b.length == 100
    | 0x05 => b.length == 76
    | 0x06 => b.length % 128 == 0
    | 0x07 => b.length == 32
    | 0x10 => b.length == 16384 && decide (fld b 0 2 < lcores)
    | 0x11 => (decodeRegion 16384 b).isSome
    | 0x12 => (decodeRegion 6144 b).isSome
    | 0x13 => (addPsb .absent b).isSome
    | 0x14 => b.length % 80 == 0
    | 0x15 => b.length % 96 == 0
    | 0x20 => decide (i < lcores) && (decodeRegion 65536 b).isSome
    | 0x21 => decide (i < lcores) && b.length == 4096
    | _ => b.length % 8 == 0

/-- A queue entry from its 128 bytes and the ARGS entries behind it. -/
def queueEntry (slot : Nat) (step : Word) (b args : List Byte) : QEntry :=
  { source := fld b 0 1, bytes := (b.drop 64).take 64 ++ args, rels := [], cmdidx := 2 ^ 64 - 1, reserve := bitsAt (fld b 1 1) 0 1 == 1,
    parent := fld b 4 4, slot := slot, step := step, stage := .queued, gained := [] }

/-- The queue entries of a section: ARGS entries belong to the launch before them. -/
def queueOf (slot : Nat) (step : Word) (bs : List (List Byte)) : List QEntry :=
  (bs.foldr (fun b (acc : List Byte × List QEntry) =>
    if fld b 0 1 = 0 ∧ entKind (b.drop 64) = 0x0F then (b.drop 64 ++ acc.1, acc.2)
    else ([], queueEntry slot step b acc.1 :: acc.2)) ([], [])).2

/-! THAW: the steps (R221–R224). -/

/-- A slot of an image; whether it was launched is not in it (log 43). -/
def slotOfImage (n tick : Nat) (b : List Byte) : Slot :=
  let img := (b.drop 64).take (fld b 16 8)
  let x : Slot := { Slot.reset with state := .resident, gen := fld b 0 4, world := fld b 4 1 == 1, step := BitVec.ofNat 64 (fld b 8 8),
                                    image := Map.setN (fun _ => 0#8) [] 0 img, imglen := img.length,
                                    launched := Config.pick 7 tick n % 2 == 1 }
  { x with pins := (List.range (leVal (x.bytes 20 2))).map fun i => x.pin (leVal (x.bytes 16 4) + 16 * i) }

/-- Job `i` of an image as a frame. -/
def frameOfImage (secs : List Section) (k slot id tick i : Nat) : Frame :=
  let b := secOf secs 0x10 i
  let node := (secOf secs 0x04 (fld b 4 4)).take 64
  let f := jobOfRecord b id k slot node tick
  let ts := (decodeRegion 16384 (secOf secs 0x11 i)).getD []
  let ac := (decodeRegion 6144 (secOf secs 0x12 i)).getD []
  let j := { f.job with tstore := storeOf ts, c0 := storeOf (ac.take 3072), c1 := storeOf (ac.drop 3072) }
  let f := { f with job := (addPsb j (secOf secs 0x13 i)).getD j }
  let f := (splitBytes 80 (secOf secs 0x14 i)).foldl addPriv f
  let cs := (splitBytes 96 (secOf secs 0x15 i))
  let qs := (List.range cs.length).map fun n => cartOf f (n + 1) (cs.getD n [])
  { f with job := { f.job with loadQ := (qs.filter (! ·.1)).map (·.2), storeQ := (qs.filter (·.1)).map (·.2) } }

/-- A task of an image with the jobs that are still live. -/
def taskOfImage (slot : Nat) (jobs : List Nat) (b : List Byte) : Task :=
  { Task.absent with node := b.take 64, cls := fld b 64 1, firstUsed := bitsAt (fld b 65 1) 0 1 == 1, slot := slot,
                     step := BitVec.ofNat 64 (fld b 72 8), started := true, jobs := jobs }

/-- Step 7: slots, queues, dispatched entries, tasks, transfers, held adds, node store and sequencer. `me` is the MIGRATE entry. -/
def restorePart (k c : Nat) (me : QEntry) (img : List Byte) (secs : List Section) (ids : List Nat) : Exec Unit := do
  let s ← get
  let tick ← fresh
  let slot := fld img 38 1
  let fs := (List.range ids.length).map fun i => frameOfImage secs k slot (ids.getD i 0) tick i
  let slots := (secsOf secs 0x02).map fun x => (x.1, slotOfImage x.1 tick x.2)
  let step := ((slots.find? fun x => x.1 == slot).map (·.2.step)).getD 0#64
  let jobsOf (t : Nat) : List Nat := (fs.filter fun f => f.job.task == t).map (·.job.id)
  let disp := splitBytes 128 (secOf secs 0x06 0)
  let dents := queueOf slot step disp
  let trs := secsOf secs 0x05
  let entryFor (i : Nat) : Option QEntry := dents.find? fun e => (e.source == 2 || entKind e.bytes == 3) && e.parent == i
  let nums := fun cls => fld img (64 + 8 * cls) 8
  let trans := trs.map fun (i, b) =>
    let e := (entryFor i).map fun e => { e with stage := Stage.acting }
    let cls := match e with | some e => if e.source = 0 then entClass e.bytes else 0 | none => 0
    let src := match e with | some e => e.source | none => 1
    (i, { Transfer.start src cls (nums cls - 1) (fld b 72 4) (fld b 72 4) e (b.take 64) [] with step := fld b 64 8 })
  let run := dents.filter fun e => e.source == 0 && (entKind e.bytes == 1 || entKind e.bytes == 2)
  let steps (i : Nat) : Bool := match trs.find? (·.1 == i) with | some (_, b) => decide (fld b 64 8 < (cblock (b.take 64)).nstep) | none => false
  let heads := (dents.filter fun e => (entKind e.bytes == 9 && e.source == 0) || ((e.source == 2 || entKind e.bytes == 3) && steps e.parent)).map
    fun e => { e with stage := Stage.acting }
  let done := (dents.filter fun e => (e.source == 2 || entKind e.bytes == 3) && ! steps e.parent).map fun e => { e with stage := Stage.acting }
  let ns := splitBytes 64 (secOf secs 0x01 0)
  updPart k fun p =>
    let q (n : Nat) : List QEntry :=
      (if n = c then [me] else []) ++ (heads.filter fun e => (if e.source = 0 then entClass e.bytes else 0) == n) ++
        queueOf slot step (splitBytes 128 (secOf secs 0x03 n))
    { p with slots := slots, queues := Map.setN (fun _ => []) [] 0 ((List.range 4).map q),
             coachNum := Map.setN (fun _ => 0) [] 0 ((List.range 4).map nums),
             tasks := (secsOf secs 0x04).map fun x => (x.1, taskOfImage slot (jobsOf x.1) x.2),
             transfers := trans, nextTransfer := trs.length, running := run ++ done,
             owners := trans.foldl (fun m x => if x.2.source = 2 then Map.set (fun _ => 0) m (4 * x.2.num + x.2.cls) (x.2.owner + 1) else m) [],
             held := (secsOf secs 0x07).map fun x =>
               let m := x.2
               ⟨bitsAt (fld m 16 4) 30 2, bitsAt (fld m 16 4) 0 30, fld m 10 2, fld m 12 1, BitVec.ofNat 64 (fld m 24 8),
                 if bitsAt (fld m 1 1) 0 1 = 1 then some (BitVec.ofNat 10 (fld m 2 2)) else none, none, m⟩,
             lastStep := step, epoch := fld img 24 8,
             seq := { Seq.reset with state := .frozen, before := seqStateOf (fld img 37 1), node := fld img 40 2, slot := slot,
                                     cause := BitVec.ofNat 10 (fld img 42 2), stepsLeft := fld img 48 8, step := step,
                                     hdr := ns.headD [], nodes := ns.drop 1, entry := run.head? } }
  modify fun t => { t with frames := fs.foldl (fun m f => Map.insert m f.job.id f) t.frames, nextJob := s.nextJob + ids.length }
  custody k feNode ids.length 0
  custody k heldNode (secsOf secs 0x07).length 0
  let p ← getPart k
  custody k entryNode ((List.range 4).foldl (fun n c => n + ((p.queue c).filter (·.source != 0)).length) 0) 0
  if s.partWorld k then each (secsOf secs 0x02) fun x => extendMeas 4 (sha384 ((x.2.drop 64).take (fld x.2 16 8)))

/-- Step 8: the logical cores' scratchpads and service records. -/
def restoreCores (k : Nat) (secs : List Section) : Exec Unit := do
  let s ← get
  let bad := (splitBytes 8 (secOf secs 0x31 0)).map fun b => leVal b
  each (secsOf secs 0x20) fun (l, b) => do
    let t ← get
    let gs := (decodeRegion 65536 b).getD []
    let a := t.scratchBase k l
    modify fun u => { u with mem := Map.setN (fun _ => 0#8) (Map.clear u.mem a (a + 4194304)) a gs.flatten }
    if t.resident k l then modify fun u => u.loadWritten a
    each (bad.filter fun w => bitsAt w 48 16 == 0x20 && bitsAt w 32 16 == l) fun w => poisonBlock ((a / 64 + bitsAt w 0 32) / 4) 0x291#10
  each (secsOf secs 0x21) fun (l, b) => do
    let _ ← physWrite (s.shadowOf k l 4194304) b none
    pure ()

/-- Step 10: the partition runs again; sweeps that were open start afresh. -/
def finishThaw (k c num : Nat) (e : QEntry) : Exec Unit := do
  let s ← get
  let p := s.part k
  setReg (Reg.seqQbar k) (BitVec.ofNat 64 num)
  updPart k fun p => { p with seq := { p.seq with state := p.seq.before, before := .idle, qbarNode := false } }
  setField (Reg.ctxStat k) 0 3 0
  complete k c e 0#10 0#64
  if p.seq.before = .sweep then startSweep k .stepEnd
  each (range 0 4) fun n =>
    match ((p.dropHead c).queue n).head? with
    | some q => if q.source = 0 ∧ entKind q.bytes = 9 ∧ q.stage = .acting then startSweep k (.entry q) else pure ()
    | none => pure ()

/-- The checks of steps 1 to 5. -/
def thawCheck (s : State) (k c : Nat) (e : QEntry) (img : List Byte) : Except Cause (List Section) :=
  let p := s.part k
  let idle := p.seq.state == .idle && p.tasks.isEmpty && p.slots.all (·.2.state == .empty) &&
    (List.range 4).all fun n => decide ((p.queue n).length = if n = c then 1 else 0)
  if ! (idle || p.seq.state == .frozen) then .error 0x344#10
  else
    match parseImage img with
    | none => .error 0x341#10
    | some secs =>
      let jobs := (secsOf secs 0x10).length
      let phys := (s.memberCores k).length
      let n := entGen e.bytes
      if ! sectionsOk (fld img 6 2) (fld img 37 1) secs then .error 0x341#10
      else if (bitsAt (fld img 36 1) 0 1 == 1) != s.partWorld k then .error 0x342#10
      else if n % 16 ≠ 0 ∨ phys < n then .error 0x343#10
      else if s.frameCount k < jobs ∨ ! s.shadowOk k (s.reg (Reg.shadowBase k)) (s.reg (Reg.shadowCfg k)) then .error 0x345#10
      else .ok secs

/-- CMD_MIGRATE_THAW. -/
def migrateThaw (k c : Nat) (e : QEntry) : Exec Unit := do
  let s ← get
  let read (n : Nat) : Exec (Except Cause (List Byte)) := do
    match s.xlatRange k (entImgaddr e.bytes) n with
    | .error f => pure (.error f)
    | .ok ps => frontRead k ps
  match ← read 128 with
  | .error f => migrateFailed k c e f
  | .ok hdr => do
    let len := fld hdr 8 8
    match ← if len ≤ entImglen e.bytes then read len else pure (.ok hdr) with
    | .error f => migrateFailed k c e f
    | .ok img =>
      match thawCheck s k c e img with
      | .error f => migrateFailed k c e f
      | .ok secs => do
        setField (Reg.ctxStat k) 0 3 3
        let l := fld img 6 2
        let all := s.memberCores k
        let phys := if entGen e.bytes = 0 then all else all.take (entGen e.bytes)
        each (range 0 all.length) fun i => clearCore (all.getD i 0) i
        let me := { e with stage := Stage.acting }
        clearPart k l phys
        restorePart k c me img secs (range s.nextJob (secsOf secs 0x10).length)
        restoreCores k secs
        setFlag (Reg.ctxStat k) 8 (decide (phys.length < l))
        if bitsAt (fld img 36 1) 1 1 = 1 then do
          setField (Reg.ctxStat k) 0 3 4
          updPart k fun p => { p with closed := s.gseq }
          setReg (Reg.seqQbar k) (BitVec.ofNat 64 (fld img 56 8))
        else finishThaw k c (fld img 56 8) me

def execCmdMigrateThaw (k c : Nat) (s : State) : Host.Outcome State Fault Refusal :=
  runExec (dispatch k c 0x08 fun e => do
    require (entSlot e.bytes == 1)
    migrateThaw k c e) s

/-- CTX_RESUME (R201): in phase 4 RRESUME goes out and the THAW finishes; elsewhere the write is ignored. -/
def ctxResume (k : Nat) (v : Word) : Exec Unit := do
  let s ← get
  if ! Word.bit v 0 || s.ctxPhase k != 4 then pure ()
  else do
    let p := s.part k
    let ranks := (List.range p.lcores).flatMap (s.ranksOf k)
    sendSusp k tyRRESUME p.epoch ranks
    match (List.range 4).findSome? fun c =>
        match (p.queue c).head? with
        | some e => if e.source = 0 ∧ entKind e.bytes = 8 ∧ e.stage = .acting then some (c, e) else none
        | none => none with
    | some (c, e) => finishThaw k c (s.reg (Reg.seqQbar k)).toNat e
    | none => pure ()

end Sys2Proof.Machine
end

