-- ==== Sys2Proof/Machine/Partition.lean ====
section
/-! DEFINITION. A partition's sequencer block (R159–R162, R200, R201, R272, R281, R282): creation and destruction, and the
registers whose writes are checked or start something. -/
namespace Sys2Proof.Machine

/-! PART_CTL (R159, R160). -/

def refusePart (k : Nat) : Exec Unit := setFlag (Reg.partCtl k) 2 true

/-- Whether a partition holds half-clusters: it is enabled, or still being destroyed. -/
def State.holdsCores (s : State) (k : Nat) : Bool := s.partOn k || s.flag (Reg.partCtl k) 1

/-- The clusters of a mask of half-clusters. -/
def maskClusters (mask : Nat) : List Nat := (List.range 4).filter fun n => bitsAt mask (2 * n) 2 != 0

/-- Whether a write may create partition `k` (R159; log 44: not while its destruction still clears state). -/
def State.mayCreate (s : State) (k : Nat) (v : Word) : Bool :=
  let mask := Word.bits v 16 8
  mask != 0 && ! s.flag (Reg.partCtl k) 1 &&
  (List.range 8).all (fun j => j == k || ! s.holdsCores j || s.field (Reg.partCtl j) 16 8 &&& mask == 0) &&
  (maskClusters mask).all (fun n => ! s.flag Reg.rstCtl n) && s.flag Reg.bringStat 31

/-- Whether partition `k` may be destroyed. -/
def State.mayDestroy (s : State) (k : Nat) : Bool :=
  let p := s.part k
  p.seq.state == .idle && p.tasks.isEmpty && (List.range 4).all fun c => (p.queue c).isEmpty

/-- What creation and destruction clear (R160). -/
def clearPartition (k : Nat) (cores : List Nat) : Exec Unit := do
  each ((List.range cores.length).zip cores) fun c => clearCore c.2 c.1
  clearPart k cores.length cores

/-- The ring registers of a front end cleared (R133). -/
def clearRing (f : Nat) : Exec Unit :=
  each [Reg.ringCtl f, Reg.cmdBase f, Reg.cplBase f, Reg.ptrBase f, Reg.cwinBase f, Reg.ringStat f, Reg.ringPos f] fun o => setReg o (regReset o)

/-- Creation: the front end is released if it was held in reset. -/
def createPartition (k : Nat) (v : Word) : Exec Unit := do
  plainWrite (Reg.partCtl k) v
  setFlag (Reg.partCtl k) 1 true
  clearPartition k (maskCores (Word.bits v 16 8))
  clearRing k
  let s ← get
  if s.flag Reg.rstCtl (8 + k) then do
    setFlag Reg.rstCtl (8 + k) false
    loadFrontEnd k

/-- Destruction begins. -/
def destroyPartition (k : Nat) (v : Word) : Exec Unit := do
  let s ← get
  clearPartition k (s.part k).phys
  plainWrite (Reg.partCtl k) v
  setFlag (Reg.partCtl k) 1 true

/-- A write of PART_CTL. -/
def partCtl (k : Nat) (v : Word) : Exec Unit := do
  let s ← get
  let old := s.reg (Reg.partCtl k)
  if Word.bit old 0 then
    (if Word.bits v 16 8 ≠ Word.bits old 16 8 ∨ Word.bit v 4 ≠ Word.bit old 4 then refusePart k
    else if Word.bit v 0 then plainWrite (Reg.partCtl k) v
    else if s.mayDestroy k then destroyPartition k v
    else refusePart k)
  else if Word.bit v 0 then (if s.mayCreate k v then createPartition k v else refusePart k)
  else if Word.bit old 1 then pure ()
  else plainWrite (Reg.partCtl k) v

/-- PART_CREATE and PART_DESTROY: writes of PART_CTL that set and clear EN. -/
def execPartCreate (k : Nat) (w : Writer) (v : Word) (s : State) : Host.Outcome State Fault Refusal :=
  runExec (admitted w (Reg.partCtl k) v do
    let t ← get
    require (decide (k < 8) && Word.bit v 0 && ! t.partOn k)
    partCtl k v) s

def execPartDestroy (k : Nat) (w : Writer) (v : Word) (s : State) : Host.Outcome State Fault Refusal :=
  runExec (admitted w (Reg.partCtl k) v do
    let t ← get
    require (decide (k < 8) && ! Word.bit v 0 && t.partOn k)
    partCtl k v) s

/-- PART_BUSY_DONE: BUSY clears; a destroyed partition's front end is held in reset, then its half-clusters are released. -/
def partBusyDone (k : Nat) : Exec Unit := do
  let s ← get
  require (decide (k < 8) && s.flag (Reg.partCtl k) 1)
  if ! s.partOn k then do
    if k ≠ 0 then holdFrontEnd k
    updPart k fun p => { p with phys := [], lcores := 0 }
  setFlag (Reg.partCtl k) 1 false

def execPartBusyDone (k : Nat) (s : State) : Host.Outcome State Fault Refusal := runExec (partBusyDone k) s

/-! SCHED_CFG, the shadow region, PT_ROOT and CTX_CTL (R162, R200, R201, R272). -/

def schedCfg (k : Nat) (v : Word) : Exec Unit :=
  let q := Word.bits v 32 16
  if q < 10 ∨ 10000 < q then setFlag (Reg.seqStat k) 3 true else plainWrite (Reg.schedCfg k) v

def execSchedCfgWrite (k : Nat) (w : Writer) (v : Word) (s : State) : Host.Outcome State Fault Refusal :=
  runExec (admitted w (Reg.schedCfg k) v do require (decide (k < 8)); schedCfg k v) s

/-- A write of SHADOW_BASE or SHADOW_CFG. -/
def shadowConfig (k off : Nat) (v : Word) : Exec Unit := do
  let s ← get
  let p := s.part k
  let o := Reg.partCtl k + off
  let new := match regSpec o with | some sp => sp.write (s.reg o) v | none => v
  let ok := if off = 0x100 then s.shadowOk k new (s.reg (Reg.shadowCfg k)) else s.shadowOk k (s.reg (Reg.shadowBase k)) new
  if p.seq.state == .idle && p.tasks.isEmpty && ok then setReg o new else setFlag (Reg.ctxStat k) 3 true

def execShadowConfigWrite (k off : Nat) (w : Writer) (v : Word) (s : State) : Host.Outcome State Fault Refusal :=
  runExec (admitted w (Reg.partCtl k + off) v do
    require (decide (k < 8) && (off == 0x100 || off == 0x108))
    shadowConfig k off v) s

def execCtxResume (k : Nat) (w : Writer) (v : Word) (s : State) : Host.Outcome State Fault Refusal :=
  runExec (admitted w (Reg.ctxCtl k) v do require (decide (k < 8)); ctxResume k v) s

def execPtRootWrite (k : Nat) (w : Writer) (v : Word) (s : State) : Host.Outcome State Fault Refusal :=
  runExec (admitted w (Reg.ptRoot k) v do require (decide (k < 8)); plainWrite (Reg.ptRoot k) v) s

/-! Invalidation (R281, R282). -/

/-- The virtual address whose bits [56:16] a register holds. -/
def granuleAddr (r : Word) : Nat := (((r.extractLsb' 16 41).signExtend 48).toNat) * 65536

/-- A write of INV_CTL. -/
def invCtl (k : Nat) (v : Word) : Exec Unit := do
  let s ← get
  if ! Word.bit v 0 then plainWrite (Reg.invCtl k) v
  else if s.flag (Reg.invCtl k) 1 then pure ()
  else do
    plainWrite (Reg.invCtl k) v
    setFlag (Reg.invCtl k) 1 true
    let lo := granuleAddr (s.reg (Reg.invBase k))
    let hi := granuleAddr (s.reg (Reg.invLimit k)) + 65535
    updPart k fun p => { p with invs := [(lo, hi)] }
    startInvalidation k lo hi
    endInvalidation k lo hi

def execInvGo (k : Nat) (w : Writer) (v : Word) (s : State) : Host.Outcome State Fault Refusal :=
  runExec (admitted w (Reg.invCtl k) v do
    require (decide (k < 8) && Word.bit v 0)
    invCtl k v) s

/-- Whether requests of a partition's cores are on their way. -/
def State.partOut (s : State) (k : Nat) : Bool :=
  (s.outq.any fun o => decide (o.agent < 1024) && (s.part k).phys.contains o.core) ||
  s.remotes.any fun e => e.2.part == k && e.2.answer.isNone

/-- INV_DONE: the counter gains 1 and BUSY clears. -/
def invDone (k : Nat) : Exec Unit := do
  let s ← get
  require (decide (k < 8) && s.flag (Reg.invCtl k) 1 && ! s.partOut k)
  each (s.part k).invs fun r => endInvalidation k r.1 r.2
  updPart k fun p => { p with invs := [] }
  addWindow k (s.field (Reg.invCtl k) 16 13) 1 (s.frontRel k [])
  setFlag (Reg.invCtl k) 1 false

def execInvDone (k : Nat) (s : State) : Host.Outcome State Fault Refusal := runExec (invDone k) s

end Sys2Proof.Machine
end

