-- ==== Sys2Proof/Machine/Boot.lean ====
section
/-! DEFINITION. The region table's registers (R107–R112), the boot chain (R113–R117), measurements (R118, R119), identity and
attestation (R120, R121). -/
namespace Sys2Proof.Machine

/-! The region table (R109–R112). -/

def refuseRgn : Exec Unit := setFlag Reg.rgnCfg 1 true

/-- A write of RGN_LO or RGN_HI of entry `k`. -/
def rgnEntryWrite (k : Nat) (hi : Bool) (v : Word) : Exec Unit := do
  let s ← get
  if s.flag (Reg.rgnLo k) 60 then refuseRgn
  else if hi then plainWrite (Reg.rgnHi k) v
  else if (Word.bit v 62 && Word.bit v 61) || (Word.bit v 63 && decide (s.field (Reg.rgnHi k) 16 36 < Word.bits v 16 36)) then refuseRgn
  else plainWrite (Reg.rgnLo k) v

/-- A write of RGN_CFG or of an entry, by its offset in the security block. -/
def rgnWrite (off : Nat) (v : Word) : Exec Unit :=
  if off = 0 then plainWrite Reg.rgnCfg v
  else if 0x1000 ≤ off ∧ off < 0x2000 ∧ off % 8 = 0 then rgnEntryWrite ((off - 0x1000) / 16) (off % 16 == 8) v
  else halt

def execRgnEntryWrite (off : Nat) (w : Writer) (v : Word) (s : State) : Host.Outcome State Fault Refusal :=
  runExec (admitted w (Reg.rgnCfg + off) v (rgnWrite off v)) s

/-- A write of RGN_SYNC (R110). -/
def rgnSync (v : Word) : Exec Unit := if Word.bit v 0 then setFlag Reg.rgnSync 1 true else pure ()

def execRgnSyncGo (w : Writer) (v : Word) (s : State) : Host.Outcome State Fault Refusal :=
  runExec (admitted w Reg.rgnSync v do require (Word.bit v 0); rgnSync v) s

/-- RGN_SYNC_DONE: nothing that has been checked is still on its way. -/
def rgnSyncDone : Exec Unit := do
  let s ← get
  require (s.flag Reg.rgnSync 1 && s.outq.isEmpty && s.remotes.all fun e => e.2.answer.isSome)
  setFlag Reg.rgnSync 1 false

def execRgnSyncDone (s : State) : Host.Outcome State Fault Refusal := runExec rgnSyncDone s

/-! Measurements (R118, R119). -/

/-- The registers MEAS0 to MEAS7 and LOCK cleared. -/
def clearMeas : Exec Unit := do
  each (List.range 8) fun n => each (List.range 6) fun w => setReg (Reg.meas n w) 0#64
  setFlag Reg.measCmd 8 false

/-- A write of MEAS_CMD: the extend, refused for MEAS0–MEAS3 under LOCK; LOCK is set by a 1 and stays. -/
def measCmd (v : Word) : Exec Unit := do
  let s ← get
  let n := Word.bits v 0 3
  let lock := s.flag Reg.measCmd 8
  if Word.bit v 7 then setFlag Reg.measCmd 7 false
  if lock && decide (n < 4) then setFlag Reg.measCmd 7 true
  else extendMeas n ((List.range 6).flatMap fun w => leBytes 8 (Map.get (fun _ => 0#64) s.boot.measD w).toNat)
  if Word.bit v 8 then setFlag Reg.measCmd 8 true

def execMeasExtend (w : Writer) (v : Word) (s : State) : Host.Outcome State Fault Refusal :=
  runExec (admitted w Reg.measCmd v (measCmd v)) s

/-- A write of MEAS_D0 to MEAS_D5. -/
def measData (i : Nat) (v : Word) : Exec Unit := updBoot fun b => { b with measD := Map.set (fun _ => 0#64) b.measD i v }

/-! The firmware image (R114). -/

/-- A section: its kind, offset and length. -/
def fwSection (img : List Byte) (i : Nat) : Nat × Nat × Nat :=
  (fld img (128 + 24 * i) 1, fld img (136 + 24 * i) 8, fld img (144 + 24 * i) 8)

def fwSections (img : List Byte) : List (Nat × Nat × Nat) := (List.range (fld img 6 2)).map (fwSection img)

/-- No two sections overlap. -/
def disjointSections : List (Nat × Nat × Nat) → Bool
  | [] => true
  | (_, o, n) :: rest => rest.all (fun x => decide (o + n ≤ x.2.1) || decide (x.2.1 + x.2.2 ≤ o)) && disjointSections rest

/-- Step 3: the header fields. -/
def fwHeaderOk (img : List Byte) : Bool :=
  let len := fld img 8 8
  let n := fld img 6 2
  let ss := fwSections img
  img.take 4 == [0x4B#8, 0x51#8, 0x46#8, 0x57#8] && fld img 4 2 == 1 && decide (1 ≤ n) && decide (n ≤ 16) && len % 64 == 0 &&
  decide (1024 ≤ len) && decide (len ≤ 8388608) && fld img 20 4 == 0 && fld img 24 1 == 4 && fld img 121 7 == 0 &&
  (List.range 16).all (fun i => fld img (129 + 24 * i) 7 == 0 && (decide (i < n) || fwSection img i == (0, 0, 0))) &&
  ss.all (fun x => decide (1 ≤ x.1) && decide (x.1 ≤ 4) && x.2.1 % 64 == 0 && decide (512 ≤ x.2.1) && decide (x.2.1 + x.2.2 ≤ len - 96)) &&
  disjointSections ss && (ss.filter (·.1 == 1)).length == 1 && (ss.filter (·.1 == 3)).length == 1

/-- Step 4: the lowest unrevoked KEYHASH slot that the public key matches. -/
def Boot.keySlot (b : Boot) (pub : List Byte) : Option Nat :=
  let h := sha384 pub
  (List.range 4).find? fun i => ! b.revoked.getLsbD i && Map.getN (fun _ => 0#8) b.keyhash (48 * i) 48 == h

/-- Step 6: the signature over the image without its last 96 bytes. -/
def fwSignatureOk (img : List Byte) : Bool :=
  let len := fld img 8 8
  ecdsaVerify (beVal ((img.drop 25).take 48), beVal ((img.drop 73).take 48)) (sha384 (img.take (len - 96)))
    (beVal ((img.drop (len - 96)).take 48)) (beVal ((img.drop (len - 48)).take 48))

/-- The bytes of the first section of a kind. -/
def fwBytes (img : List Byte) (kind : Nat) : List Byte :=
  match (fwSections img).find? (·.1 == kind) with
  | some (_, o, n) => (img.drop o).take n
  | none => []

/-! The boot ROM (R113, R116). -/

/-- The published digest of the ROM, which the spec does not print (log 3). -/
def romDigest : List Byte := (List.range 48).map fun i => Config.bytes 1 0 i

/-- The ROM begins with a source: the registers clear, MEAS0 takes the ROM's digest, and step 2 is reached (log 46). -/
def bootBegin (host : Bool) : Exec Unit := do
  clearMeas
  extendMeas 0 romDigest
  setReg Reg.bootStat 0#64
  modify fun s => s.setHart (.frontEnd 0) Hart.reset
  updBoot fun b => { b with step := 2, host := host, hostrdy := false, staging := if host then b.staging else Map.slice b.flash 0 8388608 }

/-- A failing step: its error, and the host as source where the straps name it second; else front end 0 halts. -/
def bootFail (err : Nat) : Exec Unit := do
  let s ← get
  setField Reg.bootStat 8 8 err
  setFlag Reg.bootStat 1 true
  if s.boot.straps = 2 ∧ ! s.boot.host ∧ err ≠ 0x0F then bootBegin true
  else updBoot fun b => { b with step := 0 }

/-- A section in a code memory. -/
def loadCode (bs : List Byte) : Assoc Byte := Map.setN (fun _ => 0#8) [] 0 bs

/-- Steps 8 and 9: sections loaded and started. -/
def bootLoad (img : List Byte) : Exec Unit := do
  let fe := fwBytes img 1
  if 262144 < fe.length then bootFail 0x06
  else do
    modify fun s => { s with
      mgmtCode := loadCode (fwBytes img 3), svcCode := loadCode (fwBytes img 2), config := loadCode (fwBytes img 4),
      feCode := Map.setN (fun _ => 0#8) (Map.clear s.feCode 0 262144) 0 fe,
      sections := (range 1 4).foldl (fun m k => Map.set (fun _ => 0) m k (fwBytes img k).length) [] }
    startController .mgmt 0#10
    restartFrontEnd 0
    setFlag Reg.bootStat 0 true
    updBoot fun b => { b with step := 0, svn := fld img 16 4 }

/-- Steps 3 to 9 on the staged image. -/
def bootRest : Exec Unit := do
  let s ← get
  let b := s.boot
  let head := Map.getN (fun _ => 0#8) b.staging 0 512
  let img := Map.getN (fun _ => 0#8) b.staging 0 (if fld head 8 8 ≤ 8388608 then fld head 8 8 else 512)
  if ! fwHeaderOk img then bootFail 0x02
  else
    match b.keySlot ((img.drop 24).take 97) with
    | none => bootFail 0x03
    | some slot =>
      if fld img 16 4 < b.minsvn then bootFail 0x04
      else if ! fwSignatureOk img then bootFail 0x05
      else do
        setField Reg.bootStat 2 2 slot
        extendMeas 1 (sha384 (img.take (img.length - 96)))
        extendMeas 2 (sha384 (img.take 512))
        extendMeas 3 ([BitVec.ofNat 8 slot, BitVec.ofNat 8 b.dbgFuse.toNat, 0#8, 0#8] ++ leBytes 4 b.minsvn ++ List.replicate 40 0#8)
        setFlag Reg.measCmd 8 true
        bootLoad img

/-- The ROM on front end 0, from the straps; an image in SPI flash is read at once. -/
def bootRom : Exec Unit := do
  let s ← get
  match s.boot.straps with
  | 1 => bootBegin true
  | 3 => do
    bootBegin false
    bootFail 0x0F
  | _ => do
    bootBegin false
    bootRest

/-- Whether the ROM waits for the host (R107, R113). -/
def Boot.waits (b : Boot) : Bool := b.step == 2 && b.host

/-- HOSTRDY: the staged image is complete. -/
def hostrdy : Exec Unit := do
  let s ← get
  require s.boot.waits
  updBoot fun b => { b with hostrdy := true }
  bootRest

def execHostrdy (s : State) : Host.Outcome State Fault Refusal := runExec hostrdy s

/-- HOSTRDY_TIMEOUT: step 2 fails. -/
def hostrdyTimeout : Exec Unit := do
  let s ← get
  require s.boot.waits
  bootFail 0x01

def execHostrdyTimeout (s : State) : Host.Outcome State Fault Refusal := runExec hostrdyTimeout s

/-- A partition and its front end as after reset, whatever they were doing (R117). -/
def resetPartition (k : Nat) : Exec Unit := do
  let s ← get
  clearPartition k (s.part k).phys
  updPart k fun _ => Part.reset
  modify fun s => { s with regs := Map.clear (Map.clear s.regs (Reg.partCtl k) (Reg.partCtl (k + 1))) (Reg.ringCtl k) (Reg.ringCtl (k + 1)),
                           wdog := Map.erase s.wdog k }
  if k ≠ 0 then holdFrontEnd k

/-- RELOAD: every front end and partition is reset, and the ROM runs with the host as source. -/
def reload : Exec Unit := do
  each (List.range 8) resetPartition
  unparkStore 0
  bootBegin true

def execReload (s : State) : Host.Outcome State Fault Refusal :=
  runExec (do let t ← get; require (! t.power.porst && t.flag Reg.railStat 0); reload) s

/-- A host write of BOOT_CTL. -/
def bootCtl (w : Writer) (v : Word) : Exec Unit :=
  if w != .host then pure ()
  else if Word.bit v 1 then reload
  else if Word.bit v 0 then within hostrdy
  else pure ()

/-- What the host receives: a status (0 success, 1 Unsupported Request, 2 data with CXL poison) and bytes. -/
def hostAnswer (status : Byte) (data : List Byte) : Exec Unit := modify fun s => { s with hostOut := (status :: data) :: s.hostOut }

/-- BOOT_WINDOW_WRITE (R107). -/
def bootWindow (off : Nat) (data : List Byte) : Exec Unit := do
  let s ← get
  if s.boot.waits && decide (off + data.length ≤ 8388608) then
    updBoot fun b => { b with staging := Map.setN (fun _ => 0#8) b.staging off data }
  else hostAnswer 1#8 []

def execBootWindowWrite (off : Nat) (data : List Byte) (s : State) : Host.Outcome State Fault Refusal := runExec (bootWindow off data) s

/-! Attestation (R120, R121). Message codes are those of SPDM 1.2, which the spec names (log 47). -/

def measBytes (s : State) (n : Nat) : List Byte := (List.range 6).flatMap fun w => leBytes 8 (s.reg (Reg.meas n w)).toNat

/-- A signature by the key store over a digest, with a nonce that nothing states (log 3). -/
def State.keySign (s : State) (digest : List Byte) (t : Nat) : List Byte :=
  let d := identityKey (Map.getN (fun _ => 0#8) s.boot.secret 0 48)
  let k := leVal ((List.range 48).map fun i => Config.bytes 2 t i) % (bpN - 1) + 1
  let (r, x) := ecdsaSign d k digest
  beBytes 48 r ++ beBytes 48 x

/-- The attestation report. -/
def State.report (s : State) (nonce : List Byte) (t : Nat) : List Byte :=
  let d := identityKey (Map.getN (fun _ => 0#8) s.boot.secret 0 48)
  let body := [0x4B#8, 0x51#8, 0x41#8, 0x52#8] ++ leBytes 2 1 ++ leBytes 2 656 ++ nonce ++ leBytes 8 s.dcc.toNat ++ leBytes 8 s.boot.serial.toNat ++
    leBytes 2 s.pkg ++ [BitVec.ofNat 8 (s.field Reg.bootStat 2 2), BitVec.ofNat 8 s.boot.dbgFuse.toNat] ++ leBytes 4 s.boot.svn ++
    (List.range 8).flatMap (measBytes s) ++ pubBytes (ecMul d bpG) ++ List.replicate 15 0#8
  body ++ s.keySign (sha384 body) t

/-- The device's PCIe Vendor ID, which the spec does not print (log 3). -/
def vendorId : Nat := (Config.word 1 0).toNat % 65536

/-- An answer whose body the spec does not lay out: its code, and `n` bytes (log 3). -/
def spdmBody (code : Byte) (t n : Nat) : List Byte := [0x12#8, code] ++ (List.range n).map fun i => Config.bytes 3 t i

def spdmError : List Byte := [0x12#8, 0x7F#8, 0x07#8, 0x00#8]

/-- A measurement block: its index, raw bit stream of 48 bytes. -/
def measBlock (s : State) (i : Nat) : List Byte :=
  [BitVec.ofNat 8 i, 0x01#8] ++ leBytes 2 51 ++ [0x80#8] ++ leBytes 2 48 ++ measBytes s (i - 1)

/-- The answer to a request. -/
def State.spdm (s : State) (req : List Byte) (t : Nat) : List Byte :=
  match (fld req 1 1) with
  | 0x84 => spdmBody 0x04#8 t 6
  | 0xE1 => spdmBody 0x61#8 t 18
  | 0xE3 => spdmBody 0x63#8 t 34
  | 0x81 => spdmBody 0x01#8 t 50
  | 0x82 => if fld req 2 1 % 16 = 0 then spdmBody 0x02#8 t 6 else spdmError
  | 0x83 => spdmBody 0x03#8 t 210
  | 0xE0 =>
    let i := fld req 3 1
    if i = 0 then [0x12#8, 0x60#8, 0x08#8, 0x00#8] ++ List.replicate 4 0#8
    else if i ≤ 8 then [0x12#8, 0x60#8, 0x00#8, 0x00#8, 0x01#8] ++ leBytes 3 55 ++ measBlock s i
    else if i = 0xFF then [0x12#8, 0x60#8, 0x00#8, 0x00#8, 0x08#8] ++ leBytes 3 440 ++ (range 1 8).flatMap (measBlock s)
    else spdmError
  | 0xFE =>
    if fld req 4 2 = 3 ∧ fld req 6 1 = 2 ∧ fld req 7 2 = vendorId ∧ fld req 9 2 = 32 then
      [0x12#8, 0x7E#8, 0x00#8, 0x00#8] ++ leBytes 2 3 ++ [0x02#8] ++ leBytes 2 vendorId ++ leBytes 2 656 ++ s.report ((req.drop 11).take 32) t
    else spdmError
  | _ => spdmError

/-- SPDM_REQUEST: the management firmware answers through the mailbox. -/
def spdmRequest (req : List Byte) : Exec Unit := do
  let s ← get
  require (s.flag Reg.bootStat 0)
  let t ← fresh
  let r := s.spdm req t
  updBoot fun b => { b with mbox := r }
  hostAnswer 0#8 r

def execSpdmRequest (req : List Byte) (s : State) : Host.Outcome State Fault Refusal := runExec (spdmRequest req) s

end Sys2Proof.Machine
end

