-- ==== Sys2Proof/Machine/Coach.lean ====
section
/-! DEFINITION. The Coach (R486–R496, R516–R519): owner jobs and their counters, the blocks of a pair, their reads and writes, and
how steps and transfers end. -/
namespace Sys2Proof.Machine

/-! Owner jobs (R489, R493, R256). -/

/-- Where the job of a task on a logical core is: on its core, in its frame, or ended, the core's resting counters being left. -/
inductive OwnerAt | core (c : Nat) | frame (id : Nat) | rest (c : Nat)
  deriving DecidableEq, Repr

def State.ownerAt (s : State) (k t l : Nat) : OwnerAt :=
  let c := (s.part k).coreOf l
  let j := s.job c
  if j.live && j.part == k && j.task == t && j.lcore == l then .core c
  else
    match s.frames.find? fun e => e.2.job.part == k && e.2.job.task == t && e.2.job.lcore == l && ! e.2.fresh with
    | some e => .frame e.1
    | none => .rest c

/-- The owner job's counter, if the job is live. -/
def State.ownerCounter (s : State) (k t l n : Nat) : Option Counter :=
  match s.ownerAt k t l with
  | .core c => some ((s.job c).counter n)
  | .frame id => (Map.find s.frames id).map fun f => f.job.counter n
  | .rest _ => none

/-- An add to it; a resting counter takes the amount. -/
def ownerAdd (k t l n : Nat) (v : Word) (rels : List Rel) : Exec Unit := do
  let s ← get
  match s.ownerAt k t l with
  | .core c => updJob c fun j => j.addCounter n v rels
  | .frame id =>
    match Map.find s.frames id with
    | some f => modify fun s => { s with frames := Map.insert s.frames id { f with job := f.job.addCounter n v rels } }
    | none => pure ()
  | .rest c => updCore c fun x => { x with resting := Map.upd (fun _ => 0#64) x.resting n (· + v) }

/-- Its poison, with a record in the core's fault queue (R495); 0xFF names none. -/
def ownerPoison (k t l n : Nat) (cause : Cause) : Exec Unit := do
  let s ← get
  if n = 0xFF then pure ()
  else do
    (match s.ownerAt k t l with
      | .core c => updJob c fun j => j.poisonCounter n cause
      | .frame id =>
        match Map.find s.frames id with
        | some f => modify fun s => { s with frames := Map.insert s.frames id { f with job := f.job.poisonCounter n cause } }
        | none => pure ()
      | .rest _ => pure ())
    fqPush ((s.part k).coreOf l) true
      (faultRecord cause 1 7 l t 0 { FInfo.plain with counter := 0x8000 + n, aux := BitVec.ofNat 64 n } s.dcc)

/-! Transfers and their steps. -/

def stepKey (t r : Nat) : Nat := 65536 * t + r

def updTransfer (k i : Nat) (f : Transfer → Transfer) : Exec Unit :=
  updPart k fun p =>
    match Map.find p.transfers i with
    | some t => { p with transfers := Map.insert p.transfers i (f t) }
    | none => p

def getTransfer (k i : Nat) : Exec Transfer := do
  let p ← getPart k
  match Map.find p.transfers i with
  | some t => pure t
  | none => halt

def natOf (m : Assoc Nat) (i : Nat) : Nat := Map.get (fun _ => 0) m i
def addNat (m : Assoc Nat) (i n : Nat) : Assoc Nat := Map.upd (fun _ => 0) m i (· + n)
def subNat (m : Assoc Nat) (i n : Nat) : Assoc Nat := Map.upd (fun _ => 0) m i (· - n)

/-- A failure is kept: the first one is the transfer's cause (R519). -/
def Transfer.fail (t : Transfer) (cause : Cause) : Transfer := if t.cause = 0#10 then { t with cause := cause } else t

/-- Bytes between a source rank and a peer of step `st` on their way, and accepted with what they published. -/
def Transfer.send (t : Transfer) (st s p n : Nat) : Transfer :=
  { t with outTo := addNat t.outTo (stepKey st p) n, outFrom := addNat t.outFrom (stepKey st s) n }

def Transfer.accept (t : Transfer) (st s p n : Nat) (gs : List (Nat × Nat)) : Transfer :=
  { t with outTo := subNat t.outTo (stepKey st p) n, outFrom := subNat t.outFrom (stepKey st s) n,
           bytesTo := addNat t.bytesTo (stepKey st p) n, bytesFrom := addNat t.bytesFrom (stepKey st s) n,
           wrote := if gs.isEmpty then t.wrote else
             Map.upd (fun _ => Know.zero) t.wrote (stepKey st p) fun k => gs.foldl (fun k g => k.add g.1 g.2) k }

/-- Bytes that will not be accepted. -/
def Transfer.lose (t : Transfer) (st s p n : Nat) : Transfer :=
  { t with outTo := subNat t.outTo (stepKey st p) n, outFrom := subNat t.outFrom (stepKey st s) n }

/-- Whether every step has been issued. -/
def Transfer.allIssued (t : Transfer) : Bool := decide ((cblock t.block).nstep ≤ t.step)

/-- Whether step `st` has been issued and nothing of it is left. -/
def Transfer.stepDone (t : Transfer) (st : Nat) : Bool :=
  let mine (x : Nat) : Bool := x / 65536 == st
  decide (st < t.step) && ! t.toSignal.any mine && ! t.toDrain.any mine && ! (t.failed.any fun f => mine f.1) &&
    ! t.outTo.any fun e => mine e.1

/-- The end of a transfer: its entry's completion, its node's signal, or nothing (R173, R146, R493). -/
def endTransfer (k i : Nat) (t : Transfer) : Exec Unit := do
  let s ← get
  updPart k fun p => { p with transfers := Map.erase p.transfers i }
  let know := t.wrote.foldl (fun x e => x.join e.2) Know.zero
  if t.source = 0 then
    match t.entry with
    | some e => do
      updPart k fun p => { p with running := p.running.erase e }
      if e.stage ≠ .acted then endEntry k { e with gained := ⟨s.party (.frontEnd k), 3, know⟩ :: e.gained } t.cause 0#64
    | none => pure ()
  else if t.source = 1 then
    match (s.part k).seq.nodes[t.node]? with
    | some n =>
      if t.cause = 0#10 then nodeSignal k n (s.frontRel k (⟨s.party (.frontEnd k), 3, know⟩ :: t.gained)) else nodeFail k n t.cause
    | none => pure ()
  else pure ()

/-- Steps that are done leave the Coach node, and a transfer whose steps are all done ends. -/
def settleTransfer (k i : Nat) : Exec Unit := do
  let p ← getPart k
  match Map.find p.transfers i with
  | none => pure ()
  | some t => do
    let done := t.opened.filter t.stepDone
    custody k coachNode 0 done.length
    updTransfer k i fun t => { t with opened := t.opened.filter fun st => ! done.contains st }
    if t.allIssued && (t.opened.filter fun st => ! done.contains st).isEmpty then endTransfer k i t

/-- The source ranks and peers of a block whose counters lie on this package; suspended ones too. -/
def State.localRank (s : State) (k r : Nat) : Bool :=
  decide (r < s.field (Reg.rankCfg k) 0 17) && bitsAt (s.rankEntry k r) 31 1 == 1 && bitsAt (s.rankEntry k r) 16 10 == s.pkg

/-- Poison for the counter of a peer, wherever it lies (R495). -/
def poisonAt (k : Nat) (t : Transfer) (r n : Nat) (cause : Cause) : Exec Unit := do
  if n = 0xFF then pure ()
  else
    match ← resolveRank k r with
    | .error _ => pure ()
    | .ok (pkg, l) => do
      let s ← get
      if pkg = s.pkg then ownerPoison k t.owner l n cause
      else do
        let _ ← sendToRank (.coach k 0 0 0) k tyCADD pkg r fun _ =>
          caddCore (s.fpid k) r n t.cls t.num 0#64 (some cause) false
        pure ()

/-! The blocks of a pair (R492). -/

/-- Byte offsets of row `r` of a block on its source and destination sides: a row is dimension 0. -/
def CBlock.rowAt (b : CBlock) (r : Nat) : Int × Int :=
  let pat : Int := (b.z : Int) * rowOffset r ((b.ext.take b.ndim).drop 1) b.str
  let lin : Int := (b.z * b.ext.getD 0 1 * r : Nat)
  if b.pat then (lin, pat) else (pat, lin)

def CBlock.rows (b : CBlock) : Nat := ((b.ext.take b.ndim).drop 1).foldl (· * ·) 1
def CBlock.rowLen (b : CBlock) : Nat := b.z * b.ext.getD 0 1

/-- The place of a byte of the block from rank `s` to peer `p`, on logical cores `ls` and `lp`. -/
def CBlock.from_ (b : CBlock) (s p ls : Nat) (off : Int) : CLoc :=
  let a : Int := (b.src + (if b.op = 1 then 0 else b.z * p * b.pstr) + (if b.ssp = 0 then b.z * (s - b.src0) * b.rstr else 0) : Nat)
  if b.ssp = 1 then .sc ls (a + off) else .va ((a + off) % 2 ^ 64).toNat

def CBlock.to_ (b : CBlock) (s p lp : Nat) (off : Int) : CLoc :=
  let a : Int := (b.dst + b.z * (s - b.src0) * b.rstr + (if b.dsp = 0 then b.z * p * b.pstr else 0) : Nat)
  if b.dsp = 1 then .sc lp (a + off) else .va ((a + off) % 2 ^ 64).toNat

/-- A translated place of a side (R492, R495), and whether it lies in an integrity-checked range. -/
def State.coachPlace (s : State) (k : Nat) (write : Bool) (p : CLoc) (n : Nat) : Except Cause (Nat × Option Leaf) :=
  match p with
  | .bad _ => .error 0x144#10
  | .sc l off =>
    match s.rankPa k l off n with
    | some pa => .ok (pa, none)
    | none => .error 0x144#10
  | .va a =>
    if ! canonical a then .error 0x140#10
    else
      match s.walk k a with
      | .error c => .error c
      | .ok none => .error 0x140#10
      | .ok (some f) =>
        if ! f.present then .error 0x140#10
        else if write && ! f.w then .error 0x141#10
        else if write && f.seal_ then .error 0x145#10
        else
          match s.placeFault true (s.partWorld k) (f.pa a) with
          | some c => .error c
          | none => .ok (f.pa a, some f)

/-- The dirty bit of a page that the Coach writes (R213). -/
def leafDirty (a : Nat) (f : Leaf) : Exec Unit := do
  let s ← get
  let (d, bit) : Nat × Byte := if f.paged then (f.target + 8 * ((a - f.base) / 65536), 2#8) else (f.dmap + (a / 65536 - f.base / 65536), 1#8)
  let v := s.byte d ||| bit
  if v = s.byte d then pure ()
  else do
    let _ ← blockWrite [(d, v)] none
    pure ()

/-- What a piece of a block holds: a block carried with its check value (R124), bytes, or a source that failed its check. -/
inductive CData | carry (pa : Nat) | bytes (bs : List Byte) | bad (n : Nat) (cause : Cause)
  deriving DecidableEq, Repr

def CData.len : CData → Nat
  | .carry _ => 256
  | .bytes bs => bs.length
  | .bad n _ => n

/-- Reading `n` bytes within one granule; none while another package has not answered. -/
def coachRead (who : Requester) (k : Nat) (floor : Know) (p : CLoc) (n : Nat) : Exec (Option (Except Cause CData)) := do
  let s ← get
  match s.coachPlace k false p n with
  | .error c => pure (some (.error c))
  | .ok (pa, _) =>
    let checked (x : Option Cause) (bs : List Byte) : Option (Except Cause CData) :=
      some (.ok (match x with | some c => .bad n c | none => .bytes bs))
    match s.place pa with
    | .fabric pkg off => do
      match ← remoteAsk who k pkg off n (s.partWorld k) with
      | none => pure none
      | some (.error c) => pure (some (.error c))
      | some (.ok bs) => pure (checked none bs)
    | .hbm | .tier2 => do
      let g := s.home pa / 64
      let key ← fresh
      let v := s.cmdVer floor key g
      let x ← verCheck g v
      pure (checked x ((range (s.home pa % 64) n).map fun o => s.verByte g v o))
    | _ => do
      let x ← exitChecks (s.blocksOf pa n)
      pure (checked x (s.bytes pa n))

/-- Whether a whole aligned block on both sides is carried unchecked (R124, R278). -/
def State.carries (s : State) (k : Nat) (a b : CLoc) : Option Nat :=
  match s.coachPlace k false a 256, s.coachPlace k true b 256 with
  | .ok (pa, fa), .ok (pb, fb) =>
    let inside (pa : Nat) (f : Option Leaf) : Bool :=
      pa % 256 == 0 && (match f with | some f => ! f.integ && s.place pa == .hbm | none => true)
    if inside pa fa && inside pb fb then some (s.home pa) else none
  | _, _ => none

/-- Pieces of `[o, len)` of a row. -/
def gatherRow (who : Requester) (k : Nat) (floor : Know) (far : Bool) (src dst : Nat → CLoc) (len : Nat) :
    Nat → Nat → Exec (Option (Except Cause (List (CLoc × CData))))
  | 0, _ => pure (some (.ok []))
  | fuel + 1, o => do
    if len ≤ o then pure (some (.ok []))
    else do
      let s ← get
      let a := src o
      let b := dst o
      let whole := ! far && decide (256 ≤ len - o) && a.left 256 == 256 && b.left 256 == 256
      let got ← match (if whole then s.carries k a b else none) with
        | some pa => pure (some (.ok (CData.carry pa)))
        | none => coachRead who k floor a (min (len - o) (min (a.left 64) (b.left 64)))
      match got with
      | none => pure none
      | some (.error c) => pure (some (.error c))
      | some (.ok d) => do
        match ← gatherRow who k floor far src dst len fuel (o + d.len) with
        | some (.ok rest) => pure (some (.ok ((b, d) :: rest)))
        | x => pure x

/-- The pieces of the block of a pair. -/
def gatherBlock (who : Requester) (k : Nat) (floor : Know) (far : Bool) (b : CBlock) (s p ls lp : Nat) :
    List Nat → Exec (Option (Except Cause (List (CLoc × CData))))
  | [] => pure (some (.ok []))
  | r :: rs => do
    let (so, d0) := b.rowAt r
    match ← gatherRow who k floor far (fun o => b.from_ s p ls (so + (o : Nat))) (fun o => b.to_ s p lp (d0 + (o : Nat))) b.rowLen
        (b.rowLen / 32 + 4) 0 with
    | some (.ok ps) => do
      match ← gatherBlock who k floor far b s p ls lp rs with
      | some (.ok qs) => pure (some (.ok (ps ++ qs)))
      | x => pure x
    | x => pure x

/-! Writes (R493, R494). -/

/-- Combining bytes of whole elements at a destination on this package (R481). -/
def addElems (pa typ z : Nat) : Nat → List Byte → Exec (Option Cause)
  | 0, _ => pure none
  | n + 1, bs => do
    let a ← combineAt pa 0 typ false (leVal (bs.take z))
    let r ← addElems (pa + z) typ z n (bs.drop z)
    pure (if a.isSome then a else r)

/-- Writing a piece on this package's side: the granules it published, that it has left for another package, or its failure. -/
def coachWrite (who : Requester) (k : Nat) (b : CBlock) (p : CLoc) (d : CData) : Exec WriteState := do
  let s ← get
  match s.coachPlace k true p d.len with
  | .error c => pure (.failed c)
  | .ok (pa, leaf) => do
    (match p, leaf with
      | .va a, some f => leafDirty a f
      | _, _ => pure ())
    let grans (n : Nat) : Exec WriteState := do
      let t ← get
      pure (.done (if versioned (t.home pa) then (granulesOf ((range (t.home pa) n))).map (fun g => (g, t.granVer g)) else []))
    match d with
    | .carry src => do
      carryBlock pa src
      grans 256
    | .bad n c =>
      if b.op = 2 then pure (.done [])
      else
        match s.place pa with
        | .fabric _ _ => pure (.done [])
        | _ => do
          let _ ← physWrite pa (List.replicate n 0#8) (some c)
          grans n
    | .bytes bs =>
      if b.op = 2 then do
        match ← addElems pa b.typ b.z (bs.length / b.z) bs with
        | some c => pure (.failed c)
        | none => grans bs.length
      else
        match s.place pa with
        | .fabric pkg off => do
          match ← sendRequest who k tyWRREQ (s.partWorld k) pkg (wrreqPayload (off / 64 * 64) (addressed off bs) false) with
          | .ok _ => pure .sent
          | .error c => pure (.failed c)
        | _ => do
          let merged ← physWrite pa bs none
          if merged then
            match p with
            | .sc l _ => fqPush ((s.part k).coreOf l) true (faultRecord 0x294#10 1 7 l 0 0 (.at p.addr) s.dcc)
            | _ => pure ()
          grans bs.length

/-- The header of a block that goes to a rank on another package: that of R502, with the operation and TYPE of a combining
transfer in its reserved bytes (log 51). -/
def coachHeader (fpid rank off count tag : Nat) (b : CBlock) : List Byte :=
  leBytes 2 fpid ++ leBytes 2 rank ++ [if b.op = 2 then 1#8 else 0#8, if b.op = 2 then BitVec.ofNat 8 b.typ else 0#8, 0#8, 0#8] ++
    leBytes 8 off ++ leBytes 8 count ++ leBytes 8 tag

/-- One DATA message for each run of bytes. -/
def coachSend (who : Requester) (k : Nat) (b : CBlock) (pkg peer : Nat) : List (Int × List Byte) → Exec (Option Cause)
  | [] => pure none
  | (off, bs) :: rest => do
    let s ← get
    match ← sendToRank who k tyDATA pkg peer fun tag => coachHeader (s.fpid k) peer off.toNat bs.length tag b ++ bs with
    | .error c => pure (some c)
    | .ok _ => coachSend who k b pkg peer rest

/-! Data bytes of a remote request. -/

def Remote.dataBytes (r : Remote) : Nat :=
  if r.msg.typ = tyDATA then r.msg.payload.length - 32
  else if r.msg.typ = tyWRREQ then popcount64 (msgAt r.msg 8 8) else 0
where
  popcount64 (m : Nat) : Nat := ((List.range 64).filter fun i => m / 2 ^ i % 2 == 1).length

/-- What a WRACK or a failure of a block's message does to its transfer. -/
def coachAnswered (k i key peer : Nat) (r : Remote) (st : Cause) : Exec Unit := do
  let t := key / 65536
  let s := key % 65536
  updTransfer k i fun x =>
    if st = 0#10 then x.accept t s peer r.dataBytes []
    else
      let y := (x.lose t s peer r.dataBytes).fail st
      { y with failed := if y.failed.contains (key, peer, st) then y.failed else y.failed ++ [(key, peer, st)] }
  settleTransfer k i

/-! Issuing a step (R493). -/

/-- The block of one pair written or sent. -/
def issuePair (k i : Nat) (b : CBlock) (t s p : Nat) (todo : List (CLoc × CData)) (pkg : Nat) : Exec Unit := do
  let who := Requester.coach k i (stepKey t s) p
  let st ← get
  let failPair (c : Cause) : Exec Unit := updTransfer k i fun x =>
    { x.fail c with failed := if x.failed.contains (stepKey t s, p, c) then x.failed else x.failed ++ [(stepKey t s, p, c)] }
  if pkg ≠ st.pkg ∧ b.dsp = 1 then do
    let runs := joinRuns (todo.filterMap fun x => match x with
      | (.sc _ off, .bytes bs) => some (off, bs)
      | _ => none)
    let n := runs.foldl (fun a x => a + x.2.length) 0
    if runs.any (fun x => decide (x.1 < 0) || decide (4194304 < x.1 + x.2.length)) then failPair 0x144#10
    else do
      updTransfer k i fun x => x.send t s p n
      match ← coachSend who k b pkg p runs with
      | some c => do
        failPair c
        updTransfer k i fun x => x.lose t s p n
      | none => pure ()
  else
    each todo fun x => do
      match ← coachWrite who k b x.1 x.2 with
      | .failed c => failPair c
      | .sent => updTransfer k i fun y => y.send t s p x.2.len
      | .done gs => updTransfer k i fun y => (y.send t s p x.2.len).accept t s p x.2.len gs
  each todo fun x =>
    match x.2 with
    | .bad _ c => failPair c
    | _ => pure ()

/-- A place outside its space among the pieces of a pair, before any is written: the pair is not completed (R495). -/
def State.pairFault (st : State) (k : Nat) (b : CBlock) (far : Bool) (todo : List (CLoc × CData)) : Option Cause :=
  if far && b.dsp = 1 then none
  else todo.findSome? fun x => match st.coachPlace k true x.1 x.2.len with | .error c => some c | .ok _ => none

/-- The blocks of source rank `s` for the peers of step `t`: read in full, then written. None while a read waits. -/
def gatherPeers (k i : Nat) (b : CBlock) (floor : Know) (t s ls : Nat) :
    List Nat → Exec (Option (List (Nat × Nat × Except Cause (List (CLoc × CData)))))
  | [] => pure (some [])
  | p :: ps => do
    let st ← get
    let one : Option (Nat × Except Cause (List (CLoc × CData))) ← (do
      match ← resolveRank k p with
      | .error c => pure (some (st.pkg, .error c))
      | .ok (pkg, lp) => do
        let far := pkg != st.pkg
        match ← gatherBlock (.coach k i (stepKey t s) p) k floor (far && b.dsp == 1) b s p ls lp (List.range b.rows) with
        | none => pure none
        | some (.error c) => pure (some (pkg, .error c))
        | some (.ok todo) =>
          let u ← get
          pure (some (pkg, match u.pairFault k b far todo with | some c => .error c | none => .ok todo)))
    match one with
    | none => pure none
    | some x => do
      match ← gatherPeers k i b floor t s ls ps with
      | none => pure none
      | some rest => pure (some ((p, x.1, x.2) :: rest))

/-- The answers of a transfer's reads are done with. -/
def clearCoachReads (k i key : Nat) : Exec Unit :=
  modify fun s => { s with remotes := s.remotes.filter fun e =>
    match e.2.who with
    | .coach x y z _ => ! (x == k && y == i && z == key && e.2.msg.typ == tyRDREQ && e.2.answer.isSome)
    | _ => true }

/-- Rank `s` has issued its step; with the last of them the step is, and after the last step the entry leaves its class (R186). -/
def rankIssued (k i s : Nat) : Exec Unit := do
  let t ← getTransfer k i
  let b := cblock t.block
  let issued := s :: t.issued
  if b.ranks.all issued.contains then do
    let signals := if b.ssel = 0xFF then [] else (b.peers t.step).filter fun p => natOf t.outTo (stepKey t.step p) + natOf t.bytesTo (stepKey t.step p) != 0
    updTransfer k i fun t => { t with step := t.step + 1, issued := [], toSignal := t.toSignal ++ signals.map (stepKey t.step) }
    if b.nstep ≤ t.step + 1 ∧ t.source ≠ 1 then do
      let p ← getPart k
      match (p.queue t.cls).head? with
      | some e => do
        dequeue k t.cls
        updTransfer k i fun t => { t with entry := some e }
        if e.source = 0 then updPart k fun p => { p with running := p.running ++ [e] }
      | none => pure ()
  else updTransfer k i fun t => { t with issued := issued }

/-- A step enters the custody of the Coach node as the first of its ranks issues (R189). -/
def openStep (k i st : Nat) : Exec Unit := do
  let t ← getTransfer k i
  if t.opened.contains st then pure ()
  else do
    custody k coachNode 1 0
    updTransfer k i fun t => { t with opened := t.opened ++ [st] }

/-- COACH_STEP_ISSUE: the step under issue of transfer `i`, at source rank `s`. -/
def coachStepIssue (k i s : Nat) : Exec Unit := do
  let t ← getTransfer k i
  let st ← get
  let b := cblock t.block
  require (! t.allIssued && b.ranks.contains s && ! t.issued.contains s && st.ctxPhase k == 0)
  let peers := b.peers t.step
  match ← resolveRank k s with
  | .error c => do
    openStep k i t.step
    updTransfer k i fun x =>
      { x.fail c with failed := x.failed ++ (peers.filter (st.localRank k)).map fun p => (stepKey t.step s, p, c) }
    rankIssued k i s
  | .ok (pkg, ls) =>
    if pkg ≠ st.pkg then rankIssued k i s
    else do
      require (! st.suspended k st.pkg s)
      let key := stepKey t.step s
      let drain : Exec Unit := updTransfer k i fun x => { x with toDrain := if b.dsel = 0xFF then x.toDrain else x.toDrain ++ [key] }
      let go (rels : List Rel) : Exec Unit := do
        let u ← get
        let me := match u.ownerAt k t.owner ls with
          | .core c => u.party (.stream c .A)
          | _ => ⟨u.pkg, k, some ls, 0⟩
        let floor := ((gainOf 3 (u.party (.frontEnd k)) t.gained).join ⟨t.base, []⟩).join (if b.acq then gainOf 3 me rels else .zero)
        match ← gatherPeers k i b floor t.step s ls peers with
        | none => halt
        | some todo => do
          clearCoachReads k i key
          openStep k i t.step
          each todo fun x => match x.2.2 with
            | .error c => updTransfer k i fun y => { y.fail c with failed := y.failed ++ [(key, x.1, c)] }
            | .ok ps => issuePair k i b t.step s x.1 ps x.2.1
          drain
          rankIssued k i s
      if b.wsel = 0xFF then go []
      else
        match st.ownerCounter k t.owner ls b.wsel with
        | none => halt
        | some c =>
          match c.poison with
          | some f => do
            openStep k i t.step
            updTransfer k i fun x => { x.fail f with failed := x.failed ++ peers.map fun p => (key, p, f) }
            drain
            rankIssued k i s
          | none => if b.wthr + t.step * b.winc ≤ c.view.toNat then go c.rels else halt
  settleTransfer k i

def execCoachStepIssue (k i rank : Nat) (s : State) : Host.Outcome State Fault Refusal := runExec (coachStepIssue k i rank) s

/-! Signals (R493, R303). -/

/-- The first of some keys for a rank. -/
def firstKey (r : Nat) (ks : List Nat) : Option Nat := ks.find? fun x => x % 65536 == r

/-- The add at a peer: here, or by CADD to its package (R96, R516). -/
def signalPeer (k : Nat) (t : Transfer) (b : CBlock) (key : Nat) : Exec Unit := do
  let p := key % 65536
  let n := BitVec.ofNat 64 (natOf t.bytesTo key)
  match ← resolveRank k p with
  | .error _ => pure ()
  | .ok (pkg, l) => do
    let s ← get
    if pkg = s.pkg then
      ownerAdd k t.owner l b.ssel n (if b.rel then [⟨s.party (.frontEnd k), 3, Map.get (fun _ => Know.zero) t.wrote key⟩] else [])
    else do
      let _ ← sendToRank (.coach k 0 0 0) k tyCADD pkg p fun _ => caddCore (s.fpid k) p b.ssel t.cls t.num n none b.rel
      pure ()

/-- COACH_STEP_SIGNAL: the counters of a rank gain the bytes of the first step that has been accepted there (R493). -/
def coachStepSignal (k i r : Nat) : Exec Unit := do
  let t ← getTransfer k i
  let b := cblock t.block
  let sig := (firstKey r t.toSignal).filter fun x => natOf t.outTo x == 0 && ! t.failed.any fun f => f.1 / 65536 == x / 65536 && f.2.1 == r
  let dr := (firstKey r t.toDrain).filter fun x => natOf t.outFrom x == 0 && ! t.failed.any fun f => f.1 == x
  require (sig.isSome || dr.isSome)
  (match sig with
    | some x => do
      signalPeer k t b x
      updTransfer k i fun t => { t with toSignal := t.toSignal.filter (· != x) }
    | none => pure ())
  (match dr with
    | some x => do
      match ← resolveRank k r with
      | .ok (_, l) => ownerAdd k t.owner l b.dsel (BitVec.ofNat 64 (natOf t.bytesFrom x)) []
      | .error _ => pure ()
      updTransfer k i fun t => { t with toDrain := t.toDrain.filter (· != x) }
    | none => pure ())
  settleTransfer k i

def execCoachStepSignal (k i peer : Nat) (s : State) : Host.Outcome State Fault Refusal := runExec (coachStepSignal k i peer) s

/-! Failures (R495, R518). -/

/-- COACH_PAIR_FAIL: a failed pair poisons SSEL at the peer and DSEL at the source, wherever they resolve. -/
def coachPairFail (k i s p : Nat) (cause : Cause) : Exec Unit := do
  let t ← getTransfer k i
  let b := cblock t.block
  match t.failed.find? fun f => f.1 % 65536 == s && f.2.1 == p && f.2.2 == cause with
  | none => halt
  | some f => do
    updTransfer k i fun t => { t with failed := t.failed.erase f }
    poisonAt k t p b.ssel cause
    let st ← get
    if st.localRank k s then poisonAt k t s b.dsel cause
    settleTransfer k i

def execCoachPairFail (k i rank peer : Nat) (cause : Cause) (s : State) : Host.Outcome State Fault Refusal :=
  runExec (coachPairFail k i rank peer cause) s

/-- COLLTO_EXPIRY (R102, R495): the wait or the acceptance at a rank that is not suspended takes too long; every counter of the
step that is still unsignalled is poisoned. -/
def colltoExpiry (k i r : Nat) : Exec Unit := do
  let t ← getTransfer k i
  let s ← get
  let b := cblock t.block
  require (! (s.part k).susp.any fun x => decide (x.first ≤ r) && decide (r ≤ x.last))
  let late := t.outTo.find? fun e => e.1 % 65536 == r && e.2 != 0
  let waits := ! t.allIssued && b.ranks.contains r && ! t.issued.contains r && b.wsel != 0xFF && s.localRank k r
  require (late.isSome || waits)
  let st := match late with | some e => e.1 / 65536 | none => t.step
  let mine (x : Nat) : Bool := x / 65536 == st
  let sigs := if st < t.step then t.toSignal.filter mine else (b.peers st).map (stepKey st)
  let drains := t.toDrain.filter mine ++
    (if st < t.step then [] else (b.ranks.filter fun x => s.localRank k x && ! t.issued.contains x).map (stepKey st))
  updTransfer k i fun t =>
    { t.fail 0x24A#10 with toSignal := t.toSignal.filter (! mine ·), toDrain := t.toDrain.filter (! mine ·),
                           outTo := t.outTo.filter fun e => ! (mine e.1 && (e.1 % 65536 == r)) }
  each sigs fun x => poisonAt k t (x % 65536) b.ssel 0x24A#10
  each drains fun x => poisonAt k t (x % 65536) b.dsel 0x24A#10
  if late.isNone then do
    openStep k i st
    rankIssued k i r
  settleTransfer k i

def execColltoExpiry (k i rank : Nat) (s : State) : Host.Outcome State Fault Refusal := runExec (colltoExpiry k i rank) s

/-! Adds from other packages (R516, R517). -/

/-- The owner of the transfer with a class and a number: none before it has been dispatched; 0 where it has no owner task. -/
def Part.ownerOf (p : Part) (cls num : Nat) : Option Nat :=
  let n := Map.get (fun _ => 0) p.coachNum cls
  let back := (n + 2 ^ 30 - 1 - num % 2 ^ 30) % 2 ^ 30
  if n = 0 ∨ 2 ^ 29 ≤ back ∨ n ≤ back then none else some (Map.get (fun _ => 0) p.owners (4 * (n - 1 - back) + cls))

/-- An add or a poison from another package to a rank's counter. -/
def applyAdd (k : Nat) (h : Held) (owner : Nat) : Exec Unit := do
  if owner = 0 then pure ()
  else
    match ← resolveRank k h.rank with
    | .error _ => pure ()
    | .ok (_, l) =>
      match h.poison with
      | some c => ownerPoison k (owner - 1) l h.counter c
      | none => ownerAdd k (owner - 1) l h.counter h.amount (match h.rel with | some r => [r] | none => [])

/-- HELD_ADD_APPLY: the first held add whose transfer has been dispatched. -/
def heldApply (k : Nat) : Exec Unit := do
  let p ← getPart k
  match p.held.find? fun h => (p.ownerOf h.cls h.num).isSome with
  | none => halt
  | some h => do
    updPart k fun p => { p with held := p.held.erase h }
    custody k heldNode 0 1
    applyAdd k h ((p.ownerOf h.cls h.num).getD 0)

def execHeldAddApply (k : Nat) (s : State) : Host.Outcome State Fault Refusal := runExec (heldApply k) s

/-- HELD_ADD_EXPIRY: a held add is discarded, with a record in the fault queue of its rank's core. -/
def heldExpiry (k i : Nat) : Exec Unit := do
  let s ← get
  match (s.part k).held[i]? with
  | none => halt
  | some h => do
    require (! (s.part k).susp.any fun x => decide (x.first ≤ h.rank) && decide (h.rank ≤ x.last))
    updPart k fun p => { p with held := p.held.eraseIdx i }
    custody k heldNode 0 1
    match ← resolveRank k h.rank with
    | .error _ => pure ()
    | .ok (_, l) =>
      fqPush ((s.part k).coreOf l) true (faultRecord 0x24A#10 1 7 l 0 0 { FInfo.plain with counter := 0x8000 + h.counter } s.dcc)

def execHeldAddExpiry (k i : Nat) (s : State) : Host.Outcome State Fault Refusal := runExec (heldExpiry k i) s

end Sys2Proof.Machine
end

