-- ==== Sys2Proof/Machine/Remote.lean ====
section
/-! DEFINITION. Fabric messages at their ends (R87–R96, R100–R102, R316, R502, R516): requests executed here and answered, answers to
requests of this package, failures and timeouts, suspended ranks, and time synchronisation. -/
namespace Sys2Proof.Machine

/-! Answers (R94, R95). -/

/-- The source code of an agent in fault records (R287). -/
def sourceOf (agent : Nat) : Nat := if agent % 8 = 4 then 6 else agent % 8

/-- A store or an add that had left for another package is accepted, or has failed (R95). -/
def outDone (tag : Nat) (st : Cause) : Exec Unit := do
  let s ← get
  let mine (o : Out) : Bool := match o.op with | .remote t _ => t == tag | _ => false
  match s.outq.find? mine with
  | none => pure ()
  | some o => do
    set { s with outq := s.outq.filter fun x => ! mine x }
    noteAccepted o.agent (match o.op with | .remote _ r => r | _ => 0) []
    if o.ofUser then custody ((s.partOfCore o.core).getD 8) o.core 0 1
    if st ≠ 0#10 ∧ o.agent < 2048 then asyncRecord o.core (sourceOf o.agent) 0 st .plain

/-- The answer to request `tag`: a status and data. An answer that comes after the request has ended is discarded. -/
def answerRemote (tag : Nat) (st : Cause) (data : List Byte) : Exec Unit := do
  let s ← get
  match Map.find s.remotes tag with
  | none => pure ()
  | some r =>
    if r.answer.isSome then pure ()
    else
      let keep : Exec Unit := modify fun s => { s with remotes := Map.insert s.remotes tag { r with answer := some (st, data) } }
      match r.who with
      | .hart a => do
        keep
        updHartNo a fun h => if h.blocked = .memWait then { h with blocked := .none } else h
        if a < 1024 ∧ a % 8 < 4 then custody r.part (a / 8) 0 1
      | .rld _ _ => keep
      | .cart _ _ => keep
      | .engine _ _ => keep
      | .write _ => do
        dropRemote tag
        outDone tag st
      | .add _ => do
        dropRemote tag
        outDone tag st
      | .coach k i key peer =>
        if r.msg.typ = tyRDREQ then keep
        else do
          dropRemote tag
          if r.msg.typ ≠ tyCADD then coachAnswered k i key peer r st

/-- Whether a DATA message is the data of a GET of this package: its header echoes that of the request (R502). -/
def State.isGetData (s : State) (m : Msg) : Bool :=
  m.typ == tyDATA &&
  (match Map.find s.remotes (msgAt m 24 8) with
    | some r => r.msg.typ == tyDATA && r.msg.dst == m.src && r.msg.payload.length == 32 && r.msg.payload == m.payload.take 32
    | none => false)

/-- A response: its tag names a request sent to the package it comes from. -/
def remoteResponse (m : Msg) : Exec Unit := do
  let s ← get
  let tag := if m.typ = tyDATA then msgAt m 24 8 else m.tspec.toNat
  match Map.find s.remotes tag with
  | none => pure ()
  | some r =>
    if r.msg.dst ≠ m.src then pure ()
    else
      let st := BitVec.ofNat 10 (msgAt m 0 2)
      if m.typ = tyDATA then answerRemote tag 0#10 (m.payload.drop 32)
      else if m.typ = tyRDRSP then answerRemote tag st (m.payload.drop 8)
      else if m.typ = tyATRSP then answerRemote tag st ((m.payload.drop 8).take 8)
      else answerRemote tag st []

/-- An answer back to a request's source; to this package itself at once. -/
def reply (q : Msg) (typ : BitVec 8) (payload : List Byte) : Exec Unit := do
  let s ← get
  let m : Msg := ⟨typ, q.world, BitVec.ofNat 10 s.pkg, q.src, q.tspec, payload⟩
  if q.src.toNat = s.pkg then remoteResponse m else sendMsg m

/-- The type that answers a request, and an answer that is a status alone (R96). -/
def answerType (m : Msg) : BitVec 8 :=
  if m.typ = tyRDREQ then tyRDRSP else if m.typ = tyATREQ && bitsAt (msgAt m 9 1) 1 1 == 1 then tyATRSP else tyWRACK

def replyStatus (m : Msg) (st : Cause) : Exec Unit := reply m (answerType m) (leBytes 2 st.toNat ++ leBytes 6 0)

/-! Requests (R94, R96, R488, R494). -/

/-- What writes from another package have published here. -/
def noteFar (pkg : Nat) (gs : List Nat) : Exec Unit :=
  modify fun s => { s with farKnow := Map.upd (fun _ => Know.zero) s.farKnow pkg fun k => gs.foldl (fun k g => k.add g (s.granVer g)) k }

/-- A remote load: a current read, checked on exit. -/
def serveRead (m : Msg) : Exec Unit := do
  let s ← get
  let a := msgAt m 0 8
  let n := msgAt m 8 4
  match ← exitChecks (s.blocksOf a n) with
  | some _ => replyStatus m 0x248#10
  | none => reply m tyRDRSP (leBytes 8 0 ++ s.bytes a n)

/-- A remote store of the marked bytes of a granule; poisoned where it says so. -/
def serveWrite (m : Msg) : Exec Unit := do
  let a := msgAt m 0 8
  let mask := msgAt m 8 8
  let data := (addressed (a / 64 * 64) ((m.payload.drop 16).take 64)).filter fun e => mask / 2 ^ (e.1 % 64) % 2 == 1
  let _ ← blockWrite data (if bitsAt (msgAt m 80 1) 0 1 = 1 then some 0x291#10 else none)
  noteFar m.src.toNat [a / 64]
  replyStatus m 0#10

/-- A remote atomic, or a reduction of an element (log 30); a failed read half answers 0x248 (R94). -/
def serveAtomic (m : Msg) : Exec Unit := do
  let a := msgAt m 0 8
  let op := msgAt m 8 1
  let fl := msgAt m 9 1
  let b := BitVec.ofNat 64 (msgAt m 16 8)
  let r : Except Cause Nat ←
    if 0x80 ≤ op then do
      match ← combineAt a (op - 0x80) (msgAt m 10 1) (bitsAt fl 2 1 == 1) b.toNat with
      | some c => pure (.error c)
      | none => pure (.ok 0)
    else atomicAt a (if bitsAt fl 0 1 = 1 then 4 else 8) op b (BitVec.ofNat 64 (msgAt m 24 8))
  noteFar m.src.toNat [a / 64]
  match r with
  | .error _ => replyStatus m 0x248#10
  | .ok old => reply m (answerType m) (leBytes 8 0 ++ (if answerType m = tyATRSP then leBytes 8 old else []))

/-- The partition, logical core and physical place that a DATA message names, or its refusal. -/
def dataPlace (m : Msg) : Exec (Except Cause (Nat × Nat)) := do
  let s ← get
  match s.partOfFpid (msgAt m 0 2) with
  | none => pure (.error 0x245#10)
  | some k =>
    if m.world != s.partWorld k then pure (.error 0x247#10)
    else
      match ← resolveRank k (msgAt m 2 2) with
      | .error c => pure (.error c)
      | .ok (pkg, l) => do
        let t ← get
        if pkg ≠ t.pkg then pure (.error 0x245#10)
        else
          match t.rankPa k l (msgAt m 8 8 : Nat) (msgAt m 16 8) with
          | none => pure (.error 0x144#10)
          | some pa => pure (if t.rgnAllows m.world pa then .ok (k, pa) else .error 0x247#10)

/-- A DATA message: the data of a PUT or of a Coach block, or the header of a GET, whose data returns (R502). -/
def serveData (m : Msg) : Exec Unit := do
  let n := msgAt m 16 8
  let data := (m.payload.drop 32).take n
  match ← dataPlace m with
  | .error c => replyStatus { m with tspec := BitVec.ofNat 32 (msgAt m 24 8) } c
  | .ok (_, pa) =>
    let back := { m with tspec := BitVec.ofNat 32 (msgAt m 24 8) }
    if data.isEmpty && n != 0 then do
      let s ← get
      match ← exitChecks (s.blocksOf pa n) with
      | some _ => replyStatus back 0x248#10
      | none => reply back tyDATA (m.payload.take 32 ++ s.bytes pa n)
    else if msgAt m 4 1 = 1 then do
      let z := typBits (msgAt m 5 1) / 8
      match ← if z = 0 then pure (some 0x200#10) else addElems pa (msgAt m 5 1) z (data.length / z) data with
      | some _ => replyStatus back 0x248#10
      | none => replyStatus back 0#10
    else do
      let _ ← physWrite pa data none
      replyStatus back 0#10

/-- A request at its destination, after the region table's answer (R94). -/
def remoteRequest (m : Msg) : Exec Unit := do
  let s ← get
  let a := msgAt m 0 8
  if m.typ = tyDATA then serveData m
  else if 2 ^ 40 ≤ a ∨ ! s.rgnAllows m.world a then replyStatus m 0x247#10
  else if m.typ = tyRDREQ then serveRead m
  else if m.typ = tyWRREQ then serveWrite m
  else if m.typ = tyATREQ then serveAtomic m
  else pure ()

/-! Counter adds (R96, R516, R517). -/

/-- A CADD message: a memory counter here, or a rank's counter through the matching transfer; held where that has not been
dispatched. -/
def flitCadd (m : Msg) : Exec Unit := do
  let s ← get
  let fl := msgAt m 1 1
  let poison := if bitsAt fl 0 1 = 1 then some (BitVec.ofNat 10 (msgAt m 2 2)) else none
  let inc := BitVec.ofNat 64 (msgAt m 24 8)
  let rel : Option Rel := if bitsAt fl 1 1 = 1 then
    some ⟨⟨m.src.toNat, 9, none, 4096 + m.src.toNat⟩, 4, Map.get (fun _ => Know.zero) s.farKnow m.src.toNat⟩ else none
  if msgAt m 0 1 = 0 then
    let a := msgAt m 8 8
    if 2 ^ 40 ≤ a ∨ ! s.rgnAllows m.world a then replyStatus m 0x247#10
    else do
      (match poison with
        | some c => poisonMcounter a c
        | none => addMcounter a inc (match rel with | some r => [r] | none => []))
      noteFar m.src.toNat [a / 64]
      replyStatus m 0#10
  else
    match s.partOfFpid (msgAt m 8 2) with
    | none => replyStatus m 0x245#10
    | some k => do
      let h : Held := ⟨bitsAt (msgAt m 16 4) 30 2, bitsAt (msgAt m 16 4) 0 30, msgAt m 10 2, msgAt m 12 1, inc, poison, rel, m.payload.take 32⟩
      (match (s.part k).ownerOf h.cls h.num with
        | some o => applyAdd k h o
        | none => do
          updPart k fun p => { p with held := p.held ++ [h] }
          custody k heldNode 1 0)
      replyStatus m 0#10

/-! Suspended ranks (R101, R102). -/

/-- The ranks that the ranges of a message name. -/
def msgRanks (m : Msg) : List Nat :=
  (List.range (min (msgAt m 2 1) 54)).flatMap fun j => range (msgAt m (16 + 4 * j) 2) (msgAt m (18 + 4 * j) 2 + 1)

/-- The rank that a queued message goes to, for one with an FPID: a DATA message, or a CADD to a core counter. -/
def msgRank (m : Msg) : Option (Nat × Nat) :=
  if m.typ = tyDATA then some (msgAt m 0 2, msgAt m 2 2)
  else if m.typ = tyCADD ∧ msgAt m 0 1 = 1 then some (msgAt m 8 2, msgAt m 10 2)
  else none

/-- Queued messages changed port by port. -/
def State.mapQueues (s : State) (f : SendMsg → SendMsg) : State :=
  { s with links := s.links.map fun e => (e.1, { e.2 with queue := e.2.queue.map f, waiting := e.2.waiting.map f }) }

/-- RSUSP_RECEIVE: the ranks' messages stay parked, and RSACK answers; a repeated one is answered again only. -/
def rsusp (m : Msg) : Exec Unit := do
  let s ← get
  match s.partOfFpid (msgAt m 0 2) with
  | none => pure ()
  | some k => do
    let rs := msgRanks m
    let e := msgAt m 4 8
    let new := rs.filter fun r => ! (s.part k).susp.any fun x => x.pkg == m.src.toNat && x.first == r && x.epoch == e
    updPart k fun p =>
      { p with susp := p.susp.filter (fun x => ! (x.pkg == m.src.toNat && new.contains x.first)) ++ new.map fun r => ⟨m.src.toNat, r, r, e⟩ }
    modify fun s => s.mapQueues fun x =>
      if x.sent == 0 && x.msg.src.toNat == s.pkg && x.msg.dst == m.src &&
        (match msgRank x.msg with | some (f, r) => f == msgAt m 0 2 && new.contains r | none => false)
      then { x with parked := true } else x
    sendCtl k m.src.toNat tyRSACK (leBytes 2 (msgAt m 0 2) ++ leBytes 2 0 ++ leBytes 8 e ++ leBytes 4 0)

/-- RSACK_RECEIVE. -/
def rsack (m : Msg) : Exec Unit := do
  let s ← get
  match s.partOfFpid (msgAt m 0 2) with
  | none => pure ()
  | some k => updPart k fun p => { p with acks := p.acks.erase (m.src.toNat, msgAt m 4 8) }

/-! Failures at ports (R95, R84). -/

/-- A message handed back by a port: a request of this package fails; one under way to another package is answered with the
cause; a response is lost. -/
def failMsg (m : Msg) (cause : Cause) : Exec Unit := do
  let s ← get
  if vcOf m.typ = some 0 ∨ vcOf m.typ = some 3 then
    (if m.src.toNat = s.pkg then answerRemote m.tspec.toNat cause [] else
      replyStatus (if m.typ = tyDATA then { m with tspec := BitVec.ofNat 32 (msgAt m 24 8) } else m) cause)
  else pure ()

/-- Messages taken out of a port's queues, which its egress node has then sent (R99). -/
def takeQueued (p : Nat) (f : SendMsg → Bool) : Exec (List Msg) := do
  let s ← get
  let l := s.link p
  let out := l.queue.filter f ++ l.waiting.filter f
  let n := (l.queue.filter fun x => f x && counted x.msg.typ).length
  updLink p fun l => { l with queue := l.queue.filter (! f ·), waiting := l.waiting.filter (! f ·) }
  if n ≠ 0 then modify fun s => { s with nodesE := addNode s.nodesE p 0 n }
  pure (out.map (·.msg))

/-- Messages that wait at a port's input enter queues that are free for them (R75). -/
def admitWaiting (p : Nat) : Exec Unit := do
  let s ← get
  let ws := (s.link p).waiting
  updLink p fun l => { l with waiting := [] }
  each ws fun w => modify fun s => s.enqueue p w.msg w.parked

/-- A port enters FAILED: the requests that wait at it fail at once (R95). -/
def portFails (p cause : Nat) : Exec Unit := do
  setField (Reg.portStat p) 32 3 5
  setField (Reg.portStat p) 48 8 cause
  let ms ← takeQueued p fun x => ! x.parked && x.vc != 2
  each ms fun m => failMsg m 0x242#10

/-- Sending a message on by its route; where that is not possible it fails here. -/
def forward (m : Msg) : Exec Unit := do
  let s ← get
  match s.routePort m.dst.toNat with
  | .ok p => set (s.enqueue p m false)
  | .error c => failMsg m c

/-! Time synchronisation (R89–R93). -/

/-- The package and the port that a port's fibre leads to: the installation's (log 53). -/
def fibre (p : Nat) : Nat × Nat := let w := (Config.word 4 p).toNat; (w % 1024, w / 1024 % 64)

/-- A TSYNC message by a port. -/
def sendTsync (p phase : Nat) (t1 t2 t3 : Word) : Exec Unit :=
  modify fun s => s.enqueue p
    ⟨tyTSYNC, true, BitVec.ofNat 10 s.pkg, BitVec.ofNat 10 (fibre p).1, 0#32,
      leBytes 8 phase ++ leBytes 8 t1.toNat ++ leBytes 8 t2.toNat ++ leBytes 8 t3.toNat⟩ false

/-- TSYNC_PERIOD: a request to the parent. -/
def tsyncPeriod : Exec Unit := do
  let s ← get
  let p := s.field Reg.tsyncCtl 8 6
  require (! s.flag Reg.tsyncCtl 0 && decide (p < 36) && s.dccRun)
  modify fun s => { s with tsT1 := some s.dcc }
  sendTsync p 1 s.dcc 0#64 0#64

def execTsyncPeriod (s : State) : Host.Outcome State Fault Refusal := runExec tsyncPeriod s

/-- The offset θ, truncated towards zero. -/
def syncOffset (t1 t2 t3 t4 : Word) : Int := ((t4 - t3).toInt - (t2 - t1).toInt).tdiv 2

/-- The child's correction (R89–R91). -/
def syncTo (θ : Int) : Exec Unit := do
  let s ← get
  let small := decide (θ.natAbs ≤ 4)
  let good := if small then s.tsGood + 1 else 0
  setField Reg.tsyncStat 16 16 (BitVec.ofInt 16 (max (-32767) (min 32767 θ))).toNat
  if θ < -65536 ∧ ! s.tsEver then modify fun s => { s with dcc := s.dcc + BitVec.ofInt 64 (-θ), tsSlew := 0 }
  else modify fun s => { s with tsSlew := if θ.natAbs ≤ 1 then 0 else θ }
  modify fun s => { s with tsGood := good, tsT1 := none }
  if ! small then setFlag Reg.tsyncStat 0 false
  else if 4 ≤ good then do
    setFlag Reg.tsyncStat 0 true
    modify fun s => { s with tsEver := true }
  else pure ()

/-- TSYNC_RECEIVE at port `p`, stamped `t`: a request is answered, a reply corrects SR.DCC. -/
def tsyncReceive (p : Nat) (m : Msg) (t : Word) : Exec Unit := do
  let s ← get
  let w (o : Nat) : Word := BitVec.ofNat 64 (msgAt m o 8)
  if msgAt m 0 1 = 1 then sendTsync p 2 (w 8) t s.dcc
  else if msgAt m 0 1 = 2 ∧ ! s.flag Reg.tsyncCtl 0 ∧ s.tsT1 = some (w 8) then syncTo (syncOffset (w 8) (w 16) (w 24) t)
  else pure ()

/-- A write of TSYNC_CTL (R92); a master's SYNC stays 1. -/
def tsyncCtl (v : Word) : Exec Unit := do
  if Word.bits v 16 8 = 0 ∨ (35 < Word.bits v 8 6 ∧ ! Word.bit v 0) then pure ()
  else do
    plainWrite Reg.tsyncCtl v
    if Word.bit v 0 then do
      setFlag Reg.tsyncStat 0 true
      modify fun s => { s with tsEver := true, tsSlew := 0, tsGood := 0 }

def execTsyncCtlWrite (w : Writer) (v : Word) (s : State) : Host.Outcome State Fault Refusal :=
  runExec (admitted w Reg.tsyncCtl v (tsyncCtl v)) s

/-! Delivery. -/

/-- RRESUME_RECEIVE: cached entries of the ranks go, and each parked message is resolved anew and sent (R102). -/
def rresume (m : Msg) : Exec Unit := do
  let s ← get
  match s.partOfFpid (msgAt m 0 2) with
  | none => pure ()
  | some k => do
    let e := msgAt m 4 8
    let rs := (msgRanks m).filter fun r => (s.part k).susp.any fun x => x.pkg == m.src.toNat && x.first == r && x.epoch == e
    each rs fun r => dropRank k r
    updPart k fun p => { p with susp := p.susp.filter fun x => ! (x.pkg == m.src.toNat && x.epoch == e && rs.contains x.first) }
    let mine (x : SendMsg) : Bool := x.parked && (match msgRank x.msg with | some (f, r) => f == msgAt m 0 2 && rs.contains r | none => false)
    each (List.range 36) fun p => do
      let ms ← takeQueued p mine
      each ms fun x => do
        match ← resolveRank k ((msgRank x).getD (0, 0)).2 with
        | .error c => failMsg x c
        | .ok (pkg, _) => do
          let y := { x with dst := BitVec.ofNat 10 pkg }
          modify fun t => { t with remotes := t.remotes.map fun e => if e.1 = y.tspec.toNat then (e.1, { e.2 with msg := y }) else e }
          let u ← get
          if pkg = u.pkg then (if y.typ = tyDATA then remoteRequest y else flitCadd y) else forward y
      admitWaiting p

/-- A message that has reached this package by port `p`. -/
def deliver (p : Nat) (m : Msg) : Exec Unit := do
  let s ← get
  if m.dst.toNat ≠ s.pkg then forward m
  else
    match m.typ.toNat with
    | 0x01 => if s.isGetData m then remoteResponse m else remoteRequest m
    | 0x02 => remoteRequest m
    | 0x03 => remoteResponse m
    | 0x04 => remoteRequest m
    | 0x05 => remoteRequest m
    | 0x06 => remoteResponse m
    | 0x07 => flitCadd m
    | 0x08 => remoteResponse m
    | 0x14 => tsyncReceive p m s.dcc
    | 0x15 => (match s.partOfFpid (msgAt m 0 2) with | some k => chimReceived k m | none => pure ())
    | 0x16 => rsusp m
    | 0x17 => rresume m
    | 0x19 => rsack m
    | _ => pure ()

/-- The port that messages of a package come by, where an event does not say. -/
def State.cameBy (s : State) (m : Msg) : Nat := s.field (Reg.route m.src.toNat) 0 6

/-- A whole message is accepted at a port and handed on (R99). -/
def arrive (p : Nat) (m : Msg) : Exec Unit := do
  if counted m.typ then modify fun s => { s with nodesI := addNode s.nodesI p 1 1 }
  deliver p m

/-- The events: a message of some types arrives for this package. -/
def arriveAs (ok : Msg → State → Bool) (m : Msg) : Exec Unit := do
  let s ← get
  require (m.dst.toNat == s.pkg && ok m s)
  arrive (s.cameBy m) m

def execRemoteRequestReceive (m : Msg) (s : State) : Host.Outcome State Fault Refusal :=
  runExec (arriveAs (fun m s => m.typ == tyRDREQ || m.typ == tyWRREQ || m.typ == tyATREQ || (m.typ == tyDATA && ! s.isGetData m)) m) s

def execRemoteResponseReceive (m : Msg) (s : State) : Host.Outcome State Fault Refusal :=
  runExec (arriveAs (fun m s => m.typ == tyRDRSP || m.typ == tyATRSP || m.typ == tyWRACK || s.isGetData m) m) s

def execFlitCaddReceive (m : Msg) (s : State) : Host.Outcome State Fault Refusal := runExec (arriveAs (fun m _ => m.typ == tyCADD) m) s
def execChimReceive (m : Msg) (s : State) : Host.Outcome State Fault Refusal := runExec (arriveAs (fun m _ => m.typ == tyCHIM) m) s
def execRsuspReceive (m : Msg) (s : State) : Host.Outcome State Fault Refusal := runExec (arriveAs (fun m _ => m.typ == tyRSUSP) m) s
def execRsackReceive (m : Msg) (s : State) : Host.Outcome State Fault Refusal := runExec (arriveAs (fun m _ => m.typ == tyRSACK) m) s
def execRresumeReceive (m : Msg) (s : State) : Host.Outcome State Fault Refusal := runExec (arriveAs (fun m _ => m.typ == tyRRESUME) m) s

/-- TSYNC_RECEIVE: the stamp `t` is that of the port hardware. -/
def execTsyncReceive (m : Msg) (t : Word) (s : State) : Host.Outcome State Fault Refusal :=
  runExec (do
    let u ← get
    require (m.typ == tyTSYNC && m.dst.toNat == u.pkg)
    tsyncReceive (if msgAt m 0 1 = 1 then u.cameBy m else u.field Reg.tsyncCtl 8 6) m t) s

/-! Timeouts (R95, R86). -/

/-- Whether a request's message lies in its port's queues. -/
def State.queued (s : State) (p tag : Nat) : Option SendMsg :=
  ((s.link p).queue ++ (s.link p).waiting).find? fun x => x.msg.tspec.toNat == tag && x.msg.src.toNat == s.pkg && (vcOf x.msg.typ == some 0 || vcOf x.msg.typ == some 3)

/-- A message of another package held at a port that is not UP. -/
def State.heldFar (s : State) (tag : Nat) : Option (Nat × SendMsg) :=
  (List.range 36).findSome? fun p =>
    if s.portState p == 3 then none
    else (((s.link p).queue ++ (s.link p).waiting).find? fun x =>
      x.msg.tspec.toNat == tag && x.msg.src.toNat != s.pkg && ! x.parked && x.vc != 2).map fun x => (p, x)

/-- HOLD_TIMEOUT: a request of this package held at a port that is not UP, or a message that another package sent on through it. -/
def holdTimeout (tag : Nat) : Exec Unit := do
  let s ← get
  match Map.find s.remotes tag with
  | none =>
    match s.heldFar tag with
    | none => halt
    | some (p, x) => do
      let _ ← takeQueued p (· == x)
      admitWaiting p
      failMsg x.msg 0x241#10
  | some r => do
    require (r.answer.isNone && s.portState r.port != 3)
    match s.queued r.port tag with
    | none => halt
    | some x => do
      require (! x.parked)
      let _ ← takeQueued r.port (· == x)
      admitWaiting r.port
      answerRemote tag 0x241#10 []

def execHoldTimeout (tag : Nat) (s : State) : Host.Outcome State Fault Refusal := runExec (holdTimeout tag) s

/-- RESPONSE_TIMEOUT: a request that has left and has no response. -/
def responseTimeout (tag : Nat) : Exec Unit := do
  let s ← get
  match Map.find s.remotes tag with
  | none => halt
  | some r => do
    require (r.answer.isNone && (s.queued r.port tag).isNone)
    answerRemote tag 0x249#10 []

def execResponseTimeout (tag : Nat) (s : State) : Host.Outcome State Fault Refusal := runExec (responseTimeout tag) s

/-! Routes and rank tables (R84–R88). -/

def execRouteWrite (n : Nat) (w : Writer) (v : Word) (s : State) : Host.Outcome State Fault Refusal :=
  runExec (admitted w (Reg.route n) v do require (decide (n < 1024)); plainWrite (Reg.route n) v) s

/-- A write of RANK_BASE or RANK_CFG: the partition's cached entries go. -/
def rankConfig (k off : Nat) (v : Word) : Exec Unit := do
  plainWrite (Reg.rankBase k + off) v
  dropRanks k

def execRankTableConfigWrite (k off : Nat) (w : Writer) (v : Word) (s : State) : Host.Outcome State Fault Refusal :=
  runExec (admitted w (Reg.rankBase k + off) v do
    require (decide (k < 8) && (off == 0 || off == 8))
    rankConfig k off v) s

end Sys2Proof.Machine
end

