-- ==== Sys2Proof/Machine/Link.lean ====
section
/-! DEFINITION. Optical links (R56–R78, R503): flits and their tags, sessions, replay and lock, re-attestation, retraining and the
link-state record, and the port registers. -/
namespace Sys2Proof.Machine

/-! Flits (R57–R62). -/

/-- A header from its fields (R58). -/
def flitHdr (typ : BitVec 8) (vc : Nat) (world last : Bool) (src dst : BitVec 10) (seq ack len tspec : Nat) : BitVec 128 :=
  BitVec.ofNat 128 (tspec % 2 ^ 32 + len % 2 ^ 8 * 2 ^ 32 + ack % 2 ^ 24 * 2 ^ 40 + seq % 2 ^ 32 * 2 ^ 64 + src.toNat * 2 ^ 96 +
    dst.toNat * 2 ^ 106 + last.toNat * 2 ^ 116 + world.toNat * 2 ^ 117 + vc % 4 * 2 ^ 118 + typ.toNat * 2 ^ 120)

def Flit.field (f : Flit) (lo n : Nat) : Nat := bitsAt f.hdr.toNat lo n
def Flit.typ (f : Flit) : BitVec 8 := BitVec.ofNat 8 (f.field 120 8)
def Flit.last (f : Flit) : Bool := f.field 116 1 == 1
def Flit.seq (f : Flit) : Nat := f.field 64 32
def Flit.len (f : Flit) : Nat := f.field 32 8

/-- The header with another sequence number. -/
def Flit.withSeq (f : Flit) (q : Nat) : Flit :=
  { f with hdr := (f.hdr &&& ~~~(0xFFFFFFFF#128 <<< 64)) ||| BitVec.ofNat 128 (q % 2 ^ 32 * 2 ^ 64) }

/-- A payload of 232 bytes. -/
def fullPayload (bs : List Byte) : List Byte := (bs ++ List.replicate 232 0#8).take 232

/-- The key of a generation and a direction (R62). -/
def flitKey (secret : List Byte) (g d : Nat) : List Byte :=
  hkdf384 (List.replicate 48 0#8) secret ([0x4C#8, 0x4E#8, 0x46#8, 0x2D#8, 0x4B#8, BitVec.ofNat 8 d] ++ leBytes 4 g) 32

/-- The generation of a sequence number (R61). -/
def keyGen (q : Nat) : Nat := q / 2 ^ 40 % 2 ^ 24

def flitIv (q : Nat) : List Byte := beBytes 4 (keyGen q) ++ beBytes 8 q

/-- The 256 bytes of a flit sent as number `q` in direction `d` (R57, R61). -/
def sealFlit (secret : List Byte) (d q : Nat) (f : Flit) : List Byte :=
  let ks := aesKeys (flitKey secret (keyGen q) d)
  let aad := leBytes 16 f.hdr.toNat
  let ct := gcmText ks (flitIv q) f.payload
  aad ++ ct ++ (gcmTag ks (flitIv q) aad ct).take 8

/-- A flit without a tag: ATTEST flits (R65). -/
def plainFlit (f : Flit) : List Byte := leBytes 16 f.hdr.toNat ++ f.payload ++ List.replicate 8 0#8

/-- The header and the payload field of 256 received bytes. -/
def rawFlit (bytes : List Byte) : Flit := ⟨BitVec.ofNat 128 (leVal (bytes.take 16)), (bytes.drop 16).take 232⟩

/-- The flit that received bytes carry, where their tag verifies under `q`. -/
def openFlit (secret : List Byte) (d q : Nat) (bytes : List Byte) : Option Flit :=
  let ks := aesKeys (flitKey secret (keyGen q) d)
  let ct := (bytes.drop 16).take 232
  if (gcmTag ks (flitIv q) (bytes.take 16) ct).take 8 = bytes.drop 248 then
    some { rawFlit bytes with payload := gcmText ks (flitIv q) ct }
  else none

/-- The number nearest to `e` whose residue modulo `m` is `low` (R63). -/
def nearest (e m low : Nat) : Nat :=
  let d := (low + m - e % m) % m
  if d ≤ m / 2 then e + d else if m ≤ e + d then e + d - m else e + d

/-! Sessions. -/

/-- The key of the session that a port's flits belong to now: packet mode, or the circuit of the window's entry (R76). -/
def State.entryWord (s : State) (p : Nat) : Word := (s.link p).table.getD (s.link p).entry 0#64
def circuitOf (e : Word) : Nat := Word.bits e 0 12
def peerOf (e : Word) : Nat := Word.bits e 12 10
def State.sessKey (s : State) (p : Nat) : Nat := if s.circuit p then circuitOf (s.entryWord p) else 4096

def State.sess (s : State) (p key : Nat) : Session := Map.get (fun _ => Session.fresh) (s.link p).sess key

def updSess (p key : Nat) (f : Session → Session) : Exec Unit :=
  updLink p fun l => { l with sess := Map.upd (fun _ => Session.fresh) l.sess key f }

/-- The package at the far end: of the fibre, or in circuit mode of the entry. -/
def State.farPkg (s : State) (p : Nat) : Nat := if s.circuit p then peerOf (s.entryWord p) else (fibre p).1

/-- The direction of flits sent by this end (R61). -/
def State.sendDir (s : State) (p : Nat) : Nat :=
  if s.pkg < s.farPkg p ∨ (s.pkg = s.farPkg p ∧ p ≤ (fibre p).2) then 0 else 1

/-- Whether the entry that the window serves is trained (R78, R81). -/
def State.trained (s : State) (p : Nat) : Bool := s.flag (Reg.circStat p) ((s.link p).entry)

/-- Whether a port carries sequenced traffic now. -/
def State.upNow (s : State) (p : Nat) : Bool :=
  s.portState p == 3 && (! s.circuit p || ((s.link p).running && (s.link p).window && s.trained p))

/-- Whether a flit that starts now ends within the window (R76). -/
def State.fits (s : State) (p : Nat) : Bool :=
  let w := s.field (Reg.portStat p) 36 4
  let stop := (s.link p).mark + Word.bits (s.entryWord p) 24 16 * 15
  if w = 0 then decide (s.dcc.toNat < stop)
  else decide (s.dcc.toNat * 100 * w + 1536 * (1 + s.field (Reg.portStat p) 35 1) ≤ stop * 100 * w)

/-- Whether it may send: in circuit mode only within the window, and not after SYNC was lost (R76, R79). -/
def State.maySend (s : State) (p : Nat) : Bool := ! s.circuit p || ((s.link p).window && ! (s.link p).silent && s.fits p)

/-- A field of LINK_ERR counts up and holds at 0xFFFF (R73). -/
def countErr (p lo : Nat) : Exec Unit := do
  let s ← get
  setField (Reg.linkErr p) lo 16 (min (s.field (Reg.linkErr p) lo 16 + 1) 0xFFFF)

def errTag : Nat := 48
def errReplay : Nat := 32
def errProto : Nat := 16
def errRetrain : Nat := 0

/-- The bits of CIRC_STAT of the entries that a circuit serves. -/
def State.clearCircuit (s : State) (p key : Nat) : State :=
  (List.range 64).foldl (fun s i =>
    if circuitOf ((s.link p).table.getD i 0#64) = key then s.setReg (Reg.circStat p) (Word.setBit (s.reg (Reg.circStat p)) i false) else s) s

/-- The lock (R56, R63, R78): a port in packet mode is LOCKED; a circuit loses its training, and its port is LOCKED with the last. -/
def lockPort (p key cause : Nat) : Exec Unit := do
  let s ← get
  setField (Reg.portStat p) 48 8 cause
  updLink p fun l => { l with queue := l.queue.filter fun x => x.msg.typ != tyNAK }
  if s.circuit p then do
    updSess p key fun x => { x with keyed := false }
    modify fun s => s.clearCircuit p key
    let t ← get
    if t.reg (Reg.circStat p) = 0#64 then setField (Reg.portStat p) 32 3 4
  else setField (Reg.portStat p) 32 3 4

/-- A flit leaves by the port as number `q`; every flit carries the acknowledgement (R503). -/
def emitFlit (p key q : Nat) (f : Flit) : Exec Unit := do
  let s ← get
  setField (Reg.portStat p) 0 32 (keyGen q)
  updSess p key fun x => { x with accepted := 0 }
  updLink p fun l => { l with out := sealFlit (s.sess p key).secret (s.sendDir p) q f :: l.out }

/-! Sending (R64, R75). -/

/-- The next queue of the round-robin among those with a message that may start. -/
def nextKey (ks : List Nat) (after : Nat) : Option Nat :=
  let later := ks.filter (after < ·)
  (if later.isEmpty then ks else later).foldl (fun m k => match m with | none => some k | some j => some (min j k)) none

/-- The message whose next flit leaves: VC 2 before VC 1, then the current VC 0 or VC 3 message, then the next queue's first. -/
def pickMsg (l : Link) (ok : SendMsg → Bool) : Option SendMsg :=
  let c := l.queue.filter fun m => ! m.parked && ok m
  let one (v : Nat) : Option SendMsg := match c.find? fun m => m.vc == v && m.sent != 0 with
    | some m => some m
    | none => c.find? fun m => m.vc == v
  let bulk := c.filter fun m => m.vc == 0 || m.vc == 3
  match one 2 with
  | some m => some m
  | none =>
    match one 1 with
    | some m => some m
    | none =>
      match bulk.find? fun m => m.sent != 0 with
      | some m => some m
      | none => (nextKey (bulk.map (·.key)) l.rr).bind fun k => bulk.find? fun m => m.key == k

/-- The first occurrence of a message replaced, or taken out. -/
def replaceMsg (x : SendMsg) (y : Option SendMsg) : List SendMsg → List SendMsg
  | [] => []
  | m :: ms => if m = x then (match y with | some z => z :: ms | none => ms) else m :: replaceMsg x y ms

/-- TSPEC of a flit: the message's own, or the byte offset for the types that have none (R58, R96). -/
def flitTspec (m : Msg) (off : Nat) : Nat :=
  if m.typ = tyRDREQ ∨ m.typ = tyRDRSP ∨ m.typ = tyWRREQ ∨ m.typ = tyATREQ ∨ m.typ = tyATRSP ∨ m.typ = tyCADD ∨ m.typ = tyWRACK ∨
    m.typ = tyNAK then m.tspec.toNat else off

/-- The message's queue state after its flit of `n` bytes has left. -/
def flitLeft (p : Nat) (x : SendMsg) (n : Nat) : Exec Unit := do
  let done := decide (x.sent + n = x.msg.payload.length)
  updLink p fun l =>
    { l with queue := replaceMsg x (if done then none else some { x with sent := x.sent + n }) l.queue,
             rr := if done && (x.vc == 0 || x.vc == 3) then x.key else l.rr }
  if done then admitWaiting p else pure ()

/-- The next flit of a message under the session. -/
def sendNext (p key : Nat) (x : SendMsg) : Exec Unit := do
  let s ← get
  let e := s.sess p key
  let m := x.msg
  let n := min 232 (m.payload.length - x.sent)
  let last := decide (x.sent + n = m.payload.length)
  let q := e.sendSeq
  let f : Flit := ⟨flitHdr m.typ x.vc m.world last m.src m.dst q e.expect n (flitTspec m x.sent), fullPayload ((m.payload.drop x.sent).take n)⟩
  emitFlit p key q f
  updSess p key fun e => { e with sendSeq := q + 1, replay := e.replay ++ [(q, f)] }
  flitLeft p x n

/-- The next flit of an ATTEST message (R65). -/
def sendAttest (p : Nat) (x : SendMsg) : Exec Unit := do
  let m := x.msg
  let n := min 232 (m.payload.length - x.sent)
  let last := decide (x.sent + n = m.payload.length)
  let f : Flit := ⟨flitHdr m.typ x.vc m.world last m.src m.dst 0 0 n x.sent, fullPayload ((m.payload.drop x.sent).take n)⟩
  updLink p fun l => { l with out := plainFlit f :: l.out }
  flitLeft p x n

/-- The port or the circuit is locked: only ATTEST flits pass (R65, R78). -/
def State.attestOnly (s : State) (p : Nat) : Bool :=
  if s.circuit p then (s.link p).window && ! (s.sess p (s.sessKey p)).keyed else s.portState p == 4

/-- FLIT_SEND: at a flit boundary, resends first, then the queues' choice. -/
def flitSend (p : Nat) : Exec Unit := do
  let s ← get
  require (decide (p < 36) && s.maySend p)
  let key := s.sessKey p
  let l := s.link p
  let mine (x : SendMsg) : Bool := ! s.circuit p || x.key == peerOf (s.entryWord p)
  if s.attestOnly p then
    match pickMsg l fun x => mine x && x.msg.typ == tyATTEST with
    | none => halt
    | some x => sendAttest p x
  else do
    require (s.upNow p)
    let e := s.sess p key
    match e.resend with
    | (q, f) :: rest => do
      emitFlit p key q f
      updSess p key fun e => { e with resend := rest }
    | [] => do
      require (decide (e.replay.length < 4096) && decide (e.sendSeq < 2 ^ 64 - 1))
      match pickMsg l fun x => mine x && x.msg.typ != tyATTEST with
      | none => halt
      | some x => sendNext p key x

def execFlitSend (p : Nat) (s : State) : Host.Outcome State Fault Refusal := runExec (flitSend p) s

/-- A link's own message without payload, ahead of the queued ones. -/
def sendAhead (p : Nat) (typ : BitVec 8) (tspec : Nat) : Exec Unit := do
  let s ← get
  let m : Msg := ⟨typ, true, BitVec.ofNat 10 s.pkg, BitVec.ofNat 10 (s.farPkg p), BitVec.ofNat 32 tspec, []⟩
  updLink p fun l => { l with queue := ⟨s.farPkg p, 2, m, 0, false⟩ :: l.queue }

def State.ackQueued (s : State) (p : Nat) : Bool := (s.link p).queue.any fun x => x.msg.typ == tyACKONLY

/-- KEEPALIVE_TIMEOUT: nothing else is waiting. -/
def keepalive (p : Nat) : Exec Unit := do
  let s ← get
  require (decide (p < 36) && s.upNow p && (s.sess p (s.sessKey p)).resend.isEmpty && (s.link p).queue.all (·.parked))
  sendAhead p tyACKONLY 0

def execKeepaliveTimeout (p : Nat) (s : State) : Host.Outcome State Fault Refusal := runExec (keepalive p) s

/-- ACK_THRESHOLD: 512 flits accepted since the last acknowledgement. -/
def ackThreshold (p : Nat) : Exec Unit := do
  let s ← get
  require (decide (p < 36) && s.upNow p && decide (512 ≤ (s.sess p (s.sessKey p)).accepted) && ! s.ackQueued p)
  sendAhead p tyACKONLY 0

def execAckThreshold (p : Nat) (s : State) : Host.Outcome State Fault Refusal := runExec (ackThreshold p) s

/-- REPLAY_TIMEOUT: resending from the oldest unacknowledged flit. -/
def replayTimeout (p : Nat) : Exec Unit := do
  let s ← get
  let key := s.sessKey p
  require (decide (p < 36) && s.upNow p && ! (s.sess p key).replay.isEmpty)
  updSess p key fun e => { e with resend := e.replay }
  countErr p errReplay

def execReplayTimeout (p : Nat) (s : State) : Host.Outcome State Fault Refusal := runExec (replayTimeout p) s

/-- SESSION_EXHAUSTED. -/
def sessionExhausted (p : Nat) : Exec Unit := do
  let s ← get
  require (decide (p < 36) && s.upNow p && decide (2 ^ 64 - 1 ≤ (s.sess p (s.sessKey p)).sendSeq))
  lockPort p (s.sessKey p) 0x36

def execSessionExhausted (p : Nat) (s : State) : Host.Outcome State Fault Refusal := runExec (sessionExhausted p) s

/-! Receiving (R59, R63, R64). -/

/-- Flits below number `a` are acknowledged: their messages have left the egress node with their last flits (R99). -/
def acked (p key a : Nat) : Exec Unit := do
  let s ← get
  let e := s.sess p key
  if e.sendSeq < a then pure ()
  else do
    let n := (e.replay.filter fun x => decide (x.1 < a) && x.2.last && counted x.2.typ).length
    updSess p key fun e => { e with replay := e.replay.filter (a ≤ ·.1), resend := e.resend.filter (a ≤ ·.1) }
    if n ≠ 0 then modify fun s => { s with nodesE := addNode s.nodesE p 0 n }

/-- A NAK: resending from the flit it names, in order, with the original numbers. -/
def nakReceived (p key seq : Nat) : Exec Unit :=
  updSess p key fun e => { e with resend := e.replay.filter (nearest e.sendSeq (2 ^ 32) seq ≤ ·.1) }

def execNakReceive (p : Nat) (seq : BitVec 32) (s : State) : Host.Outcome State Fault Refusal :=
  runExec (do
    let s ← get
    require (decide (p < 36) && s.upNow p)
    nakReceived p (s.sessKey p) seq.toNat) s

/-- A NAK for the expected flit, where none is outstanding. -/
def sendNak (p key : Nat) : Exec Unit := do
  let s ← get
  if (s.sess p key).nakOut then pure ()
  else do
    updSess p key fun e => { e with nakOut := true }
    sendAhead p tyNAK ((s.sess p key).expect % 2 ^ 32)

/-- A tag failure: `at_` says that SEQ is the expected one. -/
def tagFailed (p key : Nat) (at_ : Bool) : Exec Unit := do
  let s ← get
  let e := s.sess p key
  countErr p errTag
  updSess p key fun e => { e with fails := e.fails + 1, failsAtE := e.failsAtE + at_.toNat }
  sendNak p key
  if (at_ && decide (1 ≤ e.failsAtE)) || decide (15 ≤ e.fails) then lockPort p key 0x30

/-- A port enters UP by its records: the dropped and the renumbered flits of the replay buffer (R69). -/
def enterUp (p w lm sp next : Nat) : Exec Unit := do
  setField (Reg.portStat p) 36 4 w
  setField (Reg.portStat p) 40 8 lm
  setField (Reg.portStat p) 35 1 sp
  setField (Reg.portStat p) 32 3 3
  acked p 4096 next
  updSess p 4096 fun e =>
    let l := (e.replay.zip (List.range e.replay.length)).map fun x => (e.sendSeq + x.2, x.1.2.withSeq (e.sendSeq + x.2))
    { e with replay := l, resend := l, sendSeq := e.sendSeq + e.replay.length }

/-- The first 16 bytes of the secret's hash (R68). -/
def lsrHash (secret : List Byte) : List Byte :=
  hkdf384 (List.replicate 48 0#8) secret [0x4C#8, 0x4E#8, 0x46#8, 0x2D#8, 0x48#8] 16

/-- This end's record (R68). -/
def State.lsrRecord (s : State) (p : Nat) : List Byte :=
  let e := s.sess p 4096
  leBytes 1 e.own.1 ++ leBytes 1 e.own.2.1 ++ leBytes 1 e.own.2.2 ++ leBytes 1 e.attempt ++ leBytes 2 s.pkg ++ leBytes 1 p ++ [0#8] ++
    leBytes 8 e.nextSeq ++ lsrHash e.secret

/-- The `n` lowest lanes of a mask. -/
def lowLanes (m n : Nat) : Nat :=
  ((List.range 8).foldl (fun (r : Nat × Nat) i => if bitsAt m i 1 = 1 ∧ r.2 < n then (r.1 + 2 ^ i, r.2 + 1) else r) (0, 0)).1

/-- The widest usable width of a number of lanes (R69). -/
def widthOf (n : Nat) : Nat := if 8 ≤ n then 8 else if 4 ≤ n then 4 else if 2 ≤ n then 2 else 0

/-- The peer's record is held: records of the same attempt are compared (R69). -/
def lsrReceived (p : Nat) (body : List Byte) : Exec Unit := do
  updSess p 4096 fun e => { e with lsrPeer := body }
  let s ← get
  let e := s.sess p 4096
  let b (i : Nat) : Nat := (body.getD i 0#8).toNat
  let same := decide (e.own = (b 0, b 1, b 2))
  let hash := (body.drop 16).take 16 == lsrHash e.secret
  if b 3 ≠ e.attempt then pure ()
  else if same && hash then enterUp p e.own.1 e.own.2.1 e.own.2.2 (leVal ((body.drop 8).take 8))
  else if e.attempt = 1 then
    let l := e.own.2.1 &&& b 1
    let n := popcount l 8
    let w := widthOf (min (min e.own.1 (b 0)) n)
    if n < 2 then portFails p 0x35
    else updSess p 4096 fun e => { e with attempt := 2, own := (w, lowLanes l w, max e.own.2.2 (b 2)) }
  else portFails p (if hash then 0x31 else 0x32)

/-- An accepted flit of a message; a whole message is handed on (R59, R60, R99). -/
def acceptPayload (p key : Nat) (f : Flit) : Exec Unit := do
  let s ← get
  match vcOf f.typ with
  | none => countErr p errProto
  | some vc =>
    if 232 < f.len ∨ (! f.last ∧ f.len < 232) then countErr p errProto
    else if f.typ = tyNAK then nakReceived p key (f.field 0 32)
    else if f.typ = tyACKONLY ∨ f.typ = tyATTEST ∨ f.typ = tyLSR then pure ()
    else do
      let k := 4 * key + vc
      let body := Map.get (fun _ => []) (s.link p).partial_ k ++ f.payload.take f.len
      updLink p fun l => { l with partial_ := Map.set (fun _ => []) l.partial_ k (if f.last then [] else body) }
      if f.last then
        arrive p ⟨f.typ, f.field 117 1 == 1, BitVec.ofNat 10 (f.field 96 10), BitVec.ofNat 10 (f.field 106 10),
          BitVec.ofNat 32 (f.field 0 32), body⟩
      else pure ()

/-- A flit whose tag verifies as number `q` (R63). -/
def verified (p key q : Nat) (f : Flit) : Exec Unit := do
  let s ← get
  let e := (s.sess p key).expect
  acked p key (nearest (s.sess p key).sendSeq (2 ^ 24) (f.field 40 24))
  if f.typ = tyLSR then updSess p key fun x => { x with expect := q + 1, failsAtE := 0, fails := 0, nakOut := false }
  else if q < e then pure ()
  else if e < q then do
    countErr p errReplay
    sendNak p key
  else do
    updSess p key fun x =>
      { x with expect := q + 1, nextSeq := q + 1, accepted := x.accepted + 1, fails := 0, failsAtE := 0, nakOut := false }
    acceptPayload p key f

/-- The whole ATTEST message (R65). -/
def attestMessage (p : Nat) (body : List Byte) : Exec Unit := do
  let kind := (body.getD 0 0#8).toNat
  let n := leVal ((body.drop 2).take 2)
  let want := match kind with | 1 => 129 | 2 => 656 | 3 => 144 | _ => 0
  if want = 0 ∨ n ≠ want ∨ body.length ≠ 4 + n then countErr p errProto
  else updLink p fun l => { l with attestIn := l.attestIn ++ [body] }

/-- An ATTEST flit of a locked port or circuit. -/
def attestFlit (p : Nat) (f : Flit) : Exec Unit := do
  let s ← get
  if f.typ ≠ tyATTEST then pure ()
  else if 232 < f.len ∨ (! f.last ∧ f.len < 232) then countErr p errProto
  else
    let sofar := if f.field 0 32 = 0 then [] else (s.link p).attest
    if f.field 0 32 ≠ sofar.length then pure ()
    else do
      let body := sofar ++ f.payload.take f.len
      updLink p fun l => { l with attest := if f.last then [] else body }
      if f.last then attestMessage p body else pure ()

def execAttestMessageReceive (p : Nat) (body : List Byte) (s : State) : Host.Outcome State Fault Refusal :=
  runExec (do
    let s ← get
    require (decide (p < 36) && s.attestOnly p)
    attestMessage p body) s

/-- The session that a received flit belongs to: in circuit mode the window's circuit, or in the guard the last window's (R503). -/
def State.receiveKey (s : State) (p : Nat) : Option Nat :=
  let l := s.link p
  if ! s.circuit p then some 4096
  else if l.running && l.window then some (s.sessKey p)
  else l.late.map circuitOf

/-- FLIT_RECEIVE. -/
def flitReceive (p : Nat) (bytes : List Byte) : Exec Unit := do
  let s ← get
  require (decide (p < 36) && bytes.length == 256)
  match s.receiveKey p with
  | none => pure ()
  | some key =>
    let e := s.sess p key
    let raw := rawFlit bytes
    let q := nearest e.expect (2 ^ 32) raw.seq
    let st := s.portState p
    let d := 1 - s.sendDir p
    if (if s.circuit p then ! e.keyed else st == 4) then attestFlit p raw
    else if ! s.circuit p ∧ st = 2 then
      match openFlit e.secret d q bytes with
      | none => pure ()
      | some f =>
        if f.typ = tyLSR then do
          verified p key q f
          lsrReceived p (f.payload.take 32)
        else pure ()
    else if st = 3 then
      match openFlit e.secret d q bytes with
      | none => tagFailed p key (raw.seq == e.expect % 2 ^ 32)
      | some f => verified p key q f
    else pure ()

def execFlitReceive (p : Nat) (bytes : List Byte) (s : State) : Host.Outcome State Fault Refusal := runExec (flitReceive p bytes) s

/-! The link-state record (R68, R69). -/

/-- LSR_SEND. -/
def lsrSend (p : Nat) : Exec Unit := do
  let s ← get
  require (decide (p < 36) && s.portState p == 2 && ! s.circuit p)
  let e := s.sess p 4096
  let q := e.sendSeq
  let f : Flit := ⟨flitHdr tyLSR 2 true true (BitVec.ofNat 10 s.pkg) (BitVec.ofNat 10 (s.farPkg p)) q e.expect 32 0,
    fullPayload (s.lsrRecord p)⟩
  emitFlit p 4096 q f
  updSess p 4096 fun e => { e with sendSeq := q + 1 }

def execLsrSend (p : Nat) (s : State) : Host.Outcome State Fault Refusal := runExec (lsrSend p) s

def execLsrReceive (p : Nat) (body : List Byte) (s : State) : Host.Outcome State Fault Refusal :=
  runExec (do
    let s ← get
    require (decide (p < 36) && s.portState p == 2 && ! s.circuit p && body.length == 32)
    lsrReceived p body) s

def execLsrTimeout (p : Nat) (s : State) : Host.Outcome State Fault Refusal :=
  runExec (do
    let s ← get
    require (decide (p < 36) && s.portState p == 2 && ! s.circuit p)
    portFails p 0x33) s

/-! Retraining (R67). -/

/-- An entry to RETRAIN. -/
def enterRetrain (p : Nat) : Exec Unit := do
  setField (Reg.portStat p) 32 3 1
  countErr p errRetrain

def execRetrainTrigger (p : Nat) (s : State) : Host.Outcome State Fault Refusal :=
  runExec (do
    let s ← get
    require (decide (p < 36) && s.portState p == 3)
    enterRetrain p) s

/-- RETRAIN_DONE: the lanes that passed at the full rate, and the others that passed at half rate. -/
def retrainDone (p full half : Nat) : Exec Unit := do
  let s ← get
  require (decide (p < 36) && s.portState p == 1)
  let want := s.field (Reg.optTrn p) 16 8
  let f := full &&& want
  let all := (full ||| half) &&& want
  let (lm, sp) := if 2 ≤ popcount f 8 then (f, 0) else (all, 1)
  setField (Reg.optTstat p) 8 8 lm
  if popcount lm 8 < 2 then portFails p 0x34
  else do
    let own := (widthOf (popcount lm 8), lm, sp)
    updLink p fun l => { l with record := own }
    setField (Reg.portStat p) 32 3 2
    updSess p 4096 fun e => { e with attempt := 1, own := own, lsrPeer := [] }

def execRetrainDone (p : Nat) (full half : BitVec 8) (s : State) : Host.Outcome State Fault Refusal :=
  runExec (retrainDone p full.toNat half.toNat) s

/-! PORT_CTL and PORT_SECRET (R56, R65, R66, R70, R74). -/

/-- The session that PORT_SECRET and UNLOCK address. -/
def State.ctlKey (s : State) (p : Nat) : Nat := if s.circuit p then s.field (Reg.portCtl p) 4 12 else 4096

/-- UNLOCK: the port, or the circuit that CSEL names, starts a new session. -/
def unlockPort (p : Nat) : Exec Unit := do
  let s ← get
  let key := s.ctlKey p
  let new (e : Session) : Session :=
    { e with sendSeq := 0, expect := 0, keyed := true, nakOut := false, failsAtE := 0, fails := 0, resend := [], accepted := 0,
             lsrPeer := [], attempt := 1, own := (s.link p).record }
  if s.circuit p then
    (if (s.sess p key).keyed then pure () else updSess p key new)
  else if s.portState p = 4 then do
    updSess p key new
    setField (Reg.portStat p) 32 3 2
  else pure ()

/-- A write of PORT_CTL. -/
def portCtl (p : Nat) (v : Word) : Exec Unit := do
  let s ← get
  let locked := s.portState p == 4
  plainWrite (Reg.portCtl p) (if locked then Word.setBit v 0 (s.flag (Reg.portCtl p) 0) else v)
  if Word.bit v 2 then unlockPort p
  if locked then pure ()
  else do
    if Word.bit v 1 && (s.portState p == 3 || s.portState p == 5) then enterRetrain p
    updLink p fun l => { l with draining := ! Word.bit v 0 }

def portCtlWrite (bit : Bool × Nat) (p : Nat) (w : Writer) (v : Word) : Exec Unit :=
  admitted w (Reg.portCtl p) v do
    require (decide (p < 36) && Word.bit v bit.2 == bit.1)
    portCtl p v

def execPortCtlEnWrite (p : Nat) (w : Writer) (v : Word) (s : State) : Host.Outcome State Fault Refusal :=
  runExec (portCtlWrite (false, 0) p w v) s
def execPortRetrainWrite (p : Nat) (w : Writer) (v : Word) (s : State) : Host.Outcome State Fault Refusal :=
  runExec (portCtlWrite (true, 1) p w v) s
def execPortUnlock (p : Nat) (w : Writer) (v : Word) (s : State) : Host.Outcome State Fault Refusal :=
  runExec (portCtlWrite (true, 2) p w v) s

/-- PORT_DRAINED. -/
def portDrained (p : Nat) : Exec Unit := do
  let s ← get
  let l := s.link p
  require (decide (p < 36) && l.draining && s.portState p != 0 && s.portState p != 4 && l.queue.isEmpty && l.waiting.isEmpty &&
    l.sess.all fun e => e.2.resend.isEmpty)
  setField (Reg.portStat p) 32 3 0
  updLink p fun l => { l with draining := false }

def execPortDrained (p : Nat) (s : State) : Host.Outcome State Fault Refusal := runExec (portDrained p) s

/-- A write of PORT_SECRETk. -/
def portSecret (p k : Nat) (v : Word) : Exec Unit := do
  let s ← get
  updSess p (s.ctlKey p) fun e =>
    let b := if e.secret.length = 48 then e.secret else List.replicate 48 0#8
    { e with secret := b.take (8 * k) ++ leBytes 8 v.toNat ++ b.drop (8 * k + 8) }

def execPortSecretWrite (p k : Nat) (w : Writer) (v : Word) (s : State) : Host.Outcome State Fault Refusal :=
  runExec (admitted w (Reg.portSecret p k) v do
    require (decide (p < 36) && decide (k < 6))
    portSecret p k v) s

end Sys2Proof.Machine
end

