-- ==== Sys2Proof/Machine/Circuit.lean ====
section
/-! DEFINITION. Circuit mode (R76–R81, R520): the slot table, rotations, windows and the training of circuits. -/
namespace Sys2Proof.Machine

def durOf (e : Word) : Nat := Word.bits e 24 16
def guardOf (e : Word) : Nat := Word.bits e 40 8

/-- The slot table as it stands: entries 0 to LAST. -/
def State.slotTable (s : State) (p : Nat) : List Word :=
  (List.range (s.field (Reg.slotCfg p) 8 6 + 1)).map fun i => s.reg (Reg.slotEnt p i)

/-- The rotation length in SR.DCC cycles (R76). -/
def rotationLength (t : List Word) : Nat := t.foldl (fun n e => n + (durOf e + guardOf e) * 15) 0

/-- The checks of R77. -/
def State.tableOk (s : State) (p : Nat) (t : List Word) : Bool :=
  s.circuit p && t.all fun e => decide (10 ≤ durOf e) && decide (10 ≤ guardOf e) && s.field (Reg.route (peerOf e)) 0 6 == p

/-- EN at 0: no circuit is trained and nothing is sent in circuit mode (R81). -/
def stopSlots (p : Nat) : Exec Unit := do
  setFlag (Reg.slotCfg p) 0 false
  setReg (Reg.circStat p) 0#64
  updLink p fun l => { l with running := false, window := false, late := none }

/-- The first SR.DCC value of the form `roff + k · len` that is not earlier than now. -/
def firstStart (roff len now : Nat) : Nat := if now ≤ roff then roff else roff + (now - roff + len - 1) / len * len

/-- A write of SLOT_CFG. -/
def slotCfg (p : Nat) (v : Word) : Exec Unit := do
  let s ← get
  plainWrite (Reg.slotCfg p) v
  let t ← get
  if ! Word.bit v 0 then stopSlots p
  else if s.flag (Reg.slotCfg p) 0 then pure ()
  else if t.tableOk p (t.slotTable p) then
    updLink p fun l =>
      { l with mark := firstStart (Word.bits v 32 32) (rotationLength (t.slotTable p)) t.dcc.toNat, running := false, window := false, late := none }
  else do
    setFlag (Reg.slotCfg p) 0 false
    setFlag (Reg.slotCfg p) 1 true

def execSlotCfgWrite (p : Nat) (w : Writer) (v : Word) (s : State) : Host.Outcome State Fault Refusal :=
  runExec (admitted w (Reg.slotCfg p) v do require (decide (p < 36)); slotCfg p v) s

/-- ROTATION_START: the table is captured and checked again (R77, R520). -/
def rotationStart (p : Nat) : Exec Unit := do
  let s ← get
  let l := s.link p
  require (decide (p < 36) && s.flag (Reg.slotCfg p) 0 && ! l.running && decide (l.mark ≤ s.dcc.toNat))
  let t := s.slotTable p
  if s.tableOk p t then
    updLink p fun l => { l with running := true, table := t, entry := 0, window := false, silent := ! s.flag Reg.tsyncStat 0 }
  else do
    stopSlots p
    setFlag (Reg.slotCfg p) 1 true

def execRotationStart (p : Nat) (s : State) : Host.Outcome State Fault Refusal := runExec (rotationStart p) s

/-- SLOT_GUARD_END: the window opens. -/
def slotGuardEnd (p : Nat) : Exec Unit := do
  let s ← get
  let l := s.link p
  let stop := l.mark + guardOf (s.entryWord p) * 15
  require (decide (p < 36) && l.running && ! l.window && decide (stop ≤ s.dcc.toNat))
  updLink p fun l => { l with window := true, mark := stop, late := none }

def execSlotGuardEnd (p : Nat) (s : State) : Host.Outcome State Fault Refusal := runExec (slotGuardEnd p) s

/-- SLOT_WINDOW_END: the next entry's guard, or the end of the rotation; a port without SYNC sends nothing more (R79). -/
def slotWindowEnd (p : Nat) : Exec Unit := do
  let s ← get
  let l := s.link p
  let stop := l.mark + durOf (s.entryWord p) * 15
  require (decide (p < 36) && l.running && l.window && decide (stop ≤ s.dcc.toNat))
  let more := decide (l.entry + 1 < l.table.length)
  updLink p fun l =>
    { l with window := false, mark := stop, late := some (s.entryWord p), running := more, entry := if more then l.entry + 1 else l.entry,
             silent := l.silent || ! s.flag Reg.tsyncStat 0 }

def execSlotWindowEnd (p : Nat) (s : State) : Host.Outcome State Fault Refusal := runExec (slotWindowEnd p) s

/-- CIRCUIT_TRAINED: training, keying and the exchange of entry `i`'s circuit end in its windows. What the exchange agreed on is
open. -/
def circuitTrained (p i : Nat) (ok : Bool) : Exec Unit := do
  let s ← get
  let l := s.link p
  let e := s.sess p (circuitOf (l.table.getD i 0#64))
  require (decide (p < 36) && s.circuit p && s.flag (Reg.slotCfg p) 0 && decide (i < l.table.length) &&
    (! s.flag (Reg.circStat p) i || s.portState p == 2))
  if ok then do
    require (e.keyed && e.secret.length == 48)
    let w ← choose 54 3
    let n ← choose 55 256
    let sp ← choose 56 2
    let w := [8, 4, 2].getD w 8
    setField (Reg.portStat p) 36 4 w
    setField (Reg.portStat p) 40 8 (if w ≤ popcount n 8 then n else 0xFF)
    setField (Reg.portStat p) 35 1 sp
    setFlag (Reg.circStat p) i true
    setField (Reg.portStat p) 32 3 3
  else do
    let c ← choose 57 5
    setField (Reg.portStat p) 48 8 (0x31 + c)

def execCircuitTrained (p i : Nat) (ok : Bool) (s : State) : Host.Outcome State Fault Refusal := runExec (circuitTrained p i ok) s

end Sys2Proof.Machine
end

