-- ==== Sys2Proof/Machine/Control.lean ====
section
/-! DEFINITION. Control transfer and CTRL (R388–R391, R408). -/
namespace Sys2Proof.Machine

/-! Branches (R388, R389). -/

/-- BR. -/
def branch (x : Args) : Exec Unit := do
  let h ← getHart
  jump (branchTarget h.pc x)

/-- CALL: D takes the PC at which the stream would continue; an invalid target faults before it is written. -/
def callTo (x : Args) : Exec Unit := do
  let s ← get
  let pc := (s.hart s.cur).pc
  let t := branchTarget pc x
  if 0 ≤ t ∧ s.targetOk s.cur t.toNat then do
    writeDst x.d (BitVec.ofNat 64 (s.follow s.cur (pc + 8)))
    transfer t.toNat
  else trapAt 0x046#10 (BitVec.ofInt 64 t)

/-- LOOP: D := D − 1, and a branch where D is not 0 then. A transfer to an invalid target changes nothing. -/
def loopTo (x : Args) : Exec Unit := do
  let s ← get
  let pc := (s.hart s.cur).pc
  let d ← readSrc 0 x.d
  let t := branchTarget pc x
  if d - 1#64 = 0#64 then do
    writeDst x.d 0#64
    retire 1
  else if 0 ≤ t ∧ s.targetOk s.cur t.toNat then do
    writeDst x.d (d - 1#64)
    transfer t.toNat
  else trapAt 0x046#10 (BitVec.ofInt 64 t)

/-- BEOS reads EOS whichever stream the port is bound to, and pops nothing. -/
def branchEos (x : Args) : Exec Unit := do
  let h ← getHart
  let j ← curJob
  if (j.port (x.d.toNat - 0x70)).eos then jump (branchTarget h.pc x) else retire 1

def jumpReg (x : Args) : Exec Unit := do
  let a ← readSrc 1 x.a
  jump a.toNat

/-! CTRL (R390, R391). -/

/-- JOIN: a release at device scope, and the stream stops; its effects are accepted before the job ends (R235, R390). -/
def joinStream : Exec Unit := do
  let _ ← releaseHere 3
  updHart fun h => { (h.past 1) with stat := .joined }

/-- HALT: in a user stream a fatal context error of its task with cause `e`; a front end stops until its reset, the management
controller until PORST_N (R390, R408). -/
def haltWith (x : Args) : Exec Unit := do
  let s ← get
  let h := s.hart s.cur
  match s.cur with
  | .stream c e => fatalOn c e.no h.pc (x.imm.extractLsb' 0 10) .plain
  | _ => updHart fun h => { (h.past 1) with stat := .halted }

/-- YIELD: a pre-emption where another job is ready on the core; on a controller it does nothing, but on the service context it
parks until the fault queue holds a record (R390, R408). -/
def yieldTo : Exec Unit := do
  let s ← get
  match s.cur with
  | .stream c _ => do
    if s.otherReady c then updJob c fun j => { j with stopping := true }
    retire 1
  | .service c =>
    if (s.core c).fqCount = 0 then block .park
    else retire 1
  | _ => retire 1

/-- SVC: a record with cause 0x1C0 and AUX = e; the stream stops, and goes on behind the SVC (R390). -/
def superCall (x : Args) : Exec Unit := do
  let s ← get
  match s.cur with
  | .stream c e => do
    let h := s.hart s.cur
    let i := { FInfo.plain with aux := x.imm.setWidth 64 }
    fqPush c false (jobRecord s c 0x1C0#10 3 e.no h.pc i)
    let next := s.follow s.cur (h.pc + 8)
    updHart fun h => { (h.past 1) with pc := next, newLine := h.newLine || next != h.pc + 8, stat := .stopped 0x1C0#10 true,
                                       cause := 0x1C0#10, restart := ⟨next, 0, 0, []⟩ }
  | _ => pure ()

/-- Whether ERET's control word is one (R391). -/
def eretOk (w : Word) (stopped : Option Cause) : Bool :=
  let act := Word.bits w 2 2
  decide (Word.bits w 4 12 = 0) && decide (Word.bits w 26 38 = 0) && act != 3 &&
  (act != 1 || (match stopped with | some c => decide (0x180 ≤ c.toNat) && decide (c.toNat ≤ 0x182) | none => true)) &&
  (act != 2 || decide (Word.bits w 16 10 ≠ 0))

/-- ERET: RESUME, CONTINUE or TERMINATE of a stopped stream of the job on the core (R264, R391). -/
def serviceReturn (x : Args) : Exec Unit := do
  let w ← readSrc 1 x.a
  let s ← get
  let c := s.cur.coreNo
  let a := Agent.stream c (.ofNo (Word.bits w 0 2))
  let stopped : Option Cause := match (s.hart a).stat with
    | .stopped f _ => if (s.job c).live then some f else none
    | _ => none
  if ! eretOk w stopped then trap 0x044#10
  else do
    (match stopped with
      | none => pure ()
      | some _ =>
        match Word.bits w 2 2 with
        | 0 => resumeStream a false
        | 1 => resumeStream a true
        | _ => fatalOn c (Word.bits w 0 2) (s.hart a).restart.pc (BitVec.ofNat 10 (Word.bits w 16 10)) .plain)
    retire 1

/-! The instructions. -/

def execBr (x : Args) (s : State) : Host.Outcome State Fault Refusal :=
  run (.one 0x30#8 0#4 x) .br (branch x) s

def execCall (x : Args) (s : State) : Host.Outcome State Fault Refusal :=
  run (.one 0x31#8 0#4 x) .call (callTo x) s

def execJr (x : Args) (s : State) : Host.Outcome State Fault Refusal :=
  run (.one 0x32#8 0#4 x) .jr (jumpReg x) s

def execLoop (x : Args) (s : State) : Host.Outcome State Fault Refusal :=
  run (.one 0x33#8 0#4 x) .loop (loopTo x) s

def execBeos (x : Args) (s : State) : Host.Outcome State Fault Refusal :=
  run (.one 0x34#8 0#4 x) .beos (branchEos x) s

def execJoin (x : Args) (s : State) : Host.Outcome State Fault Refusal :=
  run (.one 0x35#8 0#4 x) .nop (joinStream) s

def execHalt (x : Args) (s : State) : Host.Outcome State Fault Refusal :=
  run (.one 0x35#8 1#4 x) .halt (haltWith x) s

def execYield (x : Args) (s : State) : Host.Outcome State Fault Refusal :=
  run (.one 0x35#8 2#4 x) .nop (yieldTo) s

def execSvc (x : Args) (s : State) : Host.Outcome State Fault Refusal :=
  run (.one 0x35#8 3#4 x) .svc (superCall x) s

def execEret (x : Args) (s : State) : Host.Outcome State Fault Refusal :=
  run (.one 0x35#8 4#4 x) .srcA (serviceReturn x) s


end Sys2Proof.Machine
end

