-- ==== Sys2Proof/Machine/CoreEv.lean ====
section
/-! DEFINITION. Events of the cores: acceptance of what they publish (R94, R293), waits that are met (R313, R396), answers to remote
loads (R249, R387), effect points (R310), and the service context's entries (R261, R262, R265). -/
namespace Sys2Proof.Machine

/-- PHASE_WRITEBACK: a full buffer writes back its oldest granule. -/
def phaseWriteback (c : Nat) : Exec Unit := do
  let s ← get
  require (decide (4096 ≤ (s.job c).privOrder.length))
  writeBackOldest c

def execPhaseWriteback (c : Nat) (s : State) : Host.Outcome State Fault Refusal := runExec (phaseWriteback c) s

/-- The effects of a core that may be accepted next. -/
def State.acceptable (s : State) (c : Nat) : List Nat :=
  (List.range s.outq.length).filter fun n => s.eligible n && (match s.outq[n]? with | some o => o.core == c | none => false)

/-- WRITE_ACCEPTED: one of them is; which is open. -/
def writeAccepted (c : Nat) : Exec Unit := do
  let s ← get
  let l := s.acceptable c
  require (! l.isEmpty)
  let i ← choose 58 l.length
  acceptOut (l.getD i 0)

def execWriteAccepted (c : Nat) (s : State) : Host.Outcome State Fault Refusal := runExec (writeAccepted c) s

/-- The releases that a met wait observes; the program ends where the wait is not met. -/
def metWait (w : WaitRec) (c : Nat) : Exec (List Rel) := do
  let s ← get
  match w.ref with
  | .core n => do
    let k := (s.job c).counter n
    require (k.poison.isNone && decide (w.thr ≤ k.view.toNat))
    pure k.rels
  | .mem r => do
    match ← resolveMem c r with
    | .here pa => do
      let t ← get
      require ((t.mcounter pa).poison.isNone && decide (w.thr ≤ (t.word pa).toNat))
      match ← exitCheck (t.block pa) with
      | some _ => halt
      | none => pure (t.mcounter pa).rels
    | _ => halt

/-- WAIT_SATISFIED: a wait instruction completes; a command goes on from its wait clause. -/
def waitSatisfied (c : Nat) (e : Eng) : Exec Unit := do
  let s ← get
  let a := Agent.stream c e
  let h := s.hart a
  match h.wait with
  | none => halt
  | some w => do
    require (s.runnable a && ! w.waita)
    match h.blocked with
    | .cwait => do
      let rels ← metWait w c
      modify fun s => { s with cur := a }
      waitDone w.acq rels
    | .memWait => do
      let rels ← metWait w c
      modify fun s => { s with cur := a }
      waitDone w.acq rels
    | .cmdWait _ => do
      let _ ← metWait w c
      updHartOf a fun h => { h with blocked := .none, wait := none }
    | _ => halt

def execWaitSatisfied (c : Nat) (e : Eng) (s : State) : Host.Outcome State Fault Refusal := runExec (waitSatisfied c e) s

/-- WAITA_REEVALUATE. -/
def waitaAgain (a : Agent) : Exec Unit := do
  let s ← get
  match (s.hart a).wait with
  | none => halt
  | some w => do
    require (agentExists a && s.runnable a && w.waita && (s.hart a).blocked == .memWait)
    match w.ref with
    | .mem r => do
      modify fun s => { s with cur := a }
      waitWordAt r w.thr w.acq
    | .core _ => halt

def execWaitaReevaluate (ag : Agent) (s : State) : Host.Outcome State Fault Refusal := runExec (waitaAgain ag) s

/-! Remote loads into channels (R249, R387). -/

/-- The load's reserved entry replaced, or removed. -/
def Job.fill (j : Job) (r : Rld) (v : Option Entry) : Job :=
  { j.setChan r.chan ((j.chan r.chan).flatMap fun e => if e = .reserved r.id then v.toList else [e]) with
    rlds := j.rlds.filter (·.id != r.id) }

/-- The load fails: the fault waits for the stream's next instruction. -/
def rldFails (c : Nat) (r : Rld) (cause : Cause) : Exec Unit := do
  updJob c fun j => { j.fill r none with rldFault := j.rldFault ++ [(r, cause)] }
  let s ← get
  custody (s.job c).part c 0 1

/-- The data, extended, in the stream's view of it. -/
def rldArrives (c : Nat) (r : Rld) (data : List Byte) : Exec Unit := do
  let s ← get
  let bs := (s.hart (.stream c .A)).overlay r.addr.toNat data
  let v : Word := if r.signed then BitVec.ofInt 64 ((BitVec.ofNat (8 * r.size) (leVal bs)).toInt) else leWord bs
  updJob c fun j => j.fill r (some (.scalar v))
  custody (s.job c).part c 0 1

/-- RLD_RESPONSE: the block is read and checked here, or the answer of another package has come. `fail` is the cause where the
load fails, 0 where it does not. -/
def rldResponse (c id : Nat) (fail : Cause) : Exec Unit := do
  let s ← get
  match (s.job c).rlds.find? (·.id == id) with
  | none => halt
  | some r =>
    match s.answerOf (.rld c id) fun _ => true with
    | some (tag, q) =>
      match q.answer with
      | none => halt
      | some (st, data) => do
        require (st == fail)
        dropRemote tag
        (if st = 0#10 then rldArrives c r data else rldFails c r st)
    | none => do
      match s.place r.pa with
      | .fabric _ _ => do
        require (fail != 0#10)
        rldFails c r fail
      | _ => do
        match ← exitChecks (s.blocksOf r.pa r.size) with
        | some f => rldFails c r f
        | none => rldArrives c r (s.bytes r.pa r.size)

def execRldResponse (c id : Nat) (fail : Cause) (s : State) : Host.Outcome State Fault Refusal := runExec (rldResponse c id fail) s

/-! Sealing (R310). -/

/-- SEAL_EFFECT_POINT: the invalidation of the core's range completes. -/
def sealEffect (c : Nat) : Exec Unit := do
  let s ← get
  let k := (s.job c).part
  match (s.part k).seals.find? (·.1 == c) with
  | none => halt
  | some (_, lo, hi, _) => do
    require (s.outq.all fun o => ! (s.part k).phys.contains o.core || decide (1024 ≤ o.agent))
    endInvalidation k lo hi
    updPart k fun p => { p with seals := p.seals.filter (·.1 != c) }

def execSealEffectPoint (c : Nat) (s : State) : Host.Outcome State Fault Refusal := runExec (sealEffect c) s

/-! The service context (R261, R262, R265). -/

/-- SERVICE_ENTRY: a pre-emption request or a report; faults and SVC make their own records where they happen. -/
def serviceEntry (c : Nat) (cause : Cause) (aux : Word) : Exec Unit := do
  let s ← get
  require (decide (c < 128) && (cause == 0x1C2#10 || cause == 0x1C3#10))
  fqPush c true (jobRecord s c cause 3 7 0 { FInfo.plain with aux := aux })

def execServiceEntry (c : Nat) (cause : Cause) (aux : Word) (s : State) : Host.Outcome State Fault Refusal :=
  runExec (serviceEntry c cause aux) s

/-- SERVICE_OPPORTUNITY. -/
def serviceOpportunity (c : Nat) : Exec Unit := do
  let s ← get
  require (decide (c < 128) && s.userIssues c)
  opportunity c

def execServiceOpportunity (c : Nat) (s : State) : Host.Outcome State Fault Refusal := runExec (serviceOpportunity c) s

/-- DOUBLE_FAULT. -/
def doubleFaultNow (c : Nat) (cause : Cause) : Exec Unit := do
  let s ← get
  require (decide (c < 128) && (s.hart (.service c)).stat == .running)
  takeException (.service c) cause .plain

def execDoubleFault (c : Nat) (cause : Cause) (s : State) : Host.Outcome State Fault Refusal := runExec (doubleFaultNow c cause) s

/-- UNASSIGNED_OPCODE: the executing agent's slot holds no instruction; the cause is one of those that R360 lists. -/
def unassigned (cause : Cause) : Exec Unit := do
  require (0x040#10 ≤ cause && cause ≤ 0x048#10 && cause != 0x045#10 && cause != 0x046#10)
  trap cause

def execUnassignedOpcode (cause : Cause) (s : State) : Host.Outcome State Fault Refusal := runExec (unassigned cause) s

end Sys2Proof.Machine
end

