-- ==== Sys2Proof/Machine/Csr.lean ====
section
/-! DEFINITION. The special registers (R239, R255, R261, R263, R403, R407). -/
namespace Sys2Proof.Machine

/-- SR.PSTAT for the streams of engine `e`, or for a reader that is none (R255). -/
def Job.pstat (j : Job) (e : Option Eng) : Word :=
  BitVec.ofNat 64 ((List.range 16).foldl (fun n i =>
    let p := j.port i
    n + (p.bound && p.pat.write).toNat * 2 ^ (32 + i) + (p.bound && e == some p.eng).toNat * 2 ^ (16 + i) + p.eos.toNat * 2 ^ i) 0)

/-- SR.FQSTAT (R263). -/
def Core.fqstat (x : Core) : Word := BitVec.ofNat 64 (x.fqHead + x.fqTail * 2 ^ 8 + min x.fqLost 0xFFFF * 2 ^ 16)

/-- The registers that describe a job; 0 where there is none (R407). -/
def Job.csr (j : Job) (e : Option Eng) (n : Nat) : Word :=
  if ! j.live then 0#64
  else
    match n with
    | 0x001 => j.step
    | 0x002 => BitVec.ofNat 64 (j.lcore - j.first)
    | 0x003 => BitVec.ofNat 64 j.nlc
    | 0x004 => BitVec.ofNat 64 (j.lcore % 32)
    | 0x005 => BitVec.ofNat 64 (j.lcore / 32)
    | 0x006 => j.stampb
    | 0x007 => BitVec.ofNat 64 j.j
    | 0x008 => j.pstat e
    | 0x00A => BitVec.ofNat 64 j.task
    | 0x00B => BitVec.ofNat 64 j.part
    | _ => 0#64

/-- Reading special register `n` as the executing agent sees it. -/
def State.csrRead (s : State) (n : Nat) : Word :=
  let h := s.hart s.cur
  match n with
  | 0x000 => s.dcc
  | 0x009 => h.cause.setWidth 64
  | 0x00C => h.fpf.setWidth 64
  | _ =>
    match s.cur with
    | .stream c e => (s.job c).csr (some e) n
    | .service c =>
      if n = 0x100 then BitVec.ofNat 64 (s.core c).share
      else if n = 0x101 then (s.core c).fqstat
      else (s.job c).csr none n
    | .frontEnd f => if n = 0x001 then (s.part f).lastStep else if n = 0x00B then BitVec.ofNat 64 f else 0#64
    | .mgmt => 0#64

/-- Writing special register `n`: only the writable fields change (R261, R263, R403). -/
def csrWrite (n : Nat) (v : Word) : Exec Unit := do
  match n with
  | 0x009 => updHart fun h => { h with cause := v.extractLsb' 0 10 }
  | 0x00C => updHart fun h => { h with fpf := v.extractLsb' 0 5 }
  | 0x100 => do
    let c ← curCore
    if 1 ≤ v.toNat ∧ v.toNat ≤ 16 then updCore c fun x => { x with share := v.toNat } else pure ()
  | 0x101 => do
    let c ← curCore
    updCore c fun x => { x with fqHead := Word.bits v 0 8 % 16 }
  | _ => pure ()

def csrNo (x : Args) : Nat := (x.imm.extractLsb' 0 12).toNat

def csrGet (x : Args) : Exec Unit := do
  let s ← get
  finish x.d (s.csrRead (csrNo x))

/-- CSRW, CSRS and CSRC: D takes the old value; with `keep`, an A selector of s0 writes nothing (R403). -/
def csrSwap (x : Args) (keep : Bool) (f : Word → Word → Word) : Exec Unit := do
  let a ← readSrc 1 x.a
  let s ← get
  let o := s.csrRead (csrNo x)
  if keep && x.a == 0#8 then pure () else csrWrite (csrNo x) (f o a)
  finish x.d o

/-! The instructions. -/

def execCsrr (x : Args) (s : State) : Host.Outcome State Fault Refusal :=
  run (.one 0x46#8 0#4 x) .csrr (csrGet x) s

def execCsrw (x : Args) (s : State) : Host.Outcome State Fault Refusal :=
  run (.one 0x46#8 1#4 x) .csrw (csrSwap x false fun _ a => a) s

def execCsrs (x : Args) (s : State) : Host.Outcome State Fault Refusal :=
  run (.one 0x46#8 2#4 x) .csrw (csrSwap x true fun o a => o ||| a) s

def execCsrc (x : Args) (s : State) : Host.Outcome State Fault Refusal :=
  run (.one 0x46#8 3#4 x) .csrw (csrSwap x true fun o a => o &&& ~~~a) s


end Sys2Proof.Machine
end

