-- ==== Sys2Proof/Machine/Deque.lean ====
section
/-! DEFINITION. The work deques (R400, R401). -/
namespace Sys2Proof.Machine

/-- The status guard named by IMM[7:0]. -/
def setStatus (x : Args) (b : Bool) : Exec Unit := writeDst x.c (boolWord b)

/-- The push itself: at the tail, where fewer than 256 entries lie. -/
def pushDeque (x : Args) (v : Word) (rels : List Rel) : Exec Unit := do
  let j ← curJob
  let c ← curCore
  (if j.deque.length < 256 then do
      updJob c fun j => { j with deque := j.deque ++ [(v, rels)] }
      setStatus x true
    else setStatus x false)
  retire 1

/-- DQPUSH: with REL the entry carries the release, whose writes are accepted before it can be taken. -/
def dequePush (x : Args) : Exec Unit := do
  let a ← readSrc 1 x.a
  if ! relOf x then pushDeque x a []
  else do
    let o ← findOpnd 4
    match o with
    | none => do
      let id ← releaseHere 2
      recordOpnd ⟨4, false, 0, BitVec.ofNat 64 id⟩
      let s ← get
      if (s.release id).pending = 0 then pushDeque x a (s.rels id) else block .custody
    | some o => do
      let s ← get
      let id := o.value.toNat
      if (s.release id).pending = 0 then pushDeque x a (s.rels id) else block .custody

/-- A taken entry: the status guard, the acquire, the value. -/
def taken (x : Args) (e : Word × List Rel) : Exec Unit := do
  setStatus x true
  let s ← get
  if relOf x then acquire s.cur 2 e.2
  finish x.d e.1

def notTaken (x : Args) : Exec Unit := do
  setStatus x false
  retire 1

/-- DQPOP takes the tail entry. -/
def dequePop (x : Args) : Exec Unit := do
  let j ← curJob
  let c ← curCore
  match j.deque.getLast? with
  | none => notTaken x
  | some e => do
    updJob c fun j => { j with deque := j.deque.dropLast }
    taken x e

/-- Whether core `v` holds a running resident job of the thief's task on logical core `l` (R401). -/
def State.victimOk (s : State) (thief l : Nat) : Option Nat :=
  let j := s.job thief
  let v := (s.part j.part).coreOf l
  let q := s.job v
  if decide (l < (s.part j.part).lcores) && q.live && ! q.stopping && q.part == j.part && q.task == j.task && q.lcore == l then some v else none

/-- DQSTEAL takes the head entry of another logical core's deque. -/
def dequeSteal (x : Args) : Exec Unit := do
  let a ← readSrc 1 x.a
  if 32 ≤ a.toNat then trap 0x044#10
  else do
    let s ← get
    let c := s.cur.coreNo
    match s.victimOk c ((s.job c).lcore / 32 * 32 + a.toNat) with
    | none => notTaken x
    | some v =>
      match (s.job v).deque with
      | [] => notTaken x
      | e :: rest => do
        updJob v fun j => { j with deque := rest, dqHead := (j.dqHead + 1) % 256 }
        taken x e

def dequeLength (x : Args) : Exec Unit := do
  let j ← curJob
  finish x.d (BitVec.ofNat 64 j.deque.length)

/-! The instructions. -/

def execDqpush (x : Args) (s : State) : Host.Outcome State Fault Refusal :=
  run (.one 0x44#8 0#4 x) .dqpush (dequePush x) s

def execDqpop (x : Args) (s : State) : Host.Outcome State Fault Refusal :=
  run (.one 0x44#8 1#4 x) .dqpop (dequePop x) s

def execDqsteal (x : Args) (s : State) : Host.Outcome State Fault Refusal :=
  run (.one 0x44#8 2#4 x) .dqsteal (dequeSteal x) s

def execDqlen (x : Args) (s : State) : Host.Outcome State Fault Refusal :=
  run (.one 0x44#8 3#4 x) .dqlen (dequeLength x) s


end Sys2Proof.Machine
end

