-- ==== Sys2Proof/Machine/FloatScalar.lean ====
section
/-! DEFINITION. Scalar floating point: FOP.S, FOP.D, FCMP and FCVT (R382–R385). -/
namespace Sys2Proof.Machine

/-- An operand of a format: only its low bits are read (R382). -/
def fpBits (f : Fmt) (w : Word) : Nat := w.toNat % 2 ^ f.bits
def fpVal (f : Fmt) (w : Word) : FV := f.val (fpBits f w)

/-- FABS and FNEG round nothing; a NaN yields the canonical NaN (R383). -/
def signOp (f : Fmt) (neg : Bool) (w : Word) : Nat :=
  let b := fpBits f w
  if (f.val b).isNan then f.nanBits
  else if neg then (if f.signBit ≤ b then b - f.signBit else b + f.signBit) else b % f.signBit

/-- The results and flags of FOP by FN (R383). -/
def fopResult (f : Fmt) (fn rm : Nat) (sat : Bool) (a b c : Word) : Nat × Flags :=
  let x := fpVal f a
  let y := fpVal f b
  let z := fpVal f c
  match fn with
  | 0 => fpResult f rm sat (FV.add rm x y)
  | 1 => fpResult f rm sat (FV.add rm x y.negate)
  | 2 => fpResult f rm sat (FV.mul x y)
  | 3 => fpDiv f rm sat x y
  | 4 => fpResult f rm sat (FV.sqrt x)
  | 5 => fpMinMax f false x y
  | 6 => fpMinMax f true x y
  | 7 => fpResult f rm sat (FV.fma rm x y z)
  | 8 => fpResult f rm sat (FV.fma rm x y z.negate)
  | 9 => fpResult f rm sat (FV.fma rm (FV.mul x y).negate (.fin false 1 0) z)
  | 10 => (signOp f false a, 0#5)
  | _ => (signOp f true a, 0#5)

/-- Delivering a result of a format, the other bits of the register zero, with its sticky flags. -/
def finishFp (x : Args) (r : Nat × Flags) : Exec Unit := do
  addFlags r.2
  finish x.d (BitVec.ofNat 64 r.1)

def fop1 (f : Fmt) (fn : Nat) (x : Args) : Exec Unit := do
  let a ← readSrc 1 x.a
  finishFp x (fopResult f fn (rmOf x) (satOf x) a 0#64 0#64)

def fop2 (f : Fmt) (fn : Nat) (x : Args) : Exec Unit := do
  let a ← readSrc 1 x.a
  let b ← readSrc 2 x.b
  finishFp x (fopResult f fn (rmOf x) (satOf x) a b 0#64)

def fop3 (f : Fmt) (fn : Nat) (x : Args) : Exec Unit := do
  let a ← readSrc 1 x.a
  let b ← readSrc 2 x.b
  let c ← readSrc 3 x.c
  finishFp x (fopResult f fn (rmOf x) (satOf x) a b c)

/-- FCMP: MOD[2] selects FP64 (R384). -/
def fcompare (fn : Nat) (x : Args) : Exec Unit := do
  let a ← readSrc 1 x.a
  let b ← readSrc 2 x.b
  let f := if x.mod.getLsbD 2 then Fmt.fp64 else Fmt.fp32
  addFlags (fcmpFlags fn (fpVal f a) (fpVal f b))
  finish x.d (boolWord (fcmpRel fn (fpVal f a) (fpVal f b)))

def Fmt.bf16 : Fmt := ⟨8, 7, 127, 0⟩
def Fmt.fp16 : Fmt := ⟨5, 10, 15, 0⟩

/-- The results and flags of FCVT by FN: the destination's name first (R385). -/
def fcvtResult (fn rm : Nat) (sat : Bool) (a : Word) : Nat × Flags :=
  match fn with
  | 0 => fpResult .fp32 rm sat (fpVal .fp64 a)
  | 1 => fpResult .fp64 rm false (fpVal .fp32 a)
  | 2 => fpResult .fp32 rm false (FV.ofInt a.toInt)
  | 3 => fpResult .fp64 rm false (FV.ofInt a.toInt)
  | 4 => fpResult .fp32 rm false (FV.ofInt a.toNat)
  | 5 => fpResult .fp64 rm false (FV.ofInt a.toNat)
  | 6 => fpToInt 0x0E rm (fpVal .fp32 a)
  | 7 => fpToInt 0x0E rm (fpVal .fp64 a)
  | 8 => fpToInt 0x13 rm (fpVal .fp32 a)
  | 9 => fpToInt 0x13 rm (fpVal .fp64 a)
  | 10 => fpResult .bf16 rm sat (fpVal .fp32 a)
  | 11 => fpResult .fp16 rm sat (fpVal .fp32 a)
  | 12 => fpResult .fp32 rm false (fpVal .bf16 a)
  | _ => fpResult .fp32 rm false (fpVal .fp16 a)

def fconvert (fn : Nat) (x : Args) : Exec Unit := do
  let a ← readSrc 1 x.a
  finishFp x (fcvtResult fn (rmOf x) (satOf x) a)

/-! The instructions. -/

def execFaddS (x : Args) (s : State) : Host.Outcome State Fault Refusal :=
  run (.one 0x10#8 0#4 x) .fun2 (fop2 .fp32 0 x) s

def execFsubS (x : Args) (s : State) : Host.Outcome State Fault Refusal :=
  run (.one 0x10#8 1#4 x) .fun2 (fop2 .fp32 1 x) s

def execFmulS (x : Args) (s : State) : Host.Outcome State Fault Refusal :=
  run (.one 0x10#8 2#4 x) .fun2 (fop2 .fp32 2 x) s

def execFdivS (x : Args) (s : State) : Host.Outcome State Fault Refusal :=
  run (.one 0x10#8 3#4 x) .fun2 (fop2 .fp32 3 x) s

def execFsqrtS (x : Args) (s : State) : Host.Outcome State Fault Refusal :=
  run (.one 0x10#8 4#4 x) .fun1 (fop1 .fp32 4 x) s

def execFminS (x : Args) (s : State) : Host.Outcome State Fault Refusal :=
  run (.one 0x10#8 5#4 x) .fun2 (fop2 .fp32 5 x) s

def execFmaxS (x : Args) (s : State) : Host.Outcome State Fault Refusal :=
  run (.one 0x10#8 6#4 x) .fun2 (fop2 .fp32 6 x) s

def execFmaS (x : Args) (s : State) : Host.Outcome State Fault Refusal :=
  run (.one 0x10#8 7#4 x) .fun3 (fop3 .fp32 7 x) s

def execFmsS (x : Args) (s : State) : Host.Outcome State Fault Refusal :=
  run (.one 0x10#8 8#4 x) .fun3 (fop3 .fp32 8 x) s

def execFnmaS (x : Args) (s : State) : Host.Outcome State Fault Refusal :=
  run (.one 0x10#8 9#4 x) .fun3 (fop3 .fp32 9 x) s

def execFabsS (x : Args) (s : State) : Host.Outcome State Fault Refusal :=
  run (.one 0x10#8 10#4 x) .fun1 (fop1 .fp32 10 x) s

def execFnegS (x : Args) (s : State) : Host.Outcome State Fault Refusal :=
  run (.one 0x10#8 11#4 x) .fun1 (fop1 .fp32 11 x) s

def execFaddD (x : Args) (s : State) : Host.Outcome State Fault Refusal :=
  run (.one 0x11#8 0#4 x) .fun2 (fop2 .fp64 0 x) s

def execFsubD (x : Args) (s : State) : Host.Outcome State Fault Refusal :=
  run (.one 0x11#8 1#4 x) .fun2 (fop2 .fp64 1 x) s

def execFmulD (x : Args) (s : State) : Host.Outcome State Fault Refusal :=
  run (.one 0x11#8 2#4 x) .fun2 (fop2 .fp64 2 x) s

def execFdivD (x : Args) (s : State) : Host.Outcome State Fault Refusal :=
  run (.one 0x11#8 3#4 x) .fun2 (fop2 .fp64 3 x) s

def execFsqrtD (x : Args) (s : State) : Host.Outcome State Fault Refusal :=
  run (.one 0x11#8 4#4 x) .fun1 (fop1 .fp64 4 x) s

def execFminD (x : Args) (s : State) : Host.Outcome State Fault Refusal :=
  run (.one 0x11#8 5#4 x) .fun2 (fop2 .fp64 5 x) s

def execFmaxD (x : Args) (s : State) : Host.Outcome State Fault Refusal :=
  run (.one 0x11#8 6#4 x) .fun2 (fop2 .fp64 6 x) s

def execFmaD (x : Args) (s : State) : Host.Outcome State Fault Refusal :=
  run (.one 0x11#8 7#4 x) .fun3 (fop3 .fp64 7 x) s

def execFmsD (x : Args) (s : State) : Host.Outcome State Fault Refusal :=
  run (.one 0x11#8 8#4 x) .fun3 (fop3 .fp64 8 x) s

def execFnmaD (x : Args) (s : State) : Host.Outcome State Fault Refusal :=
  run (.one 0x11#8 9#4 x) .fun3 (fop3 .fp64 9 x) s

def execFabsD (x : Args) (s : State) : Host.Outcome State Fault Refusal :=
  run (.one 0x11#8 10#4 x) .fun1 (fop1 .fp64 10 x) s

def execFnegD (x : Args) (s : State) : Host.Outcome State Fault Refusal :=
  run (.one 0x11#8 11#4 x) .fun1 (fop1 .fp64 11 x) s

def execFcmpEq (x : Args) (s : State) : Host.Outcome State Fault Refusal :=
  run (.one 0x12#8 0#4 x) .fcmp (fcompare 0 x) s

def execFcmpLt (x : Args) (s : State) : Host.Outcome State Fault Refusal :=
  run (.one 0x12#8 1#4 x) .fcmp (fcompare 1 x) s

def execFcmpLe (x : Args) (s : State) : Host.Outcome State Fault Refusal :=
  run (.one 0x12#8 2#4 x) .fcmp (fcompare 2 x) s

def execFcmpUn (x : Args) (s : State) : Host.Outcome State Fault Refusal :=
  run (.one 0x12#8 3#4 x) .fcmp (fcompare 3 x) s

def execFcvtSD (x : Args) (s : State) : Host.Outcome State Fault Refusal :=
  run (.one 0x13#8 0#4 x) .fun1 (fconvert 0 x) s

def execFcvtDS (x : Args) (s : State) : Host.Outcome State Fault Refusal :=
  run (.one 0x13#8 1#4 x) .fcvt (fconvert 1 x) s

def execFcvtSL (x : Args) (s : State) : Host.Outcome State Fault Refusal :=
  run (.one 0x13#8 2#4 x) .fcvt (fconvert 2 x) s

def execFcvtDL (x : Args) (s : State) : Host.Outcome State Fault Refusal :=
  run (.one 0x13#8 3#4 x) .fcvt (fconvert 3 x) s

def execFcvtSLu (x : Args) (s : State) : Host.Outcome State Fault Refusal :=
  run (.one 0x13#8 4#4 x) .fcvt (fconvert 4 x) s

def execFcvtDLu (x : Args) (s : State) : Host.Outcome State Fault Refusal :=
  run (.one 0x13#8 5#4 x) .fcvt (fconvert 5 x) s

def execFcvtLS (x : Args) (s : State) : Host.Outcome State Fault Refusal :=
  run (.one 0x13#8 6#4 x) .fcvt (fconvert 6 x) s

def execFcvtLD (x : Args) (s : State) : Host.Outcome State Fault Refusal :=
  run (.one 0x13#8 7#4 x) .fcvt (fconvert 7 x) s

def execFcvtLuS (x : Args) (s : State) : Host.Outcome State Fault Refusal :=
  run (.one 0x13#8 8#4 x) .fcvt (fconvert 8 x) s

def execFcvtLuD (x : Args) (s : State) : Host.Outcome State Fault Refusal :=
  run (.one 0x13#8 9#4 x) .fcvt (fconvert 9 x) s

def execFcvtBS (x : Args) (s : State) : Host.Outcome State Fault Refusal :=
  run (.one 0x13#8 10#4 x) .fun1 (fconvert 10 x) s

def execFcvtHS (x : Args) (s : State) : Host.Outcome State Fault Refusal :=
  run (.one 0x13#8 11#4 x) .fun1 (fconvert 11 x) s

def execFcvtSB (x : Args) (s : State) : Host.Outcome State Fault Refusal :=
  run (.one 0x13#8 12#4 x) .fcvt (fconvert 12 x) s

def execFcvtSH (x : Args) (s : State) : Host.Outcome State Fault Refusal :=
  run (.one 0x13#8 13#4 x) .fcvt (fconvert 13 x) s


end Sys2Proof.Machine
end

