-- ==== Sys2Proof/Machine/HostMem.lean ====
section
/-! DEFINITION. Host accesses over CXL.mem and arrivals from the second tier (R106, R123, R126, R294, R315). -/
namespace Sys2Proof.Machine

/-- What the host gets back: 0 and the data, 1 and the data with CXL poison, or 2 for Unsupported Request. -/
def hostReply (code : Byte) (data : List Byte) : Exec Unit := modify fun s => { s with hostOut := (code :: data) :: s.hostOut }

/-- The party that host writes are published by: every system scope holds it (R296, R315). -/
def hostParty : Party := ⟨1024, 9, none, 1024⟩

/-- Whether all of a range is HBM that the host may access, or host memory. -/
def State.hostMay (s : State) (pa n : Nat) : Bool :=
  (range pa n).all fun a => (s.place a == .hbm && s.rgnAllows false a) || s.place a == .hostMem

/-- What a host write publishes: its bytes, under a release that carries every host write completed before (R315); a counter word
in it has no other adds behind it. -/
def hostPublish (pa : Nat) (data : List Byte) : Exec Unit := do
  let s ← get
  let gs := granulesOf ((addressed (s.home pa) data).map (·.1))
  let n := s.nextRel
  let k := gs.foldl (fun k g => k.add g (s.granVer g)) s.hostKnow
  setRelease n ⟨hostParty, 4, k, 0⟩
  modify fun t => { t with nextRel := n + 1, hostKnow := k, wrel := gs.foldl (fun m g => Map.set (fun _ => 0) m g n) t.wrel }
  each (pieces 8 (data.length / 8 + 2) pa data.length) fun p => do
    let a := p.1 / 8 * 8
    let t ← get
    setMcounter a { t.mcounter a with rels := [⟨hostParty, 4, k⟩] }

/-- HOST_MEM_WRITE. -/
def hostMemWrite (pa : Nat) (data : List Byte) (poison : Bool) : Exec Unit := do
  let s ← get
  require (! s.power.porst && ! data.isEmpty)
  if ! s.hostMay pa data.length then hostReply 2 []
  else do
    let _ ← physWrite pa data (if poison then some 0x293#10 else none)
    hostPublish pa data

def execHostMemWrite (pa : Nat) (data : List Byte) (poison : Bool) (s : State) : Host.Outcome State Fault Refusal :=
  runExec (hostMemWrite pa data poison) s

/-- HOST_MEM_READ: a current read, checked block by block. -/
def hostMemRead (pa n : Nat) : Exec Unit := do
  let s ← get
  require (! s.power.porst)
  if ! (s.hostMay pa n && (range pa n).all fun a => s.place a == .hbm) then hostReply 2 []
  else do
    let rs ← mapE (s.blocksOf pa n) exitCheck
    hostReply (if rs.any (·.isSome) then 1 else 0) (s.bytes pa n)

def execHostMemRead (pa n : Nat) (s : State) : Host.Outcome State Fault Refusal := runExec (hostMemRead pa n) s

/-- SECOND_TIER_READ_ARRIVAL: the data of one block's bytes as the tier delivers them, with a fresh check value. -/
def secondTier (pa : Nat) (data : List Byte) (poison : Bool) : Exec Unit := do
  let s ← get
  require (! data.isEmpty && decide (pa % 256 + data.length ≤ 256) && (range pa data.length).all fun a => s.place a == .tier2)
  let b := s.block pa
  if s.bytes pa data.length ≠ data then do
    let _ ← blockWrite (addressed pa data) none
  let t ← get
  setMeta b { t.meta b with synd := 0#32 }
  if poison then poisonBlock b 0x293#10

def execSecondTierReadArrival (pa : Nat) (data : List Byte) (poison : Bool) (s : State) : Host.Outcome State Fault Refusal :=
  runExec (secondTier pa data poison) s

end Sys2Proof.Machine
end

