-- ==== Sys2Proof/Machine/Launch.lean ====
section
/-! DEFINITION. LAUNCH, LAUNCH.T and XPOSE (R183, R184, R402, R489). -/
namespace Sys2Proof.Machine

/-- LAUNCH.T's answer. -/
def launchStatus (x : Args) (try_ b : Bool) : Exec Unit := if try_ then writeDst x.d (boolWord b) else pure ()

/-- Step 3 of R402: the insertion, at the tail of the task's own class queue; the first of a task has the reserve. -/
def insertChild (x : Args) (try_ : Bool) (source rel : Nat) (bytes : List Byte) : Exec Unit := do
  let s ← get
  let j := s.job s.cur.coreNo
  let k := j.part
  let p := s.part k
  let t := Map.get (fun _ => Task.absent) p.tasks j.task
  let full := decide (1024 ≤ ((p.queue j.cls).filter fun e => ! e.reserve).length)
  if full && t.firstUsed then do
    if try_ then do
      launchStatus x true false
      retire 1
    else block .launch
  else if (s.release rel).pending ≠ 0 then block .custody
  else do
    let e : QEntry :=
      { source := source, bytes := bytes, rels := (List.range 16).map fun i => Map.get (fun _ => 0#64) j.rel i, cmdidx := 0,
        reserve := full, parent := j.task, slot := j.slot, step := j.step, stage := .queued, gained := s.rels rel }
    updPart k fun p =>
      { p.setQueue j.cls (p.queue j.cls ++ [e]) with tasks := Map.insert p.tasks j.task { t with firstUsed := true } }
    custody k entryNode 1 0
    launchStatus x try_ true
    retire 1

/-- Steps 1 and 2: the release, kept in the restart record until the insertion, and the block in the stream's view. -/
def launchBlock (x : Args) (try_ : Bool) (source : Nat) (ok : State → Job → List Byte → Bool) (bad : Cause) : Exec Unit := do
  let a ← readSrc 1 x.a
  if a.toNat % 64 ≠ 0 then trapAt 0x143#10 a
  else do
    match ← findOpnd 4 with
    | some _ => pure ()
    | none => do
      let id ← releaseHere 3
      recordOpnd ⟨4, false, 0, BitVec.ofNat 64 id⟩
    let bytes ← do
      let s ← get
      readGlobal s.cur (FInfo.at a) a.toNat 64
    let s ← get
    clearAnswers s.cur
    if ! ok s (s.job s.cur.coreNo) bytes then trapAt bad a
    else
      match ← findOpnd 4 with
      | some o => insertChild x try_ source o.value.toNat bytes
      | none => pure ()

/-- A child node: TASK, well formed in the parent's slot (R183). -/
def childOk (s : State) (j : Job) (bytes : List Byte) : Bool :=
  let slot := (s.part j.part).slot j.slot
  nodeKind bytes == 1 && nodeOk (graphNlcore slot.graph) slot.imglen bytes

/-! The instructions. -/

def execLaunch (x : Args) (s : State) : Host.Outcome State Fault Refusal :=
  run (.one 0x45#8 0#4 x) .srcA (launchBlock x false 1 childOk 0x305#10) s

def execLaunchT (x : Args) (s : State) : Host.Outcome State Fault Refusal :=
  run (.one 0x45#8 1#4 x) .launcht (launchBlock x true 1 childOk 0x305#10) s

def execXpose (x : Args) (s : State) : Host.Outcome State Fault Refusal :=
  run (.one 0x45#8 2#4 x) .srcA (launchBlock x false 2 (fun _ _ b => blockOk true b) 0x201#10) s


end Sys2Proof.Machine
end

