-- ==== Sys2Proof/Machine/Power.lean ====
section
/-! DEFINITION. Rails, resets, clocks, DVFS points, power capping and thermal limits (R17–R42), the mask ROM's phase A of the
power-up sequence (R44), and die-to-die links (R55). -/
namespace Sys2Proof.Machine

def mgmtEvt (i : Nat) : Exec Unit := setFlag Reg.mgmtEvt i true

/-- ALERT_N is asserted and the management interrupt to front end 0 pending (R42). -/
def State.alert (s : State) : Bool := s.reg Reg.mgmtEvt != 0#64

/-! What is lost (R19, R41, R55; log 48). -/

/-- A core's state is gone; its job is no longer one of its task. -/
def loseCore (c : Nat) : Exec Unit := do
  let s ← get
  let j := s.job c
  let k := (s.partOfCore c).getD 8
  let l := (s.core c).resident
  clearCore c l
  updCore c fun _ => { Core.reset with resident := l }
  modify fun s => s.setHart (.service c) Hart.reset
  updPart k fun p => { p with custody := p.custody.map fun e => if e.1 = c ∨ e.1 = 128 + c then (e.1, (e.2.1, e.2.1)) else e }
  if j.live then do
    custody j.part feNode 0 1
    updPart j.part fun p => { p with tasks := Map.upd (fun _ => Task.absent) p.tasks j.task fun t => { t with jobs := t.jobs.filter (· != j.id) } }

def clusterCores (n : Nat) : List Nat := range (32 * n) 32

def loseCluster (n : Nat) : Exec Unit := each (clusterCores n) loseCore

/-- HBM content is gone. -/
def loseHbm : Exec Unit :=
  modify fun s =>
    { s with mem := Map.clear s.mem 0 (2 ^ 40), blocks := Map.clear s.blocks 0 (2 ^ 32), mcnts := Map.clear s.mcnts 0 (2 ^ 40),
             gver := Map.clear s.gver 0 (2 ^ 34), hist := Map.clear s.hist 0 (2 ^ 34), wrel := Map.clear s.wrel 0 (2 ^ 34) }

/-- The I/O chiplet's logic is gone: front ends, partitions, links; the always-on island stays: the PMB, the Flue and the
management controller. -/
def loseIo : Exec Unit := do
  each (List.range 8) fun k => do
    let s ← get
    clearPartition k (s.part k).phys
    updPart k fun _ => Part.reset
    modify fun s => s.setHart (.frontEnd k) Hart.reset
  modify fun s =>
    { s with regs := Map.clear s.regs 0x01100000 0x10000000, feCode := [], feData := [], links := [], nodesE := [], nodesI := [],
             remotes := [], outq := [], rankCache := [], feWait := [], feHold := [], wdog := [], dccRun := false, tsGood := 0, tsEver := false,
             tsT1 := none, tsSlew := 0, tsPhase := 0, boot := { s.boot with step := 0, host := false, hostrdy := false, staging := [], measD := [] } }
  setFlag Reg.clkCtl 8 false

/-! Rails (R17–R19). -/

/-- A rail's prerequisite; VIOC's is VAUX. -/
def railNeeds (k : Nat) : Option Nat :=
  if k = 0 then none
  else if k ≤ 4 then some (k + 4)
  else if k ≤ 9 then some 0
  else if k = 10 then some 9
  else if k = 11 then some 10
  else if k = 14 then some 13
  else some 0

/-- Whether rail `k` depends on rail `r`, directly or through others. -/
def railUnder (r k : Nat) : Bool :=
  let up (x : Option Nat) : Option Nat := x.bind railNeeds
  let a := railNeeds k
  [a, up a, up (up a), up (up (up a))].contains (some r)

/-- A rail is off: what it feeds is gone. -/
def railOff (k : Nat) : Exec Unit := do
  setFlag Reg.railEn k false
  let s ← get
  if s.flag Reg.railStat k then do
    setFlag Reg.railStat k false
    if k = 0 then loseIo
    else if k ≤ 4 then loseCluster (k - 1)
    else if k ≤ 8 then loseCluster (k - 5)
    else if k ≤ 11 then loseHbm
    else pure ()

def railsOff (ks : List Nat) : Exec Unit := each ks.reverse railOff

/-- Whether bit `k` of a write of RAIL_EN breaks a prerequisite. -/
def State.railBreaks (s : State) (v : Word) (k : Nat) : Bool :=
  let old := s.flag Reg.railEn k
  let new := Word.bit v k
  (new && ! old && (match railNeeds k with | some r => ! s.flag Reg.railStat r | none => false)) ||
  (old && ! new && (List.range 15).any fun j => railNeeds j == some k && s.flag Reg.railEn j)

/-- A write of RAIL_EN (R18); the rails of a latched fault stay off (R19), and all do after a thermal trip (R41). -/
def railEnWrite (v : Word) : Exec Unit := do
  let s ← get
  let ks := List.range 15
  if ks.any (s.railBreaks v) then setFlag Reg.railStat 47 true
  each ks.reverse fun k =>
    if s.railBreaks v k then pure ()
    else if Word.bit v k then
      (if s.flag Reg.railStat (32 + k) || s.power.thermtrip then pure () else setFlag Reg.railEn k true)
    else if s.flag Reg.railEn k then railOff k
    else pure ()

def execRailEnWrite (w : Writer) (v : Word) (s : State) : Host.Outcome State Fault Refusal :=
  runExec (admitted w Reg.railEn v (railEnWrite v)) s

/-! Clock points (R27–R33). -/

def State.point (s : State) (n : Nat) : Nat := s.field Reg.dvfsCtl (8 * n) 2
def State.curPoint (s : State) (n : Nat) : Nat := s.field Reg.dvfsStat (8 * n) 2
def State.lockedCl (s : State) (n : Nat) : Bool := s.flag Reg.dvfsStat (8 * n + 7)

/-- The effective point of a cluster: what capping lets it run at, and code 0 under the die throttle (R36, R40). -/
def State.effPoint (s : State) (n : Nat) : Nat := min (s.point n) (Map.get (fun _ => 2) s.power.eff n)
def State.wantPoint (s : State) (n : Nat) : Nat := if Map.get (fun _ => false) s.power.dieHot n then 0 else s.effPoint n

/-- CLKTHR and HBMTHR of PCAP_STAT (R35). -/
def capStatus : Exec Unit := do
  let s ← get
  setFlag Reg.pcapStat 0 ((List.range 4).any fun n => ! s.lockedCl n && decide (s.effPoint n < s.point n))
  setFlag Reg.pcapStat 1 (decide (s.power.hbmRate < 100))

/-- A pending lock takes effect where the cluster runs at its point (R30). -/
def tryLock (n : Nat) : Exec Unit := do
  let s ← get
  if s.flag Reg.dvfsCtl (8 * n + 7) && ! s.flag Reg.dvfsStat (8 * n + 5) && s.curPoint n == s.point n && s.flag Reg.railStat (1 + n) then
    setFlag Reg.dvfsStat (8 * n + 7) true

/-- A transition starts where the cluster runs at another point than it should (R28, R29). -/
def movePoint (n : Nat) : Exec Unit := do
  let s ← get
  if s.flag Reg.railStat (1 + n) && ! s.flag Reg.dvfsStat (8 * n + 5) && s.wantPoint n != s.curPoint n then do
    setFlag Reg.dvfsStat (8 * n + 5) true
    updPower fun p => { p with target := Map.set (fun _ => 0) p.target n (s.wantPoint n) }
  capStatus

/-- The clusters that are locked or ask for it. -/
def State.lockCount (s : State) : Nat := ((List.range 4).filter fun n => s.flag Reg.dvfsCtl (8 * n + 7)).length

/-- LOCKED becomes 0: a timed command that waits for its cycle on the cluster faults with 0x181 (R267). -/
def lockGone (n : Nat) : Exec Unit := do
  setFlag Reg.dvfsStat (8 * n + 7) false
  each (clusterCores n) fun c => each [Eng.M, Eng.F] fun e => do
    let s ← get
    let h := s.hart (.stream c e)
    if (s.job c).live && h.stat == .running && h.blocked == .stamp then takeException (.stream c e) 0x181#10 .plain

/-- One cluster's byte of a write of DVFS_CTL (R30, R32): the LOCK field first, then POINT. -/
def dvfsByte (n : Nat) (b : Nat) : Exec Unit := do
  let rej : Exec Unit := setFlag Reg.dvfsStat (8 * n + 4) true
  let point := bitsAt b 0 2
  let lock := bitsAt b 7 1 == 1
  if point = 3 then rej
  else do
    let s ← get
    (if ! lock then do
      setFlag Reg.dvfsCtl (8 * n + 7) false
      if s.lockedCl n then lockGone n
    else if s.flag Reg.dvfsCtl (8 * n + 7) then pure ()
    else if s.field Reg.pcapCtl 16 16 < 450 * (s.lockCount + 1) + 1500 then rej
    else do
      setFlag Reg.dvfsCtl (8 * n + 7) true
      tryLock n)
    let t ← get
    if t.lockedCl n then (if point ≠ t.point n then rej else pure ())
    else do
      setField Reg.dvfsCtl (8 * n) 2 point
      tryLock n
      movePoint n

/-- A write of DVFS_CTL, clusters in increasing order. -/
def dvfsWrite (v : Word) : Exec Unit := each (List.range 4) fun n => dvfsByte n (Word.bits v (8 * n) 8)

def execDvfsCtlWrite (w : Writer) (v : Word) (s : State) : Host.Outcome State Fault Refusal :=
  runExec (admitted w Reg.dvfsCtl v (dvfsWrite v)) s

/-- DVFS_TRANSITION_DONE: CUR takes the point; a pending lock or a later request follows. -/
def transitionDone (n : Nat) : Exec Unit := do
  let s ← get
  require (decide (n < 4) && s.flag Reg.dvfsStat (8 * n + 5))
  setField Reg.dvfsStat (8 * n) 2 (Map.get (fun _ => 0) s.power.target n)
  setFlag Reg.dvfsStat (8 * n + 5) false
  tryLock n
  movePoint n

def execDvfsTransitionDone (cl : Nat) (s : State) : Host.Outcome State Fault Refusal := runExec (transitionDone cl) s

/-- A locked cluster's clock changes under it (R31). -/
def breakLock (n : Nat) : Exec Unit := do
  let s ← get
  if s.lockedCl n then do
    setFlag Reg.dvfsStat (8 * n + 6) true
    setFlag Reg.dvfsCtl (8 * n + 7) false
    mgmtEvt 7
    lockGone n

/-! Phase A of the power-up sequence (R44). -/

/-- The mask ROM at a step: its number in BRING_STAT and its write. -/
def bringStep (n : Nat) (act : Exec Unit) : Exec Unit := do
  updPower fun p => { p with seqStep := n }
  setField Reg.bringStat 16 8 1
  setField Reg.bringStat 8 8 n
  act

/-- Its poll never succeeds. -/
def bringFail (err : Nat) : Exec Unit := do
  setField Reg.bringStat 0 8 err
  setFlag Reg.bringStat 30 true
  updPower fun p => { p with seqStep := 0 }

/-- A front end released; front end 0 without firmware runs the boot ROM. -/
def releaseFrontEnd (f : Nat) : Exec Unit := do
  let s ← get
  setFlag Reg.rstCtl (8 + f) false
  if f = 0 ∧ s.flag Reg.bootStat 0 = false then bootRom else loadFrontEnd f

/-! Resets (R23). -/

/-- Whether a cluster holds part of a partition. -/
def State.clusterUsed (s : State) (n : Nat) : Bool :=
  (List.range 8).any fun k => s.holdsCores k && (maskClusters (s.field (Reg.partCtl k) 16 8)).contains n

def seqErr : Exec Unit := setFlag Reg.railStat 47 true

/-- A cluster's bit of a write of RST_CTL; released cores run the service firmware where there is some (R260). -/
def rstCluster (n : Nat) (hold : Bool) : Exec Unit := do
  let s ← get
  let held := s.flag Reg.rstCtl n
  if hold && ! held then
    (if s.clusterUsed n then seqErr
    else do
      setFlag Reg.rstCtl n true
      setFlag Reg.rstCtl (20 + n) false
      loseCluster n)
  else if ! hold && held then
    (if s.flag Reg.railStat (1 + n) && s.flag Reg.railStat (5 + n) then do
      setFlag Reg.rstCtl n false
      if Map.get (fun _ => 0) s.sections 2 ≠ 0 then each (clusterCores n) restartService
    else seqErr)
  else pure ()

def rstFrontEnd (f : Nat) (hold : Bool) : Exec Unit := do
  let s ← get
  let held := s.flag Reg.rstCtl (8 + f)
  if hold && ! held then (if s.holdsCores f then seqErr else holdFrontEnd f)
  else if ! hold && held then releaseFrontEnd f
  else pure ()

/-- A write of RST_CTL. -/
def rstCtlWrite (v : Word) : Exec Unit := do
  each (List.range 4) fun n => rstCluster n (Word.bit v n)
  each (List.range 8) fun f => rstFrontEnd f (Word.bit v (8 + f))

def execRstCtlWrite (w : Writer) (v : Word) (s : State) : Host.Outcome State Fault Refusal :=
  runExec (admitted w Reg.rstCtl v (rstCtlWrite v)) s

/-- D2D_LINK_TRAINED. -/
def d2dTrained (n : Nat) : Exec Unit := do
  let s ← get
  require (decide (n < 4) && ! s.flag Reg.rstCtl n && ! s.flag Reg.rstCtl (20 + n))
  setFlag Reg.rstCtl (20 + n) true

def execD2dLinkTrained (cl : Nat) (s : State) : Host.Outcome State Fault Refusal := runExec (d2dTrained cl) s

/-- D2D_LINK_DOWN (R55): every task of a partition with cores there ends with 0x24B, and the cluster's state is lost. -/
def d2dDown (n : Nat) : Exec Unit := do
  let s ← get
  require (decide (n < 4) && s.flag Reg.rstCtl (20 + n))
  setFlag Reg.rstCtl (20 + n) false
  each ((List.range 8).filter fun k => (s.part k).phys.any fun c => c / 32 == n) fun k => do
    each ((s.part k).tasks.map (·.1)) fun t => do
      let _ ← fatalTask k t 0x24B#10
      pure ()
    if (s.part k).seq.state != .idle then noteFailure k 0x24B#10
  loseCluster n

def execD2dLinkDown (cl : Nat) (s : State) : Host.Outcome State Fault Refusal := runExec (d2dDown cl) s

/-! Power-good, faults (R17, R19). -/

/-- RAIL_POWER_GOOD: a core rail comes up at code 0, its PLL locking; phase A goes on from its polls. -/
def railGood (k : Nat) : Exec Unit := do
  let s ← get
  require (decide (k < 15) && s.flag Reg.railEn k && ! s.flag Reg.railStat k)
  setFlag Reg.railStat k true
  if 1 ≤ k ∧ k ≤ 4 then do
    setField Reg.dvfsStat (8 * (k - 1)) 2 0
    setFlag Reg.dvfsStat (8 * (k - 1) + 5) true
    updPower fun p => { p with target := Map.set (fun _ => 0) p.target (k - 1) 0 }
  if s.power.seqStep = 1 ∧ k = 0 then bringStep 2 (plainWrite Reg.clkCtl 0x0001#64)
  else if s.power.seqStep = 3 ∧ k = 12 then do
    bringStep 4 (rstCtlWrite 0xFE0F#64)
    updPower fun p => { p with seqStep := 0 }
  else pure ()

def execRailPowerGood (rail : Nat) (s : State) : Host.Outcome State Fault Refusal := runExec (railGood rail) s

/-- RAIL_FAULT: the rail and all that depend on it go off, latched. -/
def railFault (k : Nat) : Exec Unit := do
  let s ← get
  require (decide (k < 15) && s.flag Reg.railEn k)
  let off := (List.range 15).filter fun j => (j == k || railUnder k j) && s.flag Reg.railEn j
  each off fun j => setFlag Reg.railStat (32 + j) true
  railsOff off
  mgmtEvt 5
  if s.power.seqStep = 1 then bringFail 0x21
  else if s.power.seqStep = 2 then bringFail 0x22
  else if s.power.seqStep = 3 then bringFail 0x23
  else pure ()

def execRailFault (rail : Nat) (s : State) : Host.Outcome State Fault Refusal := runExec (railFault rail) s

/-! The timebase (R24–R26). -/

/-- A write of CLK_CTL; without its PLL the timebase stands. -/
def clkWrite (v : Word) : Exec Unit := do
  plainWrite Reg.clkCtl v
  if ! Word.bit v 0 then do
    setFlag Reg.clkCtl 8 false
    modify fun s => { s with dccRun := false }

def execClkCtlWrite (w : Writer) (v : Word) (s : State) : Host.Outcome State Fault Refusal :=
  runExec (admitted w Reg.clkCtl v (clkWrite v)) s

/-- TIMEBASE_LOCK: SR.DCC counts, from 0 at the first lock. -/
def timebaseLock : Exec Unit := do
  let s ← get
  require (s.flag Reg.clkCtl 0 && ! s.flag Reg.clkCtl 8 && s.flag Reg.railStat 0)
  setFlag Reg.clkCtl 8 true
  modify fun s => { s with dccRun := true }
  if s.power.seqStep = 2 then bringStep 3 (railEnWrite 0x1001#64)

def execTimebaseLock (s : State) : Host.Outcome State Fault Refusal := runExec timebaseLock s

/-- REFCLK_LOSS (R25): `other` tells whether the other input is present; without it the last frequency is held. -/
def refclkLoss (other : Bool) : Exec Unit := do
  let s ← get
  require (s.flag Reg.clkCtl 8)
  if other then do
    setFlag Reg.clkCtl 9 (! s.flag Reg.clkCtl 9)
    mgmtEvt 0

def execRefclkLoss (other : Bool) (s : State) : Host.Outcome State Fault Refusal := runExec (refclkLoss other) s

/-! Power capping (R34–R37). -/

/-- A write of PCAP_CTL; the board controller's reaches PL1 alone (R20). -/
def pcapWrite (w : Writer) (v : Word) : Exec Unit := do
  let s ← get
  let v := if w = .board then Word.setBits (s.reg Reg.pcapCtl) 16 16 (Word.bits v 16 16) else v
  let pl1 := Word.bits v 16 16
  let pl2 := Word.bits v 32 16
  if pl1 < 1200 ∨ 3200 < pl1 ∨ pl2 < pl1 ∨ 3400 < pl2 ∨ Word.bits v 8 8 = 0 then setFlag Reg.pcapStat 3 true
  else plainWrite Reg.pcapCtl v

def execPcapCtlWrite (w : Writer) (v : Word) (s : State) : Host.Outcome State Fault Refusal :=
  runExec (admitted w Reg.pcapCtl v (pcapWrite w v)) s

/-- POWER_SAMPLE: PINST and PAVG, and the package limit in hardware. -/
def powerSample (pinst pavg : Nat) : Exec Unit := do
  let s ← get
  require (! s.power.porst)
  setField Reg.pcapStat 16 16 pinst
  setField Reg.pcapStat 32 16 pavg
  let pl1 := s.field Reg.pcapCtl 16 16
  let n := s.power.samples + 1
  let above := if n % 10 ≠ 0 then s.power.above else if pl1 < pinst then s.power.above + 1 else 0
  updPower fun p => { p with samples := n, above := above, calm := if pinst < pl1 then p.calm + 1 else 0 }
  if pinst ≤ pl1 then setFlag Reg.pcapStat 2 false
  if (s.field Reg.pcapCtl 32 16 < pinst ∨ 100 ≤ above) ∧ ! s.flag Reg.pcapStat 4 then do
    setFlag Reg.pcapStat 4 true
    updPower fun p => { p with above := 0, calm := 0 }
    each (List.range 4) breakLock

def execPowerSample (pinst pavg : BitVec 16) (s : State) : Host.Outcome State Fault Refusal :=
  runExec (powerSample pinst.toNat pavg.toNat) s

/-- CYCLE_SKIP_END: PINST has stayed below PL1 for 1 ms, which is 100 measurements. -/
def skipEnd : Exec Unit := do
  let s ← get
  require (s.flag Reg.pcapStat 4 && decide (100 ≤ s.power.calm))
  setFlag Reg.pcapStat 4 false

def execCycleSkipEnd (s : State) : Host.Outcome State Fault Refusal := runExec skipEnd s

/-- The better of two clusters by a measure, ties to the lower index. -/
def bestCluster (f : Nat → Nat) : List Nat → Option Nat
  | [] => none
  | n :: ns => some (ns.foldl (fun b x => if f b < f x then x else b) n)

/-- CAPPING_TICK (R36): the first action that applies; `power` holds the clusters' measured powers. -/
def cappingTick (power : List Nat) : Exec Unit := do
  let s ← get
  require (s.flag Reg.pcapCtl 0 && s.flag Reg.bootStat 0)
  let pinst := s.field Reg.pcapStat 16 16
  let pl1 := s.field Reg.pcapCtl 16 16
  let below := if pinst < pl1 - 100 then s.power.below + 1 else 0
  updPower fun p => { p with below := below }
  let setEff (n x : Nat) : Exec Unit := do
    updPower fun p => { p with eff := Map.set (fun _ => 2) p.eff n x }
    movePoint n
  if pl1 < pinst then
    (match bestCluster (fun n => power.getD n 0) ((List.range 4).filter fun n => ! s.lockedCl n && decide (0 < s.effPoint n)) with
      | some n => setEff n (s.effPoint n - 1)
      | none =>
        if 50 < s.power.hbmRate then updPower fun p => { p with hbmRate := p.hbmRate - 25 }
        else if s.flag Reg.pcapStat 2 then pure ()
        else do
          setFlag Reg.pcapStat 2 true
          mgmtEvt 6)
  else if 100 ≤ below then do
    updPower fun p => { p with below := 0 }
    if s.power.hbmRate < 100 then updPower fun p => { p with hbmRate := p.hbmRate + 25 }
    else
      match bestCluster (fun n => 3 - s.effPoint n) ((List.range 4).filter fun n => decide (s.effPoint n < s.point n)) with
      | some n => setEff n (s.effPoint n + 1)
      | none => pure ()
  else pure ()
  capStatus

def execCappingTick (power : List Nat) (s : State) : Host.Outcome State Fault Refusal := runExec (cappingTick power) s

/-! Temperatures (R38–R41). -/

/-- A write of THM_CFG. -/
def thmWrite (v : Word) : Exec Unit :=
  if 0x5A < Word.bits v 32 8 ∨ 0x55 < Word.bits v 24 8 ∨ 0x5F < Word.bits v 8 8 then setFlag Reg.pcapStat 3 true
  else plainWrite Reg.thmCfg v

def execThmCfgWrite (w : Writer) (v : Word) (s : State) : Host.Outcome State Fault Refusal :=
  runExec (admitted w Reg.thmCfg v (thmWrite v)) s

/-- The hottest of a list and its index. -/
def hottest (ts : List Nat) : Nat × Nat :=
  let i := (bestCluster (fun n => ts.getD n 0) (List.range ts.length)).getD 0
  (ts.getD i 0, i)

def anyOf (m : Assoc Bool) : Bool := m.any (·.2)

/-- The status bits of THM_STAT and the stacks' REF2X. -/
def thmStatus : Exec Unit := do
  let s ← get
  setFlag Reg.thmStat 0 (anyOf s.power.dieHot)
  setFlag Reg.thmStat 1 (anyOf s.power.hbmHot)
  setFlag Reg.thmStat 2 (anyOf s.power.hbmRef)
  each (List.range 16) fun n => setFlag (Reg.hbmRef n) 1 (Map.get (fun _ => false) s.power.hbmRef n)

/-- Consecutive samples at least 5 °C below a threshold. -/
def coolStep (i temp thr : Nat) : Exec Unit :=
  updPower fun p => { p with cool := Map.set (fun _ => 0) p.cool i (if temp + 5 ≤ thr then Map.get (fun _ => 0) p.cool i + 1 else 0) }

/-- A thermal trip: every switched rail is off. -/
def thermalTrip : Exec Unit := do
  railsOff (List.range 15)
  updPower fun p => { p with thermtrip := true }
  setFlag Reg.thmStat 3 true

/-- A die's sample against the throttle threshold `thr`: chiplets 0 to 3 and the I/O chiplet, 4. -/
def dieSample (die : List Nat) (thr n : Nat) : Exec Unit := do
  let s ← get
  coolStep n (die.getD n 0) thr
  if thr ≤ die.getD n 0 ∧ ! Map.get (fun _ => false) s.power.dieHot n then do
    updPower fun p => { p with dieHot := Map.set (fun _ => false) p.dieHot n true }
    mgmtEvt 2
    if n < 4 then do
      breakLock n
      movePoint n

/-- A stack's sample against the thresholds of double refresh and of the throttle. -/
def hbmSample (hbm : List Nat) (ref thr n : Nat) : Exec Unit := do
  let s ← get
  coolStep (16 + n) (hbm.getD n 0) ref
  coolStep (32 + n) (hbm.getD n 0) thr
  if ref ≤ hbm.getD n 0 then updPower fun p => { p with hbmRef := Map.set (fun _ => false) p.hbmRef n true }
  if thr ≤ hbm.getD n 0 ∧ ! Map.get (fun _ => false) s.power.hbmHot n then do
    updPower fun p => { p with hbmHot := Map.set (fun _ => false) p.hbmHot n true }
    mgmtEvt 1

/-- THERMAL_SAMPLE: the hottest sensor of each compute chiplet and of the I/O chiplet, and of each stack. -/
def thermalSample (die hbm : List Nat) : Exec Unit := do
  let s ← get
  require (! s.power.porst && decide (die.length = 5) && decide (hbm.length = 16))
  let (dm, di) := hottest die
  let (hm, hi) := hottest hbm
  setField Reg.thmStat 24 8 dm
  setField Reg.thmStat 20 4 di
  setField Reg.thmStat 40 8 hm
  setField Reg.thmStat 36 4 hi
  if s.field Reg.thmCfg 16 8 ≤ dm ∨ s.field Reg.thmCfg 40 8 ≤ hm then thermalTrip
  else do
    each (List.range 5) (dieSample die (s.field Reg.thmCfg 8 8))
    each (List.range 16) (hbmSample hbm (s.field Reg.thmCfg 24 8) (s.field Reg.thmCfg 32 8))
    thmStatus

def execThermalSample (die hbm : List Nat) (s : State) : Host.Outcome State Fault Refusal := runExec (thermalSample die hbm) s

/-- THERMAL_ACTION_END: 10 ms of samples, 200, have been 5 °C below the threshold. -/
def thermalEnd (action : ThermalAction) : Exec Unit := do
  let s ← get
  let cooled (i : Nat) : Bool := decide (200 ≤ Map.get (fun _ => 0) s.power.cool i)
  (match action with
    | .cluster n => do
      require (decide (n < 4) && Map.get (fun _ => false) s.power.dieHot n && cooled n)
      updPower fun p => { p with dieHot := Map.set (fun _ => false) p.dieHot n false }
      movePoint n
    | .ioDie => do
      require (Map.get (fun _ => false) s.power.dieHot 4 && cooled 4)
      updPower fun p => { p with dieHot := Map.set (fun _ => false) p.dieHot 4 false }
    | .hbmRefresh n => do
      require (Map.get (fun _ => false) s.power.hbmRef n && cooled (16 + n))
      updPower fun p => { p with hbmRef := Map.set (fun _ => false) p.hbmRef n false }
    | .hbmThrottle n => do
      require (Map.get (fun _ => false) s.power.hbmHot n && cooled (32 + n))
      updPower fun p => { p with hbmHot := Map.set (fun _ => false) p.hbmHot n false })
  thmStatus

def execThermalActionEnd (action : ThermalAction) (s : State) : Host.Outcome State Fault Refusal := runExec (thermalEnd action) s

/-! Package reset (R39, R41, R44, R118). -/

/-- The machine as after reset, with what no reset of this package reaches: the schedule, fuses, straps and flash, memory
outside the package, and what has been handed to the host. -/
def State.afterPowerLoss (s : State) : State :=
  { State.reset with
    sched := s.sched, tick := s.tick, mem := (Map.slice s.mem 0x1000000000000 0x8000000000000), hostOut := s.hostOut, msix := s.msix,
    gseq := s.gseq, nextPhase := s.nextPhase, nextRel := s.nextRel, nextTag := s.nextTag, nextJob := s.nextJob,
    boot := { Boot.reset with straps := s.boot.straps, keyhash := s.boot.keyhash, revoked := s.boot.revoked, minsvn := s.boot.minsvn,
                              secret := s.boot.secret, dbgFuse := s.boot.dbgFuse, serial := s.boot.serial, flash := s.boot.flash } }

/-- PORST_N_ASSERT: the always-on island keeps the Flue, the management controller's memory and THM_STAT.TRIPPED. -/
def porstAssert : Exec Unit :=
  modify fun s =>
    { s.afterPowerLoss with flue := s.flue, mgmtMem := s.mgmtMem, regs := Map.set regReset [] Reg.thmStat (s.reg Reg.thmStat) }

def execPorstNAssert (s : State) : Host.Outcome State Fault Refusal := runExec porstAssert s

/-- VAUX_LOSS. -/
def execVauxLoss (s : State) : Host.Outcome State Fault Refusal := runExec (modify State.afterPowerLoss) s

/-- PORST_N_DEASSERT: phase A begins with step 1. -/
def porstDeassert : Exec Unit := do
  let s ← get
  require s.power.porst
  updPower fun p => { p with porst := false }
  bringStep 1 (railEnWrite 0x0001#64)

def execPorstNDeassert (s : State) : Host.Outcome State Fault Refusal := runExec porstDeassert s

end Sys2Proof.Machine
end

