-- ==== Sys2Proof/Machine/Train.lean ====
section
/-! DEFINITION. Training (R44–R54): the HBM stacks and the optical ports, and the patrol scrubber (R47, R127). -/
namespace Sys2Proof.Machine

/-! Port states (R56, R71, R72). -/

def setPortState (p st : Nat) : Exec Unit := setField (Reg.portStat p) 32 3 st

/-- An entry into LOCKED or FAILED with its cause. -/
def setPortCause (p cause : Nat) : Exec Unit := setField (Reg.portStat p) 48 8 cause

/-! HBM stacks (R45–R49). -/

/-- The stack a 256-byte block lies in; the spec does not give the interleave (log 50). -/
def hbmStack (b : Nat) : Nat := (Config.word 5 b).toNat % 16

/-- A training register's last step failed: no further action (R45). -/
def refuseStep (stat : Nat) : Exec Unit := do
  setField stat 16 8 0x07
  setFlag stat 2 true

/-- A step starts. -/
def startStep (stat unit step : Nat) : Exec Unit := do
  setFlag stat 0 true
  setFlag stat 1 false
  updPower fun p => { p with training := Map.set (fun _ => 0) p.training unit step }

/-- A write of HBM_TRN. -/
def hbmTrn (n : Nat) (v : Word) : Exec Unit := do
  let s ← get
  let stat := Reg.hbmTstat n
  if Word.bit v 0 && s.flag stat 0 then pure ()
  else do
    plainWrite (Reg.hbmTrn n) v
    if Word.bit v 1 then do
      setField stat 24 8 0
      setField stat 16 8 0
      setField stat 1 2 0
    let t ← get
    if ! Word.bit v 0 then pure ()
    else if Word.bits v 8 8 ≠ t.field stat 24 8 + 1 ∨ Word.bit v 1 then refuseStep stat
    else startStep stat n (Word.bits v 8 8)

def execHbmTrnGo (n : Nat) (w : Writer) (v : Word) (s : State) : Host.Outcome State Fault Refusal :=
  runExec (admitted w (Reg.hbmTrn n) v do
    require (decide (n < 16) && Word.bit v 0)
    hbmTrn n v) s

def execHbmPhyReset (n : Nat) (w : Writer) (v : Word) (s : State) : Host.Outcome State Fault Refusal :=
  runExec (admitted w (Reg.hbmTrn n) v do
    require (decide (n < 16) && Word.bit v 1)
    hbmTrn n v) s

/-- Step 9: the stack reads as zeros with valid check values (R48). -/
def zeroStack (n : Nat) : Exec Unit :=
  modify fun s =>
    let keep (b : Nat) : Bool := decide (2 ^ 32 ≤ b) || hbmStack b != n
    { s with mem := s.mem.filter (fun e => keep (e.1 / 256)), blocks := s.blocks.filter (fun e => keep e.1),
             mcnts := s.mcnts.filter (fun e => keep (e.1 / 256)), gver := s.gver.filter (fun e => keep (e.1 / 4)),
             hist := s.hist.filter (fun e => keep (e.1 / 4)), wrel := s.wrel.filter (fun e => keep (e.1 / 4)) }

/-- HBM_TRAINING_STEP_DONE: `err` 0 for success, else the step's error; `spares` the spare lanes that step 7 uses. -/
def hbmStepDone (n err spares : Nat) : Exec Unit := do
  let s ← get
  let stat := Reg.hbmTstat n
  require (decide (n < 16) && s.flag stat 0 && decide (err < 256))
  let step := Map.get (fun _ => 0) s.power.training n
  setFlag stat 0 false
  setFlag stat 1 (err == 0)
  setFlag stat 2 (err != 0)
  if err ≠ 0 then do
    setField stat 16 8 err
    if s.flag (Reg.hbmTrn n) 2 then mgmtEvt 4
  else do
    setField stat 24 8 step
    if step = 7 then setField stat 32 8 (min spares 16)
    if step = 9 then zeroStack n
    if step = 10 then do
      setFlag (Reg.hbmRef n) 0 true
      if s.flag (Reg.hbmTrn n) 2 then mgmtEvt 4

def execHbmTrainingStepDone (n err spares : Nat) (s : State) : Host.Outcome State Fault Refusal := runExec (hbmStepDone n err spares) s

/-- A write of HBM_REF: a scrub period of 0 is refused and leaves 24 (R47). -/
def hbmRef (n : Nat) (v : Word) : Exec Unit :=
  plainWrite (Reg.hbmRef n) (if Word.bits v 8 8 = 0 then Word.setBits v 8 8 24 else v)

/-- INTEG_CNT.CORRECTED (R128). -/
def countCorrected : Exec Unit := do
  let s ← get
  setField Reg.integCnt 0 32 (min (s.field Reg.integCnt 0 32 + 1) 0xFFFFFFFF)

/-- PATROL_SCRUB (R47, R127): an uncorrectable block is poisoned with 0x295. -/
def patrolScrub (b : Nat) (f : Scrub) : Exec Unit := do
  let s ← get
  require (decide (b < 2 ^ 32) && s.flag (Reg.hbmRef (hbmStack b)) 0)
  match f with
  | .clean => pure ()
  | .corrected => countCorrected
  | .uncorrectable => poisonBlock b 0x295#10

def execPatrolScrub (block : Nat) (f : Scrub) (s : State) : Host.Outcome State Fault Refusal := runExec (patrolScrub block f) s

/-! Optical ports (R50–R54). -/

/-- The number of lanes of a mask. -/
def lanes (m : Nat) : Nat := popcount m 8

/-- A write of OPT_TRN: circuit mode trains steps 1 and 2 only. Step 6 of a DOWN port hands it to the link layer (R56). -/
def optTrn (p : Nat) (v : Word) : Exec Unit := do
  let s ← get
  let stat := Reg.optTstat p
  let step := Word.bits v 8 8
  if Word.bit v 0 && s.flag stat 0 then pure ()
  else do
    plainWrite (Reg.optTrn p) v
    if ! Word.bit v 0 then pure ()
    else if step ≠ s.field stat 24 8 + 1 ∨ (Word.bit v 1 ∧ 3 ≤ step) then refuseStep stat
    else do
      startStep stat (16 + p) step
      if step = 1 then setField stat 8 8 (Word.bits v 16 8)
      if step = 6 ∧ s.portState p = 0 then do
        setPortState p 4
        setPortCause p 0x37

def execOptTrnGo (p : Nat) (w : Writer) (v : Word) (s : State) : Host.Outcome State Fault Refusal :=
  runExec (admitted w (Reg.optTrn p) v do
    require (decide (p < 36) && Word.bit v 0)
    optTrn p v) s

/-- OPTICAL_TRAINING_STEP_DONE: lanes that failed leave LANEOK; `own` says that the step's own condition failed. -/
def optStepDone (p failed : Nat) (own : Bool) : Exec Unit := do
  let s ← get
  let stat := Reg.optTstat p
  require (decide (p < 36) && s.flag stat 0)
  let step := Map.get (fun _ => 0) s.power.training (16 + p)
  let ok := s.field stat 8 8 &&& (255 - failed)
  let bad := own || decide (lanes ok < 2)
  setField stat 8 8 ok
  setFlag stat 0 false
  setFlag stat 1 (! bad)
  setFlag stat 2 bad
  if bad then do
    setField stat 16 8 (0x10 + step)
    let cause := s.field (Reg.portStat p) 48 8
    portFails p cause
    mgmtEvt 3
  else do
    setField stat 24 8 step
    if step = 5 then updLink p fun l => { l with record := (widthOf (lanes ok), ok, 0) }

def execOpticalTrainingStepDone (p : Nat) (failed : BitVec 8) (own : Bool) (s : State) : Host.Outcome State Fault Refusal :=
  runExec (optStepDone p failed.toNat own) s

end Sys2Proof.Machine
end

