-- ==== Sys2Proof/Machine/Mmio.lean ====
section
/-! DEFINITION. A write to the MMIO range by address (R6, R20, R511): each register's own operation. Offsets without a register
ignore writes (R107). -/
namespace Sys2Proof.Machine

/-- The PMB. -/
def pmbWrite (w : Writer) (o : Nat) (v : Word) : Exec Unit :=
  if o = Reg.railEn then railEnWrite v
  else if o = Reg.rstCtl then rstCtlWrite v
  else if o = Reg.clkCtl then clkWrite v
  else if o = Reg.dvfsCtl then dvfsWrite v
  else if o = Reg.pcapCtl then pcapWrite w v
  else if o = Reg.thmCfg then thmWrite v
  else plainWrite o v

/-- A link block of port `p` at offset `b`. -/
def linkWrite (p b : Nat) (v : Word) : Exec Unit :=
  if b = 0 then portCtl p v
  else if 0x020 ≤ b ∧ b ≤ 0x048 then portSecret p ((b - 0x020) / 8) v
  else if b = 0x100 then slotCfg p v
  else plainWrite (Reg.portCtl p + b) v

/-- The fabric block. -/
def fabWrite (o : Nat) (v : Word) : Exec Unit :=
  if o = Reg.tsyncCtl then tsyncCtl v
  else if Reg.rankBase 0 ≤ o then rankConfig ((o - Reg.rankBase 0) / 0x20) ((o - Reg.rankBase 0) % 0x20) v
  else plainWrite o v

/-- The security block. -/
def secWrite (w : Writer) (o : Nat) (v : Word) : Exec Unit :=
  if o = Reg.rgnCfg ∨ 0x02001000 ≤ o then rgnWrite (o - Reg.rgnCfg) v
  else if o = Reg.rgnSync then rgnSync v
  else if o = Reg.bootCtl then bootCtl w v
  else if o = Reg.measCmd then measCmd v
  else if Reg.measD 0 ≤ o ∧ o ≤ Reg.measD 5 then measData ((o - Reg.measD 0) / 8) v
  else plainWrite o v

/-- A front end's block at offset `b`. -/
def feWrite (f b : Nat) (v : Word) : Exec Unit :=
  if b = 0 then ringCtl f v
  else if b ≤ 0x020 then ringBase f b v
  else if b = 0x030 then wdogCfg f v
  else if b = 0x038 then wdogKick f
  else if b = 0x048 then feQpush f v
  else plainWrite (Reg.ringCtl f + b) v

/-- A partition's block at offset `b`. -/
def seqWrite (k b : Nat) (v : Word) : Exec Unit :=
  if b = 0 then partCtl k v
  else if b = 0x008 then schedCfg k v
  else if b = 0x100 ∨ b = 0x108 then shadowConfig k b v
  else if b = 0x110 then ctxResume k v
  else if b = 0x138 then invCtl k v
  else plainWrite (Reg.partCtl k + b) v

/-- Eight bytes of the Flue; the reserved slots take nothing (R154). -/
def flueWrite (o : Nat) (v : Word) : Exec Unit :=
  if 136 ≤ (o - Reg.flue) / 512 then pure ()
  else modify fun s => { s with flue := Map.setN (fun _ => 0#8) s.flue (o - Reg.flue) (leBytes 8 v.toNat) }

/-- A write of the register at an offset. -/
def regWrite (w : Writer) (o : Nat) (v : Word) : Exec Unit :=
  if Reg.flue ≤ o ∧ o < Reg.flueEnd then flueWrite o v
  else if (regSpec o).isNone then pure ()
  else if o < 0x01100000 then pmbWrite w o v
  else if o < 0x01200000 then
    (if o % 0x1000 = 0 then hbmTrn (o / 0x1000 % 16) v
    else if o % 0x1000 = 0x010 then hbmRef (o / 0x1000 % 16) v
    else plainWrite o v)
  else if o < 0x01400000 then
    (if o % 0x1000 = 0 then optTrn ((o - 0x01200000) / 0x1000) v else plainWrite o v)
  else if o < 0x01800000 then linkWrite ((o - 0x01400000) / 0x1000) (o % 0x1000) v
  else if o < 0x02000000 then fabWrite o v
  else if o < 0x03000000 then secWrite w o v
  else if o < 0x03800000 then feWrite (o / 0x1000 % 8) (o % 0x1000) v
  else if o = Reg.t2Cfg then t2Cfg v
  else seqWrite (o / 0x1000 % 8) (o % 0x1000) v

/-- REG_WRITE: a register write by its address; a store of FE_QPUSH that would wait behind another comes later. -/
def regWriteEvent (w : Writer) (addr : Nat) (v : Word) : Exec Unit := do
  require (decide (mmioBase ≤ addr) && decide (addr % 8 = 0))
  let o := addr - mmioBase
  let s ← get
  require ((List.range 8).all fun f => ! (o == Reg.feQpush f && Map.has s.feWait f))
  admitted w o v (regWrite w o v)

def execRegWrite (w : Writer) (addr : Nat) (v : Word) (s : State) : Host.Outcome State Fault Refusal :=
  runExec (regWriteEvent w addr v) s

end Sys2Proof.Machine
end

