-- ==== Sys2Proof/Machine/LoadStore.lean ====
section
/-! DEFINITION. Loads and stores (R386, R387): global memory, scratchpads, service memory, a controller's MMIO accesses (R511), and
remote loads into channels. -/
namespace Sys2Proof.Machine

/-- The address of an access of `n` bytes, aligned. -/
def lsAddr (x : Args) (n : Nat) : Exec Nat := do
  let a ← readSrc 1 x.a
  let e := a + simmOf x
  if e.toNat % n ≠ 0 then trapAt 0x143#10 e else pure e.toNat

/-- A loaded value, extended. -/
def extend (signed : Bool) (n : Nat) (bs : List Byte) : Word :=
  if signed then BitVec.ofInt 64 ((BitVec.ofNat (8 * n) (leVal bs)).toInt) else leWord bs

/-- Whether an access of a controller is to the MMIO range. -/
def State.isMmio (s : State) (a : Nat) : Bool := ! s.cur.isUser && s.place a == .mmio

/-- Reading `n` bytes at a global address. -/
def loadBytes (a n : Nat) : Exec (List Byte) := do
  let s ← get
  if s.isMmio a then
    match s.placeFault false (s.world s.cur) a with
    | some f => trapAt f (BitVec.ofNat 64 a)
    | none => pure (s.mmioBytes (a - mmioBase) n)
  else do
    let bs ← readGlobal s.cur (FInfo.at (BitVec.ofNat 64 a)) a n
    clearAnswers s.cur
    pure bs

/-- The writer that an agent of the I/O chiplet or a service context is. -/
def State.writerOf (s : State) (a : Agent) : Writer :=
  match a with
  | .mgmt => .mgmt
  | _ => if s.world a then .secure else .nonSecure

/-- The word that a store of `n` bytes writes to a register: the other bytes keep their RW bits and clear nothing. -/
def State.merged (s : State) (o n : Nat) (v : Word) : Word :=
  let keep := match regSpec (o / 8 * 8) with
    | some sp => s.reg (o / 8 * 8) &&& BitVec.ofNat 64 sp.rw
    | none => s.mmioWord (o / 8 * 8)
  if n = 8 then v else Word.setBits keep (8 * (o % 8)) (8 * n) v.toNat

/-- Storing `n` bytes at a global address: the store to a register completes with the register's own operation. -/
def storeBytes (a n : Nat) (v : Word) : Exec Unit := do
  let s ← get
  if s.isMmio a then do
    let o := a - mmioBase
    let u := s.merged o n v
    if s.admits (s.writerOf s.cur) (o / 8 * 8) u then do
      retire 1
      regWrite (s.writerOf s.cur) (o / 8 * 8) u
    else trapAt 0x281#10 (BitVec.ofNat 64 a)
  else do
    writeGlobal s.cur (FInfo.at (BitVec.ofNat 64 a)) a (leBytes n v.toNat)
    retire 1

/-- LD. -/
def load (signed : Bool) (n : Nat) (x : Args) : Exec Unit := do
  let a ← lsAddr x n
  let bs ← loadBytes a n
  finish x.d (extend signed n bs)

/-- ST: the value in D is read after the address. -/
def store (n : Nat) (x : Args) : Exec Unit := do
  let a ← readSrc 1 x.a
  let v ← readSrc 0 x.d
  let e := a + simmOf x
  if e.toNat % n ≠ 0 then trapAt 0x143#10 e else storeBytes e.toNat n v

/-- The offset of an access to service memory (R260). -/
def svcOffset (a n : Nat) : Exec Nat := if 65536 < a + n then trapAt 0x144#10 (BitVec.ofNat 64 a) else pure a

/-- LDSP: a stream's scratchpads, or the service context's memory. -/
def loadSp (signed : Bool) (n : Nat) (x : Args) : Exec Unit := do
  let a ← lsAddr x n
  let s ← get
  match s.cur with
  | .stream _ _ => do
    let bs ← scratchRead (FInfo.at (BitVec.ofNat 64 a)) a n
    finish x.d (extend signed n bs)
  | _ => do
    let o ← svcOffset a n
    let y ← getCore s.cur.coreNo
    finish x.d (extend signed n (Map.getN (fun _ => 0#8) y.svcMem o n))

/-- STSP. -/
def storeSp (n : Nat) (x : Args) : Exec Unit := do
  let a ← readSrc 1 x.a
  let v ← readSrc 0 x.d
  let e := a + simmOf x
  if e.toNat % n ≠ 0 then trapAt 0x143#10 e
  else do
    let s ← get
    (match s.cur with
      | .stream _ _ => scratchWrite (FInfo.at e) e.toNat (leBytes n v.toNat)
      | _ => do
        let o ← svcOffset e.toNat n
        updCore s.cur.coreNo fun y => { y with svcMem := Map.setN (fun _ => 0#8) y.svcMem o (leBytes n v.toNat) })
    retire 1

/-- RLD: the tail entry is reserved and the stream goes on; a failure after issue is kept for the next instruction (R387). -/
def remoteLoad (signed : Bool) (n : Nat) (x : Args) : Exec Unit := do
  let q := x.d.toNat % 16
  let a ← readSrc 1 x.a
  let c ← curCore
  let j ← getJob c
  if 8 ≤ (j.chan q).length then block .chan
  else do
    let e := a + simmOf x
    if e.toNat % n ≠ 0 then trapAt 0x143#10 e
    else do
      let s ← get
      match ← xlate s.cur false false e.toNat with
      | .error f => trapAt f e
      | .ok pa => do
        let id ← fresh
        let h ← getHart
        let r : Rld := ⟨id, q, h.pc, e, pa, n, signed⟩
        pushChan q (.reserved id)
        updJob c fun j => { j with rlds := j.rlds ++ [r] }
        custody j.part c 1 0
        (match s.place pa with
          | .fabric pkg off => do
            match ← sendRequest (.rld c id) j.part tyRDREQ (s.world s.cur) pkg (rdreqPayload off n) with
            | .error f => do
              updJob c fun j =>
                { j.setChan q ((j.chan q).filter (· != .reserved id)) with
                  rlds := j.rlds.filter (·.id != id), rldFault := j.rldFault ++ [(r, f)] }
              custody j.part c 0 1
            | .ok _ => pure ()
          | _ => pure ())
        retire 1

/-! The instructions. -/

def execLdB (x : Args) (s : State) : Host.Outcome State Fault Refusal :=
  run (.one 0x20#8 0#4 x) .ld (load true 1 x) s

def execLdBu (x : Args) (s : State) : Host.Outcome State Fault Refusal :=
  run (.one 0x20#8 1#4 x) .ld (load false 1 x) s

def execLdH (x : Args) (s : State) : Host.Outcome State Fault Refusal :=
  run (.one 0x20#8 2#4 x) .ld (load true 2 x) s

def execLdHu (x : Args) (s : State) : Host.Outcome State Fault Refusal :=
  run (.one 0x20#8 3#4 x) .ld (load false 2 x) s

def execLdW (x : Args) (s : State) : Host.Outcome State Fault Refusal :=
  run (.one 0x20#8 4#4 x) .ld (load true 4 x) s

def execLdWu (x : Args) (s : State) : Host.Outcome State Fault Refusal :=
  run (.one 0x20#8 5#4 x) .ld (load false 4 x) s

def execLdD (x : Args) (s : State) : Host.Outcome State Fault Refusal :=
  run (.one 0x20#8 6#4 x) .ld (load false 8 x) s

def execStB (x : Args) (s : State) : Host.Outcome State Fault Refusal :=
  run (.one 0x21#8 0#4 x) .st (store 1 x) s

def execStH (x : Args) (s : State) : Host.Outcome State Fault Refusal :=
  run (.one 0x21#8 1#4 x) .st (store 2 x) s

def execStW (x : Args) (s : State) : Host.Outcome State Fault Refusal :=
  run (.one 0x21#8 2#4 x) .st (store 4 x) s

def execStD (x : Args) (s : State) : Host.Outcome State Fault Refusal :=
  run (.one 0x21#8 3#4 x) .st (store 8 x) s

def execLdspB (x : Args) (s : State) : Host.Outcome State Fault Refusal :=
  run (.one 0x22#8 0#4 x) .ldsp (loadSp true 1 x) s

def execLdspBu (x : Args) (s : State) : Host.Outcome State Fault Refusal :=
  run (.one 0x22#8 1#4 x) .ldsp (loadSp false 1 x) s

def execLdspH (x : Args) (s : State) : Host.Outcome State Fault Refusal :=
  run (.one 0x22#8 2#4 x) .ldsp (loadSp true 2 x) s

def execLdspHu (x : Args) (s : State) : Host.Outcome State Fault Refusal :=
  run (.one 0x22#8 3#4 x) .ldsp (loadSp false 2 x) s

def execLdspW (x : Args) (s : State) : Host.Outcome State Fault Refusal :=
  run (.one 0x22#8 4#4 x) .ldsp (loadSp true 4 x) s

def execLdspWu (x : Args) (s : State) : Host.Outcome State Fault Refusal :=
  run (.one 0x22#8 5#4 x) .ldsp (loadSp false 4 x) s

def execLdspD (x : Args) (s : State) : Host.Outcome State Fault Refusal :=
  run (.one 0x22#8 6#4 x) .ldsp (loadSp false 8 x) s

def execStspB (x : Args) (s : State) : Host.Outcome State Fault Refusal :=
  run (.one 0x23#8 0#4 x) .stsp (storeSp 1 x) s

def execStspH (x : Args) (s : State) : Host.Outcome State Fault Refusal :=
  run (.one 0x23#8 1#4 x) .stsp (storeSp 2 x) s

def execStspW (x : Args) (s : State) : Host.Outcome State Fault Refusal :=
  run (.one 0x23#8 2#4 x) .stsp (storeSp 4 x) s

def execStspD (x : Args) (s : State) : Host.Outcome State Fault Refusal :=
  run (.one 0x23#8 3#4 x) .stsp (storeSp 8 x) s

def execRldB (x : Args) (s : State) : Host.Outcome State Fault Refusal :=
  run (.one 0x24#8 0#4 x) .rld (remoteLoad true 1 x) s

def execRldBu (x : Args) (s : State) : Host.Outcome State Fault Refusal :=
  run (.one 0x24#8 1#4 x) .rld (remoteLoad false 1 x) s

def execRldH (x : Args) (s : State) : Host.Outcome State Fault Refusal :=
  run (.one 0x24#8 2#4 x) .rld (remoteLoad true 2 x) s

def execRldHu (x : Args) (s : State) : Host.Outcome State Fault Refusal :=
  run (.one 0x24#8 3#4 x) .rld (remoteLoad false 2 x) s

def execRldW (x : Args) (s : State) : Host.Outcome State Fault Refusal :=
  run (.one 0x24#8 4#4 x) .rld (remoteLoad true 4 x) s

def execRldWu (x : Args) (s : State) : Host.Outcome State Fault Refusal :=
  run (.one 0x24#8 5#4 x) .rld (remoteLoad false 4 x) s

def execRldD (x : Args) (s : State) : Host.Outcome State Fault Refusal :=
  run (.one 0x24#8 6#4 x) .rld (remoteLoad false 8 x) s


end Sys2Proof.Machine
end

