-- ==== Sys2Proof/Machine/Tick.lean ====
section
/-! DEFINITION. A cycle of the timebase (R24, R89): SR.DCC and everything that counts its cycles: issue clocks (R208, R266, R268), the
issue time of jobs and classes (R180, R181), deadlock (R236), watchdogs (R156). -/
namespace Sys2Proof.Machine

/-- How much SR.DCC gains in a cycle while it is corrected: two or none once in 64 cycles, none in every second one far ahead. -/
def State.dccStep (s : State) : Nat :=
  if s.tsSlew < 0 then (if s.tsPhase % 64 = 63 then 2 else 1)
  else if 65536 < s.tsSlew then (if s.tsPhase % 2 = 1 then 0 else 1)
  else if 0 < s.tsSlew then (if s.tsPhase % 64 = 63 then 0 else 1)
  else 1

/-- SR.DCC advances. -/
def dccAdvance : Exec Unit :=
  modify fun s =>
    let n := s.dccStep
    { s with dcc := s.dcc + BitVec.ofNat 64 n, tsSlew := s.tsSlew + ((n : Int) - 1),
             tsPhase := if s.tsSlew = 0 then 0 else s.tsPhase + 1 }

/-- A cycle of a core. -/
def coreCycle (c : Nat) : Exec Unit := do
  let s ← get
  let dead := s.deadlocked c
  updCore c fun x =>
    let j := x.job
    { x with
      deadCycles := if dead then x.deadCycles + 1 else 0,
      job := if ! j.live then j
        else if j.stall = 0 then { j with j := j.j + 1, issueTime := j.issueTime + 1 }
        else { j with stall := j.stall - 1, issueTime := j.issueTime + 1 } }

/-- The issue time of the classes of a core of partition `k`: counted since the class last had no ready job there. -/
def classCycle (k c : Nat) : Exec Unit := do
  let s ← get
  let p := s.part k
  let j := s.job c
  let mine (x : Nat) : Bool := s.jobReady c && j.part == k && j.cls == x
  each (List.range 4) fun x =>
    updPart k fun q =>
      { q with issueTime := Map.upd (fun _ => 0) q.issueTime (4 * c + x) fun t =>
          if mine x then t + 1 else if (p.readyQ c x).isEmpty then 0 else t }

/-- A cycle of a partition. -/
def partCycle (k : Nat) : Exec Unit := do
  refreshReady k
  let s ← get
  each (s.part k).phys fun c => classCycle k c

/-- A cycle of a front end's watchdog. -/
def wdogCycle (f : Nat) : Exec Unit := do
  let s ← get
  if s.wdogCounts f then modify fun s => { s with wdog := Map.upd (fun _ => 0) s.wdog f (· + 1) } else pure ()

/-- DCC_TICK: no cycle passes in which a stamped command or a result of a fixed time would be late. -/
def dccTick : Exec Unit := do
  let s ← get
  require (s.dccRun && s.cores.all fun e => ! s.clockHeld e.1)
  dccAdvance
  each (s.cores.map (·.1)) coreCycle
  each ((List.range 8).filter s.partOn) partCycle
  each (List.range 8) wdogCycle

def execDccTick (s : State) : Host.Outcome State Fault Refusal := runExec dccTick s

end Sys2Proof.Machine
end

