-- ==== Sys2Proof/Machine/TileCfg.lean ====
section
/-! DEFINITION. Configuring tiles, and tile loads and stores (R418–R425). -/
namespace Sys2Proof.Machine

/-- The descriptor that TCFG would write: cause 0x080 or 0x081 where there is none (R419). -/
def newDesc (old : Desc) (keep : Bool) (a b : Word) : Except Cause Desc :=
  if keep && ! old.v then .error 0x080#10
  else
    let base := if keep then old.base else Word.bits b 0 11
    let cap := if keep then old.cap else Word.bits b 16 12
    let d : Desc :=
      { vcols := Word.bits a 8 10 + 1, vrows := Word.bits a 0 8 + 1, v := true, morton := Word.bit a 23, typ := Word.bits a 18 5,
        colsM1 := Word.bits a 8 10, rowsM1 := Word.bits a 0 8, cap := cap, base := base }
    if Word.bits a 24 40 ≠ 0 ∨ (! keep && (decide (Word.bits b 11 5 ≠ 0) || decide (Word.bits b 28 36 ≠ 0))) then .error 0x081#10
    else if d.ok then .ok d else .error 0x081#10

/-- TCFG, and TCFG.Z with the written bits of the CAP range cleared. -/
def configure (x : Args) (zero : Bool) : Exec Unit := do
  let a ← readSrc 1 x.a
  let b ← readSrc 2 x.b
  let j ← curJob
  let n := x.d.toNat - 0x20
  match newDesc (j.tdesc n) (x.b == 0#8) a b with
  | .error f => trap f
  | .ok d => do
    let c ← curCore
    updJob c fun j =>
      { j with desc := Map.set (fun _ => 0#128) j.desc n d.toBits,
               tstore := if zero then j.tstore.clear (512 * d.base) (512 * (d.base + d.cap)) else j.tstore }
    retire 1

/-- TVAL (R420). -/
def setValid (x : Args) : Exec Unit := do
  let a ← readSrc 1 x.a
  let b ← readSrc 2 x.b
  let j ← curJob
  let n := x.d.toNat - 0x20
  let d := j.tdesc n
  if ! d.v then trap 0x080#10
  else if d.rows < a.toNat ∨ d.cols < b.toNat then trap 0x081#10
  else do
    let c ← curCore
    updJob c fun j =>
      { j with desc := Map.set (fun _ => 0#128) j.desc n { d with vrows := a.toNat, vcols := b.toNat }.toBits }
    retire 1

/-- TDESC reads any descriptor; MOD[0] selects the high half (R420). -/
def readDesc (x : Args) : Exec Unit := do
  let j ← curJob
  let w := Map.get (fun _ => 0#128) j.desc (x.a.toNat - 0x20)
  finish x.d (if x.mod.getLsbD 0 then w.extractLsb' 64 64 else w.extractLsb' 0 64)

/-! TLD and TST (R421–R425). -/

/-- The checks of R422. -/
def imageChecks (x : Args) (d : Desc) (a b : Word) (store : Bool) : Exec Unit := do
  let e := if 8 ≤ d.bits then d.bits / 8 else 1
  if x.mod.getLsbD 1 then (if a.toNat % 64 ≠ 0 then trapAt 0x143#10 a else pure ())
  else if a.toNat % e ≠ 0 ∨ b.toNat % e ≠ 0 then trapAt 0x143#10 a
  else if store && decide (d.bits < 8) && decide (d.vcols * d.bits % 8 ≠ 0) then shapeFault
  else pure ()

/-- TLD: each row read whole before it is written. -/
def loadTile (x : Args) : Exec Unit := do
  let a ← readSrc 1 x.a
  let b ← readSrc 2 x.b
  let dst ← tileDst x
  let d := dst.desc
  imageChecks x d a b false
  let n := d.span d.vcols
  runFull dst fun i => do
    let bs ← readPieces .plain (x.mod.getLsbD 0) a.toNat (imagePieces d (x.mod.getLsbD 1) b.toInt i n)
    pure (elemsOf d.bits d.vcols bs)

/-- TST: D is the stored tile, evaluated last. -/
def storeTile (x : Args) : Exec Unit := do
  let a ← readSrc 1 x.a
  let b ← readSrc 2 x.b
  let src ← tileSrc 0 x.d
  let d := src.desc
  imageChecks x d a b true
  let n := d.span d.vcols
  let h ← getHart
  let q := h.restartHere.cursor
  rowsFrom q (d.vrows - q) fun i => do
    let es ← src.row d.typ d.cols i
    writePieces .plain (x.mod.getLsbD 0) a.toNat (imagePieces d (x.mod.getLsbD 1) b.toInt i n)
      (layElems d.bits (List.replicate n 0#8) ((es.take d.vcols).map some))
  let s ← get
  clearAnswers s.cur
  retire 1

/-! The instructions. -/

def execTcfg (x : Args) (s : State) : Host.Outcome State Fault Refusal :=
  run (.one 0x80#8 0#4 x) .tcfg (configure x false) s

def execTcfgZ (x : Args) (s : State) : Host.Outcome State Fault Refusal :=
  run (.one 0x80#8 1#4 x) .tcfg (configure x true) s

def execTval (x : Args) (s : State) : Host.Outcome State Fault Refusal :=
  run (.one 0x80#8 2#4 x) .tcfg (setValid x) s

def execTdesc (x : Args) (s : State) : Host.Outcome State Fault Refusal :=
  run (.one 0x80#8 3#4 x) .tdesc (readDesc x) s

def execTld (x : Args) (s : State) : Host.Outcome State Fault Refusal :=
  run (.one 0x81#8 0#4 x) .tld (loadTile x) s

def execTst (x : Args) (s : State) : Host.Outcome State Fault Refusal :=
  run (.one 0x82#8 0#4 x) .tst (storeTile x) s


end Sys2Proof.Machine
end

