-- ==== Sys2Proof/Machine/TileMove.lean ====
section
/-! DEFINITION. Rearrangement and movement: TPERM and TMOV (R438, R439). -/
namespace Sys2Proof.Machine

/-- An element by a signed index: zero where the index is not below the dimension. -/
def atIndex (es : List Nat) (k : Int) : Nat := if k < 0 then 0 else es.getD k.toNat 0

/-- The type rule: A and D have one TYPE; an index tile has an integer TYPE. -/
def moveTypes (dst : Dst) (a : Src) (index : Option Src) : Exec Unit :=
  needType (a.desc.typ == dst.desc.typ && typOk dst.desc.typ && (match index with | some b => isINTA b.desc.typ | none => true))

/-- TTRN. -/
def transpose (x : Args) : Exec Unit := do
  let a ← tileSrc 1 x.a
  let dst ← tileDst x
  let d := dst.desc
  moveTypes dst a none
  needShape (a.shaped d.cols d.rows)
  checkOverlap dst [a] true
  runFull dst fun i => do
    let rs ← a.all
    pure ((List.range d.vcols).map fun j => (rs.getD j []).getD i 0)

/-- TPERM: columns by an index row. -/
def permute (x : Args) : Exec Unit := do
  let a ← tileSrc 1 x.a
  let b ← tileSrc 2 x.b
  let dst ← tileDst x
  let d := dst.desc
  moveTypes dst a (some b)
  needShape (a.desc.rows == d.rows && b.shaped 1 d.cols)
  checkOverlap dst [a, b] false
  runFull dst fun i => do
    let ra ← a.row d.typ a.desc.cols i
    let rb ← b.row b.desc.typ d.cols 0
    pure ((rb.take d.vcols).map fun k => atIndex ra (intVal b.desc.typ k))

/-- TSHUF: rows by an index column. -/
def shuffle (x : Args) : Exec Unit := do
  let a ← tileSrc 1 x.a
  let b ← tileSrc 2 x.b
  let dst ← tileDst x
  let d := dst.desc
  moveTypes dst a (some b)
  needShape (a.desc.cols == d.cols && b.shaped d.rows 1)
  checkOverlap dst [a, b] true
  runFull dst fun i => do
    let rb ← b.row b.desc.typ 1 i
    let k := intVal b.desc.typ (rb.getD 0 0)
    if k < 0 ∨ (a.desc.rows : Int) ≤ k then pure (List.replicate d.cols 0) else a.row d.typ d.cols k.toNat

/-- TGATH: an index for each element. -/
def gather (x : Args) : Exec Unit := do
  let a ← tileSrc 1 x.a
  let b ← tileSrc 2 x.b
  let dst ← tileDst x
  let d := dst.desc
  moveTypes dst a (some b)
  needShape (a.desc.rows == d.rows && b.shaped d.rows d.cols)
  checkOverlap dst [a, b] false
  runFull dst fun i => do
    let ra ← a.row d.typ a.desc.cols i
    let rb ← b.row b.desc.typ d.cols i
    pure ((rb.take d.vcols).map fun k => atIndex ra (intVal b.desc.typ k))

/-- The elements a scatter of one row leaves: the last source element that names each column. -/
def scatterRow (cols : Nat) (vals : List Nat) (idx : List Int) : List (Option Nat) :=
  (List.range cols).map fun j =>
    (List.range vals.length).foldl (fun r k => if idx.getD k (-1) = Int.ofNat j then some (vals.getD k 0) else r) none

/-- TSCAT: D is a tile register, of which only the targeted elements change. -/
def scatter (x : Args) : Exec Unit := do
  let a ← tileSrc 1 x.a
  let b ← tileSrc 2 x.b
  let dst ← tileDst x
  let d := dst.desc
  moveTypes dst a (some b)
  needShape (a.desc.rows == d.rows && b.shaped a.desc.rows a.desc.cols)
  checkOverlap dst [a, b] false
  runRows dst fun i => do
    let ra ← a.row d.typ a.desc.cols i
    let rb ← b.row b.desc.typ a.desc.cols i
    pure (scatterRow d.cols ra (rb.map (intVal b.desc.typ)))

/-- TBCR: the one row of A in every row. -/
def bcastRow (x : Args) : Exec Unit := do
  let a ← tileSrc 1 x.a
  let dst ← tileDst x
  let d := dst.desc
  moveTypes dst a none
  needShape (a.shaped 1 d.cols)
  checkOverlap dst [a] true
  runFull dst fun _ => a.row d.typ d.cols 0

/-- TBCC: the one column of A in every column. -/
def bcastCol (x : Args) : Exec Unit := do
  let a ← tileSrc 1 x.a
  let dst ← tileDst x
  let d := dst.desc
  moveTypes dst a none
  needShape (a.shaped d.rows 1)
  checkOverlap dst [a] false
  runFull dst fun i => do
    let ra ← a.row d.typ 1 i
    pure (List.replicate d.vcols (ra.getD 0 0))

/-- TBCS: a converted scalar, INT64, or FP64 with FSRC. -/
def bcastScalar (x : Args) : Exec Unit := do
  let a ← readSrc 1 x.a
  let dst ← tileDst x
  let d := dst.desc
  needType (isFPA d.typ || isINTA d.typ)
  let e := cvtElem (if x.mod.getLsbD 2 then 0 else 0x0E) d.typ (rmOf x) (satOf x) a.toNat
  runFull dst fun _ => pure (List.replicate d.vcols e)

/-- TMOV. -/
def moveTile (x : Args) : Exec Unit := do
  let a ← tileSrc 1 x.a
  let dst ← tileDst x
  let d := dst.desc
  moveTypes dst a none
  needShape (a.shaped d.rows d.cols)
  checkOverlap dst [a] false
  runFull dst fun i => a.row d.typ d.cols i

/-- The origin of TEXT and TINS: row0 and col0; cause 0x082 for a word above them. -/
def origin (b : Word) : Exec (Nat × Nat) :=
  if Word.bits b 32 32 ≠ 0 then shapeFault else pure (Word.bits b 16 16, Word.bits b 0 16)

/-- TEXT: a window of A. -/
def extract (x : Args) : Exec Unit := do
  let a ← tileSrc 1 x.a
  let b ← readSrc 2 x.b
  let dst ← tileDst x
  let d := dst.desc
  moveTypes dst a none
  let (r0, c0) ← origin b
  checkOverlap dst [a] true
  runFull dst fun i => do
    if a.desc.rows ≤ r0 + i then pure (List.replicate d.vcols 0)
    else do
      let ra ← a.row d.typ a.desc.cols (r0 + i)
      pure ((List.range d.vcols).map fun j => ra.getD (c0 + j) 0)

/-- TINS: A laid into D, of which other elements stay. -/
def insertTile (x : Args) : Exec Unit := do
  let a ← tileSrc 1 x.a
  let b ← readSrc 2 x.b
  let dst ← tileDst x
  let d := dst.desc
  moveTypes dst a none
  let (r0, c0) ← origin b
  checkOverlap dst [a] true
  runRows dst fun i => do
    if i < r0 ∨ r0 + a.desc.rows ≤ i then pure []
    else do
      let ra ← a.row d.typ a.desc.cols (i - r0)
      pure ((List.range d.vcols).map fun j => if j < c0 ∨ c0 + a.desc.cols ≤ j then none else some (ra.getD (j - c0) 0))

/-- TIOTA: A + i × B + j, exact, converted once. -/
def iota (x : Args) : Exec Unit := do
  let a ← readSrc 1 x.a
  let b ← readSrc 2 x.b
  let dst ← tileDst x
  let d := dst.desc
  needType (isFPA d.typ || isINTS d.typ)
  runFull dst fun i =>
    pure ((List.range d.vcols).map fun j =>
      let v := a.toInt + Int.ofNat i * b.toInt + Int.ofNat j
      if isINTS d.typ then cvtInt d.typ (satOf x) v else cvtReal d.typ (rmOf x) (satOf x) (FV.ofInt v))

/-- TFILL: the low bits of a scalar. -/
def fill (x : Args) : Exec Unit := do
  let a ← readSrc 1 x.a
  let dst ← tileDst x
  let d := dst.desc
  needType (d.typ != 0x15)
  runFull dst fun _ => pure (List.replicate d.vcols (a.toNat % 2 ^ d.bits))

/-! The instructions. -/

def execTtrn (x : Args) (s : State) : Host.Outcome State Fault Refusal :=
  run (.one 0x90#8 0#4 x) .ttrn (transpose x) s

def execTperm (x : Args) (s : State) : Host.Outcome State Fault Refusal :=
  run (.one 0x90#8 1#4 x) .tperm (permute x) s

def execTshuf (x : Args) (s : State) : Host.Outcome State Fault Refusal :=
  run (.one 0x90#8 2#4 x) .tperm (shuffle x) s

def execTgath (x : Args) (s : State) : Host.Outcome State Fault Refusal :=
  run (.one 0x90#8 3#4 x) .tperm (gather x) s

def execTscat (x : Args) (s : State) : Host.Outcome State Fault Refusal :=
  run (.one 0x90#8 4#4 x) .tscat (scatter x) s

def execTbcr (x : Args) (s : State) : Host.Outcome State Fault Refusal :=
  run (.one 0x90#8 5#4 x) .ttrn (bcastRow x) s

def execTbcc (x : Args) (s : State) : Host.Outcome State Fault Refusal :=
  run (.one 0x90#8 6#4 x) .ttrn (bcastCol x) s

def execTbcs (x : Args) (s : State) : Host.Outcome State Fault Refusal :=
  run (.one 0x90#8 7#4 x) .tbcs (bcastScalar x) s

def execTmov (x : Args) (s : State) : Host.Outcome State Fault Refusal :=
  run (.one 0x91#8 0#4 x) .ttrn (moveTile x) s

def execText (x : Args) (s : State) : Host.Outcome State Fault Refusal :=
  run (.one 0x91#8 1#4 x) .text (extract x) s

def execTins (x : Args) (s : State) : Host.Outcome State Fault Refusal :=
  run (.one 0x91#8 2#4 x) .tins (insertTile x) s

def execTiota (x : Args) (s : State) : Host.Outcome State Fault Refusal :=
  run (.one 0x91#8 3#4 x) .tiota (iota x) s

def execTfill (x : Args) (s : State) : Host.Outcome State Fault Refusal :=
  run (.one 0x91#8 4#4 x) .tfill (fill x) s


end Sys2Proof.Machine
end

