-- ==== Sys2Proof/Machine/Dispatch.lean ====
section
/-! DEFINITION. What each instruction and each device event does: one meaning per row of the opcode table. -/
namespace Sys2Proof.Machine

/-- The meaning of an instruction. -/
def exec (i : Instr) (s : State) : Host.Outcome State Fault Refusal :=
  match i with
  | .porstNDeassert => Sys2Proof.Machine.execPorstNDeassert s
  | .railEnWrite w v => Sys2Proof.Machine.execRailEnWrite w v s
  | .railPowerGood rail => Sys2Proof.Machine.execRailPowerGood rail s
  | .railFault rail => Sys2Proof.Machine.execRailFault rail s
  | .rstCtlWrite w v => Sys2Proof.Machine.execRstCtlWrite w v s
  | .d2dLinkTrained cl => Sys2Proof.Machine.execD2dLinkTrained cl s
  | .clkCtlWrite w v => Sys2Proof.Machine.execClkCtlWrite w v s
  | .timebaseLock => Sys2Proof.Machine.execTimebaseLock s
  | .dccTick => Sys2Proof.Machine.execDccTick s
  | .refclkLoss other => Sys2Proof.Machine.execRefclkLoss other s
  | .dvfsCtlWrite w v => Sys2Proof.Machine.execDvfsCtlWrite w v s
  | .dvfsTransitionDone cl => Sys2Proof.Machine.execDvfsTransitionDone cl s
  | .pcapCtlWrite w v => Sys2Proof.Machine.execPcapCtlWrite w v s
  | .powerSample pinst pavg => Sys2Proof.Machine.execPowerSample pinst pavg s
  | .cycleSkipEnd => Sys2Proof.Machine.execCycleSkipEnd s
  | .cappingTick power => Sys2Proof.Machine.execCappingTick power s
  | .thmCfgWrite w v => Sys2Proof.Machine.execThmCfgWrite w v s
  | .thermalSample die hbm => Sys2Proof.Machine.execThermalSample die hbm s
  | .thermalActionEnd action => Sys2Proof.Machine.execThermalActionEnd action s
  | .hbmTrnGo n w v => Sys2Proof.Machine.execHbmTrnGo n w v s
  | .hbmPhyReset n w v => Sys2Proof.Machine.execHbmPhyReset n w v s
  | .hbmTrainingStepDone n err spares => Sys2Proof.Machine.execHbmTrainingStepDone n err spares s
  | .patrolScrub block f => Sys2Proof.Machine.execPatrolScrub block f s
  | .optTrnGo p w v => Sys2Proof.Machine.execOptTrnGo p w v s
  | .opticalTrainingStepDone p failed own => Sys2Proof.Machine.execOpticalTrainingStepDone p failed own s
  | .d2dLinkDown cl => Sys2Proof.Machine.execD2dLinkDown cl s
  | .portCtlEnWrite p w v => Sys2Proof.Machine.execPortCtlEnWrite p w v s
  | .portDrained p => Sys2Proof.Machine.execPortDrained p s
  | .portRetrainWrite p w v => Sys2Proof.Machine.execPortRetrainWrite p w v s
  | .portUnlock p w v => Sys2Proof.Machine.execPortUnlock p w v s
  | .portSecretWrite p k w v => Sys2Proof.Machine.execPortSecretWrite p k w v s
  | .flitReceive p bytes => Sys2Proof.Machine.execFlitReceive p bytes s
  | .nakReceive p seq => Sys2Proof.Machine.execNakReceive p seq s
  | .flitSend p => Sys2Proof.Machine.execFlitSend p s
  | .replayTimeout p => Sys2Proof.Machine.execReplayTimeout p s
  | .keepaliveTimeout p => Sys2Proof.Machine.execKeepaliveTimeout p s
  | .ackThreshold p => Sys2Proof.Machine.execAckThreshold p s
  | .sessionExhausted p => Sys2Proof.Machine.execSessionExhausted p s
  | .attestMessageReceive p body => Sys2Proof.Machine.execAttestMessageReceive p body s
  | .retrainTrigger p => Sys2Proof.Machine.execRetrainTrigger p s
  | .retrainDone p full half => Sys2Proof.Machine.execRetrainDone p full half s
  | .lsrSend p => Sys2Proof.Machine.execLsrSend p s
  | .lsrReceive p body => Sys2Proof.Machine.execLsrReceive p body s
  | .lsrTimeout p => Sys2Proof.Machine.execLsrTimeout p s
  | .slotCfgWrite p w v => Sys2Proof.Machine.execSlotCfgWrite p w v s
  | .rotationStart p => Sys2Proof.Machine.execRotationStart p s
  | .slotGuardEnd p => Sys2Proof.Machine.execSlotGuardEnd p s
  | .slotWindowEnd p => Sys2Proof.Machine.execSlotWindowEnd p s
  | .circuitTrained p i1 ok => Sys2Proof.Machine.execCircuitTrained p i1 ok s
  | .routeWrite n w v => Sys2Proof.Machine.execRouteWrite n w v s
  | .rankTableConfigWrite k off w v => Sys2Proof.Machine.execRankTableConfigWrite k off w v s
  | .tsyncCtlWrite w v => Sys2Proof.Machine.execTsyncCtlWrite w v s
  | .tsyncPeriod => Sys2Proof.Machine.execTsyncPeriod s
  | .tsyncReceive m t => Sys2Proof.Machine.execTsyncReceive m t s
  | .remoteRequestReceive m => Sys2Proof.Machine.execRemoteRequestReceive m s
  | .remoteResponseReceive m => Sys2Proof.Machine.execRemoteResponseReceive m s
  | .holdTimeout tag => Sys2Proof.Machine.execHoldTimeout tag s
  | .responseTimeout tag => Sys2Proof.Machine.execResponseTimeout tag s
  | .flitCaddReceive m => Sys2Proof.Machine.execFlitCaddReceive m s
  | .chimReceive m => Sys2Proof.Machine.execChimReceive m s
  | .rsuspReceive m => Sys2Proof.Machine.execRsuspReceive m s
  | .rsackReceive m => Sys2Proof.Machine.execRsackReceive m s
  | .rresumeReceive m => Sys2Proof.Machine.execRresumeReceive m s
  | .colltoExpiry k i1 rank => Sys2Proof.Machine.execColltoExpiry k i1 rank s
  | .rgnEntryWrite off w v => Sys2Proof.Machine.execRgnEntryWrite off w v s
  | .rgnSyncGo w v => Sys2Proof.Machine.execRgnSyncGo w v s
  | .rgnSyncDone => Sys2Proof.Machine.execRgnSyncDone s
  | .hostrdy => Sys2Proof.Machine.execHostrdy s
  | .reload => Sys2Proof.Machine.execReload s
  | .hostrdyTimeout => Sys2Proof.Machine.execHostrdyTimeout s
  | .measExtend w v => Sys2Proof.Machine.execMeasExtend w v s
  | .spdmRequest req => Sys2Proof.Machine.execSpdmRequest req s
  | .hostMemWrite pa data poison => Sys2Proof.Machine.execHostMemWrite pa data poison s
  | .hostMemRead pa n => Sys2Proof.Machine.execHostMemRead pa n s
  | .secondTierReadArrival pa data poison => Sys2Proof.Machine.execSecondTierReadArrival pa data poison s
  | .ringCtlWrite f w v => Sys2Proof.Machine.execRingCtlWrite f w v s
  | .ringRestart f w v => Sys2Proof.Machine.execRingRestart f w v s
  | .ringBaseWrite f off w v => Sys2Proof.Machine.execRingBaseWrite f off w v s
  | .tailWriteCheck f => Sys2Proof.Machine.execTailWriteCheck f s
  | .feQpushPush f w v => Sys2Proof.Machine.execFeQpushPush f w v s
  | .feQpushStop f w v => Sys2Proof.Machine.execFeQpushStop f w v s
  | .queueSpaceFreed f => Sys2Proof.Machine.execQueueSpaceFreed f s
  | .cmdNop k c => Sys2Proof.Machine.execCmdNop k c s
  | .cmdLaunchSlot k c => Sys2Proof.Machine.execCmdLaunchSlot k c s
  | .cmdGraphRun k c => Sys2Proof.Machine.execCmdGraphRun k c s
  | .cmdCoach k c => Sys2Proof.Machine.execCmdCoach k c s
  | .cmdCadd k c => Sys2Proof.Machine.execCmdCadd k c s
  | .cmdCwait k c => Sys2Proof.Machine.execCmdCwait k c s
  | .cmdSlotLoad k c => Sys2Proof.Machine.execCmdSlotLoad k c s
  | .slotLoadDone k slot => Sys2Proof.Machine.execSlotLoadDone k slot s
  | .cmdSlotEvict k c => Sys2Proof.Machine.execCmdSlotEvict k c s
  | .slotEvictDone k slot => Sys2Proof.Machine.execSlotEvictDone k slot s
  | .cmdMigrateFreeze k c => Sys2Proof.Machine.execCmdMigrateFreeze k c s
  | .cmdMigrateThaw k c => Sys2Proof.Machine.execCmdMigrateThaw k c s
  | .cmdQbar k c => Sys2Proof.Machine.execCmdQbar k c s
  | .cmdStamp k c => Sys2Proof.Machine.execCmdStamp k c s
  | .cmdWaitCancel k c => Sys2Proof.Machine.execCmdWaitCancel k c s
  | .completionPost f => Sys2Proof.Machine.execCompletionPost f s
  | .wdogCfgWrite f w v => Sys2Proof.Machine.execWdogCfgWrite f w v s
  | .wdogKick f w v => Sys2Proof.Machine.execWdogKick f w v s
  | .watchdogExpiry f => Sys2Proof.Machine.execWatchdogExpiry f s
  | .t2CfgWrite w v => Sys2Proof.Machine.execT2CfgWrite w v s
  | .partCreate k w v => Sys2Proof.Machine.execPartCreate k w v s
  | .partDestroy k w v => Sys2Proof.Machine.execPartDestroy k w v s
  | .partBusyDone k => Sys2Proof.Machine.execPartBusyDone k s
  | .schedCfgWrite k w v => Sys2Proof.Machine.execSchedCfgWrite k w v s
  | .graphCapture k => Sys2Proof.Machine.execGraphCapture k s
  | .nodeTaskIssue k => Sys2Proof.Machine.execNodeTaskIssue k s
  | .nodeCoachIssue k => Sys2Proof.Machine.execNodeCoachIssue k s
  | .nodeQbarIssue k => Sys2Proof.Machine.execNodeQbarIssue k s
  | .nodeNopIssue k => Sys2Proof.Machine.execNodeNopIssue k s
  | .nodeCancel k => Sys2Proof.Machine.execNodeCancel k s
  | .stepDrained k => Sys2Proof.Machine.execStepDrained k s
  | .sweepClose k => Sys2Proof.Machine.execSweepClose k s
  | .sweepReturn k => Sys2Proof.Machine.execSweepReturn k s
  | .taskStart k t => Sys2Proof.Machine.execTaskStart k t s
  | .jobEnd c => Sys2Proof.Machine.execJobEnd c s
  | .taskEnd k t => Sys2Proof.Machine.execTaskEnd k t s
  | .fatalContextError k t cause => Sys2Proof.Machine.execFatalContextError k t cause s
  | .quantumExpiry c => Sys2Proof.Machine.execQuantumExpiry c s
  | .jobPreemptSave c => Sys2Proof.Machine.execJobPreemptSave c s
  | .jobRestore c j => Sys2Proof.Machine.execJobRestore c j s
  | .residencyChange c => Sys2Proof.Machine.execResidencyChange c s
  | .proxyPortAccess k l a => Sys2Proof.Machine.execProxyPortAccess k l a s
  | .psbDelivery c => Sys2Proof.Machine.execPsbDelivery c s
  | .deadlockFault c => Sys2Proof.Machine.execDeadlockFault c s
  | .shadowConfigWrite k off w v => Sys2Proof.Machine.execShadowConfigWrite k off w v s
  | .ctxResume k w v => Sys2Proof.Machine.execCtxResume k w v s
  | .ptRootWrite k w v => Sys2Proof.Machine.execPtRootWrite k w v s
  | .invGo k w v => Sys2Proof.Machine.execInvGo k w v s
  | .invDone k => Sys2Proof.Machine.execInvDone k s
  | .phaseWriteback c => Sys2Proof.Machine.execPhaseWriteback c s
  | .waitSatisfied c e => Sys2Proof.Machine.execWaitSatisfied c e s
  | .waitaReevaluate ag => Sys2Proof.Machine.execWaitaReevaluate ag s
  | .timedIssue c e => Sys2Proof.Machine.execTimedIssue c e s
  | .exposedPipelineStall c cycles => Sys2Proof.Machine.execExposedPipelineStall c cycles s
  | .serviceEntry c cause aux => Sys2Proof.Machine.execServiceEntry c cause aux s
  | .serviceOpportunity c => Sys2Proof.Machine.execServiceOpportunity c s
  | .doubleFault c cause => Sys2Proof.Machine.execDoubleFault c cause s
  | .cartCommandStart c store => Sys2Proof.Machine.execCartCommandStart c store s
  | .cartCommandComplete c store n => Sys2Proof.Machine.execCartCommandComplete c store n s
  | .cartCommandFail c store => Sys2Proof.Machine.execCartCommandFail c store s
  | .mfCommandComplete c e n => Sys2Proof.Machine.execMfCommandComplete c e n s
  | .mfAsyncFault c e cause => Sys2Proof.Machine.execMfAsyncFault c e cause s
  | .pairRendezvous c => Sys2Proof.Machine.execPairRendezvous c s
  | .rldResponse c id fail => Sys2Proof.Machine.execRldResponse c id fail s
  | .coachStepIssue k i1 rank => Sys2Proof.Machine.execCoachStepIssue k i1 rank s
  | .coachStepSignal k i1 peer => Sys2Proof.Machine.execCoachStepSignal k i1 peer s
  | .coachPairFail k i1 rank peer cause => Sys2Proof.Machine.execCoachPairFail k i1 rank peer cause s
  | .heldAddApply k => Sys2Proof.Machine.execHeldAddApply k s
  | .heldAddExpiry k i1 => Sys2Proof.Machine.execHeldAddExpiry k i1 s
  | .sealEffectPoint c => Sys2Proof.Machine.execSealEffectPoint c s
  | .regWrite w addr v => Sys2Proof.Machine.execRegWrite w addr v s
  | .nop x => Sys2Proof.Machine.execNop x s
  | .add x => Sys2Proof.Machine.execAdd x s
  | .sub x => Sys2Proof.Machine.execSub x s
  | .and x => Sys2Proof.Machine.execAnd x s
  | .or x => Sys2Proof.Machine.execOr x s
  | .xor x => Sys2Proof.Machine.execXor x s
  | .andn x => Sys2Proof.Machine.execAndn x s
  | .shl x => Sys2Proof.Machine.execShl x s
  | .shr x => Sys2Proof.Machine.execShr x s
  | .sar x => Sys2Proof.Machine.execSar x s
  | .rol x => Sys2Proof.Machine.execRol x s
  | .min x => Sys2Proof.Machine.execMin x s
  | .max x => Sys2Proof.Machine.execMax x s
  | .minu x => Sys2Proof.Machine.execMinu x s
  | .maxu x => Sys2Proof.Machine.execMaxu x s
  | .mul x => Sys2Proof.Machine.execMul x s
  | .mulh x => Sys2Proof.Machine.execMulh x s
  | .addi x => Sys2Proof.Machine.execAddi x s
  | .subi x => Sys2Proof.Machine.execSubi x s
  | .andi x => Sys2Proof.Machine.execAndi x s
  | .ori x => Sys2Proof.Machine.execOri x s
  | .xori x => Sys2Proof.Machine.execXori x s
  | .andni x => Sys2Proof.Machine.execAndni x s
  | .shli x => Sys2Proof.Machine.execShli x s
  | .shri x => Sys2Proof.Machine.execShri x s
  | .sari x => Sys2Proof.Machine.execSari x s
  | .roli x => Sys2Proof.Machine.execRoli x s
  | .mini x => Sys2Proof.Machine.execMini x s
  | .maxi x => Sys2Proof.Machine.execMaxi x s
  | .minui x => Sys2Proof.Machine.execMinui x s
  | .maxui x => Sys2Proof.Machine.execMaxui x s
  | .muli x => Sys2Proof.Machine.execMuli x s
  | .mulhi x => Sys2Proof.Machine.execMulhi x s
  | .mulhu x => Sys2Proof.Machine.execMulhu x s
  | .div x => Sys2Proof.Machine.execDiv x s
  | .divu x => Sys2Proof.Machine.execDivu x s
  | .rem x => Sys2Proof.Machine.execRem x s
  | .remu x => Sys2Proof.Machine.execRemu x s
  | .cmpEq x => Sys2Proof.Machine.execCmpEq x s
  | .cmpNe x => Sys2Proof.Machine.execCmpNe x s
  | .cmpLt x => Sys2Proof.Machine.execCmpLt x s
  | .cmpLe x => Sys2Proof.Machine.execCmpLe x s
  | .cmpLtu x => Sys2Proof.Machine.execCmpLtu x s
  | .cmpLeu x => Sys2Proof.Machine.execCmpLeu x s
  | .cmpGt x => Sys2Proof.Machine.execCmpGt x s
  | .cmpGe x => Sys2Proof.Machine.execCmpGe x s
  | .cmpGtu x => Sys2Proof.Machine.execCmpGtu x s
  | .cmpGeu x => Sys2Proof.Machine.execCmpGeu x s
  | .cmpiEq x => Sys2Proof.Machine.execCmpiEq x s
  | .cmpiNe x => Sys2Proof.Machine.execCmpiNe x s
  | .cmpiLt x => Sys2Proof.Machine.execCmpiLt x s
  | .cmpiLe x => Sys2Proof.Machine.execCmpiLe x s
  | .cmpiLtu x => Sys2Proof.Machine.execCmpiLtu x s
  | .cmpiLeu x => Sys2Proof.Machine.execCmpiLeu x s
  | .cmpiGt x => Sys2Proof.Machine.execCmpiGt x s
  | .cmpiGe x => Sys2Proof.Machine.execCmpiGe x s
  | .cmpiGtu x => Sys2Proof.Machine.execCmpiGtu x s
  | .cmpiGeu x => Sys2Proof.Machine.execCmpiGeu x s
  | .movi x => Sys2Proof.Machine.execMovi x s
  | .movhi x => Sys2Proof.Machine.execMovhi x s
  | .clz x => Sys2Proof.Machine.execClz x s
  | .ctz x => Sys2Proof.Machine.execCtz x s
  | .popc x => Sys2Proof.Machine.execPopc x s
  | .brev x => Sys2Proof.Machine.execBrev x s
  | .bswap x => Sys2Proof.Machine.execBswap x s
  | .sext8 x => Sys2Proof.Machine.execSext8 x s
  | .sext16 x => Sys2Proof.Machine.execSext16 x s
  | .sext32 x => Sys2Proof.Machine.execSext32 x s
  | .zext8 x => Sys2Proof.Machine.execZext8 x s
  | .zext16 x => Sys2Proof.Machine.execZext16 x s
  | .zext32 x => Sys2Proof.Machine.execZext32 x s
  | .shadd x => Sys2Proof.Machine.execShadd x s
  | .alignup x => Sys2Proof.Machine.execAlignup x s
  | .aligndn x => Sys2Proof.Machine.execAligndn x s
  | .mzip x => Sys2Proof.Machine.execMzip x s
  | .meven x => Sys2Proof.Machine.execMeven x s
  | .modd x => Sys2Proof.Machine.execModd x s
  | .maddx x => Sys2Proof.Machine.execMaddx x s
  | .maddy x => Sys2Proof.Machine.execMaddy x s
  | .gand x => Sys2Proof.Machine.execGand x s
  | .gor x => Sys2Proof.Machine.execGor x s
  | .gxor x => Sys2Proof.Machine.execGxor x s
  | .gandn x => Sys2Proof.Machine.execGandn x s
  | .gset x => Sys2Proof.Machine.execGset x s
  | .gget x => Sys2Proof.Machine.execGget x s
  | .mov x => Sys2Proof.Machine.execMov x s
  | .sel x => Sys2Proof.Machine.execSel x s
  | .faddS x => Sys2Proof.Machine.execFaddS x s
  | .fsubS x => Sys2Proof.Machine.execFsubS x s
  | .fmulS x => Sys2Proof.Machine.execFmulS x s
  | .fdivS x => Sys2Proof.Machine.execFdivS x s
  | .fsqrtS x => Sys2Proof.Machine.execFsqrtS x s
  | .fminS x => Sys2Proof.Machine.execFminS x s
  | .fmaxS x => Sys2Proof.Machine.execFmaxS x s
  | .fmaS x => Sys2Proof.Machine.execFmaS x s
  | .fmsS x => Sys2Proof.Machine.execFmsS x s
  | .fnmaS x => Sys2Proof.Machine.execFnmaS x s
  | .fabsS x => Sys2Proof.Machine.execFabsS x s
  | .fnegS x => Sys2Proof.Machine.execFnegS x s
  | .faddD x => Sys2Proof.Machine.execFaddD x s
  | .fsubD x => Sys2Proof.Machine.execFsubD x s
  | .fmulD x => Sys2Proof.Machine.execFmulD x s
  | .fdivD x => Sys2Proof.Machine.execFdivD x s
  | .fsqrtD x => Sys2Proof.Machine.execFsqrtD x s
  | .fminD x => Sys2Proof.Machine.execFminD x s
  | .fmaxD x => Sys2Proof.Machine.execFmaxD x s
  | .fmaD x => Sys2Proof.Machine.execFmaD x s
  | .fmsD x => Sys2Proof.Machine.execFmsD x s
  | .fnmaD x => Sys2Proof.Machine.execFnmaD x s
  | .fabsD x => Sys2Proof.Machine.execFabsD x s
  | .fnegD x => Sys2Proof.Machine.execFnegD x s
  | .fcmpEq x => Sys2Proof.Machine.execFcmpEq x s
  | .fcmpLt x => Sys2Proof.Machine.execFcmpLt x s
  | .fcmpLe x => Sys2Proof.Machine.execFcmpLe x s
  | .fcmpUn x => Sys2Proof.Machine.execFcmpUn x s
  | .fcvtSD x => Sys2Proof.Machine.execFcvtSD x s
  | .fcvtDS x => Sys2Proof.Machine.execFcvtDS x s
  | .fcvtSL x => Sys2Proof.Machine.execFcvtSL x s
  | .fcvtDL x => Sys2Proof.Machine.execFcvtDL x s
  | .fcvtSLu x => Sys2Proof.Machine.execFcvtSLu x s
  | .fcvtDLu x => Sys2Proof.Machine.execFcvtDLu x s
  | .fcvtLS x => Sys2Proof.Machine.execFcvtLS x s
  | .fcvtLD x => Sys2Proof.Machine.execFcvtLD x s
  | .fcvtLuS x => Sys2Proof.Machine.execFcvtLuS x s
  | .fcvtLuD x => Sys2Proof.Machine.execFcvtLuD x s
  | .fcvtBS x => Sys2Proof.Machine.execFcvtBS x s
  | .fcvtHS x => Sys2Proof.Machine.execFcvtHS x s
  | .fcvtSB x => Sys2Proof.Machine.execFcvtSB x s
  | .fcvtSH x => Sys2Proof.Machine.execFcvtSH x s
  | .ldB x => Sys2Proof.Machine.execLdB x s
  | .ldBu x => Sys2Proof.Machine.execLdBu x s
  | .ldH x => Sys2Proof.Machine.execLdH x s
  | .ldHu x => Sys2Proof.Machine.execLdHu x s
  | .ldW x => Sys2Proof.Machine.execLdW x s
  | .ldWu x => Sys2Proof.Machine.execLdWu x s
  | .ldD x => Sys2Proof.Machine.execLdD x s
  | .stB x => Sys2Proof.Machine.execStB x s
  | .stH x => Sys2Proof.Machine.execStH x s
  | .stW x => Sys2Proof.Machine.execStW x s
  | .stD x => Sys2Proof.Machine.execStD x s
  | .ldspB x => Sys2Proof.Machine.execLdspB x s
  | .ldspBu x => Sys2Proof.Machine.execLdspBu x s
  | .ldspH x => Sys2Proof.Machine.execLdspH x s
  | .ldspHu x => Sys2Proof.Machine.execLdspHu x s
  | .ldspW x => Sys2Proof.Machine.execLdspW x s
  | .ldspWu x => Sys2Proof.Machine.execLdspWu x s
  | .ldspD x => Sys2Proof.Machine.execLdspD x s
  | .stspB x => Sys2Proof.Machine.execStspB x s
  | .stspH x => Sys2Proof.Machine.execStspH x s
  | .stspW x => Sys2Proof.Machine.execStspW x s
  | .stspD x => Sys2Proof.Machine.execStspD x s
  | .rldB x => Sys2Proof.Machine.execRldB x s
  | .rldBu x => Sys2Proof.Machine.execRldBu x s
  | .rldH x => Sys2Proof.Machine.execRldH x s
  | .rldHu x => Sys2Proof.Machine.execRldHu x s
  | .rldW x => Sys2Proof.Machine.execRldW x s
  | .rldWu x => Sys2Proof.Machine.execRldWu x s
  | .rldD x => Sys2Proof.Machine.execRldD x s
  | .atomAdd x => Sys2Proof.Machine.execAtomAdd x s
  | .atomAnd x => Sys2Proof.Machine.execAtomAnd x s
  | .atomOr x => Sys2Proof.Machine.execAtomOr x s
  | .atomXor x => Sys2Proof.Machine.execAtomXor x s
  | .atomMin x => Sys2Proof.Machine.execAtomMin x s
  | .atomMax x => Sys2Proof.Machine.execAtomMax x s
  | .atomMinu x => Sys2Proof.Machine.execAtomMinu x s
  | .atomMaxu x => Sys2Proof.Machine.execAtomMaxu x s
  | .atomSwap x => Sys2Proof.Machine.execAtomSwap x s
  | .atomCas x => Sys2Proof.Machine.execAtomCas x s
  | .br x => Sys2Proof.Machine.execBr x s
  | .call x => Sys2Proof.Machine.execCall x s
  | .jr x => Sys2Proof.Machine.execJr x s
  | .loop x => Sys2Proof.Machine.execLoop x s
  | .beos x => Sys2Proof.Machine.execBeos x s
  | .join x => Sys2Proof.Machine.execJoin x s
  | .halt x => Sys2Proof.Machine.execHalt x s
  | .yield x => Sys2Proof.Machine.execYield x s
  | .svc x => Sys2Proof.Machine.execSvc x s
  | .eret x => Sys2Proof.Machine.execEret x s
  | .cadd x => Sys2Proof.Machine.execCadd x s
  | .caddi x => Sys2Proof.Machine.execCaddi x s
  | .cwait x => Sys2Proof.Machine.execCwait x s
  | .crd x => Sys2Proof.Machine.execCrd x s
  | .cinit x => Sys2Proof.Machine.execCinit x s
  | .caddM x => Sys2Proof.Machine.execCaddM x s
  | .cwaitM x => Sys2Proof.Machine.execCwaitM x s
  | .waita x => Sys2Proof.Machine.execWaita x s
  | .fenceRel x => Sys2Proof.Machine.execFenceRel x s
  | .fenceAcq x => Sys2Proof.Machine.execFenceAcq x s
  | .fenceAr x => Sys2Proof.Machine.execFenceAr x s
  | .sealRange x => Sys2Proof.Machine.execSealRange x s
  | .unsealRange x => Sys2Proof.Machine.execUnsealRange x s
  | .qbar x => Sys2Proof.Machine.execQbar x s
  | .dqpush x => Sys2Proof.Machine.execDqpush x s
  | .dqpop x => Sys2Proof.Machine.execDqpop x s
  | .dqsteal x => Sys2Proof.Machine.execDqsteal x s
  | .dqlen x => Sys2Proof.Machine.execDqlen x s
  | .launch x => Sys2Proof.Machine.execLaunch x s
  | .launchT x => Sys2Proof.Machine.execLaunchT x s
  | .xpose x => Sys2Proof.Machine.execXpose x s
  | .csrr x => Sys2Proof.Machine.execCsrr x s
  | .csrw x => Sys2Proof.Machine.execCsrw x s
  | .csrs x => Sys2Proof.Machine.execCsrs x s
  | .csrc x => Sys2Proof.Machine.execCsrc x s
  | .rprobe x => Sys2Proof.Machine.execRprobe x s
  | .rttld x => Sys2Proof.Machine.execRttld x s
  | .pbind x => Sys2Proof.Machine.execPbind x s
  | .punbind x => Sys2Proof.Machine.execPunbind x s
  | .ppos x => Sys2Proof.Machine.execPpos x s
  | .tcfg x => Sys2Proof.Machine.execTcfg x s
  | .tcfgZ x => Sys2Proof.Machine.execTcfgZ x s
  | .tval x => Sys2Proof.Machine.execTval x s
  | .tdesc x => Sys2Proof.Machine.execTdesc x s
  | .tld x => Sys2Proof.Machine.execTld x s
  | .tst x => Sys2Proof.Machine.execTst x s
  | .tadd x => Sys2Proof.Machine.execTadd x s
  | .tsub x => Sys2Proof.Machine.execTsub x s
  | .tmul x => Sys2Proof.Machine.execTmul x s
  | .tdiv x => Sys2Proof.Machine.execTdiv x s
  | .tmin x => Sys2Proof.Machine.execTmin x s
  | .tmax x => Sys2Proof.Machine.execTmax x s
  | .tand x => Sys2Proof.Machine.execTand x s
  | .tor x => Sys2Proof.Machine.execTor x s
  | .txor x => Sys2Proof.Machine.execTxor x s
  | .tshl x => Sys2Proof.Machine.execTshl x s
  | .tshr x => Sys2Proof.Machine.execTshr x s
  | .tabsd x => Sys2Proof.Machine.execTabsd x s
  | .tfma x => Sys2Proof.Machine.execTfma x s
  | .tfms x => Sys2Proof.Machine.execTfms x s
  | .tfnma x => Sys2Proof.Machine.execTfnma x s
  | .tsel x => Sys2Proof.Machine.execTsel x s
  | .tabs x => Sys2Proof.Machine.execTabs x s
  | .tneg x => Sys2Proof.Machine.execTneg x s
  | .tsqrt x => Sys2Proof.Machine.execTsqrt x s
  | .trcp x => Sys2Proof.Machine.execTrcp x s
  | .trsq x => Sys2Proof.Machine.execTrsq x s
  | .texp2 x => Sys2Proof.Machine.execTexp2 x s
  | .texp x => Sys2Proof.Machine.execTexp x s
  | .tlog2 x => Sys2Proof.Machine.execTlog2 x s
  | .tln x => Sys2Proof.Machine.execTln x s
  | .tsin x => Sys2Proof.Machine.execTsin x s
  | .tcos x => Sys2Proof.Machine.execTcos x s
  | .ttanh x => Sys2Proof.Machine.execTtanh x s
  | .tsigm x => Sys2Proof.Machine.execTsigm x s
  | .tcmpEq x => Sys2Proof.Machine.execTcmpEq x s
  | .tcmpNe x => Sys2Proof.Machine.execTcmpNe x s
  | .tcmpLt x => Sys2Proof.Machine.execTcmpLt x s
  | .tcmpLe x => Sys2Proof.Machine.execTcmpLe x s
  | .tcmpGt x => Sys2Proof.Machine.execTcmpGt x s
  | .tcmpGe x => Sys2Proof.Machine.execTcmpGe x s
  | .tcmpUn x => Sys2Proof.Machine.execTcmpUn x s
  | .tcmul x => Sys2Proof.Machine.execTcmul x s
  | .tconj x => Sys2Proof.Machine.execTconj x s
  | .tcmulc x => Sys2Proof.Machine.execTcmulc x s
  | .tcvt x => Sys2Proof.Machine.execTcvt x s
  | .tcvtSc x => Sys2Proof.Machine.execTcvtSc x s
  | .tdq x => Sys2Proof.Machine.execTdq x s
  | .trsum x => Sys2Proof.Machine.execTrsum x s
  | .trmax x => Sys2Proof.Machine.execTrmax x s
  | .trmin x => Sys2Proof.Machine.execTrmin x s
  | .tcsum x => Sys2Proof.Machine.execTcsum x s
  | .tcmax x => Sys2Proof.Machine.execTcmax x s
  | .tcmin x => Sys2Proof.Machine.execTcmin x s
  | .tscanAdd x => Sys2Proof.Machine.execTscanAdd x s
  | .tscanMax x => Sys2Proof.Machine.execTscanMax x s
  | .ttrn x => Sys2Proof.Machine.execTtrn x s
  | .tperm x => Sys2Proof.Machine.execTperm x s
  | .tshuf x => Sys2Proof.Machine.execTshuf x s
  | .tgath x => Sys2Proof.Machine.execTgath x s
  | .tscat x => Sys2Proof.Machine.execTscat x s
  | .tbcr x => Sys2Proof.Machine.execTbcr x s
  | .tbcc x => Sys2Proof.Machine.execTbcc x s
  | .tbcs x => Sys2Proof.Machine.execTbcs x s
  | .tmov x => Sys2Proof.Machine.execTmov x s
  | .text x => Sys2Proof.Machine.execText x s
  | .tins x => Sys2Proof.Machine.execTins x s
  | .tiota x => Sys2Proof.Machine.execTiota x s
  | .tfill x => Sys2Proof.Machine.execTfill x s
  | .mmaFp8 x => Sys2Proof.Machine.execMmaFp8 x s
  | .mmaFp6 x => Sys2Proof.Machine.execMmaFp6 x s
  | .mmaFp4 x => Sys2Proof.Machine.execMmaFp4 x s
  | .mmaBf16 x => Sys2Proof.Machine.execMmaBf16 x s
  | .mmaFp16 x => Sys2Proof.Machine.execMmaFp16 x s
  | .mmaFp32 x => Sys2Proof.Machine.execMmaFp32 x s
  | .mmaFp64 x => Sys2Proof.Machine.execMmaFp64 x s
  | .mmaInt8 x => Sys2Proof.Machine.execMmaInt8 x s
  | .accld x => Sys2Proof.Machine.execAccld x s
  | .accst x => Sys2Proof.Machine.execAccst x s
  | .accclr x => Sys2Proof.Machine.execAccclr x s
  | .accstg x => Sys2Proof.Machine.execAccstg x s
  | .fft x => Sys2Proof.Machine.execFft x s
  | .ifft x => Sys2Proof.Machine.execIfft x s
  | .rfft x => Sys2Proof.Machine.execRfft x s
  | .irfft x => Sys2Proof.Machine.execIrfft x s
  | .fplan x => Sys2Proof.Machine.execFplan x s
  | .leggen x => Sys2Proof.Machine.execLeggen x s
  | .ftwm x => Sys2Proof.Machine.execFtwm x s
  | .ccopy x => Sys2Proof.Machine.execCcopy x s
  | .cmort x => Sys2Proof.Machine.execCmort x s
  | .cgath x => Sys2Proof.Machine.execCgath x s
  | .cscat x => Sys2Proof.Machine.execCscat x s
  | .cred x => Sys2Proof.Machine.execCred x s
  | .ired x => Sys2Proof.Machine.execIred x s
  | .atomnAdd x => Sys2Proof.Machine.execAtomnAdd x s
  | .atomnAnd x => Sys2Proof.Machine.execAtomnAnd x s
  | .atomnOr x => Sys2Proof.Machine.execAtomnOr x s
  | .atomnXor x => Sys2Proof.Machine.execAtomnXor x s
  | .atomnMin x => Sys2Proof.Machine.execAtomnMin x s
  | .atomnMax x => Sys2Proof.Machine.execAtomnMax x s
  | .atomnMinu x => Sys2Proof.Machine.execAtomnMinu x s
  | .atomnMaxu x => Sys2Proof.Machine.execAtomnMaxu x s
  | .atomnSwap x => Sys2Proof.Machine.execAtomnSwap x s
  | .put x => Sys2Proof.Machine.execPut x s
  | .get x => Sys2Proof.Machine.execGet x s
  | .porstNAssert => Sys2Proof.Machine.execPorstNAssert s
  | .vauxLoss => Sys2Proof.Machine.execVauxLoss s
  | .writeAccepted c => Sys2Proof.Machine.execWriteAccepted c s
  | .bootWindowWrite off data => Sys2Proof.Machine.execBootWindowWrite off data s
  | .unassignedOpcode cause => Sys2Proof.Machine.execUnassignedOpcode cause s

end Sys2Proof.Machine
end

