-- ==== Sys2Proof/Machine/Step.lean ====
section
/-! DEFINITION. A step: the next turn, by the order laid down in the state or by an open choice; an agent's turn fetches, decodes and
executes one instruction, an event's turn is its meaning. -/
namespace Sys2Proof.Machine

/-- A turn of an agent. -/
noncomputable def issue (a : Agent) (s : State) : Host.Outcome State Fault Refusal :=
  match s.fetched a with
  | .error _ t => .next t
  | .ok ws t => exec (decodeSlot ws) t

/-- A turn. -/
noncomputable def takeTurn (t : Turn) (s : State) : Host.Outcome State Fault Refusal :=
  match t with
  | .event i => if isEvent i then exec i s else .next s
  | .agent a => if agentExists a then issue a s else .fault .noSuchAgent

/-- One step of the machine. -/
noncomputable def step (s : State) : Host.Outcome State Fault Refusal :=
  match s.sched with
  | t :: rest => takeTurn t { s with sched := rest }
  | [] =>
    match s.nextAgent with
    | none => .next s
    | some a => issue a { s with tick := s.tick + 1 }

/-- The state with an instruction placed where its agent fetches next, and that agent's turn next. -/
noncomputable def State.withFetchWord (s : State) (nbits w : Nat) : State :=
  let a := homeAgent (decodeTableWord nbits w)
  let v := w % 2 ^ nbits
  let ws := (List.range (slotsOf (BitVec.ofNat 64 v))).map fun i => BitVec.ofNat 64 (v / 2 ^ (64 * i))
  { s.placeCode a ws with sched := .agent a :: s.sched }

end Sys2Proof.Machine
end

