-- ==== Sys2Proof/Safety.lean ====
section
/-! DEFINITION. What counts as a safe run, and the words in which claims speak of an instruction: when it issues, and the shapes of
its effect on its operands. -/
namespace Sys2Proof.Machine

/-- A step that answers a next state. -/
def Runs (s t : State) : Prop := step s = .next t

/-- The states that `n` steps lead to. -/
def RunsIn : Nat → State → State → Prop
  | 0, s, t => s = t
  | n + 1, s, t => ∃ u, Runs s u ∧ RunsIn n u t

/-- A safe state: none of its runs meets a fault or a refusal. -/
def Safe (s : State) : Prop := ∀ n t, RunsIn n s t → ∃ u, Runs t u

/-- No result of the instruction waits for its push alone (R286). -/
def Hart.unpushed (h : Hart) : Prop := h.restartHere.opnds.find? (fun o => o.which == 0 && ! o.tile) = none

/-- An instruction issues: its encoding raises no fault for its executor (R360, R406), its guard holds (R353), and it has not been
executed up to its push. -/
def Issues (i : Instr) (s : State) : Prop :=
  ∃ e sh, i.enc = some e ∧ i.shape = some sh ∧ encFaultOf s.cur.who e sh = none ∧ (s.hart s.cur).guardOk e.args.g = true ∧
    (s.hart s.cur).unpushed

/-- The executing agent issues nothing else meanwhile: its context, changed. -/
def State.withHart (s : State) (f : Hart → Hart) : State := s.setHart s.cur (f (s.hart s.cur))

/-- The sticky flags of a result collected (R328). -/
def State.flagged (s : State) (f : Flags) : State := s.withHart fun h => h.addFlags f

/-- A core's fault queue with a record written at its tail (R263). -/
def State.recorded (s : State) (c : Nat) (rec : List Byte) : State :=
  s.updCore c fun x => { x with svcMem := Map.setN (fun _ => 0#8) x.svcMem (64 * x.fqTail) rec, fqTail := (x.fqTail + 1) % 16 }

/-! The named places of the state, changed. -/

def State.putField (s : State) (o lo n v : Nat) : State := s.setReg o (Word.setBits (s.reg o) lo n v)
def State.putFlag (s : State) (o i : Nat) (b : Bool) : State := s.putField o i 1 b.toNat

/-- A write of a register as its access types have it (R6). -/
def State.wrote (s : State) (o : Nat) (v : Word) : State :=
  match regSpec o with
  | some sp => s.setReg o (sp.write (s.reg o) v)
  | none => s

def State.onPower (s : State) (f : Power → Power) : State := { s with power := f s.power }
def State.onBoot (s : State) (f : Boot → Boot) : State := { s with boot := f s.boot }
def State.onLink (s : State) (p : Nat) (f : Link → Link) : State :=
  { s with links := Map.set (fun _ => Link.reset) s.links p (f (s.link p)) }
def State.onSess (s : State) (p key : Nat) (f : Session → Session) : State :=
  s.onLink p fun l => { l with sess := Map.upd (fun _ => Session.fresh) l.sess key f }

/-- A field of LINK_ERR counted up (R73). -/
def State.counted (s : State) (p lo : Nat) : State :=
  s.putField (Reg.linkErr p) lo 16 (min (s.field (Reg.linkErr p) lo 16 + 1) 0xFFFF)

/-- A completion event of partition `k` (R151). -/
def State.posted (s : State) (k : Nat) (c : Cpl) : State := s.updPart k fun p => { p with cpl := p.cpl ++ [c] }

/-- A counter pair of the custody nodes (R189). -/
def State.inCustody (s : State) (k node recv sent : Nat) : State :=
  s.updPart k fun p => { p with custody := addNode p.custody node recv sent }

/-- A message for this package that a port accepts: its ingress node has received and sent it, where it counts there (R99). -/
def State.accepting (s : State) (m : Msg) : State :=
  if Sys2Proof.Machine.counted m.typ then { s with nodesI := addNode s.nodesI (s.cameBy m) 1 1 } else s

/-- A Coach transfer of partition `k` changed. -/
def State.onTransfer (s : State) (k i : Nat) (f : Transfer → Transfer) : State :=
  s.updPart k fun p =>
    match Map.find p.transfers i with
    | some t => { p with transfers := Map.insert p.transfers i (f t) }
    | none => p

/-- The head of class `c`, a host entry of a kind, dispatches: nothing holds it (R160, R166), its wait is met, and it has gained what its
wait observed (R145). -/
def Dispatches (k c kind : Nat) (e : QEntry) (s t : State) : Prop :=
  ∃ e0 rels, hostHead k c kind s = .ok e0 s ∧ entryWait k e0 s = .ok (.met rels) t ∧
    e = { e0 with gained := if entAcq e0.bytes then rels else [] }

/-! The canonical form of the state: every sparse array of it that a statement speaks of lists no index twice and no default. -/

def Hart.canonical (h : Hart) : Bool := Map.wf (fun _ => 0#64) h.s && Map.wf (fun _ => false) h.g

/-- Memory, the registers, the contexts, the cores and the counts of Flue records stand in canonical form. -/
def State.canonical (s : State) : Bool :=
  Memory.wf s.mem && Map.wf regReset s.regs && Map.wf (fun _ => Hart.reset) s.harts && Map.wf (fun _ => Core.reset) s.cores &&
  Map.wf (fun _ => 0) s.flueCnt

/-- Every listed context, those of saved jobs too, has its scalar registers and guards in canonical form. -/
def State.filesCanonical (s : State) : Bool :=
  (s.harts.all fun e => e.2.canonical) && s.frames.all fun e => e.2.harts.all Hart.canonical

/-! Shapes of effect: the operands are evaluated in order, each leaving the state the next is evaluated in (R238); then D takes the
result and the instruction is past. -/

/-- D := f. -/
def Constant (i : Args → Instr) (f : Args → Word) : Prop :=
  ∀ x s t, Issues (i x) s → finish x.d (f x) s = .ok () t → exec (i x) s = .next t

/-- D := f(A). -/
def Unary (i : Args → Instr) (f : Word → Word) : Prop :=
  ∀ x s a s1 t, Issues (i x) s → readSrc 1 x.a s = .ok a s1 → finish x.d (f a) s1 = .ok () t → exec (i x) s = .next t

/-- D := f(A, B). -/
def Binary (i : Args → Instr) (f : Word → Word → Word) : Prop :=
  ∀ x s a b s1 s2 t, Issues (i x) s → readSrc 1 x.a s = .ok a s1 → readSrc 2 x.b s1 = .ok b s2 →
    finish x.d (f a b) s2 = .ok () t → exec (i x) s = .next t

/-- D := f(A, imm), imm being SIMM sign-extended (R373). -/
def Immediate (i : Args → Instr) (f : Word → Word → Word) : Prop :=
  ∀ x s a s1 t, Issues (i x) s → readSrc 1 x.a s = .ok a s1 → finish x.d (f a (x.imm.signExtend 64)) s1 = .ok () t →
    exec (i x) s = .next t

/-- The guard D := f(A, B), A and B guards. -/
def OfGuards (i : Args → Instr) (f : Bool → Bool → Bool) : Prop :=
  ∀ x s a b s1 s2 t, Issues (i x) s → readGuard x.a s = .ok a s1 → readGuard x.b s1 = .ok b s2 →
    finish x.d (boolWord (f a b)) s2 = .ok () t → exec (i x) s = .next t

/-- D := f(A, B) with sticky flags, by a function of the instruction's conversion control. -/
def BinaryFp (i : Args → Instr) (f : Args → Word → Word → Nat × Flags) : Prop :=
  ∀ x s a b s1 s2 t, Issues (i x) s → readSrc 1 x.a s = .ok a s1 → readSrc 2 x.b s1 = .ok b s2 →
    finish x.d (BitVec.ofNat 64 (f x a b).1) (s2.flagged (f x a b).2) = .ok () t → exec (i x) s = .next t

def UnaryFp (i : Args → Instr) (f : Args → Word → Nat × Flags) : Prop :=
  ∀ x s a s1 t, Issues (i x) s → readSrc 1 x.a s = .ok a s1 →
    finish x.d (BitVec.ofNat 64 (f x a).1) (s1.flagged (f x a).2) = .ok () t → exec (i x) s = .next t

def TernaryFp (i : Args → Instr) (f : Args → Word → Word → Word → Nat × Flags) : Prop :=
  ∀ x s a b c s1 s2 s3 t, Issues (i x) s → readSrc 1 x.a s = .ok a s1 → readSrc 2 x.b s1 = .ok b s2 →
    readSrc 3 x.c s2 = .ok c s3 → finish x.d (BitVec.ofNat 64 (f x a b c).1) (s3.flagged (f x a b c).2) = .ok () t →
    exec (i x) s = .next t

end Sys2Proof.Machine
end

