-- ==== Sys2Proof/Certificates/Slice0/Obligations.lean ====
section
/-! DEFINITION. The statements for the provers: each obligation is the conjunction of the claims it names, written out above it. -/
open Sys2Proof Sys2Proof.Machine

namespace Claims

/-! Scalar instructions (chapter 11). -/

/-- R374: the sixteen members of ALU and the sixteen of ALUI compute D := A op B, B being imm in ALUI; shift and rotate counts are
B[5:0]. -/
def AluResults : Prop :=
  Binary .add (fun a b => a + b) ∧ Binary .sub (fun a b => a - b) ∧ Binary .and (fun a b => a &&& b) ∧
  Binary .or (fun a b => a ||| b) ∧ Binary .xor (fun a b => a ^^^ b) ∧ Binary .andn (fun a b => a &&& ~~~b) ∧
  Binary .shl (fun a b => a <<< (b.toNat % 64)) ∧ Binary .shr (fun a b => a >>> (b.toNat % 64)) ∧
  Binary .sar (fun a b => a.sshiftRight (b.toNat % 64)) ∧ Binary .rol (fun a b => a.rotateLeft (b.toNat % 64)) ∧
  Binary .min (fun a b => if a.toInt < b.toInt then a else b) ∧ Binary .max (fun a b => if a.toInt < b.toInt then b else a) ∧
  Binary .minu (fun a b => if a.toNat < b.toNat then a else b) ∧ Binary .maxu (fun a b => if a.toNat < b.toNat then b else a) ∧
  Binary .mul (fun a b => a * b) ∧ Binary .mulh (fun a b => BitVec.ofInt 64 (a.toInt * b.toInt / 2 ^ 64)) ∧
  Immediate .addi (fun a b => a + b) ∧ Immediate .subi (fun a b => a - b) ∧ Immediate .andi (fun a b => a &&& b) ∧
  Immediate .ori (fun a b => a ||| b) ∧ Immediate .xori (fun a b => a ^^^ b) ∧ Immediate .andni (fun a b => a &&& ~~~b) ∧
  Immediate .shli (fun a b => a <<< (b.toNat % 64)) ∧ Immediate .shri (fun a b => a >>> (b.toNat % 64)) ∧
  Immediate .sari (fun a b => a.sshiftRight (b.toNat % 64)) ∧ Immediate .roli (fun a b => a.rotateLeft (b.toNat % 64)) ∧
  Immediate .mini (fun a b => if a.toInt < b.toInt then a else b) ∧
  Immediate .maxi (fun a b => if a.toInt < b.toInt then b else a) ∧
  Immediate .minui (fun a b => if a.toNat < b.toNat then a else b) ∧
  Immediate .maxui (fun a b => if a.toNat < b.toNat then b else a) ∧
  Immediate .muli (fun a b => a * b) ∧ Immediate .mulhi (fun a b => BitVec.ofInt 64 (a.toInt * b.toInt / 2 ^ 64))

/-- R375: MULHU, DIV, DIVU, REM and REMU are members FN 0 to 4 of opcode 0x04; the high half of the unsigned product, quotients
truncated towards zero, remainders A − B × quotient, and the edge cases of a zero divisor and of −2^63 by −1, none of which faults. -/
def MuldivResults : Prop :=
  (∀ x, (Instr.mulhu x).enc = some (.one 0x04#8 0#4 x) ∧ (Instr.div x).enc = some (.one 0x04#8 1#4 x) ∧
    (Instr.divu x).enc = some (.one 0x04#8 2#4 x) ∧ (Instr.rem x).enc = some (.one 0x04#8 3#4 x) ∧
    (Instr.remu x).enc = some (.one 0x04#8 4#4 x)) ∧
  Binary .mulhu (fun a b => BitVec.ofNat 64 (a.toNat * b.toNat / 2 ^ 64)) ∧
  Binary .div (fun a b => if b = 0#64 then 0xFFFFFFFFFFFFFFFF#64 else BitVec.ofInt 64 (a.toInt.tdiv b.toInt)) ∧
  Binary .divu (fun a b => if b = 0#64 then 0xFFFFFFFFFFFFFFFF#64 else BitVec.ofNat 64 (a.toNat / b.toNat)) ∧
  Binary .rem (fun a b => if b = 0#64 then a else BitVec.ofInt 64 (a.toInt - b.toInt * a.toInt.tdiv b.toInt)) ∧
  Binary .remu (fun a b => if b = 0#64 then a else BitVec.ofNat 64 (a.toNat - b.toNat * (a.toNat / b.toNat))) ∧
  (BitVec.ofInt 64 ((0x8000000000000000#64).toInt.tdiv (0xFFFFFFFFFFFFFFFF#64).toInt) = 0x8000000000000000#64 ∧
    BitVec.ofInt 64 ((0x8000000000000000#64).toInt - (0xFFFFFFFFFFFFFFFF#64).toInt *
      (0x8000000000000000#64).toInt.tdiv (0xFFFFFFFFFFFFFFFF#64).toInt) = 0#64)

/-- R376: CMP (0x05) and CMPI (0x06) with their ten members, the plain relations signed and those with U unsigned; a scalar D takes 1 for
true and 0 for false, a guard D the result; and the encoding of the rule's example. -/
def CompareResults : Prop :=
  (∀ x, (Instr.cmpEq x).enc = some (.one 0x05#8 0#4 x) ∧ (Instr.cmpiEq x).enc = some (.one 0x06#8 0#4 x) ∧
    (Instr.cmpNe x).enc = some (.one 0x05#8 1#4 x) ∧ (Instr.cmpiNe x).enc = some (.one 0x06#8 1#4 x) ∧
    (Instr.cmpLt x).enc = some (.one 0x05#8 2#4 x) ∧ (Instr.cmpiLt x).enc = some (.one 0x06#8 2#4 x) ∧
    (Instr.cmpLe x).enc = some (.one 0x05#8 3#4 x) ∧ (Instr.cmpiLe x).enc = some (.one 0x06#8 3#4 x) ∧
    (Instr.cmpLtu x).enc = some (.one 0x05#8 4#4 x) ∧ (Instr.cmpiLtu x).enc = some (.one 0x06#8 4#4 x) ∧
    (Instr.cmpLeu x).enc = some (.one 0x05#8 5#4 x) ∧ (Instr.cmpiLeu x).enc = some (.one 0x06#8 5#4 x) ∧
    (Instr.cmpGt x).enc = some (.one 0x05#8 6#4 x) ∧ (Instr.cmpiGt x).enc = some (.one 0x06#8 6#4 x) ∧
    (Instr.cmpGe x).enc = some (.one 0x05#8 7#4 x) ∧ (Instr.cmpiGe x).enc = some (.one 0x06#8 7#4 x) ∧
    (Instr.cmpGtu x).enc = some (.one 0x05#8 8#4 x) ∧ (Instr.cmpiGtu x).enc = some (.one 0x06#8 8#4 x) ∧
    (Instr.cmpGeu x).enc = some (.one 0x05#8 9#4 x) ∧ (Instr.cmpiGeu x).enc = some (.one 0x06#8 9#4 x)) ∧
  (∀ c n b s, Sel.ofCode c = .s n →
    finish c (boolWord b) s = .ok () ((s.withHart fun h => h.setS n (if b then 1#64 else 0#64)).withHart fun h => h.past 1)) ∧
  (∀ c n b s, Sel.ofCode c = .g n → finish c (boolWord b) s = .ok () ((s.withHart fun h => h.setG n b).withHart fun h => h.past 1)) ∧
  encode (.cmpiNe ⟨0#4, 0x81#8, 0x02#8, 0#8, 0#4, 0#20⟩) = some [0x0610810200000000#64] ∧
  Binary .cmpEq (fun a b => boolWord (a == b)) ∧ Binary .cmpNe (fun a b => boolWord (a != b)) ∧
  Binary .cmpLt (fun a b => boolWord (decide (a.toInt < b.toInt))) ∧ Binary .cmpLe (fun a b => boolWord (decide (a.toInt ≤ b.toInt))) ∧
  Binary .cmpLtu (fun a b => boolWord (decide (a.toNat < b.toNat))) ∧ Binary .cmpLeu (fun a b => boolWord (decide (a.toNat ≤ b.toNat))) ∧
  Binary .cmpGt (fun a b => boolWord (decide (b.toInt < a.toInt))) ∧ Binary .cmpGe (fun a b => boolWord (decide (b.toInt ≤ a.toInt))) ∧
  Binary .cmpGtu (fun a b => boolWord (decide (b.toNat < a.toNat))) ∧ Binary .cmpGeu (fun a b => boolWord (decide (b.toNat ≤ a.toNat))) ∧
  Immediate .cmpiEq (fun a b => boolWord (a == b)) ∧ Immediate .cmpiNe (fun a b => boolWord (a != b)) ∧
  Immediate .cmpiLt (fun a b => boolWord (decide (a.toInt < b.toInt))) ∧
  Immediate .cmpiLe (fun a b => boolWord (decide (a.toInt ≤ b.toInt))) ∧
  Immediate .cmpiLtu (fun a b => boolWord (decide (a.toNat < b.toNat))) ∧
  Immediate .cmpiLeu (fun a b => boolWord (decide (a.toNat ≤ b.toNat))) ∧
  Immediate .cmpiGt (fun a b => boolWord (decide (b.toInt < a.toInt))) ∧
  Immediate .cmpiGe (fun a b => boolWord (decide (b.toInt ≤ a.toInt))) ∧
  Immediate .cmpiGtu (fun a b => boolWord (decide (b.toNat < a.toNat))) ∧
  Immediate .cmpiGeu (fun a b => boolWord (decide (b.toNat ≤ a.toNat)))

/-- R378: the functions of BITS. CLZ and CTZ are stated by what they count: the answer is the number of zero bits above the highest,
and below the lowest, bit that is 1, and 64 for zero. -/
def BitsResults : Prop :=
  (∃ clz ctz popc : Word → Word, ∃ brev bswap : Word → Word,
    (Unary .clz clz ∧ clz 0#64 = 64#64 ∧ ∀ a n, n < 64 → a.getLsbD n = true → (∀ m, n < m → a.getLsbD m = false) → clz a = BitVec.ofNat 64 (63 - n)) ∧
    (Unary .ctz ctz ∧ ctz 0#64 = 64#64 ∧ ∀ a n, a.getLsbD n = true → (∀ m, m < n → a.getLsbD m = false) → ctz a = BitVec.ofNat 64 n) ∧
    (Unary .popc popc ∧ ∀ a, popc a = BitVec.ofNat 64 ((List.range 64).countP fun i => a.getLsbD i)) ∧
    (Unary .brev brev ∧ ∀ a n, n < 64 → (brev a).getLsbD n = a.getLsbD (63 - n)) ∧
    (Unary .bswap bswap ∧ ∀ a n, n < 64 → (bswap a).getLsbD n = a.getLsbD (56 - 8 * (n / 8) + n % 8))) ∧
  Unary .sext8 (fun a => (a.extractLsb' 0 8).signExtend 64) ∧ Unary .sext16 (fun a => (a.extractLsb' 0 16).signExtend 64) ∧
  Unary .sext32 (fun a => (a.extractLsb' 0 32).signExtend 64) ∧ Unary .zext8 (fun a => (a.extractLsb' 0 8).setWidth 64) ∧
  Unary .zext16 (fun a => (a.extractLsb' 0 16).setWidth 64) ∧ Unary .zext32 (fun a => (a.extractLsb' 0 32).setWidth 64)

/-- R381: ADDR. The Morton key of x and y has bit k of x at bit 2k and bit k of y at bit 2k + 1; MEVEN and MODD take a key apart. -/
def AddrResults : Prop :=
  (∀ x s a b s1 s2 t, Issues (.shadd x) s → readSrc 1 x.a s = .ok a s1 → readSrc 2 x.b s1 = .ok b s2 →
    finish x.d (a + b <<< (x.imm.toNat % 8)) s2 = .ok () t → exec (.shadd x) s = .next t) ∧
  Binary .alignup (fun a b => (a + BitVec.ofNat 64 (2 ^ (b.toNat % 64) - 1)) &&& ~~~ BitVec.ofNat 64 (2 ^ (b.toNat % 64) - 1)) ∧
  Binary .aligndn (fun a b => a &&& ~~~ BitVec.ofNat 64 (2 ^ (b.toNat % 64) - 1)) ∧
  (∃ key : Nat → Nat → Word, ∃ even odd : Word → Nat,
    (∀ x y k, k < 32 → (key x y).getLsbD (2 * k) = x.testBit k ∧ (key x y).getLsbD (2 * k + 1) = y.testBit k) ∧
    (∀ w k, k < 32 → (even w).testBit k = w.getLsbD (2 * k) ∧ (odd w).testBit k = w.getLsbD (2 * k + 1)) ∧
    (∀ w, even w < 2 ^ 32 ∧ odd w < 2 ^ 32) ∧
    Binary .mzip (fun a b => key (a.toNat % 2 ^ 32) (b.toNat % 2 ^ 32)) ∧
    Unary .meven (fun a => BitVec.ofNat 64 (even a)) ∧ Unary .modd (fun a => BitVec.ofNat 64 (odd a)) ∧
    Binary .maddx (fun a b => key ((even a + b.toNat % 2 ^ 32) % 2 ^ 32) (odd a)) ∧
    Binary .maddy (fun a b => key (even a) ((odd a + b.toNat % 2 ^ 32) % 2 ^ 32)))

/-- R377, R379, R380, R389: MOVI, MOVHI (which reads D before it writes it), MOV, SEL (which evaluates A and B), the GUARD members, and
NOP, which does nothing but advance. -/
def MoveAndGuardResults : Prop :=
  (∀ x s t, Issues (.movi x) s → finish x.d (x.imm.signExtend 64) s = .ok () t → exec (.movi x) s = .next t) ∧
  (∀ x s d s1 t, Issues (.movhi x) s → readSrc 0 x.d s = .ok d s1 → finish x.d (x.imm ++ d.extractLsb' 0 32) s1 = .ok () t →
    exec (.movhi x) s = .next t) ∧
  Unary .mov (fun a => a) ∧
  (∀ x s a b g s1 s2 s3 t, Issues (.sel x) s → readSrc 1 x.a s = .ok a s1 → readSrc 2 x.b s1 = .ok b s2 →
    readGuard (x.imm.extractLsb' 0 8) s2 = .ok g s3 → finish x.d (if g then a else b) s3 = .ok () t → exec (.sel x) s = .next t) ∧
  OfGuards .gand (fun a b => a && b) ∧ OfGuards .gor (fun a b => a || b) ∧ OfGuards .gxor (fun a b => a != b) ∧
  OfGuards .gandn (fun a b => a && ! b) ∧ Unary .gset (fun a => a) ∧
  (∀ x s a s1 t, Issues (.gget x) s → readGuard x.a s = .ok a s1 → finish x.d (boolWord a) s1 = .ok () t → exec (.gget x) s = .next t) ∧
  (∀ x s t, Issues (.nop x) s → retire 1 s = .ok () t → exec (.nop x) s = .next t)

/-- R383 in FP32 and FP64: each FOP member rounds the exact result once under the instruction's RM and SAT and collects its sticky
flags; FABS and FNEG round nothing. -/
def FopResults : Prop :=
  BinaryFp .faddS (fun x a b => fpResult .fp32 (rmOf x) (satOf x) (FV.add (rmOf x) (fpVal .fp32 a) (fpVal .fp32 b))) ∧
  BinaryFp .fsubS (fun x a b => fpResult .fp32 (rmOf x) (satOf x) (FV.add (rmOf x) (fpVal .fp32 a) (fpVal .fp32 b).negate)) ∧
  BinaryFp .fmulS (fun x a b => fpResult .fp32 (rmOf x) (satOf x) (FV.mul (fpVal .fp32 a) (fpVal .fp32 b))) ∧
  BinaryFp .fdivS (fun x a b => fpDiv .fp32 (rmOf x) (satOf x) (fpVal .fp32 a) (fpVal .fp32 b)) ∧
  UnaryFp .fsqrtS (fun x a => fpResult .fp32 (rmOf x) (satOf x) (FV.sqrt (fpVal .fp32 a))) ∧
  BinaryFp .fminS (fun _ a b => fpMinMax .fp32 false (fpVal .fp32 a) (fpVal .fp32 b)) ∧
  BinaryFp .fmaxS (fun _ a b => fpMinMax .fp32 true (fpVal .fp32 a) (fpVal .fp32 b)) ∧
  TernaryFp .fmaS (fun x a b c => fpResult .fp32 (rmOf x) (satOf x) (FV.fma (rmOf x) (fpVal .fp32 a) (fpVal .fp32 b) (fpVal .fp32 c))) ∧
  TernaryFp .fmsS (fun x a b c => fpResult .fp32 (rmOf x) (satOf x) (FV.fma (rmOf x) (fpVal .fp32 a) (fpVal .fp32 b) (fpVal .fp32 c).negate)) ∧
  TernaryFp .fnmaS (fun x a b c => fpResult .fp32 (rmOf x) (satOf x)
    (FV.fma (rmOf x) (FV.mul (fpVal .fp32 a) (fpVal .fp32 b)).negate (.fin false 1 0) (fpVal .fp32 c))) ∧
  UnaryFp .fabsS (fun _ a => (if (fpVal .fp32 a).isNan then Fmt.fp32.nanBits else a.toNat % 2 ^ 31, 0#5)) ∧
  UnaryFp .fnegS (fun _ a => (if (fpVal .fp32 a).isNan then Fmt.fp32.nanBits else (a.toNat % 2 ^ 32 + 2 ^ 31) % 2 ^ 32, 0#5)) ∧
  BinaryFp .faddD (fun x a b => fpResult .fp64 (rmOf x) (satOf x) (FV.add (rmOf x) (fpVal .fp64 a) (fpVal .fp64 b))) ∧
  BinaryFp .fsubD (fun x a b => fpResult .fp64 (rmOf x) (satOf x) (FV.add (rmOf x) (fpVal .fp64 a) (fpVal .fp64 b).negate)) ∧
  BinaryFp .fmulD (fun x a b => fpResult .fp64 (rmOf x) (satOf x) (FV.mul (fpVal .fp64 a) (fpVal .fp64 b))) ∧
  BinaryFp .fdivD (fun x a b => fpDiv .fp64 (rmOf x) (satOf x) (fpVal .fp64 a) (fpVal .fp64 b)) ∧
  UnaryFp .fsqrtD (fun x a => fpResult .fp64 (rmOf x) (satOf x) (FV.sqrt (fpVal .fp64 a))) ∧
  BinaryFp .fminD (fun _ a b => fpMinMax .fp64 false (fpVal .fp64 a) (fpVal .fp64 b)) ∧
  BinaryFp .fmaxD (fun _ a b => fpMinMax .fp64 true (fpVal .fp64 a) (fpVal .fp64 b)) ∧
  TernaryFp .fmaD (fun x a b c => fpResult .fp64 (rmOf x) (satOf x) (FV.fma (rmOf x) (fpVal .fp64 a) (fpVal .fp64 b) (fpVal .fp64 c))) ∧
  TernaryFp .fmsD (fun x a b c => fpResult .fp64 (rmOf x) (satOf x) (FV.fma (rmOf x) (fpVal .fp64 a) (fpVal .fp64 b) (fpVal .fp64 c).negate)) ∧
  TernaryFp .fnmaD (fun x a b c => fpResult .fp64 (rmOf x) (satOf x)
    (FV.fma (rmOf x) (FV.mul (fpVal .fp64 a) (fpVal .fp64 b)).negate (.fin false 1 0) (fpVal .fp64 c))) ∧
  UnaryFp .fabsD (fun _ a => (if (fpVal .fp64 a).isNan then Fmt.fp64.nanBits else a.toNat % 2 ^ 63, 0#5)) ∧
  UnaryFp .fnegD (fun _ a => (if (fpVal .fp64 a).isNan then Fmt.fp64.nanBits else (a.toNat + 2 ^ 63) % 2 ^ 64, 0#5))

/-- R384, R385: FCMP compares FP32, or FP64 with MOD[2], and LT and LE of a NaN set the invalid flag; FCVT converts between FP32, FP64,
BF16, FP16, INT64 and UINT64. -/
def FcmpAndFcvtResults : Prop :=
  (∀ k ∈ [(Instr.fcmpEq, 0), (Instr.fcmpLt, 1), (Instr.fcmpLe, 2), (Instr.fcmpUn, 3)],
    BinaryFp k.1 fun x a b =>
      let f := if x.mod.getLsbD 2 then Fmt.fp64 else Fmt.fp32
      let u := fpVal f a
      let v := fpVal f b
      let nan := u.isNan || v.isNan
      (((boolWord (match k.2 with
          | 0 => ! nan && FV.cmp u v == 0
          | 1 => ! nan && decide (FV.cmp u v < 0)
          | 2 => ! nan && decide (FV.cmp u v ≤ 0)
          | _ => nan)).toNat),
        if nan && (k.2 == 1 || k.2 == 2) then Flags.invalid else 0#5)) ∧
  UnaryFp .fcvtSD (fun x a => fpResult .fp32 (rmOf x) (satOf x) (fpVal .fp64 a)) ∧
  UnaryFp .fcvtDS (fun x a => fpResult .fp64 (rmOf x) false (fpVal .fp32 a)) ∧
  UnaryFp .fcvtSL (fun x a => fpResult .fp32 (rmOf x) false (FV.ofInt a.toInt)) ∧
  UnaryFp .fcvtDL (fun x a => fpResult .fp64 (rmOf x) false (FV.ofInt a.toInt)) ∧
  UnaryFp .fcvtSLu (fun x a => fpResult .fp32 (rmOf x) false (FV.ofInt a.toNat)) ∧
  UnaryFp .fcvtDLu (fun x a => fpResult .fp64 (rmOf x) false (FV.ofInt a.toNat)) ∧
  UnaryFp .fcvtLS (fun x a => fpToInt 0x0E (rmOf x) (fpVal .fp32 a)) ∧ UnaryFp .fcvtLD (fun x a => fpToInt 0x0E (rmOf x) (fpVal .fp64 a)) ∧
  UnaryFp .fcvtLuS (fun x a => fpToInt 0x13 (rmOf x) (fpVal .fp32 a)) ∧ UnaryFp .fcvtLuD (fun x a => fpToInt 0x13 (rmOf x) (fpVal .fp64 a)) ∧
  UnaryFp .fcvtBS (fun x a => fpResult .bf16 (rmOf x) (satOf x) (fpVal .fp32 a)) ∧
  UnaryFp .fcvtHS (fun x a => fpResult .fp16 (rmOf x) (satOf x) (fpVal .fp32 a)) ∧
  UnaryFp .fcvtSB (fun x a => fpResult .fp32 (rmOf x) false (fpVal .bf16 a)) ∧
  UnaryFp .fcvtSH (fun x a => fpResult .fp32 (rmOf x) false (fpVal .fp16 a))

/-! Operands, the frame of every instruction, exceptions (chapters 06, 08, 10). -/

/-- R237, R238: what reading and writing registers, REL values and guards does. s0 reads 0, g0 reads true, and writes to them are
discarded; a write of another register changes that register alone. A result written to a register or a guard leaves, beside it, only
the program counter moved on. -/
def RegisterOperands : Prop :=
  (∀ w c n s, Sel.ofCode c = .s n → readSrc w c s = .ok ((s.hart s.cur).sreg n) s) ∧
  (∀ w c n s, Sel.ofCode c = .rel n → readSrc w c s = .ok (Map.get (fun _ => 0#64) (s.job s.cur.coreNo).rel n) s) ∧
  (∀ c n s, Sel.ofCode c = .g n → readGuard c s = .ok ((s.hart s.cur).guard n) s) ∧
  (∀ c n v s, Sel.ofCode c = .s n → finish c v s = .ok () ((s.withHart fun h => h.setS n v).withHart fun h => h.past 1)) ∧
  (∀ c n v s, Sel.ofCode c = .g n →
    finish c v s = .ok () ((s.withHart fun h => h.setG n (v != 0#64)).withHart fun h => h.past 1)) ∧
  (∀ (h : Hart) v b, h.sreg 0 = 0#64 ∧ h.guard 0 = true ∧ h.setS 0 v = h ∧ h.setG 0 b = h) ∧
  (∀ (h : Hart) n v, Map.wf (fun _ => 0#64) h.s = true → n ≠ 0 →
    (h.setS n v).sreg n = v ∧ (∀ m, m ≠ n → (h.setS n v).sreg m = h.sreg m) ∧ ∀ m, (h.setS n v).guard m = h.guard m) ∧
  (∀ (h : Hart) n b, Map.wf (fun _ => false) h.g = true → n ≠ 0 →
    (h.setG n b).guard n = b ∧ (∀ m, m ≠ n → (h.setG n b).guard m = h.guard m) ∧ ∀ m, (h.setG n b).sreg m = h.sreg m)

/-- R247, R248, R286: a channel source pops the head and records it; an empty channel makes the stream wait with nothing popped; an
operand already recorded is not popped again; a pushed result goes to the tail, and a full channel keeps it for the push alone. -/
def ChannelOperands : Prop :=
  (∀ w c n v rest s, Sel.ofCode c = .q n → (s.hart s.cur).restartHere.opnds.find? (·.which == w) = none →
    (s.job s.cur.coreNo).chan n = .scalar v :: rest →
    readSrc w c s = .ok v ((s.updJob s.cur.coreNo fun j => j.setChan n rest).withHart fun h =>
      { h with restart := { h.restartHere with opnds := h.restartHere.opnds ++ [⟨w, false, n, v⟩] } })) ∧
  (∀ w c n s, Sel.ofCode c = .q n → (s.hart s.cur).restartHere.opnds.find? (·.which == w) = none → (s.job s.cur.coreNo).chan n = [] →
    readSrc w c s = .error .done (s.withHart fun h => { h with blocked := .chan, restart := h.restartHere })) ∧
  (∀ w c n o s, Sel.ofCode c = .q n → (s.hart s.cur).restartHere.opnds.find? (·.which == w) = some o → o.tile = false →
    readSrc w c s = .ok o.value s) ∧
  (∀ c n v s u, Sel.ofCode c = .q n → setOpnd ⟨0, false, n, v⟩ s = .ok () u → ((u.job u.cur.coreNo).chan n).length < 8 →
    finish c v s = .ok () ((u.updJob u.cur.coreNo fun j => j.setChan n (j.chan n ++ [.scalar v])).withHart fun h => h.past 1)) ∧
  (∀ c n v s u, Sel.ofCode c = .q n → setOpnd ⟨0, false, n, v⟩ s = .ok () u → 8 ≤ ((u.job u.cur.coreNo).chan n).length →
    finish c v s = .error .done (u.withHart fun h => { h with blocked := .chan, restart := h.restartHere }))

/-- R353: an instruction whose guard is false has no effect: of a one-slot instruction, nothing but the program counter changes. -/
def FalseGuardSkips : Prop :=
  ∀ i e sh s, i.enc = some e → i.shape = some sh → encFaultOf s.cur.who e sh = none → (s.hart s.cur).guardOk e.args.g = false →
    e.slots = 1 → exec i s = .next (s.withHart fun h => h.past 1)

/-- R353, R360: an encoding fault is taken as an exception whatever the guard holds. -/
def EncodingFaultsTrap : Prop :=
  ∀ i e sh s c t, i.enc = some e → i.shape = some sh → encFaultOf s.cur.who e sh = some c → takeException s.cur c .plain s = .ok () t →
    exec i s = .next t

/-- R286: a result that waited for its push is delivered without anything else of the instruction being executed again. -/
def PendingPushDelivered : Prop :=
  ∀ i e sh s o t, i.enc = some e → i.shape = some sh → encFaultOf s.cur.who e sh = none → (s.hart s.cur).guardOk e.args.g = true →
    (s.hart s.cur).restartHere.opnds.find? (fun o => o.which == 0 && ! o.tile) = some o → sh.d = .dst ∨ sh.d = .gdst →
    finish e.args.d o.value s = .ok () t → exec i s = .next t

/-- R264, R283, R286: a precise fault of a user stream stops the stream with its cause in SR.CAUSE, its restart record kept, and its
record in the core's fault queue; nothing else changes. A front end writes its Flue slot and stops (R409). -/
def TakingAnException : Prop :=
  (∀ c e cause i s, isFatal cause = false →
    let h := s.hart (.stream c e)
    let i' := { i with cursor := if i.ckind = 0 then h.restartHere.cursor else i.cursor,
                       ckind := if i.ckind = 0 then h.restartHere.ckind else i.ckind }
    let u := s.setHart (.stream c e)
      { h with stat := .stopped cause false, cause := cause, blocked := .none, wait := none, restart := h.restartHere }
    takeException (.stream c e) cause i s = .ok () (u.recorded c (jobRecord u c cause 0 e.no h.pc i'))) ∧
  (∀ f cause i s, Map.wf (fun _ => 0) s.flueCnt = true → ∃ t, takeException (.frontEnd f) cause i s = .ok () t ∧
    t.harts = (s.setHart (.frontEnd f)
      { s.hart (.frontEnd f) with cause := cause, stat := .stopped cause false, blocked := .none, wait := none }).harts ∧
    Map.get (fun _ => 0) t.flueCnt f = (Map.get (fun _ => 0) s.flueCnt f + 1) % 2 ^ 32 ∧ t.mem = s.mem ∧ t.cores = s.cores)

/-- R360: where no instruction stands, the cause of its row is taken as an exception. -/
def UnassignedOpcodeTraps : Prop :=
  ∀ cause ∈ [0x040#10, 0x041#10, 0x042#10, 0x043#10, 0x044#10, 0x047#10, 0x048#10], ∀ s t,
    takeException s.cur cause .plain s = .ok () t → exec (.unassignedOpcode cause) s = .next t

/-- No meaning stops the machine: every instruction and every event answers a next state. -/
def EveryMeaningAnswers : Prop := ∀ i s, ∃ t, exec i s = .next t

/-- A step runs the instruction that the words at the agent's program counter decode to, in the state that fetching leaves; words that
are no instruction raise cause 0x040; an event's turn is its meaning; a turn of an agent that cannot issue changes nothing but the order
of turns; a turn of an agent the part does not have is the one fault. -/
def StepRunsDecoded : Prop :=
  (∀ s a rest ws t i, s.sched = .agent a :: rest → agentExists a = true → ({ s with sched := rest } : State).fetched a = .ok ws t →
    decodeWords ws = some i → step s = exec i t) ∧
  (∀ s a rest ws t, s.sched = .agent a :: rest → agentExists a = true → ({ s with sched := rest } : State).fetched a = .ok ws t →
    decodeWords ws = none → step s = exec (.unassignedOpcode 0x040#10) t) ∧
  (∀ s i rest, s.sched = .event i :: rest → isEvent i = true → step s = exec i { s with sched := rest }) ∧
  (∀ s a rest, s.sched = .agent a :: rest → agentExists a = true → ({ s with sched := rest } : State).runnable a = false →
    step s = .next { s with sched := rest }) ∧
  (∀ s a rest, s.sched = .agent a :: rest → agentExists a = false → step s = .fault .noSuchAgent) ∧
  (∀ s a ws t i, s.sched = [] → s.nextAgent = some a → ({ s with tick := s.tick + 1 } : State).fetched a = .ok ws t →
    decodeWords ws = some i → step s = exec i t)

/-- R346, R348: in the middle of a line an agent fetches the words from its program counter to the line's end, and nothing of the state
changes but whose turn it is. -/
def FetchInLine : Prop :=
  ∀ (s : State) a, s.runnable a = true → (∀ c, a = .stream c .A → (s.job c).rldFault = []) → s.releasing (agentNo a) = false →
    (s.hart a).newLine = false → hdrUsed (s.codeWord a (64 * lineOf (s.hart a).pc)) (slotIn (s.hart a).pc) = true →
    s.fetched a = .ok ((range ((s.hart a).pc % 64 / 8) (8 - (s.hart a).pc % 64 / 8)).map fun i =>
      s.codeWord a (64 * ((s.hart a).pc / 64) + 8 * i)) { s with cur := a }

/-- R352, R359: words written out from the encoding tables decode to the instructions they stand for. -/
def WordsDecode : Prop :=
  decodeWords [0x0610810200000000#64] = some (.cmpiNe ⟨0#4, 0x81#8, 0x02#8, 0#8, 0#4, 0#20⟩) ∧
  decodeWords [0x4203000000000000#64] = some (.fenceRel ⟨3#4, 0#8, 0#8, 0#8, 0#4, 0#20⟩) ∧
  decodeWords [0x2590090405000006#64] = some (.atomCas ⟨0#4, 0x09#8, 0x04#8, 0x05#8, 0#4, 0x00006#20⟩) ∧
  decodeWords [0x1371050600000000#64] = some (.fcvtLD ⟨1#4, 0x05#8, 0x06#8, 0#8, 0#4, 0#20⟩) ∧
  decodeWords [0x2130140300000048#64] = some (.stD ⟨0#4, 0x14#8, 0x03#8, 0#8, 0#4, 0x00048#20⟩) ∧
  decodeWords [0x412C0A0500000000#64] = some (.waita ⟨12#4, 0x0A#8, 0x05#8, 0#8, 0#4, 0#20⟩) ∧
  decodeWords [0x0700040080000000#64] = some (.movi ⟨0#4, 0x04#8, 0#8, 0x80000000#32⟩) ∧
  decodeWords [0xC010882122020023#64, 0x01000000C0800003#64] =
    some (.mmaFp8 ⟨1#1, 0#1, 0#1, ⟨⟨0#4, 0x88#8, 0x21#8, 0x22#8, 0#4, 0x20023#20⟩, ⟨2#9, 1#24, 1#1, 4#9, 1#20, 1#1⟩, none⟩⟩) ∧
  decodeWords [0xE200000405000000#64, 0xFF80000000A00001#64] =
    some (.cgath ⟨⟨0#4, 0#8, 0x04#8, 0x05#8, 0#4, 0#20⟩, ⟨0x1FF#9, 0#24, 0#1, 5#9, 0#20, 1#1⟩, none⟩) ∧
  decodeWords [0x4D00000000000000#64] = none

/-- R351–R354, R359: every bit of an encoding is decoded. The words of an instruction, followed by any words, decode to it. -/
def DecodeEncode : Prop := ∀ i ws rest, encode i = some ws → decodeWords (ws ++ rest) = some i

/-- R351: the first slot of an instruction tells how many slots it takes. -/
def SlotsOfFirst : Prop := ∀ i ws, encode i = some ws → slotsOf (ws.getD 0 0#64) = ws.length

/-! Loads and stores (R386, R387), atomics (R484, R485). -/

/-- A load of `n` bytes: the aligned address is A + imm, D takes the bytes, extended by `f`; a misaligned address raises 0x143. -/
def Loads (i : Args → Instr) (n : Nat) (f : List Byte → Word) : Prop :=
  ∀ x s a s1, Issues (i x) s → readSrc 1 x.a s = .ok a s1 →
    let e := a + x.imm.signExtend 64
    (e.toNat % n = 0 → ∀ bs s2 t, loadBytes e.toNat n s1 = .ok bs s2 → finish x.d (f bs) s2 = .ok () t → exec (i x) s = .next t) ∧
    (e.toNat % n ≠ 0 → ∀ t, takeException s1.cur 0x143#10 (.at e) s1 = .ok () t → exec (i x) s = .next t)

/-- R386: LD in its seven widths and extensions. -/
def LoadResults : Prop :=
  Loads .ldB 1 (fun bs => (BitVec.ofNat 8 (leVal bs)).signExtend 64) ∧ Loads .ldBu 1 (fun bs => BitVec.ofNat 64 (leVal bs)) ∧
  Loads .ldH 2 (fun bs => (BitVec.ofNat 16 (leVal bs)).signExtend 64) ∧ Loads .ldHu 2 (fun bs => BitVec.ofNat 64 (leVal bs)) ∧
  Loads .ldW 4 (fun bs => (BitVec.ofNat 32 (leVal bs)).signExtend 64) ∧ Loads .ldWu 4 (fun bs => BitVec.ofNat 64 (leVal bs)) ∧
  Loads .ldD 8 (fun bs => BitVec.ofNat 64 (leVal bs))

/-- A store of `n` bytes to global memory by an agent: the address is A + imm, the value in D is read after it; the bytes go out least
significant first through the agent's view of memory, and the instruction is past. A misaligned address raises 0x143. -/
def Stores (i : Args → Instr) (n : Nat) : Prop :=
  ∀ x s a v s1 s2, Issues (i x) s → readSrc 1 x.a s = .ok a s1 → readSrc 0 x.d s1 = .ok v s2 →
    let e := a + x.imm.signExtend 64
    (e.toNat % n = 0 → s2.isMmio e.toNat = false → ∀ t,
      writeGlobal s2.cur (.at (BitVec.ofNat 64 e.toNat)) e.toNat (leBytes n v.toNat) s2 = .ok () t →
      exec (i x) s = .next (t.withHart fun h => h.past 1)) ∧
    (e.toNat % n ≠ 0 → ∀ t, takeException s2.cur 0x143#10 (.at e) s2 = .ok () t → exec (i x) s = .next t)

/-- R386: ST in its four widths. -/
def StoreResults : Prop := Stores .stB 1 ∧ Stores .stH 2 ∧ Stores .stW 4 ∧ Stores .stD 8

/-- R292, R295, R386: a user stream's ST to a granule it already holds privately. The address is A + imm; the stream's private bytes change
at the bytes of the form's width from there, and nothing else does but the program counter: every byte of memory, every register and
every flag stay. -/
def PrivateStoreFrame : Prop :=
  ∀ p ∈ [(Instr.stB, 1), (Instr.stH, 2), (Instr.stW, 4), (Instr.stD, 8)], ∀ x s a v s1 s2 c g pa, Issues (p.1 x) s →
    readSrc 1 x.a s = .ok a s1 → readSrc 0 x.d s1 = .ok v s2 → s2.cur = .stream c g →
    let va := (a + x.imm.signExtend 64).toNat
    va % p.2 = 0 → (s2.hart s2.cur).privGranules.contains (va / 64) = true → xlate s2.cur true false va s2 = .ok (.ok pa) s2 →
    exec (p.1 x) s = .next ((s2.withHart fun h =>
      { h with priv := (addressed va (leBytes p.2 v.toNat)).foldl (fun m q => Map.insert m q.1 q.2) h.priv }).withHart fun h => h.past 1)

/-- R270, R307, R386: a load from a scratchpad of the job: the address's place must exist (else 0x144), earlier adds of the stream to it
have taken effect, and the bytes are the current ones. -/
def LoadsSp (i : Args → Instr) (n : Nat) (f : List Byte → Word) : Prop :=
  (∀ x s a s1 c g, Issues (i x) s → readSrc 1 x.a s = .ok a s1 → s1.cur = .stream c g →
    let e := a + x.imm.signExtend 64
    (e.toNat % n = 0 → ∀ bs s2 t, scratchRead (.at (BitVec.ofNat 64 e.toNat)) e.toNat n s1 = .ok bs s2 →
      finish x.d (f bs) s2 = .ok () t → exec (i x) s = .next t) ∧
    (e.toNat % n ≠ 0 → ∀ t, takeException s1.cur 0x143#10 (.at e) s1 = .ok () t → exec (i x) s = .next t)) ∧
  (∀ x s a s1 c t, Issues (i x) s → readSrc 1 x.a s = .ok a s1 → s1.cur = .service c →
    let e := a + x.imm.signExtend 64
    e.toNat % n = 0 → e.toNat + n ≤ 65536 → finish x.d (f (Map.getN (fun _ => 0#8) (s1.core c).svcMem e.toNat n)) s1 = .ok () t →
    exec (i x) s = .next t)

/-- R386, R260: LDSP by a user stream and by the service context, which reads its own memory. -/
def LoadSpResults : Prop :=
  LoadsSp .ldspB 1 (fun bs => (BitVec.ofNat 8 (leVal bs)).signExtend 64) ∧ LoadsSp .ldspBu 1 (fun bs => BitVec.ofNat 64 (leVal bs)) ∧
  LoadsSp .ldspH 2 (fun bs => (BitVec.ofNat 16 (leVal bs)).signExtend 64) ∧ LoadsSp .ldspHu 2 (fun bs => BitVec.ofNat 64 (leVal bs)) ∧
  LoadsSp .ldspW 4 (fun bs => (BitVec.ofNat 32 (leVal bs)).signExtend 64) ∧ LoadsSp .ldspWu 4 (fun bs => BitVec.ofNat 64 (leVal bs)) ∧
  LoadsSp .ldspD 8 (fun bs => BitVec.ofNat 64 (leVal bs))

/-- A store to a scratchpad: of a user stream at the place of A + imm, and of the service context to its own memory, of which the bytes
outside the stored ones stay. -/
def StoresSp (i : Args → Instr) (n : Nat) : Prop :=
  (∀ x s a v s1 s2 s3 c g pa t, Issues (i x) s → readSrc 1 x.a s = .ok a s1 → readSrc 0 x.d s1 = .ok v s2 → s2.cur = .stream c g →
    let e := a + x.imm.signExtend 64
    e.toNat % n = 0 → scratchPlace (.at e) e.toNat n s2 = .ok pa s2 → afterAdds pa n s2 = .ok () s3 →
    physWrite pa (leBytes n v.toNat) none s3 = .ok false t → exec (i x) s = .next (t.withHart fun h => h.past 1)) ∧
  (∀ x s a v s1 s2 c, Issues (i x) s → readSrc 1 x.a s = .ok a s1 → readSrc 0 x.d s1 = .ok v s2 → s2.cur = .service c →
    let e := a + x.imm.signExtend 64
    e.toNat % n = 0 → e.toNat + n ≤ 65536 →
    exec (i x) s = .next ((s2.updCore c fun y => { y with svcMem := Map.setN (fun _ => 0#8) y.svcMem e.toNat (leBytes n v.toNat) }).withHart
      fun h => h.past 1)) ∧
  (∀ x s a v s1 s2 t, Issues (i x) s → readSrc 1 x.a s = .ok a s1 → readSrc 0 x.d s1 = .ok v s2 →
    (a + x.imm.signExtend 64).toNat % n ≠ 0 → takeException s2.cur 0x143#10 (.at (a + x.imm.signExtend 64)) s2 = .ok () t →
    exec (i x) s = .next t)

/-- R386, R260: STSP in its four widths. -/
def StoreSpResults : Prop := StoresSp .stspB 1 ∧ StoresSp .stspH 2 ∧ StoresSp .stspW 4 ∧ StoresSp .stspD 8

/-- R125, R2: a write of consecutive bytes at a physical address. It always completes; the bytes written read back, and every byte of
memory outside them reads as before. -/
def PhysicalWriteFrame : Prop :=
  ∀ pa data poison (s : State), Map.wf (fun _ => 0#8) s.mem = true → Map.wf regReset s.regs = true → data.length ≤ 2 ^ 32 →
    ∃ failed t, physWrite pa data poison s = .ok failed t ∧
      (∀ k, k < data.length → t.byte (pa + k) = data.getD k 0#8) ∧
      (∀ a, (∀ k, k < data.length → s.home (pa + k) ≠ s.home a) → t.byte a = s.byte a) ∧
      t.harts = s.harts ∧ t.cores = s.cores ∧ t.parts = s.parts

/-- R387: RLD reserves the tail entry of the channel in D, notes the load and goes on; a full channel makes the stream wait. -/
def RemoteLoads (i : Args → Instr) (n : Nat) (signed : Bool) : Prop :=
  (∀ x s a s1 s2 pa, Issues (i x) s → readSrc 1 x.a s = .ok a s1 →
    let q := x.d.toNat % 16
    let c := s1.cur.coreNo
    let e := a + x.imm.signExtend 64
    ((s1.job c).chan q).length < 8 → e.toNat % n = 0 → xlate s1.cur false false e.toNat s1 = .ok (.ok pa) s2 → s2.cur = s1.cur →
    ((s2.job c).chan q).length < 8 → (∀ pkg off, s1.place pa ≠ .fabric pkg off) →
    exec (i x) s = .next ((((({ s2 with tick := s2.tick + 1 } : State).updJob c
      fun j => j.setChan q (j.chan q ++ [.reserved s2.tick])).updJob c
      fun j => { j with rlds := j.rlds ++ [⟨s2.tick, q, (s2.hart s2.cur).pc, e, pa, n, signed⟩] }).updPart (s1.job c).part
      fun p => { p with custody := addNode p.custody c 1 0 }).withHart fun h => h.past 1)) ∧
  (∀ x s a s1, Issues (i x) s → readSrc 1 x.a s = .ok a s1 → 8 ≤ ((s1.job s1.cur.coreNo).chan (x.d.toNat % 16)).length →
    exec (i x) s = .next (s1.withHart fun h => { h with blocked := .chan, restart := h.restartHere })) ∧
  (∀ x s a s1 t, Issues (i x) s → readSrc 1 x.a s = .ok a s1 → ((s1.job s1.cur.coreNo).chan (x.d.toNat % 16)).length < 8 →
    (a + x.imm.signExtend 64).toNat % n ≠ 0 → takeException s1.cur 0x143#10 (.at (a + x.imm.signExtend 64)) s1 = .ok () t →
    exec (i x) s = .next t)

/-- R387: RLD in its seven widths and extensions. A misaligned address raises 0x143. -/
def RemoteLoadResults : Prop :=
  RemoteLoads .rldB 1 true ∧ RemoteLoads .rldBu 1 false ∧ RemoteLoads .rldH 2 true ∧ RemoteLoads .rldHu 2 false ∧
  RemoteLoads .rldW 4 true ∧ RemoteLoads .rldWu 4 false ∧ RemoteLoads .rldD 8 false

/-- What an atomic leaves in its word of `n` bytes: the new value where it has one, else nothing changes. -/
def LeavesWord (new : Option Nat) (pa n : Nat) (s t : State) : Prop :=
  match new with
  | some v => ∃ r, physWrite pa (leBytes n v) none s = .ok r t
  | none => t = s

/-- A memory-side atomic of a reference served here: D takes the old value, and the word the new one where there is one. MOD[0] selects
32 bits. A misaligned reference raises 0x208. -/
def Atomic (i : Args → Instr) (cas : Bool) (f : (w old b c : Nat) → Option Nat) : Prop :=
  ∀ x s a b s1 s2, Issues (i x) s → readSrc 1 x.a s = .ok a s1 → readSrc 2 x.b s1 = .ok b s2 →
    ∀ c s3, (if cas then readSrc 3 x.c s2 = .ok c s3 else c = 0#64 ∧ s3 = s2) →
    let n := if x.mod.getLsbD 0 then 4 else 8
    (a.toNat % n = 0 → ∀ pa s4 s5 s6 t, atomPlaceOf s3.cur a s3 = .ok (.ok (.here pa)) s4 → afterAdds pa n s4 = .ok () s5 →
      exitCheck (s5.block pa) s5 = .ok none s5 →
      LeavesWord (f (8 * n) (leVal (s5.bytes pa n)) (b.toNat % 2 ^ (8 * n)) (c.toNat % 2 ^ (8 * n))) pa n s5 s6 →
      finish x.d (BitVec.ofNat 64 (leVal (s5.bytes pa n))) s6 = .ok () t → exec (i x) s = .next t) ∧
    (a.toNat % n ≠ 0 → ∀ t, takeException s3.cur 0x208#10 (.at a) s3 = .ok () t → exec (i x) s = .next t)

/-- R484, R485: the ten members of ATOM; minima and maxima are signed by the sign bit of the width, or unsigned. -/
def AtomicResults : Prop :=
  let sx (w v : Nat) : Int := if 2 ^ (w - 1) ≤ v then (v : Int) - (2 : Int) ^ w else v
  Atomic .atomAdd false (fun w old b _ => some ((old + b) % 2 ^ w)) ∧ Atomic .atomAnd false (fun _ old b _ => some (old &&& b)) ∧
  Atomic .atomOr false (fun _ old b _ => some (old ||| b)) ∧ Atomic .atomXor false (fun _ old b _ => some (old ^^^ b)) ∧
  Atomic .atomMin false (fun w old b _ => some (if sx w old ≤ sx w b then old else b)) ∧
  Atomic .atomMax false (fun w old b _ => some (if sx w old ≤ sx w b then b else old)) ∧
  Atomic .atomMinu false (fun _ old b _ => some (min old b)) ∧ Atomic .atomMaxu false (fun _ old b _ => some (max old b)) ∧
  Atomic .atomSwap false (fun _ _ b _ => some b) ∧ Atomic .atomCas true (fun _ old b c => if old = c then some b else none)

/-! Control transfer and CTRL (R388–R391, R408). -/

/-- A transfer of the executing instruction to `target` out of state `s`: a valid target is taken, an invalid one raises 0x046. -/
def Transfers (i : Instr) (s0 s : State) (target : Int) : Prop :=
  (0 ≤ target → s.targetOk s.cur target.toNat = true → exec i s0 = .next (s.withHart fun h => h.to target.toNat)) ∧
  (¬(0 ≤ target ∧ s.targetOk s.cur target.toNat = true) → ∀ t, takeException s.cur 0x046#10 (.at (BitVec.ofInt 64 target)) s = .ok () t →
    exec i s0 = .next t)

/-- R350, R352, R388, R389: BR, JR, BEOS, CALL and LOOP. CALL writes the PC at which the stream would continue; LOOP counts D down and
falls through at 0; an invalid target changes nothing. -/
def BranchResults : Prop :=
  (∀ x s, Issues (.br x) s → Transfers (.br x) s s (branchTarget (s.hart s.cur).pc x)) ∧
  (∀ x s a s1, Issues (.jr x) s → readSrc 1 x.a s = .ok a s1 → Transfers (.jr x) s s1 a.toNat) ∧
  (∀ x s, Issues (.beos x) s → ((s.job s.cur.coreNo).port (x.d.toNat - 0x70)).eos = true →
    Transfers (.beos x) s s (branchTarget (s.hart s.cur).pc x)) ∧
  (∀ x s, Issues (.beos x) s → ((s.job s.cur.coreNo).port (x.d.toNat - 0x70)).eos = false →
    exec (.beos x) s = .next (s.withHart fun h => h.past 1)) ∧
  (∀ x s n, Issues (.call x) s → Sel.ofCode x.d = .s n →
    let pc := (s.hart s.cur).pc
    let target := branchTarget pc x
    0 ≤ target → s.targetOk s.cur target.toNat = true →
    exec (.call x) s = .next ((s.withHart fun h => h.setS n (BitVec.ofNat 64 (s.follow s.cur (pc + 8)))).withHart fun h => h.to target.toNat)) ∧
  (∀ x s t, Issues (.call x) s → ¬(0 ≤ branchTarget (s.hart s.cur).pc x ∧ s.targetOk s.cur (branchTarget (s.hart s.cur).pc x).toNat = true) →
    takeException s.cur 0x046#10 (.at (BitVec.ofInt 64 (branchTarget (s.hart s.cur).pc x))) s = .ok () t → exec (.call x) s = .next t) ∧
  (∀ x s n, Issues (.loop x) s → Sel.ofCode x.d = .s n → (s.hart s.cur).sreg n = 1#64 →
    exec (.loop x) s = .next ((s.withHart fun h => h.setS n 0#64).withHart fun h => h.past 1)) ∧
  (∀ x s n, Issues (.loop x) s → Sel.ofCode x.d = .s n → (s.hart s.cur).sreg n ≠ 1#64 →
    let target := branchTarget (s.hart s.cur).pc x
    0 ≤ target → s.targetOk s.cur target.toNat = true →
    exec (.loop x) s = .next ((s.withHart fun h => h.setS n ((s.hart s.cur).sreg n - 1#64)).withHart fun h => h.to target.toNat))

/-- R390, R408: JOIN releases at device scope and stops the stream; HALT stops a controller, and ends a user stream's task with its cause;
YIELD asks for a pre-emption where another job is ready, parks a service context with nothing in its fault queue, and else does nothing. -/
def StopResults : Prop :=
  (∀ x s id s1, Issues (.join x) s → releaseHere 3 s = .ok id s1 →
    exec (.join x) s = .next (s1.withHart fun h => { (h.past 1) with stat := .joined })) ∧
  (∀ x s c e t, Issues (.halt x) s → s.cur = .stream c e →
    fatalOn c e.no (s.hart s.cur).pc (x.imm.extractLsb' 0 10) .plain s = .ok () t → exec (.halt x) s = .next t) ∧
  (∀ x s, Issues (.halt x) s → s.cur.isUser = false →
    exec (.halt x) s = .next (s.withHart fun h => { (h.past 1) with stat := .halted })) ∧
  (∀ x s c e, Issues (.yield x) s → s.cur = .stream c e → s.otherReady c = true →
    exec (.yield x) s = .next ((s.updJob c fun j => { j with stopping := true }).withHart fun h => h.past 1)) ∧
  (∀ x s c e, Issues (.yield x) s → s.cur = .stream c e → s.otherReady c = false → exec (.yield x) s = .next (s.withHart fun h => h.past 1)) ∧
  (∀ x s c, Issues (.yield x) s → s.cur = .service c → (s.core c).fqCount = 0 →
    exec (.yield x) s = .next (s.withHart fun h => { h with blocked := .park, restart := h.restartHere })) ∧
  (∀ x s c, Issues (.yield x) s → s.cur = .service c → (s.core c).fqCount ≠ 0 →
    exec (.yield x) s = .next (s.withHart fun h => h.past 1)) ∧
  (∀ x s f, Issues (.yield x) s → s.cur = .frontEnd f ∨ s.cur = .mgmt → exec (.yield x) s = .next (s.withHart fun h => h.past 1))

/-- R390: SVC writes a fault record with cause 0x1C0 and AUX = imm, and stops its stream, which will go on behind the SVC. -/
def SvcStops : Prop :=
  ∀ x s c e, Issues (.svc x) s → s.cur = .stream c e →
    let h := s.hart s.cur
    let next := s.follow s.cur (h.pc + 8)
    exec (.svc x) s = .next ((s.recorded c (jobRecord s c 0x1C0#10 3 e.no h.pc { FInfo.plain with aux := x.imm.setWidth 64 })).withHart
      fun h => { (h.past 1) with pc := next, newLine := h.newLine || next != h.pc + 8, stat := .stopped 0x1C0#10 true, cause := 0x1C0#10,
                                 restart := ⟨next, 0, 0, []⟩ })

/-- R264, R391: ERET by the service context. RESUME (0) and CONTINUE (1) let a stopped stream of its core go on from the PC of its restart
record, CONTINUE with the grant for a timed command; TERMINATE (2) ends the task; a stream that is not stopped is left alone; a control
word with a reserved value raises 0x044. -/
def EretResults : Prop :=
  (∀ x s w s1 c f v, Issues (.eret x) s → readSrc 1 x.a s = .ok w s1 → s1.cur = .service c → (s1.job c).live = true →
    let a := Agent.stream c (.ofNo (Word.bits w 0 2))
    (s1.hart a).stat = .stopped f v → eretOk w (some f) = true → Word.bits w 2 2 < 2 →
    exec (.eret x) s = .next ((s1.setHart a
      { s1.hart a with
        stat := .running, pc := (s1.hart a).restart.pc, newLine := true, grant := Word.bits w 2 2 == 1, blocked := .none,
        wait := none }).withHart fun h => h.past 1)) ∧
  (∀ x s w s1 c f v t, Issues (.eret x) s → readSrc 1 x.a s = .ok w s1 → s1.cur = .service c → (s1.job c).live = true →
    let a := Agent.stream c (.ofNo (Word.bits w 0 2))
    (s1.hart a).stat = .stopped f v → eretOk w (some f) = true → Word.bits w 2 2 = 2 →
    fatalOn c (Word.bits w 0 2) (s1.hart a).restart.pc (BitVec.ofNat 10 (Word.bits w 16 10)) .plain s1 = .ok () t →
    exec (.eret x) s = .next (t.withHart fun h => h.past 1)) ∧
  (∀ x s w s1 c, Issues (.eret x) s → readSrc 1 x.a s = .ok w s1 → s1.cur = .service c → (s1.job c).live = false → eretOk w none = true →
    exec (.eret x) s = .next (s1.withHart fun h => h.past 1)) ∧
  (∀ x s w s1 c t, Issues (.eret x) s → readSrc 1 x.a s = .ok w s1 → s1.cur = .service c →
    Word.bits w 4 12 ≠ 0 ∨ Word.bits w 26 38 ≠ 0 ∨ Word.bits w 2 2 = 3 →
    takeException s1.cur 0x044#10 .plain s1 = .ok () t → exec (.eret x) s = .next t)

/-! Counters (R256–R259, R392–R396). -/

/-- A core-counter add of `v` evaluated with state `s1` left: at once where it carries no release and the agent has no add on its way;
behind the earlier effects otherwise. -/
def CoreAdds (i : Instr) (x : Args) (s s1 : State) (v : Word) : Prop :=
  x.mod.getLsbD 3 = false → (s1.hart s1.cur).fenceRel = none →
  (s1.addsOut (agentNo s1.cur) = false →
    exec i s = .next ((s1.updJob s1.cur.coreNo fun j => j.addCounter x.d.toNat v []).withHart fun h => h.past 1)) ∧
  (∀ c e, s1.cur = .stream c e → s1.addsOut (agentNo s1.cur) = true →
    let u := s1.updPart (s1.job c).part fun p => { p with custody := addNode p.custody c 1 0 }
    exec i s = .next (({ u with outq := u.outq ++ [⟨c, (s1.job c).id, agentNo s1.cur, .add (.core x.d.toNat) v 0⟩] } : State).withHart
      fun h => h.past 1))

/-- R257, R392: CADD adds A, CADDI its immediate, to the core counter that D numbers. -/
def CounterAddResults : Prop :=
  (∀ x s a s1, Issues (.cadd x) s → readSrc 1 x.a s = .ok a s1 → CoreAdds (.cadd x) x s s1 a) ∧
  (∀ x s, Issues (.caddi x) s → CoreAdds (.caddi x) x s s (x.imm.signExtend 64))

/-- R256, R258: what an add does to a counter: the physical value grows by it; an overflow poisons the counter with cause 0x102 and leaves
the value; a poisoned counter stays as it is. The view is the physical value less the base. -/
def CounterAddEffect : Prop :=
  ∀ (k : Counter) v rels,
    (k.poison = none → k.phys.toNat + v.toNat < 2 ^ 64 →
      (k.add v rels).phys = k.phys + v ∧ (k.add v rels).poison = none ∧ (k.add v rels).view = k.view + v) ∧
    (k.poison = none → 2 ^ 64 ≤ k.phys.toNat + v.toNat → (k.add v rels).phys = k.phys ∧ (k.add v rels).poison = some 0x102#10) ∧
    (k.poison.isSome = true → k.add v rels = k)

/-- R258, R313, R394: CWAIT waits until the counter's view is at least A + imm, a poisoned counter raising 0x101 with its cause in AUX;
CRD reads the view; CINIT writes the resting value while no job is on the core, and raises 0x103 while one is. -/
def CounterWaitResults : Prop :=
  (∀ x s a s1 s2, Issues (.cwait x) s → readSrc 1 x.a s = .ok a s1 → afterCoreAdds x.d.toNat s1 = .ok () s2 →
    let k := (s2.job s2.cur.coreNo).counter x.d.toNat
    let thr := a + x.imm.signExtend 64
    (k.poison = none → thr.toNat ≤ k.view.toNat → x.mod.getLsbD 3 = false →
      exec (.cwait x) s = .next ((s2.withHart fun h => { h with lastWait := k.rels }).withHart fun h => h.past 1)) ∧
    (k.poison = none → thr.toNat ≤ k.view.toNat → x.mod.getLsbD 3 = true → ∀ t,
      acquire s2.cur (x.mod.extractLsb' 0 3).toNat k.rels s2 = .ok () t → t.cur = s2.cur →
      exec (.cwait x) s = .next (t.withHart fun h => h.past 1)) ∧
    (k.poison = none → k.view.toNat < thr.toNat →
      exec (.cwait x) s = .next (s2.withHart fun h => { h with
        blocked := .cwait, wait := some ⟨.core x.d.toNat, false, thr.toNat,
          if x.mod.getLsbD 3 then some (x.mod.extractLsb' 0 3).toNat else none⟩, restart := h.restartHere })) ∧
    (∀ p t, k.poison = some p →
      takeException s2.cur 0x101#10 { FInfo.plain with aux := p.setWidth 64, counter := 0x8000 + x.d.toNat } s2 = .ok () t →
      exec (.cwait x) s = .next t)) ∧
  (∀ x s s1 t, Issues (.crd x) s → afterCoreAdds x.a.toNat s = .ok () s1 →
    finish x.d ((s1.job s1.cur.coreNo).counter x.a.toNat).view s1 = .ok () t → exec (.crd x) s = .next t) ∧
  (∀ x s a s1, Issues (.cinit x) s → readSrc 1 x.a s = .ok a s1 → (s1.job s1.cur.coreNo).live = false →
    exec (.cinit x) s = .next ((s1.updCore s1.cur.coreNo fun y =>
      { y with resting := Map.set (fun _ => 0#64) y.resting x.d.toNat a }).withHart fun h => h.past 1)) ∧
  (∀ x s a s1 t, Issues (.cinit x) s → readSrc 1 x.a s = .ok a s1 → (s1.job s1.cur.coreNo).live = true →
    takeException s1.cur 0x103#10 .plain s1 = .ok () t → exec (.cinit x) s = .next t)

/-- R393, R395, R396: the memory forms. The reference is A + imm, of whose bits [2:0] none may be set (0x143); CADD.M puts the add of D on
its way; CWAIT.M waits for the counter and WAITA for the word to reach D. -/
def MemoryCounterResults : Prop :=
  (∀ x s a d s1 s2 c e pa, Issues (.caddM x) s → readSrc 1 x.a s = .ok a s1 → readSrc 0 x.d s1 = .ok d s2 → s2.cur = .stream c e →
    let ref := a + x.imm.signExtend 64
    Word.bits ref 0 3 = 0 → memRef ref s2 = .ok (.here pa) s2 → x.mod.getLsbD 3 = false → (s2.hart s2.cur).fenceRel = none →
    let u := s2.updPart (s2.job c).part fun p => { p with custody := addNode p.custody c 1 0 }
    exec (.caddM x) s = .next (({ u with outq := u.outq ++ [⟨c, (s2.job c).id, agentNo s2.cur, .add (.mem ref) d 0⟩] } : State).withHart
      fun h => h.past 1)) ∧
  (∀ x s a d s1 s2 s3 pa, Issues (.cwaitM x) s → readSrc 1 x.a s = .ok a s1 → readSrc 0 x.d s1 = .ok d s2 →
    let ref := a + x.imm.signExtend 64
    Word.bits ref 0 3 = 0 → memRef ref s2 = .ok (.here pa) s2 → afterAdds pa 8 s2 = .ok () s3 → (s3.mcounter pa).poison = none →
    exitCheck (s3.block pa) s3 = .ok none s3 →
    (d.toNat ≤ (s3.word pa).toNat → x.mod.getLsbD 3 = false →
      exec (.cwaitM x) s = .next ((s3.withHart fun h => { h with lastWait := (s3.mcounter pa).rels }).withHart fun h => h.past 1)) ∧
    ((s3.word pa).toNat < d.toNat →
      exec (.cwaitM x) s = .next (s3.withHart fun h => { h with
        blocked := .memWait, wait := some ⟨.mem ref, false, d.toNat,
          if x.mod.getLsbD 3 then some (x.mod.extractLsb' 0 3).toNat else none⟩, restart := h.restartHere }))) ∧
  (∀ x s a d s1 s2 s3 v rels, Issues (.waita x) s → readSrc 1 x.a s = .ok a s1 → readSrc 0 x.d s1 = .ok d s2 →
    let ref := a + x.imm.signExtend 64
    Word.bits ref 0 3 = 0 → currentWord ref s2 = .ok (v, rels) s3 →
    (d.toNat ≤ v.toNat → x.mod.getLsbD 3 = false →
      exec (.waita x) s = .next ((s3.withHart fun h => { h with lastWait := [] }).withHart fun h => h.past 1)) ∧
    (v.toNat < d.toNat →
      exec (.waita x) s = .next (s3.withHart fun h => { h with
        blocked := .memWait, wait := some ⟨.mem ref, true, d.toNat,
          if x.mod.getLsbD 3 then some (x.mod.extractLsb' 0 3).toNat else none⟩, restart := h.restartHere }))) ∧
  (∀ i ∈ [Instr.caddM, .cwaitM, .waita], ∀ x s a d s1 s2 t, Issues (i x) s → readSrc 1 x.a s = .ok a s1 → readSrc 0 x.d s1 = .ok d s2 →
    Word.bits (a + x.imm.signExtend 64) 0 3 ≠ 0 → takeException s2.cur 0x143#10 (.at (a + x.imm.signExtend 64)) s2 = .ok () t →
    exec (i x) s = .next t)

/-! Fences, sealing, QBAR, deques, launches (R397–R402). -/

/-- R397, R299: with no add of the stream on its way, FENCE.REL releases at its scope and leaves the release for the next plain add,
FENCE.ACQ acquires at its scope what the stream's last plain wait observed, FENCE.AR does both in that order. -/
def FenceResults : Prop :=
  (∀ x s id s1, Issues (.fenceRel x) s → s.addsOut (agentNo s.cur) = false → releaseHere (x.mod.extractLsb' 0 3).toNat s = .ok id s1 →
    exec (.fenceRel x) s = .next ((s1.withHart fun h => { h with fenceRel := some id }).withHart fun h => h.past 1)) ∧
  (∀ x s s1, Issues (.fenceAcq x) s → s.addsOut (agentNo s.cur) = false →
    acquire s.cur (x.mod.extractLsb' 0 3).toNat (s.hart s.cur).lastWait s = .ok () s1 →
    exec (.fenceAcq x) s = .next (s1.withHart fun h => h.past 1)) ∧
  (∀ x s id s1 s2, Issues (.fenceAr x) s → s.addsOut (agentNo s.cur) = false →
    releaseHere (x.mod.extractLsb' 0 3).toNat s = .ok id s1 →
    let u := s1.withHart fun h => { h with fenceRel := some id }
    acquire u.cur (x.mod.extractLsb' 0 3).toNat (u.hart u.cur).lastWait u = .ok () s2 →
    exec (.fenceAr x) s = .next (s2.withHart fun h => h.past 1)) ∧
  (∀ i ∈ [Instr.fenceRel, .fenceAcq, .fenceAr], ∀ x s, Issues (i x) s → s.addsOut (agentNo s.cur) = true →
    exec (i x) s = .next (s.withHart fun h => { h with blocked := .custody, restart := h.restartHere }))

/-- R310, R311, R398: SEAL and UNSEAL of a range whose leaves are so already release and complete; a stream that waits for the effect
point goes on once no request of its core is left. -/
def SealResults : Prop :=
  ∀ p ∈ [(Instr.sealRange, true), (Instr.unsealRange, false)], ∀ x s a b s1 s2, Issues (p.1 x) s → readSrc 1 x.a s = .ok a s1 →
    readSrc 2 x.b s1 = .ok b s2 →
    ((s2.hart s2.cur).blocked ≠ .sealing → ∀ ls s3 id s4, sealLeaves a b s2 = .ok ls s3 → releaseHere 3 s3 = .ok id s4 →
      (ls.all fun l => l.1.seal_ == p.2) = true → exec (p.1 x) s = .next (s4.withHart fun h => h.past 1)) ∧
    ((s2.hart s2.cur).blocked = .sealing → ((s2.part (s2.job s2.cur.coreNo).part).seals.any fun e => e.1 == s2.cur.coreNo) = false →
      exec (p.1 x) s = .next (s2.withHart fun h => h.past 1)) ∧
    ((s2.hart s2.cur).blocked ≠ .sealing → a.toNat % 65536 ≠ 0 ∨ b.toNat % 65536 ≠ 65535 ∨ b.toNat < a.toNat → ∀ t,
      takeException s2.cur 0x143#10 (.at a) s2 = .ok () t → exec (p.1 x) s = .next t)

/-- R314, R399: QBAR releases at system scope and waits; once its barrier has passed it acquires at system scope and goes on. -/
def QbarResults : Prop :=
  (∀ x s s1, Issues (.qbar x) s → (s.hart s.cur).blocked = .qbar → (s.job s.cur.coreNo).qbar = false → acquire s.cur 4 [] s = .ok () s1 →
    exec (.qbar x) s = .next (s1.withHart fun h => h.past 1)) ∧
  (∀ x s id s1 s2, Issues (.qbar x) s → (s.hart s.cur).blocked ≠ .qbar → releaseHere 4 s = .ok id s1 →
    qbarReached (s.job s.cur.coreNo).part (s.job s.cur.coreNo).task (s1.updJob s.cur.coreNo fun j => { j with qbar := true }) = .ok () s2 →
    exec (.qbar x) s = .next (s2.withHart fun h => { h with blocked := .qbar, restart := h.restartHere }))

/-- R400, R401: the work deque. A push goes to the tail of fewer than 256 entries, a pop takes the tail entry, a steal the head entry of
another logical core's deque; the status guard in IMM[7:0] tells whether it did. -/
def DequeResults : Prop :=
  (∀ x s a s1 n, Issues (.dqpush x) s → readSrc 1 x.a s = .ok a s1 → x.mod.getLsbD 3 = false → Sel.ofCode x.c = .g n →
    (s1.job s1.cur.coreNo).deque.length < 256 →
    exec (.dqpush x) s = .next (((s1.updJob s1.cur.coreNo fun j => { j with deque := j.deque ++ [(a, [])] }).withHart
      fun h => h.setG n true).withHart fun h => h.past 1)) ∧
  (∀ x s a s1 n, Issues (.dqpush x) s → readSrc 1 x.a s = .ok a s1 → x.mod.getLsbD 3 = false → Sel.ofCode x.c = .g n →
    256 ≤ (s1.job s1.cur.coreNo).deque.length →
    exec (.dqpush x) s = .next ((s1.withHart fun h => h.setG n false).withHart fun h => h.past 1)) ∧
  (∀ x s n v rels rest t, Issues (.dqpop x) s → x.mod.getLsbD 3 = false → Sel.ofCode x.c = .g n →
    (s.job s.cur.coreNo).deque = rest ++ [(v, rels)] →
    finish x.d v ((s.updJob s.cur.coreNo fun j => { j with deque := rest }).withHart fun h => h.setG n true) = .ok () t →
    exec (.dqpop x) s = .next t) ∧
  (∀ x s n, Issues (.dqpop x) s → Sel.ofCode x.c = .g n → (s.job s.cur.coreNo).deque = [] →
    exec (.dqpop x) s = .next ((s.withHart fun h => h.setG n false).withHart fun h => h.past 1)) ∧
  (∀ x s a s1 n v w rels rest t, Issues (.dqsteal x) s → readSrc 1 x.a s = .ok a s1 → a.toNat < 32 → x.mod.getLsbD 3 = false →
    Sel.ofCode x.c = .g n → s1.victimOk s1.cur.coreNo ((s1.job s1.cur.coreNo).lcore / 32 * 32 + a.toNat) = some v →
    (s1.job v).deque = (w, rels) :: rest →
    finish x.d w ((s1.updJob v fun j => { j with deque := rest, dqHead := (j.dqHead + 1) % 256 }).withHart fun h => h.setG n true) =
      .ok () t → exec (.dqsteal x) s = .next t) ∧
  (∀ x s a s1 n, Issues (.dqsteal x) s → readSrc 1 x.a s = .ok a s1 → a.toNat < 32 → Sel.ofCode x.c = .g n →
    s1.victimOk s1.cur.coreNo ((s1.job s1.cur.coreNo).lcore / 32 * 32 + a.toNat) = none →
    exec (.dqsteal x) s = .next ((s1.withHart fun h => h.setG n false).withHart fun h => h.past 1)) ∧
  (∀ x s t, Issues (.dqlen x) s → finish x.d (BitVec.ofNat 64 (s.job s.cur.coreNo).deque.length) s = .ok () t →
    exec (.dqlen x) s = .next t)

/-- The queue entry that a job's LAUNCH or XPOSE inserts (R183, R184). -/
def childEntry (s : State) (source : Nat) (bytes : List Byte) (reserve : Bool) (rel : Nat) : QEntry :=
  let j := s.job s.cur.coreNo
  { source := source, bytes := bytes, rels := (List.range 16).map fun i => Map.get (fun _ => 0#64) j.rel i, cmdidx := 0, reserve := reserve,
    parent := j.task, slot := j.slot, step := j.step, stage := .queued, gained := s.rels rel }

/-- R183, R402, R489: with its release made, its block read and accepted, and room in the task's class queue, a LAUNCH, LAUNCH.T or
XPOSE adds its entry at the tail; LAUNCH.T's D takes 1. A misaligned block raises 0x143. -/
def LaunchResults : Prop :=
  (∀ p ∈ [(Instr.launch, false, 1), (Instr.launchT, true, 1), (Instr.xpose, false, 2)], ∀ x s a s1 o s2 bytes t s3 s4,
    Issues (p.1 x) s → readSrc 1 x.a s = .ok a s1 → a.toNat % 64 = 0 → findOpnd 4 s1 = .ok (some o) s1 →
    readGlobal s1.cur (.at a) a.toNat 64 s1 = .ok bytes s2 → clearAnswers s2.cur s2 = .ok () s3 →
    (if p.2.2 = 1 then childOk s2 (s2.job s2.cur.coreNo) bytes else blockOk true bytes) = true →
    findOpnd 4 s3 = .ok (some o) s3 →
    let j := s3.job s3.cur.coreNo
    let q := s3.part j.part
    ((q.queue j.cls).filter fun e => ! e.reserve).length < 1024 → (s3.release o.value.toNat).pending = 0 →
    let e := childEntry s3 p.2.2 bytes false o.value.toNat
    let u := (s3.updPart j.part fun q => { q.setQueue j.cls (q.queue j.cls ++ [e]) with
      tasks := Map.insert q.tasks j.task { Map.get (fun _ => Task.absent) q.tasks j.task with firstUsed := true } }).updPart j.part
      fun q => { q with custody := addNode q.custody entryNode 1 0 }
    (if p.2.1 then writeDst x.d 1#64 u = .ok () s4 else s4 = u) → t = s4.withHart (fun h => h.past 1) → exec (p.1 x) s = .next t) ∧
  (∀ i ∈ [Instr.launch, .launchT, .xpose], ∀ x s a s1 t, Issues (i x) s → readSrc 1 x.a s = .ok a s1 → a.toNat % 64 ≠ 0 →
    takeException s1.cur 0x143#10 (.at a) s1 = .ok () t → exec (i x) s = .next t)

/-! Special registers, translation, ports (R239, R255, R403–R405, R407). -/

/-- R239, R261, R263, R407: what each special register reads as. -/
def SpecialRegisterReads : Prop :=
  (∀ s : State, s.csrRead 0x000 = s.dcc ∧ s.csrRead 0x009 = (s.hart s.cur).cause.setWidth 64 ∧
    s.csrRead 0x00C = (s.hart s.cur).fpf.setWidth 64) ∧
  (∀ (s : State) c e, s.cur = .stream c e → (s.job c).live = true →
    let j := s.job c
    s.csrRead 0x001 = j.step ∧ s.csrRead 0x002 = BitVec.ofNat 64 (j.lcore - j.first) ∧ s.csrRead 0x003 = BitVec.ofNat 64 j.nlc ∧
    s.csrRead 0x004 = BitVec.ofNat 64 (j.lcore % 32) ∧ s.csrRead 0x005 = BitVec.ofNat 64 (j.lcore / 32) ∧ s.csrRead 0x006 = j.stampb ∧
    s.csrRead 0x007 = BitVec.ofNat 64 j.j ∧ s.csrRead 0x00A = BitVec.ofNat 64 j.task ∧ s.csrRead 0x00B = BitVec.ofNat 64 j.part ∧
    ∀ i, i < 16 → (s.csrRead 0x008).getLsbD i = (j.port i).eos ∧
      (s.csrRead 0x008).getLsbD (16 + i) = ((j.port i).bound && e == (j.port i).eng) ∧
      (s.csrRead 0x008).getLsbD (32 + i) = ((j.port i).bound && (j.port i).pat.write)) ∧
  (∀ (s : State) c, s.cur = .service c → s.csrRead 0x100 = BitVec.ofNat 64 (s.core c).share ∧ s.csrRead 0x101 = (s.core c).fqstat) ∧
  (∀ (s : State) c n, s.cur = .service c → (s.job c).live = false → 1 ≤ n → n ≤ 11 → n ≠ 9 → s.csrRead n = 0#64) ∧
  (∀ (s : State) f, s.cur = .frontEnd f → s.csrRead 0x001 = (s.part f).lastStep ∧ s.csrRead 0x00B = BitVec.ofNat 64 f)

/-- R403: CSRR, CSRW, CSRS and CSRC: D takes the old value; the register takes A, its value with the bits of A set, or with them cleared;
CSRS and CSRC with s0 as A write nothing. -/
def CsrResults : Prop :=
  (∀ x s t, Issues (.csrr x) s → finish x.d (s.csrRead (x.imm.toNat % 4096)) s = .ok () t → exec (.csrr x) s = .next t) ∧
  (∀ x s a s1 s2 t, Issues (.csrw x) s → readSrc 1 x.a s = .ok a s1 → csrWrite (x.imm.toNat % 4096) a s1 = .ok () s2 →
    finish x.d (s1.csrRead (x.imm.toNat % 4096)) s2 = .ok () t → exec (.csrw x) s = .next t) ∧
  (∀ p ∈ [(Instr.csrs, fun o a : Word => o ||| a), (Instr.csrc, fun o a => o &&& ~~~a)], ∀ x s a s1 s2 t, Issues (p.1 x) s →
    readSrc 1 x.a s = .ok a s1 → x.a ≠ 0#8 → csrWrite (x.imm.toNat % 4096) (p.2 (s1.csrRead (x.imm.toNat % 4096)) a) s1 = .ok () s2 →
    finish x.d (s1.csrRead (x.imm.toNat % 4096)) s2 = .ok () t → exec (p.1 x) s = .next t) ∧
  (∀ i ∈ [Instr.csrs, .csrc], ∀ x s t, Issues (i x) s → x.a = 0#8 → finish x.d (s.csrRead (x.imm.toNat % 4096)) s = .ok () t →
    exec (i x) s = .next t) ∧
  (∀ v (s : State), csrWrite 0x009 v s = .ok () (s.withHart fun h => { h with cause := v.extractLsb' 0 10 }) ∧
    csrWrite 0x00C v s = .ok () (s.withHart fun h => { h with fpf := v.extractLsb' 0 5 }) ∧
    csrWrite 0x101 v s = .ok () (s.updCore s.cur.coreNo fun x => { x with fqHead := v.toNat % 16 }) ∧
    (1 ≤ v.toNat → v.toNat ≤ 16 → csrWrite 0x100 v s = .ok () (s.updCore s.cur.coreNo fun x => { x with share := v.toNat })) ∧
    (v.toNat = 0 ∨ 16 < v.toNat → csrWrite 0x100 v s = .ok () s))

/-- R280, R404: RPROBE with no access of the core outstanding writes the entry of a present mapping of A into the RTT index B[5:0], and
raises 0x142 where there is none; RTTLD loads a range-list entry, doing nothing without a job on the core. -/
def TranslationResults : Prop :=
  (∀ x s a b s1 s2 l, Issues (.rprobe x) s → readSrc 1 x.a s = .ok a s1 → readSrc 2 x.b s1 = .ok b s2 →
    let c := s2.cur.coreNo
    let k := (s2.job c).part
    s2.accessesOut c = false → canonical a.toNat = true → s2.walk k a.toNat = .ok (some l) → l.present = true →
    ((s2.part k).invs.any fun q => decide ((l.rtt a.toNat).base ≤ q.2) && decide (q.1 ≤ (l.rtt a.toNat).limit)) = false →
    exec (.rprobe x) s = .next ((s2.updJob c fun j =>
      { j with rtt := Map.set (fun _ => Rtt.invalid) j.rtt (b.toNat % 64) (l.rtt a.toNat) }).withHart fun h => h.past 1)) ∧
  (∀ x s a b s1 s2 t, Issues (.rprobe x) s → readSrc 1 x.a s = .ok a s1 → readSrc 2 x.b s1 = .ok b s2 →
    s2.accessesOut s2.cur.coreNo = false → (canonical a.toNat = false ∨ s2.walk (s2.job s2.cur.coreNo).part a.toNat = .ok none) →
    takeException s2.cur 0x142#10 (.at a) s2 = .ok () t → exec (.rprobe x) s = .next t) ∧
  (∀ x s a b s1 s2 bs s3 r, Issues (.rttld x) s → readSrc 1 x.a s = .ok a s1 → readSrc 2 x.b s1 = .ok b s2 → a.toNat % 32 = 0 →
    (s2.job s2.cur.coreNo).live = true → readGlobal s2.cur (.at a) a.toNat 32 s2 = .ok bs s3 → s3.cur = s2.cur →
    s3.loadEntry (s3.job s2.cur.coreNo).part (s3.job s2.cur.coreNo).rel bs = .ok r →
    exec (.rttld x) s = .next ((s3.updJob s2.cur.coreNo fun j =>
      { j with rtt := Map.set (fun _ => Rtt.invalid) j.rtt (b.toNat % 64) r }).withHart fun h => h.past 1)) ∧
  (∀ x s a b s1 s2, Issues (.rttld x) s → readSrc 1 x.a s = .ok a s1 → readSrc 2 x.b s1 = .ok b s2 → a.toNat % 32 = 0 →
    (s2.job s2.cur.coreNo).live = false → exec (.rttld x) s = .next (s2.withHart fun h => h.past 1)) ∧
  (∀ x s a b s1 s2 t, Issues (.rttld x) s → readSrc 1 x.a s = .ok a s1 → readSrc 2 x.b s1 = .ok b s2 → a.toNat % 32 ≠ 0 →
    takeException s2.cur 0x143#10 (.at a) s2 = .ok () t → exec (.rttld x) s = .next t)

/-- R250–R252, R405: PBIND binds the port in D to the stream in IMM[1:0] at position 0 from the descriptor at A; PUNBIND unbinds it; PPOS
reads its position, or all ones where it is not bound. -/
def PortResults : Prop :=
  (∀ x s a s1 bs s2, Issues (.pbind x) s → readSrc 1 x.a s = .ok a s1 → a.toNat % 64 = 0 →
    let n := x.d.toNat - 0x70
    let e := Eng.ofNo (x.imm.toNat % 4)
    (s1.job s1.cur.coreNo).emask.getLsbD e.no = true →
    readGlobal s1.cur { FInfo.at a with port := some n } a.toNat 64 s1 = .ok bs s2 → s2.cur = s1.cur →
    let j := s2.job s1.cur.coreNo
    (Pattern.ofBytes j.rel bs).ok = true → (j.port n).bound = false ∨ (j.port n).pat.unb = false →
    ∀ t, clearAnswers s1.cur (s2.updJob s1.cur.coreNo fun j => j.setPort n ⟨true, Pattern.ofBytes j.rel bs, 0, e, false⟩) = .ok () t →
      exec (.pbind x) s = .next (t.withHart fun h => h.past 1)) ∧
  (∀ x s a s1 t, Issues (.pbind x) s → readSrc 1 x.a s = .ok a s1 → a.toNat % 64 ≠ 0 →
    takeException s1.cur 0x143#10 { FInfo.at a with port := some (x.d.toNat - 0x70) } s1 = .ok () t → exec (.pbind x) s = .next t) ∧
  (∀ x s, Issues (.punbind x) s → exec (.punbind x) s =
    .next ((s.updJob s.cur.coreNo fun j => j.setPort (x.d.toNat - 0x70) .unbound).withHart fun h => h.past 1)) ∧
  (∀ x s t, Issues (.ppos x) s →
    let p := (s.job s.cur.coreNo).port (x.a.toNat - 0x70)
    finish x.d (if p.bound then BitVec.ofNat 64 p.pos else 0xFFFFFFFFFFFFFFFF#64) s = .ok () t → exec (.ppos x) s = .next t)

/-! Tiles (chapter 12). -/

/-- R240–R246, R418–R420: TCFG and TCFG.Z configure a tile register from A (and B, the old place where B is s0), TVAL its valid region,
TDESC reads its descriptor; what would be no valid descriptor raises 0x081, an unconfigured one 0x080. -/
def TileConfigResults : Prop :=
  (∀ p ∈ [(Instr.tcfg, false), (Instr.tcfgZ, true)], ∀ x s a b s1 s2 d, Issues (p.1 x) s → readSrc 1 x.a s = .ok a s1 →
    readSrc 2 x.b s1 = .ok b s2 → newDesc ((s2.job s2.cur.coreNo).tdesc (x.d.toNat - 0x20)) (x.b == 0#8) a b = .ok d →
    exec (p.1 x) s = .next ((s2.updJob s2.cur.coreNo fun j =>
      { j with desc := Map.set (fun _ => 0#128) j.desc (x.d.toNat - 0x20) d.toBits,
               tstore := if p.2 then j.tstore.clear (512 * d.base) (512 * (d.base + d.cap)) else j.tstore }).withHart fun h => h.past 1)) ∧
  (∀ i ∈ [Instr.tcfg, .tcfgZ], ∀ x s a b s1 s2 f t, Issues (i x) s → readSrc 1 x.a s = .ok a s1 → readSrc 2 x.b s1 = .ok b s2 →
    newDesc ((s2.job s2.cur.coreNo).tdesc (x.d.toNat - 0x20)) (x.b == 0#8) a b = .error f →
    takeException s2.cur f .plain s2 = .ok () t → exec (i x) s = .next t) ∧
  (∀ x s a b s1 s2, Issues (.tval x) s → readSrc 1 x.a s = .ok a s1 → readSrc 2 x.b s1 = .ok b s2 →
    let d := (s2.job s2.cur.coreNo).tdesc (x.d.toNat - 0x20)
    d.v = true → a.toNat ≤ d.rows → b.toNat ≤ d.cols →
    exec (.tval x) s = .next ((s2.updJob s2.cur.coreNo fun j =>
      { j with desc := Map.set (fun _ => 0#128) j.desc (x.d.toNat - 0x20)
                 ({ d with vrows := a.toNat, vcols := b.toNat } : Desc).toBits }).withHart fun h => h.past 1)) ∧
  (∀ x s a b s1 s2 t, Issues (.tval x) s → readSrc 1 x.a s = .ok a s1 → readSrc 2 x.b s1 = .ok b s2 →
    let d := (s2.job s2.cur.coreNo).tdesc (x.d.toNat - 0x20)
    d.v = true → d.rows < a.toNat ∨ d.cols < b.toNat → takeException s2.cur 0x081#10 .plain s2 = .ok () t → exec (.tval x) s = .next t) ∧
  (∀ x s t, Issues (.tdesc x) s →
    let w := Map.get (fun _ => 0#128) (s.job s.cur.coreNo).desc (x.a.toNat - 0x20)
    finish x.d (if x.mod.getLsbD 0 then w.extractLsb' 64 64 else w.extractLsb' 0 64) s = .ok () t → exec (.tdesc x) s = .next t)

/-- R241: a descriptor's fields and its 128 bits: reading the bits of valid fields gives the fields back. -/
def DescriptorBits : Prop :=
  ∀ d : Desc, d.base < 2 ^ 11 → d.cap < 2 ^ 12 → d.rowsM1 < 2 ^ 8 → d.colsM1 < 2 ^ 10 → d.typ < 2 ^ 5 → d.vrows < 2 ^ 9 → d.vcols < 2 ^ 11 →
    Desc.ofBits d.toBits = d

/-- R415: a run over a tile of the store from its first row: each row of the valid region in increasing order, computed from the tile
store that the rows before it leave; then the instruction is past. Only the tile store changes beside the program counter, and an
unconfigured row changes nothing. -/
def RowRuns : Prop :=
  ∀ (n : Nat) (d : Desc) (row : Store → Nat → List Nat) (f : Nat → Exec (List Nat)) (s : State),
    Map.wf (fun _ => Hart.reset) s.harts = true → Map.wf (fun _ => Core.reset) s.cores = true →
    (s.hart s.cur).restartHere.cursor = 0 → s.remotes = [] →
    (∀ i u, f i u = .ok (row (u.job u.cur.coreNo).tstore i) u) →
    ∃ t, runFull (.store n d none) f s = .ok () t ∧ t.cur = s.cur ∧ t.mem = s.mem ∧ t.regs = s.regs ∧
      (t.job s.cur.coreNo).tstore = (List.range d.vrows).foldl (fun ts i => ts.setRow d i ((row ts i).map some)) (s.job s.cur.coreNo).tstore ∧
      t.hart s.cur = (s.hart s.cur).past 1

/-- An element-wise member (R426): with its sources and destination evaluated, of one operation type and shape, without a forbidden
overlap, it runs over the destination's rows; element j of a row is `f` of the sources' elements there. -/
def ElementwiseRun (i : Args → Instr) (x : Args) (s s1 : State) (srcs : List Src) (ok : Nat → Bool) (f : List Nat → Nat → Nat) : Prop :=
  ∀ dst s2 t, tileDst x s1 = .ok dst s2 → ok dst.desc.typ = true → (srcs.all fun q => q.serves dst.desc.typ) = true →
    (srcs.all fun q => q.shaped dst.desc.rows dst.desc.cols) = true → checkOverlap dst srcs false s2 = .ok () s2 →
    runFull dst (fun r => do
      let rs ← mapE srcs fun q => q.row dst.desc.typ dst.desc.cols r
      pure ((List.range dst.desc.vcols).map fun j => f (rs.map fun q => q.getD j 0) dst.desc.typ)) s2 = .ok () t →
    exec (i x) s = .next t

def TileUnary (i : Args → Instr) (ok : Nat → Bool) (f : Args → Nat → Nat → Nat) : Prop :=
  ∀ x s a s1, Issues (i x) s → tileSrc 1 x.a s = .ok a s1 → ElementwiseRun i x s s1 [a] ok fun es t => f x t (es.getD 0 0)

def TileBinary (i : Args → Instr) (ok : Nat → Bool) (f : Args → Nat → Nat → Nat → Nat) : Prop :=
  ∀ x s a b s1 s2, Issues (i x) s → tileSrc 1 x.a s = .ok a s1 → bcastSrc 2 x.b s1 = .ok b s2 →
    ElementwiseRun i x s s2 [a, b] ok fun es t => f x t (es.getD 0 0) (es.getD 1 0)

def TileTernary (i : Args → Instr) (ok : Nat → Bool) (f : Args → Nat → Nat → Nat → Nat → Nat) : Prop :=
  ∀ x s a b c s1 s2 s3, Issues (i x) s → tileSrc 1 x.a s = .ok a s1 → bcastSrc 2 x.b s1 = .ok b s2 → bcastSrc 3 x.c s2 = .ok c s3 →
    ElementwiseRun i x s s3 [a, b, c] ok fun es t => f x t (es.getD 0 0) (es.getD 1 0) (es.getD 2 0)

/-- A result of an element type: floating-point by `g` in the type's format, complex by component, integer by `h` on its value. -/
def elemBy (t rm : Nat) (sat : Bool) (g : FV → FV → FV) (h : Nat → Nat → Nat) (a b : Nat) : Nat :=
  if isCPX t then byParts t a b fun p q => ((fmtOf (cpxBase t)).round rm sat (g ((fmtOf (cpxBase t)).val p) ((fmtOf (cpxBase t)).val q))).1
  else if isFloat t then ((fmtOf t).round rm sat (g ((fmtOf t).val a) ((fmtOf t).val b))).1
  else h a b

/-- R426–R428: TBIN. Sums and differences are of floating-point, integer and complex types; logic and shifts of integers; shift counts are
taken modulo the width; integer results saturate or wrap; a zero divisor gives all ones. -/
def TileBinaryResults : Prop :=
  let num (t : Nat) : Bool := isFPA t || isINTA t
  let numc (t : Nat) : Bool := isFPA t || isINTA t || isCPX t
  TileBinary .tadd numc (fun x t => elemBy t (rmOf x) (satOf x) (FV.add (rmOf x)) fun a b => cvtInt t (satOf x) (intVal t a + intVal t b)) ∧
  TileBinary .tsub numc (fun x t => elemBy t (rmOf x) (satOf x) (fun a b => FV.add (rmOf x) a b.negate)
    fun a b => cvtInt t (satOf x) (intVal t a - intVal t b)) ∧
  TileBinary .tmul num (fun x t => elemBy t (rmOf x) (satOf x) FV.mul fun a b => cvtInt t (satOf x) (intVal t a * intVal t b)) ∧
  TileBinary .tdiv num (fun x t => elemBy t (rmOf x) (satOf x) FV.div fun a b =>
    if intVal t b = 0 then 2 ^ typBits t - 1 else cvtInt t (satOf x) ((intVal t a).tdiv (intVal t b))) ∧
  TileBinary .tmin num (fun x t => elemBy t (rmOf x) (satOf x) FV.minNum fun a b => if intVal t a ≤ intVal t b then a else b) ∧
  TileBinary .tmax num (fun x t => elemBy t (rmOf x) (satOf x) FV.maxNum fun a b => if intVal t a ≤ intVal t b then b else a) ∧
  TileBinary .tand isINTA (fun _ _ a b => a &&& b) ∧ TileBinary .tor isINTA (fun _ _ a b => a ||| b) ∧
  TileBinary .txor isINTA (fun _ _ a b => a ^^^ b) ∧
  TileBinary .tshl isINTA (fun _ t a b => (a <<< (b % typBits t)) % 2 ^ typBits t) ∧
  TileBinary .tshr isINTA (fun _ t a b => intBits (typBits t) (intVal t a / (2 : Int) ^ (b % typBits t))) ∧
  TileBinary .tabsd num (fun x t => elemBy t (rmOf x) (satOf x) (fun a b => (FV.add (rmOf x) a b.negate).abs)
    fun a b => cvtInt t (satOf x) (intVal t a - intVal t b).natAbs)

/-- R429: TFMA, TFMS and TFNMA with one rounding; TSEL takes A's bits where C's element is not 0, B's where it is. -/
def TileTernaryResults : Prop :=
  let num (t : Nat) : Bool := isFPA t || isINTA t
  let fma (x : Args) (t : Nat) (np nc : Bool) (h : Int → Int → Int) (a b c : Nat) : Nat :=
    if isFloat t then
      let f := fmtOf t
      let p := FV.mul (f.val a) (f.val b)
      (f.round (rmOf x) (satOf x) (FV.add (rmOf x) (if np then p.negate else p) (if nc then (f.val c).negate else f.val c))).1
    else cvtInt t (satOf x) (h (intVal t a * intVal t b) (intVal t c))
  TileTernary .tfma num (fun x t => fma x t false false fun p c => p + c) ∧
  TileTernary .tfms num (fun x t => fma x t false true fun p c => p - c) ∧
  TileTernary .tfnma num (fun x t => fma x t true false fun p c => c - p) ∧
  (∀ x s a b c s1 s2 s3 dst s4 t, Issues (.tsel x) s → tileSrc 1 x.a s = .ok a s1 → bcastSrc 2 x.b s1 = .ok b s2 →
    tileSrc 3 x.c s2 = .ok c s3 → tileDst x s3 = .ok dst s4 →
    let d := dst.desc
    (a.serves d.typ && b.serves d.typ && isINTS c.desc.typ) = true →
    (a.shaped d.rows d.cols && b.shaped d.rows d.cols && c.shaped d.rows d.cols) = true → checkOverlap dst [a, b, c] false s4 = .ok () s4 →
    runFull dst (fun i => do
      let ra ← a.row d.typ d.cols i
      let rb ← b.row d.typ d.cols i
      let rc ← c.row d.typ d.cols i
      pure ((List.range d.vcols).map fun j => if rc.getD j 0 = 0 then rb.getD j 0 else ra.getD j 0)) s4 = .ok () t →
    exec (.tsel x) s = .next t)

/-- R430, R343: TUNA. Absolute value and sign change act on the sign bit, square root and reciprocal round once, the transcendental
members give the special function of their number. -/
def TileUnaryResults : Prop :=
  let num (t : Nat) : Bool := isFPA t || isINTA t
  let fp (t : Nat) : Bool := t == 1 || t == 2 || t == 3
  TileUnary .tabs num (fun x t a => if isFloat t then signElem (fmtOf t) false a else cvtInt t (satOf x) (intVal t a).natAbs) ∧
  TileUnary .tneg (fun t => isFPA t || isINTA t || isCPX t) (fun x t a =>
    if isCPX t then cpxMk t (signElem (fmtOf (cpxBase t)) true (cpxRe t a)) (signElem (fmtOf (cpxBase t)) true (cpxIm t a))
    else if isFloat t then signElem (fmtOf t) true a else cvtInt t (satOf x) (-(intVal t a))) ∧
  TileUnary .tsqrt fp (fun x t a => ((fmtOf t).round (rmOf x) (satOf x) (FV.sqrt ((fmtOf t).val a))).1) ∧
  TileUnary .trcp fp (fun x t a => ((fmtOf t).round (rmOf x) (satOf x) (FV.div (.fin false 1 0) ((fmtOf t).val a))).1) ∧
  TileUnary .trsq fp (fun x t a => specialResult 4 t (satOf x) a) ∧ TileUnary .texp2 fp (fun x t a => specialResult 5 t (satOf x) a) ∧
  TileUnary .texp fp (fun x t a => specialResult 6 t (satOf x) a) ∧ TileUnary .tlog2 fp (fun x t a => specialResult 7 t (satOf x) a) ∧
  TileUnary .tln fp (fun x t a => specialResult 8 t (satOf x) a) ∧ TileUnary .tsin fp (fun x t a => specialResult 9 t (satOf x) a) ∧
  TileUnary .tcos fp (fun x t a => specialResult 10 t (satOf x) a) ∧ TileUnary .ttanh fp (fun x t a => specialResult 11 t (satOf x) a) ∧
  TileUnary .tsigm fp (fun x t a => specialResult 12 t (satOf x) a)

/-- R431: TCMP in the type of A: 1 where the relation holds, else 0, in the destination's integer type. NE and UN hold of a NaN, the other
relations do not; EQ of complex elements holds in both components, NE and UN in one. -/
def TileCompareResults : Prop :=
  let un (f : Fmt) (a b : Nat) : Bool := (f.val a).isNan || (f.val b).isNan
  let rel (f : Fmt) (r : Int → Bool) (a b : Nat) : Bool := ! un f a b && r (FV.cmp (f.val a) (f.val b))
  let ints (t : Nat) (r : Int → Int → Bool) (a b : Nat) : Bool := r (intVal t a) (intVal t b)
  let both (t : Nat) (all : Bool) (g : Fmt → Nat → Nat → Bool) (h : Nat → Nat → Bool) (a b : Nat) : Bool :=
    if isCPX t then
      let p := g (fmtOf (cpxBase t)) (cpxRe t a) (cpxRe t b)
      let q := g (fmtOf (cpxBase t)) (cpxIm t a) (cpxIm t b)
      if all then p && q else p || q
    else if isFloat t then g (fmtOf t) a b else h a b
  ∀ p ∈ [(Instr.tcmpEq, true, fun t => both t true (fun f => rel f (· == 0)) (ints t fun u v => u == v)),
      (Instr.tcmpNe, true, fun t => both t false (fun f a b => un f a b || FV.cmp (f.val a) (f.val b) != 0) (ints t fun u v => u != v)),
      (Instr.tcmpLt, false, fun t => both t false (fun f => rel f fun c => decide (c < 0)) (ints t fun u v => decide (u < v))),
      (Instr.tcmpLe, false, fun t => both t false (fun f => rel f fun c => decide (c ≤ 0)) (ints t fun u v => decide (u ≤ v))),
      (Instr.tcmpGt, false, fun t => both t false (fun f => rel f fun c => decide (0 < c)) (ints t fun u v => decide (v < u))),
      (Instr.tcmpGe, false, fun t => both t false (fun f => rel f fun c => decide (0 ≤ c)) (ints t fun u v => decide (v ≤ u))),
      (Instr.tcmpUn, true, fun t => both t false un fun _ _ => false)],
    ∀ x s a b s1 s2 dst s3 t, Issues (p.1 x) s → tileSrc 1 x.a s = .ok a s1 → bcastSrc 2 x.b s1 = .ok b s2 → tileDst x s2 = .ok dst s3 →
      let d := dst.desc
      let typ := a.desc.typ
      (isFPA typ || isINTA typ || (isCPX typ && p.2.1)) = true → b.serves typ = true → isINTS d.typ = true →
      (a.shaped d.rows d.cols && b.shaped d.rows d.cols) = true → checkOverlap dst [a, b] false s3 = .ok () s3 →
      runFull dst (fun i => do
        let ra ← a.row typ d.cols i
        let rb ← b.row typ d.cols i
        pure ((List.range d.vcols).map fun j => (p.2.2 typ (ra.getD j 0) (rb.getD j 0)).toNat)) s3 = .ok () t →
      exec (p.1 x) s = .next t

/-- R339, R432: TCMUL, TCMULC and TCONJ: the product of two FMAs over rounded products, with the second operand's imaginary part negated
in TCMULC; the conjugate, a NaN component becoming the canonical NaN. -/
def TileComplexResults : Prop :=
  let mul (conj : Bool) (t a b : Nat) : Nat :=
    let f := fmtOf (cpxBase t)
    let rnd (v : FV) : FV := f.val (f.round 0 false v).1
    let bi := if conj then (f.val (cpxIm t b)).negate else f.val (cpxIm t b)
    cpxMk t (f.round 0 false (FV.fma 0 (f.val (cpxRe t a)) (f.val (cpxRe t b)) (rnd (FV.mul (f.val (cpxIm t a)) bi)).negate)).1
      (f.round 0 false (FV.fma 0 (f.val (cpxRe t a)) bi (rnd (FV.mul (f.val (cpxIm t a)) (f.val (cpxRe t b)))))).1
  TileBinary .tcmul isCPX (fun _ => mul false) ∧ TileBinary .tcmulc isCPX (fun _ => mul true) ∧
  TileUnary .tconj isCPX (fun _ t a =>
    let f := fmtOf (cpxBase t)
    cpxMk t (if (f.val (cpxRe t a)).isNan then f.nanBits else cpxRe t a) (signElem f true (cpxIm t a)))

/-- R433, R434: TCVT converts each element, complex ones by component; TCVT.SC divides by, and TDQ multiplies with, the element's scale,
each rounded once. -/
def TileConvertResults : Prop :=
  (∀ x s a s1 dst s2 t, Issues (.tcvt x) s → tileSrc 1 x.a s = .ok a s1 → tileDst x s1 = .ok dst s2 →
    let d := dst.desc
    let typ := a.desc.typ
    typOk typ = true → isCPX typ = isCPX d.typ → a.shaped d.rows d.cols = true → checkOverlap dst [a] false s2 = .ok () s2 →
    runFull dst (fun i => do
      let ra ← a.row typ d.cols i
      pure ((ra.take d.vcols).map fun e =>
        if isCPX typ then cpxMk d.typ (cvtElem (cpxBase typ) (cpxBase d.typ) (rmOf x) (satOf x) (cpxRe typ e))
          (cvtElem (cpxBase typ) (cpxBase d.typ) (rmOf x) (satOf x) (cpxIm typ e))
        else cvtElem typ d.typ (rmOf x) (satOf x) e)) s2 = .ok () t → exec (.tcvt x) s = .next t) ∧
  (∀ p ∈ [(Instr.tcvtSc, FV.div), (Instr.tdq, FV.mul)], ∀ x s a b s1 s2 dst s3 t, Issues (p.1 x) s → tileSrc 1 x.a s = .ok a s1 →
    tileSrc 2 x.b s1 = .ok b s2 → tileDst x s2 = .ok dst s3 →
    let d := dst.desc
    let typ := a.desc.typ
    let g := x.imm98
    let sh := scaleShape g d.rows d.cols
    b.desc.typ = 9 ∨ b.desc.typ = 4 → isReal typ = true → typ ≠ 9 → isReal d.typ = true → d.typ ≠ 9 →
    b.shaped sh.1 sh.2 = true → a.shaped d.rows d.cols = true → checkOverlap dst [a, b] false s3 = .ok () s3 →
    runFull dst (fun i => do
      let ra ← a.row typ d.cols i
      let rb ← b.row b.desc.typ sh.2 (scaleAt g i 0).1
      pure ((List.range d.vcols).map fun j =>
        cvtReal d.typ (rmOf x) (satOf x) (p.2 (realVal typ (ra.getD j 0)) (realVal b.desc.typ (rb.getD (scaleAt g i j).2 0))))) s3 =
      .ok () t → exec (p.1 x) s = .next t)

/-- R435–R437: reductions by rows and columns over the valid elements, and running sums and maxima; sums are exact with one rounding. -/
def TileReduceResults : Prop :=
  (∀ p ∈ [(Instr.trsum, 0), (Instr.trmax, 1), (Instr.trmin, 2)], ∀ x s a s1 dst s2 t, Issues (p.1 x) s → tileSrc 1 x.a s = .ok a s1 →
    tileDst x s1 = .ok dst s2 →
    let d := dst.desc
    let q := a.desc
    let w := if x.imm98 = 0 then q.cols else if x.imm98 = 2 then 32 else 16
    redTypes (p.2 == 0) q.typ d.typ = true → d.rows = q.rows → d.cols = (q.cols + w - 1) / w → checkOverlap dst [a] false s2 = .ok () s2 →
    runFull dst (fun i => do
      let ra ← a.row q.typ q.cols i
      pure ((List.range d.vcols).map fun j =>
        reduce p.2 q.typ d.typ (rmOf x) (satOf x) (((if i < q.vrows then ra.take q.vcols else []).drop (j * w)).take w))) s2 = .ok () t →
    exec (p.1 x) s = .next t) ∧
  (∀ p ∈ [(Instr.tcsum, 0), (Instr.tcmax, 1), (Instr.tcmin, 2)], ∀ x s a s1 dst s2 t, Issues (p.1 x) s → tileSrc 1 x.a s = .ok a s1 →
    tileDst x s1 = .ok dst s2 →
    let d := dst.desc
    let q := a.desc
    redTypes (p.2 == 0) q.typ d.typ = true → d.rows = 1 → d.cols = q.cols → checkOverlap dst [a] true s2 = .ok () s2 →
    runFull dst (fun _ => do
      let rs ← a.all
      pure ((List.range d.vcols).map fun j => reduce p.2 q.typ d.typ (rmOf x) (satOf x)
        (if j < q.vcols then (rs.take q.vrows).map fun r => r.getD j 0 else []))) s2 = .ok () t → exec (p.1 x) s = .next t) ∧
  (∀ p ∈ [(Instr.tscanAdd, false), (Instr.tscanMax, true)], ∀ x s a s1 dst s2 t, Issues (p.1 x) s → tileSrc 1 x.a s = .ok a s1 →
    tileDst x s1 = .ok dst s2 →
    let d := dst.desc
    let q := a.desc
    redTypes (! p.2) q.typ d.typ = true → d.rows = q.rows → d.cols = q.cols → checkOverlap dst [a] false s2 = .ok () s2 →
    runFull dst (fun i => do
      let ra ← a.row q.typ q.cols i
      pure ((List.range d.vcols).map fun j =>
        let es := ra.take (if x.mod.getLsbD 2 then j else j + 1)
        if p.2 then (if es.isEmpty then lowest q.typ else extremeElems q.typ true es)
        else sumElems q.typ d.typ (rmOf x) (satOf x) es)) s2 = .ok () t → exec (p.1 x) s = .next t)

/-- R438: TPERM: transposition, permutation of columns, shuffle of rows, gather, scatter, and the broadcasts of a row, a column and a
scalar. -/
def TilePermuteResults : Prop :=
  let types (d a : Desc) : Prop := a.typ = d.typ ∧ typOk d.typ = true
  (∀ x s a s1 dst s2 t, Issues (.ttrn x) s → tileSrc 1 x.a s = .ok a s1 → tileDst x s1 = .ok dst s2 → types dst.desc a.desc →
    a.shaped dst.desc.cols dst.desc.rows = true → checkOverlap dst [a] true s2 = .ok () s2 →
    runFull dst (fun i => do
      let rs ← a.all
      pure ((List.range dst.desc.vcols).map fun j => (rs.getD j []).getD i 0)) s2 = .ok () t → exec (.ttrn x) s = .next t) ∧
  (∀ x s a b s1 s2 dst s3 t, Issues (.tperm x) s → tileSrc 1 x.a s = .ok a s1 → tileSrc 2 x.b s1 = .ok b s2 → tileDst x s2 = .ok dst s3 →
    types dst.desc a.desc → isINTA b.desc.typ = true → a.desc.rows = dst.desc.rows → b.shaped 1 dst.desc.cols = true →
    checkOverlap dst [a, b] false s3 = .ok () s3 →
    runFull dst (fun i => do
      let ra ← a.row dst.desc.typ a.desc.cols i
      let rb ← b.row b.desc.typ dst.desc.cols 0
      pure ((rb.take dst.desc.vcols).map fun k => atIndex ra (intVal b.desc.typ k))) s3 = .ok () t → exec (.tperm x) s = .next t) ∧
  (∀ x s a b s1 s2 dst s3 t, Issues (.tshuf x) s → tileSrc 1 x.a s = .ok a s1 → tileSrc 2 x.b s1 = .ok b s2 → tileDst x s2 = .ok dst s3 →
    types dst.desc a.desc → isINTA b.desc.typ = true → a.desc.cols = dst.desc.cols → b.shaped dst.desc.rows 1 = true →
    checkOverlap dst [a, b] true s3 = .ok () s3 →
    runFull dst (fun i => do
      let rb ← b.row b.desc.typ 1 i
      let k := intVal b.desc.typ (rb.getD 0 0)
      if k < 0 ∨ (a.desc.rows : Int) ≤ k then pure (List.replicate dst.desc.cols 0) else a.row dst.desc.typ dst.desc.cols k.toNat) s3 =
      .ok () t → exec (.tshuf x) s = .next t) ∧
  (∀ x s a b s1 s2 dst s3 t, Issues (.tgath x) s → tileSrc 1 x.a s = .ok a s1 → tileSrc 2 x.b s1 = .ok b s2 → tileDst x s2 = .ok dst s3 →
    types dst.desc a.desc → isINTA b.desc.typ = true → a.desc.rows = dst.desc.rows → b.shaped dst.desc.rows dst.desc.cols = true →
    checkOverlap dst [a, b] false s3 = .ok () s3 →
    runFull dst (fun i => do
      let ra ← a.row dst.desc.typ a.desc.cols i
      let rb ← b.row b.desc.typ dst.desc.cols i
      pure ((rb.take dst.desc.vcols).map fun k => atIndex ra (intVal b.desc.typ k))) s3 = .ok () t → exec (.tgath x) s = .next t) ∧
  (∀ x s a b s1 s2 dst s3 t, Issues (.tscat x) s → tileSrc 1 x.a s = .ok a s1 → tileSrc 2 x.b s1 = .ok b s2 → tileDst x s2 = .ok dst s3 →
    types dst.desc a.desc → isINTA b.desc.typ = true → a.desc.rows = dst.desc.rows → b.shaped a.desc.rows a.desc.cols = true →
    checkOverlap dst [a, b] false s3 = .ok () s3 →
    runRows dst (fun i => do
      let ra ← a.row dst.desc.typ a.desc.cols i
      let rb ← b.row b.desc.typ a.desc.cols i
      pure ((List.range dst.desc.cols).map fun j => (List.range ra.length).foldl
        (fun r k => if (rb.map (intVal b.desc.typ)).getD k (-1) = Int.ofNat j then some (ra.getD k 0) else r) none)) s3 = .ok () t →
    exec (.tscat x) s = .next t) ∧
  (∀ x s a s1 dst s2 t, Issues (.tbcr x) s → tileSrc 1 x.a s = .ok a s1 → tileDst x s1 = .ok dst s2 → types dst.desc a.desc →
    a.shaped 1 dst.desc.cols = true → checkOverlap dst [a] true s2 = .ok () s2 →
    runFull dst (fun _ => a.row dst.desc.typ dst.desc.cols 0) s2 = .ok () t → exec (.tbcr x) s = .next t) ∧
  (∀ x s a s1 dst s2 t, Issues (.tbcc x) s → tileSrc 1 x.a s = .ok a s1 → tileDst x s1 = .ok dst s2 → types dst.desc a.desc →
    a.shaped dst.desc.rows 1 = true → checkOverlap dst [a] false s2 = .ok () s2 →
    runFull dst (fun i => do
      let ra ← a.row dst.desc.typ 1 i
      pure (List.replicate dst.desc.vcols (ra.getD 0 0))) s2 = .ok () t → exec (.tbcc x) s = .next t) ∧
  (∀ x s a s1 dst s2 t, Issues (.tbcs x) s → readSrc 1 x.a s = .ok a s1 → tileDst x s1 = .ok dst s2 →
    (isFPA dst.desc.typ || isINTA dst.desc.typ) = true →
    runFull dst (fun _ => pure (List.replicate dst.desc.vcols
      (cvtElem (if x.mod.getLsbD 2 then 0 else 0x0E) dst.desc.typ (rmOf x) (satOf x) a.toNat))) s2 = .ok () t → exec (.tbcs x) s = .next t)

/-- R439: TMOV copies, TEXT takes a window with its origin in B, TINS lays A into D there, TIOTA counts exactly, TFILL fills. -/
def TileMoveResults : Prop :=
  let types (d a : Desc) : Prop := a.typ = d.typ ∧ typOk d.typ = true
  (∀ x s a s1 dst s2 t, Issues (.tmov x) s → tileSrc 1 x.a s = .ok a s1 → tileDst x s1 = .ok dst s2 → types dst.desc a.desc →
    a.shaped dst.desc.rows dst.desc.cols = true → checkOverlap dst [a] false s2 = .ok () s2 →
    runFull dst (fun i => a.row dst.desc.typ dst.desc.cols i) s2 = .ok () t → exec (.tmov x) s = .next t) ∧
  (∀ x s a b s1 s2 dst s3 t, Issues (.text x) s → tileSrc 1 x.a s = .ok a s1 → readSrc 2 x.b s1 = .ok b s2 → tileDst x s2 = .ok dst s3 →
    types dst.desc a.desc → Word.bits b 32 32 = 0 → checkOverlap dst [a] true s3 = .ok () s3 →
    runFull dst (fun i =>
      if a.desc.rows ≤ Word.bits b 16 16 + i then pure (List.replicate dst.desc.vcols 0)
      else do
        let ra ← a.row dst.desc.typ a.desc.cols (Word.bits b 16 16 + i)
        pure ((List.range dst.desc.vcols).map fun j => ra.getD (Word.bits b 0 16 + j) 0)) s3 = .ok () t → exec (.text x) s = .next t) ∧
  (∀ x s a b s1 s2 dst s3 t, Issues (.tins x) s → tileSrc 1 x.a s = .ok a s1 → readSrc 2 x.b s1 = .ok b s2 → tileDst x s2 = .ok dst s3 →
    types dst.desc a.desc → Word.bits b 32 32 = 0 → checkOverlap dst [a] true s3 = .ok () s3 →
    runRows dst (fun i =>
      if i < Word.bits b 16 16 ∨ Word.bits b 16 16 + a.desc.rows ≤ i then pure []
      else do
        let ra ← a.row dst.desc.typ a.desc.cols (i - Word.bits b 16 16)
        pure ((List.range dst.desc.vcols).map fun j =>
          if j < Word.bits b 0 16 ∨ Word.bits b 0 16 + a.desc.cols ≤ j then none else some (ra.getD (j - Word.bits b 0 16) 0))) s3 = .ok () t →
    exec (.tins x) s = .next t) ∧
  (∀ x s a b s1 s2 dst s3 t, Issues (.tiota x) s → readSrc 1 x.a s = .ok a s1 → readSrc 2 x.b s1 = .ok b s2 → tileDst x s2 = .ok dst s3 →
    (isFPA dst.desc.typ || isINTS dst.desc.typ) = true →
    runFull dst (fun i => pure ((List.range dst.desc.vcols).map fun j =>
      let v := a.toInt + Int.ofNat i * b.toInt + Int.ofNat j
      if isINTS dst.desc.typ then cvtInt dst.desc.typ (satOf x) v else cvtReal dst.desc.typ (rmOf x) (satOf x) (FV.ofInt v))) s3 = .ok () t →
    exec (.tiota x) s = .next t) ∧
  (∀ x s a s1 dst s2 t, Issues (.tfill x) s → readSrc 1 x.a s = .ok a s1 → tileDst x s1 = .ok dst s2 → dst.desc.typ ≠ 0x15 →
    runFull dst (fun _ => pure (List.replicate dst.desc.vcols (a.toNat % 2 ^ dst.desc.bits))) s2 = .ok () t → exec (.tfill x) s = .next t)

/-- R421–R425: TLD reads the valid part of each row of its memory image, by pitch or in Morton order, and writes it to the tile; TST writes
each valid row of its tile to the image. A misaligned image raises 0x143. -/
def TileMemoryResults : Prop :=
  (∀ x s a b s1 s2 dst s3 t, Issues (.tld x) s → readSrc 1 x.a s = .ok a s1 → readSrc 2 x.b s1 = .ok b s2 → tileDst x s2 = .ok dst s3 →
    imageChecks x dst.desc a b false s3 = .ok () s3 →
    runFull dst (fun i => do
      let bs ← readPieces .plain (x.mod.getLsbD 0) a.toNat
        (imagePieces dst.desc (x.mod.getLsbD 1) b.toInt i (dst.desc.span dst.desc.vcols))
      pure (elemsOf dst.desc.bits dst.desc.vcols bs)) s3 = .ok () t → exec (.tld x) s = .next t) ∧
  (∀ x s a b s1 s2 src s3 s4 s5, Issues (.tst x) s → readSrc 1 x.a s = .ok a s1 → readSrc 2 x.b s1 = .ok b s2 → tileSrc 0 x.d s2 = .ok src s3 →
    let d := src.desc
    let n := d.span d.vcols
    imageChecks x d a b true s3 = .ok () s3 → (s3.hart s3.cur).restartHere.cursor = 0 →
    rowsFrom 0 d.vrows (fun i => do
      let es ← src.row d.typ d.cols i
      writePieces .plain (x.mod.getLsbD 0) a.toNat (imagePieces d (x.mod.getLsbD 1) b.toInt i n)
        (layElems d.bits (List.replicate n 0#8) ((es.take d.vcols).map some))) s3 = .ok () s4 →
    clearAnswers s4.cur s4 = .ok () s5 → exec (.tst x) s = .next (s5.withHart fun h => h.past 1)) ∧
  (∀ x s a b s1 s2 dst s3 t, Issues (.tld x) s → readSrc 1 x.a s = .ok a s1 → readSrc 2 x.b s1 = .ok b s2 → tileDst x s2 = .ok dst s3 →
    x.mod.getLsbD 1 = true → a.toNat % 64 ≠ 0 → takeException s3.cur 0x143#10 (.at a) s3 = .ok () t → exec (.tld x) s = .next t)

/-! M and F commands (chapter 13). -/

/-- The clauses of a command as its stream holds them. -/
def clauses (x : CArgs) (s : State) : Clauses := clausesOf (s.hart s.cur) x.ext

/-- The job of a stream that comes to a stamped command is timed from there on (R266). -/
def timed (x : CArgs) (s : State) : State :=
  if x.stamp.isSome then s.updJob s.cur.coreNo fun j => { j with timed := true } else s

/-- A command gets past its wait clause (R312, R354): its references are valid and its wait, if it has one, is met. `u` is the state at the
wait, `s0` the state after it and `rels` the adds that the wait observes. -/
def WaitMet (x : CArgs) (s u s0 : State) (rels : List Rel) : Prop :=
  ∃ v, badRef s.cur.coreNo (clauses x s) u = .ok none v ∧
    waitState (.hart (agentNo s.cur)) s.cur.coreNo (clauses x s) v = .ok (.met rels) s0

/-- R266, R267, R440, R460: a command of unit `m` and bank `bank` gets past its stamp and its wait clause. A stamped command is at its cycle
on a locked cluster with its unit and bank free, or CONTINUE has granted it. -/
def Passes (x : CArgs) (m : MfUnit) (bank : Option Nat) (s s0 : State) (rels : List Rel) : Prop :=
  let j := s.job s.cur.coreNo
  let g := (s.hart s.cur).grant
  (∀ p, x.stamp = some p → g = true ∨
    (s.locked s.cur.coreNo = true ∧ p.s.toNat = j.j ∧ j.units.next m ≤ j.j ∧ j.units.free m bank ≤ j.j)) ∧
  WaitMet x s (if x.stamp.isSome && ! g then (timed x s).withHart fun h => { h with blocked := .none, wait := none } else timed x s) s0 rels

/-- What a command's reads of memory observe at least (R302): what is published, and what its wait acquires. -/
def floorOf (x : CArgs) (s : State) (rels : List Rel) : Know :=
  (if (clauses x s).acq then gainOf 3 (s.party s.cur) rels else Know.zero).join ⟨s.gseq, []⟩

/-- R441, R459: a command that a stream issues joins the end of its engine's queue with its operands as they are now, and the stream goes
on: `op` with `units` restart units, in state `s1`, of an instruction that issues in state `s`. -/
def Enqueues (i : Instr) (x : CArgs) (s s1 : State) (tm : Timing) (op : MfOp) (units ckind : Nat) (push : Option (Nat × Nat)) : Prop :=
  ∀ u t, enterEngine s1.cur.coreNo tm
      { op := op, cursor := 0, units := units, ckind := ckind, cl := clauses x s, pc := (s1.hart s1.cur).pc, push := push, visible := 0,
        exact := false, gs := [] } s1 = .ok () u →
    retire (cmdSlots x) u = .ok () t → exec i s = .next t

/-- The M and F commands with their units and banks (R459); of MMA the form without PAIR. -/
noncomputable def mfForms (z t : BitVec 1) : List ((CArgs → Instr) × MfUnit × (CArgs → Option Nat)) :=
  let d (x : CArgs) : Option Nat := some (x.x.d.toNat - 0x88)
  [(fun x => .mmaFp8 ⟨z, 0#1, t, x⟩, .array, d), (fun x => .mmaFp6 ⟨z, 0#1, t, x⟩, .array, d), (fun x => .mmaFp4 ⟨z, 0#1, t, x⟩, .array, d),
   (fun x => .mmaBf16 ⟨z, 0#1, t, x⟩, .array, d), (fun x => .mmaFp16 ⟨z, 0#1, t, x⟩, .array, d),
   (fun x => .mmaFp32 ⟨z, 0#1, t, x⟩, .array, d), (fun x => .mmaFp64 ⟨z, 0#1, t, x⟩, .array, d),
   (fun x => .mmaInt8 ⟨z, 0#1, t, x⟩, .array, d), (.accld, .port, d), (.accst, .port, fun x => some (x.x.a.toNat - 0x88)),
   (.accclr, .port, d), (.accstg, .port, d), (.fplan, .fpipe, fun _ => none), (.fft, .fpipe, fun _ => none),
   (.ifft, .fpipe, fun _ => none), (.rfft, .fpipe, fun _ => none), (.irfft, .fpipe, fun _ => none), (.leggen, .fpipe, fun _ => none),
   (.ftwm, .fpipe, fun _ => none)]

/-- R266, R267, R460: a stamped command that CONTINUE has not granted: on an unlocked cluster it raises 0x181; past its cycle, or at it
behind a command issued on it, 0x182; before it, it waits; at it, with its unit or its bank in use, it raises 0x180. -/
def StampGates : Prop :=
  ∀ z tr, ∀ p ∈ mfForms z tr, ∀ x s q t, Issues (p.1 x) s → x.stamp = some q → (s.hart s.cur).grant = false →
    let j := s.job s.cur.coreNo
    let w := timed x s
    (s.locked s.cur.coreNo = false → takeException w.cur 0x181#10 .plain w = .ok () t → exec (p.1 x) s = .next t) ∧
    (s.locked s.cur.coreNo = true → q.s.toNat < j.j ∨ (q.s.toNat = j.j ∧ j.j < j.units.next p.2.1) →
      takeException w.cur 0x182#10 .plain w = .ok () t → exec (p.1 x) s = .next t) ∧
    (s.locked s.cur.coreNo = true → j.j < q.s.toNat → exec (p.1 x) s =
      .next (w.withHart fun h => { h with blocked := .stamp, wait := some ⟨.core 0, false, q.s.toNat, none⟩, restart := h.restartHere })) ∧
    (s.locked s.cur.coreNo = true → q.s.toNat = j.j → j.units.next p.2.1 ≤ j.j → j.j < j.units.free p.2.1 (p.2.2 x) →
      takeException w.cur 0x180#10 .plain w = .ok () t → exec (p.1 x) s = .next t)

/-- R312, R354–R356: a command without a stamp whose register names no counter is dropped and its fault logged; one that waits on a
poisoned counter is cancelled and poisons its own signal; one whose wait is not met makes its stream wait. Each before any operand is
popped. -/
def WaitGates : Prop :=
  ∀ z tr, ∀ p ∈ mfForms z tr, ∀ x s, Issues (p.1 x) s → x.stamp = none →
    let c := s.cur.coreNo
    let cl := clauses x s
    (∀ ref v u t, badRef c cl s = .ok (some ref) v → dropCommand c (agentNo s.cur % 8) (s.hart s.cur).pc cl ref v = .ok () u →
      retire 2 u = .ok () t → exec (p.1 x) s = .next t) ∧
    (∀ v f w u t, badRef c cl s = .ok none v → waitState (.hart (agentNo s.cur)) c cl v = .ok (.poisoned f) w →
      (s.hart s.cur).restartHere.opnds = [] → signalPoison c cl f w = .ok () u → retire 2 u = .ok () t → exec (p.1 x) s = .next t) ∧
    (∀ v w r, badRef c cl s = .ok none v → waitState (.hart (agentNo s.cur)) c cl v = .ok .unmet w → cl.wait = some r →
      (s.hart s.cur).restartHere.opnds = [] → exec (p.1 x) s = .next (w.withHart fun h =>
        { h with blocked := .cmdWait (match r with | .core _ => true | .mem _ => false), wait := some ⟨r, false, cl.thr, none⟩,
                 restart := h.restartHere }))

/-- R459: entering an engine: the command is at the end of its queue, its start the first cycle at which its stream, its unit and its bank
are free; the unit and the bank are taken from there. -/
def EngineEntry : Prop :=
  ∀ c tm cmd (s : State), Map.wf (fun _ => Core.reset) s.cores = true → ∃ t, enterEngine c tm cmd s = .ok () t ∧
    t.mem = s.mem ∧ t.harts = s.harts ∧ t.regs = s.regs ∧
    let j := s.job c
    let start := max j.j (max (if tm.unit = .fpipe then j.units.fNext else j.units.mNext) (j.units.free tm.unit tm.bank))
    (t.job c).queueOf (if tm.unit = .fpipe then .F else .M) = j.queueOf (if tm.unit = .fpipe then .F else .M) ++
      [{ cmd with visible := start + tm.visible, exact := s.locked c && cmd.fixedTime }] ∧
    (t.job c).queueOf (if tm.unit = .fpipe then .M else .F) = j.queueOf (if tm.unit = .fpipe then .M else .F) ∧
    (tm.unit = .array → (t.job c).units.array = start + tm.busy) ∧ (tm.unit = .port → (t.job c).units.port = start + tm.busy) ∧
    (tm.unit = .fpipe → (t.job c).units.fpipe = start + tm.busy) ∧
    (tm.bank = some 0 → (t.job c).units.bank0 = start + tm.bankUse) ∧ (tm.bank = some 1 → (t.job c).units.bank1 = start + tm.bankUse) ∧
    (t.job c).tstore = j.tstore ∧ (t.job c).counters = j.counters

/-- R445–R448, R451, R470: an MMA, its tiles configured, of the types and shapes of its opcode. Without PAIR it joins the queue; with PAIR
it waits for its partner's. -/
def MmaIssues (i : MArgs → Instr) (opc : Nat) (scaled : Bool) (types : Nat → Bool) (cols : Nat) (cycles : Nat → Nat) : Prop :=
  ∀ x s s0 rels a b sa sb s1 s2 s3 s4 ra rb rsa rsb s5 s6 s7 s8, Issues (i x) s →
    let y := x.c.x
    mfSrc 1 y.a s0 = .ok a s1 → mfSrc 2 y.b s1 = .ok b s2 → mfSrc 3 (if scaled then y.c else 0#8) s2 = .ok sa s3 →
    mfSrc 4 (if scaled then y.sb else 0#8) s3 = .ok sb s4 →
    a.desc.v = true → b.desc.v = true → sa.desc.v = true → sb.desc.v = true →
    types a.desc.typ = true → (b.isTile = false ∨ types b.desc.typ = true) →
    (sa.isTile = false ∨ sa.desc.typ = 9 ∨ sa.desc.typ = 4) → (sb.isTile = false ∨ sb.desc.typ = 9 ∨ sb.desc.typ = 4) →
    let m := a.desc.rows
    let k := a.desc.cols
    let tr := x.t == 1#1
    let n := if ! b.isTile then 0 else if tr then b.desc.rows else b.desc.cols
    let gran := if scaled then (y.imm.extractLsb' 16 2).toNat else 0
    (b.isTile = false ∨ ((if tr then b.desc.cols else b.desc.rows) = k ∧ n ≤ cols)) → m ≤ 128 →
    sa.shaped (scaleShape gran m k).1 (scaleShape gran m k).2 = true →
    (b.isTile = false ∨ sb.shaped (scaleShape gran n k).1 (scaleShape gran n k).2 = true) →
    let floor := floorOf x.c s rels
    capture floor a s4 = .ok ra s5 → capture floor b s5 = .ok rb s6 → captureOpt floor sa s6 = .ok rsa s7 →
    captureOpt floor sb s7 = .ok rsb s8 →
    let bank := y.d.toNat - 0x88
    (x.p = 0#1 → b.isTile = true → Passes x.c .array (some bank) s s0 rels →
      Enqueues (i x) x.c s s8 ⟨.array, some bank, cycles k, cycles k + 8, cycles k + 8⟩
        (.mma opc (x.z == 1#1) tr false bank ra rb rsa rsb gran) k 2 none) ∧
    (x.p = 1#1 → WaitMet x.c s s s0 rels →
      let cmd : MfCmd :=
        { op := .mma opc (x.z == 1#1) tr true bank ra rb rsa rsb gran, cursor := 0, units := k, ckind := 2, cl := clauses x.c s,
          pc := (s8.hart s8.cur).pc, push := none, visible := 0, exact := false, gs := [] }
      let u := s8.updJob s8.cur.coreNo fun j =>
        { j with pairReq := some ⟨opc, x.z == 1#1, tr, gran, bank, k, n, ! b.isTile, ! sb.isTile, x.c.stamp.isSome, cmd⟩ }
      exec (i x) s = .next (u.withHart fun h => { h with blocked := .pair, restart := h.restartHere }))

/-- R444–R448, R459: the eight MMA opcodes: their element types, the columns their accumulator holds and the array cycles of K products. -/
def MmaResults : Prop :=
  MmaIssues .mmaFp8 0xC0 true (fun t => t == 4 || t == 5) 384 (fun k => k) ∧
  MmaIssues .mmaFp6 0xC1 true (fun t => t == 6 || t == 7) 384 (fun k => (k + 1) / 2) ∧
  MmaIssues .mmaFp4 0xC2 true (fun t => t == 8) 384 (fun k => (k + 1) / 2) ∧
  MmaIssues .mmaBf16 0xC3 false (fun t => t == 2) 384 (fun k => 2 * k) ∧
  MmaIssues .mmaFp16 0xC4 false (fun t => t == 3) 384 (fun k => 2 * k) ∧
  MmaIssues .mmaFp32 0xC5 false (fun t => t == 1) 384 (fun k => 4 * k) ∧
  MmaIssues .mmaFp64 0xC6 false (fun t => t == 0) 192 (fun k => 8 * k) ∧
  MmaIssues .mmaInt8 0xC7 false (fun t => t == 0x0B || t == 0x10) 384 (fun k => k)

/-- R444, R454–R457: ACCLD, ACCST, ACCCLR and ACCSTG. -/
def AccumulatorResults : Prop :=
  (∀ x s s0 rels a s1 ra s2, Issues (.accld x) s → Passes x .port (some (x.x.d.toNat - 0x88)) s s0 rels → mfSrc 1 x.x.a s0 = .ok a s1 → a.desc.v = true →
    let d := a.desc
    let b := (d.rows + 1) / 2
    d.typ = 1 ∨ d.typ = 0 ∨ d.typ = 0x0D → d.rows ≤ 128 → d.cols ≤ (if d.typ = 0 then 192 else 384) →
    capture (floorOf x s rels) a s1 = .ok ra s2 →
    Enqueues (.accld x) x s s2 ⟨.port, some (x.x.d.toNat - 0x88), b, b + 4, b + 4⟩ (.accld (x.x.d.toNat - 0x88) ra) d.rows 1 none) ∧
  (∀ x s s0 rels dst s1, Issues (.accst x) s → Passes x .port (some (x.x.a.toNat - 0x88)) s s0 rels → mfDst x.x s0 = .ok dst s1 → dst.desc.v = true →
    let d := dst.desc
    let af := x.x.imm98
    let b := (d.rows + 1) / 2
    isReal d.typ = true → d.typ ≠ 9 → d.rows ≤ 128 → d.cols ≤ (if af = 1 then 192 else 384) →
    Enqueues (.accst x) x s s1 ⟨.port, some (x.x.a.toNat - 0x88), b, b, b + 4⟩
      (.accst d dst.portOf (x.x.a.toNat - 0x88) af (rmOf x.x) (satOf x.x)) d.vrows 1 dst.pushOf) ∧
  (∀ x s s0 rels, Issues (.accclr x) s → Passes x .port (some (x.x.d.toNat - 0x88)) s s0 rels →
    Enqueues (.accclr x) x s s0 ⟨.port, some (x.x.d.toNat - 0x88), 1, 1, 1⟩ (.accclr (x.x.d.toNat - 0x88)) 1 0 none) ∧
  (∀ x s s0 rels a b w s1 s2 s3, Issues (.accstg x) s → Passes x .port (some (x.x.d.toNat - 0x88)) s s0 rels → readSrc 1 x.x.a s0 = .ok a s1 → readSrc 2 x.x.b s1 = .ok b s2 →
    readSrc 3 x.x.c s2 = .ok w s3 →
    let af := x.x.imm98
    let rows := Word.bits w 0 8 + 1
    let cols := Word.bits w 8 10 + 1
    let typ := Word.bits w 18 5
    let e := if 8 ≤ typBits typ then typBits typ / 8 else 1
    let n := (rows + 1) / 2
    Word.bits w 23 41 = 0 → isReal typ = true → typ ≠ 9 → rows ≤ 128 → cols ≤ (if af = 1 then 192 else 384) →
    (8 ≤ typBits typ ∨ cols * typBits typ % 8 = 0) → a.toNat % e = 0 → b.toNat % e = 0 →
    Enqueues (.accstg x) x s s3 ⟨.port, some (x.x.d.toNat - 0x88), n, n, n + 4⟩
      (.accstg a b (x.x.d.toNat - 0x88) af rows cols typ (x.x.imm.getLsbD 10) (rmOf x.x) (satOf x.x)) rows 1 none)

/-- R461–R469: the F commands: FPLAN, FFT and IFFT, RFFT and IRFFT, LEGGEN and FTWM, with their plans, shapes and pipeline cycles. -/
def TransformResults : Prop :=
  (∀ x s s0 rels a b s1 s2 dst s3 n seq, Issues (.fplan x) s → Passes x .fpipe none s s0 rels → readSrc 1 x.x.a s0 = .ok a s1 → readSrc 2 x.x.b s1 = .ok b s2 →
    mfDst x.x s2 = .ok dst s3 → dst.desc.v = true → dst.desc.typ = 0x13 → dst.desc.rows = 1 → dst.desc.cols = 2 →
    planOf a.toNat b.toNat = some (n, seq) →
    Enqueues (.fplan x) x s s3 ⟨.fpipe, none, 1, 1, 4⟩
      (.fplan dst.desc (BitVec.ofNat 64 (planWords n seq).1) (BitVec.ofNat 64 (planWords n seq).2)) 1 0 none) ∧
  (∀ p ∈ [(Instr.fft, false), (Instr.ifft, true)], ∀ x s s0 rels a b s1 s2 dst s3 n seq s4 ra s5, Issues (p.1 x) s → Passes x .fpipe none s s0 rels →
    mfSrc 1 x.x.a s0 = .ok a s1 → mfSrc 2 x.x.b s1 = .ok b s2 → mfDst x.x s2 = .ok dst s3 →
    let d := dst.desc
    a.desc.v = true → b.desc.v = true → d.v = true → isCPX d.typ = true → a.desc.typ = d.typ → b.desc.typ = 0x13 →
    b.shaped 1 2 = true → a.shaped d.rows d.cols = true → d.fullyValid = true → readPlan b (floorOf x s rels) s3 = .ok (some (n, seq)) s4 →
    d.pencils n = true → issueFft.overlapsFft a b dst = false → capture (floorOf x s rels) a s4 = .ok ra s5 →
    let o := seq.length * ceilDiv (d.rows * d.cols) (ratePer d.typ)
    Enqueues (p.1 x) x s s5 ⟨.fpipe, none, o, o, o + 16⟩ (.fft p.2 (x.x.mod.getLsbD 2) ra d n seq) (max 1 seq.length) 3 dst.pushOf) ∧
  (∀ p ∈ [(Instr.rfft, false), (Instr.irfft, true)], ∀ x s s0 rels a b w s1 s2 s3 dst s4 n seq s5 ra s6, Issues (p.1 x) s → Passes x .fpipe none s s0 rels →
    mfSrc 1 x.x.a s0 = .ok a s1 → mfSrc 2 x.x.b s1 = .ok b s2 → mfSrc 3 x.x.c s2 = .ok w s3 → mfDst x.x s3 = .ok dst s4 →
    let d := dst.desc
    let real := if p.2 then d else a.desc
    let cpx := if p.2 then a.desc else d
    let np := real.rows * real.cols / n
    a.desc.v = true → b.desc.v = true → w.desc.v = true → d.v = true → real.typ = 0 ∨ real.typ = 1 →
    cpx.typ = (if real.typ = 1 then 0x14 else 0x15) → b.desc.typ = 0x13 → w.desc.typ = cpx.typ → b.shaped 1 2 = true →
    w.desc.fullyValid = true → readPlan b (floorOf x s rels) s4 = .ok (some (n, seq)) s5 → real.pencils n = true → n % 2 = 0 →
    np * (n / 2 + 1) ≤ cpx.rows * cpx.cols → np * n ≤ w.desc.rows * w.desc.cols →
    a.meets w.desc = false → b.meets w.desc = false → w.meets d = false → a.meets d = false → b.meets d = false →
    capture (floorOf x s rels) a s5 = .ok ra s6 →
    let o := (seq.length + 1) * ceilDiv (np * n) (ratePer real.typ)
    Enqueues (p.1 x) x s s6 ⟨.fpipe, none, o, o, o + 16⟩ (.rfft p.2 (x.x.mod.getLsbD 2) ra d w.desc n seq) (max 1 seq.length) 3
      dst.pushOf) ∧
  (∀ x s s0 rels a b s1 s2 dst s3 ra s4, Issues (.leggen x) s → Passes x .fpipe none s s0 rels → mfSrc 1 x.x.a s0 = .ok a s1 → readSrc 2 x.x.b s1 = .ok b s2 →
    mfDst x.x s2 = .ok dst s3 →
    let d := dst.desc
    let t := x.x.mod.getLsbD 2
    let m := Word.bits b 0 16
    let l0 := Word.bits b 16 16
    let nl := if t then d.cols else d.rows
    let nx := if t then d.rows else d.cols
    a.desc.v = true → d.v = true → d.typ = 0 ∨ d.typ = 1 → a.desc.typ = d.typ → (if t then a.shaped nx 1 else a.shaped 1 nx) = true →
    m ≤ l0 → l0 + nl - 1 ≤ 65535 → Word.bits b 32 32 = 0 → capture (floorOf x s rels) a s3 = .ok ra s4 →
    let o := (l0 + nl - m) * ceilDiv nx (ratePer d.typ)
    Enqueues (.leggen x) x s s4 ⟨.fpipe, none, o, o, o + 16⟩ (.leggen t ra d dst.portOf m l0) d.vrows 1 dst.pushOf) ∧
  (∀ x s s0 rels a b k s1 s2 s3 dst s4 ra s5, Issues (.ftwm x) s → Passes x .fpipe none s s0 rels → mfSrc 1 x.x.a s0 = .ok a s1 → readSrc 2 x.x.b s1 = .ok b s2 →
    readSrc 3 x.x.c s2 = .ok k s3 → mfDst x.x s3 = .ok dst s4 →
    let d := dst.desc
    let n := Word.bits b 0 25
    a.desc.v = true → d.v = true → isCPX d.typ = true → a.desc.typ = d.typ → a.shaped d.rows d.cols = true → Word.bits k 32 32 = 0 →
    0 < n → n ≤ 2 ^ 24 → Word.bits b 26 38 = 0 → capture (floorOf x s rels) a s4 = .ok ra s5 →
    let o := ceilDiv (d.rows * d.cols) (ratePer d.typ)
    Enqueues (.ftwm x) x s s5 ⟨.fpipe, none, o, o, o + 16⟩ (.ftwm ra d dst.portOf n (Word.bit b 25) (Word.bits k 16 16) (Word.bits k 0 16))
      d.vrows 1 dst.pushOf)

/-! Cart commands (chapter 14). -/

/-- R471, R472: with room in its queue, and its record read and well formed, a Cart command joins the store or the load queue of its core
and the stream goes on; at a full queue the stream waits. ATOMN has no record: its A is the reference. -/
def CartIssues (i : CArgs → Instr) (opc fn : Nat) (alignB : Nat) : Prop :=
  ∀ x s a b s1 s2 v2 r s3 t, Issues (i x) s → readSrc 1 x.x.a s = .ok a s1 → readSrc 2 x.x.b s1 = .ok b s2 →
    badRef s2.cur.coreNo (clausesOf (s2.hart s2.cur) x.ext) s2 = .ok none v2 → b.toNat % alignB = 0 →
    (if opc = 0xE6 then a.toNat % (if x.x.mod.getLsbD 0 then 4 else 8) = 0 ∧ r = .empty ∧ s3 = v2
      else a.toNat % 64 = 0 ∧ ∃ bs, readGlobal s2.cur (.at a) a.toNat 64 v2 = .ok bs s3 ∧
        r = (cartRec bs).based (s3.job s2.cur.coreNo).rel ∧ r.ok opc x.x.mod = true) →
    let c := s3.cur.coreNo
    let store := storeSide opc r.dsp
    (64 ≤ ((s3.job c).cartQ store).length → exec (i x) s = .next (s3.withHart fun h => { h with blocked := .cartFull, restart := h.restartHere })) ∧
    (((s3.job c).cartQ store).length < 64 →
    let cmd : CartCmd :=
      { id := s3.tick, w0 := packArgs (BitVec.ofNat 8 opc) (BitVec.ofNat 4 fn) x.x, w1 := packExt x.ext, opc := opc, fn := fn, mod := x.x.mod,
        pc := (s3.hart s3.cur).pc, cr := r, a := a, b := b, cl := clausesOf (s2.hart s2.cur) x.ext, started := false, dest := none, sent := false,
        done := 0, sub := 0, entry := none, gs := [], bad := none, floor := ⟨s3.gseq, []⟩ }
    let u := (({ s3 with tick := s3.tick + 1 } : State).updPart (s3.job c).part fun p =>
      { p with custody := addNode p.custody (128 + c) 1 0 }).updJob c fun j => j.setCartQ store (j.cartQ store ++ [cmd])
    ∀ v, clearAnswers s3.cur u = .ok () v → retire 2 v = .ok () t → exec (i x) s = .next t)

/-- R471–R482, R484–R488: the seventeen Cart commands. -/
def CartIssueResults : Prop :=
  CartIssues .ccopy 0xE0 0 1 ∧ CartIssues .cmort 0xE1 0 1 ∧ CartIssues .cgath 0xE2 0 4 ∧ CartIssues .cscat 0xE3 0 4 ∧
  CartIssues .cred 0xE4 0 1 ∧ CartIssues .ired 0xE5 0 8 ∧ CartIssues .atomnAdd 0xE6 0 1 ∧ CartIssues .atomnAnd 0xE6 1 1 ∧
  CartIssues .atomnOr 0xE6 2 1 ∧ CartIssues .atomnXor 0xE6 3 1 ∧ CartIssues .atomnMin 0xE6 4 1 ∧ CartIssues .atomnMax 0xE6 5 1 ∧
  CartIssues .atomnMinu 0xE6 6 1 ∧ CartIssues .atomnMaxu 0xE6 7 1 ∧ CartIssues .atomnSwap 0xE6 8 1 ∧ CartIssues .put 0xE8 0 1 ∧
  CartIssues .get 0xE9 0 1

/-- R356, R471, R472, R475, R476: a Cart command that names an invalid counter is dropped and its fault logged; a misaligned record
raises 0x143, a malformed one 0x200; an ATOMN's misaligned reference raises 0x208. -/
def CartStops : Prop :=
  (∀ p ∈ [(Instr.ccopy, 0xE0), (Instr.cmort, 0xE1), (Instr.cgath, 0xE2), (Instr.cscat, 0xE3), (Instr.cred, 0xE4), (Instr.ired, 0xE5),
      (Instr.put, 0xE8), (Instr.get, 0xE9)], ∀ x s a b s1 s2 v, Issues (p.1 x) s → readSrc 1 x.x.a s = .ok a s1 →
    readSrc 2 x.x.b s1 = .ok b s2 →
    let c := s2.cur.coreNo
    let cl := clausesOf (s2.hart s2.cur) x.ext
    (∀ ref u t, badRef c cl s2 = .ok (some ref) v → dropCommand c 0 (s2.hart s2.cur).pc cl ref v = .ok () u → retire 2 u = .ok () t →
      exec (p.1 x) s = .next t) ∧
    (∀ t, badRef c cl s2 = .ok none v → a.toNat % 64 ≠ 0 → takeException v.cur 0x143#10 (.at a) v = .ok () t → exec (p.1 x) s = .next t) ∧
    (∀ bs s3 t, badRef c cl s2 = .ok none v → a.toNat % 64 = 0 → b.toNat % 8 = 0 → readGlobal s2.cur (.at a) a.toNat 64 v = .ok bs s3 →
      ((cartRec bs).based (s3.job c).rel).ok p.2 x.x.mod = false → takeException s3.cur 0x200#10 (.at a) s3 = .ok () t →
      exec (p.1 x) s = .next t)) ∧
  (∀ i ∈ [Instr.atomnAdd, .atomnAnd, .atomnOr, .atomnXor, .atomnMin, .atomnMax, .atomnMinu, .atomnMaxu, .atomnSwap], ∀ x s a b s1 s2 v t,
    Issues (i x) s → readSrc 1 x.x.a s = .ok a s1 → readSrc 2 x.x.b s1 = .ok b s2 →
    badRef s2.cur.coreNo (clausesOf (s2.hart s2.cur) x.ext) s2 = .ok none v → a.toNat % (if x.x.mod.getLsbD 0 then 4 else 8) ≠ 0 →
    takeException v.cur 0x208#10 (.at a) v = .ok () t → exec (i x) s = .next t)

/-! Rails, resets, clocks, power, temperatures, training (chapter 01). -/

/-- R17–R19, R23, R55: what writes of RAIL_EN and RST_CTL, power-good, rail faults and die-to-die links do. A refused bit sets SEQERR and
changes nothing else; a rail of a latched fault stays off. -/
def RailEvents : Prop :=
  (∀ w v s, s.admits w Reg.railEn v = true → (∀ k < 15, s.flag Reg.railEn k = true → Word.bit v k = true ∨ s.railBreaks v k = true) →
    let u := if (List.range 15).any (s.railBreaks v) then s.putFlag Reg.railStat 47 true else s
    exec (.railEnWrite w v) s = .next ((List.range 15).reverse.foldl (fun u k =>
      if s.railBreaks v k || ! Word.bit v k || s.flag Reg.railStat (32 + k) || s.power.thermtrip then u else u.putFlag Reg.railEn k true) u)) ∧
  (∀ k s, k < 15 → s.flag Reg.railEn k = true → s.flag Reg.railStat k = false → s.power.seqStep = 0 → k = 0 ∨ 4 < k →
    exec (.railPowerGood k) s = .next (s.putFlag Reg.railStat k true)) ∧
  (∀ n s, n < 4 → s.flag Reg.railEn (n + 1) = true → s.flag Reg.railStat (n + 1) = false → s.power.seqStep = 0 →
    exec (.railPowerGood (n + 1)) s = .next ((((s.putFlag Reg.railStat (n + 1) true).putField Reg.dvfsStat (8 * n) 2 0).putFlag
      Reg.dvfsStat (8 * n + 5) true).onPower fun p => { p with target := Map.set (fun _ => 0) p.target n 0 })) ∧
  (∀ k s t, k < 15 → s.flag Reg.railEn k = true → s.power.seqStep = 0 →
    let off := (List.range 15).filter fun j => (j == k || railUnder k j) && s.flag Reg.railEn j
    railsOff off (off.foldl (fun u j => u.putFlag Reg.railStat (32 + j) true) s) = .ok () t → t.power.seqStep = 0 →
    exec (.railFault k) s = .next (t.putFlag Reg.mgmtEvt 5 true)) ∧
  (∀ w v s s1 s2, s.admits w Reg.rstCtl v = true → each (List.range 4) (fun n => rstCluster n (Word.bit v n)) s = .ok () s1 →
    each (List.range 8) (fun f => rstFrontEnd f (Word.bit v (8 + f))) s1 = .ok () s2 → exec (.rstCtlWrite w v) s = .next s2) ∧
  (∀ n s, s.flag Reg.rstCtl n = false → s.clusterUsed n = true → rstCluster n true s = .ok () (s.putFlag Reg.railStat 47 true)) ∧
  (∀ n s, s.flag Reg.rstCtl n = true → (s.flag Reg.railStat (1 + n) && s.flag Reg.railStat (5 + n)) = false →
    rstCluster n false s = .ok () (s.putFlag Reg.railStat 47 true)) ∧
  (∀ n s t, s.flag Reg.rstCtl n = false → s.clusterUsed n = false →
    loseCluster n ((s.putFlag Reg.rstCtl n true).putFlag Reg.rstCtl (20 + n) false) = .ok () t → rstCluster n true s = .ok () t) ∧
  (∀ n s, n < 4 → s.flag Reg.rstCtl n = false → s.flag Reg.rstCtl (20 + n) = false →
    exec (.d2dLinkTrained n) s = .next (s.putFlag Reg.rstCtl (20 + n) true)) ∧
  (∀ n s t, n < 4 → s.flag Reg.rstCtl (20 + n) = true → (∀ k < 8, (s.part k).phys.any (fun c => c / 32 == n) = false) →
    loseCluster n (s.putFlag Reg.rstCtl (20 + n) false) = .ok () t → exec (.d2dLinkDown n) s = .next t)

/-- R24–R26, R89: the timebase: CLK_CTL, its lock, the loss of a reference, and a cycle, in which SR.DCC gains 1 unless it is being
corrected; no cycle changes memory or a register. -/
def TimebaseEvents : Prop :=
  (∀ w v s, s.admits w Reg.clkCtl v = true → Word.bit v 0 = true → exec (.clkCtlWrite w v) s = .next (s.wrote Reg.clkCtl v)) ∧
  (∀ w v s, s.admits w Reg.clkCtl v = true → Word.bit v 0 = false →
    exec (.clkCtlWrite w v) s = .next { (s.wrote Reg.clkCtl v).putFlag Reg.clkCtl 8 false with dccRun := false }) ∧
  (∀ s, s.flag Reg.clkCtl 0 = true → s.flag Reg.clkCtl 8 = false → s.flag Reg.railStat 0 = true → s.power.seqStep ≠ 2 →
    exec .timebaseLock s = .next { s.putFlag Reg.clkCtl 8 true with dccRun := true }) ∧
  (∀ s, s.flag Reg.clkCtl 8 = true → exec (.refclkLoss false) s = .next s ∧
    exec (.refclkLoss true) s = .next ((s.putFlag Reg.clkCtl 9 (! s.flag Reg.clkCtl 9)).putFlag Reg.mgmtEvt 0 true)) ∧
  (∀ s, s.dccRun = true → (∀ e ∈ s.cores, s.clockHeld e.1 = false) → ∃ t, exec .dccTick s = .next t ∧
    t.dcc = s.dcc + BitVec.ofNat 64 s.dccStep ∧ t.mem = s.mem ∧ t.regs = s.regs ∧ t.harts = s.harts ∧ t.outq = s.outq) ∧
  (∀ s : State, s.tsSlew = 0 → s.dccStep = 1)

/-- R27–R37: operating points, the package power limits, and the capping loop. -/
def PowerEvents : Prop :=
  (∀ w v s s1 s2 s3 t, s.admits w Reg.dvfsCtl v = true → dvfsByte 0 (Word.bits v 0 8) s = .ok () s1 → dvfsByte 1 (Word.bits v 8 8) s1 = .ok () s2 →
    dvfsByte 2 (Word.bits v 16 8) s2 = .ok () s3 → dvfsByte 3 (Word.bits v 24 8) s3 = .ok () t → exec (.dvfsCtlWrite w v) s = .next t) ∧
  (∀ n b s, bitsAt b 0 2 = 3 → dvfsByte n b s = .ok () (s.putFlag Reg.dvfsStat (8 * n + 4) true)) ∧
  (∀ n b s t u, bitsAt b 0 2 ≠ 3 → bitsAt b 7 1 = 0 → s.lockedCl n = false → (s.putFlag Reg.dvfsCtl (8 * n + 7) false).lockedCl n = false →
    tryLock n ((s.putFlag Reg.dvfsCtl (8 * n + 7) false).putField Reg.dvfsCtl (8 * n) 2 (bitsAt b 0 2)) = .ok () t → movePoint n t = .ok () u →
    dvfsByte n b s = .ok () u) ∧
  (∀ n s t u, n < 4 → s.flag Reg.dvfsStat (8 * n + 5) = true →
    tryLock n ((s.putField Reg.dvfsStat (8 * n) 2 (Map.get (fun _ => 0) s.power.target n)).putFlag Reg.dvfsStat (8 * n + 5) false) = .ok () t →
    movePoint n t = .ok () u → exec (.dvfsTransitionDone n) s = .next u) ∧
  (∀ w v s, s.admits w Reg.pcapCtl v = true → w ≠ .board →
    exec (.pcapCtlWrite w v) s = .next (if Word.bits v 16 16 < 1200 ∨ 3200 < Word.bits v 16 16 ∨ Word.bits v 32 16 < Word.bits v 16 16 ∨
      3400 < Word.bits v 32 16 ∨ Word.bits v 8 8 = 0 then s.putFlag Reg.pcapStat 3 true else s.wrote Reg.pcapCtl v)) ∧
  (∀ v s, s.admits .board Reg.pcapCtl v = true →
    let x := Word.setBits (s.reg Reg.pcapCtl) 16 16 (Word.bits v 16 16)
    1200 ≤ Word.bits x 16 16 → Word.bits x 16 16 ≤ 3200 → Word.bits x 16 16 ≤ Word.bits x 32 16 → Word.bits x 32 16 ≤ 3400 →
    Word.bits x 8 8 ≠ 0 → exec (.pcapCtlWrite .board v) s = .next (s.wrote Reg.pcapCtl x)) ∧
  (∀ (pinst pavg : BitVec 16) s, s.power.porst = false →
    let i := pinst.toNat
    let pl1 := s.field Reg.pcapCtl 16 16
    let n := s.power.samples + 1
    let above := if n % 10 ≠ 0 then s.power.above else if pl1 < i then s.power.above + 1 else 0
    let u := ((s.putField Reg.pcapStat 16 16 i).putField Reg.pcapStat 32 16 pavg.toNat).onPower fun p =>
      { p with samples := n, above := above, calm := if i < pl1 then p.calm + 1 else 0 }
    let u := if i ≤ pl1 then u.putFlag Reg.pcapStat 2 false else u
    ¬ ((s.field Reg.pcapCtl 32 16 < i ∨ 100 ≤ above) ∧ s.flag Reg.pcapStat 4 = false) → exec (.powerSample pinst pavg) s = .next u) ∧
  (∀ s, s.flag Reg.pcapStat 4 = true → 100 ≤ s.power.calm → exec .cycleSkipEnd s = .next (s.putFlag Reg.pcapStat 4 false)) ∧
  (∀ l s n t u, s.flag Reg.pcapCtl 0 = true → s.flag Reg.bootStat 0 = true → s.field Reg.pcapCtl 16 16 < s.field Reg.pcapStat 16 16 →
    bestCluster (fun n => l.getD n 0) ((List.range 4).filter fun n => ! s.lockedCl n && decide (0 < s.effPoint n)) = some n →
    movePoint n ((s.onPower fun p => { p with below := 0 }).onPower fun p => { p with eff := Map.set (fun _ => 2) p.eff n (s.effPoint n - 1) }) = .ok () t →
    capStatus t = .ok () u → exec (.cappingTick l) s = .next u)

/-- R38–R41: thresholds, samples, and the end of thermal actions; a sample at a trip threshold trips. -/
def ThermalEvents : Prop :=
  (∀ w v s, s.admits w Reg.thmCfg v = true →
    exec (.thmCfgWrite w v) s = .next (if 0x5A < Word.bits v 32 8 ∨ 0x55 < Word.bits v 24 8 ∨ 0x5F < Word.bits v 8 8 then
      s.putFlag Reg.pcapStat 3 true else s.wrote Reg.thmCfg v)) ∧
  (∀ die hbm s, s.power.porst = false → die.length = 5 → hbm.length = 16 →
    let u := (((s.putField Reg.thmStat 24 8 (hottest die).1).putField Reg.thmStat 20 4 (hottest die).2).putField Reg.thmStat 40 8
      (hottest hbm).1).putField Reg.thmStat 36 4 (hottest hbm).2
    (s.field Reg.thmCfg 16 8 ≤ (hottest die).1 ∨ s.field Reg.thmCfg 40 8 ≤ (hottest hbm).1 → ∀ t, railsOff (List.range 15) u = .ok () t →
      exec (.thermalSample die hbm) s = .next ((t.onPower fun p => { p with thermtrip := true }).putFlag Reg.thmStat 3 true)) ∧
    ((hottest die).1 < s.field Reg.thmCfg 16 8 → (hottest hbm).1 < s.field Reg.thmCfg 40 8 → ∀ u1 u2 t,
      each (List.range 5) (dieSample die (s.field Reg.thmCfg 8 8)) u = .ok () u1 →
      each (List.range 16) (hbmSample hbm (s.field Reg.thmCfg 24 8) (s.field Reg.thmCfg 32 8)) u1 = .ok () u2 → thmStatus u2 = .ok () t →
      exec (.thermalSample die hbm) s = .next t)) ∧
  (∀ n s t u, n < 4 → Map.get (fun _ => false) s.power.dieHot n = true → 200 ≤ Map.get (fun _ => 0) s.power.cool n →
    movePoint n (s.onPower fun p => { p with dieHot := Map.set (fun _ => false) p.dieHot n false }) = .ok () t → thmStatus t = .ok () u →
    exec (.thermalActionEnd (.cluster n)) s = .next u) ∧
  (∀ n s u, Map.get (fun _ => false) s.power.hbmRef n = true → 200 ≤ Map.get (fun _ => 0) s.power.cool (16 + n) →
    thmStatus (s.onPower fun p => { p with hbmRef := Map.set (fun _ => false) p.hbmRef n false }) = .ok () u →
    exec (.thermalActionEnd (.hbmRefresh n)) s = .next u) ∧
  (∀ n s u, Map.get (fun _ => false) s.power.hbmHot n = true → 200 ≤ Map.get (fun _ => 0) s.power.cool (32 + n) →
    thmStatus (s.onPower fun p => { p with hbmHot := Map.set (fun _ => false) p.hbmHot n false }) = .ok () u →
    exec (.thermalActionEnd (.hbmThrottle n)) s = .next u)

/-- R45–R54, R127: training steps: a step starts when it is the next one and no step runs, anything else fails with ERR 0x07; a finished
step sets DONE, a failed one ERR; the patrol scrubber. -/
def TrainingEvents : Prop :=
  (∀ n w v s, s.admits w (Reg.hbmTrn n) v = true → n < 16 → Word.bit v 0 = true → s.flag (Reg.hbmTstat n) 0 = true →
    exec (.hbmTrnGo n w v) s = .next s) ∧
  (∀ n w v s, s.admits w (Reg.hbmTrn n) v = true → n < 16 → Word.bit v 0 = true → Word.bit v 1 = false → s.flag (Reg.hbmTstat n) 0 = false →
    let u := s.wrote (Reg.hbmTrn n) v
    exec (.hbmTrnGo n w v) s = .next (if Word.bits v 8 8 = u.field (Reg.hbmTstat n) 24 8 + 1 then
        ((u.putFlag (Reg.hbmTstat n) 0 true).putFlag (Reg.hbmTstat n) 1 false).onPower fun p =>
          { p with training := Map.set (fun _ => 0) p.training n (Word.bits v 8 8) }
      else (u.putField (Reg.hbmTstat n) 16 8 0x07).putFlag (Reg.hbmTstat n) 2 true)) ∧
  (∀ n w v s, s.admits w (Reg.hbmTrn n) v = true → n < 16 → Word.bit v 0 = false → Word.bit v 1 = true →
    exec (.hbmPhyReset n w v) s = .next ((((s.wrote (Reg.hbmTrn n) v).putField (Reg.hbmTstat n) 24 8 0).putField (Reg.hbmTstat n) 16 8 0).putField
      (Reg.hbmTstat n) 1 2 0)) ∧
  (∀ n spares s, n < 16 → s.flag (Reg.hbmTstat n) 0 = true →
    let k := Map.get (fun _ => 0) s.power.training n
    let u := (((s.putFlag (Reg.hbmTstat n) 0 false).putFlag (Reg.hbmTstat n) 1 true).putFlag (Reg.hbmTstat n) 2 false).putField
      (Reg.hbmTstat n) 24 8 k
    (k ≠ 7 → k ≠ 9 → k ≠ 10 → exec (.hbmTrainingStepDone n 0 spares) s = .next u) ∧
    (k = 7 → exec (.hbmTrainingStepDone n 0 spares) s = .next (u.putField (Reg.hbmTstat n) 32 8 (min spares 16))) ∧
    (k = 9 → ∀ t, zeroStack n u = .ok () t → exec (.hbmTrainingStepDone n 0 spares) s = .next t)) ∧
  (∀ n err spares s, n < 16 → s.flag (Reg.hbmTstat n) 0 = true → 0 < err → err < 256 → s.flag (Reg.hbmTrn n) 2 = false →
    exec (.hbmTrainingStepDone n err spares) s = .next ((((s.putFlag (Reg.hbmTstat n) 0 false).putFlag (Reg.hbmTstat n) 1 false).putFlag
      (Reg.hbmTstat n) 2 true).putField (Reg.hbmTstat n) 16 8 err)) ∧
  (∀ b s, b < 2 ^ 32 → s.flag (Reg.hbmRef (hbmStack b)) 0 = true → exec (.patrolScrub b .clean) s = .next s ∧
    exec (.patrolScrub b .corrected) s = .next (s.putField Reg.integCnt 0 32 (min (s.field Reg.integCnt 0 32 + 1) 0xFFFFFFFF)) ∧
    ∀ t, poisonBlock b 0x295#10 s = .ok () t → exec (.patrolScrub b .uncorrectable) s = .next t) ∧
  (∀ p w v s, s.admits w (Reg.optTrn p) v = true → p < 36 → Word.bit v 0 = true → s.flag (Reg.optTstat p) 0 = false →
    let u := s.wrote (Reg.optTrn p) v
    let k := Word.bits v 8 8
    let x := ((u.putFlag (Reg.optTstat p) 0 true).putFlag (Reg.optTstat p) 1 false).onPower fun q =>
      { q with training := Map.set (fun _ => 0) q.training (16 + p) k }
    (k ≠ s.field (Reg.optTstat p) 24 8 + 1 ∨ (Word.bit v 1 = true ∧ 3 ≤ k) →
      exec (.optTrnGo p w v) s = .next ((u.putField (Reg.optTstat p) 16 8 0x07).putFlag (Reg.optTstat p) 2 true)) ∧
    (k = s.field (Reg.optTstat p) 24 8 + 1 → Word.bit v 1 = false → 2 ≤ k → k ≤ 5 → exec (.optTrnGo p w v) s = .next x) ∧
    (k = s.field (Reg.optTstat p) 24 8 + 1 → k = 1 →
      exec (.optTrnGo p w v) s = .next (x.putField (Reg.optTstat p) 8 8 (Word.bits v 16 8)))) ∧
  (∀ p (failed : BitVec 8) s, p < 36 → s.flag (Reg.optTstat p) 0 = true →
    let k := Map.get (fun _ => 0) s.power.training (16 + p)
    let ok := s.field (Reg.optTstat p) 8 8 &&& (255 - failed.toNat)
    2 ≤ lanes ok → k ≠ 5 → exec (.opticalTrainingStepDone p failed false) s =
      .next (((((s.putField (Reg.optTstat p) 8 8 ok).putFlag (Reg.optTstat p) 0 false).putFlag (Reg.optTstat p) 1 true).putFlag
        (Reg.optTstat p) 2 false).putField (Reg.optTstat p) 24 8 k)) ∧
  (∀ p (failed : BitVec 8) own s t, p < 36 → s.flag (Reg.optTstat p) 0 = true →
    let k := Map.get (fun _ => 0) s.power.training (16 + p)
    let ok := s.field (Reg.optTstat p) 8 8 &&& (255 - failed.toNat)
    let u := ((((s.putField (Reg.optTstat p) 8 8 ok).putFlag (Reg.optTstat p) 0 false).putFlag (Reg.optTstat p) 1 false).putFlag
      (Reg.optTstat p) 2 true).putField (Reg.optTstat p) 16 8 (0x10 + k)
    own = true ∨ lanes ok < 2 → portFails p (s.field (Reg.portStat p) 48 8) u = .ok () t →
    exec (.opticalTrainingStepDone p failed own) s = .next (t.putFlag Reg.mgmtEvt 3 true))

/-! Optical links, circuits, and the fabric (chapters 02 and 03). -/

/-- R56, R65–R74: PORT_CTL, PORT_SECRET, UNLOCK, draining and retraining of a port in packet mode. -/
def PortEvents : Prop :=
  (∀ p w v s, s.admits w (Reg.portCtl p) v = true → p < 36 → Word.bit v 0 = false → Word.bit v 1 = false → Word.bit v 2 = false →
    s.portState p ≠ 4 → exec (.portCtlEnWrite p w v) s = .next ((s.wrote (Reg.portCtl p) v).onLink p fun l => { l with draining := true })) ∧
  (∀ p w v s, s.admits w (Reg.portCtl p) v = true → p < 36 → Word.bit v 0 = true → Word.bit v 1 = true → Word.bit v 2 = false →
    s.portState p = 3 ∨ s.portState p = 5 →
    exec (.portRetrainWrite p w v) s = .next ((((s.wrote (Reg.portCtl p) v).putField (Reg.portStat p) 32 3 1).counted p errRetrain).onLink p
      fun l => { l with draining := false })) ∧
  (∀ p w v s t, s.admits w (Reg.portCtl p) v = true → p < 36 → Word.bit v 2 = true → s.portState p = 4 →
    unlockPort p (s.wrote (Reg.portCtl p) (Word.setBit v 0 (s.flag (Reg.portCtl p) 0))) = .ok () t → exec (.portUnlock p w v) s = .next t) ∧
  (∀ p s, s.circuit p = false → s.portState p = 4 →
    unlockPort p s = .ok () ((s.onSess p 4096 fun e =>
      { e with sendSeq := 0, expect := 0, keyed := true, nakOut := false, failsAtE := 0, fails := 0, resend := [], accepted := 0, lsrPeer := [],
               attempt := 1, own := (s.link p).record }).putField (Reg.portStat p) 32 3 2)) ∧
  (∀ p k w v s, s.admits w (Reg.portSecret p k) v = true → p < 36 → k < 6 →
    exec (.portSecretWrite p k w v) s = .next (s.onSess p (s.ctlKey p) fun e =>
      { e with secret := (if e.secret.length = 48 then e.secret else List.replicate 48 0#8).take (8 * k) ++ leBytes 8 v.toNat ++
                 (if e.secret.length = 48 then e.secret else List.replicate 48 0#8).drop (8 * k + 8) })) ∧
  (∀ p s, p < 36 → (s.link p).draining = true → s.portState p ≠ 0 → s.portState p ≠ 4 → (s.link p).queue = [] → (s.link p).waiting = [] →
    (∀ e ∈ (s.link p).sess, e.2.resend = []) →
    exec (.portDrained p) s = .next ((s.putField (Reg.portStat p) 32 3 0).onLink p fun l => { l with draining := false })) ∧
  (∀ p s, p < 36 → s.portState p = 3 →
    exec (.retrainTrigger p) s = .next ((s.putField (Reg.portStat p) 32 3 1).counted p errRetrain)) ∧
  (∀ p (full half : BitVec 8) s, p < 36 → s.portState p = 1 →
    let f := full.toNat &&& s.field (Reg.optTrn p) 16 8
    let all := (full.toNat ||| half.toNat) &&& s.field (Reg.optTrn p) 16 8
    let lm := if 2 ≤ popcount f 8 then f else all
    let sp := if 2 ≤ popcount f 8 then 0 else 1
    let u := s.putField (Reg.optTstat p) 8 8 lm
    let own := (widthOf (popcount lm 8), lm, sp)
    (2 ≤ popcount lm 8 → exec (.retrainDone p full half) s = .next (((u.onLink p fun l => { l with record := own }).putField (Reg.portStat p)
      32 3 2).onSess p 4096 fun e => { e with attempt := 1, own := own, lsrPeer := [] })) ∧
    (popcount lm 8 < 2 → ∀ t, portFails p 0x34 u = .ok () t → exec (.retrainDone p full half) s = .next t)) ∧
  (∀ p s t, p < 36 → s.portState p = 2 → s.circuit p = false → portFails p 0x33 s = .ok () t → exec (.lsrTimeout p) s = .next t) ∧
  (∀ p s t, p < 36 → s.portState p = 2 → s.circuit p = false →
    let e := s.sess p 4096
    emitFlit p 4096 e.sendSeq ⟨flitHdr tyLSR 2 true true (BitVec.ofNat 10 s.pkg) (BitVec.ofNat 10 (s.farPkg p)) e.sendSeq e.expect 32 0,
      fullPayload (s.lsrRecord p)⟩ s = .ok () t →
    exec (.lsrSend p) s = .next (t.onSess p 4096 fun x => { x with sendSeq := e.sendSeq + 1 })) ∧
  (∀ p body s t, p < 36 → s.portState p = 2 → s.circuit p = false → body.length = 32 → lsrReceived p body s = .ok () t →
    exec (.lsrReceive p body) s = .next t)

/-- R57–R64, R75, R503: flits: which goes out next, what a received one does by whether its tag verifies and by its number, NAKs, timeouts,
acknowledgements, the end of a session, and ATTEST messages. -/
def FlitEvents : Prop :=
  (∀ p s q f rest t, p < 36 → s.maySend p = true → s.attestOnly p = false → s.upNow p = true → (s.sess p (s.sessKey p)).resend = (q, f) :: rest →
    emitFlit p (s.sessKey p) q f s = .ok () t →
    exec (.flitSend p) s = .next (t.onSess p (s.sessKey p) fun e => { e with resend := rest })) ∧
  (∀ p s x t, p < 36 → s.maySend p = true → s.attestOnly p = false → s.upNow p = true → (s.sess p (s.sessKey p)).resend = [] →
    (s.sess p (s.sessKey p)).replay.length < 4096 → (s.sess p (s.sessKey p)).sendSeq < 2 ^ 64 - 1 →
    pickMsg (s.link p) (fun x => (! s.circuit p || x.key == peerOf (s.entryWord p)) && x.msg.typ != tyATTEST) = some x →
    sendNext p (s.sessKey p) x s = .ok () t → exec (.flitSend p) s = .next t) ∧
  (∀ p bytes s f t, p < 36 → bytes.length = 256 → s.circuit p = false → s.portState p = 3 →
    let e := s.sess p 4096
    let q := nearest e.expect (2 ^ 32) (rawFlit bytes).seq
    openFlit e.secret (1 - s.sendDir p) q bytes = some f → verified p 4096 q f s = .ok () t → exec (.flitReceive p bytes) s = .next t) ∧
  (∀ p bytes s t, p < 36 → bytes.length = 256 → s.circuit p = false → s.portState p = 3 →
    let e := s.sess p 4096
    let q := nearest e.expect (2 ^ 32) (rawFlit bytes).seq
    openFlit e.secret (1 - s.sendDir p) q bytes = none → tagFailed p 4096 ((rawFlit bytes).seq == e.expect % 2 ^ 32) s = .ok () t →
    exec (.flitReceive p bytes) s = .next t) ∧
  (∀ p key q f s t, f.typ ≠ tyLSR → q = (s.sess p key).expect → acked p key (nearest (s.sess p key).sendSeq (2 ^ 24) (f.field 40 24)) s = .ok () t →
    ∀ u, acceptPayload p key f (t.onSess p key fun x =>
      { x with expect := q + 1, nextSeq := q + 1, accepted := x.accepted + 1, fails := 0, failsAtE := 0, nakOut := false }) = .ok () u →
    verified p key q f s = .ok () u) ∧
  (∀ p key q f s t, f.typ ≠ tyLSR → q < (s.sess p key).expect →
    acked p key (nearest (s.sess p key).sendSeq (2 ^ 24) (f.field 40 24)) s = .ok () t → verified p key q f s = .ok () t) ∧
  (∀ p key q f s t u, f.typ ≠ tyLSR → (s.sess p key).expect < q →
    acked p key (nearest (s.sess p key).sendSeq (2 ^ 24) (f.field 40 24)) s = .ok () t → sendNak p key (t.counted p errReplay) = .ok () u →
    verified p key q f s = .ok () u) ∧
  (∀ p (q : BitVec 32) s, p < 36 → s.upNow p = true →
    exec (.nakReceive p q) s = .next (s.onSess p (s.sessKey p) fun e =>
      { e with resend := e.replay.filter (nearest e.sendSeq (2 ^ 32) q.toNat ≤ ·.1) })) ∧
  (∀ p s, p < 36 → s.upNow p = true → (s.sess p (s.sessKey p)).replay ≠ [] →
    exec (.replayTimeout p) s = .next ((s.onSess p (s.sessKey p) fun e => { e with resend := e.replay }).counted p errReplay)) ∧
  (∀ p s, p < 36 → s.upNow p = true → (s.sess p (s.sessKey p)).resend = [] → (∀ x ∈ (s.link p).queue, x.parked = true) →
    exec (.keepaliveTimeout p) s = .next (s.onLink p fun l => { l with queue := ⟨s.farPkg p, 2, ⟨tyACKONLY, true, BitVec.ofNat 10 s.pkg,
      BitVec.ofNat 10 (s.farPkg p), 0#32, []⟩, 0, false⟩ :: l.queue })) ∧
  (∀ p s, p < 36 → s.upNow p = true → 512 ≤ (s.sess p (s.sessKey p)).accepted → s.ackQueued p = false →
    exec (.ackThreshold p) s = .next (s.onLink p fun l => { l with queue := ⟨s.farPkg p, 2, ⟨tyACKONLY, true, BitVec.ofNat 10 s.pkg,
      BitVec.ofNat 10 (s.farPkg p), 0#32, []⟩, 0, false⟩ :: l.queue })) ∧
  (∀ p s t, p < 36 → s.upNow p = true → 2 ^ 64 - 1 ≤ (s.sess p (s.sessKey p)).sendSeq → lockPort p (s.sessKey p) 0x36 s = .ok () t →
    exec (.sessionExhausted p) s = .next t) ∧
  (∀ p body s, p < 36 → s.attestOnly p = true →
    let n := leVal ((body.drop 2).take 2)
    let want := match (body.getD 0 0#8).toNat with | 1 => 129 | 2 => 656 | 3 => 144 | _ => 0
    exec (.attestMessageReceive p body) s = .next (if want = 0 ∨ n ≠ want ∨ body.length ≠ 4 + n then s.counted p errProto
      else s.onLink p fun l => { l with attestIn := l.attestIn ++ [body] }))

/-- R76–R81, R520: circuit mode: SLOT_CFG, rotations, guards and windows, and the training of circuits. A rotation captures the table and
checks it again. -/
def CircuitEvents : Prop :=
  (∀ p w v s, s.admits w (Reg.slotCfg p) v = true → p < 36 → Word.bit v 0 = false →
    exec (.slotCfgWrite p w v) s = .next ((((s.wrote (Reg.slotCfg p) v).putFlag (Reg.slotCfg p) 0 false).setReg (Reg.circStat p) 0#64).onLink p
      fun l => { l with running := false, window := false, late := none })) ∧
  (∀ p w v s, s.admits w (Reg.slotCfg p) v = true → p < 36 → Word.bit v 0 = true → s.flag (Reg.slotCfg p) 0 = false →
    let u := s.wrote (Reg.slotCfg p) v
    exec (.slotCfgWrite p w v) s = .next (if u.tableOk p (u.slotTable p) then u.onLink p fun l =>
        { l with mark := firstStart (Word.bits v 32 32) (rotationLength (u.slotTable p)) u.dcc.toNat, running := false, window := false,
                 late := none }
      else (u.putFlag (Reg.slotCfg p) 0 false).putFlag (Reg.slotCfg p) 1 true)) ∧
  (∀ p s, p < 36 → s.flag (Reg.slotCfg p) 0 = true → (s.link p).running = false → (s.link p).mark ≤ s.dcc.toNat →
    exec (.rotationStart p) s = .next (if s.tableOk p (s.slotTable p) then s.onLink p fun l =>
        { l with running := true, table := s.slotTable p, entry := 0, window := false, silent := ! s.flag Reg.tsyncStat 0 }
      else ((((s.putFlag (Reg.slotCfg p) 0 false).setReg (Reg.circStat p) 0#64).onLink p
        fun l => { l with running := false, window := false, late := none })).putFlag (Reg.slotCfg p) 1 true)) ∧
  (∀ p s, p < 36 → (s.link p).running = true → (s.link p).window = false →
    let stop := (s.link p).mark + guardOf (s.entryWord p) * 15
    stop ≤ s.dcc.toNat → exec (.slotGuardEnd p) s = .next (s.onLink p fun l => { l with window := true, mark := stop, late := none })) ∧
  (∀ p s, p < 36 → (s.link p).running = true → (s.link p).window = true →
    let stop := (s.link p).mark + durOf (s.entryWord p) * 15
    let more := decide ((s.link p).entry + 1 < (s.link p).table.length)
    stop ≤ s.dcc.toNat → exec (.slotWindowEnd p) s = .next (s.onLink p fun l =>
      { l with window := false, mark := stop, late := some (s.entryWord p), running := more, entry := if more then l.entry + 1 else l.entry,
               silent := l.silent || ! s.flag Reg.tsyncStat 0 })) ∧
  (∀ p i s w n sp s1 s2 s3, p < 36 → s.circuit p = true → s.flag (Reg.slotCfg p) 0 = true → i < (s.link p).table.length →
    s.flag (Reg.circStat p) i = false →
    let e := s.sess p (circuitOf ((s.link p).table.getD i 0#64))
    e.keyed = true → e.secret.length = 48 → choose 54 3 s = .ok w s1 → choose 55 256 s1 = .ok n s2 → choose 56 2 s2 = .ok sp s3 →
    let width := [8, 4, 2].getD w 8
    exec (.circuitTrained p i true) s = .next (((((s3.putField (Reg.portStat p) 36 4 width).putField (Reg.portStat p) 40 8
      (if width ≤ popcount n 8 then n else 0xFF)).putField (Reg.portStat p) 35 1 sp).putFlag (Reg.circStat p) i true).putField (Reg.portStat p)
      32 3 3)) ∧
  (∀ p i s c t, p < 36 → s.circuit p = true → s.flag (Reg.slotCfg p) 0 = true → i < (s.link p).table.length →
    s.flag (Reg.circStat p) i = false → choose 57 5 s = .ok c t →
    exec (.circuitTrained p i false) s = .next (t.putField (Reg.portStat p) 48 8 (0x31 + c)))

/-- R84–R96, R100–R102, R488, R502, R516: messages that arrive, requests that time out, routes, rank tables, and time synchronisation. -/
def FabricEvents : Prop :=
  (∀ n w v s, s.admits w (Reg.route n) v = true → n < 1024 → exec (.routeWrite n w v) s = .next (s.wrote (Reg.route n) v)) ∧
  (∀ k off w v s t, s.admits w (Reg.rankBase k + off) v = true → k < 8 → off = 0 ∨ off = 8 →
    dropRanks k (s.wrote (Reg.rankBase k + off) v) = .ok () t → exec (.rankTableConfigWrite k off w v) s = .next t) ∧
  (∀ w v s, s.admits w Reg.tsyncCtl v = true → Word.bits v 16 8 ≠ 0 → Word.bit v 0 = true →
    exec (.tsyncCtlWrite w v) s = .next { (s.wrote Reg.tsyncCtl v).putFlag Reg.tsyncStat 0 true with tsEver := true, tsSlew := 0, tsGood := 0 }) ∧
  (∀ w v s, s.admits w Reg.tsyncCtl v = true → Word.bits v 16 8 ≠ 0 → Word.bit v 0 = false → Word.bits v 8 6 ≤ 35 →
    exec (.tsyncCtlWrite w v) s = .next (s.wrote Reg.tsyncCtl v)) ∧
  (∀ s t, s.flag Reg.tsyncCtl 0 = false → s.field Reg.tsyncCtl 8 6 < 36 → s.dccRun = true →
    sendTsync (s.field Reg.tsyncCtl 8 6) 1 s.dcc 0#64 0#64 { s with tsT1 := some s.dcc } = .ok () t → exec .tsyncPeriod s = .next t) ∧
  (∀ m x s t, m.typ = tyTSYNC → m.dst.toNat = s.pkg → msgAt m 0 1 = 1 →
    sendTsync (s.cameBy m) 2 (BitVec.ofNat 64 (msgAt m 8 8)) x s.dcc s = .ok () t → exec (.tsyncReceive m x) s = .next t) ∧
  (∀ m x s t, m.typ = tyTSYNC → m.dst.toNat = s.pkg → msgAt m 0 1 = 2 → s.flag Reg.tsyncCtl 0 = false →
    s.tsT1 = some (BitVec.ofNat 64 (msgAt m 8 8)) →
    syncTo (syncOffset (BitVec.ofNat 64 (msgAt m 8 8)) (BitVec.ofNat 64 (msgAt m 16 8)) (BitVec.ofNat 64 (msgAt m 24 8)) x) s = .ok () t →
    exec (.tsyncReceive m x) s = .next t) ∧
  (∀ m s t, m.dst.toNat = s.pkg → m.typ = tyRDREQ ∨ m.typ = tyWRREQ ∨ m.typ = tyATREQ ∨ (m.typ = tyDATA ∧ s.isGetData m = false) →
    remoteRequest m (s.accepting m) = .ok () t → exec (.remoteRequestReceive m) s = .next t) ∧
  (∀ m s t, m.dst.toNat = s.pkg → m.typ = tyRDRSP ∨ m.typ = tyATRSP ∨ m.typ = tyWRACK ∨ s.isGetData m = true →
    remoteResponse m (s.accepting m) = .ok () t → exec (.remoteResponseReceive m) s = .next t) ∧
  (∀ m s t, m.dst.toNat = s.pkg → m.typ = tyCADD → flitCadd m (s.accepting m) = .ok () t → exec (.flitCaddReceive m) s = .next t) ∧
  (∀ m s k t, m.dst.toNat = s.pkg → m.typ = tyCHIM → s.partOfFpid (msgAt m 0 2) = some k → chimReceived k m s = .ok () t →
    exec (.chimReceive m) s = .next t) ∧
  (∀ m s t, m.dst.toNat = s.pkg → m.typ = tyRSUSP → rsusp m s = .ok () t → exec (.rsuspReceive m) s = .next t) ∧
  (∀ m s k, m.dst.toNat = s.pkg → m.typ = tyRSACK → s.partOfFpid (msgAt m 0 2) = some k →
    exec (.rsackReceive m) s = .next (s.updPart k fun p => { p with acks := p.acks.erase (m.src.toNat, msgAt m 4 8) })) ∧
  (∀ m s t, m.dst.toNat = s.pkg → m.typ = tyRRESUME → rresume m s = .ok () t → exec (.rresumeReceive m) s = .next t) ∧
  (∀ tag s r x t u v w, Map.find s.remotes tag = some r → r.answer = none → s.portState r.port ≠ 3 → s.queued r.port tag = some x →
    x.parked = false → takeQueued r.port (· == x) s = .ok t u → admitWaiting r.port u = .ok () v → answerRemote tag 0x241#10 [] v = .ok () w →
    exec (.holdTimeout tag) s = .next w) ∧
  (∀ tag s r t, Map.find s.remotes tag = some r → r.answer = none → s.queued r.port tag = none → answerRemote tag 0x249#10 [] s = .ok () t →
    exec (.responseTimeout tag) s = .next t) ∧
  (∀ m s k a n t, m.typ = tyRDREQ → msgAt m 0 8 = a → msgAt m 8 4 = n → a < 2 ^ 40 → s.rgnAllows m.world a = true →
    exitChecks (s.blocksOf a n) s = .ok none k → reply m tyRDRSP (leBytes 8 0 ++ s.bytes a n) k = .ok () t → remoteRequest m s = .ok () t) ∧
  (∀ m s t, m.typ ≠ tyDATA → 2 ^ 40 ≤ msgAt m 0 8 ∨ s.rgnAllows m.world (msgAt m 0 8) = false → replyStatus m 0x247#10 s = .ok () t →
    remoteRequest m s = .ok () t)

/-! Boot, security, memory seen from outside, front ends (chapters 03 to 05). -/

/-- R41, R44, R113–R118: package resets and the boot chain. Without VAUX everything but fuses, straps, flash and memory outside the package
is as after reset; PORST_N keeps the always-on island; the release of PORST_N begins phase A with the write of RAIL_EN. -/
def BootEvents : Prop :=
  (∀ s, exec .vauxLoss s = .next s.afterPowerLoss) ∧
  (∀ s, exec .porstNAssert s = .next
    { s.afterPowerLoss with flue := s.flue, mgmtMem := s.mgmtMem, regs := Map.set regReset [] Reg.thmStat (s.reg Reg.thmStat) }) ∧
  (∀ s : State, let t := s.afterPowerLoss
    t.regs = [] ∧ t.harts = [] ∧ t.cores = [] ∧ t.parts = [] ∧ t.frames = [] ∧ t.links = [] ∧ t.outq = [] ∧ t.remotes = [] ∧ t.flue = [] ∧
    t.power = .reset ∧ t.dcc = 0#64 ∧ t.dccRun = false ∧ t.boot.keyhash = s.boot.keyhash ∧ t.boot.flash = s.boot.flash ∧
    t.boot.straps = s.boot.straps ∧ t.boot.minsvn = s.boot.minsvn ∧ t.sched = s.sched ∧ t.hostOut = s.hostOut) ∧
  (∀ s t, s.power.porst = true → bringStep 1 (railEnWrite 0x0001#64) (s.onPower fun p => { p with porst := false }) = .ok () t →
    exec .porstNDeassert s = .next t) ∧
  (∀ s t, s.power.porst = false → s.flag Reg.railStat 0 = true → reload s = .ok () t → exec .reload s = .next t) ∧
  (∀ s t, s.boot.waits = true → bootRest (s.onBoot fun b => { b with hostrdy := true }) = .ok () t → exec .hostrdy s = .next t) ∧
  (∀ s, s.boot.waits = true →
    exec .hostrdyTimeout s = .next ((((s.putField Reg.bootStat 8 8 0x01).putFlag Reg.bootStat 1 true)).onBoot fun b => { b with step := 0 })) ∧
  (∀ off data s, exec (.bootWindowWrite off data) s = .next
    (if s.boot.waits = true ∧ off + data.length ≤ 8388608 then s.onBoot fun b => { b with staging := Map.setN (fun _ => 0#8) b.staging off data }
    else { s with hostOut := [1#8] :: s.hostOut })) ∧
  (∀ s img slot t, Map.getN (fun _ => 0#8) s.boot.staging 0 (if fld (Map.getN (fun _ => 0#8) s.boot.staging 0 512) 8 8 ≤ 8388608 then
      fld (Map.getN (fun _ => 0#8) s.boot.staging 0 512) 8 8 else 512) = img → fwHeaderOk img = true →
    s.boot.keySlot ((img.drop 24).take 97) = some slot → s.boot.minsvn ≤ fld img 16 4 → fwSignatureOk img = false → bootFail 0x05 s = .ok () t →
    bootRest s = .ok () t)

/-- R107–R112, R118–R121: the region table, RGN_SYNC, measurements and attestation. A locked entry takes no write and sets RGN_CFG.ERR. -/
def SecurityEvents : Prop :=
  (∀ k off w v s, s.admits w (Reg.rgnCfg + off) v = true → 0x1000 ≤ off → off < 0x2000 → off % 8 = 0 → (off - 0x1000) / 16 = k →
    s.flag (Reg.rgnLo k) 60 = true → exec (.rgnEntryWrite off w v) s = .next (s.putFlag Reg.rgnCfg 1 true)) ∧
  (∀ k off w v s, s.admits w (Reg.rgnCfg + off) v = true → 0x1000 ≤ off → off < 0x2000 → off % 16 = 8 → (off - 0x1000) / 16 = k →
    s.flag (Reg.rgnLo k) 60 = false → exec (.rgnEntryWrite off w v) s = .next (s.wrote (Reg.rgnHi k) v)) ∧
  (∀ k off w v s, s.admits w (Reg.rgnCfg + off) v = true → 0x1000 ≤ off → off < 0x2000 → off % 16 = 0 → (off - 0x1000) / 16 = k →
    s.flag (Reg.rgnLo k) 60 = false →
    exec (.rgnEntryWrite off w v) s = .next (if (Word.bit v 62 && Word.bit v 61) || (Word.bit v 63 && decide (s.field (Reg.rgnHi k) 16 36 <
      Word.bits v 16 36)) then s.putFlag Reg.rgnCfg 1 true else s.wrote (Reg.rgnLo k) v)) ∧
  (∀ w v s, s.admits w Reg.rgnSync v = true → Word.bit v 0 = true → exec (.rgnSyncGo w v) s = .next (s.putFlag Reg.rgnSync 1 true)) ∧
  (∀ s, s.flag Reg.rgnSync 1 = true → s.outq = [] → (∀ e ∈ s.remotes, e.2.answer.isSome = true) →
    exec .rgnSyncDone s = .next (s.putFlag Reg.rgnSync 1 false)) ∧
  (∀ w v s t, s.admits w Reg.measCmd v = true → Word.bit v 7 = false → Word.bit v 8 = false →
    s.flag Reg.measCmd 8 = false ∨ 4 ≤ Word.bits v 0 3 →
    extendMeas (Word.bits v 0 3) ((List.range 6).flatMap fun w => leBytes 8 (Map.get (fun _ => 0#64) s.boot.measD w).toNat) s = .ok () t →
    exec (.measExtend w v) s = .next t) ∧
  (∀ w v s, s.admits w Reg.measCmd v = true → Word.bit v 7 = false → Word.bit v 8 = false → s.flag Reg.measCmd 8 = true →
    Word.bits v 0 3 < 4 → exec (.measExtend w v) s = .next (s.putFlag Reg.measCmd 7 true)) ∧
  (∀ req s, s.flag Reg.bootStat 0 = true →
    let r := s.spdm req s.tick
    exec (.spdmRequest req) s = .next (({ s with tick := s.tick + 1, boot := { s.boot with mbox := r }, hostOut := (0#8 :: r) :: s.hostOut } : State)))

/-- R106, R123, R126, R294, R315: accesses of the host, and data of the second tier. What the host may not access answers Unsupported
Request and changes nothing else. -/
def HostMemoryEvents : Prop :=
  (∀ pa data poison s, s.power.porst = false → data ≠ [] → s.hostMay pa data.length = false →
    exec (.hostMemWrite pa data poison) s = .next { s with hostOut := [2#8] :: s.hostOut }) ∧
  (∀ pa data poison s b t u, s.power.porst = false → data ≠ [] → s.hostMay pa data.length = true →
    physWrite pa data (if poison then some 0x293#10 else none) s = .ok b t → hostPublish pa data t = .ok () u →
    exec (.hostMemWrite pa data poison) s = .next u) ∧
  (∀ pa n s, s.power.porst = false → (s.hostMay pa n && (range pa n).all fun a => s.place a == .hbm) = false →
    exec (.hostMemRead pa n) s = .next { s with hostOut := [2#8] :: s.hostOut }) ∧
  (∀ pa n s rs t, s.power.porst = false → (s.hostMay pa n && (range pa n).all fun a => s.place a == .hbm) = true →
    mapE (s.blocksOf pa n) exitCheck s = .ok rs t →
    exec (.hostMemRead pa n) s = .next { t with hostOut := ((if rs.any (·.isSome) then 1#8 else 0#8) :: s.bytes pa n) :: t.hostOut }) ∧
  (∀ pa data s, data ≠ [] → pa % 256 + data.length ≤ 256 → ((range pa data.length).all fun a => s.place a == .tier2) = true →
    s.bytes pa data.length = data →
    exec (.secondTierReadArrival pa data false) s = .next
      { s with blocks := Map.set (fun _ => Meta.clear) s.blocks (s.block pa) { s.meta (s.block pa) with synd := 0#32 } })

/-- R133–R140, R153–R157, R512, R513: a front end's ring, FE_QPUSH, its watchdog, and the second tier's configuration. -/
def RingEvents : Prop :=
  (∀ f w v s, s.admits w (Reg.ringCtl f) v = true → f < 8 → Word.bit v 0 = true → s.ringState f = 0 → s.ringOk f v = false →
    exec (.ringCtlWrite f w v) s = .next (s.putFlag (Reg.ringStat f) 0 true)) ∧
  (∀ f w v s t, s.admits w (Reg.ringCtl f) v = true → f < 8 → Word.bit v 0 = true → s.ringState f = 0 → s.ringOk f v = true →
    startRing f (s.wrote (Reg.ringCtl f) v) = .ok () t → exec (.ringCtlWrite f w v) s = .next t) ∧
  (∀ f s, Map.has s.feWait f = false →
    startRing f s = .ok () ((s.setReg (Reg.ringPos f) (s.word (s.ptrAddr f + 0x40))).putField (Reg.ringStat f) 16 2 1)) ∧
  (∀ f w v s t, s.admits w (Reg.ringCtl f) v = true → f < 8 → Word.bit v 0 = true → Word.bit v 1 = true → s.ringState f = 2 →
    (s.part f).holdWdog = false → restartRing f (s.wrote (Reg.ringCtl f) v) = .ok () t → exec (.ringRestart f w v) s = .next t) ∧
  (∀ f off w v s, s.admits w (Reg.ringCtl f + off) v = true → f < 8 → off = 0x008 ∨ off = 0x010 ∨ off = 0x018 ∨ off = 0x020 →
    exec (.ringBaseWrite f off w v) s = .next (if s.ringState f = 0 then s.wrote (Reg.ringCtl f + off) v
      else s.putFlag (Reg.ringStat f) 0 true)) ∧
  (∀ f s, f < 8 → s.ringState f = 1 → (s.word (s.ptrAddr f)).ult (s.reg (Reg.ringPos f)) = true →
    exec (.tailWriteCheck f) s = .next (((s.putField (Reg.ringStat f) 16 2 2).putField (Reg.ringStat f) 32 10 0x2CB).posted f
      ⟨0, false, 0, 0x2CB#10, (s.part f).lastStep.toNat % 2 ^ 32, 0#64, (s.reg (Reg.ringPos f)).toNat⟩)) ∧
  (∀ f w v s, s.admits w (Reg.feQpush f) v = true → f < 8 → Word.bit v 8 = false → Map.has s.feWait f = false → s.ringState f ≠ 1 →
    exec (.feQpushPush f w v) s = .next { s with feWait := Map.insert s.feWait f v, feHold := Map.set (fun _ => false) s.feHold f true }) ∧
  (∀ f w v s t, s.admits w (Reg.feQpush f) v = true → f < 8 → Word.bit v 8 = false → Map.has s.feWait f = false → s.ringState f = 1 →
    1 ≤ Word.bits v 0 6 → Word.bits v 0 6 ≤ 3 → pushGroup f (Word.bits v 0 6) v s = .ok () t → exec (.feQpushPush f w v) s = .next t) ∧
  (∀ f w v s t, s.admits w (Reg.feQpush f) v = true → f < 8 → Word.bit v 8 = true → Map.has s.feWait f = false → s.ringState f = 1 →
    Word.bits v 0 6 ≤ 2 → stopRing f (BitVec.ofNat 10 (Word.bits v 16 10)) ((s.reg (Reg.ringPos f)).toNat + Word.bits v 0 6) s = .ok () t →
    exec (.feQpushStop f w v) s = .next { t with feWait := Map.insert t.feWait f v, feHold := Map.set (fun _ => false) t.feHold f true }) ∧
  (∀ f s v t, f < 8 → Map.find s.feWait f = some v → s.pushWaits f = true → pushGroup f (Word.bits v 0 6) v s = .ok () t →
    exec (.queueSpaceFreed f) s = .next t) ∧
  (∀ f n v s es e t u, (s.reg (Reg.ringPos f)).toNat = n → viewEntries f n (Word.bits v 0 6) s = .ok (.ok es) t → groupFault es = none →
    es.headD [] = e → t.queueTakes f (entClass e) = true →
    groupDone f n (Word.bits v 0 6) (t.updPart f fun p => p.setQueue (entClass e) (p.queue (entClass e) ++
      [{ source := 0, bytes := es.flatten, rels := [], cmdidx := n, reserve := false, parent := 0, slot := entSlot e, step := 0#64,
         stage := .queued, gained := [] }])) = .ok () u → pushGroup f (Word.bits v 0 6) v s = .ok () u) ∧
  (∀ f w v s, s.admits w (Reg.wdogCfg f) v = true → f < 8 →
    exec (.wdogCfgWrite f w v) s = .next (if Word.bits v 16 16 < 10 then s.putFlag (Reg.ringStat f) 0 true else s.wrote (Reg.wdogCfg f) v)) ∧
  (∀ f w v s, s.admits w (Reg.wdogKick f) v = true → f < 8 →
    exec (.wdogKick f w v) s = .next { s with wdog := Map.set (fun _ => 0) s.wdog f 0 }) ∧
  (∀ f s t, f < 8 → s.wdogCounts f = true → s.field (Reg.wdogCfg f) 16 16 * 15000 ≤ Map.get (fun _ => 0) s.wdog f → wdogExpiry f s = .ok () t →
    exec (.watchdogExpiry f) s = .next t) ∧
  (∀ w v s, s.admits w Reg.t2Cfg v = true → Word.bit v 0 = false → exec (.t2CfgWrite w v) s = .next (s.wrote Reg.t2Cfg v)) ∧
  (∀ w o v s t, o % 8 = 0 → (∀ f < 8, o = Reg.feQpush f → Map.has s.feWait f = false) → s.admits w o v = true → regWrite w o v s = .ok () t →
    exec (.regWrite w (mmioBase + o) v) s = .next t) ∧
  (∀ w o v s, (o < Reg.flue ∨ Reg.flueEnd ≤ o) → regSpec o = none → regWrite w o v s = .ok () s)

/-! Partitions, class queues, slots (chapters 05 and 06). -/

/-- R159–R162, R200, R201, R272, R281, R282: PART_CTL, SCHED_CFG, the shadow region, PT_ROOT, CTX_CTL and invalidation. A refused change
sets REJ and changes nothing else. -/
def PartitionEvents : Prop :=
  (∀ k w v s, s.admits w (Reg.partCtl k) v = true → k < 8 → Word.bit v 0 = true → s.partOn k = false → s.mayCreate k v = false →
    exec (.partCreate k w v) s = .next (s.putFlag (Reg.partCtl k) 2 true)) ∧
  (∀ k w v s t, s.admits w (Reg.partCtl k) v = true → k < 8 → Word.bit v 0 = true → s.partOn k = false → s.mayCreate k v = true →
    createPartition k v s = .ok () t → exec (.partCreate k w v) s = .next t) ∧
  (∀ k w v s, s.admits w (Reg.partCtl k) v = true → k < 8 → Word.bit v 0 = false → s.partOn k = true →
    Word.bits v 16 8 = Word.bits (s.reg (Reg.partCtl k)) 16 8 → Word.bit v 4 = Word.bit (s.reg (Reg.partCtl k)) 4 →
    (s.mayDestroy k = false → exec (.partDestroy k w v) s = .next (s.putFlag (Reg.partCtl k) 2 true)) ∧
    (s.mayDestroy k = true → ∀ t, clearPartition k (s.part k).phys s = .ok () t →
      exec (.partDestroy k w v) s = .next ((t.wrote (Reg.partCtl k) v).putFlag (Reg.partCtl k) 1 true))) ∧
  (∀ k s, k < 8 → s.flag (Reg.partCtl k) 1 = true → s.partOn k = true →
    exec (.partBusyDone k) s = .next (s.putFlag (Reg.partCtl k) 1 false)) ∧
  (∀ k s t, 0 < k → k < 8 → s.flag (Reg.partCtl k) 1 = true → s.partOn k = false → holdFrontEnd k s = .ok () t →
    exec (.partBusyDone k) s = .next ((t.updPart k fun p => { p with phys := [], lcores := 0 }).putFlag (Reg.partCtl k) 1 false)) ∧
  (∀ k w v s, s.admits w (Reg.schedCfg k) v = true → k < 8 →
    exec (.schedCfgWrite k w v) s = .next (if Word.bits v 32 16 < 10 ∨ 10000 < Word.bits v 32 16 then s.putFlag (Reg.seqStat k) 3 true
      else s.wrote (Reg.schedCfg k) v)) ∧
  (∀ k off w v s, s.admits w (Reg.partCtl k + off) v = true → k < 8 → off = 0x100 ∨ off = 0x108 →
    ((s.part k).seq.state ≠ .idle ∨ (s.part k).tasks ≠ [] → exec (.shadowConfigWrite k off w v) s = .next (s.putFlag (Reg.ctxStat k) 3 true))) ∧
  (∀ k w v s sp, s.admits w (Reg.shadowBase k) v = true → k < 8 → (s.part k).seq.state = .idle → (s.part k).tasks = [] →
    regSpec (Reg.shadowBase k) = some sp → s.shadowOk k (sp.write (s.reg (Reg.shadowBase k)) v) (s.reg (Reg.shadowCfg k)) = true →
    exec (.shadowConfigWrite k 0x100 w v) s = .next (s.setReg (Reg.shadowBase k) (sp.write (s.reg (Reg.shadowBase k)) v))) ∧
  (∀ k w v s, s.admits w (Reg.ctxCtl k) v = true → k < 8 → s.ctxPhase k ≠ 4 → exec (.ctxResume k w v) s = .next s) ∧
  (∀ k w v s c e u t, s.admits w (Reg.ctxCtl k) v = true → k < 8 → Word.bit v 0 = true → s.ctxPhase k = 4 →
    sendSusp k tyRRESUME (s.part k).epoch ((List.range (s.part k).lcores).flatMap (s.ranksOf k)) s = .ok () u →
    ((List.range 4).findSome? fun c =>
      match ((s.part k).queue c).head? with
      | some e => if e.source = 0 ∧ entKind e.bytes = 8 ∧ e.stage = .acting then some (c, e) else none
      | none => none) = some (c, e) →
    finishThaw k c (s.reg (Reg.seqQbar k)).toNat e u = .ok () t → exec (.ctxResume k w v) s = .next t) ∧
  (∀ k w v s, s.admits w (Reg.ptRoot k) v = true → k < 8 → exec (.ptRootWrite k w v) s = .next (s.wrote (Reg.ptRoot k) v)) ∧
  (∀ k w v s, s.admits w (Reg.invCtl k) v = true → k < 8 → Word.bit v 0 = true → s.flag (Reg.invCtl k) 1 = true →
    exec (.invGo k w v) s = .next s) ∧
  (∀ k w v s t u, s.admits w (Reg.invCtl k) v = true → k < 8 → Word.bit v 0 = true → s.flag (Reg.invCtl k) 1 = false →
    let lo := granuleAddr (s.reg (Reg.invBase k))
    let hi := granuleAddr (s.reg (Reg.invLimit k)) + 65535
    startInvalidation k lo hi (((s.wrote (Reg.invCtl k) v).putFlag (Reg.invCtl k) 1 true).updPart k fun p => { p with invs := [(lo, hi)] }) =
      .ok () t →
    endInvalidation k lo hi t = .ok () u → exec (.invGo k w v) s = .next u) ∧
  (∀ k s t u, k < 8 → s.flag (Reg.invCtl k) 1 = true → s.partOut k = false →
    each (s.part k).invs (fun r => endInvalidation k r.1 r.2) s = .ok () t →
    addWindow k (s.field (Reg.invCtl k) 16 13) 1 (s.frontRel k []) (t.updPart k fun p => { p with invs := [] }) = .ok () u →
    exec (.invDone k) s = .next (u.putFlag (Reg.invCtl k) 1 false))

/-- R142–R152, R160, R165, R166, R191: entries of class queues. One that dispatches completes, acts, or keeps the head of its class; a
poisoned wait cancels it with the counter's cause; its end adds or poisons, and posts a record where it asks for one or has failed. -/
def QueueEntryEvents : Prop :=
  (∀ k c kind s e rest, s.mayDispatch k (kind == 8) = true → (s.part k).queue c = e :: rest → e.source = 0 → entKind e.bytes = kind →
    e.stage = .queued → entCpl e.bytes = false ∨ (s.part k).cpl.length < 256 → hostHead k c kind s = .ok e s) ∧
  (∀ k e s, entWen e.bytes = false → entryWait k e s = .ok (.met []) s) ∧
  (∀ p ∈ [(Instr.cmdNop, 0x00), (Instr.cmdCadd, 0x04), (Instr.cmdCwait, 0x05)], ∀ k c s e t u, Dispatches k c p.2 e s t →
    complete k c e 0#10 0#64 t = .ok () u → exec (p.1 k c) s = .next u) ∧
  (∀ k c s e t u, Dispatches k c 0x0A e s t → complete k c e 0#10 s.dcc t = .ok () u → exec (.cmdStamp k c) s = .next u) ∧
  (∀ k c s e t u, Dispatches k c 0x09 e s t →
    startSweep k (.entry { e with stage := .acting }) (t.updPart k fun p => p.setHead c { e with stage := .acting }) = .ok () u →
    exec (.cmdQbar k c) s = .next u) ∧
  (∀ k c s e rest f t u, (s.part k).queue c = e :: rest → hostHead k c (entKind e.bytes) s = .ok e s → entryWait k e s = .ok (.poisoned f) t →
    complete k c e f 0#64 t = .ok () u → exec (.cmdWaitCancel k c) s = .next u) ∧
  (∀ k c e status value s t u, dequeue k c s = .ok () t → endEntry k e status value t = .ok () u → complete k c e status value s = .ok () u) ∧
  (∀ k c s e rest, (s.part k).queue c = e :: rest → e.source = 0 → dequeue k c s = .ok () (s.updPart k fun p => p.dropHead c)) ∧
  (∀ k e status value s, entSen e.bytes = false →
    endEntry k e status value s = .ok () (if entCpl e.bytes = true ∨ status ≠ 0#10 then s.posted k ⟨entKind e.bytes, entIrq e.bytes,
      entTag e.bytes, status, (s.part k).lastStep.toNat % 2 ^ 32, value, e.cmdidx⟩ else s)) ∧
  (∀ k e value s t, entSen e.bytes = true → entCpl e.bytes = false →
    addWindow k (entSidx e.bytes) (entSinc e.bytes) (if entRel e.bytes then s.frontRel k e.gained else []) s = .ok () t →
    endEntry k e 0#10 value s = .ok () t) ∧
  (∀ k c s e t u w, Dispatches k c 0x01 e s t → (t.part k).seq.state = .idle → residencyCheck k e t = .ok none u →
    let x := (u.part k).slot (entSlot e.bytes)
    (∀ n ∈ u.graphCores k x, (u.job n).live = false) →
    acceptRun k c e 1 (((u.graphCores k x).foldl (fun v n => v.updCore n fun y =>
      { y with rel := Map.setN (fun _ => 0#64) [] 0 ((List.range 16).map (entRelAddr e.bytes)) }) u).updPart k fun p =>
        p.setSlot (entSlot e.bytes) { x with launched := true }) = .ok () w →
    exec (.cmdLaunchSlot k c) s = .next w) ∧
  (∀ k c s e t u w, Dispatches k c 0x02 e s t → (t.part k).seq.state = .idle → residencyCheck k e t = .ok none u →
    ((u.part k).slot (entSlot e.bytes)).launched = true → acceptRun k c e (entNstep e.bytes) u = .ok () w →
    exec (.cmdGraphRun k c) s = .next w) ∧
  (∀ p ∈ [(Instr.cmdLaunchSlot, 0x01), (Instr.cmdGraphRun, 0x02)], ∀ k c s e t f u w, Dispatches k c p.2 e s t → (t.part k).seq.state = .idle →
    residencyCheck k e t = .ok (some f) u → complete k c e f 0#64 u = .ok () w → exec (p.1 k c) s = .next w) ∧
  (∀ k c s e t u, Dispatches k c 0x03 e s t → coachEntry k c e t = .ok () u → exec (.cmdCoach k c) s = .next u) ∧
  (∀ k c s e rest n t u, s.mayDispatch k false = true → (s.part k).queue c = e :: rest → e.source = 2 → e.stage = .queued →
    takeNumber k c s = .ok n t → beginTransfer k c n e 2 e.parent e.bytes t = .ok () u → exec (.cmdCoach k c) s = .next u) ∧
  (∀ f s c rest t u, f < 8 → (s.part f).cpl = c :: rest → 6 ≤ s.field (Reg.ringCtl f) 20 4 →
    let ctail := (s.word (s.ptrAddr f + 0x80)).toNat
    ctail - (s.word (s.ptrAddr f + 0xC0)).toNat < 2 ^ s.field (Reg.ringCtl f) 20 4 →
    blockStore (s.cplAddr f ctail) (cplRecord ctail c) (s.updPart f fun p => { p with cpl := rest }) = .ok () t →
    blockStore (s.ptrAddr f + 0x80) (leBytes 8 ((ctail + 1) % 2 ^ 64)) t = .ok () u →
    exec (.completionPost f) s = .next (if (c.irq && s.flag (Reg.ringCtl f) 2) = true then
      { u with msix := s.field (Reg.ringCtl f) 8 8 % 64 :: u.msix } else u))

/-- R147–R150, R214–R224, R361–R365: hearth slots are loaded and evicted, and partitions frozen and thawed. -/
def SlotAndMigrationEvents : Prop :=
  (∀ k c s e t, Dispatches k c 0x06 e s t → ((t.part k).slot (entSlot e.bytes)).state = .empty →
    exec (.cmdSlotLoad k c) s = .next (t.updPart k fun p => (p.setHead c { e with stage := .acting }).setSlot (entSlot e.bytes)
      { (t.part k).slot (entSlot e.bytes) with state := .loading, gen := entGen e.bytes })) ∧
  (∀ k c s e t u, Dispatches k c 0x06 e s t → ((t.part k).slot (entSlot e.bytes)).state ≠ .empty → complete k c e 0x2C6#10 0#64 t = .ok () u →
    exec (.cmdSlotLoad k c) s = .next u) ∧
  (∀ k n s c e y t u, (s.part k).actingOn 0x06 n = some (c, e) → ((s.part k).slot n).state = .loading →
    loadImage k ((s.part k).slot n) e s = .ok (.ok y) t → complete k c e 0#10 0#64 (t.updPart k fun p => p.setSlot n y) = .ok () u →
    exec (.slotLoadDone k n) s = .next u) ∧
  (∀ k n s c e f t u, (s.part k).actingOn 0x06 n = some (c, e) → ((s.part k).slot n).state = .loading →
    loadImage k ((s.part k).slot n) e s = .ok (.error f) t →
    complete k c e f 0#64 (t.updPart k fun p => p.setSlot n { Slot.reset with gen := ((s.part k).slot n).gen }) = .ok () u →
    exec (.slotLoadDone k n) s = .next u) ∧
  (∀ k c s e t u, Dispatches k c 0x07 e s t → ((t.part k).slot (entSlot e.bytes)).state = .empty → complete k c e 0#10 0#64 t = .ok () u →
    exec (.cmdSlotEvict k c) s = .next u) ∧
  (∀ k c s e t, Dispatches k c 0x07 e s t → ((t.part k).slot (entSlot e.bytes)).state = .resident →
    ((t.part k).slot (entSlot e.bytes)).gen = entGen e.bytes →
    exec (.cmdSlotEvict k c) s = .next (t.updPart k fun p => (p.setHead c { e with stage := .acting }).setSlot (entSlot e.bytes)
      { (t.part k).slot (entSlot e.bytes) with state := .evicting })) ∧
  (∀ k n s c e u, (s.part k).actingOn 0x07 n = some (c, e) → ((s.part k).slot n).state = .evicting → (s.part k).slotBusy n = false →
    complete k c e 0#10 0#64 (s.updPart k fun p =>
      p.setSlot n { Slot.reset with gen := ((s.part k).slot n).gen, world := ((s.part k).slot n).world }) = .ok () u →
    exec (.slotEvictDone k n) s = .next u) ∧
  (∀ k c s e0 rest e t u, (s.part k).queue c = e0 :: rest → e0.source = 0 → entKind e0.bytes = 8 → entSlot e0.bytes = 0 → e0.stage = .queued →
    Dispatches k c 0x08 e s t →
    ((s.part k).seq.state = .frozen → writeImage k c e t = .ok () u → exec (.cmdMigrateFreeze k c) s = .next u) ∧
    ((s.part k).seq.state ≠ .frozen → beginFreeze k c e t = .ok () u → exec (.cmdMigrateFreeze k c) s = .next u)) ∧
  (∀ k c s e rest u, (s.part k).queue c = e :: rest → e.source = 0 → entKind e.bytes = 8 → entSlot e.bytes = 0 → e.stage = .acting →
    freezeOn k c e s = .ok () u → exec (.cmdMigrateFreeze k c) s = .next u) ∧
  (∀ k c s e t u, Dispatches k c 0x08 e s t → entSlot e.bytes = 1 → migrateThaw k c e t = .ok () u →
    exec (.cmdMigrateThaw k c) s = .next u)

/-! The sequencer and jobs (chapters 06 and 07). -/

/-- A node at the head of issue whose wait is met (R173). -/
def HeadMet (k kind : Nat) (n : List Byte) (rels : List Rel) (s t : State) : Prop :=
  headNode k s = .ok n s ∧ nodeKind n = kind ∧ nodeWait k (s.part k).seq.step.toNat n s = .ok (.met rels) t

/-- R167–R177, R185, R186, R188–R191: the graph sequencer: captures, node issue, cancellation, drains, sweeps that close steps, the end of
tasks. A malformed header ends the run with 0x301, a malformed node with 0x300. -/
def SequencerEvents : Prop :=
  (∀ k s t, (s.part k).seq.state = .capture →
    let x := (s.part k).slot (s.part k).seq.slot
    (graphOk (s.part k).lcores x.imglen x.graph = false → endRun k 0x301#10 s = .ok () t → exec (.graphCapture k) s = .next t) ∧
    (graphOk (s.part k).lcores x.imglen x.graph = true → (x.nodes x.graph).any (fun n => ! nodeOk (graphNlcore x.graph) x.imglen n) = true →
      endRun k 0x300#10 s = .ok () t → exec (.graphCapture k) s = .next t) ∧
    (graphOk (s.part k).lcores x.imglen x.graph = true → (x.nodes x.graph).any (fun n => ! nodeOk (graphNlcore x.graph) x.imglen n) = false →
      exec (.graphCapture k) s = .next (s.updPart k fun p =>
        { p with seq := { p.seq with state := .issue, node := 0, step := x.step, hdr := x.graph, nodes := x.nodes x.graph } }))) ∧
  (∀ k s n, (s.part k).seq.state = .issue → (s.part k).sweepOpen = false → s.ctxPhase k = 0 →
    (s.part k).seq.nodes[(s.part k).seq.node]? = some n → headNode k s = .ok n s) ∧
  (∀ k st n s, nodeWen n = false → nodeWait k st n s = .ok (.met []) s) ∧
  (∀ k st n s, nodeWen n = true → 2 ^ 64 ≤ nodeThr n st → nodeWait k st n s = .ok (.poisoned 0x302#10) s) ∧
  (∀ k n rels s t i u w, HeadMet k 1 n rels s t → taskNlc n ≤ s.frameCount k → s.taskRoom k (taskNlc n) = true →
    newTask k { Task.absent with
      node := n, cls := (match (s.part k).seq.entry with | some e => entClass e.bytes | none => 0), slot := (s.part k).seq.slot,
      step := (s.part k).seq.step, gained := if nodeAcq n then rels else [] } t = .ok i u →
    advance k u = .ok () w → exec (.nodeTaskIssue k) s = .next w) ∧
  (∀ k n rels s t i u w, HeadMet k 2 n rels s t →
    let block := ((s.part k).slot (s.part k).seq.slot).bytes (coachPboff n) 64
    (blockOk false block = true → newTransfer k (Transfer.start 1 0 0 0 (s.part k).seq.node none block (if nodeAcq n then rels else [])) t =
      .ok i u → advance k u = .ok () w → exec (.nodeCoachIssue k) s = .next w) ∧
    (blockOk false block = false → nodeFail k n 0x201#10 t = .ok () u → advance k u = .ok () w → exec (.nodeCoachIssue k) s = .next w)) ∧
  (∀ k n rels s t u w, HeadMet k 3 n rels s t → startSweep k (.node (s.part k).seq.node) t = .ok () u → advance k u = .ok () w →
    exec (.nodeQbarIssue k) s = .next w) ∧
  (∀ k n rels s t u w, HeadMet k 0 n rels s t → nodeSignal k n (t.frontRel k (if nodeAcq n then rels else [])) t = .ok () u →
    advance k u = .ok () w → exec (.nodeNopIssue k) s = .next w) ∧
  (∀ k n f s t u w, headNode k s = .ok n s → nodeWait k (s.part k).seq.step.toNat n s = .ok (.poisoned f) t → nodeFail k n f t = .ok () u →
    advance k u = .ok () w → exec (.nodeCancel k) s = .next w) ∧
  (∀ k s t, (s.part k).seq.state = .drain → s.ctxPhase k = 0 → (s.part k).tasks = [] → (s.part k).sweepOpen = false →
    (∀ c < 4, ∀ e ∈ (s.part k).queue c, e.source = 0) → (∀ x ∈ (s.part k).transfers, x.2.source = 0) →
    startSweep k .stepEnd (s.updPart k fun p => { p with seq := { p.seq with state := .sweep } }) = .ok () t →
    exec (.stepDrained k) s = .next t) ∧
  (∀ k s w, (s.part k).sweeps.find? (fun w => w.by_ == .stepEnd && w.met) = some w → (s.part k).seq.state = .sweep →
    let x := (s.part k).slot (s.part k).seq.slot
    1 < (s.part k).seq.stepsLeft → (s.part k).seq.cause = 0#10 →
    exec (.sweepClose k) s = .next (s.updPart k fun p =>
      { p.setSlot (s.part k).seq.slot { x with step := x.step + 1#64 } with
        lastStep := x.step + 1#64, closed := s.gseq, sweeps := p.sweeps.erase w,
        seq := { p.seq with stepsLeft := (s.part k).seq.stepsLeft - 1, state := .capture } })) ∧
  (∀ k s w rest t, (s.part k).sweeps = w :: rest →
    (w.met = true ∨ w.second.isSome = true → exec (.sweepReturn k) s = .next (s.updPart k fun p =>
      { p with sweeps := p.sweeps.filter (·.num != w.num) ++ [w] })) ∧
    (w.met = false → w.second = none → sweepSums k w s = .ok () t → exec (.sweepReturn k) s = .next t)) ∧
  (∀ k t s task u w, Map.find (s.part k).tasks t = some task → task.jobs = [] → task.started = true →
    u = s.updPart k (fun p => { p with tasks := Map.erase p.tasks t }) →
    (task.fatal = none → nodeSignal k task.node task.jobRels u = .ok () w → exec (.taskEnd k t) s = .next w) ∧
    (∀ f, task.fatal = some f → nodeFail k task.node f u = .ok () w → exec (.taskEnd k t) s = .next w)) ∧
  (∀ k t cause s c cs u, Map.has (s.part k).tasks t = true → isFatal cause = true ∨ cause = 0x147#10 ∨ cause = 0x345#10 →
    s.taskCores k t = c :: cs → fatalOn c 7 0 cause .plain s = .ok () u → exec (.fatalContextError k t cause) s = .next u)

/-- R178–R182, R193, R199, R202–R210, R225–R228, R235, R236: jobs start, end, are pre-empted, saved and restored; logical cores change their
residency; a deadlock that has lasted ends its task with 0x105. -/
def JobEvents : Prop :=
  (∀ k t s0 s task u v, refreshReady k s0 = .ok () s → Map.find (s.part k).tasks t = some task → task.started = false → task.fatal = none →
    s.ctxPhase k = 0 → (s.part k).seq.state ≠ .frozen → taskNlc task.node ≤ s.framesFree k → s.flag (Reg.ctxStat k) 8 = false →
    (∀ c ∈ s.groupCores k task, (s.job c).live = false) → (∀ c ∈ s.groupCores k task, s.canGive k task c = true) →
    let new := { task with started := true, jobs := range s.nextJob (taskNlc task.node) }
    startGroup k t s.nextJob new false (({ s with nextJob := s.nextJob + taskNlc task.node } : State).updPart k fun p =>
      { p with tasks := Map.insert p.tasks t new }) = .ok () u →
    (if u.allStarted k t then endChildDispatch k new u = .ok () v else v = u) → exec (.taskStart k t) s0 = .next v) ∧
  (∀ c s, let j := s.job c
    j.live = true → (∀ e ∈ j.streams, (s.hart (.stream c e)).stat = .joined ∧ (s.hart (.stream c e)).priv = []) → j.mcmds = [] → j.fcmds = [] →
    j.psb = [] → j.loadQ = [] → j.storeQ = [] → j.rlds = [] → s.coreAwaits c = false → s.jobOut c = false → ∀ t, removeJob c s = .ok () t →
    exec (.jobEnd c) s = .next ((t.inCustody j.part feNode 0 1).updPart j.part fun p =>
      { p with tasks := Map.upd (fun _ => Task.absent) p.tasks j.task fun x =>
          { x with jobs := x.jobs.filter (· != j.id), jobRels := s.endRels c ++ x.jobRels } })) ∧
  (∀ c s t, (s.job c).live = true → 1500 * s.field (Reg.schedCfg (s.job c).part) 32 16 ≤ (s.job c).issueTime →
    refreshReady (s.job c).part s = .ok () t →
    exec (.quantumExpiry c) s = .next (t.updJob c fun j => { j with quantumOver := true, stopping := j.stopping || t.otherReady c })) ∧
  (∀ c s t, let j := s.job c
    j.live = true → j.stopping = true → (∀ e ∈ j.streams, (s.hart (.stream c e)).atPoint = true) →
    (∃ e ∈ j.streams, (s.hart (.stream c e)).stat ≠ .halted) → s.jobQuiet c = true → s.multi j.part = false →
    saveJob c (s.ctxPhase j.part == 1) (s.updJob c fun j => { j with stopping := true }) = .ok () t → exec (.jobPreemptSave c) s = .next t) ∧
  (∀ c id s0 s f t, Map.find s0.frames id = some f → refreshReady f.job.part s0 = .ok () s → (s.job c).live = false →
    let k := f.job.part
    (s.part k).coreOf f.job.lcore = c → s.partOfCore c = some k → s.ctxPhase k = 0 → (s.part k).seq.state ≠ .frozen →
    s.nextJobOn k c = some id → s.resident k f.job.lcore = true → restoreJob c id f s = .ok () t → exec (.jobRestore c id) s0 = .next t) ∧
  (∀ c s k l, s.partOfCore c = some k → s.flag (Reg.ctxStat k) 8 = true → (s.job c).live = false → s.ctxPhase k = 0 →
    (s.part k).seq.state ≠ .frozen → s.nextResident k c = some l →
    exec (.residencyChange c) s = .next ((((s.moveScratch (aliasOf c 0) (s.shadowOf k (s.core c).resident 0)).moveScratch (s.shadowOf k l 0)
      (aliasOf c 0)).loadWritten (aliasOf c 0)).updCore c fun x => { x with resident := l })) ∧
  (∀ k l off data s b t, l < (s.part k).lcores → s.resident k l = false → off + data.length ≤ 4194304 →
    physWrite (s.shadowOf k l off) data none s = .ok b t → exec (.proxyPortAccess k l (.write off data)) s = .next t) ∧
  (∀ k l off v s t, l < (s.part k).lcores → s.resident k l = false → off + 8 ≤ 4194304 → off % 8 = 0 →
    addMcounter (s.shadowOf k l off) v [] s = .ok () t → exec (.proxyPortAccess k l (.memAdd off v)) s = .next t) ∧
  (∀ k l n v s e, l < (s.part k).lcores → n < 256 → s.frames.find? (fun e => e.2.job.part == k && e.2.job.lcore == l) = some e →
    exec (.proxyPortAccess k l (.coreAdd n v)) s = .next
      { s with frames := Map.insert s.frames e.1 { e.2 with job := e.2.job.addCounter n v [] } }) ∧
  (∀ c s t, s.deadlocked c = true → 4096 ≤ (s.core c).deadCycles → fatalOn c 7 0 0x105#10 .plain s = .ok () t →
    exec (.deadlockFault c) s = .next t)

/-! Cores, engines, Cart, Coach (chapters 08 to 14). -/

/-- R94, R249, R261–R268, R293, R310, R313, R387, R396, R409: what happens at a core: acceptance of published effects, waits that are met, answers
to remote loads, effect points, and the service context. -/
def CoreEvents : Prop :=
  (∀ c s t, 4096 ≤ (s.job c).privOrder.length → writeBackOldest c s = .ok () t → exec (.phaseWriteback c) s = .next t) ∧
  (∀ c s i t u, s.acceptable c ≠ [] → choose 58 (s.acceptable c).length s = .ok i t → acceptOut ((s.acceptable c).getD i 0) t = .ok () u →
    exec (.writeAccepted c) s = .next u) ∧
  (∀ c e s w rels t u, (s.hart (.stream c e)).wait = some w → s.runnable (.stream c e) = true → w.waita = false →
    (s.hart (.stream c e)).blocked = .cwait ∨ (s.hart (.stream c e)).blocked = .memWait → metWait w c s = .ok rels t →
    waitDone w.acq rels { t with cur := .stream c e } = .ok () u → exec (.waitSatisfied c e) s = .next u) ∧
  (∀ c e s w rels t b, (s.hart (.stream c e)).wait = some w → s.runnable (.stream c e) = true → w.waita = false →
    (s.hart (.stream c e)).blocked = .cmdWait b → metWait w c s = .ok rels t →
    exec (.waitSatisfied c e) s = .next (t.setHart (.stream c e) { t.hart (.stream c e) with blocked := .none, wait := none })) ∧
  (∀ c n s waita thr acq, ((s.job c).counter n).poison = none → thr ≤ ((s.job c).counter n).view.toNat →
    metWait ⟨.core n, waita, thr, acq⟩ c s = .ok ((s.job c).counter n).rels s) ∧
  (∀ a s w r t, (s.hart a).wait = some w → agentExists a = true → s.runnable a = true → w.waita = true → (s.hart a).blocked = .memWait →
    w.ref = .mem r → waitWordAt r w.thr w.acq { s with cur := a } = .ok () t → exec (.waitaReevaluate a) s = .next t) ∧
  (∀ c id s r tag q data t, (s.job c).rlds.find? (·.id == id) = some r → s.answerOf (.rld c id) (fun _ => true) = some (tag, q) →
    q.answer = some (0#10, data) → rldArrives c r data { s with remotes := Map.erase s.remotes tag } = .ok () t →
    exec (.rldResponse c id 0#10) s = .next t) ∧
  (∀ c id s r t u fail, (s.job c).rlds.find? (·.id == id) = some r → s.answerOf (.rld c id) (fun _ => true) = none → s.place r.pa = .hbm →
    exitChecks (s.blocksOf r.pa r.size) s = .ok none t → rldArrives c r (s.bytes r.pa r.size) t = .ok () u →
    exec (.rldResponse c id fail) s = .next u) ∧
  (∀ c s k lo hi x t, (s.job c).part = k → (s.part k).seals.find? (·.1 == c) = some (c, lo, hi, x) →
    (∀ o ∈ s.outq, (s.part k).phys.contains o.core = true → 1024 ≤ o.agent) → endInvalidation k lo hi s = .ok () t →
    exec (.sealEffectPoint c) s = .next (t.updPart k fun p => { p with seals := p.seals.filter (·.1 != c) })) ∧
  (∀ c cause aux s t, c < 128 → cause = 0x1C2#10 ∨ cause = 0x1C3#10 →
    fqPush c true (jobRecord s c cause 3 7 0 { FInfo.plain with aux := aux }) s = .ok () t → exec (.serviceEntry c cause aux) s = .next t) ∧
  (∀ c rec s, (s.core c).fqCount < 11 → fqPush c true rec s = .ok () (s.recorded c rec)) ∧
  (∀ c rec s, 11 ≤ (s.core c).fqCount →
    fqPush c true rec s = .ok () (s.updCore c fun x => { x with fqLost := min (x.fqLost + 1) 0xFFFF })) ∧
  (∀ c s t, c < 128 → s.userIssues c = true → opportunity c s = .ok () t → exec (.serviceOpportunity c) s = .next t) ∧
  (∀ c cause s t, c < 128 → (s.hart (.service c)).stat = .running → takeException (.service c) cause .plain s = .ok () t →
    exec (.doubleFault c cause) s = .next t)

/-- R208, R209, R266–R268, R304, R411, R441–R443, R450–R452: M and F commands: the next one of an engine finishes and signals, a pair runs
together, results in the snapshot buffer are delivered at their cycle; timed issue, stalls and asynchronous faults. -/
def EngineEvents : Prop :=
  (∀ c e n s i cmd cmd1 p t u v, (s.job c).live = true → e = .M ∨ e = .F → s.awaiting (.engine c e.no) = false →
    nextCmd ((s.job c).queueOf e) = some i → ((s.job c).queueOf e)[i]? = some cmd → cmd.op.isPair = false → (s.job c).stopping = false →
    cmd.visible ≤ (s.job c).j + 1 → (s.job c).room cmd = true → answeredRows (.engine c e.no) cmd s = .ok (.upTo cmd1) t →
    runCmd c e cmd1.units cmd1 t = .ok p u → settle c e i p u = .ok () v → exec (.mfCommandComplete c e n) s = .next v) ∧
  (∀ c e i cmd s t u, cmd.units ≤ cmd.cursor → dropCmd c e i s = .ok () t → finishCmd c cmd t = .ok () u → settle c e i (.upTo cmd) s = .ok () u) ∧
  (∀ c e i cmd f a s t u, dropCmd c e i s = .ok () t → failCmd c e cmd f a t = .ok () u → settle c e i (.fails cmd f a) s = .ok () u) ∧
  (∀ c e s i cmd t, (s.job c).live = true → e = .M ∨ e = .F → nextCmd ((s.job c).queueOf e) = some i →
    ((s.job c).queueOf e)[i]? = some cmd → settle c e i (.fails cmd 0x292#10 0#64) s = .ok () t →
    exec (.mfAsyncFault c e 0x292#10) s = .next t) ∧
  (∀ c e s w x t, (s.job c).live = true → (s.hart (.stream c e)).stat = .running → (s.hart (.stream c e)).blocked = .stamp →
    (s.hart (.stream c e)).wait = some w → w.thr ≤ (s.job c).j →
    mfCommandOf (s.codeWord (.stream c e) ((s.hart (.stream c e)).pc + 8)) (s.codeWord (.stream c e) ((s.hart (.stream c e)).pc + 16))
      (some (slotStamp (s.codeWord (.stream c e) (s.hart (.stream c e)).pc))) = some x →
    x { s with cur := .stream c e } = .ok () t → exec (.timedIssue c e) s = .next t) ∧
  (∀ c n s t, (s.job c).live = true → (s.job c).timed = true → fqPush c true (jobRecord s c 0x183#10 3 7 0 .plain)
      (s.updJob c fun j => { j with stall := j.stall + n, stampb := j.stampb + BitVec.ofNat 64 n }) = .ok () t →
    exec (.exposedPipelineStall c n) s = .next t) ∧
  (∀ c c2 s lr fr t u, (s.job c).live = true → s.atPair c = true → s.partner c = some c2 → s.atPair c2 = true →
    (s.job c).lcore % 2 = 0 → (s.job c).pairReq = some lr → (s.job c2).pairReq = some fr → lr.opc ≠ fr.opc →
    pairFault c 0x202#10 s = .ok () t → pairFault c2 0x202#10 t = .ok () u → exec (.pairRendezvous c) s = .next u) ∧
  (∀ c c2 s lr fr z tr p bank a b sa sb g ms t u v, (s.job c).live = true → s.atPair c = true → s.partner c = some c2 → s.atPair c2 = true →
    (s.job c).lcore % 2 = 0 → (s.job c).pairReq = some lr → (s.job c2).pairReq = some fr → lr.opc = fr.opc → lr.z = fr.z → lr.t = fr.t →
    lr.gran = fr.gran → lr.k = fr.k → fr.bNone = true → fr.sbNone = true → lr.bNone = false → lr.stamped = false → fr.stamped = false →
    lr.bank = fr.bank → lr.cmd.op = .mma lr.opc z tr p bank a b sa (some sb) g → elemsAll c [b, sb] s = .ok (.ok ms) t →
    pairIssue c lr (ms.getD 0 []) (ms.getD 1 []) lr.cmd t = .ok () u → pairIssue c2 fr (ms.getD 0 []) (ms.getD 1 []) lr.cmd u = .ok () v →
    exec (.pairRendezvous c) s = .next v) ∧
  (∀ c s p cmd t u, (s.job c).psb.find? (fun p => decide (p.cmd.visible ≤ (s.job c).j + 1)) = some p → (s.job c).live = true →
    (s.job c).room p.cmd = true → runCmd c p.eng p.cmd.units p.cmd (s.updJob c fun j => { j with psb := j.psb.erase p }) = .ok (.upTo cmd) t →
    finishCmd c cmd t = .ok () u → exec (.psbDelivery c) s = .next u)

/-- R233, R302, R356, R473, R483, R488: Cart commands: the first unstarted one starts when its wait is met, the head of a queue does its work,
and its signal follows the last of it; a failing piece stops it; a poisoned wait cancels it. -/
def CartEvents : Prop :=
  (∀ c store s cmd rels t, (s.job c).live = true → firstUnstarted ((s.job c).cartQ store) = some cmd → cmd.opc ≠ 0xE8 → cmd.opc ≠ 0xE9 →
    waitState (.cart c cmd.id) c cmd.cl s = .ok (.met rels) t →
    exec (.cartCommandStart c store) s = .next (t.updJob c fun j => j.setCartQ store ((j.cartQ store).map fun q =>
      if q.id = cmd.id then
        { cmd with started := true, floor := if cmd.cl.acq then cmd.floor.join (gainOf 3 (t.party (.stream c .A)) rels) else cmd.floor }
      else q))) ∧
  (∀ c store s cmd t, (s.job c).live = true → firstUnstarted ((s.job c).cartQ store) = some cmd →
    waitState (.cart c cmd.id) c cmd.cl s = .ok .unmet t → exec (.cartCommandStart c store) s = .next t) ∧
  (∀ c store s cmd f t u v, (s.job c).live = true → firstUnstarted ((s.job c).cartQ store) = some cmd →
    waitState (.cart c cmd.id) c cmd.cl s = .ok (.poisoned f) t → dropCart c store cmd.id t = .ok () u → signalPoison c cmd.cl f u = .ok () v →
    exec (.cartCommandStart c store) s = .next v) ∧
  (∀ c store n s cmd rest x t, (s.job c).live = true → (s.job c).cartQ store = cmd :: rest → cmd.started = true →
    (cartSteps c (n + 1) cmd s = .ok (.more x) t ∨ cartSteps c (n + 1) cmd s = .ok (.waits x) t →
      exec (.cartCommandComplete c store n) s = .next (t.updJob c fun j => j.setCartQ store ((j.cartQ store).map fun q =>
        if q.id = x.id then x else q))) ∧
    (cartSteps c (n + 1) cmd s = .ok (.ended x) t → x.bad = none → ∀ u v, dropCart c store x.id t = .ok () u →
      signalDone c x.cl x.total x.gs u = .ok () v → exec (.cartCommandComplete c store n) s = .next v)) ∧
  (∀ c store s cmd rest x f a t u, (s.job c).live = true → (s.job c).cartQ store = cmd :: rest → cmd.started = true →
    cartStep c cmd s = .ok (.fails x f a) t → failCart c store x f a x.pos t = .ok () u → exec (.cartCommandFail c store) s = .next u) ∧
  (∀ c store id s, dropCart c store id s = .ok () ((s.updJob c fun j => j.setCartQ store ((j.cartQ store).filter fun q => q.id != id)).inCustody
    (s.job c).part (128 + c) 0 1))

/-- R102, R303, R486–R496, R516–R519: Coach transfers: the steps of their ranks, the adds that follow, failed pairs, expiries, and adds that were
held until their transfer was dispatched. -/
def CoachEvents : Prop :=
  (∀ k i r s x c t u v w, Map.find (s.part k).transfers i = some x → x.allIssued = false → (cblock x.block).ranks.contains r = true →
    x.issued.contains r = false → s.ctxPhase k = 0 → resolveRank k r s = .ok (.error c) t → openStep k i x.step t = .ok () u →
    rankIssued k i r (u.onTransfer k i fun y =>
      { y.fail c with failed := y.failed ++ (((cblock x.block).peers x.step).filter (s.localRank k)).map fun p => (stepKey x.step r, p, c) }) =
        .ok () v →
    settleTransfer k i v = .ok () w → exec (.coachStepIssue k i r) s = .next w) ∧
  (∀ k i r s x pkg l t u v, Map.find (s.part k).transfers i = some x → x.allIssued = false → (cblock x.block).ranks.contains r = true →
    x.issued.contains r = false → s.ctxPhase k = 0 → resolveRank k r s = .ok (.ok (pkg, l)) t → pkg ≠ s.pkg → rankIssued k i r t = .ok () u →
    settleTransfer k i u = .ok () v → exec (.coachStepIssue k i r) s = .next v) ∧
  (∀ k i r s x l t todo u v w y z fl, Map.find (s.part k).transfers i = some x → x.allIssued = false →
    (cblock x.block).ranks.contains r = true → x.issued.contains r = false → s.ctxPhase k = 0 → resolveRank k r s = .ok (.ok (s.pkg, l)) t →
    s.suspended k s.pkg r = false → (cblock x.block).wsel = 0xFF → (cblock x.block).acq = false → (cblock x.block).dsel = 0xFF →
    ((gainOf 3 (t.party (.frontEnd k)) x.gained).join ⟨x.base, []⟩).join .zero = fl →
    gatherPeers k i (cblock x.block) fl x.step r l ((cblock x.block).peers x.step) t = .ok (some todo) u →
    clearCoachReads k i (stepKey x.step r) u = .ok () v → openStep k i x.step v = .ok () w →
    each todo (fun q => match q.2.2 with
      | .error c => updTransfer k i fun y => { y.fail c with failed := y.failed ++ [(stepKey x.step r, q.1, c)] }
      | .ok ps => issuePair k i (cblock x.block) x.step r q.1 ps q.2.1) w = .ok () y →
    (∀ t', rankIssued k i r (y.onTransfer k i fun a => a) = .ok () t' → settleTransfer k i t' = .ok () z →
      exec (.coachStepIssue k i r) s = .next z)) ∧
  (∀ k i r s x key t u, Map.find (s.part k).transfers i = some x →
    (firstKey r x.toSignal).filter (fun y => natOf x.outTo y == 0 && ! x.failed.any fun f => f.1 / 65536 == y / 65536 && f.2.1 == r) = some key →
    (firstKey r x.toDrain).filter (fun y => natOf x.outFrom y == 0 && ! x.failed.any fun f => f.1 == y) = none →
    signalPeer k x (cblock x.block) key s = .ok () t →
    settleTransfer k i (t.onTransfer k i fun y => { y with toSignal := y.toSignal.filter (· != key) }) = .ok () u → exec (.coachStepSignal k i r) s = .next u) ∧
  (∀ k i r p cause s x f t u v, Map.find (s.part k).transfers i = some x →
    x.failed.find? (fun f => f.1 % 65536 == r && f.2.1 == p && f.2.2 == cause) = some f →
    poisonAt k x p (cblock x.block).ssel cause (s.onTransfer k i fun y => { y with failed := y.failed.erase f }) = .ok () t →
    (if t.localRank k r then poisonAt k x r (cblock x.block).dsel cause t = .ok () u else u = t) →
    settleTransfer k i u = .ok () v → exec (.coachPairFail k i r p cause) s = .next v) ∧
  (∀ k i r s x t, Map.find (s.part k).transfers i = some x → ((s.part k).susp.any fun y => decide (y.first ≤ r) && decide (r ≤ y.last)) = false →
    (x.outTo.find? fun e => e.1 % 65536 == r && e.2 != 0).isSome = true → colltoExpiry k i r s = .ok () t →
    exec (.colltoExpiry k i r) s = .next t) ∧
  (∀ k s h t, (s.part k).held.find? (fun h => ((s.part k).ownerOf h.cls h.num).isSome) = some h →
    applyAdd k h (((s.part k).ownerOf h.cls h.num).getD 0) ((s.updPart k fun p => { p with held := p.held.erase h }).inCustody k heldNode 0 1) =
      .ok () t →
    exec (.heldAddApply k) s = .next t) ∧
  (∀ k i s h t x u, (s.part k).held[i]? = some h → ((s.part k).susp.any fun y => decide (y.first ≤ h.rank) && decide (h.rank ≤ y.last)) = false →
    resolveRank k h.rank ((s.updPart k fun p => { p with held := p.held.eraseIdx i }).inCustody k heldNode 0 1) = .ok (.ok x) t →
    fqPush ((s.part k).coreOf x.2) true (faultRecord 0x24A#10 1 7 x.2 0 0 { FInfo.plain with counter := 0x8000 + h.counter } s.dcc) t = .ok () u →
    exec (.heldAddExpiry k i) s = .next u)

/-! Reset and the canonical form (chapters 00 to 08). -/

/-- R5: what the spec says reset leaves: the registers' reset values, PORST_N asserted, SR.DCC 0 and not counting, the rings IDLE and
the ports DOWN, no partition, no task, no job on a core, SR.SHARE 2, nothing on its way. -/
def ResetState : Prop :=
  let s := State.reset
  s.power.porst = true ∧ s.power.thermtrip = false ∧ s.dcc = 0#64 ∧ s.dccRun = false ∧ s.outq = [] ∧ s.remotes = [] ∧ s.parts = [] ∧
  s.frames = [] ∧ s.reg Reg.railEn = 0#64 ∧ s.reg Reg.rstCtl = 0xFF0F#64 ∧ s.reg Reg.clkCtl = 0#64 ∧
  s.reg Reg.pcapCtl = 0x00000D480C806401#64 ∧ s.reg Reg.thmCfg = 0x0000645A55695F00#64 ∧ s.reg Reg.fabCfg = 0x0064640A00000000#64 ∧
  s.reg Reg.tsyncCtl = 0xA0000#64 ∧ s.reg Reg.rgnCfg = 1#64 ∧ s.reg Reg.t2Cfg = 0#64 ∧
  (∀ n < 16, s.reg (Reg.hbmTrn n) = 2#64 ∧ s.reg (Reg.hbmTstat n) = 0#64 ∧ s.reg (Reg.hbmRef n) = 0x1800#64) ∧
  (∀ p < 36, s.reg (Reg.optTrn p) = 0xFF0000#64 ∧ s.reg (Reg.portCtl p) = 1#64 ∧ s.portState p = 0 ∧ s.reg (Reg.linkErr p) = 0#64) ∧
  (∀ n < 1024, s.reg (Reg.route n) = 0x3F#64) ∧
  (∀ f < 8, s.reg (Reg.ringCtl f) = 0#64 ∧ s.ringState f = 0 ∧ s.reg (Reg.wdogCfg f) = 0x03E80001#64 ∧ s.partOn f = false ∧
    s.reg (Reg.schedCfg f) = 0x0000006400001248#64) ∧
  ∀ c, (s.job c).live = false ∧ (s.core c).share = 2 ∧ ∀ e, (s.hart (.stream c e)).stat = .idle

/-- The canonical form holds at reset. -/
def CanonicalAtReset : Prop := State.reset.canonical = true ∧ State.reset.filesCanonical = true

/-- Every step keeps the canonical form of memory, the registers, the contexts and the cores, from every state that has it. -/
def StepKeepsCanonical : Prop := ∀ s t, s.canonical = true → step s = .next t → t.canonical = true

/-- Every step keeps the canonical form of every context's scalar registers and guards. -/
def StepKeepsRegisterFiles : Prop := ∀ s t, s.filesCanonical = true → step s = .next t → t.filesCanonical = true

end Claims

/-! The obligations. -/

/-- ALU and ALUI compute D := A op B. -/
def Obligations.IntegerResults : Prop := Claims.AluResults

/-- MULHU, DIV, DIVU, REM, REMU and their edge cases. -/
def Obligations.MuldivResults : Prop := Claims.MuldivResults

/-- CMP and CMPI: the ten relations, and what D takes. -/
def Obligations.CompareResults : Prop := Claims.CompareResults

/-- BITS and ADDR: counts, reversals, extensions, alignment, Morton keys. -/
def Obligations.BitAndAddressResults : Prop := Claims.BitsResults ∧ Claims.AddrResults

/-- MOVI, MOVHI, MOV, SEL, GUARD, NOP. -/
def Obligations.MoveAndGuardResults : Prop := Claims.MoveAndGuardResults

/-- FOP, FCMP and FCVT: results rounded once, with their sticky flags. Rests also on log 10 (the model's own choices or readings). -/
def Obligations.ScalarFloatResults : Prop := Claims.FopResults ∧ Claims.FcmpAndFcvtResults

/-- Reading and writing registers, REL values and guards; s0 and g0; the frame of a register result. Rests also on log 7 (the model's own
choices or readings). -/
def Obligations.RegisterOperands : Prop := Claims.RegisterOperands

/-- Channel operands pop and push, and a pushed result is delivered once. Rests also on log 20 (the model's own choices or readings). -/
def Obligations.ChannelOperands : Prop := Claims.ChannelOperands ∧ Claims.PendingPushDelivered

/-- A false guard skips, an encoding fault traps whatever the guard, no instruction traps with its cause. Rests also on log 127 (the
model's own choices or readings). -/
def Obligations.GuardsAndEncodingFaults : Prop := Claims.FalseGuardSkips ∧ Claims.EncodingFaultsTrap ∧ Claims.UnassignedOpcodeTraps

/-- What a precise fault saves and stops. Rests also on log 15 (the model's own choices or readings). -/
def Obligations.TakingAnException : Prop := Claims.TakingAnException

/-- Every instruction and event answers a next state. Rests also on log 21 (the model's own choices or readings). -/
def Obligations.EveryMeaningAnswers : Prop := Claims.EveryMeaningAnswers

/-- A step runs the decoded instruction. Rests also on log 4, 127 (the model's own choices or readings). -/
def Obligations.StepRunsDecoded : Prop := Claims.StepRunsDecoded

/-- Fetching in the middle of a line reads the words to its end and changes nothing but the turn. Rests also on log 4 (the model's own
choices or readings). -/
def Obligations.FetchInLine : Prop := Claims.FetchInLine

/-- Words written out from the encoding tables decode to their instructions. -/
def Obligations.WordsDecode : Prop := Claims.WordsDecode

/-- Decoding an encoded instruction gives it back, followed by any words. -/
def Obligations.DecodeInvertsEncode : Prop := Claims.DecodeEncode ∧ Claims.SlotsOfFirst

/-- LD: the loaded bytes extended, or 0x143. -/
def Obligations.LoadResults : Prop := Claims.LoadResults

/-- ST: where the bytes go, and the frame of a private store. -/
def Obligations.StoreResults : Prop := Claims.StoreResults ∧ Claims.PrivateStoreFrame

/-- LDSP and STSP of a stream and of the service context. Rests also on log 55 (the model's own choices or readings). -/
def Obligations.ScratchpadResults : Prop := Claims.LoadSpResults ∧ Claims.StoreSpResults

/-- A physical write writes its bytes and no other byte of memory. Rests also on log 35 (the model's own choices or readings). -/
def Obligations.PhysicalWriteFrame : Prop := Claims.PhysicalWriteFrame

/-- RLD reserves a channel entry and goes on. Rests also on log 16, 131 (the model's own choices or readings). -/
def Obligations.RemoteLoadResults : Prop := Claims.RemoteLoadResults

/-- ATOM: the old value to D, the new one to memory. Rests also on log 55 (the model's own choices or readings). -/
def Obligations.AtomicResults : Prop := Claims.AtomicResults

/-- BR, JR, BEOS, CALL, LOOP: taken, not taken, invalid target. -/
def Obligations.BranchResults : Prop := Claims.BranchResults

/-- JOIN, HALT, YIELD, SVC, and the return by ERET. Rests also on log 18 (the model's own choices or readings). -/
def Obligations.StopAndReturnResults : Prop := Claims.StopResults ∧ Claims.SvcStops ∧ Claims.EretResults

/-- CADD and CADDI, and what an add does to a counter. Rests also on log 12 (the model's own choices or readings). -/
def Obligations.CounterAddResults : Prop := Claims.CounterAddResults ∧ Claims.CounterAddEffect

/-- CWAIT, CRD and CINIT. Rests also on log 38 (the model's own choices or readings). -/
def Obligations.CounterWaitResults : Prop := Claims.CounterWaitResults

/-- CADD.M, CWAIT.M and WAITA. Rests also on log 39, 55 (the model's own choices or readings). -/
def Obligations.MemoryCounterResults : Prop := Claims.MemoryCounterResults

/-- FENCE, SEAL, UNSEAL and QBAR. Rests also on log 33 (the model's own choices or readings). -/
def Obligations.SynchronisationResults : Prop := Claims.FenceResults ∧ Claims.SealResults ∧ Claims.QbarResults

/-- DQPUSH, DQPOP, DQSTEAL and DQLEN. -/
def Obligations.DequeResults : Prop := Claims.DequeResults

/-- LAUNCH, LAUNCH.T and XPOSE insert their entry. Rests also on log 70 (the model's own choices or readings). -/
def Obligations.LaunchResults : Prop := Claims.LaunchResults

/-- Special registers: what each reads as and what a write does. Rests also on log 17, 136 (the model's own choices or readings). -/
def Obligations.SpecialRegisterResults : Prop := Claims.SpecialRegisterReads ∧ Claims.CsrResults

/-- RPROBE, RTTLD, PBIND, PUNBIND, PPOS. Rests also on log 29, 56 (the model's own choices or readings). -/
def Obligations.TranslationAndPortResults : Prop := Claims.TranslationResults ∧ Claims.PortResults

/-- TCFG, TCFG.Z, TVAL, TDESC and the bits of a descriptor. -/
def Obligations.TileConfigResults : Prop := Claims.TileConfigResults ∧ Claims.DescriptorBits

/-- A tile instruction runs over the rows of its destination and changes the tile store alone. Rests also on log 24 (the model's own
choices or readings). -/
def Obligations.RowRuns : Prop := Claims.RowRuns

/-- TBIN and TTER: element-wise sums, products, FMAs, selection. Rests also on log 36 (the model's own choices or readings). -/
def Obligations.TileArithmeticResults : Prop := Claims.TileBinaryResults ∧ Claims.TileTernaryResults

/-- TUNA: absolute value, sign, roots, special functions. Rests also on log 2, 19, 134 (the model's own choices or readings). -/
def Obligations.TileUnaryResults : Prop := Claims.TileUnaryResults

/-- TCMP and the complex members. Rests also on log 36 (the model's own choices or readings). -/
def Obligations.TileCompareAndComplexResults : Prop := Claims.TileCompareResults ∧ Claims.TileComplexResults

/-- TCVT, TDQ, reductions and scans. Rests also on log 36 (the model's own choices or readings). -/
def Obligations.TileConvertAndReduceResults : Prop := Claims.TileConvertResults ∧ Claims.TileReduceResults

/-- TPERM, TMOV, TEXT, TINS, TIOTA and TFILL. Rests also on log 36, 37 (the model's own choices or readings). -/
def Obligations.TilePermuteAndMoveResults : Prop := Claims.TilePermuteResults ∧ Claims.TileMoveResults

/-- TLD and TST move a tile between the store and memory. Rests also on log 24 (the model's own choices or readings). -/
def Obligations.TileMemoryResults : Prop := Claims.TileMemoryResults

/-- An M or F command: its stamp, its wait clause, and its entry into its engine. Rests also on log 26 (the model's own choices or
readings). -/
def Obligations.EngineEntry : Prop := Claims.EngineEntry ∧ Claims.StampGates ∧ Claims.WaitGates

/-- MMA, ACCLD, ACCST, ACCCLR and ACCSTG join the matrix queue; MMA.P waits for its partner. Rests also on log 58 (the model's own choices
or readings). -/
def Obligations.MatrixCommandResults : Prop := Claims.MmaResults ∧ Claims.AccumulatorResults

/-- FPLAN, FFT, IFFT, RFFT, IRFFT, LEGGEN and FTWM join the transform queue. Rests also on log 14, 58 (the model's own choices or
readings). -/
def Obligations.TransformResults : Prop := Claims.TransformResults

/-- Cart commands join their queue, wait at a full one, or fault at a bad record. -/
def Obligations.CartCommandResults : Prop := Claims.CartIssueResults ∧ Claims.CartStops

/-- Rails, resets, die-to-die links, the timebase. Rests also on log 21, 26, 48, 98 (the model's own choices or readings). -/
def Obligations.RailAndTimebaseEvents : Prop := Claims.RailEvents ∧ Claims.TimebaseEvents

/-- Operating points, capping, thermal actions. Rests also on log 94, 96 (the model's own choices or readings). -/
def Obligations.PowerAndThermalEvents : Prop := Claims.PowerEvents ∧ Claims.ThermalEvents

/-- Training of stacks and ports, and the patrol scrubber. Rests also on log 103, 104 (the model's own choices or readings). -/
def Obligations.TrainingEvents : Prop := Claims.TrainingEvents

/-- Ports: control, unlocking, draining, retraining, link records. Rests also on log 107, 109, 112 (the model's own choices or readings).
-/
def Obligations.PortEvents : Prop := Claims.PortEvents

/-- Flits: sending, verifying, replay, acknowledgement, attestation messages. Rests also on log 22, 108, 109, 113, 115 (the model's own
choices or readings). -/
def Obligations.FlitEvents : Prop := Claims.FlitEvents

/-- Circuit mode: slot tables, rotations, windows, trained circuits. Rests also on log 1, 114 (the model's own choices or readings). -/
def Obligations.CircuitEvents : Prop := Claims.CircuitEvents

/-- Messages that arrive, requests that time out, routes, rank tables, time synchronisation. Rests also on log 22, 64, 116, 117 (the
model's own choices or readings). -/
def Obligations.FabricEvents : Prop := Claims.FabricEvents

/-- Package resets, the boot chain, the region table, measurements. Rests also on log 6, 46, 47, 88, 89, 93 (the model's own choices or
readings). -/
def Obligations.BootAndSecurityEvents : Prop := Claims.BootEvents ∧ Claims.SecurityEvents

/-- Host accesses, rings, FE_QPUSH, watchdogs, the second tier. Rests also on log 82, 83, 84, 100, 101, 124, 126, 129 (the model's own
choices or readings). -/
def Obligations.HostAndRingEvents : Prop := Claims.HostMemoryEvents ∧ Claims.RingEvents

/-- Partitions, shadow region, page-table root, invalidation. Rests also on log 44, 86, 87, 88 (the model's own choices or readings). -/
def Obligations.PartitionEvents : Prop := Claims.PartitionEvents

/-- Entries of class queues, hearth slots, freezing and thawing. Rests also on log 67, 68, 80, 99 (the model's own choices or readings).
-/
def Obligations.ClassQueueEvents : Prop := Claims.QueueEntryEvents ∧ Claims.SlotAndMigrationEvents

/-- The graph sequencer, tasks, jobs, pre-emption, residency. Rests also on log 22, 54, 76, 79, 81 (the model's own choices or readings).
-/
def Obligations.SequencerAndJobEvents : Prop := Claims.SequencerEvents ∧ Claims.JobEvents

/-- What happens at a core: effects, waits, answers, the service context, engine commands. Rests also on log 1, 22, 31, 59, 63, 128, 131
(the model's own choices or readings). -/
def Obligations.CoreAndEngineEvents : Prop := Claims.CoreEvents ∧ Claims.EngineEvents

/-- Cart commands run, Coach transfers step, signal and fail. Rests also on log 119, 120, 121, 122 (the model's own choices or readings).
-/
def Obligations.CartAndCoachEvents : Prop := Claims.CartEvents ∧ Claims.CoachEvents

/-- What reset leaves, and that memory and registers are canonical there. Rests also on log 5 (the model's own choices or readings). -/
def Obligations.ResetState : Prop := Claims.ResetState ∧ Claims.CanonicalAtReset

/-- Every step keeps memory, registers, contexts and cores in canonical form. Rests also on log 5 (the model's own choices or readings).
-/
def Obligations.StepKeepsCanonical : Prop := Claims.StepKeepsCanonical

/-- Every step keeps every register file and guard file in canonical form. Rests also on log 7 (the model's own choices or readings). -/
def Obligations.StepKeepsRegisterFiles : Prop := Claims.StepKeepsRegisterFiles
end

