-- ==== Sys2Proof/Laws/Map.lean ====
section
/-! SUPPORT. Sparse arrays: reading after writing, and the canonical form kept. -/
namespace Sys2Proof.Laws
open Sys2Proof.Machine

variable {α : Type}

@[simp] theorem get_nil (d : Nat → α) (k : Nat) : Map.get d [] k = d k := rfl

theorem get_insert (d : Nat → α) (m : Assoc α) (k : Nat) (v : α) : Map.get d (Map.insert m k v) k = v := by
  induction m with
  | nil => simp [Map.insert, Map.get]
  | cons e m ih =>
    obtain ⟨i, w⟩ := e
    simp only [Map.insert]
    split
    · simp [Map.get]
    · split <;> simp [Map.get, *]

theorem get_insert_ne (d : Nat → α) (m : Assoc α) {k j : Nat} (v : α) (h : j ≠ k) :
    Map.get d (Map.insert m k v) j = Map.get d m j := by
  induction m with
  | nil => simp [Map.insert, Map.get, h]
  | cons e m ih =>
    obtain ⟨i, w⟩ := e
    simp only [Map.insert]
    split
    · subst_vars; simp [Map.get, h]
    · split
      · simp only [Map.get, h, if_false]
        split
        · have : j ≠ i := by omega
          have : j < i := by omega
          simp [*]
        · rfl
      · simp only [Map.get, ih]

variable [DecidableEq α]

theorem wfFrom_mono {d : Nat → α} {lo lo' : Nat} {m : Assoc α} (h : Map.wfFrom d lo m = true) (hl : lo' ≤ lo) :
    Map.wfFrom d lo' m = true := by
  cases m with
  | nil => rfl
  | cons e m => obtain ⟨i, v⟩ := e; simp [Map.wfFrom] at h ⊢; exact ⟨⟨by omega, h.1.2⟩, h.2⟩

theorem get_low {d : Nat → α} {m : Assoc α} {lo k : Nat} (h : Map.wfFrom d lo m = true) (hk : k < lo) : Map.get d m k = d k := by
  cases m with
  | nil => rfl
  | cons e m =>
    obtain ⟨i, w⟩ := e
    simp [Map.wfFrom] at h
    have : k ≠ i := by omega
    have : k < i := by omega
    simp [Map.get, *]

theorem get_erase {d : Nat → α} {m : Assoc α} {lo : Nat} (k : Nat) (h : Map.wfFrom d lo m = true) :
    Map.get d (Map.erase m k) k = d k := by
  induction m generalizing lo with
  | nil => rfl
  | cons e m ih =>
    obtain ⟨i, w⟩ := e
    have h' := h
    simp [Map.wfFrom] at h
    simp only [Map.erase]
    split
    · subst_vars; exact get_low h.2 (by omega)
    · split
      · simp [Map.get, *]
      · simp only [Map.get, *, if_false]; simpa using ih h.2

theorem get_erase_ne {d : Nat → α} {m : Assoc α} {lo k j : Nat} (h : Map.wfFrom d lo m = true) (hj : j ≠ k) :
    Map.get d (Map.erase m k) j = Map.get d m j := by
  induction m generalizing lo with
  | nil => rfl
  | cons e m ih =>
    obtain ⟨i, w⟩ := e
    simp [Map.wfFrom] at h
    simp only [Map.erase]
    split
    · subst_vars
      simp only [Map.get, hj, if_false]
      split
      · exact get_low h.2 (by omega)
      · rfl
    · split
      · rfl
      · simp only [Map.get, ih h.2]

theorem get_set {d : Nat → α} {m : Assoc α} (k : Nat) (v : α) (h : Map.wf d m = true) : Map.get d (Map.set d m k v) k = v := by
  unfold Map.set; split
  · subst_vars; exact get_erase k h
  · exact get_insert d m k v

theorem get_set_ne {d : Nat → α} {m : Assoc α} {k j : Nat} (v : α) (h : Map.wf d m = true) (hj : j ≠ k) :
    Map.get d (Map.set d m k v) j = Map.get d m j := by
  unfold Map.set; split
  · exact get_erase_ne h hj
  · exact get_insert_ne d m v hj

theorem wfFrom_insert {d : Nat → α} {m : Assoc α} {lo k : Nat} {v : α} (h : Map.wfFrom d lo m = true) (hk : lo ≤ k) (hv : v ≠ d k) :
    Map.wfFrom d lo (Map.insert m k v) = true := by
  induction m generalizing lo with
  | nil => simp [Map.insert, Map.wfFrom, hk, hv]
  | cons e m ih =>
    obtain ⟨i, w⟩ := e
    simp [Map.wfFrom] at h
    simp only [Map.insert]
    split
    · subst_vars; simp [Map.wfFrom, hv, h]
    · split
      · simp [Map.wfFrom, hk, hv, h]; omega
      · simp [Map.wfFrom, h, ih h.2 (by omega)]

theorem wfFrom_erase {d : Nat → α} {m : Assoc α} {lo : Nat} (k : Nat) (h : Map.wfFrom d lo m = true) :
    Map.wfFrom d lo (Map.erase m k) = true := by
  induction m generalizing lo with
  | nil => rfl
  | cons e m ih =>
    obtain ⟨i, w⟩ := e
    have h' := h
    simp [Map.wfFrom] at h
    simp only [Map.erase]
    split
    · exact wfFrom_mono h.2 (by omega)
    · split
      · exact h'
      · simp [Map.wfFrom, h, ih h.2]

theorem wf_nil (d : Nat → α) : Map.wf d [] = true := rfl

theorem wf_erase {d : Nat → α} {m : Assoc α} (k : Nat) (h : Map.wf d m = true) : Map.wf d (Map.erase m k) = true := wfFrom_erase k h

theorem wf_set {d : Nat → α} {m : Assoc α} (k : Nat) (v : α) (h : Map.wf d m = true) : Map.wf d (Map.set d m k v) = true := by
  unfold Map.set; split
  · exact wfFrom_erase k h
  · exact wfFrom_insert h (Nat.zero_le k) ‹_›

theorem wf_upd {d : Nat → α} {m : Assoc α} (k : Nat) (f : α → α) (h : Map.wf d m = true) : Map.wf d (Map.upd d m k f) = true :=
  wf_set k _ h

theorem wf_setN {d : Nat → α} {m : Assoc α} (a : Nat) (vs : List α) (h : Map.wf d m = true) : Map.wf d (Map.setN d m a vs) = true := by
  induction vs generalizing m a with
  | nil => exact h
  | cons v vs ih => exact ih _ (wf_set a v h)

theorem wfFrom_filter {d : Nat → α} {m : Assoc α} {lo : Nat} (p : Nat × α → Bool) (h : Map.wfFrom d lo m = true) :
    Map.wfFrom d lo (m.filter p) = true := by
  induction m generalizing lo with
  | nil => rfl
  | cons e m ih =>
    obtain ⟨i, w⟩ := e
    simp [Map.wfFrom] at h
    rw [List.filter_cons]; split
    · simp [Map.wfFrom, h, ih h.2]
    · exact wfFrom_mono (ih h.2) (by omega)

theorem wf_filter {d : Nat → α} {m : Assoc α} (p : Nat × α → Bool) (h : Map.wf d m = true) : Map.wf d (m.filter p) = true :=
  wfFrom_filter p h

theorem wf_clear {d : Nat → α} {m : Assoc α} (lo hi : Nat) (h : Map.wf d m = true) : Map.wf d (Map.clear m lo hi) = true :=
  wf_filter _ h

theorem wf_slice {d : Nat → α} {m : Assoc α} (lo hi : Nat) (h : Map.wf d m = true) : Map.wf d (Map.slice m lo hi) = true :=
  wf_filter _ h

/-- In canonical form equal memories are equal lists: an array is determined by what its indices read as. -/
theorem wf_ext {d : Nat → α} {m n : Assoc α} {lo : Nat} (hm : Map.wfFrom d lo m = true) (hn : Map.wfFrom d lo n = true)
    (h : ∀ k, Map.get d m k = Map.get d n k) : m = n := by
  induction m generalizing n lo with
  | nil =>
    cases n with
    | nil => rfl
    | cons e n =>
      obtain ⟨i, v⟩ := e
      simp [Map.wfFrom] at hn
      have := h i
      simp [Map.get] at this
      exact absurd this.symm hn.1.2
  | cons e m ih =>
    obtain ⟨i, v⟩ := e
    simp [Map.wfFrom] at hm
    cases n with
    | nil =>
      have := h i
      simp [Map.get] at this
      exact absurd this hm.1.2
    | cons e n =>
      obtain ⟨j, w⟩ := e
      simp [Map.wfFrom] at hn
      have hi := h i
      have hj := h j
      have hij : i = j := by
        rcases Nat.lt_trichotomy i j with hl | he | hl
        · simp [Map.get, hl, Nat.ne_of_lt hl] at hi; exact absurd hi hm.1.2
        · exact he
        · simp [Map.get, hl, Nat.ne_of_lt hl] at hj; exact absurd hj.symm hn.1.2
      subst hij
      simp [Map.get] at hi
      subst hi
      congr 1
      refine ih hm.2 hn.2 fun k => ?_
      have := h k
      simp only [Map.get] at this
      rcases Nat.lt_trichotomy k i with hl | he | hl
      · rw [get_low hm.2 (by omega), get_low hn.2 (by omega)]
      · subst he; rw [get_low hm.2 (by omega), get_low hn.2 (by omega)]
      · rwa [if_neg (by omega), if_neg (by omega), if_neg (by omega), if_neg (by omega)] at this

end Sys2Proof.Laws
end

