-- ==== Sys2Proof/Laws/Exec.lean ====
section
/-! SUPPORT. How a meaning runs: one equation per way of reading and changing the state, so that no proof unfolds the monad; the
frame of an instruction that issues. -/
namespace Sys2Proof.Laws
open Sys2Proof.Machine

variable {α β γ : Type}

/-! Sequencing. -/

theorem bind_ok {x : Exec α} {f : α → Exec β} {s t : State} {a : α} (h : x s = .ok a t) : (x >>= f) s = f a t := by
  simp [bind, EStateM.bind, h]

theorem bind_error {x : Exec α} {f : α → Exec β} {s t : State} (h : x s = .error .done t) : (x >>= f) s = .error .done t := by
  simp [bind, EStateM.bind, h]

theorem bind_cases {x : Exec α} {f : α → Exec β} {s t : State} {b : β} (h : (x >>= f) s = .ok b t) :
    ∃ a u, x s = .ok a u ∧ f a u = .ok b t := by
  simp only [bind, EStateM.bind] at h
  split at h
  · exact ⟨_, _, ‹_›, h⟩
  · cases h

theorem bind_bind (x : Exec α) (f : α → Exec β) (g : β → Exec γ) : (x >>= f >>= g) = (x >>= fun a => f a >>= g) := by
  funext s
  simp only [bind, EStateM.bind]
  cases x s <;> rfl

@[simp] theorem pure_run (a : α) (s : State) : (pure a : Exec α) s = .ok a s := rfl
@[simp] theorem pure_then (a : α) (f : α → Exec β) (s : State) : ((pure a : Exec α) >>= f) s = f a s := rfl
@[simp] theorem get_then (f : State → Exec β) (s : State) : ((get : Exec State) >>= f) s = f s s := rfl
@[simp] theorem set_run (t s : State) : (set t : Exec PUnit) s = .ok ⟨⟩ t := rfl
@[simp] theorem set_then (t : State) (f : PUnit → Exec β) (s : State) : ((set t : Exec PUnit) >>= f) s = f ⟨⟩ t := rfl
@[simp] theorem modify_run (g : State → State) (s : State) : (modify g : Exec PUnit) s = .ok ⟨⟩ (g s) := rfl
@[simp] theorem modify_then (g : State → State) (f : PUnit → Exec β) (s : State) : ((modify g : Exec PUnit) >>= f) s = f ⟨⟩ (g s) := rfl
@[simp] theorem halt_run (s : State) : (halt : Exec α) s = .error .done s := rfl
@[simp] theorem halt_then (f : α → Exec β) (s : State) : ((halt : Exec α) >>= f) s = .error .done s := rfl

theorem ite_run (c : Prop) [Decidable c] (x y : Exec α) (s : State) : (if c then x else y) s = if c then x s else y s := by
  split <;> rfl

theorem ite_then (c : Prop) [Decidable c] (x y : Exec α) (f : α → Exec β) (s : State) :
    ((if c then x else y) >>= f) s = if c then (x >>= f) s else (y >>= f) s := by split <;> rfl

theorem require_then (b : Bool) (f : Unit → Exec β) (s : State) :
    (require b >>= f) s = if b = true then f () s else .error .done s := by cases b <;> rfl

theorem require_ok {b : Bool} (f : Unit → Exec β) (s : State) (h : b = true) : (require b >>= f) s = f () s := by subst h; rfl

@[simp] theorem each_nil (f : α → Exec Unit) (s : State) : each [] f s = .ok () s := rfl
@[simp] theorem each_cons (a : α) (l : List α) (f : α → Exec Unit) : each (a :: l) f = (f a >>= fun _ => each l f) := rfl
@[simp] theorem mapE_nil (f : α → Exec β) (s : State) : mapE [] f s = .ok [] s := rfl

theorem each_append (l m : List α) (f : α → Exec Unit) : each (l ++ m) f = (each l f >>= fun _ => each m f) := by
  induction l with
  | nil => rfl
  | cons a l ih => rw [List.cons_append, each_cons, each_cons, ih, bind_bind]

/-- A program for each element that changes the state by `g` changes it by `g` over the list. -/
theorem each_foldl {f : α → Exec Unit} {g : State → α → State} (l : List α) (s : State)
    (h : ∀ a ∈ l, ∀ u, f a u = .ok () (g u a)) : each l f s = .ok () (l.foldl g s) := by
  induction l generalizing s with
  | nil => rfl
  | cons a l ih => rw [each_cons, bind_ok (h a (by simp) s)]; exact ih _ fun b hb => h b (by simp [hb])

theorem runExec_ok {x : Exec Unit} {s t : State} (h : x s = .ok () t) : runExec x s = .next t := by simp [runExec, h]
theorem runExec_error {x : Exec Unit} {s t : State} (h : x s = .error .done t) : runExec x s = .next t := by simp [runExec, h]

theorem runExec_next (x : Exec Unit) (s : State) : ∃ t, runExec x s = .next t := by
  unfold runExec; split <;> exact ⟨_, rfl⟩

theorem within_ok {x : Exec Unit} {s t : State} (h : x s = .ok () t) : within x s = .ok () t := by simp [within, h]
theorem within_error {x : Exec Unit} {s t : State} (h : x s = .error .done t) : within x s = .ok () t := by simp [within, h]

/-! Named places: running a change, and a change followed by more. -/

@[simp] theorem updHart_run (g : Hart → Hart) (s : State) : updHart g s = .ok () (s.withHart g) := rfl
@[simp] theorem updHart_then (g : Hart → Hart) (f : Unit → Exec β) (s : State) : (updHart g >>= f) s = f () (s.withHart g) := rfl
@[simp] theorem updHartOf_run (a : Agent) (g : Hart → Hart) (s : State) : updHartOf a g s = .ok () (s.setHart a (g (s.hart a))) := rfl
@[simp] theorem updHartOf_then (a : Agent) (g : Hart → Hart) (f : Unit → Exec β) (s : State) : (updHartOf a g >>= f) s = f () (s.setHart a (g (s.hart a))) := rfl
@[simp] theorem updCore_run (c : Nat) (g : Core → Core) (s : State) : updCore c g s = .ok () (s.updCore c g) := rfl
@[simp] theorem updCore_then (c : Nat) (g : Core → Core) (f : Unit → Exec β) (s : State) : (updCore c g >>= f) s = f () (s.updCore c g) := rfl
@[simp] theorem updJob_run (c : Nat) (g : Job → Job) (s : State) : updJob c g s = .ok () (s.updJob c g) := rfl
@[simp] theorem updJob_then (c : Nat) (g : Job → Job) (f : Unit → Exec β) (s : State) : (updJob c g >>= f) s = f () (s.updJob c g) := rfl
@[simp] theorem updPart_run (k : Nat) (g : Part → Part) (s : State) : updPart k g s = .ok () (s.updPart k g) := rfl
@[simp] theorem updPart_then (k : Nat) (g : Part → Part) (f : Unit → Exec β) (s : State) : (updPart k g >>= f) s = f () (s.updPart k g) := rfl
@[simp] theorem setReg_run (o : Nat) (v : Word) (s : State) : setReg o v s = .ok () (s.setReg o v) := rfl
@[simp] theorem setReg_then (o : Nat) (v : Word) (f : Unit → Exec β) (s : State) : (setReg o v >>= f) s = f () (s.setReg o v) := rfl
@[simp] theorem setField_run (o lo n v : Nat) (s : State) : setField o lo n v s = .ok () (s.putField o lo n v) := rfl
@[simp] theorem setField_then (o lo n v : Nat) (f : Unit → Exec β) (s : State) : (setField o lo n v >>= f) s = f () (s.putField o lo n v) := rfl
@[simp] theorem setFlag_run (o i : Nat) (b : Bool) (s : State) : setFlag o i b s = .ok () (s.putFlag o i b) := rfl
@[simp] theorem setFlag_then (o i : Nat) (b : Bool) (f : Unit → Exec β) (s : State) : (setFlag o i b >>= f) s = f () (s.putFlag o i b) := rfl
@[simp] theorem updLink_run (p : Nat) (g : Link → Link) (s : State) : updLink p g s = .ok () (s.onLink p g) := rfl
@[simp] theorem updLink_then (p : Nat) (g : Link → Link) (f : Unit → Exec β) (s : State) : (updLink p g >>= f) s = f () (s.onLink p g) := rfl
@[simp] theorem updSess_run (p k : Nat) (g : Session → Session) (s : State) : updSess p k g s = .ok () (s.onSess p k g) := rfl
@[simp] theorem updSess_then (p k : Nat) (g : Session → Session) (f : Unit → Exec β) (s : State) : (updSess p k g >>= f) s = f () (s.onSess p k g) := rfl
@[simp] theorem updPower_run (g : Power → Power) (s : State) : updPower g s = .ok () (s.onPower g) := rfl
@[simp] theorem updPower_then (g : Power → Power) (f : Unit → Exec β) (s : State) : (updPower g >>= f) s = f () (s.onPower g) := rfl
@[simp] theorem updBoot_run (g : Boot → Boot) (s : State) : updBoot g s = .ok () (s.onBoot g) := rfl
@[simp] theorem updBoot_then (g : Boot → Boot) (f : Unit → Exec β) (s : State) : (updBoot g >>= f) s = f () (s.onBoot g) := rfl
@[simp] theorem custody_run (k node r t : Nat) (s : State) : custody k node r t s = .ok () (s.inCustody k node r t) := rfl
@[simp] theorem custody_then (k node r t : Nat) (f : Unit → Exec β) (s : State) : (custody k node r t >>= f) s = f () (s.inCustody k node r t) := rfl
@[simp] theorem mgmtEvt_run (i : Nat) (s : State) : mgmtEvt i s = .ok () (s.putFlag Reg.mgmtEvt i true) := rfl
@[simp] theorem mgmtEvt_then (i : Nat) (f : Unit → Exec β) (s : State) : (mgmtEvt i >>= f) s = f () (s.putFlag Reg.mgmtEvt i true) := rfl
@[simp] theorem postCpl_run (k : Nat) (c : Cpl) (s : State) : postCpl k c s = .ok () (s.posted k c) := rfl
@[simp] theorem postCpl_then (k : Nat) (c : Cpl) (f : Unit → Exec β) (s : State) : (postCpl k c >>= f) s = f () (s.posted k c) := rfl
@[simp] theorem getHart_run (s : State) : getHart s = .ok (s.hart s.cur) s := rfl
@[simp] theorem getHart_then (f : Hart → Exec β) (s : State) : (getHart >>= f) s = f (s.hart s.cur) s := rfl
@[simp] theorem getCore_run (c : Nat) (s : State) : getCore c s = .ok (s.core c) s := rfl
@[simp] theorem getCore_then (c : Nat) (f : Core → Exec β) (s : State) : (getCore c >>= f) s = f (s.core c) s := rfl
@[simp] theorem getJob_run (c : Nat) (s : State) : getJob c s = .ok (s.job c) s := rfl
@[simp] theorem getJob_then (c : Nat) (f : Job → Exec β) (s : State) : (getJob c >>= f) s = f (s.job c) s := rfl
@[simp] theorem getPart_run (k : Nat) (s : State) : getPart k s = .ok (s.part k) s := rfl
@[simp] theorem getPart_then (k : Nat) (f : Part → Exec β) (s : State) : (getPart k >>= f) s = f (s.part k) s := rfl
@[simp] theorem getReg_run (o : Nat) (s : State) : getReg o s = .ok (s.reg o) s := rfl
@[simp] theorem getReg_then (o : Nat) (f : Word → Exec β) (s : State) : (getReg o >>= f) s = f (s.reg o) s := rfl
@[simp] theorem curCore_run (s : State) : curCore s = .ok (s.cur.coreNo) s := rfl
@[simp] theorem curCore_then (f : Nat → Exec β) (s : State) : (curCore >>= f) s = f (s.cur.coreNo) s := rfl
@[simp] theorem curJob_run (s : State) : curJob s = .ok (s.job s.cur.coreNo) s := rfl
@[simp] theorem curJob_then (f : Job → Exec β) (s : State) : (curJob >>= f) s = f (s.job s.cur.coreNo) s := rfl

@[simp] theorem fresh_then (f : Nat → Exec β) (s : State) : (fresh >>= f) s = f s.tick { s with tick := s.tick + 1 } := rfl

theorem plainWrite_run (o : Nat) (v : Word) (s : State) : plainWrite o v s = .ok () (s.wrote o v) := by
  unfold plainWrite State.wrote
  cases h : regSpec o <;> rfl

@[simp] theorem plainWrite_then (o : Nat) (v : Word) (f : Unit → Exec β) (s : State) :
    (plainWrite o v >>= f) s = f () (s.wrote o v) := bind_ok (plainWrite_run o v s)

/-- A write that its register admits runs its effect. -/
theorem admitted_run {w : Writer} {o : Nat} {v : Word} {x : Exec Unit} {s : State} (h : s.admits w o v = true) :
    admitted w o v x s = x s := by rw [admitted, get_then, require_ok _ _ h]

/-! Instructions. -/

theorem block_run (b : Block) (s : State) :
    (block b : Exec α) s = .error .done (s.withHart fun h => { h with blocked := b, restart := h.restartHere }) := rfl

theorem trapWith_run {c : Cause} {i : FInfo} {s t : State} (h : takeException s.cur c i s = .ok () t) :
    (trapWith c i : Exec α) s = .error .done t := by
  rw [trapWith, get_then, bind_ok h]; rfl

theorem trapWith_then {c : Cause} {i : FInfo} {s t : State} (f : α → Exec β) (h : takeException s.cur c i s = .ok () t) :
    ((trapWith c i : Exec α) >>= f) s = .error .done t := bind_error (trapWith_run h)

/-- A one-slot instruction that completes moves its context on and does nothing else. -/
theorem retire_one (s : State) : retire 1 s = .ok () (s.withHart fun h => h.past 1) := by
  rw [retire, updHart_then, get_then]
  have : (s.withHart fun h => h.past 1).cur = s.cur := rfl
  rw [this]
  rcases s.cur with ⟨c, e⟩ | c | f | _ <;> try rfl
  cases e <;> rfl

/-- Completing needs no condition. -/
theorem retire_ok (n : Nat) (s : State) : ∃ t, retire n s = .ok () t := by
  rw [retire, updHart_then, get_then]
  rcases (s.withHart fun h => h.past n).cur with ⟨c, e⟩ | c | f | _ <;> try exact ⟨_, rfl⟩
  cases e <;> try exact ⟨_, rfl⟩
  by_cases h : 2 ≤ n <;> simp [h, opportunity]

/-- An instruction that issues runs its effect. -/
theorem run_issues {i : Instr} {e : Enc} {sh : Shape} {body : Exec Unit} {s : State} (hi : Issues i s) (he : i.enc = some e)
    (hs : i.shape = some sh) : run e sh body s = runExec body s := by
  obtain ⟨e', sh', he', hs', h1, h2, h3⟩ := hi
  rw [he] at he'; rw [hs] at hs'; cases he'; cases hs'
  unfold Hart.unpushed at h3
  rw [run, runExec, runExec, runInstr, get_then, h1]
  simp [h2, h3]

set_option maxHeartbeats 4000000 in
/-- Every row of the table with an encoding is run in the frame of every instruction. -/
theorem exec_run (i : Instr) (e : Enc) (h : i.enc = some e) :
    ∃ sh, i.shape = some sh ∧ ∃ body, ∀ s, exec i s = run e sh body s := by
  cases i
  all_goals first
    | (cases h; done)
    | (cases h; exact ⟨_, rfl, _, fun _ => rfl⟩)

end Sys2Proof.Laws
end

