-- ==== Sys2Proof/Laws/Keeps.lean ====
section
/-! SUPPORT. What a program keeps: a property of the state that it leaves true whether it ends normally or early, from that property of
each part. -/
namespace Sys2Proof.Laws
open Sys2Proof.Machine

variable {α β : Type} {I : State → Prop}

/-- The property holds where a program ends. -/
def Ends (I : State → Prop) (r : EStateM.Result Halt State α) : Prop :=
  match r with
  | .ok _ t => I t
  | .error _ t => I t

/-- From every state with the property the program ends in one. -/
def Keeps (I : State → Prop) (x : Exec α) : Prop := ∀ s, I s → Ends I (x s)

theorem keeps_pure (a : α) : Keeps I (pure a : Exec α) := fun _ h => h
theorem keeps_halt : Keeps I (halt : Exec α) := fun _ h => h
theorem keeps_get : Keeps I (get : Exec State) := fun _ h => h
theorem keeps_modify {g : State → State} (h : ∀ s, I s → I (g s)) : Keeps I (modify g : Exec PUnit) := h

theorem keeps_bind {x : Exec α} {f : α → Exec β} (hx : Keeps I x) (hf : ∀ a, Keeps I (f a)) : Keeps I (x >>= f) := by
  intro s h
  have e := hx s h
  show Ends I (EStateM.bind x f s)
  unfold EStateM.bind
  cases hr : x s with
  | ok a t => rw [hr] at e; exact hf a t e
  | error c t => rw [hr] at e; exact e

/-- What follows a look at the state need keep the property from that state alone. -/
theorem keeps_getBind {f : State → Exec β} (h : ∀ s, I s → Ends I (f s s)) : Keeps I ((get : Exec State) >>= f) := h

theorem keeps_ite {c : Prop} [Decidable c] {x y : Exec α} (hx : Keeps I x) (hy : Keeps I y) : Keeps I (if c then x else y) := by
  split
  · exact hx
  · exact hy

theorem keeps_require (b : Bool) : Keeps I (require b) := by
  unfold require
  exact keeps_ite (keeps_pure ()) keeps_halt

theorem keeps_each {l : List α} {f : α → Exec Unit} (h : ∀ a, Keeps I (f a)) : Keeps I (each l f) := by
  induction l with
  | nil => exact keeps_pure ()
  | cons a l ih => exact keeps_bind (h a) fun _ => ih

theorem keeps_mapE {l : List α} {f : α → Exec β} (h : ∀ a, Keeps I (f a)) : Keeps I (mapE l f) := by
  induction l with
  | nil => exact keeps_pure []
  | cons a l ih => exact keeps_bind (h a) fun _ => keeps_bind ih fun _ => keeps_pure _

theorem keeps_within {x : Exec Unit} (h : Keeps I x) : Keeps I (within x) := by
  intro s hs
  have e := h s hs
  unfold within
  cases hr : x s with
  | ok a t => rw [hr] at e; exact e
  | error c t => rw [hr] at e; exact e

theorem keeps_fresh (h : ∀ s n, I s → I { s with tick := n }) : Keeps I fresh := fun s hs => h s _ hs

theorem keeps_choose (h : ∀ s n, I s → I { s with tick := n }) (what n : Nat) : Keeps I (choose what n) :=
  keeps_bind (keeps_fresh h) fun _ => keeps_pure _

/-- A meaning keeps what its program keeps. -/
theorem keeps_run {x : Exec Unit} (h : Keeps I x) {s t : State} (hs : I s) (e : runExec x s = .next t) : I t := by
  have k := h s hs
  unfold runExec at e
  cases hr : x s with
  | ok a u => rw [hr] at e k; cases e; exact k
  | error c u => rw [hr] at e k; cases e; exact k

end Sys2Proof.Laws
end

