-- ==== Sys2Proof/Laws/State.lean ====
section
/-! SUPPORT. What each update of the state leaves of every field: one lemma for each field and each update. -/
namespace Sys2Proof.Machine

/-! setHart changes harts alone. -/

@[simp] theorem State.setHart_sched (s : State) (a : Agent) (h : Hart) : (s.setHart a h).sched = s.sched := rfl
@[simp] theorem State.setHart_cur (s : State) (a : Agent) (h : Hart) : (s.setHart a h).cur = s.cur := rfl
@[simp] theorem State.setHart_tick (s : State) (a : Agent) (h : Hart) : (s.setHart a h).tick = s.tick := rfl
@[simp] theorem State.setHart_cores (s : State) (a : Agent) (h : Hart) : (s.setHart a h).cores = s.cores := rfl
@[simp] theorem State.setHart_frames (s : State) (a : Agent) (h : Hart) : (s.setHart a h).frames = s.frames := rfl
@[simp] theorem State.setHart_nextJob (s : State) (a : Agent) (h : Hart) : (s.setHart a h).nextJob = s.nextJob := rfl
@[simp] theorem State.setHart_parts (s : State) (a : Agent) (h : Hart) : (s.setHart a h).parts = s.parts := rfl
@[simp] theorem State.setHart_mem (s : State) (a : Agent) (h : Hart) : (s.setHart a h).mem = s.mem := rfl
@[simp] theorem State.setHart_swritten (s : State) (a : Agent) (h : Hart) : (s.setHart a h).swritten = s.swritten := rfl
@[simp] theorem State.setHart_blocks (s : State) (a : Agent) (h : Hart) : (s.setHart a h).blocks = s.blocks := rfl
@[simp] theorem State.setHart_mcnts (s : State) (a : Agent) (h : Hart) : (s.setHart a h).mcnts = s.mcnts := rfl
@[simp] theorem State.setHart_gseq (s : State) (a : Agent) (h : Hart) : (s.setHart a h).gseq = s.gseq := rfl
@[simp] theorem State.setHart_gver (s : State) (a : Agent) (h : Hart) : (s.setHart a h).gver = s.gver := rfl
@[simp] theorem State.setHart_hist (s : State) (a : Agent) (h : Hart) : (s.setHart a h).hist = s.hist := rfl
@[simp] theorem State.setHart_wrel (s : State) (a : Agent) (h : Hart) : (s.setHart a h).wrel = s.wrel := rfl
@[simp] theorem State.setHart_releases (s : State) (a : Agent) (h : Hart) : (s.setHart a h).releases = s.releases := rfl
@[simp] theorem State.setHart_nextRel (s : State) (a : Agent) (h : Hart) : (s.setHart a h).nextRel = s.nextRel := rfl
@[simp] theorem State.setHart_hostKnow (s : State) (a : Agent) (h : Hart) : (s.setHart a h).hostKnow = s.hostKnow := rfl
@[simp] theorem State.setHart_farKnow (s : State) (a : Agent) (h : Hart) : (s.setHart a h).farKnow = s.farKnow := rfl
@[simp] theorem State.setHart_outq (s : State) (a : Agent) (h : Hart) : (s.setHart a h).outq = s.outq := rfl
@[simp] theorem State.setHart_nextPhase (s : State) (a : Agent) (h : Hart) : (s.setHart a h).nextPhase = s.nextPhase := rfl
@[simp] theorem State.setHart_nextTag (s : State) (a : Agent) (h : Hart) : (s.setHart a h).nextTag = s.nextTag := rfl
@[simp] theorem State.setHart_remotes (s : State) (a : Agent) (h : Hart) : (s.setHart a h).remotes = s.remotes := rfl
@[simp] theorem State.setHart_regs (s : State) (a : Agent) (h : Hart) : (s.setHart a h).regs = s.regs := rfl
@[simp] theorem State.setHart_flue (s : State) (a : Agent) (h : Hart) : (s.setHart a h).flue = s.flue := rfl
@[simp] theorem State.setHart_flueCnt (s : State) (a : Agent) (h : Hart) : (s.setHart a h).flueCnt = s.flueCnt := rfl
@[simp] theorem State.setHart_feCode (s : State) (a : Agent) (h : Hart) : (s.setHart a h).feCode = s.feCode := rfl
@[simp] theorem State.setHart_feData (s : State) (a : Agent) (h : Hart) : (s.setHart a h).feData = s.feData := rfl
@[simp] theorem State.setHart_mgmtMem (s : State) (a : Agent) (h : Hart) : (s.setHart a h).mgmtMem = s.mgmtMem := rfl
@[simp] theorem State.setHart_mgmtCode (s : State) (a : Agent) (h : Hart) : (s.setHart a h).mgmtCode = s.mgmtCode := rfl
@[simp] theorem State.setHart_svcCode (s : State) (a : Agent) (h : Hart) : (s.setHart a h).svcCode = s.svcCode := rfl
@[simp] theorem State.setHart_config (s : State) (a : Agent) (h : Hart) : (s.setHart a h).config = s.config := rfl
@[simp] theorem State.setHart_sections (s : State) (a : Agent) (h : Hart) : (s.setHart a h).sections = s.sections := rfl
@[simp] theorem State.setHart_dcc (s : State) (a : Agent) (h : Hart) : (s.setHart a h).dcc = s.dcc := rfl
@[simp] theorem State.setHart_dccRun (s : State) (a : Agent) (h : Hart) : (s.setHart a h).dccRun = s.dccRun := rfl
@[simp] theorem State.setHart_power (s : State) (a : Agent) (h : Hart) : (s.setHart a h).power = s.power := rfl
@[simp] theorem State.setHart_boot (s : State) (a : Agent) (h : Hart) : (s.setHart a h).boot = s.boot := rfl
@[simp] theorem State.setHart_links (s : State) (a : Agent) (h : Hart) : (s.setHart a h).links = s.links := rfl
@[simp] theorem State.setHart_tsGood (s : State) (a : Agent) (h : Hart) : (s.setHart a h).tsGood = s.tsGood := rfl
@[simp] theorem State.setHart_tsEver (s : State) (a : Agent) (h : Hart) : (s.setHart a h).tsEver = s.tsEver := rfl
@[simp] theorem State.setHart_tsT1 (s : State) (a : Agent) (h : Hart) : (s.setHart a h).tsT1 = s.tsT1 := rfl
@[simp] theorem State.setHart_tsSlew (s : State) (a : Agent) (h : Hart) : (s.setHart a h).tsSlew = s.tsSlew := rfl
@[simp] theorem State.setHart_tsPhase (s : State) (a : Agent) (h : Hart) : (s.setHart a h).tsPhase = s.tsPhase := rfl
@[simp] theorem State.setHart_nodesE (s : State) (a : Agent) (h : Hart) : (s.setHart a h).nodesE = s.nodesE := rfl
@[simp] theorem State.setHart_nodesI (s : State) (a : Agent) (h : Hart) : (s.setHart a h).nodesI = s.nodesI := rfl
@[simp] theorem State.setHart_msix (s : State) (a : Agent) (h : Hart) : (s.setHart a h).msix = s.msix := rfl
@[simp] theorem State.setHart_wdog (s : State) (a : Agent) (h : Hart) : (s.setHart a h).wdog = s.wdog := rfl
@[simp] theorem State.setHart_feWait (s : State) (a : Agent) (h : Hart) : (s.setHart a h).feWait = s.feWait := rfl
@[simp] theorem State.setHart_feHold (s : State) (a : Agent) (h : Hart) : (s.setHart a h).feHold = s.feHold := rfl
@[simp] theorem State.setHart_rankCache (s : State) (a : Agent) (h : Hart) : (s.setHart a h).rankCache = s.rankCache := rfl
@[simp] theorem State.setHart_hostOut (s : State) (a : Agent) (h : Hart) : (s.setHart a h).hostOut = s.hostOut := rfl

/-! withHart changes harts alone. -/

@[simp] theorem State.withHart_sched (s : State) (f : Hart → Hart) : (s.withHart f).sched = s.sched := rfl
@[simp] theorem State.withHart_cur (s : State) (f : Hart → Hart) : (s.withHart f).cur = s.cur := rfl
@[simp] theorem State.withHart_tick (s : State) (f : Hart → Hart) : (s.withHart f).tick = s.tick := rfl
@[simp] theorem State.withHart_cores (s : State) (f : Hart → Hart) : (s.withHart f).cores = s.cores := rfl
@[simp] theorem State.withHart_frames (s : State) (f : Hart → Hart) : (s.withHart f).frames = s.frames := rfl
@[simp] theorem State.withHart_nextJob (s : State) (f : Hart → Hart) : (s.withHart f).nextJob = s.nextJob := rfl
@[simp] theorem State.withHart_parts (s : State) (f : Hart → Hart) : (s.withHart f).parts = s.parts := rfl
@[simp] theorem State.withHart_mem (s : State) (f : Hart → Hart) : (s.withHart f).mem = s.mem := rfl
@[simp] theorem State.withHart_swritten (s : State) (f : Hart → Hart) : (s.withHart f).swritten = s.swritten := rfl
@[simp] theorem State.withHart_blocks (s : State) (f : Hart → Hart) : (s.withHart f).blocks = s.blocks := rfl
@[simp] theorem State.withHart_mcnts (s : State) (f : Hart → Hart) : (s.withHart f).mcnts = s.mcnts := rfl
@[simp] theorem State.withHart_gseq (s : State) (f : Hart → Hart) : (s.withHart f).gseq = s.gseq := rfl
@[simp] theorem State.withHart_gver (s : State) (f : Hart → Hart) : (s.withHart f).gver = s.gver := rfl
@[simp] theorem State.withHart_hist (s : State) (f : Hart → Hart) : (s.withHart f).hist = s.hist := rfl
@[simp] theorem State.withHart_wrel (s : State) (f : Hart → Hart) : (s.withHart f).wrel = s.wrel := rfl
@[simp] theorem State.withHart_releases (s : State) (f : Hart → Hart) : (s.withHart f).releases = s.releases := rfl
@[simp] theorem State.withHart_nextRel (s : State) (f : Hart → Hart) : (s.withHart f).nextRel = s.nextRel := rfl
@[simp] theorem State.withHart_hostKnow (s : State) (f : Hart → Hart) : (s.withHart f).hostKnow = s.hostKnow := rfl
@[simp] theorem State.withHart_farKnow (s : State) (f : Hart → Hart) : (s.withHart f).farKnow = s.farKnow := rfl
@[simp] theorem State.withHart_outq (s : State) (f : Hart → Hart) : (s.withHart f).outq = s.outq := rfl
@[simp] theorem State.withHart_nextPhase (s : State) (f : Hart → Hart) : (s.withHart f).nextPhase = s.nextPhase := rfl
@[simp] theorem State.withHart_nextTag (s : State) (f : Hart → Hart) : (s.withHart f).nextTag = s.nextTag := rfl
@[simp] theorem State.withHart_remotes (s : State) (f : Hart → Hart) : (s.withHart f).remotes = s.remotes := rfl
@[simp] theorem State.withHart_regs (s : State) (f : Hart → Hart) : (s.withHart f).regs = s.regs := rfl
@[simp] theorem State.withHart_flue (s : State) (f : Hart → Hart) : (s.withHart f).flue = s.flue := rfl
@[simp] theorem State.withHart_flueCnt (s : State) (f : Hart → Hart) : (s.withHart f).flueCnt = s.flueCnt := rfl
@[simp] theorem State.withHart_feCode (s : State) (f : Hart → Hart) : (s.withHart f).feCode = s.feCode := rfl
@[simp] theorem State.withHart_feData (s : State) (f : Hart → Hart) : (s.withHart f).feData = s.feData := rfl
@[simp] theorem State.withHart_mgmtMem (s : State) (f : Hart → Hart) : (s.withHart f).mgmtMem = s.mgmtMem := rfl
@[simp] theorem State.withHart_mgmtCode (s : State) (f : Hart → Hart) : (s.withHart f).mgmtCode = s.mgmtCode := rfl
@[simp] theorem State.withHart_svcCode (s : State) (f : Hart → Hart) : (s.withHart f).svcCode = s.svcCode := rfl
@[simp] theorem State.withHart_config (s : State) (f : Hart → Hart) : (s.withHart f).config = s.config := rfl
@[simp] theorem State.withHart_sections (s : State) (f : Hart → Hart) : (s.withHart f).sections = s.sections := rfl
@[simp] theorem State.withHart_dcc (s : State) (f : Hart → Hart) : (s.withHart f).dcc = s.dcc := rfl
@[simp] theorem State.withHart_dccRun (s : State) (f : Hart → Hart) : (s.withHart f).dccRun = s.dccRun := rfl
@[simp] theorem State.withHart_power (s : State) (f : Hart → Hart) : (s.withHart f).power = s.power := rfl
@[simp] theorem State.withHart_boot (s : State) (f : Hart → Hart) : (s.withHart f).boot = s.boot := rfl
@[simp] theorem State.withHart_links (s : State) (f : Hart → Hart) : (s.withHart f).links = s.links := rfl
@[simp] theorem State.withHart_tsGood (s : State) (f : Hart → Hart) : (s.withHart f).tsGood = s.tsGood := rfl
@[simp] theorem State.withHart_tsEver (s : State) (f : Hart → Hart) : (s.withHart f).tsEver = s.tsEver := rfl
@[simp] theorem State.withHart_tsT1 (s : State) (f : Hart → Hart) : (s.withHart f).tsT1 = s.tsT1 := rfl
@[simp] theorem State.withHart_tsSlew (s : State) (f : Hart → Hart) : (s.withHart f).tsSlew = s.tsSlew := rfl
@[simp] theorem State.withHart_tsPhase (s : State) (f : Hart → Hart) : (s.withHart f).tsPhase = s.tsPhase := rfl
@[simp] theorem State.withHart_nodesE (s : State) (f : Hart → Hart) : (s.withHart f).nodesE = s.nodesE := rfl
@[simp] theorem State.withHart_nodesI (s : State) (f : Hart → Hart) : (s.withHart f).nodesI = s.nodesI := rfl
@[simp] theorem State.withHart_msix (s : State) (f : Hart → Hart) : (s.withHart f).msix = s.msix := rfl
@[simp] theorem State.withHart_wdog (s : State) (f : Hart → Hart) : (s.withHart f).wdog = s.wdog := rfl
@[simp] theorem State.withHart_feWait (s : State) (f : Hart → Hart) : (s.withHart f).feWait = s.feWait := rfl
@[simp] theorem State.withHart_feHold (s : State) (f : Hart → Hart) : (s.withHart f).feHold = s.feHold := rfl
@[simp] theorem State.withHart_rankCache (s : State) (f : Hart → Hart) : (s.withHart f).rankCache = s.rankCache := rfl
@[simp] theorem State.withHart_hostOut (s : State) (f : Hart → Hart) : (s.withHart f).hostOut = s.hostOut := rfl

/-! setCore changes cores alone. -/

@[simp] theorem State.setCore_sched (s : State) (c : Nat) (x : Core) : (s.setCore c x).sched = s.sched := rfl
@[simp] theorem State.setCore_cur (s : State) (c : Nat) (x : Core) : (s.setCore c x).cur = s.cur := rfl
@[simp] theorem State.setCore_tick (s : State) (c : Nat) (x : Core) : (s.setCore c x).tick = s.tick := rfl
@[simp] theorem State.setCore_harts (s : State) (c : Nat) (x : Core) : (s.setCore c x).harts = s.harts := rfl
@[simp] theorem State.setCore_frames (s : State) (c : Nat) (x : Core) : (s.setCore c x).frames = s.frames := rfl
@[simp] theorem State.setCore_nextJob (s : State) (c : Nat) (x : Core) : (s.setCore c x).nextJob = s.nextJob := rfl
@[simp] theorem State.setCore_parts (s : State) (c : Nat) (x : Core) : (s.setCore c x).parts = s.parts := rfl
@[simp] theorem State.setCore_mem (s : State) (c : Nat) (x : Core) : (s.setCore c x).mem = s.mem := rfl
@[simp] theorem State.setCore_swritten (s : State) (c : Nat) (x : Core) : (s.setCore c x).swritten = s.swritten := rfl
@[simp] theorem State.setCore_blocks (s : State) (c : Nat) (x : Core) : (s.setCore c x).blocks = s.blocks := rfl
@[simp] theorem State.setCore_mcnts (s : State) (c : Nat) (x : Core) : (s.setCore c x).mcnts = s.mcnts := rfl
@[simp] theorem State.setCore_gseq (s : State) (c : Nat) (x : Core) : (s.setCore c x).gseq = s.gseq := rfl
@[simp] theorem State.setCore_gver (s : State) (c : Nat) (x : Core) : (s.setCore c x).gver = s.gver := rfl
@[simp] theorem State.setCore_hist (s : State) (c : Nat) (x : Core) : (s.setCore c x).hist = s.hist := rfl
@[simp] theorem State.setCore_wrel (s : State) (c : Nat) (x : Core) : (s.setCore c x).wrel = s.wrel := rfl
@[simp] theorem State.setCore_releases (s : State) (c : Nat) (x : Core) : (s.setCore c x).releases = s.releases := rfl
@[simp] theorem State.setCore_nextRel (s : State) (c : Nat) (x : Core) : (s.setCore c x).nextRel = s.nextRel := rfl
@[simp] theorem State.setCore_hostKnow (s : State) (c : Nat) (x : Core) : (s.setCore c x).hostKnow = s.hostKnow := rfl
@[simp] theorem State.setCore_farKnow (s : State) (c : Nat) (x : Core) : (s.setCore c x).farKnow = s.farKnow := rfl
@[simp] theorem State.setCore_outq (s : State) (c : Nat) (x : Core) : (s.setCore c x).outq = s.outq := rfl
@[simp] theorem State.setCore_nextPhase (s : State) (c : Nat) (x : Core) : (s.setCore c x).nextPhase = s.nextPhase := rfl
@[simp] theorem State.setCore_nextTag (s : State) (c : Nat) (x : Core) : (s.setCore c x).nextTag = s.nextTag := rfl
@[simp] theorem State.setCore_remotes (s : State) (c : Nat) (x : Core) : (s.setCore c x).remotes = s.remotes := rfl
@[simp] theorem State.setCore_regs (s : State) (c : Nat) (x : Core) : (s.setCore c x).regs = s.regs := rfl
@[simp] theorem State.setCore_flue (s : State) (c : Nat) (x : Core) : (s.setCore c x).flue = s.flue := rfl
@[simp] theorem State.setCore_flueCnt (s : State) (c : Nat) (x : Core) : (s.setCore c x).flueCnt = s.flueCnt := rfl
@[simp] theorem State.setCore_feCode (s : State) (c : Nat) (x : Core) : (s.setCore c x).feCode = s.feCode := rfl
@[simp] theorem State.setCore_feData (s : State) (c : Nat) (x : Core) : (s.setCore c x).feData = s.feData := rfl
@[simp] theorem State.setCore_mgmtMem (s : State) (c : Nat) (x : Core) : (s.setCore c x).mgmtMem = s.mgmtMem := rfl
@[simp] theorem State.setCore_mgmtCode (s : State) (c : Nat) (x : Core) : (s.setCore c x).mgmtCode = s.mgmtCode := rfl
@[simp] theorem State.setCore_svcCode (s : State) (c : Nat) (x : Core) : (s.setCore c x).svcCode = s.svcCode := rfl
@[simp] theorem State.setCore_config (s : State) (c : Nat) (x : Core) : (s.setCore c x).config = s.config := rfl
@[simp] theorem State.setCore_sections (s : State) (c : Nat) (x : Core) : (s.setCore c x).sections = s.sections := rfl
@[simp] theorem State.setCore_dcc (s : State) (c : Nat) (x : Core) : (s.setCore c x).dcc = s.dcc := rfl
@[simp] theorem State.setCore_dccRun (s : State) (c : Nat) (x : Core) : (s.setCore c x).dccRun = s.dccRun := rfl
@[simp] theorem State.setCore_power (s : State) (c : Nat) (x : Core) : (s.setCore c x).power = s.power := rfl
@[simp] theorem State.setCore_boot (s : State) (c : Nat) (x : Core) : (s.setCore c x).boot = s.boot := rfl
@[simp] theorem State.setCore_links (s : State) (c : Nat) (x : Core) : (s.setCore c x).links = s.links := rfl
@[simp] theorem State.setCore_tsGood (s : State) (c : Nat) (x : Core) : (s.setCore c x).tsGood = s.tsGood := rfl
@[simp] theorem State.setCore_tsEver (s : State) (c : Nat) (x : Core) : (s.setCore c x).tsEver = s.tsEver := rfl
@[simp] theorem State.setCore_tsT1 (s : State) (c : Nat) (x : Core) : (s.setCore c x).tsT1 = s.tsT1 := rfl
@[simp] theorem State.setCore_tsSlew (s : State) (c : Nat) (x : Core) : (s.setCore c x).tsSlew = s.tsSlew := rfl
@[simp] theorem State.setCore_tsPhase (s : State) (c : Nat) (x : Core) : (s.setCore c x).tsPhase = s.tsPhase := rfl
@[simp] theorem State.setCore_nodesE (s : State) (c : Nat) (x : Core) : (s.setCore c x).nodesE = s.nodesE := rfl
@[simp] theorem State.setCore_nodesI (s : State) (c : Nat) (x : Core) : (s.setCore c x).nodesI = s.nodesI := rfl
@[simp] theorem State.setCore_msix (s : State) (c : Nat) (x : Core) : (s.setCore c x).msix = s.msix := rfl
@[simp] theorem State.setCore_wdog (s : State) (c : Nat) (x : Core) : (s.setCore c x).wdog = s.wdog := rfl
@[simp] theorem State.setCore_feWait (s : State) (c : Nat) (x : Core) : (s.setCore c x).feWait = s.feWait := rfl
@[simp] theorem State.setCore_feHold (s : State) (c : Nat) (x : Core) : (s.setCore c x).feHold = s.feHold := rfl
@[simp] theorem State.setCore_rankCache (s : State) (c : Nat) (x : Core) : (s.setCore c x).rankCache = s.rankCache := rfl
@[simp] theorem State.setCore_hostOut (s : State) (c : Nat) (x : Core) : (s.setCore c x).hostOut = s.hostOut := rfl

/-! updCore changes cores alone. -/

@[simp] theorem State.updCore_sched (s : State) (c : Nat) (f : Core → Core) : (s.updCore c f).sched = s.sched := rfl
@[simp] theorem State.updCore_cur (s : State) (c : Nat) (f : Core → Core) : (s.updCore c f).cur = s.cur := rfl
@[simp] theorem State.updCore_tick (s : State) (c : Nat) (f : Core → Core) : (s.updCore c f).tick = s.tick := rfl
@[simp] theorem State.updCore_harts (s : State) (c : Nat) (f : Core → Core) : (s.updCore c f).harts = s.harts := rfl
@[simp] theorem State.updCore_frames (s : State) (c : Nat) (f : Core → Core) : (s.updCore c f).frames = s.frames := rfl
@[simp] theorem State.updCore_nextJob (s : State) (c : Nat) (f : Core → Core) : (s.updCore c f).nextJob = s.nextJob := rfl
@[simp] theorem State.updCore_parts (s : State) (c : Nat) (f : Core → Core) : (s.updCore c f).parts = s.parts := rfl
@[simp] theorem State.updCore_mem (s : State) (c : Nat) (f : Core → Core) : (s.updCore c f).mem = s.mem := rfl
@[simp] theorem State.updCore_swritten (s : State) (c : Nat) (f : Core → Core) : (s.updCore c f).swritten = s.swritten := rfl
@[simp] theorem State.updCore_blocks (s : State) (c : Nat) (f : Core → Core) : (s.updCore c f).blocks = s.blocks := rfl
@[simp] theorem State.updCore_mcnts (s : State) (c : Nat) (f : Core → Core) : (s.updCore c f).mcnts = s.mcnts := rfl
@[simp] theorem State.updCore_gseq (s : State) (c : Nat) (f : Core → Core) : (s.updCore c f).gseq = s.gseq := rfl
@[simp] theorem State.updCore_gver (s : State) (c : Nat) (f : Core → Core) : (s.updCore c f).gver = s.gver := rfl
@[simp] theorem State.updCore_hist (s : State) (c : Nat) (f : Core → Core) : (s.updCore c f).hist = s.hist := rfl
@[simp] theorem State.updCore_wrel (s : State) (c : Nat) (f : Core → Core) : (s.updCore c f).wrel = s.wrel := rfl
@[simp] theorem State.updCore_releases (s : State) (c : Nat) (f : Core → Core) : (s.updCore c f).releases = s.releases := rfl
@[simp] theorem State.updCore_nextRel (s : State) (c : Nat) (f : Core → Core) : (s.updCore c f).nextRel = s.nextRel := rfl
@[simp] theorem State.updCore_hostKnow (s : State) (c : Nat) (f : Core → Core) : (s.updCore c f).hostKnow = s.hostKnow := rfl
@[simp] theorem State.updCore_farKnow (s : State) (c : Nat) (f : Core → Core) : (s.updCore c f).farKnow = s.farKnow := rfl
@[simp] theorem State.updCore_outq (s : State) (c : Nat) (f : Core → Core) : (s.updCore c f).outq = s.outq := rfl
@[simp] theorem State.updCore_nextPhase (s : State) (c : Nat) (f : Core → Core) : (s.updCore c f).nextPhase = s.nextPhase := rfl
@[simp] theorem State.updCore_nextTag (s : State) (c : Nat) (f : Core → Core) : (s.updCore c f).nextTag = s.nextTag := rfl
@[simp] theorem State.updCore_remotes (s : State) (c : Nat) (f : Core → Core) : (s.updCore c f).remotes = s.remotes := rfl
@[simp] theorem State.updCore_regs (s : State) (c : Nat) (f : Core → Core) : (s.updCore c f).regs = s.regs := rfl
@[simp] theorem State.updCore_flue (s : State) (c : Nat) (f : Core → Core) : (s.updCore c f).flue = s.flue := rfl
@[simp] theorem State.updCore_flueCnt (s : State) (c : Nat) (f : Core → Core) : (s.updCore c f).flueCnt = s.flueCnt := rfl
@[simp] theorem State.updCore_feCode (s : State) (c : Nat) (f : Core → Core) : (s.updCore c f).feCode = s.feCode := rfl
@[simp] theorem State.updCore_feData (s : State) (c : Nat) (f : Core → Core) : (s.updCore c f).feData = s.feData := rfl
@[simp] theorem State.updCore_mgmtMem (s : State) (c : Nat) (f : Core → Core) : (s.updCore c f).mgmtMem = s.mgmtMem := rfl
@[simp] theorem State.updCore_mgmtCode (s : State) (c : Nat) (f : Core → Core) : (s.updCore c f).mgmtCode = s.mgmtCode := rfl
@[simp] theorem State.updCore_svcCode (s : State) (c : Nat) (f : Core → Core) : (s.updCore c f).svcCode = s.svcCode := rfl
@[simp] theorem State.updCore_config (s : State) (c : Nat) (f : Core → Core) : (s.updCore c f).config = s.config := rfl
@[simp] theorem State.updCore_sections (s : State) (c : Nat) (f : Core → Core) : (s.updCore c f).sections = s.sections := rfl
@[simp] theorem State.updCore_dcc (s : State) (c : Nat) (f : Core → Core) : (s.updCore c f).dcc = s.dcc := rfl
@[simp] theorem State.updCore_dccRun (s : State) (c : Nat) (f : Core → Core) : (s.updCore c f).dccRun = s.dccRun := rfl
@[simp] theorem State.updCore_power (s : State) (c : Nat) (f : Core → Core) : (s.updCore c f).power = s.power := rfl
@[simp] theorem State.updCore_boot (s : State) (c : Nat) (f : Core → Core) : (s.updCore c f).boot = s.boot := rfl
@[simp] theorem State.updCore_links (s : State) (c : Nat) (f : Core → Core) : (s.updCore c f).links = s.links := rfl
@[simp] theorem State.updCore_tsGood (s : State) (c : Nat) (f : Core → Core) : (s.updCore c f).tsGood = s.tsGood := rfl
@[simp] theorem State.updCore_tsEver (s : State) (c : Nat) (f : Core → Core) : (s.updCore c f).tsEver = s.tsEver := rfl
@[simp] theorem State.updCore_tsT1 (s : State) (c : Nat) (f : Core → Core) : (s.updCore c f).tsT1 = s.tsT1 := rfl
@[simp] theorem State.updCore_tsSlew (s : State) (c : Nat) (f : Core → Core) : (s.updCore c f).tsSlew = s.tsSlew := rfl
@[simp] theorem State.updCore_tsPhase (s : State) (c : Nat) (f : Core → Core) : (s.updCore c f).tsPhase = s.tsPhase := rfl
@[simp] theorem State.updCore_nodesE (s : State) (c : Nat) (f : Core → Core) : (s.updCore c f).nodesE = s.nodesE := rfl
@[simp] theorem State.updCore_nodesI (s : State) (c : Nat) (f : Core → Core) : (s.updCore c f).nodesI = s.nodesI := rfl
@[simp] theorem State.updCore_msix (s : State) (c : Nat) (f : Core → Core) : (s.updCore c f).msix = s.msix := rfl
@[simp] theorem State.updCore_wdog (s : State) (c : Nat) (f : Core → Core) : (s.updCore c f).wdog = s.wdog := rfl
@[simp] theorem State.updCore_feWait (s : State) (c : Nat) (f : Core → Core) : (s.updCore c f).feWait = s.feWait := rfl
@[simp] theorem State.updCore_feHold (s : State) (c : Nat) (f : Core → Core) : (s.updCore c f).feHold = s.feHold := rfl
@[simp] theorem State.updCore_rankCache (s : State) (c : Nat) (f : Core → Core) : (s.updCore c f).rankCache = s.rankCache := rfl
@[simp] theorem State.updCore_hostOut (s : State) (c : Nat) (f : Core → Core) : (s.updCore c f).hostOut = s.hostOut := rfl

/-! updJob changes cores alone. -/

@[simp] theorem State.updJob_sched (s : State) (c : Nat) (f : Job → Job) : (s.updJob c f).sched = s.sched := rfl
@[simp] theorem State.updJob_cur (s : State) (c : Nat) (f : Job → Job) : (s.updJob c f).cur = s.cur := rfl
@[simp] theorem State.updJob_tick (s : State) (c : Nat) (f : Job → Job) : (s.updJob c f).tick = s.tick := rfl
@[simp] theorem State.updJob_harts (s : State) (c : Nat) (f : Job → Job) : (s.updJob c f).harts = s.harts := rfl
@[simp] theorem State.updJob_frames (s : State) (c : Nat) (f : Job → Job) : (s.updJob c f).frames = s.frames := rfl
@[simp] theorem State.updJob_nextJob (s : State) (c : Nat) (f : Job → Job) : (s.updJob c f).nextJob = s.nextJob := rfl
@[simp] theorem State.updJob_parts (s : State) (c : Nat) (f : Job → Job) : (s.updJob c f).parts = s.parts := rfl
@[simp] theorem State.updJob_mem (s : State) (c : Nat) (f : Job → Job) : (s.updJob c f).mem = s.mem := rfl
@[simp] theorem State.updJob_swritten (s : State) (c : Nat) (f : Job → Job) : (s.updJob c f).swritten = s.swritten := rfl
@[simp] theorem State.updJob_blocks (s : State) (c : Nat) (f : Job → Job) : (s.updJob c f).blocks = s.blocks := rfl
@[simp] theorem State.updJob_mcnts (s : State) (c : Nat) (f : Job → Job) : (s.updJob c f).mcnts = s.mcnts := rfl
@[simp] theorem State.updJob_gseq (s : State) (c : Nat) (f : Job → Job) : (s.updJob c f).gseq = s.gseq := rfl
@[simp] theorem State.updJob_gver (s : State) (c : Nat) (f : Job → Job) : (s.updJob c f).gver = s.gver := rfl
@[simp] theorem State.updJob_hist (s : State) (c : Nat) (f : Job → Job) : (s.updJob c f).hist = s.hist := rfl
@[simp] theorem State.updJob_wrel (s : State) (c : Nat) (f : Job → Job) : (s.updJob c f).wrel = s.wrel := rfl
@[simp] theorem State.updJob_releases (s : State) (c : Nat) (f : Job → Job) : (s.updJob c f).releases = s.releases := rfl
@[simp] theorem State.updJob_nextRel (s : State) (c : Nat) (f : Job → Job) : (s.updJob c f).nextRel = s.nextRel := rfl
@[simp] theorem State.updJob_hostKnow (s : State) (c : Nat) (f : Job → Job) : (s.updJob c f).hostKnow = s.hostKnow := rfl
@[simp] theorem State.updJob_farKnow (s : State) (c : Nat) (f : Job → Job) : (s.updJob c f).farKnow = s.farKnow := rfl
@[simp] theorem State.updJob_outq (s : State) (c : Nat) (f : Job → Job) : (s.updJob c f).outq = s.outq := rfl
@[simp] theorem State.updJob_nextPhase (s : State) (c : Nat) (f : Job → Job) : (s.updJob c f).nextPhase = s.nextPhase := rfl
@[simp] theorem State.updJob_nextTag (s : State) (c : Nat) (f : Job → Job) : (s.updJob c f).nextTag = s.nextTag := rfl
@[simp] theorem State.updJob_remotes (s : State) (c : Nat) (f : Job → Job) : (s.updJob c f).remotes = s.remotes := rfl
@[simp] theorem State.updJob_regs (s : State) (c : Nat) (f : Job → Job) : (s.updJob c f).regs = s.regs := rfl
@[simp] theorem State.updJob_flue (s : State) (c : Nat) (f : Job → Job) : (s.updJob c f).flue = s.flue := rfl
@[simp] theorem State.updJob_flueCnt (s : State) (c : Nat) (f : Job → Job) : (s.updJob c f).flueCnt = s.flueCnt := rfl
@[simp] theorem State.updJob_feCode (s : State) (c : Nat) (f : Job → Job) : (s.updJob c f).feCode = s.feCode := rfl
@[simp] theorem State.updJob_feData (s : State) (c : Nat) (f : Job → Job) : (s.updJob c f).feData = s.feData := rfl
@[simp] theorem State.updJob_mgmtMem (s : State) (c : Nat) (f : Job → Job) : (s.updJob c f).mgmtMem = s.mgmtMem := rfl
@[simp] theorem State.updJob_mgmtCode (s : State) (c : Nat) (f : Job → Job) : (s.updJob c f).mgmtCode = s.mgmtCode := rfl
@[simp] theorem State.updJob_svcCode (s : State) (c : Nat) (f : Job → Job) : (s.updJob c f).svcCode = s.svcCode := rfl
@[simp] theorem State.updJob_config (s : State) (c : Nat) (f : Job → Job) : (s.updJob c f).config = s.config := rfl
@[simp] theorem State.updJob_sections (s : State) (c : Nat) (f : Job → Job) : (s.updJob c f).sections = s.sections := rfl
@[simp] theorem State.updJob_dcc (s : State) (c : Nat) (f : Job → Job) : (s.updJob c f).dcc = s.dcc := rfl
@[simp] theorem State.updJob_dccRun (s : State) (c : Nat) (f : Job → Job) : (s.updJob c f).dccRun = s.dccRun := rfl
@[simp] theorem State.updJob_power (s : State) (c : Nat) (f : Job → Job) : (s.updJob c f).power = s.power := rfl
@[simp] theorem State.updJob_boot (s : State) (c : Nat) (f : Job → Job) : (s.updJob c f).boot = s.boot := rfl
@[simp] theorem State.updJob_links (s : State) (c : Nat) (f : Job → Job) : (s.updJob c f).links = s.links := rfl
@[simp] theorem State.updJob_tsGood (s : State) (c : Nat) (f : Job → Job) : (s.updJob c f).tsGood = s.tsGood := rfl
@[simp] theorem State.updJob_tsEver (s : State) (c : Nat) (f : Job → Job) : (s.updJob c f).tsEver = s.tsEver := rfl
@[simp] theorem State.updJob_tsT1 (s : State) (c : Nat) (f : Job → Job) : (s.updJob c f).tsT1 = s.tsT1 := rfl
@[simp] theorem State.updJob_tsSlew (s : State) (c : Nat) (f : Job → Job) : (s.updJob c f).tsSlew = s.tsSlew := rfl
@[simp] theorem State.updJob_tsPhase (s : State) (c : Nat) (f : Job → Job) : (s.updJob c f).tsPhase = s.tsPhase := rfl
@[simp] theorem State.updJob_nodesE (s : State) (c : Nat) (f : Job → Job) : (s.updJob c f).nodesE = s.nodesE := rfl
@[simp] theorem State.updJob_nodesI (s : State) (c : Nat) (f : Job → Job) : (s.updJob c f).nodesI = s.nodesI := rfl
@[simp] theorem State.updJob_msix (s : State) (c : Nat) (f : Job → Job) : (s.updJob c f).msix = s.msix := rfl
@[simp] theorem State.updJob_wdog (s : State) (c : Nat) (f : Job → Job) : (s.updJob c f).wdog = s.wdog := rfl
@[simp] theorem State.updJob_feWait (s : State) (c : Nat) (f : Job → Job) : (s.updJob c f).feWait = s.feWait := rfl
@[simp] theorem State.updJob_feHold (s : State) (c : Nat) (f : Job → Job) : (s.updJob c f).feHold = s.feHold := rfl
@[simp] theorem State.updJob_rankCache (s : State) (c : Nat) (f : Job → Job) : (s.updJob c f).rankCache = s.rankCache := rfl
@[simp] theorem State.updJob_hostOut (s : State) (c : Nat) (f : Job → Job) : (s.updJob c f).hostOut = s.hostOut := rfl

/-! recorded changes cores alone. -/

@[simp] theorem State.recorded_sched (s : State) (c : Nat) (b : List Byte) : (s.recorded c b).sched = s.sched := rfl
@[simp] theorem State.recorded_cur (s : State) (c : Nat) (b : List Byte) : (s.recorded c b).cur = s.cur := rfl
@[simp] theorem State.recorded_tick (s : State) (c : Nat) (b : List Byte) : (s.recorded c b).tick = s.tick := rfl
@[simp] theorem State.recorded_harts (s : State) (c : Nat) (b : List Byte) : (s.recorded c b).harts = s.harts := rfl
@[simp] theorem State.recorded_frames (s : State) (c : Nat) (b : List Byte) : (s.recorded c b).frames = s.frames := rfl
@[simp] theorem State.recorded_nextJob (s : State) (c : Nat) (b : List Byte) : (s.recorded c b).nextJob = s.nextJob := rfl
@[simp] theorem State.recorded_parts (s : State) (c : Nat) (b : List Byte) : (s.recorded c b).parts = s.parts := rfl
@[simp] theorem State.recorded_mem (s : State) (c : Nat) (b : List Byte) : (s.recorded c b).mem = s.mem := rfl
@[simp] theorem State.recorded_swritten (s : State) (c : Nat) (b : List Byte) : (s.recorded c b).swritten = s.swritten := rfl
@[simp] theorem State.recorded_blocks (s : State) (c : Nat) (b : List Byte) : (s.recorded c b).blocks = s.blocks := rfl
@[simp] theorem State.recorded_mcnts (s : State) (c : Nat) (b : List Byte) : (s.recorded c b).mcnts = s.mcnts := rfl
@[simp] theorem State.recorded_gseq (s : State) (c : Nat) (b : List Byte) : (s.recorded c b).gseq = s.gseq := rfl
@[simp] theorem State.recorded_gver (s : State) (c : Nat) (b : List Byte) : (s.recorded c b).gver = s.gver := rfl
@[simp] theorem State.recorded_hist (s : State) (c : Nat) (b : List Byte) : (s.recorded c b).hist = s.hist := rfl
@[simp] theorem State.recorded_wrel (s : State) (c : Nat) (b : List Byte) : (s.recorded c b).wrel = s.wrel := rfl
@[simp] theorem State.recorded_releases (s : State) (c : Nat) (b : List Byte) : (s.recorded c b).releases = s.releases := rfl
@[simp] theorem State.recorded_nextRel (s : State) (c : Nat) (b : List Byte) : (s.recorded c b).nextRel = s.nextRel := rfl
@[simp] theorem State.recorded_hostKnow (s : State) (c : Nat) (b : List Byte) : (s.recorded c b).hostKnow = s.hostKnow := rfl
@[simp] theorem State.recorded_farKnow (s : State) (c : Nat) (b : List Byte) : (s.recorded c b).farKnow = s.farKnow := rfl
@[simp] theorem State.recorded_outq (s : State) (c : Nat) (b : List Byte) : (s.recorded c b).outq = s.outq := rfl
@[simp] theorem State.recorded_nextPhase (s : State) (c : Nat) (b : List Byte) : (s.recorded c b).nextPhase = s.nextPhase := rfl
@[simp] theorem State.recorded_nextTag (s : State) (c : Nat) (b : List Byte) : (s.recorded c b).nextTag = s.nextTag := rfl
@[simp] theorem State.recorded_remotes (s : State) (c : Nat) (b : List Byte) : (s.recorded c b).remotes = s.remotes := rfl
@[simp] theorem State.recorded_regs (s : State) (c : Nat) (b : List Byte) : (s.recorded c b).regs = s.regs := rfl
@[simp] theorem State.recorded_flue (s : State) (c : Nat) (b : List Byte) : (s.recorded c b).flue = s.flue := rfl
@[simp] theorem State.recorded_flueCnt (s : State) (c : Nat) (b : List Byte) : (s.recorded c b).flueCnt = s.flueCnt := rfl
@[simp] theorem State.recorded_feCode (s : State) (c : Nat) (b : List Byte) : (s.recorded c b).feCode = s.feCode := rfl
@[simp] theorem State.recorded_feData (s : State) (c : Nat) (b : List Byte) : (s.recorded c b).feData = s.feData := rfl
@[simp] theorem State.recorded_mgmtMem (s : State) (c : Nat) (b : List Byte) : (s.recorded c b).mgmtMem = s.mgmtMem := rfl
@[simp] theorem State.recorded_mgmtCode (s : State) (c : Nat) (b : List Byte) : (s.recorded c b).mgmtCode = s.mgmtCode := rfl
@[simp] theorem State.recorded_svcCode (s : State) (c : Nat) (b : List Byte) : (s.recorded c b).svcCode = s.svcCode := rfl
@[simp] theorem State.recorded_config (s : State) (c : Nat) (b : List Byte) : (s.recorded c b).config = s.config := rfl
@[simp] theorem State.recorded_sections (s : State) (c : Nat) (b : List Byte) : (s.recorded c b).sections = s.sections := rfl
@[simp] theorem State.recorded_dcc (s : State) (c : Nat) (b : List Byte) : (s.recorded c b).dcc = s.dcc := rfl
@[simp] theorem State.recorded_dccRun (s : State) (c : Nat) (b : List Byte) : (s.recorded c b).dccRun = s.dccRun := rfl
@[simp] theorem State.recorded_power (s : State) (c : Nat) (b : List Byte) : (s.recorded c b).power = s.power := rfl
@[simp] theorem State.recorded_boot (s : State) (c : Nat) (b : List Byte) : (s.recorded c b).boot = s.boot := rfl
@[simp] theorem State.recorded_links (s : State) (c : Nat) (b : List Byte) : (s.recorded c b).links = s.links := rfl
@[simp] theorem State.recorded_tsGood (s : State) (c : Nat) (b : List Byte) : (s.recorded c b).tsGood = s.tsGood := rfl
@[simp] theorem State.recorded_tsEver (s : State) (c : Nat) (b : List Byte) : (s.recorded c b).tsEver = s.tsEver := rfl
@[simp] theorem State.recorded_tsT1 (s : State) (c : Nat) (b : List Byte) : (s.recorded c b).tsT1 = s.tsT1 := rfl
@[simp] theorem State.recorded_tsSlew (s : State) (c : Nat) (b : List Byte) : (s.recorded c b).tsSlew = s.tsSlew := rfl
@[simp] theorem State.recorded_tsPhase (s : State) (c : Nat) (b : List Byte) : (s.recorded c b).tsPhase = s.tsPhase := rfl
@[simp] theorem State.recorded_nodesE (s : State) (c : Nat) (b : List Byte) : (s.recorded c b).nodesE = s.nodesE := rfl
@[simp] theorem State.recorded_nodesI (s : State) (c : Nat) (b : List Byte) : (s.recorded c b).nodesI = s.nodesI := rfl
@[simp] theorem State.recorded_msix (s : State) (c : Nat) (b : List Byte) : (s.recorded c b).msix = s.msix := rfl
@[simp] theorem State.recorded_wdog (s : State) (c : Nat) (b : List Byte) : (s.recorded c b).wdog = s.wdog := rfl
@[simp] theorem State.recorded_feWait (s : State) (c : Nat) (b : List Byte) : (s.recorded c b).feWait = s.feWait := rfl
@[simp] theorem State.recorded_feHold (s : State) (c : Nat) (b : List Byte) : (s.recorded c b).feHold = s.feHold := rfl
@[simp] theorem State.recorded_rankCache (s : State) (c : Nat) (b : List Byte) : (s.recorded c b).rankCache = s.rankCache := rfl
@[simp] theorem State.recorded_hostOut (s : State) (c : Nat) (b : List Byte) : (s.recorded c b).hostOut = s.hostOut := rfl

/-! updPart changes parts alone. -/

@[simp] theorem State.updPart_sched (s : State) (k : Nat) (f : Part → Part) : (s.updPart k f).sched = s.sched := rfl
@[simp] theorem State.updPart_cur (s : State) (k : Nat) (f : Part → Part) : (s.updPart k f).cur = s.cur := rfl
@[simp] theorem State.updPart_tick (s : State) (k : Nat) (f : Part → Part) : (s.updPart k f).tick = s.tick := rfl
@[simp] theorem State.updPart_harts (s : State) (k : Nat) (f : Part → Part) : (s.updPart k f).harts = s.harts := rfl
@[simp] theorem State.updPart_cores (s : State) (k : Nat) (f : Part → Part) : (s.updPart k f).cores = s.cores := rfl
@[simp] theorem State.updPart_frames (s : State) (k : Nat) (f : Part → Part) : (s.updPart k f).frames = s.frames := rfl
@[simp] theorem State.updPart_nextJob (s : State) (k : Nat) (f : Part → Part) : (s.updPart k f).nextJob = s.nextJob := rfl
@[simp] theorem State.updPart_mem (s : State) (k : Nat) (f : Part → Part) : (s.updPart k f).mem = s.mem := rfl
@[simp] theorem State.updPart_swritten (s : State) (k : Nat) (f : Part → Part) : (s.updPart k f).swritten = s.swritten := rfl
@[simp] theorem State.updPart_blocks (s : State) (k : Nat) (f : Part → Part) : (s.updPart k f).blocks = s.blocks := rfl
@[simp] theorem State.updPart_mcnts (s : State) (k : Nat) (f : Part → Part) : (s.updPart k f).mcnts = s.mcnts := rfl
@[simp] theorem State.updPart_gseq (s : State) (k : Nat) (f : Part → Part) : (s.updPart k f).gseq = s.gseq := rfl
@[simp] theorem State.updPart_gver (s : State) (k : Nat) (f : Part → Part) : (s.updPart k f).gver = s.gver := rfl
@[simp] theorem State.updPart_hist (s : State) (k : Nat) (f : Part → Part) : (s.updPart k f).hist = s.hist := rfl
@[simp] theorem State.updPart_wrel (s : State) (k : Nat) (f : Part → Part) : (s.updPart k f).wrel = s.wrel := rfl
@[simp] theorem State.updPart_releases (s : State) (k : Nat) (f : Part → Part) : (s.updPart k f).releases = s.releases := rfl
@[simp] theorem State.updPart_nextRel (s : State) (k : Nat) (f : Part → Part) : (s.updPart k f).nextRel = s.nextRel := rfl
@[simp] theorem State.updPart_hostKnow (s : State) (k : Nat) (f : Part → Part) : (s.updPart k f).hostKnow = s.hostKnow := rfl
@[simp] theorem State.updPart_farKnow (s : State) (k : Nat) (f : Part → Part) : (s.updPart k f).farKnow = s.farKnow := rfl
@[simp] theorem State.updPart_outq (s : State) (k : Nat) (f : Part → Part) : (s.updPart k f).outq = s.outq := rfl
@[simp] theorem State.updPart_nextPhase (s : State) (k : Nat) (f : Part → Part) : (s.updPart k f).nextPhase = s.nextPhase := rfl
@[simp] theorem State.updPart_nextTag (s : State) (k : Nat) (f : Part → Part) : (s.updPart k f).nextTag = s.nextTag := rfl
@[simp] theorem State.updPart_remotes (s : State) (k : Nat) (f : Part → Part) : (s.updPart k f).remotes = s.remotes := rfl
@[simp] theorem State.updPart_regs (s : State) (k : Nat) (f : Part → Part) : (s.updPart k f).regs = s.regs := rfl
@[simp] theorem State.updPart_flue (s : State) (k : Nat) (f : Part → Part) : (s.updPart k f).flue = s.flue := rfl
@[simp] theorem State.updPart_flueCnt (s : State) (k : Nat) (f : Part → Part) : (s.updPart k f).flueCnt = s.flueCnt := rfl
@[simp] theorem State.updPart_feCode (s : State) (k : Nat) (f : Part → Part) : (s.updPart k f).feCode = s.feCode := rfl
@[simp] theorem State.updPart_feData (s : State) (k : Nat) (f : Part → Part) : (s.updPart k f).feData = s.feData := rfl
@[simp] theorem State.updPart_mgmtMem (s : State) (k : Nat) (f : Part → Part) : (s.updPart k f).mgmtMem = s.mgmtMem := rfl
@[simp] theorem State.updPart_mgmtCode (s : State) (k : Nat) (f : Part → Part) : (s.updPart k f).mgmtCode = s.mgmtCode := rfl
@[simp] theorem State.updPart_svcCode (s : State) (k : Nat) (f : Part → Part) : (s.updPart k f).svcCode = s.svcCode := rfl
@[simp] theorem State.updPart_config (s : State) (k : Nat) (f : Part → Part) : (s.updPart k f).config = s.config := rfl
@[simp] theorem State.updPart_sections (s : State) (k : Nat) (f : Part → Part) : (s.updPart k f).sections = s.sections := rfl
@[simp] theorem State.updPart_dcc (s : State) (k : Nat) (f : Part → Part) : (s.updPart k f).dcc = s.dcc := rfl
@[simp] theorem State.updPart_dccRun (s : State) (k : Nat) (f : Part → Part) : (s.updPart k f).dccRun = s.dccRun := rfl
@[simp] theorem State.updPart_power (s : State) (k : Nat) (f : Part → Part) : (s.updPart k f).power = s.power := rfl
@[simp] theorem State.updPart_boot (s : State) (k : Nat) (f : Part → Part) : (s.updPart k f).boot = s.boot := rfl
@[simp] theorem State.updPart_links (s : State) (k : Nat) (f : Part → Part) : (s.updPart k f).links = s.links := rfl
@[simp] theorem State.updPart_tsGood (s : State) (k : Nat) (f : Part → Part) : (s.updPart k f).tsGood = s.tsGood := rfl
@[simp] theorem State.updPart_tsEver (s : State) (k : Nat) (f : Part → Part) : (s.updPart k f).tsEver = s.tsEver := rfl
@[simp] theorem State.updPart_tsT1 (s : State) (k : Nat) (f : Part → Part) : (s.updPart k f).tsT1 = s.tsT1 := rfl
@[simp] theorem State.updPart_tsSlew (s : State) (k : Nat) (f : Part → Part) : (s.updPart k f).tsSlew = s.tsSlew := rfl
@[simp] theorem State.updPart_tsPhase (s : State) (k : Nat) (f : Part → Part) : (s.updPart k f).tsPhase = s.tsPhase := rfl
@[simp] theorem State.updPart_nodesE (s : State) (k : Nat) (f : Part → Part) : (s.updPart k f).nodesE = s.nodesE := rfl
@[simp] theorem State.updPart_nodesI (s : State) (k : Nat) (f : Part → Part) : (s.updPart k f).nodesI = s.nodesI := rfl
@[simp] theorem State.updPart_msix (s : State) (k : Nat) (f : Part → Part) : (s.updPart k f).msix = s.msix := rfl
@[simp] theorem State.updPart_wdog (s : State) (k : Nat) (f : Part → Part) : (s.updPart k f).wdog = s.wdog := rfl
@[simp] theorem State.updPart_feWait (s : State) (k : Nat) (f : Part → Part) : (s.updPart k f).feWait = s.feWait := rfl
@[simp] theorem State.updPart_feHold (s : State) (k : Nat) (f : Part → Part) : (s.updPart k f).feHold = s.feHold := rfl
@[simp] theorem State.updPart_rankCache (s : State) (k : Nat) (f : Part → Part) : (s.updPart k f).rankCache = s.rankCache := rfl
@[simp] theorem State.updPart_hostOut (s : State) (k : Nat) (f : Part → Part) : (s.updPart k f).hostOut = s.hostOut := rfl

/-! setReg changes regs alone. -/

@[simp] theorem State.setReg_sched (s : State) (o : Nat) (v : Word) : (s.setReg o v).sched = s.sched := rfl
@[simp] theorem State.setReg_cur (s : State) (o : Nat) (v : Word) : (s.setReg o v).cur = s.cur := rfl
@[simp] theorem State.setReg_tick (s : State) (o : Nat) (v : Word) : (s.setReg o v).tick = s.tick := rfl
@[simp] theorem State.setReg_harts (s : State) (o : Nat) (v : Word) : (s.setReg o v).harts = s.harts := rfl
@[simp] theorem State.setReg_cores (s : State) (o : Nat) (v : Word) : (s.setReg o v).cores = s.cores := rfl
@[simp] theorem State.setReg_frames (s : State) (o : Nat) (v : Word) : (s.setReg o v).frames = s.frames := rfl
@[simp] theorem State.setReg_nextJob (s : State) (o : Nat) (v : Word) : (s.setReg o v).nextJob = s.nextJob := rfl
@[simp] theorem State.setReg_parts (s : State) (o : Nat) (v : Word) : (s.setReg o v).parts = s.parts := rfl
@[simp] theorem State.setReg_mem (s : State) (o : Nat) (v : Word) : (s.setReg o v).mem = s.mem := rfl
@[simp] theorem State.setReg_swritten (s : State) (o : Nat) (v : Word) : (s.setReg o v).swritten = s.swritten := rfl
@[simp] theorem State.setReg_blocks (s : State) (o : Nat) (v : Word) : (s.setReg o v).blocks = s.blocks := rfl
@[simp] theorem State.setReg_mcnts (s : State) (o : Nat) (v : Word) : (s.setReg o v).mcnts = s.mcnts := rfl
@[simp] theorem State.setReg_gseq (s : State) (o : Nat) (v : Word) : (s.setReg o v).gseq = s.gseq := rfl
@[simp] theorem State.setReg_gver (s : State) (o : Nat) (v : Word) : (s.setReg o v).gver = s.gver := rfl
@[simp] theorem State.setReg_hist (s : State) (o : Nat) (v : Word) : (s.setReg o v).hist = s.hist := rfl
@[simp] theorem State.setReg_wrel (s : State) (o : Nat) (v : Word) : (s.setReg o v).wrel = s.wrel := rfl
@[simp] theorem State.setReg_releases (s : State) (o : Nat) (v : Word) : (s.setReg o v).releases = s.releases := rfl
@[simp] theorem State.setReg_nextRel (s : State) (o : Nat) (v : Word) : (s.setReg o v).nextRel = s.nextRel := rfl
@[simp] theorem State.setReg_hostKnow (s : State) (o : Nat) (v : Word) : (s.setReg o v).hostKnow = s.hostKnow := rfl
@[simp] theorem State.setReg_farKnow (s : State) (o : Nat) (v : Word) : (s.setReg o v).farKnow = s.farKnow := rfl
@[simp] theorem State.setReg_outq (s : State) (o : Nat) (v : Word) : (s.setReg o v).outq = s.outq := rfl
@[simp] theorem State.setReg_nextPhase (s : State) (o : Nat) (v : Word) : (s.setReg o v).nextPhase = s.nextPhase := rfl
@[simp] theorem State.setReg_nextTag (s : State) (o : Nat) (v : Word) : (s.setReg o v).nextTag = s.nextTag := rfl
@[simp] theorem State.setReg_remotes (s : State) (o : Nat) (v : Word) : (s.setReg o v).remotes = s.remotes := rfl
@[simp] theorem State.setReg_flue (s : State) (o : Nat) (v : Word) : (s.setReg o v).flue = s.flue := rfl
@[simp] theorem State.setReg_flueCnt (s : State) (o : Nat) (v : Word) : (s.setReg o v).flueCnt = s.flueCnt := rfl
@[simp] theorem State.setReg_feCode (s : State) (o : Nat) (v : Word) : (s.setReg o v).feCode = s.feCode := rfl
@[simp] theorem State.setReg_feData (s : State) (o : Nat) (v : Word) : (s.setReg o v).feData = s.feData := rfl
@[simp] theorem State.setReg_mgmtMem (s : State) (o : Nat) (v : Word) : (s.setReg o v).mgmtMem = s.mgmtMem := rfl
@[simp] theorem State.setReg_mgmtCode (s : State) (o : Nat) (v : Word) : (s.setReg o v).mgmtCode = s.mgmtCode := rfl
@[simp] theorem State.setReg_svcCode (s : State) (o : Nat) (v : Word) : (s.setReg o v).svcCode = s.svcCode := rfl
@[simp] theorem State.setReg_config (s : State) (o : Nat) (v : Word) : (s.setReg o v).config = s.config := rfl
@[simp] theorem State.setReg_sections (s : State) (o : Nat) (v : Word) : (s.setReg o v).sections = s.sections := rfl
@[simp] theorem State.setReg_dcc (s : State) (o : Nat) (v : Word) : (s.setReg o v).dcc = s.dcc := rfl
@[simp] theorem State.setReg_dccRun (s : State) (o : Nat) (v : Word) : (s.setReg o v).dccRun = s.dccRun := rfl
@[simp] theorem State.setReg_power (s : State) (o : Nat) (v : Word) : (s.setReg o v).power = s.power := rfl
@[simp] theorem State.setReg_boot (s : State) (o : Nat) (v : Word) : (s.setReg o v).boot = s.boot := rfl
@[simp] theorem State.setReg_links (s : State) (o : Nat) (v : Word) : (s.setReg o v).links = s.links := rfl
@[simp] theorem State.setReg_tsGood (s : State) (o : Nat) (v : Word) : (s.setReg o v).tsGood = s.tsGood := rfl
@[simp] theorem State.setReg_tsEver (s : State) (o : Nat) (v : Word) : (s.setReg o v).tsEver = s.tsEver := rfl
@[simp] theorem State.setReg_tsT1 (s : State) (o : Nat) (v : Word) : (s.setReg o v).tsT1 = s.tsT1 := rfl
@[simp] theorem State.setReg_tsSlew (s : State) (o : Nat) (v : Word) : (s.setReg o v).tsSlew = s.tsSlew := rfl
@[simp] theorem State.setReg_tsPhase (s : State) (o : Nat) (v : Word) : (s.setReg o v).tsPhase = s.tsPhase := rfl
@[simp] theorem State.setReg_nodesE (s : State) (o : Nat) (v : Word) : (s.setReg o v).nodesE = s.nodesE := rfl
@[simp] theorem State.setReg_nodesI (s : State) (o : Nat) (v : Word) : (s.setReg o v).nodesI = s.nodesI := rfl
@[simp] theorem State.setReg_msix (s : State) (o : Nat) (v : Word) : (s.setReg o v).msix = s.msix := rfl
@[simp] theorem State.setReg_wdog (s : State) (o : Nat) (v : Word) : (s.setReg o v).wdog = s.wdog := rfl
@[simp] theorem State.setReg_feWait (s : State) (o : Nat) (v : Word) : (s.setReg o v).feWait = s.feWait := rfl
@[simp] theorem State.setReg_feHold (s : State) (o : Nat) (v : Word) : (s.setReg o v).feHold = s.feHold := rfl
@[simp] theorem State.setReg_rankCache (s : State) (o : Nat) (v : Word) : (s.setReg o v).rankCache = s.rankCache := rfl
@[simp] theorem State.setReg_hostOut (s : State) (o : Nat) (v : Word) : (s.setReg o v).hostOut = s.hostOut := rfl

/-! putField changes regs alone. -/

@[simp] theorem State.putField_sched (s : State) (o lo n v : Nat) : (s.putField o lo n v).sched = s.sched := rfl
@[simp] theorem State.putField_cur (s : State) (o lo n v : Nat) : (s.putField o lo n v).cur = s.cur := rfl
@[simp] theorem State.putField_tick (s : State) (o lo n v : Nat) : (s.putField o lo n v).tick = s.tick := rfl
@[simp] theorem State.putField_harts (s : State) (o lo n v : Nat) : (s.putField o lo n v).harts = s.harts := rfl
@[simp] theorem State.putField_cores (s : State) (o lo n v : Nat) : (s.putField o lo n v).cores = s.cores := rfl
@[simp] theorem State.putField_frames (s : State) (o lo n v : Nat) : (s.putField o lo n v).frames = s.frames := rfl
@[simp] theorem State.putField_nextJob (s : State) (o lo n v : Nat) : (s.putField o lo n v).nextJob = s.nextJob := rfl
@[simp] theorem State.putField_parts (s : State) (o lo n v : Nat) : (s.putField o lo n v).parts = s.parts := rfl
@[simp] theorem State.putField_mem (s : State) (o lo n v : Nat) : (s.putField o lo n v).mem = s.mem := rfl
@[simp] theorem State.putField_swritten (s : State) (o lo n v : Nat) : (s.putField o lo n v).swritten = s.swritten := rfl
@[simp] theorem State.putField_blocks (s : State) (o lo n v : Nat) : (s.putField o lo n v).blocks = s.blocks := rfl
@[simp] theorem State.putField_mcnts (s : State) (o lo n v : Nat) : (s.putField o lo n v).mcnts = s.mcnts := rfl
@[simp] theorem State.putField_gseq (s : State) (o lo n v : Nat) : (s.putField o lo n v).gseq = s.gseq := rfl
@[simp] theorem State.putField_gver (s : State) (o lo n v : Nat) : (s.putField o lo n v).gver = s.gver := rfl
@[simp] theorem State.putField_hist (s : State) (o lo n v : Nat) : (s.putField o lo n v).hist = s.hist := rfl
@[simp] theorem State.putField_wrel (s : State) (o lo n v : Nat) : (s.putField o lo n v).wrel = s.wrel := rfl
@[simp] theorem State.putField_releases (s : State) (o lo n v : Nat) : (s.putField o lo n v).releases = s.releases := rfl
@[simp] theorem State.putField_nextRel (s : State) (o lo n v : Nat) : (s.putField o lo n v).nextRel = s.nextRel := rfl
@[simp] theorem State.putField_hostKnow (s : State) (o lo n v : Nat) : (s.putField o lo n v).hostKnow = s.hostKnow := rfl
@[simp] theorem State.putField_farKnow (s : State) (o lo n v : Nat) : (s.putField o lo n v).farKnow = s.farKnow := rfl
@[simp] theorem State.putField_outq (s : State) (o lo n v : Nat) : (s.putField o lo n v).outq = s.outq := rfl
@[simp] theorem State.putField_nextPhase (s : State) (o lo n v : Nat) : (s.putField o lo n v).nextPhase = s.nextPhase := rfl
@[simp] theorem State.putField_nextTag (s : State) (o lo n v : Nat) : (s.putField o lo n v).nextTag = s.nextTag := rfl
@[simp] theorem State.putField_remotes (s : State) (o lo n v : Nat) : (s.putField o lo n v).remotes = s.remotes := rfl
@[simp] theorem State.putField_flue (s : State) (o lo n v : Nat) : (s.putField o lo n v).flue = s.flue := rfl
@[simp] theorem State.putField_flueCnt (s : State) (o lo n v : Nat) : (s.putField o lo n v).flueCnt = s.flueCnt := rfl
@[simp] theorem State.putField_feCode (s : State) (o lo n v : Nat) : (s.putField o lo n v).feCode = s.feCode := rfl
@[simp] theorem State.putField_feData (s : State) (o lo n v : Nat) : (s.putField o lo n v).feData = s.feData := rfl
@[simp] theorem State.putField_mgmtMem (s : State) (o lo n v : Nat) : (s.putField o lo n v).mgmtMem = s.mgmtMem := rfl
@[simp] theorem State.putField_mgmtCode (s : State) (o lo n v : Nat) : (s.putField o lo n v).mgmtCode = s.mgmtCode := rfl
@[simp] theorem State.putField_svcCode (s : State) (o lo n v : Nat) : (s.putField o lo n v).svcCode = s.svcCode := rfl
@[simp] theorem State.putField_config (s : State) (o lo n v : Nat) : (s.putField o lo n v).config = s.config := rfl
@[simp] theorem State.putField_sections (s : State) (o lo n v : Nat) : (s.putField o lo n v).sections = s.sections := rfl
@[simp] theorem State.putField_dcc (s : State) (o lo n v : Nat) : (s.putField o lo n v).dcc = s.dcc := rfl
@[simp] theorem State.putField_dccRun (s : State) (o lo n v : Nat) : (s.putField o lo n v).dccRun = s.dccRun := rfl
@[simp] theorem State.putField_power (s : State) (o lo n v : Nat) : (s.putField o lo n v).power = s.power := rfl
@[simp] theorem State.putField_boot (s : State) (o lo n v : Nat) : (s.putField o lo n v).boot = s.boot := rfl
@[simp] theorem State.putField_links (s : State) (o lo n v : Nat) : (s.putField o lo n v).links = s.links := rfl
@[simp] theorem State.putField_tsGood (s : State) (o lo n v : Nat) : (s.putField o lo n v).tsGood = s.tsGood := rfl
@[simp] theorem State.putField_tsEver (s : State) (o lo n v : Nat) : (s.putField o lo n v).tsEver = s.tsEver := rfl
@[simp] theorem State.putField_tsT1 (s : State) (o lo n v : Nat) : (s.putField o lo n v).tsT1 = s.tsT1 := rfl
@[simp] theorem State.putField_tsSlew (s : State) (o lo n v : Nat) : (s.putField o lo n v).tsSlew = s.tsSlew := rfl
@[simp] theorem State.putField_tsPhase (s : State) (o lo n v : Nat) : (s.putField o lo n v).tsPhase = s.tsPhase := rfl
@[simp] theorem State.putField_nodesE (s : State) (o lo n v : Nat) : (s.putField o lo n v).nodesE = s.nodesE := rfl
@[simp] theorem State.putField_nodesI (s : State) (o lo n v : Nat) : (s.putField o lo n v).nodesI = s.nodesI := rfl
@[simp] theorem State.putField_msix (s : State) (o lo n v : Nat) : (s.putField o lo n v).msix = s.msix := rfl
@[simp] theorem State.putField_wdog (s : State) (o lo n v : Nat) : (s.putField o lo n v).wdog = s.wdog := rfl
@[simp] theorem State.putField_feWait (s : State) (o lo n v : Nat) : (s.putField o lo n v).feWait = s.feWait := rfl
@[simp] theorem State.putField_feHold (s : State) (o lo n v : Nat) : (s.putField o lo n v).feHold = s.feHold := rfl
@[simp] theorem State.putField_rankCache (s : State) (o lo n v : Nat) : (s.putField o lo n v).rankCache = s.rankCache := rfl
@[simp] theorem State.putField_hostOut (s : State) (o lo n v : Nat) : (s.putField o lo n v).hostOut = s.hostOut := rfl

/-! putFlag changes regs alone. -/

@[simp] theorem State.putFlag_sched (s : State) (o i : Nat) (b : Bool) : (s.putFlag o i b).sched = s.sched := rfl
@[simp] theorem State.putFlag_cur (s : State) (o i : Nat) (b : Bool) : (s.putFlag o i b).cur = s.cur := rfl
@[simp] theorem State.putFlag_tick (s : State) (o i : Nat) (b : Bool) : (s.putFlag o i b).tick = s.tick := rfl
@[simp] theorem State.putFlag_harts (s : State) (o i : Nat) (b : Bool) : (s.putFlag o i b).harts = s.harts := rfl
@[simp] theorem State.putFlag_cores (s : State) (o i : Nat) (b : Bool) : (s.putFlag o i b).cores = s.cores := rfl
@[simp] theorem State.putFlag_frames (s : State) (o i : Nat) (b : Bool) : (s.putFlag o i b).frames = s.frames := rfl
@[simp] theorem State.putFlag_nextJob (s : State) (o i : Nat) (b : Bool) : (s.putFlag o i b).nextJob = s.nextJob := rfl
@[simp] theorem State.putFlag_parts (s : State) (o i : Nat) (b : Bool) : (s.putFlag o i b).parts = s.parts := rfl
@[simp] theorem State.putFlag_mem (s : State) (o i : Nat) (b : Bool) : (s.putFlag o i b).mem = s.mem := rfl
@[simp] theorem State.putFlag_swritten (s : State) (o i : Nat) (b : Bool) : (s.putFlag o i b).swritten = s.swritten := rfl
@[simp] theorem State.putFlag_blocks (s : State) (o i : Nat) (b : Bool) : (s.putFlag o i b).blocks = s.blocks := rfl
@[simp] theorem State.putFlag_mcnts (s : State) (o i : Nat) (b : Bool) : (s.putFlag o i b).mcnts = s.mcnts := rfl
@[simp] theorem State.putFlag_gseq (s : State) (o i : Nat) (b : Bool) : (s.putFlag o i b).gseq = s.gseq := rfl
@[simp] theorem State.putFlag_gver (s : State) (o i : Nat) (b : Bool) : (s.putFlag o i b).gver = s.gver := rfl
@[simp] theorem State.putFlag_hist (s : State) (o i : Nat) (b : Bool) : (s.putFlag o i b).hist = s.hist := rfl
@[simp] theorem State.putFlag_wrel (s : State) (o i : Nat) (b : Bool) : (s.putFlag o i b).wrel = s.wrel := rfl
@[simp] theorem State.putFlag_releases (s : State) (o i : Nat) (b : Bool) : (s.putFlag o i b).releases = s.releases := rfl
@[simp] theorem State.putFlag_nextRel (s : State) (o i : Nat) (b : Bool) : (s.putFlag o i b).nextRel = s.nextRel := rfl
@[simp] theorem State.putFlag_hostKnow (s : State) (o i : Nat) (b : Bool) : (s.putFlag o i b).hostKnow = s.hostKnow := rfl
@[simp] theorem State.putFlag_farKnow (s : State) (o i : Nat) (b : Bool) : (s.putFlag o i b).farKnow = s.farKnow := rfl
@[simp] theorem State.putFlag_outq (s : State) (o i : Nat) (b : Bool) : (s.putFlag o i b).outq = s.outq := rfl
@[simp] theorem State.putFlag_nextPhase (s : State) (o i : Nat) (b : Bool) : (s.putFlag o i b).nextPhase = s.nextPhase := rfl
@[simp] theorem State.putFlag_nextTag (s : State) (o i : Nat) (b : Bool) : (s.putFlag o i b).nextTag = s.nextTag := rfl
@[simp] theorem State.putFlag_remotes (s : State) (o i : Nat) (b : Bool) : (s.putFlag o i b).remotes = s.remotes := rfl
@[simp] theorem State.putFlag_flue (s : State) (o i : Nat) (b : Bool) : (s.putFlag o i b).flue = s.flue := rfl
@[simp] theorem State.putFlag_flueCnt (s : State) (o i : Nat) (b : Bool) : (s.putFlag o i b).flueCnt = s.flueCnt := rfl
@[simp] theorem State.putFlag_feCode (s : State) (o i : Nat) (b : Bool) : (s.putFlag o i b).feCode = s.feCode := rfl
@[simp] theorem State.putFlag_feData (s : State) (o i : Nat) (b : Bool) : (s.putFlag o i b).feData = s.feData := rfl
@[simp] theorem State.putFlag_mgmtMem (s : State) (o i : Nat) (b : Bool) : (s.putFlag o i b).mgmtMem = s.mgmtMem := rfl
@[simp] theorem State.putFlag_mgmtCode (s : State) (o i : Nat) (b : Bool) : (s.putFlag o i b).mgmtCode = s.mgmtCode := rfl
@[simp] theorem State.putFlag_svcCode (s : State) (o i : Nat) (b : Bool) : (s.putFlag o i b).svcCode = s.svcCode := rfl
@[simp] theorem State.putFlag_config (s : State) (o i : Nat) (b : Bool) : (s.putFlag o i b).config = s.config := rfl
@[simp] theorem State.putFlag_sections (s : State) (o i : Nat) (b : Bool) : (s.putFlag o i b).sections = s.sections := rfl
@[simp] theorem State.putFlag_dcc (s : State) (o i : Nat) (b : Bool) : (s.putFlag o i b).dcc = s.dcc := rfl
@[simp] theorem State.putFlag_dccRun (s : State) (o i : Nat) (b : Bool) : (s.putFlag o i b).dccRun = s.dccRun := rfl
@[simp] theorem State.putFlag_power (s : State) (o i : Nat) (b : Bool) : (s.putFlag o i b).power = s.power := rfl
@[simp] theorem State.putFlag_boot (s : State) (o i : Nat) (b : Bool) : (s.putFlag o i b).boot = s.boot := rfl
@[simp] theorem State.putFlag_links (s : State) (o i : Nat) (b : Bool) : (s.putFlag o i b).links = s.links := rfl
@[simp] theorem State.putFlag_tsGood (s : State) (o i : Nat) (b : Bool) : (s.putFlag o i b).tsGood = s.tsGood := rfl
@[simp] theorem State.putFlag_tsEver (s : State) (o i : Nat) (b : Bool) : (s.putFlag o i b).tsEver = s.tsEver := rfl
@[simp] theorem State.putFlag_tsT1 (s : State) (o i : Nat) (b : Bool) : (s.putFlag o i b).tsT1 = s.tsT1 := rfl
@[simp] theorem State.putFlag_tsSlew (s : State) (o i : Nat) (b : Bool) : (s.putFlag o i b).tsSlew = s.tsSlew := rfl
@[simp] theorem State.putFlag_tsPhase (s : State) (o i : Nat) (b : Bool) : (s.putFlag o i b).tsPhase = s.tsPhase := rfl
@[simp] theorem State.putFlag_nodesE (s : State) (o i : Nat) (b : Bool) : (s.putFlag o i b).nodesE = s.nodesE := rfl
@[simp] theorem State.putFlag_nodesI (s : State) (o i : Nat) (b : Bool) : (s.putFlag o i b).nodesI = s.nodesI := rfl
@[simp] theorem State.putFlag_msix (s : State) (o i : Nat) (b : Bool) : (s.putFlag o i b).msix = s.msix := rfl
@[simp] theorem State.putFlag_wdog (s : State) (o i : Nat) (b : Bool) : (s.putFlag o i b).wdog = s.wdog := rfl
@[simp] theorem State.putFlag_feWait (s : State) (o i : Nat) (b : Bool) : (s.putFlag o i b).feWait = s.feWait := rfl
@[simp] theorem State.putFlag_feHold (s : State) (o i : Nat) (b : Bool) : (s.putFlag o i b).feHold = s.feHold := rfl
@[simp] theorem State.putFlag_rankCache (s : State) (o i : Nat) (b : Bool) : (s.putFlag o i b).rankCache = s.rankCache := rfl
@[simp] theorem State.putFlag_hostOut (s : State) (o i : Nat) (b : Bool) : (s.putFlag o i b).hostOut = s.hostOut := rfl

/-! onPower changes power alone. -/

@[simp] theorem State.onPower_sched (s : State) (f : Power → Power) : (s.onPower f).sched = s.sched := rfl
@[simp] theorem State.onPower_cur (s : State) (f : Power → Power) : (s.onPower f).cur = s.cur := rfl
@[simp] theorem State.onPower_tick (s : State) (f : Power → Power) : (s.onPower f).tick = s.tick := rfl
@[simp] theorem State.onPower_harts (s : State) (f : Power → Power) : (s.onPower f).harts = s.harts := rfl
@[simp] theorem State.onPower_cores (s : State) (f : Power → Power) : (s.onPower f).cores = s.cores := rfl
@[simp] theorem State.onPower_frames (s : State) (f : Power → Power) : (s.onPower f).frames = s.frames := rfl
@[simp] theorem State.onPower_nextJob (s : State) (f : Power → Power) : (s.onPower f).nextJob = s.nextJob := rfl
@[simp] theorem State.onPower_parts (s : State) (f : Power → Power) : (s.onPower f).parts = s.parts := rfl
@[simp] theorem State.onPower_mem (s : State) (f : Power → Power) : (s.onPower f).mem = s.mem := rfl
@[simp] theorem State.onPower_swritten (s : State) (f : Power → Power) : (s.onPower f).swritten = s.swritten := rfl
@[simp] theorem State.onPower_blocks (s : State) (f : Power → Power) : (s.onPower f).blocks = s.blocks := rfl
@[simp] theorem State.onPower_mcnts (s : State) (f : Power → Power) : (s.onPower f).mcnts = s.mcnts := rfl
@[simp] theorem State.onPower_gseq (s : State) (f : Power → Power) : (s.onPower f).gseq = s.gseq := rfl
@[simp] theorem State.onPower_gver (s : State) (f : Power → Power) : (s.onPower f).gver = s.gver := rfl
@[simp] theorem State.onPower_hist (s : State) (f : Power → Power) : (s.onPower f).hist = s.hist := rfl
@[simp] theorem State.onPower_wrel (s : State) (f : Power → Power) : (s.onPower f).wrel = s.wrel := rfl
@[simp] theorem State.onPower_releases (s : State) (f : Power → Power) : (s.onPower f).releases = s.releases := rfl
@[simp] theorem State.onPower_nextRel (s : State) (f : Power → Power) : (s.onPower f).nextRel = s.nextRel := rfl
@[simp] theorem State.onPower_hostKnow (s : State) (f : Power → Power) : (s.onPower f).hostKnow = s.hostKnow := rfl
@[simp] theorem State.onPower_farKnow (s : State) (f : Power → Power) : (s.onPower f).farKnow = s.farKnow := rfl
@[simp] theorem State.onPower_outq (s : State) (f : Power → Power) : (s.onPower f).outq = s.outq := rfl
@[simp] theorem State.onPower_nextPhase (s : State) (f : Power → Power) : (s.onPower f).nextPhase = s.nextPhase := rfl
@[simp] theorem State.onPower_nextTag (s : State) (f : Power → Power) : (s.onPower f).nextTag = s.nextTag := rfl
@[simp] theorem State.onPower_remotes (s : State) (f : Power → Power) : (s.onPower f).remotes = s.remotes := rfl
@[simp] theorem State.onPower_regs (s : State) (f : Power → Power) : (s.onPower f).regs = s.regs := rfl
@[simp] theorem State.onPower_flue (s : State) (f : Power → Power) : (s.onPower f).flue = s.flue := rfl
@[simp] theorem State.onPower_flueCnt (s : State) (f : Power → Power) : (s.onPower f).flueCnt = s.flueCnt := rfl
@[simp] theorem State.onPower_feCode (s : State) (f : Power → Power) : (s.onPower f).feCode = s.feCode := rfl
@[simp] theorem State.onPower_feData (s : State) (f : Power → Power) : (s.onPower f).feData = s.feData := rfl
@[simp] theorem State.onPower_mgmtMem (s : State) (f : Power → Power) : (s.onPower f).mgmtMem = s.mgmtMem := rfl
@[simp] theorem State.onPower_mgmtCode (s : State) (f : Power → Power) : (s.onPower f).mgmtCode = s.mgmtCode := rfl
@[simp] theorem State.onPower_svcCode (s : State) (f : Power → Power) : (s.onPower f).svcCode = s.svcCode := rfl
@[simp] theorem State.onPower_config (s : State) (f : Power → Power) : (s.onPower f).config = s.config := rfl
@[simp] theorem State.onPower_sections (s : State) (f : Power → Power) : (s.onPower f).sections = s.sections := rfl
@[simp] theorem State.onPower_dcc (s : State) (f : Power → Power) : (s.onPower f).dcc = s.dcc := rfl
@[simp] theorem State.onPower_dccRun (s : State) (f : Power → Power) : (s.onPower f).dccRun = s.dccRun := rfl
@[simp] theorem State.onPower_boot (s : State) (f : Power → Power) : (s.onPower f).boot = s.boot := rfl
@[simp] theorem State.onPower_links (s : State) (f : Power → Power) : (s.onPower f).links = s.links := rfl
@[simp] theorem State.onPower_tsGood (s : State) (f : Power → Power) : (s.onPower f).tsGood = s.tsGood := rfl
@[simp] theorem State.onPower_tsEver (s : State) (f : Power → Power) : (s.onPower f).tsEver = s.tsEver := rfl
@[simp] theorem State.onPower_tsT1 (s : State) (f : Power → Power) : (s.onPower f).tsT1 = s.tsT1 := rfl
@[simp] theorem State.onPower_tsSlew (s : State) (f : Power → Power) : (s.onPower f).tsSlew = s.tsSlew := rfl
@[simp] theorem State.onPower_tsPhase (s : State) (f : Power → Power) : (s.onPower f).tsPhase = s.tsPhase := rfl
@[simp] theorem State.onPower_nodesE (s : State) (f : Power → Power) : (s.onPower f).nodesE = s.nodesE := rfl
@[simp] theorem State.onPower_nodesI (s : State) (f : Power → Power) : (s.onPower f).nodesI = s.nodesI := rfl
@[simp] theorem State.onPower_msix (s : State) (f : Power → Power) : (s.onPower f).msix = s.msix := rfl
@[simp] theorem State.onPower_wdog (s : State) (f : Power → Power) : (s.onPower f).wdog = s.wdog := rfl
@[simp] theorem State.onPower_feWait (s : State) (f : Power → Power) : (s.onPower f).feWait = s.feWait := rfl
@[simp] theorem State.onPower_feHold (s : State) (f : Power → Power) : (s.onPower f).feHold = s.feHold := rfl
@[simp] theorem State.onPower_rankCache (s : State) (f : Power → Power) : (s.onPower f).rankCache = s.rankCache := rfl
@[simp] theorem State.onPower_hostOut (s : State) (f : Power → Power) : (s.onPower f).hostOut = s.hostOut := rfl

/-! onBoot changes boot alone. -/

@[simp] theorem State.onBoot_sched (s : State) (f : Boot → Boot) : (s.onBoot f).sched = s.sched := rfl
@[simp] theorem State.onBoot_cur (s : State) (f : Boot → Boot) : (s.onBoot f).cur = s.cur := rfl
@[simp] theorem State.onBoot_tick (s : State) (f : Boot → Boot) : (s.onBoot f).tick = s.tick := rfl
@[simp] theorem State.onBoot_harts (s : State) (f : Boot → Boot) : (s.onBoot f).harts = s.harts := rfl
@[simp] theorem State.onBoot_cores (s : State) (f : Boot → Boot) : (s.onBoot f).cores = s.cores := rfl
@[simp] theorem State.onBoot_frames (s : State) (f : Boot → Boot) : (s.onBoot f).frames = s.frames := rfl
@[simp] theorem State.onBoot_nextJob (s : State) (f : Boot → Boot) : (s.onBoot f).nextJob = s.nextJob := rfl
@[simp] theorem State.onBoot_parts (s : State) (f : Boot → Boot) : (s.onBoot f).parts = s.parts := rfl
@[simp] theorem State.onBoot_mem (s : State) (f : Boot → Boot) : (s.onBoot f).mem = s.mem := rfl
@[simp] theorem State.onBoot_swritten (s : State) (f : Boot → Boot) : (s.onBoot f).swritten = s.swritten := rfl
@[simp] theorem State.onBoot_blocks (s : State) (f : Boot → Boot) : (s.onBoot f).blocks = s.blocks := rfl
@[simp] theorem State.onBoot_mcnts (s : State) (f : Boot → Boot) : (s.onBoot f).mcnts = s.mcnts := rfl
@[simp] theorem State.onBoot_gseq (s : State) (f : Boot → Boot) : (s.onBoot f).gseq = s.gseq := rfl
@[simp] theorem State.onBoot_gver (s : State) (f : Boot → Boot) : (s.onBoot f).gver = s.gver := rfl
@[simp] theorem State.onBoot_hist (s : State) (f : Boot → Boot) : (s.onBoot f).hist = s.hist := rfl
@[simp] theorem State.onBoot_wrel (s : State) (f : Boot → Boot) : (s.onBoot f).wrel = s.wrel := rfl
@[simp] theorem State.onBoot_releases (s : State) (f : Boot → Boot) : (s.onBoot f).releases = s.releases := rfl
@[simp] theorem State.onBoot_nextRel (s : State) (f : Boot → Boot) : (s.onBoot f).nextRel = s.nextRel := rfl
@[simp] theorem State.onBoot_hostKnow (s : State) (f : Boot → Boot) : (s.onBoot f).hostKnow = s.hostKnow := rfl
@[simp] theorem State.onBoot_farKnow (s : State) (f : Boot → Boot) : (s.onBoot f).farKnow = s.farKnow := rfl
@[simp] theorem State.onBoot_outq (s : State) (f : Boot → Boot) : (s.onBoot f).outq = s.outq := rfl
@[simp] theorem State.onBoot_nextPhase (s : State) (f : Boot → Boot) : (s.onBoot f).nextPhase = s.nextPhase := rfl
@[simp] theorem State.onBoot_nextTag (s : State) (f : Boot → Boot) : (s.onBoot f).nextTag = s.nextTag := rfl
@[simp] theorem State.onBoot_remotes (s : State) (f : Boot → Boot) : (s.onBoot f).remotes = s.remotes := rfl
@[simp] theorem State.onBoot_regs (s : State) (f : Boot → Boot) : (s.onBoot f).regs = s.regs := rfl
@[simp] theorem State.onBoot_flue (s : State) (f : Boot → Boot) : (s.onBoot f).flue = s.flue := rfl
@[simp] theorem State.onBoot_flueCnt (s : State) (f : Boot → Boot) : (s.onBoot f).flueCnt = s.flueCnt := rfl
@[simp] theorem State.onBoot_feCode (s : State) (f : Boot → Boot) : (s.onBoot f).feCode = s.feCode := rfl
@[simp] theorem State.onBoot_feData (s : State) (f : Boot → Boot) : (s.onBoot f).feData = s.feData := rfl
@[simp] theorem State.onBoot_mgmtMem (s : State) (f : Boot → Boot) : (s.onBoot f).mgmtMem = s.mgmtMem := rfl
@[simp] theorem State.onBoot_mgmtCode (s : State) (f : Boot → Boot) : (s.onBoot f).mgmtCode = s.mgmtCode := rfl
@[simp] theorem State.onBoot_svcCode (s : State) (f : Boot → Boot) : (s.onBoot f).svcCode = s.svcCode := rfl
@[simp] theorem State.onBoot_config (s : State) (f : Boot → Boot) : (s.onBoot f).config = s.config := rfl
@[simp] theorem State.onBoot_sections (s : State) (f : Boot → Boot) : (s.onBoot f).sections = s.sections := rfl
@[simp] theorem State.onBoot_dcc (s : State) (f : Boot → Boot) : (s.onBoot f).dcc = s.dcc := rfl
@[simp] theorem State.onBoot_dccRun (s : State) (f : Boot → Boot) : (s.onBoot f).dccRun = s.dccRun := rfl
@[simp] theorem State.onBoot_power (s : State) (f : Boot → Boot) : (s.onBoot f).power = s.power := rfl
@[simp] theorem State.onBoot_links (s : State) (f : Boot → Boot) : (s.onBoot f).links = s.links := rfl
@[simp] theorem State.onBoot_tsGood (s : State) (f : Boot → Boot) : (s.onBoot f).tsGood = s.tsGood := rfl
@[simp] theorem State.onBoot_tsEver (s : State) (f : Boot → Boot) : (s.onBoot f).tsEver = s.tsEver := rfl
@[simp] theorem State.onBoot_tsT1 (s : State) (f : Boot → Boot) : (s.onBoot f).tsT1 = s.tsT1 := rfl
@[simp] theorem State.onBoot_tsSlew (s : State) (f : Boot → Boot) : (s.onBoot f).tsSlew = s.tsSlew := rfl
@[simp] theorem State.onBoot_tsPhase (s : State) (f : Boot → Boot) : (s.onBoot f).tsPhase = s.tsPhase := rfl
@[simp] theorem State.onBoot_nodesE (s : State) (f : Boot → Boot) : (s.onBoot f).nodesE = s.nodesE := rfl
@[simp] theorem State.onBoot_nodesI (s : State) (f : Boot → Boot) : (s.onBoot f).nodesI = s.nodesI := rfl
@[simp] theorem State.onBoot_msix (s : State) (f : Boot → Boot) : (s.onBoot f).msix = s.msix := rfl
@[simp] theorem State.onBoot_wdog (s : State) (f : Boot → Boot) : (s.onBoot f).wdog = s.wdog := rfl
@[simp] theorem State.onBoot_feWait (s : State) (f : Boot → Boot) : (s.onBoot f).feWait = s.feWait := rfl
@[simp] theorem State.onBoot_feHold (s : State) (f : Boot → Boot) : (s.onBoot f).feHold = s.feHold := rfl
@[simp] theorem State.onBoot_rankCache (s : State) (f : Boot → Boot) : (s.onBoot f).rankCache = s.rankCache := rfl
@[simp] theorem State.onBoot_hostOut (s : State) (f : Boot → Boot) : (s.onBoot f).hostOut = s.hostOut := rfl

/-! onLink changes links alone. -/

@[simp] theorem State.onLink_sched (s : State) (p : Nat) (f : Link → Link) : (s.onLink p f).sched = s.sched := rfl
@[simp] theorem State.onLink_cur (s : State) (p : Nat) (f : Link → Link) : (s.onLink p f).cur = s.cur := rfl
@[simp] theorem State.onLink_tick (s : State) (p : Nat) (f : Link → Link) : (s.onLink p f).tick = s.tick := rfl
@[simp] theorem State.onLink_harts (s : State) (p : Nat) (f : Link → Link) : (s.onLink p f).harts = s.harts := rfl
@[simp] theorem State.onLink_cores (s : State) (p : Nat) (f : Link → Link) : (s.onLink p f).cores = s.cores := rfl
@[simp] theorem State.onLink_frames (s : State) (p : Nat) (f : Link → Link) : (s.onLink p f).frames = s.frames := rfl
@[simp] theorem State.onLink_nextJob (s : State) (p : Nat) (f : Link → Link) : (s.onLink p f).nextJob = s.nextJob := rfl
@[simp] theorem State.onLink_parts (s : State) (p : Nat) (f : Link → Link) : (s.onLink p f).parts = s.parts := rfl
@[simp] theorem State.onLink_mem (s : State) (p : Nat) (f : Link → Link) : (s.onLink p f).mem = s.mem := rfl
@[simp] theorem State.onLink_swritten (s : State) (p : Nat) (f : Link → Link) : (s.onLink p f).swritten = s.swritten := rfl
@[simp] theorem State.onLink_blocks (s : State) (p : Nat) (f : Link → Link) : (s.onLink p f).blocks = s.blocks := rfl
@[simp] theorem State.onLink_mcnts (s : State) (p : Nat) (f : Link → Link) : (s.onLink p f).mcnts = s.mcnts := rfl
@[simp] theorem State.onLink_gseq (s : State) (p : Nat) (f : Link → Link) : (s.onLink p f).gseq = s.gseq := rfl
@[simp] theorem State.onLink_gver (s : State) (p : Nat) (f : Link → Link) : (s.onLink p f).gver = s.gver := rfl
@[simp] theorem State.onLink_hist (s : State) (p : Nat) (f : Link → Link) : (s.onLink p f).hist = s.hist := rfl
@[simp] theorem State.onLink_wrel (s : State) (p : Nat) (f : Link → Link) : (s.onLink p f).wrel = s.wrel := rfl
@[simp] theorem State.onLink_releases (s : State) (p : Nat) (f : Link → Link) : (s.onLink p f).releases = s.releases := rfl
@[simp] theorem State.onLink_nextRel (s : State) (p : Nat) (f : Link → Link) : (s.onLink p f).nextRel = s.nextRel := rfl
@[simp] theorem State.onLink_hostKnow (s : State) (p : Nat) (f : Link → Link) : (s.onLink p f).hostKnow = s.hostKnow := rfl
@[simp] theorem State.onLink_farKnow (s : State) (p : Nat) (f : Link → Link) : (s.onLink p f).farKnow = s.farKnow := rfl
@[simp] theorem State.onLink_outq (s : State) (p : Nat) (f : Link → Link) : (s.onLink p f).outq = s.outq := rfl
@[simp] theorem State.onLink_nextPhase (s : State) (p : Nat) (f : Link → Link) : (s.onLink p f).nextPhase = s.nextPhase := rfl
@[simp] theorem State.onLink_nextTag (s : State) (p : Nat) (f : Link → Link) : (s.onLink p f).nextTag = s.nextTag := rfl
@[simp] theorem State.onLink_remotes (s : State) (p : Nat) (f : Link → Link) : (s.onLink p f).remotes = s.remotes := rfl
@[simp] theorem State.onLink_regs (s : State) (p : Nat) (f : Link → Link) : (s.onLink p f).regs = s.regs := rfl
@[simp] theorem State.onLink_flue (s : State) (p : Nat) (f : Link → Link) : (s.onLink p f).flue = s.flue := rfl
@[simp] theorem State.onLink_flueCnt (s : State) (p : Nat) (f : Link → Link) : (s.onLink p f).flueCnt = s.flueCnt := rfl
@[simp] theorem State.onLink_feCode (s : State) (p : Nat) (f : Link → Link) : (s.onLink p f).feCode = s.feCode := rfl
@[simp] theorem State.onLink_feData (s : State) (p : Nat) (f : Link → Link) : (s.onLink p f).feData = s.feData := rfl
@[simp] theorem State.onLink_mgmtMem (s : State) (p : Nat) (f : Link → Link) : (s.onLink p f).mgmtMem = s.mgmtMem := rfl
@[simp] theorem State.onLink_mgmtCode (s : State) (p : Nat) (f : Link → Link) : (s.onLink p f).mgmtCode = s.mgmtCode := rfl
@[simp] theorem State.onLink_svcCode (s : State) (p : Nat) (f : Link → Link) : (s.onLink p f).svcCode = s.svcCode := rfl
@[simp] theorem State.onLink_config (s : State) (p : Nat) (f : Link → Link) : (s.onLink p f).config = s.config := rfl
@[simp] theorem State.onLink_sections (s : State) (p : Nat) (f : Link → Link) : (s.onLink p f).sections = s.sections := rfl
@[simp] theorem State.onLink_dcc (s : State) (p : Nat) (f : Link → Link) : (s.onLink p f).dcc = s.dcc := rfl
@[simp] theorem State.onLink_dccRun (s : State) (p : Nat) (f : Link → Link) : (s.onLink p f).dccRun = s.dccRun := rfl
@[simp] theorem State.onLink_power (s : State) (p : Nat) (f : Link → Link) : (s.onLink p f).power = s.power := rfl
@[simp] theorem State.onLink_boot (s : State) (p : Nat) (f : Link → Link) : (s.onLink p f).boot = s.boot := rfl
@[simp] theorem State.onLink_tsGood (s : State) (p : Nat) (f : Link → Link) : (s.onLink p f).tsGood = s.tsGood := rfl
@[simp] theorem State.onLink_tsEver (s : State) (p : Nat) (f : Link → Link) : (s.onLink p f).tsEver = s.tsEver := rfl
@[simp] theorem State.onLink_tsT1 (s : State) (p : Nat) (f : Link → Link) : (s.onLink p f).tsT1 = s.tsT1 := rfl
@[simp] theorem State.onLink_tsSlew (s : State) (p : Nat) (f : Link → Link) : (s.onLink p f).tsSlew = s.tsSlew := rfl
@[simp] theorem State.onLink_tsPhase (s : State) (p : Nat) (f : Link → Link) : (s.onLink p f).tsPhase = s.tsPhase := rfl
@[simp] theorem State.onLink_nodesE (s : State) (p : Nat) (f : Link → Link) : (s.onLink p f).nodesE = s.nodesE := rfl
@[simp] theorem State.onLink_nodesI (s : State) (p : Nat) (f : Link → Link) : (s.onLink p f).nodesI = s.nodesI := rfl
@[simp] theorem State.onLink_msix (s : State) (p : Nat) (f : Link → Link) : (s.onLink p f).msix = s.msix := rfl
@[simp] theorem State.onLink_wdog (s : State) (p : Nat) (f : Link → Link) : (s.onLink p f).wdog = s.wdog := rfl
@[simp] theorem State.onLink_feWait (s : State) (p : Nat) (f : Link → Link) : (s.onLink p f).feWait = s.feWait := rfl
@[simp] theorem State.onLink_feHold (s : State) (p : Nat) (f : Link → Link) : (s.onLink p f).feHold = s.feHold := rfl
@[simp] theorem State.onLink_rankCache (s : State) (p : Nat) (f : Link → Link) : (s.onLink p f).rankCache = s.rankCache := rfl
@[simp] theorem State.onLink_hostOut (s : State) (p : Nat) (f : Link → Link) : (s.onLink p f).hostOut = s.hostOut := rfl

/-! The context after its instruction, and after a transfer. -/

@[simp] theorem Hart.past_pc (h : Hart) (n : Nat) : (h.past n).pc = h.pc + 8 * n := rfl
@[simp] theorem Hart.past_s (h : Hart) (n : Nat) : (h.past n).s = h.s := rfl
@[simp] theorem Hart.past_g (h : Hart) (n : Nat) : (h.past n).g = h.g := rfl
@[simp] theorem Hart.past_cause (h : Hart) (n : Nat) : (h.past n).cause = h.cause := rfl
@[simp] theorem Hart.past_fpf (h : Hart) (n : Nat) : (h.past n).fpf = h.fpf := rfl
@[simp] theorem Hart.past_stat (h : Hart) (n : Nat) : (h.past n).stat = h.stat := rfl
@[simp] theorem Hart.past_blocked (h : Hart) (n : Nat) : (h.past n).blocked = .none := rfl
@[simp] theorem Hart.past_wait (h : Hart) (n : Nat) : (h.past n).wait = none := rfl
@[simp] theorem Hart.past_newLine (h : Hart) (n : Nat) : (h.past n).newLine = h.newLine := rfl
@[simp] theorem Hart.past_restart (h : Hart) (n : Nat) : (h.past n).restart = .empty := rfl
@[simp] theorem Hart.past_grant (h : Hart) (n : Nat) : (h.past n).grant = false := rfl
@[simp] theorem Hart.past_priv (h : Hart) (n : Nat) : (h.past n).priv = h.priv := rfl
@[simp] theorem Hart.past_shown (h : Hart) (n : Nat) : (h.past n).shown = h.shown := rfl
@[simp] theorem Hart.past_phases (h : Hart) (n : Nat) : (h.past n).phases = h.phases := rfl
@[simp] theorem Hart.past_know (h : Hart) (n : Nat) : (h.past n).know = h.know := rfl
@[simp] theorem Hart.past_lastWait (h : Hart) (n : Nat) : (h.past n).lastWait = h.lastWait := rfl
@[simp] theorem Hart.past_fenceRel (h : Hart) (n : Nat) : (h.past n).fenceRel = h.fenceRel := rfl
@[simp] theorem Hart.past_pairs (h : Hart) (n : Nat) : (h.past n).pairs = h.pairs := rfl

@[simp] theorem Hart.to_pc (h : Hart) (p : Nat) : (h.to p).pc = p := rfl
@[simp] theorem Hart.to_s (h : Hart) (p : Nat) : (h.to p).s = h.s := rfl
@[simp] theorem Hart.to_g (h : Hart) (p : Nat) : (h.to p).g = h.g := rfl
@[simp] theorem Hart.to_cause (h : Hart) (p : Nat) : (h.to p).cause = h.cause := rfl
@[simp] theorem Hart.to_fpf (h : Hart) (p : Nat) : (h.to p).fpf = h.fpf := rfl
@[simp] theorem Hart.to_stat (h : Hart) (p : Nat) : (h.to p).stat = h.stat := rfl
@[simp] theorem Hart.to_blocked (h : Hart) (p : Nat) : (h.to p).blocked = .none := rfl
@[simp] theorem Hart.to_wait (h : Hart) (p : Nat) : (h.to p).wait = none := rfl
@[simp] theorem Hart.to_newLine (h : Hart) (p : Nat) : (h.to p).newLine = true := rfl
@[simp] theorem Hart.to_restart (h : Hart) (p : Nat) : (h.to p).restart = .empty := rfl
@[simp] theorem Hart.to_grant (h : Hart) (p : Nat) : (h.to p).grant = false := rfl
@[simp] theorem Hart.to_priv (h : Hart) (p : Nat) : (h.to p).priv = h.priv := rfl
@[simp] theorem Hart.to_shown (h : Hart) (p : Nat) : (h.to p).shown = h.shown := rfl
@[simp] theorem Hart.to_phases (h : Hart) (p : Nat) : (h.to p).phases = h.phases := rfl
@[simp] theorem Hart.to_know (h : Hart) (p : Nat) : (h.to p).know = h.know := rfl
@[simp] theorem Hart.to_lastWait (h : Hart) (p : Nat) : (h.to p).lastWait = h.lastWait := rfl
@[simp] theorem Hart.to_fenceRel (h : Hart) (p : Nat) : (h.to p).fenceRel = h.fenceRel := rfl
@[simp] theorem Hart.to_pairs (h : Hart) (p : Nat) : (h.to p).pairs = h.pairs := rfl

@[simp] theorem Hart.addFlags_pc (h : Hart) (f : Flags) : (h.addFlags f).pc = h.pc := rfl
@[simp] theorem Hart.addFlags_s (h : Hart) (f : Flags) : (h.addFlags f).s = h.s := rfl
@[simp] theorem Hart.addFlags_g (h : Hart) (f : Flags) : (h.addFlags f).g = h.g := rfl
@[simp] theorem Hart.addFlags_cause (h : Hart) (f : Flags) : (h.addFlags f).cause = h.cause := rfl
@[simp] theorem Hart.addFlags_fpf (h : Hart) (f : Flags) : (h.addFlags f).fpf = h.fpf ||| f := rfl
@[simp] theorem Hart.addFlags_stat (h : Hart) (f : Flags) : (h.addFlags f).stat = h.stat := rfl
@[simp] theorem Hart.addFlags_blocked (h : Hart) (f : Flags) : (h.addFlags f).blocked = h.blocked := rfl
@[simp] theorem Hart.addFlags_wait (h : Hart) (f : Flags) : (h.addFlags f).wait = h.wait := rfl
@[simp] theorem Hart.addFlags_newLine (h : Hart) (f : Flags) : (h.addFlags f).newLine = h.newLine := rfl
@[simp] theorem Hart.addFlags_restart (h : Hart) (f : Flags) : (h.addFlags f).restart = h.restart := rfl
@[simp] theorem Hart.addFlags_grant (h : Hart) (f : Flags) : (h.addFlags f).grant = h.grant := rfl
@[simp] theorem Hart.addFlags_priv (h : Hart) (f : Flags) : (h.addFlags f).priv = h.priv := rfl
@[simp] theorem Hart.addFlags_shown (h : Hart) (f : Flags) : (h.addFlags f).shown = h.shown := rfl
@[simp] theorem Hart.addFlags_phases (h : Hart) (f : Flags) : (h.addFlags f).phases = h.phases := rfl
@[simp] theorem Hart.addFlags_know (h : Hart) (f : Flags) : (h.addFlags f).know = h.know := rfl
@[simp] theorem Hart.addFlags_lastWait (h : Hart) (f : Flags) : (h.addFlags f).lastWait = h.lastWait := rfl
@[simp] theorem Hart.addFlags_fenceRel (h : Hart) (f : Flags) : (h.addFlags f).fenceRel = h.fenceRel := rfl
@[simp] theorem Hart.addFlags_pairs (h : Hart) (f : Flags) : (h.addFlags f).pairs = h.pairs := rfl

@[simp] theorem Hart.setS_pc (h : Hart) (n : Nat) (v : Word) : (h.setS n v).pc = h.pc := by
  unfold Hart.setS; split <;> rfl
@[simp] theorem Hart.setS_g (h : Hart) (n : Nat) (v : Word) : (h.setS n v).g = h.g := by
  unfold Hart.setS; split <;> rfl
@[simp] theorem Hart.setS_cause (h : Hart) (n : Nat) (v : Word) : (h.setS n v).cause = h.cause := by
  unfold Hart.setS; split <;> rfl
@[simp] theorem Hart.setS_fpf (h : Hart) (n : Nat) (v : Word) : (h.setS n v).fpf = h.fpf := by
  unfold Hart.setS; split <;> rfl
@[simp] theorem Hart.setS_stat (h : Hart) (n : Nat) (v : Word) : (h.setS n v).stat = h.stat := by
  unfold Hart.setS; split <;> rfl
@[simp] theorem Hart.setS_blocked (h : Hart) (n : Nat) (v : Word) : (h.setS n v).blocked = h.blocked := by
  unfold Hart.setS; split <;> rfl
@[simp] theorem Hart.setS_wait (h : Hart) (n : Nat) (v : Word) : (h.setS n v).wait = h.wait := by
  unfold Hart.setS; split <;> rfl
@[simp] theorem Hart.setS_newLine (h : Hart) (n : Nat) (v : Word) : (h.setS n v).newLine = h.newLine := by
  unfold Hart.setS; split <;> rfl
@[simp] theorem Hart.setS_restart (h : Hart) (n : Nat) (v : Word) : (h.setS n v).restart = h.restart := by
  unfold Hart.setS; split <;> rfl
@[simp] theorem Hart.setS_grant (h : Hart) (n : Nat) (v : Word) : (h.setS n v).grant = h.grant := by
  unfold Hart.setS; split <;> rfl
@[simp] theorem Hart.setS_priv (h : Hart) (n : Nat) (v : Word) : (h.setS n v).priv = h.priv := by
  unfold Hart.setS; split <;> rfl
@[simp] theorem Hart.setS_shown (h : Hart) (n : Nat) (v : Word) : (h.setS n v).shown = h.shown := by
  unfold Hart.setS; split <;> rfl
@[simp] theorem Hart.setS_phases (h : Hart) (n : Nat) (v : Word) : (h.setS n v).phases = h.phases := by
  unfold Hart.setS; split <;> rfl
@[simp] theorem Hart.setS_know (h : Hart) (n : Nat) (v : Word) : (h.setS n v).know = h.know := by
  unfold Hart.setS; split <;> rfl
@[simp] theorem Hart.setS_lastWait (h : Hart) (n : Nat) (v : Word) : (h.setS n v).lastWait = h.lastWait := by
  unfold Hart.setS; split <;> rfl
@[simp] theorem Hart.setS_fenceRel (h : Hart) (n : Nat) (v : Word) : (h.setS n v).fenceRel = h.fenceRel := by
  unfold Hart.setS; split <;> rfl
@[simp] theorem Hart.setS_pairs (h : Hart) (n : Nat) (v : Word) : (h.setS n v).pairs = h.pairs := by
  unfold Hart.setS; split <;> rfl

@[simp] theorem Hart.setG_pc (h : Hart) (n : Nat) (b : Bool) : (h.setG n b).pc = h.pc := by
  unfold Hart.setG; split <;> rfl
@[simp] theorem Hart.setG_s (h : Hart) (n : Nat) (b : Bool) : (h.setG n b).s = h.s := by
  unfold Hart.setG; split <;> rfl
@[simp] theorem Hart.setG_cause (h : Hart) (n : Nat) (b : Bool) : (h.setG n b).cause = h.cause := by
  unfold Hart.setG; split <;> rfl
@[simp] theorem Hart.setG_fpf (h : Hart) (n : Nat) (b : Bool) : (h.setG n b).fpf = h.fpf := by
  unfold Hart.setG; split <;> rfl
@[simp] theorem Hart.setG_stat (h : Hart) (n : Nat) (b : Bool) : (h.setG n b).stat = h.stat := by
  unfold Hart.setG; split <;> rfl
@[simp] theorem Hart.setG_blocked (h : Hart) (n : Nat) (b : Bool) : (h.setG n b).blocked = h.blocked := by
  unfold Hart.setG; split <;> rfl
@[simp] theorem Hart.setG_wait (h : Hart) (n : Nat) (b : Bool) : (h.setG n b).wait = h.wait := by
  unfold Hart.setG; split <;> rfl
@[simp] theorem Hart.setG_newLine (h : Hart) (n : Nat) (b : Bool) : (h.setG n b).newLine = h.newLine := by
  unfold Hart.setG; split <;> rfl
@[simp] theorem Hart.setG_restart (h : Hart) (n : Nat) (b : Bool) : (h.setG n b).restart = h.restart := by
  unfold Hart.setG; split <;> rfl
@[simp] theorem Hart.setG_grant (h : Hart) (n : Nat) (b : Bool) : (h.setG n b).grant = h.grant := by
  unfold Hart.setG; split <;> rfl
@[simp] theorem Hart.setG_priv (h : Hart) (n : Nat) (b : Bool) : (h.setG n b).priv = h.priv := by
  unfold Hart.setG; split <;> rfl
@[simp] theorem Hart.setG_shown (h : Hart) (n : Nat) (b : Bool) : (h.setG n b).shown = h.shown := by
  unfold Hart.setG; split <;> rfl
@[simp] theorem Hart.setG_phases (h : Hart) (n : Nat) (b : Bool) : (h.setG n b).phases = h.phases := by
  unfold Hart.setG; split <;> rfl
@[simp] theorem Hart.setG_know (h : Hart) (n : Nat) (b : Bool) : (h.setG n b).know = h.know := by
  unfold Hart.setG; split <;> rfl
@[simp] theorem Hart.setG_lastWait (h : Hart) (n : Nat) (b : Bool) : (h.setG n b).lastWait = h.lastWait := by
  unfold Hart.setG; split <;> rfl
@[simp] theorem Hart.setG_fenceRel (h : Hart) (n : Nat) (b : Bool) : (h.setG n b).fenceRel = h.fenceRel := by
  unfold Hart.setG; split <;> rfl
@[simp] theorem Hart.setG_pairs (h : Hart) (n : Nat) (b : Bool) : (h.setG n b).pairs = h.pairs := by
  unfold Hart.setG; split <;> rfl

/-! Reading a place after it is written, and any other. -/

theorem State.hart_setHart (s : State) (a : Agent) (h : Hart) (w : Map.wf (fun _ => Hart.reset) s.harts = true) :
    (s.setHart a h).hart a = h := Laws.get_set _ _ w

theorem State.hart_setHart_ne (s : State) {a b : Agent} (h : Hart) (w : Map.wf (fun _ => Hart.reset) s.harts = true)
    (n : agentNo b ≠ agentNo a) : (s.setHart a h).hart b = s.hart b := Laws.get_set_ne _ w n

theorem State.core_setCore (s : State) (c : Nat) (x : Core) (w : Map.wf (fun _ => Core.reset) s.cores = true) :
    (s.setCore c x).core c = x := Laws.get_set _ _ w

theorem State.core_setCore_ne (s : State) {c d : Nat} (x : Core) (w : Map.wf (fun _ => Core.reset) s.cores = true) (n : d ≠ c) :
    (s.setCore c x).core d = s.core d := Laws.get_set_ne _ w n

theorem State.reg_setReg (s : State) (o : Nat) (v : Word) (w : Map.wf regReset s.regs = true) : (s.setReg o v).reg o = v :=
  Laws.get_set _ _ w

theorem State.reg_setReg_ne (s : State) {o p : Nat} (v : Word) (w : Map.wf regReset s.regs = true) (n : p ≠ o) :
    (s.setReg o v).reg p = s.reg p := Laws.get_set_ne _ w n

theorem State.canonical_setHart (s : State) (a : Agent) (h : Hart) (w : s.canonical = true) : (s.setHart a h).canonical = true := by
  simp only [State.canonical, Bool.and_eq_true] at w ⊢
  exact ⟨⟨⟨⟨w.1.1.1.1, w.1.1.1.2⟩, Laws.wf_set _ _ w.1.1.2⟩, w.1.2⟩, w.2⟩

theorem State.canonical_setCore (s : State) (c : Nat) (x : Core) (w : s.canonical = true) : (s.setCore c x).canonical = true := by
  simp only [State.canonical, Bool.and_eq_true] at w ⊢
  exact ⟨⟨⟨⟨w.1.1.1.1, w.1.1.1.2⟩, w.1.1.2⟩, Laws.wf_set _ _ w.1.2⟩, w.2⟩

theorem State.canonical_setReg (s : State) (o : Nat) (v : Word) (w : s.canonical = true) : (s.setReg o v).canonical = true := by
  simp only [State.canonical, Bool.and_eq_true] at w ⊢
  exact ⟨⟨⟨⟨w.1.1.1.1, Laws.wf_set _ _ w.1.1.1.2⟩, w.1.1.2⟩, w.1.2⟩, w.2⟩

@[simp] theorem State.canonical_updPart (s : State) (k : Nat) (f : Part → Part) : (s.updPart k f).canonical = s.canonical := rfl
@[simp] theorem State.canonical_onPower (s : State) (f : Power → Power) : (s.onPower f).canonical = s.canonical := rfl
@[simp] theorem State.canonical_onBoot (s : State) (f : Boot → Boot) : (s.onBoot f).canonical = s.canonical := rfl
@[simp] theorem State.canonical_onLink (s : State) (p : Nat) (f : Link → Link) : (s.onLink p f).canonical = s.canonical := rfl

end Sys2Proof.Machine
end

