-- ==== Sys2Proof/Laws/Memory.lean ====
section
/-! SUPPORT. Memory stays in canonical form: reset has it, and every operation that changes memory keeps it. -/
namespace Sys2Proof.Laws
open Sys2Proof.Machine

/-- The memory of a state is in canonical form. -/
def MemOk (s : State) : Prop := Memory.wf s.mem = true

theorem memOk_reset : MemOk State.reset := rfl

theorem memOk_of {s t : State} (h : MemOk s) (e : t.mem = s.mem) : MemOk t := by unfold MemOk; rw [e]; exact h

/-! Bytes. -/

theorem memOk_putBytes (bs : List (Nat × Byte)) {s : State} (h : MemOk s) : MemOk (s.putBytes bs) := by
  induction bs generalizing s with
  | nil => exact h
  | cons b bs ih => obtain ⟨a, v⟩ := b; exact ih (wf_set _ v h)

@[simp] theorem supersedeAll_mem (s : State) (n : Nat) (gs : List Nat) : (s.supersedeAll n gs).mem = s.mem := by
  induction gs generalizing s with
  | nil => rfl
  | cons g gs ih => exact ih _

@[simp] theorem markWritten_mem (s : State) (gs : List Nat) : (s.markWritten gs).mem = s.mem := by
  unfold State.markWritten
  induction gs generalizing s with
  | nil => rfl
  | cons g gs ih => exact ih _

theorem keeps_setMeta (b : Nat) (m : Meta) : Keeps MemOk (setMeta b m) := keeps_modify fun s h => memOk_of (t := { s with blocks := _ }) h rfl

theorem keeps_setReg (o : Nat) (v : Word) : Keeps MemOk (setReg o v) := fun s h => memOk_of h (State.setReg_mem s o v)
theorem keeps_setField (o lo n v : Nat) : Keeps MemOk (setField o lo n v) := fun s h => memOk_of h (State.setReg_mem s o _)

theorem keeps_poisonBlock (b : Nat) (c : Cause) : Keeps MemOk (poisonBlock b c) := by
  unfold poisonBlock
  exact keeps_bind keeps_get fun s => keeps_ite (keeps_pure _) (keeps_bind (keeps_setMeta _ _) fun _ =>
    keeps_bind (keeps_setReg _ _) fun _ => keeps_setField _ _ _ _)

theorem keeps_exitCheck (b : Nat) : Keeps MemOk (exitCheck b) := by
  unfold exitCheck
  exact keeps_bind keeps_get fun s => keeps_ite (keeps_bind (keeps_poisonBlock _ _) fun _ => keeps_pure _)
    (keeps_ite (keeps_pure _) (keeps_ite (keeps_bind (keeps_poisonBlock _ _) fun _ => keeps_pure _) (keeps_pure _)))

theorem keeps_blockWrite (bs : List (Nat × Byte)) (p : Option Cause) : Keeps MemOk (blockWrite bs p) := by
  unfold blockWrite
  cases bs with
  | nil => exact keeps_pure _
  | cons b bs =>
    refine keeps_bind keeps_get fun s => ?_
    dsimp only
    split
    · refine keeps_bind (keeps_modify fun s h => memOk_of h (supersedeAll_mem s _ _)) fun _ => ?_
      refine keeps_bind (keeps_modify fun _ h => memOk_putBytes _ h) fun _ => keeps_bind (keeps_setMeta _ _) fun _ => ?_
      split
      · exact keeps_bind (keeps_poisonBlock _ _) fun _ => keeps_pure _
      · exact keeps_pure _
    · refine keeps_bind (keeps_modify fun s h => memOk_of h (markWritten_mem s _)) fun _ => ?_
      refine keeps_bind (keeps_modify fun _ h => memOk_putBytes _ h) fun _ => keeps_bind (keeps_setMeta _ _) fun _ => ?_
      split
      · exact keeps_bind (keeps_poisonBlock _ _) fun _ => keeps_pure _
      · exact keeps_pure _

/-- A write of consecutive bytes. -/
theorem keeps_physWrite (a : Nat) (data : List Byte) (p : Option Cause) : Keeps MemOk (physWrite a data p) :=
  keeps_bind (keeps_mapE fun _ => keeps_blockWrite _ _) fun _ => keeps_pure _

/-- A block carried with its check value. -/
theorem keeps_carryBlock (dst src : Nat) : Keeps MemOk (carryBlock dst src) := by
  unfold carryBlock
  refine keeps_bind keeps_get fun s => keeps_bind (keeps_blockWrite _ _) fun _ => ?_
  dsimp only
  split
  · exact keeps_bind keeps_get fun _ => keeps_bind (keeps_setMeta _ _) fun _ => keeps_bind (keeps_poisonBlock _ _) fun _ =>
      keeps_modify fun s h => memOk_of (t := { s with blocks := _ }) h rfl
  · exact keeps_modify fun s h => memOk_of (t := { s with blocks := _ }) h rfl

theorem keeps_setMcounter (pa : Nat) (m : MemCounter) : Keeps MemOk (setMcounter pa m) :=
  keeps_modify fun s h => memOk_of (t := { s with mcnts := _ }) h rfl

theorem keeps_poisonMcounter (pa : Nat) (c : Cause) : Keeps MemOk (poisonMcounter pa c) := by
  unfold poisonMcounter
  exact keeps_bind keeps_get fun _ => keeps_ite (keeps_pure _) (keeps_setMcounter _ _)

/-- An add to a memory counter. -/
theorem keeps_addMcounter (pa : Nat) (v : Word) (rels : List Rel) : Keeps MemOk (addMcounter pa v rels) := by
  unfold addMcounter
  refine keeps_bind keeps_get fun s => keeps_ite (keeps_pure _) (keeps_bind (keeps_exitCheck _) fun o => ?_)
  cases o with
  | some c => exact keeps_poisonMcounter _ _
  | none =>
    refine keeps_ite (keeps_poisonMcounter _ _) (keeps_bind (keeps_physWrite _ _ _) fun _ => keeps_setMcounter _ _)

/-! Regions cleared, moved and replaced. -/

theorem memOk_filter {s : State} (p : Nat × Byte → Bool) (h : MemOk s) : Memory.wf (s.mem.filter p) = true := wf_filter p h
theorem memOk_clear {s : State} (lo hi : Nat) (h : MemOk s) : Memory.wf (Map.clear s.mem lo hi) = true := wf_clear lo hi h
theorem memOk_slice {s : State} (lo hi : Nat) (h : MemOk s) : Memory.wf (Map.slice s.mem lo hi) = true := wf_slice lo hi h

/-- A region loaded with bytes, as a thaw does. -/
theorem memOk_load {s : State} (a n : Nat) (bs : List Byte) (h : MemOk s) :
    Memory.wf (Map.setN (fun _ => 0#8) (Map.clear s.mem a (a + n)) a bs) = true := wf_setN _ _ (wf_clear _ _ h)

theorem wf_values {α : Type} [DecidableEq α] {d : Nat → α} {m : Assoc α} {lo : Nat} (h : Map.wfFrom d lo m = true) :
    ∀ e ∈ m, e.2 ≠ d e.1 := by
  induction m generalizing lo with
  | nil => intro e he; cases he
  | cons e m ih =>
    obtain ⟨i, v⟩ := e
    simp only [Map.wfFrom, Bool.and_eq_true, decide_eq_true_eq] at h
    intro e he
    rcases List.mem_cons.1 he with rfl | he
    · exact h.1.2
    · exact ih h.2 e he

theorem wf_inserts {α : Type} [DecidableEq α] {v0 : α} (l m : Assoc α) (f : Nat → Nat) (hl : ∀ e ∈ l, e.2 ≠ v0)
    (hm : Map.wf (fun _ => v0) m = true) : Map.wf (fun _ => v0) (l.foldl (fun x e => Map.insert x (f e.1) e.2) m) = true := by
  induction l generalizing m with
  | nil => exact hm
  | cons e l ih =>
    exact ih _ (fun x hx => hl x (List.mem_cons_of_mem _ hx))
      (wfFrom_insert hm (Nat.zero_le _) (hl e List.mem_cons_self))

/-- A range moved. -/
theorem wf_moveRange {α : Type} [DecidableEq α] {v0 : α} {m : Assoc α} (a b n : Nat) (h : Map.wf (fun _ => v0) m = true) :
    Map.wf (fun _ => v0) (moveRange m a b n) = true :=
  wf_inserts _ _ (fun i => b + (i - a)) (wf_values (wf_slice (d := fun _ => v0) a (a + n) h)) (wf_clear _ _ (wf_clear _ _ h))

theorem memOk_moveScratch {s : State} (a b : Nat) (h : MemOk s) : MemOk (s.moveScratch a b) := wf_moveRange a b _ h

theorem keeps_loseHbm : Keeps MemOk loseHbm := keeps_modify fun _ h => wf_clear _ _ h
theorem keeps_zeroStack (n : Nat) : Keeps MemOk (zeroStack n) := keeps_modify fun _ h => wf_filter _ h
theorem keeps_porstAssert : Keeps MemOk porstAssert := keeps_modify fun s h => wf_slice (m := s.mem) _ _ h

/-- A core's scratchpad cleared. -/
theorem memOk_clearScratch {s : State} (c : Nat) (h : MemOk s) :
    Memory.wf (Map.clear s.mem (aliasOf c 0) (aliasOf c 0 + 4194304)) = true := wf_clear _ _ h

end Sys2Proof.Laws
end

