-- ==== Sys2Proof/Laws/PerInstr.lean ====
section
/-! SUPPORT. The family Form: what the encoding of each constructor is. An instruction that can stand in a program has an encoding and the
shape of its fields and is no device event; a device event has neither. -/
namespace Sys2Proof.Laws.Form
open Sys2Proof.Machine

/-- An encoding stands beside a shape, and for no event; its words are as many as its slots. -/
def Statement (i : Instr) : Prop :=
  i.enc.isSome = i.shape.isSome ∧ (isEvent i = true → i.enc = none) ∧ ∀ e, i.enc = some e → encode i = some e.words

theorem porstNDeassert : Statement (.porstNDeassert) :=
  ⟨rfl, fun _ => rfl, fun _ h => congrArg (Option.map _) h⟩
theorem railEnWrite (a0 a1) : Statement (.railEnWrite a0 a1) :=
  ⟨rfl, fun _ => rfl, fun _ h => congrArg (Option.map _) h⟩
theorem railPowerGood (a0) : Statement (.railPowerGood a0) :=
  ⟨rfl, fun _ => rfl, fun _ h => congrArg (Option.map _) h⟩
theorem railFault (a0) : Statement (.railFault a0) :=
  ⟨rfl, fun _ => rfl, fun _ h => congrArg (Option.map _) h⟩
theorem rstCtlWrite (a0 a1) : Statement (.rstCtlWrite a0 a1) :=
  ⟨rfl, fun _ => rfl, fun _ h => congrArg (Option.map _) h⟩
theorem d2dLinkTrained (a0) : Statement (.d2dLinkTrained a0) :=
  ⟨rfl, fun _ => rfl, fun _ h => congrArg (Option.map _) h⟩
theorem clkCtlWrite (a0 a1) : Statement (.clkCtlWrite a0 a1) :=
  ⟨rfl, fun _ => rfl, fun _ h => congrArg (Option.map _) h⟩
theorem timebaseLock : Statement (.timebaseLock) :=
  ⟨rfl, fun _ => rfl, fun _ h => congrArg (Option.map _) h⟩
theorem dccTick : Statement (.dccTick) :=
  ⟨rfl, fun _ => rfl, fun _ h => congrArg (Option.map _) h⟩
theorem refclkLoss (a0) : Statement (.refclkLoss a0) :=
  ⟨rfl, fun _ => rfl, fun _ h => congrArg (Option.map _) h⟩
theorem dvfsCtlWrite (a0 a1) : Statement (.dvfsCtlWrite a0 a1) :=
  ⟨rfl, fun _ => rfl, fun _ h => congrArg (Option.map _) h⟩
theorem dvfsTransitionDone (a0) : Statement (.dvfsTransitionDone a0) :=
  ⟨rfl, fun _ => rfl, fun _ h => congrArg (Option.map _) h⟩
theorem pcapCtlWrite (a0 a1) : Statement (.pcapCtlWrite a0 a1) :=
  ⟨rfl, fun _ => rfl, fun _ h => congrArg (Option.map _) h⟩
theorem powerSample (a0 a1) : Statement (.powerSample a0 a1) :=
  ⟨rfl, fun _ => rfl, fun _ h => congrArg (Option.map _) h⟩
theorem cycleSkipEnd : Statement (.cycleSkipEnd) :=
  ⟨rfl, fun _ => rfl, fun _ h => congrArg (Option.map _) h⟩
theorem cappingTick (a0) : Statement (.cappingTick a0) :=
  ⟨rfl, fun _ => rfl, fun _ h => congrArg (Option.map _) h⟩
theorem thmCfgWrite (a0 a1) : Statement (.thmCfgWrite a0 a1) :=
  ⟨rfl, fun _ => rfl, fun _ h => congrArg (Option.map _) h⟩
theorem thermalSample (a0 a1) : Statement (.thermalSample a0 a1) :=
  ⟨rfl, fun _ => rfl, fun _ h => congrArg (Option.map _) h⟩
theorem thermalActionEnd (a0) : Statement (.thermalActionEnd a0) :=
  ⟨rfl, fun _ => rfl, fun _ h => congrArg (Option.map _) h⟩
theorem hbmTrnGo (a0 a1 a2) : Statement (.hbmTrnGo a0 a1 a2) :=
  ⟨rfl, fun _ => rfl, fun _ h => congrArg (Option.map _) h⟩
theorem hbmPhyReset (a0 a1 a2) : Statement (.hbmPhyReset a0 a1 a2) :=
  ⟨rfl, fun _ => rfl, fun _ h => congrArg (Option.map _) h⟩
theorem hbmTrainingStepDone (a0 a1 a2) : Statement (.hbmTrainingStepDone a0 a1 a2) :=
  ⟨rfl, fun _ => rfl, fun _ h => congrArg (Option.map _) h⟩
theorem patrolScrub (a0 a1) : Statement (.patrolScrub a0 a1) :=
  ⟨rfl, fun _ => rfl, fun _ h => congrArg (Option.map _) h⟩
theorem optTrnGo (a0 a1 a2) : Statement (.optTrnGo a0 a1 a2) :=
  ⟨rfl, fun _ => rfl, fun _ h => congrArg (Option.map _) h⟩
theorem opticalTrainingStepDone (a0 a1 a2) : Statement (.opticalTrainingStepDone a0 a1 a2) :=
  ⟨rfl, fun _ => rfl, fun _ h => congrArg (Option.map _) h⟩
theorem d2dLinkDown (a0) : Statement (.d2dLinkDown a0) :=
  ⟨rfl, fun _ => rfl, fun _ h => congrArg (Option.map _) h⟩
theorem portCtlEnWrite (a0 a1 a2) : Statement (.portCtlEnWrite a0 a1 a2) :=
  ⟨rfl, fun _ => rfl, fun _ h => congrArg (Option.map _) h⟩
theorem portDrained (a0) : Statement (.portDrained a0) :=
  ⟨rfl, fun _ => rfl, fun _ h => congrArg (Option.map _) h⟩
theorem portRetrainWrite (a0 a1 a2) : Statement (.portRetrainWrite a0 a1 a2) :=
  ⟨rfl, fun _ => rfl, fun _ h => congrArg (Option.map _) h⟩
theorem portUnlock (a0 a1 a2) : Statement (.portUnlock a0 a1 a2) :=
  ⟨rfl, fun _ => rfl, fun _ h => congrArg (Option.map _) h⟩
theorem portSecretWrite (a0 a1 a2 a3) : Statement (.portSecretWrite a0 a1 a2 a3) :=
  ⟨rfl, fun _ => rfl, fun _ h => congrArg (Option.map _) h⟩
theorem flitReceive (a0 a1) : Statement (.flitReceive a0 a1) :=
  ⟨rfl, fun _ => rfl, fun _ h => congrArg (Option.map _) h⟩
theorem nakReceive (a0 a1) : Statement (.nakReceive a0 a1) :=
  ⟨rfl, fun _ => rfl, fun _ h => congrArg (Option.map _) h⟩
theorem flitSend (a0) : Statement (.flitSend a0) :=
  ⟨rfl, fun _ => rfl, fun _ h => congrArg (Option.map _) h⟩
theorem replayTimeout (a0) : Statement (.replayTimeout a0) :=
  ⟨rfl, fun _ => rfl, fun _ h => congrArg (Option.map _) h⟩
theorem keepaliveTimeout (a0) : Statement (.keepaliveTimeout a0) :=
  ⟨rfl, fun _ => rfl, fun _ h => congrArg (Option.map _) h⟩
theorem ackThreshold (a0) : Statement (.ackThreshold a0) :=
  ⟨rfl, fun _ => rfl, fun _ h => congrArg (Option.map _) h⟩
theorem sessionExhausted (a0) : Statement (.sessionExhausted a0) :=
  ⟨rfl, fun _ => rfl, fun _ h => congrArg (Option.map _) h⟩
theorem attestMessageReceive (a0 a1) : Statement (.attestMessageReceive a0 a1) :=
  ⟨rfl, fun _ => rfl, fun _ h => congrArg (Option.map _) h⟩
theorem retrainTrigger (a0) : Statement (.retrainTrigger a0) :=
  ⟨rfl, fun _ => rfl, fun _ h => congrArg (Option.map _) h⟩
theorem retrainDone (a0 a1 a2) : Statement (.retrainDone a0 a1 a2) :=
  ⟨rfl, fun _ => rfl, fun _ h => congrArg (Option.map _) h⟩
theorem lsrSend (a0) : Statement (.lsrSend a0) :=
  ⟨rfl, fun _ => rfl, fun _ h => congrArg (Option.map _) h⟩
theorem lsrReceive (a0 a1) : Statement (.lsrReceive a0 a1) :=
  ⟨rfl, fun _ => rfl, fun _ h => congrArg (Option.map _) h⟩
theorem lsrTimeout (a0) : Statement (.lsrTimeout a0) :=
  ⟨rfl, fun _ => rfl, fun _ h => congrArg (Option.map _) h⟩
theorem slotCfgWrite (a0 a1 a2) : Statement (.slotCfgWrite a0 a1 a2) :=
  ⟨rfl, fun _ => rfl, fun _ h => congrArg (Option.map _) h⟩
theorem rotationStart (a0) : Statement (.rotationStart a0) :=
  ⟨rfl, fun _ => rfl, fun _ h => congrArg (Option.map _) h⟩
theorem slotGuardEnd (a0) : Statement (.slotGuardEnd a0) :=
  ⟨rfl, fun _ => rfl, fun _ h => congrArg (Option.map _) h⟩
theorem slotWindowEnd (a0) : Statement (.slotWindowEnd a0) :=
  ⟨rfl, fun _ => rfl, fun _ h => congrArg (Option.map _) h⟩
theorem circuitTrained (a0 a1 a2) : Statement (.circuitTrained a0 a1 a2) :=
  ⟨rfl, fun _ => rfl, fun _ h => congrArg (Option.map _) h⟩
theorem routeWrite (a0 a1 a2) : Statement (.routeWrite a0 a1 a2) :=
  ⟨rfl, fun _ => rfl, fun _ h => congrArg (Option.map _) h⟩
theorem rankTableConfigWrite (a0 a1 a2 a3) : Statement (.rankTableConfigWrite a0 a1 a2 a3) :=
  ⟨rfl, fun _ => rfl, fun _ h => congrArg (Option.map _) h⟩
theorem tsyncCtlWrite (a0 a1) : Statement (.tsyncCtlWrite a0 a1) :=
  ⟨rfl, fun _ => rfl, fun _ h => congrArg (Option.map _) h⟩
theorem tsyncPeriod : Statement (.tsyncPeriod) :=
  ⟨rfl, fun _ => rfl, fun _ h => congrArg (Option.map _) h⟩
theorem tsyncReceive (a0 a1) : Statement (.tsyncReceive a0 a1) :=
  ⟨rfl, fun _ => rfl, fun _ h => congrArg (Option.map _) h⟩
theorem remoteRequestReceive (a0) : Statement (.remoteRequestReceive a0) :=
  ⟨rfl, fun _ => rfl, fun _ h => congrArg (Option.map _) h⟩
theorem remoteResponseReceive (a0) : Statement (.remoteResponseReceive a0) :=
  ⟨rfl, fun _ => rfl, fun _ h => congrArg (Option.map _) h⟩
theorem holdTimeout (a0) : Statement (.holdTimeout a0) :=
  ⟨rfl, fun _ => rfl, fun _ h => congrArg (Option.map _) h⟩
theorem responseTimeout (a0) : Statement (.responseTimeout a0) :=
  ⟨rfl, fun _ => rfl, fun _ h => congrArg (Option.map _) h⟩
theorem flitCaddReceive (a0) : Statement (.flitCaddReceive a0) :=
  ⟨rfl, fun _ => rfl, fun _ h => congrArg (Option.map _) h⟩
theorem chimReceive (a0) : Statement (.chimReceive a0) :=
  ⟨rfl, fun _ => rfl, fun _ h => congrArg (Option.map _) h⟩
theorem rsuspReceive (a0) : Statement (.rsuspReceive a0) :=
  ⟨rfl, fun _ => rfl, fun _ h => congrArg (Option.map _) h⟩
theorem rsackReceive (a0) : Statement (.rsackReceive a0) :=
  ⟨rfl, fun _ => rfl, fun _ h => congrArg (Option.map _) h⟩
theorem rresumeReceive (a0) : Statement (.rresumeReceive a0) :=
  ⟨rfl, fun _ => rfl, fun _ h => congrArg (Option.map _) h⟩
theorem colltoExpiry (a0 a1 a2) : Statement (.colltoExpiry a0 a1 a2) :=
  ⟨rfl, fun _ => rfl, fun _ h => congrArg (Option.map _) h⟩
theorem rgnEntryWrite (a0 a1 a2) : Statement (.rgnEntryWrite a0 a1 a2) :=
  ⟨rfl, fun _ => rfl, fun _ h => congrArg (Option.map _) h⟩
theorem rgnSyncGo (a0 a1) : Statement (.rgnSyncGo a0 a1) :=
  ⟨rfl, fun _ => rfl, fun _ h => congrArg (Option.map _) h⟩
theorem rgnSyncDone : Statement (.rgnSyncDone) :=
  ⟨rfl, fun _ => rfl, fun _ h => congrArg (Option.map _) h⟩
theorem hostrdy : Statement (.hostrdy) :=
  ⟨rfl, fun _ => rfl, fun _ h => congrArg (Option.map _) h⟩
theorem reload : Statement (.reload) :=
  ⟨rfl, fun _ => rfl, fun _ h => congrArg (Option.map _) h⟩
theorem hostrdyTimeout : Statement (.hostrdyTimeout) :=
  ⟨rfl, fun _ => rfl, fun _ h => congrArg (Option.map _) h⟩
theorem measExtend (a0 a1) : Statement (.measExtend a0 a1) :=
  ⟨rfl, fun _ => rfl, fun _ h => congrArg (Option.map _) h⟩
theorem spdmRequest (a0) : Statement (.spdmRequest a0) :=
  ⟨rfl, fun _ => rfl, fun _ h => congrArg (Option.map _) h⟩
theorem hostMemWrite (a0 a1 a2) : Statement (.hostMemWrite a0 a1 a2) :=
  ⟨rfl, fun _ => rfl, fun _ h => congrArg (Option.map _) h⟩
theorem hostMemRead (a0 a1) : Statement (.hostMemRead a0 a1) :=
  ⟨rfl, fun _ => rfl, fun _ h => congrArg (Option.map _) h⟩
theorem secondTierReadArrival (a0 a1 a2) : Statement (.secondTierReadArrival a0 a1 a2) :=
  ⟨rfl, fun _ => rfl, fun _ h => congrArg (Option.map _) h⟩
theorem ringCtlWrite (a0 a1 a2) : Statement (.ringCtlWrite a0 a1 a2) :=
  ⟨rfl, fun _ => rfl, fun _ h => congrArg (Option.map _) h⟩
theorem ringRestart (a0 a1 a2) : Statement (.ringRestart a0 a1 a2) :=
  ⟨rfl, fun _ => rfl, fun _ h => congrArg (Option.map _) h⟩
theorem ringBaseWrite (a0 a1 a2 a3) : Statement (.ringBaseWrite a0 a1 a2 a3) :=
  ⟨rfl, fun _ => rfl, fun _ h => congrArg (Option.map _) h⟩
theorem tailWriteCheck (a0) : Statement (.tailWriteCheck a0) :=
  ⟨rfl, fun _ => rfl, fun _ h => congrArg (Option.map _) h⟩
theorem feQpushPush (a0 a1 a2) : Statement (.feQpushPush a0 a1 a2) :=
  ⟨rfl, fun _ => rfl, fun _ h => congrArg (Option.map _) h⟩
theorem feQpushStop (a0 a1 a2) : Statement (.feQpushStop a0 a1 a2) :=
  ⟨rfl, fun _ => rfl, fun _ h => congrArg (Option.map _) h⟩
theorem queueSpaceFreed (a0) : Statement (.queueSpaceFreed a0) :=
  ⟨rfl, fun _ => rfl, fun _ h => congrArg (Option.map _) h⟩
theorem cmdNop (a0 a1) : Statement (.cmdNop a0 a1) :=
  ⟨rfl, fun _ => rfl, fun _ h => congrArg (Option.map _) h⟩
theorem cmdLaunchSlot (a0 a1) : Statement (.cmdLaunchSlot a0 a1) :=
  ⟨rfl, fun _ => rfl, fun _ h => congrArg (Option.map _) h⟩
theorem cmdGraphRun (a0 a1) : Statement (.cmdGraphRun a0 a1) :=
  ⟨rfl, fun _ => rfl, fun _ h => congrArg (Option.map _) h⟩
theorem cmdCoach (a0 a1) : Statement (.cmdCoach a0 a1) :=
  ⟨rfl, fun _ => rfl, fun _ h => congrArg (Option.map _) h⟩
theorem cmdCadd (a0 a1) : Statement (.cmdCadd a0 a1) :=
  ⟨rfl, fun _ => rfl, fun _ h => congrArg (Option.map _) h⟩
theorem cmdCwait (a0 a1) : Statement (.cmdCwait a0 a1) :=
  ⟨rfl, fun _ => rfl, fun _ h => congrArg (Option.map _) h⟩
theorem cmdSlotLoad (a0 a1) : Statement (.cmdSlotLoad a0 a1) :=
  ⟨rfl, fun _ => rfl, fun _ h => congrArg (Option.map _) h⟩
theorem slotLoadDone (a0 a1) : Statement (.slotLoadDone a0 a1) :=
  ⟨rfl, fun _ => rfl, fun _ h => congrArg (Option.map _) h⟩
theorem cmdSlotEvict (a0 a1) : Statement (.cmdSlotEvict a0 a1) :=
  ⟨rfl, fun _ => rfl, fun _ h => congrArg (Option.map _) h⟩
theorem slotEvictDone (a0 a1) : Statement (.slotEvictDone a0 a1) :=
  ⟨rfl, fun _ => rfl, fun _ h => congrArg (Option.map _) h⟩
theorem cmdMigrateFreeze (a0 a1) : Statement (.cmdMigrateFreeze a0 a1) :=
  ⟨rfl, fun _ => rfl, fun _ h => congrArg (Option.map _) h⟩
theorem cmdMigrateThaw (a0 a1) : Statement (.cmdMigrateThaw a0 a1) :=
  ⟨rfl, fun _ => rfl, fun _ h => congrArg (Option.map _) h⟩
theorem cmdQbar (a0 a1) : Statement (.cmdQbar a0 a1) :=
  ⟨rfl, fun _ => rfl, fun _ h => congrArg (Option.map _) h⟩
theorem cmdStamp (a0 a1) : Statement (.cmdStamp a0 a1) :=
  ⟨rfl, fun _ => rfl, fun _ h => congrArg (Option.map _) h⟩
theorem cmdWaitCancel (a0 a1) : Statement (.cmdWaitCancel a0 a1) :=
  ⟨rfl, fun _ => rfl, fun _ h => congrArg (Option.map _) h⟩
theorem completionPost (a0) : Statement (.completionPost a0) :=
  ⟨rfl, fun _ => rfl, fun _ h => congrArg (Option.map _) h⟩
theorem wdogCfgWrite (a0 a1 a2) : Statement (.wdogCfgWrite a0 a1 a2) :=
  ⟨rfl, fun _ => rfl, fun _ h => congrArg (Option.map _) h⟩
theorem wdogKick (a0 a1 a2) : Statement (.wdogKick a0 a1 a2) :=
  ⟨rfl, fun _ => rfl, fun _ h => congrArg (Option.map _) h⟩
theorem watchdogExpiry (a0) : Statement (.watchdogExpiry a0) :=
  ⟨rfl, fun _ => rfl, fun _ h => congrArg (Option.map _) h⟩
theorem t2CfgWrite (a0 a1) : Statement (.t2CfgWrite a0 a1) :=
  ⟨rfl, fun _ => rfl, fun _ h => congrArg (Option.map _) h⟩
theorem partCreate (a0 a1 a2) : Statement (.partCreate a0 a1 a2) :=
  ⟨rfl, fun _ => rfl, fun _ h => congrArg (Option.map _) h⟩
theorem partDestroy (a0 a1 a2) : Statement (.partDestroy a0 a1 a2) :=
  ⟨rfl, fun _ => rfl, fun _ h => congrArg (Option.map _) h⟩
theorem partBusyDone (a0) : Statement (.partBusyDone a0) :=
  ⟨rfl, fun _ => rfl, fun _ h => congrArg (Option.map _) h⟩
theorem schedCfgWrite (a0 a1 a2) : Statement (.schedCfgWrite a0 a1 a2) :=
  ⟨rfl, fun _ => rfl, fun _ h => congrArg (Option.map _) h⟩
theorem graphCapture (a0) : Statement (.graphCapture a0) :=
  ⟨rfl, fun _ => rfl, fun _ h => congrArg (Option.map _) h⟩
theorem nodeTaskIssue (a0) : Statement (.nodeTaskIssue a0) :=
  ⟨rfl, fun _ => rfl, fun _ h => congrArg (Option.map _) h⟩
theorem nodeCoachIssue (a0) : Statement (.nodeCoachIssue a0) :=
  ⟨rfl, fun _ => rfl, fun _ h => congrArg (Option.map _) h⟩
theorem nodeQbarIssue (a0) : Statement (.nodeQbarIssue a0) :=
  ⟨rfl, fun _ => rfl, fun _ h => congrArg (Option.map _) h⟩
theorem nodeNopIssue (a0) : Statement (.nodeNopIssue a0) :=
  ⟨rfl, fun _ => rfl, fun _ h => congrArg (Option.map _) h⟩
theorem nodeCancel (a0) : Statement (.nodeCancel a0) :=
  ⟨rfl, fun _ => rfl, fun _ h => congrArg (Option.map _) h⟩
theorem stepDrained (a0) : Statement (.stepDrained a0) :=
  ⟨rfl, fun _ => rfl, fun _ h => congrArg (Option.map _) h⟩
theorem sweepClose (a0) : Statement (.sweepClose a0) :=
  ⟨rfl, fun _ => rfl, fun _ h => congrArg (Option.map _) h⟩
theorem sweepReturn (a0) : Statement (.sweepReturn a0) :=
  ⟨rfl, fun _ => rfl, fun _ h => congrArg (Option.map _) h⟩
theorem taskStart (a0 a1) : Statement (.taskStart a0 a1) :=
  ⟨rfl, fun _ => rfl, fun _ h => congrArg (Option.map _) h⟩
theorem jobEnd (a0) : Statement (.jobEnd a0) :=
  ⟨rfl, fun _ => rfl, fun _ h => congrArg (Option.map _) h⟩
theorem taskEnd (a0 a1) : Statement (.taskEnd a0 a1) :=
  ⟨rfl, fun _ => rfl, fun _ h => congrArg (Option.map _) h⟩
theorem fatalContextError (a0 a1 a2) : Statement (.fatalContextError a0 a1 a2) :=
  ⟨rfl, fun _ => rfl, fun _ h => congrArg (Option.map _) h⟩
theorem quantumExpiry (a0) : Statement (.quantumExpiry a0) :=
  ⟨rfl, fun _ => rfl, fun _ h => congrArg (Option.map _) h⟩
theorem jobPreemptSave (a0) : Statement (.jobPreemptSave a0) :=
  ⟨rfl, fun _ => rfl, fun _ h => congrArg (Option.map _) h⟩
theorem jobRestore (a0 a1) : Statement (.jobRestore a0 a1) :=
  ⟨rfl, fun _ => rfl, fun _ h => congrArg (Option.map _) h⟩
theorem residencyChange (a0) : Statement (.residencyChange a0) :=
  ⟨rfl, fun _ => rfl, fun _ h => congrArg (Option.map _) h⟩
theorem proxyPortAccess (a0 a1 a2) : Statement (.proxyPortAccess a0 a1 a2) :=
  ⟨rfl, fun _ => rfl, fun _ h => congrArg (Option.map _) h⟩
theorem psbDelivery (a0) : Statement (.psbDelivery a0) :=
  ⟨rfl, fun _ => rfl, fun _ h => congrArg (Option.map _) h⟩
theorem deadlockFault (a0) : Statement (.deadlockFault a0) :=
  ⟨rfl, fun _ => rfl, fun _ h => congrArg (Option.map _) h⟩
theorem shadowConfigWrite (a0 a1 a2 a3) : Statement (.shadowConfigWrite a0 a1 a2 a3) :=
  ⟨rfl, fun _ => rfl, fun _ h => congrArg (Option.map _) h⟩
theorem ctxResume (a0 a1 a2) : Statement (.ctxResume a0 a1 a2) :=
  ⟨rfl, fun _ => rfl, fun _ h => congrArg (Option.map _) h⟩
theorem ptRootWrite (a0 a1 a2) : Statement (.ptRootWrite a0 a1 a2) :=
  ⟨rfl, fun _ => rfl, fun _ h => congrArg (Option.map _) h⟩
theorem invGo (a0 a1 a2) : Statement (.invGo a0 a1 a2) :=
  ⟨rfl, fun _ => rfl, fun _ h => congrArg (Option.map _) h⟩
theorem invDone (a0) : Statement (.invDone a0) :=
  ⟨rfl, fun _ => rfl, fun _ h => congrArg (Option.map _) h⟩
theorem phaseWriteback (a0) : Statement (.phaseWriteback a0) :=
  ⟨rfl, fun _ => rfl, fun _ h => congrArg (Option.map _) h⟩
theorem waitSatisfied (a0 a1) : Statement (.waitSatisfied a0 a1) :=
  ⟨rfl, fun _ => rfl, fun _ h => congrArg (Option.map _) h⟩
theorem waitaReevaluate (a0) : Statement (.waitaReevaluate a0) :=
  ⟨rfl, fun _ => rfl, fun _ h => congrArg (Option.map _) h⟩
theorem timedIssue (a0 a1) : Statement (.timedIssue a0 a1) :=
  ⟨rfl, fun _ => rfl, fun _ h => congrArg (Option.map _) h⟩
theorem exposedPipelineStall (a0 a1) : Statement (.exposedPipelineStall a0 a1) :=
  ⟨rfl, fun _ => rfl, fun _ h => congrArg (Option.map _) h⟩
theorem serviceEntry (a0 a1 a2) : Statement (.serviceEntry a0 a1 a2) :=
  ⟨rfl, fun _ => rfl, fun _ h => congrArg (Option.map _) h⟩
theorem serviceOpportunity (a0) : Statement (.serviceOpportunity a0) :=
  ⟨rfl, fun _ => rfl, fun _ h => congrArg (Option.map _) h⟩
theorem doubleFault (a0 a1) : Statement (.doubleFault a0 a1) :=
  ⟨rfl, fun _ => rfl, fun _ h => congrArg (Option.map _) h⟩
theorem cartCommandStart (a0 a1) : Statement (.cartCommandStart a0 a1) :=
  ⟨rfl, fun _ => rfl, fun _ h => congrArg (Option.map _) h⟩
theorem cartCommandComplete (a0 a1 a2) : Statement (.cartCommandComplete a0 a1 a2) :=
  ⟨rfl, fun _ => rfl, fun _ h => congrArg (Option.map _) h⟩
theorem cartCommandFail (a0 a1) : Statement (.cartCommandFail a0 a1) :=
  ⟨rfl, fun _ => rfl, fun _ h => congrArg (Option.map _) h⟩
theorem mfCommandComplete (a0 a1 a2) : Statement (.mfCommandComplete a0 a1 a2) :=
  ⟨rfl, fun _ => rfl, fun _ h => congrArg (Option.map _) h⟩
theorem mfAsyncFault (a0 a1 a2) : Statement (.mfAsyncFault a0 a1 a2) :=
  ⟨rfl, fun _ => rfl, fun _ h => congrArg (Option.map _) h⟩
theorem pairRendezvous (a0) : Statement (.pairRendezvous a0) :=
  ⟨rfl, fun _ => rfl, fun _ h => congrArg (Option.map _) h⟩
theorem rldResponse (a0 a1 a2) : Statement (.rldResponse a0 a1 a2) :=
  ⟨rfl, fun _ => rfl, fun _ h => congrArg (Option.map _) h⟩
theorem coachStepIssue (a0 a1 a2) : Statement (.coachStepIssue a0 a1 a2) :=
  ⟨rfl, fun _ => rfl, fun _ h => congrArg (Option.map _) h⟩
theorem coachStepSignal (a0 a1 a2) : Statement (.coachStepSignal a0 a1 a2) :=
  ⟨rfl, fun _ => rfl, fun _ h => congrArg (Option.map _) h⟩
theorem coachPairFail (a0 a1 a2 a3 a4) : Statement (.coachPairFail a0 a1 a2 a3 a4) :=
  ⟨rfl, fun _ => rfl, fun _ h => congrArg (Option.map _) h⟩
theorem heldAddApply (a0) : Statement (.heldAddApply a0) :=
  ⟨rfl, fun _ => rfl, fun _ h => congrArg (Option.map _) h⟩
theorem heldAddExpiry (a0 a1) : Statement (.heldAddExpiry a0 a1) :=
  ⟨rfl, fun _ => rfl, fun _ h => congrArg (Option.map _) h⟩
theorem sealEffectPoint (a0) : Statement (.sealEffectPoint a0) :=
  ⟨rfl, fun _ => rfl, fun _ h => congrArg (Option.map _) h⟩
theorem regWrite (a0 a1 a2) : Statement (.regWrite a0 a1 a2) :=
  ⟨rfl, fun _ => rfl, fun _ h => congrArg (Option.map _) h⟩
theorem nop (a0) : Statement (.nop a0) :=
  ⟨rfl, fun h => absurd h Bool.false_ne_true, fun _ h => congrArg (Option.map _) h⟩
theorem add (a0) : Statement (.add a0) :=
  ⟨rfl, fun h => absurd h Bool.false_ne_true, fun _ h => congrArg (Option.map _) h⟩
theorem sub (a0) : Statement (.sub a0) :=
  ⟨rfl, fun h => absurd h Bool.false_ne_true, fun _ h => congrArg (Option.map _) h⟩
theorem and (a0) : Statement (.and a0) :=
  ⟨rfl, fun h => absurd h Bool.false_ne_true, fun _ h => congrArg (Option.map _) h⟩
theorem or (a0) : Statement (.or a0) :=
  ⟨rfl, fun h => absurd h Bool.false_ne_true, fun _ h => congrArg (Option.map _) h⟩
theorem xor (a0) : Statement (.xor a0) :=
  ⟨rfl, fun h => absurd h Bool.false_ne_true, fun _ h => congrArg (Option.map _) h⟩
theorem andn (a0) : Statement (.andn a0) :=
  ⟨rfl, fun h => absurd h Bool.false_ne_true, fun _ h => congrArg (Option.map _) h⟩
theorem shl (a0) : Statement (.shl a0) :=
  ⟨rfl, fun h => absurd h Bool.false_ne_true, fun _ h => congrArg (Option.map _) h⟩
theorem shr (a0) : Statement (.shr a0) :=
  ⟨rfl, fun h => absurd h Bool.false_ne_true, fun _ h => congrArg (Option.map _) h⟩
theorem sar (a0) : Statement (.sar a0) :=
  ⟨rfl, fun h => absurd h Bool.false_ne_true, fun _ h => congrArg (Option.map _) h⟩
theorem rol (a0) : Statement (.rol a0) :=
  ⟨rfl, fun h => absurd h Bool.false_ne_true, fun _ h => congrArg (Option.map _) h⟩
theorem min (a0) : Statement (.min a0) :=
  ⟨rfl, fun h => absurd h Bool.false_ne_true, fun _ h => congrArg (Option.map _) h⟩
theorem max (a0) : Statement (.max a0) :=
  ⟨rfl, fun h => absurd h Bool.false_ne_true, fun _ h => congrArg (Option.map _) h⟩
theorem minu (a0) : Statement (.minu a0) :=
  ⟨rfl, fun h => absurd h Bool.false_ne_true, fun _ h => congrArg (Option.map _) h⟩
theorem maxu (a0) : Statement (.maxu a0) :=
  ⟨rfl, fun h => absurd h Bool.false_ne_true, fun _ h => congrArg (Option.map _) h⟩
theorem mul (a0) : Statement (.mul a0) :=
  ⟨rfl, fun h => absurd h Bool.false_ne_true, fun _ h => congrArg (Option.map _) h⟩
theorem mulh (a0) : Statement (.mulh a0) :=
  ⟨rfl, fun h => absurd h Bool.false_ne_true, fun _ h => congrArg (Option.map _) h⟩
theorem addi (a0) : Statement (.addi a0) :=
  ⟨rfl, fun h => absurd h Bool.false_ne_true, fun _ h => congrArg (Option.map _) h⟩
theorem subi (a0) : Statement (.subi a0) :=
  ⟨rfl, fun h => absurd h Bool.false_ne_true, fun _ h => congrArg (Option.map _) h⟩
theorem andi (a0) : Statement (.andi a0) :=
  ⟨rfl, fun h => absurd h Bool.false_ne_true, fun _ h => congrArg (Option.map _) h⟩
theorem ori (a0) : Statement (.ori a0) :=
  ⟨rfl, fun h => absurd h Bool.false_ne_true, fun _ h => congrArg (Option.map _) h⟩
theorem xori (a0) : Statement (.xori a0) :=
  ⟨rfl, fun h => absurd h Bool.false_ne_true, fun _ h => congrArg (Option.map _) h⟩
theorem andni (a0) : Statement (.andni a0) :=
  ⟨rfl, fun h => absurd h Bool.false_ne_true, fun _ h => congrArg (Option.map _) h⟩
theorem shli (a0) : Statement (.shli a0) :=
  ⟨rfl, fun h => absurd h Bool.false_ne_true, fun _ h => congrArg (Option.map _) h⟩
theorem shri (a0) : Statement (.shri a0) :=
  ⟨rfl, fun h => absurd h Bool.false_ne_true, fun _ h => congrArg (Option.map _) h⟩
theorem sari (a0) : Statement (.sari a0) :=
  ⟨rfl, fun h => absurd h Bool.false_ne_true, fun _ h => congrArg (Option.map _) h⟩
theorem roli (a0) : Statement (.roli a0) :=
  ⟨rfl, fun h => absurd h Bool.false_ne_true, fun _ h => congrArg (Option.map _) h⟩
theorem mini (a0) : Statement (.mini a0) :=
  ⟨rfl, fun h => absurd h Bool.false_ne_true, fun _ h => congrArg (Option.map _) h⟩
theorem maxi (a0) : Statement (.maxi a0) :=
  ⟨rfl, fun h => absurd h Bool.false_ne_true, fun _ h => congrArg (Option.map _) h⟩
theorem minui (a0) : Statement (.minui a0) :=
  ⟨rfl, fun h => absurd h Bool.false_ne_true, fun _ h => congrArg (Option.map _) h⟩
theorem maxui (a0) : Statement (.maxui a0) :=
  ⟨rfl, fun h => absurd h Bool.false_ne_true, fun _ h => congrArg (Option.map _) h⟩
theorem muli (a0) : Statement (.muli a0) :=
  ⟨rfl, fun h => absurd h Bool.false_ne_true, fun _ h => congrArg (Option.map _) h⟩
theorem mulhi (a0) : Statement (.mulhi a0) :=
  ⟨rfl, fun h => absurd h Bool.false_ne_true, fun _ h => congrArg (Option.map _) h⟩
theorem mulhu (a0) : Statement (.mulhu a0) :=
  ⟨rfl, fun h => absurd h Bool.false_ne_true, fun _ h => congrArg (Option.map _) h⟩
theorem div (a0) : Statement (.div a0) :=
  ⟨rfl, fun h => absurd h Bool.false_ne_true, fun _ h => congrArg (Option.map _) h⟩
theorem divu (a0) : Statement (.divu a0) :=
  ⟨rfl, fun h => absurd h Bool.false_ne_true, fun _ h => congrArg (Option.map _) h⟩
theorem rem (a0) : Statement (.rem a0) :=
  ⟨rfl, fun h => absurd h Bool.false_ne_true, fun _ h => congrArg (Option.map _) h⟩
theorem remu (a0) : Statement (.remu a0) :=
  ⟨rfl, fun h => absurd h Bool.false_ne_true, fun _ h => congrArg (Option.map _) h⟩
theorem cmpEq (a0) : Statement (.cmpEq a0) :=
  ⟨rfl, fun h => absurd h Bool.false_ne_true, fun _ h => congrArg (Option.map _) h⟩
theorem cmpNe (a0) : Statement (.cmpNe a0) :=
  ⟨rfl, fun h => absurd h Bool.false_ne_true, fun _ h => congrArg (Option.map _) h⟩
theorem cmpLt (a0) : Statement (.cmpLt a0) :=
  ⟨rfl, fun h => absurd h Bool.false_ne_true, fun _ h => congrArg (Option.map _) h⟩
theorem cmpLe (a0) : Statement (.cmpLe a0) :=
  ⟨rfl, fun h => absurd h Bool.false_ne_true, fun _ h => congrArg (Option.map _) h⟩
theorem cmpLtu (a0) : Statement (.cmpLtu a0) :=
  ⟨rfl, fun h => absurd h Bool.false_ne_true, fun _ h => congrArg (Option.map _) h⟩
theorem cmpLeu (a0) : Statement (.cmpLeu a0) :=
  ⟨rfl, fun h => absurd h Bool.false_ne_true, fun _ h => congrArg (Option.map _) h⟩
theorem cmpGt (a0) : Statement (.cmpGt a0) :=
  ⟨rfl, fun h => absurd h Bool.false_ne_true, fun _ h => congrArg (Option.map _) h⟩
theorem cmpGe (a0) : Statement (.cmpGe a0) :=
  ⟨rfl, fun h => absurd h Bool.false_ne_true, fun _ h => congrArg (Option.map _) h⟩
theorem cmpGtu (a0) : Statement (.cmpGtu a0) :=
  ⟨rfl, fun h => absurd h Bool.false_ne_true, fun _ h => congrArg (Option.map _) h⟩
theorem cmpGeu (a0) : Statement (.cmpGeu a0) :=
  ⟨rfl, fun h => absurd h Bool.false_ne_true, fun _ h => congrArg (Option.map _) h⟩
theorem cmpiEq (a0) : Statement (.cmpiEq a0) :=
  ⟨rfl, fun h => absurd h Bool.false_ne_true, fun _ h => congrArg (Option.map _) h⟩
theorem cmpiNe (a0) : Statement (.cmpiNe a0) :=
  ⟨rfl, fun h => absurd h Bool.false_ne_true, fun _ h => congrArg (Option.map _) h⟩
theorem cmpiLt (a0) : Statement (.cmpiLt a0) :=
  ⟨rfl, fun h => absurd h Bool.false_ne_true, fun _ h => congrArg (Option.map _) h⟩
theorem cmpiLe (a0) : Statement (.cmpiLe a0) :=
  ⟨rfl, fun h => absurd h Bool.false_ne_true, fun _ h => congrArg (Option.map _) h⟩
theorem cmpiLtu (a0) : Statement (.cmpiLtu a0) :=
  ⟨rfl, fun h => absurd h Bool.false_ne_true, fun _ h => congrArg (Option.map _) h⟩
theorem cmpiLeu (a0) : Statement (.cmpiLeu a0) :=
  ⟨rfl, fun h => absurd h Bool.false_ne_true, fun _ h => congrArg (Option.map _) h⟩
theorem cmpiGt (a0) : Statement (.cmpiGt a0) :=
  ⟨rfl, fun h => absurd h Bool.false_ne_true, fun _ h => congrArg (Option.map _) h⟩
theorem cmpiGe (a0) : Statement (.cmpiGe a0) :=
  ⟨rfl, fun h => absurd h Bool.false_ne_true, fun _ h => congrArg (Option.map _) h⟩
theorem cmpiGtu (a0) : Statement (.cmpiGtu a0) :=
  ⟨rfl, fun h => absurd h Bool.false_ne_true, fun _ h => congrArg (Option.map _) h⟩
theorem cmpiGeu (a0) : Statement (.cmpiGeu a0) :=
  ⟨rfl, fun h => absurd h Bool.false_ne_true, fun _ h => congrArg (Option.map _) h⟩
theorem movi (a0) : Statement (.movi a0) :=
  ⟨rfl, fun h => absurd h Bool.false_ne_true, fun _ h => congrArg (Option.map _) h⟩
theorem movhi (a0) : Statement (.movhi a0) :=
  ⟨rfl, fun h => absurd h Bool.false_ne_true, fun _ h => congrArg (Option.map _) h⟩
theorem clz (a0) : Statement (.clz a0) :=
  ⟨rfl, fun h => absurd h Bool.false_ne_true, fun _ h => congrArg (Option.map _) h⟩
theorem ctz (a0) : Statement (.ctz a0) :=
  ⟨rfl, fun h => absurd h Bool.false_ne_true, fun _ h => congrArg (Option.map _) h⟩
theorem popc (a0) : Statement (.popc a0) :=
  ⟨rfl, fun h => absurd h Bool.false_ne_true, fun _ h => congrArg (Option.map _) h⟩
theorem brev (a0) : Statement (.brev a0) :=
  ⟨rfl, fun h => absurd h Bool.false_ne_true, fun _ h => congrArg (Option.map _) h⟩
theorem bswap (a0) : Statement (.bswap a0) :=
  ⟨rfl, fun h => absurd h Bool.false_ne_true, fun _ h => congrArg (Option.map _) h⟩
theorem sext8 (a0) : Statement (.sext8 a0) :=
  ⟨rfl, fun h => absurd h Bool.false_ne_true, fun _ h => congrArg (Option.map _) h⟩
theorem sext16 (a0) : Statement (.sext16 a0) :=
  ⟨rfl, fun h => absurd h Bool.false_ne_true, fun _ h => congrArg (Option.map _) h⟩
theorem sext32 (a0) : Statement (.sext32 a0) :=
  ⟨rfl, fun h => absurd h Bool.false_ne_true, fun _ h => congrArg (Option.map _) h⟩
theorem zext8 (a0) : Statement (.zext8 a0) :=
  ⟨rfl, fun h => absurd h Bool.false_ne_true, fun _ h => congrArg (Option.map _) h⟩
theorem zext16 (a0) : Statement (.zext16 a0) :=
  ⟨rfl, fun h => absurd h Bool.false_ne_true, fun _ h => congrArg (Option.map _) h⟩
theorem zext32 (a0) : Statement (.zext32 a0) :=
  ⟨rfl, fun h => absurd h Bool.false_ne_true, fun _ h => congrArg (Option.map _) h⟩
theorem shadd (a0) : Statement (.shadd a0) :=
  ⟨rfl, fun h => absurd h Bool.false_ne_true, fun _ h => congrArg (Option.map _) h⟩
theorem alignup (a0) : Statement (.alignup a0) :=
  ⟨rfl, fun h => absurd h Bool.false_ne_true, fun _ h => congrArg (Option.map _) h⟩
theorem aligndn (a0) : Statement (.aligndn a0) :=
  ⟨rfl, fun h => absurd h Bool.false_ne_true, fun _ h => congrArg (Option.map _) h⟩
theorem mzip (a0) : Statement (.mzip a0) :=
  ⟨rfl, fun h => absurd h Bool.false_ne_true, fun _ h => congrArg (Option.map _) h⟩
theorem meven (a0) : Statement (.meven a0) :=
  ⟨rfl, fun h => absurd h Bool.false_ne_true, fun _ h => congrArg (Option.map _) h⟩
theorem modd (a0) : Statement (.modd a0) :=
  ⟨rfl, fun h => absurd h Bool.false_ne_true, fun _ h => congrArg (Option.map _) h⟩
theorem maddx (a0) : Statement (.maddx a0) :=
  ⟨rfl, fun h => absurd h Bool.false_ne_true, fun _ h => congrArg (Option.map _) h⟩
theorem maddy (a0) : Statement (.maddy a0) :=
  ⟨rfl, fun h => absurd h Bool.false_ne_true, fun _ h => congrArg (Option.map _) h⟩
theorem gand (a0) : Statement (.gand a0) :=
  ⟨rfl, fun h => absurd h Bool.false_ne_true, fun _ h => congrArg (Option.map _) h⟩
theorem gor (a0) : Statement (.gor a0) :=
  ⟨rfl, fun h => absurd h Bool.false_ne_true, fun _ h => congrArg (Option.map _) h⟩
theorem gxor (a0) : Statement (.gxor a0) :=
  ⟨rfl, fun h => absurd h Bool.false_ne_true, fun _ h => congrArg (Option.map _) h⟩
theorem gandn (a0) : Statement (.gandn a0) :=
  ⟨rfl, fun h => absurd h Bool.false_ne_true, fun _ h => congrArg (Option.map _) h⟩
theorem gset (a0) : Statement (.gset a0) :=
  ⟨rfl, fun h => absurd h Bool.false_ne_true, fun _ h => congrArg (Option.map _) h⟩
theorem gget (a0) : Statement (.gget a0) :=
  ⟨rfl, fun h => absurd h Bool.false_ne_true, fun _ h => congrArg (Option.map _) h⟩
theorem mov (a0) : Statement (.mov a0) :=
  ⟨rfl, fun h => absurd h Bool.false_ne_true, fun _ h => congrArg (Option.map _) h⟩
theorem sel (a0) : Statement (.sel a0) :=
  ⟨rfl, fun h => absurd h Bool.false_ne_true, fun _ h => congrArg (Option.map _) h⟩
theorem faddS (a0) : Statement (.faddS a0) :=
  ⟨rfl, fun h => absurd h Bool.false_ne_true, fun _ h => congrArg (Option.map _) h⟩
theorem fsubS (a0) : Statement (.fsubS a0) :=
  ⟨rfl, fun h => absurd h Bool.false_ne_true, fun _ h => congrArg (Option.map _) h⟩
theorem fmulS (a0) : Statement (.fmulS a0) :=
  ⟨rfl, fun h => absurd h Bool.false_ne_true, fun _ h => congrArg (Option.map _) h⟩
theorem fdivS (a0) : Statement (.fdivS a0) :=
  ⟨rfl, fun h => absurd h Bool.false_ne_true, fun _ h => congrArg (Option.map _) h⟩
theorem fsqrtS (a0) : Statement (.fsqrtS a0) :=
  ⟨rfl, fun h => absurd h Bool.false_ne_true, fun _ h => congrArg (Option.map _) h⟩
theorem fminS (a0) : Statement (.fminS a0) :=
  ⟨rfl, fun h => absurd h Bool.false_ne_true, fun _ h => congrArg (Option.map _) h⟩
theorem fmaxS (a0) : Statement (.fmaxS a0) :=
  ⟨rfl, fun h => absurd h Bool.false_ne_true, fun _ h => congrArg (Option.map _) h⟩
theorem fmaS (a0) : Statement (.fmaS a0) :=
  ⟨rfl, fun h => absurd h Bool.false_ne_true, fun _ h => congrArg (Option.map _) h⟩
theorem fmsS (a0) : Statement (.fmsS a0) :=
  ⟨rfl, fun h => absurd h Bool.false_ne_true, fun _ h => congrArg (Option.map _) h⟩
theorem fnmaS (a0) : Statement (.fnmaS a0) :=
  ⟨rfl, fun h => absurd h Bool.false_ne_true, fun _ h => congrArg (Option.map _) h⟩
theorem fabsS (a0) : Statement (.fabsS a0) :=
  ⟨rfl, fun h => absurd h Bool.false_ne_true, fun _ h => congrArg (Option.map _) h⟩
theorem fnegS (a0) : Statement (.fnegS a0) :=
  ⟨rfl, fun h => absurd h Bool.false_ne_true, fun _ h => congrArg (Option.map _) h⟩
theorem faddD (a0) : Statement (.faddD a0) :=
  ⟨rfl, fun h => absurd h Bool.false_ne_true, fun _ h => congrArg (Option.map _) h⟩
theorem fsubD (a0) : Statement (.fsubD a0) :=
  ⟨rfl, fun h => absurd h Bool.false_ne_true, fun _ h => congrArg (Option.map _) h⟩
theorem fmulD (a0) : Statement (.fmulD a0) :=
  ⟨rfl, fun h => absurd h Bool.false_ne_true, fun _ h => congrArg (Option.map _) h⟩
theorem fdivD (a0) : Statement (.fdivD a0) :=
  ⟨rfl, fun h => absurd h Bool.false_ne_true, fun _ h => congrArg (Option.map _) h⟩
theorem fsqrtD (a0) : Statement (.fsqrtD a0) :=
  ⟨rfl, fun h => absurd h Bool.false_ne_true, fun _ h => congrArg (Option.map _) h⟩
theorem fminD (a0) : Statement (.fminD a0) :=
  ⟨rfl, fun h => absurd h Bool.false_ne_true, fun _ h => congrArg (Option.map _) h⟩
theorem fmaxD (a0) : Statement (.fmaxD a0) :=
  ⟨rfl, fun h => absurd h Bool.false_ne_true, fun _ h => congrArg (Option.map _) h⟩
theorem fmaD (a0) : Statement (.fmaD a0) :=
  ⟨rfl, fun h => absurd h Bool.false_ne_true, fun _ h => congrArg (Option.map _) h⟩
theorem fmsD (a0) : Statement (.fmsD a0) :=
  ⟨rfl, fun h => absurd h Bool.false_ne_true, fun _ h => congrArg (Option.map _) h⟩
theorem fnmaD (a0) : Statement (.fnmaD a0) :=
  ⟨rfl, fun h => absurd h Bool.false_ne_true, fun _ h => congrArg (Option.map _) h⟩
theorem fabsD (a0) : Statement (.fabsD a0) :=
  ⟨rfl, fun h => absurd h Bool.false_ne_true, fun _ h => congrArg (Option.map _) h⟩
theorem fnegD (a0) : Statement (.fnegD a0) :=
  ⟨rfl, fun h => absurd h Bool.false_ne_true, fun _ h => congrArg (Option.map _) h⟩
theorem fcmpEq (a0) : Statement (.fcmpEq a0) :=
  ⟨rfl, fun h => absurd h Bool.false_ne_true, fun _ h => congrArg (Option.map _) h⟩
theorem fcmpLt (a0) : Statement (.fcmpLt a0) :=
  ⟨rfl, fun h => absurd h Bool.false_ne_true, fun _ h => congrArg (Option.map _) h⟩
theorem fcmpLe (a0) : Statement (.fcmpLe a0) :=
  ⟨rfl, fun h => absurd h Bool.false_ne_true, fun _ h => congrArg (Option.map _) h⟩
theorem fcmpUn (a0) : Statement (.fcmpUn a0) :=
  ⟨rfl, fun h => absurd h Bool.false_ne_true, fun _ h => congrArg (Option.map _) h⟩
theorem fcvtSD (a0) : Statement (.fcvtSD a0) :=
  ⟨rfl, fun h => absurd h Bool.false_ne_true, fun _ h => congrArg (Option.map _) h⟩
theorem fcvtDS (a0) : Statement (.fcvtDS a0) :=
  ⟨rfl, fun h => absurd h Bool.false_ne_true, fun _ h => congrArg (Option.map _) h⟩
theorem fcvtSL (a0) : Statement (.fcvtSL a0) :=
  ⟨rfl, fun h => absurd h Bool.false_ne_true, fun _ h => congrArg (Option.map _) h⟩
theorem fcvtDL (a0) : Statement (.fcvtDL a0) :=
  ⟨rfl, fun h => absurd h Bool.false_ne_true, fun _ h => congrArg (Option.map _) h⟩
theorem fcvtSLu (a0) : Statement (.fcvtSLu a0) :=
  ⟨rfl, fun h => absurd h Bool.false_ne_true, fun _ h => congrArg (Option.map _) h⟩
theorem fcvtDLu (a0) : Statement (.fcvtDLu a0) :=
  ⟨rfl, fun h => absurd h Bool.false_ne_true, fun _ h => congrArg (Option.map _) h⟩
theorem fcvtLS (a0) : Statement (.fcvtLS a0) :=
  ⟨rfl, fun h => absurd h Bool.false_ne_true, fun _ h => congrArg (Option.map _) h⟩
theorem fcvtLD (a0) : Statement (.fcvtLD a0) :=
  ⟨rfl, fun h => absurd h Bool.false_ne_true, fun _ h => congrArg (Option.map _) h⟩
theorem fcvtLuS (a0) : Statement (.fcvtLuS a0) :=
  ⟨rfl, fun h => absurd h Bool.false_ne_true, fun _ h => congrArg (Option.map _) h⟩
theorem fcvtLuD (a0) : Statement (.fcvtLuD a0) :=
  ⟨rfl, fun h => absurd h Bool.false_ne_true, fun _ h => congrArg (Option.map _) h⟩
theorem fcvtBS (a0) : Statement (.fcvtBS a0) :=
  ⟨rfl, fun h => absurd h Bool.false_ne_true, fun _ h => congrArg (Option.map _) h⟩
theorem fcvtHS (a0) : Statement (.fcvtHS a0) :=
  ⟨rfl, fun h => absurd h Bool.false_ne_true, fun _ h => congrArg (Option.map _) h⟩
theorem fcvtSB (a0) : Statement (.fcvtSB a0) :=
  ⟨rfl, fun h => absurd h Bool.false_ne_true, fun _ h => congrArg (Option.map _) h⟩
theorem fcvtSH (a0) : Statement (.fcvtSH a0) :=
  ⟨rfl, fun h => absurd h Bool.false_ne_true, fun _ h => congrArg (Option.map _) h⟩
theorem ldB (a0) : Statement (.ldB a0) :=
  ⟨rfl, fun h => absurd h Bool.false_ne_true, fun _ h => congrArg (Option.map _) h⟩
theorem ldBu (a0) : Statement (.ldBu a0) :=
  ⟨rfl, fun h => absurd h Bool.false_ne_true, fun _ h => congrArg (Option.map _) h⟩
theorem ldH (a0) : Statement (.ldH a0) :=
  ⟨rfl, fun h => absurd h Bool.false_ne_true, fun _ h => congrArg (Option.map _) h⟩
theorem ldHu (a0) : Statement (.ldHu a0) :=
  ⟨rfl, fun h => absurd h Bool.false_ne_true, fun _ h => congrArg (Option.map _) h⟩
theorem ldW (a0) : Statement (.ldW a0) :=
  ⟨rfl, fun h => absurd h Bool.false_ne_true, fun _ h => congrArg (Option.map _) h⟩
theorem ldWu (a0) : Statement (.ldWu a0) :=
  ⟨rfl, fun h => absurd h Bool.false_ne_true, fun _ h => congrArg (Option.map _) h⟩
theorem ldD (a0) : Statement (.ldD a0) :=
  ⟨rfl, fun h => absurd h Bool.false_ne_true, fun _ h => congrArg (Option.map _) h⟩
theorem stB (a0) : Statement (.stB a0) :=
  ⟨rfl, fun h => absurd h Bool.false_ne_true, fun _ h => congrArg (Option.map _) h⟩
theorem stH (a0) : Statement (.stH a0) :=
  ⟨rfl, fun h => absurd h Bool.false_ne_true, fun _ h => congrArg (Option.map _) h⟩
theorem stW (a0) : Statement (.stW a0) :=
  ⟨rfl, fun h => absurd h Bool.false_ne_true, fun _ h => congrArg (Option.map _) h⟩
theorem stD (a0) : Statement (.stD a0) :=
  ⟨rfl, fun h => absurd h Bool.false_ne_true, fun _ h => congrArg (Option.map _) h⟩
theorem ldspB (a0) : Statement (.ldspB a0) :=
  ⟨rfl, fun h => absurd h Bool.false_ne_true, fun _ h => congrArg (Option.map _) h⟩
theorem ldspBu (a0) : Statement (.ldspBu a0) :=
  ⟨rfl, fun h => absurd h Bool.false_ne_true, fun _ h => congrArg (Option.map _) h⟩
theorem ldspH (a0) : Statement (.ldspH a0) :=
  ⟨rfl, fun h => absurd h Bool.false_ne_true, fun _ h => congrArg (Option.map _) h⟩
theorem ldspHu (a0) : Statement (.ldspHu a0) :=
  ⟨rfl, fun h => absurd h Bool.false_ne_true, fun _ h => congrArg (Option.map _) h⟩
theorem ldspW (a0) : Statement (.ldspW a0) :=
  ⟨rfl, fun h => absurd h Bool.false_ne_true, fun _ h => congrArg (Option.map _) h⟩
theorem ldspWu (a0) : Statement (.ldspWu a0) :=
  ⟨rfl, fun h => absurd h Bool.false_ne_true, fun _ h => congrArg (Option.map _) h⟩
theorem ldspD (a0) : Statement (.ldspD a0) :=
  ⟨rfl, fun h => absurd h Bool.false_ne_true, fun _ h => congrArg (Option.map _) h⟩
theorem stspB (a0) : Statement (.stspB a0) :=
  ⟨rfl, fun h => absurd h Bool.false_ne_true, fun _ h => congrArg (Option.map _) h⟩
theorem stspH (a0) : Statement (.stspH a0) :=
  ⟨rfl, fun h => absurd h Bool.false_ne_true, fun _ h => congrArg (Option.map _) h⟩
theorem stspW (a0) : Statement (.stspW a0) :=
  ⟨rfl, fun h => absurd h Bool.false_ne_true, fun _ h => congrArg (Option.map _) h⟩
theorem stspD (a0) : Statement (.stspD a0) :=
  ⟨rfl, fun h => absurd h Bool.false_ne_true, fun _ h => congrArg (Option.map _) h⟩
theorem rldB (a0) : Statement (.rldB a0) :=
  ⟨rfl, fun h => absurd h Bool.false_ne_true, fun _ h => congrArg (Option.map _) h⟩
theorem rldBu (a0) : Statement (.rldBu a0) :=
  ⟨rfl, fun h => absurd h Bool.false_ne_true, fun _ h => congrArg (Option.map _) h⟩
theorem rldH (a0) : Statement (.rldH a0) :=
  ⟨rfl, fun h => absurd h Bool.false_ne_true, fun _ h => congrArg (Option.map _) h⟩
theorem rldHu (a0) : Statement (.rldHu a0) :=
  ⟨rfl, fun h => absurd h Bool.false_ne_true, fun _ h => congrArg (Option.map _) h⟩
theorem rldW (a0) : Statement (.rldW a0) :=
  ⟨rfl, fun h => absurd h Bool.false_ne_true, fun _ h => congrArg (Option.map _) h⟩
theorem rldWu (a0) : Statement (.rldWu a0) :=
  ⟨rfl, fun h => absurd h Bool.false_ne_true, fun _ h => congrArg (Option.map _) h⟩
theorem rldD (a0) : Statement (.rldD a0) :=
  ⟨rfl, fun h => absurd h Bool.false_ne_true, fun _ h => congrArg (Option.map _) h⟩
theorem atomAdd (a0) : Statement (.atomAdd a0) :=
  ⟨rfl, fun h => absurd h Bool.false_ne_true, fun _ h => congrArg (Option.map _) h⟩
theorem atomAnd (a0) : Statement (.atomAnd a0) :=
  ⟨rfl, fun h => absurd h Bool.false_ne_true, fun _ h => congrArg (Option.map _) h⟩
theorem atomOr (a0) : Statement (.atomOr a0) :=
  ⟨rfl, fun h => absurd h Bool.false_ne_true, fun _ h => congrArg (Option.map _) h⟩
theorem atomXor (a0) : Statement (.atomXor a0) :=
  ⟨rfl, fun h => absurd h Bool.false_ne_true, fun _ h => congrArg (Option.map _) h⟩
theorem atomMin (a0) : Statement (.atomMin a0) :=
  ⟨rfl, fun h => absurd h Bool.false_ne_true, fun _ h => congrArg (Option.map _) h⟩
theorem atomMax (a0) : Statement (.atomMax a0) :=
  ⟨rfl, fun h => absurd h Bool.false_ne_true, fun _ h => congrArg (Option.map _) h⟩
theorem atomMinu (a0) : Statement (.atomMinu a0) :=
  ⟨rfl, fun h => absurd h Bool.false_ne_true, fun _ h => congrArg (Option.map _) h⟩
theorem atomMaxu (a0) : Statement (.atomMaxu a0) :=
  ⟨rfl, fun h => absurd h Bool.false_ne_true, fun _ h => congrArg (Option.map _) h⟩
theorem atomSwap (a0) : Statement (.atomSwap a0) :=
  ⟨rfl, fun h => absurd h Bool.false_ne_true, fun _ h => congrArg (Option.map _) h⟩
theorem atomCas (a0) : Statement (.atomCas a0) :=
  ⟨rfl, fun h => absurd h Bool.false_ne_true, fun _ h => congrArg (Option.map _) h⟩
theorem br (a0) : Statement (.br a0) :=
  ⟨rfl, fun h => absurd h Bool.false_ne_true, fun _ h => congrArg (Option.map _) h⟩
theorem call (a0) : Statement (.call a0) :=
  ⟨rfl, fun h => absurd h Bool.false_ne_true, fun _ h => congrArg (Option.map _) h⟩
theorem jr (a0) : Statement (.jr a0) :=
  ⟨rfl, fun h => absurd h Bool.false_ne_true, fun _ h => congrArg (Option.map _) h⟩
theorem loop (a0) : Statement (.loop a0) :=
  ⟨rfl, fun h => absurd h Bool.false_ne_true, fun _ h => congrArg (Option.map _) h⟩
theorem beos (a0) : Statement (.beos a0) :=
  ⟨rfl, fun h => absurd h Bool.false_ne_true, fun _ h => congrArg (Option.map _) h⟩
theorem join (a0) : Statement (.join a0) :=
  ⟨rfl, fun h => absurd h Bool.false_ne_true, fun _ h => congrArg (Option.map _) h⟩
theorem halt (a0) : Statement (.halt a0) :=
  ⟨rfl, fun h => absurd h Bool.false_ne_true, fun _ h => congrArg (Option.map _) h⟩
theorem yield (a0) : Statement (.yield a0) :=
  ⟨rfl, fun h => absurd h Bool.false_ne_true, fun _ h => congrArg (Option.map _) h⟩
theorem svc (a0) : Statement (.svc a0) :=
  ⟨rfl, fun h => absurd h Bool.false_ne_true, fun _ h => congrArg (Option.map _) h⟩
theorem eret (a0) : Statement (.eret a0) :=
  ⟨rfl, fun h => absurd h Bool.false_ne_true, fun _ h => congrArg (Option.map _) h⟩
theorem cadd (a0) : Statement (.cadd a0) :=
  ⟨rfl, fun h => absurd h Bool.false_ne_true, fun _ h => congrArg (Option.map _) h⟩
theorem caddi (a0) : Statement (.caddi a0) :=
  ⟨rfl, fun h => absurd h Bool.false_ne_true, fun _ h => congrArg (Option.map _) h⟩
theorem cwait (a0) : Statement (.cwait a0) :=
  ⟨rfl, fun h => absurd h Bool.false_ne_true, fun _ h => congrArg (Option.map _) h⟩
theorem crd (a0) : Statement (.crd a0) :=
  ⟨rfl, fun h => absurd h Bool.false_ne_true, fun _ h => congrArg (Option.map _) h⟩
theorem cinit (a0) : Statement (.cinit a0) :=
  ⟨rfl, fun h => absurd h Bool.false_ne_true, fun _ h => congrArg (Option.map _) h⟩
theorem caddM (a0) : Statement (.caddM a0) :=
  ⟨rfl, fun h => absurd h Bool.false_ne_true, fun _ h => congrArg (Option.map _) h⟩
theorem cwaitM (a0) : Statement (.cwaitM a0) :=
  ⟨rfl, fun h => absurd h Bool.false_ne_true, fun _ h => congrArg (Option.map _) h⟩
theorem waita (a0) : Statement (.waita a0) :=
  ⟨rfl, fun h => absurd h Bool.false_ne_true, fun _ h => congrArg (Option.map _) h⟩
theorem fenceRel (a0) : Statement (.fenceRel a0) :=
  ⟨rfl, fun h => absurd h Bool.false_ne_true, fun _ h => congrArg (Option.map _) h⟩
theorem fenceAcq (a0) : Statement (.fenceAcq a0) :=
  ⟨rfl, fun h => absurd h Bool.false_ne_true, fun _ h => congrArg (Option.map _) h⟩
theorem fenceAr (a0) : Statement (.fenceAr a0) :=
  ⟨rfl, fun h => absurd h Bool.false_ne_true, fun _ h => congrArg (Option.map _) h⟩
theorem sealRange (a0) : Statement (.sealRange a0) :=
  ⟨rfl, fun h => absurd h Bool.false_ne_true, fun _ h => congrArg (Option.map _) h⟩
theorem unsealRange (a0) : Statement (.unsealRange a0) :=
  ⟨rfl, fun h => absurd h Bool.false_ne_true, fun _ h => congrArg (Option.map _) h⟩
theorem qbar (a0) : Statement (.qbar a0) :=
  ⟨rfl, fun h => absurd h Bool.false_ne_true, fun _ h => congrArg (Option.map _) h⟩
theorem dqpush (a0) : Statement (.dqpush a0) :=
  ⟨rfl, fun h => absurd h Bool.false_ne_true, fun _ h => congrArg (Option.map _) h⟩
theorem dqpop (a0) : Statement (.dqpop a0) :=
  ⟨rfl, fun h => absurd h Bool.false_ne_true, fun _ h => congrArg (Option.map _) h⟩
theorem dqsteal (a0) : Statement (.dqsteal a0) :=
  ⟨rfl, fun h => absurd h Bool.false_ne_true, fun _ h => congrArg (Option.map _) h⟩
theorem dqlen (a0) : Statement (.dqlen a0) :=
  ⟨rfl, fun h => absurd h Bool.false_ne_true, fun _ h => congrArg (Option.map _) h⟩
theorem launch (a0) : Statement (.launch a0) :=
  ⟨rfl, fun h => absurd h Bool.false_ne_true, fun _ h => congrArg (Option.map _) h⟩
theorem launchT (a0) : Statement (.launchT a0) :=
  ⟨rfl, fun h => absurd h Bool.false_ne_true, fun _ h => congrArg (Option.map _) h⟩
theorem xpose (a0) : Statement (.xpose a0) :=
  ⟨rfl, fun h => absurd h Bool.false_ne_true, fun _ h => congrArg (Option.map _) h⟩
theorem csrr (a0) : Statement (.csrr a0) :=
  ⟨rfl, fun h => absurd h Bool.false_ne_true, fun _ h => congrArg (Option.map _) h⟩
theorem csrw (a0) : Statement (.csrw a0) :=
  ⟨rfl, fun h => absurd h Bool.false_ne_true, fun _ h => congrArg (Option.map _) h⟩
theorem csrs (a0) : Statement (.csrs a0) :=
  ⟨rfl, fun h => absurd h Bool.false_ne_true, fun _ h => congrArg (Option.map _) h⟩
theorem csrc (a0) : Statement (.csrc a0) :=
  ⟨rfl, fun h => absurd h Bool.false_ne_true, fun _ h => congrArg (Option.map _) h⟩
theorem rprobe (a0) : Statement (.rprobe a0) :=
  ⟨rfl, fun h => absurd h Bool.false_ne_true, fun _ h => congrArg (Option.map _) h⟩
theorem rttld (a0) : Statement (.rttld a0) :=
  ⟨rfl, fun h => absurd h Bool.false_ne_true, fun _ h => congrArg (Option.map _) h⟩
theorem pbind (a0) : Statement (.pbind a0) :=
  ⟨rfl, fun h => absurd h Bool.false_ne_true, fun _ h => congrArg (Option.map _) h⟩
theorem punbind (a0) : Statement (.punbind a0) :=
  ⟨rfl, fun h => absurd h Bool.false_ne_true, fun _ h => congrArg (Option.map _) h⟩
theorem ppos (a0) : Statement (.ppos a0) :=
  ⟨rfl, fun h => absurd h Bool.false_ne_true, fun _ h => congrArg (Option.map _) h⟩
theorem tcfg (a0) : Statement (.tcfg a0) :=
  ⟨rfl, fun h => absurd h Bool.false_ne_true, fun _ h => congrArg (Option.map _) h⟩
theorem tcfgZ (a0) : Statement (.tcfgZ a0) :=
  ⟨rfl, fun h => absurd h Bool.false_ne_true, fun _ h => congrArg (Option.map _) h⟩
theorem tval (a0) : Statement (.tval a0) :=
  ⟨rfl, fun h => absurd h Bool.false_ne_true, fun _ h => congrArg (Option.map _) h⟩
theorem tdesc (a0) : Statement (.tdesc a0) :=
  ⟨rfl, fun h => absurd h Bool.false_ne_true, fun _ h => congrArg (Option.map _) h⟩
theorem tld (a0) : Statement (.tld a0) :=
  ⟨rfl, fun h => absurd h Bool.false_ne_true, fun _ h => congrArg (Option.map _) h⟩
theorem tst (a0) : Statement (.tst a0) :=
  ⟨rfl, fun h => absurd h Bool.false_ne_true, fun _ h => congrArg (Option.map _) h⟩
theorem tadd (a0) : Statement (.tadd a0) :=
  ⟨rfl, fun h => absurd h Bool.false_ne_true, fun _ h => congrArg (Option.map _) h⟩
theorem tsub (a0) : Statement (.tsub a0) :=
  ⟨rfl, fun h => absurd h Bool.false_ne_true, fun _ h => congrArg (Option.map _) h⟩
theorem tmul (a0) : Statement (.tmul a0) :=
  ⟨rfl, fun h => absurd h Bool.false_ne_true, fun _ h => congrArg (Option.map _) h⟩
theorem tdiv (a0) : Statement (.tdiv a0) :=
  ⟨rfl, fun h => absurd h Bool.false_ne_true, fun _ h => congrArg (Option.map _) h⟩
theorem tmin (a0) : Statement (.tmin a0) :=
  ⟨rfl, fun h => absurd h Bool.false_ne_true, fun _ h => congrArg (Option.map _) h⟩
theorem tmax (a0) : Statement (.tmax a0) :=
  ⟨rfl, fun h => absurd h Bool.false_ne_true, fun _ h => congrArg (Option.map _) h⟩
theorem tand (a0) : Statement (.tand a0) :=
  ⟨rfl, fun h => absurd h Bool.false_ne_true, fun _ h => congrArg (Option.map _) h⟩
theorem tor (a0) : Statement (.tor a0) :=
  ⟨rfl, fun h => absurd h Bool.false_ne_true, fun _ h => congrArg (Option.map _) h⟩
theorem txor (a0) : Statement (.txor a0) :=
  ⟨rfl, fun h => absurd h Bool.false_ne_true, fun _ h => congrArg (Option.map _) h⟩
theorem tshl (a0) : Statement (.tshl a0) :=
  ⟨rfl, fun h => absurd h Bool.false_ne_true, fun _ h => congrArg (Option.map _) h⟩
theorem tshr (a0) : Statement (.tshr a0) :=
  ⟨rfl, fun h => absurd h Bool.false_ne_true, fun _ h => congrArg (Option.map _) h⟩
theorem tabsd (a0) : Statement (.tabsd a0) :=
  ⟨rfl, fun h => absurd h Bool.false_ne_true, fun _ h => congrArg (Option.map _) h⟩
theorem tfma (a0) : Statement (.tfma a0) :=
  ⟨rfl, fun h => absurd h Bool.false_ne_true, fun _ h => congrArg (Option.map _) h⟩
theorem tfms (a0) : Statement (.tfms a0) :=
  ⟨rfl, fun h => absurd h Bool.false_ne_true, fun _ h => congrArg (Option.map _) h⟩
theorem tfnma (a0) : Statement (.tfnma a0) :=
  ⟨rfl, fun h => absurd h Bool.false_ne_true, fun _ h => congrArg (Option.map _) h⟩
theorem tsel (a0) : Statement (.tsel a0) :=
  ⟨rfl, fun h => absurd h Bool.false_ne_true, fun _ h => congrArg (Option.map _) h⟩
theorem tabs (a0) : Statement (.tabs a0) :=
  ⟨rfl, fun h => absurd h Bool.false_ne_true, fun _ h => congrArg (Option.map _) h⟩
theorem tneg (a0) : Statement (.tneg a0) :=
  ⟨rfl, fun h => absurd h Bool.false_ne_true, fun _ h => congrArg (Option.map _) h⟩
theorem tsqrt (a0) : Statement (.tsqrt a0) :=
  ⟨rfl, fun h => absurd h Bool.false_ne_true, fun _ h => congrArg (Option.map _) h⟩
theorem trcp (a0) : Statement (.trcp a0) :=
  ⟨rfl, fun h => absurd h Bool.false_ne_true, fun _ h => congrArg (Option.map _) h⟩
theorem trsq (a0) : Statement (.trsq a0) :=
  ⟨rfl, fun h => absurd h Bool.false_ne_true, fun _ h => congrArg (Option.map _) h⟩
theorem texp2 (a0) : Statement (.texp2 a0) :=
  ⟨rfl, fun h => absurd h Bool.false_ne_true, fun _ h => congrArg (Option.map _) h⟩
theorem texp (a0) : Statement (.texp a0) :=
  ⟨rfl, fun h => absurd h Bool.false_ne_true, fun _ h => congrArg (Option.map _) h⟩
theorem tlog2 (a0) : Statement (.tlog2 a0) :=
  ⟨rfl, fun h => absurd h Bool.false_ne_true, fun _ h => congrArg (Option.map _) h⟩
theorem tln (a0) : Statement (.tln a0) :=
  ⟨rfl, fun h => absurd h Bool.false_ne_true, fun _ h => congrArg (Option.map _) h⟩
theorem tsin (a0) : Statement (.tsin a0) :=
  ⟨rfl, fun h => absurd h Bool.false_ne_true, fun _ h => congrArg (Option.map _) h⟩
theorem tcos (a0) : Statement (.tcos a0) :=
  ⟨rfl, fun h => absurd h Bool.false_ne_true, fun _ h => congrArg (Option.map _) h⟩
theorem ttanh (a0) : Statement (.ttanh a0) :=
  ⟨rfl, fun h => absurd h Bool.false_ne_true, fun _ h => congrArg (Option.map _) h⟩
theorem tsigm (a0) : Statement (.tsigm a0) :=
  ⟨rfl, fun h => absurd h Bool.false_ne_true, fun _ h => congrArg (Option.map _) h⟩
theorem tcmpEq (a0) : Statement (.tcmpEq a0) :=
  ⟨rfl, fun h => absurd h Bool.false_ne_true, fun _ h => congrArg (Option.map _) h⟩
theorem tcmpNe (a0) : Statement (.tcmpNe a0) :=
  ⟨rfl, fun h => absurd h Bool.false_ne_true, fun _ h => congrArg (Option.map _) h⟩
theorem tcmpLt (a0) : Statement (.tcmpLt a0) :=
  ⟨rfl, fun h => absurd h Bool.false_ne_true, fun _ h => congrArg (Option.map _) h⟩
theorem tcmpLe (a0) : Statement (.tcmpLe a0) :=
  ⟨rfl, fun h => absurd h Bool.false_ne_true, fun _ h => congrArg (Option.map _) h⟩
theorem tcmpGt (a0) : Statement (.tcmpGt a0) :=
  ⟨rfl, fun h => absurd h Bool.false_ne_true, fun _ h => congrArg (Option.map _) h⟩
theorem tcmpGe (a0) : Statement (.tcmpGe a0) :=
  ⟨rfl, fun h => absurd h Bool.false_ne_true, fun _ h => congrArg (Option.map _) h⟩
theorem tcmpUn (a0) : Statement (.tcmpUn a0) :=
  ⟨rfl, fun h => absurd h Bool.false_ne_true, fun _ h => congrArg (Option.map _) h⟩
theorem tcmul (a0) : Statement (.tcmul a0) :=
  ⟨rfl, fun h => absurd h Bool.false_ne_true, fun _ h => congrArg (Option.map _) h⟩
theorem tconj (a0) : Statement (.tconj a0) :=
  ⟨rfl, fun h => absurd h Bool.false_ne_true, fun _ h => congrArg (Option.map _) h⟩
theorem tcmulc (a0) : Statement (.tcmulc a0) :=
  ⟨rfl, fun h => absurd h Bool.false_ne_true, fun _ h => congrArg (Option.map _) h⟩
theorem tcvt (a0) : Statement (.tcvt a0) :=
  ⟨rfl, fun h => absurd h Bool.false_ne_true, fun _ h => congrArg (Option.map _) h⟩
theorem tcvtSc (a0) : Statement (.tcvtSc a0) :=
  ⟨rfl, fun h => absurd h Bool.false_ne_true, fun _ h => congrArg (Option.map _) h⟩
theorem tdq (a0) : Statement (.tdq a0) :=
  ⟨rfl, fun h => absurd h Bool.false_ne_true, fun _ h => congrArg (Option.map _) h⟩
theorem trsum (a0) : Statement (.trsum a0) :=
  ⟨rfl, fun h => absurd h Bool.false_ne_true, fun _ h => congrArg (Option.map _) h⟩
theorem trmax (a0) : Statement (.trmax a0) :=
  ⟨rfl, fun h => absurd h Bool.false_ne_true, fun _ h => congrArg (Option.map _) h⟩
theorem trmin (a0) : Statement (.trmin a0) :=
  ⟨rfl, fun h => absurd h Bool.false_ne_true, fun _ h => congrArg (Option.map _) h⟩
theorem tcsum (a0) : Statement (.tcsum a0) :=
  ⟨rfl, fun h => absurd h Bool.false_ne_true, fun _ h => congrArg (Option.map _) h⟩
theorem tcmax (a0) : Statement (.tcmax a0) :=
  ⟨rfl, fun h => absurd h Bool.false_ne_true, fun _ h => congrArg (Option.map _) h⟩
theorem tcmin (a0) : Statement (.tcmin a0) :=
  ⟨rfl, fun h => absurd h Bool.false_ne_true, fun _ h => congrArg (Option.map _) h⟩
theorem tscanAdd (a0) : Statement (.tscanAdd a0) :=
  ⟨rfl, fun h => absurd h Bool.false_ne_true, fun _ h => congrArg (Option.map _) h⟩
theorem tscanMax (a0) : Statement (.tscanMax a0) :=
  ⟨rfl, fun h => absurd h Bool.false_ne_true, fun _ h => congrArg (Option.map _) h⟩
theorem ttrn (a0) : Statement (.ttrn a0) :=
  ⟨rfl, fun h => absurd h Bool.false_ne_true, fun _ h => congrArg (Option.map _) h⟩
theorem tperm (a0) : Statement (.tperm a0) :=
  ⟨rfl, fun h => absurd h Bool.false_ne_true, fun _ h => congrArg (Option.map _) h⟩
theorem tshuf (a0) : Statement (.tshuf a0) :=
  ⟨rfl, fun h => absurd h Bool.false_ne_true, fun _ h => congrArg (Option.map _) h⟩
theorem tgath (a0) : Statement (.tgath a0) :=
  ⟨rfl, fun h => absurd h Bool.false_ne_true, fun _ h => congrArg (Option.map _) h⟩
theorem tscat (a0) : Statement (.tscat a0) :=
  ⟨rfl, fun h => absurd h Bool.false_ne_true, fun _ h => congrArg (Option.map _) h⟩
theorem tbcr (a0) : Statement (.tbcr a0) :=
  ⟨rfl, fun h => absurd h Bool.false_ne_true, fun _ h => congrArg (Option.map _) h⟩
theorem tbcc (a0) : Statement (.tbcc a0) :=
  ⟨rfl, fun h => absurd h Bool.false_ne_true, fun _ h => congrArg (Option.map _) h⟩
theorem tbcs (a0) : Statement (.tbcs a0) :=
  ⟨rfl, fun h => absurd h Bool.false_ne_true, fun _ h => congrArg (Option.map _) h⟩
theorem tmov (a0) : Statement (.tmov a0) :=
  ⟨rfl, fun h => absurd h Bool.false_ne_true, fun _ h => congrArg (Option.map _) h⟩
theorem text (a0) : Statement (.text a0) :=
  ⟨rfl, fun h => absurd h Bool.false_ne_true, fun _ h => congrArg (Option.map _) h⟩
theorem tins (a0) : Statement (.tins a0) :=
  ⟨rfl, fun h => absurd h Bool.false_ne_true, fun _ h => congrArg (Option.map _) h⟩
theorem tiota (a0) : Statement (.tiota a0) :=
  ⟨rfl, fun h => absurd h Bool.false_ne_true, fun _ h => congrArg (Option.map _) h⟩
theorem tfill (a0) : Statement (.tfill a0) :=
  ⟨rfl, fun h => absurd h Bool.false_ne_true, fun _ h => congrArg (Option.map _) h⟩
theorem mmaFp8 (a0) : Statement (.mmaFp8 a0) :=
  ⟨rfl, fun h => absurd h Bool.false_ne_true, fun _ h => congrArg (Option.map _) h⟩
theorem mmaFp6 (a0) : Statement (.mmaFp6 a0) :=
  ⟨rfl, fun h => absurd h Bool.false_ne_true, fun _ h => congrArg (Option.map _) h⟩
theorem mmaFp4 (a0) : Statement (.mmaFp4 a0) :=
  ⟨rfl, fun h => absurd h Bool.false_ne_true, fun _ h => congrArg (Option.map _) h⟩
theorem mmaBf16 (a0) : Statement (.mmaBf16 a0) :=
  ⟨rfl, fun h => absurd h Bool.false_ne_true, fun _ h => congrArg (Option.map _) h⟩
theorem mmaFp16 (a0) : Statement (.mmaFp16 a0) :=
  ⟨rfl, fun h => absurd h Bool.false_ne_true, fun _ h => congrArg (Option.map _) h⟩
theorem mmaFp32 (a0) : Statement (.mmaFp32 a0) :=
  ⟨rfl, fun h => absurd h Bool.false_ne_true, fun _ h => congrArg (Option.map _) h⟩
theorem mmaFp64 (a0) : Statement (.mmaFp64 a0) :=
  ⟨rfl, fun h => absurd h Bool.false_ne_true, fun _ h => congrArg (Option.map _) h⟩
theorem mmaInt8 (a0) : Statement (.mmaInt8 a0) :=
  ⟨rfl, fun h => absurd h Bool.false_ne_true, fun _ h => congrArg (Option.map _) h⟩
theorem accld (a0) : Statement (.accld a0) :=
  ⟨rfl, fun h => absurd h Bool.false_ne_true, fun _ h => congrArg (Option.map _) h⟩
theorem accst (a0) : Statement (.accst a0) :=
  ⟨rfl, fun h => absurd h Bool.false_ne_true, fun _ h => congrArg (Option.map _) h⟩
theorem accclr (a0) : Statement (.accclr a0) :=
  ⟨rfl, fun h => absurd h Bool.false_ne_true, fun _ h => congrArg (Option.map _) h⟩
theorem accstg (a0) : Statement (.accstg a0) :=
  ⟨rfl, fun h => absurd h Bool.false_ne_true, fun _ h => congrArg (Option.map _) h⟩
theorem fft (a0) : Statement (.fft a0) :=
  ⟨rfl, fun h => absurd h Bool.false_ne_true, fun _ h => congrArg (Option.map _) h⟩
theorem ifft (a0) : Statement (.ifft a0) :=
  ⟨rfl, fun h => absurd h Bool.false_ne_true, fun _ h => congrArg (Option.map _) h⟩
theorem rfft (a0) : Statement (.rfft a0) :=
  ⟨rfl, fun h => absurd h Bool.false_ne_true, fun _ h => congrArg (Option.map _) h⟩
theorem irfft (a0) : Statement (.irfft a0) :=
  ⟨rfl, fun h => absurd h Bool.false_ne_true, fun _ h => congrArg (Option.map _) h⟩
theorem fplan (a0) : Statement (.fplan a0) :=
  ⟨rfl, fun h => absurd h Bool.false_ne_true, fun _ h => congrArg (Option.map _) h⟩
theorem leggen (a0) : Statement (.leggen a0) :=
  ⟨rfl, fun h => absurd h Bool.false_ne_true, fun _ h => congrArg (Option.map _) h⟩
theorem ftwm (a0) : Statement (.ftwm a0) :=
  ⟨rfl, fun h => absurd h Bool.false_ne_true, fun _ h => congrArg (Option.map _) h⟩
theorem ccopy (a0) : Statement (.ccopy a0) :=
  ⟨rfl, fun h => absurd h Bool.false_ne_true, fun _ h => congrArg (Option.map _) h⟩
theorem cmort (a0) : Statement (.cmort a0) :=
  ⟨rfl, fun h => absurd h Bool.false_ne_true, fun _ h => congrArg (Option.map _) h⟩
theorem cgath (a0) : Statement (.cgath a0) :=
  ⟨rfl, fun h => absurd h Bool.false_ne_true, fun _ h => congrArg (Option.map _) h⟩
theorem cscat (a0) : Statement (.cscat a0) :=
  ⟨rfl, fun h => absurd h Bool.false_ne_true, fun _ h => congrArg (Option.map _) h⟩
theorem cred (a0) : Statement (.cred a0) :=
  ⟨rfl, fun h => absurd h Bool.false_ne_true, fun _ h => congrArg (Option.map _) h⟩
theorem ired (a0) : Statement (.ired a0) :=
  ⟨rfl, fun h => absurd h Bool.false_ne_true, fun _ h => congrArg (Option.map _) h⟩
theorem atomnAdd (a0) : Statement (.atomnAdd a0) :=
  ⟨rfl, fun h => absurd h Bool.false_ne_true, fun _ h => congrArg (Option.map _) h⟩
theorem atomnAnd (a0) : Statement (.atomnAnd a0) :=
  ⟨rfl, fun h => absurd h Bool.false_ne_true, fun _ h => congrArg (Option.map _) h⟩
theorem atomnOr (a0) : Statement (.atomnOr a0) :=
  ⟨rfl, fun h => absurd h Bool.false_ne_true, fun _ h => congrArg (Option.map _) h⟩
theorem atomnXor (a0) : Statement (.atomnXor a0) :=
  ⟨rfl, fun h => absurd h Bool.false_ne_true, fun _ h => congrArg (Option.map _) h⟩
theorem atomnMin (a0) : Statement (.atomnMin a0) :=
  ⟨rfl, fun h => absurd h Bool.false_ne_true, fun _ h => congrArg (Option.map _) h⟩
theorem atomnMax (a0) : Statement (.atomnMax a0) :=
  ⟨rfl, fun h => absurd h Bool.false_ne_true, fun _ h => congrArg (Option.map _) h⟩
theorem atomnMinu (a0) : Statement (.atomnMinu a0) :=
  ⟨rfl, fun h => absurd h Bool.false_ne_true, fun _ h => congrArg (Option.map _) h⟩
theorem atomnMaxu (a0) : Statement (.atomnMaxu a0) :=
  ⟨rfl, fun h => absurd h Bool.false_ne_true, fun _ h => congrArg (Option.map _) h⟩
theorem atomnSwap (a0) : Statement (.atomnSwap a0) :=
  ⟨rfl, fun h => absurd h Bool.false_ne_true, fun _ h => congrArg (Option.map _) h⟩
theorem put (a0) : Statement (.put a0) :=
  ⟨rfl, fun h => absurd h Bool.false_ne_true, fun _ h => congrArg (Option.map _) h⟩
theorem get (a0) : Statement (.get a0) :=
  ⟨rfl, fun h => absurd h Bool.false_ne_true, fun _ h => congrArg (Option.map _) h⟩
theorem porstNAssert : Statement (.porstNAssert) :=
  ⟨rfl, fun _ => rfl, fun _ h => congrArg (Option.map _) h⟩
theorem vauxLoss : Statement (.vauxLoss) :=
  ⟨rfl, fun _ => rfl, fun _ h => congrArg (Option.map _) h⟩
theorem writeAccepted (a0) : Statement (.writeAccepted a0) :=
  ⟨rfl, fun _ => rfl, fun _ h => congrArg (Option.map _) h⟩
theorem bootWindowWrite (a0 a1) : Statement (.bootWindowWrite a0 a1) :=
  ⟨rfl, fun _ => rfl, fun _ h => congrArg (Option.map _) h⟩
theorem unassignedOpcode (a0) : Statement (.unassignedOpcode a0) :=
  ⟨rfl, fun h => absurd h Bool.false_ne_true, fun _ h => congrArg (Option.map _) h⟩

end Sys2Proof.Laws.Form
end

