-- ==== Sys2Proof/Tests/Slice0.lean ====
section
/-! SUPPORT. Tests of the model on small states, and for every statement with hypotheses a state and operands that meet them. -/
namespace Sys2Proof.Tests
open Sys2Proof Sys2Proof.Machine Claims
set_option Elab.async false

/-! How a witness shows that a program runs: its outcome is computed, and taken apart. -/

def okB {α : Type} : EStateM.Result Halt State α → Bool
  | .ok _ _ => true
  | .error _ _ => false

def stOf {α : Type} : EStateM.Result Halt State α → State
  | .ok _ t => t
  | .error _ t => t

def valOf {α : Type} (r : EStateM.Result Halt State α) : okB r = true → α :=
  match r with
  | .ok a _ => fun _ => a
  | .error _ _ => fun h => absurd h Bool.false_ne_true

theorem ok_of {α : Type} {r : EStateM.Result Halt State α} (h : okB r = true) : r = .ok (valOf r h) (stOf r) := by
  cases r with
  | ok a t => rfl
  | error e t => cases h

theorem okU_of {r : EStateM.Result Halt State Unit} (h : okB r = true) : r = .ok () (stOf r) := by
  cases r with
  | ok a t => rfl
  | error e t => cases h

def okV {α : Type} [DecidableEq α] (r : EStateM.Result Halt State α) (a : α) : Bool :=
  match r with
  | .ok b _ => decide (b = a)
  | .error _ _ => false

theorem okV_of {α : Type} [DecidableEq α] {r : EStateM.Result Halt State α} {a : α} (h : okV r a = true) : r = .ok a (stOf r) := by
  cases r with
  | ok b t => cases of_decide_eq_true h; rfl
  | error e t => cases h

def okT {α : Type} (r : EStateM.Result Halt State α) (t : State) : Bool :=
  match r with
  | .ok _ u => decide (u = t)
  | .error _ _ => false

theorem okT_ok {α : Type} {r : EStateM.Result Halt State α} {t : State} (h : okT r t = true) : okB r = true := by
  cases r with
  | ok a u => rfl
  | error e u => cases h

theorem okT_of {α : Type} {r : EStateM.Result Halt State α} {t : State} (h : okT r t = true) : r = .ok (valOf r (okT_ok h)) t := by
  cases r with
  | ok a u => cases of_decide_eq_true h; rfl
  | error e u => cases h

def okIs {α : Type} [DecidableEq α] (r : EStateM.Result Halt State α) (a : α) (t : State) : Bool :=
  match r with
  | .ok b u => decide (b = a) && decide (u = t)
  | .error _ _ => false

theorem okIs_of {α : Type} [DecidableEq α] {r : EStateM.Result Halt State α} {a : α} {t : State} (h : okIs r a t = true) : r = .ok a t := by
  cases r with
  | ok b u =>
    simp only [okIs, Bool.and_eq_true, decide_eq_true_eq] at h
    rw [h.1, h.2]
  | error e u => cases h

def okE {α : Type} [DecidableEq α] (r : EStateM.Result Halt State (Except Cause α)) (a : α) (t : State) : Bool :=
  match r with
  | .ok (.ok b) u => decide (b = a) && decide (u = t)
  | _ => false

theorem okE_of {α : Type} [DecidableEq α] {r : EStateM.Result Halt State (Except Cause α)} {a : α} {t : State}
    (h : okE r a t = true) : r = .ok (.ok a) t := by
  cases r with
  | ok b u =>
    cases b with
    | ok b =>
      simp only [okE, Bool.and_eq_true, decide_eq_true_eq] at h
      rw [h.1, h.2]
    | error c => cases h
  | error e u => cases h

def okX {α : Type} (r : EStateM.Result Halt State (Except Cause α)) (c : Cause) (t : State) : Bool :=
  match r with
  | .ok (.error b) u => decide (b = c) && decide (u = t)
  | _ => false

theorem okX_of {α : Type} {r : EStateM.Result Halt State (Except Cause α)} {c : Cause} {t : State} (h : okX r c t = true) :
    r = .ok (.error c) t := by
  cases r with
  | ok b u =>
    cases b with
    | error b =>
      simp only [okX, Bool.and_eq_true, decide_eq_true_eq] at h
      rw [h.1, h.2]
    | ok b => cases h
  | error e u => cases h

def exOk {α : Type} [DecidableEq α] (r : Except Cause α) (a : α) : Bool :=
  match r with
  | .ok b => decide (b = a)
  | .error _ => false

theorem exOk_of {α : Type} [DecidableEq α] {r : Except Cause α} {a : α} (h : exOk r a = true) : r = .ok a := by
  cases r with
  | ok b => cases of_decide_eq_true h; rfl
  | error c => cases h

def exErr {α : Type} (r : Except Cause α) (c : Cause) : Bool :=
  match r with
  | .ok _ => false
  | .error b => decide (b = c)

theorem exErr_of {α : Type} {r : Except Cause α} {c : Cause} (h : exErr r c = true) : r = .error c := by
  cases r with
  | ok b => cases h
  | error b => cases of_decide_eq_true h; rfl

theorem arg_no {P Q : Prop} (h : Q) : (if false then P else Q) := h
theorem arg_yes {P Q : Prop} (h : P) : (if true then P else Q) := h

/-- The state after an atomic's write, where it writes. -/
def atomSt (o : Option Nat) (pa n : Nat) (s : State) : State :=
  match o with
  | some v => stOf (physWrite pa (leBytes n v) none s)
  | none => s

def atomB (o : Option Nat) (pa n : Nat) (s : State) : Bool :=
  match o with
  | some v => okB (physWrite pa (leBytes n v) none s)
  | none => true

theorem atom_of {o : Option Nat} {pa n : Nat} {s : State} (h : atomB o pa n s = true) :
    LeavesWord o pa n s (atomSt o pa n s) := by
  cases o with
  | some v => exact ⟨_, ok_of h⟩
  | none => rfl

theorem leavesNone {o : Option Nat} {pa n : Nat} {s : State} (h : o.isNone = true) : LeavesWord o pa n s s := by
  cases o with
  | some v => cases h
  | none => rfl

theorem okEV {α : Type} [DecidableEq α] {r : EStateM.Result Halt State (Except Cause α)} {a : α} (h : okE r a (stOf r) = true) :
    r = .ok (.ok a) (stOf r) := okE_of h

theorem okXV {α : Type} {r : EStateM.Result Halt State (Except Cause α)} {c : Cause} (h : okX r c (stOf r) = true) :
    r = .ok (.error c) (stOf r) := okX_of h

def nextB (o : Host.Outcome State Fault Refusal) : Bool :=
  match o with
  | .next _ => true
  | _ => false

def nextSt (o : Host.Outcome State Fault Refusal) : State :=
  match o with
  | .next t => t
  | _ => State.reset

theorem next_of {o : Host.Outcome State Fault Refusal} (h : nextB o = true) : o = .next (nextSt o) := by
  unfold nextB at h
  split at h
  · rfl
  · cases h

theorem notFabric_of {s : State} {pa : Nat} (h : decide (s.place pa = .hbm) = true) : ∀ pkg off, s.place pa ≠ .fabric pkg off :=
  fun _ _ e => by rw [of_decide_eq_true h] at e; cases e

theorem some_of {α : Type} {o : Option α} (h : o.isSome = true) : o = some (o.get h) := by
  cases o with
  | some a => rfl
  | none => cases h

def issuesB (i : Instr) (s : State) : Bool :=
  match i.enc, i.shape with
  | some e, some sh => decide (encFaultOf s.cur.who e sh = none) && (s.hart s.cur).guardOk e.args.g &&
      ((s.hart s.cur).restartHere.opnds.find? (fun o => o.which == 0 && ! o.tile)).isNone
  | _, _ => false

theorem issues_of {i : Instr} {s : State} (h : issuesB i s = true) : Issues i s := by
  unfold issuesB at h
  split at h
  · rename_i e sh he hs
    simp only [Bool.and_eq_true, decide_eq_true_eq, Option.isNone_iff_eq_none] at h
    exact ⟨e, sh, he, hs, h.1.1, h.1.2, h.2⟩
  · cases h

def waitB (x : CArgs) (s u s0 : State) (rels : List Rel) : Bool :=
  match badRef s.cur.coreNo (clauses x s) u with
  | .ok none v => okIs (waitState (.hart (agentNo s.cur)) s.cur.coreNo (clauses x s) v) (.met rels) s0
  | _ => false

theorem waitMet_of {x : CArgs} {s u s0 : State} {rels : List Rel} (h : waitB x s u s0 rels = true) : WaitMet x s u s0 rels := by
  unfold waitB at h
  split at h
  · rename_i v hv
    exact ⟨v, hv, okIs_of h⟩
  · cases h

def stampB (x : CArgs) (m : MfUnit) (bank : Option Nat) (s : State) : Bool :=
  match x.stamp with
  | none => true
  | some p =>
    let j := s.job s.cur.coreNo
    (s.hart s.cur).grant || (s.locked s.cur.coreNo && decide (p.s.toNat = j.j ∧ j.units.next m ≤ j.j ∧ j.units.free m bank ≤ j.j))

theorem passes_of {x : CArgs} {m : MfUnit} {bank : Option Nat} {s s0 : State} {rels : List Rel}
    (h : (stampB x m bank s && waitB x s (if x.stamp.isSome && ! (s.hart s.cur).grant then
      (timed x s).withHart fun h => { h with blocked := .none, wait := none } else timed x s) s0 rels) = true) :
    Passes x m bank s s0 rels := by
  rw [Bool.and_eq_true] at h
  refine ⟨fun p hp => ?_, waitMet_of h.2⟩
  have q := h.1
  unfold stampB at q
  rw [hp] at q
  simpa using q

def cartB (opc : Nat) (mod : BitVec 4) (a : Word) (cur : Agent) (c : Nat) (v : State) : Bool :=
  match readGlobal cur (.at a) a.toNat 64 v with
  | .ok bs t => decide (a.toNat % 64 = 0) && ((cartRec bs).based (t.job c).rel).ok opc mod
  | .error _ _ => false

theorem cartB_ok {opc : Nat} {mod : BitVec 4} {a : Word} {cur : Agent} {c : Nat} {v : State} (h : cartB opc mod a cur c v = true) :
    okB (readGlobal cur (.at a) a.toNat 64 v) = true := by
  unfold cartB at h
  split at h
  · rename_i e; rw [e]; rfl
  · cases h

theorem cart_of {P : Prop} {opc : Nat} {mod : BitVec 4} {a : Word} {cur : Agent} {c : Nat} {v : State} (n : opc ≠ 0xE6)
    (h : cartB opc mod a cur c v = true) :
    if opc = 0xE6 then P else a.toNat % 64 = 0 ∧ ∃ bs, readGlobal cur (.at a) a.toNat 64 v = .ok bs (stOf (readGlobal cur (.at a) a.toNat 64 v)) ∧
      (cartRec (valOf _ (cartB_ok h))).based ((stOf (readGlobal cur (.at a) a.toNat 64 v)).job c).rel =
        (cartRec bs).based ((stOf (readGlobal cur (.at a) a.toNat 64 v)).job c).rel ∧
      ((cartRec (valOf _ (cartB_ok h))).based ((stOf (readGlobal cur (.at a) a.toNat 64 v)).job c).rel).ok opc mod = true := by
  rw [if_neg n]
  have e := ok_of (cartB_ok h)
  have g := h
  unfold cartB at g
  rw [e] at g
  simp only [Bool.and_eq_true, decide_eq_true_eq] at g
  exact ⟨g.1, _, e, rfl, g.2⟩

theorem cartA_of {Q : Prop} {a n : Nat} {v : State} (h : decide (a % n = 0) = true) :
    if 0xE6 = 0xE6 then a % n = 0 ∧ CartRec.empty = .empty ∧ v = v else Q := by
  rw [if_pos rfl]
  exact ⟨of_decide_eq_true h, rfl, rfl⟩

def qe (b : List Byte) : QEntry := ⟨0, b, [], 0, false, 0, 0, 0#64, .queued, []⟩

def dispB (k c kind : Nat) (s : State) : Bool :=
  match hostHead k c kind s with
  | .ok e v => decide (v = s) && (match entryWait k e s with
    | .ok (.met _) _ => true
    | _ => false)
  | _ => false

def dispE (k c kind : Nat) (s : State) : QEntry :=
  match hostHead k c kind s with
  | .ok e _ => (match entryWait k e s with
    | .ok (.met rels) _ => { e with gained := if entAcq e.bytes then rels else [] }
    | _ => e)
  | _ => qe []

def dispT (k c kind : Nat) (s : State) : State :=
  match hostHead k c kind s with
  | .ok e _ => stOf (entryWait k e s)
  | _ => s

theorem dispatches_of {k c kind : Nat} {s : State} (h : dispB k c kind s = true) :
    Dispatches k c kind (dispE k c kind s) s (dispT k c kind s) := by
  unfold dispB at h
  split at h
  · rename_i e v he
    rw [Bool.and_eq_true, decide_eq_true_eq] at h
    obtain ⟨rfl, h⟩ := h
    split at h
    · rename_i rels u hw
      refine ⟨e, rels, he, ?_, ?_⟩
      · rw [dispT, he]; simp only [hw, stOf]
      · rw [dispE, he]; simp only [hw]
    · cases h
  · cases h

def headN (k : Nat) (s : State) : List Byte :=
  match headNode k s with
  | .ok n _ => n
  | _ => []

def headW (k : Nat) (s : State) : EStateM.Result Halt State WaitState := nodeWait k (s.part k).seq.step.toNat (headN k s) s

def headR (k : Nat) (s : State) : List Rel :=
  match headW k s with
  | .ok (.met rels) _ => rels
  | _ => []

def headB (k kind : Nat) (s : State) : Bool :=
  (match headNode k s with
    | .ok _ v => decide (v = s)
    | _ => false) && decide (nodeKind (headN k s) = kind) && (match headW k s with
    | .ok (.met _) _ => true
    | _ => false)

theorem headMet_of {k kind : Nat} {s : State} (h : headB k kind s = true) : HeadMet k kind (headN k s) (headR k s) s (stOf (headW k s)) := by
  unfold headB at h
  rw [Bool.and_eq_true, Bool.and_eq_true, decide_eq_true_eq] at h
  obtain ⟨⟨h1, h2⟩, h3⟩ := h
  split at h1
  · rename_i n v hn
    rw [decide_eq_true_eq] at h1
    subst h1
    have e : headN k v = n := by rw [headN, hn]
    refine ⟨by rw [hn, e], h2, ?_⟩
    split at h3
    · rename_i rels u hw
      have r : headR k v = rels := by rw [headR, hw]
      rw [r, hw]
      exact hw
    · cases h3
  · cases h1

theorem ite_yes {c : Prop} [Decidable c] {P Q : Prop} (hc : decide c = true) (h : P) : if c then P else Q := by
  rw [if_pos (of_decide_eq_true hc)]; exact h

theorem ite_no {c : Prop} [Decidable c] {P Q : Prop} (hc : decide c = false) (h : Q) : if c then P else Q := by
  rw [if_neg (of_decide_eq_false hc)]; exact h

/-! Small states: a partition of one core whose job runs on core 0, and each kind of agent at its instruction. -/

def job0 : Job :=
  { Job.absent with
    live := true, id := 1, task := 1, nlc := 1, emask := 15#4, step := 7#64,
    rtt := [(0, ⟨0x10000, 0x1FFFF, 0, 0, false, false, false, false, true, true, false⟩),
      (1, ⟨0x20000, 0x2FFFF, 0, 0, false, false, false, true, true, true, false⟩)],
    chans := [(0, [.scalar 9#64])], rel := [(0, 0x10000#64)] }

def hart0 : Hart := { Hart.reset with pc := 72, stat := .running, s := [(1, 5#64), (2, 3#64), (3, 0x10040#64), (6, 0x20040#64)], g := [(1, true)] }

/-- Secure partition 0, its front end and core 0 with a job; the package is out of reset. -/
def base : State :=
  { State.reset with
    power := { Power.reset with porst := false }, regs := [(Reg.partCtl 0, 0x11#64)],
    parts := [(0, { Part.reset with lcores := 1, phys := [0], tasks := [(1, { Task.absent with started := true, jobs := [1] })] })],
    cores := [(0, { Core.reset with job := job0, rel := [(0, 0x10000#64)] })],
    harts := [(0, hart0), (1, hart0), (2, hart0), (3, hart0), (4, hart0), (2048, hart0), (3072, hart0)] }

def wA : State := { base with cur := .stream 0 .A }
def wX : State := { base with cur := .stream 0 .X }
def wM : State := { base with cur := .stream 0 .M }
def wF : State := { base with cur := .stream 0 .F }
def wS : State := { base with cur := .service 0 }
def wE : State := { base with cur := .frontEnd 0 }

/-- s4, s1 and an immediate of 3. -/
def rri : Args := ⟨0#4, 4#8, 1#8, 0#8, 0#4, 3#20⟩

/-- The operands s4 or tile 4, s1, s2 of an instruction without modifiers and immediate. -/
def rrr : Args := ⟨0#4, 4#8, 1#8, 2#8, 0#4, 0#20⟩

def r1 : Args := ⟨0#4, 4#8, 1#8, 0#8, 0#4, 0#20⟩
def ggg : Args := ⟨0#4, 0x83#8, 0x81#8, 0x82#8, 0#4, 0#20⟩
/-- The A stream with an operand recorded by its restart record. -/
def wPend : State := { base with
  cur := .stream 0 .A, harts := [(0, { hart0 with restart := ⟨72, 0, 0, [⟨0, false, 3, 6#64⟩, ⟨1, false, 0, 8#64⟩]⟩ })] }
def fullChan : State := wA.updJob 0 fun j => j.setChan 2 (List.replicate 8 (.scalar 1#64))
/-- Core 0's A stream at a line that holds MOVI s4, 5 in slot 1. -/
noncomputable def placed : State := State.reset.withFetchWord 64 0x0700040000000005
noncomputable def wLine : State := placed.setHart (.stream 0 .A) { placed.hart (.stream 0 .A) with newLine := false }

/-- s4, s3 and an immediate: an access at 0x10040 + n. -/
def mem (n : BitVec 20) : Args := ⟨0#4, 4#8, 3#8, 0#8, 0#4, n⟩
/-- The stream already holds its granule privately. -/
def wPriv : State := wA.withHart fun h => { h with priv := [(0x10040, 1#8)], phases := [⟨0, 0, Know.zero⟩] }
/-- s5 holds a scratchpad address. -/
def wSp : State := wA.withHart fun h => h.setS 5 0x40#64
def sp (n : BitVec 20) : Args := ⟨0#4, 4#8, 5#8, 0#8, 0#4, n⟩
def wSvc : State := wS.withHart fun h => h.setS 5 0x40#64
def fullQ : State := wA.updJob 0 fun j => j.setChan 2 (List.replicate 8 (.scalar 1#64))
/-- A stream whose s3 is not a multiple of 8. -/
def wOdd : State := wA.withHart fun h => (h.setS 3 0x10041#64).setS 6 0x20041#64

/-- A branch back to the stream's own line. -/
def brx : Args := ⟨0#4, 0#8, 0#8, 0#8, 0#4, 2#20⟩
def none4 : Args := ⟨0#4, 0#8, 0#8, 0#8, 0#4, 0#20⟩
def sA : Args := ⟨0#4, 0#8, 1#8, 0#8, 0#4, 0#20⟩
/-- A job whose code lies in the slot's image (R345). -/
noncomputable def coded : State :=
  (({ base with cur := .stream 0 .A }).placeCode (.stream 0 .A) [0x0700040000000005#64, 0x0700040000000005#64]).withHart fun h =>
    { h with newLine := false, s := (h.setS 1 72#64).s }
def wEos : State := wA.updJob 0 fun j => j.setPort 0 ⟨false, .empty, 0, .A, true⟩
noncomputable def codedEos : State := coded.updJob 0 fun j => j.setPort 0 ⟨false, .empty, 0, .A, true⟩
def wMore : State := wA.updPart 0 fun p => { p with ready := [(0, [2])] }
def wRec : State := wS.updCore 0 fun x => { x with fqTail := 1 }
/-- The service context of core 0 beside a stream stopped at an SVC. -/
def wStopped : State :=
  (wS.setHart (.stream 0 .A) { hart0 with stat := .stopped 0x1C0#10 true }).withHart fun h => h.setS 1 0#64
def noJob : State := wS.updJob 0 fun _ => .absent

/-- An add of the stream on its way. -/
def wOut : State := { wA with outq := [⟨0, 1, agentNo (.stream 0 .A), .add (.core 9) 1#64 0⟩] }
def ctr : Counter := { phys := 4#64, base := 0#64, poison := none, rels := [] }
def ctr0 : Counter := { Counter.zero with phys := 4#64 }
def badCtr : Counter := { Counter.zero with poison := some 0x102#10 }
def wBadCtr : State := wA.updJob 0 fun j => j.setCounter 4 badCtr
def noJobA : State := wA.updJob 0 fun j => { j with live := false }
/-- D, A, B, the modifiers and the immediate. -/
def ar (d a b : BitVec 8) (m : BitVec 4) (i : BitVec 20) : Args := ⟨m, d, a, b, 0#4, i⟩
/-- A page table with one leaf, 0x100000 to 0x10FFFF. -/
def wPt (attr : Nat) : State :=
  (((wA.setReg (Reg.ptRoot 0) 0x1001#64).putBytes
    ((List.range 48).map fun i => (0x1000 + i, BitVec.ofNat 8 ((leVal (leBytes 16 0x101 ++ leBytes 8 0x100000 ++ leBytes 8 0x10FFFF ++
      leBytes 8 0x30000 ++ leBytes 8 attr)) / 256 ^ i)))).updJob 0 fun j =>
    { j with rtt := j.rtt ++ [(2, (⟨0x100000, 0x10FFFF, 0x30000, 0, false, false, false, false, true, true, false⟩ : Rtt))] }).withHart fun h =>
    (h.setS 8 0x100000#64).setS 9 0x10FFFF#64
def wSealing : State := (wPt 0x10009).withHart fun h => { h with blocked := .sealing }
def wQbar : State := wA.withHart fun h => { h with blocked := .qbar }
def wDeque : State := wA.updJob 0 fun j => { j with deque := [(7#64, [])] }
def fullDeque : State := wA.updJob 0 fun j => { j with deque := List.replicate 256 (7#64, []) }
/-- 64 bytes at 0x10040, and a release already made for the instruction. -/
def wBlock (bs : List (Nat × Byte)) : State :=
  ((wA.putBytes (bs.map fun e => (0x10040 + e.1, e.2))).withHart fun h => { h with restart := ⟨72, 0, 0, [⟨4, false, 0, 0#64⟩]⟩ }).updPart 0
    fun p => { p with slots := [(0, { Slot.reset with image := [(12, 64#8), (76, 1#8)], imglen := 4096 })] }
def childNode : List (Nat × Byte) := [(0, 1#8), (26, 1#8), (28, 1#8), (40, 64#8)]
def coachNode : List (Nat × Byte) := [(18, 1#8), (19, 1#8), (24, 1#8), (32, 1#8), (55, 0xFF#8), (62, 0xFF#8), (63, 0xFF#8)]
def wPat : State := wA.putBytes [(0x10049, 1#8), (0x1004A, 0x10#8), (0x10058, 1#8)]
def desc8 : Desc := { Desc.ofBits 0#128 with vcols := 16, vrows := 8, v := true, typ := 1, colsM1 := 15, rowsM1 := 7, cap := 1 }
def wTile : State := (wX.updJob 0 fun j => { j with desc := [(0, desc8.toBits)] }).withHart fun h => (h.setS 10 0x40F07#64).setS 11 0x10000#64

/-- A tile of one element of type `t` at line `n` of tile storage. -/
def td (n t : Nat) : Desc := { Desc.ofBits 0#128 with vcols := 1, vrows := 1, v := true, typ := t, cap := 1, base := n }
/-- One-element tiles: T1 to T4 hold FP32, T5 to T8 INT32, T9 to T12 CPX32, T13 a scale, T14 FP64; T15 holds an INT64 pair. -/
def tiles : Assoc (BitVec 128) :=
  ((List.range 15).filter (0 < ·)).map (fun n => (n, (td n (if n < 5 then 1 else if n < 9 then 0x0D else if n < 13 then 0x14 else
    if n = 13 then 9 else 0)).toBits)) ++ [(15, { td 15 0x13 with vcols := 2, colsM1 := 1 }.toBits)]
def wT : State := wX.updJob 0 fun j => { j with desc := tiles }

/-- Two tiles of type `t` for an MMA. -/
def wMma (t : Nat) : State := wM.updJob 0 fun j => { j with desc := [(1, (td 1 t).toBits), (2, (td 2 t).toBits)] }
/-- A command without stamp and clauses. -/
def cx (x : Args) : CArgs := ⟨x, ⟨0x1FF#9, 0#24, 0#1, 0x1FF#9, 0#20, 0#1⟩, none⟩
/-- A tile of a row of two elements. -/
def tp (n t : Nat) : BitVec 128 := { td n t with vcols := 2, colsM1 := 1 }.toBits
def wAcc : State := wM.updJob 0 fun j => { j with desc := tiles }
/-- F tiles: T1, T2, T5 and T6 complex pairs, T3 a plan of 2 points, T4 an FP32 pair, T7 and T8 one FP32 element. -/
def wFt : State := (wF.updJob 0 fun j =>
  { j with desc := [(1, tp 1 0x14), (2, tp 2 0x14), (3, tp 3 0x13), (4, tp 4 1), (5, tp 5 0x14), (6, tp 6 0x14), (7, (td 7 1).toBits),
           (8, (td 8 1).toBits)], tstore := j.tstore.put (512 * 3) 2#8 }).withHart fun h => h.setS 7 2#64
/-- A stamped ACCCLR. -/
def cst (n : BitVec 48) : CArgs := { cx (ar 0x88#8 0#8 0#8 0#4 0#20) with stamp := some ⟨0#8, n⟩ }
/-- A locked cluster, the issue clock at 5. -/
def wLock : State := (wM.setReg Reg.dvfsStat 0x80#64).updJob 0 fun j => { j with j := 5 }
def wBusy : State := wLock.updJob 0 fun j => { j with units := { j.units with port := 9 } }
/-- An ACCCLR that waits for counter 4 to reach `n`, or for the memory counter that s7 names. -/
def cwt (w : BitVec 9) (n : BitVec 24) : CArgs := ⟨ar 0x88#8 0#8 0#8 0#4 0#20, ⟨w, n, 0#1, 0x1FF#9, 0#20, 0#1⟩, none⟩
def wMbad : State := wM.updJob 0 fun j => j.setCounter 4 badCtr
/-- A Cart record of two dimensions at 0x10040, with its spaces. -/
def wRcd (dims spaces : Byte) : State :=
  wA.putBytes [(0x10050, spaces), (0x10052, 1#8), (0x10053, dims), (0x10054, 1#8), (0x10058, dims)]
def cmd0 : CartCmd :=
  { id := 0, w0 := 0#64, w1 := 0#64, opc := 0xE0, fn := 0, mod := 0#4, pc := 0, cr := .empty, a := 0#64, b := 0#64, cl := clausesOf Hart.reset (cx none4).ext,
    started := false, dest := none, sent := false, done := 0, sub := 0, entry := none, gs := [], bad := none, floor := Know.zero }
def wFull (dims spaces : Byte) : State :=
  (wRcd dims spaces).updJob 0 fun j => { j with storeQ := List.replicate 64 cmd0, loadQ := List.replicate 64 cmd0 }

/-- Reset released. -/
def pw : State := { State.reset with power := { Power.reset with porst := false } }
def pwr (o : Nat) (v : Word) : State := pw.setReg o v

/-- Port 0 in state `n`, with a link. -/
def pst (n : Nat) (l : Link) : State := { pwr (Reg.portStat 0) (BitVec.ofNat 64 (n * 2 ^ 32)) with links := [(0, l)] }
def lk : Link := { Link.reset with rr := 1 }
def ses (e : Session) : Link := { Link.reset with sess := [(4096, e)] }
def f0 : Flit := ⟨0#128, List.replicate 232 0#8⟩

def msg0 : SendMsg := ⟨0, 0, ⟨tyACKONLY, true, 0#10, 0#10, 0#32, []⟩, 0, false⟩

def secret0 : List Byte := List.replicate 48 0#8
/-- Port 0 in circuit mode with a slot table of one entry. -/
def cct : State := ((pst 3 { Link.reset with table := [0#64], sess := [(0, { Session.fresh with keyed := true, secret := secret0 })] }).setReg
  (Reg.optTrn 0) 2#64).setReg (Reg.slotCfg 0) 1#64
def mg (t : BitVec 8) (p : List Byte) : Msg := ⟨t, true, 0#10, 0#10, 0#32, p⟩
def rem0 : Remote := ⟨.write 0, 0, mg tyRDREQ (List.replicate 16 0#8), 0, none, 8⟩
def wRem (l : Link) : State := { pst 0 l with remotes := [(0, rem0)] }
def hold0 : SendMsg := ⟨0, 0, rem0.msg, 0, false⟩
def rg (o : Nat) (v : Word) : State := { base.setReg o v with cur := .frontEnd 0 }
def booting : State := { pw with boot := { Boot.reset with step := 2, host := true } }
/-- A firmware image with its public key and signature all zero. -/
def image0 : List Byte :=
  Map.getN (fun _ => 0#8) [(0, 0x4B#8), (1, 0x51#8), (2, 0x46#8), (3, 0x57#8), (4, 1#8), (6, 2#8), (9, 4#8), (24, 4#8), (128, 1#8), (137, 2#8),
    (152, 3#8), (161, 2#8)] 0 1024
def badImage : State :=
  { booting with boot := { booting.boot with staging := Map.setN (fun _ => 0#8) [] 0 image0
                                             keyhash := Map.setN (fun _ => 0#8) [] 0 (sha384 ((image0.drop 24).take 97)) } }

/-- An entry, a node or a block of 64 bytes that are zero but for those listed. -/
def ent (l : List (Nat × Byte)) : List Byte := Map.getN (fun _ => 0#8) l 0 64
/-- Partition 0 without cores. -/
def wP (f : Part → Part) : State := { base with cores := [], parts := [(0, f Part.reset)] }
def wQ (b : List Byte) : State := wP fun p => { p with queues := [(0, [qe b])] }
def act (b : List Byte) : QEntry := { qe b with stage := .acting }
/-- An entry, and slot 0. -/
def wR (e : QEntry) (x : Slot) : State := wP fun p => { p with queues := [(0, [e])], slots := [(0, x)] }
def resident : Slot := { Slot.reset with state := .resident, world := true }
def cpl0 : Cpl := ⟨0, false, 0, 0#10, 0, 0#64, 0⟩
/-- Secure partition 0 while every granule is secure. -/
def wSec : State := pwr (Reg.partCtl 0) 0x10#64

theorem wSec_secure (pa : Nat) : wSec.rgnSecure pa = true := by
  have h : wSec.rgnEntry pa = none := by
    unfold State.rgnEntry
    rw [List.find?_eq_none]
    intro k hk
    have hf := (by decide +kernel : ∀ k < 256, wSec.flag (Reg.rgnLo k) 63 = false) k (List.mem_range.1 hk)
    rw [State.rgnHolds, hf]
    simp
  unfold State.rgnSecure
  rw [h]
  decide +kernel

theorem wSec_shadow : wSec.shadowOk 0 0#64 (wSec.reg (Reg.shadowCfg 0)) = true := by
  unfold State.shadowOk
  have hw : wSec.partWorld 0 = true := by decide +kernel
  simp only [wSec_secure, hw]
  rw [Bool.and_eq_true]
  exact ⟨by decide +kernel, List.all_eq_true.2 fun _ _ => rfl⟩

/-- A slot image of one code line and a graph header's 64 bytes. -/
def line0 : List Byte := leBytes 4 2 ++ leBytes 4 (crc32c (List.replicate 56 0#8)) ++ List.replicate 56 0#8
def head0 : List Byte := [0x4B#8, 0x51#8, 0x53#8, 0x49#8] ++ leBytes 4 1 ++ leBytes 4 1 ++ leBytes 4 128 ++ leBytes 16 0 ++ leBytes 8 192 ++ leBytes 20 0
def img0 : List Byte := head0 ++ leBytes 4 (crc32c head0) ++ line0 ++ List.replicate 64 0#8
def entL : QEntry := act (ent [(2, 6#8), (34, 0x10#8), (40, 192#8)])
/-- The image at 0x130000, mapped at 0x100000; slot 0 loads it. -/
def wL : State :=
  (((((wPt 9).setReg (Reg.partCtl 0) 1#64).setReg Reg.rgnCfg 0#64).updPart 0 fun p => { p with queues := [(0, [entL])], slots := [(0, { Slot.reset with state := .loading })] }).putBytes
    ((List.range 192).map fun i => (0x130000 + i, img0.getD i 0#8)))
def slotOf (r : EStateM.Result Halt State (Except Cause Slot)) : Slot :=
  match r with
  | .ok (.ok y) _ => y
  | _ => Slot.reset

/-- A slot whose graph descriptor, at 64, has one node of a kind, at 128, with a Coach block at 192. -/
def gSlot (kind : Byte) : Slot :=
  { resident with imglen := 256, image := [(12, 64#8), (64, 0x4B#8), (65, 0x51#8), (66, 0x47#8), (67, 0x44#8), (68, 1#8), (70, 1#8), (72, 128#8),
                                           (76, 1#8), (128, kind)] ++ coachNode.map fun e => (192 + e.1, e.2) }
def wSeq (st : SeqState) (x : Slot) : State := wP fun p => { p with lcores := 1, slots := [(0, x)], seq := { Seq.reset with state := st } }
/-- The sequencer issues a node in step 1. -/
def wNode (n : List (Nat × Byte)) : State :=
  (wP fun p => { p with slots := [(0, gSlot 0)], seq := { Seq.reset with state := .issue, step := 1#64, nodes := [ent n] } }).setReg
    (Reg.shadowCfg 0) 1#64
def wSweep (w : Sweep) (st : SeqState) : State := wP fun p => { p with sweeps := [w], seq := { Seq.reset with state := st, stepsLeft := 2 } }
def wTask (t : Task) : State := wP fun p => { p with tasks := [(1, t)] }
def task1 : Task := { Task.absent with node := ent [(0, 1#8), (26, 1#8), (28, 1#8), (40, 64#8)] }
/-- Partition 0 has core 0, without a job. -/
def wIdle : State :=
  { base with cores := [], harts := [], regs := [(Reg.partCtl 0, 0x11#64), (Reg.shadowCfg 0, 2#64)],
              parts := [(0, { Part.reset with lcores := 1, phys := [0], tasks := [(1, task1)] })] }
def frame1 : Frame := ⟨job0, [hart0, hart0, hart0, hart0], true, false, false⟩
/-- Job 1 lies in its frame. -/
def wSaved : State := { wIdle with frames := [(1, frame1)] }
/-- The streams of job 1 have joined. -/
def wJoin : State := { base with harts := (List.range 4).map fun i => (i, { hart0 with stat := .joined }) }
/-- A partition of two logical cores on core 0: 0 resident, 1 in its frame. -/
def wMux : State := { wSaved with parts := [(0, { Part.reset with lcores := 2, phys := [0], tasks := [(1, task1)] })],
                                  frames := [(1, { frame1 with job := { job0 with lcore := 1 } })] }

def wJoinB : State :=
  { wJoin with cores := [(0, { Core.reset with job := job0, deadCycles := 4096 })], harts := (0, { hart0 with blocked := .chan }) :: wJoin.harts.drop 1 }

def wFull4096 : State := base.updJob 0 fun j => { j with privOrder := List.replicate 4096 (0, 0x400) }
/-- Stream A waits for counter 4. -/
def wWaits (b : Block) (thr : Nat) : State := base.setHart (.stream 0 .A) { hart0 with blocked := b, wait := some ⟨.core 4, false, thr, none⟩ }
def wWaita : State := base.setHart (.stream 0 .A) { hart0 with blocked := .memWait, wait := some ⟨.mem 0x10040#64, true, 0, none⟩ }
def rld0 : Rld := ⟨7, 0, 72, 0x10040#64, 0x10040, 8, false⟩
def wRld (r : Assoc Remote) : State := { base.updJob 0 fun j => { j with chans := [(0, [.reserved 7])], rlds := [rld0] } with remotes := r }
def ans0 : Remote := ⟨.rld 0 7, 0, mg tyRDREQ (List.replicate 16 0#8), 0, some (0#10, List.replicate 8 1#8), 8⟩
def wSeal : State := base.updPart 0 fun p => { p with seals := [(0, 0x100000, 0x10FFFF, true)] }
def wLost : State := { base with cores := [(0, { Core.reset with job := job0, fqTail := 11 })] }
def mc (op : MfOp) : MfCmd :=
  { op := op, cursor := 0, units := 1, ckind := 0, cl := clausesOf Hart.reset (cx none4).ext, pc := 72, push := none, visible := 0, exact := false, gs := [] }
def mc0 : MfCmd := mc (.accclr 0)
def wEng : State := base.updJob 0 fun j => { j with mcmds := [mc0] }
def cmdOf (r : EStateM.Result Halt State Progress) : MfCmd :=
  match r with
  | .ok (.upTo m) _ => m
  | _ => mc0
/-- Stream M waits at a timed ACCCLR of stamp 5, the issue clock at 5. -/
noncomputable def wTimed : State :=
  ((wLock.setHart (.stream 0 .M) { hart0 with blocked := .stamp, wait := some ⟨.core 0, false, 5, none⟩ }).updPart 0 fun p =>
    { p with slots := [(0, { resident with image := Map.setN (fun _ => 0#8) [] 72 (((encode (.accclr (cst 5#48))).getD []).flatMap fun w => leBytes 8 w.toNat) })] })
def ref0 : TileRef := .data (td 1 6) [[1]]
def req0 (opc : Nat) (bn : Bool) : PairReq :=
  ⟨opc, false, false, 0, 0, 1, 1, bn, bn, false, mc (.mma opc false false true 0 ref0 ref0 (some ref0) (some ref0) 0)⟩
/-- Cores 0 and 1 at the rendezvous of a pair. -/
def wPair (opc opc2 : Nat) : State :=
  { base with parts := [(0, { Part.reset with lcores := 2, phys := [0, 1], tasks := [(1, { Task.absent with started := true, jobs := [1, 2] })] })],
              cores := [(0, { Core.reset with job := { job0 with pairReq := some (req0 opc false) } }),
                        (1, { Core.reset with job := { job0 with id := 2, lcore := 1, pairReq := some (req0 opc2 true) } })],
              harts := [(2, { hart0 with blocked := .pair }), (10, { hart0 with blocked := .pair })] }
def rec0 (src : Word) : CartRec :=
  { src := src, dst := 0x20000#64, ssp := if src = 0#64 then 1 else 0, dsp := 0, typ := 1, ndim := 1, op := 0, ext := [2], sstr := [], dstr := [], raw := [] }
def cmdC (src : Word) : CartCmd := { cmd0 with started := true, cr := rec0 src }
def wCart (q : CartCmd) : State := base.updJob 0 fun j => { j with storeQ := [q] }
def cartOf (r : EStateM.Result Halt State CartStep) : CartCmd :=
  match r with
  | .ok (.more x) _ => x
  | .ok (.waits x) _ => x
  | .ok (.ended x) _ => x
  | .ok (.fails x _ _) _ => x
  | _ => cmd0
def cwtCmd (n : BitVec 24) : CartCmd := { cmd0 with cl := clausesOf Hart.reset (cwt 4#9 n).ext }
/-- A block of one element that rank 0 moves to peer 0. -/
def blk0 : List Byte := ent coachNode
def tr0 : Transfer := Transfer.start 2 0 0 1 0 none blk0 []
def held0 : Held := ⟨0, 0, 0, 4, 1#64, none, none, []⟩
/-- A transfer of partition 0 whose rank 0 is logical core 0 of package `pkg`; no rank where `n` is 0. -/
def wCoach (n pkg : Nat) (t : Transfer) : State :=
  (((base.setReg (Reg.rankCfg 0) (BitVec.ofNat 64 n)).setReg (Reg.rankBase 0) 0x40000#64).putBytes [(0x40002, BitVec.ofNat 8 pkg), (0x40003, 0x80#8)]).updPart 0
    fun p => { p with transfers := [(0, t)], held := [held0], coachNum := [(0, 1)] }

def valSomeB {α : Type} : EStateM.Result Halt State (Option α) → Bool
  | .ok (some _) _ => true
  | _ => false

def valSome {α : Type} (r : EStateM.Result Halt State (Option α)) : valSomeB r = true → α :=
  match r with
  | .ok (some a) _ => fun _ => a
  | .ok none _ => fun h => absurd h Bool.false_ne_true
  | .error _ _ => fun h => absurd h Bool.false_ne_true

theorem okSome_of {α : Type} {r : EStateM.Result Halt State (Option α)} (h : valSomeB r = true) : r = .ok (some (valSome r h)) (stOf r) := by
  cases r with
  | ok o t =>
    cases o with
    | some a => rfl
    | none => cases h
  | error e t => cases h

/-! Words of the spec's encodings (R351–R354, R359), field by field. A stamp prefix and its command are one instruction; an unassigned
opcode or FN is none. -/

theorem test_decode_cmpi_ne : decodeWords [0x0610810200000000#64] =
    some (.cmpiNe ⟨0#4, 0x81#8, 0x02#8, 0x00#8, 0#4, 0x00000#20⟩) := by decide +kernel
theorem test_decode_fence_rel : decodeWords [0x4203000000000000#64] =
    some (.fenceRel ⟨3#4, 0x00#8, 0x00#8, 0x00#8, 0#4, 0x00000#20⟩) := by decide +kernel
theorem test_decode_fence_rel_2 : decodeWords [0x4204000000000000#64] =
    some (.fenceRel ⟨4#4, 0x00#8, 0x00#8, 0x00#8, 0#4, 0x00000#20⟩) := by decide +kernel
theorem test_decode_fence_rel_3 : decodeWords [0x4201000000000000#64] =
    some (.fenceRel ⟨1#4, 0x00#8, 0x00#8, 0x00#8, 0#4, 0x00000#20⟩) := by decide +kernel
theorem test_decode_atom_cas : decodeWords [0x2590090405000006#64] =
    some (.atomCas ⟨0#4, 0x09#8, 0x04#8, 0x05#8, 0#4, 0x00006#20⟩) := by decide +kernel
theorem test_decode_atom_or : decodeWords [0x2520090800000000#64] =
    some (.atomOr ⟨0#4, 0x09#8, 0x08#8, 0x00#8, 0#4, 0x00000#20⟩) := by decide +kernel
theorem test_decode_atom_swap : decodeWords [0x258000030E000000#64] =
    some (.atomSwap ⟨0#4, 0x00#8, 0x03#8, 0x0E#8, 0#4, 0x00000#20⟩) := by decide +kernel
theorem test_decode_fcvt_l_d : decodeWords [0x1371050600000000#64] =
    some (.fcvtLD ⟨1#4, 0x05#8, 0x06#8, 0x00#8, 0#4, 0x00000#20⟩) := by decide +kernel
theorem test_decode_st_d : decodeWords [0x2130030200000000#64] =
    some (.stD ⟨0#4, 0x03#8, 0x02#8, 0x00#8, 0#4, 0x00000#20⟩) := by decide +kernel
theorem test_decode_st_d_2 : decodeWords [0x2130140300000048#64] =
    some (.stD ⟨0#4, 0x14#8, 0x03#8, 0x00#8, 0#4, 0x00048#20⟩) := by decide +kernel
theorem test_decode_ld_hu : decodeWords [0x20300E0D00000000#64] =
    some (.ldHu ⟨0#4, 0x0E#8, 0x0D#8, 0x00#8, 0#4, 0x00000#20⟩) := by decide +kernel
theorem test_decode_ld_d : decodeWords [0x206007A2000003F8#64] =
    some (.ldD ⟨0#4, 0x07#8, 0xA2#8, 0x00#8, 0#4, 0x003F8#20⟩) := by decide +kernel
theorem test_decode_divu : decodeWords [0x0420121213000000#64] =
    some (.divu ⟨0#4, 0x12#8, 0x12#8, 0x13#8, 0#4, 0x00000#20⟩) := by decide +kernel
theorem test_decode_waita : decodeWords [0x412C0A0500000000#64] =
    some (.waita ⟨12#4, 0x0A#8, 0x05#8, 0x00#8, 0#4, 0x00000#20⟩) := by decide +kernel
theorem test_decode_waita_2 : decodeWords [0x4120040800000000#64] =
    some (.waita ⟨0#4, 0x04#8, 0x08#8, 0x00#8, 0#4, 0x00000#20⟩) := by decide +kernel
theorem test_decode_cwait_m : decodeWords [0x411B060500000000#64] =
    some (.cwaitM ⟨11#4, 0x06#8, 0x05#8, 0x00#8, 0#4, 0x00000#20⟩) := by decide +kernel
theorem test_decode_movhi : decodeWords [0x08000300000F0000#64] =
    some (.movhi ⟨0#4, 0x03#8, 0x00#8, 0x000F0000#32⟩) := by decide +kernel
theorem test_decode_cmp_gtu : decodeWords [0x0580810C07000000#64] =
    some (.cmpGtu ⟨0#4, 0x81#8, 0x0C#8, 0x07#8, 0#4, 0x00000#20⟩) := by decide +kernel
theorem test_decode_dqpush : decodeWords [0x4408000200000081#64] =
    some (.dqpush ⟨8#4, 0x00#8, 0x02#8, 0x00#8, 0#4, 0x00081#20⟩) := by decide +kernel
theorem test_decode_movi : decodeWords [0x0700040080000000#64] =
    some (.movi ⟨0#4, 0x04#8, 0x00#8, 0x80000000#32⟩) := by decide +kernel
theorem test_decode_movhi_2 : decodeWords [0x0800040000000001#64] =
    some (.movhi ⟨0#4, 0x04#8, 0x00#8, 0x00000001#32⟩) := by decide +kernel
theorem test_decode_tadd : decodeWords [0x880066212201C000#64] =
    some (.tadd ⟨0#4, 0x66#8, 0x21#8, 0x22#8, 0#4, 0x1C000#20⟩) := by decide +kernel
theorem test_decode_trsum : decodeWords [0x8E00232100000000#64] =
    some (.trsum ⟨0#4, 0x23#8, 0x21#8, 0x00#8, 0#4, 0x00000#20⟩) := by decide +kernel
theorem test_decode_tscan_add : decodeWords [0x8F04222100000000#64] =
    some (.tscanAdd ⟨4#4, 0x22#8, 0x21#8, 0x00#8, 0#4, 0x00000#20⟩) := by decide +kernel
theorem test_decode_tcvt_sc : decodeWords [0x8D18282129000200#64] =
    some (.tcvtSc ⟨8#4, 0x28#8, 0x21#8, 0x29#8, 0#4, 0x00200#20⟩) := by decide +kernel
theorem test_decode_ifft : decodeWords [0xD104262529000000#64, 0x0000000000000000#64] =
    some (.ifft ⟨⟨4#4, 0x26#8, 0x25#8, 0x29#8, 0#4, 0x00000#20⟩, ⟨0x000#9, 0#24, 0#1, 0x000#9, 0#20, 0#1⟩, none⟩) := by decide +kernel
theorem test_decode_fplan : decodeWords [0xD400290400000000#64, 0x0000000000000000#64] =
    some (.fplan ⟨⟨0#4, 0x29#8, 0x04#8, 0x00#8, 0#4, 0x00000#20⟩, ⟨0x000#9, 0#24, 0#1, 0x000#9, 0#20, 0#1⟩, none⟩) := by decide +kernel
theorem test_decode_pbind : decodeWords [0x4800730500000001#64] =
    some (.pbind ⟨0#4, 0x73#8, 0x05#8, 0x00#8, 0#4, 0x00001#20⟩) := by decide +kernel
theorem test_decode_cgath : decodeWords [0xE200000405000000#64, 0xFF80000000A00001#64] =
    some (.cgath ⟨⟨0#4, 0x00#8, 0x04#8, 0x05#8, 0#4, 0x00000#20⟩, ⟨0x1FF#9, 0#24, 0#1, 0x005#9, 0#20, 1#1⟩, none⟩) := by decide +kernel
theorem test_decode_ired : decodeWords [0xE500000B0C000000#64, 0xFF80000020C00001#64] =
    some (.ired ⟨⟨0#4, 0x00#8, 0x0B#8, 0x0C#8, 0#4, 0x00000#20⟩, ⟨0x1FF#9, 0#24, 0#1, 0x106#9, 0#20, 1#1⟩, none⟩) := by decide +kernel
theorem test_decode_xpose : decodeWords [0x4520000800000000#64] =
    some (.xpose ⟨0#4, 0x00#8, 0x08#8, 0x00#8, 0#4, 0x00000#20⟩) := by decide +kernel
theorem test_decode_cwait : decodeWords [0x4020020000001000#64] =
    some (.cwait ⟨0#4, 0x02#8, 0x00#8, 0x00#8, 0#4, 0x01000#20⟩) := by decide +kernel
theorem test_decode_put : decodeWords [0xE800000503100000#64, 0xFF80000000200000#64] =
    some (.put ⟨⟨0#4, 0x00#8, 0x05#8, 0x03#8, 1#4, 0x00000#20⟩, ⟨0x1FF#9, 0#24, 0#1, 0x001#9, 0#20, 0#1⟩, none⟩) := by decide +kernel
theorem test_decode_mma_fp8 : decodeWords [0xC010882122020023#64, 0x01000000C0800003#64] =
    some (.mmaFp8 ⟨1#1, 0#1, 0#1, ⟨⟨0#4, 0x88#8, 0x21#8, 0x22#8, 0#4, 0x20023#20⟩, ⟨0x002#9, 1#24, 1#1, 0x004#9, 1#20, 1#1⟩, none⟩⟩) := by decide +kernel
theorem test_decode_nop : decodeWords [0x0100000000000000#64] =
    some (.nop ⟨0#4, 0x00#8, 0x00#8, 0x00#8, 0#4, 0x00000#20⟩) := by decide +kernel
theorem test_decode_mulh : decodeWords [0x02F0040102000000#64] =
    some (.mulh ⟨0#4, 0x04#8, 0x01#8, 0x02#8, 0#4, 0x00000#20⟩) := by decide +kernel
theorem test_decode_xori : decodeWords [0x0340040100000005#64] =
    some (.xori ⟨0#4, 0x04#8, 0x01#8, 0x00#8, 0#4, 0x00005#20⟩) := by decide +kernel
theorem test_decode_bswap : decodeWords [0x0940040100000000#64] =
    some (.bswap ⟨0#4, 0x04#8, 0x01#8, 0x00#8, 0#4, 0x00000#20⟩) := by decide +kernel
theorem test_decode_maddy : decodeWords [0x0A70040102000000#64] =
    some (.maddy ⟨0#4, 0x04#8, 0x01#8, 0x02#8, 0#4, 0x00000#20⟩) := by decide +kernel
theorem test_decode_gget : decodeWords [0x0B50048100000000#64] =
    some (.gget ⟨0#4, 0x04#8, 0x81#8, 0x00#8, 0#4, 0x00000#20⟩) := by decide +kernel
theorem test_decode_sel : decodeWords [0x0C10040102000003#64] =
    some (.sel ⟨0#4, 0x04#8, 0x01#8, 0x02#8, 0#4, 0x00003#20⟩) := by decide +kernel
theorem test_decode_fnma_s : decodeWords [0x1090040102000003#64] =
    some (.fnmaS ⟨0#4, 0x04#8, 0x01#8, 0x02#8, 0#4, 0x00003#20⟩) := by decide +kernel
theorem test_decode_fsqrt_d : decodeWords [0x1140040100000000#64] =
    some (.fsqrtD ⟨0#4, 0x04#8, 0x01#8, 0x00#8, 0#4, 0x00000#20⟩) := by decide +kernel
theorem test_decode_fcmp_un : decodeWords [0x1230810102000000#64] =
    some (.fcmpUn ⟨0#4, 0x81#8, 0x01#8, 0x02#8, 0#4, 0x00000#20⟩) := by decide +kernel
theorem test_decode_ldsp_w : decodeWords [0x2240040100000000#64] =
    some (.ldspW ⟨0#4, 0x04#8, 0x01#8, 0x00#8, 0#4, 0x00000#20⟩) := by decide +kernel
theorem test_decode_stsp_h : decodeWords [0x2310040100000000#64] =
    some (.stspH ⟨0#4, 0x04#8, 0x01#8, 0x00#8, 0#4, 0x00000#20⟩) := by decide +kernel
theorem test_decode_rld_wu : decodeWords [0x2450700100000000#64] =
    some (.rldWu ⟨0#4, 0x70#8, 0x01#8, 0x00#8, 0#4, 0x00000#20⟩) := by decide +kernel
theorem test_decode_br : decodeWords [0x3000810000000048#64] =
    some (.br ⟨0#4, 0x81#8, 0x00#8, 0x00#8, 0#4, 0x00048#20⟩) := by decide +kernel
theorem test_decode_call : decodeWords [0x3100050000000048#64] =
    some (.call ⟨0#4, 0x05#8, 0x00#8, 0x00#8, 0#4, 0x00048#20⟩) := by decide +kernel
theorem test_decode_jr : decodeWords [0x3200000100000000#64] =
    some (.jr ⟨0#4, 0x00#8, 0x01#8, 0x00#8, 0#4, 0x00000#20⟩) := by decide +kernel
theorem test_decode_loop : decodeWords [0x3300050000000048#64] =
    some (.loop ⟨0#4, 0x05#8, 0x00#8, 0x00#8, 0#4, 0x00048#20⟩) := by decide +kernel
theorem test_decode_beos : decodeWords [0x3400008800000048#64] =
    some (.beos ⟨0#4, 0x00#8, 0x88#8, 0x00#8, 0#4, 0x00048#20⟩) := by decide +kernel
theorem test_decode_svc : decodeWords [0x3530000000000007#64] =
    some (.svc ⟨0#4, 0x00#8, 0x00#8, 0x00#8, 0#4, 0x00007#20⟩) := by decide +kernel
theorem test_decode_crd : decodeWords [0x4030040000000009#64] =
    some (.crd ⟨0#4, 0x04#8, 0x00#8, 0x00#8, 0#4, 0x00009#20⟩) := by decide +kernel
theorem test_decode_qbar : decodeWords [0x4320000000000000#64] =
    some (.qbar ⟨0#4, 0x00#8, 0x00#8, 0x00#8, 0#4, 0x00000#20⟩) := by decide +kernel
theorem test_decode_csrs : decodeWords [0x4620040100000010#64] =
    some (.csrs ⟨0#4, 0x04#8, 0x01#8, 0x00#8, 0#4, 0x00010#20⟩) := by decide +kernel
theorem test_decode_rttld : decodeWords [0x4710000102000000#64] =
    some (.rttld ⟨0#4, 0x00#8, 0x01#8, 0x02#8, 0#4, 0x00000#20⟩) := by decide +kernel
theorem test_decode_ppos : decodeWords [0x4820047000000000#64] =
    some (.ppos ⟨0#4, 0x04#8, 0x70#8, 0x00#8, 0#4, 0x00000#20⟩) := by decide +kernel
theorem test_decode_launch_t : decodeWords [0x4510000100000000#64] =
    some (.launchT ⟨0#4, 0x00#8, 0x01#8, 0x00#8, 0#4, 0x00000#20⟩) := by decide +kernel
theorem test_decode_tdesc : decodeWords [0x8030042100000000#64] =
    some (.tdesc ⟨0#4, 0x04#8, 0x21#8, 0x00#8, 0#4, 0x00000#20⟩) := by decide +kernel
theorem test_decode_tld : decodeWords [0x8100210102000000#64] =
    some (.tld ⟨0#4, 0x21#8, 0x01#8, 0x02#8, 0#4, 0x00000#20⟩) := by decide +kernel
theorem test_decode_tst : decodeWords [0x8200210102000000#64] =
    some (.tst ⟨0#4, 0x21#8, 0x01#8, 0x02#8, 0#4, 0x00000#20⟩) := by decide +kernel
theorem test_decode_tsel : decodeWords [0x8930242122000023#64] =
    some (.tsel ⟨0#4, 0x24#8, 0x21#8, 0x22#8, 0#4, 0x00023#20⟩) := by decide +kernel
theorem test_decode_tsigm : decodeWords [0x8AC0242100000000#64] =
    some (.tsigm ⟨0#4, 0x24#8, 0x21#8, 0x00#8, 0#4, 0x00000#20⟩) := by decide +kernel
theorem test_decode_tcmp_un : decodeWords [0x8B60242122000000#64] =
    some (.tcmpUn ⟨0#4, 0x24#8, 0x21#8, 0x22#8, 0#4, 0x00000#20⟩) := by decide +kernel
theorem test_decode_tcmulc : decodeWords [0x8C20242122000000#64] =
    some (.tcmulc ⟨0#4, 0x24#8, 0x21#8, 0x22#8, 0#4, 0x00000#20⟩) := by decide +kernel
theorem test_decode_tbcs : decodeWords [0x9070242100000000#64] =
    some (.tbcs ⟨0#4, 0x24#8, 0x21#8, 0x00#8, 0#4, 0x00000#20⟩) := by decide +kernel
theorem test_decode_tfill : decodeWords [0x9140240100000000#64] =
    some (.tfill ⟨0#4, 0x24#8, 0x01#8, 0x00#8, 0#4, 0x00000#20⟩) := by decide +kernel
theorem test_decode_accstg : decodeWords [0xC830018802000000#64, 0xFF8000003FE00000#64] =
    some (.accstg ⟨⟨0#4, 0x01#8, 0x88#8, 0x02#8, 0#4, 0x00000#20⟩, ⟨0x1FF#9, 0#24, 0#1, 0x1FF#9, 0#20, 0#1⟩, none⟩) := by decide +kernel
theorem test_decode_atomn_swap : decodeWords [0xE680000102000000#64, 0xFF8000003FE00000#64] =
    some (.atomnSwap ⟨⟨0#4, 0x00#8, 0x01#8, 0x02#8, 0#4, 0x00000#20⟩, ⟨0x1FF#9, 0#24, 0#1, 0x1FF#9, 0#20, 0#1⟩, none⟩) := by decide +kernel
theorem test_decode_rfft : decodeWords [0xD200242122000000#64, 0xFF8000003FE00000#64] =
    some (.rfft ⟨⟨0#4, 0x24#8, 0x21#8, 0x22#8, 0#4, 0x00000#20⟩, ⟨0x1FF#9, 0#24, 0#1, 0x1FF#9, 0#20, 0#1⟩, none⟩) := by decide +kernel
theorem test_decode_accclr_at : decodeWords [0xBF00000000000005#64, 0xC820880000000000#64, 0xFF8000003FE00000#64] =
    some (.accclr ⟨⟨0#4, 0x88#8, 0x00#8, 0x00#8, 0#4, 0x00000#20⟩, ⟨0x1FF#9, 0#24, 0#1, 0x1FF#9, 0#20, 0#1⟩, some ⟨0#8, 5#48⟩⟩) := by
  decide +kernel
theorem test_decode_unassigned : [0x0000000000000000#64, 0x0D00000000000000#64, 0x4900000000000000#64, 0x06A0000000000000#64,
    0x0700000000000000#64 ||| 0x0010000000000000#64, 0xE790000000000000#64].all (fun w => (decodeWords [w]).isNone) = true := by
  decide +kernel

/-! Encodings that are no instruction, one for each check (R360). -/

theorem test_engine : encFault (.user .X) (.ldD ⟨0#4, 4#8, 1#8, 0#8, 0#4, 0#20⟩) = some 0x041#10 := by decide +kernel
theorem test_stamp_engine : encFault (.user .A) (.put { cx ⟨0#4, 0#8, 1#8, 2#8, 0#4, 0#20⟩ with stamp := some ⟨0#8, 5#48⟩ }) = some 0x041#10 := by
  decide +kernel
theorem test_subset : encFault .frontEnd (.qbar ⟨0#4, 0#8, 0#8, 0#8, 0#4, 0#20⟩) = some 0x048#10 ∧
    encFault .mgmt (.atomAdd ⟨0#4, 4#8, 1#8, 2#8, 0#4, 0#20⟩) = some 0x048#10 := by decide +kernel
theorem test_service_only : encFault (.user .A) (.eret ⟨0#4, 0#8, 0#8, 0#8, 0#4, 0#20⟩) = some 0x047#10 ∧
    encFault .service (.eret ⟨0#4, 0#8, 0#8, 0#8, 0#4, 0#20⟩) = none := by decide +kernel
theorem test_reserved : encFault (.user .A) (.add ⟨1#4, 4#8, 1#8, 2#8, 0#4, 0#20⟩) = some 0x044#10 ∧
    encFault (.user .A) (.nop ⟨0#4, 0#8, 0#8, 2#8, 0#4, 0#20⟩) = some 0x044#10 ∧
    encFault (.user .A) (.add ⟨0#4, 4#8, 1#8, 2#8, 0#4, 0x80000#20⟩) = some 0x044#10 := by decide +kernel
theorem test_target : encFault (.user .A) (.br ⟨0#4, 0x81#8, 0#8, 0#8, 0#4, 0x40#20⟩) = some 0x044#10 := by decide +kernel
theorem test_clauses : encFault (.user .A) (.put { cx ⟨0#4, 0#8, 1#8, 2#8, 0#4, 0#20⟩ with ext := ⟨0x1FF#9, 1#24, 0#1, 0x1FF#9, 0#20, 0#1⟩ }) =
      some 0x044#10 ∧
    encFault (.user .M) (.accclr { cx ⟨0#4, 0x88#8, 0#8, 0#8, 0#4, 0#20⟩ with ext := ⟨0x1FF#9, 0#24, 0#1, 4#9, 0#20, 0#1⟩ }) = some 0x044#10 := by
  decide +kernel
theorem test_prefix : encFault (.user .M) (.accclr { cx ⟨0#4, 0x88#8, 0#8, 0#8, 0#4, 0#20⟩ with stamp := some ⟨1#8, 5#48⟩ }) = some 0x044#10 := by
  decide +kernel
theorem test_selector : encFault (.user .A) (.add ⟨0#4, 4#8, 0x90#8, 2#8, 0#4, 0#20⟩) = some 0x042#10 := by decide +kernel
theorem test_class : encFault (.user .A) (.add ⟨0#4, 4#8, 0x20#8, 2#8, 0#4, 0#20⟩) = some 0x043#10 ∧
    encFault (.user .X) (.tadd ⟨0#4, 4#8, 0x21#8, 0x22#8, 0#4, 0#20⟩) = some 0x043#10 := by decide +kernel
theorem test_special_register : encFault (.user .A) (.csrr ⟨0#4, 4#8, 0#8, 0#8, 0#4, 0x00D#20⟩) = some 0x042#10 ∧
    encFault (.user .A) (.csrw ⟨0#4, 0#8, 1#8, 0#8, 0#4, 0x000#20⟩) = some 0x043#10 ∧
    encFault (.user .A) (.csrr ⟨0#4, 4#8, 0#8, 0#8, 0#4, 0x100#20⟩) = some 0x047#10 := by decide +kernel

/-! The spec's worked examples. -/

/-- Register s`n` of the executing agent after an instruction. -/
noncomputable def sAfter (i : Instr) (n : Nat) (s : State) : Word := let t := nextSt (exec i s); (t.hart t.cur).sreg n
def wAB (a b : Word) : State := wA.withHart fun h => (h.setS 1 a).setS 2 b

theorem test_mzip : sAfter (.mzip rrr) 4 (wAB 5#64 3#64) = 0x1B#64 := by decide +kernel
theorem test_maddx : sAfter (.maddx rrr) 4 (wAB 0x1B#64 1#64) = 0x1E#64 := by decide +kernel
theorem test_fcvt_number : sAfter (.fcvtLD ⟨1#4, 4#8, 1#8, 0#8, 0#4, 0#20⟩) 4 (wAB 0xC006000000000000#64 0#64) = 0xFFFFFFFFFFFFFFFE#64 := by
  decide +kernel
theorem test_fcvt_nan : sAfter (.fcvtLD ⟨1#4, 4#8, 1#8, 0#8, 0#4, 0#20⟩) 4 (wAB 0x7FF8000000000000#64 0#64) = 0#64 := by decide +kernel
theorem test_movi : sAfter (.movi ⟨0#4, 4#8, 0#8, 0x80000000#32⟩) 4 wA = 0xFFFFFFFF80000000#64 := by decide +kernel
theorem test_movhi : sAfter (.movhi ⟨0#4, 4#8, 0#8, 1#32⟩) 4 (wA.withHart fun h => h.setS 4 0x80000000#64) = 0x0000000180000000#64 := by
  decide +kernel
theorem test_add_wraps : sAfter (.add rrr) 4 (wAB 0xFFFFFFFFFFFFFFFF#64 2#64) = 1#64 := by decide +kernel
theorem test_sub_borrows : sAfter (.sub rrr) 4 (wAB 2#64 3#64) = 0xFFFFFFFFFFFFFFFF#64 := by decide +kernel

/-- The check value of CRC-32C: that of the nine digits. -/
theorem test_crc32c : crc32c [0x31#8, 0x32#8, 0x33#8, 0x34#8, 0x35#8, 0x36#8, 0x37#8, 0x38#8, 0x39#8] = 0xE3069283 := by decide +kernel
/-- FIPS 180-4's example: the digest of "abc". -/
theorem test_sha384 : (sha384 [0x61#8, 0x62#8, 0x63#8]).take 4 = [0xCB#8, 0x00#8, 0x75#8, 0x3F#8] := by decide +kernel

/-- The first step after reset runs the instruction placed for it. -/
theorem test_first_step : (let t := nextSt (step (State.reset.withFetchWord 64 0x0700040080000000));
    ((t.hart (.stream 0 .A)).sreg 4, (t.hart (.stream 0 .A)).pc)) = (0xFFFFFFFF80000000#64, 80) := by decide +kernel

/-! For every statement with hypotheses, clause by clause: a state and operands that meet them. -/

theorem w_AluResults_1 : ∃ x, ∃ (s : State), ∃ a, ∃ b, ∃ s1, ∃ s2, ∃ t, Issues (.add x) s ∧ readSrc 1 x.a s = .ok a s1 ∧ readSrc 2 x.b s1 = .ok b s2 ∧ (finish x.d (((fun a b => a + b) : Word → Word → Word) a b) s2 = .ok () t) :=
  ⟨rrr, wA, _, _, _, _, _, (issues_of (by decide +kernel)), (ok_of (by decide +kernel)), (ok_of (by decide +kernel)), (okU_of (by decide +kernel))⟩

theorem w_AluResults_2 : ∃ x, ∃ (s : State), ∃ a, ∃ b, ∃ s1, ∃ s2, ∃ t, Issues (.sub x) s ∧ readSrc 1 x.a s = .ok a s1 ∧ readSrc 2 x.b s1 = .ok b s2 ∧ (finish x.d (((fun a b => a - b) : Word → Word → Word) a b) s2 = .ok () t) :=
  ⟨rrr, wA, _, _, _, _, _, (issues_of (by decide +kernel)), (ok_of (by decide +kernel)), (ok_of (by decide +kernel)), (okU_of (by decide +kernel))⟩

theorem w_AluResults_3 : ∃ x, ∃ (s : State), ∃ a, ∃ b, ∃ s1, ∃ s2, ∃ t, Issues (.and x) s ∧ readSrc 1 x.a s = .ok a s1 ∧ readSrc 2 x.b s1 = .ok b s2 ∧ (finish x.d (((fun a b => a &&& b) : Word → Word → Word) a b) s2 = .ok () t) :=
  ⟨rrr, wA, _, _, _, _, _, (issues_of (by decide +kernel)), (ok_of (by decide +kernel)), (ok_of (by decide +kernel)), (okU_of (by decide +kernel))⟩

theorem w_AluResults_4 : ∃ x, ∃ (s : State), ∃ a, ∃ b, ∃ s1, ∃ s2, ∃ t, Issues (.or x) s ∧ readSrc 1 x.a s = .ok a s1 ∧ readSrc 2 x.b s1 = .ok b s2 ∧ (finish x.d (((fun a b => a ||| b) : Word → Word → Word) a b) s2 = .ok () t) :=
  ⟨rrr, wA, _, _, _, _, _, (issues_of (by decide +kernel)), (ok_of (by decide +kernel)), (ok_of (by decide +kernel)), (okU_of (by decide +kernel))⟩

theorem w_AluResults_5 : ∃ x, ∃ (s : State), ∃ a, ∃ b, ∃ s1, ∃ s2, ∃ t, Issues (.xor x) s ∧ readSrc 1 x.a s = .ok a s1 ∧ readSrc 2 x.b s1 = .ok b s2 ∧ (finish x.d (((fun a b => a ^^^ b) : Word → Word → Word) a b) s2 = .ok () t) :=
  ⟨rrr, wA, _, _, _, _, _, (issues_of (by decide +kernel)), (ok_of (by decide +kernel)), (ok_of (by decide +kernel)), (okU_of (by decide +kernel))⟩

theorem w_AluResults_6 : ∃ x, ∃ (s : State), ∃ a, ∃ b, ∃ s1, ∃ s2, ∃ t, Issues (.andn x) s ∧ readSrc 1 x.a s = .ok a s1 ∧ readSrc 2 x.b s1 = .ok b s2 ∧ (finish x.d (((fun a b => a &&& ~~~b) : Word → Word → Word) a b) s2 = .ok () t) :=
  ⟨rrr, wA, _, _, _, _, _, (issues_of (by decide +kernel)), (ok_of (by decide +kernel)), (ok_of (by decide +kernel)), (okU_of (by decide +kernel))⟩

theorem w_AluResults_7 : ∃ x, ∃ (s : State), ∃ a, ∃ b, ∃ s1, ∃ s2, ∃ t, Issues (.shl x) s ∧ readSrc 1 x.a s = .ok a s1 ∧ readSrc 2 x.b s1 = .ok b s2 ∧ (finish x.d (((fun a b => a <<< (b.toNat % 64)) : Word → Word → Word) a b) s2 = .ok () t) :=
  ⟨rrr, wA, _, _, _, _, _, (issues_of (by decide +kernel)), (ok_of (by decide +kernel)), (ok_of (by decide +kernel)), (okU_of (by decide +kernel))⟩

theorem w_AluResults_8 : ∃ x, ∃ (s : State), ∃ a, ∃ b, ∃ s1, ∃ s2, ∃ t, Issues (.shr x) s ∧ readSrc 1 x.a s = .ok a s1 ∧ readSrc 2 x.b s1 = .ok b s2 ∧ (finish x.d (((fun a b => a >>> (b.toNat % 64)) : Word → Word → Word) a b) s2 = .ok () t) :=
  ⟨rrr, wA, _, _, _, _, _, (issues_of (by decide +kernel)), (ok_of (by decide +kernel)), (ok_of (by decide +kernel)), (okU_of (by decide +kernel))⟩

theorem w_AluResults_9 : ∃ x, ∃ (s : State), ∃ a, ∃ b, ∃ s1, ∃ s2, ∃ t, Issues (.sar x) s ∧ readSrc 1 x.a s = .ok a s1 ∧ readSrc 2 x.b s1 = .ok b s2 ∧ (finish x.d (((fun a b => a.sshiftRight (b.toNat % 64)) : Word → Word → Word) a b) s2 = .ok () t) :=
  ⟨rrr, wA, _, _, _, _, _, (issues_of (by decide +kernel)), (ok_of (by decide +kernel)), (ok_of (by decide +kernel)), (okU_of (by decide +kernel))⟩

theorem w_AluResults_10 : ∃ x, ∃ (s : State), ∃ a, ∃ b, ∃ s1, ∃ s2, ∃ t, Issues (.rol x) s ∧ readSrc 1 x.a s = .ok a s1 ∧ readSrc 2 x.b s1 = .ok b s2 ∧ (finish x.d (((fun a b => a.rotateLeft (b.toNat % 64)) : Word → Word → Word) a b) s2 = .ok () t) :=
  ⟨rrr, wA, _, _, _, _, _, (issues_of (by decide +kernel)), (ok_of (by decide +kernel)), (ok_of (by decide +kernel)), (okU_of (by decide +kernel))⟩

theorem w_AluResults_11 : ∃ x, ∃ (s : State), ∃ a, ∃ b, ∃ s1, ∃ s2, ∃ t, Issues (.min x) s ∧ readSrc 1 x.a s = .ok a s1 ∧ readSrc 2 x.b s1 = .ok b s2 ∧ (finish x.d (((fun a b => if a.toInt < b.toInt then a else b) : Word → Word → Word) a b) s2 = .ok () t) :=
  ⟨rrr, wA, _, _, _, _, _, (issues_of (by decide +kernel)), (ok_of (by decide +kernel)), (ok_of (by decide +kernel)), (okU_of (by decide +kernel))⟩

theorem w_AluResults_12 : ∃ x, ∃ (s : State), ∃ a, ∃ b, ∃ s1, ∃ s2, ∃ t, Issues (.max x) s ∧ readSrc 1 x.a s = .ok a s1 ∧ readSrc 2 x.b s1 = .ok b s2 ∧ (finish x.d (((fun a b => if a.toInt < b.toInt then b else a) : Word → Word → Word) a b) s2 = .ok () t) :=
  ⟨rrr, wA, _, _, _, _, _, (issues_of (by decide +kernel)), (ok_of (by decide +kernel)), (ok_of (by decide +kernel)), (okU_of (by decide +kernel))⟩

theorem w_AluResults_13 : ∃ x, ∃ (s : State), ∃ a, ∃ b, ∃ s1, ∃ s2, ∃ t, Issues (.minu x) s ∧ readSrc 1 x.a s = .ok a s1 ∧ readSrc 2 x.b s1 = .ok b s2 ∧ (finish x.d (((fun a b => if a.toNat < b.toNat then a else b) : Word → Word → Word) a b) s2 = .ok () t) :=
  ⟨rrr, wA, _, _, _, _, _, (issues_of (by decide +kernel)), (ok_of (by decide +kernel)), (ok_of (by decide +kernel)), (okU_of (by decide +kernel))⟩

theorem w_AluResults_14 : ∃ x, ∃ (s : State), ∃ a, ∃ b, ∃ s1, ∃ s2, ∃ t, Issues (.maxu x) s ∧ readSrc 1 x.a s = .ok a s1 ∧ readSrc 2 x.b s1 = .ok b s2 ∧ (finish x.d (((fun a b => if a.toNat < b.toNat then b else a) : Word → Word → Word) a b) s2 = .ok () t) :=
  ⟨rrr, wA, _, _, _, _, _, (issues_of (by decide +kernel)), (ok_of (by decide +kernel)), (ok_of (by decide +kernel)), (okU_of (by decide +kernel))⟩

theorem w_AluResults_15 : ∃ x, ∃ (s : State), ∃ a, ∃ b, ∃ s1, ∃ s2, ∃ t, Issues (.mul x) s ∧ readSrc 1 x.a s = .ok a s1 ∧ readSrc 2 x.b s1 = .ok b s2 ∧ (finish x.d (((fun a b => a * b) : Word → Word → Word) a b) s2 = .ok () t) :=
  ⟨rrr, wA, _, _, _, _, _, (issues_of (by decide +kernel)), (ok_of (by decide +kernel)), (ok_of (by decide +kernel)), (okU_of (by decide +kernel))⟩

theorem w_AluResults_16 : ∃ x, ∃ (s : State), ∃ a, ∃ b, ∃ s1, ∃ s2, ∃ t, Issues (.mulh x) s ∧ readSrc 1 x.a s = .ok a s1 ∧ readSrc 2 x.b s1 = .ok b s2 ∧ (finish x.d (((fun a b => BitVec.ofInt 64 (a.toInt * b.toInt / 2 ^ 64)) : Word → Word → Word) a b) s2 = .ok () t) :=
  ⟨rrr, wA, _, _, _, _, _, (issues_of (by decide +kernel)), (ok_of (by decide +kernel)), (ok_of (by decide +kernel)), (okU_of (by decide +kernel))⟩

theorem w_AluResults_17 : ∃ x, ∃ (s : State), ∃ a, ∃ s1, ∃ t, Issues (.addi x) s ∧ readSrc 1 x.a s = .ok a s1 ∧ (finish x.d (((fun a b => a + b) : Word → Word → Word) a (x.imm.signExtend 64)) s1 = .ok () t) :=
  ⟨rri, wA, _, _, _, (issues_of (by decide +kernel)), (ok_of (by decide +kernel)), (okU_of (by decide +kernel))⟩

theorem w_AluResults_18 : ∃ x, ∃ (s : State), ∃ a, ∃ s1, ∃ t, Issues (.subi x) s ∧ readSrc 1 x.a s = .ok a s1 ∧ (finish x.d (((fun a b => a - b) : Word → Word → Word) a (x.imm.signExtend 64)) s1 = .ok () t) :=
  ⟨rri, wA, _, _, _, (issues_of (by decide +kernel)), (ok_of (by decide +kernel)), (okU_of (by decide +kernel))⟩

theorem w_AluResults_19 : ∃ x, ∃ (s : State), ∃ a, ∃ s1, ∃ t, Issues (.andi x) s ∧ readSrc 1 x.a s = .ok a s1 ∧ (finish x.d (((fun a b => a &&& b) : Word → Word → Word) a (x.imm.signExtend 64)) s1 = .ok () t) :=
  ⟨rri, wA, _, _, _, (issues_of (by decide +kernel)), (ok_of (by decide +kernel)), (okU_of (by decide +kernel))⟩

theorem w_AluResults_20 : ∃ x, ∃ (s : State), ∃ a, ∃ s1, ∃ t, Issues (.ori x) s ∧ readSrc 1 x.a s = .ok a s1 ∧ (finish x.d (((fun a b => a ||| b) : Word → Word → Word) a (x.imm.signExtend 64)) s1 = .ok () t) :=
  ⟨rri, wA, _, _, _, (issues_of (by decide +kernel)), (ok_of (by decide +kernel)), (okU_of (by decide +kernel))⟩

theorem w_AluResults_21 : ∃ x, ∃ (s : State), ∃ a, ∃ s1, ∃ t, Issues (.xori x) s ∧ readSrc 1 x.a s = .ok a s1 ∧ (finish x.d (((fun a b => a ^^^ b) : Word → Word → Word) a (x.imm.signExtend 64)) s1 = .ok () t) :=
  ⟨rri, wA, _, _, _, (issues_of (by decide +kernel)), (ok_of (by decide +kernel)), (okU_of (by decide +kernel))⟩

theorem w_AluResults_22 : ∃ x, ∃ (s : State), ∃ a, ∃ s1, ∃ t, Issues (.andni x) s ∧ readSrc 1 x.a s = .ok a s1 ∧ (finish x.d (((fun a b => a &&& ~~~b) : Word → Word → Word) a (x.imm.signExtend 64)) s1 = .ok () t) :=
  ⟨rri, wA, _, _, _, (issues_of (by decide +kernel)), (ok_of (by decide +kernel)), (okU_of (by decide +kernel))⟩

theorem w_AluResults_23 : ∃ x, ∃ (s : State), ∃ a, ∃ s1, ∃ t, Issues (.shli x) s ∧ readSrc 1 x.a s = .ok a s1 ∧ (finish x.d (((fun a b => a <<< (b.toNat % 64)) : Word → Word → Word) a (x.imm.signExtend 64)) s1 = .ok () t) :=
  ⟨rri, wA, _, _, _, (issues_of (by decide +kernel)), (ok_of (by decide +kernel)), (okU_of (by decide +kernel))⟩

theorem w_AluResults_24 : ∃ x, ∃ (s : State), ∃ a, ∃ s1, ∃ t, Issues (.shri x) s ∧ readSrc 1 x.a s = .ok a s1 ∧ (finish x.d (((fun a b => a >>> (b.toNat % 64)) : Word → Word → Word) a (x.imm.signExtend 64)) s1 = .ok () t) :=
  ⟨rri, wA, _, _, _, (issues_of (by decide +kernel)), (ok_of (by decide +kernel)), (okU_of (by decide +kernel))⟩

theorem w_AluResults_25 : ∃ x, ∃ (s : State), ∃ a, ∃ s1, ∃ t, Issues (.sari x) s ∧ readSrc 1 x.a s = .ok a s1 ∧ (finish x.d (((fun a b => a.sshiftRight (b.toNat % 64)) : Word → Word → Word) a (x.imm.signExtend 64)) s1 = .ok () t) :=
  ⟨rri, wA, _, _, _, (issues_of (by decide +kernel)), (ok_of (by decide +kernel)), (okU_of (by decide +kernel))⟩

theorem w_AluResults_26 : ∃ x, ∃ (s : State), ∃ a, ∃ s1, ∃ t, Issues (.roli x) s ∧ readSrc 1 x.a s = .ok a s1 ∧ (finish x.d (((fun a b => a.rotateLeft (b.toNat % 64)) : Word → Word → Word) a (x.imm.signExtend 64)) s1 = .ok () t) :=
  ⟨rri, wA, _, _, _, (issues_of (by decide +kernel)), (ok_of (by decide +kernel)), (okU_of (by decide +kernel))⟩

theorem w_AluResults_27 : ∃ x, ∃ (s : State), ∃ a, ∃ s1, ∃ t, Issues (.mini x) s ∧ readSrc 1 x.a s = .ok a s1 ∧ (finish x.d (((fun a b => if a.toInt < b.toInt then a else b) : Word → Word → Word) a (x.imm.signExtend 64)) s1 = .ok () t) :=
  ⟨rri, wA, _, _, _, (issues_of (by decide +kernel)), (ok_of (by decide +kernel)), (okU_of (by decide +kernel))⟩

theorem w_AluResults_28 : ∃ x, ∃ (s : State), ∃ a, ∃ s1, ∃ t, Issues (.maxi x) s ∧ readSrc 1 x.a s = .ok a s1 ∧ (finish x.d (((fun a b => if a.toInt < b.toInt then b else a) : Word → Word → Word) a (x.imm.signExtend 64)) s1 = .ok () t) :=
  ⟨rri, wA, _, _, _, (issues_of (by decide +kernel)), (ok_of (by decide +kernel)), (okU_of (by decide +kernel))⟩

theorem w_AluResults_29 : ∃ x, ∃ (s : State), ∃ a, ∃ s1, ∃ t, Issues (.minui x) s ∧ readSrc 1 x.a s = .ok a s1 ∧ (finish x.d (((fun a b => if a.toNat < b.toNat then a else b) : Word → Word → Word) a (x.imm.signExtend 64)) s1 = .ok () t) :=
  ⟨rri, wA, _, _, _, (issues_of (by decide +kernel)), (ok_of (by decide +kernel)), (okU_of (by decide +kernel))⟩

theorem w_AluResults_30 : ∃ x, ∃ (s : State), ∃ a, ∃ s1, ∃ t, Issues (.maxui x) s ∧ readSrc 1 x.a s = .ok a s1 ∧ (finish x.d (((fun a b => if a.toNat < b.toNat then b else a) : Word → Word → Word) a (x.imm.signExtend 64)) s1 = .ok () t) :=
  ⟨rri, wA, _, _, _, (issues_of (by decide +kernel)), (ok_of (by decide +kernel)), (okU_of (by decide +kernel))⟩

theorem w_AluResults_31 : ∃ x, ∃ (s : State), ∃ a, ∃ s1, ∃ t, Issues (.muli x) s ∧ readSrc 1 x.a s = .ok a s1 ∧ (finish x.d (((fun a b => a * b) : Word → Word → Word) a (x.imm.signExtend 64)) s1 = .ok () t) :=
  ⟨rri, wA, _, _, _, (issues_of (by decide +kernel)), (ok_of (by decide +kernel)), (okU_of (by decide +kernel))⟩

theorem w_AluResults_32 : ∃ x, ∃ (s : State), ∃ a, ∃ s1, ∃ t, Issues (.mulhi x) s ∧ readSrc 1 x.a s = .ok a s1 ∧ (finish x.d (((fun a b => BitVec.ofInt 64 (a.toInt * b.toInt / 2 ^ 64)) : Word → Word → Word) a (x.imm.signExtend 64)) s1 = .ok () t) :=
  ⟨rri, wA, _, _, _, (issues_of (by decide +kernel)), (ok_of (by decide +kernel)), (okU_of (by decide +kernel))⟩

theorem w_MuldivResults_2 : ∃ x, ∃ (s : State), ∃ a, ∃ b, ∃ s1, ∃ s2, ∃ t, Issues (.mulhu x) s ∧ readSrc 1 x.a s = .ok a s1 ∧ readSrc 2 x.b s1 = .ok b s2 ∧ (finish x.d (((fun a b => BitVec.ofNat 64 (a.toNat * b.toNat / 2 ^ 64)) : Word → Word → Word) a b) s2 = .ok () t) :=
  ⟨rrr, wA, _, _, _, _, _, (issues_of (by decide +kernel)), (ok_of (by decide +kernel)), (ok_of (by decide +kernel)), (okU_of (by decide +kernel))⟩

theorem w_MuldivResults_3 : ∃ x, ∃ (s : State), ∃ a, ∃ b, ∃ s1, ∃ s2, ∃ t, Issues (.div x) s ∧ readSrc 1 x.a s = .ok a s1 ∧ readSrc 2 x.b s1 = .ok b s2 ∧ (finish x.d (((fun a b => if b = 0#64 then 0xFFFFFFFFFFFFFFFF#64 else BitVec.ofInt 64 (a.toInt.tdiv b.toInt)) : Word → Word → Word) a b) s2 = .ok () t) :=
  ⟨rrr, wA, _, _, _, _, _, (issues_of (by decide +kernel)), (ok_of (by decide +kernel)), (ok_of (by decide +kernel)), (okU_of (by decide +kernel))⟩

theorem w_MuldivResults_4 : ∃ x, ∃ (s : State), ∃ a, ∃ b, ∃ s1, ∃ s2, ∃ t, Issues (.divu x) s ∧ readSrc 1 x.a s = .ok a s1 ∧ readSrc 2 x.b s1 = .ok b s2 ∧ (finish x.d (((fun a b => if b = 0#64 then 0xFFFFFFFFFFFFFFFF#64 else BitVec.ofNat 64 (a.toNat / b.toNat)) : Word → Word → Word) a b) s2 = .ok () t) :=
  ⟨rrr, wA, _, _, _, _, _, (issues_of (by decide +kernel)), (ok_of (by decide +kernel)), (ok_of (by decide +kernel)), (okU_of (by decide +kernel))⟩

theorem w_MuldivResults_5 : ∃ x, ∃ (s : State), ∃ a, ∃ b, ∃ s1, ∃ s2, ∃ t, Issues (.rem x) s ∧ readSrc 1 x.a s = .ok a s1 ∧ readSrc 2 x.b s1 = .ok b s2 ∧ (finish x.d (((fun a b => if b = 0#64 then a else BitVec.ofInt 64 (a.toInt - b.toInt * a.toInt.tdiv b.toInt)) : Word → Word → Word) a b) s2 = .ok () t) :=
  ⟨rrr, wA, _, _, _, _, _, (issues_of (by decide +kernel)), (ok_of (by decide +kernel)), (ok_of (by decide +kernel)), (okU_of (by decide +kernel))⟩

theorem w_MuldivResults_6 : ∃ x, ∃ (s : State), ∃ a, ∃ b, ∃ s1, ∃ s2, ∃ t, Issues (.remu x) s ∧ readSrc 1 x.a s = .ok a s1 ∧ readSrc 2 x.b s1 = .ok b s2 ∧ (finish x.d (((fun a b => if b = 0#64 then a else BitVec.ofNat 64 (a.toNat - b.toNat * (a.toNat / b.toNat))) : Word → Word → Word) a b) s2 = .ok () t) :=
  ⟨rrr, wA, _, _, _, _, _, (issues_of (by decide +kernel)), (ok_of (by decide +kernel)), (ok_of (by decide +kernel)), (okU_of (by decide +kernel))⟩

theorem w_CompareResults_2 : ∃ c, ∃ n, Sel.ofCode c = .s n :=
  ⟨4#8, 4, (by decide +kernel)⟩

theorem w_CompareResults_3 : ∃ c, ∃ n, Sel.ofCode c = .g n :=
  ⟨0x81#8, 1, (by decide +kernel)⟩

theorem w_CompareResults_5 : ∃ x, ∃ (s : State), ∃ a, ∃ b, ∃ s1, ∃ s2, ∃ t, Issues (.cmpEq x) s ∧ readSrc 1 x.a s = .ok a s1 ∧ readSrc 2 x.b s1 = .ok b s2 ∧ (finish x.d (((fun a b => boolWord (a == b)) : Word → Word → Word) a b) s2 = .ok () t) :=
  ⟨rrr, wA, _, _, _, _, _, (issues_of (by decide +kernel)), (ok_of (by decide +kernel)), (ok_of (by decide +kernel)), (okU_of (by decide +kernel))⟩

theorem w_CompareResults_6 : ∃ x, ∃ (s : State), ∃ a, ∃ b, ∃ s1, ∃ s2, ∃ t, Issues (.cmpNe x) s ∧ readSrc 1 x.a s = .ok a s1 ∧ readSrc 2 x.b s1 = .ok b s2 ∧ (finish x.d (((fun a b => boolWord (a != b)) : Word → Word → Word) a b) s2 = .ok () t) :=
  ⟨rrr, wA, _, _, _, _, _, (issues_of (by decide +kernel)), (ok_of (by decide +kernel)), (ok_of (by decide +kernel)), (okU_of (by decide +kernel))⟩

theorem w_CompareResults_7 : ∃ x, ∃ (s : State), ∃ a, ∃ b, ∃ s1, ∃ s2, ∃ t, Issues (.cmpLt x) s ∧ readSrc 1 x.a s = .ok a s1 ∧ readSrc 2 x.b s1 = .ok b s2 ∧ (finish x.d (((fun a b => boolWord (decide (a.toInt < b.toInt))) : Word → Word → Word) a b) s2 = .ok () t) :=
  ⟨rrr, wA, _, _, _, _, _, (issues_of (by decide +kernel)), (ok_of (by decide +kernel)), (ok_of (by decide +kernel)), (okU_of (by decide +kernel))⟩

theorem w_CompareResults_8 : ∃ x, ∃ (s : State), ∃ a, ∃ b, ∃ s1, ∃ s2, ∃ t, Issues (.cmpLe x) s ∧ readSrc 1 x.a s = .ok a s1 ∧ readSrc 2 x.b s1 = .ok b s2 ∧ (finish x.d (((fun a b => boolWord (decide (a.toInt ≤ b.toInt))) : Word → Word → Word) a b) s2 = .ok () t) :=
  ⟨rrr, wA, _, _, _, _, _, (issues_of (by decide +kernel)), (ok_of (by decide +kernel)), (ok_of (by decide +kernel)), (okU_of (by decide +kernel))⟩

theorem w_CompareResults_9 : ∃ x, ∃ (s : State), ∃ a, ∃ b, ∃ s1, ∃ s2, ∃ t, Issues (.cmpLtu x) s ∧ readSrc 1 x.a s = .ok a s1 ∧ readSrc 2 x.b s1 = .ok b s2 ∧ (finish x.d (((fun a b => boolWord (decide (a.toNat < b.toNat))) : Word → Word → Word) a b) s2 = .ok () t) :=
  ⟨rrr, wA, _, _, _, _, _, (issues_of (by decide +kernel)), (ok_of (by decide +kernel)), (ok_of (by decide +kernel)), (okU_of (by decide +kernel))⟩

theorem w_CompareResults_10 : ∃ x, ∃ (s : State), ∃ a, ∃ b, ∃ s1, ∃ s2, ∃ t, Issues (.cmpLeu x) s ∧ readSrc 1 x.a s = .ok a s1 ∧ readSrc 2 x.b s1 = .ok b s2 ∧ (finish x.d (((fun a b => boolWord (decide (a.toNat ≤ b.toNat))) : Word → Word → Word) a b) s2 = .ok () t) :=
  ⟨rrr, wA, _, _, _, _, _, (issues_of (by decide +kernel)), (ok_of (by decide +kernel)), (ok_of (by decide +kernel)), (okU_of (by decide +kernel))⟩

theorem w_CompareResults_11 : ∃ x, ∃ (s : State), ∃ a, ∃ b, ∃ s1, ∃ s2, ∃ t, Issues (.cmpGt x) s ∧ readSrc 1 x.a s = .ok a s1 ∧ readSrc 2 x.b s1 = .ok b s2 ∧ (finish x.d (((fun a b => boolWord (decide (b.toInt < a.toInt))) : Word → Word → Word) a b) s2 = .ok () t) :=
  ⟨rrr, wA, _, _, _, _, _, (issues_of (by decide +kernel)), (ok_of (by decide +kernel)), (ok_of (by decide +kernel)), (okU_of (by decide +kernel))⟩

theorem w_CompareResults_12 : ∃ x, ∃ (s : State), ∃ a, ∃ b, ∃ s1, ∃ s2, ∃ t, Issues (.cmpGe x) s ∧ readSrc 1 x.a s = .ok a s1 ∧ readSrc 2 x.b s1 = .ok b s2 ∧ (finish x.d (((fun a b => boolWord (decide (b.toInt ≤ a.toInt))) : Word → Word → Word) a b) s2 = .ok () t) :=
  ⟨rrr, wA, _, _, _, _, _, (issues_of (by decide +kernel)), (ok_of (by decide +kernel)), (ok_of (by decide +kernel)), (okU_of (by decide +kernel))⟩

theorem w_CompareResults_13 : ∃ x, ∃ (s : State), ∃ a, ∃ b, ∃ s1, ∃ s2, ∃ t, Issues (.cmpGtu x) s ∧ readSrc 1 x.a s = .ok a s1 ∧ readSrc 2 x.b s1 = .ok b s2 ∧ (finish x.d (((fun a b => boolWord (decide (b.toNat < a.toNat))) : Word → Word → Word) a b) s2 = .ok () t) :=
  ⟨rrr, wA, _, _, _, _, _, (issues_of (by decide +kernel)), (ok_of (by decide +kernel)), (ok_of (by decide +kernel)), (okU_of (by decide +kernel))⟩

theorem w_CompareResults_14 : ∃ x, ∃ (s : State), ∃ a, ∃ b, ∃ s1, ∃ s2, ∃ t, Issues (.cmpGeu x) s ∧ readSrc 1 x.a s = .ok a s1 ∧ readSrc 2 x.b s1 = .ok b s2 ∧ (finish x.d (((fun a b => boolWord (decide (b.toNat ≤ a.toNat))) : Word → Word → Word) a b) s2 = .ok () t) :=
  ⟨rrr, wA, _, _, _, _, _, (issues_of (by decide +kernel)), (ok_of (by decide +kernel)), (ok_of (by decide +kernel)), (okU_of (by decide +kernel))⟩

theorem w_CompareResults_15 : ∃ x, ∃ (s : State), ∃ a, ∃ s1, ∃ t, Issues (.cmpiEq x) s ∧ readSrc 1 x.a s = .ok a s1 ∧ (finish x.d (((fun a b => boolWord (a == b)) : Word → Word → Word) a (x.imm.signExtend 64)) s1 = .ok () t) :=
  ⟨rri, wA, _, _, _, (issues_of (by decide +kernel)), (ok_of (by decide +kernel)), (okU_of (by decide +kernel))⟩

theorem w_CompareResults_16 : ∃ x, ∃ (s : State), ∃ a, ∃ s1, ∃ t, Issues (.cmpiNe x) s ∧ readSrc 1 x.a s = .ok a s1 ∧ (finish x.d (((fun a b => boolWord (a != b)) : Word → Word → Word) a (x.imm.signExtend 64)) s1 = .ok () t) :=
  ⟨rri, wA, _, _, _, (issues_of (by decide +kernel)), (ok_of (by decide +kernel)), (okU_of (by decide +kernel))⟩

theorem w_CompareResults_17 : ∃ x, ∃ (s : State), ∃ a, ∃ s1, ∃ t, Issues (.cmpiLt x) s ∧ readSrc 1 x.a s = .ok a s1 ∧ (finish x.d (((fun a b => boolWord (decide (a.toInt < b.toInt))) : Word → Word → Word) a (x.imm.signExtend 64)) s1 = .ok () t) :=
  ⟨rri, wA, _, _, _, (issues_of (by decide +kernel)), (ok_of (by decide +kernel)), (okU_of (by decide +kernel))⟩

theorem w_CompareResults_18 : ∃ x, ∃ (s : State), ∃ a, ∃ s1, ∃ t, Issues (.cmpiLe x) s ∧ readSrc 1 x.a s = .ok a s1 ∧ (finish x.d (((fun a b => boolWord (decide (a.toInt ≤ b.toInt))) : Word → Word → Word) a (x.imm.signExtend 64)) s1 = .ok () t) :=
  ⟨rri, wA, _, _, _, (issues_of (by decide +kernel)), (ok_of (by decide +kernel)), (okU_of (by decide +kernel))⟩

theorem w_CompareResults_19 : ∃ x, ∃ (s : State), ∃ a, ∃ s1, ∃ t, Issues (.cmpiLtu x) s ∧ readSrc 1 x.a s = .ok a s1 ∧ (finish x.d (((fun a b => boolWord (decide (a.toNat < b.toNat))) : Word → Word → Word) a (x.imm.signExtend 64)) s1 = .ok () t) :=
  ⟨rri, wA, _, _, _, (issues_of (by decide +kernel)), (ok_of (by decide +kernel)), (okU_of (by decide +kernel))⟩

theorem w_CompareResults_20 : ∃ x, ∃ (s : State), ∃ a, ∃ s1, ∃ t, Issues (.cmpiLeu x) s ∧ readSrc 1 x.a s = .ok a s1 ∧ (finish x.d (((fun a b => boolWord (decide (a.toNat ≤ b.toNat))) : Word → Word → Word) a (x.imm.signExtend 64)) s1 = .ok () t) :=
  ⟨rri, wA, _, _, _, (issues_of (by decide +kernel)), (ok_of (by decide +kernel)), (okU_of (by decide +kernel))⟩

theorem w_CompareResults_21 : ∃ x, ∃ (s : State), ∃ a, ∃ s1, ∃ t, Issues (.cmpiGt x) s ∧ readSrc 1 x.a s = .ok a s1 ∧ (finish x.d (((fun a b => boolWord (decide (b.toInt < a.toInt))) : Word → Word → Word) a (x.imm.signExtend 64)) s1 = .ok () t) :=
  ⟨rri, wA, _, _, _, (issues_of (by decide +kernel)), (ok_of (by decide +kernel)), (okU_of (by decide +kernel))⟩

theorem w_CompareResults_22 : ∃ x, ∃ (s : State), ∃ a, ∃ s1, ∃ t, Issues (.cmpiGe x) s ∧ readSrc 1 x.a s = .ok a s1 ∧ (finish x.d (((fun a b => boolWord (decide (b.toInt ≤ a.toInt))) : Word → Word → Word) a (x.imm.signExtend 64)) s1 = .ok () t) :=
  ⟨rri, wA, _, _, _, (issues_of (by decide +kernel)), (ok_of (by decide +kernel)), (okU_of (by decide +kernel))⟩

theorem w_CompareResults_23 : ∃ x, ∃ (s : State), ∃ a, ∃ s1, ∃ t, Issues (.cmpiGtu x) s ∧ readSrc 1 x.a s = .ok a s1 ∧ (finish x.d (((fun a b => boolWord (decide (b.toNat < a.toNat))) : Word → Word → Word) a (x.imm.signExtend 64)) s1 = .ok () t) :=
  ⟨rri, wA, _, _, _, (issues_of (by decide +kernel)), (ok_of (by decide +kernel)), (okU_of (by decide +kernel))⟩

theorem w_CompareResults_24 : ∃ x, ∃ (s : State), ∃ a, ∃ s1, ∃ t, Issues (.cmpiGeu x) s ∧ readSrc 1 x.a s = .ok a s1 ∧ (finish x.d (((fun a b => boolWord (decide (b.toNat ≤ a.toNat))) : Word → Word → Word) a (x.imm.signExtend 64)) s1 = .ok () t) :=
  ⟨rri, wA, _, _, _, (issues_of (by decide +kernel)), (ok_of (by decide +kernel)), (okU_of (by decide +kernel))⟩

theorem w_BitsResults_2 : ∃ x, ∃ (s : State), ∃ a, ∃ s1, ∃ t, Issues (.sext8 x) s ∧ readSrc 1 x.a s = .ok a s1 ∧ (finish x.d (((fun a => (a.extractLsb' 0 8).signExtend 64) : Word → Word) a) s1 = .ok () t) :=
  ⟨r1, wA, _, _, _, (issues_of (by decide +kernel)), (ok_of (by decide +kernel)), (okU_of (by decide +kernel))⟩

theorem w_BitsResults_3 : ∃ x, ∃ (s : State), ∃ a, ∃ s1, ∃ t, Issues (.sext16 x) s ∧ readSrc 1 x.a s = .ok a s1 ∧ (finish x.d (((fun a => (a.extractLsb' 0 16).signExtend 64) : Word → Word) a) s1 = .ok () t) :=
  ⟨r1, wA, _, _, _, (issues_of (by decide +kernel)), (ok_of (by decide +kernel)), (okU_of (by decide +kernel))⟩

theorem w_BitsResults_4 : ∃ x, ∃ (s : State), ∃ a, ∃ s1, ∃ t, Issues (.sext32 x) s ∧ readSrc 1 x.a s = .ok a s1 ∧ (finish x.d (((fun a => (a.extractLsb' 0 32).signExtend 64) : Word → Word) a) s1 = .ok () t) :=
  ⟨r1, wA, _, _, _, (issues_of (by decide +kernel)), (ok_of (by decide +kernel)), (okU_of (by decide +kernel))⟩

theorem w_BitsResults_5 : ∃ x, ∃ (s : State), ∃ a, ∃ s1, ∃ t, Issues (.zext8 x) s ∧ readSrc 1 x.a s = .ok a s1 ∧ (finish x.d (((fun a => (a.extractLsb' 0 8).setWidth 64) : Word → Word) a) s1 = .ok () t) :=
  ⟨r1, wA, _, _, _, (issues_of (by decide +kernel)), (ok_of (by decide +kernel)), (okU_of (by decide +kernel))⟩

theorem w_BitsResults_6 : ∃ x, ∃ (s : State), ∃ a, ∃ s1, ∃ t, Issues (.zext16 x) s ∧ readSrc 1 x.a s = .ok a s1 ∧ (finish x.d (((fun a => (a.extractLsb' 0 16).setWidth 64) : Word → Word) a) s1 = .ok () t) :=
  ⟨r1, wA, _, _, _, (issues_of (by decide +kernel)), (ok_of (by decide +kernel)), (okU_of (by decide +kernel))⟩

theorem w_BitsResults_7 : ∃ x, ∃ (s : State), ∃ a, ∃ s1, ∃ t, Issues (.zext32 x) s ∧ readSrc 1 x.a s = .ok a s1 ∧ (finish x.d (((fun a => (a.extractLsb' 0 32).setWidth 64) : Word → Word) a) s1 = .ok () t) :=
  ⟨r1, wA, _, _, _, (issues_of (by decide +kernel)), (ok_of (by decide +kernel)), (okU_of (by decide +kernel))⟩

theorem w_AddrResults_1 : ∃ x, ∃ (s : State), ∃ a, ∃ b, ∃ s1, ∃ s2, ∃ t, Issues (.shadd x) s ∧ readSrc 1 x.a s = .ok a s1 ∧ readSrc 2 x.b s1 = .ok b s2 ∧ finish x.d (a + b <<< (x.imm.toNat % 8)) s2 = .ok () t :=
  ⟨rrr, wA, _, _, _, _, _, (issues_of (by decide +kernel)), (ok_of (by decide +kernel)), (ok_of (by decide +kernel)), (okU_of (by decide +kernel))⟩

theorem w_AddrResults_2 : ∃ x, ∃ (s : State), ∃ a, ∃ b, ∃ s1, ∃ s2, ∃ t, Issues (.alignup x) s ∧ readSrc 1 x.a s = .ok a s1 ∧ readSrc 2 x.b s1 = .ok b s2 ∧ (finish x.d (((fun a b => (a + BitVec.ofNat 64 (2 ^ (b.toNat % 64) - 1)) &&& ~~~ BitVec.ofNat 64 (2 ^ (b.toNat % 64) - 1)) : Word → Word → Word) a b) s2 = .ok () t) :=
  ⟨rrr, wA, _, _, _, _, _, (issues_of (by decide +kernel)), (ok_of (by decide +kernel)), (ok_of (by decide +kernel)), (okU_of (by decide +kernel))⟩

theorem w_AddrResults_3 : ∃ x, ∃ (s : State), ∃ a, ∃ b, ∃ s1, ∃ s2, ∃ t, Issues (.aligndn x) s ∧ readSrc 1 x.a s = .ok a s1 ∧ readSrc 2 x.b s1 = .ok b s2 ∧ (finish x.d (((fun a b => a &&& ~~~ BitVec.ofNat 64 (2 ^ (b.toNat % 64) - 1)) : Word → Word → Word) a b) s2 = .ok () t) :=
  ⟨rrr, wA, _, _, _, _, _, (issues_of (by decide +kernel)), (ok_of (by decide +kernel)), (ok_of (by decide +kernel)), (okU_of (by decide +kernel))⟩

theorem w_MoveAndGuardResults_1 : ∃ x, ∃ (s : State), ∃ t, Issues (.movi x) s ∧ finish x.d (x.imm.signExtend 64) s = .ok () t :=
  ⟨⟨0#4, 4#8, 0#8, 0x80000000#32⟩, wA, _, (issues_of (by decide +kernel)), (okU_of (by decide +kernel))⟩

theorem w_MoveAndGuardResults_2 : ∃ x, ∃ (s : State), ∃ d, ∃ s1, ∃ t, Issues (.movhi x) s ∧ readSrc 0 x.d s = .ok d s1 ∧ finish x.d (x.imm ++ d.extractLsb' 0 32) s1 = .ok () t :=
  ⟨⟨0#4, 4#8, 0#8, 1#32⟩, wA, _, _, _, (issues_of (by decide +kernel)), (ok_of (by decide +kernel)), (okU_of (by decide +kernel))⟩

theorem w_MoveAndGuardResults_3 : ∃ x, ∃ (s : State), ∃ a, ∃ s1, ∃ t, Issues (.mov x) s ∧ readSrc 1 x.a s = .ok a s1 ∧ (finish x.d (((fun a => a) : Word → Word) a) s1 = .ok () t) :=
  ⟨r1, wA, _, _, _, (issues_of (by decide +kernel)), (ok_of (by decide +kernel)), (okU_of (by decide +kernel))⟩

theorem w_MoveAndGuardResults_4 : ∃ x, ∃ (s : State), ∃ a, ∃ b, ∃ g, ∃ s1, ∃ s2, ∃ s3, ∃ t, Issues (.sel x) s ∧ readSrc 1 x.a s = .ok a s1 ∧ readSrc 2 x.b s1 = .ok b s2 ∧ readGuard (x.imm.extractLsb' 0 8) s2 = .ok g s3 ∧ (finish x.d (if g then a else b) s3 = .ok () t) :=
  ⟨{ rrr with imm := 0x81#20 }, wA, _, _, _, _, _, _, _, (issues_of (by decide +kernel)), (ok_of (by decide +kernel)), (ok_of (by decide +kernel)), (ok_of (by decide +kernel)), (okU_of (by decide +kernel))⟩

theorem w_MoveAndGuardResults_5 : ∃ x, ∃ (s : State), ∃ a, ∃ b, ∃ s1, ∃ s2, ∃ t, Issues (.gand x) s ∧ readGuard x.a s = .ok a s1 ∧ readGuard x.b s1 = .ok b s2 ∧ (finish x.d (boolWord (((fun a b => a && b) : Bool → Bool → Bool) a b)) s2 = .ok () t) :=
  ⟨ggg, wA, _, _, _, _, _, (issues_of (by decide +kernel)), (ok_of (by decide +kernel)), (ok_of (by decide +kernel)), (okU_of (by decide +kernel))⟩

theorem w_MoveAndGuardResults_6 : ∃ x, ∃ (s : State), ∃ a, ∃ b, ∃ s1, ∃ s2, ∃ t, Issues (.gor x) s ∧ readGuard x.a s = .ok a s1 ∧ readGuard x.b s1 = .ok b s2 ∧ (finish x.d (boolWord (((fun a b => a || b) : Bool → Bool → Bool) a b)) s2 = .ok () t) :=
  ⟨ggg, wA, _, _, _, _, _, (issues_of (by decide +kernel)), (ok_of (by decide +kernel)), (ok_of (by decide +kernel)), (okU_of (by decide +kernel))⟩

theorem w_MoveAndGuardResults_7 : ∃ x, ∃ (s : State), ∃ a, ∃ b, ∃ s1, ∃ s2, ∃ t, Issues (.gxor x) s ∧ readGuard x.a s = .ok a s1 ∧ readGuard x.b s1 = .ok b s2 ∧ (finish x.d (boolWord (((fun a b => a != b) : Bool → Bool → Bool) a b)) s2 = .ok () t) :=
  ⟨ggg, wA, _, _, _, _, _, (issues_of (by decide +kernel)), (ok_of (by decide +kernel)), (ok_of (by decide +kernel)), (okU_of (by decide +kernel))⟩

theorem w_MoveAndGuardResults_8 : ∃ x, ∃ (s : State), ∃ a, ∃ b, ∃ s1, ∃ s2, ∃ t, Issues (.gandn x) s ∧ readGuard x.a s = .ok a s1 ∧ readGuard x.b s1 = .ok b s2 ∧ (finish x.d (boolWord (((fun a b => a && ! b) : Bool → Bool → Bool) a b)) s2 = .ok () t) :=
  ⟨ggg, wA, _, _, _, _, _, (issues_of (by decide +kernel)), (ok_of (by decide +kernel)), (ok_of (by decide +kernel)), (okU_of (by decide +kernel))⟩

theorem w_MoveAndGuardResults_9 : ∃ x, ∃ (s : State), ∃ a, ∃ s1, ∃ t, Issues (.gset x) s ∧ readSrc 1 x.a s = .ok a s1 ∧ (finish x.d (((fun a => a) : Word → Word) a) s1 = .ok () t) :=
  ⟨{ r1 with d := 0x83#8 }, wA, _, _, _, (issues_of (by decide +kernel)), (ok_of (by decide +kernel)), (okU_of (by decide +kernel))⟩

theorem w_MoveAndGuardResults_10 : ∃ x, ∃ (s : State), ∃ a, ∃ s1, ∃ t, Issues (.gget x) s ∧ readGuard x.a s = .ok a s1 ∧ finish x.d (boolWord a) s1 = .ok () t :=
  ⟨{ r1 with a := 0x81#8 }, wA, _, _, _, (issues_of (by decide +kernel)), (ok_of (by decide +kernel)), (okU_of (by decide +kernel))⟩

theorem w_MoveAndGuardResults_11 : ∃ x, ∃ (s : State), ∃ t, Issues (.nop x) s ∧ retire 1 s = .ok () t :=
  ⟨⟨0#4, 0#8, 0#8, 0#8, 0#4, 0#20⟩, wA, _, (issues_of (by decide +kernel)), (okU_of (by decide +kernel))⟩

theorem w_FopResults_1 : ∃ x, ∃ (s : State), ∃ a, ∃ b, ∃ s1, ∃ s2, ∃ t, Issues (.faddS x) s ∧ readSrc 1 x.a s = .ok a s1 ∧ readSrc 2 x.b s1 = .ok b s2 ∧ (finish x.d (BitVec.ofNat 64 (((fun x a b => fpResult .fp32 (rmOf x) (satOf x) (FV.add (rmOf x) (fpVal .fp32 a) (fpVal .fp32 b))) : Args → Word → Word → Nat × Flags) x a b).1) (s2.flagged (((fun x a b => fpResult .fp32 (rmOf x) (satOf x) (FV.add (rmOf x) (fpVal .fp32 a) (fpVal .fp32 b))) : Args → Word → Word → Nat × Flags) x a b).2) = .ok () t) :=
  ⟨rrr, wA, _, _, _, _, _, (issues_of (by decide +kernel)), (ok_of (by decide +kernel)), (ok_of (by decide +kernel)), (okU_of (by decide +kernel))⟩

theorem w_FopResults_2 : ∃ x, ∃ (s : State), ∃ a, ∃ b, ∃ s1, ∃ s2, ∃ t, Issues (.fsubS x) s ∧ readSrc 1 x.a s = .ok a s1 ∧ readSrc 2 x.b s1 = .ok b s2 ∧ (finish x.d (BitVec.ofNat 64 (((fun x a b => fpResult .fp32 (rmOf x) (satOf x) (FV.add (rmOf x) (fpVal .fp32 a) (fpVal .fp32 b).negate)) : Args → Word → Word → Nat × Flags) x a b).1) (s2.flagged (((fun x a b => fpResult .fp32 (rmOf x) (satOf x) (FV.add (rmOf x) (fpVal .fp32 a) (fpVal .fp32 b).negate)) : Args → Word → Word → Nat × Flags) x a b).2) = .ok () t) :=
  ⟨rrr, wA, _, _, _, _, _, (issues_of (by decide +kernel)), (ok_of (by decide +kernel)), (ok_of (by decide +kernel)), (okU_of (by decide +kernel))⟩

theorem w_FopResults_3 : ∃ x, ∃ (s : State), ∃ a, ∃ b, ∃ s1, ∃ s2, ∃ t, Issues (.fmulS x) s ∧ readSrc 1 x.a s = .ok a s1 ∧ readSrc 2 x.b s1 = .ok b s2 ∧ (finish x.d (BitVec.ofNat 64 (((fun x a b => fpResult .fp32 (rmOf x) (satOf x) (FV.mul (fpVal .fp32 a) (fpVal .fp32 b))) : Args → Word → Word → Nat × Flags) x a b).1) (s2.flagged (((fun x a b => fpResult .fp32 (rmOf x) (satOf x) (FV.mul (fpVal .fp32 a) (fpVal .fp32 b))) : Args → Word → Word → Nat × Flags) x a b).2) = .ok () t) :=
  ⟨rrr, wA, _, _, _, _, _, (issues_of (by decide +kernel)), (ok_of (by decide +kernel)), (ok_of (by decide +kernel)), (okU_of (by decide +kernel))⟩

theorem w_FopResults_4 : ∃ x, ∃ (s : State), ∃ a, ∃ b, ∃ s1, ∃ s2, ∃ t, Issues (.fdivS x) s ∧ readSrc 1 x.a s = .ok a s1 ∧ readSrc 2 x.b s1 = .ok b s2 ∧ (finish x.d (BitVec.ofNat 64 (((fun x a b => fpDiv .fp32 (rmOf x) (satOf x) (fpVal .fp32 a) (fpVal .fp32 b)) : Args → Word → Word → Nat × Flags) x a b).1) (s2.flagged (((fun x a b => fpDiv .fp32 (rmOf x) (satOf x) (fpVal .fp32 a) (fpVal .fp32 b)) : Args → Word → Word → Nat × Flags) x a b).2) = .ok () t) :=
  ⟨rrr, wA, _, _, _, _, _, (issues_of (by decide +kernel)), (ok_of (by decide +kernel)), (ok_of (by decide +kernel)), (okU_of (by decide +kernel))⟩

theorem w_FopResults_5 : ∃ x, ∃ (s : State), ∃ a, ∃ s1, ∃ t, Issues (.fsqrtS x) s ∧ readSrc 1 x.a s = .ok a s1 ∧ (finish x.d (BitVec.ofNat 64 (((fun x a => fpResult .fp32 (rmOf x) (satOf x) (FV.sqrt (fpVal .fp32 a))) : Args → Word → Nat × Flags) x a).1) (s1.flagged (((fun x a => fpResult .fp32 (rmOf x) (satOf x) (FV.sqrt (fpVal .fp32 a))) : Args → Word → Nat × Flags) x a).2) = .ok () t) :=
  ⟨r1, wA, _, _, _, (issues_of (by decide +kernel)), (ok_of (by decide +kernel)), (okU_of (by decide +kernel))⟩

theorem w_FopResults_6 : ∃ x, ∃ (s : State), ∃ a, ∃ b, ∃ s1, ∃ s2, ∃ t, Issues (.fminS x) s ∧ readSrc 1 x.a s = .ok a s1 ∧ readSrc 2 x.b s1 = .ok b s2 ∧ (finish x.d (BitVec.ofNat 64 (((fun _ a b => fpMinMax .fp32 false (fpVal .fp32 a) (fpVal .fp32 b)) : Args → Word → Word → Nat × Flags) x a b).1) (s2.flagged (((fun _ a b => fpMinMax .fp32 false (fpVal .fp32 a) (fpVal .fp32 b)) : Args → Word → Word → Nat × Flags) x a b).2) = .ok () t) :=
  ⟨rrr, wA, _, _, _, _, _, (issues_of (by decide +kernel)), (ok_of (by decide +kernel)), (ok_of (by decide +kernel)), (okU_of (by decide +kernel))⟩

theorem w_FopResults_7 : ∃ x, ∃ (s : State), ∃ a, ∃ b, ∃ s1, ∃ s2, ∃ t, Issues (.fmaxS x) s ∧ readSrc 1 x.a s = .ok a s1 ∧ readSrc 2 x.b s1 = .ok b s2 ∧ (finish x.d (BitVec.ofNat 64 (((fun _ a b => fpMinMax .fp32 true (fpVal .fp32 a) (fpVal .fp32 b)) : Args → Word → Word → Nat × Flags) x a b).1) (s2.flagged (((fun _ a b => fpMinMax .fp32 true (fpVal .fp32 a) (fpVal .fp32 b)) : Args → Word → Word → Nat × Flags) x a b).2) = .ok () t) :=
  ⟨rrr, wA, _, _, _, _, _, (issues_of (by decide +kernel)), (ok_of (by decide +kernel)), (ok_of (by decide +kernel)), (okU_of (by decide +kernel))⟩

theorem w_FopResults_8 : ∃ x, ∃ (s : State), ∃ a, ∃ b, ∃ c, ∃ s1, ∃ s2, ∃ s3, ∃ t, Issues (.fmaS x) s ∧ readSrc 1 x.a s = .ok a s1 ∧ readSrc 2 x.b s1 = .ok b s2 ∧ readSrc 3 x.c s2 = .ok c s3 ∧ (finish x.d (BitVec.ofNat 64 (((fun x a b c => fpResult .fp32 (rmOf x) (satOf x) (FV.fma (rmOf x) (fpVal .fp32 a) (fpVal .fp32 b) (fpVal .fp32 c))) : Args → Word → Word → Word → Nat × Flags) x a b c).1) (s3.flagged (((fun x a b c => fpResult .fp32 (rmOf x) (satOf x) (FV.fma (rmOf x) (fpVal .fp32 a) (fpVal .fp32 b) (fpVal .fp32 c))) : Args → Word → Word → Word → Nat × Flags) x a b c).2) = .ok () t) :=
  ⟨{ rrr with imm := 3#20 }, wA, _, _, _, _, _, _, _, (issues_of (by decide +kernel)), (ok_of (by decide +kernel)), (ok_of (by decide +kernel)), (ok_of (by decide +kernel)), (okU_of (by decide +kernel))⟩

theorem w_FopResults_9 : ∃ x, ∃ (s : State), ∃ a, ∃ b, ∃ c, ∃ s1, ∃ s2, ∃ s3, ∃ t, Issues (.fmsS x) s ∧ readSrc 1 x.a s = .ok a s1 ∧ readSrc 2 x.b s1 = .ok b s2 ∧ readSrc 3 x.c s2 = .ok c s3 ∧ (finish x.d (BitVec.ofNat 64 (((fun x a b c => fpResult .fp32 (rmOf x) (satOf x) (FV.fma (rmOf x) (fpVal .fp32 a) (fpVal .fp32 b) (fpVal .fp32 c).negate)) : Args → Word → Word → Word → Nat × Flags) x a b c).1) (s3.flagged (((fun x a b c => fpResult .fp32 (rmOf x) (satOf x) (FV.fma (rmOf x) (fpVal .fp32 a) (fpVal .fp32 b) (fpVal .fp32 c).negate)) : Args → Word → Word → Word → Nat × Flags) x a b c).2) = .ok () t) :=
  ⟨{ rrr with imm := 3#20 }, wA, _, _, _, _, _, _, _, (issues_of (by decide +kernel)), (ok_of (by decide +kernel)), (ok_of (by decide +kernel)), (ok_of (by decide +kernel)), (okU_of (by decide +kernel))⟩

theorem w_FopResults_10 : ∃ x, ∃ (s : State), ∃ a, ∃ b, ∃ c, ∃ s1, ∃ s2, ∃ s3, ∃ t, Issues (.fnmaS x) s ∧ readSrc 1 x.a s = .ok a s1 ∧ readSrc 2 x.b s1 = .ok b s2 ∧ readSrc 3 x.c s2 = .ok c s3 ∧ (finish x.d (BitVec.ofNat 64 (((fun x a b c => fpResult .fp32 (rmOf x) (satOf x) (FV.fma (rmOf x) (FV.mul (fpVal .fp32 a) (fpVal .fp32 b)).negate (.fin false 1 0) (fpVal .fp32 c))) : Args → Word → Word → Word → Nat × Flags) x a b c).1) (s3.flagged (((fun x a b c => fpResult .fp32 (rmOf x) (satOf x) (FV.fma (rmOf x) (FV.mul (fpVal .fp32 a) (fpVal .fp32 b)).negate (.fin false 1 0) (fpVal .fp32 c))) : Args → Word → Word → Word → Nat × Flags) x a b c).2) = .ok () t) :=
  ⟨{ rrr with imm := 3#20 }, wA, _, _, _, _, _, _, _, (issues_of (by decide +kernel)), (ok_of (by decide +kernel)), (ok_of (by decide +kernel)), (ok_of (by decide +kernel)), (okU_of (by decide +kernel))⟩

theorem w_FopResults_11 : ∃ x, ∃ (s : State), ∃ a, ∃ s1, ∃ t, Issues (.fabsS x) s ∧ readSrc 1 x.a s = .ok a s1 ∧ (finish x.d (BitVec.ofNat 64 (((fun _ a => (if (fpVal .fp32 a).isNan then Fmt.fp32.nanBits else a.toNat % 2 ^ 31, 0#5)) : Args → Word → Nat × Flags) x a).1) (s1.flagged (((fun _ a => (if (fpVal .fp32 a).isNan then Fmt.fp32.nanBits else a.toNat % 2 ^ 31, 0#5)) : Args → Word → Nat × Flags) x a).2) = .ok () t) :=
  ⟨r1, wA, _, _, _, (issues_of (by decide +kernel)), (ok_of (by decide +kernel)), (okU_of (by decide +kernel))⟩

theorem w_FopResults_12 : ∃ x, ∃ (s : State), ∃ a, ∃ s1, ∃ t, Issues (.fnegS x) s ∧ readSrc 1 x.a s = .ok a s1 ∧ (finish x.d (BitVec.ofNat 64 (((fun _ a => (if (fpVal .fp32 a).isNan then Fmt.fp32.nanBits else (a.toNat % 2 ^ 32 + 2 ^ 31) % 2 ^ 32, 0#5)) : Args → Word → Nat × Flags) x a).1) (s1.flagged (((fun _ a => (if (fpVal .fp32 a).isNan then Fmt.fp32.nanBits else (a.toNat % 2 ^ 32 + 2 ^ 31) % 2 ^ 32, 0#5)) : Args → Word → Nat × Flags) x a).2) = .ok () t) :=
  ⟨r1, wA, _, _, _, (issues_of (by decide +kernel)), (ok_of (by decide +kernel)), (okU_of (by decide +kernel))⟩

theorem w_FopResults_13 : ∃ x, ∃ (s : State), ∃ a, ∃ b, ∃ s1, ∃ s2, ∃ t, Issues (.faddD x) s ∧ readSrc 1 x.a s = .ok a s1 ∧ readSrc 2 x.b s1 = .ok b s2 ∧ (finish x.d (BitVec.ofNat 64 (((fun x a b => fpResult .fp64 (rmOf x) (satOf x) (FV.add (rmOf x) (fpVal .fp64 a) (fpVal .fp64 b))) : Args → Word → Word → Nat × Flags) x a b).1) (s2.flagged (((fun x a b => fpResult .fp64 (rmOf x) (satOf x) (FV.add (rmOf x) (fpVal .fp64 a) (fpVal .fp64 b))) : Args → Word → Word → Nat × Flags) x a b).2) = .ok () t) :=
  ⟨rrr, wA, _, _, _, _, _, (issues_of (by decide +kernel)), (ok_of (by decide +kernel)), (ok_of (by decide +kernel)), (okU_of (by decide +kernel))⟩

theorem w_FopResults_14 : ∃ x, ∃ (s : State), ∃ a, ∃ b, ∃ s1, ∃ s2, ∃ t, Issues (.fsubD x) s ∧ readSrc 1 x.a s = .ok a s1 ∧ readSrc 2 x.b s1 = .ok b s2 ∧ (finish x.d (BitVec.ofNat 64 (((fun x a b => fpResult .fp64 (rmOf x) (satOf x) (FV.add (rmOf x) (fpVal .fp64 a) (fpVal .fp64 b).negate)) : Args → Word → Word → Nat × Flags) x a b).1) (s2.flagged (((fun x a b => fpResult .fp64 (rmOf x) (satOf x) (FV.add (rmOf x) (fpVal .fp64 a) (fpVal .fp64 b).negate)) : Args → Word → Word → Nat × Flags) x a b).2) = .ok () t) :=
  ⟨rrr, wA, _, _, _, _, _, (issues_of (by decide +kernel)), (ok_of (by decide +kernel)), (ok_of (by decide +kernel)), (okU_of (by decide +kernel))⟩

theorem w_FopResults_15 : ∃ x, ∃ (s : State), ∃ a, ∃ b, ∃ s1, ∃ s2, ∃ t, Issues (.fmulD x) s ∧ readSrc 1 x.a s = .ok a s1 ∧ readSrc 2 x.b s1 = .ok b s2 ∧ (finish x.d (BitVec.ofNat 64 (((fun x a b => fpResult .fp64 (rmOf x) (satOf x) (FV.mul (fpVal .fp64 a) (fpVal .fp64 b))) : Args → Word → Word → Nat × Flags) x a b).1) (s2.flagged (((fun x a b => fpResult .fp64 (rmOf x) (satOf x) (FV.mul (fpVal .fp64 a) (fpVal .fp64 b))) : Args → Word → Word → Nat × Flags) x a b).2) = .ok () t) :=
  ⟨rrr, wA, _, _, _, _, _, (issues_of (by decide +kernel)), (ok_of (by decide +kernel)), (ok_of (by decide +kernel)), (okU_of (by decide +kernel))⟩

theorem w_FopResults_16 : ∃ x, ∃ (s : State), ∃ a, ∃ b, ∃ s1, ∃ s2, ∃ t, Issues (.fdivD x) s ∧ readSrc 1 x.a s = .ok a s1 ∧ readSrc 2 x.b s1 = .ok b s2 ∧ (finish x.d (BitVec.ofNat 64 (((fun x a b => fpDiv .fp64 (rmOf x) (satOf x) (fpVal .fp64 a) (fpVal .fp64 b)) : Args → Word → Word → Nat × Flags) x a b).1) (s2.flagged (((fun x a b => fpDiv .fp64 (rmOf x) (satOf x) (fpVal .fp64 a) (fpVal .fp64 b)) : Args → Word → Word → Nat × Flags) x a b).2) = .ok () t) :=
  ⟨rrr, wA, _, _, _, _, _, (issues_of (by decide +kernel)), (ok_of (by decide +kernel)), (ok_of (by decide +kernel)), (okU_of (by decide +kernel))⟩

theorem w_FopResults_17 : ∃ x, ∃ (s : State), ∃ a, ∃ s1, ∃ t, Issues (.fsqrtD x) s ∧ readSrc 1 x.a s = .ok a s1 ∧ (finish x.d (BitVec.ofNat 64 (((fun x a => fpResult .fp64 (rmOf x) (satOf x) (FV.sqrt (fpVal .fp64 a))) : Args → Word → Nat × Flags) x a).1) (s1.flagged (((fun x a => fpResult .fp64 (rmOf x) (satOf x) (FV.sqrt (fpVal .fp64 a))) : Args → Word → Nat × Flags) x a).2) = .ok () t) :=
  ⟨r1, wA, _, _, _, (issues_of (by decide +kernel)), (ok_of (by decide +kernel)), (okU_of (by decide +kernel))⟩

theorem w_FopResults_18 : ∃ x, ∃ (s : State), ∃ a, ∃ b, ∃ s1, ∃ s2, ∃ t, Issues (.fminD x) s ∧ readSrc 1 x.a s = .ok a s1 ∧ readSrc 2 x.b s1 = .ok b s2 ∧ (finish x.d (BitVec.ofNat 64 (((fun _ a b => fpMinMax .fp64 false (fpVal .fp64 a) (fpVal .fp64 b)) : Args → Word → Word → Nat × Flags) x a b).1) (s2.flagged (((fun _ a b => fpMinMax .fp64 false (fpVal .fp64 a) (fpVal .fp64 b)) : Args → Word → Word → Nat × Flags) x a b).2) = .ok () t) :=
  ⟨rrr, wA, _, _, _, _, _, (issues_of (by decide +kernel)), (ok_of (by decide +kernel)), (ok_of (by decide +kernel)), (okU_of (by decide +kernel))⟩

theorem w_FopResults_19 : ∃ x, ∃ (s : State), ∃ a, ∃ b, ∃ s1, ∃ s2, ∃ t, Issues (.fmaxD x) s ∧ readSrc 1 x.a s = .ok a s1 ∧ readSrc 2 x.b s1 = .ok b s2 ∧ (finish x.d (BitVec.ofNat 64 (((fun _ a b => fpMinMax .fp64 true (fpVal .fp64 a) (fpVal .fp64 b)) : Args → Word → Word → Nat × Flags) x a b).1) (s2.flagged (((fun _ a b => fpMinMax .fp64 true (fpVal .fp64 a) (fpVal .fp64 b)) : Args → Word → Word → Nat × Flags) x a b).2) = .ok () t) :=
  ⟨rrr, wA, _, _, _, _, _, (issues_of (by decide +kernel)), (ok_of (by decide +kernel)), (ok_of (by decide +kernel)), (okU_of (by decide +kernel))⟩

theorem w_FopResults_20 : ∃ x, ∃ (s : State), ∃ a, ∃ b, ∃ c, ∃ s1, ∃ s2, ∃ s3, ∃ t, Issues (.fmaD x) s ∧ readSrc 1 x.a s = .ok a s1 ∧ readSrc 2 x.b s1 = .ok b s2 ∧ readSrc 3 x.c s2 = .ok c s3 ∧ (finish x.d (BitVec.ofNat 64 (((fun x a b c => fpResult .fp64 (rmOf x) (satOf x) (FV.fma (rmOf x) (fpVal .fp64 a) (fpVal .fp64 b) (fpVal .fp64 c))) : Args → Word → Word → Word → Nat × Flags) x a b c).1) (s3.flagged (((fun x a b c => fpResult .fp64 (rmOf x) (satOf x) (FV.fma (rmOf x) (fpVal .fp64 a) (fpVal .fp64 b) (fpVal .fp64 c))) : Args → Word → Word → Word → Nat × Flags) x a b c).2) = .ok () t) :=
  ⟨{ rrr with imm := 3#20 }, wA, _, _, _, _, _, _, _, (issues_of (by decide +kernel)), (ok_of (by decide +kernel)), (ok_of (by decide +kernel)), (ok_of (by decide +kernel)), (okU_of (by decide +kernel))⟩

theorem w_FopResults_21 : ∃ x, ∃ (s : State), ∃ a, ∃ b, ∃ c, ∃ s1, ∃ s2, ∃ s3, ∃ t, Issues (.fmsD x) s ∧ readSrc 1 x.a s = .ok a s1 ∧ readSrc 2 x.b s1 = .ok b s2 ∧ readSrc 3 x.c s2 = .ok c s3 ∧ (finish x.d (BitVec.ofNat 64 (((fun x a b c => fpResult .fp64 (rmOf x) (satOf x) (FV.fma (rmOf x) (fpVal .fp64 a) (fpVal .fp64 b) (fpVal .fp64 c).negate)) : Args → Word → Word → Word → Nat × Flags) x a b c).1) (s3.flagged (((fun x a b c => fpResult .fp64 (rmOf x) (satOf x) (FV.fma (rmOf x) (fpVal .fp64 a) (fpVal .fp64 b) (fpVal .fp64 c).negate)) : Args → Word → Word → Word → Nat × Flags) x a b c).2) = .ok () t) :=
  ⟨{ rrr with imm := 3#20 }, wA, _, _, _, _, _, _, _, (issues_of (by decide +kernel)), (ok_of (by decide +kernel)), (ok_of (by decide +kernel)), (ok_of (by decide +kernel)), (okU_of (by decide +kernel))⟩

theorem w_FopResults_22 : ∃ x, ∃ (s : State), ∃ a, ∃ b, ∃ c, ∃ s1, ∃ s2, ∃ s3, ∃ t, Issues (.fnmaD x) s ∧ readSrc 1 x.a s = .ok a s1 ∧ readSrc 2 x.b s1 = .ok b s2 ∧ readSrc 3 x.c s2 = .ok c s3 ∧ (finish x.d (BitVec.ofNat 64 (((fun x a b c => fpResult .fp64 (rmOf x) (satOf x) (FV.fma (rmOf x) (FV.mul (fpVal .fp64 a) (fpVal .fp64 b)).negate (.fin false 1 0) (fpVal .fp64 c))) : Args → Word → Word → Word → Nat × Flags) x a b c).1) (s3.flagged (((fun x a b c => fpResult .fp64 (rmOf x) (satOf x) (FV.fma (rmOf x) (FV.mul (fpVal .fp64 a) (fpVal .fp64 b)).negate (.fin false 1 0) (fpVal .fp64 c))) : Args → Word → Word → Word → Nat × Flags) x a b c).2) = .ok () t) :=
  ⟨{ rrr with imm := 3#20 }, wA, _, _, _, _, _, _, _, (issues_of (by decide +kernel)), (ok_of (by decide +kernel)), (ok_of (by decide +kernel)), (ok_of (by decide +kernel)), (okU_of (by decide +kernel))⟩

theorem w_FopResults_23 : ∃ x, ∃ (s : State), ∃ a, ∃ s1, ∃ t, Issues (.fabsD x) s ∧ readSrc 1 x.a s = .ok a s1 ∧ (finish x.d (BitVec.ofNat 64 (((fun _ a => (if (fpVal .fp64 a).isNan then Fmt.fp64.nanBits else a.toNat % 2 ^ 63, 0#5)) : Args → Word → Nat × Flags) x a).1) (s1.flagged (((fun _ a => (if (fpVal .fp64 a).isNan then Fmt.fp64.nanBits else a.toNat % 2 ^ 63, 0#5)) : Args → Word → Nat × Flags) x a).2) = .ok () t) :=
  ⟨r1, wA, _, _, _, (issues_of (by decide +kernel)), (ok_of (by decide +kernel)), (okU_of (by decide +kernel))⟩

theorem w_FopResults_24 : ∃ x, ∃ (s : State), ∃ a, ∃ s1, ∃ t, Issues (.fnegD x) s ∧ readSrc 1 x.a s = .ok a s1 ∧ (finish x.d (BitVec.ofNat 64 (((fun _ a => (if (fpVal .fp64 a).isNan then Fmt.fp64.nanBits else (a.toNat + 2 ^ 63) % 2 ^ 64, 0#5)) : Args → Word → Nat × Flags) x a).1) (s1.flagged (((fun _ a => (if (fpVal .fp64 a).isNan then Fmt.fp64.nanBits else (a.toNat + 2 ^ 63) % 2 ^ 64, 0#5)) : Args → Word → Nat × Flags) x a).2) = .ok () t) :=
  ⟨r1, wA, _, _, _, (issues_of (by decide +kernel)), (ok_of (by decide +kernel)), (okU_of (by decide +kernel))⟩

theorem w_FcmpAndFcvtResults_1 : 
    let k := (Instr.fcmpEq, 0)
    ∃ x, ∃ (s : State), ∃ a, ∃ b, ∃ s1, ∃ s2, ∃ t, Issues (k.1 x) s ∧ readSrc 1 x.a s = .ok a s1 ∧ readSrc 2 x.b s1 = .ok b s2 ∧ (finish x.d (BitVec.ofNat 64 (((fun x a b =>
      let f := if x.mod.getLsbD 2 then Fmt.fp64 else Fmt.fp32
      let u := fpVal f a
      let v := fpVal f b
      let nan := u.isNan || v.isNan
      (((boolWord (match k.2 with
          | 0 => ! nan && FV.cmp u v == 0
          | 1 => ! nan && decide (FV.cmp u v < 0)
          | 2 => ! nan && decide (FV.cmp u v ≤ 0)
          | _ => nan)).toNat),
        if nan && (k.2 == 1 || k.2 == 2) then Flags.invalid else 0#5)) : Args → Word → Word → Nat × Flags) x a b).1) (s2.flagged (((fun x a b =>
      let f := if x.mod.getLsbD 2 then Fmt.fp64 else Fmt.fp32
      let u := fpVal f a
      let v := fpVal f b
      let nan := u.isNan || v.isNan
      (((boolWord (match k.2 with
          | 0 => ! nan && FV.cmp u v == 0
          | 1 => ! nan && decide (FV.cmp u v < 0)
          | 2 => ! nan && decide (FV.cmp u v ≤ 0)
          | _ => nan)).toNat),
        if nan && (k.2 == 1 || k.2 == 2) then Flags.invalid else 0#5)) : Args → Word → Word → Nat × Flags) x a b).2) = .ok () t) :=
  ⟨rrr, wA, _, _, _, _, _, (issues_of (by decide +kernel)), (ok_of (by decide +kernel)), (ok_of (by decide +kernel)), (okU_of (by decide +kernel))⟩

theorem w_FcmpAndFcvtResults_2 : 
    let k := (Instr.fcmpLt, 1)
    ∃ x, ∃ (s : State), ∃ a, ∃ b, ∃ s1, ∃ s2, ∃ t, Issues (k.1 x) s ∧ readSrc 1 x.a s = .ok a s1 ∧ readSrc 2 x.b s1 = .ok b s2 ∧ (finish x.d (BitVec.ofNat 64 (((fun x a b =>
      let f := if x.mod.getLsbD 2 then Fmt.fp64 else Fmt.fp32
      let u := fpVal f a
      let v := fpVal f b
      let nan := u.isNan || v.isNan
      (((boolWord (match k.2 with
          | 0 => ! nan && FV.cmp u v == 0
          | 1 => ! nan && decide (FV.cmp u v < 0)
          | 2 => ! nan && decide (FV.cmp u v ≤ 0)
          | _ => nan)).toNat),
        if nan && (k.2 == 1 || k.2 == 2) then Flags.invalid else 0#5)) : Args → Word → Word → Nat × Flags) x a b).1) (s2.flagged (((fun x a b =>
      let f := if x.mod.getLsbD 2 then Fmt.fp64 else Fmt.fp32
      let u := fpVal f a
      let v := fpVal f b
      let nan := u.isNan || v.isNan
      (((boolWord (match k.2 with
          | 0 => ! nan && FV.cmp u v == 0
          | 1 => ! nan && decide (FV.cmp u v < 0)
          | 2 => ! nan && decide (FV.cmp u v ≤ 0)
          | _ => nan)).toNat),
        if nan && (k.2 == 1 || k.2 == 2) then Flags.invalid else 0#5)) : Args → Word → Word → Nat × Flags) x a b).2) = .ok () t) :=
  ⟨rrr, wA, _, _, _, _, _, (issues_of (by decide +kernel)), (ok_of (by decide +kernel)), (ok_of (by decide +kernel)), (okU_of (by decide +kernel))⟩

theorem w_FcmpAndFcvtResults_3 : 
    let k := (Instr.fcmpLe, 2)
    ∃ x, ∃ (s : State), ∃ a, ∃ b, ∃ s1, ∃ s2, ∃ t, Issues (k.1 x) s ∧ readSrc 1 x.a s = .ok a s1 ∧ readSrc 2 x.b s1 = .ok b s2 ∧ (finish x.d (BitVec.ofNat 64 (((fun x a b =>
      let f := if x.mod.getLsbD 2 then Fmt.fp64 else Fmt.fp32
      let u := fpVal f a
      let v := fpVal f b
      let nan := u.isNan || v.isNan
      (((boolWord (match k.2 with
          | 0 => ! nan && FV.cmp u v == 0
          | 1 => ! nan && decide (FV.cmp u v < 0)
          | 2 => ! nan && decide (FV.cmp u v ≤ 0)
          | _ => nan)).toNat),
        if nan && (k.2 == 1 || k.2 == 2) then Flags.invalid else 0#5)) : Args → Word → Word → Nat × Flags) x a b).1) (s2.flagged (((fun x a b =>
      let f := if x.mod.getLsbD 2 then Fmt.fp64 else Fmt.fp32
      let u := fpVal f a
      let v := fpVal f b
      let nan := u.isNan || v.isNan
      (((boolWord (match k.2 with
          | 0 => ! nan && FV.cmp u v == 0
          | 1 => ! nan && decide (FV.cmp u v < 0)
          | 2 => ! nan && decide (FV.cmp u v ≤ 0)
          | _ => nan)).toNat),
        if nan && (k.2 == 1 || k.2 == 2) then Flags.invalid else 0#5)) : Args → Word → Word → Nat × Flags) x a b).2) = .ok () t) :=
  ⟨rrr, wA, _, _, _, _, _, (issues_of (by decide +kernel)), (ok_of (by decide +kernel)), (ok_of (by decide +kernel)), (okU_of (by decide +kernel))⟩

theorem w_FcmpAndFcvtResults_4 : 
    let k := (Instr.fcmpUn, 3)
    ∃ x, ∃ (s : State), ∃ a, ∃ b, ∃ s1, ∃ s2, ∃ t, Issues (k.1 x) s ∧ readSrc 1 x.a s = .ok a s1 ∧ readSrc 2 x.b s1 = .ok b s2 ∧ (finish x.d (BitVec.ofNat 64 (((fun x a b =>
      let f := if x.mod.getLsbD 2 then Fmt.fp64 else Fmt.fp32
      let u := fpVal f a
      let v := fpVal f b
      let nan := u.isNan || v.isNan
      (((boolWord (match k.2 with
          | 0 => ! nan && FV.cmp u v == 0
          | 1 => ! nan && decide (FV.cmp u v < 0)
          | 2 => ! nan && decide (FV.cmp u v ≤ 0)
          | _ => nan)).toNat),
        if nan && (k.2 == 1 || k.2 == 2) then Flags.invalid else 0#5)) : Args → Word → Word → Nat × Flags) x a b).1) (s2.flagged (((fun x a b =>
      let f := if x.mod.getLsbD 2 then Fmt.fp64 else Fmt.fp32
      let u := fpVal f a
      let v := fpVal f b
      let nan := u.isNan || v.isNan
      (((boolWord (match k.2 with
          | 0 => ! nan && FV.cmp u v == 0
          | 1 => ! nan && decide (FV.cmp u v < 0)
          | 2 => ! nan && decide (FV.cmp u v ≤ 0)
          | _ => nan)).toNat),
        if nan && (k.2 == 1 || k.2 == 2) then Flags.invalid else 0#5)) : Args → Word → Word → Nat × Flags) x a b).2) = .ok () t) :=
  ⟨rrr, wA, _, _, _, _, _, (issues_of (by decide +kernel)), (ok_of (by decide +kernel)), (ok_of (by decide +kernel)), (okU_of (by decide +kernel))⟩

theorem w_FcmpAndFcvtResults_5 : ∃ x, ∃ (s : State), ∃ a, ∃ s1, ∃ t, Issues (.fcvtSD x) s ∧ readSrc 1 x.a s = .ok a s1 ∧ (finish x.d (BitVec.ofNat 64 (((fun x a => fpResult .fp32 (rmOf x) (satOf x) (fpVal .fp64 a)) : Args → Word → Nat × Flags) x a).1) (s1.flagged (((fun x a => fpResult .fp32 (rmOf x) (satOf x) (fpVal .fp64 a)) : Args → Word → Nat × Flags) x a).2) = .ok () t) :=
  ⟨r1, wA, _, _, _, (issues_of (by decide +kernel)), (ok_of (by decide +kernel)), (okU_of (by decide +kernel))⟩

theorem w_FcmpAndFcvtResults_6 : ∃ x, ∃ (s : State), ∃ a, ∃ s1, ∃ t, Issues (.fcvtDS x) s ∧ readSrc 1 x.a s = .ok a s1 ∧ (finish x.d (BitVec.ofNat 64 (((fun x a => fpResult .fp64 (rmOf x) false (fpVal .fp32 a)) : Args → Word → Nat × Flags) x a).1) (s1.flagged (((fun x a => fpResult .fp64 (rmOf x) false (fpVal .fp32 a)) : Args → Word → Nat × Flags) x a).2) = .ok () t) :=
  ⟨r1, wA, _, _, _, (issues_of (by decide +kernel)), (ok_of (by decide +kernel)), (okU_of (by decide +kernel))⟩

theorem w_FcmpAndFcvtResults_7 : ∃ x, ∃ (s : State), ∃ a, ∃ s1, ∃ t, Issues (.fcvtSL x) s ∧ readSrc 1 x.a s = .ok a s1 ∧ (finish x.d (BitVec.ofNat 64 (((fun x a => fpResult .fp32 (rmOf x) false (FV.ofInt a.toInt)) : Args → Word → Nat × Flags) x a).1) (s1.flagged (((fun x a => fpResult .fp32 (rmOf x) false (FV.ofInt a.toInt)) : Args → Word → Nat × Flags) x a).2) = .ok () t) :=
  ⟨r1, wA, _, _, _, (issues_of (by decide +kernel)), (ok_of (by decide +kernel)), (okU_of (by decide +kernel))⟩

theorem w_FcmpAndFcvtResults_8 : ∃ x, ∃ (s : State), ∃ a, ∃ s1, ∃ t, Issues (.fcvtDL x) s ∧ readSrc 1 x.a s = .ok a s1 ∧ (finish x.d (BitVec.ofNat 64 (((fun x a => fpResult .fp64 (rmOf x) false (FV.ofInt a.toInt)) : Args → Word → Nat × Flags) x a).1) (s1.flagged (((fun x a => fpResult .fp64 (rmOf x) false (FV.ofInt a.toInt)) : Args → Word → Nat × Flags) x a).2) = .ok () t) :=
  ⟨r1, wA, _, _, _, (issues_of (by decide +kernel)), (ok_of (by decide +kernel)), (okU_of (by decide +kernel))⟩

theorem w_FcmpAndFcvtResults_9 : ∃ x, ∃ (s : State), ∃ a, ∃ s1, ∃ t, Issues (.fcvtSLu x) s ∧ readSrc 1 x.a s = .ok a s1 ∧ (finish x.d (BitVec.ofNat 64 (((fun x a => fpResult .fp32 (rmOf x) false (FV.ofInt a.toNat)) : Args → Word → Nat × Flags) x a).1) (s1.flagged (((fun x a => fpResult .fp32 (rmOf x) false (FV.ofInt a.toNat)) : Args → Word → Nat × Flags) x a).2) = .ok () t) :=
  ⟨r1, wA, _, _, _, (issues_of (by decide +kernel)), (ok_of (by decide +kernel)), (okU_of (by decide +kernel))⟩

theorem w_FcmpAndFcvtResults_10 : ∃ x, ∃ (s : State), ∃ a, ∃ s1, ∃ t, Issues (.fcvtDLu x) s ∧ readSrc 1 x.a s = .ok a s1 ∧ (finish x.d (BitVec.ofNat 64 (((fun x a => fpResult .fp64 (rmOf x) false (FV.ofInt a.toNat)) : Args → Word → Nat × Flags) x a).1) (s1.flagged (((fun x a => fpResult .fp64 (rmOf x) false (FV.ofInt a.toNat)) : Args → Word → Nat × Flags) x a).2) = .ok () t) :=
  ⟨r1, wA, _, _, _, (issues_of (by decide +kernel)), (ok_of (by decide +kernel)), (okU_of (by decide +kernel))⟩

theorem w_FcmpAndFcvtResults_11 : ∃ x, ∃ (s : State), ∃ a, ∃ s1, ∃ t, Issues (.fcvtLS x) s ∧ readSrc 1 x.a s = .ok a s1 ∧ (finish x.d (BitVec.ofNat 64 (((fun x a => fpToInt 0x0E (rmOf x) (fpVal .fp32 a)) : Args → Word → Nat × Flags) x a).1) (s1.flagged (((fun x a => fpToInt 0x0E (rmOf x) (fpVal .fp32 a)) : Args → Word → Nat × Flags) x a).2) = .ok () t) :=
  ⟨r1, wA, _, _, _, (issues_of (by decide +kernel)), (ok_of (by decide +kernel)), (okU_of (by decide +kernel))⟩

theorem w_FcmpAndFcvtResults_12 : ∃ x, ∃ (s : State), ∃ a, ∃ s1, ∃ t, Issues (.fcvtLD x) s ∧ readSrc 1 x.a s = .ok a s1 ∧ (finish x.d (BitVec.ofNat 64 (((fun x a => fpToInt 0x0E (rmOf x) (fpVal .fp64 a)) : Args → Word → Nat × Flags) x a).1) (s1.flagged (((fun x a => fpToInt 0x0E (rmOf x) (fpVal .fp64 a)) : Args → Word → Nat × Flags) x a).2) = .ok () t) :=
  ⟨r1, wA, _, _, _, (issues_of (by decide +kernel)), (ok_of (by decide +kernel)), (okU_of (by decide +kernel))⟩

theorem w_FcmpAndFcvtResults_13 : ∃ x, ∃ (s : State), ∃ a, ∃ s1, ∃ t, Issues (.fcvtLuS x) s ∧ readSrc 1 x.a s = .ok a s1 ∧ (finish x.d (BitVec.ofNat 64 (((fun x a => fpToInt 0x13 (rmOf x) (fpVal .fp32 a)) : Args → Word → Nat × Flags) x a).1) (s1.flagged (((fun x a => fpToInt 0x13 (rmOf x) (fpVal .fp32 a)) : Args → Word → Nat × Flags) x a).2) = .ok () t) :=
  ⟨r1, wA, _, _, _, (issues_of (by decide +kernel)), (ok_of (by decide +kernel)), (okU_of (by decide +kernel))⟩

theorem w_FcmpAndFcvtResults_14 : ∃ x, ∃ (s : State), ∃ a, ∃ s1, ∃ t, Issues (.fcvtLuD x) s ∧ readSrc 1 x.a s = .ok a s1 ∧ (finish x.d (BitVec.ofNat 64 (((fun x a => fpToInt 0x13 (rmOf x) (fpVal .fp64 a)) : Args → Word → Nat × Flags) x a).1) (s1.flagged (((fun x a => fpToInt 0x13 (rmOf x) (fpVal .fp64 a)) : Args → Word → Nat × Flags) x a).2) = .ok () t) :=
  ⟨r1, wA, _, _, _, (issues_of (by decide +kernel)), (ok_of (by decide +kernel)), (okU_of (by decide +kernel))⟩

theorem w_FcmpAndFcvtResults_15 : ∃ x, ∃ (s : State), ∃ a, ∃ s1, ∃ t, Issues (.fcvtBS x) s ∧ readSrc 1 x.a s = .ok a s1 ∧ (finish x.d (BitVec.ofNat 64 (((fun x a => fpResult .bf16 (rmOf x) (satOf x) (fpVal .fp32 a)) : Args → Word → Nat × Flags) x a).1) (s1.flagged (((fun x a => fpResult .bf16 (rmOf x) (satOf x) (fpVal .fp32 a)) : Args → Word → Nat × Flags) x a).2) = .ok () t) :=
  ⟨r1, wA, _, _, _, (issues_of (by decide +kernel)), (ok_of (by decide +kernel)), (okU_of (by decide +kernel))⟩

theorem w_FcmpAndFcvtResults_16 : ∃ x, ∃ (s : State), ∃ a, ∃ s1, ∃ t, Issues (.fcvtHS x) s ∧ readSrc 1 x.a s = .ok a s1 ∧ (finish x.d (BitVec.ofNat 64 (((fun x a => fpResult .fp16 (rmOf x) (satOf x) (fpVal .fp32 a)) : Args → Word → Nat × Flags) x a).1) (s1.flagged (((fun x a => fpResult .fp16 (rmOf x) (satOf x) (fpVal .fp32 a)) : Args → Word → Nat × Flags) x a).2) = .ok () t) :=
  ⟨r1, wA, _, _, _, (issues_of (by decide +kernel)), (ok_of (by decide +kernel)), (okU_of (by decide +kernel))⟩

theorem w_FcmpAndFcvtResults_17 : ∃ x, ∃ (s : State), ∃ a, ∃ s1, ∃ t, Issues (.fcvtSB x) s ∧ readSrc 1 x.a s = .ok a s1 ∧ (finish x.d (BitVec.ofNat 64 (((fun x a => fpResult .fp32 (rmOf x) false (fpVal .bf16 a)) : Args → Word → Nat × Flags) x a).1) (s1.flagged (((fun x a => fpResult .fp32 (rmOf x) false (fpVal .bf16 a)) : Args → Word → Nat × Flags) x a).2) = .ok () t) :=
  ⟨r1, wA, _, _, _, (issues_of (by decide +kernel)), (ok_of (by decide +kernel)), (okU_of (by decide +kernel))⟩

theorem w_FcmpAndFcvtResults_18 : ∃ x, ∃ (s : State), ∃ a, ∃ s1, ∃ t, Issues (.fcvtSH x) s ∧ readSrc 1 x.a s = .ok a s1 ∧ (finish x.d (BitVec.ofNat 64 (((fun x a => fpResult .fp32 (rmOf x) false (fpVal .fp16 a)) : Args → Word → Nat × Flags) x a).1) (s1.flagged (((fun x a => fpResult .fp32 (rmOf x) false (fpVal .fp16 a)) : Args → Word → Nat × Flags) x a).2) = .ok () t) :=
  ⟨r1, wA, _, _, _, (issues_of (by decide +kernel)), (ok_of (by decide +kernel)), (okU_of (by decide +kernel))⟩

theorem w_RegisterOperands_1 : ∃ c, ∃ n, Sel.ofCode c = .s n :=
  ⟨1#8, 1, (by decide +kernel)⟩

theorem w_RegisterOperands_2 : ∃ c, ∃ n, Sel.ofCode c = .rel n :=
  ⟨0xA0#8, 0, (by decide +kernel)⟩

theorem w_RegisterOperands_3 : ∃ c, ∃ n, Sel.ofCode c = .g n :=
  ⟨0x81#8, 1, (by decide +kernel)⟩

theorem w_RegisterOperands_4 : ∃ c, ∃ n, Sel.ofCode c = .s n :=
  ⟨31#8, 31, (by decide +kernel)⟩

theorem w_RegisterOperands_5 : ∃ c, ∃ n, Sel.ofCode c = .g n :=
  ⟨0x87#8, 7, (by decide +kernel)⟩

theorem w_RegisterOperands_7 : ∃ (h : Hart), ∃ n, (Map.wf (fun _ => 0#64) h.s = true) ∧ n ≠ 0 :=
  ⟨hart0, 1, (by decide +kernel), (by decide +kernel)⟩

theorem w_RegisterOperands_8 : ∃ (h : Hart), ∃ n, (Map.wf (fun _ => 0#64) h.s = true) ∧ n ≠ 0 ∧ ∃ m, m ≠ n :=
  ⟨hart0, 1, (by decide +kernel), (by decide +kernel), 2, (by decide +kernel)⟩

theorem w_RegisterOperands_9 : ∃ (h : Hart), ∃ n, (Map.wf (fun _ => 0#64) h.s = true) ∧ n ≠ 0 :=
  ⟨hart0, 1, (by decide +kernel), (by decide +kernel)⟩

theorem w_RegisterOperands_10 : ∃ (h : Hart), ∃ n, (Map.wf (fun _ => false) h.g = true) ∧ n ≠ 0 :=
  ⟨hart0, 1, (by decide +kernel), (by decide +kernel)⟩

theorem w_RegisterOperands_11 : ∃ (h : Hart), ∃ n, (Map.wf (fun _ => false) h.g = true) ∧ n ≠ 0 ∧ ∃ m, m ≠ n :=
  ⟨hart0, 1, (by decide +kernel), (by decide +kernel), 2, (by decide +kernel)⟩

theorem w_RegisterOperands_12 : ∃ (h : Hart), ∃ n, (Map.wf (fun _ => false) h.g = true) ∧ n ≠ 0 :=
  ⟨hart0, 1, (by decide +kernel), (by decide +kernel)⟩

theorem w_ChannelOperands_1 : ∃ w, ∃ c, ∃ n, ∃ v, ∃ rest, ∃ (s : State), Sel.ofCode c = .q n ∧ (s.hart s.cur).restartHere.opnds.find? (·.which == w) = none ∧ (s.job s.cur.coreNo).chan n = .scalar v :: rest :=
  ⟨1, 0x60#8, 0, 9#64, [], wA, (by decide +kernel), (by decide +kernel), (by decide +kernel)⟩

theorem w_ChannelOperands_2 : ∃ w, ∃ c, ∃ n, ∃ (s : State), Sel.ofCode c = .q n ∧ (s.hart s.cur).restartHere.opnds.find? (·.which == w) = none ∧ (s.job s.cur.coreNo).chan n = [] :=
  ⟨1, 0x61#8, 1, wA, (by decide +kernel), (by decide +kernel), (by decide +kernel)⟩

theorem w_ChannelOperands_3 : ∃ w, ∃ c, ∃ n, ∃ o, ∃ (s : State), Sel.ofCode c = .q n ∧ (s.hart s.cur).restartHere.opnds.find? (·.which == w) = some o ∧ o.tile = false :=
  ⟨1, 0x60#8, 0, _, wPend, (by decide +kernel), (some_of (by decide +kernel)), (by decide +kernel)⟩

theorem w_ChannelOperands_4 : ∃ c, ∃ n, ∃ v, ∃ (s : State), ∃ u, Sel.ofCode c = .q n ∧ setOpnd ⟨0, false, n, v⟩ s = .ok () u ∧ ((u.job u.cur.coreNo).chan n).length < 8 :=
  ⟨0x63#8, 3, 6#64, wA, _, (by decide +kernel), (okU_of (by decide +kernel)), (by decide +kernel)⟩

theorem w_ChannelOperands_5 : ∃ c, ∃ n, ∃ v, ∃ (s : State), ∃ u, Sel.ofCode c = .q n ∧ setOpnd ⟨0, false, n, v⟩ s = .ok () u ∧ 8 ≤ ((u.job u.cur.coreNo).chan n).length :=
  ⟨0x62#8, 2, 6#64, fullChan, _, (by decide +kernel), (okU_of (by decide +kernel)), (by decide +kernel)⟩

theorem w_FalseGuardSkips_1 : ∃ (i : Instr), ∃ e, ∃ sh, ∃ (s : State), i.enc = some e ∧ i.shape = some sh ∧ encFaultOf s.cur.who e sh = none ∧ (s.hart s.cur).guardOk e.args.g = false ∧ e.slots = 1 :=
  ⟨.add { rrr with g := 2#4 }, _, _, wA, (some_of (by decide +kernel)), (some_of (by decide +kernel)), (by decide +kernel), (by decide +kernel), (by decide +kernel)⟩

theorem w_EncodingFaultsTrap_1 : ∃ (i : Instr), ∃ e, ∃ sh, ∃ (s : State), ∃ c, ∃ t, i.enc = some e ∧ i.shape = some sh ∧ encFaultOf s.cur.who e sh = some c ∧ takeException s.cur c .plain s = .ok () t :=
  ⟨.add { rri with g := 2#4 }, _, _, wA, _, _, (some_of (by decide +kernel)), (some_of (by decide +kernel)), (some_of (by decide +kernel)), (okU_of (by decide +kernel))⟩

theorem w_PendingPushDelivered_1 : ∃ (i : Instr), ∃ e, ∃ sh, ∃ (s : State), ∃ o, ∃ t, i.enc = some e ∧ i.shape = some sh ∧ encFaultOf s.cur.who e sh = none ∧ (s.hart s.cur).guardOk e.args.g = true ∧ ((s.hart s.cur).restartHere.opnds.find? (fun o => o.which == 0 && ! o.tile) = some o) ∧ (sh.d = .dst ∨ sh.d = .gdst) ∧ finish e.args.d o.value s = .ok () t :=
  ⟨.add { rrr with d := 0x63#8 }, _, _, wPend, _, _, (some_of (by decide +kernel)), (some_of (by decide +kernel)), (by decide +kernel), (by decide +kernel), (some_of (by decide +kernel)), (by decide +kernel), (okU_of (by decide +kernel))⟩

theorem w_TakingAnException_1 : ∃ cause, isFatal cause = false :=
  ⟨0x143#10, (by decide +kernel)⟩

theorem w_TakingAnException_2 : ∃ (s : State), (Map.wf (fun _ => 0) s.flueCnt = true) :=
  ⟨wE, (by decide +kernel)⟩

theorem w_UnassignedOpcodeTraps_1 : 
    let cause := 0x040#10
    ∃ (s : State), ∃ t, takeException s.cur cause .plain s = .ok () t :=
  ⟨wA, _, (okU_of (by decide +kernel))⟩

theorem w_UnassignedOpcodeTraps_2 : 
    let cause := 0x041#10
    ∃ (s : State), ∃ t, takeException s.cur cause .plain s = .ok () t :=
  ⟨wA, _, (okU_of (by decide +kernel))⟩

theorem w_UnassignedOpcodeTraps_3 : 
    let cause := 0x042#10
    ∃ (s : State), ∃ t, takeException s.cur cause .plain s = .ok () t :=
  ⟨wA, _, (okU_of (by decide +kernel))⟩

theorem w_UnassignedOpcodeTraps_4 : 
    let cause := 0x043#10
    ∃ (s : State), ∃ t, takeException s.cur cause .plain s = .ok () t :=
  ⟨wA, _, (okU_of (by decide +kernel))⟩

theorem w_UnassignedOpcodeTraps_5 : 
    let cause := 0x044#10
    ∃ (s : State), ∃ t, takeException s.cur cause .plain s = .ok () t :=
  ⟨wA, _, (okU_of (by decide +kernel))⟩

theorem w_UnassignedOpcodeTraps_6 : 
    let cause := 0x047#10
    ∃ (s : State), ∃ t, takeException s.cur cause .plain s = .ok () t :=
  ⟨wA, _, (okU_of (by decide +kernel))⟩

theorem w_UnassignedOpcodeTraps_7 : 
    let cause := 0x048#10
    ∃ (s : State), ∃ t, takeException s.cur cause .plain s = .ok () t :=
  ⟨wA, _, (okU_of (by decide +kernel))⟩

theorem w_StepRunsDecoded_1 : ∃ (s : State), ∃ a, ∃ rest, ∃ ws, ∃ t, ∃ (i : Instr), s.sched = .agent a :: rest ∧ agentExists a = true ∧ ({ s with sched := rest } : State).fetched a = .ok ws t ∧ decodeWords ws = some i :=
  ⟨placed, .stream 0 .A, [], _, _, _, (by decide +kernel), (by decide +kernel), (ok_of (by decide +kernel)), (some_of (by decide +kernel))⟩

theorem w_StepRunsDecoded_2 : ∃ (s : State), ∃ a, ∃ rest, ∃ ws, ∃ t, s.sched = .agent a :: rest ∧ agentExists a = true ∧ ({ s with sched := rest } : State).fetched a = .ok ws t ∧ decodeWords ws = none :=
  ⟨(State.reset.withFetchWord 64 0x4D00000000000000), .stream 0 .A, [], _, _, (by decide +kernel), (by decide +kernel), (ok_of (by decide +kernel)), (by decide +kernel)⟩

theorem w_StepRunsDecoded_3 : ∃ (s : State), ∃ (i : Instr), ∃ rest, s.sched = .event i :: rest ∧ isEvent i = true :=
  ⟨{ base with sched := [.event .dccTick] }, .dccTick, [], (by decide +kernel), (by decide +kernel)⟩

theorem w_StepRunsDecoded_4 : ∃ (s : State), ∃ a, ∃ rest, s.sched = .agent a :: rest ∧ agentExists a = true ∧ ({ s with sched := rest } : State).runnable a = false :=
  ⟨{ wA.setHart (.stream 0 .A) { hart0 with stat := .joined } with sched := [.agent (.stream 0 .A)] }, .stream 0 .A, [], (by decide +kernel), (by decide +kernel), (by decide +kernel)⟩

theorem w_StepRunsDecoded_5 : ∃ (s : State), ∃ a, ∃ rest, s.sched = .agent a :: rest ∧ agentExists a = false :=
  ⟨{ wA with sched := [.agent (.stream 128 .A)] }, .stream 128 .A, [], (by decide +kernel), (by decide +kernel)⟩

theorem w_FetchInLine_1 : ∃ (s : State), ∃ a, s.runnable a = true ∧ (∀ c, a = .stream c .A → (s.job c).rldFault = []) ∧ s.releasing (agentNo a) = false ∧ (s.hart a).newLine = false ∧ hdrUsed (s.codeWord a (64 * lineOf (s.hart a).pc)) (slotIn (s.hart a).pc) = true :=
  ⟨wLine, .stream 0 .A, (by decide +kernel), (fun _ h => by cases h; decide +kernel), (by decide +kernel), (by decide +kernel), (by decide +kernel)⟩

theorem w_DecodeEncode_1 : ∃ i, ∃ ws, encode i = some ws :=
  ⟨.add rrr, _, (some_of (by decide +kernel))⟩

theorem w_SlotsOfFirst_1 : ∃ i, ∃ ws, encode i = some ws :=
  ⟨.add rrr, _, (some_of (by decide +kernel))⟩

theorem w_LoadResults_1 : ∃ x, ∃ (s : State), ∃ a, ∃ s1, Issues (.ldB x) s ∧ readSrc 1 x.a s = .ok a s1 ∧ 
    let e := a + x.imm.signExtend 64
    e.toNat % 1 = 0 ∧ ∃ bs, ∃ s2, ∃ t, loadBytes e.toNat 1 s1 = .ok bs s2 ∧ (finish x.d (((fun bs => (BitVec.ofNat 8 (leVal bs)).signExtend 64) : List Byte → Word) bs) s2 = .ok () t) :=
  ⟨mem 0#20, wA, _, _, (issues_of (by decide +kernel)), (ok_of (by decide +kernel)), (by decide +kernel), _, _, _, (ok_of (by decide +kernel)), (okU_of (by decide +kernel))⟩

theorem w_LoadResults_3 : ∃ x, ∃ (s : State), ∃ a, ∃ s1, Issues (.ldBu x) s ∧ readSrc 1 x.a s = .ok a s1 ∧ 
    let e := a + x.imm.signExtend 64
    e.toNat % 1 = 0 ∧ ∃ bs, ∃ s2, ∃ t, loadBytes e.toNat 1 s1 = .ok bs s2 ∧ (finish x.d (((fun bs => BitVec.ofNat 64 (leVal bs)) : List Byte → Word) bs) s2 = .ok () t) :=
  ⟨mem 0#20, wA, _, _, (issues_of (by decide +kernel)), (ok_of (by decide +kernel)), (by decide +kernel), _, _, _, (ok_of (by decide +kernel)), (okU_of (by decide +kernel))⟩

theorem w_LoadResults_5 : ∃ x, ∃ (s : State), ∃ a, ∃ s1, Issues (.ldH x) s ∧ readSrc 1 x.a s = .ok a s1 ∧ 
    let e := a + x.imm.signExtend 64
    e.toNat % 2 = 0 ∧ ∃ bs, ∃ s2, ∃ t, loadBytes e.toNat 2 s1 = .ok bs s2 ∧ (finish x.d (((fun bs => (BitVec.ofNat 16 (leVal bs)).signExtend 64) : List Byte → Word) bs) s2 = .ok () t) :=
  ⟨mem 0#20, wA, _, _, (issues_of (by decide +kernel)), (ok_of (by decide +kernel)), (by decide +kernel), _, _, _, (ok_of (by decide +kernel)), (okU_of (by decide +kernel))⟩

theorem w_LoadResults_6 : ∃ x, ∃ (s : State), ∃ a, ∃ s1, Issues (.ldH x) s ∧ readSrc 1 x.a s = .ok a s1 ∧ 
    let e := a + x.imm.signExtend 64
    e.toNat % 2 ≠ 0 ∧ ∃ t, takeException s1.cur 0x143#10 (.at e) s1 = .ok () t :=
  ⟨mem 1#20, wA, _, _, (issues_of (by decide +kernel)), (ok_of (by decide +kernel)), (by decide +kernel), _, (okU_of (by decide +kernel))⟩

theorem w_LoadResults_7 : ∃ x, ∃ (s : State), ∃ a, ∃ s1, Issues (.ldHu x) s ∧ readSrc 1 x.a s = .ok a s1 ∧ 
    let e := a + x.imm.signExtend 64
    e.toNat % 2 = 0 ∧ ∃ bs, ∃ s2, ∃ t, loadBytes e.toNat 2 s1 = .ok bs s2 ∧ (finish x.d (((fun bs => BitVec.ofNat 64 (leVal bs)) : List Byte → Word) bs) s2 = .ok () t) :=
  ⟨mem 0#20, wA, _, _, (issues_of (by decide +kernel)), (ok_of (by decide +kernel)), (by decide +kernel), _, _, _, (ok_of (by decide +kernel)), (okU_of (by decide +kernel))⟩

theorem w_LoadResults_8 : ∃ x, ∃ (s : State), ∃ a, ∃ s1, Issues (.ldHu x) s ∧ readSrc 1 x.a s = .ok a s1 ∧ 
    let e := a + x.imm.signExtend 64
    e.toNat % 2 ≠ 0 ∧ ∃ t, takeException s1.cur 0x143#10 (.at e) s1 = .ok () t :=
  ⟨mem 1#20, wA, _, _, (issues_of (by decide +kernel)), (ok_of (by decide +kernel)), (by decide +kernel), _, (okU_of (by decide +kernel))⟩

theorem w_LoadResults_9 : ∃ x, ∃ (s : State), ∃ a, ∃ s1, Issues (.ldW x) s ∧ readSrc 1 x.a s = .ok a s1 ∧ 
    let e := a + x.imm.signExtend 64
    e.toNat % 4 = 0 ∧ ∃ bs, ∃ s2, ∃ t, loadBytes e.toNat 4 s1 = .ok bs s2 ∧ (finish x.d (((fun bs => (BitVec.ofNat 32 (leVal bs)).signExtend 64) : List Byte → Word) bs) s2 = .ok () t) :=
  ⟨mem 0#20, wA, _, _, (issues_of (by decide +kernel)), (ok_of (by decide +kernel)), (by decide +kernel), _, _, _, (ok_of (by decide +kernel)), (okU_of (by decide +kernel))⟩

theorem w_LoadResults_10 : ∃ x, ∃ (s : State), ∃ a, ∃ s1, Issues (.ldW x) s ∧ readSrc 1 x.a s = .ok a s1 ∧ 
    let e := a + x.imm.signExtend 64
    e.toNat % 4 ≠ 0 ∧ ∃ t, takeException s1.cur 0x143#10 (.at e) s1 = .ok () t :=
  ⟨mem 1#20, wA, _, _, (issues_of (by decide +kernel)), (ok_of (by decide +kernel)), (by decide +kernel), _, (okU_of (by decide +kernel))⟩

theorem w_LoadResults_11 : ∃ x, ∃ (s : State), ∃ a, ∃ s1, Issues (.ldWu x) s ∧ readSrc 1 x.a s = .ok a s1 ∧ 
    let e := a + x.imm.signExtend 64
    e.toNat % 4 = 0 ∧ ∃ bs, ∃ s2, ∃ t, loadBytes e.toNat 4 s1 = .ok bs s2 ∧ (finish x.d (((fun bs => BitVec.ofNat 64 (leVal bs)) : List Byte → Word) bs) s2 = .ok () t) :=
  ⟨mem 0#20, wA, _, _, (issues_of (by decide +kernel)), (ok_of (by decide +kernel)), (by decide +kernel), _, _, _, (ok_of (by decide +kernel)), (okU_of (by decide +kernel))⟩

theorem w_LoadResults_12 : ∃ x, ∃ (s : State), ∃ a, ∃ s1, Issues (.ldWu x) s ∧ readSrc 1 x.a s = .ok a s1 ∧ 
    let e := a + x.imm.signExtend 64
    e.toNat % 4 ≠ 0 ∧ ∃ t, takeException s1.cur 0x143#10 (.at e) s1 = .ok () t :=
  ⟨mem 1#20, wA, _, _, (issues_of (by decide +kernel)), (ok_of (by decide +kernel)), (by decide +kernel), _, (okU_of (by decide +kernel))⟩

theorem w_LoadResults_13 : ∃ x, ∃ (s : State), ∃ a, ∃ s1, Issues (.ldD x) s ∧ readSrc 1 x.a s = .ok a s1 ∧ 
    let e := a + x.imm.signExtend 64
    e.toNat % 8 = 0 ∧ ∃ bs, ∃ s2, ∃ t, loadBytes e.toNat 8 s1 = .ok bs s2 ∧ (finish x.d (((fun bs => BitVec.ofNat 64 (leVal bs)) : List Byte → Word) bs) s2 = .ok () t) :=
  ⟨mem 0#20, wA, _, _, (issues_of (by decide +kernel)), (ok_of (by decide +kernel)), (by decide +kernel), _, _, _, (ok_of (by decide +kernel)), (okU_of (by decide +kernel))⟩

theorem w_LoadResults_14 : ∃ x, ∃ (s : State), ∃ a, ∃ s1, Issues (.ldD x) s ∧ readSrc 1 x.a s = .ok a s1 ∧ 
    let e := a + x.imm.signExtend 64
    e.toNat % 8 ≠ 0 ∧ ∃ t, takeException s1.cur 0x143#10 (.at e) s1 = .ok () t :=
  ⟨mem 1#20, wA, _, _, (issues_of (by decide +kernel)), (ok_of (by decide +kernel)), (by decide +kernel), _, (okU_of (by decide +kernel))⟩

theorem w_StoreResults_1 : ∃ x, ∃ (s : State), ∃ a, ∃ v, ∃ s1, ∃ s2, Issues (.stB x) s ∧ readSrc 1 x.a s = .ok a s1 ∧ readSrc 0 x.d s1 = .ok v s2 ∧ 
    let e := a + x.imm.signExtend 64
    e.toNat % 1 = 0 ∧ s2.isMmio e.toNat = false ∧ ∃ t, writeGlobal s2.cur (.at (BitVec.ofNat 64 e.toNat)) e.toNat (leBytes 1 v.toNat) s2 = .ok () t :=
  ⟨mem 0#20, wA, _, _, _, _, (issues_of (by decide +kernel)), (ok_of (by decide +kernel)), (ok_of (by decide +kernel)), (by decide +kernel), (by decide +kernel), _, (okU_of (by decide +kernel))⟩

theorem w_StoreResults_3 : ∃ x, ∃ (s : State), ∃ a, ∃ v, ∃ s1, ∃ s2, Issues (.stH x) s ∧ readSrc 1 x.a s = .ok a s1 ∧ readSrc 0 x.d s1 = .ok v s2 ∧ 
    let e := a + x.imm.signExtend 64
    e.toNat % 2 = 0 ∧ s2.isMmio e.toNat = false ∧ ∃ t, writeGlobal s2.cur (.at (BitVec.ofNat 64 e.toNat)) e.toNat (leBytes 2 v.toNat) s2 = .ok () t :=
  ⟨mem 0#20, wA, _, _, _, _, (issues_of (by decide +kernel)), (ok_of (by decide +kernel)), (ok_of (by decide +kernel)), (by decide +kernel), (by decide +kernel), _, (okU_of (by decide +kernel))⟩

theorem w_StoreResults_4 : ∃ x, ∃ (s : State), ∃ a, ∃ v, ∃ s1, ∃ s2, Issues (.stH x) s ∧ readSrc 1 x.a s = .ok a s1 ∧ readSrc 0 x.d s1 = .ok v s2 ∧ 
    let e := a + x.imm.signExtend 64
    e.toNat % 2 ≠ 0 ∧ ∃ t, takeException s2.cur 0x143#10 (.at e) s2 = .ok () t :=
  ⟨mem 1#20, wA, _, _, _, _, (issues_of (by decide +kernel)), (ok_of (by decide +kernel)), (ok_of (by decide +kernel)), (by decide +kernel), _, (okU_of (by decide +kernel))⟩

theorem w_StoreResults_5 : ∃ x, ∃ (s : State), ∃ a, ∃ v, ∃ s1, ∃ s2, Issues (.stW x) s ∧ readSrc 1 x.a s = .ok a s1 ∧ readSrc 0 x.d s1 = .ok v s2 ∧ 
    let e := a + x.imm.signExtend 64
    e.toNat % 4 = 0 ∧ s2.isMmio e.toNat = false ∧ ∃ t, writeGlobal s2.cur (.at (BitVec.ofNat 64 e.toNat)) e.toNat (leBytes 4 v.toNat) s2 = .ok () t :=
  ⟨mem 0#20, wA, _, _, _, _, (issues_of (by decide +kernel)), (ok_of (by decide +kernel)), (ok_of (by decide +kernel)), (by decide +kernel), (by decide +kernel), _, (okU_of (by decide +kernel))⟩

theorem w_StoreResults_6 : ∃ x, ∃ (s : State), ∃ a, ∃ v, ∃ s1, ∃ s2, Issues (.stW x) s ∧ readSrc 1 x.a s = .ok a s1 ∧ readSrc 0 x.d s1 = .ok v s2 ∧ 
    let e := a + x.imm.signExtend 64
    e.toNat % 4 ≠ 0 ∧ ∃ t, takeException s2.cur 0x143#10 (.at e) s2 = .ok () t :=
  ⟨mem 1#20, wA, _, _, _, _, (issues_of (by decide +kernel)), (ok_of (by decide +kernel)), (ok_of (by decide +kernel)), (by decide +kernel), _, (okU_of (by decide +kernel))⟩

theorem w_StoreResults_7 : ∃ x, ∃ (s : State), ∃ a, ∃ v, ∃ s1, ∃ s2, Issues (.stD x) s ∧ readSrc 1 x.a s = .ok a s1 ∧ readSrc 0 x.d s1 = .ok v s2 ∧ 
    let e := a + x.imm.signExtend 64
    e.toNat % 8 = 0 ∧ s2.isMmio e.toNat = false ∧ ∃ t, writeGlobal s2.cur (.at (BitVec.ofNat 64 e.toNat)) e.toNat (leBytes 8 v.toNat) s2 = .ok () t :=
  ⟨mem 0#20, wA, _, _, _, _, (issues_of (by decide +kernel)), (ok_of (by decide +kernel)), (ok_of (by decide +kernel)), (by decide +kernel), (by decide +kernel), _, (okU_of (by decide +kernel))⟩

theorem w_StoreResults_8 : ∃ x, ∃ (s : State), ∃ a, ∃ v, ∃ s1, ∃ s2, Issues (.stD x) s ∧ readSrc 1 x.a s = .ok a s1 ∧ readSrc 0 x.d s1 = .ok v s2 ∧ 
    let e := a + x.imm.signExtend 64
    e.toNat % 8 ≠ 0 ∧ ∃ t, takeException s2.cur 0x143#10 (.at e) s2 = .ok () t :=
  ⟨mem 1#20, wA, _, _, _, _, (issues_of (by decide +kernel)), (ok_of (by decide +kernel)), (ok_of (by decide +kernel)), (by decide +kernel), _, (okU_of (by decide +kernel))⟩

theorem w_PrivateStoreFrame_1 : 
    let p := (Instr.stB, 1)
    ∃ x, ∃ (s : State), ∃ a, ∃ v, ∃ s1, ∃ s2, ∃ c, ∃ g, ∃ pa, Issues (p.1 x) s ∧ readSrc 1 x.a s = .ok a s1 ∧ readSrc 0 x.d s1 = .ok v s2 ∧ s2.cur = .stream c g ∧ 
    let va := (a + x.imm.signExtend 64).toNat
    va % p.2 = 0 ∧ (s2.hart s2.cur).privGranules.contains (va / 64) = true ∧ xlate s2.cur true false va s2 = .ok (.ok pa) s2 :=
  ⟨mem 0#20, wPriv, _, _, _, _, 0, .A, 0x10040, (issues_of (by decide +kernel)), (ok_of (by decide +kernel)), (ok_of (by decide +kernel)), (by decide +kernel), (by decide +kernel), (by decide +kernel), (okE_of (by decide +kernel))⟩

theorem w_PrivateStoreFrame_2 : 
    let p := (Instr.stH, 2)
    ∃ x, ∃ (s : State), ∃ a, ∃ v, ∃ s1, ∃ s2, ∃ c, ∃ g, ∃ pa, Issues (p.1 x) s ∧ readSrc 1 x.a s = .ok a s1 ∧ readSrc 0 x.d s1 = .ok v s2 ∧ s2.cur = .stream c g ∧ 
    let va := (a + x.imm.signExtend 64).toNat
    va % p.2 = 0 ∧ (s2.hart s2.cur).privGranules.contains (va / 64) = true ∧ xlate s2.cur true false va s2 = .ok (.ok pa) s2 :=
  ⟨mem 0#20, wPriv, _, _, _, _, 0, .A, 0x10040, (issues_of (by decide +kernel)), (ok_of (by decide +kernel)), (ok_of (by decide +kernel)), (by decide +kernel), (by decide +kernel), (by decide +kernel), (okE_of (by decide +kernel))⟩

theorem w_PrivateStoreFrame_3 : 
    let p := (Instr.stW, 4)
    ∃ x, ∃ (s : State), ∃ a, ∃ v, ∃ s1, ∃ s2, ∃ c, ∃ g, ∃ pa, Issues (p.1 x) s ∧ readSrc 1 x.a s = .ok a s1 ∧ readSrc 0 x.d s1 = .ok v s2 ∧ s2.cur = .stream c g ∧ 
    let va := (a + x.imm.signExtend 64).toNat
    va % p.2 = 0 ∧ (s2.hart s2.cur).privGranules.contains (va / 64) = true ∧ xlate s2.cur true false va s2 = .ok (.ok pa) s2 :=
  ⟨mem 0#20, wPriv, _, _, _, _, 0, .A, 0x10040, (issues_of (by decide +kernel)), (ok_of (by decide +kernel)), (ok_of (by decide +kernel)), (by decide +kernel), (by decide +kernel), (by decide +kernel), (okE_of (by decide +kernel))⟩

theorem w_PrivateStoreFrame_4 : 
    let p := (Instr.stD, 8)
    ∃ x, ∃ (s : State), ∃ a, ∃ v, ∃ s1, ∃ s2, ∃ c, ∃ g, ∃ pa, Issues (p.1 x) s ∧ readSrc 1 x.a s = .ok a s1 ∧ readSrc 0 x.d s1 = .ok v s2 ∧ s2.cur = .stream c g ∧ 
    let va := (a + x.imm.signExtend 64).toNat
    va % p.2 = 0 ∧ (s2.hart s2.cur).privGranules.contains (va / 64) = true ∧ xlate s2.cur true false va s2 = .ok (.ok pa) s2 :=
  ⟨mem 0#20, wPriv, _, _, _, _, 0, .A, 0x10040, (issues_of (by decide +kernel)), (ok_of (by decide +kernel)), (ok_of (by decide +kernel)), (by decide +kernel), (by decide +kernel), (by decide +kernel), (okE_of (by decide +kernel))⟩

theorem w_LoadSpResults_1 : ∃ x, ∃ (s : State), ∃ a, ∃ s1, ∃ c, ∃ g, Issues (.ldspB x) s ∧ readSrc 1 x.a s = .ok a s1 ∧ s1.cur = .stream c g ∧ 
    let e := a + x.imm.signExtend 64
    e.toNat % 1 = 0 ∧ ∃ bs, ∃ s2, ∃ t, scratchRead (.at (BitVec.ofNat 64 e.toNat)) e.toNat 1 s1 = .ok bs s2 ∧ (finish x.d (((fun bs => (BitVec.ofNat 8 (leVal bs)).signExtend 64) : List Byte → Word) bs) s2 = .ok () t) :=
  ⟨sp 0#20, wSp, _, _, 0, .A, (issues_of (by decide +kernel)), (ok_of (by decide +kernel)), (by decide +kernel), (by decide +kernel), _, _, _, (ok_of (by decide +kernel)), (okU_of (by decide +kernel))⟩

theorem w_LoadSpResults_3 : ∃ x, ∃ (s : State), ∃ a, ∃ s1, ∃ c, ∃ t, Issues (.ldspB x) s ∧ readSrc 1 x.a s = .ok a s1 ∧ s1.cur = .service c ∧ 
    let e := a + x.imm.signExtend 64
    e.toNat % 1 = 0 ∧ e.toNat + 1 ≤ 65536 ∧ (finish x.d (((fun bs => (BitVec.ofNat 8 (leVal bs)).signExtend 64) : List Byte → Word) (Map.getN (fun _ => 0#8) (s1.core c).svcMem e.toNat 1)) s1 = .ok () t) :=
  ⟨sp 0#20, wSvc, _, _, 0, _, (issues_of (by decide +kernel)), (ok_of (by decide +kernel)), (by decide +kernel), (by decide +kernel), (by decide +kernel), (okU_of (by decide +kernel))⟩

theorem w_LoadSpResults_4 : ∃ x, ∃ (s : State), ∃ a, ∃ s1, ∃ c, ∃ g, Issues (.ldspBu x) s ∧ readSrc 1 x.a s = .ok a s1 ∧ s1.cur = .stream c g ∧ 
    let e := a + x.imm.signExtend 64
    e.toNat % 1 = 0 ∧ ∃ bs, ∃ s2, ∃ t, scratchRead (.at (BitVec.ofNat 64 e.toNat)) e.toNat 1 s1 = .ok bs s2 ∧ (finish x.d (((fun bs => BitVec.ofNat 64 (leVal bs)) : List Byte → Word) bs) s2 = .ok () t) :=
  ⟨sp 0#20, wSp, _, _, 0, .A, (issues_of (by decide +kernel)), (ok_of (by decide +kernel)), (by decide +kernel), (by decide +kernel), _, _, _, (ok_of (by decide +kernel)), (okU_of (by decide +kernel))⟩

theorem w_LoadSpResults_6 : ∃ x, ∃ (s : State), ∃ a, ∃ s1, ∃ c, ∃ t, Issues (.ldspBu x) s ∧ readSrc 1 x.a s = .ok a s1 ∧ s1.cur = .service c ∧ 
    let e := a + x.imm.signExtend 64
    e.toNat % 1 = 0 ∧ e.toNat + 1 ≤ 65536 ∧ (finish x.d (((fun bs => BitVec.ofNat 64 (leVal bs)) : List Byte → Word) (Map.getN (fun _ => 0#8) (s1.core c).svcMem e.toNat 1)) s1 = .ok () t) :=
  ⟨sp 0#20, wSvc, _, _, 0, _, (issues_of (by decide +kernel)), (ok_of (by decide +kernel)), (by decide +kernel), (by decide +kernel), (by decide +kernel), (okU_of (by decide +kernel))⟩

theorem w_LoadSpResults_7 : ∃ x, ∃ (s : State), ∃ a, ∃ s1, ∃ c, ∃ g, Issues (.ldspH x) s ∧ readSrc 1 x.a s = .ok a s1 ∧ s1.cur = .stream c g ∧ 
    let e := a + x.imm.signExtend 64
    e.toNat % 2 = 0 ∧ ∃ bs, ∃ s2, ∃ t, scratchRead (.at (BitVec.ofNat 64 e.toNat)) e.toNat 2 s1 = .ok bs s2 ∧ (finish x.d (((fun bs => (BitVec.ofNat 16 (leVal bs)).signExtend 64) : List Byte → Word) bs) s2 = .ok () t) :=
  ⟨sp 0#20, wSp, _, _, 0, .A, (issues_of (by decide +kernel)), (ok_of (by decide +kernel)), (by decide +kernel), (by decide +kernel), _, _, _, (ok_of (by decide +kernel)), (okU_of (by decide +kernel))⟩

theorem w_LoadSpResults_8 : ∃ x, ∃ (s : State), ∃ a, ∃ s1, ∃ c, ∃ g, Issues (.ldspH x) s ∧ readSrc 1 x.a s = .ok a s1 ∧ s1.cur = .stream c g ∧ 
    let e := a + x.imm.signExtend 64
    e.toNat % 2 ≠ 0 ∧ ∃ t, takeException s1.cur 0x143#10 (.at e) s1 = .ok () t :=
  ⟨sp 1#20, wSp, _, _, 0, .A, (issues_of (by decide +kernel)), (ok_of (by decide +kernel)), (by decide +kernel), (by decide +kernel), _, (okU_of (by decide +kernel))⟩

theorem w_LoadSpResults_9 : ∃ x, ∃ (s : State), ∃ a, ∃ s1, ∃ c, ∃ t, Issues (.ldspH x) s ∧ readSrc 1 x.a s = .ok a s1 ∧ s1.cur = .service c ∧ 
    let e := a + x.imm.signExtend 64
    e.toNat % 2 = 0 ∧ e.toNat + 2 ≤ 65536 ∧ (finish x.d (((fun bs => (BitVec.ofNat 16 (leVal bs)).signExtend 64) : List Byte → Word) (Map.getN (fun _ => 0#8) (s1.core c).svcMem e.toNat 2)) s1 = .ok () t) :=
  ⟨sp 0#20, wSvc, _, _, 0, _, (issues_of (by decide +kernel)), (ok_of (by decide +kernel)), (by decide +kernel), (by decide +kernel), (by decide +kernel), (okU_of (by decide +kernel))⟩

theorem w_LoadSpResults_10 : ∃ x, ∃ (s : State), ∃ a, ∃ s1, ∃ c, ∃ g, Issues (.ldspHu x) s ∧ readSrc 1 x.a s = .ok a s1 ∧ s1.cur = .stream c g ∧ 
    let e := a + x.imm.signExtend 64
    e.toNat % 2 = 0 ∧ ∃ bs, ∃ s2, ∃ t, scratchRead (.at (BitVec.ofNat 64 e.toNat)) e.toNat 2 s1 = .ok bs s2 ∧ (finish x.d (((fun bs => BitVec.ofNat 64 (leVal bs)) : List Byte → Word) bs) s2 = .ok () t) :=
  ⟨sp 0#20, wSp, _, _, 0, .A, (issues_of (by decide +kernel)), (ok_of (by decide +kernel)), (by decide +kernel), (by decide +kernel), _, _, _, (ok_of (by decide +kernel)), (okU_of (by decide +kernel))⟩

theorem w_LoadSpResults_11 : ∃ x, ∃ (s : State), ∃ a, ∃ s1, ∃ c, ∃ g, Issues (.ldspHu x) s ∧ readSrc 1 x.a s = .ok a s1 ∧ s1.cur = .stream c g ∧ 
    let e := a + x.imm.signExtend 64
    e.toNat % 2 ≠ 0 ∧ ∃ t, takeException s1.cur 0x143#10 (.at e) s1 = .ok () t :=
  ⟨sp 1#20, wSp, _, _, 0, .A, (issues_of (by decide +kernel)), (ok_of (by decide +kernel)), (by decide +kernel), (by decide +kernel), _, (okU_of (by decide +kernel))⟩

theorem w_LoadSpResults_12 : ∃ x, ∃ (s : State), ∃ a, ∃ s1, ∃ c, ∃ t, Issues (.ldspHu x) s ∧ readSrc 1 x.a s = .ok a s1 ∧ s1.cur = .service c ∧ 
    let e := a + x.imm.signExtend 64
    e.toNat % 2 = 0 ∧ e.toNat + 2 ≤ 65536 ∧ (finish x.d (((fun bs => BitVec.ofNat 64 (leVal bs)) : List Byte → Word) (Map.getN (fun _ => 0#8) (s1.core c).svcMem e.toNat 2)) s1 = .ok () t) :=
  ⟨sp 0#20, wSvc, _, _, 0, _, (issues_of (by decide +kernel)), (ok_of (by decide +kernel)), (by decide +kernel), (by decide +kernel), (by decide +kernel), (okU_of (by decide +kernel))⟩

theorem w_LoadSpResults_13 : ∃ x, ∃ (s : State), ∃ a, ∃ s1, ∃ c, ∃ g, Issues (.ldspW x) s ∧ readSrc 1 x.a s = .ok a s1 ∧ s1.cur = .stream c g ∧ 
    let e := a + x.imm.signExtend 64
    e.toNat % 4 = 0 ∧ ∃ bs, ∃ s2, ∃ t, scratchRead (.at (BitVec.ofNat 64 e.toNat)) e.toNat 4 s1 = .ok bs s2 ∧ (finish x.d (((fun bs => (BitVec.ofNat 32 (leVal bs)).signExtend 64) : List Byte → Word) bs) s2 = .ok () t) :=
  ⟨sp 0#20, wSp, _, _, 0, .A, (issues_of (by decide +kernel)), (ok_of (by decide +kernel)), (by decide +kernel), (by decide +kernel), _, _, _, (ok_of (by decide +kernel)), (okU_of (by decide +kernel))⟩

theorem w_LoadSpResults_14 : ∃ x, ∃ (s : State), ∃ a, ∃ s1, ∃ c, ∃ g, Issues (.ldspW x) s ∧ readSrc 1 x.a s = .ok a s1 ∧ s1.cur = .stream c g ∧ 
    let e := a + x.imm.signExtend 64
    e.toNat % 4 ≠ 0 ∧ ∃ t, takeException s1.cur 0x143#10 (.at e) s1 = .ok () t :=
  ⟨sp 1#20, wSp, _, _, 0, .A, (issues_of (by decide +kernel)), (ok_of (by decide +kernel)), (by decide +kernel), (by decide +kernel), _, (okU_of (by decide +kernel))⟩

theorem w_LoadSpResults_15 : ∃ x, ∃ (s : State), ∃ a, ∃ s1, ∃ c, ∃ t, Issues (.ldspW x) s ∧ readSrc 1 x.a s = .ok a s1 ∧ s1.cur = .service c ∧ 
    let e := a + x.imm.signExtend 64
    e.toNat % 4 = 0 ∧ e.toNat + 4 ≤ 65536 ∧ (finish x.d (((fun bs => (BitVec.ofNat 32 (leVal bs)).signExtend 64) : List Byte → Word) (Map.getN (fun _ => 0#8) (s1.core c).svcMem e.toNat 4)) s1 = .ok () t) :=
  ⟨sp 0#20, wSvc, _, _, 0, _, (issues_of (by decide +kernel)), (ok_of (by decide +kernel)), (by decide +kernel), (by decide +kernel), (by decide +kernel), (okU_of (by decide +kernel))⟩

theorem w_LoadSpResults_16 : ∃ x, ∃ (s : State), ∃ a, ∃ s1, ∃ c, ∃ g, Issues (.ldspWu x) s ∧ readSrc 1 x.a s = .ok a s1 ∧ s1.cur = .stream c g ∧ 
    let e := a + x.imm.signExtend 64
    e.toNat % 4 = 0 ∧ ∃ bs, ∃ s2, ∃ t, scratchRead (.at (BitVec.ofNat 64 e.toNat)) e.toNat 4 s1 = .ok bs s2 ∧ (finish x.d (((fun bs => BitVec.ofNat 64 (leVal bs)) : List Byte → Word) bs) s2 = .ok () t) :=
  ⟨sp 0#20, wSp, _, _, 0, .A, (issues_of (by decide +kernel)), (ok_of (by decide +kernel)), (by decide +kernel), (by decide +kernel), _, _, _, (ok_of (by decide +kernel)), (okU_of (by decide +kernel))⟩

theorem w_LoadSpResults_17 : ∃ x, ∃ (s : State), ∃ a, ∃ s1, ∃ c, ∃ g, Issues (.ldspWu x) s ∧ readSrc 1 x.a s = .ok a s1 ∧ s1.cur = .stream c g ∧ 
    let e := a + x.imm.signExtend 64
    e.toNat % 4 ≠ 0 ∧ ∃ t, takeException s1.cur 0x143#10 (.at e) s1 = .ok () t :=
  ⟨sp 1#20, wSp, _, _, 0, .A, (issues_of (by decide +kernel)), (ok_of (by decide +kernel)), (by decide +kernel), (by decide +kernel), _, (okU_of (by decide +kernel))⟩

theorem w_LoadSpResults_18 : ∃ x, ∃ (s : State), ∃ a, ∃ s1, ∃ c, ∃ t, Issues (.ldspWu x) s ∧ readSrc 1 x.a s = .ok a s1 ∧ s1.cur = .service c ∧ 
    let e := a + x.imm.signExtend 64
    e.toNat % 4 = 0 ∧ e.toNat + 4 ≤ 65536 ∧ (finish x.d (((fun bs => BitVec.ofNat 64 (leVal bs)) : List Byte → Word) (Map.getN (fun _ => 0#8) (s1.core c).svcMem e.toNat 4)) s1 = .ok () t) :=
  ⟨sp 0#20, wSvc, _, _, 0, _, (issues_of (by decide +kernel)), (ok_of (by decide +kernel)), (by decide +kernel), (by decide +kernel), (by decide +kernel), (okU_of (by decide +kernel))⟩

theorem w_LoadSpResults_19 : ∃ x, ∃ (s : State), ∃ a, ∃ s1, ∃ c, ∃ g, Issues (.ldspD x) s ∧ readSrc 1 x.a s = .ok a s1 ∧ s1.cur = .stream c g ∧ 
    let e := a + x.imm.signExtend 64
    e.toNat % 8 = 0 ∧ ∃ bs, ∃ s2, ∃ t, scratchRead (.at (BitVec.ofNat 64 e.toNat)) e.toNat 8 s1 = .ok bs s2 ∧ (finish x.d (((fun bs => BitVec.ofNat 64 (leVal bs)) : List Byte → Word) bs) s2 = .ok () t) :=
  ⟨sp 0#20, wSp, _, _, 0, .A, (issues_of (by decide +kernel)), (ok_of (by decide +kernel)), (by decide +kernel), (by decide +kernel), _, _, _, (ok_of (by decide +kernel)), (okU_of (by decide +kernel))⟩

theorem w_LoadSpResults_20 : ∃ x, ∃ (s : State), ∃ a, ∃ s1, ∃ c, ∃ g, Issues (.ldspD x) s ∧ readSrc 1 x.a s = .ok a s1 ∧ s1.cur = .stream c g ∧ 
    let e := a + x.imm.signExtend 64
    e.toNat % 8 ≠ 0 ∧ ∃ t, takeException s1.cur 0x143#10 (.at e) s1 = .ok () t :=
  ⟨sp 1#20, wSp, _, _, 0, .A, (issues_of (by decide +kernel)), (ok_of (by decide +kernel)), (by decide +kernel), (by decide +kernel), _, (okU_of (by decide +kernel))⟩

theorem w_LoadSpResults_21 : ∃ x, ∃ (s : State), ∃ a, ∃ s1, ∃ c, ∃ t, Issues (.ldspD x) s ∧ readSrc 1 x.a s = .ok a s1 ∧ s1.cur = .service c ∧ 
    let e := a + x.imm.signExtend 64
    e.toNat % 8 = 0 ∧ e.toNat + 8 ≤ 65536 ∧ (finish x.d (((fun bs => BitVec.ofNat 64 (leVal bs)) : List Byte → Word) (Map.getN (fun _ => 0#8) (s1.core c).svcMem e.toNat 8)) s1 = .ok () t) :=
  ⟨sp 0#20, wSvc, _, _, 0, _, (issues_of (by decide +kernel)), (ok_of (by decide +kernel)), (by decide +kernel), (by decide +kernel), (by decide +kernel), (okU_of (by decide +kernel))⟩

theorem w_StoreSpResults_1 : ∃ x, ∃ (s : State), ∃ a, ∃ v, ∃ s1, ∃ s2, ∃ s3, ∃ c, ∃ g, ∃ pa, ∃ t, Issues (.stspB x) s ∧ readSrc 1 x.a s = .ok a s1 ∧ readSrc 0 x.d s1 = .ok v s2 ∧ s2.cur = .stream c g ∧ 
    let e := a + x.imm.signExtend 64
    e.toNat % 1 = 0 ∧ scratchPlace (.at e) e.toNat 1 s2 = .ok pa s2 ∧ afterAdds pa 1 s2 = .ok () s3 ∧ physWrite pa (leBytes 1 v.toNat) none s3 = .ok false t :=
  ⟨sp 0#20, wSp, _, _, _, _, _, 0, .A, 0xE000000000040, _, (issues_of (by decide +kernel)), (ok_of (by decide +kernel)), (ok_of (by decide +kernel)), (by decide +kernel), (by decide +kernel), (okIs_of (by decide +kernel)), (okU_of (by decide +kernel)), (okV_of (by decide +kernel))⟩

theorem w_StoreSpResults_2 : ∃ x, ∃ (s : State), ∃ a, ∃ v, ∃ s1, ∃ s2, ∃ c, Issues (.stspB x) s ∧ readSrc 1 x.a s = .ok a s1 ∧ readSrc 0 x.d s1 = .ok v s2 ∧ s2.cur = .service c ∧ 
    let e := a + x.imm.signExtend 64
    e.toNat % 1 = 0 ∧ e.toNat + 1 ≤ 65536 :=
  ⟨sp 0#20, wSvc, _, _, _, _, 0, (issues_of (by decide +kernel)), (ok_of (by decide +kernel)), (ok_of (by decide +kernel)), (by decide +kernel), (by decide +kernel), (by decide +kernel)⟩

theorem w_StoreSpResults_4 : ∃ x, ∃ (s : State), ∃ a, ∃ v, ∃ s1, ∃ s2, ∃ s3, ∃ c, ∃ g, ∃ pa, ∃ t, Issues (.stspH x) s ∧ readSrc 1 x.a s = .ok a s1 ∧ readSrc 0 x.d s1 = .ok v s2 ∧ s2.cur = .stream c g ∧ 
    let e := a + x.imm.signExtend 64
    e.toNat % 2 = 0 ∧ scratchPlace (.at e) e.toNat 2 s2 = .ok pa s2 ∧ afterAdds pa 2 s2 = .ok () s3 ∧ physWrite pa (leBytes 2 v.toNat) none s3 = .ok false t :=
  ⟨sp 0#20, wSp, _, _, _, _, _, 0, .A, 0xE000000000040, _, (issues_of (by decide +kernel)), (ok_of (by decide +kernel)), (ok_of (by decide +kernel)), (by decide +kernel), (by decide +kernel), (okIs_of (by decide +kernel)), (okU_of (by decide +kernel)), (okV_of (by decide +kernel))⟩

theorem w_StoreSpResults_5 : ∃ x, ∃ (s : State), ∃ a, ∃ v, ∃ s1, ∃ s2, ∃ c, Issues (.stspH x) s ∧ readSrc 1 x.a s = .ok a s1 ∧ readSrc 0 x.d s1 = .ok v s2 ∧ s2.cur = .service c ∧ 
    let e := a + x.imm.signExtend 64
    e.toNat % 2 = 0 ∧ e.toNat + 2 ≤ 65536 :=
  ⟨sp 0#20, wSvc, _, _, _, _, 0, (issues_of (by decide +kernel)), (ok_of (by decide +kernel)), (ok_of (by decide +kernel)), (by decide +kernel), (by decide +kernel), (by decide +kernel)⟩

theorem w_StoreSpResults_6 : ∃ x, ∃ (s : State), ∃ a, ∃ v, ∃ s1, ∃ s2, ∃ t, Issues (.stspH x) s ∧ readSrc 1 x.a s = .ok a s1 ∧ readSrc 0 x.d s1 = .ok v s2 ∧ (a + x.imm.signExtend 64).toNat % 2 ≠ 0 ∧ takeException s2.cur 0x143#10 (.at (a + x.imm.signExtend 64)) s2 = .ok () t :=
  ⟨sp 1#20, wSp, _, _, _, _, _, (issues_of (by decide +kernel)), (ok_of (by decide +kernel)), (ok_of (by decide +kernel)), (by decide +kernel), (okU_of (by decide +kernel))⟩

theorem w_StoreSpResults_7 : ∃ x, ∃ (s : State), ∃ a, ∃ v, ∃ s1, ∃ s2, ∃ s3, ∃ c, ∃ g, ∃ pa, ∃ t, Issues (.stspW x) s ∧ readSrc 1 x.a s = .ok a s1 ∧ readSrc 0 x.d s1 = .ok v s2 ∧ s2.cur = .stream c g ∧ 
    let e := a + x.imm.signExtend 64
    e.toNat % 4 = 0 ∧ scratchPlace (.at e) e.toNat 4 s2 = .ok pa s2 ∧ afterAdds pa 4 s2 = .ok () s3 ∧ physWrite pa (leBytes 4 v.toNat) none s3 = .ok false t :=
  ⟨sp 0#20, wSp, _, _, _, _, _, 0, .A, 0xE000000000040, _, (issues_of (by decide +kernel)), (ok_of (by decide +kernel)), (ok_of (by decide +kernel)), (by decide +kernel), (by decide +kernel), (okIs_of (by decide +kernel)), (okU_of (by decide +kernel)), (okV_of (by decide +kernel))⟩

theorem w_StoreSpResults_8 : ∃ x, ∃ (s : State), ∃ a, ∃ v, ∃ s1, ∃ s2, ∃ c, Issues (.stspW x) s ∧ readSrc 1 x.a s = .ok a s1 ∧ readSrc 0 x.d s1 = .ok v s2 ∧ s2.cur = .service c ∧ 
    let e := a + x.imm.signExtend 64
    e.toNat % 4 = 0 ∧ e.toNat + 4 ≤ 65536 :=
  ⟨sp 0#20, wSvc, _, _, _, _, 0, (issues_of (by decide +kernel)), (ok_of (by decide +kernel)), (ok_of (by decide +kernel)), (by decide +kernel), (by decide +kernel), (by decide +kernel)⟩

theorem w_StoreSpResults_9 : ∃ x, ∃ (s : State), ∃ a, ∃ v, ∃ s1, ∃ s2, ∃ t, Issues (.stspW x) s ∧ readSrc 1 x.a s = .ok a s1 ∧ readSrc 0 x.d s1 = .ok v s2 ∧ (a + x.imm.signExtend 64).toNat % 4 ≠ 0 ∧ takeException s2.cur 0x143#10 (.at (a + x.imm.signExtend 64)) s2 = .ok () t :=
  ⟨sp 1#20, wSp, _, _, _, _, _, (issues_of (by decide +kernel)), (ok_of (by decide +kernel)), (ok_of (by decide +kernel)), (by decide +kernel), (okU_of (by decide +kernel))⟩

theorem w_StoreSpResults_10 : ∃ x, ∃ (s : State), ∃ a, ∃ v, ∃ s1, ∃ s2, ∃ s3, ∃ c, ∃ g, ∃ pa, ∃ t, Issues (.stspD x) s ∧ readSrc 1 x.a s = .ok a s1 ∧ readSrc 0 x.d s1 = .ok v s2 ∧ s2.cur = .stream c g ∧ 
    let e := a + x.imm.signExtend 64
    e.toNat % 8 = 0 ∧ scratchPlace (.at e) e.toNat 8 s2 = .ok pa s2 ∧ afterAdds pa 8 s2 = .ok () s3 ∧ physWrite pa (leBytes 8 v.toNat) none s3 = .ok false t :=
  ⟨sp 0#20, wSp, _, _, _, _, _, 0, .A, 0xE000000000040, _, (issues_of (by decide +kernel)), (ok_of (by decide +kernel)), (ok_of (by decide +kernel)), (by decide +kernel), (by decide +kernel), (okIs_of (by decide +kernel)), (okU_of (by decide +kernel)), (okV_of (by decide +kernel))⟩

theorem w_StoreSpResults_11 : ∃ x, ∃ (s : State), ∃ a, ∃ v, ∃ s1, ∃ s2, ∃ c, Issues (.stspD x) s ∧ readSrc 1 x.a s = .ok a s1 ∧ readSrc 0 x.d s1 = .ok v s2 ∧ s2.cur = .service c ∧ 
    let e := a + x.imm.signExtend 64
    e.toNat % 8 = 0 ∧ e.toNat + 8 ≤ 65536 :=
  ⟨sp 0#20, wSvc, _, _, _, _, 0, (issues_of (by decide +kernel)), (ok_of (by decide +kernel)), (ok_of (by decide +kernel)), (by decide +kernel), (by decide +kernel), (by decide +kernel)⟩

theorem w_StoreSpResults_12 : ∃ x, ∃ (s : State), ∃ a, ∃ v, ∃ s1, ∃ s2, ∃ t, Issues (.stspD x) s ∧ readSrc 1 x.a s = .ok a s1 ∧ readSrc 0 x.d s1 = .ok v s2 ∧ (a + x.imm.signExtend 64).toNat % 8 ≠ 0 ∧ takeException s2.cur 0x143#10 (.at (a + x.imm.signExtend 64)) s2 = .ok () t :=
  ⟨sp 1#20, wSp, _, _, _, _, _, (issues_of (by decide +kernel)), (ok_of (by decide +kernel)), (ok_of (by decide +kernel)), (by decide +kernel), (okU_of (by decide +kernel))⟩

theorem w_PhysicalWriteFrame_1 : ∃ (data : List Byte), ∃ (s : State), (Map.wf (fun _ => 0#8) s.mem = true) ∧ Map.wf regReset s.regs = true ∧ data.length ≤ 2 ^ 32 :=
  ⟨[1#8], pw, (by decide +kernel), (by decide +kernel), (by decide +kernel)⟩

theorem w_RemoteLoadResults_1 : ∃ x, ∃ (s : State), ∃ a, ∃ s1, ∃ s2, ∃ pa, Issues (.rldB x) s ∧ readSrc 1 x.a s = .ok a s1 ∧ 
    let q := x.d.toNat % 16
    
    let c := s1.cur.coreNo
    
    let e := a + x.imm.signExtend 64
    ((s1.job c).chan q).length < 8 ∧ e.toNat % 1 = 0 ∧ xlate s1.cur false false e.toNat s1 = .ok (.ok pa) s2 ∧ s2.cur = s1.cur ∧ ((s2.job c).chan q).length < 8 ∧ (∀ pkg off, s1.place pa ≠ .fabric pkg off) :=
  ⟨{ mem 0#20 with d := 0x62#8 }, wA, _, _, _, 0x10040, (issues_of (by decide +kernel)), (ok_of (by decide +kernel)), (by decide +kernel), (by decide +kernel), (okEV (by decide +kernel)), (by decide +kernel), (by decide +kernel), (notFabric_of (by decide +kernel))⟩

theorem w_RemoteLoadResults_2 : ∃ x, ∃ (s : State), ∃ a, ∃ s1, Issues (.rldB x) s ∧ readSrc 1 x.a s = .ok a s1 ∧ 8 ≤ ((s1.job s1.cur.coreNo).chan (x.d.toNat % 16)).length :=
  ⟨{ mem 0#20 with d := 0x62#8 }, fullQ, _, _, (issues_of (by decide +kernel)), (ok_of (by decide +kernel)), (by decide +kernel)⟩

theorem w_RemoteLoadResults_4 : ∃ x, ∃ (s : State), ∃ a, ∃ s1, ∃ s2, ∃ pa, Issues (.rldBu x) s ∧ readSrc 1 x.a s = .ok a s1 ∧ 
    let q := x.d.toNat % 16
    
    let c := s1.cur.coreNo
    
    let e := a + x.imm.signExtend 64
    ((s1.job c).chan q).length < 8 ∧ e.toNat % 1 = 0 ∧ xlate s1.cur false false e.toNat s1 = .ok (.ok pa) s2 ∧ s2.cur = s1.cur ∧ ((s2.job c).chan q).length < 8 ∧ (∀ pkg off, s1.place pa ≠ .fabric pkg off) :=
  ⟨{ mem 0#20 with d := 0x62#8 }, wA, _, _, _, 0x10040, (issues_of (by decide +kernel)), (ok_of (by decide +kernel)), (by decide +kernel), (by decide +kernel), (okEV (by decide +kernel)), (by decide +kernel), (by decide +kernel), (notFabric_of (by decide +kernel))⟩

theorem w_RemoteLoadResults_5 : ∃ x, ∃ (s : State), ∃ a, ∃ s1, Issues (.rldBu x) s ∧ readSrc 1 x.a s = .ok a s1 ∧ 8 ≤ ((s1.job s1.cur.coreNo).chan (x.d.toNat % 16)).length :=
  ⟨{ mem 0#20 with d := 0x62#8 }, fullQ, _, _, (issues_of (by decide +kernel)), (ok_of (by decide +kernel)), (by decide +kernel)⟩

theorem w_RemoteLoadResults_7 : ∃ x, ∃ (s : State), ∃ a, ∃ s1, ∃ s2, ∃ pa, Issues (.rldH x) s ∧ readSrc 1 x.a s = .ok a s1 ∧ 
    let q := x.d.toNat % 16
    
    let c := s1.cur.coreNo
    
    let e := a + x.imm.signExtend 64
    ((s1.job c).chan q).length < 8 ∧ e.toNat % 2 = 0 ∧ xlate s1.cur false false e.toNat s1 = .ok (.ok pa) s2 ∧ s2.cur = s1.cur ∧ ((s2.job c).chan q).length < 8 ∧ (∀ pkg off, s1.place pa ≠ .fabric pkg off) :=
  ⟨{ mem 0#20 with d := 0x62#8 }, wA, _, _, _, 0x10040, (issues_of (by decide +kernel)), (ok_of (by decide +kernel)), (by decide +kernel), (by decide +kernel), (okEV (by decide +kernel)), (by decide +kernel), (by decide +kernel), (notFabric_of (by decide +kernel))⟩

theorem w_RemoteLoadResults_8 : ∃ x, ∃ (s : State), ∃ a, ∃ s1, Issues (.rldH x) s ∧ readSrc 1 x.a s = .ok a s1 ∧ 8 ≤ ((s1.job s1.cur.coreNo).chan (x.d.toNat % 16)).length :=
  ⟨{ mem 0#20 with d := 0x62#8 }, fullQ, _, _, (issues_of (by decide +kernel)), (ok_of (by decide +kernel)), (by decide +kernel)⟩

theorem w_RemoteLoadResults_9 : ∃ x, ∃ (s : State), ∃ a, ∃ s1, ∃ t, Issues (.rldH x) s ∧ readSrc 1 x.a s = .ok a s1 ∧ ((s1.job s1.cur.coreNo).chan (x.d.toNat % 16)).length < 8 ∧ (a + x.imm.signExtend 64).toNat % 2 ≠ 0 ∧ takeException s1.cur 0x143#10 (.at (a + x.imm.signExtend 64)) s1 = .ok () t :=
  ⟨{ mem 1#20 with d := 0x62#8 }, wA, _, _, _, (issues_of (by decide +kernel)), (ok_of (by decide +kernel)), (by decide +kernel), (by decide +kernel), (okU_of (by decide +kernel))⟩

theorem w_RemoteLoadResults_10 : ∃ x, ∃ (s : State), ∃ a, ∃ s1, ∃ s2, ∃ pa, Issues (.rldHu x) s ∧ readSrc 1 x.a s = .ok a s1 ∧ 
    let q := x.d.toNat % 16
    
    let c := s1.cur.coreNo
    
    let e := a + x.imm.signExtend 64
    ((s1.job c).chan q).length < 8 ∧ e.toNat % 2 = 0 ∧ xlate s1.cur false false e.toNat s1 = .ok (.ok pa) s2 ∧ s2.cur = s1.cur ∧ ((s2.job c).chan q).length < 8 ∧ (∀ pkg off, s1.place pa ≠ .fabric pkg off) :=
  ⟨{ mem 0#20 with d := 0x62#8 }, wA, _, _, _, 0x10040, (issues_of (by decide +kernel)), (ok_of (by decide +kernel)), (by decide +kernel), (by decide +kernel), (okEV (by decide +kernel)), (by decide +kernel), (by decide +kernel), (notFabric_of (by decide +kernel))⟩

theorem w_RemoteLoadResults_11 : ∃ x, ∃ (s : State), ∃ a, ∃ s1, Issues (.rldHu x) s ∧ readSrc 1 x.a s = .ok a s1 ∧ 8 ≤ ((s1.job s1.cur.coreNo).chan (x.d.toNat % 16)).length :=
  ⟨{ mem 0#20 with d := 0x62#8 }, fullQ, _, _, (issues_of (by decide +kernel)), (ok_of (by decide +kernel)), (by decide +kernel)⟩

theorem w_RemoteLoadResults_12 : ∃ x, ∃ (s : State), ∃ a, ∃ s1, ∃ t, Issues (.rldHu x) s ∧ readSrc 1 x.a s = .ok a s1 ∧ ((s1.job s1.cur.coreNo).chan (x.d.toNat % 16)).length < 8 ∧ (a + x.imm.signExtend 64).toNat % 2 ≠ 0 ∧ takeException s1.cur 0x143#10 (.at (a + x.imm.signExtend 64)) s1 = .ok () t :=
  ⟨{ mem 1#20 with d := 0x62#8 }, wA, _, _, _, (issues_of (by decide +kernel)), (ok_of (by decide +kernel)), (by decide +kernel), (by decide +kernel), (okU_of (by decide +kernel))⟩

theorem w_RemoteLoadResults_13 : ∃ x, ∃ (s : State), ∃ a, ∃ s1, ∃ s2, ∃ pa, Issues (.rldW x) s ∧ readSrc 1 x.a s = .ok a s1 ∧ 
    let q := x.d.toNat % 16
    
    let c := s1.cur.coreNo
    
    let e := a + x.imm.signExtend 64
    ((s1.job c).chan q).length < 8 ∧ e.toNat % 4 = 0 ∧ xlate s1.cur false false e.toNat s1 = .ok (.ok pa) s2 ∧ s2.cur = s1.cur ∧ ((s2.job c).chan q).length < 8 ∧ (∀ pkg off, s1.place pa ≠ .fabric pkg off) :=
  ⟨{ mem 0#20 with d := 0x62#8 }, wA, _, _, _, 0x10040, (issues_of (by decide +kernel)), (ok_of (by decide +kernel)), (by decide +kernel), (by decide +kernel), (okEV (by decide +kernel)), (by decide +kernel), (by decide +kernel), (notFabric_of (by decide +kernel))⟩

theorem w_RemoteLoadResults_14 : ∃ x, ∃ (s : State), ∃ a, ∃ s1, Issues (.rldW x) s ∧ readSrc 1 x.a s = .ok a s1 ∧ 8 ≤ ((s1.job s1.cur.coreNo).chan (x.d.toNat % 16)).length :=
  ⟨{ mem 0#20 with d := 0x62#8 }, fullQ, _, _, (issues_of (by decide +kernel)), (ok_of (by decide +kernel)), (by decide +kernel)⟩

theorem w_RemoteLoadResults_15 : ∃ x, ∃ (s : State), ∃ a, ∃ s1, ∃ t, Issues (.rldW x) s ∧ readSrc 1 x.a s = .ok a s1 ∧ ((s1.job s1.cur.coreNo).chan (x.d.toNat % 16)).length < 8 ∧ (a + x.imm.signExtend 64).toNat % 4 ≠ 0 ∧ takeException s1.cur 0x143#10 (.at (a + x.imm.signExtend 64)) s1 = .ok () t :=
  ⟨{ mem 1#20 with d := 0x62#8 }, wA, _, _, _, (issues_of (by decide +kernel)), (ok_of (by decide +kernel)), (by decide +kernel), (by decide +kernel), (okU_of (by decide +kernel))⟩

theorem w_RemoteLoadResults_16 : ∃ x, ∃ (s : State), ∃ a, ∃ s1, ∃ s2, ∃ pa, Issues (.rldWu x) s ∧ readSrc 1 x.a s = .ok a s1 ∧ 
    let q := x.d.toNat % 16
    
    let c := s1.cur.coreNo
    
    let e := a + x.imm.signExtend 64
    ((s1.job c).chan q).length < 8 ∧ e.toNat % 4 = 0 ∧ xlate s1.cur false false e.toNat s1 = .ok (.ok pa) s2 ∧ s2.cur = s1.cur ∧ ((s2.job c).chan q).length < 8 ∧ (∀ pkg off, s1.place pa ≠ .fabric pkg off) :=
  ⟨{ mem 0#20 with d := 0x62#8 }, wA, _, _, _, 0x10040, (issues_of (by decide +kernel)), (ok_of (by decide +kernel)), (by decide +kernel), (by decide +kernel), (okEV (by decide +kernel)), (by decide +kernel), (by decide +kernel), (notFabric_of (by decide +kernel))⟩

theorem w_RemoteLoadResults_17 : ∃ x, ∃ (s : State), ∃ a, ∃ s1, Issues (.rldWu x) s ∧ readSrc 1 x.a s = .ok a s1 ∧ 8 ≤ ((s1.job s1.cur.coreNo).chan (x.d.toNat % 16)).length :=
  ⟨{ mem 0#20 with d := 0x62#8 }, fullQ, _, _, (issues_of (by decide +kernel)), (ok_of (by decide +kernel)), (by decide +kernel)⟩

theorem w_RemoteLoadResults_18 : ∃ x, ∃ (s : State), ∃ a, ∃ s1, ∃ t, Issues (.rldWu x) s ∧ readSrc 1 x.a s = .ok a s1 ∧ ((s1.job s1.cur.coreNo).chan (x.d.toNat % 16)).length < 8 ∧ (a + x.imm.signExtend 64).toNat % 4 ≠ 0 ∧ takeException s1.cur 0x143#10 (.at (a + x.imm.signExtend 64)) s1 = .ok () t :=
  ⟨{ mem 1#20 with d := 0x62#8 }, wA, _, _, _, (issues_of (by decide +kernel)), (ok_of (by decide +kernel)), (by decide +kernel), (by decide +kernel), (okU_of (by decide +kernel))⟩

theorem w_RemoteLoadResults_19 : ∃ x, ∃ (s : State), ∃ a, ∃ s1, ∃ s2, ∃ pa, Issues (.rldD x) s ∧ readSrc 1 x.a s = .ok a s1 ∧ 
    let q := x.d.toNat % 16
    
    let c := s1.cur.coreNo
    
    let e := a + x.imm.signExtend 64
    ((s1.job c).chan q).length < 8 ∧ e.toNat % 8 = 0 ∧ xlate s1.cur false false e.toNat s1 = .ok (.ok pa) s2 ∧ s2.cur = s1.cur ∧ ((s2.job c).chan q).length < 8 ∧ (∀ pkg off, s1.place pa ≠ .fabric pkg off) :=
  ⟨{ mem 0#20 with d := 0x62#8 }, wA, _, _, _, 0x10040, (issues_of (by decide +kernel)), (ok_of (by decide +kernel)), (by decide +kernel), (by decide +kernel), (okEV (by decide +kernel)), (by decide +kernel), (by decide +kernel), (notFabric_of (by decide +kernel))⟩

theorem w_RemoteLoadResults_20 : ∃ x, ∃ (s : State), ∃ a, ∃ s1, Issues (.rldD x) s ∧ readSrc 1 x.a s = .ok a s1 ∧ 8 ≤ ((s1.job s1.cur.coreNo).chan (x.d.toNat % 16)).length :=
  ⟨{ mem 0#20 with d := 0x62#8 }, fullQ, _, _, (issues_of (by decide +kernel)), (ok_of (by decide +kernel)), (by decide +kernel)⟩

theorem w_RemoteLoadResults_21 : ∃ x, ∃ (s : State), ∃ a, ∃ s1, ∃ t, Issues (.rldD x) s ∧ readSrc 1 x.a s = .ok a s1 ∧ ((s1.job s1.cur.coreNo).chan (x.d.toNat % 16)).length < 8 ∧ (a + x.imm.signExtend 64).toNat % 8 ≠ 0 ∧ takeException s1.cur 0x143#10 (.at (a + x.imm.signExtend 64)) s1 = .ok () t :=
  ⟨{ mem 1#20 with d := 0x62#8 }, wA, _, _, _, (issues_of (by decide +kernel)), (ok_of (by decide +kernel)), (by decide +kernel), (by decide +kernel), (okU_of (by decide +kernel))⟩

theorem w_AtomicResults_1 : ∃ x, ∃ (s : State), ∃ a, ∃ b, ∃ s1, ∃ s2, Issues (.atomAdd x) s ∧ readSrc 1 x.a s = .ok a s1 ∧ readSrc 2 x.b s1 = .ok b s2 ∧ ∃ c, ∃ s3, (if false then readSrc 3 x.c s2 = .ok c s3 else c = 0#64 ∧ s3 = s2) ∧ 
    let n := if x.mod.getLsbD 0 then 4 else 8
    a.toNat % n = 0 ∧ ∃ pa, ∃ s4, ∃ s5, ∃ s6, ∃ t, atomPlaceOf s3.cur a s3 = .ok (.ok (.here pa)) s4 ∧ afterAdds pa n s4 = .ok () s5 ∧ exitCheck (s5.block pa) s5 = .ok none s5 ∧ (LeavesWord (((fun w old b _ => some ((old + b) % 2 ^ w)) : (w old b c : Nat) → Option Nat) (8 * n) (leVal (s5.bytes pa n)) (b.toNat % 2 ^ (8 * n)) (c.toNat % 2 ^ (8 * n))) pa n s5 s6) ∧ finish x.d (BitVec.ofNat 64 (leVal (s5.bytes pa n))) s6 = .ok () t :=
  ⟨{ rrr with a := 6#8 }, wA, _, _, _, _, (issues_of (by decide +kernel)), (ok_of (by decide +kernel)), (ok_of (by decide +kernel)), _, _, (arg_no ⟨rfl, rfl⟩), (by decide +kernel), 0x20040, _, _, _, _, (okEV (by decide +kernel)), (okU_of (by decide +kernel)), (okIs_of (by decide +kernel)), (atom_of (by decide +kernel)), (okU_of (by decide +kernel))⟩

theorem w_AtomicResults_2 : ∃ x, ∃ (s : State), ∃ a, ∃ b, ∃ s1, ∃ s2, Issues (.atomAdd x) s ∧ readSrc 1 x.a s = .ok a s1 ∧ readSrc 2 x.b s1 = .ok b s2 ∧ ∃ c, ∃ s3, (if false then readSrc 3 x.c s2 = .ok c s3 else c = 0#64 ∧ s3 = s2) ∧ 
    let n := if x.mod.getLsbD 0 then 4 else 8
    a.toNat % n ≠ 0 ∧ ∃ t, takeException s3.cur 0x208#10 (.at a) s3 = .ok () t :=
  ⟨{ rrr with a := 6#8 }, wOdd, _, _, _, _, (issues_of (by decide +kernel)), (ok_of (by decide +kernel)), (ok_of (by decide +kernel)), _, _, (arg_no ⟨rfl, rfl⟩), (by decide +kernel), _, (okU_of (by decide +kernel))⟩

theorem w_AtomicResults_3 : ∃ x, ∃ (s : State), ∃ a, ∃ b, ∃ s1, ∃ s2, Issues (.atomAnd x) s ∧ readSrc 1 x.a s = .ok a s1 ∧ readSrc 2 x.b s1 = .ok b s2 ∧ ∃ c, ∃ s3, (if false then readSrc 3 x.c s2 = .ok c s3 else c = 0#64 ∧ s3 = s2) ∧ 
    let n := if x.mod.getLsbD 0 then 4 else 8
    a.toNat % n = 0 ∧ ∃ pa, ∃ s4, ∃ s5, ∃ s6, ∃ t, atomPlaceOf s3.cur a s3 = .ok (.ok (.here pa)) s4 ∧ afterAdds pa n s4 = .ok () s5 ∧ exitCheck (s5.block pa) s5 = .ok none s5 ∧ (LeavesWord (((fun _ old b _ => some (old &&& b)) : (w old b c : Nat) → Option Nat) (8 * n) (leVal (s5.bytes pa n)) (b.toNat % 2 ^ (8 * n)) (c.toNat % 2 ^ (8 * n))) pa n s5 s6) ∧ finish x.d (BitVec.ofNat 64 (leVal (s5.bytes pa n))) s6 = .ok () t :=
  ⟨{ rrr with a := 6#8 }, wA, _, _, _, _, (issues_of (by decide +kernel)), (ok_of (by decide +kernel)), (ok_of (by decide +kernel)), _, _, (arg_no ⟨rfl, rfl⟩), (by decide +kernel), 0x20040, _, _, _, _, (okEV (by decide +kernel)), (okU_of (by decide +kernel)), (okIs_of (by decide +kernel)), (atom_of (by decide +kernel)), (okU_of (by decide +kernel))⟩

theorem w_AtomicResults_4 : ∃ x, ∃ (s : State), ∃ a, ∃ b, ∃ s1, ∃ s2, Issues (.atomAnd x) s ∧ readSrc 1 x.a s = .ok a s1 ∧ readSrc 2 x.b s1 = .ok b s2 ∧ ∃ c, ∃ s3, (if false then readSrc 3 x.c s2 = .ok c s3 else c = 0#64 ∧ s3 = s2) ∧ 
    let n := if x.mod.getLsbD 0 then 4 else 8
    a.toNat % n ≠ 0 ∧ ∃ t, takeException s3.cur 0x208#10 (.at a) s3 = .ok () t :=
  ⟨{ rrr with a := 6#8 }, wOdd, _, _, _, _, (issues_of (by decide +kernel)), (ok_of (by decide +kernel)), (ok_of (by decide +kernel)), _, _, (arg_no ⟨rfl, rfl⟩), (by decide +kernel), _, (okU_of (by decide +kernel))⟩

theorem w_AtomicResults_5 : ∃ x, ∃ (s : State), ∃ a, ∃ b, ∃ s1, ∃ s2, Issues (.atomOr x) s ∧ readSrc 1 x.a s = .ok a s1 ∧ readSrc 2 x.b s1 = .ok b s2 ∧ ∃ c, ∃ s3, (if false then readSrc 3 x.c s2 = .ok c s3 else c = 0#64 ∧ s3 = s2) ∧ 
    let n := if x.mod.getLsbD 0 then 4 else 8
    a.toNat % n = 0 ∧ ∃ pa, ∃ s4, ∃ s5, ∃ s6, ∃ t, atomPlaceOf s3.cur a s3 = .ok (.ok (.here pa)) s4 ∧ afterAdds pa n s4 = .ok () s5 ∧ exitCheck (s5.block pa) s5 = .ok none s5 ∧ (LeavesWord (((fun _ old b _ => some (old ||| b)) : (w old b c : Nat) → Option Nat) (8 * n) (leVal (s5.bytes pa n)) (b.toNat % 2 ^ (8 * n)) (c.toNat % 2 ^ (8 * n))) pa n s5 s6) ∧ finish x.d (BitVec.ofNat 64 (leVal (s5.bytes pa n))) s6 = .ok () t :=
  ⟨{ rrr with a := 6#8 }, wA, _, _, _, _, (issues_of (by decide +kernel)), (ok_of (by decide +kernel)), (ok_of (by decide +kernel)), _, _, (arg_no ⟨rfl, rfl⟩), (by decide +kernel), 0x20040, _, _, _, _, (okEV (by decide +kernel)), (okU_of (by decide +kernel)), (okIs_of (by decide +kernel)), (atom_of (by decide +kernel)), (okU_of (by decide +kernel))⟩

theorem w_AtomicResults_6 : ∃ x, ∃ (s : State), ∃ a, ∃ b, ∃ s1, ∃ s2, Issues (.atomOr x) s ∧ readSrc 1 x.a s = .ok a s1 ∧ readSrc 2 x.b s1 = .ok b s2 ∧ ∃ c, ∃ s3, (if false then readSrc 3 x.c s2 = .ok c s3 else c = 0#64 ∧ s3 = s2) ∧ 
    let n := if x.mod.getLsbD 0 then 4 else 8
    a.toNat % n ≠ 0 ∧ ∃ t, takeException s3.cur 0x208#10 (.at a) s3 = .ok () t :=
  ⟨{ rrr with a := 6#8 }, wOdd, _, _, _, _, (issues_of (by decide +kernel)), (ok_of (by decide +kernel)), (ok_of (by decide +kernel)), _, _, (arg_no ⟨rfl, rfl⟩), (by decide +kernel), _, (okU_of (by decide +kernel))⟩

theorem w_AtomicResults_7 : ∃ x, ∃ (s : State), ∃ a, ∃ b, ∃ s1, ∃ s2, Issues (.atomXor x) s ∧ readSrc 1 x.a s = .ok a s1 ∧ readSrc 2 x.b s1 = .ok b s2 ∧ ∃ c, ∃ s3, (if false then readSrc 3 x.c s2 = .ok c s3 else c = 0#64 ∧ s3 = s2) ∧ 
    let n := if x.mod.getLsbD 0 then 4 else 8
    a.toNat % n = 0 ∧ ∃ pa, ∃ s4, ∃ s5, ∃ s6, ∃ t, atomPlaceOf s3.cur a s3 = .ok (.ok (.here pa)) s4 ∧ afterAdds pa n s4 = .ok () s5 ∧ exitCheck (s5.block pa) s5 = .ok none s5 ∧ (LeavesWord (((fun _ old b _ => some (old ^^^ b)) : (w old b c : Nat) → Option Nat) (8 * n) (leVal (s5.bytes pa n)) (b.toNat % 2 ^ (8 * n)) (c.toNat % 2 ^ (8 * n))) pa n s5 s6) ∧ finish x.d (BitVec.ofNat 64 (leVal (s5.bytes pa n))) s6 = .ok () t :=
  ⟨{ rrr with a := 6#8 }, wA, _, _, _, _, (issues_of (by decide +kernel)), (ok_of (by decide +kernel)), (ok_of (by decide +kernel)), _, _, (arg_no ⟨rfl, rfl⟩), (by decide +kernel), 0x20040, _, _, _, _, (okEV (by decide +kernel)), (okU_of (by decide +kernel)), (okIs_of (by decide +kernel)), (atom_of (by decide +kernel)), (okU_of (by decide +kernel))⟩

theorem w_AtomicResults_8 : ∃ x, ∃ (s : State), ∃ a, ∃ b, ∃ s1, ∃ s2, Issues (.atomXor x) s ∧ readSrc 1 x.a s = .ok a s1 ∧ readSrc 2 x.b s1 = .ok b s2 ∧ ∃ c, ∃ s3, (if false then readSrc 3 x.c s2 = .ok c s3 else c = 0#64 ∧ s3 = s2) ∧ 
    let n := if x.mod.getLsbD 0 then 4 else 8
    a.toNat % n ≠ 0 ∧ ∃ t, takeException s3.cur 0x208#10 (.at a) s3 = .ok () t :=
  ⟨{ rrr with a := 6#8 }, wOdd, _, _, _, _, (issues_of (by decide +kernel)), (ok_of (by decide +kernel)), (ok_of (by decide +kernel)), _, _, (arg_no ⟨rfl, rfl⟩), (by decide +kernel), _, (okU_of (by decide +kernel))⟩

theorem w_AtomicResults_9 : 
    let sx (w v : Nat) : Int := if 2 ^ (w - 1) ≤ v then (v : Int) - (2 : Int) ^ w else v
    ∃ x, ∃ (s : State), ∃ a, ∃ b, ∃ s1, ∃ s2, Issues (.atomMin x) s ∧ readSrc 1 x.a s = .ok a s1 ∧ readSrc 2 x.b s1 = .ok b s2 ∧ ∃ c, ∃ s3, (if false then readSrc 3 x.c s2 = .ok c s3 else c = 0#64 ∧ s3 = s2) ∧ 
    let n := if x.mod.getLsbD 0 then 4 else 8
    a.toNat % n = 0 ∧ ∃ pa, ∃ s4, ∃ s5, ∃ s6, ∃ t, atomPlaceOf s3.cur a s3 = .ok (.ok (.here pa)) s4 ∧ afterAdds pa n s4 = .ok () s5 ∧ exitCheck (s5.block pa) s5 = .ok none s5 ∧ (LeavesWord (((fun w old b _ => some (if sx w old ≤ sx w b then old else b)) : (w old b c : Nat) → Option Nat) (8 * n) (leVal (s5.bytes pa n)) (b.toNat % 2 ^ (8 * n)) (c.toNat % 2 ^ (8 * n))) pa n s5 s6) ∧ finish x.d (BitVec.ofNat 64 (leVal (s5.bytes pa n))) s6 = .ok () t :=
  ⟨{ rrr with a := 6#8 }, wA, _, _, _, _, (issues_of (by decide +kernel)), (ok_of (by decide +kernel)), (ok_of (by decide +kernel)), _, _, (arg_no ⟨rfl, rfl⟩), (by decide +kernel), 0x20040, _, _, _, _, (okEV (by decide +kernel)), (okU_of (by decide +kernel)), (okIs_of (by decide +kernel)), (atom_of (by decide +kernel)), (okU_of (by decide +kernel))⟩

theorem w_AtomicResults_10 : ∃ x, ∃ (s : State), ∃ a, ∃ b, ∃ s1, ∃ s2, Issues (.atomMin x) s ∧ readSrc 1 x.a s = .ok a s1 ∧ readSrc 2 x.b s1 = .ok b s2 ∧ ∃ c, ∃ s3, (if false then readSrc 3 x.c s2 = .ok c s3 else c = 0#64 ∧ s3 = s2) ∧ 
    let n := if x.mod.getLsbD 0 then 4 else 8
    a.toNat % n ≠ 0 ∧ ∃ t, takeException s3.cur 0x208#10 (.at a) s3 = .ok () t :=
  ⟨{ rrr with a := 6#8 }, wOdd, _, _, _, _, (issues_of (by decide +kernel)), (ok_of (by decide +kernel)), (ok_of (by decide +kernel)), _, _, (arg_no ⟨rfl, rfl⟩), (by decide +kernel), _, (okU_of (by decide +kernel))⟩

theorem w_AtomicResults_11 : 
    let sx (w v : Nat) : Int := if 2 ^ (w - 1) ≤ v then (v : Int) - (2 : Int) ^ w else v
    ∃ x, ∃ (s : State), ∃ a, ∃ b, ∃ s1, ∃ s2, Issues (.atomMax x) s ∧ readSrc 1 x.a s = .ok a s1 ∧ readSrc 2 x.b s1 = .ok b s2 ∧ ∃ c, ∃ s3, (if false then readSrc 3 x.c s2 = .ok c s3 else c = 0#64 ∧ s3 = s2) ∧ 
    let n := if x.mod.getLsbD 0 then 4 else 8
    a.toNat % n = 0 ∧ ∃ pa, ∃ s4, ∃ s5, ∃ s6, ∃ t, atomPlaceOf s3.cur a s3 = .ok (.ok (.here pa)) s4 ∧ afterAdds pa n s4 = .ok () s5 ∧ exitCheck (s5.block pa) s5 = .ok none s5 ∧ (LeavesWord (((fun w old b _ => some (if sx w old ≤ sx w b then b else old)) : (w old b c : Nat) → Option Nat) (8 * n) (leVal (s5.bytes pa n)) (b.toNat % 2 ^ (8 * n)) (c.toNat % 2 ^ (8 * n))) pa n s5 s6) ∧ finish x.d (BitVec.ofNat 64 (leVal (s5.bytes pa n))) s6 = .ok () t :=
  ⟨{ rrr with a := 6#8 }, wA, _, _, _, _, (issues_of (by decide +kernel)), (ok_of (by decide +kernel)), (ok_of (by decide +kernel)), _, _, (arg_no ⟨rfl, rfl⟩), (by decide +kernel), 0x20040, _, _, _, _, (okEV (by decide +kernel)), (okU_of (by decide +kernel)), (okIs_of (by decide +kernel)), (atom_of (by decide +kernel)), (okU_of (by decide +kernel))⟩

theorem w_AtomicResults_12 : ∃ x, ∃ (s : State), ∃ a, ∃ b, ∃ s1, ∃ s2, Issues (.atomMax x) s ∧ readSrc 1 x.a s = .ok a s1 ∧ readSrc 2 x.b s1 = .ok b s2 ∧ ∃ c, ∃ s3, (if false then readSrc 3 x.c s2 = .ok c s3 else c = 0#64 ∧ s3 = s2) ∧ 
    let n := if x.mod.getLsbD 0 then 4 else 8
    a.toNat % n ≠ 0 ∧ ∃ t, takeException s3.cur 0x208#10 (.at a) s3 = .ok () t :=
  ⟨{ rrr with a := 6#8 }, wOdd, _, _, _, _, (issues_of (by decide +kernel)), (ok_of (by decide +kernel)), (ok_of (by decide +kernel)), _, _, (arg_no ⟨rfl, rfl⟩), (by decide +kernel), _, (okU_of (by decide +kernel))⟩

theorem w_AtomicResults_13 : ∃ x, ∃ (s : State), ∃ a, ∃ b, ∃ s1, ∃ s2, Issues (.atomMinu x) s ∧ readSrc 1 x.a s = .ok a s1 ∧ readSrc 2 x.b s1 = .ok b s2 ∧ ∃ c, ∃ s3, (if false then readSrc 3 x.c s2 = .ok c s3 else c = 0#64 ∧ s3 = s2) ∧ 
    let n := if x.mod.getLsbD 0 then 4 else 8
    a.toNat % n = 0 ∧ ∃ pa, ∃ s4, ∃ s5, ∃ s6, ∃ t, atomPlaceOf s3.cur a s3 = .ok (.ok (.here pa)) s4 ∧ afterAdds pa n s4 = .ok () s5 ∧ exitCheck (s5.block pa) s5 = .ok none s5 ∧ (LeavesWord (((fun _ old b _ => some (min old b)) : (w old b c : Nat) → Option Nat) (8 * n) (leVal (s5.bytes pa n)) (b.toNat % 2 ^ (8 * n)) (c.toNat % 2 ^ (8 * n))) pa n s5 s6) ∧ finish x.d (BitVec.ofNat 64 (leVal (s5.bytes pa n))) s6 = .ok () t :=
  ⟨{ rrr with a := 6#8 }, wA, _, _, _, _, (issues_of (by decide +kernel)), (ok_of (by decide +kernel)), (ok_of (by decide +kernel)), _, _, (arg_no ⟨rfl, rfl⟩), (by decide +kernel), 0x20040, _, _, _, _, (okEV (by decide +kernel)), (okU_of (by decide +kernel)), (okIs_of (by decide +kernel)), (atom_of (by decide +kernel)), (okU_of (by decide +kernel))⟩

theorem w_AtomicResults_14 : ∃ x, ∃ (s : State), ∃ a, ∃ b, ∃ s1, ∃ s2, Issues (.atomMinu x) s ∧ readSrc 1 x.a s = .ok a s1 ∧ readSrc 2 x.b s1 = .ok b s2 ∧ ∃ c, ∃ s3, (if false then readSrc 3 x.c s2 = .ok c s3 else c = 0#64 ∧ s3 = s2) ∧ 
    let n := if x.mod.getLsbD 0 then 4 else 8
    a.toNat % n ≠ 0 ∧ ∃ t, takeException s3.cur 0x208#10 (.at a) s3 = .ok () t :=
  ⟨{ rrr with a := 6#8 }, wOdd, _, _, _, _, (issues_of (by decide +kernel)), (ok_of (by decide +kernel)), (ok_of (by decide +kernel)), _, _, (arg_no ⟨rfl, rfl⟩), (by decide +kernel), _, (okU_of (by decide +kernel))⟩

theorem w_AtomicResults_15 : ∃ x, ∃ (s : State), ∃ a, ∃ b, ∃ s1, ∃ s2, Issues (.atomMaxu x) s ∧ readSrc 1 x.a s = .ok a s1 ∧ readSrc 2 x.b s1 = .ok b s2 ∧ ∃ c, ∃ s3, (if false then readSrc 3 x.c s2 = .ok c s3 else c = 0#64 ∧ s3 = s2) ∧ 
    let n := if x.mod.getLsbD 0 then 4 else 8
    a.toNat % n = 0 ∧ ∃ pa, ∃ s4, ∃ s5, ∃ s6, ∃ t, atomPlaceOf s3.cur a s3 = .ok (.ok (.here pa)) s4 ∧ afterAdds pa n s4 = .ok () s5 ∧ exitCheck (s5.block pa) s5 = .ok none s5 ∧ (LeavesWord (((fun _ old b _ => some (max old b)) : (w old b c : Nat) → Option Nat) (8 * n) (leVal (s5.bytes pa n)) (b.toNat % 2 ^ (8 * n)) (c.toNat % 2 ^ (8 * n))) pa n s5 s6) ∧ finish x.d (BitVec.ofNat 64 (leVal (s5.bytes pa n))) s6 = .ok () t :=
  ⟨{ rrr with a := 6#8 }, wA, _, _, _, _, (issues_of (by decide +kernel)), (ok_of (by decide +kernel)), (ok_of (by decide +kernel)), _, _, (arg_no ⟨rfl, rfl⟩), (by decide +kernel), 0x20040, _, _, _, _, (okEV (by decide +kernel)), (okU_of (by decide +kernel)), (okIs_of (by decide +kernel)), (atom_of (by decide +kernel)), (okU_of (by decide +kernel))⟩

theorem w_AtomicResults_16 : ∃ x, ∃ (s : State), ∃ a, ∃ b, ∃ s1, ∃ s2, Issues (.atomMaxu x) s ∧ readSrc 1 x.a s = .ok a s1 ∧ readSrc 2 x.b s1 = .ok b s2 ∧ ∃ c, ∃ s3, (if false then readSrc 3 x.c s2 = .ok c s3 else c = 0#64 ∧ s3 = s2) ∧ 
    let n := if x.mod.getLsbD 0 then 4 else 8
    a.toNat % n ≠ 0 ∧ ∃ t, takeException s3.cur 0x208#10 (.at a) s3 = .ok () t :=
  ⟨{ rrr with a := 6#8 }, wOdd, _, _, _, _, (issues_of (by decide +kernel)), (ok_of (by decide +kernel)), (ok_of (by decide +kernel)), _, _, (arg_no ⟨rfl, rfl⟩), (by decide +kernel), _, (okU_of (by decide +kernel))⟩

theorem w_AtomicResults_17 : ∃ x, ∃ (s : State), ∃ a, ∃ b, ∃ s1, ∃ s2, Issues (.atomSwap x) s ∧ readSrc 1 x.a s = .ok a s1 ∧ readSrc 2 x.b s1 = .ok b s2 ∧ ∃ c, ∃ s3, (if false then readSrc 3 x.c s2 = .ok c s3 else c = 0#64 ∧ s3 = s2) ∧ 
    let n := if x.mod.getLsbD 0 then 4 else 8
    a.toNat % n = 0 ∧ ∃ pa, ∃ s4, ∃ s5, ∃ s6, ∃ t, atomPlaceOf s3.cur a s3 = .ok (.ok (.here pa)) s4 ∧ afterAdds pa n s4 = .ok () s5 ∧ exitCheck (s5.block pa) s5 = .ok none s5 ∧ (LeavesWord (((fun _ _ b _ => some b) : (w old b c : Nat) → Option Nat) (8 * n) (leVal (s5.bytes pa n)) (b.toNat % 2 ^ (8 * n)) (c.toNat % 2 ^ (8 * n))) pa n s5 s6) ∧ finish x.d (BitVec.ofNat 64 (leVal (s5.bytes pa n))) s6 = .ok () t :=
  ⟨{ rrr with a := 6#8 }, wA, _, _, _, _, (issues_of (by decide +kernel)), (ok_of (by decide +kernel)), (ok_of (by decide +kernel)), _, _, (arg_no ⟨rfl, rfl⟩), (by decide +kernel), 0x20040, _, _, _, _, (okEV (by decide +kernel)), (okU_of (by decide +kernel)), (okIs_of (by decide +kernel)), (atom_of (by decide +kernel)), (okU_of (by decide +kernel))⟩

theorem w_AtomicResults_18 : ∃ x, ∃ (s : State), ∃ a, ∃ b, ∃ s1, ∃ s2, Issues (.atomSwap x) s ∧ readSrc 1 x.a s = .ok a s1 ∧ readSrc 2 x.b s1 = .ok b s2 ∧ ∃ c, ∃ s3, (if false then readSrc 3 x.c s2 = .ok c s3 else c = 0#64 ∧ s3 = s2) ∧ 
    let n := if x.mod.getLsbD 0 then 4 else 8
    a.toNat % n ≠ 0 ∧ ∃ t, takeException s3.cur 0x208#10 (.at a) s3 = .ok () t :=
  ⟨{ rrr with a := 6#8 }, wOdd, _, _, _, _, (issues_of (by decide +kernel)), (ok_of (by decide +kernel)), (ok_of (by decide +kernel)), _, _, (arg_no ⟨rfl, rfl⟩), (by decide +kernel), _, (okU_of (by decide +kernel))⟩

theorem w_AtomicResults_19 : ∃ x, ∃ (s : State), ∃ a, ∃ b, ∃ s1, ∃ s2, Issues (.atomCas x) s ∧ readSrc 1 x.a s = .ok a s1 ∧ readSrc 2 x.b s1 = .ok b s2 ∧ ∃ c, ∃ s3, (if true then readSrc 3 x.c s2 = .ok c s3 else c = 0#64 ∧ s3 = s2) ∧ 
    let n := if x.mod.getLsbD 0 then 4 else 8
    a.toNat % n = 0 ∧ ∃ pa, ∃ s4, ∃ s5, ∃ s6, ∃ t, atomPlaceOf s3.cur a s3 = .ok (.ok (.here pa)) s4 ∧ afterAdds pa n s4 = .ok () s5 ∧ exitCheck (s5.block pa) s5 = .ok none s5 ∧ (LeavesWord (((fun _ old b c => if old = c then some b else none) : (w old b c : Nat) → Option Nat) (8 * n) (leVal (s5.bytes pa n)) (b.toNat % 2 ^ (8 * n)) (c.toNat % 2 ^ (8 * n))) pa n s5 s6) ∧ finish x.d (BitVec.ofNat 64 (leVal (s5.bytes pa n))) s6 = .ok () t :=
  ⟨{ rrr with a := 6#8, imm := 1#20 }, wA, _, _, _, _, (issues_of (by decide +kernel)), (ok_of (by decide +kernel)), (ok_of (by decide +kernel)), _, _, (arg_yes (ok_of (by decide +kernel))), (by decide +kernel), 0x20040, _, _, _, _, (okEV (by decide +kernel)), (okU_of (by decide +kernel)), (okIs_of (by decide +kernel)), (by exact leavesNone (by decide +kernel)), (okU_of (by decide +kernel))⟩

theorem w_AtomicResults_20 : ∃ x, ∃ (s : State), ∃ a, ∃ b, ∃ s1, ∃ s2, Issues (.atomCas x) s ∧ readSrc 1 x.a s = .ok a s1 ∧ readSrc 2 x.b s1 = .ok b s2 ∧ ∃ c, ∃ s3, (if true then readSrc 3 x.c s2 = .ok c s3 else c = 0#64 ∧ s3 = s2) ∧ 
    let n := if x.mod.getLsbD 0 then 4 else 8
    a.toNat % n ≠ 0 ∧ ∃ t, takeException s3.cur 0x208#10 (.at a) s3 = .ok () t :=
  ⟨{ rrr with a := 6#8, imm := 1#20 }, wOdd, _, _, _, _, (issues_of (by decide +kernel)), (ok_of (by decide +kernel)), (ok_of (by decide +kernel)), _, _, (arg_yes (ok_of (by decide +kernel))), (by decide +kernel), _, (okU_of (by decide +kernel))⟩

theorem w_BranchResults_1 : ∃ x, ∃ (s : State), Issues (.br x) s ∧ 0 ≤ ((branchTarget (s.hart s.cur).pc x) : Int) ∧ s.targetOk s.cur ((branchTarget (s.hart s.cur).pc x) : Int).toNat = true :=
  ⟨brx, coded, (issues_of (by decide +kernel)), (by decide +kernel), (by decide +kernel)⟩

theorem w_BranchResults_2 : ∃ x, ∃ (s : State), Issues (.br x) s ∧ (¬(0 ≤ ((branchTarget (s.hart s.cur).pc x) : Int) ∧ s.targetOk s.cur ((branchTarget (s.hart s.cur).pc x) : Int).toNat = true)) ∧ ∃ t, takeException s.cur 0x046#10 (.at (BitVec.ofInt 64 ((branchTarget (s.hart s.cur).pc x) : Int))) s = .ok () t :=
  ⟨{ brx with imm := 0x7#20 }, wA, (issues_of (by decide +kernel)), (by decide +kernel), _, (okU_of (by decide +kernel))⟩

theorem w_BranchResults_3 : ∃ x, ∃ (s : State), ∃ a, ∃ s1, Issues (.jr x) s ∧ readSrc 1 x.a s = .ok a s1 ∧ 0 ≤ (a.toNat : Int) ∧ s1.targetOk s1.cur (a.toNat : Int).toNat = true :=
  ⟨sA, coded, _, _, (issues_of (by decide +kernel)), (ok_of (by decide +kernel)), (by decide +kernel), (by decide +kernel)⟩

theorem w_BranchResults_4 : ∃ x, ∃ (s : State), ∃ a, ∃ s1, Issues (.jr x) s ∧ readSrc 1 x.a s = .ok a s1 ∧ (¬(0 ≤ (a.toNat : Int) ∧ s1.targetOk s1.cur (a.toNat : Int).toNat = true)) ∧ ∃ t, takeException s1.cur 0x046#10 (.at (BitVec.ofInt 64 (a.toNat : Int))) s1 = .ok () t :=
  ⟨sA, wA, _, _, (issues_of (by decide +kernel)), (ok_of (by decide +kernel)), (by decide +kernel), _, (okU_of (by decide +kernel))⟩

theorem w_BranchResults_5 : ∃ x, ∃ (s : State), Issues (.beos x) s ∧ ((s.job s.cur.coreNo).port (x.d.toNat - 0x70)).eos = true ∧ 0 ≤ ((branchTarget (s.hart s.cur).pc x) : Int) ∧ s.targetOk s.cur ((branchTarget (s.hart s.cur).pc x) : Int).toNat = true :=
  ⟨{ brx with d := 0x70#8 }, codedEos, (issues_of (by decide +kernel)), (by decide +kernel), (by decide +kernel), (by decide +kernel)⟩

theorem w_BranchResults_6 : ∃ x, ∃ (s : State), Issues (.beos x) s ∧ ((s.job s.cur.coreNo).port (x.d.toNat - 0x70)).eos = true ∧ (¬(0 ≤ ((branchTarget (s.hart s.cur).pc x) : Int) ∧ s.targetOk s.cur ((branchTarget (s.hart s.cur).pc x) : Int).toNat = true)) ∧ ∃ t, takeException s.cur 0x046#10 (.at (BitVec.ofInt 64 ((branchTarget (s.hart s.cur).pc x) : Int))) s = .ok () t :=
  ⟨{ brx with d := 0x70#8, imm := 7#20 }, wEos, (issues_of (by decide +kernel)), (by decide +kernel), (by decide +kernel), _, (okU_of (by decide +kernel))⟩

theorem w_BranchResults_7 : ∃ x, ∃ (s : State), Issues (.beos x) s ∧ ((s.job s.cur.coreNo).port (x.d.toNat - 0x70)).eos = false :=
  ⟨{ brx with d := 0x70#8 }, wA, (issues_of (by decide +kernel)), (by decide +kernel)⟩

theorem w_BranchResults_8 : ∃ x, ∃ (s : State), ∃ n, Issues (.call x) s ∧ Sel.ofCode x.d = .s n ∧ 
    let pc := (s.hart s.cur).pc
    
    let target := branchTarget pc x
    0 ≤ target ∧ s.targetOk s.cur target.toNat = true :=
  ⟨{ brx with d := 4#8 }, coded, 4, (issues_of (by decide +kernel)), (by decide +kernel), (by decide +kernel), (by decide +kernel)⟩

theorem w_BranchResults_9 : ∃ x, ∃ (s : State), ∃ t, Issues (.call x) s ∧ (¬(0 ≤ branchTarget (s.hart s.cur).pc x ∧ s.targetOk s.cur (branchTarget (s.hart s.cur).pc x).toNat = true)) ∧ takeException s.cur 0x046#10 (.at (BitVec.ofInt 64 (branchTarget (s.hart s.cur).pc x))) s = .ok () t :=
  ⟨{ brx with d := 4#8, imm := 7#20 }, wA, _, (issues_of (by decide +kernel)), (by decide +kernel), (okU_of (by decide +kernel))⟩

theorem w_BranchResults_10 : ∃ x, ∃ (s : State), ∃ n, Issues (.loop x) s ∧ Sel.ofCode x.d = .s n ∧ (s.hart s.cur).sreg n = 1#64 :=
  ⟨{ brx with d := 5#8 }, wA.withHart fun h => h.setS 5 1#64, 5, (issues_of (by decide +kernel)), (by decide +kernel), (by decide +kernel)⟩

theorem w_BranchResults_11 : ∃ x, ∃ (s : State), ∃ n, Issues (.loop x) s ∧ Sel.ofCode x.d = .s n ∧ (s.hart s.cur).sreg n ≠ 1#64 ∧ 
    let target := branchTarget (s.hart s.cur).pc x
    0 ≤ target ∧ s.targetOk s.cur target.toNat = true :=
  ⟨{ brx with d := 5#8 }, coded, 5, (issues_of (by decide +kernel)), (by decide +kernel), (by decide +kernel), (by decide +kernel), (by decide +kernel)⟩

theorem w_StopResults_1 : ∃ x, ∃ (s : State), ∃ id, ∃ s1, Issues (.join x) s ∧ releaseHere 3 s = .ok id s1 :=
  ⟨none4, wA, _, _, (issues_of (by decide +kernel)), (ok_of (by decide +kernel))⟩

theorem w_StopResults_2 : ∃ x, ∃ (s : State), ∃ c, ∃ e, ∃ t, Issues (.halt x) s ∧ s.cur = .stream c e ∧ fatalOn c e.no (s.hart s.cur).pc (x.imm.extractLsb' 0 10) .plain s = .ok () t :=
  ⟨{ none4 with imm := 0x3C0#20 }, wA, 0, .A, _, (issues_of (by decide +kernel)), (by decide +kernel), (okU_of (by decide +kernel))⟩

theorem w_StopResults_3 : ∃ x, ∃ (s : State), Issues (.halt x) s ∧ s.cur.isUser = false :=
  ⟨none4, wE, (issues_of (by decide +kernel)), (by decide +kernel)⟩

theorem w_StopResults_4 : ∃ x, ∃ (s : State), ∃ c, ∃ e, Issues (.yield x) s ∧ s.cur = .stream c e ∧ s.otherReady c = true :=
  ⟨none4, wMore, 0, .A, (issues_of (by decide +kernel)), (by decide +kernel), (by decide +kernel)⟩

theorem w_StopResults_5 : ∃ x, ∃ (s : State), ∃ c, ∃ e, Issues (.yield x) s ∧ s.cur = .stream c e ∧ s.otherReady c = false :=
  ⟨none4, wA, 0, .A, (issues_of (by decide +kernel)), (by decide +kernel), (by decide +kernel)⟩

theorem w_StopResults_6 : ∃ x, ∃ (s : State), ∃ c, Issues (.yield x) s ∧ s.cur = .service c ∧ (s.core c).fqCount = 0 :=
  ⟨none4, wS, 0, (issues_of (by decide +kernel)), (by decide +kernel), (by decide +kernel)⟩

theorem w_StopResults_7 : ∃ x, ∃ (s : State), ∃ c, Issues (.yield x) s ∧ s.cur = .service c ∧ (s.core c).fqCount ≠ 0 :=
  ⟨none4, wRec, 0, (issues_of (by decide +kernel)), (by decide +kernel), (by decide +kernel)⟩

theorem w_StopResults_8 : ∃ x, ∃ (s : State), ∃ f, Issues (.yield x) s ∧ (s.cur = .frontEnd f ∨ s.cur = .mgmt) :=
  ⟨none4, wE, 0, (issues_of (by decide +kernel)), (by decide +kernel)⟩

theorem w_SvcStops_1 : ∃ x, ∃ (s : State), ∃ c, ∃ e, Issues (.svc x) s ∧ s.cur = .stream c e :=
  ⟨{ none4 with imm := 5#20 }, wA, 0, .A, (issues_of (by decide +kernel)), (by decide +kernel)⟩

theorem w_EretResults_1 : ∃ x, ∃ (s : State), ∃ w, ∃ s1, ∃ c, ∃ f, ∃ v, Issues (.eret x) s ∧ readSrc 1 x.a s = .ok w s1 ∧ s1.cur = .service c ∧ (s1.job c).live = true ∧ 
    let a := Agent.stream c (.ofNo (Word.bits w 0 2))
    (s1.hart a).stat = .stopped f v ∧ eretOk w (some f) = true ∧ Word.bits w 2 2 < 2 :=
  ⟨sA, wStopped, _, _, 0, 0x1C0#10, true, (issues_of (by decide +kernel)), (ok_of (by decide +kernel)), (by decide +kernel), (by decide +kernel), (by decide +kernel), (by decide +kernel), (by decide +kernel)⟩

theorem w_EretResults_2 : ∃ x, ∃ (s : State), ∃ w, ∃ s1, ∃ c, ∃ f, ∃ v, ∃ t, Issues (.eret x) s ∧ readSrc 1 x.a s = .ok w s1 ∧ s1.cur = .service c ∧ (s1.job c).live = true ∧ 
    let a := Agent.stream c (.ofNo (Word.bits w 0 2))
    (s1.hart a).stat = .stopped f v ∧ eretOk w (some f) = true ∧ Word.bits w 2 2 = 2 ∧ fatalOn c (Word.bits w 0 2) (s1.hart a).restart.pc (BitVec.ofNat 10 (Word.bits w 16 10)) .plain s1 = .ok () t :=
  ⟨sA, wStopped.withHart fun h => h.setS 1 0x3C00008#64, _, _, 0, 0x1C0#10, true, _, (issues_of (by decide +kernel)), (ok_of (by decide +kernel)), (by decide +kernel), (by decide +kernel), (by decide +kernel), (by decide +kernel), (by decide +kernel), (okU_of (by decide +kernel))⟩

theorem w_EretResults_3 : ∃ x, ∃ (s : State), ∃ w, ∃ s1, ∃ c, Issues (.eret x) s ∧ readSrc 1 x.a s = .ok w s1 ∧ s1.cur = .service c ∧ (s1.job c).live = false ∧ eretOk w none = true :=
  ⟨sA, noJob, _, _, 0, (issues_of (by decide +kernel)), (ok_of (by decide +kernel)), (by decide +kernel), (by decide +kernel), (by decide +kernel)⟩

theorem w_EretResults_4 : ∃ x, ∃ (s : State), ∃ w, ∃ s1, ∃ c, ∃ t, Issues (.eret x) s ∧ readSrc 1 x.a s = .ok w s1 ∧ s1.cur = .service c ∧ (Word.bits w 4 12 ≠ 0 ∨ Word.bits w 26 38 ≠ 0 ∨ Word.bits w 2 2 = 3) ∧ takeException s1.cur 0x044#10 .plain s1 = .ok () t :=
  ⟨sA, wStopped.withHart fun h => h.setS 1 0x10#64, _, _, 0, _, (issues_of (by decide +kernel)), (ok_of (by decide +kernel)), (by decide +kernel), (by decide +kernel), (okU_of (by decide +kernel))⟩

theorem w_CounterAddResults_1 : ∃ x, ∃ (s : State), ∃ a, ∃ s1, Issues (.cadd x) s ∧ readSrc 1 x.a s = .ok a s1 ∧ x.mod.getLsbD 3 = false ∧ (s1.hart s1.cur).fenceRel = none ∧ s1.addsOut (agentNo s1.cur) = false :=
  ⟨ar 4#8 1#8 0#8 0#4 0#20, wA, _, _, (issues_of (by decide +kernel)), (ok_of (by decide +kernel)), (by decide +kernel), (by decide +kernel), (by decide +kernel)⟩

theorem w_CounterAddResults_2 : ∃ x, ∃ (s : State), ∃ a, ∃ s1, Issues (.cadd x) s ∧ readSrc 1 x.a s = .ok a s1 ∧ x.mod.getLsbD 3 = false ∧ (s1.hart s1.cur).fenceRel = none ∧ ∃ c, ∃ e, s1.cur = .stream c e ∧ s1.addsOut (agentNo s1.cur) = true :=
  ⟨ar 4#8 1#8 0#8 0#4 0#20, wOut, _, _, (issues_of (by decide +kernel)), (ok_of (by decide +kernel)), (by decide +kernel), (by decide +kernel), 0, .A, (by decide +kernel), (by decide +kernel)⟩

theorem w_CounterAddResults_3 : ∃ x, ∃ (s : State), Issues (.caddi x) s ∧ x.mod.getLsbD 3 = false ∧ (s.hart s.cur).fenceRel = none ∧ s.addsOut (agentNo s.cur) = false :=
  ⟨ar 4#8 0#8 0#8 0#4 7#20, wA, (issues_of (by decide +kernel)), (by decide +kernel), (by decide +kernel), (by decide +kernel)⟩

theorem w_CounterAddResults_4 : ∃ x, ∃ (s : State), Issues (.caddi x) s ∧ x.mod.getLsbD 3 = false ∧ (s.hart s.cur).fenceRel = none ∧ ∃ c, ∃ e, s.cur = .stream c e ∧ s.addsOut (agentNo s.cur) = true :=
  ⟨ar 4#8 0#8 0#8 0#4 7#20, wOut, (issues_of (by decide +kernel)), (by decide +kernel), (by decide +kernel), 0, .A, (by decide +kernel), (by decide +kernel)⟩

theorem w_CounterAddEffect_1 : ∃ (k : Counter), ∃ (v : Word), k.poison = none ∧ k.phys.toNat + v.toNat < 2 ^ 64 :=
  ⟨ctr, 1#64, (by decide +kernel), (by decide +kernel)⟩

theorem w_CounterAddEffect_2 : ∃ (k : Counter), ∃ (v : Word), k.poison = none ∧ 2 ^ 64 ≤ k.phys.toNat + v.toNat :=
  ⟨ctr, 0xFFFFFFFFFFFFFFFF#64, (by decide +kernel), (by decide +kernel)⟩

theorem w_CounterAddEffect_3 : ∃ (k : Counter), k.poison.isSome = true :=
  ⟨badCtr, (by decide +kernel)⟩

theorem w_CounterWaitResults_1 : ∃ x, ∃ (s : State), ∃ a, ∃ s1, ∃ s2, Issues (.cwait x) s ∧ readSrc 1 x.a s = .ok a s1 ∧ afterCoreAdds x.d.toNat s1 = .ok () s2 ∧ 
    let k := (s2.job s2.cur.coreNo).counter x.d.toNat
    
    let thr := a + x.imm.signExtend 64
    k.poison = none ∧ thr.toNat ≤ k.view.toNat ∧ x.mod.getLsbD 3 = false :=
  ⟨ar 4#8 7#8 0#8 0#4 0#20, wA, _, _, _, (issues_of (by decide +kernel)), (ok_of (by decide +kernel)), (okU_of (by decide +kernel)), (by decide +kernel), (by decide +kernel), (by decide +kernel)⟩

theorem w_CounterWaitResults_2 : ∃ x, ∃ (s : State), ∃ a, ∃ s1, ∃ s2, Issues (.cwait x) s ∧ readSrc 1 x.a s = .ok a s1 ∧ afterCoreAdds x.d.toNat s1 = .ok () s2 ∧ 
    let k := (s2.job s2.cur.coreNo).counter x.d.toNat
    
    let thr := a + x.imm.signExtend 64
    k.poison = none ∧ thr.toNat ≤ k.view.toNat ∧ x.mod.getLsbD 3 = true ∧ ∃ t, acquire s2.cur (x.mod.extractLsb' 0 3).toNat k.rels s2 = .ok () t ∧ t.cur = s2.cur :=
  ⟨ar 4#8 7#8 0#8 12#4 0#20, wA, _, _, _, (issues_of (by decide +kernel)), (ok_of (by decide +kernel)), (okU_of (by decide +kernel)), (by decide +kernel), (by decide +kernel), (by decide +kernel), _, (okU_of (by decide +kernel)), (by decide +kernel)⟩

theorem w_CounterWaitResults_3 : ∃ x, ∃ (s : State), ∃ a, ∃ s1, ∃ s2, Issues (.cwait x) s ∧ readSrc 1 x.a s = .ok a s1 ∧ afterCoreAdds x.d.toNat s1 = .ok () s2 ∧ 
    let k := (s2.job s2.cur.coreNo).counter x.d.toNat
    
    let thr := a + x.imm.signExtend 64
    k.poison = none ∧ k.view.toNat < thr.toNat :=
  ⟨ar 4#8 1#8 0#8 0#4 0#20, wA, _, _, _, (issues_of (by decide +kernel)), (ok_of (by decide +kernel)), (okU_of (by decide +kernel)), (by decide +kernel), (by decide +kernel)⟩

theorem w_CounterWaitResults_4 : ∃ x, ∃ (s : State), ∃ a, ∃ s1, ∃ s2, Issues (.cwait x) s ∧ readSrc 1 x.a s = .ok a s1 ∧ afterCoreAdds x.d.toNat s1 = .ok () s2 ∧ 
    let k := (s2.job s2.cur.coreNo).counter x.d.toNat
    ∃ p, ∃ t, k.poison = some p ∧ takeException s2.cur 0x101#10 { FInfo.plain with aux := p.setWidth 64, counter := 0x8000 + x.d.toNat } s2 = .ok () t :=
  ⟨ar 4#8 7#8 0#8 0#4 0#20, wBadCtr, _, _, _, (issues_of (by decide +kernel)), (ok_of (by decide +kernel)), (okU_of (by decide +kernel)), _, _, (some_of (by decide +kernel)), (okU_of (by decide +kernel))⟩

theorem w_CounterWaitResults_5 : ∃ x, ∃ (s : State), ∃ s1, ∃ t, Issues (.crd x) s ∧ afterCoreAdds x.a.toNat s = .ok () s1 ∧ finish x.d ((s1.job s1.cur.coreNo).counter x.a.toNat).view s1 = .ok () t :=
  ⟨ar 4#8 7#8 0#8 0#4 0#20, wA, _, _, (issues_of (by decide +kernel)), (okU_of (by decide +kernel)), (okU_of (by decide +kernel))⟩

theorem w_CounterWaitResults_6 : ∃ x, ∃ (s : State), ∃ a, ∃ s1, Issues (.cinit x) s ∧ readSrc 1 x.a s = .ok a s1 ∧ (s1.job s1.cur.coreNo).live = false :=
  ⟨ar 4#8 7#8 0#8 0#4 0#20, noJob, _, _, (issues_of (by decide +kernel)), (ok_of (by decide +kernel)), (by decide +kernel)⟩

theorem w_CounterWaitResults_7 : ∃ x, ∃ (s : State), ∃ a, ∃ s1, ∃ t, Issues (.cinit x) s ∧ readSrc 1 x.a s = .ok a s1 ∧ (s1.job s1.cur.coreNo).live = true ∧ takeException s1.cur 0x103#10 .plain s1 = .ok () t :=
  ⟨ar 4#8 7#8 0#8 0#4 0#20, wS, _, _, _, (issues_of (by decide +kernel)), (ok_of (by decide +kernel)), (by decide +kernel), (okU_of (by decide +kernel))⟩

theorem w_MemoryCounterResults_1 : ∃ x, ∃ (s : State), ∃ a, ∃ d, ∃ s1, ∃ s2, ∃ c, ∃ e, ∃ pa, Issues (.caddM x) s ∧ readSrc 1 x.a s = .ok a s1 ∧ readSrc 0 x.d s1 = .ok d s2 ∧ s2.cur = .stream c e ∧ 
    let ref := a + x.imm.signExtend 64
    Word.bits ref 0 3 = 0 ∧ memRef ref s2 = .ok (.here pa) s2 ∧ x.mod.getLsbD 3 = false ∧ (s2.hart s2.cur).fenceRel = none :=
  ⟨ar 7#8 6#8 0#8 0#4 0#20, wA, _, _, _, _, 0, .A, 0x20040, (issues_of (by decide +kernel)), (ok_of (by decide +kernel)), (ok_of (by decide +kernel)), (by decide +kernel), (by decide +kernel), (okIs_of (by decide +kernel)), (by decide +kernel), (by decide +kernel)⟩

theorem w_MemoryCounterResults_2 : ∃ x, ∃ (s : State), ∃ a, ∃ d, ∃ s1, ∃ s2, ∃ s3, ∃ pa, Issues (.cwaitM x) s ∧ readSrc 1 x.a s = .ok a s1 ∧ readSrc 0 x.d s1 = .ok d s2 ∧ 
    let ref := a + x.imm.signExtend 64
    Word.bits ref 0 3 = 0 ∧ memRef ref s2 = .ok (.here pa) s2 ∧ afterAdds pa 8 s2 = .ok () s3 ∧ (s3.mcounter pa).poison = none ∧ exitCheck (s3.block pa) s3 = .ok none s3 ∧ d.toNat ≤ (s3.word pa).toNat ∧ x.mod.getLsbD 3 = false :=
  ⟨ar 7#8 6#8 0#8 0#4 0#20, wA, _, _, _, _, _, 0x20040, (issues_of (by decide +kernel)), (ok_of (by decide +kernel)), (ok_of (by decide +kernel)), (by decide +kernel), (okIs_of (by decide +kernel)), (okU_of (by decide +kernel)), (by decide +kernel), (okIs_of (by decide +kernel)), (by decide +kernel), (by decide +kernel)⟩

theorem w_MemoryCounterResults_3 : ∃ x, ∃ (s : State), ∃ a, ∃ d, ∃ s1, ∃ s2, ∃ s3, ∃ pa, Issues (.cwaitM x) s ∧ readSrc 1 x.a s = .ok a s1 ∧ readSrc 0 x.d s1 = .ok d s2 ∧ 
    let ref := a + x.imm.signExtend 64
    Word.bits ref 0 3 = 0 ∧ memRef ref s2 = .ok (.here pa) s2 ∧ afterAdds pa 8 s2 = .ok () s3 ∧ (s3.mcounter pa).poison = none ∧ exitCheck (s3.block pa) s3 = .ok none s3 ∧ (s3.word pa).toNat < d.toNat :=
  ⟨ar 2#8 6#8 0#8 0#4 0#20, wA, _, _, _, _, _, 0x20040, (issues_of (by decide +kernel)), (ok_of (by decide +kernel)), (ok_of (by decide +kernel)), (by decide +kernel), (okIs_of (by decide +kernel)), (okU_of (by decide +kernel)), (by decide +kernel), (okIs_of (by decide +kernel)), (by decide +kernel)⟩

theorem w_MemoryCounterResults_4 : ∃ x, ∃ (s : State), ∃ a, ∃ d, ∃ s1, ∃ s2, ∃ s3, ∃ v, ∃ rels, Issues (.waita x) s ∧ readSrc 1 x.a s = .ok a s1 ∧ readSrc 0 x.d s1 = .ok d s2 ∧ 
    let ref := a + x.imm.signExtend 64
    Word.bits ref 0 3 = 0 ∧ currentWord ref s2 = .ok (v, rels) s3 ∧ d.toNat ≤ v.toNat ∧ x.mod.getLsbD 3 = false :=
  ⟨ar 7#8 6#8 0#8 0#4 0#20, wA, _, _, _, _, _, 0#64, some [], (issues_of (by decide +kernel)), (ok_of (by decide +kernel)), (ok_of (by decide +kernel)), (by decide +kernel), (okV_of (by decide +kernel)), (by decide +kernel), (by decide +kernel)⟩

theorem w_MemoryCounterResults_5 : ∃ x, ∃ (s : State), ∃ a, ∃ d, ∃ s1, ∃ s2, ∃ s3, ∃ v, ∃ rels, Issues (.waita x) s ∧ readSrc 1 x.a s = .ok a s1 ∧ readSrc 0 x.d s1 = .ok d s2 ∧ 
    let ref := a + x.imm.signExtend 64
    Word.bits ref 0 3 = 0 ∧ currentWord ref s2 = .ok (v, rels) s3 ∧ v.toNat < d.toNat :=
  ⟨ar 2#8 6#8 0#8 0#4 0#20, wA, _, _, _, _, _, 0#64, some [], (issues_of (by decide +kernel)), (ok_of (by decide +kernel)), (ok_of (by decide +kernel)), (by decide +kernel), (okV_of (by decide +kernel)), (by decide +kernel)⟩

theorem w_MemoryCounterResults_6 : 
    let i := Instr.caddM
    ∃ x, ∃ (s : State), ∃ a, ∃ d, ∃ s1, ∃ s2, ∃ t, Issues (i x) s ∧ readSrc 1 x.a s = .ok a s1 ∧ readSrc 0 x.d s1 = .ok d s2 ∧ Word.bits (a + x.imm.signExtend 64) 0 3 ≠ 0 ∧ takeException s2.cur 0x143#10 (.at (a + x.imm.signExtend 64)) s2 = .ok () t :=
  ⟨ar 2#8 2#8 0#8 0#4 0#20, wA, _, _, _, _, _, (issues_of (by decide +kernel)), (ok_of (by decide +kernel)), (ok_of (by decide +kernel)), (by decide +kernel), (okU_of (by decide +kernel))⟩

theorem w_MemoryCounterResults_7 : 
    let i := Instr.cwaitM
    ∃ x, ∃ (s : State), ∃ a, ∃ d, ∃ s1, ∃ s2, ∃ t, Issues (i x) s ∧ readSrc 1 x.a s = .ok a s1 ∧ readSrc 0 x.d s1 = .ok d s2 ∧ Word.bits (a + x.imm.signExtend 64) 0 3 ≠ 0 ∧ takeException s2.cur 0x143#10 (.at (a + x.imm.signExtend 64)) s2 = .ok () t :=
  ⟨ar 2#8 2#8 0#8 0#4 0#20, wA, _, _, _, _, _, (issues_of (by decide +kernel)), (ok_of (by decide +kernel)), (ok_of (by decide +kernel)), (by decide +kernel), (okU_of (by decide +kernel))⟩

theorem w_MemoryCounterResults_8 : 
    let i := Instr.waita
    ∃ x, ∃ (s : State), ∃ a, ∃ d, ∃ s1, ∃ s2, ∃ t, Issues (i x) s ∧ readSrc 1 x.a s = .ok a s1 ∧ readSrc 0 x.d s1 = .ok d s2 ∧ Word.bits (a + x.imm.signExtend 64) 0 3 ≠ 0 ∧ takeException s2.cur 0x143#10 (.at (a + x.imm.signExtend 64)) s2 = .ok () t :=
  ⟨ar 2#8 2#8 0#8 0#4 0#20, wA, _, _, _, _, _, (issues_of (by decide +kernel)), (ok_of (by decide +kernel)), (ok_of (by decide +kernel)), (by decide +kernel), (okU_of (by decide +kernel))⟩

theorem w_FenceResults_1 : ∃ x, ∃ (s : State), ∃ id, ∃ s1, Issues (.fenceRel x) s ∧ s.addsOut (agentNo s.cur) = false ∧ releaseHere (x.mod.extractLsb' 0 3).toNat s = .ok id s1 :=
  ⟨ar 0#8 0#8 0#8 3#4 0#20, wA, _, _, (issues_of (by decide +kernel)), (by decide +kernel), (ok_of (by decide +kernel))⟩

theorem w_FenceResults_2 : ∃ x, ∃ (s : State), ∃ s1, Issues (.fenceAcq x) s ∧ s.addsOut (agentNo s.cur) = false ∧ acquire s.cur (x.mod.extractLsb' 0 3).toNat (s.hart s.cur).lastWait s = .ok () s1 :=
  ⟨ar 0#8 0#8 0#8 3#4 0#20, wA, _, (issues_of (by decide +kernel)), (by decide +kernel), (okU_of (by decide +kernel))⟩

theorem w_FenceResults_3 : ∃ x, ∃ (s : State), ∃ id, ∃ s1, ∃ s2, Issues (.fenceAr x) s ∧ s.addsOut (agentNo s.cur) = false ∧ releaseHere (x.mod.extractLsb' 0 3).toNat s = .ok id s1 ∧ 
    let u := s1.withHart fun h => { h with fenceRel := some id }
    acquire u.cur (x.mod.extractLsb' 0 3).toNat (u.hart u.cur).lastWait u = .ok () s2 :=
  ⟨ar 0#8 0#8 0#8 3#4 0#20, wA, _, _, _, (issues_of (by decide +kernel)), (by decide +kernel), (ok_of (by decide +kernel)), (okU_of (by decide +kernel))⟩

theorem w_FenceResults_4 : 
    let i := Instr.fenceRel
    ∃ x, ∃ (s : State), Issues (i x) s ∧ s.addsOut (agentNo s.cur) = true :=
  ⟨ar 0#8 0#8 0#8 3#4 0#20, wOut, (issues_of (by decide +kernel)), (by decide +kernel)⟩

theorem w_FenceResults_5 : 
    let i := Instr.fenceAcq
    ∃ x, ∃ (s : State), Issues (i x) s ∧ s.addsOut (agentNo s.cur) = true :=
  ⟨ar 0#8 0#8 0#8 3#4 0#20, wOut, (issues_of (by decide +kernel)), (by decide +kernel)⟩

theorem w_FenceResults_6 : 
    let i := Instr.fenceAr
    ∃ x, ∃ (s : State), Issues (i x) s ∧ s.addsOut (agentNo s.cur) = true :=
  ⟨ar 0#8 0#8 0#8 3#4 0#20, wOut, (issues_of (by decide +kernel)), (by decide +kernel)⟩

theorem w_SealResults_1 : 
    let p := (Instr.sealRange, true)
    ∃ x, ∃ (s : State), ∃ a, ∃ b, ∃ s1, ∃ s2, Issues (p.1 x) s ∧ readSrc 1 x.a s = .ok a s1 ∧ readSrc 2 x.b s1 = .ok b s2 ∧ (s2.hart s2.cur).blocked ≠ .sealing ∧ ∃ ls, ∃ s3, ∃ id, ∃ s4, sealLeaves a b s2 = .ok ls s3 ∧ releaseHere 3 s3 = .ok id s4 ∧ ((ls.all fun l => l.1.seal_ == p.2) = true) :=
  ⟨ar 0#8 8#8 9#8 0#4 0#20, wPt 0x10009, _, _, _, _, (issues_of (by decide +kernel)), (ok_of (by decide +kernel)), (ok_of (by decide +kernel)), (by decide +kernel), _, _, _, _, (ok_of (by decide +kernel)), (ok_of (by decide +kernel)), (by decide +kernel)⟩

theorem w_SealResults_2 : 
    let p := (Instr.unsealRange, false)
    ∃ x, ∃ (s : State), ∃ a, ∃ b, ∃ s1, ∃ s2, Issues (p.1 x) s ∧ readSrc 1 x.a s = .ok a s1 ∧ readSrc 2 x.b s1 = .ok b s2 ∧ (s2.hart s2.cur).blocked ≠ .sealing ∧ ∃ ls, ∃ s3, ∃ id, ∃ s4, sealLeaves a b s2 = .ok ls s3 ∧ releaseHere 3 s3 = .ok id s4 ∧ ((ls.all fun l => l.1.seal_ == p.2) = true) :=
  ⟨ar 0#8 8#8 9#8 0#4 0#20, wPt 0x10001, _, _, _, _, (issues_of (by decide +kernel)), (ok_of (by decide +kernel)), (ok_of (by decide +kernel)), (by decide +kernel), _, _, _, _, (ok_of (by decide +kernel)), (ok_of (by decide +kernel)), (by decide +kernel)⟩

theorem w_SealResults_3 : 
    let p := (Instr.sealRange, true)
    ∃ x, ∃ (s : State), ∃ a, ∃ b, ∃ s1, ∃ s2, Issues (p.1 x) s ∧ readSrc 1 x.a s = .ok a s1 ∧ readSrc 2 x.b s1 = .ok b s2 ∧ (s2.hart s2.cur).blocked = .sealing ∧ (((s2.part (s2.job s2.cur.coreNo).part).seals.any fun e => e.1 == s2.cur.coreNo) = false) :=
  ⟨ar 0#8 8#8 9#8 0#4 0#20, wSealing, _, _, _, _, (issues_of (by decide +kernel)), (ok_of (by decide +kernel)), (ok_of (by decide +kernel)), (by decide +kernel), (by decide +kernel)⟩

theorem w_SealResults_4 : 
    let p := (Instr.unsealRange, false)
    ∃ x, ∃ (s : State), ∃ a, ∃ b, ∃ s1, ∃ s2, Issues (p.1 x) s ∧ readSrc 1 x.a s = .ok a s1 ∧ readSrc 2 x.b s1 = .ok b s2 ∧ (s2.hart s2.cur).blocked = .sealing ∧ (((s2.part (s2.job s2.cur.coreNo).part).seals.any fun e => e.1 == s2.cur.coreNo) = false) :=
  ⟨ar 0#8 8#8 9#8 0#4 0#20, wSealing, _, _, _, _, (issues_of (by decide +kernel)), (ok_of (by decide +kernel)), (ok_of (by decide +kernel)), (by decide +kernel), (by decide +kernel)⟩

theorem w_SealResults_5 : 
    let p := (Instr.sealRange, true)
    ∃ x, ∃ (s : State), ∃ a, ∃ b, ∃ s1, ∃ s2, Issues (p.1 x) s ∧ readSrc 1 x.a s = .ok a s1 ∧ readSrc 2 x.b s1 = .ok b s2 ∧ (s2.hart s2.cur).blocked ≠ .sealing ∧ (a.toNat % 65536 ≠ 0 ∨ b.toNat % 65536 ≠ 65535 ∨ b.toNat < a.toNat) ∧ ∃ t, takeException s2.cur 0x143#10 (.at a) s2 = .ok () t :=
  ⟨ar 0#8 1#8 9#8 0#4 0#20, wPt 0x10009, _, _, _, _, (issues_of (by decide +kernel)), (ok_of (by decide +kernel)), (ok_of (by decide +kernel)), (by decide +kernel), (by decide +kernel), _, (okU_of (by decide +kernel))⟩

theorem w_SealResults_6 : 
    let p := (Instr.unsealRange, false)
    ∃ x, ∃ (s : State), ∃ a, ∃ b, ∃ s1, ∃ s2, Issues (p.1 x) s ∧ readSrc 1 x.a s = .ok a s1 ∧ readSrc 2 x.b s1 = .ok b s2 ∧ (s2.hart s2.cur).blocked ≠ .sealing ∧ (a.toNat % 65536 ≠ 0 ∨ b.toNat % 65536 ≠ 65535 ∨ b.toNat < a.toNat) ∧ ∃ t, takeException s2.cur 0x143#10 (.at a) s2 = .ok () t :=
  ⟨ar 0#8 1#8 9#8 0#4 0#20, wPt 0x10009, _, _, _, _, (issues_of (by decide +kernel)), (ok_of (by decide +kernel)), (ok_of (by decide +kernel)), (by decide +kernel), (by decide +kernel), _, (okU_of (by decide +kernel))⟩

theorem w_QbarResults_1 : ∃ x, ∃ (s : State), ∃ s1, Issues (.qbar x) s ∧ (s.hart s.cur).blocked = .qbar ∧ (s.job s.cur.coreNo).qbar = false ∧ acquire s.cur 4 [] s = .ok () s1 :=
  ⟨none4, wQbar, _, (issues_of (by decide +kernel)), (by decide +kernel), (by decide +kernel), (okU_of (by decide +kernel))⟩

theorem w_QbarResults_2 : ∃ x, ∃ (s : State), ∃ id, ∃ s1, ∃ s2, Issues (.qbar x) s ∧ (s.hart s.cur).blocked ≠ .qbar ∧ releaseHere 4 s = .ok id s1 ∧ (qbarReached (s.job s.cur.coreNo).part (s.job s.cur.coreNo).task (s1.updJob s.cur.coreNo fun j => { j with qbar := true }) = .ok () s2) :=
  ⟨none4, wA, _, _, _, (issues_of (by decide +kernel)), (by decide +kernel), (ok_of (by decide +kernel)), (okU_of (by decide +kernel))⟩

theorem w_DequeResults_1 : ∃ x, ∃ (s : State), ∃ a, ∃ s1, ∃ n, Issues (.dqpush x) s ∧ readSrc 1 x.a s = .ok a s1 ∧ x.mod.getLsbD 3 = false ∧ Sel.ofCode x.c = .g n ∧ (s1.job s1.cur.coreNo).deque.length < 256 :=
  ⟨ar 0#8 1#8 0#8 0#4 0x81#20, wA, _, _, 1, (issues_of (by decide +kernel)), (ok_of (by decide +kernel)), (by decide +kernel), (by decide +kernel), (by decide +kernel)⟩

theorem w_DequeResults_2 : ∃ x, ∃ (s : State), ∃ a, ∃ s1, ∃ n, Issues (.dqpush x) s ∧ readSrc 1 x.a s = .ok a s1 ∧ x.mod.getLsbD 3 = false ∧ Sel.ofCode x.c = .g n ∧ 256 ≤ (s1.job s1.cur.coreNo).deque.length :=
  ⟨ar 0#8 1#8 0#8 0#4 0x81#20, fullDeque, _, _, 1, (issues_of (by decide +kernel)), (ok_of (by decide +kernel)), (by decide +kernel), (by decide +kernel), (by decide +kernel)⟩

theorem w_DequeResults_3 : ∃ x, ∃ (s : State), ∃ n, ∃ v, ∃ rels, ∃ rest, ∃ t, Issues (.dqpop x) s ∧ x.mod.getLsbD 3 = false ∧ Sel.ofCode x.c = .g n ∧ (s.job s.cur.coreNo).deque = rest ++ [(v, rels)] ∧ (finish x.d v ((s.updJob s.cur.coreNo fun j => { j with deque := rest }).withHart fun h => h.setG n true) = .ok () t) :=
  ⟨ar 4#8 0#8 0#8 0#4 0x81#20, wDeque, 1, 7#64, [], [], _, (issues_of (by decide +kernel)), (by decide +kernel), (by decide +kernel), (by decide +kernel), (okU_of (by decide +kernel))⟩

theorem w_DequeResults_4 : ∃ x, ∃ (s : State), ∃ n, Issues (.dqpop x) s ∧ Sel.ofCode x.c = .g n ∧ (s.job s.cur.coreNo).deque = [] :=
  ⟨ar 4#8 0#8 0#8 0#4 0x81#20, wA, 1, (issues_of (by decide +kernel)), (by decide +kernel), (by decide +kernel)⟩

theorem w_DequeResults_5 : ∃ x, ∃ (s : State), ∃ a, ∃ s1, ∃ n, ∃ v, ∃ w, ∃ rels, ∃ rest, ∃ t, Issues (.dqsteal x) s ∧ readSrc 1 x.a s = .ok a s1 ∧ a.toNat < 32 ∧ x.mod.getLsbD 3 = false ∧ Sel.ofCode x.c = .g n ∧ s1.victimOk s1.cur.coreNo ((s1.job s1.cur.coreNo).lcore / 32 * 32 + a.toNat) = some v ∧ (s1.job v).deque = (w, rels) :: rest ∧ (finish x.d w ((s1.updJob v fun j => { j with deque := rest, dqHead := (j.dqHead + 1) % 256 }).withHart fun h => h.setG n true) = .ok () t) :=
  ⟨ar 4#8 7#8 0#8 0#4 0x81#20, wDeque, _, _, 1, 0, 7#64, [], [], _, (issues_of (by decide +kernel)), (ok_of (by decide +kernel)), (by decide +kernel), (by decide +kernel), (by decide +kernel), (by decide +kernel), (by decide +kernel), (okU_of (by decide +kernel))⟩

theorem w_DequeResults_6 : ∃ x, ∃ (s : State), ∃ a, ∃ s1, ∃ n, Issues (.dqsteal x) s ∧ readSrc 1 x.a s = .ok a s1 ∧ a.toNat < 32 ∧ Sel.ofCode x.c = .g n ∧ s1.victimOk s1.cur.coreNo ((s1.job s1.cur.coreNo).lcore / 32 * 32 + a.toNat) = none :=
  ⟨ar 4#8 1#8 0#8 0#4 0x81#20, wA, _, _, 1, (issues_of (by decide +kernel)), (ok_of (by decide +kernel)), (by decide +kernel), (by decide +kernel), (by decide +kernel)⟩

theorem w_DequeResults_7 : ∃ x, ∃ (s : State), ∃ t, Issues (.dqlen x) s ∧ finish x.d (BitVec.ofNat 64 (s.job s.cur.coreNo).deque.length) s = .ok () t :=
  ⟨ar 4#8 0#8 0#8 0#4 0#20, wA, _, (issues_of (by decide +kernel)), (okU_of (by decide +kernel))⟩

theorem w_LaunchResults_1 : 
    let p := (Instr.launch, false, 1)
    ∃ x, ∃ (s : State), ∃ a, ∃ s1, ∃ o, ∃ s2, ∃ bytes, ∃ t, ∃ s3, ∃ s4, Issues (p.1 x) s ∧ readSrc 1 x.a s = .ok a s1 ∧ a.toNat % 64 = 0 ∧ findOpnd 4 s1 = .ok (some o) s1 ∧ readGlobal s1.cur (.at a) a.toNat 64 s1 = .ok bytes s2 ∧ clearAnswers s2.cur s2 = .ok () s3 ∧ ((if p.2.2 = 1 then childOk s2 (s2.job s2.cur.coreNo) bytes else blockOk true bytes) = true) ∧ findOpnd 4 s3 = .ok (some o) s3 ∧ 
    let j := s3.job s3.cur.coreNo
    
    let q := s3.part j.part
    (((q.queue j.cls).filter fun e => ! e.reserve).length < 1024) ∧ (s3.release o.value.toNat).pending = 0 ∧ 
    let e := childEntry s3 p.2.2 bytes false o.value.toNat
    
    let u := (s3.updPart j.part fun q => { q.setQueue j.cls (q.queue j.cls ++ [e]) with
      tasks := Map.insert q.tasks j.task { Map.get (fun _ => Task.absent) q.tasks j.task with firstUsed := true } }).updPart j.part
      fun q => { q with custody := addNode q.custody entryNode 1 0 }
    (if p.2.1 then writeDst x.d 1#64 u = .ok () s4 else s4 = u) ∧ (t = s4.withHart (fun h => h.past 1)) :=
  ⟨ar 0#8 3#8 0#8 0#4 0#20, wBlock childNode, _, _, ⟨4, false, 0, 0#64⟩, _, _, _, _, _, (issues_of (by decide +kernel)), (ok_of (by decide +kernel)), (by decide +kernel), (okIs_of (by decide +kernel)), (ok_of (by decide +kernel)), (okU_of (by decide +kernel)), (by decide +kernel), (okIs_of (by decide +kernel)), (by decide +kernel), (by decide +kernel), rfl, rfl⟩

theorem w_LaunchResults_2 : 
    let p := (Instr.launchT, true, 1)
    ∃ x, ∃ (s : State), ∃ a, ∃ s1, ∃ o, ∃ s2, ∃ bytes, ∃ t, ∃ s3, ∃ s4, Issues (p.1 x) s ∧ readSrc 1 x.a s = .ok a s1 ∧ a.toNat % 64 = 0 ∧ findOpnd 4 s1 = .ok (some o) s1 ∧ readGlobal s1.cur (.at a) a.toNat 64 s1 = .ok bytes s2 ∧ clearAnswers s2.cur s2 = .ok () s3 ∧ ((if p.2.2 = 1 then childOk s2 (s2.job s2.cur.coreNo) bytes else blockOk true bytes) = true) ∧ findOpnd 4 s3 = .ok (some o) s3 ∧ 
    let j := s3.job s3.cur.coreNo
    
    let q := s3.part j.part
    (((q.queue j.cls).filter fun e => ! e.reserve).length < 1024) ∧ (s3.release o.value.toNat).pending = 0 ∧ 
    let e := childEntry s3 p.2.2 bytes false o.value.toNat
    
    let u := (s3.updPart j.part fun q => { q.setQueue j.cls (q.queue j.cls ++ [e]) with
      tasks := Map.insert q.tasks j.task { Map.get (fun _ => Task.absent) q.tasks j.task with firstUsed := true } }).updPart j.part
      fun q => { q with custody := addNode q.custody entryNode 1 0 }
    (if p.2.1 then writeDst x.d 1#64 u = .ok () s4 else s4 = u) ∧ (t = s4.withHart (fun h => h.past 1)) :=
  ⟨ar 0x81#8 3#8 0#8 0#4 0#20, wBlock childNode, _, _, ⟨4, false, 0, 0#64⟩, _, _, _, _, _, (issues_of (by decide +kernel)), (ok_of (by decide +kernel)), (by decide +kernel), (okIs_of (by decide +kernel)), (ok_of (by decide +kernel)), (okU_of (by decide +kernel)), (by decide +kernel), (okIs_of (by decide +kernel)), (by decide +kernel), (by decide +kernel), (okU_of (by decide +kernel)), rfl⟩

theorem w_LaunchResults_3 : 
    let p := (Instr.xpose, false, 2)
    ∃ x, ∃ (s : State), ∃ a, ∃ s1, ∃ o, ∃ s2, ∃ bytes, ∃ t, ∃ s3, ∃ s4, Issues (p.1 x) s ∧ readSrc 1 x.a s = .ok a s1 ∧ a.toNat % 64 = 0 ∧ findOpnd 4 s1 = .ok (some o) s1 ∧ readGlobal s1.cur (.at a) a.toNat 64 s1 = .ok bytes s2 ∧ clearAnswers s2.cur s2 = .ok () s3 ∧ ((if p.2.2 = 1 then childOk s2 (s2.job s2.cur.coreNo) bytes else blockOk true bytes) = true) ∧ findOpnd 4 s3 = .ok (some o) s3 ∧ 
    let j := s3.job s3.cur.coreNo
    
    let q := s3.part j.part
    (((q.queue j.cls).filter fun e => ! e.reserve).length < 1024) ∧ (s3.release o.value.toNat).pending = 0 ∧ 
    let e := childEntry s3 p.2.2 bytes false o.value.toNat
    
    let u := (s3.updPart j.part fun q => { q.setQueue j.cls (q.queue j.cls ++ [e]) with
      tasks := Map.insert q.tasks j.task { Map.get (fun _ => Task.absent) q.tasks j.task with firstUsed := true } }).updPart j.part
      fun q => { q with custody := addNode q.custody entryNode 1 0 }
    (if p.2.1 then writeDst x.d 1#64 u = .ok () s4 else s4 = u) ∧ (t = s4.withHart (fun h => h.past 1)) :=
  ⟨ar 0#8 3#8 0#8 0#4 0#20, wBlock coachNode, _, _, ⟨4, false, 0, 0#64⟩, _, _, _, _, _, (issues_of (by decide +kernel)), (ok_of (by decide +kernel)), (by decide +kernel), (okIs_of (by decide +kernel)), (ok_of (by decide +kernel)), (okU_of (by decide +kernel)), (by decide +kernel), (okIs_of (by decide +kernel)), (by decide +kernel), (by decide +kernel), rfl, rfl⟩

theorem w_LaunchResults_4 : 
    let i := Instr.launch
    ∃ x, ∃ (s : State), ∃ a, ∃ s1, ∃ t, Issues (i x) s ∧ readSrc 1 x.a s = .ok a s1 ∧ a.toNat % 64 ≠ 0 ∧ takeException s1.cur 0x143#10 (.at a) s1 = .ok () t :=
  ⟨ar 0#8 1#8 0#8 0#4 0#20, wBlock childNode, _, _, _, (issues_of (by decide +kernel)), (ok_of (by decide +kernel)), (by decide +kernel), (okU_of (by decide +kernel))⟩

theorem w_LaunchResults_5 : 
    let i := Instr.launchT
    ∃ x, ∃ (s : State), ∃ a, ∃ s1, ∃ t, Issues (i x) s ∧ readSrc 1 x.a s = .ok a s1 ∧ a.toNat % 64 ≠ 0 ∧ takeException s1.cur 0x143#10 (.at a) s1 = .ok () t :=
  ⟨ar 0x81#8 1#8 0#8 0#4 0#20, wBlock childNode, _, _, _, (issues_of (by decide +kernel)), (ok_of (by decide +kernel)), (by decide +kernel), (okU_of (by decide +kernel))⟩

theorem w_LaunchResults_6 : 
    let i := Instr.xpose
    ∃ x, ∃ (s : State), ∃ a, ∃ s1, ∃ t, Issues (i x) s ∧ readSrc 1 x.a s = .ok a s1 ∧ a.toNat % 64 ≠ 0 ∧ takeException s1.cur 0x143#10 (.at a) s1 = .ok () t :=
  ⟨ar 0#8 1#8 0#8 0#4 0#20, wBlock childNode, _, _, _, (issues_of (by decide +kernel)), (ok_of (by decide +kernel)), (by decide +kernel), (okU_of (by decide +kernel))⟩

theorem w_SpecialRegisterReads_2 : ∃ (s : State), ∃ c, ∃ e, s.cur = .stream c e ∧ (s.job c).live = true :=
  ⟨wA, 0, .A, (by decide +kernel), (by decide +kernel)⟩

theorem w_SpecialRegisterReads_3 : ∃ (s : State), ∃ c, ∃ e, s.cur = .stream c e ∧ (s.job c).live = true :=
  ⟨wA, 0, .A, (by decide +kernel), (by decide +kernel)⟩

theorem w_SpecialRegisterReads_4 : ∃ (s : State), ∃ c, ∃ e, s.cur = .stream c e ∧ (s.job c).live = true :=
  ⟨wA, 0, .A, (by decide +kernel), (by decide +kernel)⟩

theorem w_SpecialRegisterReads_5 : ∃ (s : State), ∃ c, ∃ e, s.cur = .stream c e ∧ (s.job c).live = true :=
  ⟨wA, 0, .A, (by decide +kernel), (by decide +kernel)⟩

theorem w_SpecialRegisterReads_6 : ∃ (s : State), ∃ c, ∃ e, s.cur = .stream c e ∧ (s.job c).live = true :=
  ⟨wA, 0, .A, (by decide +kernel), (by decide +kernel)⟩

theorem w_SpecialRegisterReads_7 : ∃ (s : State), ∃ c, ∃ e, s.cur = .stream c e ∧ (s.job c).live = true :=
  ⟨wA, 0, .A, (by decide +kernel), (by decide +kernel)⟩

theorem w_SpecialRegisterReads_8 : ∃ (s : State), ∃ c, ∃ e, s.cur = .stream c e ∧ (s.job c).live = true :=
  ⟨wA, 0, .A, (by decide +kernel), (by decide +kernel)⟩

theorem w_SpecialRegisterReads_9 : ∃ (s : State), ∃ c, ∃ e, s.cur = .stream c e ∧ (s.job c).live = true :=
  ⟨wA, 0, .A, (by decide +kernel), (by decide +kernel)⟩

theorem w_SpecialRegisterReads_10 : ∃ (s : State), ∃ c, ∃ e, s.cur = .stream c e ∧ (s.job c).live = true :=
  ⟨wA, 0, .A, (by decide +kernel), (by decide +kernel)⟩

theorem w_SpecialRegisterReads_11 : ∃ (s : State), ∃ c, ∃ e, s.cur = .stream c e ∧ (s.job c).live = true ∧ ∃ i, i < 16 :=
  ⟨wA, 0, .A, (by decide +kernel), (by decide +kernel), 0, (by decide +kernel)⟩

theorem w_SpecialRegisterReads_12 : ∃ (s : State), ∃ c, s.cur = .service c :=
  ⟨wS, 0, (by decide +kernel)⟩

theorem w_SpecialRegisterReads_13 : ∃ (s : State), ∃ c, ∃ n, s.cur = .service c ∧ (s.job c).live = false ∧ 1 ≤ n ∧ n ≤ 11 ∧ n ≠ 9 :=
  ⟨noJob, 0, 1, (by decide +kernel), (by decide +kernel), (by decide +kernel), (by decide +kernel), (by decide +kernel)⟩

theorem w_SpecialRegisterReads_14 : ∃ (s : State), ∃ f, s.cur = .frontEnd f :=
  ⟨wE, 0, (by decide +kernel)⟩

theorem w_CsrResults_1 : ∃ x, ∃ (s : State), ∃ t, Issues (.csrr x) s ∧ finish x.d (s.csrRead (x.imm.toNat % 4096)) s = .ok () t :=
  ⟨ar 4#8 0#8 0#8 0#4 0x9#20, wA, _, (issues_of (by decide +kernel)), (okU_of (by decide +kernel))⟩

theorem w_CsrResults_2 : ∃ x, ∃ (s : State), ∃ a, ∃ s1, ∃ s2, ∃ t, Issues (.csrw x) s ∧ readSrc 1 x.a s = .ok a s1 ∧ csrWrite (x.imm.toNat % 4096) a s1 = .ok () s2 ∧ finish x.d (s1.csrRead (x.imm.toNat % 4096)) s2 = .ok () t :=
  ⟨ar 4#8 1#8 0#8 0#4 0x9#20, wA, _, _, _, _, (issues_of (by decide +kernel)), (ok_of (by decide +kernel)), (okU_of (by decide +kernel)), (okU_of (by decide +kernel))⟩

theorem w_CsrResults_3 : 
    let p := (Instr.csrs, fun o a : Word => o ||| a)
    ∃ x, ∃ (s : State), ∃ a, ∃ s1, ∃ s2, ∃ t, Issues (p.1 x) s ∧ readSrc 1 x.a s = .ok a s1 ∧ x.a ≠ 0#8 ∧ csrWrite (x.imm.toNat % 4096) (p.2 (s1.csrRead (x.imm.toNat % 4096)) a) s1 = .ok () s2 ∧ finish x.d (s1.csrRead (x.imm.toNat % 4096)) s2 = .ok () t :=
  ⟨ar 4#8 1#8 0#8 0#4 0x9#20, wA, _, _, _, _, (issues_of (by decide +kernel)), (ok_of (by decide +kernel)), (by decide +kernel), (okU_of (by decide +kernel)), (okU_of (by decide +kernel))⟩

theorem w_CsrResults_4 : 
    let p := (Instr.csrc, fun o a => o &&& ~~~a)
    ∃ x, ∃ (s : State), ∃ a, ∃ s1, ∃ s2, ∃ t, Issues (p.1 x) s ∧ readSrc 1 x.a s = .ok a s1 ∧ x.a ≠ 0#8 ∧ csrWrite (x.imm.toNat % 4096) (p.2 (s1.csrRead (x.imm.toNat % 4096)) a) s1 = .ok () s2 ∧ finish x.d (s1.csrRead (x.imm.toNat % 4096)) s2 = .ok () t :=
  ⟨ar 4#8 1#8 0#8 0#4 0x9#20, wA, _, _, _, _, (issues_of (by decide +kernel)), (ok_of (by decide +kernel)), (by decide +kernel), (okU_of (by decide +kernel)), (okU_of (by decide +kernel))⟩

theorem w_CsrResults_5 : 
    let i := Instr.csrs
    ∃ x, ∃ (s : State), ∃ t, Issues (i x) s ∧ x.a = 0#8 ∧ finish x.d (s.csrRead (x.imm.toNat % 4096)) s = .ok () t :=
  ⟨ar 4#8 0#8 0#8 0#4 0x9#20, wA, _, (issues_of (by decide +kernel)), (by decide +kernel), (okU_of (by decide +kernel))⟩

theorem w_CsrResults_6 : 
    let i := Instr.csrc
    ∃ x, ∃ (s : State), ∃ t, Issues (i x) s ∧ x.a = 0#8 ∧ finish x.d (s.csrRead (x.imm.toNat % 4096)) s = .ok () t :=
  ⟨ar 4#8 0#8 0#8 0#4 0x9#20, wA, _, (issues_of (by decide +kernel)), (by decide +kernel), (okU_of (by decide +kernel))⟩

theorem w_CsrResults_10 : ∃ (v : Word), 1 ≤ v.toNat ∧ v.toNat ≤ 16 :=
  ⟨1#64, (by decide +kernel), (by decide +kernel)⟩

theorem w_CsrResults_11 : ∃ (v : Word), (v.toNat = 0 ∨ 16 < v.toNat) :=
  ⟨0#64, (by decide +kernel)⟩

theorem w_TranslationResults_1 : ∃ x, ∃ (s : State), ∃ a, ∃ b, ∃ s1, ∃ s2, ∃ l, Issues (.rprobe x) s ∧ readSrc 1 x.a s = .ok a s1 ∧ readSrc 2 x.b s1 = .ok b s2 ∧ 
    let c := s2.cur.coreNo
    
    let k := (s2.job c).part
    s2.accessesOut c = false ∧ canonical a.toNat = true ∧ s2.walk k a.toNat = .ok (some l) ∧ l.present = true ∧ (((s2.part k).invs.any fun q => decide ((l.rtt a.toNat).base ≤ q.2) && decide (q.1 ≤ (l.rtt a.toNat).limit)) = false) :=
  ⟨ar 0#8 8#8 7#8 0#4 0#20, wPt 0x10001, _, _, _, _, ⟨0x100000, 0x10FFFF, 0x30000, 0x10000, false, false, false, false, false, 0x1028, 0, true⟩, (issues_of (by decide +kernel)), (ok_of (by decide +kernel)), (ok_of (by decide +kernel)), (by decide +kernel), (by decide +kernel), (exOk_of (by decide +kernel)), (by decide +kernel), (by decide +kernel)⟩

theorem w_TranslationResults_2 : ∃ x, ∃ (s : State), ∃ a, ∃ b, ∃ s1, ∃ s2, ∃ t, Issues (.rprobe x) s ∧ readSrc 1 x.a s = .ok a s1 ∧ readSrc 2 x.b s1 = .ok b s2 ∧ s2.accessesOut s2.cur.coreNo = false ∧ (canonical a.toNat = false ∨ s2.walk (s2.job s2.cur.coreNo).part a.toNat = .ok none) ∧ takeException s2.cur 0x142#10 (.at a) s2 = .ok () t :=
  ⟨ar 0#8 8#8 7#8 0#4 0#20, wA.withHart fun h => h.setS 8 0x8000000000000000#64, _, _, _, _, _, (issues_of (by decide +kernel)), (ok_of (by decide +kernel)), (ok_of (by decide +kernel)), (by decide +kernel), (.inl (by decide +kernel)), (okU_of (by decide +kernel))⟩

theorem w_TranslationResults_3 : ∃ x, ∃ (s : State), ∃ a, ∃ b, ∃ s1, ∃ s2, ∃ bs, ∃ s3, ∃ r, Issues (.rttld x) s ∧ readSrc 1 x.a s = .ok a s1 ∧ readSrc 2 x.b s1 = .ok b s2 ∧ a.toNat % 32 = 0 ∧ (s2.job s2.cur.coreNo).live = true ∧ readGlobal s2.cur (.at a) a.toNat 32 s2 = .ok bs s3 ∧ s3.cur = s2.cur ∧ s3.loadEntry (s3.job s2.cur.coreNo).part (s3.job s2.cur.coreNo).rel bs = .ok r :=
  ⟨ar 0#8 3#8 7#8 0#4 0#20, wS, _, _, _, _, _, _, Rtt.invalid, (issues_of (by decide +kernel)), (ok_of (by decide +kernel)), (ok_of (by decide +kernel)), (by decide +kernel), (by decide +kernel), (ok_of (by decide +kernel)), (by decide +kernel), (exOk_of (by decide +kernel))⟩

theorem w_TranslationResults_4 : ∃ x, ∃ (s : State), ∃ a, ∃ b, ∃ s1, ∃ s2, Issues (.rttld x) s ∧ readSrc 1 x.a s = .ok a s1 ∧ readSrc 2 x.b s1 = .ok b s2 ∧ a.toNat % 32 = 0 ∧ (s2.job s2.cur.coreNo).live = false :=
  ⟨ar 0#8 3#8 7#8 0#4 0#20, noJob, _, _, _, _, (issues_of (by decide +kernel)), (ok_of (by decide +kernel)), (ok_of (by decide +kernel)), (by decide +kernel), (by decide +kernel)⟩

theorem w_TranslationResults_5 : ∃ x, ∃ (s : State), ∃ a, ∃ b, ∃ s1, ∃ s2, ∃ t, Issues (.rttld x) s ∧ readSrc 1 x.a s = .ok a s1 ∧ readSrc 2 x.b s1 = .ok b s2 ∧ a.toNat % 32 ≠ 0 ∧ takeException s2.cur 0x143#10 (.at a) s2 = .ok () t :=
  ⟨ar 0#8 1#8 7#8 0#4 0#20, wS, _, _, _, _, _, (issues_of (by decide +kernel)), (ok_of (by decide +kernel)), (ok_of (by decide +kernel)), (by decide +kernel), (okU_of (by decide +kernel))⟩

theorem w_PortResults_1 : ∃ x, ∃ (s : State), ∃ a, ∃ s1, ∃ bs, ∃ s2, Issues (.pbind x) s ∧ readSrc 1 x.a s = .ok a s1 ∧ a.toNat % 64 = 0 ∧ 
    let n := x.d.toNat - 0x70
    
    let e := Eng.ofNo (x.imm.toNat % 4)
    (s1.job s1.cur.coreNo).emask.getLsbD e.no = true ∧ readGlobal s1.cur { FInfo.at a with port := some n } a.toNat 64 s1 = .ok bs s2 ∧ s2.cur = s1.cur ∧ 
    let j := s2.job s1.cur.coreNo
    (Pattern.ofBytes j.rel bs).ok = true ∧ ((j.port n).bound = false ∨ (j.port n).pat.unb = false) ∧ ∃ t, (clearAnswers s1.cur (s2.updJob s1.cur.coreNo fun j => j.setPort n ⟨true, Pattern.ofBytes j.rel bs, 0, e, false⟩) = .ok () t) :=
  ⟨ar 0x73#8 3#8 0#8 0#4 0#20, wPat, _, _, _, _, (issues_of (by decide +kernel)), (ok_of (by decide +kernel)), (by decide +kernel), (by decide +kernel), (ok_of (by decide +kernel)), (by decide +kernel), (by decide +kernel), (by decide +kernel), _, (okU_of (by decide +kernel))⟩

theorem w_PortResults_2 : ∃ x, ∃ (s : State), ∃ a, ∃ s1, ∃ t, Issues (.pbind x) s ∧ readSrc 1 x.a s = .ok a s1 ∧ a.toNat % 64 ≠ 0 ∧ takeException s1.cur 0x143#10 { FInfo.at a with port := some (x.d.toNat - 0x70) } s1 = .ok () t :=
  ⟨ar 0x73#8 1#8 0#8 0#4 0#20, wPat, _, _, _, (issues_of (by decide +kernel)), (ok_of (by decide +kernel)), (by decide +kernel), (okU_of (by decide +kernel))⟩

theorem w_PortResults_3 : ∃ x, ∃ (s : State), Issues (.punbind x) s :=
  ⟨ar 0x70#8 0#8 0#8 0#4 0#20, wPat, (issues_of (by decide +kernel))⟩

theorem w_PortResults_4 : ∃ x, ∃ (s : State), ∃ t, Issues (.ppos x) s ∧ 
    let p := (s.job s.cur.coreNo).port (x.a.toNat - 0x70)
    (finish x.d (if p.bound then BitVec.ofNat 64 p.pos else 0xFFFFFFFFFFFFFFFF#64) s = .ok () t) :=
  ⟨ar 4#8 0x70#8 0#8 0#4 0#20, wPat, _, (issues_of (by decide +kernel)), (okU_of (by decide +kernel))⟩

theorem w_TileConfigResults_1 : 
    let p := (Instr.tcfg, false)
    ∃ x, ∃ (s : State), ∃ a, ∃ b, ∃ s1, ∃ s2, ∃ d, Issues (p.1 x) s ∧ readSrc 1 x.a s = .ok a s1 ∧ readSrc 2 x.b s1 = .ok b s2 ∧ newDesc ((s2.job s2.cur.coreNo).tdesc (x.d.toNat - 0x20)) (x.b == 0#8) a b = .ok d :=
  ⟨ar 0x20#8 10#8 11#8 0#4 0#20, wTile, _, _, _, _, desc8, (issues_of (by decide +kernel)), (ok_of (by decide +kernel)), (ok_of (by decide +kernel)), (exOk_of (by decide +kernel))⟩

theorem w_TileConfigResults_2 : 
    let p := (Instr.tcfgZ, true)
    ∃ x, ∃ (s : State), ∃ a, ∃ b, ∃ s1, ∃ s2, ∃ d, Issues (p.1 x) s ∧ readSrc 1 x.a s = .ok a s1 ∧ readSrc 2 x.b s1 = .ok b s2 ∧ newDesc ((s2.job s2.cur.coreNo).tdesc (x.d.toNat - 0x20)) (x.b == 0#8) a b = .ok d :=
  ⟨ar 0x20#8 10#8 11#8 0#4 0#20, wTile, _, _, _, _, desc8, (issues_of (by decide +kernel)), (ok_of (by decide +kernel)), (ok_of (by decide +kernel)), (exOk_of (by decide +kernel))⟩

theorem w_TileConfigResults_3 : 
    let i := Instr.tcfg
    ∃ x, ∃ (s : State), ∃ a, ∃ b, ∃ s1, ∃ s2, ∃ f, ∃ t, Issues (i x) s ∧ readSrc 1 x.a s = .ok a s1 ∧ readSrc 2 x.b s1 = .ok b s2 ∧ newDesc ((s2.job s2.cur.coreNo).tdesc (x.d.toNat - 0x20)) (x.b == 0#8) a b = .error f ∧ takeException s2.cur f .plain s2 = .ok () t :=
  ⟨ar 0x20#8 10#8 7#8 0#4 0#20, wTile, _, _, _, _, 0x081#10, _, (issues_of (by decide +kernel)), (ok_of (by decide +kernel)), (ok_of (by decide +kernel)), (exErr_of (by decide +kernel)), (okU_of (by decide +kernel))⟩

theorem w_TileConfigResults_4 : 
    let i := Instr.tcfgZ
    ∃ x, ∃ (s : State), ∃ a, ∃ b, ∃ s1, ∃ s2, ∃ f, ∃ t, Issues (i x) s ∧ readSrc 1 x.a s = .ok a s1 ∧ readSrc 2 x.b s1 = .ok b s2 ∧ newDesc ((s2.job s2.cur.coreNo).tdesc (x.d.toNat - 0x20)) (x.b == 0#8) a b = .error f ∧ takeException s2.cur f .plain s2 = .ok () t :=
  ⟨ar 0x20#8 10#8 7#8 0#4 0#20, wTile, _, _, _, _, 0x081#10, _, (issues_of (by decide +kernel)), (ok_of (by decide +kernel)), (ok_of (by decide +kernel)), (exErr_of (by decide +kernel)), (okU_of (by decide +kernel))⟩

theorem w_TileConfigResults_5 : ∃ x, ∃ (s : State), ∃ a, ∃ b, ∃ s1, ∃ s2, Issues (.tval x) s ∧ readSrc 1 x.a s = .ok a s1 ∧ readSrc 2 x.b s1 = .ok b s2 ∧ 
    let d := (s2.job s2.cur.coreNo).tdesc (x.d.toNat - 0x20)
    d.v = true ∧ a.toNat ≤ d.rows ∧ b.toNat ≤ d.cols :=
  ⟨ar 0x20#8 1#8 2#8 0#4 0#20, wTile, _, _, _, _, (issues_of (by decide +kernel)), (ok_of (by decide +kernel)), (ok_of (by decide +kernel)), (by decide +kernel), (by decide +kernel), (by decide +kernel)⟩

theorem w_TileConfigResults_6 : ∃ x, ∃ (s : State), ∃ a, ∃ b, ∃ s1, ∃ s2, ∃ t, Issues (.tval x) s ∧ readSrc 1 x.a s = .ok a s1 ∧ readSrc 2 x.b s1 = .ok b s2 ∧ 
    let d := (s2.job s2.cur.coreNo).tdesc (x.d.toNat - 0x20)
    d.v = true ∧ (d.rows < a.toNat ∨ d.cols < b.toNat) ∧ takeException s2.cur 0x081#10 .plain s2 = .ok () t :=
  ⟨ar 0x20#8 1#8 3#8 0#4 0#20, wTile, _, _, _, _, _, (issues_of (by decide +kernel)), (ok_of (by decide +kernel)), (ok_of (by decide +kernel)), (by decide +kernel), (by decide +kernel), (okU_of (by decide +kernel))⟩

theorem w_TileConfigResults_7 : ∃ x, ∃ (s : State), ∃ t, Issues (.tdesc x) s ∧ 
    let w := Map.get (fun _ => 0#128) (s.job s.cur.coreNo).desc (x.a.toNat - 0x20)
    (finish x.d (if x.mod.getLsbD 0 then w.extractLsb' 64 64 else w.extractLsb' 0 64) s = .ok () t) :=
  ⟨ar 4#8 0x20#8 0#8 0#4 0#20, wTile, _, (issues_of (by decide +kernel)), (okU_of (by decide +kernel))⟩

theorem w_DescriptorBits_1 : ∃ (d : Desc), d.base < 2 ^ 11 ∧ d.cap < 2 ^ 12 ∧ d.rowsM1 < 2 ^ 8 ∧ d.colsM1 < 2 ^ 10 ∧ d.typ < 2 ^ 5 ∧ d.vrows < 2 ^ 9 ∧ d.vcols < 2 ^ 11 :=
  ⟨desc8, (by decide +kernel), (by decide +kernel), (by decide +kernel), (by decide +kernel), (by decide +kernel), (by decide +kernel), (by decide +kernel)⟩

theorem w_RowRuns_1 : ∃ (row : Store → Nat → List Nat), ∃ (f : Nat → Exec (List Nat)), ∃ (s : State), (Map.wf (fun _ => Hart.reset) s.harts = true) ∧ (Map.wf (fun _ => Core.reset) s.cores = true) ∧ (s.hart s.cur).restartHere.cursor = 0 ∧ s.remotes = [] ∧ (∀ i u, f i u = .ok (row (u.job u.cur.coreNo).tstore i) u) :=
  ⟨(fun _ _ => []), (fun _ u => .ok [] u), wA, (by decide +kernel), (by decide +kernel), (by decide +kernel), (by decide +kernel), (fun _ _ => rfl)⟩

theorem w_TileBinaryResults_1 : 
    let numc (t : Nat) : Bool := isFPA t || isINTA t || isCPX t
    ∃ x, ∃ (s : State), ∃ a, ∃ b, ∃ s1, ∃ s2, Issues (.tadd x) s ∧ tileSrc 1 x.a s = .ok a s1 ∧ bcastSrc 2 x.b s1 = .ok b s2 ∧ ∃ dst, ∃ sz, ∃ t, tileDst x s2 = .ok dst sz ∧ numc dst.desc.typ = true ∧ ((([a, b]).all fun q => q.serves dst.desc.typ) = true) ∧ ((([a, b]).all fun q => q.shaped dst.desc.rows dst.desc.cols) = true) ∧ checkOverlap dst ([a, b]) false sz = .ok () sz ∧ (runFull dst (fun r => do
      let rs ← mapE ([a, b]) fun q => q.row dst.desc.typ dst.desc.cols r
      pure ((List.range dst.desc.vcols).map fun j => ((fun es t => ((fun x t => elemBy t (rmOf x) (satOf x) (FV.add (rmOf x)) fun a b => cvtInt t (satOf x) (intVal t a + intVal t b)) : Args → Nat → Nat → Nat → Nat) x t (es.getD 0 0) (es.getD 1 0)) : List Nat → Nat → Nat) (rs.map fun q => q.getD j 0) dst.desc.typ)) sz = .ok () t) :=
  ⟨ar 0x24#8 0x21#8 0x22#8 0#4 0#20, wT, _, _, _, _, (issues_of (by decide +kernel)), (ok_of (by decide +kernel)), (ok_of (by decide +kernel)), _, _, _, (ok_of (by decide +kernel)), (by decide +kernel), (by decide +kernel), (by decide +kernel), (okIs_of (by decide +kernel)), (okU_of (by decide +kernel))⟩

theorem w_TileBinaryResults_2 : 
    let numc (t : Nat) : Bool := isFPA t || isINTA t || isCPX t
    ∃ x, ∃ (s : State), ∃ a, ∃ b, ∃ s1, ∃ s2, Issues (.tsub x) s ∧ tileSrc 1 x.a s = .ok a s1 ∧ bcastSrc 2 x.b s1 = .ok b s2 ∧ ∃ dst, ∃ sz, ∃ t, tileDst x s2 = .ok dst sz ∧ numc dst.desc.typ = true ∧ ((([a, b]).all fun q => q.serves dst.desc.typ) = true) ∧ ((([a, b]).all fun q => q.shaped dst.desc.rows dst.desc.cols) = true) ∧ checkOverlap dst ([a, b]) false sz = .ok () sz ∧ (runFull dst (fun r => do
      let rs ← mapE ([a, b]) fun q => q.row dst.desc.typ dst.desc.cols r
      pure ((List.range dst.desc.vcols).map fun j => ((fun es t => ((fun x t => elemBy t (rmOf x) (satOf x) (fun a b => FV.add (rmOf x) a b.negate)
    fun a b => cvtInt t (satOf x) (intVal t a - intVal t b)) : Args → Nat → Nat → Nat → Nat) x t (es.getD 0 0) (es.getD 1 0)) : List Nat → Nat → Nat) (rs.map fun q => q.getD j 0) dst.desc.typ)) sz = .ok () t) :=
  ⟨ar 0x24#8 0x21#8 0x22#8 0#4 0#20, wT, _, _, _, _, (issues_of (by decide +kernel)), (ok_of (by decide +kernel)), (ok_of (by decide +kernel)), _, _, _, (ok_of (by decide +kernel)), (by decide +kernel), (by decide +kernel), (by decide +kernel), (okIs_of (by decide +kernel)), (okU_of (by decide +kernel))⟩

theorem w_TileBinaryResults_3 : 
    let num (t : Nat) : Bool := isFPA t || isINTA t
    ∃ x, ∃ (s : State), ∃ a, ∃ b, ∃ s1, ∃ s2, Issues (.tmul x) s ∧ tileSrc 1 x.a s = .ok a s1 ∧ bcastSrc 2 x.b s1 = .ok b s2 ∧ ∃ dst, ∃ sz, ∃ t, tileDst x s2 = .ok dst sz ∧ num dst.desc.typ = true ∧ ((([a, b]).all fun q => q.serves dst.desc.typ) = true) ∧ ((([a, b]).all fun q => q.shaped dst.desc.rows dst.desc.cols) = true) ∧ checkOverlap dst ([a, b]) false sz = .ok () sz ∧ (runFull dst (fun r => do
      let rs ← mapE ([a, b]) fun q => q.row dst.desc.typ dst.desc.cols r
      pure ((List.range dst.desc.vcols).map fun j => ((fun es t => ((fun x t => elemBy t (rmOf x) (satOf x) FV.mul fun a b => cvtInt t (satOf x) (intVal t a * intVal t b)) : Args → Nat → Nat → Nat → Nat) x t (es.getD 0 0) (es.getD 1 0)) : List Nat → Nat → Nat) (rs.map fun q => q.getD j 0) dst.desc.typ)) sz = .ok () t) :=
  ⟨ar 0x24#8 0x21#8 0x22#8 0#4 0#20, wT, _, _, _, _, (issues_of (by decide +kernel)), (ok_of (by decide +kernel)), (ok_of (by decide +kernel)), _, _, _, (ok_of (by decide +kernel)), (by decide +kernel), (by decide +kernel), (by decide +kernel), (okIs_of (by decide +kernel)), (okU_of (by decide +kernel))⟩

theorem w_TileBinaryResults_4 : 
    let num (t : Nat) : Bool := isFPA t || isINTA t
    ∃ x, ∃ (s : State), ∃ a, ∃ b, ∃ s1, ∃ s2, Issues (.tdiv x) s ∧ tileSrc 1 x.a s = .ok a s1 ∧ bcastSrc 2 x.b s1 = .ok b s2 ∧ ∃ dst, ∃ sz, ∃ t, tileDst x s2 = .ok dst sz ∧ num dst.desc.typ = true ∧ ((([a, b]).all fun q => q.serves dst.desc.typ) = true) ∧ ((([a, b]).all fun q => q.shaped dst.desc.rows dst.desc.cols) = true) ∧ checkOverlap dst ([a, b]) false sz = .ok () sz ∧ (runFull dst (fun r => do
      let rs ← mapE ([a, b]) fun q => q.row dst.desc.typ dst.desc.cols r
      pure ((List.range dst.desc.vcols).map fun j => ((fun es t => ((fun x t => elemBy t (rmOf x) (satOf x) FV.div fun a b =>
    if intVal t b = 0 then 2 ^ typBits t - 1 else cvtInt t (satOf x) ((intVal t a).tdiv (intVal t b))) : Args → Nat → Nat → Nat → Nat) x t (es.getD 0 0) (es.getD 1 0)) : List Nat → Nat → Nat) (rs.map fun q => q.getD j 0) dst.desc.typ)) sz = .ok () t) :=
  ⟨ar 0x24#8 0x21#8 0x22#8 0#4 0#20, wT, _, _, _, _, (issues_of (by decide +kernel)), (ok_of (by decide +kernel)), (ok_of (by decide +kernel)), _, _, _, (ok_of (by decide +kernel)), (by decide +kernel), (by decide +kernel), (by decide +kernel), (okIs_of (by decide +kernel)), (okU_of (by decide +kernel))⟩

theorem w_TileBinaryResults_5 : 
    let num (t : Nat) : Bool := isFPA t || isINTA t
    ∃ x, ∃ (s : State), ∃ a, ∃ b, ∃ s1, ∃ s2, Issues (.tmin x) s ∧ tileSrc 1 x.a s = .ok a s1 ∧ bcastSrc 2 x.b s1 = .ok b s2 ∧ ∃ dst, ∃ sz, ∃ t, tileDst x s2 = .ok dst sz ∧ num dst.desc.typ = true ∧ ((([a, b]).all fun q => q.serves dst.desc.typ) = true) ∧ ((([a, b]).all fun q => q.shaped dst.desc.rows dst.desc.cols) = true) ∧ checkOverlap dst ([a, b]) false sz = .ok () sz ∧ (runFull dst (fun r => do
      let rs ← mapE ([a, b]) fun q => q.row dst.desc.typ dst.desc.cols r
      pure ((List.range dst.desc.vcols).map fun j => ((fun es t => ((fun x t => elemBy t (rmOf x) (satOf x) FV.minNum fun a b => if intVal t a ≤ intVal t b then a else b) : Args → Nat → Nat → Nat → Nat) x t (es.getD 0 0) (es.getD 1 0)) : List Nat → Nat → Nat) (rs.map fun q => q.getD j 0) dst.desc.typ)) sz = .ok () t) :=
  ⟨ar 0x24#8 0x21#8 0x22#8 0#4 0#20, wT, _, _, _, _, (issues_of (by decide +kernel)), (ok_of (by decide +kernel)), (ok_of (by decide +kernel)), _, _, _, (ok_of (by decide +kernel)), (by decide +kernel), (by decide +kernel), (by decide +kernel), (okIs_of (by decide +kernel)), (okU_of (by decide +kernel))⟩

theorem w_TileBinaryResults_6 : 
    let num (t : Nat) : Bool := isFPA t || isINTA t
    ∃ x, ∃ (s : State), ∃ a, ∃ b, ∃ s1, ∃ s2, Issues (.tmax x) s ∧ tileSrc 1 x.a s = .ok a s1 ∧ bcastSrc 2 x.b s1 = .ok b s2 ∧ ∃ dst, ∃ sz, ∃ t, tileDst x s2 = .ok dst sz ∧ num dst.desc.typ = true ∧ ((([a, b]).all fun q => q.serves dst.desc.typ) = true) ∧ ((([a, b]).all fun q => q.shaped dst.desc.rows dst.desc.cols) = true) ∧ checkOverlap dst ([a, b]) false sz = .ok () sz ∧ (runFull dst (fun r => do
      let rs ← mapE ([a, b]) fun q => q.row dst.desc.typ dst.desc.cols r
      pure ((List.range dst.desc.vcols).map fun j => ((fun es t => ((fun x t => elemBy t (rmOf x) (satOf x) FV.maxNum fun a b => if intVal t a ≤ intVal t b then b else a) : Args → Nat → Nat → Nat → Nat) x t (es.getD 0 0) (es.getD 1 0)) : List Nat → Nat → Nat) (rs.map fun q => q.getD j 0) dst.desc.typ)) sz = .ok () t) :=
  ⟨ar 0x24#8 0x21#8 0x22#8 0#4 0#20, wT, _, _, _, _, (issues_of (by decide +kernel)), (ok_of (by decide +kernel)), (ok_of (by decide +kernel)), _, _, _, (ok_of (by decide +kernel)), (by decide +kernel), (by decide +kernel), (by decide +kernel), (okIs_of (by decide +kernel)), (okU_of (by decide +kernel))⟩

theorem w_TileBinaryResults_7 : ∃ x, ∃ (s : State), ∃ a, ∃ b, ∃ s1, ∃ s2, Issues (.tand x) s ∧ tileSrc 1 x.a s = .ok a s1 ∧ bcastSrc 2 x.b s1 = .ok b s2 ∧ ∃ dst, ∃ sz, ∃ t, tileDst x s2 = .ok dst sz ∧ isINTA dst.desc.typ = true ∧ ((([a, b]).all fun q => q.serves dst.desc.typ) = true) ∧ ((([a, b]).all fun q => q.shaped dst.desc.rows dst.desc.cols) = true) ∧ checkOverlap dst ([a, b]) false sz = .ok () sz ∧ (runFull dst (fun r => do
      let rs ← mapE ([a, b]) fun q => q.row dst.desc.typ dst.desc.cols r
      pure ((List.range dst.desc.vcols).map fun j => ((fun es t => ((fun _ _ a b => a &&& b) : Args → Nat → Nat → Nat → Nat) x t (es.getD 0 0) (es.getD 1 0)) : List Nat → Nat → Nat) (rs.map fun q => q.getD j 0) dst.desc.typ)) sz = .ok () t) :=
  ⟨ar 0x28#8 0x25#8 0x26#8 0#4 0#20, wT, _, _, _, _, (issues_of (by decide +kernel)), (ok_of (by decide +kernel)), (ok_of (by decide +kernel)), _, _, _, (ok_of (by decide +kernel)), (by decide +kernel), (by decide +kernel), (by decide +kernel), (okIs_of (by decide +kernel)), (okU_of (by decide +kernel))⟩

theorem w_TileBinaryResults_8 : ∃ x, ∃ (s : State), ∃ a, ∃ b, ∃ s1, ∃ s2, Issues (.tor x) s ∧ tileSrc 1 x.a s = .ok a s1 ∧ bcastSrc 2 x.b s1 = .ok b s2 ∧ ∃ dst, ∃ sz, ∃ t, tileDst x s2 = .ok dst sz ∧ isINTA dst.desc.typ = true ∧ ((([a, b]).all fun q => q.serves dst.desc.typ) = true) ∧ ((([a, b]).all fun q => q.shaped dst.desc.rows dst.desc.cols) = true) ∧ checkOverlap dst ([a, b]) false sz = .ok () sz ∧ (runFull dst (fun r => do
      let rs ← mapE ([a, b]) fun q => q.row dst.desc.typ dst.desc.cols r
      pure ((List.range dst.desc.vcols).map fun j => ((fun es t => ((fun _ _ a b => a ||| b) : Args → Nat → Nat → Nat → Nat) x t (es.getD 0 0) (es.getD 1 0)) : List Nat → Nat → Nat) (rs.map fun q => q.getD j 0) dst.desc.typ)) sz = .ok () t) :=
  ⟨ar 0x28#8 0x25#8 0x26#8 0#4 0#20, wT, _, _, _, _, (issues_of (by decide +kernel)), (ok_of (by decide +kernel)), (ok_of (by decide +kernel)), _, _, _, (ok_of (by decide +kernel)), (by decide +kernel), (by decide +kernel), (by decide +kernel), (okIs_of (by decide +kernel)), (okU_of (by decide +kernel))⟩

theorem w_TileBinaryResults_9 : ∃ x, ∃ (s : State), ∃ a, ∃ b, ∃ s1, ∃ s2, Issues (.txor x) s ∧ tileSrc 1 x.a s = .ok a s1 ∧ bcastSrc 2 x.b s1 = .ok b s2 ∧ ∃ dst, ∃ sz, ∃ t, tileDst x s2 = .ok dst sz ∧ isINTA dst.desc.typ = true ∧ ((([a, b]).all fun q => q.serves dst.desc.typ) = true) ∧ ((([a, b]).all fun q => q.shaped dst.desc.rows dst.desc.cols) = true) ∧ checkOverlap dst ([a, b]) false sz = .ok () sz ∧ (runFull dst (fun r => do
      let rs ← mapE ([a, b]) fun q => q.row dst.desc.typ dst.desc.cols r
      pure ((List.range dst.desc.vcols).map fun j => ((fun es t => ((fun _ _ a b => a ^^^ b) : Args → Nat → Nat → Nat → Nat) x t (es.getD 0 0) (es.getD 1 0)) : List Nat → Nat → Nat) (rs.map fun q => q.getD j 0) dst.desc.typ)) sz = .ok () t) :=
  ⟨ar 0x28#8 0x25#8 0x26#8 0#4 0#20, wT, _, _, _, _, (issues_of (by decide +kernel)), (ok_of (by decide +kernel)), (ok_of (by decide +kernel)), _, _, _, (ok_of (by decide +kernel)), (by decide +kernel), (by decide +kernel), (by decide +kernel), (okIs_of (by decide +kernel)), (okU_of (by decide +kernel))⟩

theorem w_TileBinaryResults_10 : ∃ x, ∃ (s : State), ∃ a, ∃ b, ∃ s1, ∃ s2, Issues (.tshl x) s ∧ tileSrc 1 x.a s = .ok a s1 ∧ bcastSrc 2 x.b s1 = .ok b s2 ∧ ∃ dst, ∃ sz, ∃ t, tileDst x s2 = .ok dst sz ∧ isINTA dst.desc.typ = true ∧ ((([a, b]).all fun q => q.serves dst.desc.typ) = true) ∧ ((([a, b]).all fun q => q.shaped dst.desc.rows dst.desc.cols) = true) ∧ checkOverlap dst ([a, b]) false sz = .ok () sz ∧ (runFull dst (fun r => do
      let rs ← mapE ([a, b]) fun q => q.row dst.desc.typ dst.desc.cols r
      pure ((List.range dst.desc.vcols).map fun j => ((fun es t => ((fun _ t a b => (a <<< (b % typBits t)) % 2 ^ typBits t) : Args → Nat → Nat → Nat → Nat) x t (es.getD 0 0) (es.getD 1 0)) : List Nat → Nat → Nat) (rs.map fun q => q.getD j 0) dst.desc.typ)) sz = .ok () t) :=
  ⟨ar 0x28#8 0x25#8 0x26#8 0#4 0#20, wT, _, _, _, _, (issues_of (by decide +kernel)), (ok_of (by decide +kernel)), (ok_of (by decide +kernel)), _, _, _, (ok_of (by decide +kernel)), (by decide +kernel), (by decide +kernel), (by decide +kernel), (okIs_of (by decide +kernel)), (okU_of (by decide +kernel))⟩

theorem w_TileBinaryResults_11 : ∃ x, ∃ (s : State), ∃ a, ∃ b, ∃ s1, ∃ s2, Issues (.tshr x) s ∧ tileSrc 1 x.a s = .ok a s1 ∧ bcastSrc 2 x.b s1 = .ok b s2 ∧ ∃ dst, ∃ sz, ∃ t, tileDst x s2 = .ok dst sz ∧ isINTA dst.desc.typ = true ∧ ((([a, b]).all fun q => q.serves dst.desc.typ) = true) ∧ ((([a, b]).all fun q => q.shaped dst.desc.rows dst.desc.cols) = true) ∧ checkOverlap dst ([a, b]) false sz = .ok () sz ∧ (runFull dst (fun r => do
      let rs ← mapE ([a, b]) fun q => q.row dst.desc.typ dst.desc.cols r
      pure ((List.range dst.desc.vcols).map fun j => ((fun es t => ((fun _ t a b => intBits (typBits t) (intVal t a / (2 : Int) ^ (b % typBits t))) : Args → Nat → Nat → Nat → Nat) x t (es.getD 0 0) (es.getD 1 0)) : List Nat → Nat → Nat) (rs.map fun q => q.getD j 0) dst.desc.typ)) sz = .ok () t) :=
  ⟨ar 0x28#8 0x25#8 0x26#8 0#4 0#20, wT, _, _, _, _, (issues_of (by decide +kernel)), (ok_of (by decide +kernel)), (ok_of (by decide +kernel)), _, _, _, (ok_of (by decide +kernel)), (by decide +kernel), (by decide +kernel), (by decide +kernel), (okIs_of (by decide +kernel)), (okU_of (by decide +kernel))⟩

theorem w_TileBinaryResults_12 : 
    let num (t : Nat) : Bool := isFPA t || isINTA t
    ∃ x, ∃ (s : State), ∃ a, ∃ b, ∃ s1, ∃ s2, Issues (.tabsd x) s ∧ tileSrc 1 x.a s = .ok a s1 ∧ bcastSrc 2 x.b s1 = .ok b s2 ∧ ∃ dst, ∃ sz, ∃ t, tileDst x s2 = .ok dst sz ∧ num dst.desc.typ = true ∧ ((([a, b]).all fun q => q.serves dst.desc.typ) = true) ∧ ((([a, b]).all fun q => q.shaped dst.desc.rows dst.desc.cols) = true) ∧ checkOverlap dst ([a, b]) false sz = .ok () sz ∧ (runFull dst (fun r => do
      let rs ← mapE ([a, b]) fun q => q.row dst.desc.typ dst.desc.cols r
      pure ((List.range dst.desc.vcols).map fun j => ((fun es t => ((fun x t => elemBy t (rmOf x) (satOf x) (fun a b => (FV.add (rmOf x) a b.negate).abs)
    fun a b => cvtInt t (satOf x) (intVal t a - intVal t b).natAbs) : Args → Nat → Nat → Nat → Nat) x t (es.getD 0 0) (es.getD 1 0)) : List Nat → Nat → Nat) (rs.map fun q => q.getD j 0) dst.desc.typ)) sz = .ok () t) :=
  ⟨ar 0x24#8 0x21#8 0x22#8 0#4 0#20, wT, _, _, _, _, (issues_of (by decide +kernel)), (ok_of (by decide +kernel)), (ok_of (by decide +kernel)), _, _, _, (ok_of (by decide +kernel)), (by decide +kernel), (by decide +kernel), (by decide +kernel), (okIs_of (by decide +kernel)), (okU_of (by decide +kernel))⟩

theorem w_TileTernaryResults_1 : 
    let num (t : Nat) : Bool := isFPA t || isINTA t
    
    let fma (x : Args) (t : Nat) (np nc : Bool) (h : Int → Int → Int) (a b c : Nat) : Nat :=
    if isFloat t then
      let f := fmtOf t
      let p := FV.mul (f.val a) (f.val b)
      (f.round (rmOf x) (satOf x) (FV.add (rmOf x) (if np then p.negate else p) (if nc then (f.val c).negate else f.val c))).1
    else cvtInt t (satOf x) (h (intVal t a * intVal t b) (intVal t c))
    ∃ x, ∃ (s : State), ∃ a, ∃ b, ∃ c, ∃ s1, ∃ s2, ∃ s3, Issues (.tfma x) s ∧ tileSrc 1 x.a s = .ok a s1 ∧ bcastSrc 2 x.b s1 = .ok b s2 ∧ bcastSrc 3 x.c s2 = .ok c s3 ∧ ∃ dst, ∃ sz, ∃ t, tileDst x s3 = .ok dst sz ∧ num dst.desc.typ = true ∧ ((([a, b, c]).all fun q => q.serves dst.desc.typ) = true) ∧ ((([a, b, c]).all fun q => q.shaped dst.desc.rows dst.desc.cols) = true) ∧ checkOverlap dst ([a, b, c]) false sz = .ok () sz ∧ (runFull dst (fun r => do
      let rs ← mapE ([a, b, c]) fun q => q.row dst.desc.typ dst.desc.cols r
      pure ((List.range dst.desc.vcols).map fun j => ((fun es t => ((fun x t => fma x t false false fun p c => p + c) : Args → Nat → Nat → Nat → Nat → Nat) x t (es.getD 0 0) (es.getD 1 0) (es.getD 2 0)) : List Nat → Nat → Nat) (rs.map fun q => q.getD j 0) dst.desc.typ)) sz = .ok () t) :=
  ⟨ar 0x24#8 0x21#8 0x22#8 0#4 0x23#20, wT, _, _, _, _, _, _, (issues_of (by decide +kernel)), (ok_of (by decide +kernel)), (ok_of (by decide +kernel)), (ok_of (by decide +kernel)), _, _, _, (ok_of (by decide +kernel)), (by decide +kernel), (by decide +kernel), (by decide +kernel), (okIs_of (by decide +kernel)), (okU_of (by decide +kernel))⟩

theorem w_TileTernaryResults_2 : 
    let num (t : Nat) : Bool := isFPA t || isINTA t
    
    let fma (x : Args) (t : Nat) (np nc : Bool) (h : Int → Int → Int) (a b c : Nat) : Nat :=
    if isFloat t then
      let f := fmtOf t
      let p := FV.mul (f.val a) (f.val b)
      (f.round (rmOf x) (satOf x) (FV.add (rmOf x) (if np then p.negate else p) (if nc then (f.val c).negate else f.val c))).1
    else cvtInt t (satOf x) (h (intVal t a * intVal t b) (intVal t c))
    ∃ x, ∃ (s : State), ∃ a, ∃ b, ∃ c, ∃ s1, ∃ s2, ∃ s3, Issues (.tfms x) s ∧ tileSrc 1 x.a s = .ok a s1 ∧ bcastSrc 2 x.b s1 = .ok b s2 ∧ bcastSrc 3 x.c s2 = .ok c s3 ∧ ∃ dst, ∃ sz, ∃ t, tileDst x s3 = .ok dst sz ∧ num dst.desc.typ = true ∧ ((([a, b, c]).all fun q => q.serves dst.desc.typ) = true) ∧ ((([a, b, c]).all fun q => q.shaped dst.desc.rows dst.desc.cols) = true) ∧ checkOverlap dst ([a, b, c]) false sz = .ok () sz ∧ (runFull dst (fun r => do
      let rs ← mapE ([a, b, c]) fun q => q.row dst.desc.typ dst.desc.cols r
      pure ((List.range dst.desc.vcols).map fun j => ((fun es t => ((fun x t => fma x t false true fun p c => p - c) : Args → Nat → Nat → Nat → Nat → Nat) x t (es.getD 0 0) (es.getD 1 0) (es.getD 2 0)) : List Nat → Nat → Nat) (rs.map fun q => q.getD j 0) dst.desc.typ)) sz = .ok () t) :=
  ⟨ar 0x24#8 0x21#8 0x22#8 0#4 0x23#20, wT, _, _, _, _, _, _, (issues_of (by decide +kernel)), (ok_of (by decide +kernel)), (ok_of (by decide +kernel)), (ok_of (by decide +kernel)), _, _, _, (ok_of (by decide +kernel)), (by decide +kernel), (by decide +kernel), (by decide +kernel), (okIs_of (by decide +kernel)), (okU_of (by decide +kernel))⟩

theorem w_TileTernaryResults_3 : 
    let num (t : Nat) : Bool := isFPA t || isINTA t
    
    let fma (x : Args) (t : Nat) (np nc : Bool) (h : Int → Int → Int) (a b c : Nat) : Nat :=
    if isFloat t then
      let f := fmtOf t
      let p := FV.mul (f.val a) (f.val b)
      (f.round (rmOf x) (satOf x) (FV.add (rmOf x) (if np then p.negate else p) (if nc then (f.val c).negate else f.val c))).1
    else cvtInt t (satOf x) (h (intVal t a * intVal t b) (intVal t c))
    ∃ x, ∃ (s : State), ∃ a, ∃ b, ∃ c, ∃ s1, ∃ s2, ∃ s3, Issues (.tfnma x) s ∧ tileSrc 1 x.a s = .ok a s1 ∧ bcastSrc 2 x.b s1 = .ok b s2 ∧ bcastSrc 3 x.c s2 = .ok c s3 ∧ ∃ dst, ∃ sz, ∃ t, tileDst x s3 = .ok dst sz ∧ num dst.desc.typ = true ∧ ((([a, b, c]).all fun q => q.serves dst.desc.typ) = true) ∧ ((([a, b, c]).all fun q => q.shaped dst.desc.rows dst.desc.cols) = true) ∧ checkOverlap dst ([a, b, c]) false sz = .ok () sz ∧ (runFull dst (fun r => do
      let rs ← mapE ([a, b, c]) fun q => q.row dst.desc.typ dst.desc.cols r
      pure ((List.range dst.desc.vcols).map fun j => ((fun es t => ((fun x t => fma x t true false fun p c => c - p) : Args → Nat → Nat → Nat → Nat → Nat) x t (es.getD 0 0) (es.getD 1 0) (es.getD 2 0)) : List Nat → Nat → Nat) (rs.map fun q => q.getD j 0) dst.desc.typ)) sz = .ok () t) :=
  ⟨ar 0x24#8 0x21#8 0x22#8 0#4 0x23#20, wT, _, _, _, _, _, _, (issues_of (by decide +kernel)), (ok_of (by decide +kernel)), (ok_of (by decide +kernel)), (ok_of (by decide +kernel)), _, _, _, (ok_of (by decide +kernel)), (by decide +kernel), (by decide +kernel), (by decide +kernel), (okIs_of (by decide +kernel)), (okU_of (by decide +kernel))⟩

theorem w_TileTernaryResults_4 : ∃ x, ∃ (s : State), ∃ a, ∃ b, ∃ c, ∃ s1, ∃ s2, ∃ s3, ∃ dst, ∃ s4, ∃ t, Issues (.tsel x) s ∧ tileSrc 1 x.a s = .ok a s1 ∧ bcastSrc 2 x.b s1 = .ok b s2 ∧ tileSrc 3 x.c s2 = .ok c s3 ∧ tileDst x s3 = .ok dst s4 ∧ 
    let d := dst.desc
    (a.serves d.typ && b.serves d.typ && isINTS c.desc.typ) = true ∧ (a.shaped d.rows d.cols && b.shaped d.rows d.cols && c.shaped d.rows d.cols) = true ∧ checkOverlap dst [a, b, c] false s4 = .ok () s4 ∧ (runFull dst (fun i => do
      let ra ← a.row d.typ d.cols i
      let rb ← b.row d.typ d.cols i
      let rc ← c.row d.typ d.cols i
      pure ((List.range d.vcols).map fun j => if rc.getD j 0 = 0 then rb.getD j 0 else ra.getD j 0)) s4 = .ok () t) :=
  ⟨ar 0x24#8 0x21#8 0x22#8 0#4 0x26#20, wT, _, _, _, _, _, _, _, _, _, (issues_of (by decide +kernel)), (ok_of (by decide +kernel)), (ok_of (by decide +kernel)), (ok_of (by decide +kernel)), (ok_of (by decide +kernel)), (by decide +kernel), (by decide +kernel), (okIs_of (by decide +kernel)), (okU_of (by decide +kernel))⟩

theorem w_TileUnaryResults_1 : 
    let num (t : Nat) : Bool := isFPA t || isINTA t
    ∃ x, ∃ (s : State), ∃ a, ∃ s1, Issues (.tabs x) s ∧ tileSrc 1 x.a s = .ok a s1 ∧ ∃ dst, ∃ sz, ∃ t, tileDst x s1 = .ok dst sz ∧ num dst.desc.typ = true ∧ ((([a]).all fun q => q.serves dst.desc.typ) = true) ∧ ((([a]).all fun q => q.shaped dst.desc.rows dst.desc.cols) = true) ∧ checkOverlap dst ([a]) false sz = .ok () sz ∧ (runFull dst (fun r => do
      let rs ← mapE ([a]) fun q => q.row dst.desc.typ dst.desc.cols r
      pure ((List.range dst.desc.vcols).map fun j => ((fun es t => ((fun x t a => if isFloat t then signElem (fmtOf t) false a else cvtInt t (satOf x) (intVal t a).natAbs) : Args → Nat → Nat → Nat) x t (es.getD 0 0)) : List Nat → Nat → Nat) (rs.map fun q => q.getD j 0) dst.desc.typ)) sz = .ok () t) :=
  ⟨ar 0x24#8 0x21#8 0#8 0#4 0#20, wT, _, _, (issues_of (by decide +kernel)), (ok_of (by decide +kernel)), _, _, _, (ok_of (by decide +kernel)), (by decide +kernel), (by decide +kernel), (by decide +kernel), (okIs_of (by decide +kernel)), (okU_of (by decide +kernel))⟩

theorem w_TileUnaryResults_2 : ∃ x, ∃ (s : State), ∃ a, ∃ s1, Issues (.tneg x) s ∧ tileSrc 1 x.a s = .ok a s1 ∧ ∃ dst, ∃ sz, ∃ t, tileDst x s1 = .ok dst sz ∧ ((((fun t => isFPA t || isINTA t || isCPX t) : Nat → Bool) : Nat → Bool) dst.desc.typ = true) ∧ ((([a]).all fun q => q.serves dst.desc.typ) = true) ∧ ((([a]).all fun q => q.shaped dst.desc.rows dst.desc.cols) = true) ∧ checkOverlap dst ([a]) false sz = .ok () sz ∧ (runFull dst (fun r => do
      let rs ← mapE ([a]) fun q => q.row dst.desc.typ dst.desc.cols r
      pure ((List.range dst.desc.vcols).map fun j => ((fun es t => ((fun x t a =>
    if isCPX t then cpxMk t (signElem (fmtOf (cpxBase t)) true (cpxRe t a)) (signElem (fmtOf (cpxBase t)) true (cpxIm t a))
    else if isFloat t then signElem (fmtOf t) true a else cvtInt t (satOf x) (-(intVal t a))) : Args → Nat → Nat → Nat) x t (es.getD 0 0)) : List Nat → Nat → Nat) (rs.map fun q => q.getD j 0) dst.desc.typ)) sz = .ok () t) :=
  ⟨ar 0x24#8 0x21#8 0#8 0#4 0#20, wT, _, _, (issues_of (by decide +kernel)), (ok_of (by decide +kernel)), _, _, _, (ok_of (by decide +kernel)), (by decide +kernel), (by decide +kernel), (by decide +kernel), (okIs_of (by decide +kernel)), (okU_of (by decide +kernel))⟩

theorem w_TileUnaryResults_3 : 
    let fp (t : Nat) : Bool := t == 1 || t == 2 || t == 3
    ∃ x, ∃ (s : State), ∃ a, ∃ s1, Issues (.tsqrt x) s ∧ tileSrc 1 x.a s = .ok a s1 ∧ ∃ dst, ∃ sz, ∃ t, tileDst x s1 = .ok dst sz ∧ fp dst.desc.typ = true ∧ ((([a]).all fun q => q.serves dst.desc.typ) = true) ∧ ((([a]).all fun q => q.shaped dst.desc.rows dst.desc.cols) = true) ∧ checkOverlap dst ([a]) false sz = .ok () sz ∧ (runFull dst (fun r => do
      let rs ← mapE ([a]) fun q => q.row dst.desc.typ dst.desc.cols r
      pure ((List.range dst.desc.vcols).map fun j => ((fun es t => ((fun x t a => ((fmtOf t).round (rmOf x) (satOf x) (FV.sqrt ((fmtOf t).val a))).1) : Args → Nat → Nat → Nat) x t (es.getD 0 0)) : List Nat → Nat → Nat) (rs.map fun q => q.getD j 0) dst.desc.typ)) sz = .ok () t) :=
  ⟨ar 0x24#8 0x21#8 0#8 0#4 0#20, wT, _, _, (issues_of (by decide +kernel)), (ok_of (by decide +kernel)), _, _, _, (ok_of (by decide +kernel)), (by decide +kernel), (by decide +kernel), (by decide +kernel), (okIs_of (by decide +kernel)), (okU_of (by decide +kernel))⟩

theorem w_TileUnaryResults_4 : 
    let fp (t : Nat) : Bool := t == 1 || t == 2 || t == 3
    ∃ x, ∃ (s : State), ∃ a, ∃ s1, Issues (.trcp x) s ∧ tileSrc 1 x.a s = .ok a s1 ∧ ∃ dst, ∃ sz, ∃ t, tileDst x s1 = .ok dst sz ∧ fp dst.desc.typ = true ∧ ((([a]).all fun q => q.serves dst.desc.typ) = true) ∧ ((([a]).all fun q => q.shaped dst.desc.rows dst.desc.cols) = true) ∧ checkOverlap dst ([a]) false sz = .ok () sz ∧ (runFull dst (fun r => do
      let rs ← mapE ([a]) fun q => q.row dst.desc.typ dst.desc.cols r
      pure ((List.range dst.desc.vcols).map fun j => ((fun es t => ((fun x t a => ((fmtOf t).round (rmOf x) (satOf x) (FV.div (.fin false 1 0) ((fmtOf t).val a))).1) : Args → Nat → Nat → Nat) x t (es.getD 0 0)) : List Nat → Nat → Nat) (rs.map fun q => q.getD j 0) dst.desc.typ)) sz = .ok () t) :=
  ⟨ar 0x24#8 0x21#8 0#8 0#4 0#20, wT, _, _, (issues_of (by decide +kernel)), (ok_of (by decide +kernel)), _, _, _, (ok_of (by decide +kernel)), (by decide +kernel), (by decide +kernel), (by decide +kernel), (okIs_of (by decide +kernel)), (okU_of (by decide +kernel))⟩

theorem w_TileUnaryResults_5 : 
    let fp (t : Nat) : Bool := t == 1 || t == 2 || t == 3
    ∃ x, ∃ (s : State), ∃ a, ∃ s1, Issues (.trsq x) s ∧ tileSrc 1 x.a s = .ok a s1 ∧ ∃ dst, ∃ sz, ∃ t, tileDst x s1 = .ok dst sz ∧ fp dst.desc.typ = true ∧ ((([a]).all fun q => q.serves dst.desc.typ) = true) ∧ ((([a]).all fun q => q.shaped dst.desc.rows dst.desc.cols) = true) ∧ checkOverlap dst ([a]) false sz = .ok () sz ∧ (runFull dst (fun r => do
      let rs ← mapE ([a]) fun q => q.row dst.desc.typ dst.desc.cols r
      pure ((List.range dst.desc.vcols).map fun j => ((fun es t => ((fun x t a => specialResult 4 t (satOf x) a) : Args → Nat → Nat → Nat) x t (es.getD 0 0)) : List Nat → Nat → Nat) (rs.map fun q => q.getD j 0) dst.desc.typ)) sz = .ok () t) :=
  ⟨ar 0x24#8 0x21#8 0#8 0#4 0#20, wT, _, _, (issues_of (by decide +kernel)), (ok_of (by decide +kernel)), _, _, _, (ok_of (by decide +kernel)), (by decide +kernel), (by decide +kernel), (by decide +kernel), (okIs_of (by decide +kernel)), (okU_of (by decide +kernel))⟩

theorem w_TileUnaryResults_6 : 
    let fp (t : Nat) : Bool := t == 1 || t == 2 || t == 3
    ∃ x, ∃ (s : State), ∃ a, ∃ s1, Issues (.texp2 x) s ∧ tileSrc 1 x.a s = .ok a s1 ∧ ∃ dst, ∃ sz, ∃ t, tileDst x s1 = .ok dst sz ∧ fp dst.desc.typ = true ∧ ((([a]).all fun q => q.serves dst.desc.typ) = true) ∧ ((([a]).all fun q => q.shaped dst.desc.rows dst.desc.cols) = true) ∧ checkOverlap dst ([a]) false sz = .ok () sz ∧ (runFull dst (fun r => do
      let rs ← mapE ([a]) fun q => q.row dst.desc.typ dst.desc.cols r
      pure ((List.range dst.desc.vcols).map fun j => ((fun es t => ((fun x t a => specialResult 5 t (satOf x) a) : Args → Nat → Nat → Nat) x t (es.getD 0 0)) : List Nat → Nat → Nat) (rs.map fun q => q.getD j 0) dst.desc.typ)) sz = .ok () t) :=
  ⟨ar 0x24#8 0x21#8 0#8 0#4 0#20, wT, _, _, (issues_of (by decide +kernel)), (ok_of (by decide +kernel)), _, _, _, (ok_of (by decide +kernel)), (by decide +kernel), (by decide +kernel), (by decide +kernel), (okIs_of (by decide +kernel)), (okU_of (by decide +kernel))⟩

theorem w_TileUnaryResults_7 : 
    let fp (t : Nat) : Bool := t == 1 || t == 2 || t == 3
    ∃ x, ∃ (s : State), ∃ a, ∃ s1, Issues (.texp x) s ∧ tileSrc 1 x.a s = .ok a s1 ∧ ∃ dst, ∃ sz, ∃ t, tileDst x s1 = .ok dst sz ∧ fp dst.desc.typ = true ∧ ((([a]).all fun q => q.serves dst.desc.typ) = true) ∧ ((([a]).all fun q => q.shaped dst.desc.rows dst.desc.cols) = true) ∧ checkOverlap dst ([a]) false sz = .ok () sz ∧ (runFull dst (fun r => do
      let rs ← mapE ([a]) fun q => q.row dst.desc.typ dst.desc.cols r
      pure ((List.range dst.desc.vcols).map fun j => ((fun es t => ((fun x t a => specialResult 6 t (satOf x) a) : Args → Nat → Nat → Nat) x t (es.getD 0 0)) : List Nat → Nat → Nat) (rs.map fun q => q.getD j 0) dst.desc.typ)) sz = .ok () t) :=
  ⟨ar 0x24#8 0x21#8 0#8 0#4 0#20, wT, _, _, (issues_of (by decide +kernel)), (ok_of (by decide +kernel)), _, _, _, (ok_of (by decide +kernel)), (by decide +kernel), (by decide +kernel), (by decide +kernel), (okIs_of (by decide +kernel)), (okU_of (by decide +kernel))⟩

theorem w_TileUnaryResults_8 : 
    let fp (t : Nat) : Bool := t == 1 || t == 2 || t == 3
    ∃ x, ∃ (s : State), ∃ a, ∃ s1, Issues (.tlog2 x) s ∧ tileSrc 1 x.a s = .ok a s1 ∧ ∃ dst, ∃ sz, ∃ t, tileDst x s1 = .ok dst sz ∧ fp dst.desc.typ = true ∧ ((([a]).all fun q => q.serves dst.desc.typ) = true) ∧ ((([a]).all fun q => q.shaped dst.desc.rows dst.desc.cols) = true) ∧ checkOverlap dst ([a]) false sz = .ok () sz ∧ (runFull dst (fun r => do
      let rs ← mapE ([a]) fun q => q.row dst.desc.typ dst.desc.cols r
      pure ((List.range dst.desc.vcols).map fun j => ((fun es t => ((fun x t a => specialResult 7 t (satOf x) a) : Args → Nat → Nat → Nat) x t (es.getD 0 0)) : List Nat → Nat → Nat) (rs.map fun q => q.getD j 0) dst.desc.typ)) sz = .ok () t) :=
  ⟨ar 0x24#8 0x21#8 0#8 0#4 0#20, wT, _, _, (issues_of (by decide +kernel)), (ok_of (by decide +kernel)), _, _, _, (ok_of (by decide +kernel)), (by decide +kernel), (by decide +kernel), (by decide +kernel), (okIs_of (by decide +kernel)), (okU_of (by decide +kernel))⟩

theorem w_TileUnaryResults_9 : 
    let fp (t : Nat) : Bool := t == 1 || t == 2 || t == 3
    ∃ x, ∃ (s : State), ∃ a, ∃ s1, Issues (.tln x) s ∧ tileSrc 1 x.a s = .ok a s1 ∧ ∃ dst, ∃ sz, ∃ t, tileDst x s1 = .ok dst sz ∧ fp dst.desc.typ = true ∧ ((([a]).all fun q => q.serves dst.desc.typ) = true) ∧ ((([a]).all fun q => q.shaped dst.desc.rows dst.desc.cols) = true) ∧ checkOverlap dst ([a]) false sz = .ok () sz ∧ (runFull dst (fun r => do
      let rs ← mapE ([a]) fun q => q.row dst.desc.typ dst.desc.cols r
      pure ((List.range dst.desc.vcols).map fun j => ((fun es t => ((fun x t a => specialResult 8 t (satOf x) a) : Args → Nat → Nat → Nat) x t (es.getD 0 0)) : List Nat → Nat → Nat) (rs.map fun q => q.getD j 0) dst.desc.typ)) sz = .ok () t) :=
  ⟨ar 0x24#8 0x21#8 0#8 0#4 0#20, wT, _, _, (issues_of (by decide +kernel)), (ok_of (by decide +kernel)), _, _, _, (ok_of (by decide +kernel)), (by decide +kernel), (by decide +kernel), (by decide +kernel), (okIs_of (by decide +kernel)), (okU_of (by decide +kernel))⟩

theorem w_TileUnaryResults_10 : 
    let fp (t : Nat) : Bool := t == 1 || t == 2 || t == 3
    ∃ x, ∃ (s : State), ∃ a, ∃ s1, Issues (.tsin x) s ∧ tileSrc 1 x.a s = .ok a s1 ∧ ∃ dst, ∃ sz, ∃ t, tileDst x s1 = .ok dst sz ∧ fp dst.desc.typ = true ∧ ((([a]).all fun q => q.serves dst.desc.typ) = true) ∧ ((([a]).all fun q => q.shaped dst.desc.rows dst.desc.cols) = true) ∧ checkOverlap dst ([a]) false sz = .ok () sz ∧ (runFull dst (fun r => do
      let rs ← mapE ([a]) fun q => q.row dst.desc.typ dst.desc.cols r
      pure ((List.range dst.desc.vcols).map fun j => ((fun es t => ((fun x t a => specialResult 9 t (satOf x) a) : Args → Nat → Nat → Nat) x t (es.getD 0 0)) : List Nat → Nat → Nat) (rs.map fun q => q.getD j 0) dst.desc.typ)) sz = .ok () t) :=
  ⟨ar 0x24#8 0x21#8 0#8 0#4 0#20, wT, _, _, (issues_of (by decide +kernel)), (ok_of (by decide +kernel)), _, _, _, (ok_of (by decide +kernel)), (by decide +kernel), (by decide +kernel), (by decide +kernel), (okIs_of (by decide +kernel)), (okU_of (by decide +kernel))⟩

theorem w_TileUnaryResults_11 : 
    let fp (t : Nat) : Bool := t == 1 || t == 2 || t == 3
    ∃ x, ∃ (s : State), ∃ a, ∃ s1, Issues (.tcos x) s ∧ tileSrc 1 x.a s = .ok a s1 ∧ ∃ dst, ∃ sz, ∃ t, tileDst x s1 = .ok dst sz ∧ fp dst.desc.typ = true ∧ ((([a]).all fun q => q.serves dst.desc.typ) = true) ∧ ((([a]).all fun q => q.shaped dst.desc.rows dst.desc.cols) = true) ∧ checkOverlap dst ([a]) false sz = .ok () sz ∧ (runFull dst (fun r => do
      let rs ← mapE ([a]) fun q => q.row dst.desc.typ dst.desc.cols r
      pure ((List.range dst.desc.vcols).map fun j => ((fun es t => ((fun x t a => specialResult 10 t (satOf x) a) : Args → Nat → Nat → Nat) x t (es.getD 0 0)) : List Nat → Nat → Nat) (rs.map fun q => q.getD j 0) dst.desc.typ)) sz = .ok () t) :=
  ⟨ar 0x24#8 0x21#8 0#8 0#4 0#20, wT, _, _, (issues_of (by decide +kernel)), (ok_of (by decide +kernel)), _, _, _, (ok_of (by decide +kernel)), (by decide +kernel), (by decide +kernel), (by decide +kernel), (okIs_of (by decide +kernel)), (okU_of (by decide +kernel))⟩

theorem w_TileUnaryResults_12 : 
    let fp (t : Nat) : Bool := t == 1 || t == 2 || t == 3
    ∃ x, ∃ (s : State), ∃ a, ∃ s1, Issues (.ttanh x) s ∧ tileSrc 1 x.a s = .ok a s1 ∧ ∃ dst, ∃ sz, ∃ t, tileDst x s1 = .ok dst sz ∧ fp dst.desc.typ = true ∧ ((([a]).all fun q => q.serves dst.desc.typ) = true) ∧ ((([a]).all fun q => q.shaped dst.desc.rows dst.desc.cols) = true) ∧ checkOverlap dst ([a]) false sz = .ok () sz ∧ (runFull dst (fun r => do
      let rs ← mapE ([a]) fun q => q.row dst.desc.typ dst.desc.cols r
      pure ((List.range dst.desc.vcols).map fun j => ((fun es t => ((fun x t a => specialResult 11 t (satOf x) a) : Args → Nat → Nat → Nat) x t (es.getD 0 0)) : List Nat → Nat → Nat) (rs.map fun q => q.getD j 0) dst.desc.typ)) sz = .ok () t) :=
  ⟨ar 0x24#8 0x21#8 0#8 0#4 0#20, wT, _, _, (issues_of (by decide +kernel)), (ok_of (by decide +kernel)), _, _, _, (ok_of (by decide +kernel)), (by decide +kernel), (by decide +kernel), (by decide +kernel), (okIs_of (by decide +kernel)), (okU_of (by decide +kernel))⟩

theorem w_TileUnaryResults_13 : 
    let fp (t : Nat) : Bool := t == 1 || t == 2 || t == 3
    ∃ x, ∃ (s : State), ∃ a, ∃ s1, Issues (.tsigm x) s ∧ tileSrc 1 x.a s = .ok a s1 ∧ ∃ dst, ∃ sz, ∃ t, tileDst x s1 = .ok dst sz ∧ fp dst.desc.typ = true ∧ ((([a]).all fun q => q.serves dst.desc.typ) = true) ∧ ((([a]).all fun q => q.shaped dst.desc.rows dst.desc.cols) = true) ∧ checkOverlap dst ([a]) false sz = .ok () sz ∧ (runFull dst (fun r => do
      let rs ← mapE ([a]) fun q => q.row dst.desc.typ dst.desc.cols r
      pure ((List.range dst.desc.vcols).map fun j => ((fun es t => ((fun x t a => specialResult 12 t (satOf x) a) : Args → Nat → Nat → Nat) x t (es.getD 0 0)) : List Nat → Nat → Nat) (rs.map fun q => q.getD j 0) dst.desc.typ)) sz = .ok () t) :=
  ⟨ar 0x24#8 0x21#8 0#8 0#4 0#20, wT, _, _, (issues_of (by decide +kernel)), (ok_of (by decide +kernel)), _, _, _, (ok_of (by decide +kernel)), (by decide +kernel), (by decide +kernel), (by decide +kernel), (okIs_of (by decide +kernel)), (okU_of (by decide +kernel))⟩

theorem w_TileCompareResults_1 : 
    let un (f : Fmt) (a b : Nat) : Bool := (f.val a).isNan || (f.val b).isNan
    
    let rel (f : Fmt) (r : Int → Bool) (a b : Nat) : Bool := ! un f a b && r (FV.cmp (f.val a) (f.val b))
    
    let ints (t : Nat) (r : Int → Int → Bool) (a b : Nat) : Bool := r (intVal t a) (intVal t b)
    
    let both (t : Nat) (all : Bool) (g : Fmt → Nat → Nat → Bool) (h : Nat → Nat → Bool) (a b : Nat) : Bool :=
    if isCPX t then
      let p := g (fmtOf (cpxBase t)) (cpxRe t a) (cpxRe t b)
      let q := g (fmtOf (cpxBase t)) (cpxIm t a) (cpxIm t b)
      if all then p && q else p || q
    else if isFloat t then g (fmtOf t) a b else h a b
    
    let p := (Instr.tcmpEq, true, fun t => both t true (fun f => rel f (· == 0)) (ints t fun u v => u == v))
    ∃ x, ∃ (s : State), ∃ a, ∃ b, ∃ s1, ∃ s2, ∃ dst, ∃ s3, ∃ t, Issues (p.1 x) s ∧ tileSrc 1 x.a s = .ok a s1 ∧ bcastSrc 2 x.b s1 = .ok b s2 ∧ tileDst x s2 = .ok dst s3 ∧ 
    let d := dst.desc
    
    let typ := a.desc.typ
    (isFPA typ || isINTA typ || (isCPX typ && p.2.1)) = true ∧ b.serves typ = true ∧ isINTS d.typ = true ∧ (a.shaped d.rows d.cols && b.shaped d.rows d.cols) = true ∧ checkOverlap dst [a, b] false s3 = .ok () s3 ∧ (runFull dst (fun i => do
        let ra ← a.row typ d.cols i
        let rb ← b.row typ d.cols i
        pure ((List.range d.vcols).map fun j => (p.2.2 typ (ra.getD j 0) (rb.getD j 0)).toNat)) s3 = .ok () t) :=
  ⟨ar 0x28#8 0x21#8 0x22#8 0#4 0#20, wT, _, _, _, _, _, _, _, (issues_of (by decide +kernel)), (ok_of (by decide +kernel)), (ok_of (by decide +kernel)), (ok_of (by decide +kernel)), (by decide +kernel), (by decide +kernel), (by decide +kernel), (by decide +kernel), (okIs_of (by decide +kernel)), (okU_of (by decide +kernel))⟩

theorem w_TileCompareResults_2 : 
    let un (f : Fmt) (a b : Nat) : Bool := (f.val a).isNan || (f.val b).isNan
    
    let ints (t : Nat) (r : Int → Int → Bool) (a b : Nat) : Bool := r (intVal t a) (intVal t b)
    
    let both (t : Nat) (all : Bool) (g : Fmt → Nat → Nat → Bool) (h : Nat → Nat → Bool) (a b : Nat) : Bool :=
    if isCPX t then
      let p := g (fmtOf (cpxBase t)) (cpxRe t a) (cpxRe t b)
      let q := g (fmtOf (cpxBase t)) (cpxIm t a) (cpxIm t b)
      if all then p && q else p || q
    else if isFloat t then g (fmtOf t) a b else h a b
    
    let p := (Instr.tcmpNe, true, fun t => both t false (fun f a b => un f a b || FV.cmp (f.val a) (f.val b) != 0) (ints t fun u v => u != v))
    ∃ x, ∃ (s : State), ∃ a, ∃ b, ∃ s1, ∃ s2, ∃ dst, ∃ s3, ∃ t, Issues (p.1 x) s ∧ tileSrc 1 x.a s = .ok a s1 ∧ bcastSrc 2 x.b s1 = .ok b s2 ∧ tileDst x s2 = .ok dst s3 ∧ 
    let d := dst.desc
    
    let typ := a.desc.typ
    (isFPA typ || isINTA typ || (isCPX typ && p.2.1)) = true ∧ b.serves typ = true ∧ isINTS d.typ = true ∧ (a.shaped d.rows d.cols && b.shaped d.rows d.cols) = true ∧ checkOverlap dst [a, b] false s3 = .ok () s3 ∧ (runFull dst (fun i => do
        let ra ← a.row typ d.cols i
        let rb ← b.row typ d.cols i
        pure ((List.range d.vcols).map fun j => (p.2.2 typ (ra.getD j 0) (rb.getD j 0)).toNat)) s3 = .ok () t) :=
  ⟨ar 0x28#8 0x21#8 0x22#8 0#4 0#20, wT, _, _, _, _, _, _, _, (issues_of (by decide +kernel)), (ok_of (by decide +kernel)), (ok_of (by decide +kernel)), (ok_of (by decide +kernel)), (by decide +kernel), (by decide +kernel), (by decide +kernel), (by decide +kernel), (okIs_of (by decide +kernel)), (okU_of (by decide +kernel))⟩

theorem w_TileCompareResults_3 : 
    let un (f : Fmt) (a b : Nat) : Bool := (f.val a).isNan || (f.val b).isNan
    
    let rel (f : Fmt) (r : Int → Bool) (a b : Nat) : Bool := ! un f a b && r (FV.cmp (f.val a) (f.val b))
    
    let ints (t : Nat) (r : Int → Int → Bool) (a b : Nat) : Bool := r (intVal t a) (intVal t b)
    
    let both (t : Nat) (all : Bool) (g : Fmt → Nat → Nat → Bool) (h : Nat → Nat → Bool) (a b : Nat) : Bool :=
    if isCPX t then
      let p := g (fmtOf (cpxBase t)) (cpxRe t a) (cpxRe t b)
      let q := g (fmtOf (cpxBase t)) (cpxIm t a) (cpxIm t b)
      if all then p && q else p || q
    else if isFloat t then g (fmtOf t) a b else h a b
    
    let p := (Instr.tcmpLt, false, fun t => both t false (fun f => rel f fun c => decide (c < 0)) (ints t fun u v => decide (u < v)))
    ∃ x, ∃ (s : State), ∃ a, ∃ b, ∃ s1, ∃ s2, ∃ dst, ∃ s3, ∃ t, Issues (p.1 x) s ∧ tileSrc 1 x.a s = .ok a s1 ∧ bcastSrc 2 x.b s1 = .ok b s2 ∧ tileDst x s2 = .ok dst s3 ∧ 
    let d := dst.desc
    
    let typ := a.desc.typ
    (isFPA typ || isINTA typ || (isCPX typ && p.2.1)) = true ∧ b.serves typ = true ∧ isINTS d.typ = true ∧ (a.shaped d.rows d.cols && b.shaped d.rows d.cols) = true ∧ checkOverlap dst [a, b] false s3 = .ok () s3 ∧ (runFull dst (fun i => do
        let ra ← a.row typ d.cols i
        let rb ← b.row typ d.cols i
        pure ((List.range d.vcols).map fun j => (p.2.2 typ (ra.getD j 0) (rb.getD j 0)).toNat)) s3 = .ok () t) :=
  ⟨ar 0x28#8 0x21#8 0x22#8 0#4 0#20, wT, _, _, _, _, _, _, _, (issues_of (by decide +kernel)), (ok_of (by decide +kernel)), (ok_of (by decide +kernel)), (ok_of (by decide +kernel)), (by decide +kernel), (by decide +kernel), (by decide +kernel), (by decide +kernel), (okIs_of (by decide +kernel)), (okU_of (by decide +kernel))⟩

theorem w_TileCompareResults_4 : 
    let un (f : Fmt) (a b : Nat) : Bool := (f.val a).isNan || (f.val b).isNan
    
    let rel (f : Fmt) (r : Int → Bool) (a b : Nat) : Bool := ! un f a b && r (FV.cmp (f.val a) (f.val b))
    
    let ints (t : Nat) (r : Int → Int → Bool) (a b : Nat) : Bool := r (intVal t a) (intVal t b)
    
    let both (t : Nat) (all : Bool) (g : Fmt → Nat → Nat → Bool) (h : Nat → Nat → Bool) (a b : Nat) : Bool :=
    if isCPX t then
      let p := g (fmtOf (cpxBase t)) (cpxRe t a) (cpxRe t b)
      let q := g (fmtOf (cpxBase t)) (cpxIm t a) (cpxIm t b)
      if all then p && q else p || q
    else if isFloat t then g (fmtOf t) a b else h a b
    
    let p := (Instr.tcmpLe, false, fun t => both t false (fun f => rel f fun c => decide (c ≤ 0)) (ints t fun u v => decide (u ≤ v)))
    ∃ x, ∃ (s : State), ∃ a, ∃ b, ∃ s1, ∃ s2, ∃ dst, ∃ s3, ∃ t, Issues (p.1 x) s ∧ tileSrc 1 x.a s = .ok a s1 ∧ bcastSrc 2 x.b s1 = .ok b s2 ∧ tileDst x s2 = .ok dst s3 ∧ 
    let d := dst.desc
    
    let typ := a.desc.typ
    (isFPA typ || isINTA typ || (isCPX typ && p.2.1)) = true ∧ b.serves typ = true ∧ isINTS d.typ = true ∧ (a.shaped d.rows d.cols && b.shaped d.rows d.cols) = true ∧ checkOverlap dst [a, b] false s3 = .ok () s3 ∧ (runFull dst (fun i => do
        let ra ← a.row typ d.cols i
        let rb ← b.row typ d.cols i
        pure ((List.range d.vcols).map fun j => (p.2.2 typ (ra.getD j 0) (rb.getD j 0)).toNat)) s3 = .ok () t) :=
  ⟨ar 0x28#8 0x21#8 0x22#8 0#4 0#20, wT, _, _, _, _, _, _, _, (issues_of (by decide +kernel)), (ok_of (by decide +kernel)), (ok_of (by decide +kernel)), (ok_of (by decide +kernel)), (by decide +kernel), (by decide +kernel), (by decide +kernel), (by decide +kernel), (okIs_of (by decide +kernel)), (okU_of (by decide +kernel))⟩

theorem w_TileCompareResults_5 : 
    let un (f : Fmt) (a b : Nat) : Bool := (f.val a).isNan || (f.val b).isNan
    
    let rel (f : Fmt) (r : Int → Bool) (a b : Nat) : Bool := ! un f a b && r (FV.cmp (f.val a) (f.val b))
    
    let ints (t : Nat) (r : Int → Int → Bool) (a b : Nat) : Bool := r (intVal t a) (intVal t b)
    
    let both (t : Nat) (all : Bool) (g : Fmt → Nat → Nat → Bool) (h : Nat → Nat → Bool) (a b : Nat) : Bool :=
    if isCPX t then
      let p := g (fmtOf (cpxBase t)) (cpxRe t a) (cpxRe t b)
      let q := g (fmtOf (cpxBase t)) (cpxIm t a) (cpxIm t b)
      if all then p && q else p || q
    else if isFloat t then g (fmtOf t) a b else h a b
    
    let p := (Instr.tcmpGt, false, fun t => both t false (fun f => rel f fun c => decide (0 < c)) (ints t fun u v => decide (v < u)))
    ∃ x, ∃ (s : State), ∃ a, ∃ b, ∃ s1, ∃ s2, ∃ dst, ∃ s3, ∃ t, Issues (p.1 x) s ∧ tileSrc 1 x.a s = .ok a s1 ∧ bcastSrc 2 x.b s1 = .ok b s2 ∧ tileDst x s2 = .ok dst s3 ∧ 
    let d := dst.desc
    
    let typ := a.desc.typ
    (isFPA typ || isINTA typ || (isCPX typ && p.2.1)) = true ∧ b.serves typ = true ∧ isINTS d.typ = true ∧ (a.shaped d.rows d.cols && b.shaped d.rows d.cols) = true ∧ checkOverlap dst [a, b] false s3 = .ok () s3 ∧ (runFull dst (fun i => do
        let ra ← a.row typ d.cols i
        let rb ← b.row typ d.cols i
        pure ((List.range d.vcols).map fun j => (p.2.2 typ (ra.getD j 0) (rb.getD j 0)).toNat)) s3 = .ok () t) :=
  ⟨ar 0x28#8 0x21#8 0x22#8 0#4 0#20, wT, _, _, _, _, _, _, _, (issues_of (by decide +kernel)), (ok_of (by decide +kernel)), (ok_of (by decide +kernel)), (ok_of (by decide +kernel)), (by decide +kernel), (by decide +kernel), (by decide +kernel), (by decide +kernel), (okIs_of (by decide +kernel)), (okU_of (by decide +kernel))⟩

theorem w_TileCompareResults_6 : 
    let un (f : Fmt) (a b : Nat) : Bool := (f.val a).isNan || (f.val b).isNan
    
    let rel (f : Fmt) (r : Int → Bool) (a b : Nat) : Bool := ! un f a b && r (FV.cmp (f.val a) (f.val b))
    
    let ints (t : Nat) (r : Int → Int → Bool) (a b : Nat) : Bool := r (intVal t a) (intVal t b)
    
    let both (t : Nat) (all : Bool) (g : Fmt → Nat → Nat → Bool) (h : Nat → Nat → Bool) (a b : Nat) : Bool :=
    if isCPX t then
      let p := g (fmtOf (cpxBase t)) (cpxRe t a) (cpxRe t b)
      let q := g (fmtOf (cpxBase t)) (cpxIm t a) (cpxIm t b)
      if all then p && q else p || q
    else if isFloat t then g (fmtOf t) a b else h a b
    
    let p := (Instr.tcmpGe, false, fun t => both t false (fun f => rel f fun c => decide (0 ≤ c)) (ints t fun u v => decide (v ≤ u)))
    ∃ x, ∃ (s : State), ∃ a, ∃ b, ∃ s1, ∃ s2, ∃ dst, ∃ s3, ∃ t, Issues (p.1 x) s ∧ tileSrc 1 x.a s = .ok a s1 ∧ bcastSrc 2 x.b s1 = .ok b s2 ∧ tileDst x s2 = .ok dst s3 ∧ 
    let d := dst.desc
    
    let typ := a.desc.typ
    (isFPA typ || isINTA typ || (isCPX typ && p.2.1)) = true ∧ b.serves typ = true ∧ isINTS d.typ = true ∧ (a.shaped d.rows d.cols && b.shaped d.rows d.cols) = true ∧ checkOverlap dst [a, b] false s3 = .ok () s3 ∧ (runFull dst (fun i => do
        let ra ← a.row typ d.cols i
        let rb ← b.row typ d.cols i
        pure ((List.range d.vcols).map fun j => (p.2.2 typ (ra.getD j 0) (rb.getD j 0)).toNat)) s3 = .ok () t) :=
  ⟨ar 0x28#8 0x21#8 0x22#8 0#4 0#20, wT, _, _, _, _, _, _, _, (issues_of (by decide +kernel)), (ok_of (by decide +kernel)), (ok_of (by decide +kernel)), (ok_of (by decide +kernel)), (by decide +kernel), (by decide +kernel), (by decide +kernel), (by decide +kernel), (okIs_of (by decide +kernel)), (okU_of (by decide +kernel))⟩

theorem w_TileCompareResults_7 : 
    let un (f : Fmt) (a b : Nat) : Bool := (f.val a).isNan || (f.val b).isNan
    
    let both (t : Nat) (all : Bool) (g : Fmt → Nat → Nat → Bool) (h : Nat → Nat → Bool) (a b : Nat) : Bool :=
    if isCPX t then
      let p := g (fmtOf (cpxBase t)) (cpxRe t a) (cpxRe t b)
      let q := g (fmtOf (cpxBase t)) (cpxIm t a) (cpxIm t b)
      if all then p && q else p || q
    else if isFloat t then g (fmtOf t) a b else h a b
    
    let p := (Instr.tcmpUn, true, fun t => both t false un fun _ _ => false)
    ∃ x, ∃ (s : State), ∃ a, ∃ b, ∃ s1, ∃ s2, ∃ dst, ∃ s3, ∃ t, Issues (p.1 x) s ∧ tileSrc 1 x.a s = .ok a s1 ∧ bcastSrc 2 x.b s1 = .ok b s2 ∧ tileDst x s2 = .ok dst s3 ∧ 
    let d := dst.desc
    
    let typ := a.desc.typ
    (isFPA typ || isINTA typ || (isCPX typ && p.2.1)) = true ∧ b.serves typ = true ∧ isINTS d.typ = true ∧ (a.shaped d.rows d.cols && b.shaped d.rows d.cols) = true ∧ checkOverlap dst [a, b] false s3 = .ok () s3 ∧ (runFull dst (fun i => do
        let ra ← a.row typ d.cols i
        let rb ← b.row typ d.cols i
        pure ((List.range d.vcols).map fun j => (p.2.2 typ (ra.getD j 0) (rb.getD j 0)).toNat)) s3 = .ok () t) :=
  ⟨ar 0x28#8 0x21#8 0x22#8 0#4 0#20, wT, _, _, _, _, _, _, _, (issues_of (by decide +kernel)), (ok_of (by decide +kernel)), (ok_of (by decide +kernel)), (ok_of (by decide +kernel)), (by decide +kernel), (by decide +kernel), (by decide +kernel), (by decide +kernel), (okIs_of (by decide +kernel)), (okU_of (by decide +kernel))⟩

theorem w_TileComplexResults_1 : 
    let mul (conj : Bool) (t a b : Nat) : Nat :=
    let f := fmtOf (cpxBase t)
    let rnd (v : FV) : FV := f.val (f.round 0 false v).1
    let bi := if conj then (f.val (cpxIm t b)).negate else f.val (cpxIm t b)
    cpxMk t (f.round 0 false (FV.fma 0 (f.val (cpxRe t a)) (f.val (cpxRe t b)) (rnd (FV.mul (f.val (cpxIm t a)) bi)).negate)).1
      (f.round 0 false (FV.fma 0 (f.val (cpxRe t a)) bi (rnd (FV.mul (f.val (cpxIm t a)) (f.val (cpxRe t b)))))).1
    ∃ x, ∃ (s : State), ∃ a, ∃ b, ∃ s1, ∃ s2, Issues (.tcmul x) s ∧ tileSrc 1 x.a s = .ok a s1 ∧ bcastSrc 2 x.b s1 = .ok b s2 ∧ ∃ dst, ∃ sz, ∃ t, tileDst x s2 = .ok dst sz ∧ isCPX dst.desc.typ = true ∧ ((([a, b]).all fun q => q.serves dst.desc.typ) = true) ∧ ((([a, b]).all fun q => q.shaped dst.desc.rows dst.desc.cols) = true) ∧ checkOverlap dst ([a, b]) false sz = .ok () sz ∧ (runFull dst (fun r => do
      let rs ← mapE ([a, b]) fun q => q.row dst.desc.typ dst.desc.cols r
      pure ((List.range dst.desc.vcols).map fun j => ((fun es t => ((fun _ => mul false) : Args → Nat → Nat → Nat → Nat) x t (es.getD 0 0) (es.getD 1 0)) : List Nat → Nat → Nat) (rs.map fun q => q.getD j 0) dst.desc.typ)) sz = .ok () t) :=
  ⟨ar 0x2C#8 0x29#8 0x2A#8 0#4 0#20, wT, _, _, _, _, (issues_of (by decide +kernel)), (ok_of (by decide +kernel)), (ok_of (by decide +kernel)), _, _, _, (ok_of (by decide +kernel)), (by decide +kernel), (by decide +kernel), (by decide +kernel), (okIs_of (by decide +kernel)), (okU_of (by decide +kernel))⟩

theorem w_TileComplexResults_2 : 
    let mul (conj : Bool) (t a b : Nat) : Nat :=
    let f := fmtOf (cpxBase t)
    let rnd (v : FV) : FV := f.val (f.round 0 false v).1
    let bi := if conj then (f.val (cpxIm t b)).negate else f.val (cpxIm t b)
    cpxMk t (f.round 0 false (FV.fma 0 (f.val (cpxRe t a)) (f.val (cpxRe t b)) (rnd (FV.mul (f.val (cpxIm t a)) bi)).negate)).1
      (f.round 0 false (FV.fma 0 (f.val (cpxRe t a)) bi (rnd (FV.mul (f.val (cpxIm t a)) (f.val (cpxRe t b)))))).1
    ∃ x, ∃ (s : State), ∃ a, ∃ b, ∃ s1, ∃ s2, Issues (.tcmulc x) s ∧ tileSrc 1 x.a s = .ok a s1 ∧ bcastSrc 2 x.b s1 = .ok b s2 ∧ ∃ dst, ∃ sz, ∃ t, tileDst x s2 = .ok dst sz ∧ isCPX dst.desc.typ = true ∧ ((([a, b]).all fun q => q.serves dst.desc.typ) = true) ∧ ((([a, b]).all fun q => q.shaped dst.desc.rows dst.desc.cols) = true) ∧ checkOverlap dst ([a, b]) false sz = .ok () sz ∧ (runFull dst (fun r => do
      let rs ← mapE ([a, b]) fun q => q.row dst.desc.typ dst.desc.cols r
      pure ((List.range dst.desc.vcols).map fun j => ((fun es t => ((fun _ => mul true) : Args → Nat → Nat → Nat → Nat) x t (es.getD 0 0) (es.getD 1 0)) : List Nat → Nat → Nat) (rs.map fun q => q.getD j 0) dst.desc.typ)) sz = .ok () t) :=
  ⟨ar 0x2C#8 0x29#8 0x2A#8 0#4 0#20, wT, _, _, _, _, (issues_of (by decide +kernel)), (ok_of (by decide +kernel)), (ok_of (by decide +kernel)), _, _, _, (ok_of (by decide +kernel)), (by decide +kernel), (by decide +kernel), (by decide +kernel), (okIs_of (by decide +kernel)), (okU_of (by decide +kernel))⟩

theorem w_TileComplexResults_3 : ∃ x, ∃ (s : State), ∃ a, ∃ s1, Issues (.tconj x) s ∧ tileSrc 1 x.a s = .ok a s1 ∧ ∃ dst, ∃ sz, ∃ t, tileDst x s1 = .ok dst sz ∧ isCPX dst.desc.typ = true ∧ ((([a]).all fun q => q.serves dst.desc.typ) = true) ∧ ((([a]).all fun q => q.shaped dst.desc.rows dst.desc.cols) = true) ∧ checkOverlap dst ([a]) false sz = .ok () sz ∧ (runFull dst (fun r => do
      let rs ← mapE ([a]) fun q => q.row dst.desc.typ dst.desc.cols r
      pure ((List.range dst.desc.vcols).map fun j => ((fun es t => ((fun _ t a =>
    let f := fmtOf (cpxBase t)
    cpxMk t (if (f.val (cpxRe t a)).isNan then f.nanBits else cpxRe t a) (signElem f true (cpxIm t a))) : Args → Nat → Nat → Nat) x t (es.getD 0 0)) : List Nat → Nat → Nat) (rs.map fun q => q.getD j 0) dst.desc.typ)) sz = .ok () t) :=
  ⟨ar 0x2C#8 0x29#8 0#8 0#4 0#20, wT, _, _, (issues_of (by decide +kernel)), (ok_of (by decide +kernel)), _, _, _, (ok_of (by decide +kernel)), (by decide +kernel), (by decide +kernel), (by decide +kernel), (okIs_of (by decide +kernel)), (okU_of (by decide +kernel))⟩

theorem w_TileConvertResults_1 : ∃ x, ∃ (s : State), ∃ a, ∃ s1, ∃ dst, ∃ s2, ∃ t, Issues (.tcvt x) s ∧ tileSrc 1 x.a s = .ok a s1 ∧ tileDst x s1 = .ok dst s2 ∧ 
    let d := dst.desc
    
    let typ := a.desc.typ
    typOk typ = true ∧ isCPX typ = isCPX d.typ ∧ a.shaped d.rows d.cols = true ∧ checkOverlap dst [a] false s2 = .ok () s2 ∧ (runFull dst (fun i => do
      let ra ← a.row typ d.cols i
      pure ((ra.take d.vcols).map fun e =>
        if isCPX typ then cpxMk d.typ (cvtElem (cpxBase typ) (cpxBase d.typ) (rmOf x) (satOf x) (cpxRe typ e))
          (cvtElem (cpxBase typ) (cpxBase d.typ) (rmOf x) (satOf x) (cpxIm typ e))
        else cvtElem typ d.typ (rmOf x) (satOf x) e)) s2 = .ok () t) :=
  ⟨ar 0x24#8 0x21#8 0#8 0#4 0#20, wT, _, _, _, _, _, (issues_of (by decide +kernel)), (ok_of (by decide +kernel)), (ok_of (by decide +kernel)), (by decide +kernel), (by decide +kernel), (by decide +kernel), (okIs_of (by decide +kernel)), (okU_of (by decide +kernel))⟩

theorem w_TileConvertResults_2 : 
    let p := (Instr.tcvtSc, FV.div)
    ∃ x, ∃ (s : State), ∃ a, ∃ b, ∃ s1, ∃ s2, ∃ dst, ∃ s3, ∃ t, Issues (p.1 x) s ∧ tileSrc 1 x.a s = .ok a s1 ∧ tileSrc 2 x.b s1 = .ok b s2 ∧ tileDst x s2 = .ok dst s3 ∧ 
    let d := dst.desc
    
    let typ := a.desc.typ
    
    let g := x.imm98
    
    let sh := scaleShape g d.rows d.cols
    (b.desc.typ = 9 ∨ b.desc.typ = 4) ∧ isReal typ = true ∧ typ ≠ 9 ∧ isReal d.typ = true ∧ d.typ ≠ 9 ∧ b.shaped sh.1 sh.2 = true ∧ a.shaped d.rows d.cols = true ∧ checkOverlap dst [a, b] false s3 = .ok () s3 ∧ (runFull dst (fun i => do
      let ra ← a.row typ d.cols i
      let rb ← b.row b.desc.typ sh.2 (scaleAt g i 0).1
      pure ((List.range d.vcols).map fun j =>
        cvtReal d.typ (rmOf x) (satOf x) (p.2 (realVal typ (ra.getD j 0)) (realVal b.desc.typ (rb.getD (scaleAt g i j).2 0))))) s3 =
      .ok () t) :=
  ⟨ar 0x24#8 0x21#8 0x2D#8 0#4 0#20, wT, _, _, _, _, _, _, _, (issues_of (by decide +kernel)), (ok_of (by decide +kernel)), (ok_of (by decide +kernel)), (ok_of (by decide +kernel)), (by decide +kernel), (by decide +kernel), (by decide +kernel), (by decide +kernel), (by decide +kernel), (by decide +kernel), (by decide +kernel), (okIs_of (by decide +kernel)), (okU_of (by decide +kernel))⟩

theorem w_TileConvertResults_3 : 
    let p := (Instr.tdq, FV.mul)
    ∃ x, ∃ (s : State), ∃ a, ∃ b, ∃ s1, ∃ s2, ∃ dst, ∃ s3, ∃ t, Issues (p.1 x) s ∧ tileSrc 1 x.a s = .ok a s1 ∧ tileSrc 2 x.b s1 = .ok b s2 ∧ tileDst x s2 = .ok dst s3 ∧ 
    let d := dst.desc
    
    let typ := a.desc.typ
    
    let g := x.imm98
    
    let sh := scaleShape g d.rows d.cols
    (b.desc.typ = 9 ∨ b.desc.typ = 4) ∧ isReal typ = true ∧ typ ≠ 9 ∧ isReal d.typ = true ∧ d.typ ≠ 9 ∧ b.shaped sh.1 sh.2 = true ∧ a.shaped d.rows d.cols = true ∧ checkOverlap dst [a, b] false s3 = .ok () s3 ∧ (runFull dst (fun i => do
      let ra ← a.row typ d.cols i
      let rb ← b.row b.desc.typ sh.2 (scaleAt g i 0).1
      pure ((List.range d.vcols).map fun j =>
        cvtReal d.typ (rmOf x) (satOf x) (p.2 (realVal typ (ra.getD j 0)) (realVal b.desc.typ (rb.getD (scaleAt g i j).2 0))))) s3 =
      .ok () t) :=
  ⟨ar 0x24#8 0x21#8 0x2D#8 0#4 0#20, wT, _, _, _, _, _, _, _, (issues_of (by decide +kernel)), (ok_of (by decide +kernel)), (ok_of (by decide +kernel)), (ok_of (by decide +kernel)), (by decide +kernel), (by decide +kernel), (by decide +kernel), (by decide +kernel), (by decide +kernel), (by decide +kernel), (by decide +kernel), (okIs_of (by decide +kernel)), (okU_of (by decide +kernel))⟩

theorem w_TileReduceResults_1 : 
    let p := (Instr.trsum, 0)
    ∃ x, ∃ (s : State), ∃ a, ∃ s1, ∃ dst, ∃ s2, ∃ t, Issues (p.1 x) s ∧ tileSrc 1 x.a s = .ok a s1 ∧ tileDst x s1 = .ok dst s2 ∧ 
    let d := dst.desc
    
    let q := a.desc
    
    let w := if x.imm98 = 0 then q.cols else if x.imm98 = 2 then 32 else 16
    redTypes (p.2 == 0) q.typ d.typ = true ∧ d.rows = q.rows ∧ d.cols = (q.cols + w - 1) / w ∧ checkOverlap dst [a] false s2 = .ok () s2 ∧ (runFull dst (fun i => do
      let ra ← a.row q.typ q.cols i
      pure ((List.range d.vcols).map fun j =>
        reduce p.2 q.typ d.typ (rmOf x) (satOf x) (((if i < q.vrows then ra.take q.vcols else []).drop (j * w)).take w))) s2 = .ok () t) :=
  ⟨ar 0x24#8 0x21#8 0#8 0#4 0#20, wT, _, _, _, _, _, (issues_of (by decide +kernel)), (ok_of (by decide +kernel)), (ok_of (by decide +kernel)), (by decide +kernel), (by decide +kernel), (by decide +kernel), (okIs_of (by decide +kernel)), (okU_of (by decide +kernel))⟩

theorem w_TileReduceResults_2 : 
    let p := (Instr.trmax, 1)
    ∃ x, ∃ (s : State), ∃ a, ∃ s1, ∃ dst, ∃ s2, ∃ t, Issues (p.1 x) s ∧ tileSrc 1 x.a s = .ok a s1 ∧ tileDst x s1 = .ok dst s2 ∧ 
    let d := dst.desc
    
    let q := a.desc
    
    let w := if x.imm98 = 0 then q.cols else if x.imm98 = 2 then 32 else 16
    redTypes (p.2 == 0) q.typ d.typ = true ∧ d.rows = q.rows ∧ d.cols = (q.cols + w - 1) / w ∧ checkOverlap dst [a] false s2 = .ok () s2 ∧ (runFull dst (fun i => do
      let ra ← a.row q.typ q.cols i
      pure ((List.range d.vcols).map fun j =>
        reduce p.2 q.typ d.typ (rmOf x) (satOf x) (((if i < q.vrows then ra.take q.vcols else []).drop (j * w)).take w))) s2 = .ok () t) :=
  ⟨ar 0x24#8 0x21#8 0#8 0#4 0#20, wT, _, _, _, _, _, (issues_of (by decide +kernel)), (ok_of (by decide +kernel)), (ok_of (by decide +kernel)), (by decide +kernel), (by decide +kernel), (by decide +kernel), (okIs_of (by decide +kernel)), (okU_of (by decide +kernel))⟩

theorem w_TileReduceResults_3 : 
    let p := (Instr.trmin, 2)
    ∃ x, ∃ (s : State), ∃ a, ∃ s1, ∃ dst, ∃ s2, ∃ t, Issues (p.1 x) s ∧ tileSrc 1 x.a s = .ok a s1 ∧ tileDst x s1 = .ok dst s2 ∧ 
    let d := dst.desc
    
    let q := a.desc
    
    let w := if x.imm98 = 0 then q.cols else if x.imm98 = 2 then 32 else 16
    redTypes (p.2 == 0) q.typ d.typ = true ∧ d.rows = q.rows ∧ d.cols = (q.cols + w - 1) / w ∧ checkOverlap dst [a] false s2 = .ok () s2 ∧ (runFull dst (fun i => do
      let ra ← a.row q.typ q.cols i
      pure ((List.range d.vcols).map fun j =>
        reduce p.2 q.typ d.typ (rmOf x) (satOf x) (((if i < q.vrows then ra.take q.vcols else []).drop (j * w)).take w))) s2 = .ok () t) :=
  ⟨ar 0x24#8 0x21#8 0#8 0#4 0#20, wT, _, _, _, _, _, (issues_of (by decide +kernel)), (ok_of (by decide +kernel)), (ok_of (by decide +kernel)), (by decide +kernel), (by decide +kernel), (by decide +kernel), (okIs_of (by decide +kernel)), (okU_of (by decide +kernel))⟩

theorem w_TileReduceResults_4 : 
    let p := (Instr.tcsum, 0)
    ∃ x, ∃ (s : State), ∃ a, ∃ s1, ∃ dst, ∃ s2, ∃ t, Issues (p.1 x) s ∧ tileSrc 1 x.a s = .ok a s1 ∧ tileDst x s1 = .ok dst s2 ∧ 
    let d := dst.desc
    
    let q := a.desc
    redTypes (p.2 == 0) q.typ d.typ = true ∧ d.rows = 1 ∧ d.cols = q.cols ∧ checkOverlap dst [a] true s2 = .ok () s2 ∧ (runFull dst (fun _ => do
      let rs ← a.all
      pure ((List.range d.vcols).map fun j => reduce p.2 q.typ d.typ (rmOf x) (satOf x)
        (if j < q.vcols then (rs.take q.vrows).map fun r => r.getD j 0 else []))) s2 = .ok () t) :=
  ⟨ar 0x24#8 0x21#8 0#8 0#4 0#20, wT, _, _, _, _, _, (issues_of (by decide +kernel)), (ok_of (by decide +kernel)), (ok_of (by decide +kernel)), (by decide +kernel), (by decide +kernel), (by decide +kernel), (okIs_of (by decide +kernel)), (okU_of (by decide +kernel))⟩

theorem w_TileReduceResults_5 : 
    let p := (Instr.tcmax, 1)
    ∃ x, ∃ (s : State), ∃ a, ∃ s1, ∃ dst, ∃ s2, ∃ t, Issues (p.1 x) s ∧ tileSrc 1 x.a s = .ok a s1 ∧ tileDst x s1 = .ok dst s2 ∧ 
    let d := dst.desc
    
    let q := a.desc
    redTypes (p.2 == 0) q.typ d.typ = true ∧ d.rows = 1 ∧ d.cols = q.cols ∧ checkOverlap dst [a] true s2 = .ok () s2 ∧ (runFull dst (fun _ => do
      let rs ← a.all
      pure ((List.range d.vcols).map fun j => reduce p.2 q.typ d.typ (rmOf x) (satOf x)
        (if j < q.vcols then (rs.take q.vrows).map fun r => r.getD j 0 else []))) s2 = .ok () t) :=
  ⟨ar 0x24#8 0x21#8 0#8 0#4 0#20, wT, _, _, _, _, _, (issues_of (by decide +kernel)), (ok_of (by decide +kernel)), (ok_of (by decide +kernel)), (by decide +kernel), (by decide +kernel), (by decide +kernel), (okIs_of (by decide +kernel)), (okU_of (by decide +kernel))⟩

theorem w_TileReduceResults_6 : 
    let p := (Instr.tcmin, 2)
    ∃ x, ∃ (s : State), ∃ a, ∃ s1, ∃ dst, ∃ s2, ∃ t, Issues (p.1 x) s ∧ tileSrc 1 x.a s = .ok a s1 ∧ tileDst x s1 = .ok dst s2 ∧ 
    let d := dst.desc
    
    let q := a.desc
    redTypes (p.2 == 0) q.typ d.typ = true ∧ d.rows = 1 ∧ d.cols = q.cols ∧ checkOverlap dst [a] true s2 = .ok () s2 ∧ (runFull dst (fun _ => do
      let rs ← a.all
      pure ((List.range d.vcols).map fun j => reduce p.2 q.typ d.typ (rmOf x) (satOf x)
        (if j < q.vcols then (rs.take q.vrows).map fun r => r.getD j 0 else []))) s2 = .ok () t) :=
  ⟨ar 0x24#8 0x21#8 0#8 0#4 0#20, wT, _, _, _, _, _, (issues_of (by decide +kernel)), (ok_of (by decide +kernel)), (ok_of (by decide +kernel)), (by decide +kernel), (by decide +kernel), (by decide +kernel), (okIs_of (by decide +kernel)), (okU_of (by decide +kernel))⟩

theorem w_TileReduceResults_7 : 
    let p := (Instr.tscanAdd, false)
    ∃ x, ∃ (s : State), ∃ a, ∃ s1, ∃ dst, ∃ s2, ∃ t, Issues (p.1 x) s ∧ tileSrc 1 x.a s = .ok a s1 ∧ tileDst x s1 = .ok dst s2 ∧ 
    let d := dst.desc
    
    let q := a.desc
    redTypes (! p.2) q.typ d.typ = true ∧ d.rows = q.rows ∧ d.cols = q.cols ∧ checkOverlap dst [a] false s2 = .ok () s2 ∧ (runFull dst (fun i => do
      let ra ← a.row q.typ q.cols i
      pure ((List.range d.vcols).map fun j =>
        let es := ra.take (if x.mod.getLsbD 2 then j else j + 1)
        if p.2 then (if es.isEmpty then lowest q.typ else extremeElems q.typ true es)
        else sumElems q.typ d.typ (rmOf x) (satOf x) es)) s2 = .ok () t) :=
  ⟨ar 0x24#8 0x21#8 0#8 0#4 0#20, wT, _, _, _, _, _, (issues_of (by decide +kernel)), (ok_of (by decide +kernel)), (ok_of (by decide +kernel)), (by decide +kernel), (by decide +kernel), (by decide +kernel), (okIs_of (by decide +kernel)), (okU_of (by decide +kernel))⟩

theorem w_TileReduceResults_8 : 
    let p := (Instr.tscanMax, true)
    ∃ x, ∃ (s : State), ∃ a, ∃ s1, ∃ dst, ∃ s2, ∃ t, Issues (p.1 x) s ∧ tileSrc 1 x.a s = .ok a s1 ∧ tileDst x s1 = .ok dst s2 ∧ 
    let d := dst.desc
    
    let q := a.desc
    redTypes (! p.2) q.typ d.typ = true ∧ d.rows = q.rows ∧ d.cols = q.cols ∧ checkOverlap dst [a] false s2 = .ok () s2 ∧ (runFull dst (fun i => do
      let ra ← a.row q.typ q.cols i
      pure ((List.range d.vcols).map fun j =>
        let es := ra.take (if x.mod.getLsbD 2 then j else j + 1)
        if p.2 then (if es.isEmpty then lowest q.typ else extremeElems q.typ true es)
        else sumElems q.typ d.typ (rmOf x) (satOf x) es)) s2 = .ok () t) :=
  ⟨ar 0x24#8 0x21#8 0#8 0#4 0#20, wT, _, _, _, _, _, (issues_of (by decide +kernel)), (ok_of (by decide +kernel)), (ok_of (by decide +kernel)), (by decide +kernel), (by decide +kernel), (by decide +kernel), (okIs_of (by decide +kernel)), (okU_of (by decide +kernel))⟩

theorem w_TilePermuteResults_1 : 
    let types (d a : Desc) : Prop := a.typ = d.typ ∧ typOk d.typ = true
    ∃ x, ∃ (s : State), ∃ a, ∃ s1, ∃ dst, ∃ s2, ∃ t, Issues (.ttrn x) s ∧ tileSrc 1 x.a s = .ok a s1 ∧ tileDst x s1 = .ok dst s2 ∧ types dst.desc a.desc ∧ a.shaped dst.desc.cols dst.desc.rows = true ∧ checkOverlap dst [a] true s2 = .ok () s2 ∧ (runFull dst (fun i => do
      let rs ← a.all
      pure ((List.range dst.desc.vcols).map fun j => (rs.getD j []).getD i 0)) s2 = .ok () t) :=
  ⟨ar 0x24#8 0x21#8 0#8 0#4 0#20, wT, _, _, _, _, _, (issues_of (by decide +kernel)), (ok_of (by decide +kernel)), (ok_of (by decide +kernel)), (by decide +kernel), (by decide +kernel), (okIs_of (by decide +kernel)), (okU_of (by decide +kernel))⟩

theorem w_TilePermuteResults_2 : 
    let types (d a : Desc) : Prop := a.typ = d.typ ∧ typOk d.typ = true
    ∃ x, ∃ (s : State), ∃ a, ∃ b, ∃ s1, ∃ s2, ∃ dst, ∃ s3, ∃ t, Issues (.tperm x) s ∧ tileSrc 1 x.a s = .ok a s1 ∧ tileSrc 2 x.b s1 = .ok b s2 ∧ tileDst x s2 = .ok dst s3 ∧ types dst.desc a.desc ∧ isINTA b.desc.typ = true ∧ a.desc.rows = dst.desc.rows ∧ b.shaped 1 dst.desc.cols = true ∧ checkOverlap dst [a, b] false s3 = .ok () s3 ∧ (runFull dst (fun i => do
      let ra ← a.row dst.desc.typ a.desc.cols i
      let rb ← b.row b.desc.typ dst.desc.cols 0
      pure ((rb.take dst.desc.vcols).map fun k => atIndex ra (intVal b.desc.typ k))) s3 = .ok () t) :=
  ⟨ar 0x24#8 0x21#8 0x26#8 0#4 0#20, wT, _, _, _, _, _, _, _, (issues_of (by decide +kernel)), (ok_of (by decide +kernel)), (ok_of (by decide +kernel)), (ok_of (by decide +kernel)), (by decide +kernel), (by decide +kernel), (by decide +kernel), (by decide +kernel), (okIs_of (by decide +kernel)), (okU_of (by decide +kernel))⟩

theorem w_TilePermuteResults_3 : 
    let types (d a : Desc) : Prop := a.typ = d.typ ∧ typOk d.typ = true
    ∃ x, ∃ (s : State), ∃ a, ∃ b, ∃ s1, ∃ s2, ∃ dst, ∃ s3, ∃ t, Issues (.tshuf x) s ∧ tileSrc 1 x.a s = .ok a s1 ∧ tileSrc 2 x.b s1 = .ok b s2 ∧ tileDst x s2 = .ok dst s3 ∧ types dst.desc a.desc ∧ isINTA b.desc.typ = true ∧ a.desc.cols = dst.desc.cols ∧ b.shaped dst.desc.rows 1 = true ∧ checkOverlap dst [a, b] true s3 = .ok () s3 ∧ (runFull dst (fun i => do
      let rb ← b.row b.desc.typ 1 i
      let k := intVal b.desc.typ (rb.getD 0 0)
      if k < 0 ∨ (a.desc.rows : Int) ≤ k then pure (List.replicate dst.desc.cols 0) else a.row dst.desc.typ dst.desc.cols k.toNat) s3 =
      .ok () t) :=
  ⟨ar 0x24#8 0x21#8 0x26#8 0#4 0#20, wT, _, _, _, _, _, _, _, (issues_of (by decide +kernel)), (ok_of (by decide +kernel)), (ok_of (by decide +kernel)), (ok_of (by decide +kernel)), (by decide +kernel), (by decide +kernel), (by decide +kernel), (by decide +kernel), (okIs_of (by decide +kernel)), (okU_of (by decide +kernel))⟩

theorem w_TilePermuteResults_4 : 
    let types (d a : Desc) : Prop := a.typ = d.typ ∧ typOk d.typ = true
    ∃ x, ∃ (s : State), ∃ a, ∃ b, ∃ s1, ∃ s2, ∃ dst, ∃ s3, ∃ t, Issues (.tgath x) s ∧ tileSrc 1 x.a s = .ok a s1 ∧ tileSrc 2 x.b s1 = .ok b s2 ∧ tileDst x s2 = .ok dst s3 ∧ types dst.desc a.desc ∧ isINTA b.desc.typ = true ∧ a.desc.rows = dst.desc.rows ∧ b.shaped dst.desc.rows dst.desc.cols = true ∧ checkOverlap dst [a, b] false s3 = .ok () s3 ∧ (runFull dst (fun i => do
      let ra ← a.row dst.desc.typ a.desc.cols i
      let rb ← b.row b.desc.typ dst.desc.cols i
      pure ((rb.take dst.desc.vcols).map fun k => atIndex ra (intVal b.desc.typ k))) s3 = .ok () t) :=
  ⟨ar 0x24#8 0x21#8 0x26#8 0#4 0#20, wT, _, _, _, _, _, _, _, (issues_of (by decide +kernel)), (ok_of (by decide +kernel)), (ok_of (by decide +kernel)), (ok_of (by decide +kernel)), (by decide +kernel), (by decide +kernel), (by decide +kernel), (by decide +kernel), (okIs_of (by decide +kernel)), (okU_of (by decide +kernel))⟩

theorem w_TilePermuteResults_5 : 
    let types (d a : Desc) : Prop := a.typ = d.typ ∧ typOk d.typ = true
    ∃ x, ∃ (s : State), ∃ a, ∃ b, ∃ s1, ∃ s2, ∃ dst, ∃ s3, ∃ t, Issues (.tscat x) s ∧ tileSrc 1 x.a s = .ok a s1 ∧ tileSrc 2 x.b s1 = .ok b s2 ∧ tileDst x s2 = .ok dst s3 ∧ types dst.desc a.desc ∧ isINTA b.desc.typ = true ∧ a.desc.rows = dst.desc.rows ∧ b.shaped a.desc.rows a.desc.cols = true ∧ checkOverlap dst [a, b] false s3 = .ok () s3 ∧ (runRows dst (fun i => do
      let ra ← a.row dst.desc.typ a.desc.cols i
      let rb ← b.row b.desc.typ a.desc.cols i
      pure ((List.range dst.desc.cols).map fun j => (List.range ra.length).foldl
        (fun r k => if (rb.map (intVal b.desc.typ)).getD k (-1) = Int.ofNat j then some (ra.getD k 0) else r) none)) s3 = .ok () t) :=
  ⟨ar 0x24#8 0x21#8 0x26#8 0#4 0#20, wT, _, _, _, _, _, _, _, (issues_of (by decide +kernel)), (ok_of (by decide +kernel)), (ok_of (by decide +kernel)), (ok_of (by decide +kernel)), (by decide +kernel), (by decide +kernel), (by decide +kernel), (by decide +kernel), (okIs_of (by decide +kernel)), (okU_of (by decide +kernel))⟩

theorem w_TilePermuteResults_6 : 
    let types (d a : Desc) : Prop := a.typ = d.typ ∧ typOk d.typ = true
    ∃ x, ∃ (s : State), ∃ a, ∃ s1, ∃ dst, ∃ s2, ∃ t, Issues (.tbcr x) s ∧ tileSrc 1 x.a s = .ok a s1 ∧ tileDst x s1 = .ok dst s2 ∧ types dst.desc a.desc ∧ a.shaped 1 dst.desc.cols = true ∧ checkOverlap dst [a] true s2 = .ok () s2 ∧ (runFull dst (fun _ => a.row dst.desc.typ dst.desc.cols 0) s2 = .ok () t) :=
  ⟨ar 0x24#8 0x21#8 0#8 0#4 0#20, wT, _, _, _, _, _, (issues_of (by decide +kernel)), (ok_of (by decide +kernel)), (ok_of (by decide +kernel)), (by decide +kernel), (by decide +kernel), (okIs_of (by decide +kernel)), (okU_of (by decide +kernel))⟩

theorem w_TilePermuteResults_7 : 
    let types (d a : Desc) : Prop := a.typ = d.typ ∧ typOk d.typ = true
    ∃ x, ∃ (s : State), ∃ a, ∃ s1, ∃ dst, ∃ s2, ∃ t, Issues (.tbcc x) s ∧ tileSrc 1 x.a s = .ok a s1 ∧ tileDst x s1 = .ok dst s2 ∧ types dst.desc a.desc ∧ a.shaped dst.desc.rows 1 = true ∧ checkOverlap dst [a] false s2 = .ok () s2 ∧ (runFull dst (fun i => do
      let ra ← a.row dst.desc.typ 1 i
      pure (List.replicate dst.desc.vcols (ra.getD 0 0))) s2 = .ok () t) :=
  ⟨ar 0x24#8 0x21#8 0#8 0#4 0#20, wT, _, _, _, _, _, (issues_of (by decide +kernel)), (ok_of (by decide +kernel)), (ok_of (by decide +kernel)), (by decide +kernel), (by decide +kernel), (okIs_of (by decide +kernel)), (okU_of (by decide +kernel))⟩

theorem w_TilePermuteResults_8 : ∃ x, ∃ (s : State), ∃ a, ∃ s1, ∃ dst, ∃ s2, ∃ t, Issues (.tbcs x) s ∧ readSrc 1 x.a s = .ok a s1 ∧ tileDst x s1 = .ok dst s2 ∧ (isFPA dst.desc.typ || isINTA dst.desc.typ) = true ∧ (runFull dst (fun _ => pure (List.replicate dst.desc.vcols (cvtElem (if x.mod.getLsbD 2 then 0 else 0x0E) dst.desc.typ (rmOf x) (satOf x) a.toNat))) s2 = .ok () t) :=
  ⟨ar 0x24#8 1#8 0#8 0#4 0#20, wT, _, _, _, _, _, (issues_of (by decide +kernel)), (ok_of (by decide +kernel)), (ok_of (by decide +kernel)), (by decide +kernel), (okU_of (by decide +kernel))⟩

theorem w_TileMoveResults_1 : 
    let types (d a : Desc) : Prop := a.typ = d.typ ∧ typOk d.typ = true
    ∃ x, ∃ (s : State), ∃ a, ∃ s1, ∃ dst, ∃ s2, ∃ t, Issues (.tmov x) s ∧ tileSrc 1 x.a s = .ok a s1 ∧ tileDst x s1 = .ok dst s2 ∧ types dst.desc a.desc ∧ a.shaped dst.desc.rows dst.desc.cols = true ∧ checkOverlap dst [a] false s2 = .ok () s2 ∧ (runFull dst (fun i => a.row dst.desc.typ dst.desc.cols i) s2 = .ok () t) :=
  ⟨ar 0x24#8 0x21#8 0#8 0#4 0#20, wT, _, _, _, _, _, (issues_of (by decide +kernel)), (ok_of (by decide +kernel)), (ok_of (by decide +kernel)), (by decide +kernel), (by decide +kernel), (okIs_of (by decide +kernel)), (okU_of (by decide +kernel))⟩

theorem w_TileMoveResults_2 : 
    let types (d a : Desc) : Prop := a.typ = d.typ ∧ typOk d.typ = true
    ∃ x, ∃ (s : State), ∃ a, ∃ b, ∃ s1, ∃ s2, ∃ dst, ∃ s3, ∃ t, Issues (.text x) s ∧ tileSrc 1 x.a s = .ok a s1 ∧ readSrc 2 x.b s1 = .ok b s2 ∧ tileDst x s2 = .ok dst s3 ∧ types dst.desc a.desc ∧ Word.bits b 32 32 = 0 ∧ checkOverlap dst [a] true s3 = .ok () s3 ∧ (runFull dst (fun i =>
      if a.desc.rows ≤ Word.bits b 16 16 + i then pure (List.replicate dst.desc.vcols 0)
      else do
        let ra ← a.row dst.desc.typ a.desc.cols (Word.bits b 16 16 + i)
        pure ((List.range dst.desc.vcols).map fun j => ra.getD (Word.bits b 0 16 + j) 0)) s3 = .ok () t) :=
  ⟨ar 0x24#8 0x21#8 2#8 0#4 0#20, wT, _, _, _, _, _, _, _, (issues_of (by decide +kernel)), (ok_of (by decide +kernel)), (ok_of (by decide +kernel)), (ok_of (by decide +kernel)), (by decide +kernel), (by decide +kernel), (okIs_of (by decide +kernel)), (okU_of (by decide +kernel))⟩

theorem w_TileMoveResults_3 : 
    let types (d a : Desc) : Prop := a.typ = d.typ ∧ typOk d.typ = true
    ∃ x, ∃ (s : State), ∃ a, ∃ b, ∃ s1, ∃ s2, ∃ dst, ∃ s3, ∃ t, Issues (.tins x) s ∧ tileSrc 1 x.a s = .ok a s1 ∧ readSrc 2 x.b s1 = .ok b s2 ∧ tileDst x s2 = .ok dst s3 ∧ types dst.desc a.desc ∧ Word.bits b 32 32 = 0 ∧ checkOverlap dst [a] true s3 = .ok () s3 ∧ (runRows dst (fun i =>
      if i < Word.bits b 16 16 ∨ Word.bits b 16 16 + a.desc.rows ≤ i then pure []
      else do
        let ra ← a.row dst.desc.typ a.desc.cols (i - Word.bits b 16 16)
        pure ((List.range dst.desc.vcols).map fun j =>
          if j < Word.bits b 0 16 ∨ Word.bits b 0 16 + a.desc.cols ≤ j then none else some (ra.getD (j - Word.bits b 0 16) 0))) s3 = .ok () t) :=
  ⟨ar 0x24#8 0x21#8 2#8 0#4 0#20, wT, _, _, _, _, _, _, _, (issues_of (by decide +kernel)), (ok_of (by decide +kernel)), (ok_of (by decide +kernel)), (ok_of (by decide +kernel)), (by decide +kernel), (by decide +kernel), (okIs_of (by decide +kernel)), (okU_of (by decide +kernel))⟩

theorem w_TileMoveResults_4 : ∃ x, ∃ (s : State), ∃ a, ∃ b, ∃ s1, ∃ s2, ∃ dst, ∃ s3, ∃ t, Issues (.tiota x) s ∧ readSrc 1 x.a s = .ok a s1 ∧ readSrc 2 x.b s1 = .ok b s2 ∧ tileDst x s2 = .ok dst s3 ∧ (isFPA dst.desc.typ || isINTS dst.desc.typ) = true ∧ (runFull dst (fun i => pure ((List.range dst.desc.vcols).map fun j =>
      let v := a.toInt + Int.ofNat i * b.toInt + Int.ofNat j
      if isINTS dst.desc.typ then cvtInt dst.desc.typ (satOf x) v else cvtReal dst.desc.typ (rmOf x) (satOf x) (FV.ofInt v))) s3 = .ok () t) :=
  ⟨ar 0x24#8 1#8 2#8 0#4 0#20, wT, _, _, _, _, _, _, _, (issues_of (by decide +kernel)), (ok_of (by decide +kernel)), (ok_of (by decide +kernel)), (ok_of (by decide +kernel)), (by decide +kernel), (okU_of (by decide +kernel))⟩

theorem w_TileMoveResults_5 : ∃ x, ∃ (s : State), ∃ a, ∃ s1, ∃ dst, ∃ s2, ∃ t, Issues (.tfill x) s ∧ readSrc 1 x.a s = .ok a s1 ∧ tileDst x s1 = .ok dst s2 ∧ dst.desc.typ ≠ 0x15 ∧ (runFull dst (fun _ => pure (List.replicate dst.desc.vcols (a.toNat % 2 ^ dst.desc.bits))) s2 = .ok () t) :=
  ⟨ar 0x24#8 1#8 0#8 0#4 0#20, wT, _, _, _, _, _, (issues_of (by decide +kernel)), (ok_of (by decide +kernel)), (ok_of (by decide +kernel)), (by decide +kernel), (okU_of (by decide +kernel))⟩

theorem w_TileMemoryResults_1 : ∃ x, ∃ (s : State), ∃ a, ∃ b, ∃ s1, ∃ s2, ∃ dst, ∃ s3, ∃ t, Issues (.tld x) s ∧ readSrc 1 x.a s = .ok a s1 ∧ readSrc 2 x.b s1 = .ok b s2 ∧ tileDst x s2 = .ok dst s3 ∧ imageChecks x dst.desc a b false s3 = .ok () s3 ∧ (runFull dst (fun i => do
      let bs ← readPieces .plain (x.mod.getLsbD 0) a.toNat
        (imagePieces dst.desc (x.mod.getLsbD 1) b.toInt i (dst.desc.span dst.desc.vcols))
      pure (elemsOf dst.desc.bits dst.desc.vcols bs)) s3 = .ok () t) :=
  ⟨ar 0x24#8 3#8 7#8 0#4 0#20, wT, _, _, _, _, _, _, _, (issues_of (by decide +kernel)), (ok_of (by decide +kernel)), (ok_of (by decide +kernel)), (ok_of (by decide +kernel)), (okIs_of (by decide +kernel)), (okU_of (by decide +kernel))⟩

theorem w_TileMemoryResults_2 : ∃ x, ∃ (s : State), ∃ a, ∃ b, ∃ s1, ∃ s2, ∃ src, ∃ s3, ∃ s4, ∃ s5, Issues (.tst x) s ∧ readSrc 1 x.a s = .ok a s1 ∧ readSrc 2 x.b s1 = .ok b s2 ∧ tileSrc 0 x.d s2 = .ok src s3 ∧ 
    let d := src.desc
    
    let n := d.span d.vcols
    imageChecks x d a b true s3 = .ok () s3 ∧ (s3.hart s3.cur).restartHere.cursor = 0 ∧ (rowsFrom 0 d.vrows (fun i => do
      let es ← src.row d.typ d.cols i
      writePieces .plain (x.mod.getLsbD 0) a.toNat (imagePieces d (x.mod.getLsbD 1) b.toInt i n)
        (layElems d.bits (List.replicate n 0#8) ((es.take d.vcols).map some))) s3 = .ok () s4) ∧ clearAnswers s4.cur s4 = .ok () s5 :=
  ⟨ar 0x24#8 3#8 7#8 0#4 0#20, wT, _, _, _, _, _, _, _, _, (issues_of (by decide +kernel)), (ok_of (by decide +kernel)), (ok_of (by decide +kernel)), (ok_of (by decide +kernel)), (okIs_of (by decide +kernel)), (by decide +kernel), (okU_of (by decide +kernel)), (okU_of (by decide +kernel))⟩

theorem w_TileMemoryResults_3 : ∃ x, ∃ (s : State), ∃ a, ∃ b, ∃ s1, ∃ s2, ∃ dst, ∃ s3, ∃ t, Issues (.tld x) s ∧ readSrc 1 x.a s = .ok a s1 ∧ readSrc 2 x.b s1 = .ok b s2 ∧ tileDst x s2 = .ok dst s3 ∧ x.mod.getLsbD 1 = true ∧ a.toNat % 64 ≠ 0 ∧ takeException s3.cur 0x143#10 (.at a) s3 = .ok () t :=
  ⟨ar 0x24#8 1#8 0#8 2#4 0#20, wT, _, _, _, _, _, _, _, (issues_of (by decide +kernel)), (ok_of (by decide +kernel)), (ok_of (by decide +kernel)), (ok_of (by decide +kernel)), (by decide +kernel), (by decide +kernel), (okU_of (by decide +kernel))⟩

theorem w_StampGates_1 : ∃ z, ∃ tr, ∃ p, p ∈ mfForms z tr ∧ ∃ x, ∃ (s : State), ∃ q, ∃ t, Issues (p.1 x) s ∧ x.stamp = some q ∧ (s.hart s.cur).grant = false ∧ 
    let w := timed x s
    s.locked s.cur.coreNo = false ∧ takeException w.cur 0x181#10 .plain w = .ok () t :=
  ⟨0#1, 0#1, (.accclr, .port, fun x => some (x.x.d.toNat - 0x88)), (List.mem_of_getElem? (i := 10) rfl), cst 3#48, wM, _, _, (issues_of (by decide +kernel)), rfl, (by decide +kernel), (by decide +kernel), (okU_of (by decide +kernel))⟩

theorem w_StampGates_2 : ∃ z, ∃ tr, ∃ p, p ∈ mfForms z tr ∧ ∃ x, ∃ (s : State), ∃ q, ∃ t, Issues (p.1 x) s ∧ x.stamp = some q ∧ (s.hart s.cur).grant = false ∧ 
    let j := s.job s.cur.coreNo
    
    let w := timed x s
    s.locked s.cur.coreNo = true ∧ (q.s.toNat < j.j ∨ (q.s.toNat = j.j ∧ j.j < j.units.next p.2.1)) ∧ takeException w.cur 0x182#10 .plain w = .ok () t :=
  ⟨0#1, 0#1, (.accclr, .port, fun x => some (x.x.d.toNat - 0x88)), (List.mem_of_getElem? (i := 10) rfl), cst 3#48, wLock, _, _, (issues_of (by decide +kernel)), rfl, (by decide +kernel), (by decide +kernel), (by decide +kernel), (okU_of (by decide +kernel))⟩

theorem w_StampGates_3 : ∃ z, ∃ tr, ∃ p, p ∈ mfForms z tr ∧ ∃ x, ∃ (s : State), ∃ q, Issues (p.1 x) s ∧ x.stamp = some q ∧ (s.hart s.cur).grant = false ∧ 
    let j := s.job s.cur.coreNo
    s.locked s.cur.coreNo = true ∧ j.j < q.s.toNat :=
  ⟨0#1, 0#1, (.accclr, .port, fun x => some (x.x.d.toNat - 0x88)), (List.mem_of_getElem? (i := 10) rfl), cst 9#48, wLock, _, (issues_of (by decide +kernel)), rfl, (by decide +kernel), (by decide +kernel), (by decide +kernel)⟩

theorem w_StampGates_4 : ∃ z, ∃ tr, ∃ p, p ∈ mfForms z tr ∧ ∃ x, ∃ (s : State), ∃ q, ∃ t, Issues (p.1 x) s ∧ x.stamp = some q ∧ (s.hart s.cur).grant = false ∧ 
    let j := s.job s.cur.coreNo
    
    let w := timed x s
    s.locked s.cur.coreNo = true ∧ q.s.toNat = j.j ∧ j.units.next p.2.1 ≤ j.j ∧ j.j < j.units.free p.2.1 (p.2.2 x) ∧ takeException w.cur 0x180#10 .plain w = .ok () t :=
  ⟨0#1, 0#1, (.accclr, .port, fun x => some (x.x.d.toNat - 0x88)), (List.mem_of_getElem? (i := 10) rfl), cst 5#48, wBusy, _, _, (issues_of (by decide +kernel)), rfl, (by decide +kernel), (by decide +kernel), (by decide +kernel), (by decide +kernel), (by decide +kernel), (okU_of (by decide +kernel))⟩

theorem w_WaitGates_1 : ∃ z, ∃ tr, ∃ p, p ∈ mfForms z tr ∧ ∃ x, ∃ (s : State), Issues (p.1 x) s ∧ x.stamp = none ∧ 
    let c := s.cur.coreNo
    
    let cl := clauses x s
    ∃ ref, ∃ v, ∃ u, ∃ t, badRef c cl s = .ok (some ref) v ∧ dropCommand c (agentNo s.cur % 8) (s.hart s.cur).pc cl ref v = .ok () u ∧ retire 2 u = .ok () t :=
  ⟨0#1, 0#1, (.accclr, .port, fun x => some (x.x.d.toNat - 0x88)), (List.mem_of_getElem? (i := 10) rfl), cwt 0x107#9 0#24, wM, (issues_of (by decide +kernel)), (by decide +kernel), 0#64, _, _, _, (okV_of (by decide +kernel)), (okU_of (by decide +kernel)), (okU_of (by decide +kernel))⟩

theorem w_WaitGates_2 : ∃ z, ∃ tr, ∃ p, p ∈ mfForms z tr ∧ ∃ x, ∃ (s : State), Issues (p.1 x) s ∧ x.stamp = none ∧ 
    let c := s.cur.coreNo
    
    let cl := clauses x s
    ∃ v, ∃ f, ∃ w, ∃ u, ∃ t, badRef c cl s = .ok none v ∧ waitState (.hart (agentNo s.cur)) c cl v = .ok (.poisoned f) w ∧ (s.hart s.cur).restartHere.opnds = [] ∧ signalPoison c cl f w = .ok () u ∧ retire 2 u = .ok () t :=
  ⟨0#1, 0#1, (.accclr, .port, fun x => some (x.x.d.toNat - 0x88)), (List.mem_of_getElem? (i := 10) rfl), cwt 4#9 0#24, wMbad, (issues_of (by decide +kernel)), (by decide +kernel), _, 0x102#10, _, _, _, (okV_of (by decide +kernel)), (okV_of (by decide +kernel)), (by decide +kernel), (okU_of (by decide +kernel)), (okU_of (by decide +kernel))⟩

theorem w_WaitGates_3 : ∃ z, ∃ tr, ∃ p, p ∈ mfForms z tr ∧ ∃ x, ∃ (s : State), Issues (p.1 x) s ∧ x.stamp = none ∧ 
    let c := s.cur.coreNo
    
    let cl := clauses x s
    ∃ v, ∃ w, ∃ r, badRef c cl s = .ok none v ∧ waitState (.hart (agentNo s.cur)) c cl v = .ok .unmet w ∧ cl.wait = some r ∧ (s.hart s.cur).restartHere.opnds = [] :=
  ⟨0#1, 0#1, (.accclr, .port, fun x => some (x.x.d.toNat - 0x88)), (List.mem_of_getElem? (i := 10) rfl), cwt 4#9 9#24, wM, (issues_of (by decide +kernel)), (by decide +kernel), _, _, .core 4, (okV_of (by decide +kernel)), (okV_of (by decide +kernel)), (by decide +kernel), (by decide +kernel)⟩

theorem w_EngineEntry_1 : ∃ (s : State), (Map.wf (fun _ => Core.reset) s.cores = true) :=
  ⟨wM, (by decide +kernel)⟩

theorem w_MmaResults_1 : ∃ x, ∃ (s : State), ∃ s0, ∃ rels, ∃ a, ∃ b, ∃ sa, ∃ sb, ∃ s1, ∃ s2, ∃ s3, ∃ s4, ∃ ra, ∃ rb, ∃ rsa, ∃ rsb, ∃ s5, ∃ s6, ∃ s7, ∃ s8, Issues (.mmaFp8 x) s ∧ 
    let y := x.c.x
    mfSrc 1 y.a s0 = .ok a s1 ∧ mfSrc 2 y.b s1 = .ok b s2 ∧ (mfSrc 3 (if true then y.c else 0#8) s2 = .ok sa s3) ∧ (mfSrc 4 (if true then y.sb else 0#8) s3 = .ok sb s4) ∧ a.desc.v = true ∧ b.desc.v = true ∧ sa.desc.v = true ∧ sb.desc.v = true ∧ (((fun t => t == 4 || t == 5) : Nat → Bool) a.desc.typ = true) ∧ (b.isTile = false ∨ ((fun t => t == 4 || t == 5) : Nat → Bool) b.desc.typ = true) ∧ (sa.isTile = false ∨ sa.desc.typ = 9 ∨ sa.desc.typ = 4) ∧ (sb.isTile = false ∨ sb.desc.typ = 9 ∨ sb.desc.typ = 4) ∧ 
    let m := a.desc.rows
    
    let k := a.desc.cols
    
    let tr := x.t == 1#1
    
    let n := if ! b.isTile then 0 else if tr then b.desc.rows else b.desc.cols
    
    let gran := if true then (y.imm.extractLsb' 16 2).toNat else 0
    (b.isTile = false ∨ ((if tr then b.desc.cols else b.desc.rows) = k ∧ n ≤ 384)) ∧ m ≤ 128 ∧ sa.shaped (scaleShape gran m k).1 (scaleShape gran m k).2 = true ∧ (b.isTile = false ∨ sb.shaped (scaleShape gran n k).1 (scaleShape gran n k).2 = true) ∧ 
    let floor := floorOf x.c s rels
    capture floor a s4 = .ok ra s5 ∧ capture floor b s5 = .ok rb s6 ∧ captureOpt floor sa s6 = .ok rsa s7 ∧ captureOpt floor sb s7 = .ok rsb s8 ∧ 
    let bank := y.d.toNat - 0x88
    x.p = 0#1 ∧ b.isTile = true ∧ Passes x.c .array (some bank) s s0 rels ∧ ∃ uu, ∃ tt, (enterEngine s8.cur.coreNo (⟨.array, some bank, ((fun k => k) : Nat → Nat) k, ((fun k => k) : Nat → Nat) k + 8, ((fun k => k) : Nat → Nat) k + 8⟩ : Timing) { op := (.mma 0xC0 (x.z == 1#1) tr false bank ra rb rsa rsb gran), cursor := 0, units := k, ckind := 2, cl := clauses x.c s, pc := (s8.hart s8.cur).pc, push := none, visible := 0, exact := false, gs := [] } s8 = .ok () uu) ∧ retire (cmdSlots x.c) uu = .ok () tt :=
  ⟨⟨0#1, 0#1, 0#1, cx (ar 0x88#8 0x21#8 0x22#8 0#4 0#20)⟩, wMma 4, wMma 4, [], _, _, _, _, _, _, _, _, _, _, _, _, _, _, _, _, (issues_of (by decide +kernel)), (ok_of (by decide +kernel)), (ok_of (by decide +kernel)), (ok_of (by decide +kernel)), (ok_of (by decide +kernel)), (by decide +kernel), (by decide +kernel), (by decide +kernel), (by decide +kernel), (by decide +kernel), (by decide +kernel), (by decide +kernel), (by decide +kernel), (by decide +kernel), (by decide +kernel), (by decide +kernel), (by decide +kernel), (ok_of (by decide +kernel)), (ok_of (by decide +kernel)), (ok_of (by decide +kernel)), (ok_of (by decide +kernel)), (by decide +kernel), (by decide +kernel), (passes_of (by decide +kernel)), _, _, (okU_of (by decide +kernel)), (okU_of (by decide +kernel))⟩

theorem w_MmaResults_2 : ∃ x, ∃ (s : State), ∃ s0, ∃ rels, ∃ a, ∃ b, ∃ sa, ∃ sb, ∃ s1, ∃ s2, ∃ s3, ∃ s4, ∃ ra, ∃ rb, ∃ rsa, ∃ rsb, ∃ s5, ∃ s6, ∃ s7, ∃ s8, Issues (.mmaFp8 x) s ∧ 
    let y := x.c.x
    mfSrc 1 y.a s0 = .ok a s1 ∧ mfSrc 2 y.b s1 = .ok b s2 ∧ (mfSrc 3 (if true then y.c else 0#8) s2 = .ok sa s3) ∧ (mfSrc 4 (if true then y.sb else 0#8) s3 = .ok sb s4) ∧ a.desc.v = true ∧ b.desc.v = true ∧ sa.desc.v = true ∧ sb.desc.v = true ∧ (((fun t => t == 4 || t == 5) : Nat → Bool) a.desc.typ = true) ∧ (b.isTile = false ∨ ((fun t => t == 4 || t == 5) : Nat → Bool) b.desc.typ = true) ∧ (sa.isTile = false ∨ sa.desc.typ = 9 ∨ sa.desc.typ = 4) ∧ (sb.isTile = false ∨ sb.desc.typ = 9 ∨ sb.desc.typ = 4) ∧ 
    let m := a.desc.rows
    
    let k := a.desc.cols
    
    let tr := x.t == 1#1
    
    let n := if ! b.isTile then 0 else if tr then b.desc.rows else b.desc.cols
    
    let gran := if true then (y.imm.extractLsb' 16 2).toNat else 0
    (b.isTile = false ∨ ((if tr then b.desc.cols else b.desc.rows) = k ∧ n ≤ 384)) ∧ m ≤ 128 ∧ sa.shaped (scaleShape gran m k).1 (scaleShape gran m k).2 = true ∧ (b.isTile = false ∨ sb.shaped (scaleShape gran n k).1 (scaleShape gran n k).2 = true) ∧ 
    let floor := floorOf x.c s rels
    capture floor a s4 = .ok ra s5 ∧ capture floor b s5 = .ok rb s6 ∧ captureOpt floor sa s6 = .ok rsa s7 ∧ captureOpt floor sb s7 = .ok rsb s8 ∧ x.p = 1#1 ∧ WaitMet x.c s s s0 rels :=
  ⟨⟨0#1, 1#1, 0#1, cx (ar 0x88#8 0x21#8 0x22#8 0#4 0#20)⟩, wMma 4, wMma 4, [], _, _, _, _, _, _, _, _, _, _, _, _, _, _, _, _, (issues_of (by decide +kernel)), (ok_of (by decide +kernel)), (ok_of (by decide +kernel)), (ok_of (by decide +kernel)), (ok_of (by decide +kernel)), (by decide +kernel), (by decide +kernel), (by decide +kernel), (by decide +kernel), (by decide +kernel), (by decide +kernel), (by decide +kernel), (by decide +kernel), (by decide +kernel), (by decide +kernel), (by decide +kernel), (by decide +kernel), (ok_of (by decide +kernel)), (ok_of (by decide +kernel)), (ok_of (by decide +kernel)), (ok_of (by decide +kernel)), (by decide +kernel), (waitMet_of (by decide +kernel))⟩

theorem w_MmaResults_3 : ∃ x, ∃ (s : State), ∃ s0, ∃ rels, ∃ a, ∃ b, ∃ sa, ∃ sb, ∃ s1, ∃ s2, ∃ s3, ∃ s4, ∃ ra, ∃ rb, ∃ rsa, ∃ rsb, ∃ s5, ∃ s6, ∃ s7, ∃ s8, Issues (.mmaFp6 x) s ∧ 
    let y := x.c.x
    mfSrc 1 y.a s0 = .ok a s1 ∧ mfSrc 2 y.b s1 = .ok b s2 ∧ (mfSrc 3 (if true then y.c else 0#8) s2 = .ok sa s3) ∧ (mfSrc 4 (if true then y.sb else 0#8) s3 = .ok sb s4) ∧ a.desc.v = true ∧ b.desc.v = true ∧ sa.desc.v = true ∧ sb.desc.v = true ∧ (((fun t => t == 6 || t == 7) : Nat → Bool) a.desc.typ = true) ∧ (b.isTile = false ∨ ((fun t => t == 6 || t == 7) : Nat → Bool) b.desc.typ = true) ∧ (sa.isTile = false ∨ sa.desc.typ = 9 ∨ sa.desc.typ = 4) ∧ (sb.isTile = false ∨ sb.desc.typ = 9 ∨ sb.desc.typ = 4) ∧ 
    let m := a.desc.rows
    
    let k := a.desc.cols
    
    let tr := x.t == 1#1
    
    let n := if ! b.isTile then 0 else if tr then b.desc.rows else b.desc.cols
    
    let gran := if true then (y.imm.extractLsb' 16 2).toNat else 0
    (b.isTile = false ∨ ((if tr then b.desc.cols else b.desc.rows) = k ∧ n ≤ 384)) ∧ m ≤ 128 ∧ sa.shaped (scaleShape gran m k).1 (scaleShape gran m k).2 = true ∧ (b.isTile = false ∨ sb.shaped (scaleShape gran n k).1 (scaleShape gran n k).2 = true) ∧ 
    let floor := floorOf x.c s rels
    capture floor a s4 = .ok ra s5 ∧ capture floor b s5 = .ok rb s6 ∧ captureOpt floor sa s6 = .ok rsa s7 ∧ captureOpt floor sb s7 = .ok rsb s8 ∧ 
    let bank := y.d.toNat - 0x88
    x.p = 0#1 ∧ b.isTile = true ∧ Passes x.c .array (some bank) s s0 rels ∧ ∃ uu, ∃ tt, (enterEngine s8.cur.coreNo (⟨.array, some bank, ((fun k => (k + 1) / 2) : Nat → Nat) k, ((fun k => (k + 1) / 2) : Nat → Nat) k + 8, ((fun k => (k + 1) / 2) : Nat → Nat) k + 8⟩ : Timing) { op := (.mma 0xC1 (x.z == 1#1) tr false bank ra rb rsa rsb gran), cursor := 0, units := k, ckind := 2, cl := clauses x.c s, pc := (s8.hart s8.cur).pc, push := none, visible := 0, exact := false, gs := [] } s8 = .ok () uu) ∧ retire (cmdSlots x.c) uu = .ok () tt :=
  ⟨⟨0#1, 0#1, 0#1, cx (ar 0x88#8 0x21#8 0x22#8 0#4 0#20)⟩, wMma 6, wMma 6, [], _, _, _, _, _, _, _, _, _, _, _, _, _, _, _, _, (issues_of (by decide +kernel)), (ok_of (by decide +kernel)), (ok_of (by decide +kernel)), (ok_of (by decide +kernel)), (ok_of (by decide +kernel)), (by decide +kernel), (by decide +kernel), (by decide +kernel), (by decide +kernel), (by decide +kernel), (by decide +kernel), (by decide +kernel), (by decide +kernel), (by decide +kernel), (by decide +kernel), (by decide +kernel), (by decide +kernel), (ok_of (by decide +kernel)), (ok_of (by decide +kernel)), (ok_of (by decide +kernel)), (ok_of (by decide +kernel)), (by decide +kernel), (by decide +kernel), (passes_of (by decide +kernel)), _, _, (okU_of (by decide +kernel)), (okU_of (by decide +kernel))⟩

theorem w_MmaResults_4 : ∃ x, ∃ (s : State), ∃ s0, ∃ rels, ∃ a, ∃ b, ∃ sa, ∃ sb, ∃ s1, ∃ s2, ∃ s3, ∃ s4, ∃ ra, ∃ rb, ∃ rsa, ∃ rsb, ∃ s5, ∃ s6, ∃ s7, ∃ s8, Issues (.mmaFp6 x) s ∧ 
    let y := x.c.x
    mfSrc 1 y.a s0 = .ok a s1 ∧ mfSrc 2 y.b s1 = .ok b s2 ∧ (mfSrc 3 (if true then y.c else 0#8) s2 = .ok sa s3) ∧ (mfSrc 4 (if true then y.sb else 0#8) s3 = .ok sb s4) ∧ a.desc.v = true ∧ b.desc.v = true ∧ sa.desc.v = true ∧ sb.desc.v = true ∧ (((fun t => t == 6 || t == 7) : Nat → Bool) a.desc.typ = true) ∧ (b.isTile = false ∨ ((fun t => t == 6 || t == 7) : Nat → Bool) b.desc.typ = true) ∧ (sa.isTile = false ∨ sa.desc.typ = 9 ∨ sa.desc.typ = 4) ∧ (sb.isTile = false ∨ sb.desc.typ = 9 ∨ sb.desc.typ = 4) ∧ 
    let m := a.desc.rows
    
    let k := a.desc.cols
    
    let tr := x.t == 1#1
    
    let n := if ! b.isTile then 0 else if tr then b.desc.rows else b.desc.cols
    
    let gran := if true then (y.imm.extractLsb' 16 2).toNat else 0
    (b.isTile = false ∨ ((if tr then b.desc.cols else b.desc.rows) = k ∧ n ≤ 384)) ∧ m ≤ 128 ∧ sa.shaped (scaleShape gran m k).1 (scaleShape gran m k).2 = true ∧ (b.isTile = false ∨ sb.shaped (scaleShape gran n k).1 (scaleShape gran n k).2 = true) ∧ 
    let floor := floorOf x.c s rels
    capture floor a s4 = .ok ra s5 ∧ capture floor b s5 = .ok rb s6 ∧ captureOpt floor sa s6 = .ok rsa s7 ∧ captureOpt floor sb s7 = .ok rsb s8 ∧ x.p = 1#1 ∧ WaitMet x.c s s s0 rels :=
  ⟨⟨0#1, 1#1, 0#1, cx (ar 0x88#8 0x21#8 0x22#8 0#4 0#20)⟩, wMma 6, wMma 6, [], _, _, _, _, _, _, _, _, _, _, _, _, _, _, _, _, (issues_of (by decide +kernel)), (ok_of (by decide +kernel)), (ok_of (by decide +kernel)), (ok_of (by decide +kernel)), (ok_of (by decide +kernel)), (by decide +kernel), (by decide +kernel), (by decide +kernel), (by decide +kernel), (by decide +kernel), (by decide +kernel), (by decide +kernel), (by decide +kernel), (by decide +kernel), (by decide +kernel), (by decide +kernel), (by decide +kernel), (ok_of (by decide +kernel)), (ok_of (by decide +kernel)), (ok_of (by decide +kernel)), (ok_of (by decide +kernel)), (by decide +kernel), (waitMet_of (by decide +kernel))⟩

theorem w_MmaResults_5 : ∃ x, ∃ (s : State), ∃ s0, ∃ rels, ∃ a, ∃ b, ∃ sa, ∃ sb, ∃ s1, ∃ s2, ∃ s3, ∃ s4, ∃ ra, ∃ rb, ∃ rsa, ∃ rsb, ∃ s5, ∃ s6, ∃ s7, ∃ s8, Issues (.mmaFp4 x) s ∧ 
    let y := x.c.x
    mfSrc 1 y.a s0 = .ok a s1 ∧ mfSrc 2 y.b s1 = .ok b s2 ∧ (mfSrc 3 (if true then y.c else 0#8) s2 = .ok sa s3) ∧ (mfSrc 4 (if true then y.sb else 0#8) s3 = .ok sb s4) ∧ a.desc.v = true ∧ b.desc.v = true ∧ sa.desc.v = true ∧ sb.desc.v = true ∧ (((fun t => t == 8) : Nat → Bool) a.desc.typ = true) ∧ (b.isTile = false ∨ ((fun t => t == 8) : Nat → Bool) b.desc.typ = true) ∧ (sa.isTile = false ∨ sa.desc.typ = 9 ∨ sa.desc.typ = 4) ∧ (sb.isTile = false ∨ sb.desc.typ = 9 ∨ sb.desc.typ = 4) ∧ 
    let m := a.desc.rows
    
    let k := a.desc.cols
    
    let tr := x.t == 1#1
    
    let n := if ! b.isTile then 0 else if tr then b.desc.rows else b.desc.cols
    
    let gran := if true then (y.imm.extractLsb' 16 2).toNat else 0
    (b.isTile = false ∨ ((if tr then b.desc.cols else b.desc.rows) = k ∧ n ≤ 384)) ∧ m ≤ 128 ∧ sa.shaped (scaleShape gran m k).1 (scaleShape gran m k).2 = true ∧ (b.isTile = false ∨ sb.shaped (scaleShape gran n k).1 (scaleShape gran n k).2 = true) ∧ 
    let floor := floorOf x.c s rels
    capture floor a s4 = .ok ra s5 ∧ capture floor b s5 = .ok rb s6 ∧ captureOpt floor sa s6 = .ok rsa s7 ∧ captureOpt floor sb s7 = .ok rsb s8 ∧ 
    let bank := y.d.toNat - 0x88
    x.p = 0#1 ∧ b.isTile = true ∧ Passes x.c .array (some bank) s s0 rels ∧ ∃ uu, ∃ tt, (enterEngine s8.cur.coreNo (⟨.array, some bank, ((fun k => (k + 1) / 2) : Nat → Nat) k, ((fun k => (k + 1) / 2) : Nat → Nat) k + 8, ((fun k => (k + 1) / 2) : Nat → Nat) k + 8⟩ : Timing) { op := (.mma 0xC2 (x.z == 1#1) tr false bank ra rb rsa rsb gran), cursor := 0, units := k, ckind := 2, cl := clauses x.c s, pc := (s8.hart s8.cur).pc, push := none, visible := 0, exact := false, gs := [] } s8 = .ok () uu) ∧ retire (cmdSlots x.c) uu = .ok () tt :=
  ⟨⟨0#1, 0#1, 0#1, cx (ar 0x88#8 0x21#8 0x22#8 0#4 0#20)⟩, wMma 8, wMma 8, [], _, _, _, _, _, _, _, _, _, _, _, _, _, _, _, _, (issues_of (by decide +kernel)), (ok_of (by decide +kernel)), (ok_of (by decide +kernel)), (ok_of (by decide +kernel)), (ok_of (by decide +kernel)), (by decide +kernel), (by decide +kernel), (by decide +kernel), (by decide +kernel), (by decide +kernel), (by decide +kernel), (by decide +kernel), (by decide +kernel), (by decide +kernel), (by decide +kernel), (by decide +kernel), (by decide +kernel), (ok_of (by decide +kernel)), (ok_of (by decide +kernel)), (ok_of (by decide +kernel)), (ok_of (by decide +kernel)), (by decide +kernel), (by decide +kernel), (passes_of (by decide +kernel)), _, _, (okU_of (by decide +kernel)), (okU_of (by decide +kernel))⟩

theorem w_MmaResults_6 : ∃ x, ∃ (s : State), ∃ s0, ∃ rels, ∃ a, ∃ b, ∃ sa, ∃ sb, ∃ s1, ∃ s2, ∃ s3, ∃ s4, ∃ ra, ∃ rb, ∃ rsa, ∃ rsb, ∃ s5, ∃ s6, ∃ s7, ∃ s8, Issues (.mmaFp4 x) s ∧ 
    let y := x.c.x
    mfSrc 1 y.a s0 = .ok a s1 ∧ mfSrc 2 y.b s1 = .ok b s2 ∧ (mfSrc 3 (if true then y.c else 0#8) s2 = .ok sa s3) ∧ (mfSrc 4 (if true then y.sb else 0#8) s3 = .ok sb s4) ∧ a.desc.v = true ∧ b.desc.v = true ∧ sa.desc.v = true ∧ sb.desc.v = true ∧ (((fun t => t == 8) : Nat → Bool) a.desc.typ = true) ∧ (b.isTile = false ∨ ((fun t => t == 8) : Nat → Bool) b.desc.typ = true) ∧ (sa.isTile = false ∨ sa.desc.typ = 9 ∨ sa.desc.typ = 4) ∧ (sb.isTile = false ∨ sb.desc.typ = 9 ∨ sb.desc.typ = 4) ∧ 
    let m := a.desc.rows
    
    let k := a.desc.cols
    
    let tr := x.t == 1#1
    
    let n := if ! b.isTile then 0 else if tr then b.desc.rows else b.desc.cols
    
    let gran := if true then (y.imm.extractLsb' 16 2).toNat else 0
    (b.isTile = false ∨ ((if tr then b.desc.cols else b.desc.rows) = k ∧ n ≤ 384)) ∧ m ≤ 128 ∧ sa.shaped (scaleShape gran m k).1 (scaleShape gran m k).2 = true ∧ (b.isTile = false ∨ sb.shaped (scaleShape gran n k).1 (scaleShape gran n k).2 = true) ∧ 
    let floor := floorOf x.c s rels
    capture floor a s4 = .ok ra s5 ∧ capture floor b s5 = .ok rb s6 ∧ captureOpt floor sa s6 = .ok rsa s7 ∧ captureOpt floor sb s7 = .ok rsb s8 ∧ x.p = 1#1 ∧ WaitMet x.c s s s0 rels :=
  ⟨⟨0#1, 1#1, 0#1, cx (ar 0x88#8 0x21#8 0x22#8 0#4 0#20)⟩, wMma 8, wMma 8, [], _, _, _, _, _, _, _, _, _, _, _, _, _, _, _, _, (issues_of (by decide +kernel)), (ok_of (by decide +kernel)), (ok_of (by decide +kernel)), (ok_of (by decide +kernel)), (ok_of (by decide +kernel)), (by decide +kernel), (by decide +kernel), (by decide +kernel), (by decide +kernel), (by decide +kernel), (by decide +kernel), (by decide +kernel), (by decide +kernel), (by decide +kernel), (by decide +kernel), (by decide +kernel), (by decide +kernel), (ok_of (by decide +kernel)), (ok_of (by decide +kernel)), (ok_of (by decide +kernel)), (ok_of (by decide +kernel)), (by decide +kernel), (waitMet_of (by decide +kernel))⟩

theorem w_MmaResults_7 : ∃ x, ∃ (s : State), ∃ s0, ∃ rels, ∃ a, ∃ b, ∃ sa, ∃ sb, ∃ s1, ∃ s2, ∃ s3, ∃ s4, ∃ ra, ∃ rb, ∃ rsa, ∃ rsb, ∃ s5, ∃ s6, ∃ s7, ∃ s8, Issues (.mmaBf16 x) s ∧ 
    let y := x.c.x
    mfSrc 1 y.a s0 = .ok a s1 ∧ mfSrc 2 y.b s1 = .ok b s2 ∧ (mfSrc 3 (if false then y.c else 0#8) s2 = .ok sa s3) ∧ (mfSrc 4 (if false then y.sb else 0#8) s3 = .ok sb s4) ∧ a.desc.v = true ∧ b.desc.v = true ∧ sa.desc.v = true ∧ sb.desc.v = true ∧ (((fun t => t == 2) : Nat → Bool) a.desc.typ = true) ∧ (b.isTile = false ∨ ((fun t => t == 2) : Nat → Bool) b.desc.typ = true) ∧ (sa.isTile = false ∨ sa.desc.typ = 9 ∨ sa.desc.typ = 4) ∧ (sb.isTile = false ∨ sb.desc.typ = 9 ∨ sb.desc.typ = 4) ∧ 
    let m := a.desc.rows
    
    let k := a.desc.cols
    
    let tr := x.t == 1#1
    
    let n := if ! b.isTile then 0 else if tr then b.desc.rows else b.desc.cols
    
    let gran := if false then (y.imm.extractLsb' 16 2).toNat else 0
    (b.isTile = false ∨ ((if tr then b.desc.cols else b.desc.rows) = k ∧ n ≤ 384)) ∧ m ≤ 128 ∧ sa.shaped (scaleShape gran m k).1 (scaleShape gran m k).2 = true ∧ (b.isTile = false ∨ sb.shaped (scaleShape gran n k).1 (scaleShape gran n k).2 = true) ∧ 
    let floor := floorOf x.c s rels
    capture floor a s4 = .ok ra s5 ∧ capture floor b s5 = .ok rb s6 ∧ captureOpt floor sa s6 = .ok rsa s7 ∧ captureOpt floor sb s7 = .ok rsb s8 ∧ 
    let bank := y.d.toNat - 0x88
    x.p = 0#1 ∧ b.isTile = true ∧ Passes x.c .array (some bank) s s0 rels ∧ ∃ uu, ∃ tt, (enterEngine s8.cur.coreNo (⟨.array, some bank, ((fun k => 2 * k) : Nat → Nat) k, ((fun k => 2 * k) : Nat → Nat) k + 8, ((fun k => 2 * k) : Nat → Nat) k + 8⟩ : Timing) { op := (.mma 0xC3 (x.z == 1#1) tr false bank ra rb rsa rsb gran), cursor := 0, units := k, ckind := 2, cl := clauses x.c s, pc := (s8.hart s8.cur).pc, push := none, visible := 0, exact := false, gs := [] } s8 = .ok () uu) ∧ retire (cmdSlots x.c) uu = .ok () tt :=
  ⟨⟨0#1, 0#1, 0#1, cx (ar 0x88#8 0x21#8 0x22#8 0#4 0#20)⟩, wMma 2, wMma 2, [], _, _, _, _, _, _, _, _, _, _, _, _, _, _, _, _, (issues_of (by decide +kernel)), (ok_of (by decide +kernel)), (ok_of (by decide +kernel)), (ok_of (by decide +kernel)), (ok_of (by decide +kernel)), (by decide +kernel), (by decide +kernel), (by decide +kernel), (by decide +kernel), (by decide +kernel), (by decide +kernel), (by decide +kernel), (by decide +kernel), (by decide +kernel), (by decide +kernel), (by decide +kernel), (by decide +kernel), (ok_of (by decide +kernel)), (ok_of (by decide +kernel)), (ok_of (by decide +kernel)), (ok_of (by decide +kernel)), (by decide +kernel), (by decide +kernel), (passes_of (by decide +kernel)), _, _, (okU_of (by decide +kernel)), (okU_of (by decide +kernel))⟩

theorem w_MmaResults_8 : ∃ x, ∃ (s : State), ∃ s0, ∃ rels, ∃ a, ∃ b, ∃ sa, ∃ sb, ∃ s1, ∃ s2, ∃ s3, ∃ s4, ∃ ra, ∃ rb, ∃ rsa, ∃ rsb, ∃ s5, ∃ s6, ∃ s7, ∃ s8, Issues (.mmaBf16 x) s ∧ 
    let y := x.c.x
    mfSrc 1 y.a s0 = .ok a s1 ∧ mfSrc 2 y.b s1 = .ok b s2 ∧ (mfSrc 3 (if false then y.c else 0#8) s2 = .ok sa s3) ∧ (mfSrc 4 (if false then y.sb else 0#8) s3 = .ok sb s4) ∧ a.desc.v = true ∧ b.desc.v = true ∧ sa.desc.v = true ∧ sb.desc.v = true ∧ (((fun t => t == 2) : Nat → Bool) a.desc.typ = true) ∧ (b.isTile = false ∨ ((fun t => t == 2) : Nat → Bool) b.desc.typ = true) ∧ (sa.isTile = false ∨ sa.desc.typ = 9 ∨ sa.desc.typ = 4) ∧ (sb.isTile = false ∨ sb.desc.typ = 9 ∨ sb.desc.typ = 4) ∧ 
    let m := a.desc.rows
    
    let k := a.desc.cols
    
    let tr := x.t == 1#1
    
    let n := if ! b.isTile then 0 else if tr then b.desc.rows else b.desc.cols
    
    let gran := if false then (y.imm.extractLsb' 16 2).toNat else 0
    (b.isTile = false ∨ ((if tr then b.desc.cols else b.desc.rows) = k ∧ n ≤ 384)) ∧ m ≤ 128 ∧ sa.shaped (scaleShape gran m k).1 (scaleShape gran m k).2 = true ∧ (b.isTile = false ∨ sb.shaped (scaleShape gran n k).1 (scaleShape gran n k).2 = true) ∧ 
    let floor := floorOf x.c s rels
    capture floor a s4 = .ok ra s5 ∧ capture floor b s5 = .ok rb s6 ∧ captureOpt floor sa s6 = .ok rsa s7 ∧ captureOpt floor sb s7 = .ok rsb s8 ∧ x.p = 1#1 ∧ WaitMet x.c s s s0 rels :=
  ⟨⟨0#1, 1#1, 0#1, cx (ar 0x88#8 0x21#8 0x22#8 0#4 0#20)⟩, wMma 2, wMma 2, [], _, _, _, _, _, _, _, _, _, _, _, _, _, _, _, _, (issues_of (by decide +kernel)), (ok_of (by decide +kernel)), (ok_of (by decide +kernel)), (ok_of (by decide +kernel)), (ok_of (by decide +kernel)), (by decide +kernel), (by decide +kernel), (by decide +kernel), (by decide +kernel), (by decide +kernel), (by decide +kernel), (by decide +kernel), (by decide +kernel), (by decide +kernel), (by decide +kernel), (by decide +kernel), (by decide +kernel), (ok_of (by decide +kernel)), (ok_of (by decide +kernel)), (ok_of (by decide +kernel)), (ok_of (by decide +kernel)), (by decide +kernel), (waitMet_of (by decide +kernel))⟩

theorem w_MmaResults_9 : ∃ x, ∃ (s : State), ∃ s0, ∃ rels, ∃ a, ∃ b, ∃ sa, ∃ sb, ∃ s1, ∃ s2, ∃ s3, ∃ s4, ∃ ra, ∃ rb, ∃ rsa, ∃ rsb, ∃ s5, ∃ s6, ∃ s7, ∃ s8, Issues (.mmaFp16 x) s ∧ 
    let y := x.c.x
    mfSrc 1 y.a s0 = .ok a s1 ∧ mfSrc 2 y.b s1 = .ok b s2 ∧ (mfSrc 3 (if false then y.c else 0#8) s2 = .ok sa s3) ∧ (mfSrc 4 (if false then y.sb else 0#8) s3 = .ok sb s4) ∧ a.desc.v = true ∧ b.desc.v = true ∧ sa.desc.v = true ∧ sb.desc.v = true ∧ (((fun t => t == 3) : Nat → Bool) a.desc.typ = true) ∧ (b.isTile = false ∨ ((fun t => t == 3) : Nat → Bool) b.desc.typ = true) ∧ (sa.isTile = false ∨ sa.desc.typ = 9 ∨ sa.desc.typ = 4) ∧ (sb.isTile = false ∨ sb.desc.typ = 9 ∨ sb.desc.typ = 4) ∧ 
    let m := a.desc.rows
    
    let k := a.desc.cols
    
    let tr := x.t == 1#1
    
    let n := if ! b.isTile then 0 else if tr then b.desc.rows else b.desc.cols
    
    let gran := if false then (y.imm.extractLsb' 16 2).toNat else 0
    (b.isTile = false ∨ ((if tr then b.desc.cols else b.desc.rows) = k ∧ n ≤ 384)) ∧ m ≤ 128 ∧ sa.shaped (scaleShape gran m k).1 (scaleShape gran m k).2 = true ∧ (b.isTile = false ∨ sb.shaped (scaleShape gran n k).1 (scaleShape gran n k).2 = true) ∧ 
    let floor := floorOf x.c s rels
    capture floor a s4 = .ok ra s5 ∧ capture floor b s5 = .ok rb s6 ∧ captureOpt floor sa s6 = .ok rsa s7 ∧ captureOpt floor sb s7 = .ok rsb s8 ∧ 
    let bank := y.d.toNat - 0x88
    x.p = 0#1 ∧ b.isTile = true ∧ Passes x.c .array (some bank) s s0 rels ∧ ∃ uu, ∃ tt, (enterEngine s8.cur.coreNo (⟨.array, some bank, ((fun k => 2 * k) : Nat → Nat) k, ((fun k => 2 * k) : Nat → Nat) k + 8, ((fun k => 2 * k) : Nat → Nat) k + 8⟩ : Timing) { op := (.mma 0xC4 (x.z == 1#1) tr false bank ra rb rsa rsb gran), cursor := 0, units := k, ckind := 2, cl := clauses x.c s, pc := (s8.hart s8.cur).pc, push := none, visible := 0, exact := false, gs := [] } s8 = .ok () uu) ∧ retire (cmdSlots x.c) uu = .ok () tt :=
  ⟨⟨0#1, 0#1, 0#1, cx (ar 0x88#8 0x21#8 0x22#8 0#4 0#20)⟩, wMma 3, wMma 3, [], _, _, _, _, _, _, _, _, _, _, _, _, _, _, _, _, (issues_of (by decide +kernel)), (ok_of (by decide +kernel)), (ok_of (by decide +kernel)), (ok_of (by decide +kernel)), (ok_of (by decide +kernel)), (by decide +kernel), (by decide +kernel), (by decide +kernel), (by decide +kernel), (by decide +kernel), (by decide +kernel), (by decide +kernel), (by decide +kernel), (by decide +kernel), (by decide +kernel), (by decide +kernel), (by decide +kernel), (ok_of (by decide +kernel)), (ok_of (by decide +kernel)), (ok_of (by decide +kernel)), (ok_of (by decide +kernel)), (by decide +kernel), (by decide +kernel), (passes_of (by decide +kernel)), _, _, (okU_of (by decide +kernel)), (okU_of (by decide +kernel))⟩

theorem w_MmaResults_10 : ∃ x, ∃ (s : State), ∃ s0, ∃ rels, ∃ a, ∃ b, ∃ sa, ∃ sb, ∃ s1, ∃ s2, ∃ s3, ∃ s4, ∃ ra, ∃ rb, ∃ rsa, ∃ rsb, ∃ s5, ∃ s6, ∃ s7, ∃ s8, Issues (.mmaFp16 x) s ∧ 
    let y := x.c.x
    mfSrc 1 y.a s0 = .ok a s1 ∧ mfSrc 2 y.b s1 = .ok b s2 ∧ (mfSrc 3 (if false then y.c else 0#8) s2 = .ok sa s3) ∧ (mfSrc 4 (if false then y.sb else 0#8) s3 = .ok sb s4) ∧ a.desc.v = true ∧ b.desc.v = true ∧ sa.desc.v = true ∧ sb.desc.v = true ∧ (((fun t => t == 3) : Nat → Bool) a.desc.typ = true) ∧ (b.isTile = false ∨ ((fun t => t == 3) : Nat → Bool) b.desc.typ = true) ∧ (sa.isTile = false ∨ sa.desc.typ = 9 ∨ sa.desc.typ = 4) ∧ (sb.isTile = false ∨ sb.desc.typ = 9 ∨ sb.desc.typ = 4) ∧ 
    let m := a.desc.rows
    
    let k := a.desc.cols
    
    let tr := x.t == 1#1
    
    let n := if ! b.isTile then 0 else if tr then b.desc.rows else b.desc.cols
    
    let gran := if false then (y.imm.extractLsb' 16 2).toNat else 0
    (b.isTile = false ∨ ((if tr then b.desc.cols else b.desc.rows) = k ∧ n ≤ 384)) ∧ m ≤ 128 ∧ sa.shaped (scaleShape gran m k).1 (scaleShape gran m k).2 = true ∧ (b.isTile = false ∨ sb.shaped (scaleShape gran n k).1 (scaleShape gran n k).2 = true) ∧ 
    let floor := floorOf x.c s rels
    capture floor a s4 = .ok ra s5 ∧ capture floor b s5 = .ok rb s6 ∧ captureOpt floor sa s6 = .ok rsa s7 ∧ captureOpt floor sb s7 = .ok rsb s8 ∧ x.p = 1#1 ∧ WaitMet x.c s s s0 rels :=
  ⟨⟨0#1, 1#1, 0#1, cx (ar 0x88#8 0x21#8 0x22#8 0#4 0#20)⟩, wMma 3, wMma 3, [], _, _, _, _, _, _, _, _, _, _, _, _, _, _, _, _, (issues_of (by decide +kernel)), (ok_of (by decide +kernel)), (ok_of (by decide +kernel)), (ok_of (by decide +kernel)), (ok_of (by decide +kernel)), (by decide +kernel), (by decide +kernel), (by decide +kernel), (by decide +kernel), (by decide +kernel), (by decide +kernel), (by decide +kernel), (by decide +kernel), (by decide +kernel), (by decide +kernel), (by decide +kernel), (by decide +kernel), (ok_of (by decide +kernel)), (ok_of (by decide +kernel)), (ok_of (by decide +kernel)), (ok_of (by decide +kernel)), (by decide +kernel), (waitMet_of (by decide +kernel))⟩

theorem w_MmaResults_11 : ∃ x, ∃ (s : State), ∃ s0, ∃ rels, ∃ a, ∃ b, ∃ sa, ∃ sb, ∃ s1, ∃ s2, ∃ s3, ∃ s4, ∃ ra, ∃ rb, ∃ rsa, ∃ rsb, ∃ s5, ∃ s6, ∃ s7, ∃ s8, Issues (.mmaFp32 x) s ∧ 
    let y := x.c.x
    mfSrc 1 y.a s0 = .ok a s1 ∧ mfSrc 2 y.b s1 = .ok b s2 ∧ (mfSrc 3 (if false then y.c else 0#8) s2 = .ok sa s3) ∧ (mfSrc 4 (if false then y.sb else 0#8) s3 = .ok sb s4) ∧ a.desc.v = true ∧ b.desc.v = true ∧ sa.desc.v = true ∧ sb.desc.v = true ∧ (((fun t => t == 1) : Nat → Bool) a.desc.typ = true) ∧ (b.isTile = false ∨ ((fun t => t == 1) : Nat → Bool) b.desc.typ = true) ∧ (sa.isTile = false ∨ sa.desc.typ = 9 ∨ sa.desc.typ = 4) ∧ (sb.isTile = false ∨ sb.desc.typ = 9 ∨ sb.desc.typ = 4) ∧ 
    let m := a.desc.rows
    
    let k := a.desc.cols
    
    let tr := x.t == 1#1
    
    let n := if ! b.isTile then 0 else if tr then b.desc.rows else b.desc.cols
    
    let gran := if false then (y.imm.extractLsb' 16 2).toNat else 0
    (b.isTile = false ∨ ((if tr then b.desc.cols else b.desc.rows) = k ∧ n ≤ 384)) ∧ m ≤ 128 ∧ sa.shaped (scaleShape gran m k).1 (scaleShape gran m k).2 = true ∧ (b.isTile = false ∨ sb.shaped (scaleShape gran n k).1 (scaleShape gran n k).2 = true) ∧ 
    let floor := floorOf x.c s rels
    capture floor a s4 = .ok ra s5 ∧ capture floor b s5 = .ok rb s6 ∧ captureOpt floor sa s6 = .ok rsa s7 ∧ captureOpt floor sb s7 = .ok rsb s8 ∧ 
    let bank := y.d.toNat - 0x88
    x.p = 0#1 ∧ b.isTile = true ∧ Passes x.c .array (some bank) s s0 rels ∧ ∃ uu, ∃ tt, (enterEngine s8.cur.coreNo (⟨.array, some bank, ((fun k => 4 * k) : Nat → Nat) k, ((fun k => 4 * k) : Nat → Nat) k + 8, ((fun k => 4 * k) : Nat → Nat) k + 8⟩ : Timing) { op := (.mma 0xC5 (x.z == 1#1) tr false bank ra rb rsa rsb gran), cursor := 0, units := k, ckind := 2, cl := clauses x.c s, pc := (s8.hart s8.cur).pc, push := none, visible := 0, exact := false, gs := [] } s8 = .ok () uu) ∧ retire (cmdSlots x.c) uu = .ok () tt :=
  ⟨⟨0#1, 0#1, 0#1, cx (ar 0x88#8 0x21#8 0x22#8 0#4 0#20)⟩, wMma 1, wMma 1, [], _, _, _, _, _, _, _, _, _, _, _, _, _, _, _, _, (issues_of (by decide +kernel)), (ok_of (by decide +kernel)), (ok_of (by decide +kernel)), (ok_of (by decide +kernel)), (ok_of (by decide +kernel)), (by decide +kernel), (by decide +kernel), (by decide +kernel), (by decide +kernel), (by decide +kernel), (by decide +kernel), (by decide +kernel), (by decide +kernel), (by decide +kernel), (by decide +kernel), (by decide +kernel), (by decide +kernel), (ok_of (by decide +kernel)), (ok_of (by decide +kernel)), (ok_of (by decide +kernel)), (ok_of (by decide +kernel)), (by decide +kernel), (by decide +kernel), (passes_of (by decide +kernel)), _, _, (okU_of (by decide +kernel)), (okU_of (by decide +kernel))⟩

theorem w_MmaResults_12 : ∃ x, ∃ (s : State), ∃ s0, ∃ rels, ∃ a, ∃ b, ∃ sa, ∃ sb, ∃ s1, ∃ s2, ∃ s3, ∃ s4, ∃ ra, ∃ rb, ∃ rsa, ∃ rsb, ∃ s5, ∃ s6, ∃ s7, ∃ s8, Issues (.mmaFp32 x) s ∧ 
    let y := x.c.x
    mfSrc 1 y.a s0 = .ok a s1 ∧ mfSrc 2 y.b s1 = .ok b s2 ∧ (mfSrc 3 (if false then y.c else 0#8) s2 = .ok sa s3) ∧ (mfSrc 4 (if false then y.sb else 0#8) s3 = .ok sb s4) ∧ a.desc.v = true ∧ b.desc.v = true ∧ sa.desc.v = true ∧ sb.desc.v = true ∧ (((fun t => t == 1) : Nat → Bool) a.desc.typ = true) ∧ (b.isTile = false ∨ ((fun t => t == 1) : Nat → Bool) b.desc.typ = true) ∧ (sa.isTile = false ∨ sa.desc.typ = 9 ∨ sa.desc.typ = 4) ∧ (sb.isTile = false ∨ sb.desc.typ = 9 ∨ sb.desc.typ = 4) ∧ 
    let m := a.desc.rows
    
    let k := a.desc.cols
    
    let tr := x.t == 1#1
    
    let n := if ! b.isTile then 0 else if tr then b.desc.rows else b.desc.cols
    
    let gran := if false then (y.imm.extractLsb' 16 2).toNat else 0
    (b.isTile = false ∨ ((if tr then b.desc.cols else b.desc.rows) = k ∧ n ≤ 384)) ∧ m ≤ 128 ∧ sa.shaped (scaleShape gran m k).1 (scaleShape gran m k).2 = true ∧ (b.isTile = false ∨ sb.shaped (scaleShape gran n k).1 (scaleShape gran n k).2 = true) ∧ 
    let floor := floorOf x.c s rels
    capture floor a s4 = .ok ra s5 ∧ capture floor b s5 = .ok rb s6 ∧ captureOpt floor sa s6 = .ok rsa s7 ∧ captureOpt floor sb s7 = .ok rsb s8 ∧ x.p = 1#1 ∧ WaitMet x.c s s s0 rels :=
  ⟨⟨0#1, 1#1, 0#1, cx (ar 0x88#8 0x21#8 0x22#8 0#4 0#20)⟩, wMma 1, wMma 1, [], _, _, _, _, _, _, _, _, _, _, _, _, _, _, _, _, (issues_of (by decide +kernel)), (ok_of (by decide +kernel)), (ok_of (by decide +kernel)), (ok_of (by decide +kernel)), (ok_of (by decide +kernel)), (by decide +kernel), (by decide +kernel), (by decide +kernel), (by decide +kernel), (by decide +kernel), (by decide +kernel), (by decide +kernel), (by decide +kernel), (by decide +kernel), (by decide +kernel), (by decide +kernel), (by decide +kernel), (ok_of (by decide +kernel)), (ok_of (by decide +kernel)), (ok_of (by decide +kernel)), (ok_of (by decide +kernel)), (by decide +kernel), (waitMet_of (by decide +kernel))⟩

theorem w_MmaResults_13 : ∃ x, ∃ (s : State), ∃ s0, ∃ rels, ∃ a, ∃ b, ∃ sa, ∃ sb, ∃ s1, ∃ s2, ∃ s3, ∃ s4, ∃ ra, ∃ rb, ∃ rsa, ∃ rsb, ∃ s5, ∃ s6, ∃ s7, ∃ s8, Issues (.mmaFp64 x) s ∧ 
    let y := x.c.x
    mfSrc 1 y.a s0 = .ok a s1 ∧ mfSrc 2 y.b s1 = .ok b s2 ∧ (mfSrc 3 (if false then y.c else 0#8) s2 = .ok sa s3) ∧ (mfSrc 4 (if false then y.sb else 0#8) s3 = .ok sb s4) ∧ a.desc.v = true ∧ b.desc.v = true ∧ sa.desc.v = true ∧ sb.desc.v = true ∧ (((fun t => t == 0) : Nat → Bool) a.desc.typ = true) ∧ (b.isTile = false ∨ ((fun t => t == 0) : Nat → Bool) b.desc.typ = true) ∧ (sa.isTile = false ∨ sa.desc.typ = 9 ∨ sa.desc.typ = 4) ∧ (sb.isTile = false ∨ sb.desc.typ = 9 ∨ sb.desc.typ = 4) ∧ 
    let m := a.desc.rows
    
    let k := a.desc.cols
    
    let tr := x.t == 1#1
    
    let n := if ! b.isTile then 0 else if tr then b.desc.rows else b.desc.cols
    
    let gran := if false then (y.imm.extractLsb' 16 2).toNat else 0
    (b.isTile = false ∨ ((if tr then b.desc.cols else b.desc.rows) = k ∧ n ≤ 192)) ∧ m ≤ 128 ∧ sa.shaped (scaleShape gran m k).1 (scaleShape gran m k).2 = true ∧ (b.isTile = false ∨ sb.shaped (scaleShape gran n k).1 (scaleShape gran n k).2 = true) ∧ 
    let floor := floorOf x.c s rels
    capture floor a s4 = .ok ra s5 ∧ capture floor b s5 = .ok rb s6 ∧ captureOpt floor sa s6 = .ok rsa s7 ∧ captureOpt floor sb s7 = .ok rsb s8 ∧ 
    let bank := y.d.toNat - 0x88
    x.p = 0#1 ∧ b.isTile = true ∧ Passes x.c .array (some bank) s s0 rels ∧ ∃ uu, ∃ tt, (enterEngine s8.cur.coreNo (⟨.array, some bank, ((fun k => 8 * k) : Nat → Nat) k, ((fun k => 8 * k) : Nat → Nat) k + 8, ((fun k => 8 * k) : Nat → Nat) k + 8⟩ : Timing) { op := (.mma 0xC6 (x.z == 1#1) tr false bank ra rb rsa rsb gran), cursor := 0, units := k, ckind := 2, cl := clauses x.c s, pc := (s8.hart s8.cur).pc, push := none, visible := 0, exact := false, gs := [] } s8 = .ok () uu) ∧ retire (cmdSlots x.c) uu = .ok () tt :=
  ⟨⟨0#1, 0#1, 0#1, cx (ar 0x88#8 0x21#8 0x22#8 0#4 0#20)⟩, wMma 0, wMma 0, [], _, _, _, _, _, _, _, _, _, _, _, _, _, _, _, _, (issues_of (by decide +kernel)), (ok_of (by decide +kernel)), (ok_of (by decide +kernel)), (ok_of (by decide +kernel)), (ok_of (by decide +kernel)), (by decide +kernel), (by decide +kernel), (by decide +kernel), (by decide +kernel), (by decide +kernel), (by decide +kernel), (by decide +kernel), (by decide +kernel), (by decide +kernel), (by decide +kernel), (by decide +kernel), (by decide +kernel), (ok_of (by decide +kernel)), (ok_of (by decide +kernel)), (ok_of (by decide +kernel)), (ok_of (by decide +kernel)), (by decide +kernel), (by decide +kernel), (passes_of (by decide +kernel)), _, _, (okU_of (by decide +kernel)), (okU_of (by decide +kernel))⟩

theorem w_MmaResults_14 : ∃ x, ∃ (s : State), ∃ s0, ∃ rels, ∃ a, ∃ b, ∃ sa, ∃ sb, ∃ s1, ∃ s2, ∃ s3, ∃ s4, ∃ ra, ∃ rb, ∃ rsa, ∃ rsb, ∃ s5, ∃ s6, ∃ s7, ∃ s8, Issues (.mmaFp64 x) s ∧ 
    let y := x.c.x
    mfSrc 1 y.a s0 = .ok a s1 ∧ mfSrc 2 y.b s1 = .ok b s2 ∧ (mfSrc 3 (if false then y.c else 0#8) s2 = .ok sa s3) ∧ (mfSrc 4 (if false then y.sb else 0#8) s3 = .ok sb s4) ∧ a.desc.v = true ∧ b.desc.v = true ∧ sa.desc.v = true ∧ sb.desc.v = true ∧ (((fun t => t == 0) : Nat → Bool) a.desc.typ = true) ∧ (b.isTile = false ∨ ((fun t => t == 0) : Nat → Bool) b.desc.typ = true) ∧ (sa.isTile = false ∨ sa.desc.typ = 9 ∨ sa.desc.typ = 4) ∧ (sb.isTile = false ∨ sb.desc.typ = 9 ∨ sb.desc.typ = 4) ∧ 
    let m := a.desc.rows
    
    let k := a.desc.cols
    
    let tr := x.t == 1#1
    
    let n := if ! b.isTile then 0 else if tr then b.desc.rows else b.desc.cols
    
    let gran := if false then (y.imm.extractLsb' 16 2).toNat else 0
    (b.isTile = false ∨ ((if tr then b.desc.cols else b.desc.rows) = k ∧ n ≤ 192)) ∧ m ≤ 128 ∧ sa.shaped (scaleShape gran m k).1 (scaleShape gran m k).2 = true ∧ (b.isTile = false ∨ sb.shaped (scaleShape gran n k).1 (scaleShape gran n k).2 = true) ∧ 
    let floor := floorOf x.c s rels
    capture floor a s4 = .ok ra s5 ∧ capture floor b s5 = .ok rb s6 ∧ captureOpt floor sa s6 = .ok rsa s7 ∧ captureOpt floor sb s7 = .ok rsb s8 ∧ x.p = 1#1 ∧ WaitMet x.c s s s0 rels :=
  ⟨⟨0#1, 1#1, 0#1, cx (ar 0x88#8 0x21#8 0x22#8 0#4 0#20)⟩, wMma 0, wMma 0, [], _, _, _, _, _, _, _, _, _, _, _, _, _, _, _, _, (issues_of (by decide +kernel)), (ok_of (by decide +kernel)), (ok_of (by decide +kernel)), (ok_of (by decide +kernel)), (ok_of (by decide +kernel)), (by decide +kernel), (by decide +kernel), (by decide +kernel), (by decide +kernel), (by decide +kernel), (by decide +kernel), (by decide +kernel), (by decide +kernel), (by decide +kernel), (by decide +kernel), (by decide +kernel), (by decide +kernel), (ok_of (by decide +kernel)), (ok_of (by decide +kernel)), (ok_of (by decide +kernel)), (ok_of (by decide +kernel)), (by decide +kernel), (waitMet_of (by decide +kernel))⟩

theorem w_MmaResults_15 : ∃ x, ∃ (s : State), ∃ s0, ∃ rels, ∃ a, ∃ b, ∃ sa, ∃ sb, ∃ s1, ∃ s2, ∃ s3, ∃ s4, ∃ ra, ∃ rb, ∃ rsa, ∃ rsb, ∃ s5, ∃ s6, ∃ s7, ∃ s8, Issues (.mmaInt8 x) s ∧ 
    let y := x.c.x
    mfSrc 1 y.a s0 = .ok a s1 ∧ mfSrc 2 y.b s1 = .ok b s2 ∧ (mfSrc 3 (if false then y.c else 0#8) s2 = .ok sa s3) ∧ (mfSrc 4 (if false then y.sb else 0#8) s3 = .ok sb s4) ∧ a.desc.v = true ∧ b.desc.v = true ∧ sa.desc.v = true ∧ sb.desc.v = true ∧ (((fun t => t == 0x0B || t == 0x10) : Nat → Bool) a.desc.typ = true) ∧ (b.isTile = false ∨ ((fun t => t == 0x0B || t == 0x10) : Nat → Bool) b.desc.typ = true) ∧ (sa.isTile = false ∨ sa.desc.typ = 9 ∨ sa.desc.typ = 4) ∧ (sb.isTile = false ∨ sb.desc.typ = 9 ∨ sb.desc.typ = 4) ∧ 
    let m := a.desc.rows
    
    let k := a.desc.cols
    
    let tr := x.t == 1#1
    
    let n := if ! b.isTile then 0 else if tr then b.desc.rows else b.desc.cols
    
    let gran := if false then (y.imm.extractLsb' 16 2).toNat else 0
    (b.isTile = false ∨ ((if tr then b.desc.cols else b.desc.rows) = k ∧ n ≤ 384)) ∧ m ≤ 128 ∧ sa.shaped (scaleShape gran m k).1 (scaleShape gran m k).2 = true ∧ (b.isTile = false ∨ sb.shaped (scaleShape gran n k).1 (scaleShape gran n k).2 = true) ∧ 
    let floor := floorOf x.c s rels
    capture floor a s4 = .ok ra s5 ∧ capture floor b s5 = .ok rb s6 ∧ captureOpt floor sa s6 = .ok rsa s7 ∧ captureOpt floor sb s7 = .ok rsb s8 ∧ 
    let bank := y.d.toNat - 0x88
    x.p = 0#1 ∧ b.isTile = true ∧ Passes x.c .array (some bank) s s0 rels ∧ ∃ uu, ∃ tt, (enterEngine s8.cur.coreNo (⟨.array, some bank, ((fun k => k) : Nat → Nat) k, ((fun k => k) : Nat → Nat) k + 8, ((fun k => k) : Nat → Nat) k + 8⟩ : Timing) { op := (.mma 0xC7 (x.z == 1#1) tr false bank ra rb rsa rsb gran), cursor := 0, units := k, ckind := 2, cl := clauses x.c s, pc := (s8.hart s8.cur).pc, push := none, visible := 0, exact := false, gs := [] } s8 = .ok () uu) ∧ retire (cmdSlots x.c) uu = .ok () tt :=
  ⟨⟨0#1, 0#1, 0#1, cx (ar 0x88#8 0x21#8 0x22#8 0#4 0#20)⟩, wMma 11, wMma 11, [], _, _, _, _, _, _, _, _, _, _, _, _, _, _, _, _, (issues_of (by decide +kernel)), (ok_of (by decide +kernel)), (ok_of (by decide +kernel)), (ok_of (by decide +kernel)), (ok_of (by decide +kernel)), (by decide +kernel), (by decide +kernel), (by decide +kernel), (by decide +kernel), (by decide +kernel), (by decide +kernel), (by decide +kernel), (by decide +kernel), (by decide +kernel), (by decide +kernel), (by decide +kernel), (by decide +kernel), (ok_of (by decide +kernel)), (ok_of (by decide +kernel)), (ok_of (by decide +kernel)), (ok_of (by decide +kernel)), (by decide +kernel), (by decide +kernel), (passes_of (by decide +kernel)), _, _, (okU_of (by decide +kernel)), (okU_of (by decide +kernel))⟩

theorem w_MmaResults_16 : ∃ x, ∃ (s : State), ∃ s0, ∃ rels, ∃ a, ∃ b, ∃ sa, ∃ sb, ∃ s1, ∃ s2, ∃ s3, ∃ s4, ∃ ra, ∃ rb, ∃ rsa, ∃ rsb, ∃ s5, ∃ s6, ∃ s7, ∃ s8, Issues (.mmaInt8 x) s ∧ 
    let y := x.c.x
    mfSrc 1 y.a s0 = .ok a s1 ∧ mfSrc 2 y.b s1 = .ok b s2 ∧ (mfSrc 3 (if false then y.c else 0#8) s2 = .ok sa s3) ∧ (mfSrc 4 (if false then y.sb else 0#8) s3 = .ok sb s4) ∧ a.desc.v = true ∧ b.desc.v = true ∧ sa.desc.v = true ∧ sb.desc.v = true ∧ (((fun t => t == 0x0B || t == 0x10) : Nat → Bool) a.desc.typ = true) ∧ (b.isTile = false ∨ ((fun t => t == 0x0B || t == 0x10) : Nat → Bool) b.desc.typ = true) ∧ (sa.isTile = false ∨ sa.desc.typ = 9 ∨ sa.desc.typ = 4) ∧ (sb.isTile = false ∨ sb.desc.typ = 9 ∨ sb.desc.typ = 4) ∧ 
    let m := a.desc.rows
    
    let k := a.desc.cols
    
    let tr := x.t == 1#1
    
    let n := if ! b.isTile then 0 else if tr then b.desc.rows else b.desc.cols
    
    let gran := if false then (y.imm.extractLsb' 16 2).toNat else 0
    (b.isTile = false ∨ ((if tr then b.desc.cols else b.desc.rows) = k ∧ n ≤ 384)) ∧ m ≤ 128 ∧ sa.shaped (scaleShape gran m k).1 (scaleShape gran m k).2 = true ∧ (b.isTile = false ∨ sb.shaped (scaleShape gran n k).1 (scaleShape gran n k).2 = true) ∧ 
    let floor := floorOf x.c s rels
    capture floor a s4 = .ok ra s5 ∧ capture floor b s5 = .ok rb s6 ∧ captureOpt floor sa s6 = .ok rsa s7 ∧ captureOpt floor sb s7 = .ok rsb s8 ∧ x.p = 1#1 ∧ WaitMet x.c s s s0 rels :=
  ⟨⟨0#1, 1#1, 0#1, cx (ar 0x88#8 0x21#8 0x22#8 0#4 0#20)⟩, wMma 11, wMma 11, [], _, _, _, _, _, _, _, _, _, _, _, _, _, _, _, _, (issues_of (by decide +kernel)), (ok_of (by decide +kernel)), (ok_of (by decide +kernel)), (ok_of (by decide +kernel)), (ok_of (by decide +kernel)), (by decide +kernel), (by decide +kernel), (by decide +kernel), (by decide +kernel), (by decide +kernel), (by decide +kernel), (by decide +kernel), (by decide +kernel), (by decide +kernel), (by decide +kernel), (by decide +kernel), (by decide +kernel), (ok_of (by decide +kernel)), (ok_of (by decide +kernel)), (ok_of (by decide +kernel)), (ok_of (by decide +kernel)), (by decide +kernel), (waitMet_of (by decide +kernel))⟩

theorem w_AccumulatorResults_1 : ∃ x, ∃ (s : State), ∃ s0, ∃ rels, ∃ a, ∃ s1, ∃ ra, ∃ s2, Issues (.accld x) s ∧ Passes x .port (some (x.x.d.toNat - 0x88)) s s0 rels ∧ mfSrc 1 x.x.a s0 = .ok a s1 ∧ a.desc.v = true ∧ 
    let d := a.desc
    
    let b := (d.rows + 1) / 2
    (d.typ = 1 ∨ d.typ = 0 ∨ d.typ = 0x0D) ∧ d.rows ≤ 128 ∧ (d.cols ≤ (if d.typ = 0 then 192 else 384)) ∧ capture (floorOf x s rels) a s1 = .ok ra s2 ∧ ∃ uu, ∃ tt, enterEngine s2.cur.coreNo (⟨.port, some (x.x.d.toNat - 0x88), b, b + 4, b + 4⟩) { op := (.accld (x.x.d.toNat - 0x88) ra), cursor := 0, units := d.rows, ckind := 1, cl := clauses x s, pc := (s2.hart s2.cur).pc, push := none, visible := 0, exact := false, gs := [] } s2 = .ok () uu ∧ retire (cmdSlots x) uu = .ok () tt :=
  ⟨cx (ar 0x88#8 0x21#8 0#8 0#4 0#20), wAcc, wAcc, [], _, _, _, _, (issues_of (by decide +kernel)), (passes_of (by decide +kernel)), (ok_of (by decide +kernel)), (by decide +kernel), (by decide +kernel), (by decide +kernel), (by decide +kernel), (ok_of (by decide +kernel)), _, _, (okU_of (by decide +kernel)), (okU_of (by decide +kernel))⟩

theorem w_AccumulatorResults_2 : ∃ x, ∃ (s : State), ∃ s0, ∃ rels, ∃ dst, ∃ s1, Issues (.accst x) s ∧ Passes x .port (some (x.x.a.toNat - 0x88)) s s0 rels ∧ mfDst x.x s0 = .ok dst s1 ∧ dst.desc.v = true ∧ 
    let d := dst.desc
    
    let af := x.x.imm98
    
    let b := (d.rows + 1) / 2
    isReal d.typ = true ∧ d.typ ≠ 9 ∧ d.rows ≤ 128 ∧ (d.cols ≤ (if af = 1 then 192 else 384)) ∧ ∃ uu, ∃ tt, enterEngine s1.cur.coreNo (⟨.port, some (x.x.a.toNat - 0x88), b, b, b + 4⟩) { op := (.accst d dst.portOf (x.x.a.toNat - 0x88) af (rmOf x.x) (satOf x.x)), cursor := 0, units := d.vrows, ckind := 1, cl := clauses x s, pc := (s1.hart s1.cur).pc, push := dst.pushOf, visible := 0, exact := false, gs := [] } s1 = .ok () uu ∧ retire (cmdSlots x) uu = .ok () tt :=
  ⟨cx (ar 0x21#8 0x88#8 0#8 0#4 0#20), wAcc, wAcc, [], _, _, (issues_of (by decide +kernel)), (passes_of (by decide +kernel)), (ok_of (by decide +kernel)), (by decide +kernel), (by decide +kernel), (by decide +kernel), (by decide +kernel), (by decide +kernel), _, _, (okU_of (by decide +kernel)), (okU_of (by decide +kernel))⟩

theorem w_AccumulatorResults_3 : ∃ x, ∃ (s : State), ∃ s0, ∃ rels, Issues (.accclr x) s ∧ Passes x .port (some (x.x.d.toNat - 0x88)) s s0 rels ∧ ∃ uu, ∃ tt, enterEngine s0.cur.coreNo (⟨.port, some (x.x.d.toNat - 0x88), 1, 1, 1⟩) { op := (.accclr (x.x.d.toNat - 0x88)), cursor := 0, units := 1, ckind := 0, cl := clauses x s, pc := (s0.hart s0.cur).pc, push := none, visible := 0, exact := false, gs := [] } s0 = .ok () uu ∧ retire (cmdSlots x) uu = .ok () tt :=
  ⟨cx (ar 0x88#8 0#8 0#8 0#4 0#20), wAcc, wAcc, [], (issues_of (by decide +kernel)), (passes_of (by decide +kernel)), _, _, (okU_of (by decide +kernel)), (okU_of (by decide +kernel))⟩

theorem w_AccumulatorResults_4 : ∃ x, ∃ (s : State), ∃ s0, ∃ rels, ∃ a, ∃ b, ∃ w, ∃ s1, ∃ s2, ∃ s3, Issues (.accstg x) s ∧ Passes x .port (some (x.x.d.toNat - 0x88)) s s0 rels ∧ readSrc 1 x.x.a s0 = .ok a s1 ∧ readSrc 2 x.x.b s1 = .ok b s2 ∧ readSrc 3 x.x.c s2 = .ok w s3 ∧ 
    let af := x.x.imm98
    
    let rows := Word.bits w 0 8 + 1
    
    let cols := Word.bits w 8 10 + 1
    
    let typ := Word.bits w 18 5
    
    let e := if 8 ≤ typBits typ then typBits typ / 8 else 1
    
    let n := (rows + 1) / 2
    Word.bits w 23 41 = 0 ∧ isReal typ = true ∧ typ ≠ 9 ∧ rows ≤ 128 ∧ (cols ≤ (if af = 1 then 192 else 384)) ∧ (8 ≤ typBits typ ∨ cols * typBits typ % 8 = 0) ∧ a.toNat % e = 0 ∧ b.toNat % e = 0 ∧ ∃ uu, ∃ tt, enterEngine s3.cur.coreNo (⟨.port, some (x.x.d.toNat - 0x88), n, n, n + 4⟩) { op := (.accstg a b (x.x.d.toNat - 0x88) af rows cols typ (x.x.imm.getLsbD 10) (rmOf x.x) (satOf x.x)), cursor := 0, units := rows, ckind := 1, cl := clauses x s, pc := (s3.hart s3.cur).pc, push := none, visible := 0, exact := false, gs := [] } s3 = .ok () uu ∧ retire (cmdSlots x) uu = .ok () tt :=
  ⟨cx (ar 0x88#8 7#8 8#8 0#4 9#20), wAcc, wAcc, [], _, _, _, _, _, _, (issues_of (by decide +kernel)), (passes_of (by decide +kernel)), (ok_of (by decide +kernel)), (ok_of (by decide +kernel)), (ok_of (by decide +kernel)), (by decide +kernel), (by decide +kernel), (by decide +kernel), (by decide +kernel), (by decide +kernel), (by decide +kernel), (by decide +kernel), (by decide +kernel), _, _, (okU_of (by decide +kernel)), (okU_of (by decide +kernel))⟩

theorem w_TransformResults_1 : ∃ x, ∃ (s : State), ∃ s0, ∃ rels, ∃ a, ∃ b, ∃ s1, ∃ s2, ∃ dst, ∃ s3, ∃ n, ∃ seq, Issues (.fplan x) s ∧ Passes x .fpipe none s s0 rels ∧ readSrc 1 x.x.a s0 = .ok a s1 ∧ readSrc 2 x.x.b s1 = .ok b s2 ∧ mfDst x.x s2 = .ok dst s3 ∧ dst.desc.v = true ∧ dst.desc.typ = 0x13 ∧ dst.desc.rows = 1 ∧ dst.desc.cols = 2 ∧ planOf a.toNat b.toNat = some (n, seq) ∧ ∃ uu, ∃ tt, enterEngine s3.cur.coreNo (⟨.fpipe, none, 1, 1, 4⟩) { op := (.fplan dst.desc (BitVec.ofNat 64 (planWords n seq).1) (BitVec.ofNat 64 (planWords n seq).2)), cursor := 0, units := 1, ckind := 0, cl := clauses x s, pc := (s3.hart s3.cur).pc, push := none, visible := 0, exact := false, gs := [] } s3 = .ok () uu ∧ retire (cmdSlots x) uu = .ok () tt :=
  ⟨cx (ar 0x23#8 7#8 8#8 0#4 0#20), wFt, wFt, [], _, _, _, _, _, _, 2, [2], (issues_of (by decide +kernel)), (passes_of (by decide +kernel)), (ok_of (by decide +kernel)), (ok_of (by decide +kernel)), (ok_of (by decide +kernel)), (by decide +kernel), rfl, (by decide +kernel), (by decide +kernel), (by decide +kernel), _, _, (okU_of (by decide +kernel)), (okU_of (by decide +kernel))⟩

theorem w_TransformResults_2 : 
    let p := (Instr.fft, false)
    ∃ x, ∃ (s : State), ∃ s0, ∃ rels, ∃ a, ∃ b, ∃ s1, ∃ s2, ∃ dst, ∃ s3, ∃ n, ∃ seq, ∃ s4, ∃ ra, ∃ s5, Issues (p.1 x) s ∧ Passes x .fpipe none s s0 rels ∧ mfSrc 1 x.x.a s0 = .ok a s1 ∧ mfSrc 2 x.x.b s1 = .ok b s2 ∧ mfDst x.x s2 = .ok dst s3 ∧ 
    let d := dst.desc
    a.desc.v = true ∧ b.desc.v = true ∧ d.v = true ∧ isCPX d.typ = true ∧ a.desc.typ = d.typ ∧ b.desc.typ = 0x13 ∧ b.shaped 1 2 = true ∧ a.shaped d.rows d.cols = true ∧ d.fullyValid = true ∧ readPlan b (floorOf x s rels) s3 = .ok (some (n, seq)) s4 ∧ d.pencils n = true ∧ issueFft.overlapsFft a b dst = false ∧ capture (floorOf x s rels) a s4 = .ok ra s5 ∧ 
    let o := seq.length * ceilDiv (d.rows * d.cols) (ratePer d.typ)
    ∃ uu, ∃ tt, enterEngine s5.cur.coreNo (⟨.fpipe, none, o, o, o + 16⟩) { op := (.fft p.2 (x.x.mod.getLsbD 2) ra d n seq), cursor := 0, units := (max 1 seq.length), ckind := 3, cl := clauses x s, pc := (s5.hart s5.cur).pc, push := dst.pushOf, visible := 0, exact := false, gs := [] } s5 = .ok () uu ∧ retire (cmdSlots x) uu = .ok () tt :=
  ⟨cx (ar 0x22#8 0x21#8 0x23#8 0#4 0#20), wFt, wFt, [], _, _, _, _, _, _, 2, [2], _, _, _, (issues_of (by decide +kernel)), (passes_of (by decide +kernel)), (ok_of (by decide +kernel)), (ok_of (by decide +kernel)), (ok_of (by decide +kernel)), (by decide +kernel), (by decide +kernel), (by decide +kernel), (by decide +kernel), (by decide +kernel), rfl, (by decide +kernel), (by decide +kernel), (by decide +kernel), (okV_of (by decide +kernel)), (by decide +kernel), (by decide +kernel), (ok_of (by decide +kernel)), _, _, (okU_of (by decide +kernel)), (okU_of (by decide +kernel))⟩

theorem w_TransformResults_3 : 
    let p := (Instr.ifft, true)
    ∃ x, ∃ (s : State), ∃ s0, ∃ rels, ∃ a, ∃ b, ∃ s1, ∃ s2, ∃ dst, ∃ s3, ∃ n, ∃ seq, ∃ s4, ∃ ra, ∃ s5, Issues (p.1 x) s ∧ Passes x .fpipe none s s0 rels ∧ mfSrc 1 x.x.a s0 = .ok a s1 ∧ mfSrc 2 x.x.b s1 = .ok b s2 ∧ mfDst x.x s2 = .ok dst s3 ∧ 
    let d := dst.desc
    a.desc.v = true ∧ b.desc.v = true ∧ d.v = true ∧ isCPX d.typ = true ∧ a.desc.typ = d.typ ∧ b.desc.typ = 0x13 ∧ b.shaped 1 2 = true ∧ a.shaped d.rows d.cols = true ∧ d.fullyValid = true ∧ readPlan b (floorOf x s rels) s3 = .ok (some (n, seq)) s4 ∧ d.pencils n = true ∧ issueFft.overlapsFft a b dst = false ∧ capture (floorOf x s rels) a s4 = .ok ra s5 ∧ 
    let o := seq.length * ceilDiv (d.rows * d.cols) (ratePer d.typ)
    ∃ uu, ∃ tt, enterEngine s5.cur.coreNo (⟨.fpipe, none, o, o, o + 16⟩) { op := (.fft p.2 (x.x.mod.getLsbD 2) ra d n seq), cursor := 0, units := (max 1 seq.length), ckind := 3, cl := clauses x s, pc := (s5.hart s5.cur).pc, push := dst.pushOf, visible := 0, exact := false, gs := [] } s5 = .ok () uu ∧ retire (cmdSlots x) uu = .ok () tt :=
  ⟨cx (ar 0x22#8 0x21#8 0x23#8 0#4 0#20), wFt, wFt, [], _, _, _, _, _, _, 2, [2], _, _, _, (issues_of (by decide +kernel)), (passes_of (by decide +kernel)), (ok_of (by decide +kernel)), (ok_of (by decide +kernel)), (ok_of (by decide +kernel)), (by decide +kernel), (by decide +kernel), (by decide +kernel), (by decide +kernel), (by decide +kernel), rfl, (by decide +kernel), (by decide +kernel), (by decide +kernel), (okV_of (by decide +kernel)), (by decide +kernel), (by decide +kernel), (ok_of (by decide +kernel)), _, _, (okU_of (by decide +kernel)), (okU_of (by decide +kernel))⟩

theorem w_TransformResults_4 : 
    let p := (Instr.rfft, false)
    ∃ x, ∃ (s : State), ∃ s0, ∃ rels, ∃ a, ∃ b, ∃ w, ∃ s1, ∃ s2, ∃ s3, ∃ dst, ∃ s4, ∃ n, ∃ seq, ∃ s5, ∃ ra, ∃ s6, Issues (p.1 x) s ∧ Passes x .fpipe none s s0 rels ∧ mfSrc 1 x.x.a s0 = .ok a s1 ∧ mfSrc 2 x.x.b s1 = .ok b s2 ∧ mfSrc 3 x.x.c s2 = .ok w s3 ∧ mfDst x.x s3 = .ok dst s4 ∧ 
    let d := dst.desc
    
    let real := if p.2 then d else a.desc
    
    let cpx := if p.2 then a.desc else d
    
    let np := real.rows * real.cols / n
    a.desc.v = true ∧ b.desc.v = true ∧ w.desc.v = true ∧ d.v = true ∧ (real.typ = 0 ∨ real.typ = 1) ∧ (cpx.typ = (if real.typ = 1 then 0x14 else 0x15)) ∧ b.desc.typ = 0x13 ∧ w.desc.typ = cpx.typ ∧ b.shaped 1 2 = true ∧ w.desc.fullyValid = true ∧ readPlan b (floorOf x s rels) s4 = .ok (some (n, seq)) s5 ∧ real.pencils n = true ∧ n % 2 = 0 ∧ np * (n / 2 + 1) ≤ cpx.rows * cpx.cols ∧ np * n ≤ w.desc.rows * w.desc.cols ∧ a.meets w.desc = false ∧ b.meets w.desc = false ∧ w.meets d = false ∧ a.meets d = false ∧ b.meets d = false ∧ capture (floorOf x s rels) a s5 = .ok ra s6 ∧ 
    let o := (seq.length + 1) * ceilDiv (np * n) (ratePer real.typ)
    ∃ uu, ∃ tt, enterEngine s6.cur.coreNo (⟨.fpipe, none, o, o, o + 16⟩) { op := (.rfft p.2 (x.x.mod.getLsbD 2) ra d w.desc n seq), cursor := 0, units := (max 1 seq.length), ckind := 3, cl := clauses x s, pc := (s6.hart s6.cur).pc, push := dst.pushOf, visible := 0, exact := false, gs := [] } s6 = .ok () uu ∧ retire (cmdSlots x) uu = .ok () tt :=
  ⟨cx (ar 0x25#8 0x24#8 0x23#8 0#4 0x26#20), wFt, wFt, [], _, _, _, _, _, _, _, _, 2, [2], _, _, _, (issues_of (by decide +kernel)), (passes_of (by decide +kernel)), (ok_of (by decide +kernel)), (ok_of (by decide +kernel)), (ok_of (by decide +kernel)), (ok_of (by decide +kernel)), (by decide +kernel), (by decide +kernel), (by decide +kernel), (by decide +kernel), (by decide +kernel), (by decide +kernel), rfl, (by decide +kernel), (by decide +kernel), (by decide +kernel), (okV_of (by decide +kernel)), (by decide +kernel), (by decide +kernel), (by decide +kernel), (by decide +kernel), (by decide +kernel), (by decide +kernel), (by decide +kernel), (by decide +kernel), (by decide +kernel), (ok_of (by decide +kernel)), _, _, (okU_of (by decide +kernel)), (okU_of (by decide +kernel))⟩

theorem w_TransformResults_5 : 
    let p := (Instr.irfft, true)
    ∃ x, ∃ (s : State), ∃ s0, ∃ rels, ∃ a, ∃ b, ∃ w, ∃ s1, ∃ s2, ∃ s3, ∃ dst, ∃ s4, ∃ n, ∃ seq, ∃ s5, ∃ ra, ∃ s6, Issues (p.1 x) s ∧ Passes x .fpipe none s s0 rels ∧ mfSrc 1 x.x.a s0 = .ok a s1 ∧ mfSrc 2 x.x.b s1 = .ok b s2 ∧ mfSrc 3 x.x.c s2 = .ok w s3 ∧ mfDst x.x s3 = .ok dst s4 ∧ 
    let d := dst.desc
    
    let real := if p.2 then d else a.desc
    
    let cpx := if p.2 then a.desc else d
    
    let np := real.rows * real.cols / n
    a.desc.v = true ∧ b.desc.v = true ∧ w.desc.v = true ∧ d.v = true ∧ (real.typ = 0 ∨ real.typ = 1) ∧ (cpx.typ = (if real.typ = 1 then 0x14 else 0x15)) ∧ b.desc.typ = 0x13 ∧ w.desc.typ = cpx.typ ∧ b.shaped 1 2 = true ∧ w.desc.fullyValid = true ∧ readPlan b (floorOf x s rels) s4 = .ok (some (n, seq)) s5 ∧ real.pencils n = true ∧ n % 2 = 0 ∧ np * (n / 2 + 1) ≤ cpx.rows * cpx.cols ∧ np * n ≤ w.desc.rows * w.desc.cols ∧ a.meets w.desc = false ∧ b.meets w.desc = false ∧ w.meets d = false ∧ a.meets d = false ∧ b.meets d = false ∧ capture (floorOf x s rels) a s5 = .ok ra s6 ∧ 
    let o := (seq.length + 1) * ceilDiv (np * n) (ratePer real.typ)
    ∃ uu, ∃ tt, enterEngine s6.cur.coreNo (⟨.fpipe, none, o, o, o + 16⟩) { op := (.rfft p.2 (x.x.mod.getLsbD 2) ra d w.desc n seq), cursor := 0, units := (max 1 seq.length), ckind := 3, cl := clauses x s, pc := (s6.hart s6.cur).pc, push := dst.pushOf, visible := 0, exact := false, gs := [] } s6 = .ok () uu ∧ retire (cmdSlots x) uu = .ok () tt :=
  ⟨cx (ar 0x24#8 0x25#8 0x23#8 0#4 0x26#20), wFt, wFt, [], _, _, _, _, _, _, _, _, 2, [2], _, _, _, (issues_of (by decide +kernel)), (passes_of (by decide +kernel)), (ok_of (by decide +kernel)), (ok_of (by decide +kernel)), (ok_of (by decide +kernel)), (ok_of (by decide +kernel)), (by decide +kernel), (by decide +kernel), (by decide +kernel), (by decide +kernel), (by decide +kernel), (by decide +kernel), rfl, (by decide +kernel), (by decide +kernel), (by decide +kernel), (okV_of (by decide +kernel)), (by decide +kernel), (by decide +kernel), (by decide +kernel), (by decide +kernel), (by decide +kernel), (by decide +kernel), (by decide +kernel), (by decide +kernel), (by decide +kernel), (ok_of (by decide +kernel)), _, _, (okU_of (by decide +kernel)), (okU_of (by decide +kernel))⟩

theorem w_TransformResults_6 : ∃ x, ∃ (s : State), ∃ s0, ∃ rels, ∃ a, ∃ b, ∃ s1, ∃ s2, ∃ dst, ∃ s3, ∃ ra, ∃ s4, Issues (.leggen x) s ∧ Passes x .fpipe none s s0 rels ∧ mfSrc 1 x.x.a s0 = .ok a s1 ∧ readSrc 2 x.x.b s1 = .ok b s2 ∧ mfDst x.x s2 = .ok dst s3 ∧ 
    let d := dst.desc
    
    let t := x.x.mod.getLsbD 2
    
    let m := Word.bits b 0 16
    
    let l0 := Word.bits b 16 16
    
    let nl := if t then d.cols else d.rows
    
    let nx := if t then d.rows else d.cols
    a.desc.v = true ∧ d.v = true ∧ (d.typ = 0 ∨ d.typ = 1) ∧ a.desc.typ = d.typ ∧ ((if t then a.shaped nx 1 else a.shaped 1 nx) = true) ∧ m ≤ l0 ∧ l0 + nl - 1 ≤ 65535 ∧ Word.bits b 32 32 = 0 ∧ capture (floorOf x s rels) a s3 = .ok ra s4 ∧ 
    let o := (l0 + nl - m) * ceilDiv nx (ratePer d.typ)
    ∃ uu, ∃ tt, enterEngine s4.cur.coreNo (⟨.fpipe, none, o, o, o + 16⟩) { op := (.leggen t ra d dst.portOf m l0), cursor := 0, units := d.vrows, ckind := 1, cl := clauses x s, pc := (s4.hart s4.cur).pc, push := dst.pushOf, visible := 0, exact := false, gs := [] } s4 = .ok () uu ∧ retire (cmdSlots x) uu = .ok () tt :=
  ⟨cx (ar 0x28#8 0x27#8 8#8 0#4 0#20), wFt, wFt, [], _, _, _, _, _, _, _, _, (issues_of (by decide +kernel)), (passes_of (by decide +kernel)), (ok_of (by decide +kernel)), (ok_of (by decide +kernel)), (ok_of (by decide +kernel)), (by decide +kernel), (by decide +kernel), (by decide +kernel), (by decide +kernel), (by decide +kernel), (by decide +kernel), (by decide +kernel), (by decide +kernel), (ok_of (by decide +kernel)), _, _, (okU_of (by decide +kernel)), (okU_of (by decide +kernel))⟩

theorem w_TransformResults_7 : ∃ x, ∃ (s : State), ∃ s0, ∃ rels, ∃ a, ∃ b, ∃ k, ∃ s1, ∃ s2, ∃ s3, ∃ dst, ∃ s4, ∃ ra, ∃ s5, Issues (.ftwm x) s ∧ Passes x .fpipe none s s0 rels ∧ mfSrc 1 x.x.a s0 = .ok a s1 ∧ readSrc 2 x.x.b s1 = .ok b s2 ∧ readSrc 3 x.x.c s2 = .ok k s3 ∧ mfDst x.x s3 = .ok dst s4 ∧ 
    let d := dst.desc
    
    let n := Word.bits b 0 25
    a.desc.v = true ∧ d.v = true ∧ isCPX d.typ = true ∧ a.desc.typ = d.typ ∧ a.shaped d.rows d.cols = true ∧ Word.bits k 32 32 = 0 ∧ 0 < n ∧ n ≤ 2 ^ 24 ∧ Word.bits b 26 38 = 0 ∧ capture (floorOf x s rels) a s4 = .ok ra s5 ∧ 
    let o := ceilDiv (d.rows * d.cols) (ratePer d.typ)
    ∃ uu, ∃ tt, enterEngine s5.cur.coreNo (⟨.fpipe, none, o, o, o + 16⟩) { op := (.ftwm ra d dst.portOf n (Word.bit b 25) (Word.bits k 16 16) (Word.bits k 0 16)), cursor := 0, units := d.vrows, ckind := 1, cl := clauses x s, pc := (s5.hart s5.cur).pc, push := dst.pushOf, visible := 0, exact := false, gs := [] } s5 = .ok () uu ∧ retire (cmdSlots x) uu = .ok () tt :=
  ⟨cx (ar 0x22#8 0x21#8 7#8 0#4 8#20), wFt, wFt, [], _, _, _, _, _, _, _, _, _, _, (issues_of (by decide +kernel)), (passes_of (by decide +kernel)), (ok_of (by decide +kernel)), (ok_of (by decide +kernel)), (ok_of (by decide +kernel)), (ok_of (by decide +kernel)), (by decide +kernel), (by decide +kernel), (by decide +kernel), (by decide +kernel), (by decide +kernel), (by decide +kernel), (by decide +kernel), (by decide +kernel), (by decide +kernel), (ok_of (by decide +kernel)), _, _, (okU_of (by decide +kernel)), (okU_of (by decide +kernel))⟩

theorem w_CartIssueResults_1 : ∃ x, ∃ (s : State), ∃ a, ∃ b, ∃ s1, ∃ s2, ∃ v2, ∃ r, ∃ s3, Issues (.ccopy x) s ∧ readSrc 1 x.x.a s = .ok a s1 ∧ readSrc 2 x.x.b s1 = .ok b s2 ∧ badRef s2.cur.coreNo (clausesOf (s2.hart s2.cur) x.ext) s2 = .ok none v2 ∧ b.toNat % 1 = 0 ∧ (if 0xE0 = 0xE6 then a.toNat % (if x.x.mod.getLsbD 0 then 4 else 8) = 0 ∧ r = .empty ∧ s3 = v2 else a.toNat % 64 = 0 ∧ ∃ bs, readGlobal s2.cur (.at a) a.toNat 64 v2 = .ok bs s3 ∧ r = (cartRec bs).based (s3.job s2.cur.coreNo).rel ∧ r.ok 0xE0 x.x.mod = true) ∧ 
    let c := s3.cur.coreNo
    
    let store := storeSide 0xE0 r.dsp
    64 ≤ ((s3.job c).cartQ store).length :=
  ⟨cx (ar 0#8 3#8 0#8 0#4 0#20), wFull 0#8 0#8, _, _, _, _, _, _, _, (issues_of (by decide +kernel)), (ok_of (by decide +kernel)), (ok_of (by decide +kernel)), (okV_of (by decide +kernel)), (by decide +kernel), (cart_of (by decide) (by decide +kernel)), (by decide +kernel)⟩

theorem w_CartIssueResults_2 : ∃ x, ∃ (s : State), ∃ a, ∃ b, ∃ s1, ∃ s2, ∃ v2, ∃ r, ∃ s3, ∃ t, Issues (.ccopy x) s ∧ readSrc 1 x.x.a s = .ok a s1 ∧ readSrc 2 x.x.b s1 = .ok b s2 ∧ badRef s2.cur.coreNo (clausesOf (s2.hart s2.cur) x.ext) s2 = .ok none v2 ∧ b.toNat % 1 = 0 ∧ (if 0xE0 = 0xE6 then a.toNat % (if x.x.mod.getLsbD 0 then 4 else 8) = 0 ∧ r = .empty ∧ s3 = v2 else a.toNat % 64 = 0 ∧ ∃ bs, readGlobal s2.cur (.at a) a.toNat 64 v2 = .ok bs s3 ∧ r = (cartRec bs).based (s3.job s2.cur.coreNo).rel ∧ r.ok 0xE0 x.x.mod = true) ∧ 
    let c := s3.cur.coreNo
    
    let store := storeSide 0xE0 r.dsp
    ((s3.job c).cartQ store).length < 64 ∧ 
    let cmd : CartCmd :=
      { id := s3.tick, w0 := packArgs (BitVec.ofNat 8 0xE0) (BitVec.ofNat 4 0) x.x, w1 := packExt x.ext, opc := 0xE0, fn := 0, mod := x.x.mod,
        pc := (s3.hart s3.cur).pc, cr := r, a := a, b := b, cl := clausesOf (s2.hart s2.cur) x.ext, started := false, dest := none, sent := false,
        done := 0, sub := 0, entry := none, gs := [], bad := none, floor := ⟨s3.gseq, []⟩ }
    
    let u := (({ s3 with tick := s3.tick + 1 } : State).updPart (s3.job c).part fun p =>
      { p with custody := addNode p.custody (128 + c) 1 0 }).updJob c fun j => j.setCartQ store (j.cartQ store ++ [cmd])
    ∃ v, clearAnswers s3.cur u = .ok () v ∧ retire 2 v = .ok () t :=
  ⟨cx (ar 0#8 3#8 0#8 0#4 0#20), wRcd 0#8 0#8, _, _, _, _, _, _, _, _, (issues_of (by decide +kernel)), (ok_of (by decide +kernel)), (ok_of (by decide +kernel)), (okV_of (by decide +kernel)), (by decide +kernel), (cart_of (by decide) (by decide +kernel)), (by decide +kernel), _, (okU_of (by decide +kernel)), (okU_of (by decide +kernel))⟩

theorem w_CartIssueResults_3 : ∃ x, ∃ (s : State), ∃ a, ∃ b, ∃ s1, ∃ s2, ∃ v2, ∃ r, ∃ s3, Issues (.cmort x) s ∧ readSrc 1 x.x.a s = .ok a s1 ∧ readSrc 2 x.x.b s1 = .ok b s2 ∧ badRef s2.cur.coreNo (clausesOf (s2.hart s2.cur) x.ext) s2 = .ok none v2 ∧ b.toNat % 1 = 0 ∧ (if 0xE1 = 0xE6 then a.toNat % (if x.x.mod.getLsbD 0 then 4 else 8) = 0 ∧ r = .empty ∧ s3 = v2 else a.toNat % 64 = 0 ∧ ∃ bs, readGlobal s2.cur (.at a) a.toNat 64 v2 = .ok bs s3 ∧ r = (cartRec bs).based (s3.job s2.cur.coreNo).rel ∧ r.ok 0xE1 x.x.mod = true) ∧ 
    let c := s3.cur.coreNo
    
    let store := storeSide 0xE1 r.dsp
    64 ≤ ((s3.job c).cartQ store).length :=
  ⟨cx (ar 0#8 3#8 0#8 0#4 0#20), wFull 1#8 0#8, _, _, _, _, _, _, _, (issues_of (by decide +kernel)), (ok_of (by decide +kernel)), (ok_of (by decide +kernel)), (okV_of (by decide +kernel)), (by decide +kernel), (cart_of (by decide) (by decide +kernel)), (by decide +kernel)⟩

theorem w_CartIssueResults_4 : ∃ x, ∃ (s : State), ∃ a, ∃ b, ∃ s1, ∃ s2, ∃ v2, ∃ r, ∃ s3, ∃ t, Issues (.cmort x) s ∧ readSrc 1 x.x.a s = .ok a s1 ∧ readSrc 2 x.x.b s1 = .ok b s2 ∧ badRef s2.cur.coreNo (clausesOf (s2.hart s2.cur) x.ext) s2 = .ok none v2 ∧ b.toNat % 1 = 0 ∧ (if 0xE1 = 0xE6 then a.toNat % (if x.x.mod.getLsbD 0 then 4 else 8) = 0 ∧ r = .empty ∧ s3 = v2 else a.toNat % 64 = 0 ∧ ∃ bs, readGlobal s2.cur (.at a) a.toNat 64 v2 = .ok bs s3 ∧ r = (cartRec bs).based (s3.job s2.cur.coreNo).rel ∧ r.ok 0xE1 x.x.mod = true) ∧ 
    let c := s3.cur.coreNo
    
    let store := storeSide 0xE1 r.dsp
    ((s3.job c).cartQ store).length < 64 ∧ 
    let cmd : CartCmd :=
      { id := s3.tick, w0 := packArgs (BitVec.ofNat 8 0xE1) (BitVec.ofNat 4 0) x.x, w1 := packExt x.ext, opc := 0xE1, fn := 0, mod := x.x.mod,
        pc := (s3.hart s3.cur).pc, cr := r, a := a, b := b, cl := clausesOf (s2.hart s2.cur) x.ext, started := false, dest := none, sent := false,
        done := 0, sub := 0, entry := none, gs := [], bad := none, floor := ⟨s3.gseq, []⟩ }
    
    let u := (({ s3 with tick := s3.tick + 1 } : State).updPart (s3.job c).part fun p =>
      { p with custody := addNode p.custody (128 + c) 1 0 }).updJob c fun j => j.setCartQ store (j.cartQ store ++ [cmd])
    ∃ v, clearAnswers s3.cur u = .ok () v ∧ retire 2 v = .ok () t :=
  ⟨cx (ar 0#8 3#8 0#8 0#4 0#20), wRcd 1#8 0#8, _, _, _, _, _, _, _, _, (issues_of (by decide +kernel)), (ok_of (by decide +kernel)), (ok_of (by decide +kernel)), (okV_of (by decide +kernel)), (by decide +kernel), (cart_of (by decide) (by decide +kernel)), (by decide +kernel), _, (okU_of (by decide +kernel)), (okU_of (by decide +kernel))⟩

theorem w_CartIssueResults_5 : ∃ x, ∃ (s : State), ∃ a, ∃ b, ∃ s1, ∃ s2, ∃ v2, ∃ r, ∃ s3, Issues (.cgath x) s ∧ readSrc 1 x.x.a s = .ok a s1 ∧ readSrc 2 x.x.b s1 = .ok b s2 ∧ badRef s2.cur.coreNo (clausesOf (s2.hart s2.cur) x.ext) s2 = .ok none v2 ∧ b.toNat % 4 = 0 ∧ (if 0xE2 = 0xE6 then a.toNat % (if x.x.mod.getLsbD 0 then 4 else 8) = 0 ∧ r = .empty ∧ s3 = v2 else a.toNat % 64 = 0 ∧ ∃ bs, readGlobal s2.cur (.at a) a.toNat 64 v2 = .ok bs s3 ∧ r = (cartRec bs).based (s3.job s2.cur.coreNo).rel ∧ r.ok 0xE2 x.x.mod = true) ∧ 
    let c := s3.cur.coreNo
    
    let store := storeSide 0xE2 r.dsp
    64 ≤ ((s3.job c).cartQ store).length :=
  ⟨cx (ar 0#8 3#8 7#8 0#4 0#20), wFull 1#8 0#8, _, _, _, _, _, _, _, (issues_of (by decide +kernel)), (ok_of (by decide +kernel)), (ok_of (by decide +kernel)), (okV_of (by decide +kernel)), (by decide +kernel), (cart_of (by decide) (by decide +kernel)), (by decide +kernel)⟩

theorem w_CartIssueResults_6 : ∃ x, ∃ (s : State), ∃ a, ∃ b, ∃ s1, ∃ s2, ∃ v2, ∃ r, ∃ s3, ∃ t, Issues (.cgath x) s ∧ readSrc 1 x.x.a s = .ok a s1 ∧ readSrc 2 x.x.b s1 = .ok b s2 ∧ badRef s2.cur.coreNo (clausesOf (s2.hart s2.cur) x.ext) s2 = .ok none v2 ∧ b.toNat % 4 = 0 ∧ (if 0xE2 = 0xE6 then a.toNat % (if x.x.mod.getLsbD 0 then 4 else 8) = 0 ∧ r = .empty ∧ s3 = v2 else a.toNat % 64 = 0 ∧ ∃ bs, readGlobal s2.cur (.at a) a.toNat 64 v2 = .ok bs s3 ∧ r = (cartRec bs).based (s3.job s2.cur.coreNo).rel ∧ r.ok 0xE2 x.x.mod = true) ∧ 
    let c := s3.cur.coreNo
    
    let store := storeSide 0xE2 r.dsp
    ((s3.job c).cartQ store).length < 64 ∧ 
    let cmd : CartCmd :=
      { id := s3.tick, w0 := packArgs (BitVec.ofNat 8 0xE2) (BitVec.ofNat 4 0) x.x, w1 := packExt x.ext, opc := 0xE2, fn := 0, mod := x.x.mod,
        pc := (s3.hart s3.cur).pc, cr := r, a := a, b := b, cl := clausesOf (s2.hart s2.cur) x.ext, started := false, dest := none, sent := false,
        done := 0, sub := 0, entry := none, gs := [], bad := none, floor := ⟨s3.gseq, []⟩ }
    
    let u := (({ s3 with tick := s3.tick + 1 } : State).updPart (s3.job c).part fun p =>
      { p with custody := addNode p.custody (128 + c) 1 0 }).updJob c fun j => j.setCartQ store (j.cartQ store ++ [cmd])
    ∃ v, clearAnswers s3.cur u = .ok () v ∧ retire 2 v = .ok () t :=
  ⟨cx (ar 0#8 3#8 7#8 0#4 0#20), wRcd 1#8 0#8, _, _, _, _, _, _, _, _, (issues_of (by decide +kernel)), (ok_of (by decide +kernel)), (ok_of (by decide +kernel)), (okV_of (by decide +kernel)), (by decide +kernel), (cart_of (by decide) (by decide +kernel)), (by decide +kernel), _, (okU_of (by decide +kernel)), (okU_of (by decide +kernel))⟩

theorem w_CartIssueResults_7 : ∃ x, ∃ (s : State), ∃ a, ∃ b, ∃ s1, ∃ s2, ∃ v2, ∃ r, ∃ s3, Issues (.cscat x) s ∧ readSrc 1 x.x.a s = .ok a s1 ∧ readSrc 2 x.x.b s1 = .ok b s2 ∧ badRef s2.cur.coreNo (clausesOf (s2.hart s2.cur) x.ext) s2 = .ok none v2 ∧ b.toNat % 4 = 0 ∧ (if 0xE3 = 0xE6 then a.toNat % (if x.x.mod.getLsbD 0 then 4 else 8) = 0 ∧ r = .empty ∧ s3 = v2 else a.toNat % 64 = 0 ∧ ∃ bs, readGlobal s2.cur (.at a) a.toNat 64 v2 = .ok bs s3 ∧ r = (cartRec bs).based (s3.job s2.cur.coreNo).rel ∧ r.ok 0xE3 x.x.mod = true) ∧ 
    let c := s3.cur.coreNo
    
    let store := storeSide 0xE3 r.dsp
    64 ≤ ((s3.job c).cartQ store).length :=
  ⟨cx (ar 0#8 3#8 7#8 0#4 0#20), wFull 1#8 0#8, _, _, _, _, _, _, _, (issues_of (by decide +kernel)), (ok_of (by decide +kernel)), (ok_of (by decide +kernel)), (okV_of (by decide +kernel)), (by decide +kernel), (cart_of (by decide) (by decide +kernel)), (by decide +kernel)⟩

theorem w_CartIssueResults_8 : ∃ x, ∃ (s : State), ∃ a, ∃ b, ∃ s1, ∃ s2, ∃ v2, ∃ r, ∃ s3, ∃ t, Issues (.cscat x) s ∧ readSrc 1 x.x.a s = .ok a s1 ∧ readSrc 2 x.x.b s1 = .ok b s2 ∧ badRef s2.cur.coreNo (clausesOf (s2.hart s2.cur) x.ext) s2 = .ok none v2 ∧ b.toNat % 4 = 0 ∧ (if 0xE3 = 0xE6 then a.toNat % (if x.x.mod.getLsbD 0 then 4 else 8) = 0 ∧ r = .empty ∧ s3 = v2 else a.toNat % 64 = 0 ∧ ∃ bs, readGlobal s2.cur (.at a) a.toNat 64 v2 = .ok bs s3 ∧ r = (cartRec bs).based (s3.job s2.cur.coreNo).rel ∧ r.ok 0xE3 x.x.mod = true) ∧ 
    let c := s3.cur.coreNo
    
    let store := storeSide 0xE3 r.dsp
    ((s3.job c).cartQ store).length < 64 ∧ 
    let cmd : CartCmd :=
      { id := s3.tick, w0 := packArgs (BitVec.ofNat 8 0xE3) (BitVec.ofNat 4 0) x.x, w1 := packExt x.ext, opc := 0xE3, fn := 0, mod := x.x.mod,
        pc := (s3.hart s3.cur).pc, cr := r, a := a, b := b, cl := clausesOf (s2.hart s2.cur) x.ext, started := false, dest := none, sent := false,
        done := 0, sub := 0, entry := none, gs := [], bad := none, floor := ⟨s3.gseq, []⟩ }
    
    let u := (({ s3 with tick := s3.tick + 1 } : State).updPart (s3.job c).part fun p =>
      { p with custody := addNode p.custody (128 + c) 1 0 }).updJob c fun j => j.setCartQ store (j.cartQ store ++ [cmd])
    ∃ v, clearAnswers s3.cur u = .ok () v ∧ retire 2 v = .ok () t :=
  ⟨cx (ar 0#8 3#8 7#8 0#4 0#20), wRcd 1#8 0#8, _, _, _, _, _, _, _, _, (issues_of (by decide +kernel)), (ok_of (by decide +kernel)), (ok_of (by decide +kernel)), (okV_of (by decide +kernel)), (by decide +kernel), (cart_of (by decide) (by decide +kernel)), (by decide +kernel), _, (okU_of (by decide +kernel)), (okU_of (by decide +kernel))⟩

theorem w_CartIssueResults_9 : ∃ x, ∃ (s : State), ∃ a, ∃ b, ∃ s1, ∃ s2, ∃ v2, ∃ r, ∃ s3, Issues (.cred x) s ∧ readSrc 1 x.x.a s = .ok a s1 ∧ readSrc 2 x.x.b s1 = .ok b s2 ∧ badRef s2.cur.coreNo (clausesOf (s2.hart s2.cur) x.ext) s2 = .ok none v2 ∧ b.toNat % 1 = 0 ∧ (if 0xE4 = 0xE6 then a.toNat % (if x.x.mod.getLsbD 0 then 4 else 8) = 0 ∧ r = .empty ∧ s3 = v2 else a.toNat % 64 = 0 ∧ ∃ bs, readGlobal s2.cur (.at a) a.toNat 64 v2 = .ok bs s3 ∧ r = (cartRec bs).based (s3.job s2.cur.coreNo).rel ∧ r.ok 0xE4 x.x.mod = true) ∧ 
    let c := s3.cur.coreNo
    
    let store := storeSide 0xE4 r.dsp
    64 ≤ ((s3.job c).cartQ store).length :=
  ⟨cx (ar 0#8 3#8 0#8 0#4 0#20), wFull 0#8 4#8, _, _, _, _, _, _, _, (issues_of (by decide +kernel)), (ok_of (by decide +kernel)), (ok_of (by decide +kernel)), (okV_of (by decide +kernel)), (by decide +kernel), (cart_of (by decide) (by decide +kernel)), (by decide +kernel)⟩

theorem w_CartIssueResults_10 : ∃ x, ∃ (s : State), ∃ a, ∃ b, ∃ s1, ∃ s2, ∃ v2, ∃ r, ∃ s3, ∃ t, Issues (.cred x) s ∧ readSrc 1 x.x.a s = .ok a s1 ∧ readSrc 2 x.x.b s1 = .ok b s2 ∧ badRef s2.cur.coreNo (clausesOf (s2.hart s2.cur) x.ext) s2 = .ok none v2 ∧ b.toNat % 1 = 0 ∧ (if 0xE4 = 0xE6 then a.toNat % (if x.x.mod.getLsbD 0 then 4 else 8) = 0 ∧ r = .empty ∧ s3 = v2 else a.toNat % 64 = 0 ∧ ∃ bs, readGlobal s2.cur (.at a) a.toNat 64 v2 = .ok bs s3 ∧ r = (cartRec bs).based (s3.job s2.cur.coreNo).rel ∧ r.ok 0xE4 x.x.mod = true) ∧ 
    let c := s3.cur.coreNo
    
    let store := storeSide 0xE4 r.dsp
    ((s3.job c).cartQ store).length < 64 ∧ 
    let cmd : CartCmd :=
      { id := s3.tick, w0 := packArgs (BitVec.ofNat 8 0xE4) (BitVec.ofNat 4 0) x.x, w1 := packExt x.ext, opc := 0xE4, fn := 0, mod := x.x.mod,
        pc := (s3.hart s3.cur).pc, cr := r, a := a, b := b, cl := clausesOf (s2.hart s2.cur) x.ext, started := false, dest := none, sent := false,
        done := 0, sub := 0, entry := none, gs := [], bad := none, floor := ⟨s3.gseq, []⟩ }
    
    let u := (({ s3 with tick := s3.tick + 1 } : State).updPart (s3.job c).part fun p =>
      { p with custody := addNode p.custody (128 + c) 1 0 }).updJob c fun j => j.setCartQ store (j.cartQ store ++ [cmd])
    ∃ v, clearAnswers s3.cur u = .ok () v ∧ retire 2 v = .ok () t :=
  ⟨cx (ar 0#8 3#8 0#8 0#4 0#20), wRcd 0#8 4#8, _, _, _, _, _, _, _, _, (issues_of (by decide +kernel)), (ok_of (by decide +kernel)), (ok_of (by decide +kernel)), (okV_of (by decide +kernel)), (by decide +kernel), (cart_of (by decide) (by decide +kernel)), (by decide +kernel), _, (okU_of (by decide +kernel)), (okU_of (by decide +kernel))⟩

theorem w_CartIssueResults_11 : ∃ x, ∃ (s : State), ∃ a, ∃ b, ∃ s1, ∃ s2, ∃ v2, ∃ r, ∃ s3, Issues (.ired x) s ∧ readSrc 1 x.x.a s = .ok a s1 ∧ readSrc 2 x.x.b s1 = .ok b s2 ∧ badRef s2.cur.coreNo (clausesOf (s2.hart s2.cur) x.ext) s2 = .ok none v2 ∧ b.toNat % 8 = 0 ∧ (if 0xE5 = 0xE6 then a.toNat % (if x.x.mod.getLsbD 0 then 4 else 8) = 0 ∧ r = .empty ∧ s3 = v2 else a.toNat % 64 = 0 ∧ ∃ bs, readGlobal s2.cur (.at a) a.toNat 64 v2 = .ok bs s3 ∧ r = (cartRec bs).based (s3.job s2.cur.coreNo).rel ∧ r.ok 0xE5 x.x.mod = true) ∧ 
    let c := s3.cur.coreNo
    
    let store := storeSide 0xE5 r.dsp
    64 ≤ ((s3.job c).cartQ store).length :=
  ⟨cx (ar 0#8 3#8 7#8 0#4 0#20), wFull 1#8 0#8, _, _, _, _, _, _, _, (issues_of (by decide +kernel)), (ok_of (by decide +kernel)), (ok_of (by decide +kernel)), (okV_of (by decide +kernel)), (by decide +kernel), (cart_of (by decide) (by decide +kernel)), (by decide +kernel)⟩

theorem w_CartIssueResults_12 : ∃ x, ∃ (s : State), ∃ a, ∃ b, ∃ s1, ∃ s2, ∃ v2, ∃ r, ∃ s3, ∃ t, Issues (.ired x) s ∧ readSrc 1 x.x.a s = .ok a s1 ∧ readSrc 2 x.x.b s1 = .ok b s2 ∧ badRef s2.cur.coreNo (clausesOf (s2.hart s2.cur) x.ext) s2 = .ok none v2 ∧ b.toNat % 8 = 0 ∧ (if 0xE5 = 0xE6 then a.toNat % (if x.x.mod.getLsbD 0 then 4 else 8) = 0 ∧ r = .empty ∧ s3 = v2 else a.toNat % 64 = 0 ∧ ∃ bs, readGlobal s2.cur (.at a) a.toNat 64 v2 = .ok bs s3 ∧ r = (cartRec bs).based (s3.job s2.cur.coreNo).rel ∧ r.ok 0xE5 x.x.mod = true) ∧ 
    let c := s3.cur.coreNo
    
    let store := storeSide 0xE5 r.dsp
    ((s3.job c).cartQ store).length < 64 ∧ 
    let cmd : CartCmd :=
      { id := s3.tick, w0 := packArgs (BitVec.ofNat 8 0xE5) (BitVec.ofNat 4 0) x.x, w1 := packExt x.ext, opc := 0xE5, fn := 0, mod := x.x.mod,
        pc := (s3.hart s3.cur).pc, cr := r, a := a, b := b, cl := clausesOf (s2.hart s2.cur) x.ext, started := false, dest := none, sent := false,
        done := 0, sub := 0, entry := none, gs := [], bad := none, floor := ⟨s3.gseq, []⟩ }
    
    let u := (({ s3 with tick := s3.tick + 1 } : State).updPart (s3.job c).part fun p =>
      { p with custody := addNode p.custody (128 + c) 1 0 }).updJob c fun j => j.setCartQ store (j.cartQ store ++ [cmd])
    ∃ v, clearAnswers s3.cur u = .ok () v ∧ retire 2 v = .ok () t :=
  ⟨cx (ar 0#8 3#8 7#8 0#4 0#20), wRcd 1#8 0#8, _, _, _, _, _, _, _, _, (issues_of (by decide +kernel)), (ok_of (by decide +kernel)), (ok_of (by decide +kernel)), (okV_of (by decide +kernel)), (by decide +kernel), (cart_of (by decide) (by decide +kernel)), (by decide +kernel), _, (okU_of (by decide +kernel)), (okU_of (by decide +kernel))⟩

theorem w_CartIssueResults_13 : ∃ x, ∃ (s : State), ∃ a, ∃ b, ∃ s1, ∃ s2, ∃ v2, ∃ r, ∃ s3, Issues (.atomnAdd x) s ∧ readSrc 1 x.x.a s = .ok a s1 ∧ readSrc 2 x.x.b s1 = .ok b s2 ∧ badRef s2.cur.coreNo (clausesOf (s2.hart s2.cur) x.ext) s2 = .ok none v2 ∧ b.toNat % 1 = 0 ∧ (if 0xE6 = 0xE6 then a.toNat % (if x.x.mod.getLsbD 0 then 4 else 8) = 0 ∧ r = .empty ∧ s3 = v2 else a.toNat % 64 = 0 ∧ ∃ bs, readGlobal s2.cur (.at a) a.toNat 64 v2 = .ok bs s3 ∧ r = (cartRec bs).based (s3.job s2.cur.coreNo).rel ∧ r.ok 0xE6 x.x.mod = true) ∧ 
    let c := s3.cur.coreNo
    
    let store := storeSide 0xE6 r.dsp
    64 ≤ ((s3.job c).cartQ store).length :=
  ⟨cx (ar 0#8 3#8 7#8 0#4 0#20), wFull 0#8 0#8, _, _, _, _, _, _, _, (issues_of (by decide +kernel)), (ok_of (by decide +kernel)), (ok_of (by decide +kernel)), (okV_of (by decide +kernel)), (by decide +kernel), (cartA_of (by decide +kernel)), (by decide +kernel)⟩

theorem w_CartIssueResults_14 : ∃ x, ∃ (s : State), ∃ a, ∃ b, ∃ s1, ∃ s2, ∃ v2, ∃ r, ∃ s3, ∃ t, Issues (.atomnAdd x) s ∧ readSrc 1 x.x.a s = .ok a s1 ∧ readSrc 2 x.x.b s1 = .ok b s2 ∧ badRef s2.cur.coreNo (clausesOf (s2.hart s2.cur) x.ext) s2 = .ok none v2 ∧ b.toNat % 1 = 0 ∧ (if 0xE6 = 0xE6 then a.toNat % (if x.x.mod.getLsbD 0 then 4 else 8) = 0 ∧ r = .empty ∧ s3 = v2 else a.toNat % 64 = 0 ∧ ∃ bs, readGlobal s2.cur (.at a) a.toNat 64 v2 = .ok bs s3 ∧ r = (cartRec bs).based (s3.job s2.cur.coreNo).rel ∧ r.ok 0xE6 x.x.mod = true) ∧ 
    let c := s3.cur.coreNo
    
    let store := storeSide 0xE6 r.dsp
    ((s3.job c).cartQ store).length < 64 ∧ 
    let cmd : CartCmd :=
      { id := s3.tick, w0 := packArgs (BitVec.ofNat 8 0xE6) (BitVec.ofNat 4 0) x.x, w1 := packExt x.ext, opc := 0xE6, fn := 0, mod := x.x.mod,
        pc := (s3.hart s3.cur).pc, cr := r, a := a, b := b, cl := clausesOf (s2.hart s2.cur) x.ext, started := false, dest := none, sent := false,
        done := 0, sub := 0, entry := none, gs := [], bad := none, floor := ⟨s3.gseq, []⟩ }
    
    let u := (({ s3 with tick := s3.tick + 1 } : State).updPart (s3.job c).part fun p =>
      { p with custody := addNode p.custody (128 + c) 1 0 }).updJob c fun j => j.setCartQ store (j.cartQ store ++ [cmd])
    ∃ v, clearAnswers s3.cur u = .ok () v ∧ retire 2 v = .ok () t :=
  ⟨cx (ar 0#8 3#8 7#8 0#4 0#20), wRcd 0#8 0#8, _, _, _, _, _, _, _, _, (issues_of (by decide +kernel)), (ok_of (by decide +kernel)), (ok_of (by decide +kernel)), (okV_of (by decide +kernel)), (by decide +kernel), (cartA_of (by decide +kernel)), (by decide +kernel), _, (okU_of (by decide +kernel)), (okU_of (by decide +kernel))⟩

theorem w_CartIssueResults_15 : ∃ x, ∃ (s : State), ∃ a, ∃ b, ∃ s1, ∃ s2, ∃ v2, ∃ r, ∃ s3, Issues (.atomnAnd x) s ∧ readSrc 1 x.x.a s = .ok a s1 ∧ readSrc 2 x.x.b s1 = .ok b s2 ∧ badRef s2.cur.coreNo (clausesOf (s2.hart s2.cur) x.ext) s2 = .ok none v2 ∧ b.toNat % 1 = 0 ∧ (if 0xE6 = 0xE6 then a.toNat % (if x.x.mod.getLsbD 0 then 4 else 8) = 0 ∧ r = .empty ∧ s3 = v2 else a.toNat % 64 = 0 ∧ ∃ bs, readGlobal s2.cur (.at a) a.toNat 64 v2 = .ok bs s3 ∧ r = (cartRec bs).based (s3.job s2.cur.coreNo).rel ∧ r.ok 0xE6 x.x.mod = true) ∧ 
    let c := s3.cur.coreNo
    
    let store := storeSide 0xE6 r.dsp
    64 ≤ ((s3.job c).cartQ store).length :=
  ⟨cx (ar 0#8 3#8 7#8 0#4 0#20), wFull 0#8 0#8, _, _, _, _, _, _, _, (issues_of (by decide +kernel)), (ok_of (by decide +kernel)), (ok_of (by decide +kernel)), (okV_of (by decide +kernel)), (by decide +kernel), (cartA_of (by decide +kernel)), (by decide +kernel)⟩

theorem w_CartIssueResults_16 : ∃ x, ∃ (s : State), ∃ a, ∃ b, ∃ s1, ∃ s2, ∃ v2, ∃ r, ∃ s3, ∃ t, Issues (.atomnAnd x) s ∧ readSrc 1 x.x.a s = .ok a s1 ∧ readSrc 2 x.x.b s1 = .ok b s2 ∧ badRef s2.cur.coreNo (clausesOf (s2.hart s2.cur) x.ext) s2 = .ok none v2 ∧ b.toNat % 1 = 0 ∧ (if 0xE6 = 0xE6 then a.toNat % (if x.x.mod.getLsbD 0 then 4 else 8) = 0 ∧ r = .empty ∧ s3 = v2 else a.toNat % 64 = 0 ∧ ∃ bs, readGlobal s2.cur (.at a) a.toNat 64 v2 = .ok bs s3 ∧ r = (cartRec bs).based (s3.job s2.cur.coreNo).rel ∧ r.ok 0xE6 x.x.mod = true) ∧ 
    let c := s3.cur.coreNo
    
    let store := storeSide 0xE6 r.dsp
    ((s3.job c).cartQ store).length < 64 ∧ 
    let cmd : CartCmd :=
      { id := s3.tick, w0 := packArgs (BitVec.ofNat 8 0xE6) (BitVec.ofNat 4 1) x.x, w1 := packExt x.ext, opc := 0xE6, fn := 1, mod := x.x.mod,
        pc := (s3.hart s3.cur).pc, cr := r, a := a, b := b, cl := clausesOf (s2.hart s2.cur) x.ext, started := false, dest := none, sent := false,
        done := 0, sub := 0, entry := none, gs := [], bad := none, floor := ⟨s3.gseq, []⟩ }
    
    let u := (({ s3 with tick := s3.tick + 1 } : State).updPart (s3.job c).part fun p =>
      { p with custody := addNode p.custody (128 + c) 1 0 }).updJob c fun j => j.setCartQ store (j.cartQ store ++ [cmd])
    ∃ v, clearAnswers s3.cur u = .ok () v ∧ retire 2 v = .ok () t :=
  ⟨cx (ar 0#8 3#8 7#8 0#4 0#20), wRcd 0#8 0#8, _, _, _, _, _, _, _, _, (issues_of (by decide +kernel)), (ok_of (by decide +kernel)), (ok_of (by decide +kernel)), (okV_of (by decide +kernel)), (by decide +kernel), (cartA_of (by decide +kernel)), (by decide +kernel), _, (okU_of (by decide +kernel)), (okU_of (by decide +kernel))⟩

theorem w_CartIssueResults_17 : ∃ x, ∃ (s : State), ∃ a, ∃ b, ∃ s1, ∃ s2, ∃ v2, ∃ r, ∃ s3, Issues (.atomnOr x) s ∧ readSrc 1 x.x.a s = .ok a s1 ∧ readSrc 2 x.x.b s1 = .ok b s2 ∧ badRef s2.cur.coreNo (clausesOf (s2.hart s2.cur) x.ext) s2 = .ok none v2 ∧ b.toNat % 1 = 0 ∧ (if 0xE6 = 0xE6 then a.toNat % (if x.x.mod.getLsbD 0 then 4 else 8) = 0 ∧ r = .empty ∧ s3 = v2 else a.toNat % 64 = 0 ∧ ∃ bs, readGlobal s2.cur (.at a) a.toNat 64 v2 = .ok bs s3 ∧ r = (cartRec bs).based (s3.job s2.cur.coreNo).rel ∧ r.ok 0xE6 x.x.mod = true) ∧ 
    let c := s3.cur.coreNo
    
    let store := storeSide 0xE6 r.dsp
    64 ≤ ((s3.job c).cartQ store).length :=
  ⟨cx (ar 0#8 3#8 7#8 0#4 0#20), wFull 0#8 0#8, _, _, _, _, _, _, _, (issues_of (by decide +kernel)), (ok_of (by decide +kernel)), (ok_of (by decide +kernel)), (okV_of (by decide +kernel)), (by decide +kernel), (cartA_of (by decide +kernel)), (by decide +kernel)⟩

theorem w_CartIssueResults_18 : ∃ x, ∃ (s : State), ∃ a, ∃ b, ∃ s1, ∃ s2, ∃ v2, ∃ r, ∃ s3, ∃ t, Issues (.atomnOr x) s ∧ readSrc 1 x.x.a s = .ok a s1 ∧ readSrc 2 x.x.b s1 = .ok b s2 ∧ badRef s2.cur.coreNo (clausesOf (s2.hart s2.cur) x.ext) s2 = .ok none v2 ∧ b.toNat % 1 = 0 ∧ (if 0xE6 = 0xE6 then a.toNat % (if x.x.mod.getLsbD 0 then 4 else 8) = 0 ∧ r = .empty ∧ s3 = v2 else a.toNat % 64 = 0 ∧ ∃ bs, readGlobal s2.cur (.at a) a.toNat 64 v2 = .ok bs s3 ∧ r = (cartRec bs).based (s3.job s2.cur.coreNo).rel ∧ r.ok 0xE6 x.x.mod = true) ∧ 
    let c := s3.cur.coreNo
    
    let store := storeSide 0xE6 r.dsp
    ((s3.job c).cartQ store).length < 64 ∧ 
    let cmd : CartCmd :=
      { id := s3.tick, w0 := packArgs (BitVec.ofNat 8 0xE6) (BitVec.ofNat 4 2) x.x, w1 := packExt x.ext, opc := 0xE6, fn := 2, mod := x.x.mod,
        pc := (s3.hart s3.cur).pc, cr := r, a := a, b := b, cl := clausesOf (s2.hart s2.cur) x.ext, started := false, dest := none, sent := false,
        done := 0, sub := 0, entry := none, gs := [], bad := none, floor := ⟨s3.gseq, []⟩ }
    
    let u := (({ s3 with tick := s3.tick + 1 } : State).updPart (s3.job c).part fun p =>
      { p with custody := addNode p.custody (128 + c) 1 0 }).updJob c fun j => j.setCartQ store (j.cartQ store ++ [cmd])
    ∃ v, clearAnswers s3.cur u = .ok () v ∧ retire 2 v = .ok () t :=
  ⟨cx (ar 0#8 3#8 7#8 0#4 0#20), wRcd 0#8 0#8, _, _, _, _, _, _, _, _, (issues_of (by decide +kernel)), (ok_of (by decide +kernel)), (ok_of (by decide +kernel)), (okV_of (by decide +kernel)), (by decide +kernel), (cartA_of (by decide +kernel)), (by decide +kernel), _, (okU_of (by decide +kernel)), (okU_of (by decide +kernel))⟩

theorem w_CartIssueResults_19 : ∃ x, ∃ (s : State), ∃ a, ∃ b, ∃ s1, ∃ s2, ∃ v2, ∃ r, ∃ s3, Issues (.atomnXor x) s ∧ readSrc 1 x.x.a s = .ok a s1 ∧ readSrc 2 x.x.b s1 = .ok b s2 ∧ badRef s2.cur.coreNo (clausesOf (s2.hart s2.cur) x.ext) s2 = .ok none v2 ∧ b.toNat % 1 = 0 ∧ (if 0xE6 = 0xE6 then a.toNat % (if x.x.mod.getLsbD 0 then 4 else 8) = 0 ∧ r = .empty ∧ s3 = v2 else a.toNat % 64 = 0 ∧ ∃ bs, readGlobal s2.cur (.at a) a.toNat 64 v2 = .ok bs s3 ∧ r = (cartRec bs).based (s3.job s2.cur.coreNo).rel ∧ r.ok 0xE6 x.x.mod = true) ∧ 
    let c := s3.cur.coreNo
    
    let store := storeSide 0xE6 r.dsp
    64 ≤ ((s3.job c).cartQ store).length :=
  ⟨cx (ar 0#8 3#8 7#8 0#4 0#20), wFull 0#8 0#8, _, _, _, _, _, _, _, (issues_of (by decide +kernel)), (ok_of (by decide +kernel)), (ok_of (by decide +kernel)), (okV_of (by decide +kernel)), (by decide +kernel), (cartA_of (by decide +kernel)), (by decide +kernel)⟩

theorem w_CartIssueResults_20 : ∃ x, ∃ (s : State), ∃ a, ∃ b, ∃ s1, ∃ s2, ∃ v2, ∃ r, ∃ s3, ∃ t, Issues (.atomnXor x) s ∧ readSrc 1 x.x.a s = .ok a s1 ∧ readSrc 2 x.x.b s1 = .ok b s2 ∧ badRef s2.cur.coreNo (clausesOf (s2.hart s2.cur) x.ext) s2 = .ok none v2 ∧ b.toNat % 1 = 0 ∧ (if 0xE6 = 0xE6 then a.toNat % (if x.x.mod.getLsbD 0 then 4 else 8) = 0 ∧ r = .empty ∧ s3 = v2 else a.toNat % 64 = 0 ∧ ∃ bs, readGlobal s2.cur (.at a) a.toNat 64 v2 = .ok bs s3 ∧ r = (cartRec bs).based (s3.job s2.cur.coreNo).rel ∧ r.ok 0xE6 x.x.mod = true) ∧ 
    let c := s3.cur.coreNo
    
    let store := storeSide 0xE6 r.dsp
    ((s3.job c).cartQ store).length < 64 ∧ 
    let cmd : CartCmd :=
      { id := s3.tick, w0 := packArgs (BitVec.ofNat 8 0xE6) (BitVec.ofNat 4 3) x.x, w1 := packExt x.ext, opc := 0xE6, fn := 3, mod := x.x.mod,
        pc := (s3.hart s3.cur).pc, cr := r, a := a, b := b, cl := clausesOf (s2.hart s2.cur) x.ext, started := false, dest := none, sent := false,
        done := 0, sub := 0, entry := none, gs := [], bad := none, floor := ⟨s3.gseq, []⟩ }
    
    let u := (({ s3 with tick := s3.tick + 1 } : State).updPart (s3.job c).part fun p =>
      { p with custody := addNode p.custody (128 + c) 1 0 }).updJob c fun j => j.setCartQ store (j.cartQ store ++ [cmd])
    ∃ v, clearAnswers s3.cur u = .ok () v ∧ retire 2 v = .ok () t :=
  ⟨cx (ar 0#8 3#8 7#8 0#4 0#20), wRcd 0#8 0#8, _, _, _, _, _, _, _, _, (issues_of (by decide +kernel)), (ok_of (by decide +kernel)), (ok_of (by decide +kernel)), (okV_of (by decide +kernel)), (by decide +kernel), (cartA_of (by decide +kernel)), (by decide +kernel), _, (okU_of (by decide +kernel)), (okU_of (by decide +kernel))⟩

theorem w_CartIssueResults_21 : ∃ x, ∃ (s : State), ∃ a, ∃ b, ∃ s1, ∃ s2, ∃ v2, ∃ r, ∃ s3, Issues (.atomnMin x) s ∧ readSrc 1 x.x.a s = .ok a s1 ∧ readSrc 2 x.x.b s1 = .ok b s2 ∧ badRef s2.cur.coreNo (clausesOf (s2.hart s2.cur) x.ext) s2 = .ok none v2 ∧ b.toNat % 1 = 0 ∧ (if 0xE6 = 0xE6 then a.toNat % (if x.x.mod.getLsbD 0 then 4 else 8) = 0 ∧ r = .empty ∧ s3 = v2 else a.toNat % 64 = 0 ∧ ∃ bs, readGlobal s2.cur (.at a) a.toNat 64 v2 = .ok bs s3 ∧ r = (cartRec bs).based (s3.job s2.cur.coreNo).rel ∧ r.ok 0xE6 x.x.mod = true) ∧ 
    let c := s3.cur.coreNo
    
    let store := storeSide 0xE6 r.dsp
    64 ≤ ((s3.job c).cartQ store).length :=
  ⟨cx (ar 0#8 3#8 7#8 0#4 0#20), wFull 0#8 0#8, _, _, _, _, _, _, _, (issues_of (by decide +kernel)), (ok_of (by decide +kernel)), (ok_of (by decide +kernel)), (okV_of (by decide +kernel)), (by decide +kernel), (cartA_of (by decide +kernel)), (by decide +kernel)⟩

theorem w_CartIssueResults_22 : ∃ x, ∃ (s : State), ∃ a, ∃ b, ∃ s1, ∃ s2, ∃ v2, ∃ r, ∃ s3, ∃ t, Issues (.atomnMin x) s ∧ readSrc 1 x.x.a s = .ok a s1 ∧ readSrc 2 x.x.b s1 = .ok b s2 ∧ badRef s2.cur.coreNo (clausesOf (s2.hart s2.cur) x.ext) s2 = .ok none v2 ∧ b.toNat % 1 = 0 ∧ (if 0xE6 = 0xE6 then a.toNat % (if x.x.mod.getLsbD 0 then 4 else 8) = 0 ∧ r = .empty ∧ s3 = v2 else a.toNat % 64 = 0 ∧ ∃ bs, readGlobal s2.cur (.at a) a.toNat 64 v2 = .ok bs s3 ∧ r = (cartRec bs).based (s3.job s2.cur.coreNo).rel ∧ r.ok 0xE6 x.x.mod = true) ∧ 
    let c := s3.cur.coreNo
    
    let store := storeSide 0xE6 r.dsp
    ((s3.job c).cartQ store).length < 64 ∧ 
    let cmd : CartCmd :=
      { id := s3.tick, w0 := packArgs (BitVec.ofNat 8 0xE6) (BitVec.ofNat 4 4) x.x, w1 := packExt x.ext, opc := 0xE6, fn := 4, mod := x.x.mod,
        pc := (s3.hart s3.cur).pc, cr := r, a := a, b := b, cl := clausesOf (s2.hart s2.cur) x.ext, started := false, dest := none, sent := false,
        done := 0, sub := 0, entry := none, gs := [], bad := none, floor := ⟨s3.gseq, []⟩ }
    
    let u := (({ s3 with tick := s3.tick + 1 } : State).updPart (s3.job c).part fun p =>
      { p with custody := addNode p.custody (128 + c) 1 0 }).updJob c fun j => j.setCartQ store (j.cartQ store ++ [cmd])
    ∃ v, clearAnswers s3.cur u = .ok () v ∧ retire 2 v = .ok () t :=
  ⟨cx (ar 0#8 3#8 7#8 0#4 0#20), wRcd 0#8 0#8, _, _, _, _, _, _, _, _, (issues_of (by decide +kernel)), (ok_of (by decide +kernel)), (ok_of (by decide +kernel)), (okV_of (by decide +kernel)), (by decide +kernel), (cartA_of (by decide +kernel)), (by decide +kernel), _, (okU_of (by decide +kernel)), (okU_of (by decide +kernel))⟩

theorem w_CartIssueResults_23 : ∃ x, ∃ (s : State), ∃ a, ∃ b, ∃ s1, ∃ s2, ∃ v2, ∃ r, ∃ s3, Issues (.atomnMax x) s ∧ readSrc 1 x.x.a s = .ok a s1 ∧ readSrc 2 x.x.b s1 = .ok b s2 ∧ badRef s2.cur.coreNo (clausesOf (s2.hart s2.cur) x.ext) s2 = .ok none v2 ∧ b.toNat % 1 = 0 ∧ (if 0xE6 = 0xE6 then a.toNat % (if x.x.mod.getLsbD 0 then 4 else 8) = 0 ∧ r = .empty ∧ s3 = v2 else a.toNat % 64 = 0 ∧ ∃ bs, readGlobal s2.cur (.at a) a.toNat 64 v2 = .ok bs s3 ∧ r = (cartRec bs).based (s3.job s2.cur.coreNo).rel ∧ r.ok 0xE6 x.x.mod = true) ∧ 
    let c := s3.cur.coreNo
    
    let store := storeSide 0xE6 r.dsp
    64 ≤ ((s3.job c).cartQ store).length :=
  ⟨cx (ar 0#8 3#8 7#8 0#4 0#20), wFull 0#8 0#8, _, _, _, _, _, _, _, (issues_of (by decide +kernel)), (ok_of (by decide +kernel)), (ok_of (by decide +kernel)), (okV_of (by decide +kernel)), (by decide +kernel), (cartA_of (by decide +kernel)), (by decide +kernel)⟩

theorem w_CartIssueResults_24 : ∃ x, ∃ (s : State), ∃ a, ∃ b, ∃ s1, ∃ s2, ∃ v2, ∃ r, ∃ s3, ∃ t, Issues (.atomnMax x) s ∧ readSrc 1 x.x.a s = .ok a s1 ∧ readSrc 2 x.x.b s1 = .ok b s2 ∧ badRef s2.cur.coreNo (clausesOf (s2.hart s2.cur) x.ext) s2 = .ok none v2 ∧ b.toNat % 1 = 0 ∧ (if 0xE6 = 0xE6 then a.toNat % (if x.x.mod.getLsbD 0 then 4 else 8) = 0 ∧ r = .empty ∧ s3 = v2 else a.toNat % 64 = 0 ∧ ∃ bs, readGlobal s2.cur (.at a) a.toNat 64 v2 = .ok bs s3 ∧ r = (cartRec bs).based (s3.job s2.cur.coreNo).rel ∧ r.ok 0xE6 x.x.mod = true) ∧ 
    let c := s3.cur.coreNo
    
    let store := storeSide 0xE6 r.dsp
    ((s3.job c).cartQ store).length < 64 ∧ 
    let cmd : CartCmd :=
      { id := s3.tick, w0 := packArgs (BitVec.ofNat 8 0xE6) (BitVec.ofNat 4 5) x.x, w1 := packExt x.ext, opc := 0xE6, fn := 5, mod := x.x.mod,
        pc := (s3.hart s3.cur).pc, cr := r, a := a, b := b, cl := clausesOf (s2.hart s2.cur) x.ext, started := false, dest := none, sent := false,
        done := 0, sub := 0, entry := none, gs := [], bad := none, floor := ⟨s3.gseq, []⟩ }
    
    let u := (({ s3 with tick := s3.tick + 1 } : State).updPart (s3.job c).part fun p =>
      { p with custody := addNode p.custody (128 + c) 1 0 }).updJob c fun j => j.setCartQ store (j.cartQ store ++ [cmd])
    ∃ v, clearAnswers s3.cur u = .ok () v ∧ retire 2 v = .ok () t :=
  ⟨cx (ar 0#8 3#8 7#8 0#4 0#20), wRcd 0#8 0#8, _, _, _, _, _, _, _, _, (issues_of (by decide +kernel)), (ok_of (by decide +kernel)), (ok_of (by decide +kernel)), (okV_of (by decide +kernel)), (by decide +kernel), (cartA_of (by decide +kernel)), (by decide +kernel), _, (okU_of (by decide +kernel)), (okU_of (by decide +kernel))⟩

theorem w_CartIssueResults_25 : ∃ x, ∃ (s : State), ∃ a, ∃ b, ∃ s1, ∃ s2, ∃ v2, ∃ r, ∃ s3, Issues (.atomnMinu x) s ∧ readSrc 1 x.x.a s = .ok a s1 ∧ readSrc 2 x.x.b s1 = .ok b s2 ∧ badRef s2.cur.coreNo (clausesOf (s2.hart s2.cur) x.ext) s2 = .ok none v2 ∧ b.toNat % 1 = 0 ∧ (if 0xE6 = 0xE6 then a.toNat % (if x.x.mod.getLsbD 0 then 4 else 8) = 0 ∧ r = .empty ∧ s3 = v2 else a.toNat % 64 = 0 ∧ ∃ bs, readGlobal s2.cur (.at a) a.toNat 64 v2 = .ok bs s3 ∧ r = (cartRec bs).based (s3.job s2.cur.coreNo).rel ∧ r.ok 0xE6 x.x.mod = true) ∧ 
    let c := s3.cur.coreNo
    
    let store := storeSide 0xE6 r.dsp
    64 ≤ ((s3.job c).cartQ store).length :=
  ⟨cx (ar 0#8 3#8 7#8 0#4 0#20), wFull 0#8 0#8, _, _, _, _, _, _, _, (issues_of (by decide +kernel)), (ok_of (by decide +kernel)), (ok_of (by decide +kernel)), (okV_of (by decide +kernel)), (by decide +kernel), (cartA_of (by decide +kernel)), (by decide +kernel)⟩

theorem w_CartIssueResults_26 : ∃ x, ∃ (s : State), ∃ a, ∃ b, ∃ s1, ∃ s2, ∃ v2, ∃ r, ∃ s3, ∃ t, Issues (.atomnMinu x) s ∧ readSrc 1 x.x.a s = .ok a s1 ∧ readSrc 2 x.x.b s1 = .ok b s2 ∧ badRef s2.cur.coreNo (clausesOf (s2.hart s2.cur) x.ext) s2 = .ok none v2 ∧ b.toNat % 1 = 0 ∧ (if 0xE6 = 0xE6 then a.toNat % (if x.x.mod.getLsbD 0 then 4 else 8) = 0 ∧ r = .empty ∧ s3 = v2 else a.toNat % 64 = 0 ∧ ∃ bs, readGlobal s2.cur (.at a) a.toNat 64 v2 = .ok bs s3 ∧ r = (cartRec bs).based (s3.job s2.cur.coreNo).rel ∧ r.ok 0xE6 x.x.mod = true) ∧ 
    let c := s3.cur.coreNo
    
    let store := storeSide 0xE6 r.dsp
    ((s3.job c).cartQ store).length < 64 ∧ 
    let cmd : CartCmd :=
      { id := s3.tick, w0 := packArgs (BitVec.ofNat 8 0xE6) (BitVec.ofNat 4 6) x.x, w1 := packExt x.ext, opc := 0xE6, fn := 6, mod := x.x.mod,
        pc := (s3.hart s3.cur).pc, cr := r, a := a, b := b, cl := clausesOf (s2.hart s2.cur) x.ext, started := false, dest := none, sent := false,
        done := 0, sub := 0, entry := none, gs := [], bad := none, floor := ⟨s3.gseq, []⟩ }
    
    let u := (({ s3 with tick := s3.tick + 1 } : State).updPart (s3.job c).part fun p =>
      { p with custody := addNode p.custody (128 + c) 1 0 }).updJob c fun j => j.setCartQ store (j.cartQ store ++ [cmd])
    ∃ v, clearAnswers s3.cur u = .ok () v ∧ retire 2 v = .ok () t :=
  ⟨cx (ar 0#8 3#8 7#8 0#4 0#20), wRcd 0#8 0#8, _, _, _, _, _, _, _, _, (issues_of (by decide +kernel)), (ok_of (by decide +kernel)), (ok_of (by decide +kernel)), (okV_of (by decide +kernel)), (by decide +kernel), (cartA_of (by decide +kernel)), (by decide +kernel), _, (okU_of (by decide +kernel)), (okU_of (by decide +kernel))⟩

theorem w_CartIssueResults_27 : ∃ x, ∃ (s : State), ∃ a, ∃ b, ∃ s1, ∃ s2, ∃ v2, ∃ r, ∃ s3, Issues (.atomnMaxu x) s ∧ readSrc 1 x.x.a s = .ok a s1 ∧ readSrc 2 x.x.b s1 = .ok b s2 ∧ badRef s2.cur.coreNo (clausesOf (s2.hart s2.cur) x.ext) s2 = .ok none v2 ∧ b.toNat % 1 = 0 ∧ (if 0xE6 = 0xE6 then a.toNat % (if x.x.mod.getLsbD 0 then 4 else 8) = 0 ∧ r = .empty ∧ s3 = v2 else a.toNat % 64 = 0 ∧ ∃ bs, readGlobal s2.cur (.at a) a.toNat 64 v2 = .ok bs s3 ∧ r = (cartRec bs).based (s3.job s2.cur.coreNo).rel ∧ r.ok 0xE6 x.x.mod = true) ∧ 
    let c := s3.cur.coreNo
    
    let store := storeSide 0xE6 r.dsp
    64 ≤ ((s3.job c).cartQ store).length :=
  ⟨cx (ar 0#8 3#8 7#8 0#4 0#20), wFull 0#8 0#8, _, _, _, _, _, _, _, (issues_of (by decide +kernel)), (ok_of (by decide +kernel)), (ok_of (by decide +kernel)), (okV_of (by decide +kernel)), (by decide +kernel), (cartA_of (by decide +kernel)), (by decide +kernel)⟩

theorem w_CartIssueResults_28 : ∃ x, ∃ (s : State), ∃ a, ∃ b, ∃ s1, ∃ s2, ∃ v2, ∃ r, ∃ s3, ∃ t, Issues (.atomnMaxu x) s ∧ readSrc 1 x.x.a s = .ok a s1 ∧ readSrc 2 x.x.b s1 = .ok b s2 ∧ badRef s2.cur.coreNo (clausesOf (s2.hart s2.cur) x.ext) s2 = .ok none v2 ∧ b.toNat % 1 = 0 ∧ (if 0xE6 = 0xE6 then a.toNat % (if x.x.mod.getLsbD 0 then 4 else 8) = 0 ∧ r = .empty ∧ s3 = v2 else a.toNat % 64 = 0 ∧ ∃ bs, readGlobal s2.cur (.at a) a.toNat 64 v2 = .ok bs s3 ∧ r = (cartRec bs).based (s3.job s2.cur.coreNo).rel ∧ r.ok 0xE6 x.x.mod = true) ∧ 
    let c := s3.cur.coreNo
    
    let store := storeSide 0xE6 r.dsp
    ((s3.job c).cartQ store).length < 64 ∧ 
    let cmd : CartCmd :=
      { id := s3.tick, w0 := packArgs (BitVec.ofNat 8 0xE6) (BitVec.ofNat 4 7) x.x, w1 := packExt x.ext, opc := 0xE6, fn := 7, mod := x.x.mod,
        pc := (s3.hart s3.cur).pc, cr := r, a := a, b := b, cl := clausesOf (s2.hart s2.cur) x.ext, started := false, dest := none, sent := false,
        done := 0, sub := 0, entry := none, gs := [], bad := none, floor := ⟨s3.gseq, []⟩ }
    
    let u := (({ s3 with tick := s3.tick + 1 } : State).updPart (s3.job c).part fun p =>
      { p with custody := addNode p.custody (128 + c) 1 0 }).updJob c fun j => j.setCartQ store (j.cartQ store ++ [cmd])
    ∃ v, clearAnswers s3.cur u = .ok () v ∧ retire 2 v = .ok () t :=
  ⟨cx (ar 0#8 3#8 7#8 0#4 0#20), wRcd 0#8 0#8, _, _, _, _, _, _, _, _, (issues_of (by decide +kernel)), (ok_of (by decide +kernel)), (ok_of (by decide +kernel)), (okV_of (by decide +kernel)), (by decide +kernel), (cartA_of (by decide +kernel)), (by decide +kernel), _, (okU_of (by decide +kernel)), (okU_of (by decide +kernel))⟩

theorem w_CartIssueResults_29 : ∃ x, ∃ (s : State), ∃ a, ∃ b, ∃ s1, ∃ s2, ∃ v2, ∃ r, ∃ s3, Issues (.atomnSwap x) s ∧ readSrc 1 x.x.a s = .ok a s1 ∧ readSrc 2 x.x.b s1 = .ok b s2 ∧ badRef s2.cur.coreNo (clausesOf (s2.hart s2.cur) x.ext) s2 = .ok none v2 ∧ b.toNat % 1 = 0 ∧ (if 0xE6 = 0xE6 then a.toNat % (if x.x.mod.getLsbD 0 then 4 else 8) = 0 ∧ r = .empty ∧ s3 = v2 else a.toNat % 64 = 0 ∧ ∃ bs, readGlobal s2.cur (.at a) a.toNat 64 v2 = .ok bs s3 ∧ r = (cartRec bs).based (s3.job s2.cur.coreNo).rel ∧ r.ok 0xE6 x.x.mod = true) ∧ 
    let c := s3.cur.coreNo
    
    let store := storeSide 0xE6 r.dsp
    64 ≤ ((s3.job c).cartQ store).length :=
  ⟨cx (ar 0#8 3#8 7#8 0#4 0#20), wFull 0#8 0#8, _, _, _, _, _, _, _, (issues_of (by decide +kernel)), (ok_of (by decide +kernel)), (ok_of (by decide +kernel)), (okV_of (by decide +kernel)), (by decide +kernel), (cartA_of (by decide +kernel)), (by decide +kernel)⟩

theorem w_CartIssueResults_30 : ∃ x, ∃ (s : State), ∃ a, ∃ b, ∃ s1, ∃ s2, ∃ v2, ∃ r, ∃ s3, ∃ t, Issues (.atomnSwap x) s ∧ readSrc 1 x.x.a s = .ok a s1 ∧ readSrc 2 x.x.b s1 = .ok b s2 ∧ badRef s2.cur.coreNo (clausesOf (s2.hart s2.cur) x.ext) s2 = .ok none v2 ∧ b.toNat % 1 = 0 ∧ (if 0xE6 = 0xE6 then a.toNat % (if x.x.mod.getLsbD 0 then 4 else 8) = 0 ∧ r = .empty ∧ s3 = v2 else a.toNat % 64 = 0 ∧ ∃ bs, readGlobal s2.cur (.at a) a.toNat 64 v2 = .ok bs s3 ∧ r = (cartRec bs).based (s3.job s2.cur.coreNo).rel ∧ r.ok 0xE6 x.x.mod = true) ∧ 
    let c := s3.cur.coreNo
    
    let store := storeSide 0xE6 r.dsp
    ((s3.job c).cartQ store).length < 64 ∧ 
    let cmd : CartCmd :=
      { id := s3.tick, w0 := packArgs (BitVec.ofNat 8 0xE6) (BitVec.ofNat 4 8) x.x, w1 := packExt x.ext, opc := 0xE6, fn := 8, mod := x.x.mod,
        pc := (s3.hart s3.cur).pc, cr := r, a := a, b := b, cl := clausesOf (s2.hart s2.cur) x.ext, started := false, dest := none, sent := false,
        done := 0, sub := 0, entry := none, gs := [], bad := none, floor := ⟨s3.gseq, []⟩ }
    
    let u := (({ s3 with tick := s3.tick + 1 } : State).updPart (s3.job c).part fun p =>
      { p with custody := addNode p.custody (128 + c) 1 0 }).updJob c fun j => j.setCartQ store (j.cartQ store ++ [cmd])
    ∃ v, clearAnswers s3.cur u = .ok () v ∧ retire 2 v = .ok () t :=
  ⟨cx (ar 0#8 3#8 7#8 0#4 0#20), wRcd 0#8 0#8, _, _, _, _, _, _, _, _, (issues_of (by decide +kernel)), (ok_of (by decide +kernel)), (ok_of (by decide +kernel)), (okV_of (by decide +kernel)), (by decide +kernel), (cartA_of (by decide +kernel)), (by decide +kernel), _, (okU_of (by decide +kernel)), (okU_of (by decide +kernel))⟩

theorem w_CartIssueResults_31 : ∃ x, ∃ (s : State), ∃ a, ∃ b, ∃ s1, ∃ s2, ∃ v2, ∃ r, ∃ s3, Issues (.put x) s ∧ readSrc 1 x.x.a s = .ok a s1 ∧ readSrc 2 x.x.b s1 = .ok b s2 ∧ badRef s2.cur.coreNo (clausesOf (s2.hart s2.cur) x.ext) s2 = .ok none v2 ∧ b.toNat % 1 = 0 ∧ (if 0xE8 = 0xE6 then a.toNat % (if x.x.mod.getLsbD 0 then 4 else 8) = 0 ∧ r = .empty ∧ s3 = v2 else a.toNat % 64 = 0 ∧ ∃ bs, readGlobal s2.cur (.at a) a.toNat 64 v2 = .ok bs s3 ∧ r = (cartRec bs).based (s3.job s2.cur.coreNo).rel ∧ r.ok 0xE8 x.x.mod = true) ∧ 
    let c := s3.cur.coreNo
    
    let store := storeSide 0xE8 r.dsp
    64 ≤ ((s3.job c).cartQ store).length :=
  ⟨cx (ar 0#8 3#8 7#8 0#4 0#20), wFull 0#8 4#8, _, _, _, _, _, _, _, (issues_of (by decide +kernel)), (ok_of (by decide +kernel)), (ok_of (by decide +kernel)), (okV_of (by decide +kernel)), (by decide +kernel), (cart_of (by decide) (by decide +kernel)), (by decide +kernel)⟩

theorem w_CartIssueResults_32 : ∃ x, ∃ (s : State), ∃ a, ∃ b, ∃ s1, ∃ s2, ∃ v2, ∃ r, ∃ s3, ∃ t, Issues (.put x) s ∧ readSrc 1 x.x.a s = .ok a s1 ∧ readSrc 2 x.x.b s1 = .ok b s2 ∧ badRef s2.cur.coreNo (clausesOf (s2.hart s2.cur) x.ext) s2 = .ok none v2 ∧ b.toNat % 1 = 0 ∧ (if 0xE8 = 0xE6 then a.toNat % (if x.x.mod.getLsbD 0 then 4 else 8) = 0 ∧ r = .empty ∧ s3 = v2 else a.toNat % 64 = 0 ∧ ∃ bs, readGlobal s2.cur (.at a) a.toNat 64 v2 = .ok bs s3 ∧ r = (cartRec bs).based (s3.job s2.cur.coreNo).rel ∧ r.ok 0xE8 x.x.mod = true) ∧ 
    let c := s3.cur.coreNo
    
    let store := storeSide 0xE8 r.dsp
    ((s3.job c).cartQ store).length < 64 ∧ 
    let cmd : CartCmd :=
      { id := s3.tick, w0 := packArgs (BitVec.ofNat 8 0xE8) (BitVec.ofNat 4 0) x.x, w1 := packExt x.ext, opc := 0xE8, fn := 0, mod := x.x.mod,
        pc := (s3.hart s3.cur).pc, cr := r, a := a, b := b, cl := clausesOf (s2.hart s2.cur) x.ext, started := false, dest := none, sent := false,
        done := 0, sub := 0, entry := none, gs := [], bad := none, floor := ⟨s3.gseq, []⟩ }
    
    let u := (({ s3 with tick := s3.tick + 1 } : State).updPart (s3.job c).part fun p =>
      { p with custody := addNode p.custody (128 + c) 1 0 }).updJob c fun j => j.setCartQ store (j.cartQ store ++ [cmd])
    ∃ v, clearAnswers s3.cur u = .ok () v ∧ retire 2 v = .ok () t :=
  ⟨cx (ar 0#8 3#8 7#8 0#4 0#20), wRcd 0#8 4#8, _, _, _, _, _, _, _, _, (issues_of (by decide +kernel)), (ok_of (by decide +kernel)), (ok_of (by decide +kernel)), (okV_of (by decide +kernel)), (by decide +kernel), (cart_of (by decide) (by decide +kernel)), (by decide +kernel), _, (okU_of (by decide +kernel)), (okU_of (by decide +kernel))⟩

theorem w_CartIssueResults_33 : ∃ x, ∃ (s : State), ∃ a, ∃ b, ∃ s1, ∃ s2, ∃ v2, ∃ r, ∃ s3, Issues (.get x) s ∧ readSrc 1 x.x.a s = .ok a s1 ∧ readSrc 2 x.x.b s1 = .ok b s2 ∧ badRef s2.cur.coreNo (clausesOf (s2.hart s2.cur) x.ext) s2 = .ok none v2 ∧ b.toNat % 1 = 0 ∧ (if 0xE9 = 0xE6 then a.toNat % (if x.x.mod.getLsbD 0 then 4 else 8) = 0 ∧ r = .empty ∧ s3 = v2 else a.toNat % 64 = 0 ∧ ∃ bs, readGlobal s2.cur (.at a) a.toNat 64 v2 = .ok bs s3 ∧ r = (cartRec bs).based (s3.job s2.cur.coreNo).rel ∧ r.ok 0xE9 x.x.mod = true) ∧ 
    let c := s3.cur.coreNo
    
    let store := storeSide 0xE9 r.dsp
    64 ≤ ((s3.job c).cartQ store).length :=
  ⟨cx (ar 0#8 3#8 7#8 0#4 0#20), wFull 0#8 1#8, _, _, _, _, _, _, _, (issues_of (by decide +kernel)), (ok_of (by decide +kernel)), (ok_of (by decide +kernel)), (okV_of (by decide +kernel)), (by decide +kernel), (cart_of (by decide) (by decide +kernel)), (by decide +kernel)⟩

theorem w_CartIssueResults_34 : ∃ x, ∃ (s : State), ∃ a, ∃ b, ∃ s1, ∃ s2, ∃ v2, ∃ r, ∃ s3, ∃ t, Issues (.get x) s ∧ readSrc 1 x.x.a s = .ok a s1 ∧ readSrc 2 x.x.b s1 = .ok b s2 ∧ badRef s2.cur.coreNo (clausesOf (s2.hart s2.cur) x.ext) s2 = .ok none v2 ∧ b.toNat % 1 = 0 ∧ (if 0xE9 = 0xE6 then a.toNat % (if x.x.mod.getLsbD 0 then 4 else 8) = 0 ∧ r = .empty ∧ s3 = v2 else a.toNat % 64 = 0 ∧ ∃ bs, readGlobal s2.cur (.at a) a.toNat 64 v2 = .ok bs s3 ∧ r = (cartRec bs).based (s3.job s2.cur.coreNo).rel ∧ r.ok 0xE9 x.x.mod = true) ∧ 
    let c := s3.cur.coreNo
    
    let store := storeSide 0xE9 r.dsp
    ((s3.job c).cartQ store).length < 64 ∧ 
    let cmd : CartCmd :=
      { id := s3.tick, w0 := packArgs (BitVec.ofNat 8 0xE9) (BitVec.ofNat 4 0) x.x, w1 := packExt x.ext, opc := 0xE9, fn := 0, mod := x.x.mod,
        pc := (s3.hart s3.cur).pc, cr := r, a := a, b := b, cl := clausesOf (s2.hart s2.cur) x.ext, started := false, dest := none, sent := false,
        done := 0, sub := 0, entry := none, gs := [], bad := none, floor := ⟨s3.gseq, []⟩ }
    
    let u := (({ s3 with tick := s3.tick + 1 } : State).updPart (s3.job c).part fun p =>
      { p with custody := addNode p.custody (128 + c) 1 0 }).updJob c fun j => j.setCartQ store (j.cartQ store ++ [cmd])
    ∃ v, clearAnswers s3.cur u = .ok () v ∧ retire 2 v = .ok () t :=
  ⟨cx (ar 0#8 3#8 7#8 0#4 0#20), wRcd 0#8 1#8, _, _, _, _, _, _, _, _, (issues_of (by decide +kernel)), (ok_of (by decide +kernel)), (ok_of (by decide +kernel)), (okV_of (by decide +kernel)), (by decide +kernel), (cart_of (by decide) (by decide +kernel)), (by decide +kernel), _, (okU_of (by decide +kernel)), (okU_of (by decide +kernel))⟩

theorem w_CartStops_1 : 
    let p := (Instr.ccopy, 0xE0)
    ∃ x, ∃ (s : State), ∃ a, ∃ b, ∃ s1, ∃ s2, ∃ v, Issues (p.1 x) s ∧ readSrc 1 x.x.a s = .ok a s1 ∧ readSrc 2 x.x.b s1 = .ok b s2 ∧ 
    let c := s2.cur.coreNo
    
    let cl := clausesOf (s2.hart s2.cur) x.ext
    ∃ ref, ∃ u, ∃ t, badRef c cl s2 = .ok (some ref) v ∧ dropCommand c 0 (s2.hart s2.cur).pc cl ref v = .ok () u ∧ retire 2 u = .ok () t :=
  ⟨⟨ar 0#8 3#8 0#8 0#4 0#20, (cwt 0x107#9 0#24).ext, none⟩, wA, _, _, _, _, _, (issues_of (by decide +kernel)), (ok_of (by decide +kernel)), (ok_of (by decide +kernel)), 0#64, _, _, (okV_of (by decide +kernel)), (okU_of (by decide +kernel)), (okU_of (by decide +kernel))⟩

theorem w_CartStops_2 : 
    let p := (Instr.cmort, 0xE1)
    ∃ x, ∃ (s : State), ∃ a, ∃ b, ∃ s1, ∃ s2, ∃ v, Issues (p.1 x) s ∧ readSrc 1 x.x.a s = .ok a s1 ∧ readSrc 2 x.x.b s1 = .ok b s2 ∧ 
    let c := s2.cur.coreNo
    
    let cl := clausesOf (s2.hart s2.cur) x.ext
    ∃ ref, ∃ u, ∃ t, badRef c cl s2 = .ok (some ref) v ∧ dropCommand c 0 (s2.hart s2.cur).pc cl ref v = .ok () u ∧ retire 2 u = .ok () t :=
  ⟨⟨ar 0#8 3#8 0#8 0#4 0#20, (cwt 0x107#9 0#24).ext, none⟩, wA, _, _, _, _, _, (issues_of (by decide +kernel)), (ok_of (by decide +kernel)), (ok_of (by decide +kernel)), 0#64, _, _, (okV_of (by decide +kernel)), (okU_of (by decide +kernel)), (okU_of (by decide +kernel))⟩

theorem w_CartStops_3 : 
    let p := (Instr.cgath, 0xE2)
    ∃ x, ∃ (s : State), ∃ a, ∃ b, ∃ s1, ∃ s2, ∃ v, Issues (p.1 x) s ∧ readSrc 1 x.x.a s = .ok a s1 ∧ readSrc 2 x.x.b s1 = .ok b s2 ∧ 
    let c := s2.cur.coreNo
    
    let cl := clausesOf (s2.hart s2.cur) x.ext
    ∃ ref, ∃ u, ∃ t, badRef c cl s2 = .ok (some ref) v ∧ dropCommand c 0 (s2.hart s2.cur).pc cl ref v = .ok () u ∧ retire 2 u = .ok () t :=
  ⟨⟨ar 0#8 3#8 7#8 0#4 0#20, (cwt 0x107#9 0#24).ext, none⟩, wA, _, _, _, _, _, (issues_of (by decide +kernel)), (ok_of (by decide +kernel)), (ok_of (by decide +kernel)), 0#64, _, _, (okV_of (by decide +kernel)), (okU_of (by decide +kernel)), (okU_of (by decide +kernel))⟩

theorem w_CartStops_4 : 
    let p := (Instr.cscat, 0xE3)
    ∃ x, ∃ (s : State), ∃ a, ∃ b, ∃ s1, ∃ s2, ∃ v, Issues (p.1 x) s ∧ readSrc 1 x.x.a s = .ok a s1 ∧ readSrc 2 x.x.b s1 = .ok b s2 ∧ 
    let c := s2.cur.coreNo
    
    let cl := clausesOf (s2.hart s2.cur) x.ext
    ∃ ref, ∃ u, ∃ t, badRef c cl s2 = .ok (some ref) v ∧ dropCommand c 0 (s2.hart s2.cur).pc cl ref v = .ok () u ∧ retire 2 u = .ok () t :=
  ⟨⟨ar 0#8 3#8 7#8 0#4 0#20, (cwt 0x107#9 0#24).ext, none⟩, wA, _, _, _, _, _, (issues_of (by decide +kernel)), (ok_of (by decide +kernel)), (ok_of (by decide +kernel)), 0#64, _, _, (okV_of (by decide +kernel)), (okU_of (by decide +kernel)), (okU_of (by decide +kernel))⟩

theorem w_CartStops_5 : 
    let p := (Instr.cred, 0xE4)
    ∃ x, ∃ (s : State), ∃ a, ∃ b, ∃ s1, ∃ s2, ∃ v, Issues (p.1 x) s ∧ readSrc 1 x.x.a s = .ok a s1 ∧ readSrc 2 x.x.b s1 = .ok b s2 ∧ 
    let c := s2.cur.coreNo
    
    let cl := clausesOf (s2.hart s2.cur) x.ext
    ∃ ref, ∃ u, ∃ t, badRef c cl s2 = .ok (some ref) v ∧ dropCommand c 0 (s2.hart s2.cur).pc cl ref v = .ok () u ∧ retire 2 u = .ok () t :=
  ⟨⟨ar 0#8 3#8 0#8 0#4 0#20, (cwt 0x107#9 0#24).ext, none⟩, wA, _, _, _, _, _, (issues_of (by decide +kernel)), (ok_of (by decide +kernel)), (ok_of (by decide +kernel)), 0#64, _, _, (okV_of (by decide +kernel)), (okU_of (by decide +kernel)), (okU_of (by decide +kernel))⟩

theorem w_CartStops_6 : 
    let p := (Instr.ired, 0xE5)
    ∃ x, ∃ (s : State), ∃ a, ∃ b, ∃ s1, ∃ s2, ∃ v, Issues (p.1 x) s ∧ readSrc 1 x.x.a s = .ok a s1 ∧ readSrc 2 x.x.b s1 = .ok b s2 ∧ 
    let c := s2.cur.coreNo
    
    let cl := clausesOf (s2.hart s2.cur) x.ext
    ∃ ref, ∃ u, ∃ t, badRef c cl s2 = .ok (some ref) v ∧ dropCommand c 0 (s2.hart s2.cur).pc cl ref v = .ok () u ∧ retire 2 u = .ok () t :=
  ⟨⟨ar 0#8 3#8 7#8 0#4 0#20, (cwt 0x107#9 0#24).ext, none⟩, wA, _, _, _, _, _, (issues_of (by decide +kernel)), (ok_of (by decide +kernel)), (ok_of (by decide +kernel)), 0#64, _, _, (okV_of (by decide +kernel)), (okU_of (by decide +kernel)), (okU_of (by decide +kernel))⟩

theorem w_CartStops_7 : 
    let p := (Instr.put, 0xE8)
    ∃ x, ∃ (s : State), ∃ a, ∃ b, ∃ s1, ∃ s2, ∃ v, Issues (p.1 x) s ∧ readSrc 1 x.x.a s = .ok a s1 ∧ readSrc 2 x.x.b s1 = .ok b s2 ∧ 
    let c := s2.cur.coreNo
    
    let cl := clausesOf (s2.hart s2.cur) x.ext
    ∃ ref, ∃ u, ∃ t, badRef c cl s2 = .ok (some ref) v ∧ dropCommand c 0 (s2.hart s2.cur).pc cl ref v = .ok () u ∧ retire 2 u = .ok () t :=
  ⟨⟨ar 0#8 3#8 7#8 0#4 0#20, (cwt 0x107#9 0#24).ext, none⟩, wA, _, _, _, _, _, (issues_of (by decide +kernel)), (ok_of (by decide +kernel)), (ok_of (by decide +kernel)), 0#64, _, _, (okV_of (by decide +kernel)), (okU_of (by decide +kernel)), (okU_of (by decide +kernel))⟩

theorem w_CartStops_8 : 
    let p := (Instr.get, 0xE9)
    ∃ x, ∃ (s : State), ∃ a, ∃ b, ∃ s1, ∃ s2, ∃ v, Issues (p.1 x) s ∧ readSrc 1 x.x.a s = .ok a s1 ∧ readSrc 2 x.x.b s1 = .ok b s2 ∧ 
    let c := s2.cur.coreNo
    
    let cl := clausesOf (s2.hart s2.cur) x.ext
    ∃ ref, ∃ u, ∃ t, badRef c cl s2 = .ok (some ref) v ∧ dropCommand c 0 (s2.hart s2.cur).pc cl ref v = .ok () u ∧ retire 2 u = .ok () t :=
  ⟨⟨ar 0#8 3#8 7#8 0#4 0#20, (cwt 0x107#9 0#24).ext, none⟩, wA, _, _, _, _, _, (issues_of (by decide +kernel)), (ok_of (by decide +kernel)), (ok_of (by decide +kernel)), 0#64, _, _, (okV_of (by decide +kernel)), (okU_of (by decide +kernel)), (okU_of (by decide +kernel))⟩

theorem w_CartStops_9 : 
    let p := (Instr.ccopy, 0xE0)
    ∃ x, ∃ (s : State), ∃ a, ∃ b, ∃ s1, ∃ s2, ∃ v, Issues (p.1 x) s ∧ readSrc 1 x.x.a s = .ok a s1 ∧ readSrc 2 x.x.b s1 = .ok b s2 ∧ 
    let c := s2.cur.coreNo
    
    let cl := clausesOf (s2.hart s2.cur) x.ext
    ∃ t, badRef c cl s2 = .ok none v ∧ a.toNat % 64 ≠ 0 ∧ takeException v.cur 0x143#10 (.at a) v = .ok () t :=
  ⟨cx (ar 0#8 1#8 0#8 0#4 0#20), wA, _, _, _, _, _, (issues_of (by decide +kernel)), (ok_of (by decide +kernel)), (ok_of (by decide +kernel)), _, (okV_of (by decide +kernel)), (by decide +kernel), (okU_of (by decide +kernel))⟩

theorem w_CartStops_10 : 
    let p := (Instr.cmort, 0xE1)
    ∃ x, ∃ (s : State), ∃ a, ∃ b, ∃ s1, ∃ s2, ∃ v, Issues (p.1 x) s ∧ readSrc 1 x.x.a s = .ok a s1 ∧ readSrc 2 x.x.b s1 = .ok b s2 ∧ 
    let c := s2.cur.coreNo
    
    let cl := clausesOf (s2.hart s2.cur) x.ext
    ∃ t, badRef c cl s2 = .ok none v ∧ a.toNat % 64 ≠ 0 ∧ takeException v.cur 0x143#10 (.at a) v = .ok () t :=
  ⟨cx (ar 0#8 1#8 0#8 0#4 0#20), wA, _, _, _, _, _, (issues_of (by decide +kernel)), (ok_of (by decide +kernel)), (ok_of (by decide +kernel)), _, (okV_of (by decide +kernel)), (by decide +kernel), (okU_of (by decide +kernel))⟩

theorem w_CartStops_11 : 
    let p := (Instr.cgath, 0xE2)
    ∃ x, ∃ (s : State), ∃ a, ∃ b, ∃ s1, ∃ s2, ∃ v, Issues (p.1 x) s ∧ readSrc 1 x.x.a s = .ok a s1 ∧ readSrc 2 x.x.b s1 = .ok b s2 ∧ 
    let c := s2.cur.coreNo
    
    let cl := clausesOf (s2.hart s2.cur) x.ext
    ∃ t, badRef c cl s2 = .ok none v ∧ a.toNat % 64 ≠ 0 ∧ takeException v.cur 0x143#10 (.at a) v = .ok () t :=
  ⟨cx (ar 0#8 1#8 7#8 0#4 0#20), wA, _, _, _, _, _, (issues_of (by decide +kernel)), (ok_of (by decide +kernel)), (ok_of (by decide +kernel)), _, (okV_of (by decide +kernel)), (by decide +kernel), (okU_of (by decide +kernel))⟩

theorem w_CartStops_12 : 
    let p := (Instr.cscat, 0xE3)
    ∃ x, ∃ (s : State), ∃ a, ∃ b, ∃ s1, ∃ s2, ∃ v, Issues (p.1 x) s ∧ readSrc 1 x.x.a s = .ok a s1 ∧ readSrc 2 x.x.b s1 = .ok b s2 ∧ 
    let c := s2.cur.coreNo
    
    let cl := clausesOf (s2.hart s2.cur) x.ext
    ∃ t, badRef c cl s2 = .ok none v ∧ a.toNat % 64 ≠ 0 ∧ takeException v.cur 0x143#10 (.at a) v = .ok () t :=
  ⟨cx (ar 0#8 1#8 7#8 0#4 0#20), wA, _, _, _, _, _, (issues_of (by decide +kernel)), (ok_of (by decide +kernel)), (ok_of (by decide +kernel)), _, (okV_of (by decide +kernel)), (by decide +kernel), (okU_of (by decide +kernel))⟩

theorem w_CartStops_13 : 
    let p := (Instr.cred, 0xE4)
    ∃ x, ∃ (s : State), ∃ a, ∃ b, ∃ s1, ∃ s2, ∃ v, Issues (p.1 x) s ∧ readSrc 1 x.x.a s = .ok a s1 ∧ readSrc 2 x.x.b s1 = .ok b s2 ∧ 
    let c := s2.cur.coreNo
    
    let cl := clausesOf (s2.hart s2.cur) x.ext
    ∃ t, badRef c cl s2 = .ok none v ∧ a.toNat % 64 ≠ 0 ∧ takeException v.cur 0x143#10 (.at a) v = .ok () t :=
  ⟨cx (ar 0#8 1#8 0#8 0#4 0#20), wA, _, _, _, _, _, (issues_of (by decide +kernel)), (ok_of (by decide +kernel)), (ok_of (by decide +kernel)), _, (okV_of (by decide +kernel)), (by decide +kernel), (okU_of (by decide +kernel))⟩

theorem w_CartStops_14 : 
    let p := (Instr.ired, 0xE5)
    ∃ x, ∃ (s : State), ∃ a, ∃ b, ∃ s1, ∃ s2, ∃ v, Issues (p.1 x) s ∧ readSrc 1 x.x.a s = .ok a s1 ∧ readSrc 2 x.x.b s1 = .ok b s2 ∧ 
    let c := s2.cur.coreNo
    
    let cl := clausesOf (s2.hart s2.cur) x.ext
    ∃ t, badRef c cl s2 = .ok none v ∧ a.toNat % 64 ≠ 0 ∧ takeException v.cur 0x143#10 (.at a) v = .ok () t :=
  ⟨cx (ar 0#8 1#8 7#8 0#4 0#20), wA, _, _, _, _, _, (issues_of (by decide +kernel)), (ok_of (by decide +kernel)), (ok_of (by decide +kernel)), _, (okV_of (by decide +kernel)), (by decide +kernel), (okU_of (by decide +kernel))⟩

theorem w_CartStops_15 : 
    let p := (Instr.put, 0xE8)
    ∃ x, ∃ (s : State), ∃ a, ∃ b, ∃ s1, ∃ s2, ∃ v, Issues (p.1 x) s ∧ readSrc 1 x.x.a s = .ok a s1 ∧ readSrc 2 x.x.b s1 = .ok b s2 ∧ 
    let c := s2.cur.coreNo
    
    let cl := clausesOf (s2.hart s2.cur) x.ext
    ∃ t, badRef c cl s2 = .ok none v ∧ a.toNat % 64 ≠ 0 ∧ takeException v.cur 0x143#10 (.at a) v = .ok () t :=
  ⟨cx (ar 0#8 1#8 7#8 0#4 0#20), wA, _, _, _, _, _, (issues_of (by decide +kernel)), (ok_of (by decide +kernel)), (ok_of (by decide +kernel)), _, (okV_of (by decide +kernel)), (by decide +kernel), (okU_of (by decide +kernel))⟩

theorem w_CartStops_16 : 
    let p := (Instr.get, 0xE9)
    ∃ x, ∃ (s : State), ∃ a, ∃ b, ∃ s1, ∃ s2, ∃ v, Issues (p.1 x) s ∧ readSrc 1 x.x.a s = .ok a s1 ∧ readSrc 2 x.x.b s1 = .ok b s2 ∧ 
    let c := s2.cur.coreNo
    
    let cl := clausesOf (s2.hart s2.cur) x.ext
    ∃ t, badRef c cl s2 = .ok none v ∧ a.toNat % 64 ≠ 0 ∧ takeException v.cur 0x143#10 (.at a) v = .ok () t :=
  ⟨cx (ar 0#8 1#8 7#8 0#4 0#20), wA, _, _, _, _, _, (issues_of (by decide +kernel)), (ok_of (by decide +kernel)), (ok_of (by decide +kernel)), _, (okV_of (by decide +kernel)), (by decide +kernel), (okU_of (by decide +kernel))⟩

theorem w_CartStops_17 : 
    let p := (Instr.ccopy, 0xE0)
    ∃ x, ∃ (s : State), ∃ a, ∃ b, ∃ s1, ∃ s2, ∃ v, Issues (p.1 x) s ∧ readSrc 1 x.x.a s = .ok a s1 ∧ readSrc 2 x.x.b s1 = .ok b s2 ∧ 
    let c := s2.cur.coreNo
    
    let cl := clausesOf (s2.hart s2.cur) x.ext
    ∃ bs, ∃ s3, ∃ t, badRef c cl s2 = .ok none v ∧ a.toNat % 64 = 0 ∧ b.toNat % 8 = 0 ∧ readGlobal s2.cur (.at a) a.toNat 64 v = .ok bs s3 ∧ ((cartRec bs).based (s3.job c).rel).ok p.2 x.x.mod = false ∧ takeException s3.cur 0x200#10 (.at a) s3 = .ok () t :=
  ⟨cx (ar 0#8 3#8 0#8 0#4 0#20), wA, _, _, _, _, _, (issues_of (by decide +kernel)), (ok_of (by decide +kernel)), (ok_of (by decide +kernel)), _, _, _, (okV_of (by decide +kernel)), (by decide +kernel), (by decide +kernel), (ok_of (by decide +kernel)), (by decide +kernel), (okU_of (by decide +kernel))⟩

theorem w_CartStops_18 : 
    let p := (Instr.cmort, 0xE1)
    ∃ x, ∃ (s : State), ∃ a, ∃ b, ∃ s1, ∃ s2, ∃ v, Issues (p.1 x) s ∧ readSrc 1 x.x.a s = .ok a s1 ∧ readSrc 2 x.x.b s1 = .ok b s2 ∧ 
    let c := s2.cur.coreNo
    
    let cl := clausesOf (s2.hart s2.cur) x.ext
    ∃ bs, ∃ s3, ∃ t, badRef c cl s2 = .ok none v ∧ a.toNat % 64 = 0 ∧ b.toNat % 8 = 0 ∧ readGlobal s2.cur (.at a) a.toNat 64 v = .ok bs s3 ∧ ((cartRec bs).based (s3.job c).rel).ok p.2 x.x.mod = false ∧ takeException s3.cur 0x200#10 (.at a) s3 = .ok () t :=
  ⟨cx (ar 0#8 3#8 0#8 0#4 0#20), wA, _, _, _, _, _, (issues_of (by decide +kernel)), (ok_of (by decide +kernel)), (ok_of (by decide +kernel)), _, _, _, (okV_of (by decide +kernel)), (by decide +kernel), (by decide +kernel), (ok_of (by decide +kernel)), (by decide +kernel), (okU_of (by decide +kernel))⟩

theorem w_CartStops_19 : 
    let p := (Instr.cgath, 0xE2)
    ∃ x, ∃ (s : State), ∃ a, ∃ b, ∃ s1, ∃ s2, ∃ v, Issues (p.1 x) s ∧ readSrc 1 x.x.a s = .ok a s1 ∧ readSrc 2 x.x.b s1 = .ok b s2 ∧ 
    let c := s2.cur.coreNo
    
    let cl := clausesOf (s2.hart s2.cur) x.ext
    ∃ bs, ∃ s3, ∃ t, badRef c cl s2 = .ok none v ∧ a.toNat % 64 = 0 ∧ b.toNat % 8 = 0 ∧ readGlobal s2.cur (.at a) a.toNat 64 v = .ok bs s3 ∧ ((cartRec bs).based (s3.job c).rel).ok p.2 x.x.mod = false ∧ takeException s3.cur 0x200#10 (.at a) s3 = .ok () t :=
  ⟨cx (ar 0#8 3#8 7#8 0#4 0#20), wA, _, _, _, _, _, (issues_of (by decide +kernel)), (ok_of (by decide +kernel)), (ok_of (by decide +kernel)), _, _, _, (okV_of (by decide +kernel)), (by decide +kernel), (by decide +kernel), (ok_of (by decide +kernel)), (by decide +kernel), (okU_of (by decide +kernel))⟩

theorem w_CartStops_20 : 
    let p := (Instr.cscat, 0xE3)
    ∃ x, ∃ (s : State), ∃ a, ∃ b, ∃ s1, ∃ s2, ∃ v, Issues (p.1 x) s ∧ readSrc 1 x.x.a s = .ok a s1 ∧ readSrc 2 x.x.b s1 = .ok b s2 ∧ 
    let c := s2.cur.coreNo
    
    let cl := clausesOf (s2.hart s2.cur) x.ext
    ∃ bs, ∃ s3, ∃ t, badRef c cl s2 = .ok none v ∧ a.toNat % 64 = 0 ∧ b.toNat % 8 = 0 ∧ readGlobal s2.cur (.at a) a.toNat 64 v = .ok bs s3 ∧ ((cartRec bs).based (s3.job c).rel).ok p.2 x.x.mod = false ∧ takeException s3.cur 0x200#10 (.at a) s3 = .ok () t :=
  ⟨cx (ar 0#8 3#8 7#8 0#4 0#20), wA, _, _, _, _, _, (issues_of (by decide +kernel)), (ok_of (by decide +kernel)), (ok_of (by decide +kernel)), _, _, _, (okV_of (by decide +kernel)), (by decide +kernel), (by decide +kernel), (ok_of (by decide +kernel)), (by decide +kernel), (okU_of (by decide +kernel))⟩

theorem w_CartStops_21 : 
    let p := (Instr.cred, 0xE4)
    ∃ x, ∃ (s : State), ∃ a, ∃ b, ∃ s1, ∃ s2, ∃ v, Issues (p.1 x) s ∧ readSrc 1 x.x.a s = .ok a s1 ∧ readSrc 2 x.x.b s1 = .ok b s2 ∧ 
    let c := s2.cur.coreNo
    
    let cl := clausesOf (s2.hart s2.cur) x.ext
    ∃ bs, ∃ s3, ∃ t, badRef c cl s2 = .ok none v ∧ a.toNat % 64 = 0 ∧ b.toNat % 8 = 0 ∧ readGlobal s2.cur (.at a) a.toNat 64 v = .ok bs s3 ∧ ((cartRec bs).based (s3.job c).rel).ok p.2 x.x.mod = false ∧ takeException s3.cur 0x200#10 (.at a) s3 = .ok () t :=
  ⟨cx (ar 0#8 3#8 0#8 0#4 0#20), wA, _, _, _, _, _, (issues_of (by decide +kernel)), (ok_of (by decide +kernel)), (ok_of (by decide +kernel)), _, _, _, (okV_of (by decide +kernel)), (by decide +kernel), (by decide +kernel), (ok_of (by decide +kernel)), (by decide +kernel), (okU_of (by decide +kernel))⟩

theorem w_CartStops_22 : 
    let p := (Instr.ired, 0xE5)
    ∃ x, ∃ (s : State), ∃ a, ∃ b, ∃ s1, ∃ s2, ∃ v, Issues (p.1 x) s ∧ readSrc 1 x.x.a s = .ok a s1 ∧ readSrc 2 x.x.b s1 = .ok b s2 ∧ 
    let c := s2.cur.coreNo
    
    let cl := clausesOf (s2.hart s2.cur) x.ext
    ∃ bs, ∃ s3, ∃ t, badRef c cl s2 = .ok none v ∧ a.toNat % 64 = 0 ∧ b.toNat % 8 = 0 ∧ readGlobal s2.cur (.at a) a.toNat 64 v = .ok bs s3 ∧ ((cartRec bs).based (s3.job c).rel).ok p.2 x.x.mod = false ∧ takeException s3.cur 0x200#10 (.at a) s3 = .ok () t :=
  ⟨cx (ar 0#8 3#8 7#8 0#4 0#20), wA, _, _, _, _, _, (issues_of (by decide +kernel)), (ok_of (by decide +kernel)), (ok_of (by decide +kernel)), _, _, _, (okV_of (by decide +kernel)), (by decide +kernel), (by decide +kernel), (ok_of (by decide +kernel)), (by decide +kernel), (okU_of (by decide +kernel))⟩

theorem w_CartStops_23 : 
    let p := (Instr.put, 0xE8)
    ∃ x, ∃ (s : State), ∃ a, ∃ b, ∃ s1, ∃ s2, ∃ v, Issues (p.1 x) s ∧ readSrc 1 x.x.a s = .ok a s1 ∧ readSrc 2 x.x.b s1 = .ok b s2 ∧ 
    let c := s2.cur.coreNo
    
    let cl := clausesOf (s2.hart s2.cur) x.ext
    ∃ bs, ∃ s3, ∃ t, badRef c cl s2 = .ok none v ∧ a.toNat % 64 = 0 ∧ b.toNat % 8 = 0 ∧ readGlobal s2.cur (.at a) a.toNat 64 v = .ok bs s3 ∧ ((cartRec bs).based (s3.job c).rel).ok p.2 x.x.mod = false ∧ takeException s3.cur 0x200#10 (.at a) s3 = .ok () t :=
  ⟨cx (ar 0#8 3#8 7#8 0#4 0#20), wA, _, _, _, _, _, (issues_of (by decide +kernel)), (ok_of (by decide +kernel)), (ok_of (by decide +kernel)), _, _, _, (okV_of (by decide +kernel)), (by decide +kernel), (by decide +kernel), (ok_of (by decide +kernel)), (by decide +kernel), (okU_of (by decide +kernel))⟩

theorem w_CartStops_24 : 
    let p := (Instr.get, 0xE9)
    ∃ x, ∃ (s : State), ∃ a, ∃ b, ∃ s1, ∃ s2, ∃ v, Issues (p.1 x) s ∧ readSrc 1 x.x.a s = .ok a s1 ∧ readSrc 2 x.x.b s1 = .ok b s2 ∧ 
    let c := s2.cur.coreNo
    
    let cl := clausesOf (s2.hart s2.cur) x.ext
    ∃ bs, ∃ s3, ∃ t, badRef c cl s2 = .ok none v ∧ a.toNat % 64 = 0 ∧ b.toNat % 8 = 0 ∧ readGlobal s2.cur (.at a) a.toNat 64 v = .ok bs s3 ∧ ((cartRec bs).based (s3.job c).rel).ok p.2 x.x.mod = false ∧ takeException s3.cur 0x200#10 (.at a) s3 = .ok () t :=
  ⟨cx (ar 0#8 3#8 7#8 0#4 0#20), wA, _, _, _, _, _, (issues_of (by decide +kernel)), (ok_of (by decide +kernel)), (ok_of (by decide +kernel)), _, _, _, (okV_of (by decide +kernel)), (by decide +kernel), (by decide +kernel), (ok_of (by decide +kernel)), (by decide +kernel), (okU_of (by decide +kernel))⟩

theorem w_CartStops_25 : 
    let i := Instr.atomnAdd
    ∃ x, ∃ (s : State), ∃ a, ∃ b, ∃ s1, ∃ s2, ∃ v, ∃ t, Issues (i x) s ∧ readSrc 1 x.x.a s = .ok a s1 ∧ readSrc 2 x.x.b s1 = .ok b s2 ∧ badRef s2.cur.coreNo (clausesOf (s2.hart s2.cur) x.ext) s2 = .ok none v ∧ (a.toNat % (if x.x.mod.getLsbD 0 then 4 else 8) ≠ 0) ∧ takeException v.cur 0x208#10 (.at a) v = .ok () t :=
  ⟨cx (ar 0#8 1#8 7#8 0#4 0#20), wA, _, _, _, _, _, _, (issues_of (by decide +kernel)), (ok_of (by decide +kernel)), (ok_of (by decide +kernel)), (okV_of (by decide +kernel)), (by decide +kernel), (okU_of (by decide +kernel))⟩

theorem w_CartStops_26 : 
    let i := Instr.atomnAnd
    ∃ x, ∃ (s : State), ∃ a, ∃ b, ∃ s1, ∃ s2, ∃ v, ∃ t, Issues (i x) s ∧ readSrc 1 x.x.a s = .ok a s1 ∧ readSrc 2 x.x.b s1 = .ok b s2 ∧ badRef s2.cur.coreNo (clausesOf (s2.hart s2.cur) x.ext) s2 = .ok none v ∧ (a.toNat % (if x.x.mod.getLsbD 0 then 4 else 8) ≠ 0) ∧ takeException v.cur 0x208#10 (.at a) v = .ok () t :=
  ⟨cx (ar 0#8 1#8 7#8 0#4 0#20), wA, _, _, _, _, _, _, (issues_of (by decide +kernel)), (ok_of (by decide +kernel)), (ok_of (by decide +kernel)), (okV_of (by decide +kernel)), (by decide +kernel), (okU_of (by decide +kernel))⟩

theorem w_CartStops_27 : 
    let i := Instr.atomnOr
    ∃ x, ∃ (s : State), ∃ a, ∃ b, ∃ s1, ∃ s2, ∃ v, ∃ t, Issues (i x) s ∧ readSrc 1 x.x.a s = .ok a s1 ∧ readSrc 2 x.x.b s1 = .ok b s2 ∧ badRef s2.cur.coreNo (clausesOf (s2.hart s2.cur) x.ext) s2 = .ok none v ∧ (a.toNat % (if x.x.mod.getLsbD 0 then 4 else 8) ≠ 0) ∧ takeException v.cur 0x208#10 (.at a) v = .ok () t :=
  ⟨cx (ar 0#8 1#8 7#8 0#4 0#20), wA, _, _, _, _, _, _, (issues_of (by decide +kernel)), (ok_of (by decide +kernel)), (ok_of (by decide +kernel)), (okV_of (by decide +kernel)), (by decide +kernel), (okU_of (by decide +kernel))⟩

theorem w_CartStops_28 : 
    let i := Instr.atomnXor
    ∃ x, ∃ (s : State), ∃ a, ∃ b, ∃ s1, ∃ s2, ∃ v, ∃ t, Issues (i x) s ∧ readSrc 1 x.x.a s = .ok a s1 ∧ readSrc 2 x.x.b s1 = .ok b s2 ∧ badRef s2.cur.coreNo (clausesOf (s2.hart s2.cur) x.ext) s2 = .ok none v ∧ (a.toNat % (if x.x.mod.getLsbD 0 then 4 else 8) ≠ 0) ∧ takeException v.cur 0x208#10 (.at a) v = .ok () t :=
  ⟨cx (ar 0#8 1#8 7#8 0#4 0#20), wA, _, _, _, _, _, _, (issues_of (by decide +kernel)), (ok_of (by decide +kernel)), (ok_of (by decide +kernel)), (okV_of (by decide +kernel)), (by decide +kernel), (okU_of (by decide +kernel))⟩

theorem w_CartStops_29 : 
    let i := Instr.atomnMin
    ∃ x, ∃ (s : State), ∃ a, ∃ b, ∃ s1, ∃ s2, ∃ v, ∃ t, Issues (i x) s ∧ readSrc 1 x.x.a s = .ok a s1 ∧ readSrc 2 x.x.b s1 = .ok b s2 ∧ badRef s2.cur.coreNo (clausesOf (s2.hart s2.cur) x.ext) s2 = .ok none v ∧ (a.toNat % (if x.x.mod.getLsbD 0 then 4 else 8) ≠ 0) ∧ takeException v.cur 0x208#10 (.at a) v = .ok () t :=
  ⟨cx (ar 0#8 1#8 7#8 0#4 0#20), wA, _, _, _, _, _, _, (issues_of (by decide +kernel)), (ok_of (by decide +kernel)), (ok_of (by decide +kernel)), (okV_of (by decide +kernel)), (by decide +kernel), (okU_of (by decide +kernel))⟩

theorem w_CartStops_30 : 
    let i := Instr.atomnMax
    ∃ x, ∃ (s : State), ∃ a, ∃ b, ∃ s1, ∃ s2, ∃ v, ∃ t, Issues (i x) s ∧ readSrc 1 x.x.a s = .ok a s1 ∧ readSrc 2 x.x.b s1 = .ok b s2 ∧ badRef s2.cur.coreNo (clausesOf (s2.hart s2.cur) x.ext) s2 = .ok none v ∧ (a.toNat % (if x.x.mod.getLsbD 0 then 4 else 8) ≠ 0) ∧ takeException v.cur 0x208#10 (.at a) v = .ok () t :=
  ⟨cx (ar 0#8 1#8 7#8 0#4 0#20), wA, _, _, _, _, _, _, (issues_of (by decide +kernel)), (ok_of (by decide +kernel)), (ok_of (by decide +kernel)), (okV_of (by decide +kernel)), (by decide +kernel), (okU_of (by decide +kernel))⟩

theorem w_CartStops_31 : 
    let i := Instr.atomnMinu
    ∃ x, ∃ (s : State), ∃ a, ∃ b, ∃ s1, ∃ s2, ∃ v, ∃ t, Issues (i x) s ∧ readSrc 1 x.x.a s = .ok a s1 ∧ readSrc 2 x.x.b s1 = .ok b s2 ∧ badRef s2.cur.coreNo (clausesOf (s2.hart s2.cur) x.ext) s2 = .ok none v ∧ (a.toNat % (if x.x.mod.getLsbD 0 then 4 else 8) ≠ 0) ∧ takeException v.cur 0x208#10 (.at a) v = .ok () t :=
  ⟨cx (ar 0#8 1#8 7#8 0#4 0#20), wA, _, _, _, _, _, _, (issues_of (by decide +kernel)), (ok_of (by decide +kernel)), (ok_of (by decide +kernel)), (okV_of (by decide +kernel)), (by decide +kernel), (okU_of (by decide +kernel))⟩

theorem w_CartStops_32 : 
    let i := Instr.atomnMaxu
    ∃ x, ∃ (s : State), ∃ a, ∃ b, ∃ s1, ∃ s2, ∃ v, ∃ t, Issues (i x) s ∧ readSrc 1 x.x.a s = .ok a s1 ∧ readSrc 2 x.x.b s1 = .ok b s2 ∧ badRef s2.cur.coreNo (clausesOf (s2.hart s2.cur) x.ext) s2 = .ok none v ∧ (a.toNat % (if x.x.mod.getLsbD 0 then 4 else 8) ≠ 0) ∧ takeException v.cur 0x208#10 (.at a) v = .ok () t :=
  ⟨cx (ar 0#8 1#8 7#8 0#4 0#20), wA, _, _, _, _, _, _, (issues_of (by decide +kernel)), (ok_of (by decide +kernel)), (ok_of (by decide +kernel)), (okV_of (by decide +kernel)), (by decide +kernel), (okU_of (by decide +kernel))⟩

theorem w_CartStops_33 : 
    let i := Instr.atomnSwap
    ∃ x, ∃ (s : State), ∃ a, ∃ b, ∃ s1, ∃ s2, ∃ v, ∃ t, Issues (i x) s ∧ readSrc 1 x.x.a s = .ok a s1 ∧ readSrc 2 x.x.b s1 = .ok b s2 ∧ badRef s2.cur.coreNo (clausesOf (s2.hart s2.cur) x.ext) s2 = .ok none v ∧ (a.toNat % (if x.x.mod.getLsbD 0 then 4 else 8) ≠ 0) ∧ takeException v.cur 0x208#10 (.at a) v = .ok () t :=
  ⟨cx (ar 0#8 1#8 7#8 0#4 0#20), wA, _, _, _, _, _, _, (issues_of (by decide +kernel)), (ok_of (by decide +kernel)), (ok_of (by decide +kernel)), (okV_of (by decide +kernel)), (by decide +kernel), (okU_of (by decide +kernel))⟩

theorem w_RailEvents_1 : ∃ w, ∃ v, ∃ (s : State), s.admits w Reg.railEn v = true ∧ (∀ k < 15, s.flag Reg.railEn k = true → Word.bit v k = true ∨ s.railBreaks v k = true) :=
  ⟨.mgmt, 1#64, pw, (by decide +kernel), (by decide +kernel)⟩

theorem w_RailEvents_2 : ∃ k, ∃ (s : State), k < 15 ∧ s.flag Reg.railEn k = true ∧ s.flag Reg.railStat k = false ∧ s.power.seqStep = 0 ∧ (k = 0 ∨ 4 < k) :=
  ⟨0, pwr Reg.railEn 1#64, (by decide +kernel), (by decide +kernel), (by decide +kernel), (by decide +kernel), (by decide +kernel)⟩

theorem w_RailEvents_3 : ∃ n, ∃ (s : State), n < 4 ∧ s.flag Reg.railEn (n + 1) = true ∧ s.flag Reg.railStat (n + 1) = false ∧ s.power.seqStep = 0 :=
  ⟨0, pwr Reg.railEn 2#64, (by decide +kernel), (by decide +kernel), (by decide +kernel), (by decide +kernel)⟩

theorem w_RailEvents_4 : ∃ k, ∃ (s : State), ∃ t, k < 15 ∧ s.flag Reg.railEn k = true ∧ s.power.seqStep = 0 ∧ 
    let off := (List.range 15).filter fun j => (j == k || railUnder k j) && s.flag Reg.railEn j
    (railsOff off (off.foldl (fun u j => u.putFlag Reg.railStat (32 + j) true) s) = .ok () t) ∧ t.power.seqStep = 0 :=
  ⟨5, pwr Reg.railEn 0x20#64, _, (by decide +kernel), (by decide +kernel), (by decide +kernel), (okU_of (by decide +kernel)), (by decide +kernel)⟩

theorem w_RailEvents_5 : ∃ w, ∃ v, ∃ (s : State), ∃ s1, ∃ s2, s.admits w Reg.rstCtl v = true ∧ (each (List.range 4) (fun n => rstCluster n (Word.bit v n)) s = .ok () s1) ∧ (each (List.range 8) (fun f => rstFrontEnd f (Word.bit v (8 + f))) s1 = .ok () s2) :=
  ⟨.mgmt, 0#64, pwr Reg.rstCtl 0#64, _, _, (by decide +kernel), (okU_of (by decide +kernel)), (okU_of (by decide +kernel))⟩

theorem w_RailEvents_6 : ∃ n, ∃ (s : State), s.flag Reg.rstCtl n = false ∧ s.clusterUsed n = true :=
  ⟨0, (pwr Reg.rstCtl 0#64).setReg (Reg.partCtl 0) 0x10011#64, (by decide +kernel), (by decide +kernel)⟩

theorem w_RailEvents_7 : ∃ n, ∃ (s : State), s.flag Reg.rstCtl n = true ∧ (s.flag Reg.railStat (1 + n) && s.flag Reg.railStat (5 + n)) = false :=
  ⟨0, pwr Reg.rstCtl 0xF#64, (by decide +kernel), (by decide +kernel)⟩

theorem w_RailEvents_8 : ∃ n, ∃ (s : State), ∃ t, s.flag Reg.rstCtl n = false ∧ s.clusterUsed n = false ∧ loseCluster n ((s.putFlag Reg.rstCtl n true).putFlag Reg.rstCtl (20 + n) false) = .ok () t :=
  ⟨0, pwr Reg.rstCtl 0#64, _, (by decide +kernel), (by decide +kernel), (okU_of (by decide +kernel))⟩

theorem w_RailEvents_9 : ∃ n, ∃ (s : State), n < 4 ∧ s.flag Reg.rstCtl n = false ∧ s.flag Reg.rstCtl (20 + n) = false :=
  ⟨0, pwr Reg.rstCtl 0#64, (by decide +kernel), (by decide +kernel), (by decide +kernel)⟩

theorem w_RailEvents_10 : ∃ n, ∃ (s : State), ∃ t, n < 4 ∧ s.flag Reg.rstCtl (20 + n) = true ∧ (∀ k < 8, (s.part k).phys.any (fun c => c / 32 == n) = false) ∧ loseCluster n (s.putFlag Reg.rstCtl (20 + n) false) = .ok () t :=
  ⟨0, pwr Reg.rstCtl 0x100000#64, _, (by decide +kernel), (by decide +kernel), (by decide +kernel), (okU_of (by decide +kernel))⟩

theorem w_TimebaseEvents_1 : ∃ w, ∃ v, ∃ (s : State), s.admits w Reg.clkCtl v = true ∧ Word.bit v 0 = true :=
  ⟨.mgmt, 1#64, pw, (by decide +kernel), (by decide +kernel)⟩

theorem w_TimebaseEvents_2 : ∃ w, ∃ v, ∃ (s : State), s.admits w Reg.clkCtl v = true ∧ Word.bit v 0 = false :=
  ⟨.mgmt, 0#64, pw, (by decide +kernel), (by decide +kernel)⟩

theorem w_TimebaseEvents_3 : ∃ (s : State), s.flag Reg.clkCtl 0 = true ∧ s.flag Reg.clkCtl 8 = false ∧ s.flag Reg.railStat 0 = true ∧ s.power.seqStep ≠ 2 :=
  ⟨(pwr Reg.clkCtl 1#64).setReg Reg.railStat 1#64, (by decide +kernel), (by decide +kernel), (by decide +kernel), (by decide +kernel)⟩

theorem w_TimebaseEvents_4 : ∃ (s : State), s.flag Reg.clkCtl 8 = true :=
  ⟨pwr Reg.clkCtl 0x101#64, (by decide +kernel)⟩

theorem w_TimebaseEvents_5 : ∃ (s : State), s.dccRun = true ∧ (∀ e ∈ s.cores, s.clockHeld e.1 = false) :=
  ⟨{ pw with dccRun := true }, (by decide +kernel), (fun e h => nomatch h)⟩

theorem w_TimebaseEvents_6 : ∃ (s : State), s.tsSlew = 0 :=
  ⟨State.reset, (by decide +kernel)⟩

theorem w_PowerEvents_1 : ∃ w, ∃ v, ∃ (s : State), ∃ s1, ∃ s2, ∃ s3, ∃ t, s.admits w Reg.dvfsCtl v = true ∧ dvfsByte 0 (Word.bits v 0 8) s = .ok () s1 ∧ dvfsByte 1 (Word.bits v 8 8) s1 = .ok () s2 ∧ dvfsByte 2 (Word.bits v 16 8) s2 = .ok () s3 ∧ dvfsByte 3 (Word.bits v 24 8) s3 = .ok () t :=
  ⟨.mgmt, 0#64, pw, _, _, _, _, (by decide +kernel), (okU_of (by decide +kernel)), (okU_of (by decide +kernel)), (okU_of (by decide +kernel)), (okU_of (by decide +kernel))⟩

theorem w_PowerEvents_2 : ∃ b, bitsAt b 0 2 = 3 :=
  ⟨3, (by decide +kernel)⟩

theorem w_PowerEvents_3 : ∃ n, ∃ b, ∃ (s : State), ∃ t, ∃ u, bitsAt b 0 2 ≠ 3 ∧ bitsAt b 7 1 = 0 ∧ s.lockedCl n = false ∧ (s.putFlag Reg.dvfsCtl (8 * n + 7) false).lockedCl n = false ∧ tryLock n ((s.putFlag Reg.dvfsCtl (8 * n + 7) false).putField Reg.dvfsCtl (8 * n) 2 (bitsAt b 0 2)) = .ok () t ∧ movePoint n t = .ok () u :=
  ⟨0, 0, pw, _, _, (by decide +kernel), (by decide +kernel), (by decide +kernel), (by decide +kernel), (okU_of (by decide +kernel)), (okU_of (by decide +kernel))⟩

theorem w_PowerEvents_4 : ∃ n, ∃ (s : State), ∃ t, ∃ u, n < 4 ∧ s.flag Reg.dvfsStat (8 * n + 5) = true ∧ (tryLock n ((s.putField Reg.dvfsStat (8 * n) 2 (Map.get (fun _ => 0) s.power.target n)).putFlag Reg.dvfsStat (8 * n + 5) false) = .ok () t) ∧ movePoint n t = .ok () u :=
  ⟨0, pwr Reg.dvfsStat 0x20#64, _, _, (by decide +kernel), (by decide +kernel), (okU_of (by decide +kernel)), (okU_of (by decide +kernel))⟩

theorem w_PowerEvents_5 : ∃ w, ∃ v, ∃ (s : State), s.admits w Reg.pcapCtl v = true ∧ w ≠ .board :=
  ⟨.mgmt, 0#64, pw, (by decide +kernel), (by decide +kernel)⟩

theorem w_PowerEvents_6 : ∃ v, ∃ (s : State), s.admits .board Reg.pcapCtl v = true ∧ 
    let x := Word.setBits (s.reg Reg.pcapCtl) 16 16 (Word.bits v 16 16)
    1200 ≤ Word.bits x 16 16 ∧ Word.bits x 16 16 ≤ 3200 ∧ Word.bits x 16 16 ≤ Word.bits x 32 16 ∧ Word.bits x 32 16 ≤ 3400 ∧ Word.bits x 8 8 ≠ 0 :=
  ⟨0x7D00000#64, pwr Reg.pcapCtl 0xBB807D00100#64, (by decide +kernel), (by decide +kernel), (by decide +kernel), (by decide +kernel), (by decide +kernel), (by decide +kernel)⟩

theorem w_PowerEvents_7 : ∃ (pinst : BitVec 16), ∃ (s : State), s.power.porst = false ∧ 
    let i := pinst.toNat
    
    let pl1 := s.field Reg.pcapCtl 16 16
    
    let n := s.power.samples + 1
    
    let above := if n % 10 ≠ 0 then s.power.above else if pl1 < i then s.power.above + 1 else 0
    (¬ ((s.field Reg.pcapCtl 32 16 < i ∨ 100 ≤ above) ∧ s.flag Reg.pcapStat 4 = false)) :=
  ⟨0#16, pw, (by decide +kernel), (by decide +kernel)⟩

theorem w_PowerEvents_8 : ∃ (s : State), s.flag Reg.pcapStat 4 = true ∧ 100 ≤ s.power.calm :=
  ⟨{ pwr Reg.pcapStat 0x10#64 with power := { Power.reset with calm := 100 } }, (by decide +kernel), (by decide +kernel)⟩

theorem w_PowerEvents_9 : ∃ (l : List Nat), ∃ (s : State), ∃ n, ∃ t, ∃ u, s.flag Reg.pcapCtl 0 = true ∧ s.flag Reg.bootStat 0 = true ∧ s.field Reg.pcapCtl 16 16 < s.field Reg.pcapStat 16 16 ∧ (bestCluster (fun n => l.getD n 0) ((List.range 4).filter fun n => ! s.lockedCl n && decide (0 < s.effPoint n)) = some n) ∧ (movePoint n ((s.onPower fun p => { p with below := 0 }).onPower fun p => { p with eff := Map.set (fun _ => 2) p.eff n (s.effPoint n - 1) }) = .ok () t) ∧ capStatus t = .ok () u :=
  ⟨[0, 0, 0, 0], ((((pwr Reg.pcapCtl 0xBB807D00101#64).setReg Reg.bootStat 1#64).setReg Reg.pcapStat 0x9C40000#64).setReg Reg.dvfsCtl 1#64), 0, _, _, (by decide +kernel), (by decide +kernel), (by decide +kernel), (by decide +kernel), (okU_of (by decide +kernel)), (okU_of (by decide +kernel))⟩

theorem w_ThermalEvents_1 : ∃ w, ∃ v, ∃ (s : State), s.admits w Reg.thmCfg v = true :=
  ⟨.mgmt, 0#64, pwr Reg.thmCfg 0x505050505000#64, (by decide +kernel)⟩

theorem w_ThermalEvents_2 : ∃ die, ∃ hbm, ∃ (s : State), s.power.porst = false ∧ die.length = 5 ∧ hbm.length = 16 ∧ 
    let u := (((s.putField Reg.thmStat 24 8 (hottest die).1).putField Reg.thmStat 20 4 (hottest die).2).putField Reg.thmStat 40 8
      (hottest hbm).1).putField Reg.thmStat 36 4 (hottest hbm).2
    (s.field Reg.thmCfg 16 8 ≤ (hottest die).1 ∨ s.field Reg.thmCfg 40 8 ≤ (hottest hbm).1) ∧ ∃ t, railsOff (List.range 15) u = .ok () t :=
  ⟨[200, 0, 0, 0, 0], List.replicate 16 0, pwr Reg.thmCfg 0x505050505000#64, (by decide +kernel), (by decide +kernel), (by decide +kernel), (by decide +kernel), _, (okU_of (by decide +kernel))⟩

theorem w_ThermalEvents_3 : ∃ die, ∃ hbm, ∃ (s : State), s.power.porst = false ∧ die.length = 5 ∧ hbm.length = 16 ∧ 
    let u := (((s.putField Reg.thmStat 24 8 (hottest die).1).putField Reg.thmStat 20 4 (hottest die).2).putField Reg.thmStat 40 8
      (hottest hbm).1).putField Reg.thmStat 36 4 (hottest hbm).2
    (hottest die).1 < s.field Reg.thmCfg 16 8 ∧ (hottest hbm).1 < s.field Reg.thmCfg 40 8 ∧ ∃ u1, ∃ u2, ∃ t, each (List.range 5) (dieSample die (s.field Reg.thmCfg 8 8)) u = .ok () u1 ∧ each (List.range 16) (hbmSample hbm (s.field Reg.thmCfg 24 8) (s.field Reg.thmCfg 32 8)) u1 = .ok () u2 ∧ thmStatus u2 = .ok () t :=
  ⟨[0, 0, 0, 0, 0], List.replicate 16 0, pwr Reg.thmCfg 0x505050505000#64, (by decide +kernel), (by decide +kernel), (by decide +kernel), (by decide +kernel), (by decide +kernel), _, _, _, (okU_of (by decide +kernel)), (okU_of (by decide +kernel)), (okU_of (by decide +kernel))⟩

theorem w_ThermalEvents_4 : ∃ n, ∃ (s : State), ∃ t, ∃ u, n < 4 ∧ (Map.get (fun _ => false) s.power.dieHot n = true) ∧ (200 ≤ Map.get (fun _ => 0) s.power.cool n) ∧ (movePoint n (s.onPower fun p => { p with dieHot := Map.set (fun _ => false) p.dieHot n false }) = .ok () t) ∧ thmStatus t = .ok () u :=
  ⟨0, { pw with power := { Power.reset with dieHot := [(0, true)], cool := [(0, 200)] } }, _, _, (by decide +kernel), (by decide +kernel), (by decide +kernel), (okU_of (by decide +kernel)), (okU_of (by decide +kernel))⟩

theorem w_ThermalEvents_5 : ∃ n, ∃ (s : State), ∃ u, (Map.get (fun _ => false) s.power.hbmRef n = true) ∧ (200 ≤ Map.get (fun _ => 0) s.power.cool (16 + n)) ∧ (thmStatus (s.onPower fun p => { p with hbmRef := Map.set (fun _ => false) p.hbmRef n false }) = .ok () u) :=
  ⟨0, { pw with power := { Power.reset with hbmRef := [(0, true)], cool := [(16, 200)] } }, _, (by decide +kernel), (by decide +kernel), (okU_of (by decide +kernel))⟩

theorem w_ThermalEvents_6 : ∃ n, ∃ (s : State), ∃ u, (Map.get (fun _ => false) s.power.hbmHot n = true) ∧ (200 ≤ Map.get (fun _ => 0) s.power.cool (32 + n)) ∧ (thmStatus (s.onPower fun p => { p with hbmHot := Map.set (fun _ => false) p.hbmHot n false }) = .ok () u) :=
  ⟨0, { pw with power := { Power.reset with hbmHot := [(0, true)], cool := [(32, 200)] } }, _, (by decide +kernel), (by decide +kernel), (okU_of (by decide +kernel))⟩

theorem w_TrainingEvents_1 : ∃ n, ∃ w, ∃ v, ∃ (s : State), s.admits w (Reg.hbmTrn n) v = true ∧ n < 16 ∧ Word.bit v 0 = true ∧ s.flag (Reg.hbmTstat n) 0 = true :=
  ⟨0, .mgmt, 1#64, pwr (Reg.hbmTstat 0) 1#64, (by decide +kernel), (by decide +kernel), (by decide +kernel), (by decide +kernel)⟩

theorem w_TrainingEvents_2 : ∃ n, ∃ w, ∃ v, ∃ (s : State), s.admits w (Reg.hbmTrn n) v = true ∧ n < 16 ∧ Word.bit v 0 = true ∧ Word.bit v 1 = false ∧ s.flag (Reg.hbmTstat n) 0 = false :=
  ⟨0, .mgmt, 1#64, pw, (by decide +kernel), (by decide +kernel), (by decide +kernel), (by decide +kernel), (by decide +kernel)⟩

theorem w_TrainingEvents_3 : ∃ n, ∃ w, ∃ v, ∃ (s : State), s.admits w (Reg.hbmTrn n) v = true ∧ n < 16 ∧ Word.bit v 0 = false ∧ Word.bit v 1 = true :=
  ⟨0, .mgmt, 2#64, pw, (by decide +kernel), (by decide +kernel), (by decide +kernel), (by decide +kernel)⟩

theorem w_TrainingEvents_4 : ∃ n, ∃ (s : State), n < 16 ∧ s.flag (Reg.hbmTstat n) 0 = true ∧ 
    let k := Map.get (fun _ => 0) s.power.training n
    k ≠ 7 ∧ k ≠ 9 ∧ k ≠ 10 :=
  ⟨0, { pwr (Reg.hbmTstat 0) 1#64 with power := { Power.reset with training := [(0, 1)] } }, (by decide +kernel), (by decide +kernel), (by decide +kernel), (by decide +kernel), (by decide +kernel)⟩

theorem w_TrainingEvents_5 : ∃ n, ∃ (s : State), n < 16 ∧ s.flag (Reg.hbmTstat n) 0 = true ∧ 
    let k := Map.get (fun _ => 0) s.power.training n
    k = 7 :=
  ⟨0, { pwr (Reg.hbmTstat 0) 1#64 with power := { Power.reset with training := [(0, 7)] } }, (by decide +kernel), (by decide +kernel), (by decide +kernel)⟩

theorem w_TrainingEvents_6 : ∃ n, ∃ (s : State), n < 16 ∧ s.flag (Reg.hbmTstat n) 0 = true ∧ 
    let k := Map.get (fun _ => 0) s.power.training n
    
    let u := (((s.putFlag (Reg.hbmTstat n) 0 false).putFlag (Reg.hbmTstat n) 1 true).putFlag (Reg.hbmTstat n) 2 false).putField
      (Reg.hbmTstat n) 24 8 k
    k = 9 ∧ ∃ t, zeroStack n u = .ok () t :=
  ⟨0, { pwr (Reg.hbmTstat 0) 1#64 with power := { Power.reset with training := [(0, 9)] } }, (by decide +kernel), (by decide +kernel), (by decide +kernel), _, (okU_of (by decide +kernel))⟩

theorem w_TrainingEvents_7 : ∃ n, ∃ err, ∃ (s : State), n < 16 ∧ s.flag (Reg.hbmTstat n) 0 = true ∧ 0 < err ∧ err < 256 ∧ s.flag (Reg.hbmTrn n) 2 = false :=
  ⟨0, 1, { pwr (Reg.hbmTstat 0) 1#64 with power := { Power.reset with training := [(0, 1)] } }, (by decide +kernel), (by decide +kernel), (by decide +kernel), (by decide +kernel), (by decide +kernel)⟩

theorem w_TrainingEvents_8 : ∃ b, ∃ (s : State), b < 2 ^ 32 ∧ s.flag (Reg.hbmRef (hbmStack b)) 0 = true :=
  ⟨0, pwr (Reg.hbmRef (hbmStack 0)) 1#64, (by decide +kernel), (by rw [State.flag, pwr, State.reg_setReg _ _ _ (by decide +kernel)]; rfl)⟩

theorem w_TrainingEvents_9 : ∃ b, ∃ (s : State), b < 2 ^ 32 ∧ s.flag (Reg.hbmRef (hbmStack b)) 0 = true :=
  ⟨0, pwr (Reg.hbmRef (hbmStack 0)) 1#64, (by decide +kernel), (by rw [State.flag, pwr, State.reg_setReg _ _ _ (by decide +kernel)]; rfl)⟩

theorem w_TrainingEvents_10 : ∃ b, ∃ (s : State), b < 2 ^ 32 ∧ s.flag (Reg.hbmRef (hbmStack b)) 0 = true ∧ ∃ t, poisonBlock b 0x295#10 s = .ok () t :=
  ⟨0, pwr (Reg.hbmRef (hbmStack 0)) 1#64, (by decide +kernel), (by rw [State.flag, pwr, State.reg_setReg _ _ _ (by decide +kernel)]; rfl), _, (okU_of (by decide +kernel))⟩

theorem w_TrainingEvents_11 : ∃ p, ∃ w, ∃ v, ∃ (s : State), s.admits w (Reg.optTrn p) v = true ∧ p < 36 ∧ Word.bit v 0 = true ∧ s.flag (Reg.optTstat p) 0 = false ∧ 
    let k := Word.bits v 8 8
    (k ≠ s.field (Reg.optTstat p) 24 8 + 1 ∨ (Word.bit v 1 = true ∧ 3 ≤ k)) :=
  ⟨0, .mgmt, 0x901#64, pw, (by decide +kernel), (by decide +kernel), (by decide +kernel), (by decide +kernel), (by decide +kernel)⟩

theorem w_TrainingEvents_12 : ∃ p, ∃ w, ∃ v, ∃ (s : State), s.admits w (Reg.optTrn p) v = true ∧ p < 36 ∧ Word.bit v 0 = true ∧ s.flag (Reg.optTstat p) 0 = false ∧ 
    let k := Word.bits v 8 8
    k = s.field (Reg.optTstat p) 24 8 + 1 ∧ Word.bit v 1 = false ∧ 2 ≤ k ∧ k ≤ 5 :=
  ⟨0, .mgmt, 0x201#64, pwr (Reg.optTstat 0) 0x1000000#64, (by decide +kernel), (by decide +kernel), (by decide +kernel), (by decide +kernel), (by decide +kernel), (by decide +kernel), (by decide +kernel), (by decide +kernel)⟩

theorem w_TrainingEvents_13 : ∃ p, ∃ w, ∃ v, ∃ (s : State), s.admits w (Reg.optTrn p) v = true ∧ p < 36 ∧ Word.bit v 0 = true ∧ s.flag (Reg.optTstat p) 0 = false ∧ 
    let k := Word.bits v 8 8
    k = s.field (Reg.optTstat p) 24 8 + 1 ∧ k = 1 :=
  ⟨0, .mgmt, 0x101#64, pw, (by decide +kernel), (by decide +kernel), (by decide +kernel), (by decide +kernel), (by decide +kernel), (by decide +kernel)⟩

theorem w_TrainingEvents_14 : ∃ p, ∃ (failed : BitVec 8), ∃ (s : State), p < 36 ∧ s.flag (Reg.optTstat p) 0 = true ∧ 
    let k := Map.get (fun _ => 0) s.power.training (16 + p)
    
    let ok := s.field (Reg.optTstat p) 8 8 &&& (255 - failed.toNat)
    2 ≤ lanes ok ∧ k ≠ 5 :=
  ⟨0, 0#8, { pwr (Reg.optTstat 0) 0xFF01#64 with power := { Power.reset with training := [(16, 1)] } }, (by decide +kernel), (by decide +kernel), (by decide +kernel), (by decide +kernel)⟩

theorem w_TrainingEvents_15 : ∃ p, ∃ (failed : BitVec 8), ∃ own, ∃ (s : State), ∃ t, p < 36 ∧ s.flag (Reg.optTstat p) 0 = true ∧ 
    let k := Map.get (fun _ => 0) s.power.training (16 + p)
    
    let ok := s.field (Reg.optTstat p) 8 8 &&& (255 - failed.toNat)
    
    let u := ((((s.putField (Reg.optTstat p) 8 8 ok).putFlag (Reg.optTstat p) 0 false).putFlag (Reg.optTstat p) 1 false).putFlag
      (Reg.optTstat p) 2 true).putField (Reg.optTstat p) 16 8 (0x10 + k)
    (own = true ∨ lanes ok < 2) ∧ portFails p (s.field (Reg.portStat p) 48 8) u = .ok () t :=
  ⟨0, 0#8, true, { pwr (Reg.optTstat 0) 0xFF01#64 with power := { Power.reset with training := [(16, 1)] } }, _, (by decide +kernel), (by decide +kernel), (by decide +kernel), (okU_of (by decide +kernel))⟩

theorem w_PortEvents_1 : ∃ p, ∃ w, ∃ v, ∃ (s : State), s.admits w (Reg.portCtl p) v = true ∧ p < 36 ∧ Word.bit v 0 = false ∧ Word.bit v 1 = false ∧ Word.bit v 2 = false ∧ s.portState p ≠ 4 :=
  ⟨0, .mgmt, 0#64, pst 0 lk, (by decide +kernel), (by decide +kernel), (by decide +kernel), (by decide +kernel), (by decide +kernel), (by decide +kernel)⟩

theorem w_PortEvents_2 : ∃ p, ∃ w, ∃ v, ∃ (s : State), s.admits w (Reg.portCtl p) v = true ∧ p < 36 ∧ Word.bit v 0 = true ∧ Word.bit v 1 = true ∧ Word.bit v 2 = false ∧ (s.portState p = 3 ∨ s.portState p = 5) :=
  ⟨0, .mgmt, 3#64, pst 3 lk, (by decide +kernel), (by decide +kernel), (by decide +kernel), (by decide +kernel), (by decide +kernel), (by decide +kernel)⟩

theorem w_PortEvents_3 : ∃ p, ∃ w, ∃ v, ∃ (s : State), ∃ t, s.admits w (Reg.portCtl p) v = true ∧ p < 36 ∧ Word.bit v 2 = true ∧ s.portState p = 4 ∧ unlockPort p (s.wrote (Reg.portCtl p) (Word.setBit v 0 (s.flag (Reg.portCtl p) 0))) = .ok () t :=
  ⟨0, .mgmt, 4#64, pst 4 lk, _, (by decide +kernel), (by decide +kernel), (by decide +kernel), (by decide +kernel), (okU_of (by decide +kernel))⟩

theorem w_PortEvents_4 : ∃ p, ∃ (s : State), s.circuit p = false ∧ s.portState p = 4 :=
  ⟨0, pst 4 lk, (by decide +kernel), (by decide +kernel)⟩

theorem w_PortEvents_5 : ∃ p, ∃ k, ∃ w, ∃ v, ∃ (s : State), s.admits w (Reg.portSecret p k) v = true ∧ p < 36 ∧ k < 6 :=
  ⟨0, 0, .mgmt, 0#64, pst 0 lk, (by decide +kernel), (by decide +kernel), (by decide +kernel)⟩

theorem w_PortEvents_6 : ∃ p, ∃ (s : State), p < 36 ∧ (s.link p).draining = true ∧ s.portState p ≠ 0 ∧ s.portState p ≠ 4 ∧ (s.link p).queue = [] ∧ (s.link p).waiting = [] ∧ (∀ e ∈ (s.link p).sess, e.2.resend = []) :=
  ⟨0, pst 3 { Link.reset with draining := true }, (by decide +kernel), (by decide +kernel), (by decide +kernel), (by decide +kernel), (by decide +kernel), (by decide +kernel), (by decide +kernel)⟩

theorem w_PortEvents_7 : ∃ p, ∃ (s : State), p < 36 ∧ s.portState p = 3 :=
  ⟨0, pst 3 lk, (by decide +kernel), (by decide +kernel)⟩

theorem w_PortEvents_8 : ∃ p, ∃ (full : BitVec 8), ∃ (half : BitVec 8), ∃ (s : State), p < 36 ∧ s.portState p = 1 ∧ 
    let f := full.toNat &&& s.field (Reg.optTrn p) 16 8
    
    let all := (full.toNat ||| half.toNat) &&& s.field (Reg.optTrn p) 16 8
    
    let lm := if 2 ≤ popcount f 8 then f else all
    2 ≤ popcount lm 8 :=
  ⟨0, 0xFF#8, 0#8, (pst 1 lk).setReg (Reg.optTrn 0) 0xFF0000#64, (by decide +kernel), (by decide +kernel), (by decide +kernel)⟩

theorem w_PortEvents_9 : ∃ p, ∃ (full : BitVec 8), ∃ (half : BitVec 8), ∃ (s : State), p < 36 ∧ s.portState p = 1 ∧ 
    let f := full.toNat &&& s.field (Reg.optTrn p) 16 8
    
    let all := (full.toNat ||| half.toNat) &&& s.field (Reg.optTrn p) 16 8
    
    let lm := if 2 ≤ popcount f 8 then f else all
    
    let u := s.putField (Reg.optTstat p) 8 8 lm
    popcount lm 8 < 2 ∧ ∃ t, portFails p 0x34 u = .ok () t :=
  ⟨0, 0#8, 0#8, (pst 1 lk).setReg (Reg.optTrn 0) 0xFF0000#64, (by decide +kernel), (by decide +kernel), (by decide +kernel), _, (okU_of (by decide +kernel))⟩

theorem w_PortEvents_10 : ∃ p, ∃ (s : State), ∃ t, p < 36 ∧ s.portState p = 2 ∧ s.circuit p = false ∧ portFails p 0x33 s = .ok () t :=
  ⟨0, pst 2 lk, _, (by decide +kernel), (by decide +kernel), (by decide +kernel), (okU_of (by decide +kernel))⟩

theorem w_PortEvents_11 : ∃ p, ∃ (s : State), ∃ t, p < 36 ∧ s.portState p = 2 ∧ s.circuit p = false ∧ 
    let e := s.sess p 4096
    emitFlit p 4096 e.sendSeq ⟨flitHdr tyLSR 2 true true (BitVec.ofNat 10 s.pkg) (BitVec.ofNat 10 (s.farPkg p)) e.sendSeq e.expect 32 0, fullPayload (s.lsrRecord p)⟩ s = .ok () t :=
  ⟨0, pst 2 lk, _, (by decide +kernel), (by decide +kernel), (by decide +kernel), (okU_of (by decide +kernel))⟩

theorem w_PortEvents_12 : ∃ p, ∃ body, ∃ (s : State), ∃ t, p < 36 ∧ s.portState p = 2 ∧ s.circuit p = false ∧ body.length = 32 ∧ lsrReceived p body s = .ok () t :=
  ⟨0, List.replicate 32 0#8, pst 2 lk, _, (by decide +kernel), (by decide +kernel), (by decide +kernel), (by decide +kernel), (okU_of (by decide +kernel))⟩

/-! A flit whose tag verifies and one whose tag does not: 248 bytes of zeros and a tag, which is not evaluated. -/

def dir0 : Nat := 1 - (pst 3 lk).sendDir 0
def tag0 : List Byte :=
  (gcmTag (aesKeys (flitKey [] (keyGen 0) dir0)) (flitIv 0) (List.replicate 16 0#8) (List.replicate 232 0#8)).take 8
def goodFlit : List Byte := List.replicate 248 0#8 ++ tag0
def badTag : List Byte := if tag0 = List.replicate 8 0#8 then List.replicate 8 1#8 else List.replicate 8 0#8
def badFlit : List Byte := List.replicate 248 0#8 ++ badTag

set_option maxRecDepth 100000 in
theorem tag0_length : tag0.length = 8 := by decide +kernel

theorem badTag_length : badTag.length = 8 := by
  unfold badTag
  split <;> rfl

theorem badTag_ne : tag0 ≠ badTag := by
  unfold badTag
  split
  · rename_i h; rw [h]; decide
  · assumption

theorem drop_zeros (n : Nat) (t : List Byte) (h : n ≤ 248) :
    (List.replicate 248 0#8 ++ t).drop n = List.replicate (248 - n) 0#8 ++ t := by
  rw [List.drop_append_of_le_length (by rw [List.length_replicate]; exact h), List.drop_replicate]

theorem take_zeros (n m : Nat) (t : List Byte) (h : n ≤ m) : (List.replicate m 0#8 ++ t).take n = List.replicate n 0#8 := by
  rw [List.take_append_of_le_length (by rw [List.length_replicate]; exact h), List.take_replicate, Nat.min_eq_left h]

theorem openFlit_zeros (t : List Byte) :
    openFlit [] dir0 0 (List.replicate 248 0#8 ++ t) =
      if tag0 = t then some { rawFlit (List.replicate 248 0#8 ++ t) with
        payload := gcmText (aesKeys (flitKey [] (keyGen 0) dir0)) (flitIv 0) (List.replicate 232 0#8) } else none := by
  unfold openFlit
  rw [take_zeros 16 248 t (by decide), drop_zeros 16 t (by decide), drop_zeros 248 t (by decide),
    take_zeros 232 (248 - 16) t (by decide)]
  rfl

theorem goodFlit_length : goodFlit.length = 256 := by
  rw [goodFlit, List.length_append, tag0_length]; rfl

theorem badFlit_length : badFlit.length = 256 := by
  rw [badFlit, List.length_append, badTag_length]; rfl

/-- The flit that the verifying bytes carry. -/
def okFlit : Flit :=
  { rawFlit goodFlit with payload := gcmText (aesKeys (flitKey [] (keyGen 0) dir0)) (flitIv 0) (List.replicate 232 0#8) }

theorem open_good : openFlit [] dir0 0 goodFlit = some okFlit := by
  rw [goodFlit, openFlit_zeros, if_pos rfl]; rfl

theorem open_bad : openFlit [] dir0 0 badFlit = none := by
  rw [badFlit, openFlit_zeros, if_neg badTag_ne]

theorem seq_good : nearest ((pst 3 lk).sess 0 4096).expect (2 ^ 32) (rawFlit goodFlit).seq = 0 := by decide +kernel

theorem seq_bad : nearest ((pst 3 lk).sess 0 4096).expect (2 ^ 32) (rawFlit badFlit).seq = 0 := by decide +kernel

theorem w_FlitEvents_3 : ∃ p bytes, ∃ (s : State), ∃ f t, p < 36 ∧ bytes.length = 256 ∧ s.circuit p = false ∧ s.portState p = 3 ∧
    let e := s.sess p 4096
    let q := nearest e.expect (2 ^ 32) (rawFlit bytes).seq
    openFlit e.secret (1 - s.sendDir p) q bytes = some f ∧ verified p 4096 q f s = .ok () t := by
  refine ⟨0, goodFlit, pst 3 lk, okFlit, stOf (verified 0 4096 0 okFlit (pst 3 lk)), by decide, goodFlit_length, by decide +kernel,
    by decide +kernel, ?_⟩
  simp only [seq_good]
  exact ⟨open_good, okU_of (by decide +kernel)⟩

theorem w_FlitEvents_4 : ∃ p bytes, ∃ (s : State), ∃ t, p < 36 ∧ bytes.length = 256 ∧ s.circuit p = false ∧ s.portState p = 3 ∧
    let e := s.sess p 4096
    let q := nearest e.expect (2 ^ 32) (rawFlit bytes).seq
    openFlit e.secret (1 - s.sendDir p) q bytes = none ∧
      tagFailed p 4096 ((rawFlit bytes).seq == e.expect % 2 ^ 32) s = .ok () t := by
  refine ⟨0, badFlit, pst 3 lk, stOf (tagFailed 0 4096 ((rawFlit badFlit).seq == ((pst 3 lk).sess 0 4096).expect % 2 ^ 32) (pst 3 lk)),
    by decide, badFlit_length, by decide +kernel, by decide +kernel, ?_⟩
  simp only [seq_bad]
  exact ⟨open_bad, okU_of (by decide +kernel)⟩

theorem w_FlitEvents_1 : ∃ p, ∃ (s : State), ∃ q, ∃ (f : Flit), ∃ rest, ∃ t, p < 36 ∧ s.maySend p = true ∧ s.attestOnly p = false ∧ s.upNow p = true ∧ (s.sess p (s.sessKey p)).resend = (q, f) :: rest ∧ emitFlit p (s.sessKey p) q f s = .ok () t :=
  ⟨0, pst 3 (ses { Session.fresh with resend := [(0, f0)] }), 0, f0, [], _, (by decide +kernel), (by decide +kernel), (by decide +kernel), (by decide +kernel), (by decide +kernel), (okU_of (by decide +kernel))⟩

theorem w_FlitEvents_2 : ∃ p, ∃ (s : State), ∃ x, ∃ t, p < 36 ∧ s.maySend p = true ∧ s.attestOnly p = false ∧ s.upNow p = true ∧ (s.sess p (s.sessKey p)).resend = [] ∧ (s.sess p (s.sessKey p)).replay.length < 4096 ∧ (s.sess p (s.sessKey p)).sendSeq < 2 ^ 64 - 1 ∧ (pickMsg (s.link p) (fun x => (! s.circuit p || x.key == peerOf (s.entryWord p)) && x.msg.typ != tyATTEST) = some x) ∧ sendNext p (s.sessKey p) x s = .ok () t :=
  ⟨0, pst 3 { lk with queue := [msg0] }, _, _, (by decide +kernel), (by decide +kernel), (by decide +kernel), (by decide +kernel), (by decide +kernel), (by decide +kernel), (by decide +kernel), (some_of (by decide +kernel)), (okU_of (by decide +kernel))⟩

theorem w_FlitEvents_5 : ∃ p, ∃ key, ∃ q, ∃ (f : Flit), ∃ (s : State), ∃ t, f.typ ≠ tyLSR ∧ q = (s.sess p key).expect ∧ acked p key (nearest (s.sess p key).sendSeq (2 ^ 24) (f.field 40 24)) s = .ok () t ∧ ∃ u, (acceptPayload p key f (t.onSess p key fun x => { x with expect := q + 1, nextSeq := q + 1, accepted := x.accepted + 1, fails := 0, failsAtE := 0, nakOut := false }) = .ok () u) :=
  ⟨0, 4096, 0, f0, pst 3 lk, _, (by decide +kernel), (by decide +kernel), (okU_of (by decide +kernel)), _, (okU_of (by decide +kernel))⟩

theorem w_FlitEvents_6 : ∃ p, ∃ key, ∃ q, ∃ (f : Flit), ∃ (s : State), ∃ t, f.typ ≠ tyLSR ∧ q < (s.sess p key).expect ∧ acked p key (nearest (s.sess p key).sendSeq (2 ^ 24) (f.field 40 24)) s = .ok () t :=
  ⟨0, 4096, 0, f0, pst 3 (ses { Session.fresh with expect := 1 }), _, (by decide +kernel), (by decide +kernel), (okU_of (by decide +kernel))⟩

theorem w_FlitEvents_7 : ∃ p, ∃ key, ∃ q, ∃ (f : Flit), ∃ (s : State), ∃ t, ∃ u, f.typ ≠ tyLSR ∧ (s.sess p key).expect < q ∧ acked p key (nearest (s.sess p key).sendSeq (2 ^ 24) (f.field 40 24)) s = .ok () t ∧ sendNak p key (t.counted p errReplay) = .ok () u :=
  ⟨0, 4096, 1, f0, pst 3 lk, _, _, (by decide +kernel), (by decide +kernel), (okU_of (by decide +kernel)), (okU_of (by decide +kernel))⟩

theorem w_FlitEvents_8 : ∃ p, ∃ (s : State), p < 36 ∧ s.upNow p = true :=
  ⟨0, pst 3 lk, (by decide +kernel), (by decide +kernel)⟩

theorem w_FlitEvents_9 : ∃ p, ∃ (s : State), p < 36 ∧ s.upNow p = true ∧ (s.sess p (s.sessKey p)).replay ≠ [] :=
  ⟨0, pst 3 (ses { Session.fresh with replay := [(0, f0)] }), (by decide +kernel), (by decide +kernel), (by decide +kernel)⟩

theorem w_FlitEvents_10 : ∃ p, ∃ (s : State), p < 36 ∧ s.upNow p = true ∧ (s.sess p (s.sessKey p)).resend = [] ∧ (∀ x ∈ (s.link p).queue, x.parked = true) :=
  ⟨0, pst 3 lk, (by decide +kernel), (by decide +kernel), (by decide +kernel), (by decide +kernel)⟩

theorem w_FlitEvents_11 : ∃ p, ∃ (s : State), p < 36 ∧ s.upNow p = true ∧ 512 ≤ (s.sess p (s.sessKey p)).accepted ∧ s.ackQueued p = false :=
  ⟨0, pst 3 (ses { Session.fresh with accepted := 512 }), (by decide +kernel), (by decide +kernel), (by decide +kernel), (by decide +kernel)⟩

theorem w_FlitEvents_12 : ∃ p, ∃ (s : State), ∃ t, p < 36 ∧ s.upNow p = true ∧ 2 ^ 64 - 1 ≤ (s.sess p (s.sessKey p)).sendSeq ∧ lockPort p (s.sessKey p) 0x36 s = .ok () t :=
  ⟨0, pst 3 (ses { Session.fresh with sendSeq := 2 ^ 64 - 1 }), _, (by decide +kernel), (by decide +kernel), (by decide +kernel), (okU_of (by decide +kernel))⟩

theorem w_FlitEvents_13 : ∃ p, ∃ (s : State), p < 36 ∧ s.attestOnly p = true :=
  ⟨0, pst 4 lk, (by decide +kernel), (by decide +kernel)⟩

theorem w_CircuitEvents_1 : ∃ p, ∃ w, ∃ v, ∃ (s : State), s.admits w (Reg.slotCfg p) v = true ∧ p < 36 ∧ Word.bit v 0 = false :=
  ⟨0, .mgmt, 0#64, pw, (by decide +kernel), (by decide +kernel), (by decide +kernel)⟩

theorem w_CircuitEvents_2 : ∃ p, ∃ w, ∃ v, ∃ (s : State), s.admits w (Reg.slotCfg p) v = true ∧ p < 36 ∧ Word.bit v 0 = true ∧ s.flag (Reg.slotCfg p) 0 = false :=
  ⟨0, .mgmt, 1#64, pw, (by decide +kernel), (by decide +kernel), (by decide +kernel), (by decide +kernel)⟩

theorem w_CircuitEvents_3 : ∃ p, ∃ (s : State), p < 36 ∧ s.flag (Reg.slotCfg p) 0 = true ∧ (s.link p).running = false ∧ (s.link p).mark ≤ s.dcc.toNat :=
  ⟨0, pwr (Reg.slotCfg 0) 1#64, (by decide +kernel), (by decide +kernel), (by decide +kernel), (by decide +kernel)⟩

theorem w_CircuitEvents_4 : ∃ p, ∃ (s : State), p < 36 ∧ (s.link p).running = true ∧ (s.link p).window = false ∧ 
    let stop := (s.link p).mark + guardOf (s.entryWord p) * 15
    stop ≤ s.dcc.toNat :=
  ⟨0, { (pwr (Reg.slotCfg 0) 1#64) with links := [(0, { Link.reset with running := true })] }, (by decide +kernel), (by decide +kernel), (by decide +kernel), (by decide +kernel)⟩

theorem w_CircuitEvents_5 : ∃ p, ∃ (s : State), p < 36 ∧ (s.link p).running = true ∧ (s.link p).window = true ∧ 
    let stop := (s.link p).mark + durOf (s.entryWord p) * 15
    stop ≤ s.dcc.toNat :=
  ⟨0, { (pwr (Reg.slotCfg 0) 1#64) with links := [(0, { Link.reset with running := true, window := true })] }, (by decide +kernel), (by decide +kernel), (by decide +kernel), (by decide +kernel)⟩

theorem w_CircuitEvents_6 : ∃ p, ∃ i, ∃ (s : State), ∃ w, ∃ n, ∃ sp, ∃ s1, ∃ s2, ∃ s3, p < 36 ∧ s.circuit p = true ∧ s.flag (Reg.slotCfg p) 0 = true ∧ i < (s.link p).table.length ∧ s.flag (Reg.circStat p) i = false ∧ 
    let e := s.sess p (circuitOf ((s.link p).table.getD i 0#64))
    e.keyed = true ∧ e.secret.length = 48 ∧ choose 54 3 s = .ok w s1 ∧ choose 55 256 s1 = .ok n s2 ∧ choose 56 2 s2 = .ok sp s3 :=
  ⟨0, 0, cct, _, _, _, _, _, _, (by decide +kernel), (by decide +kernel), (by decide +kernel), (by decide +kernel), (by decide +kernel), (by decide +kernel), (by decide +kernel), (ok_of (by decide +kernel)), (ok_of (by decide +kernel)), (ok_of (by decide +kernel))⟩

theorem w_CircuitEvents_7 : ∃ p, ∃ i, ∃ (s : State), ∃ c, ∃ t, p < 36 ∧ s.circuit p = true ∧ s.flag (Reg.slotCfg p) 0 = true ∧ i < (s.link p).table.length ∧ s.flag (Reg.circStat p) i = false ∧ choose 57 5 s = .ok c t :=
  ⟨0, 0, cct, _, _, (by decide +kernel), (by decide +kernel), (by decide +kernel), (by decide +kernel), (by decide +kernel), (ok_of (by decide +kernel))⟩

theorem w_FabricEvents_1 : ∃ n, ∃ w, ∃ v, ∃ (s : State), s.admits w (Reg.route n) v = true ∧ n < 1024 :=
  ⟨0, .mgmt, 0#64, pw, (by decide +kernel), (by decide +kernel)⟩

theorem w_FabricEvents_2 : ∃ k, ∃ off, ∃ w, ∃ v, ∃ (s : State), ∃ t, s.admits w (Reg.rankBase k + off) v = true ∧ k < 8 ∧ (off = 0 ∨ off = 8) ∧ dropRanks k (s.wrote (Reg.rankBase k + off) v) = .ok () t :=
  ⟨0, 0, .mgmt, 0#64, pw, _, (by decide +kernel), (by decide +kernel), (by decide +kernel), (okU_of (by decide +kernel))⟩

theorem w_FabricEvents_3 : ∃ w, ∃ v, ∃ (s : State), s.admits w Reg.tsyncCtl v = true ∧ Word.bits v 16 8 ≠ 0 ∧ Word.bit v 0 = true :=
  ⟨.mgmt, 0x10001#64, pw, (by decide +kernel), (by decide +kernel), (by decide +kernel)⟩

theorem w_FabricEvents_4 : ∃ w, ∃ v, ∃ (s : State), s.admits w Reg.tsyncCtl v = true ∧ Word.bits v 16 8 ≠ 0 ∧ Word.bit v 0 = false ∧ Word.bits v 8 6 ≤ 35 :=
  ⟨.mgmt, 0x10000#64, pw, (by decide +kernel), (by decide +kernel), (by decide +kernel), (by decide +kernel)⟩

theorem w_FabricEvents_5 : ∃ (s : State), ∃ t, s.flag Reg.tsyncCtl 0 = false ∧ s.field Reg.tsyncCtl 8 6 < 36 ∧ s.dccRun = true ∧ sendTsync (s.field Reg.tsyncCtl 8 6) 1 s.dcc 0#64 0#64 { s with tsT1 := some s.dcc } = .ok () t :=
  ⟨{ pw with dccRun := true }, _, (by decide +kernel), (by decide +kernel), (by decide +kernel), (okU_of (by decide +kernel))⟩

theorem w_FabricEvents_6 : ∃ m, ∃ (x : Word), ∃ (s : State), ∃ t, m.typ = tyTSYNC ∧ m.dst.toNat = s.pkg ∧ msgAt m 0 1 = 1 ∧ sendTsync (s.cameBy m) 2 (BitVec.ofNat 64 (msgAt m 8 8)) x s.dcc s = .ok () t :=
  ⟨mg tyTSYNC (1#8 :: List.replicate 31 0#8), 0#64, pw, _, rfl, (by decide +kernel), (by decide +kernel), (okU_of (by decide +kernel))⟩

theorem w_FabricEvents_7 : ∃ m, ∃ (x : Word), ∃ (s : State), ∃ t, m.typ = tyTSYNC ∧ m.dst.toNat = s.pkg ∧ msgAt m 0 1 = 2 ∧ s.flag Reg.tsyncCtl 0 = false ∧ s.tsT1 = some (BitVec.ofNat 64 (msgAt m 8 8)) ∧ syncTo (syncOffset (BitVec.ofNat 64 (msgAt m 8 8)) (BitVec.ofNat 64 (msgAt m 16 8)) (BitVec.ofNat 64 (msgAt m 24 8)) x) s = .ok () t :=
  ⟨mg tyTSYNC (2#8 :: List.replicate 31 0#8), 0#64, { pw with tsT1 := some 0#64 }, _, rfl, (by decide +kernel), (by decide +kernel), (by decide +kernel), (by decide +kernel), (okU_of (by decide +kernel))⟩

theorem w_FabricEvents_8 : ∃ m, ∃ (s : State), ∃ t, m.dst.toNat = s.pkg ∧ (m.typ = tyRDREQ ∨ m.typ = tyWRREQ ∨ m.typ = tyATREQ ∨ (m.typ = tyDATA ∧ s.isGetData m = false)) ∧ remoteRequest m (s.accepting m) = .ok () t :=
  ⟨mg tyRDREQ (List.replicate 16 0#8), pw, _, (by decide +kernel), (by decide +kernel), (okU_of (by decide +kernel))⟩

theorem w_FabricEvents_9 : ∃ m, ∃ (s : State), ∃ t, m.dst.toNat = s.pkg ∧ (m.typ = tyRDRSP ∨ m.typ = tyATRSP ∨ m.typ = tyWRACK ∨ s.isGetData m = true) ∧ remoteResponse m (s.accepting m) = .ok () t :=
  ⟨mg tyRDRSP (List.replicate 16 0#8), pw, _, (by decide +kernel), (by decide +kernel), (okU_of (by decide +kernel))⟩

theorem w_FabricEvents_10 : ∃ m, ∃ (s : State), ∃ t, m.dst.toNat = s.pkg ∧ m.typ = tyCADD ∧ flitCadd m (s.accepting m) = .ok () t :=
  ⟨mg tyCADD (List.replicate 24 0#8), pw, _, (by decide +kernel), rfl, (okU_of (by decide +kernel))⟩

theorem w_FabricEvents_11 : ∃ m, ∃ (s : State), ∃ k, ∃ t, m.dst.toNat = s.pkg ∧ m.typ = tyCHIM ∧ s.partOfFpid (msgAt m 0 2) = some k ∧ chimReceived k m s = .ok () t :=
  ⟨mg tyCHIM (List.replicate 64 0#8), base, _, _, (by decide +kernel), rfl, (some_of (by decide +kernel)), (okU_of (by decide +kernel))⟩

theorem w_FabricEvents_12 : ∃ m, ∃ (s : State), ∃ t, m.dst.toNat = s.pkg ∧ m.typ = tyRSUSP ∧ rsusp m s = .ok () t :=
  ⟨mg tyRSUSP (List.replicate 64 0#8), pw, _, (by decide +kernel), rfl, (okU_of (by decide +kernel))⟩

theorem w_FabricEvents_13 : ∃ m, ∃ (s : State), ∃ k, m.dst.toNat = s.pkg ∧ m.typ = tyRSACK ∧ s.partOfFpid (msgAt m 0 2) = some k :=
  ⟨mg tyRSACK (List.replicate 64 0#8), base, _, (by decide +kernel), rfl, (some_of (by decide +kernel))⟩

theorem w_FabricEvents_14 : ∃ m, ∃ (s : State), ∃ t, m.dst.toNat = s.pkg ∧ m.typ = tyRRESUME ∧ rresume m s = .ok () t :=
  ⟨mg tyRRESUME (List.replicate 64 0#8), pw, _, (by decide +kernel), rfl, (okU_of (by decide +kernel))⟩

theorem w_FabricEvents_15 : ∃ tag, ∃ (s : State), ∃ r, ∃ (x : SendMsg), ∃ t, ∃ u, ∃ v, ∃ w, Map.find s.remotes tag = some r ∧ r.answer = none ∧ s.portState r.port ≠ 3 ∧ s.queued r.port tag = some x ∧ x.parked = false ∧ takeQueued r.port (· == x) s = .ok t u ∧ admitWaiting r.port u = .ok () v ∧ answerRemote tag 0x241#10 [] v = .ok () w :=
  ⟨0, wRem { Link.reset with queue := [hold0] }, rem0, hold0, _, _, _, _, (by decide +kernel), (by decide +kernel), (by decide +kernel), (by decide +kernel), (by decide +kernel), (ok_of (by decide +kernel)), (okU_of (by decide +kernel)), (okU_of (by decide +kernel))⟩

theorem w_FabricEvents_16 : ∃ tag, ∃ (s : State), ∃ r, ∃ t, Map.find s.remotes tag = some r ∧ r.answer = none ∧ s.queued r.port tag = none ∧ answerRemote tag 0x249#10 [] s = .ok () t :=
  ⟨0, wRem Link.reset, rem0, _, (by decide +kernel), (by decide +kernel), (by decide +kernel), (okU_of (by decide +kernel))⟩

theorem w_FabricEvents_17 : ∃ m, ∃ (s : State), ∃ k, ∃ a, ∃ n, ∃ t, m.typ = tyRDREQ ∧ msgAt m 0 8 = a ∧ msgAt m 8 4 = n ∧ a < 2 ^ 40 ∧ s.rgnAllows m.world a = true ∧ exitChecks (s.blocksOf a n) s = .ok none k ∧ reply m tyRDRSP (leBytes 8 0 ++ s.bytes a n) k = .ok () t :=
  ⟨mg tyRDREQ (List.replicate 16 0#8), pw, _, 0, 0, _, rfl, (by decide +kernel), (by decide +kernel), (by decide +kernel), (by decide +kernel), (okV_of (by decide +kernel)), (okU_of (by decide +kernel))⟩

theorem w_FabricEvents_18 : ∃ m, ∃ (s : State), ∃ t, m.typ ≠ tyDATA ∧ (2 ^ 40 ≤ msgAt m 0 8 ∨ s.rgnAllows m.world (msgAt m 0 8) = false) ∧ replyStatus m 0x247#10 s = .ok () t :=
  ⟨mg tyRDREQ (List.replicate 5 0#8 ++ [1#8, 0#8, 0#8, 0#8]), pw, _, (by decide +kernel), (by decide +kernel), (okU_of (by decide +kernel))⟩

theorem w_BootEvents_4 : ∃ (s : State), ∃ t, s.power.porst = true ∧ (bringStep 1 (railEnWrite 0x0001#64) (s.onPower fun p => { p with porst := false }) = .ok () t) :=
  ⟨State.reset, _, (by decide +kernel), (okU_of (by decide +kernel))⟩

theorem w_BootEvents_5 : ∃ (s : State), ∃ t, s.power.porst = false ∧ s.flag Reg.railStat 0 = true ∧ reload s = .ok () t :=
  ⟨pwr Reg.railStat 1#64, _, (by decide +kernel), (by decide +kernel), (okU_of (by decide +kernel))⟩

theorem w_BootEvents_6 : ∃ (s : State), ∃ t, s.boot.waits = true ∧ (bootRest (s.onBoot fun b => { b with hostrdy := true }) = .ok () t) :=
  ⟨booting, _, (by decide +kernel), (okU_of (by decide +kernel))⟩

theorem w_BootEvents_7 : ∃ (s : State), s.boot.waits = true :=
  ⟨booting, (by decide +kernel)⟩

theorem w_BootEvents_9 : ∃ (s : State), ∃ img, ∃ slot, ∃ t, (Map.getN (fun _ => 0#8) s.boot.staging 0 (if fld (Map.getN (fun _ => 0#8) s.boot.staging 0 512) 8 8 ≤ 8388608 then fld (Map.getN (fun _ => 0#8) s.boot.staging 0 512) 8 8 else 512) = img) ∧ fwHeaderOk img = true ∧ s.boot.keySlot ((img.drop 24).take 97) = some slot ∧ s.boot.minsvn ≤ fld img 16 4 ∧ fwSignatureOk img = false ∧ bootFail 0x05 s = .ok () t :=
  ⟨badImage, image0, 0, _, (by decide +kernel), (by decide +kernel), (by decide +kernel), (by decide +kernel), (by decide +kernel), (okU_of (by decide +kernel))⟩

theorem w_SecurityEvents_1 : ∃ k, ∃ off, ∃ w, ∃ v, ∃ (s : State), s.admits w (Reg.rgnCfg + off) v = true ∧ 0x1000 ≤ off ∧ off < 0x2000 ∧ off % 8 = 0 ∧ (off - 0x1000) / 16 = k ∧ s.flag (Reg.rgnLo k) 60 = true :=
  ⟨0, 0x1000, .mgmt, 0#64, pwr (Reg.rgnLo 0) 0x1000000000000000#64, (by decide +kernel), (by decide +kernel), (by decide +kernel), (by decide +kernel), (by decide +kernel), (by decide +kernel)⟩

theorem w_SecurityEvents_2 : ∃ k, ∃ off, ∃ w, ∃ v, ∃ (s : State), s.admits w (Reg.rgnCfg + off) v = true ∧ 0x1000 ≤ off ∧ off < 0x2000 ∧ off % 16 = 8 ∧ (off - 0x1000) / 16 = k ∧ s.flag (Reg.rgnLo k) 60 = false :=
  ⟨0, 0x1008, .mgmt, 0#64, pw, (by decide +kernel), (by decide +kernel), (by decide +kernel), (by decide +kernel), (by decide +kernel), (by decide +kernel)⟩

theorem w_SecurityEvents_3 : ∃ k, ∃ off, ∃ w, ∃ v, ∃ (s : State), s.admits w (Reg.rgnCfg + off) v = true ∧ 0x1000 ≤ off ∧ off < 0x2000 ∧ off % 16 = 0 ∧ (off - 0x1000) / 16 = k ∧ s.flag (Reg.rgnLo k) 60 = false :=
  ⟨0, 0x1000, .mgmt, 0#64, pw, (by decide +kernel), (by decide +kernel), (by decide +kernel), (by decide +kernel), (by decide +kernel), (by decide +kernel)⟩

theorem w_SecurityEvents_4 : ∃ w, ∃ v, ∃ (s : State), s.admits w Reg.rgnSync v = true ∧ Word.bit v 0 = true :=
  ⟨.mgmt, 1#64, pw, (by decide +kernel), (by decide +kernel)⟩

theorem w_SecurityEvents_5 : ∃ (s : State), s.flag Reg.rgnSync 1 = true ∧ s.outq = [] ∧ (∀ e ∈ s.remotes, e.2.answer.isSome = true) :=
  ⟨pwr Reg.rgnSync 2#64, (by decide +kernel), (by decide +kernel), (by decide +kernel)⟩

theorem w_SecurityEvents_6 : ∃ w, ∃ v, ∃ (s : State), ∃ t, s.admits w Reg.measCmd v = true ∧ Word.bit v 7 = false ∧ Word.bit v 8 = false ∧ (s.flag Reg.measCmd 8 = false ∨ 4 ≤ Word.bits v 0 3) ∧ (extendMeas (Word.bits v 0 3) ((List.range 6).flatMap fun w => leBytes 8 (Map.get (fun _ => 0#64) s.boot.measD w).toNat) s = .ok () t) :=
  ⟨.mgmt, 0#64, pw, _, (by decide +kernel), (by decide +kernel), (by decide +kernel), (by decide +kernel), (okU_of (by decide +kernel))⟩

theorem w_SecurityEvents_7 : ∃ w, ∃ v, ∃ (s : State), s.admits w Reg.measCmd v = true ∧ Word.bit v 7 = false ∧ Word.bit v 8 = false ∧ s.flag Reg.measCmd 8 = true ∧ Word.bits v 0 3 < 4 :=
  ⟨.mgmt, 0#64, pwr Reg.measCmd 0x100#64, (by decide +kernel), (by decide +kernel), (by decide +kernel), (by decide +kernel), (by decide +kernel)⟩

theorem w_SecurityEvents_8 : ∃ (s : State), s.flag Reg.bootStat 0 = true :=
  ⟨pwr Reg.bootStat 1#64, (by decide +kernel)⟩

theorem w_HostMemoryEvents_1 : ∃ pa, ∃ (data : List Byte), ∃ (s : State), s.power.porst = false ∧ data ≠ [] ∧ s.hostMay pa data.length = false :=
  ⟨0x10000000000, [1#8], pw, (by decide +kernel), (by decide +kernel), (by decide +kernel)⟩

theorem w_HostMemoryEvents_2 : ∃ pa, ∃ (data : List Byte), ∃ (poison : Bool), ∃ (s : State), ∃ b, ∃ t, ∃ u, s.power.porst = false ∧ data ≠ [] ∧ s.hostMay pa data.length = true ∧ (physWrite pa data (if poison then some 0x293#10 else none) s = .ok b t) ∧ hostPublish pa data t = .ok () u :=
  ⟨0, [1#8], false, pwr Reg.rgnCfg 0#64, _, _, _, (by decide +kernel), (by decide +kernel), (by decide +kernel), (ok_of (by decide +kernel)), (okU_of (by decide +kernel))⟩

theorem w_HostMemoryEvents_3 : ∃ pa, ∃ n, ∃ (s : State), s.power.porst = false ∧ ((s.hostMay pa n && (range pa n).all fun a => s.place a == .hbm) = false) :=
  ⟨0x10000000000, 8, pw, (by decide +kernel), (by decide +kernel)⟩

theorem w_HostMemoryEvents_4 : ∃ pa, ∃ n, ∃ (s : State), ∃ rs, ∃ t, s.power.porst = false ∧ ((s.hostMay pa n && (range pa n).all fun a => s.place a == .hbm) = true) ∧ mapE (s.blocksOf pa n) exitCheck s = .ok rs t :=
  ⟨0, 8, pwr Reg.rgnCfg 0#64, _, _, (by decide +kernel), (by decide +kernel), (ok_of (by decide +kernel))⟩

theorem w_HostMemoryEvents_5 : ∃ pa, ∃ (data : List Byte), ∃ (s : State), data ≠ [] ∧ pa % 256 + data.length ≤ 256 ∧ (((range pa data.length).all fun a => s.place a == .tier2) = true) ∧ s.bytes pa data.length = data :=
  ⟨0x1000000000000, [0#8], pwr Reg.t2Cfg 0x10001#64, (by decide +kernel), (by decide +kernel), (by decide +kernel), (by decide +kernel)⟩

theorem w_RingEvents_1 : ∃ f, ∃ w, ∃ v, ∃ (s : State), s.admits w (Reg.ringCtl f) v = true ∧ f < 8 ∧ Word.bit v 0 = true ∧ s.ringState f = 0 ∧ s.ringOk f v = false :=
  ⟨0, .mgmt, 1#64, base, (by decide +kernel), (by decide +kernel), (by decide +kernel), (by decide +kernel), (by decide +kernel)⟩

theorem w_RingEvents_2 : ∃ f, ∃ w, ∃ v, ∃ (s : State), ∃ t, s.admits w (Reg.ringCtl f) v = true ∧ f < 8 ∧ Word.bit v 0 = true ∧ s.ringState f = 0 ∧ s.ringOk f v = true ∧ startRing f (s.wrote (Reg.ringCtl f) v) = .ok () t :=
  ⟨0, .mgmt, 0x660001#64, base, _, (by decide +kernel), (by decide +kernel), (by decide +kernel), (by decide +kernel), (by decide +kernel), (okU_of (by decide +kernel))⟩

theorem w_RingEvents_3 : ∃ f, ∃ (s : State), Map.has s.feWait f = false :=
  ⟨0, base, (by decide +kernel)⟩

theorem w_RingEvents_4 : ∃ f, ∃ w, ∃ v, ∃ (s : State), ∃ t, s.admits w (Reg.ringCtl f) v = true ∧ f < 8 ∧ Word.bit v 0 = true ∧ Word.bit v 1 = true ∧ s.ringState f = 2 ∧ (s.part f).holdWdog = false ∧ restartRing f (s.wrote (Reg.ringCtl f) v) = .ok () t :=
  ⟨0, .mgmt, 3#64, rg (Reg.ringStat 0) 0x20000#64, _, (by decide +kernel), (by decide +kernel), (by decide +kernel), (by decide +kernel), (by decide +kernel), (by decide +kernel), (okU_of (by decide +kernel))⟩

theorem w_RingEvents_5 : ∃ f, ∃ off, ∃ w, ∃ v, ∃ (s : State), s.admits w (Reg.ringCtl f + off) v = true ∧ f < 8 ∧ (off = 0x008 ∨ off = 0x010 ∨ off = 0x018 ∨ off = 0x020) :=
  ⟨0, 8, .mgmt, 1#64, base, (by decide +kernel), (by decide +kernel), (by decide +kernel)⟩

theorem w_RingEvents_6 : ∃ f, ∃ (s : State), f < 8 ∧ s.ringState f = 1 ∧ (s.word (s.ptrAddr f)).ult (s.reg (Reg.ringPos f)) = true :=
  ⟨0, (rg (Reg.ringStat 0) 0x10000#64).setReg (Reg.ringPos 0) 1#64, (by decide +kernel), (by decide +kernel), (by decide +kernel)⟩

theorem w_RingEvents_7 : ∃ f, ∃ w, ∃ v, ∃ (s : State), s.admits w (Reg.feQpush f) v = true ∧ f < 8 ∧ Word.bit v 8 = false ∧ Map.has s.feWait f = false ∧ s.ringState f ≠ 1 :=
  ⟨0, .mgmt, 1#64, base, (by decide +kernel), (by decide +kernel), (by decide +kernel), (by decide +kernel), (by decide +kernel)⟩

theorem w_RingEvents_8 : ∃ f, ∃ w, ∃ v, ∃ (s : State), ∃ t, s.admits w (Reg.feQpush f) v = true ∧ f < 8 ∧ Word.bit v 8 = false ∧ Map.has s.feWait f = false ∧ s.ringState f = 1 ∧ 1 ≤ Word.bits v 0 6 ∧ Word.bits v 0 6 ≤ 3 ∧ pushGroup f (Word.bits v 0 6) v s = .ok () t :=
  ⟨0, .mgmt, 1#64, rg (Reg.ringStat 0) 0x10000#64, _, (by decide +kernel), (by decide +kernel), (by decide +kernel), (by decide +kernel), (by decide +kernel), (by decide +kernel), (by decide +kernel), (okU_of (by decide +kernel))⟩

theorem w_RingEvents_9 : ∃ f, ∃ w, ∃ v, ∃ (s : State), ∃ t, s.admits w (Reg.feQpush f) v = true ∧ f < 8 ∧ Word.bit v 8 = true ∧ Map.has s.feWait f = false ∧ s.ringState f = 1 ∧ Word.bits v 0 6 ≤ 2 ∧ stopRing f (BitVec.ofNat 10 (Word.bits v 16 10)) ((s.reg (Reg.ringPos f)).toNat + Word.bits v 0 6) s = .ok () t :=
  ⟨0, .mgmt, 0x100#64, rg (Reg.ringStat 0) 0x10000#64, _, (by decide +kernel), (by decide +kernel), (by decide +kernel), (by decide +kernel), (by decide +kernel), (by decide +kernel), (okU_of (by decide +kernel))⟩

theorem w_RingEvents_10 : ∃ f, ∃ (s : State), ∃ v, ∃ t, f < 8 ∧ Map.find s.feWait f = some v ∧ s.pushWaits f = true ∧ pushGroup f (Word.bits v 0 6) v s = .ok () t :=
  ⟨0, { rg (Reg.ringStat 0) 0x10000#64 with feWait := [(0, 1#64)] }, 1#64, _, (by decide +kernel), (by decide +kernel), (by decide +kernel), (okU_of (by decide +kernel))⟩

theorem w_RingEvents_11 : ∃ f, ∃ n, ∃ v, ∃ (s : State), ∃ es, ∃ e, ∃ t, ∃ u, (s.reg (Reg.ringPos f)).toNat = n ∧ viewEntries f n (Word.bits v 0 6) s = .ok (.ok es) t ∧ groupFault es = none ∧ es.headD [] = e ∧ t.queueTakes f (entClass e) = true ∧ (groupDone f n (Word.bits v 0 6) (t.updPart f fun p => p.setQueue (entClass e) (p.queue (entClass e) ++ [{ source := 0, bytes := es.flatten, rels := [], cmdidx := n, reserve := false, parent := 0, slot := entSlot e, step := 0#64, stage := .queued, gained := [] }])) = .ok () u) :=
  ⟨0, 0, 1#64, base, [List.replicate 64 0#8], List.replicate 64 0#8, _, _, (by decide +kernel), (okEV (by decide +kernel)), (by decide +kernel), (by decide +kernel), (by decide +kernel), (okU_of (by decide +kernel))⟩

theorem w_RingEvents_12 : ∃ f, ∃ w, ∃ v, ∃ (s : State), s.admits w (Reg.wdogCfg f) v = true ∧ f < 8 :=
  ⟨0, .mgmt, 0xA0000#64, base, (by decide +kernel), (by decide +kernel)⟩

theorem w_RingEvents_13 : ∃ f, ∃ w, ∃ v, ∃ (s : State), s.admits w (Reg.wdogKick f) v = true ∧ f < 8 :=
  ⟨0, .mgmt, 1#64, base, (by decide +kernel), (by decide +kernel)⟩

theorem w_RingEvents_14 : ∃ f, ∃ (s : State), ∃ t, f < 8 ∧ s.wdogCounts f = true ∧ (s.field (Reg.wdogCfg f) 16 16 * 15000 ≤ Map.get (fun _ => 0) s.wdog f) ∧ wdogExpiry f s = .ok () t :=
  ⟨0, { (rg (Reg.wdogCfg 0) 0xA0001#64).setReg Reg.rstCtl 0#64 with wdog := [(0, 150000)] }, _, (by decide +kernel), (by decide +kernel), (by decide +kernel), (okU_of (by decide +kernel))⟩

theorem w_RingEvents_15 : ∃ w, ∃ v, ∃ (s : State), s.admits w Reg.t2Cfg v = true ∧ Word.bit v 0 = false :=
  ⟨.mgmt, 0#64, base, (by decide +kernel), (by decide +kernel)⟩

theorem w_RingEvents_16 : ∃ w, ∃ o, ∃ v, ∃ (s : State), ∃ t, o % 8 = 0 ∧ (∀ f < 8, o = Reg.feQpush f → Map.has s.feWait f = false) ∧ s.admits w o v = true ∧ regWrite w o v s = .ok () t :=
  ⟨.mgmt, Reg.wdogKick 0, 1#64, base, _, (by decide +kernel), (by decide +kernel), (by decide +kernel), (okU_of (by decide +kernel))⟩

theorem w_RingEvents_17 : ∃ o, (o < Reg.flue ∨ Reg.flueEnd ≤ o) ∧ regSpec o = none :=
  ⟨0x01300000, (by decide +kernel), (by decide +kernel)⟩

theorem w_PartitionEvents_1 : ∃ k, ∃ w, ∃ v, ∃ (s : State), s.admits w (Reg.partCtl k) v = true ∧ k < 8 ∧ Word.bit v 0 = true ∧ s.partOn k = false ∧ s.mayCreate k v = false :=
  ⟨0, .mgmt, 1#64, pw, (by decide +kernel), (by decide +kernel), (by decide +kernel), (by decide +kernel), (by decide +kernel)⟩

theorem w_PartitionEvents_2 : ∃ k, ∃ w, ∃ v, ∃ (s : State), ∃ t, s.admits w (Reg.partCtl k) v = true ∧ k < 8 ∧ Word.bit v 0 = true ∧ s.partOn k = false ∧ s.mayCreate k v = true ∧ createPartition k v s = .ok () t :=
  ⟨0, .mgmt, 0x10001#64, (pwr Reg.rstCtl 0xFF0E#64).setReg Reg.bringStat 0x80000000#64, _, (by decide +kernel), (by decide +kernel), (by decide +kernel), (by decide +kernel), (by decide +kernel), (okU_of (by decide +kernel))⟩

theorem w_PartitionEvents_3 : ∃ k, ∃ w, ∃ v, ∃ (s : State), s.admits w (Reg.partCtl k) v = true ∧ k < 8 ∧ Word.bit v 0 = false ∧ s.partOn k = true ∧ Word.bits v 16 8 = Word.bits (s.reg (Reg.partCtl k)) 16 8 ∧ Word.bit v 4 = Word.bit (s.reg (Reg.partCtl k)) 4 ∧ s.mayDestroy k = false :=
  ⟨0, .mgmt, 0x10#64, base, (by decide +kernel), (by decide +kernel), (by decide +kernel), (by decide +kernel), (by decide +kernel), (by decide +kernel), (by decide +kernel)⟩

theorem w_PartitionEvents_4 : ∃ k, ∃ w, ∃ v, ∃ (s : State), s.admits w (Reg.partCtl k) v = true ∧ k < 8 ∧ Word.bit v 0 = false ∧ s.partOn k = true ∧ Word.bits v 16 8 = Word.bits (s.reg (Reg.partCtl k)) 16 8 ∧ Word.bit v 4 = Word.bit (s.reg (Reg.partCtl k)) 4 ∧ s.mayDestroy k = true ∧ ∃ t, clearPartition k (s.part k).phys s = .ok () t :=
  ⟨0, .mgmt, 0x10#64, base.updPart 0 fun p => { p with tasks := [] }, (by decide +kernel), (by decide +kernel), (by decide +kernel), (by decide +kernel), (by decide +kernel), (by decide +kernel), (by decide +kernel), _, (okU_of (by decide +kernel))⟩

theorem w_PartitionEvents_5 : ∃ k, ∃ (s : State), k < 8 ∧ s.flag (Reg.partCtl k) 1 = true ∧ s.partOn k = true :=
  ⟨0, base.setReg (Reg.partCtl 0) 0x13#64, (by decide +kernel), (by decide +kernel), (by decide +kernel)⟩

theorem w_PartitionEvents_6 : ∃ k, ∃ (s : State), ∃ t, 0 < k ∧ k < 8 ∧ s.flag (Reg.partCtl k) 1 = true ∧ s.partOn k = false ∧ holdFrontEnd k s = .ok () t :=
  ⟨1, pwr (Reg.partCtl 1) 2#64, _, (by decide +kernel), (by decide +kernel), (by decide +kernel), (by decide +kernel), (okU_of (by decide +kernel))⟩

theorem w_PartitionEvents_7 : ∃ k, ∃ w, ∃ v, ∃ (s : State), s.admits w (Reg.schedCfg k) v = true ∧ k < 8 :=
  ⟨0, .mgmt, 0#64, pw, (by decide +kernel), (by decide +kernel)⟩

theorem w_PartitionEvents_8 : ∃ k, ∃ off, ∃ w, ∃ v, ∃ (s : State), s.admits w (Reg.partCtl k + off) v = true ∧ k < 8 ∧ (off = 0x100 ∨ off = 0x108) ∧ ((s.part k).seq.state ≠ .idle ∨ (s.part k).tasks ≠ []) :=
  ⟨0, 0x100, .mgmt, 0#64, base, (by decide +kernel), (by decide +kernel), (by decide +kernel), (by decide +kernel)⟩

theorem w_PartitionEvents_9 : ∃ k, ∃ w, ∃ v, ∃ (s : State), ∃ sp, s.admits w (Reg.shadowBase k) v = true ∧ k < 8 ∧ (s.part k).seq.state = .idle ∧ (s.part k).tasks = [] ∧ regSpec (Reg.shadowBase k) = some sp ∧ s.shadowOk k (sp.write (s.reg (Reg.shadowBase k)) v) (s.reg (Reg.shadowCfg k)) = true :=
  ⟨0, .mgmt, 0#64, wSec, _, (by decide +kernel), (by decide +kernel), (by decide +kernel), (by decide +kernel), rfl, wSec_shadow⟩

theorem w_PartitionEvents_10 : ∃ k, ∃ w, ∃ v, ∃ (s : State), s.admits w (Reg.ctxCtl k) v = true ∧ k < 8 ∧ s.ctxPhase k ≠ 4 :=
  ⟨0, .mgmt, 0#64, pw, (by decide +kernel), (by decide +kernel), (by decide +kernel)⟩

theorem w_PartitionEvents_11 : ∃ k, ∃ w, ∃ v, ∃ (s : State), ∃ c, ∃ e, ∃ u, ∃ t, s.admits w (Reg.ctxCtl k) v = true ∧ k < 8 ∧ Word.bit v 0 = true ∧ s.ctxPhase k = 4 ∧ sendSusp k tyRRESUME (s.part k).epoch ((List.range (s.part k).lcores).flatMap (s.ranksOf k)) s = .ok () u ∧ (((List.range 4).findSome? fun c =>
      match ((s.part k).queue c).head? with
      | some e => if e.source = 0 ∧ entKind e.bytes = 8 ∧ e.stage = .acting then some (c, e) else none
      | none => none) = some (c, e)) ∧ finishThaw k c (s.reg (Reg.seqQbar k)).toNat e u = .ok () t :=
  ⟨0, .mgmt, 1#64, (wR (act (ent [(2, 8#8)])) Slot.reset).setReg (Reg.ctxStat 0) 4#64, 0, act (ent [(2, 8#8)]), _, _, (by decide +kernel), (by decide +kernel), (by decide +kernel), (by decide +kernel), (okU_of (by decide +kernel)), (by decide +kernel), (okU_of (by decide +kernel))⟩

theorem w_PartitionEvents_12 : ∃ k, ∃ w, ∃ v, ∃ (s : State), s.admits w (Reg.ptRoot k) v = true ∧ k < 8 :=
  ⟨0, .mgmt, 0#64, pw, (by decide +kernel), (by decide +kernel)⟩

theorem w_PartitionEvents_13 : ∃ k, ∃ w, ∃ v, ∃ (s : State), s.admits w (Reg.invCtl k) v = true ∧ k < 8 ∧ Word.bit v 0 = true ∧ s.flag (Reg.invCtl k) 1 = true :=
  ⟨0, .mgmt, 1#64, pwr (Reg.invCtl 0) 2#64, (by decide +kernel), (by decide +kernel), (by decide +kernel), (by decide +kernel)⟩

theorem w_PartitionEvents_14 : ∃ k, ∃ w, ∃ v, ∃ (s : State), ∃ t, ∃ u, s.admits w (Reg.invCtl k) v = true ∧ k < 8 ∧ Word.bit v 0 = true ∧ s.flag (Reg.invCtl k) 1 = false ∧ 
    let lo := granuleAddr (s.reg (Reg.invBase k))
    
    let hi := granuleAddr (s.reg (Reg.invLimit k)) + 65535
    (startInvalidation k lo hi (((s.wrote (Reg.invCtl k) v).putFlag (Reg.invCtl k) 1 true).updPart k fun p => { p with invs := [(lo, hi)] }) = .ok () t) ∧ endInvalidation k lo hi t = .ok () u :=
  ⟨0, .mgmt, 1#64, pw, _, _, (by decide +kernel), (by decide +kernel), (by decide +kernel), (by decide +kernel), (okU_of (by decide +kernel)), (okU_of (by decide +kernel))⟩

theorem w_PartitionEvents_15 : ∃ k, ∃ (s : State), ∃ t, ∃ u, k < 8 ∧ s.flag (Reg.invCtl k) 1 = true ∧ s.partOut k = false ∧ (each (s.part k).invs (fun r => endInvalidation k r.1 r.2) s = .ok () t) ∧ (addWindow k (s.field (Reg.invCtl k) 16 13) 1 (s.frontRel k []) (t.updPart k fun p => { p with invs := [] }) = .ok () u) :=
  ⟨0, pwr (Reg.invCtl 0) 2#64, _, _, (by decide +kernel), (by decide +kernel), (by decide +kernel), (okU_of (by decide +kernel)), (okU_of (by decide +kernel))⟩

theorem w_QueueEntryEvents_1 : ∃ k, ∃ c, ∃ kind, ∃ (s : State), ∃ (e : QEntry), ∃ rest, s.mayDispatch k (kind == 8) = true ∧ (s.part k).queue c = e :: rest ∧ e.source = 0 ∧ entKind e.bytes = kind ∧ e.stage = .queued ∧ (entCpl e.bytes = false ∨ (s.part k).cpl.length < 256) :=
  ⟨0, 0, 0, wQ (ent []), qe (ent []), [], (by decide +kernel), (by decide +kernel), (by decide +kernel), (by decide +kernel), (by decide +kernel), (by decide +kernel)⟩

theorem w_QueueEntryEvents_2 : ∃ (e : QEntry), entWen e.bytes = false :=
  ⟨qe (ent []), (by decide +kernel)⟩

theorem w_QueueEntryEvents_3 : 
    let p := (Instr.cmdNop, 0x00)
    ∃ k, ∃ c, ∃ (s : State), ∃ (e : QEntry), ∃ t, ∃ u, Dispatches k c p.2 e s t ∧ complete k c e 0#10 0#64 t = .ok () u :=
  ⟨0, 0, wQ (ent []), _, _, _, (dispatches_of (by decide +kernel)), (okU_of (by decide +kernel))⟩

theorem w_QueueEntryEvents_4 : 
    let p := (Instr.cmdCadd, 0x04)
    ∃ k, ∃ c, ∃ (s : State), ∃ (e : QEntry), ∃ t, ∃ u, Dispatches k c p.2 e s t ∧ complete k c e 0#10 0#64 t = .ok () u :=
  ⟨0, 0, wQ (ent [(2, 4#8)]), _, _, _, (dispatches_of (by decide +kernel)), (okU_of (by decide +kernel))⟩

theorem w_QueueEntryEvents_5 : 
    let p := (Instr.cmdCwait, 0x05)
    ∃ k, ∃ c, ∃ (s : State), ∃ (e : QEntry), ∃ t, ∃ u, Dispatches k c p.2 e s t ∧ complete k c e 0#10 0#64 t = .ok () u :=
  ⟨0, 0, wQ (ent [(2, 5#8)]), _, _, _, (dispatches_of (by decide +kernel)), (okU_of (by decide +kernel))⟩

theorem w_QueueEntryEvents_6 : ∃ k, ∃ c, ∃ (s : State), ∃ (e : QEntry), ∃ t, ∃ u, Dispatches k c 0x0A e s t ∧ complete k c e 0#10 s.dcc t = .ok () u :=
  ⟨0, 0, wQ (ent [(2, 0x0A#8)]), _, _, _, (dispatches_of (by decide +kernel)), (okU_of (by decide +kernel))⟩

theorem w_QueueEntryEvents_7 : ∃ k, ∃ c, ∃ (s : State), ∃ (e : QEntry), ∃ t, ∃ u, Dispatches k c 0x09 e s t ∧ (startSweep k (.entry { e with stage := .acting }) (t.updPart k fun p => p.setHead c { e with stage := .acting }) = .ok () u) :=
  ⟨0, 0, wQ (ent [(2, 9#8)]), _, _, _, (dispatches_of (by decide +kernel)), (okU_of (by decide +kernel))⟩

theorem w_QueueEntryEvents_8 : ∃ k, ∃ c, ∃ (s : State), ∃ (e : QEntry), ∃ rest, ∃ f, ∃ t, ∃ u, (s.part k).queue c = e :: rest ∧ hostHead k c (entKind e.bytes) s = .ok e s ∧ entryWait k e s = .ok (.poisoned f) t ∧ complete k c e f 0#64 t = .ok () u :=
  ⟨0, 0, { wQ (ent [(9, 0x80#8)]) with blocks := [(0, { Meta.clear with ecc := true })] }, qe (ent [(9, 0x80#8)]), [], 0x292#10, _, _, (by decide +kernel), (okIs_of (by decide +kernel)), (okV_of (by decide +kernel)), (okU_of (by decide +kernel))⟩

theorem w_QueueEntryEvents_9 : ∃ k, ∃ c, ∃ (e : QEntry), ∃ (status : Cause), ∃ (value : Word), ∃ (s : State), ∃ t, ∃ u, dequeue k c s = .ok () t ∧ endEntry k e status value t = .ok () u :=
  ⟨0, 0, qe (ent []), 0#10, 0#64, wQ (ent []), _, _, (okU_of (by decide +kernel)), (okU_of (by decide +kernel))⟩

theorem w_QueueEntryEvents_10 : ∃ k, ∃ c, ∃ (s : State), ∃ (e : QEntry), ∃ rest, (s.part k).queue c = e :: rest ∧ e.source = 0 :=
  ⟨0, 0, wQ (ent []), qe (ent []), [], (by decide +kernel), (by decide +kernel)⟩

theorem w_QueueEntryEvents_11 : ∃ (e : QEntry), entSen e.bytes = false :=
  ⟨qe (ent []), (by decide +kernel)⟩

theorem w_QueueEntryEvents_12 : ∃ k, ∃ (e : QEntry), ∃ (s : State), ∃ t, entSen e.bytes = true ∧ entCpl e.bytes = false ∧ (addWindow k (entSidx e.bytes) (entSinc e.bytes) (if entRel e.bytes then s.frontRel k e.gained else []) s = .ok () t) :=
  ⟨0, qe (ent [(11, 0x80#8)]), wQ (ent []), _, (by decide +kernel), (by decide +kernel), (okU_of (by decide +kernel))⟩

theorem w_QueueEntryEvents_13 : ∃ k, ∃ c, ∃ (s : State), ∃ (e : QEntry), ∃ t, ∃ u, ∃ w, Dispatches k c 0x01 e s t ∧ (t.part k).seq.state = .idle ∧ residencyCheck k e t = .ok none u ∧ 
    let x := (u.part k).slot (entSlot e.bytes)
    (∀ n ∈ u.graphCores k x, (u.job n).live = false) ∧ (acceptRun k c e 1 (((u.graphCores k x).foldl (fun v n => v.updCore n fun y => { y with rel := Map.setN (fun _ => 0#64) [] 0 ((List.range 16).map (entRelAddr e.bytes)) }) u).updPart k fun p => p.setSlot (entSlot e.bytes) { x with launched := true }) = .ok () w) :=
  ⟨0, 0, wR (qe (ent [(2, 1#8)])) resident, _, _, _, _, (dispatches_of (by decide +kernel)), (by decide +kernel), (okV_of (by decide +kernel)), (by decide +kernel), (okU_of (by decide +kernel))⟩

theorem w_QueueEntryEvents_14 : ∃ k, ∃ c, ∃ (s : State), ∃ (e : QEntry), ∃ t, ∃ u, ∃ w, Dispatches k c 0x02 e s t ∧ (t.part k).seq.state = .idle ∧ residencyCheck k e t = .ok none u ∧ ((u.part k).slot (entSlot e.bytes)).launched = true ∧ acceptRun k c e (entNstep e.bytes) u = .ok () w :=
  ⟨0, 0, wR (qe (ent [(2, 2#8)])) { resident with launched := true }, _, _, _, _, (dispatches_of (by decide +kernel)), (by decide +kernel), (okV_of (by decide +kernel)), (by decide +kernel), (okU_of (by decide +kernel))⟩

theorem w_QueueEntryEvents_15 : 
    let p := (Instr.cmdLaunchSlot, 0x01)
    ∃ k, ∃ c, ∃ (s : State), ∃ (e : QEntry), ∃ t, ∃ f, ∃ u, ∃ w, Dispatches k c p.2 e s t ∧ (t.part k).seq.state = .idle ∧ residencyCheck k e t = .ok (some f) u ∧ complete k c e f 0#64 u = .ok () w :=
  ⟨0, 0, wQ (ent [(2, 1#8)]), _, _, 0x2C2#10, _, _, (dispatches_of (by decide +kernel)), (by decide +kernel), (okV_of (by decide +kernel)), (okU_of (by decide +kernel))⟩

theorem w_QueueEntryEvents_16 : 
    let p := (Instr.cmdGraphRun, 0x02)
    ∃ k, ∃ c, ∃ (s : State), ∃ (e : QEntry), ∃ t, ∃ f, ∃ u, ∃ w, Dispatches k c p.2 e s t ∧ (t.part k).seq.state = .idle ∧ residencyCheck k e t = .ok (some f) u ∧ complete k c e f 0#64 u = .ok () w :=
  ⟨0, 0, wQ (ent [(2, 2#8)]), _, _, 0x2C2#10, _, _, (dispatches_of (by decide +kernel)), (by decide +kernel), (okV_of (by decide +kernel)), (okU_of (by decide +kernel))⟩

theorem w_QueueEntryEvents_17 : ∃ k, ∃ c, ∃ (s : State), ∃ (e : QEntry), ∃ t, ∃ u, Dispatches k c 0x03 e s t ∧ coachEntry k c e t = .ok () u :=
  ⟨0, 0, wQ (ent [(2, 3#8)]), _, _, _, (dispatches_of (by decide +kernel)), (okU_of (by decide +kernel))⟩

theorem w_QueueEntryEvents_18 : ∃ k, ∃ c, ∃ (s : State), ∃ (e : QEntry), ∃ rest, ∃ n, ∃ t, ∃ u, s.mayDispatch k false = true ∧ (s.part k).queue c = e :: rest ∧ e.source = 2 ∧ e.stage = .queued ∧ takeNumber k c s = .ok n t ∧ beginTransfer k c n e 2 e.parent e.bytes t = .ok () u :=
  ⟨0, 0, wR { qe (ent []) with source := 2 } Slot.reset, { qe (ent []) with source := 2 }, [], _, _, _, (by decide +kernel), (by decide +kernel), (by decide +kernel), (by decide +kernel), (ok_of (by decide +kernel)), (okU_of (by decide +kernel))⟩

theorem w_QueueEntryEvents_19 : ∃ f, ∃ (s : State), ∃ c, ∃ rest, ∃ t, ∃ u, f < 8 ∧ (s.part f).cpl = c :: rest ∧ 6 ≤ s.field (Reg.ringCtl f) 20 4 ∧ 
    let ctail := (s.word (s.ptrAddr f + 0x80)).toNat
    ctail - (s.word (s.ptrAddr f + 0xC0)).toNat < 2 ^ s.field (Reg.ringCtl f) 20 4 ∧ (blockStore (s.cplAddr f ctail) (cplRecord ctail c) (s.updPart f fun p => { p with cpl := rest }) = .ok () t) ∧ blockStore (s.ptrAddr f + 0x80) (leBytes 8 ((ctail + 1) % 2 ^ 64)) t = .ok () u :=
  ⟨0, (wP fun p => { p with cpl := [cpl0] }).setReg (Reg.ringCtl 0) 0x600000#64, cpl0, [], _, _, (by decide +kernel), (by decide +kernel), (by decide +kernel), (by decide +kernel), (okU_of (by decide +kernel)), (okU_of (by decide +kernel))⟩

theorem w_SlotAndMigrationEvents_1 : ∃ k, ∃ c, ∃ (s : State), ∃ e, ∃ t, Dispatches k c 0x06 e s t ∧ ((t.part k).slot (entSlot e.bytes)).state = .empty :=
  ⟨0, 0, wQ (ent [(2, 6#8)]), _, _, (dispatches_of (by decide +kernel)), (by decide +kernel)⟩

theorem w_SlotAndMigrationEvents_2 : ∃ k, ∃ c, ∃ (s : State), ∃ e, ∃ t, ∃ u, Dispatches k c 0x06 e s t ∧ ((t.part k).slot (entSlot e.bytes)).state ≠ .empty ∧ complete k c e 0x2C6#10 0#64 t = .ok () u :=
  ⟨0, 0, wR (qe (ent [(2, 6#8)])) resident, _, _, _, (dispatches_of (by decide +kernel)), (by decide +kernel), (okU_of (by decide +kernel))⟩

theorem w_SlotAndMigrationEvents_3 : ∃ k, ∃ n, ∃ (s : State), ∃ c, ∃ e, ∃ y, ∃ t, ∃ u, (s.part k).actingOn 0x06 n = some (c, e) ∧ ((s.part k).slot n).state = .loading ∧ loadImage k ((s.part k).slot n) e s = .ok (.ok y) t ∧ (complete k c e 0#10 0#64 (t.updPart k fun p => p.setSlot n y) = .ok () u) :=
  ⟨0, 0, wL, 0, entL, slotOf (loadImage 0 ((wL.part 0).slot 0) entL wL), _, _, (by decide +kernel), (by decide +kernel), (okEV (by decide +kernel)), (okU_of (by decide +kernel))⟩

theorem w_SlotAndMigrationEvents_4 : ∃ k, ∃ n, ∃ (s : State), ∃ c, ∃ e, ∃ f, ∃ t, ∃ u, (s.part k).actingOn 0x06 n = some (c, e) ∧ ((s.part k).slot n).state = .loading ∧ loadImage k ((s.part k).slot n) e s = .ok (.error f) t ∧ (complete k c e f 0#64 (t.updPart k fun p => p.setSlot n { Slot.reset with gen := ((s.part k).slot n).gen }) = .ok () u) :=
  ⟨0, 0, wR (act (ent [(2, 6#8), (40, 64#8)])) { Slot.reset with state := .loading }, 0, act (ent [(2, 6#8), (40, 64#8)]), 0x2C9#10, _, _, (by decide +kernel), (by decide +kernel), (okXV (by decide +kernel)), (okU_of (by decide +kernel))⟩

theorem w_SlotAndMigrationEvents_5 : ∃ k, ∃ c, ∃ (s : State), ∃ e, ∃ t, ∃ u, Dispatches k c 0x07 e s t ∧ ((t.part k).slot (entSlot e.bytes)).state = .empty ∧ complete k c e 0#10 0#64 t = .ok () u :=
  ⟨0, 0, wQ (ent [(2, 7#8)]), _, _, _, (dispatches_of (by decide +kernel)), (by decide +kernel), (okU_of (by decide +kernel))⟩

theorem w_SlotAndMigrationEvents_6 : ∃ k, ∃ c, ∃ (s : State), ∃ e, ∃ t, Dispatches k c 0x07 e s t ∧ ((t.part k).slot (entSlot e.bytes)).state = .resident ∧ ((t.part k).slot (entSlot e.bytes)).gen = entGen e.bytes :=
  ⟨0, 0, wR (qe (ent [(2, 7#8)])) resident, _, _, (dispatches_of (by decide +kernel)), (by decide +kernel), (by decide +kernel)⟩

theorem w_SlotAndMigrationEvents_7 : ∃ k, ∃ n, ∃ (s : State), ∃ c, ∃ e, ∃ u, (s.part k).actingOn 0x07 n = some (c, e) ∧ ((s.part k).slot n).state = .evicting ∧ (s.part k).slotBusy n = false ∧ (complete k c e 0#10 0#64 (s.updPart k fun p => p.setSlot n { Slot.reset with gen := ((s.part k).slot n).gen, world := ((s.part k).slot n).world }) = .ok () u) :=
  ⟨0, 0, wR (act (ent [(2, 7#8)])) { resident with state := .evicting }, 0, act (ent [(2, 7#8)]), _, (by decide +kernel), (by decide +kernel), (by decide +kernel), (okU_of (by decide +kernel))⟩

theorem w_SlotAndMigrationEvents_8 : ∃ k, ∃ c, ∃ (s : State), ∃ e0, ∃ rest, ∃ e, ∃ t, ∃ u, (s.part k).queue c = e0 :: rest ∧ e0.source = 0 ∧ entKind e0.bytes = 8 ∧ entSlot e0.bytes = 0 ∧ e0.stage = .queued ∧ Dispatches k c 0x08 e s t ∧ (s.part k).seq.state = .frozen ∧ writeImage k c e t = .ok () u :=
  ⟨0, 0, wP fun p => { p with queues := [(0, [qe (ent [(2, 8#8)])])], seq := { Seq.reset with state := .frozen } }, qe (ent [(2, 8#8)]), [], _, _, _, (by decide +kernel), (by decide +kernel), (by decide +kernel), (by decide +kernel), (by decide +kernel), (dispatches_of (by decide +kernel)), (by decide +kernel), (okU_of (by decide +kernel))⟩

theorem w_SlotAndMigrationEvents_9 : ∃ k, ∃ c, ∃ (s : State), ∃ e0, ∃ rest, ∃ e, ∃ t, ∃ u, (s.part k).queue c = e0 :: rest ∧ e0.source = 0 ∧ entKind e0.bytes = 8 ∧ entSlot e0.bytes = 0 ∧ e0.stage = .queued ∧ Dispatches k c 0x08 e s t ∧ (s.part k).seq.state ≠ .frozen ∧ beginFreeze k c e t = .ok () u :=
  ⟨0, 0, wQ (ent [(2, 8#8)]), qe (ent [(2, 8#8)]), [], _, _, _, (by decide +kernel), (by decide +kernel), (by decide +kernel), (by decide +kernel), (by decide +kernel), (dispatches_of (by decide +kernel)), (by decide +kernel), (okU_of (by decide +kernel))⟩

theorem w_SlotAndMigrationEvents_10 : ∃ k, ∃ c, ∃ (s : State), ∃ e, ∃ rest, ∃ u, (s.part k).queue c = e :: rest ∧ e.source = 0 ∧ entKind e.bytes = 8 ∧ entSlot e.bytes = 0 ∧ e.stage = .acting ∧ freezeOn k c e s = .ok () u :=
  ⟨0, 0, (wR (act (ent [(2, 8#8)])) Slot.reset).setReg (Reg.ctxStat 0) 1#64, act (ent [(2, 8#8)]), [], _, (by decide +kernel), (by decide +kernel), (by decide +kernel), (by decide +kernel), (by decide +kernel), (okU_of (by decide +kernel))⟩

theorem w_SlotAndMigrationEvents_11 : ∃ k, ∃ c, ∃ (s : State), ∃ e, ∃ t, ∃ u, Dispatches k c 0x08 e s t ∧ entSlot e.bytes = 1 ∧ migrateThaw k c e t = .ok () u :=
  ⟨0, 0, wQ (ent [(2, 8#8), (24, 1#8)]), _, _, _, (dispatches_of (by decide +kernel)), (by decide +kernel), (okU_of (by decide +kernel))⟩

theorem w_SequencerEvents_1 : ∃ k, ∃ (s : State), ∃ t, (s.part k).seq.state = .capture ∧ 
    let x := (s.part k).slot (s.part k).seq.slot
    graphOk (s.part k).lcores x.imglen x.graph = false ∧ endRun k 0x301#10 s = .ok () t :=
  ⟨0, wSeq .capture Slot.reset, _, (by decide +kernel), (by decide +kernel), (okU_of (by decide +kernel))⟩

theorem w_SequencerEvents_2 : ∃ k, ∃ (s : State), ∃ t, (s.part k).seq.state = .capture ∧ 
    let x := (s.part k).slot (s.part k).seq.slot
    graphOk (s.part k).lcores x.imglen x.graph = true ∧ ((x.nodes x.graph).any (fun n => ! nodeOk (graphNlcore x.graph) x.imglen n) = true) ∧ endRun k 0x300#10 s = .ok () t :=
  ⟨0, wSeq .capture (gSlot 9#8), _, (by decide +kernel), (by decide +kernel), (by decide +kernel), (okU_of (by decide +kernel))⟩

theorem w_SequencerEvents_3 : ∃ k, ∃ (s : State), (s.part k).seq.state = .capture ∧ 
    let x := (s.part k).slot (s.part k).seq.slot
    graphOk (s.part k).lcores x.imglen x.graph = true ∧ ((x.nodes x.graph).any (fun n => ! nodeOk (graphNlcore x.graph) x.imglen n) = false) :=
  ⟨0, wSeq .capture (gSlot 0#8), (by decide +kernel), (by decide +kernel), (by decide +kernel)⟩

theorem w_SequencerEvents_4 : ∃ k, ∃ (s : State), ∃ n, (s.part k).seq.state = .issue ∧ (s.part k).sweepOpen = false ∧ s.ctxPhase k = 0 ∧ (s.part k).seq.nodes[(s.part k).seq.node]? = some n :=
  ⟨0, wNode [], ent [], (by decide +kernel), (by decide +kernel), (by decide +kernel), (by decide +kernel)⟩

theorem w_SequencerEvents_5 : ∃ n, nodeWen n = false :=
  ⟨ent [], (by decide +kernel)⟩

theorem w_SequencerEvents_6 : ∃ st, ∃ n, nodeWen n = true ∧ 2 ^ 64 ≤ nodeThr n st :=
  ⟨1, ent [(1, 1#8), (8, 0xFF#8), (9, 0xFF#8), (10, 0xFF#8), (11, 0xFF#8), (12, 0xFF#8), (13, 0xFF#8), (14, 0xFF#8), (15, 0xFF#8), (16, 1#8)], (by decide +kernel), (by decide +kernel)⟩

theorem w_SequencerEvents_7 : ∃ k, ∃ n, ∃ rels, ∃ (s : State), ∃ t, ∃ i, ∃ u, ∃ w, HeadMet k 1 n rels s t ∧ taskNlc n ≤ s.frameCount k ∧ s.taskRoom k (taskNlc n) = true ∧ (newTask k { Task.absent with
      node := n, cls := (match (s.part k).seq.entry with | some e => entClass e.bytes | none => 0), slot := (s.part k).seq.slot,
      step := (s.part k).seq.step, gained := if nodeAcq n then rels else [] } t = .ok i u) ∧ advance k u = .ok () w :=
  ⟨0, _, _, wNode [(0, 1#8), (26, 1#8)], _, _, _, _, (headMet_of (by decide +kernel)), (by decide +kernel), (by decide +kernel), (ok_of (by decide +kernel)), (okU_of (by decide +kernel))⟩

theorem w_SequencerEvents_8 : ∃ k, ∃ n, ∃ rels, ∃ (s : State), ∃ t, ∃ i, ∃ u, ∃ w, HeadMet k 2 n rels s t ∧ 
    let block := ((s.part k).slot (s.part k).seq.slot).bytes (coachPboff n) 64
    blockOk false block = true ∧ (newTransfer k (Transfer.start 1 0 0 0 (s.part k).seq.node none block (if nodeAcq n then rels else [])) t = .ok i u) ∧ advance k u = .ok () w :=
  ⟨0, _, _, wNode [(0, 2#8), (24, 192#8)], _, _, _, _, (headMet_of (by decide +kernel)), (by decide +kernel), (ok_of (by decide +kernel)), (okU_of (by decide +kernel))⟩

theorem w_SequencerEvents_9 : ∃ k, ∃ n, ∃ rels, ∃ (s : State), ∃ t, ∃ u, ∃ w, HeadMet k 2 n rels s t ∧ 
    let block := ((s.part k).slot (s.part k).seq.slot).bytes (coachPboff n) 64
    blockOk false block = false ∧ nodeFail k n 0x201#10 t = .ok () u ∧ advance k u = .ok () w :=
  ⟨0, _, _, wNode [(0, 2#8)], _, _, _, (headMet_of (by decide +kernel)), (by decide +kernel), (okU_of (by decide +kernel)), (okU_of (by decide +kernel))⟩

theorem w_SequencerEvents_10 : ∃ k, ∃ n, ∃ rels, ∃ (s : State), ∃ t, ∃ u, ∃ w, HeadMet k 3 n rels s t ∧ startSweep k (.node (s.part k).seq.node) t = .ok () u ∧ advance k u = .ok () w :=
  ⟨0, _, _, wNode [(0, 3#8)], _, _, _, (headMet_of (by decide +kernel)), (okU_of (by decide +kernel)), (okU_of (by decide +kernel))⟩

theorem w_SequencerEvents_11 : ∃ k, ∃ n, ∃ rels, ∃ (s : State), ∃ t, ∃ u, ∃ w, HeadMet k 0 n rels s t ∧ (nodeSignal k n (t.frontRel k (if nodeAcq n then rels else [])) t = .ok () u) ∧ advance k u = .ok () w :=
  ⟨0, _, _, wNode [], _, _, _, (headMet_of (by decide +kernel)), (okU_of (by decide +kernel)), (okU_of (by decide +kernel))⟩

theorem w_SequencerEvents_12 : ∃ k, ∃ n, ∃ f, ∃ (s : State), ∃ t, ∃ u, ∃ w, headNode k s = .ok n s ∧ nodeWait k (s.part k).seq.step.toNat n s = .ok (.poisoned f) t ∧ nodeFail k n f t = .ok () u ∧ advance k u = .ok () w :=
  ⟨0, ent [(1, 1#8), (8, 0xFF#8), (9, 0xFF#8), (10, 0xFF#8), (11, 0xFF#8), (12, 0xFF#8), (13, 0xFF#8), (14, 0xFF#8), (15, 0xFF#8), (16, 1#8)], 0x302#10, wNode [(1, 1#8), (8, 0xFF#8), (9, 0xFF#8), (10, 0xFF#8), (11, 0xFF#8), (12, 0xFF#8), (13, 0xFF#8), (14, 0xFF#8), (15, 0xFF#8), (16, 1#8)], _, _, _, (okIs_of (by decide +kernel)), (okV_of (by decide +kernel)), (okU_of (by decide +kernel)), (okU_of (by decide +kernel))⟩

theorem w_SequencerEvents_13 : ∃ k, ∃ (s : State), ∃ t, (s.part k).seq.state = .drain ∧ s.ctxPhase k = 0 ∧ (s.part k).tasks = [] ∧ (s.part k).sweepOpen = false ∧ (∀ c < 4, ∀ e ∈ (s.part k).queue c, e.source = 0) ∧ (∀ x ∈ (s.part k).transfers, x.2.source = 0) ∧ (startSweep k .stepEnd (s.updPart k fun p => { p with seq := { p.seq with state := .sweep } }) = .ok () t) :=
  ⟨0, wSeq .drain Slot.reset, _, (by decide +kernel), (by decide +kernel), (by decide +kernel), (by decide +kernel), (by decide +kernel), (by decide +kernel), (okU_of (by decide +kernel))⟩

theorem w_SequencerEvents_14 : ∃ k, ∃ (s : State), ∃ w, ((s.part k).sweeps.find? (fun w => w.by_ == .stepEnd && w.met) = some w) ∧ (s.part k).seq.state = .sweep ∧ 1 < (s.part k).seq.stepsLeft ∧ (s.part k).seq.cause = 0#10 :=
  ⟨0, wSweep ⟨.stepEnd, 1, none, none, true⟩ .sweep, ⟨.stepEnd, 1, none, none, true⟩, (by decide +kernel), (by decide +kernel), (by decide +kernel), (by decide +kernel)⟩

theorem w_SequencerEvents_15 : ∃ k, ∃ (s : State), ∃ w, ∃ rest, (s.part k).sweeps = w :: rest ∧ (w.met = true ∨ w.second.isSome = true) :=
  ⟨0, wSweep ⟨.stepEnd, 1, none, none, true⟩ .sweep, ⟨.stepEnd, 1, none, none, true⟩, [], (by decide +kernel), (by decide +kernel)⟩

theorem w_SequencerEvents_16 : ∃ k, ∃ (s : State), ∃ w, ∃ rest, ∃ t, (s.part k).sweeps = w :: rest ∧ w.met = false ∧ w.second = none ∧ sweepSums k w s = .ok () t :=
  ⟨0, wSweep ⟨.stepEnd, 1, none, none, false⟩ .sweep, ⟨.stepEnd, 1, none, none, false⟩, [], _, (by decide +kernel), (by decide +kernel), (by decide +kernel), (okU_of (by decide +kernel))⟩

theorem w_SequencerEvents_17 : ∃ k, ∃ t, ∃ (s : State), ∃ task, ∃ u, ∃ w, Map.find (s.part k).tasks t = some task ∧ task.jobs = [] ∧ task.started = true ∧ (u = s.updPart k (fun p => { p with tasks := Map.erase p.tasks t })) ∧ task.fatal = none ∧ nodeSignal k task.node task.jobRels u = .ok () w :=
  ⟨0, 1, wTask { Task.absent with started := true }, { Task.absent with started := true }, _, _, (by decide +kernel), (by decide +kernel), (by decide +kernel), rfl, (by decide +kernel), (okU_of (by decide +kernel))⟩

theorem w_SequencerEvents_18 : ∃ k, ∃ t, ∃ (s : State), ∃ task, ∃ u, ∃ w, Map.find (s.part k).tasks t = some task ∧ task.jobs = [] ∧ task.started = true ∧ (u = s.updPart k (fun p => { p with tasks := Map.erase p.tasks t })) ∧ ∃ f, task.fatal = some f ∧ nodeFail k task.node f u = .ok () w :=
  ⟨0, 1, wTask { Task.absent with started := true, fatal := some 0x102#10 }, { Task.absent with started := true, fatal := some 0x102#10 }, _, _, (by decide +kernel), (by decide +kernel), (by decide +kernel), rfl, 0x102#10, (by decide +kernel), (okU_of (by decide +kernel))⟩

theorem w_SequencerEvents_19 : ∃ k, ∃ t, ∃ cause, ∃ (s : State), ∃ c, ∃ cs, ∃ u, Map.has (s.part k).tasks t = true ∧ (isFatal cause = true ∨ cause = 0x147#10 ∨ cause = 0x345#10) ∧ s.taskCores k t = c :: cs ∧ fatalOn c 7 0 cause .plain s = .ok () u :=
  ⟨0, 1, 0x147#10, base, 0, [], _, (by decide +kernel), (by decide +kernel), (by decide +kernel), (okU_of (by decide +kernel))⟩

theorem w_JobEvents_1 : ∃ k, ∃ t, ∃ s0, ∃ (s : State), ∃ task, ∃ u, ∃ v, refreshReady k s0 = .ok () s ∧ Map.find (s.part k).tasks t = some task ∧ task.started = false ∧ task.fatal = none ∧ s.ctxPhase k = 0 ∧ (s.part k).seq.state ≠ .frozen ∧ taskNlc task.node ≤ s.framesFree k ∧ s.flag (Reg.ctxStat k) 8 = false ∧ (∀ c ∈ s.groupCores k task, (s.job c).live = false) ∧ (∀ c ∈ s.groupCores k task, s.canGive k task c = true) ∧ 
    let new := { task with started := true, jobs := range s.nextJob (taskNlc task.node) }
    (startGroup k t s.nextJob new false (({ s with nextJob := s.nextJob + taskNlc task.node } : State).updPart k fun p => { p with tasks := Map.insert p.tasks t new }) = .ok () u) ∧ (if u.allStarted k t then endChildDispatch k new u = .ok () v else v = u) :=
  ⟨0, 1, wIdle, _, task1, _, _, (okU_of (by decide +kernel)), (by decide +kernel), (by decide +kernel), (by decide +kernel), (by decide +kernel), (by decide +kernel), (by decide +kernel), (by decide +kernel), (by decide +kernel), (by decide +kernel), (okU_of (by decide +kernel)), (ite_yes (by decide +kernel) (okU_of (by decide +kernel)))⟩

theorem w_JobEvents_2 : ∃ c, ∃ (s : State), 
    let j := s.job c
    j.live = true ∧ (∀ e ∈ j.streams, (s.hart (.stream c e)).stat = .joined ∧ (s.hart (.stream c e)).priv = []) ∧ j.mcmds = [] ∧ j.fcmds = [] ∧ j.psb = [] ∧ j.loadQ = [] ∧ j.storeQ = [] ∧ j.rlds = [] ∧ s.coreAwaits c = false ∧ s.jobOut c = false ∧ ∃ t, removeJob c s = .ok () t :=
  ⟨0, wJoin, (by decide +kernel), (by decide +kernel), (by decide +kernel), (by decide +kernel), (by decide +kernel), (by decide +kernel), (by decide +kernel), (by decide +kernel), (by decide +kernel), (by decide +kernel), _, (okU_of (by decide +kernel))⟩

theorem w_JobEvents_3 : ∃ c, ∃ (s : State), ∃ t, (s.job c).live = true ∧ 1500 * s.field (Reg.schedCfg (s.job c).part) 32 16 ≤ (s.job c).issueTime ∧ refreshReady (s.job c).part s = .ok () t :=
  ⟨0, base.updJob 0 fun j => { j with issueTime := 1000000000 }, _, (by decide +kernel), (by decide +kernel), (okU_of (by decide +kernel))⟩

theorem w_JobEvents_4 : ∃ c, ∃ (s : State), ∃ t, 
    let j := s.job c
    j.live = true ∧ j.stopping = true ∧ (∀ e ∈ j.streams, (s.hart (.stream c e)).atPoint = true) ∧ (∃ e ∈ j.streams, (s.hart (.stream c e)).stat ≠ .halted) ∧ s.jobQuiet c = true ∧ s.multi j.part = false ∧ (saveJob c (s.ctxPhase j.part == 1) (s.updJob c fun j => { j with stopping := true }) = .ok () t) :=
  ⟨0, wJoin.updJob 0 fun j => { j with stopping := true }, _, (by decide +kernel), (by decide +kernel), (by decide +kernel), (by decide +kernel), (by decide +kernel), (by decide +kernel), (okU_of (by decide +kernel))⟩

theorem w_JobEvents_5 : ∃ c, ∃ id, ∃ s0, ∃ (s : State), ∃ f, ∃ t, Map.find s0.frames id = some f ∧ refreshReady f.job.part s0 = .ok () s ∧ (s.job c).live = false ∧ 
    let k := f.job.part
    (s.part k).coreOf f.job.lcore = c ∧ s.partOfCore c = some k ∧ s.ctxPhase k = 0 ∧ (s.part k).seq.state ≠ .frozen ∧ s.nextJobOn k c = some id ∧ s.resident k f.job.lcore = true ∧ restoreJob c id f s = .ok () t :=
  ⟨0, 1, wSaved, _, frame1, _, (by decide +kernel), (okU_of (by decide +kernel)), (by decide +kernel), (by decide +kernel), (by decide +kernel), (by decide +kernel), (by decide +kernel), (by decide +kernel), (by decide +kernel), (okU_of (by decide +kernel))⟩

theorem w_JobEvents_6 : ∃ c, ∃ (s : State), ∃ k, ∃ l, s.partOfCore c = some k ∧ s.flag (Reg.ctxStat k) 8 = true ∧ (s.job c).live = false ∧ s.ctxPhase k = 0 ∧ (s.part k).seq.state ≠ .frozen ∧ s.nextResident k c = some l :=
  ⟨0, wMux.setReg (Reg.ctxStat 0) 0x100#64, 0, 1, (by decide +kernel), (by decide +kernel), (by decide +kernel), (by decide +kernel), (by decide +kernel), (by decide +kernel)⟩

theorem w_JobEvents_7 : ∃ k, ∃ l, ∃ off, ∃ (data : List Byte), ∃ (s : State), ∃ b, ∃ t, l < (s.part k).lcores ∧ s.resident k l = false ∧ off + data.length ≤ 4194304 ∧ physWrite (s.shadowOf k l off) data none s = .ok b t :=
  ⟨0, 1, 0, [1#8], wMux, _, _, (by decide +kernel), (by decide +kernel), (by decide +kernel), (ok_of (by decide +kernel))⟩

theorem w_JobEvents_8 : ∃ k, ∃ l, ∃ off, ∃ v, ∃ (s : State), ∃ t, l < (s.part k).lcores ∧ s.resident k l = false ∧ off + 8 ≤ 4194304 ∧ off % 8 = 0 ∧ addMcounter (s.shadowOf k l off) v [] s = .ok () t :=
  ⟨0, 1, 0, 1#64, wMux, _, (by decide +kernel), (by decide +kernel), (by decide +kernel), (by decide +kernel), (okU_of (by decide +kernel))⟩

theorem w_JobEvents_9 : ∃ k, ∃ l, ∃ n, ∃ (s : State), ∃ e, l < (s.part k).lcores ∧ n < 256 ∧ (s.frames.find? (fun e => e.2.job.part == k && e.2.job.lcore == l) = some e) :=
  ⟨0, 0, 0, wSaved, (1, frame1), (by decide +kernel), (by decide +kernel), (by decide +kernel)⟩

theorem w_JobEvents_10 : ∃ c, ∃ (s : State), ∃ t, s.deadlocked c = true ∧ 4096 ≤ (s.core c).deadCycles ∧ fatalOn c 7 0 0x105#10 .plain s = .ok () t :=
  ⟨0, wJoinB, _, (by decide +kernel), (by decide +kernel), (okU_of (by decide +kernel))⟩

theorem w_CoreEvents_1 : ∃ c, ∃ (s : State), ∃ t, 4096 ≤ (s.job c).privOrder.length ∧ writeBackOldest c s = .ok () t :=
  ⟨0, wFull4096, _, (Nat.le_of_eq (List.length_replicate (n := 4096) (a := ((0, 0x400) : Nat × Nat))).symm), (okU_of (by decide +kernel))⟩

theorem w_CoreEvents_2 : ∃ c, ∃ (s : State), ∃ i, ∃ t, ∃ u, s.acceptable c ≠ [] ∧ choose 58 (s.acceptable c).length s = .ok i t ∧ acceptOut ((s.acceptable c).getD i 0) t = .ok () u :=
  ⟨0, wOut, _, _, _, (by decide +kernel), (ok_of (by decide +kernel)), (okU_of (by decide +kernel))⟩

theorem w_CoreEvents_3 : ∃ c, ∃ e, ∃ (s : State), ∃ w, ∃ rels, ∃ t, ∃ u, (s.hart (.stream c e)).wait = some w ∧ s.runnable (.stream c e) = true ∧ w.waita = false ∧ ((s.hart (.stream c e)).blocked = .cwait ∨ (s.hart (.stream c e)).blocked = .memWait) ∧ metWait w c s = .ok rels t ∧ waitDone w.acq rels { t with cur := .stream c e } = .ok () u :=
  ⟨0, .A, wWaits .cwait 0, ⟨.core 4, false, 0, none⟩, _, _, _, (by decide +kernel), (by decide +kernel), (by decide +kernel), (by decide +kernel), (ok_of (by decide +kernel)), (okU_of (by decide +kernel))⟩

theorem w_CoreEvents_4 : ∃ c, ∃ e, ∃ (s : State), ∃ w, ∃ rels, ∃ t, ∃ b, (s.hart (.stream c e)).wait = some w ∧ s.runnable (.stream c e) = true ∧ w.waita = false ∧ (s.hart (.stream c e)).blocked = .cmdWait b ∧ metWait w c s = .ok rels t :=
  ⟨0, .A, wWaits (.cmdWait true) 0, ⟨.core 4, false, 0, none⟩, _, _, true, (by decide +kernel), (by decide +kernel), (by decide +kernel), (by decide +kernel), (ok_of (by decide +kernel))⟩

theorem w_CoreEvents_5 : ∃ c, ∃ n, ∃ (s : State), ∃ thr, ((s.job c).counter n).poison = none ∧ thr ≤ ((s.job c).counter n).view.toNat :=
  ⟨0, 4, base, 0, (by decide +kernel), (by decide +kernel)⟩

theorem w_CoreEvents_6 : ∃ a, ∃ (s : State), ∃ w, ∃ r, ∃ t, (s.hart a).wait = some w ∧ agentExists a = true ∧ s.runnable a = true ∧ w.waita = true ∧ (s.hart a).blocked = .memWait ∧ w.ref = .mem r ∧ waitWordAt r w.thr w.acq { s with cur := a } = .ok () t :=
  ⟨.stream 0 .A, wWaita, ⟨.mem 0x10040#64, true, 0, none⟩, 0x10040#64, _, (by decide +kernel), (by decide +kernel), (by decide +kernel), (by decide +kernel), (by decide +kernel), (by decide +kernel), (okU_of (by decide +kernel))⟩

theorem w_CoreEvents_7 : ∃ c, ∃ id, ∃ (s : State), ∃ r, ∃ tag, ∃ q, ∃ data, ∃ t, (s.job c).rlds.find? (·.id == id) = some r ∧ (s.answerOf (.rld c id) (fun _ => true) = some (tag, q)) ∧ q.answer = some (0#10, data) ∧ rldArrives c r data { s with remotes := Map.erase s.remotes tag } = .ok () t :=
  ⟨0, 7, wRld [(3, ans0)], rld0, 3, ans0, List.replicate 8 1#8, _, (by decide +kernel), (by decide +kernel), (by decide +kernel), (okU_of (by decide +kernel))⟩

theorem w_CoreEvents_8 : ∃ c, ∃ id, ∃ (s : State), ∃ r, ∃ t, ∃ u, (s.job c).rlds.find? (·.id == id) = some r ∧ (s.answerOf (.rld c id) (fun _ => true) = none) ∧ s.place r.pa = .hbm ∧ exitChecks (s.blocksOf r.pa r.size) s = .ok none t ∧ rldArrives c r (s.bytes r.pa r.size) t = .ok () u :=
  ⟨0, 7, wRld [], rld0, _, _, (by decide +kernel), (by decide +kernel), (by decide +kernel), (okV_of (by decide +kernel)), (okU_of (by decide +kernel))⟩

theorem w_CoreEvents_9 : ∃ c, ∃ (s : State), ∃ k, ∃ lo, ∃ hi, ∃ x, ∃ t, (s.job c).part = k ∧ (s.part k).seals.find? (·.1 == c) = some (c, lo, hi, x) ∧ (∀ o ∈ s.outq, (s.part k).phys.contains o.core = true → 1024 ≤ o.agent) ∧ endInvalidation k lo hi s = .ok () t :=
  ⟨0, wSeal, 0, 0x100000, 0x10FFFF, true, _, (by decide +kernel), (by decide +kernel), (by decide +kernel), (okU_of (by decide +kernel))⟩

theorem w_CoreEvents_10 : ∃ c, ∃ cause, ∃ aux, ∃ (s : State), ∃ t, c < 128 ∧ (cause = 0x1C2#10 ∨ cause = 0x1C3#10) ∧ fqPush c true (jobRecord s c cause 3 7 0 { FInfo.plain with aux := aux }) s = .ok () t :=
  ⟨0, 0x1C2#10, 0#64, base, _, (by decide +kernel), (by decide +kernel), (okU_of (by decide +kernel))⟩

theorem w_CoreEvents_11 : ∃ c, ∃ (s : State), (s.core c).fqCount < 11 :=
  ⟨0, base, (by decide +kernel)⟩

theorem w_CoreEvents_12 : ∃ c, ∃ (s : State), 11 ≤ (s.core c).fqCount :=
  ⟨0, wLost, (by decide +kernel)⟩

theorem w_CoreEvents_13 : ∃ c, ∃ (s : State), ∃ t, c < 128 ∧ s.userIssues c = true ∧ opportunity c s = .ok () t :=
  ⟨0, base, _, (by decide +kernel), (by decide +kernel), (okU_of (by decide +kernel))⟩

theorem w_CoreEvents_14 : ∃ c, ∃ cause, ∃ (s : State), ∃ t, c < 128 ∧ (s.hart (.service c)).stat = .running ∧ takeException (.service c) cause .plain s = .ok () t :=
  ⟨0, 0x102#10, wS, _, (by decide +kernel), (by decide +kernel), (okU_of (by decide +kernel))⟩

theorem w_EngineEvents_1 : ∃ c, ∃ e, ∃ (s : State), ∃ i, ∃ cmd, ∃ cmd1, ∃ p, ∃ t, ∃ u, ∃ v, (s.job c).live = true ∧ (e = .M ∨ e = .F) ∧ s.awaiting (.engine c e.no) = false ∧ nextCmd ((s.job c).queueOf e) = some i ∧ ((s.job c).queueOf e)[i]? = some cmd ∧ cmd.op.isPair = false ∧ (s.job c).stopping = false ∧ cmd.visible ≤ (s.job c).j + 1 ∧ (s.job c).room cmd = true ∧ answeredRows (.engine c e.no) cmd s = .ok (.upTo cmd1) t ∧ runCmd c e cmd1.units cmd1 t = .ok p u ∧ settle c e i p u = .ok () v :=
  ⟨0, .M, wEng, 0, mc0, mc0, _, _, _, _, (by decide +kernel), (by decide +kernel), (by decide +kernel), (by decide +kernel), (by decide +kernel), (by decide +kernel), (by decide +kernel), (by decide +kernel), (by decide +kernel), (okV_of (by decide +kernel)), (ok_of (by decide +kernel)), (okU_of (by decide +kernel))⟩

theorem w_EngineEvents_2 : ∃ c, ∃ e, ∃ i, ∃ cmd, ∃ (s : State), ∃ t, ∃ u, cmd.units ≤ cmd.cursor ∧ dropCmd c e i s = .ok () t ∧ finishCmd c cmd t = .ok () u :=
  ⟨0, .M, 0, { mc0 with cursor := 1 }, wEng, _, _, (by decide +kernel), (okU_of (by decide +kernel)), (okU_of (by decide +kernel))⟩

theorem w_EngineEvents_3 : ∃ c, ∃ e, ∃ i, ∃ cmd, ∃ f, ∃ a, ∃ (s : State), ∃ t, ∃ u, dropCmd c e i s = .ok () t ∧ failCmd c e cmd f a t = .ok () u :=
  ⟨0, .M, 0, mc0, 0x292#10, 0#64, wEng, _, _, (okU_of (by decide +kernel)), (okU_of (by decide +kernel))⟩

theorem w_EngineEvents_4 : ∃ c, ∃ e, ∃ (s : State), ∃ i, ∃ cmd, ∃ t, (s.job c).live = true ∧ (e = .M ∨ e = .F) ∧ nextCmd ((s.job c).queueOf e) = some i ∧ ((s.job c).queueOf e)[i]? = some cmd ∧ settle c e i (.fails cmd 0x292#10 0#64) s = .ok () t :=
  ⟨0, .M, wEng, 0, mc0, _, (by decide +kernel), (by decide +kernel), (by decide +kernel), (by decide +kernel), (okU_of (by decide +kernel))⟩

theorem w_EngineEvents_5 : ∃ c, ∃ e, ∃ (s : State), ∃ w, ∃ x, ∃ t, (s.job c).live = true ∧ (s.hart (.stream c e)).stat = .running ∧ (s.hart (.stream c e)).blocked = .stamp ∧ (s.hart (.stream c e)).wait = some w ∧ w.thr ≤ (s.job c).j ∧ mfCommandOf (s.codeWord (.stream c e) ((s.hart (.stream c e)).pc + 8)) (s.codeWord (.stream c e) ((s.hart (.stream c e)).pc + 16)) (some (slotStamp (s.codeWord (.stream c e) (s.hart (.stream c e)).pc))) = some x ∧ x { s with cur := .stream c e } = .ok () t :=
  ⟨0, .M, wTimed, ⟨.core 0, false, 5, none⟩, _, _, (by decide +kernel), (by decide +kernel), (by decide +kernel), (by decide +kernel), (by decide +kernel), (some_of (by decide +kernel)), (okU_of (by decide +kernel))⟩

theorem w_EngineEvents_6 : ∃ c, ∃ n, ∃ (s : State), ∃ t, (s.job c).live = true ∧ (s.job c).timed = true ∧ (fqPush c true (jobRecord s c 0x183#10 3 7 0 .plain) (s.updJob c fun j => { j with stall := j.stall + n, stampb := j.stampb + BitVec.ofNat 64 n }) = .ok () t) :=
  ⟨0, 1, base.updJob 0 fun j => { j with timed := true }, _, (by decide +kernel), (by decide +kernel), (okU_of (by decide +kernel))⟩

theorem w_EngineEvents_7 : ∃ c, ∃ c2, ∃ (s : State), ∃ lr, ∃ fr, ∃ t, ∃ u, (s.job c).live = true ∧ s.atPair c = true ∧ s.partner c = some c2 ∧ s.atPair c2 = true ∧ (s.job c).lcore % 2 = 0 ∧ (s.job c).pairReq = some lr ∧ (s.job c2).pairReq = some fr ∧ lr.opc ≠ fr.opc ∧ pairFault c 0x202#10 s = .ok () t ∧ pairFault c2 0x202#10 t = .ok () u :=
  ⟨0, 1, wPair 0xC4 0xC5, req0 0xC4 false, req0 0xC5 true, _, _, (by decide +kernel), (by decide +kernel), (by decide +kernel), (by decide +kernel), (by decide +kernel), (by decide +kernel), (by decide +kernel), (by decide +kernel), (okU_of (by decide +kernel)), (okU_of (by decide +kernel))⟩

theorem w_EngineEvents_8 : ∃ c, ∃ c2, ∃ (s : State), ∃ lr, ∃ fr, ∃ z, ∃ tr, ∃ p, ∃ bank, ∃ a, ∃ b, ∃ sa, ∃ sb, ∃ g, ∃ ms, ∃ t, ∃ u, ∃ v, (s.job c).live = true ∧ s.atPair c = true ∧ s.partner c = some c2 ∧ s.atPair c2 = true ∧ (s.job c).lcore % 2 = 0 ∧ (s.job c).pairReq = some lr ∧ (s.job c2).pairReq = some fr ∧ lr.opc = fr.opc ∧ lr.z = fr.z ∧ lr.t = fr.t ∧ lr.gran = fr.gran ∧ lr.k = fr.k ∧ fr.bNone = true ∧ fr.sbNone = true ∧ lr.bNone = false ∧ lr.stamped = false ∧ fr.stamped = false ∧ lr.bank = fr.bank ∧ lr.cmd.op = .mma lr.opc z tr p bank a b sa (some sb) g ∧ elemsAll c [b, sb] s = .ok (.ok ms) t ∧ pairIssue c lr (ms.getD 0 []) (ms.getD 1 []) lr.cmd t = .ok () u ∧ pairIssue c2 fr (ms.getD 0 []) (ms.getD 1 []) lr.cmd u = .ok () v :=
  ⟨0, 1, wPair 0xC4 0xC4, req0 0xC4 false, req0 0xC4 true, false, false, true, 0, ref0, ref0, some ref0, ref0, 0, [[[1]], [[1]]], _, _, _, (by decide +kernel), (by decide +kernel), (by decide +kernel), (by decide +kernel), (by decide +kernel), (by decide +kernel), (by decide +kernel), (by decide +kernel), (by decide +kernel), (by decide +kernel), (by decide +kernel), (by decide +kernel), (by decide +kernel), (by decide +kernel), (by decide +kernel), (by decide +kernel), (by decide +kernel), (by decide +kernel), (by decide +kernel), (okEV (by decide +kernel)), (okU_of (by decide +kernel)), (okU_of (by decide +kernel))⟩

theorem w_EngineEvents_9 : ∃ c, ∃ (s : State), ∃ p, ∃ cmd, ∃ t, ∃ u, ((s.job c).psb.find? (fun p => decide (p.cmd.visible ≤ (s.job c).j + 1)) = some p) ∧ (s.job c).live = true ∧ (s.job c).room p.cmd = true ∧ (runCmd c p.eng p.cmd.units p.cmd (s.updJob c fun j => { j with psb := j.psb.erase p }) = .ok (.upTo cmd) t) ∧ finishCmd c cmd t = .ok () u :=
  ⟨0, base.updJob 0 fun j => { j with psb := [⟨mc0, .M, 1⟩] }, ⟨mc0, .M, 1⟩, cmdOf (runCmd 0 .M 1 mc0 (base.updJob 0 fun j => { j with psb := [] })), _, _, (by decide +kernel), (by decide +kernel), (by decide +kernel), (okV_of (by decide +kernel)), (okU_of (by decide +kernel))⟩

theorem w_CartEvents_1 : ∃ c, ∃ store, ∃ (s : State), ∃ cmd, ∃ rels, ∃ t, (s.job c).live = true ∧ firstUnstarted ((s.job c).cartQ store) = some cmd ∧ cmd.opc ≠ 0xE8 ∧ cmd.opc ≠ 0xE9 ∧ waitState (.cart c cmd.id) c cmd.cl s = .ok (.met rels) t :=
  ⟨0, true, wCart cmd0, cmd0, [], _, (by decide +kernel), (by decide +kernel), (by decide +kernel), (by decide +kernel), (okV_of (by decide +kernel))⟩

theorem w_CartEvents_2 : ∃ c, ∃ store, ∃ (s : State), ∃ cmd, ∃ t, (s.job c).live = true ∧ firstUnstarted ((s.job c).cartQ store) = some cmd ∧ waitState (.cart c cmd.id) c cmd.cl s = .ok .unmet t :=
  ⟨0, true, wCart (cwtCmd 9#24), cwtCmd 9#24, _, (by decide +kernel), (by decide +kernel), (okV_of (by decide +kernel))⟩

theorem w_CartEvents_3 : ∃ c, ∃ store, ∃ (s : State), ∃ cmd, ∃ f, ∃ t, ∃ u, ∃ v, (s.job c).live = true ∧ firstUnstarted ((s.job c).cartQ store) = some cmd ∧ waitState (.cart c cmd.id) c cmd.cl s = .ok (.poisoned f) t ∧ dropCart c store cmd.id t = .ok () u ∧ signalPoison c cmd.cl f u = .ok () v :=
  ⟨0, true, (wCart (cwtCmd 0#24)).updJob 0 fun j => j.setCounter 4 badCtr, cwtCmd 0#24, 0x102#10, _, _, _, (by decide +kernel), (by decide +kernel), (okV_of (by decide +kernel)), (okU_of (by decide +kernel)), (okU_of (by decide +kernel))⟩

theorem w_CartEvents_4 : ∃ c, ∃ store, ∃ n, ∃ (s : State), ∃ cmd, ∃ rest, ∃ x, ∃ t, (s.job c).live = true ∧ (s.job c).cartQ store = cmd :: rest ∧ cmd.started = true ∧ (cartSteps c (n + 1) cmd s = .ok (.more x) t ∨ cartSteps c (n + 1) cmd s = .ok (.waits x) t) :=
  ⟨0, true, 0, wCart (cmdC 0#64), cmdC 0#64, [], cartOf (cartSteps 0 1 (cmdC 0#64) (wCart (cmdC 0#64))), _, (by decide +kernel), (by decide +kernel), (by decide +kernel), (.inl (okV_of (by decide +kernel)))⟩

theorem w_CartEvents_5 : ∃ c, ∃ store, ∃ n, ∃ (s : State), ∃ cmd, ∃ rest, ∃ x, ∃ t, (s.job c).live = true ∧ (s.job c).cartQ store = cmd :: rest ∧ cmd.started = true ∧ cartSteps c (n + 1) cmd s = .ok (.ended x) t ∧ x.bad = none ∧ ∃ u, ∃ v, dropCart c store x.id t = .ok () u ∧ signalDone c x.cl x.total x.gs u = .ok () v :=
  ⟨0, true, 9, wCart (cmdC 0#64), cmdC 0#64, [], cartOf (cartSteps 0 10 (cmdC 0#64) (wCart (cmdC 0#64))), _, (by decide +kernel), (by decide +kernel), (by decide +kernel), (okV_of (by decide +kernel)), (by decide +kernel), _, _, (okU_of (by decide +kernel)), (okU_of (by decide +kernel))⟩

theorem w_CartEvents_6 : ∃ c, ∃ store, ∃ (s : State), ∃ cmd, ∃ rest, ∃ x, ∃ f, ∃ a, ∃ t, ∃ u, (s.job c).live = true ∧ (s.job c).cartQ store = cmd :: rest ∧ cmd.started = true ∧ cartStep c cmd s = .ok (.fails x f a) t ∧ failCart c store x f a x.pos t = .ok () u :=
  ⟨0, true, wCart (cmdC 0x90000#64), cmdC 0x90000#64, [], cmdC 0x90000#64, 0x140#10, 0x90000#64, _, _, (by decide +kernel), (by decide +kernel), (by decide +kernel), (okV_of (by decide +kernel)), (okU_of (by decide +kernel))⟩

theorem w_CoachEvents_1 : ∃ k, ∃ i, ∃ r, ∃ (s : State), ∃ x, ∃ c, ∃ t, ∃ u, ∃ v, ∃ w, Map.find (s.part k).transfers i = some x ∧ x.allIssued = false ∧ (cblock x.block).ranks.contains r = true ∧ x.issued.contains r = false ∧ s.ctxPhase k = 0 ∧ resolveRank k r s = .ok (.error c) t ∧ openStep k i x.step t = .ok () u ∧ (rankIssued k i r (u.onTransfer k i fun y => { y.fail c with failed := y.failed ++ (((cblock x.block).peers x.step).filter (s.localRank k)).map fun p => (stepKey x.step r, p, c) }) = .ok () v) ∧ settleTransfer k i v = .ok () w :=
  ⟨0, 0, 0, wCoach 0 0 tr0, tr0, 0x246#10, _, _, _, _, (by decide +kernel), (by decide +kernel), (by decide +kernel), (by decide +kernel), (by decide +kernel), (okXV (by decide +kernel)), (okU_of (by decide +kernel)), (okU_of (by decide +kernel)), (okU_of (by decide +kernel))⟩

theorem w_CoachEvents_2 : ∃ k, ∃ i, ∃ r, ∃ (s : State), ∃ x, ∃ pkg, ∃ l, ∃ t, ∃ u, ∃ v, Map.find (s.part k).transfers i = some x ∧ x.allIssued = false ∧ (cblock x.block).ranks.contains r = true ∧ x.issued.contains r = false ∧ s.ctxPhase k = 0 ∧ resolveRank k r s = .ok (.ok (pkg, l)) t ∧ pkg ≠ s.pkg ∧ rankIssued k i r t = .ok () u ∧ settleTransfer k i u = .ok () v :=
  ⟨0, 0, 0, wCoach 1 5 tr0, tr0, 5, 0, _, _, _, (by decide +kernel), (by decide +kernel), (by decide +kernel), (by decide +kernel), (by decide +kernel), (okEV (by decide +kernel)), (by decide +kernel), (okU_of (by decide +kernel)), (okU_of (by decide +kernel))⟩

theorem w_CoachEvents_3 : ∃ k, ∃ i, ∃ r, ∃ (s : State), ∃ x, ∃ l, ∃ t, ∃ todo, ∃ u, ∃ v, ∃ w, ∃ y, ∃ z, ∃ fl, Map.find (s.part k).transfers i = some x ∧ x.allIssued = false ∧ (cblock x.block).ranks.contains r = true ∧ x.issued.contains r = false ∧ s.ctxPhase k = 0 ∧ resolveRank k r s = .ok (.ok (s.pkg, l)) t ∧ s.suspended k s.pkg r = false ∧ (cblock x.block).wsel = 0xFF ∧ (cblock x.block).acq = false ∧ (cblock x.block).dsel = 0xFF ∧ ((gainOf 3 (t.party (.frontEnd k)) x.gained).join ⟨x.base, []⟩).join .zero = fl ∧ gatherPeers k i (cblock x.block) fl x.step r l ((cblock x.block).peers x.step) t = .ok (some todo) u ∧ clearCoachReads k i (stepKey x.step r) u = .ok () v ∧ openStep k i x.step v = .ok () w ∧ (each todo (fun q => match q.2.2 with
      | .error c => updTransfer k i fun y => { y.fail c with failed := y.failed ++ [(stepKey x.step r, q.1, c)] }
      | .ok ps => issuePair k i (cblock x.block) x.step r q.1 ps q.2.1) w = .ok () y) ∧ ∃ t', (rankIssued k i r (y.onTransfer k i fun a => a) = .ok () t') ∧ settleTransfer k i t' = .ok () z :=
  ⟨0, 0, 0, wCoach 1 0 tr0, tr0, 0, _, _, _, _, _, _, _, _, (by decide +kernel), (by decide +kernel), (by decide +kernel), (by decide +kernel), (by decide +kernel), (okEV (by decide +kernel)), (by decide +kernel), rfl, (by decide +kernel), (by decide +kernel), rfl, (okSome_of (by decide +kernel)), (okU_of (by decide +kernel)), (okU_of (by decide +kernel)), (okU_of (by decide +kernel)), _, (okU_of (by decide +kernel)), (okU_of (by decide +kernel))⟩

theorem w_CoachEvents_4 : ∃ k, ∃ i, ∃ r, ∃ (s : State), ∃ x, ∃ key, ∃ t, ∃ u, Map.find (s.part k).transfers i = some x ∧ ((firstKey r x.toSignal).filter (fun y => natOf x.outTo y == 0 && ! x.failed.any fun f => f.1 / 65536 == y / 65536 && f.2.1 == r) = some key) ∧ ((firstKey r x.toDrain).filter (fun y => natOf x.outFrom y == 0 && ! x.failed.any fun f => f.1 == y) = none) ∧ signalPeer k x (cblock x.block) key s = .ok () t ∧ (settleTransfer k i (t.onTransfer k i fun y => { y with toSignal := y.toSignal.filter (· != key) }) = .ok () u) :=
  ⟨0, 0, 0, wCoach 1 0 { tr0 with toSignal := [0] }, { tr0 with toSignal := [0] }, 0, _, _, (by decide +kernel), (by decide +kernel), (by decide +kernel), (okU_of (by decide +kernel)), (okU_of (by decide +kernel))⟩

theorem w_CoachEvents_5 : ∃ k, ∃ i, ∃ r, ∃ p, ∃ cause, ∃ (s : State), ∃ x, ∃ f, ∃ t, ∃ u, ∃ v, Map.find (s.part k).transfers i = some x ∧ (x.failed.find? (fun f => f.1 % 65536 == r && f.2.1 == p && f.2.2 == cause) = some f) ∧ (poisonAt k x p (cblock x.block).ssel cause (s.onTransfer k i fun y => { y with failed := y.failed.erase f }) = .ok () t) ∧ (if t.localRank k r then poisonAt k x r (cblock x.block).dsel cause t = .ok () u else u = t) ∧ settleTransfer k i u = .ok () v :=
  ⟨0, 0, 0, 0, 0x246#10, wCoach 0 0 { tr0 with failed := [(0, 0, 0x246#10)] }, { tr0 with failed := [(0, 0, 0x246#10)] }, (0, 0, 0x246#10), _, _, _, (by decide +kernel), (by decide +kernel), (okU_of (by decide +kernel)), (ite_no (by decide +kernel) rfl), (okU_of (by decide +kernel))⟩

theorem w_CoachEvents_6 : ∃ k, ∃ i, ∃ r, ∃ (s : State), ∃ x, ∃ t, Map.find (s.part k).transfers i = some x ∧ (((s.part k).susp.any fun y => decide (y.first ≤ r) && decide (r ≤ y.last)) = false) ∧ ((x.outTo.find? fun e => e.1 % 65536 == r && e.2 != 0).isSome = true) ∧ colltoExpiry k i r s = .ok () t :=
  ⟨0, 0, 0, wCoach 0 0 { tr0 with outTo := [(0, 5)] }, { tr0 with outTo := [(0, 5)] }, _, (by decide +kernel), (by decide +kernel), (by decide +kernel), (okU_of (by decide +kernel))⟩

theorem w_CoachEvents_7 : ∃ k, ∃ (s : State), ∃ h, ∃ t, ((s.part k).held.find? (fun h => ((s.part k).ownerOf h.cls h.num).isSome) = some h) ∧ (applyAdd k h (((s.part k).ownerOf h.cls h.num).getD 0) ((s.updPart k fun p => { p with held := p.held.erase h }).inCustody k heldNode 0 1) = .ok () t) :=
  ⟨0, wCoach 0 0 tr0, held0, _, (by decide +kernel), (okU_of (by decide +kernel))⟩

theorem w_CoachEvents_8 : ∃ k, ∃ i, ∃ (s : State), ∃ h, ∃ t, ∃ x, ∃ u, (s.part k).held[i]? = some h ∧ (((s.part k).susp.any fun y => decide (y.first ≤ h.rank) && decide (h.rank ≤ y.last)) = false) ∧ (resolveRank k h.rank ((s.updPart k fun p => { p with held := p.held.eraseIdx i }).inCustody k heldNode 0 1) = .ok (.ok x) t) ∧ fqPush ((s.part k).coreOf x.2) true (faultRecord 0x24A#10 1 7 x.2 0 0 { FInfo.plain with counter := 0x8000 + h.counter } s.dcc) t = .ok () u :=
  ⟨0, 0, wCoach 1 5 tr0, held0, _, (5, 0), _, (by decide +kernel), (by decide +kernel), (okEV (by decide +kernel)), (okU_of (by decide +kernel))⟩

theorem w_ResetState_18 : ∃ n, n < 16 :=
  ⟨0, (by decide +kernel)⟩

theorem w_ResetState_19 : ∃ p, p < 36 :=
  ⟨0, (by decide +kernel)⟩

theorem w_ResetState_20 : ∃ n, n < 1024 :=
  ⟨0, (by decide +kernel)⟩

theorem w_ResetState_21 : ∃ f, f < 8 :=
  ⟨0, (by decide +kernel)⟩

theorem w_StepKeepsCanonical_1 : ∃ (s : State), ∃ t, s.canonical = true ∧ step s = .next t :=
  ⟨State.reset, _, (by decide +kernel), (next_of (by decide +kernel))⟩

theorem w_StepKeepsRegisterFiles_1 : ∃ (s : State), ∃ t, s.filesCanonical = true ∧ step s = .next t :=
  ⟨State.reset, _, (by decide +kernel), (next_of (by decide +kernel))⟩

end Sys2Proof.Tests
end

section
/-! The canonical form (O59): the five places of the state that it speaks of, and what keeps them. -/
namespace Sys2Proof.Laws
open Sys2Proof.Machine

variable {β : Type}

/-- Memory, the registers, the contexts, the cores and the counts of Flue records in canonical form: `State.canonical` place by place. -/
structure Canonical (s : State) : Prop where
  mem : Memory.wf s.mem = true
  regs : Map.wf regReset s.regs = true
  harts : Map.wf (fun _ => Hart.reset) s.harts = true
  cores : Map.wf (fun _ => Core.reset) s.cores = true
  flueCnt : Map.wf (fun _ => 0) s.flueCnt = true

theorem canonical_iff {s : State} : s.canonical = true ↔ Canonical s := by
  simp only [State.canonical, Bool.and_eq_true]
  constructor
  · rintro ⟨⟨⟨⟨hm, hr⟩, hh⟩, hc⟩, hf⟩
    exact ⟨hm, hr, hh, hc, hf⟩
  · rintro ⟨hm, hr, hh, hc, hf⟩
    exact ⟨⟨⟨⟨hm, hr⟩, hh⟩, hc⟩, hf⟩

namespace Canonical

variable {s t : State}

/-- A change of other places alone. -/
theorem same (h : Canonical s)
    (e : t.mem = s.mem ∧ t.regs = s.regs ∧ t.harts = s.harts ∧ t.cores = s.cores ∧ t.flueCnt = s.flueCnt := by simp) :
    Canonical t := by
  obtain ⟨hm, hr, hh, hc, hf⟩ := e
  exact ⟨hm ▸ h.mem, hr ▸ h.regs, hh ▸ h.harts, hc ▸ h.cores, hf ▸ h.flueCnt⟩

theorem setHart (h : Canonical s) (a : Agent) (x : Hart) : Canonical (s.setHart a x) := { h with harts := wf_set _ x h.harts }
theorem setCore (h : Canonical s) (c : Nat) (x : Core) : Canonical (s.setCore c x) := { h with cores := wf_set _ x h.cores }
theorem updCore (h : Canonical s) (c : Nat) (f : Core → Core) : Canonical (s.updCore c f) := h.setCore c _
theorem updJob (h : Canonical s) (c : Nat) (f : Job → Job) : Canonical (s.updJob c f) := h.updCore c _
theorem setReg (h : Canonical s) (o : Nat) (v : Word) : Canonical (s.setReg o v) := { h with regs := wf_set _ v h.regs }

theorem foldl {l : List β} {f : State → β → State} (h : Canonical s) (hf : ∀ {s}, Canonical s → ∀ b, Canonical (f s b)) :
    Canonical (l.foldl f s) := by
  induction l generalizing s with
  | nil => exact h
  | cons b l ih => exact ih (hf h b)

theorem putBytes (h : Canonical s) (bs : List (Nat × Byte)) : Canonical (s.putBytes bs) := by
  induction bs generalizing s with
  | nil => exact h
  | cons b bs ih => exact ih { h with mem := wf_set _ _ h.mem }

theorem supersedeAll (h : Canonical s) (n : Nat) (gs : List Nat) : Canonical (s.supersedeAll n gs) := by
  induction gs generalizing s with
  | nil => exact h
  | cons g gs ih => exact ih (h.same ⟨rfl, rfl, rfl, rfl, rfl⟩ : Canonical (s.supersede n g))

theorem markWritten (h : Canonical s) (gs : List Nat) : Canonical (s.markWritten gs) :=
  h.foldl fun h _ => h.same

theorem enqueue (h : Canonical s) (p : Nat) (m : Msg) (parked : Bool) : Canonical (s.enqueue p m parked) := by
  unfold State.enqueue
  dsimp only
  split
  · exact h.same
  · exact h.same

theorem mapQueues (h : Canonical s) (f : SendMsg → SendMsg) : Canonical (s.mapQueues f) := h.same ⟨rfl, rfl, rfl, rfl, rfl⟩

theorem moveScratch (h : Canonical s) (a b : Nat) : Canonical (s.moveScratch a b) := { h with mem := memOk_moveScratch a b h.mem }

theorem loadWritten (h : Canonical s) (a : Nat) : Canonical (s.loadWritten a) := h.same ⟨rfl, rfl, rfl, rfl, rfl⟩

theorem clearCircuit (h : Canonical s) (p key : Nat) : Canonical (s.clearCircuit p key) := by
  refine h.foldl fun h i => ?_
  split
  · exact h.setReg _ _
  · exact h

theorem afterPowerLoss (h : Canonical s) : Canonical s.afterPowerLoss := ⟨wf_slice _ _ h.mem, rfl, rfl, rfl, rfl⟩

end Canonical
end Sys2Proof.Laws
end

section
/-! Programs that keep the canonical form, and how that is shown of a program from its parts. -/
namespace Sys2Proof.Laws
open Sys2Proof.Machine

variable {α β : Type}

/-- The program keeps the canonical form, whether it ends normally or early. -/
structure Tidy (x : Exec α) : Prop where
  keeps : Keeps Canonical x

/-- `simp` shows `Tidy x` by the lemma about the program that `x` is, and rewrites nothing inside `x`. -/
@[congr] theorem Tidy.congr (x : Exec α) : Tidy x = Tidy x := rfl

namespace Tidy

@[simp] theorem pure (a : α) : Tidy (pure a : Exec α) := ⟨keeps_pure a⟩
@[simp] theorem halt : Tidy (halt : Exec α) := ⟨keeps_halt⟩
@[simp] theorem get : Tidy (get : Exec State) := ⟨keeps_get⟩
@[simp] theorem require (b : Bool) : Tidy (require b) := ⟨keeps_require b⟩

theorem modify {g : State → State} (h : ∀ s, Canonical s → Canonical (g s)) : Tidy (modify g : Exec PUnit) := ⟨keeps_modify h⟩

theorem set {t : State} (h : Canonical t) : Tidy (set t : Exec PUnit) := ⟨fun _ _ => h⟩

theorem bind {x : Exec α} {f : α → Exec β} (hx : Tidy x) (hf : ∀ a, Tidy (f a)) : Tidy (x >>= f) :=
  ⟨keeps_bind hx.keeps fun a => (hf a).keeps⟩

/-- What follows a look at the state may build on the canonical state it saw. -/
theorem look {f : State → Exec β} (h : ∀ s, Canonical s → Tidy (f s)) : Tidy ((MonadState.get : Exec State) >>= f) :=
  ⟨keeps_getBind fun s hs => (h s hs).keeps s hs⟩

theorem ite {c : Prop} [Decidable c] {x y : Exec α} (hx : Tidy x) (hy : Tidy y) : Tidy (if c then x else y) :=
  ⟨keeps_ite hx.keeps hy.keeps⟩

theorem each {l : List α} {f : α → Exec Unit} (h : ∀ a, Tidy (f a)) : Tidy (each l f) := ⟨keeps_each fun a => (h a).keeps⟩

theorem mapE {l : List α} {f : α → Exec β} (h : ∀ a, Tidy (f a)) : Tidy (mapE l f) := ⟨keeps_mapE fun a => (h a).keeps⟩

theorem foldlM {l : List α} {f : β → α → Exec β} {b : β} (h : ∀ b a, Tidy (f b a)) : Tidy (l.foldlM f b) := by
  induction l generalizing b with
  | nil => exact .pure b
  | cons a l ih => rw [List.foldlM_cons]; exact .bind (h b a) fun _ => ih

theorem within {x : Exec Unit} (h : Tidy x) : Tidy (within x) := ⟨keeps_within h.keeps⟩

theorem ok {x : Exec α} {s t : State} {a : α} (h : Tidy x) (hs : Canonical s) (e : x s = .ok a t) : Canonical t := by
  have hend := h.keeps s hs
  rwa [e] at hend

theorem error {x : Exec α} {s t : State} {f : Halt} (h : Tidy x) (hs : Canonical s) (e : x s = .error f t) : Canonical t := by
  have hend := h.keeps s hs
  rwa [e] at hend

/-- A program keeps the canonical form if its parts do. The default proof of `h` is the one argument that all programs share. It takes
the program apart along its text: a local program (`let`) is shown once and then held by that fact alone; sequencing, branches and loops
go by the lemmas above; a change of the state is one of those that keep the form; what is left is a program with a lemma of its own, or
one of the facts at hand: an induction hypothesis, or the rule of a program that runs a program it is given, which the lemmas that need
it name by `have`. The default proof is evaluated anew at each use, and waits for the declarations before it, so the lemmas that use it
are elaborated in order (`Elab.async false`). -/
theorem byParts {x : Exec α} (h : Tidy x := by
    repeat' first
      | intro _
      | (extract_lets -underBinder +onlyGivenNames k
         first
           | (guard_hyp k :~ _ → Exec _ :=~ _
              refine (fun _ : ∀ a, Tidy (k a) => ?_) ?_
              clear_value k
              rotate_left
              subst k)
           | (guard_hyp k :~ Exec _ :=~ _
              refine (fun _ : Tidy k => ?_) ?_
              clear_value k
              rotate_left
              subst k)
           | (guard_hyp k :~ _ → _ → Exec _ :=~ _
              refine (fun _ : ∀ a b, Tidy (k a b) => ?_) ?_
              clear_value k
              rotate_left
              subst k)
           | (guard_hyp k :~ _ → _ → _ → Exec _ :=~ _
              refine (fun _ : ∀ a b c, Tidy (k a b c) => ?_) ?_
              clear_value k
              rotate_left
              subst k)
           | clear_value k)
      | with_reducible apply Tidy.look
      | with_reducible apply Tidy.bind
      | with_reducible apply Tidy.ite
      | with_reducible apply Tidy.each
      | with_reducible apply Tidy.mapE
      | with_reducible apply Tidy.foldlM
      | with_reducible apply Tidy.within
      | (with_reducible apply Tidy.modify
         intro s h
         first
           | with_reducible exact h.setHart _ _
           | with_reducible exact h.enqueue _ _ _
           | (refine h.same ?_; simp; done))
      | (with_reducible apply Tidy.set
         first
           | with_reducible exact Canonical.enqueue ‹_› _ _ _
           | (refine Canonical.same ‹Canonical _› ?_; simp; done))
      | (simp; done)
      | with_reducible apply_assumption -exfalso -symm
      | dsimp -zeta only
      | split) : Tidy x := h

end Tidy

/-! Changes of the state that are more than new values at named places. -/

@[simp] theorem tidy_modify_putBytes (bs : List (Nat × Byte)) : Tidy (modify fun s => s.putBytes bs) := .modify fun _ h => h.putBytes bs

@[simp] theorem tidy_modify_supersedeAll (gs : List Nat) :
    Tidy (modify fun s => { s.supersedeAll (s.gseq + 1) gs with gseq := s.gseq + 1 }) :=
  .modify fun s h => (h.supersedeAll (s.gseq + 1) gs).same

@[simp] theorem tidy_modify_markWritten (gs : List Nat) : Tidy (modify fun s => s.markWritten gs) := .modify fun _ h => h.markWritten gs

@[simp] theorem tidy_modify_mapQueues (f : State → SendMsg → SendMsg) : Tidy (modify fun s => s.mapQueues (f s)) :=
  .modify fun s h => h.mapQueues (f s)

@[simp] theorem tidy_modify_clearCircuit (p key : Nat) : Tidy (modify fun s => s.clearCircuit p key) :=
  .modify fun _ h => h.clearCircuit p key

@[simp] theorem tidy_modify_loadWritten (a : Nat) : Tidy (modify fun s => s.loadWritten a) := .modify fun _ h => h.loadWritten a

/-- A scratchpad and the shadow frame of another logical core change places (R227). -/
@[simp] theorem tidy_modify_swapScratch (a : Nat) (f g : State → Nat) :
    Tidy (modify fun s => ((s.moveScratch a (f s)).moveScratch (g s) a).loadWritten a) :=
  .modify fun _ h => ((h.moveScratch _ _).moveScratch _ _).loadWritten _

/-- A scratchpad's 4 MiB loaded with bytes (R221). -/
@[simp] theorem tidy_modify_loadScratch (a : Nat) (bs : List Byte) :
    Tidy (modify fun s => { s with mem := Map.setN (fun _ => 0#8) (Map.clear s.mem a (a + 4194304)) a bs }) :=
  .modify fun _ h => { h with mem := memOk_load _ _ _ h.mem }

end Sys2Proof.Laws
end

section
/-! The operations that all meanings share keep the canonical form. -/
namespace Sys2Proof.Laws
open Sys2Proof.Machine
set_option Elab.async false

variable {α β : Type}

/-! How a meaning is written. -/

@[simp] theorem tidy_fresh : Tidy fresh := ⟨fun s h => (h.same : Canonical { s with tick := s.tick + 1 })⟩
@[simp] theorem tidy_choose (what n) : Tidy (choose what n) := by unfold choose; exact .byParts

/-! Contexts. -/

@[simp] theorem tidy_getHart : Tidy getHart := by unfold getHart; exact .byParts
@[simp] theorem tidy_updHart (f) : Tidy (updHart f) := .modify fun _ h => h.setHart _ _
@[simp] theorem tidy_updHartOf (a f) : Tidy (updHartOf a f) := .modify fun _ h => h.setHart _ _

/-! Cores and jobs. -/

@[simp] theorem tidy_updCore (c f) : Tidy (updCore c f) := .modify fun _ h => h.updCore _ _
@[simp] theorem tidy_updJob (c f) : Tidy (updJob c f) := .modify fun _ h => h.updJob _ _
@[simp] theorem tidy_getCore (c) : Tidy (getCore c) := by unfold getCore; exact .byParts
@[simp] theorem tidy_getJob (c) : Tidy (getJob c) := by unfold getJob; exact .byParts
@[simp] theorem tidy_curCore : Tidy curCore := by unfold curCore; exact .byParts
@[simp] theorem tidy_curJob : Tidy curJob := by unfold curJob; exact .byParts

/-! Partitions. -/

@[simp] theorem tidy_updPart (k f) : Tidy (updPart k f) := by unfold updPart; exact .byParts
@[simp] theorem tidy_getPart (k) : Tidy (getPart k) := by unfold getPart; exact .byParts

/-! MMIO registers. -/

@[simp] theorem tidy_getReg (o) : Tidy (getReg o) := by unfold getReg; exact .byParts
@[simp] theorem tidy_setReg (o v) : Tidy (setReg o v) := .modify fun _ h => h.setReg _ _
@[simp] theorem tidy_setField (o lo n v) : Tidy (setField o lo n v) := .modify fun _ h => h.setReg _ _
@[simp] theorem tidy_setFlag (o i b) : Tidy (setFlag o i b) := by unfold setFlag; exact .byParts

/-! Links. -/

@[simp] theorem tidy_updLink (p f) : Tidy (updLink p f) := by unfold updLink; exact .byParts

/-! Power, boot. -/

@[simp] theorem tidy_updPower (f) : Tidy (updPower f) := by unfold updPower; exact .byParts
@[simp] theorem tidy_updBoot (f) : Tidy (updBoot f) := by unfold updBoot; exact .byParts

/-! Physical memory: bytes, blocks and versions. -/

@[simp] theorem tidy_setMeta (b m) : Tidy (setMeta b m) := by unfold setMeta; exact .byParts
@[simp] theorem tidy_poisonBlock (b cause) : Tidy (poisonBlock b cause) := by unfold poisonBlock; exact .byParts
@[simp] theorem tidy_exitCheck (b) : Tidy (exitCheck b) := by unfold exitCheck; exact .byParts

@[simp] theorem tidy_exitChecks (bs) : Tidy (exitChecks bs) := by
  induction bs with
  | nil => exact .pure _
  | cons b bs ih => unfold exitChecks; exact .byParts

@[simp] theorem tidy_blockWrite (bytes poison) : Tidy (blockWrite bytes poison) := by
  have hsup := tidy_modify_supersedeAll
  unfold blockWrite
  cases bytes with
  | nil => exact .pure _
  | cons b bytes => exact .byParts

@[simp] theorem tidy_physWrite (a data poison) : Tidy (physWrite a data poison) := by unfold physWrite; exact .byParts
@[simp] theorem tidy_carryBlock (dst src) : Tidy (carryBlock dst src) := by unfold carryBlock; exact .byParts

/-! Memory counters. -/

@[simp] theorem tidy_setMcounter (pa m) : Tidy (setMcounter pa m) := by unfold setMcounter; exact .byParts
@[simp] theorem tidy_poisonMcounter (pa cause) : Tidy (poisonMcounter pa cause) := by unfold poisonMcounter; exact .byParts
@[simp] theorem tidy_addMcounter (pa v rels) : Tidy (addMcounter pa v rels) := by unfold addMcounter; exact .byParts

/-! Sending messages over the optical fabric. -/

@[simp] theorem tidy_sendMsg (m) : Tidy (sendMsg m) := by unfold sendMsg; exact .byParts

@[simp] theorem tidy_sendRequest (who part typ world dst payload) : Tidy (sendRequest who part typ world dst payload) := by
  refine .look fun s h => ?_
  split
  · exact .pure _
  · exact .bind (.set (.enqueue h.same _ _ _)) fun _ => .pure _

@[simp] theorem tidy_dropRemote (tag) : Tidy (dropRemote tag) := by unfold dropRemote; exact .byParts

/-! Translation. -/

@[simp] theorem tidy_setRtt (c i r) : Tidy (setRtt c i r) := by unfold setRtt; exact .byParts

@[simp] theorem tidy_rttLookup (c a n) : Tidy (rttLookup c a n) := by
  induction n with
  | zero => exact .pure _
  | succ n ih => unfold rttLookup; exact .byParts

@[simp] theorem tidy_setDirty (c a r) : Tidy (setDirty c a r) := by unfold setDirty; exact .byParts
@[simp] theorem tidy_translate (c w d a) : Tidy (Machine.translate c w d a) := by unfold Machine.translate; exact .byParts

/-! The named operations: fault records. -/

@[simp] theorem tidy_fqPush (c droppable rec) : Tidy (fqPush c droppable rec) := by unfold fqPush; exact .byParts
@[simp] theorem tidy_fqLost (c) : Tidy (fqLost c) := by unfold fqLost; exact .byParts
@[simp] theorem tidy_asyncRecord (c source pc cause i) : Tidy (asyncRecord c source pc cause i) := by unfold asyncRecord; exact .byParts

/-! Parties, releases and knowledge. -/

@[simp] theorem tidy_openPhase (a gained) : Tidy (openPhase a gained) := by
  unfold openPhase
  refine .look fun s h => Tidy.set ?_
  extract_lets t
  have ht : Canonical t := h.setHart _ _
  exact ht.same

@[simp] theorem tidy_acquire (a scope rels) : Tidy (acquire a scope rels) := by unfold acquire; exact .byParts

/-! Custody. -/

@[simp] theorem tidy_custody (k node recv sent) : Tidy (custody k node recv sent) := by unfold custody; exact .byParts
@[simp] theorem tidy_addWindow (k i v rels) : Tidy (addWindow k i v rels) := by unfold addWindow; exact .byParts
@[simp] theorem tidy_poisonWindow (k i c) : Tidy (poisonWindow k i c) := by unfold poisonWindow; exact .byParts

/-! The fatal end of a task. -/

@[simp] theorem tidy_resolveMem (c ref) : Tidy (resolveMem c ref) := by unfold resolveMem; exact .byParts
@[simp] theorem tidy_poisonRef (c r cause) : Tidy (poisonRef c r cause) := by unfold poisonRef; exact .byParts

@[simp] theorem tidy_dropUnstarted (c k cause qs) : Tidy (dropUnstarted c k cause qs) := by
  induction qs with
  | nil => exact .pure _
  | cons q qs ih => unfold dropUnstarted; exact .byParts

@[simp] theorem tidy_killJob (c cause) : Tidy (killJob c cause) := by unfold killJob; exact .byParts
@[simp] theorem tidy_killFrame (n cause) : Tidy (killFrame n cause) := by unfold killFrame; exact .byParts
@[simp] theorem tidy_fatalTask (k t cause) : Tidy (fatalTask k t cause) := by unfold fatalTask; exact .byParts
@[simp] theorem tidy_fatalOn (c source pc cause i) : Tidy (fatalOn c source pc cause i) := by unfold fatalOn; exact .byParts

/-! The Flue and resets of controllers. -/

@[simp] theorem tidy_writeFlue (slot code cause reason part pos cmdidx h faddr rec) :
    Tidy (writeFlue slot code cause reason part pos cmdidx h faddr rec) :=
  .modify fun _ h => ⟨h.mem, h.regs, h.harts, h.cores, wf_set _ _ h.flueCnt⟩

@[simp] theorem tidy_startController (a cause) : Tidy (startController a cause) := by unfold startController; exact .byParts
@[simp] theorem tidy_resetFrontEnd (f) : Tidy (resetFrontEnd f) := by unfold resetFrontEnd; exact .byParts
@[simp] theorem tidy_restartService (c) : Tidy (restartService c) := by unfold restartService; exact .byParts

/-! Taking an exception, and returning from one. -/

@[simp] theorem tidy_doubleFault (c cause i) : Tidy (doubleFault c cause i) := by unfold doubleFault; exact .byParts
@[simp] theorem tidy_takeException (a cause i) : Tidy (takeException a cause i) := by unfold takeException; exact .byParts
@[simp] theorem tidy_trapWith (cause i) : Tidy (trapWith cause i : Exec α) := by unfold trapWith; exact .byParts
@[simp] theorem tidy_trap (cause) : Tidy (trap cause : Exec α) := by unfold trap; exact .byParts
@[simp] theorem tidy_trapAt (cause addr) : Tidy (trapAt cause addr : Exec α) := by unfold trapAt; exact .byParts
@[simp] theorem tidy_resumeStream (a grant) : Tidy (resumeStream a grant) := by unfold resumeStream; exact .byParts
@[simp] theorem tidy_block (b) : Tidy (block b : Exec α) := by unfold block; exact .byParts
@[simp] theorem tidy_blockAt (b w) : Tidy (blockAt b w : Exec α) := by unfold blockAt; exact .byParts
@[simp] theorem tidy_clearAnswers (a) : Tidy (clearAnswers a) := by unfold clearAnswers; exact .byParts

/-! Opportunities of the service context. -/

@[simp] theorem tidy_opportunity (c) : Tidy (opportunity c) := by unfold opportunity; exact .byParts
@[simp] theorem tidy_retire (n) : Tidy (retire n) := by unfold retire; exact .byParts
@[simp] theorem tidy_transfer (pc) : Tidy (transfer pc) := by unfold transfer; exact .byParts

/-! Global memory as an agent sees it. -/

@[simp] theorem tidy_verCheck (g v) : Tidy (verCheck g v) := by unfold verCheck; exact .byParts
@[simp] theorem tidy_xlate (a write dirty va) : Tidy (xlate a write dirty va) := by unfold xlate; exact .byParts
@[simp] theorem tidy_remoteFetch (a i pkg off n) : Tidy (remoteFetch a i pkg off n) := by unfold remoteFetch; exact .byParts
@[simp] theorem tidy_readPiece (a i va n) : Tidy (readPiece a i va n) := by unfold readPiece; exact .byParts
@[simp] theorem tidy_readGlobal (a i va n) : Tidy (readGlobal a i va n) := by unfold readGlobal; exact .byParts

/-! Publication and acceptance. -/

@[simp] theorem tidy_updHartNo (n f) : Tidy (updHartNo n f) :=
  .modify fun _ h => { h with harts := wf_set _ _ h.harts }

@[simp] theorem tidy_setRelease (n r) : Tidy (setRelease n r) := by unfold setRelease; exact .byParts
@[simp] theorem tidy_pushOut (c job agent op) : Tidy (pushOut c job agent op) := by unfold pushOut; exact .byParts
@[simp] theorem tidy_addPlace (a o) : Tidy (addPlace a o) := by unfold addPlace; exact .byParts
@[simp] theorem tidy_afterAdds (pa n) : Tidy (afterAdds pa n) := by unfold afterAdds; exact .byParts
@[simp] theorem tidy_afterFarAdds : Tidy afterFarAdds := by unfold afterFarAdds; exact .byParts
@[simp] theorem tidy_afterCoreAdds (n) : Tidy (afterCoreAdds n) := by unfold afterCoreAdds; exact .byParts
@[simp] theorem tidy_publishGranule (a rel g) : Tidy (publishGranule a rel g) := by unfold publishGranule; exact .byParts

@[simp] theorem tidy_publishGranules (a rel gs bad) : Tidy (publishGranules a rel gs bad) := by
  induction gs generalizing bad with
  | nil => exact .pure _
  | cons g gs ih => unfold publishGranules; exact .byParts

@[simp] theorem tidy_publish (a scope) : Tidy (publish a scope) := by unfold publish; exact .byParts
@[simp] theorem tidy_releaseHere (scope) : Tidy (releaseHere scope) := by unfold releaseHere; exact .byParts
@[simp] theorem tidy_writeBackOldest (c) : Tidy (writeBackOldest c) := by unfold writeBackOldest; exact .byParts
@[simp] theorem tidy_writePiece (a i va data) : Tidy (writePiece a i va data) := by unfold writePiece; exact .byParts
@[simp] theorem tidy_writeGlobal (a i va data) : Tidy (writeGlobal a i va data) := by unfold writeGlobal; exact .byParts
@[simp] theorem tidy_noteAccepted (agent rel gs) : Tidy (noteAccepted agent rel gs) := by unfold noteAccepted; exact .byParts
@[simp] theorem tidy_addCore (c id n v rels) : Tidy (addCore c id n v rels) := by unfold addCore; exact .byParts
@[simp] theorem tidy_addMem (c ref v rels isRel) : Tidy (addMem c ref v rels isRel) := by unfold addMem; exact .byParts
@[simp] theorem tidy_acceptOut (n) : Tidy (acceptOut n) := by unfold acceptOut; exact .byParts

/-! Operands: restart records. -/

@[simp] theorem tidy_findOpnd (which) : Tidy (findOpnd which) := by unfold findOpnd; exact .byParts
@[simp] theorem tidy_recordOpnd (o) : Tidy (recordOpnd o) := by unfold recordOpnd; exact .byParts
@[simp] theorem tidy_setOpnd (o) : Tidy (setOpnd o) := by unfold setOpnd; exact .byParts

/-! Channels. -/

@[simp] theorem tidy_popChan (which n wantTile) : Tidy (popChan which n wantTile) := by unfold popChan; exact .byParts
@[simp] theorem tidy_pushChan (n e) : Tidy (pushChan n e) := by unfold pushChan; exact .byParts

/-! Scratchpad accesses of a stream. -/

@[simp] theorem tidy_scratchPlace (i a n) : Tidy (scratchPlace i a n) := by unfold scratchPlace; exact .byParts
@[simp] theorem tidy_scratchRead (i a n) : Tidy (scratchRead i a n) := by unfold scratchRead; exact .byParts
@[simp] theorem tidy_scratchWrite (i a data) : Tidy (scratchWrite i a data) := by unfold scratchWrite; exact .byParts

/-! Stream ports. -/

@[simp] theorem tidy_boundPort (n) : Tidy (boundPort n) := by unfold boundPort; exact .byParts
@[simp] theorem tidy_portChecks (which n p write tile) : Tidy (portChecks which n p write tile) := by unfold portChecks; exact .byParts
@[simp] theorem tidy_portAddr (which n p) : Tidy (portAddr which n p) := by unfold portAddr; exact .byParts
@[simp] theorem tidy_portElem (which n peek) : Tidy (portElem which n peek) := by unfold portElem; exact .byParts
@[simp] theorem tidy_pushElem (n v) : Tidy (pushElem n v) := by unfold pushElem; exact .byParts

/-! Scalars. -/

@[simp] theorem tidy_readSrc (which code) : Tidy (readSrc which code) := by unfold readSrc; exact .byParts
@[simp] theorem tidy_readGuard (code) : Tidy (readGuard code) := by unfold readGuard; exact .byParts
@[simp] theorem tidy_writeDst (code v) : Tidy (writeDst code v) := by unfold writeDst; exact .byParts
@[simp] theorem tidy_finish (code v) : Tidy (finish code v) := by unfold finish; exact .byParts

@[simp] theorem tidy_runInstr (e sh) {body} (hb : Tidy body) : Tidy (runInstr e sh body) := by
  unfold runInstr
  refine .look fun s _ => ?_
  split
  · exact .byParts
  · extract_lets h
    split
    · exact .byParts
    · split
      · exact .byParts
      · exact .byParts
      · exact hb

/-! Commands. -/

@[simp] theorem tidy_refValid (c r) : Tidy (refValid c r) := by unfold refValid; exact .byParts
@[simp] theorem tidy_badRef (c cl) : Tidy (badRef c cl) := by unfold badRef; exact .byParts
@[simp] theorem tidy_dropCommand (c source pc cl ref) : Tidy (dropCommand c source pc cl ref) := by unfold dropCommand; exact .byParts
@[simp] theorem tidy_remoteAsk (who k pkg off n world) : Tidy (remoteAsk who k pkg off n world) := by unfold remoteAsk; exact .byParts
@[simp] theorem tidy_clearWho (who) : Tidy (clearWho who) := by unfold clearWho; exact .byParts
@[simp] theorem tidy_waitState (who c cl) : Tidy (waitState who c cl) := by unfold waitState; exact .byParts
@[simp] theorem tidy_signalDone (c cl inc gs) : Tidy (signalDone c cl inc gs) := by unfold signalDone; exact .byParts
@[simp] theorem tidy_signalPoison (c cl cause) : Tidy (signalPoison c cl cause) := by unfold signalPoison; exact .byParts

/-! Reads of published memory. -/

@[simp] theorem tidy_cmdReadPiece (who c floor va n) : Tidy (cmdReadPiece who c floor va n) := by unfold cmdReadPiece; exact .byParts

@[simp] theorem tidy_cmdRead (who c floor ps) : Tidy (cmdRead who c floor ps) := by
  induction ps with
  | nil => exact .pure _
  | cons p ps ih => unfold cmdRead; exact .byParts

/-! Writes, accepted at once at a local destination; at another package once answered. -/

@[simp] theorem tidy_cmdWritePa (who c k pa data poison va) : Tidy (cmdWritePa who c k pa data poison va) := by
  unfold cmdWritePa; exact .byParts

@[simp] theorem tidy_cmdWritePiece (who c va data poison) : Tidy (cmdWritePiece who c va data poison) := by
  unfold cmdWritePiece; exact .byParts

/-! Flag computations. -/

@[simp] theorem tidy_addFlags (f) : Tidy (addFlags f) := by unfold addFlags; exact .byParts

/-! Counter instructions: adds. -/

@[simp] theorem tidy_queueAdd (ref v rel) : Tidy (queueAdd ref v rel) := by unfold queueAdd; exact .byParts
@[simp] theorem tidy_addRelease (x) : Tidy (addRelease x) := by unfold addRelease; exact .byParts
@[simp] theorem tidy_addCoreCounter (x v) : Tidy (addCoreCounter x v) := by unfold addCoreCounter; exact .byParts
@[simp] theorem tidy_caddReg (x) : Tidy (caddReg x) := by unfold caddReg; exact .byParts

/-! Waits. -/

@[simp] theorem tidy_waitDone (acq rels) : Tidy (waitDone acq rels) := by unfold waitDone; exact .byParts
@[simp] theorem tidy_waitCounter (x) : Tidy (waitCounter x) := by unfold waitCounter; exact .byParts
@[simp] theorem tidy_readCounter (x) : Tidy (readCounter x) := by unfold readCounter; exact .byParts
@[simp] theorem tidy_initCounter (x) : Tidy (initCounter x) := by unfold initCounter; exact .byParts

/-! Memory counters and words. -/

@[simp] theorem tidy_memRef (ref) : Tidy (memRef ref) := by unfold memRef; exact .byParts
@[simp] theorem tidy_memOperands (x) : Tidy (memOperands x) := by unfold memOperands; exact .byParts
@[simp] theorem tidy_addMemCounter (x) : Tidy (addMemCounter x) := by unfold addMemCounter; exact .byParts
@[simp] theorem tidy_checkedWord (ref pa) : Tidy (checkedWord ref pa) := by unfold checkedWord; exact .byParts
@[simp] theorem tidy_waitMemCounter (x) : Tidy (waitMemCounter x) := by unfold waitMemCounter; exact .byParts
@[simp] theorem tidy_currentWord (ref) : Tidy (currentWord ref) := by unfold currentWord; exact .byParts
@[simp] theorem tidy_waitWordAt (ref thr acq) : Tidy (waitWordAt ref thr acq) := by unfold waitWordAt; exact .byParts
@[simp] theorem tidy_waitWord (x) : Tidy (waitWord x) := by unfold waitWord; exact .byParts

/-! Memory-side atomics. -/

@[simp] theorem tidy_atomicAt (pa n fn b c) : Tidy (atomicAt pa n fn b c) := by unfold atomicAt; exact .byParts
@[simp] theorem tidy_atomPlace (c ref) : Tidy (atomPlace c ref) := by unfold atomPlace; exact .byParts
@[simp] theorem tidy_atomPlaceOf (a ref) : Tidy (atomPlaceOf a ref) := by unfold atomPlaceOf; exact .byParts
@[simp] theorem tidy_atomic (fn x) : Tidy (atomic fn x) := by unfold atomic; exact .byParts

/-! Which writes a register takes. -/

@[simp] theorem tidy_admitted (w o v) {x} (hx : Tidy x) : Tidy (admitted w o v x) := by unfold admitted; exact .byParts
@[simp] theorem tidy_plainWrite (o v) : Tidy (plainWrite o v) := by unfold plainWrite; exact .byParts

/-! Fetching: code. -/

@[simp] theorem tidy_jump (target) : Tidy (jump target) := by unfold jump; exact .byParts

/-! Issue. -/

@[simp] theorem tidy_checkLine (a n) : Tidy (checkLine a n) := by unfold checkLine; exact .byParts
@[simp] theorem tidy_crossLine (a) : Tidy (crossLine a) := by unfold crossLine; exact .byParts
@[simp] theorem tidy_remoteFailure (c) : Tidy (remoteFailure c) := by unfold remoteFailure; exact .byParts
@[simp] theorem tidy_afterRelease (a) : Tidy (afterRelease a) := by unfold afterRelease; exact .byParts
@[simp] theorem tidy_fetch : Tidy fetch := by unfold fetch; exact .byParts

end Sys2Proof.Laws
end

section
/-! Commands, queues, tasks, slots and front ends keep the canonical form. -/
namespace Sys2Proof.Laws
open Sys2Proof.Machine
set_option Elab.async false

variable {α β : Type}

/-! Cart commands: records. -/

@[simp] theorem tidy_enqueueCart (x opc fn r a b cl) : Tidy (enqueueCart x opc fn r a b cl) := by unfold enqueueCart; exact .byParts
@[simp] theorem tidy_issueCart (opc fn x) : Tidy (issueCart opc fn x) := by unfold issueCart; exact .byParts

/-! Ranks. -/

@[simp] theorem tidy_resolveRank (k r) : Tidy (resolveRank k r) := by unfold resolveRank; exact .byParts
@[simp] theorem tidy_dropRanks (k) : Tidy (dropRanks k) := by unfold dropRanks; exact .byParts
@[simp] theorem tidy_dropRank (k r) : Tidy (dropRank k r) := by unfold dropRank; exact .byParts

@[simp] theorem tidy_sendToRank (who k typ pkg rank payload) : Tidy (sendToRank who k typ pkg rank payload) := by
  refine .look fun s h => ?_
  split
  · exact .pure _
  · exact .bind (.set (.enqueue h.same _ _ _)) fun _ => .pure _

/-! Chimney sweeps: starting. -/

@[simp] theorem tidy_startSweep (k b) : Tidy (startSweep k b) := by unfold startSweep; exact .byParts
@[simp] theorem tidy_sendCtl (k dst typ payload) : Tidy (sendCtl k dst typ payload) := by unfold sendCtl; exact .byParts
@[simp] theorem tidy_eachChild (k payload) : Tidy (eachChild k payload) := by unfold eachChild; exact .byParts
@[simp] theorem tidy_qbarReached (k t) : Tidy (qbarReached k t) := by unfold qbarReached; exact .byParts

/-! Class queues, host entries and completions: waits and signals in the counter window. -/

@[simp] theorem tidy_windowWait (k i thr) : Tidy (windowWait k i thr) := by unfold windowWait; exact .byParts

/-! Completions. -/

@[simp] theorem tidy_postCpl (k c) : Tidy (postCpl k c) := by unfold postCpl; exact .byParts
@[simp] theorem tidy_endEntry (k e status value) : Tidy (endEntry k e status value) := by unfold endEntry; exact .byParts
@[simp] theorem tidy_dequeue (k c) : Tidy (dequeue k c) := by unfold dequeue; exact .byParts
@[simp] theorem tidy_hostHead (k c kind) : Tidy (hostHead k c kind) := by unfold hostHead; exact .byParts
@[simp] theorem tidy_entryWait (k e) : Tidy (entryWait k e) := by unfold entryWait; exact .byParts

@[simp] theorem tidy_dispatch (k c kind) {act} (hact : ∀ e, Tidy (act e)) : Tidy (dispatch k c kind act) := by
  unfold dispatch; exact .byParts

@[simp] theorem tidy_complete (k c e status value) : Tidy (complete k c e status value) := by unfold complete; exact .byParts
@[simp] theorem tidy_waitCancel (k c) : Tidy (waitCancel k c) := by unfold waitCancel; exact .byParts

/-! Completion records. -/

@[simp] theorem tidy_blockStore (pa data) : Tidy (blockStore pa data) := by unfold blockStore; exact .byParts
@[simp] theorem tidy_completionPost (f) : Tidy (completionPost f) := by unfold completionPost; exact .byParts

/-! The graph sequencer: runs. -/

@[simp] theorem tidy_endRun (k cause) : Tidy (endRun k cause) := by unfold endRun; exact .byParts
@[simp] theorem tidy_noteFailure (k cause) : Tidy (noteFailure k cause) := by unfold noteFailure; exact .byParts
@[simp] theorem tidy_graphCapture (k) : Tidy (graphCapture k) := by unfold graphCapture; exact .byParts

/-! Node issue. -/

@[simp] theorem tidy_headNode (k) : Tidy (headNode k) := by unfold headNode; exact .byParts
@[simp] theorem tidy_nodeWait (k st n) : Tidy (nodeWait k st n) := by unfold nodeWait; exact .byParts
@[simp] theorem tidy_advance (k) : Tidy (advance k) := by unfold advance; exact .byParts
@[simp] theorem tidy_nodeSignal (k n rels) : Tidy (nodeSignal k n rels) := by unfold nodeSignal; exact .byParts
@[simp] theorem tidy_nodeFail (k n cause) : Tidy (nodeFail k n cause) := by unfold nodeFail; exact .byParts
@[simp] theorem tidy_newTask (k t) : Tidy (newTask k t) := by unfold newTask; exact .byParts
@[simp] theorem tidy_issueTaskNode (k) : Tidy (issueTaskNode k) := by unfold issueTaskNode; exact .byParts
@[simp] theorem tidy_issueChild (k c) : Tidy (issueChild k c) := by unfold issueChild; exact .byParts

@[simp] theorem tidy_firstOf (xs) (h : ∀ x ∈ xs, Tidy x) : Tidy (firstOf xs) := by
  induction xs with
  | nil => exact .halt
  | cons x xs ih =>
    obtain ⟨hx, hxs⟩ := List.forall_mem_cons.1 h
    refine ⟨fun s hs => ?_⟩
    have hend := hx.keeps s hs
    unfold firstOf
    cases hr : x s with
    | ok a t => rw [hr] at hend; exact hend
    | error e t => exact (ih hxs).keeps s hs

@[simp] theorem tidy_newTransfer (k t) : Tidy (newTransfer k t) := by unfold newTransfer; exact .byParts
@[simp] theorem tidy_nodeCoachIssue (k) : Tidy (nodeCoachIssue k) := by unfold nodeCoachIssue; exact .byParts
@[simp] theorem tidy_nodeQbarIssue (k) : Tidy (nodeQbarIssue k) := by unfold nodeQbarIssue; exact .byParts
@[simp] theorem tidy_nodeNopIssue (k) : Tidy (nodeNopIssue k) := by unfold nodeNopIssue; exact .byParts
@[simp] theorem tidy_cancelHead (k) : Tidy (cancelHead k) := by unfold cancelHead; exact .byParts
@[simp] theorem tidy_cancelChild (k c) : Tidy (cancelChild k c) := by unfold cancelChild; exact .byParts

/-! Drains and sweeps. -/

@[simp] theorem tidy_stepDrained (k) : Tidy (stepDrained k) := by unfold stepDrained; exact .byParts
@[simp] theorem tidy_sweepClose (k) : Tidy (sweepClose k) := by unfold sweepClose; exact .byParts
@[simp] theorem tidy_qbarLeave (k t) : Tidy (qbarLeave k t) := by unfold qbarLeave; exact .byParts
@[simp] theorem tidy_sweepMet (k w) : Tidy (sweepMet k w) := by unfold sweepMet; exact .byParts
@[simp] theorem tidy_sweepAgain (k w) : Tidy (sweepAgain k w) := by unfold sweepAgain; exact .byParts
@[simp] theorem tidy_sweepDecide (k w ok) : Tidy (sweepDecide k w ok) := by unfold sweepDecide; exact .byParts
@[simp] theorem tidy_sweepLast (k w) : Tidy (sweepLast k w) := by unfold sweepLast; exact .byParts
@[simp] theorem tidy_sweepSums (k w) : Tidy (sweepSums k w) := by unfold sweepSums; exact .byParts
@[simp] theorem tidy_sweepReturn (k) : Tidy (sweepReturn k) := by unfold sweepReturn; exact .byParts
@[simp] theorem tidy_chimReceived (k m) : Tidy (chimReceived k m) := by unfold chimReceived; exact .byParts

/-! The end of tasks. -/

@[simp] theorem tidy_endChildDispatch (k t) : Tidy (endChildDispatch k t) := by unfold endChildDispatch; exact .byParts
@[simp] theorem tidy_taskEnd (k t) : Tidy (taskEnd k t) := by unfold taskEnd; exact .byParts
@[simp] theorem tidy_fatalError (k t cause) : Tidy (fatalError k t cause) := by unfold fatalError; exact .byParts

/-! Hearth slots and the entries that act on them: the front end's translation. -/

@[simp] theorem tidy_frontRead (k ps) : Tidy (frontRead k ps) := by
  induction ps with
  | nil => exact .pure _
  | cons p ps ih => unfold frontRead; exact .byParts

@[simp] theorem tidy_residencyCheck (k e) : Tidy (residencyCheck k e) := by unfold residencyCheck; exact .byParts

/-! Runs. -/

@[simp] theorem tidy_acceptRun (k c e steps) : Tidy (acceptRun k c e steps) := by unfold acceptRun; exact .byParts

@[simp] theorem tidy_startRun (k c e) {act} (hact : ∀ e, Tidy (act e)) : Tidy (startRun k c e act) := by
  unfold startRun; exact .byParts

@[simp] theorem tidy_launchSlot (k c e) : Tidy (launchSlot k c e) := tidy_startRun _ _ _ fun _ => .byParts
@[simp] theorem tidy_graphRun (k c e) : Tidy (graphRun k c e) := tidy_startRun _ _ _ fun _ => .byParts

/-! Loads. -/

@[simp] theorem tidy_slotLoad (k c e) : Tidy (slotLoad k c e) := by unfold slotLoad; exact .byParts

@[simp] theorem tidy_extendMeas (n d) : Tidy (extendMeas n d) :=
  .modify fun _ h => h.foldl fun h _ => h.setReg _ _

@[simp] theorem tidy_loadImage (k x e) : Tidy (loadImage k x e) := by unfold loadImage; exact .byParts
@[simp] theorem tidy_slotLoadDone (k n) : Tidy (slotLoadDone k n) := by unfold slotLoadDone; exact .byParts

/-! Evictions. -/

@[simp] theorem tidy_slotEvict (k c e) : Tidy (slotEvict k c e) := by unfold slotEvict; exact .byParts
@[simp] theorem tidy_slotEvictDone (k n) : Tidy (slotEvictDone k n) := by unfold slotEvictDone; exact .byParts

/-! COACH and XPOSE entries. -/

@[simp] theorem tidy_takeNumber (k c) : Tidy (takeNumber k c) := by unfold takeNumber; exact .byParts

@[simp] theorem tidy_beginTransfer (k c num e source owner block) : Tidy (beginTransfer k c num e source owner block) := by
  unfold beginTransfer; exact .byParts

@[simp] theorem tidy_coachEntry (k c e) : Tidy (coachEntry k c e) := by unfold coachEntry; exact .byParts
@[simp] theorem tidy_xposeEntry (k c) : Tidy (xposeEntry k c) := by unfold xposeEntry; exact .byParts

/-! The front ends' registers, their watchdogs, and the insertion of entry groups into class queues: the ring's state. -/

@[simp] theorem tidy_setRingState (f n) : Tidy (setRingState f n) := by unfold setRingState; exact .byParts
@[simp] theorem tidy_rejectRing (f) : Tidy (rejectRing f) := by unfold rejectRing; exact .byParts
@[simp] theorem tidy_stopRing (f cause idx) : Tidy (stopRing f cause idx) := by unfold stopRing; exact .byParts
@[simp] theorem tidy_parkStore (f v) : Tidy (parkStore f v) := by unfold parkStore; exact .byParts
@[simp] theorem tidy_unparkStore (f) : Tidy (unparkStore f) := by unfold unparkStore; exact .byParts
@[simp] theorem tidy_restartFrontEnd (f) : Tidy (restartFrontEnd f) := by unfold restartFrontEnd; exact .byParts
@[simp] theorem tidy_loadFrontEnd (f) : Tidy (loadFrontEnd f) := by unfold loadFrontEnd; exact .byParts

/-! RING_CTL. -/

@[simp] theorem tidy_startRing (f) : Tidy (startRing f) := by unfold startRing; exact .byParts
@[simp] theorem tidy_restartRing (f) : Tidy (restartRing f) := by unfold restartRing; exact .byParts
@[simp] theorem tidy_ringCtl (f v) : Tidy (ringCtl f v) := by unfold ringCtl; exact .byParts
@[simp] theorem tidy_ringBase (f off v) : Tidy (ringBase f off v) := by unfold ringBase; exact .byParts
@[simp] theorem tidy_tailCheck (f) : Tidy (tailCheck f) := by unfold tailCheck; exact .byParts

/-! FE_QPUSH. -/

@[simp] theorem tidy_viewEntry (f pa) : Tidy (viewEntry f pa) := by unfold viewEntry; exact .byParts

@[simp] theorem tidy_viewEntries (f i n) : Tidy (viewEntries f i n) := by
  induction n generalizing i with
  | zero => exact .pure _
  | succ n ih => unfold viewEntries; exact .byParts

@[simp] theorem tidy_groupDone (f pos n) : Tidy (groupDone f pos n) := by unfold groupDone; exact .byParts
@[simp] theorem tidy_rejectGroup (f pos n e cause) : Tidy (rejectGroup f pos n e cause) := by unfold rejectGroup; exact .byParts
@[simp] theorem tidy_pushGroup (f n v) : Tidy (pushGroup f n v) := by unfold pushGroup; exact .byParts
@[simp] theorem tidy_feQpush (f v) : Tidy (feQpush f v) := by unfold feQpush; exact .byParts
@[simp] theorem tidy_feQpushBy (f w v stop) : Tidy (feQpushBy f w v stop) := tidy_admitted _ _ _ .byParts
@[simp] theorem tidy_queueSpace (f) : Tidy (queueSpace f) := by unfold queueSpace; exact .byParts

/-! The watchdog. -/

@[simp] theorem tidy_wdogCfg (f v) : Tidy (wdogCfg f v) := by unfold wdogCfg; exact .byParts
@[simp] theorem tidy_wdogKick (f) : Tidy (wdogKick f) := by unfold wdogKick; exact .byParts
@[simp] theorem tidy_holdFrontEnd (f) : Tidy (holdFrontEnd f) := by unfold holdFrontEnd; exact .byParts
@[simp] theorem tidy_wdogHold (f) : Tidy (wdogHold f) := by unfold wdogHold; exact .byParts
@[simp] theorem tidy_wdogExpiry (f) : Tidy (wdogExpiry f) := by unfold wdogExpiry; exact .byParts

/-! The second tier. -/

@[simp] theorem tidy_t2Cfg (v) : Tidy (t2Cfg v) := by unfold t2Cfg; exact .byParts

end Sys2Proof.Laws
end

section
/-! The operations on registers and tiles keep the canonical form. -/
namespace Sys2Proof.Laws
open Sys2Proof.Machine
set_option Elab.async false

variable {α β : Type}

/-! The integer instructions: shapes of effect. -/

@[simp] theorem tidy_binary (x f) : Tidy (binary x f) := by unfold binary; exact .byParts
@[simp] theorem tidy_immediate (x f) : Tidy (immediate x f) := by unfold immediate; exact .byParts
@[simp] theorem tidy_unary (x f) : Tidy (unary x f) := by unfold unary; exact .byParts
@[simp] theorem tidy_guards (x f) : Tidy (guards x f) := by unfold guards; exact .byParts
@[simp] theorem tidy_moveHigh (x) : Tidy (moveHigh x) := by unfold moveHigh; exact .byParts
@[simp] theorem tidy_select (x) : Tidy (select x) := by unfold select; exact .byParts

/-! Tiles: memory behind a row. -/

@[simp] theorem tidy_readPieces (i sp a ps) : Tidy (readPieces i sp a ps) := by unfold readPieces; exact .byParts
@[simp] theorem tidy_checkPieces (i sp a ps) : Tidy (checkPieces i sp a ps) := by unfold checkPieces; exact .byParts

@[simp] theorem tidy_writePieces_go (i sp a ps bs) : Tidy (writePieces.go i sp a ps bs) := by
  induction ps generalizing bs with
  | nil => exact .pure _
  | cons p ps ih => unfold writePieces.go; exact .byParts
@[simp] theorem tidy_writePieces (i sp a ps data) : Tidy (writePieces i sp a ps data) := by
  unfold writePieces; exact .byParts

/-! Tile operands. -/

@[simp] theorem tidy_storeSrc (which t) : Tidy (storeSrc which t) := by unfold storeSrc; exact .byParts
@[simp] theorem tidy_portTile (which n peek) : Tidy (portTile which n peek) := by unfold portTile; exact .byParts
@[simp] theorem tidy_tileSrc (which code) : Tidy (tileSrc which code) := by unfold tileSrc; exact .byParts
@[simp] theorem tidy_popAny (which n) : Tidy (popAny which n) := by unfold popAny; exact .byParts
@[simp] theorem tidy_bcastSrc (which code) : Tidy (bcastSrc which code) := by unfold bcastSrc; exact .byParts
@[simp] theorem tidy_Src_row (src typ cols i) : Tidy (Src.row src typ cols i) := by unfold Src.row; exact .byParts
@[simp] theorem tidy_Src_all (src) : Tidy (Src.all src) := by unfold Src.all; exact .byParts

/-! Tile destinations. -/

@[simp] theorem tidy_storeDst (t push) : Tidy (storeDst t push) := by unfold storeDst; exact .byParts
@[simp] theorem tidy_tileDst (x) : Tidy (tileDst x) := by unfold tileDst; exact .byParts
@[simp] theorem tidy_Dst_setRow (dst i es) : Tidy (Dst.setRow dst i es) := by unfold Dst.setRow; exact .byParts
@[simp] theorem tidy_Dst_done (dst) : Tidy (Dst.done dst) := by unfold Dst.done; exact .byParts

/-! Checks before any effect. -/

@[simp] theorem tidy_checkOverlap (dst srcs cross) : Tidy (checkOverlap dst srcs cross) := by unfold checkOverlap; exact .byParts
@[simp] theorem tidy_typeFault : Tidy (typeFault : Exec α) := by unfold typeFault; exact .byParts
@[simp] theorem tidy_shapeFault : Tidy (shapeFault : Exec α) := by unfold shapeFault; exact .byParts
@[simp] theorem tidy_needType (b) : Tidy (needType b) := by unfold needType; exact .byParts
@[simp] theorem tidy_needShape (b) : Tidy (needShape b) := by unfold needShape; exact .byParts

/-! The run. -/

@[simp] theorem tidy_setCursor (q) : Tidy (setCursor q) := by unfold setCursor; exact .byParts

@[simp] theorem tidy_rowsFrom (q n) {f} (hf : ∀ i, Tidy (f i)) : Tidy (rowsFrom q n f) := by
  induction n generalizing q with
  | zero => exact .pure _
  | succ n ih => unfold rowsFrom; exact .byParts

@[simp] theorem tidy_runRows (dst) {row} (hrow : ∀ i, Tidy (row i)) : Tidy (runRows dst row) := by
  unfold runRows
  exact .bind tidy_getHart fun _ => .bind (tidy_rowsFrom _ _ fun _ => .byParts) fun _ => .byParts

@[simp] theorem tidy_runFull (dst) {row} (hrow : ∀ i, Tidy (row i)) : Tidy (runFull dst row) :=
  tidy_runRows _ fun _ => .byParts

/-! Tile arithmetic: shapes of effect. -/

@[simp] theorem tidy_elementwise (x srcs ok f) : Tidy (elementwise x srcs ok f) := by
  have hrule := @tidy_runFull
  unfold elementwise; exact .byParts

@[simp] theorem tidy_tileBin (fn x) : Tidy (tileBin fn x) := by unfold tileBin; exact .byParts
@[simp] theorem tidy_tileTri (fn x) : Tidy (tileTri fn x) := by unfold tileTri; exact .byParts

@[simp] theorem tidy_tileSel (x) : Tidy (tileSel x) := by
  have hrule := @tidy_runFull
  unfold tileSel; exact .byParts

@[simp] theorem tidy_tileUna (fn x) : Tidy (tileUna fn x) := by unfold tileUna; exact .byParts

@[simp] theorem tidy_tileCmp (fn x) : Tidy (tileCmp fn x) := by
  have hrule := @tidy_runFull
  unfold tileCmp; exact .byParts

@[simp] theorem tidy_tileCpx (fn x) : Tidy (tileCpx fn x) := by unfold tileCpx; exact .byParts
@[simp] theorem tidy_tileConj (x) : Tidy (tileConj x) := by unfold tileConj; exact .byParts

@[simp] theorem tidy_tileCvt (x) : Tidy (tileCvt x) := by
  have hrule := @tidy_runFull
  unfold tileCvt; exact .byParts

@[simp] theorem tidy_tileScale (mul x) : Tidy (tileScale mul x) := by
  have hrule := @tidy_runFull
  unfold tileScale; exact .byParts

@[simp] theorem tidy_tileRows (fn x) : Tidy (tileRows fn x) := by
  have hrule := @tidy_runFull
  unfold tileRows; exact .byParts

@[simp] theorem tidy_tileCols (fn x) : Tidy (tileCols fn x) := by
  have hrule := @tidy_runFull
  unfold tileCols; exact .byParts

@[simp] theorem tidy_tileScan (isMax x) : Tidy (tileScan isMax x) := by
  have hrule := @tidy_runFull
  unfold tileScan; exact .byParts

end Sys2Proof.Laws
end

section
/-! The copy engine and the M and F engines keep the canonical form. -/
namespace Sys2Proof.Laws
open Sys2Proof.Machine
set_option Elab.async false

variable {α β : Type}

/-! The copy engine: places. -/

@[simp] theorem tidy_cartRead (who c floor p n) : Tidy (cartRead who c floor p n) := by unfold cartRead; exact .byParts
@[simp] theorem tidy_cartWrite (who c p data poison) : Tidy (cartWrite who c p data poison) := by unfold cartWrite; exact .byParts

/-! Carried blocks. -/

@[simp] theorem tidy_carryPlace (c write p) : Tidy (carryPlace c write p) := by unfold carryPlace; exact .byParts

/-! One piece of a move. -/

@[simp] theorem tidy_movePiece (c cmd src dst len pos) : Tidy (movePiece c cmd src dst len pos) := by unfold movePiece; exact .byParts

/-! Rows. -/

@[simp] theorem tidy_readEntry (c cmd r) : Tidy (readEntry c cmd r) := by unfold readEntry; exact .byParts

/-! Combination. -/

@[simp] theorem tidy_combineAt (pa op typ sat v) : Tidy (combineAt pa op typ sat v) := by unfold combineAt; exact .byParts
@[simp] theorem tidy_combinePiece (c cmd src dst pos) : Tidy (combinePiece c cmd src dst pos) := by unfold combinePiece; exact .byParts

/-! Morton conversion. -/

@[simp] theorem tidy_mortPiece (c cmd) : Tidy (mortPiece c cmd) := by
  unfold mortPiece
  refine .look fun s _ => ?_
  extract_lets who r d bc rowLen toLin
  generalize (if toLin = true then _ else _) = at'
  obtain ⟨i, bj⟩ := at'
  dsimp -zeta only
  exact .byParts

/-! ATOMN. -/

@[simp] theorem tidy_atomnPiece (c cmd) : Tidy (atomnPiece c cmd) := by unfold atomnPiece; exact .byParts

/-! PUT and GET with another package. -/

@[simp] theorem tidy_putData (c cmd ps) : Tidy (putData c cmd ps) := by
  induction ps generalizing cmd with
  | nil => exact .pure _
  | cons a as ih => unfold putData; exact .byParts

@[simp] theorem tidy_sendRuns (c cmd pkg ps) : Tidy (sendRuns c cmd pkg ps) := by
  induction ps with
  | nil => exact .pure _
  | cons a as ih => unfold sendRuns; exact .byParts

@[simp] theorem tidy_rankSend (c cmd pkg) : Tidy (rankSend c cmd pkg) := by unfold rankSend; exact .byParts

@[simp] theorem tidy_getWrite (c cmd ps) : Tidy (getWrite c cmd ps) := by
  induction ps generalizing cmd with
  | nil => exact .pure _
  | cons a as ih => unfold getWrite; exact .byParts

/-! The steps of a command. -/

@[simp] theorem tidy_cartPiece (c cmd) : Tidy (cartPiece c cmd) := by unfold cartPiece; exact .byParts
@[simp] theorem tidy_cartAnswered (c cmd) : Tidy (cartAnswered c cmd) := by unfold cartAnswered; exact .byParts
@[simp] theorem tidy_cartStep (c cmd) : Tidy (cartStep c cmd) := by unfold cartStep; exact .byParts

@[simp] theorem tidy_cartSteps (c n cmd) : Tidy (cartSteps c n cmd) := by
  induction n generalizing cmd with
  | zero => exact .pure _
  | succ n ih =>
    refine ⟨fun s hs => ?_⟩
    have hstep := tidy_cartStep c cmd
    unfold cartSteps
    split
    · exact (ih _).keeps _ (hstep.ok hs ‹_›)
    · exact hs
    · exact hstep.keeps s hs

/-! Events. -/

@[simp] theorem tidy_setCart (c store cmd) : Tidy (setCart c store cmd) := by unfold setCart; exact .byParts
@[simp] theorem tidy_dropCart (c store id) : Tidy (dropCart c store id) := by unfold dropCart; exact .byParts
@[simp] theorem tidy_failCart (c store cmd f addr pos) : Tidy (failCart c store cmd f addr pos) := by unfold failCart; exact .byParts
@[simp] theorem tidy_cartStart (c store) : Tidy (cartStart c store) := by unfold cartStart; exact .byParts
@[simp] theorem tidy_cartComplete (c store n) : Tidy (cartComplete c store n) := by unfold cartComplete; exact .byParts

@[simp] theorem tidy_cartFail (c store) : Tidy (cartFail c store) := by
  refine ⟨fun s hs => ?_⟩
  unfold cartFail
  split
  · exact hs
  · split
    · exact hs
    · split
      · exact (tidy_failCart _ _ _ _ _ _).keeps _ ((tidy_cartStep _ _).ok hs ‹_›)
      · exact hs

/-! How M and F commands run: operands. -/

@[simp] theorem tidy_mfSrc (which code) : Tidy (mfSrc which code) := by unfold mfSrc; exact .byParts
@[simp] theorem tidy_mfDst (x) : Tidy (mfDst x) := by unfold mfDst; exact .byParts
@[simp] theorem tidy_needValid (ds) : Tidy (needValid ds) := by unfold needValid; exact .byParts
@[simp] theorem tidy_capture (floor src) : Tidy (capture floor src) := by unfold capture; exact .byParts

/-! Stamps and waits. -/

@[simp] theorem tidy_orMiss {x} (hx : Tidy x) : Tidy (orMiss x) := by
  refine ⟨fun s hs => ?_⟩
  unfold orMiss
  split
  · exact hx.ok hs ‹_›
  · split
    · exact hx.error hs ‹_›
    · exact (tidy_trap _).keeps s hs

@[simp] theorem tidy_stampGate (c m bank) {go} (hgo : Tidy go) : Tidy (stampGate c m bank go) := by
  have hmiss := tidy_orMiss hgo
  unfold stampGate; exact .byParts

@[simp] theorem tidy_waitClause (c) {go} (hgo : ∀ cl floor, Tidy (go cl floor)) : Tidy (waitClause c go) := by
  unfold waitClause; exact .byParts

@[simp] theorem tidy_mfCommand (c m bank) {go} (hgo : ∀ cl floor, Tidy (go cl floor)) : Tidy (mfCommand c m bank go) :=
  tidy_stampGate _ _ _ (tidy_waitClause _ hgo)

/-! Issue. -/

@[simp] theorem tidy_enterEngine (c tm cmd) : Tidy (enterEngine c tm cmd) := by unfold enterEngine; exact .byParts
@[simp] theorem tidy_issueMf (c tm cl op units ckind push) : Tidy (issueMf c tm cl op units ckind push) := by unfold issueMf; exact .byParts

/-! Running. -/

@[simp] theorem tidy_TileRef_elems_go (c p pos len is) : Tidy (TileRef.elems.go c p pos len is) := by
  induction is with
  | nil => exact .pure _
  | cons i is ih => unfold TileRef.elems.go; exact .byParts
@[simp] theorem tidy_TileRef_elems (c r) : Tidy (TileRef.elems c r) := by unfold TileRef.elems; exact .byParts

@[simp] theorem tidy_elemsAll (c rs) : Tidy (elemsAll c rs) := by
  induction rs with
  | nil => exact .pure _
  | cons a as ih => unfold elemsAll; exact .byParts

@[simp] theorem tidy_writeGranules (who c ps) : Tidy (writeGranules who c ps) := by
  induction ps with
  | nil => exact .pure _
  | cons a as ih => unfold writeGranules; exact .byParts

@[simp] theorem tidy_checkGranules (c ps) : Tidy (checkGranules c ps) := by
  induction ps with
  | nil => exact .pure _
  | cons a as ih => unfold checkGranules; exact .byParts

@[simp] theorem tidy_memRow (who c sp a off data) : Tidy (memRow who c sp a off data) := by unfold memRow; exact .byParts
@[simp] theorem tidy_tileRow (who c d port i es) : Tidy (tileRow who c d port i es) := by unfold tileRow; exact .byParts

@[simp] theorem tidy_runRowsOf {row} (hrow : ∀ i, Tidy (row i)) (n cmd) : Tidy (runRowsOf row n cmd) := by
  induction n generalizing cmd with
  | zero => exact .pure _
  | succ n ih => unfold runRowsOf; exact .byParts

/-! The M engine: arithmetic. -/

@[simp] theorem tidy_runM (c n cmd) : Tidy (runM c n cmd) := by
  have hrows {row} := @tidy_runRowsOf row
  unfold runM
  exact .byParts

/-! Issue. -/

@[simp] theorem tidy_captureOpt (floor s) : Tidy (captureOpt floor s) := by unfold captureOpt; exact .byParts

@[simp] theorem tidy_issueMma (opc x) : Tidy (issueMma opc x) := by
  have hwait := @tidy_waitClause
  have hmf := @tidy_mfCommand
  unfold issueMma
  exact .byParts

@[simp] theorem tidy_issueAccld (x) : Tidy (issueAccld x) := by
  have hrule := @tidy_mfCommand
  unfold issueAccld; exact .byParts

@[simp] theorem tidy_issueAccst (x) : Tidy (issueAccst x) := by
  have hrule := @tidy_mfCommand
  unfold issueAccst; exact .byParts

@[simp] theorem tidy_issueAccclr (x) : Tidy (issueAccclr x) := by unfold issueAccclr; exact .byParts

@[simp] theorem tidy_issueAccstg (x) : Tidy (issueAccstg x) := by
  have hrule := @tidy_mfCommand
  unfold issueAccstg; exact .byParts

/-! The F engine: legendre values. -/

@[simp] theorem tidy_withElems (c cmd a) {f} (hf : ∀ m, Tidy (f m)) : Tidy (withElems c cmd a f) := by
  unfold withElems; exact .byParts

@[simp] theorem tidy_runF (c n cmd) : Tidy (runF c n cmd) := by
  have hrows {row} := @tidy_runRowsOf row
  have helems (c cmd a f) := @tidy_withElems c cmd a f
  unfold runF
  exact .byParts

/-! Issue. -/

@[simp] theorem tidy_pendingPlan (q b) : Tidy (pendingPlan q b) := by unfold pendingPlan; exact .byParts
@[simp] theorem tidy_readPlan (b floor) : Tidy (readPlan b floor) := by unfold readPlan; exact .byParts
@[simp] theorem tidy_planShape (b) : Tidy (planShape b) := by unfold planShape; exact .byParts

@[simp] theorem tidy_issueFft (inv x) : Tidy (issueFft inv x) := by
  have hrule := @tidy_mfCommand
  unfold issueFft; exact .byParts

@[simp] theorem tidy_issueRfft (inv x) : Tidy (issueRfft inv x) := by
  have hrule := @tidy_mfCommand
  unfold issueRfft; exact .byParts

@[simp] theorem tidy_issueFplan (x) : Tidy (issueFplan x) := by
  have hrule := @tidy_mfCommand
  unfold issueFplan; exact .byParts

@[simp] theorem tidy_issueLeggen (x) : Tidy (issueLeggen x) := by
  have hrule := @tidy_mfCommand
  unfold issueLeggen; exact .byParts

@[simp] theorem tidy_issueFtwm (x) : Tidy (issueFtwm x) := by
  have hrule := @tidy_mfCommand
  unfold issueFtwm; exact .byParts

/-! What happens in the M and F engines: completion. -/

@[simp] theorem tidy_setCmd (c e i m) : Tidy (setCmd c e i m) := by unfold setCmd; exact .byParts
@[simp] theorem tidy_dropCmd (c e i) : Tidy (dropCmd c e i) := by unfold dropCmd; exact .byParts
@[simp] theorem tidy_finishCmd (c cmd) : Tidy (finishCmd c cmd) := by unfold finishCmd; exact .byParts
@[simp] theorem tidy_failCmd (c e cmd cause addr) : Tidy (failCmd c e cmd cause addr) := by unfold failCmd; exact .byParts
@[simp] theorem tidy_runCmd (c e n cmd) : Tidy (runCmd c e n cmd) := by unfold runCmd; exact .byParts
@[simp] theorem tidy_settle (c e i p) : Tidy (settle c e i p) := by unfold settle; exact .byParts
@[simp] theorem tidy_runPair (c n) : Tidy (runPair c n) := by unfold runPair; exact .byParts
@[simp] theorem tidy_answeredRows (who cmd) : Tidy (answeredRows who cmd) := by unfold answeredRows; exact .byParts
@[simp] theorem tidy_mfComplete (c e n) : Tidy (mfComplete c e n) := by unfold mfComplete; exact .byParts
@[simp] theorem tidy_mfAsyncFault (c e cause) : Tidy (mfAsyncFault c e cause) := by unfold mfAsyncFault; exact .byParts

/-! Timed issue. -/

theorem tidy_of_mfCommandOf {w0 w1 stamp x} (h : mfCommandOf w0 w1 stamp = some x) : Tidy x := by
  unfold mfCommandOf at h
  extract_lets opc fn c r at h
  have hr (sh) {b y} (hb : Tidy b) (e : r sh b = some y) : Tidy y := by
    cases e
    exact tidy_runInstr _ _ hb
  clear_value r c fn opc
  split at h
  · obtain ⟨y, -, e⟩ := Option.bind_eq_some_iff.1 h
    exact hr _ (tidy_issueMma _ _) e
  · split at h
    · exact hr _ (tidy_issueAccld _) h
    · exact hr _ (tidy_issueAccst _) h
    · exact hr _ (tidy_issueAccclr _) h
    · exact hr _ (tidy_issueAccstg _) h
    · exact hr _ (tidy_issueFft _ _) h
    · exact hr _ (tidy_issueFft _ _) h
    · exact hr _ (tidy_issueRfft _ _) h
    · exact hr _ (tidy_issueRfft _ _) h
    · exact hr _ (tidy_issueFplan _) h
    · exact hr _ (tidy_issueLeggen _) h
    · exact hr _ (tidy_issueFtwm _) h
    · cases h

@[simp] theorem tidy_timedIssue (c e) : Tidy (timedIssue c e) := by
  unfold timedIssue
  refine .look fun s _ => .bind (.require _) fun _ => .bind (.modify fun _ h => h.same) fun _ => ?_
  split
  · exact tidy_of_mfCommandOf ‹_›
  · exact .halt

@[simp] theorem tidy_pipelineStall (c cycles) : Tidy (pipelineStall c cycles) := by unfold pipelineStall; exact .byParts

/-! Pairs. -/

@[simp] theorem tidy_pairFault (c cause) : Tidy (pairFault c cause) := by unfold pairFault; exact .byParts
@[simp] theorem tidy_pairIssue (c r b sb lead) : Tidy (pairIssue c r b sb lead) := by unfold pairIssue; exact .byParts
@[simp] theorem tidy_pairRendezvous (c) : Tidy (pairRendezvous c) := by unfold pairRendezvous; exact .byParts

/-! The pipeline snapshot buffer. -/

@[simp] theorem tidy_psbDelivery (c) : Tidy (psbDelivery c) := by unfold psbDelivery; exact .byParts

end Sys2Proof.Laws
end

section
/-! Jobs, images, migration, partitions and boot keep the canonical form. -/
namespace Sys2Proof.Laws
open Sys2Proof.Machine
set_option Elab.async false

variable {α β : Type}

/-! Jobs on cores: readiness. -/

@[simp] theorem tidy_refreshReady (k) : Tidy (refreshReady k) := by unfold refreshReady; exact .byParts

/-! Starting jobs. -/

@[simp] theorem tidy_startJobOn (k t task l id c) : Tidy (startJobOn k t task l id c) := by unfold startJobOn; exact .byParts
@[simp] theorem tidy_startGroup (k t id task mux) : Tidy (startGroup k t id task mux) := by unfold startGroup; exact .byParts
@[simp] theorem tidy_taskStart (k t) : Tidy (taskStart k t) := by unfold taskStart; exact .byParts

/-! The end of a job. -/

@[simp] theorem tidy_removeJob (c) : Tidy (removeJob c) := by unfold removeJob; exact .byParts
@[simp] theorem tidy_jobEnd (c) : Tidy (jobEnd c) := by unfold jobEnd; exact .byParts

/-! Suspended ranks. -/

@[simp] theorem tidy_sendSusp (k typ epoch ranks) : Tidy (sendSusp k typ epoch ranks) := by unfold sendSusp; exact .byParts
@[simp] theorem tidy_suspend (k ranks) : Tidy (suspend k ranks) := by unfold suspend; exact .byParts
@[simp] theorem tidy_resumeRanks (k ranks) : Tidy (resumeRanks k ranks) := by unfold resumeRanks; exact .byParts

/-! Pre-emption. -/

@[simp] theorem tidy_saveJob (c running) : Tidy (saveJob c running) := by unfold saveJob; exact .byParts
@[simp] theorem tidy_preemptSave (c) : Tidy (preemptSave c) := by unfold preemptSave; exact .byParts
@[simp] theorem tidy_restoreJob (c id f) : Tidy (restoreJob c id f) := by unfold restoreJob; exact .byParts
@[simp] theorem tidy_jobRestore (c id) : Tidy (jobRestore c id) := by unfold jobRestore; exact .byParts
@[simp] theorem tidy_quantumExpiry (c) : Tidy (quantumExpiry c) := by unfold quantumExpiry; exact .byParts

/-! Residency. -/

@[simp] theorem tidy_residencyChange (c) : Tidy (residencyChange c) := by unfold residencyChange; exact .byParts
@[simp] theorem tidy_proxyAccess (k l a) : Tidy (proxyAccess k l a) := by unfold proxyAccess; exact .byParts

/-! Deadlock. -/

@[simp] theorem tidy_deadlockFault (c) : Tidy (deadlockFault c) := by unfold deadlockFault; exact .byParts

/-! Translation and port instructions: XLAT. -/

@[simp] theorem tidy_probe (x) : Tidy (probe x) := by unfold probe; exact .byParts
@[simp] theorem tidy_loadRtt (x) : Tidy (loadRtt x) := by unfold loadRtt; exact .byParts

/-! PBIND. -/

@[simp] theorem tidy_bindPort (x) : Tidy (bindPort x) := by unfold bindPort; exact .byParts
@[simp] theorem tidy_unbindPort (x) : Tidy (unbindPort x) := by unfold unbindPort; exact .byParts
@[simp] theorem tidy_portPos (x) : Tidy (portPos x) := by unfold portPos; exact .byParts

/-! Fences, sealing and QBAR, and the invalidation of translations: fences. -/

@[simp] theorem tidy_afterImmediate {x} (hx : Tidy x) : Tidy (afterImmediate x) := by unfold afterImmediate; exact .byParts
@[simp] theorem tidy_fenceRelease (scope) : Tidy (fenceRelease scope) := by unfold fenceRelease; exact .byParts
@[simp] theorem tidy_fenceAcquire (scope) : Tidy (fenceAcquire scope) := by unfold fenceAcquire; exact .byParts

@[simp] theorem tidy_fence (x rel acq) : Tidy (fence x rel acq) := by
  have hrule := @tidy_afterImmediate
  unfold fence; exact .byParts

/-! Invalidation. -/

@[simp] theorem tidy_startInvalidation (k lo hi) : Tidy (startInvalidation k lo hi) := by unfold startInvalidation; exact .byParts
@[simp] theorem tidy_endInvalidation (k lo hi) : Tidy (endInvalidation k lo hi) := by unfold endInvalidation; exact .byParts

/-! Sealing. -/

@[simp] theorem tidy_sealLeaves (a b) : Tidy (sealLeaves a b) := by unfold sealLeaves; exact .byParts
@[simp] theorem tidy_sealRange (x on) : Tidy (sealRange x on) := by unfold sealRange; exact .byParts

/-! QBAR. -/

@[simp] theorem tidy_qbarHere : Tidy qbarHere := by unfold qbarHere; exact .byParts

/-! Clearing a partition, FREEZE and THAW: the cores and the cleared state of a partition. -/

@[simp] theorem tidy_clearCore (c l) : Tidy (clearCore c l) := by
  unfold clearCore
  exact .bind (.modify fun _ h => { h with mem := wf_clear _ _ h.mem }) fun _ => .byParts

@[simp] theorem tidy_clearPart (k lcores phys) : Tidy (clearPart k lcores phys) := by unfold clearPart; exact .byParts

/-! FREEZE. -/

@[simp] theorem tidy_migrateFailed (k c e cause) : Tidy (migrateFailed k c e cause) := by unfold migrateFailed; exact .byParts
@[simp] theorem tidy_writeImage (k c e) : Tidy (writeImage k c e) := by unfold writeImage; exact .byParts
@[simp] theorem tidy_beginFreeze (k c e) : Tidy (beginFreeze k c e) := by unfold beginFreeze; exact .byParts
@[simp] theorem tidy_freezeOn (k c e) : Tidy (freezeOn k c e) := by unfold freezeOn; exact .byParts
@[simp] theorem tidy_migrateFreeze (k c) : Tidy (migrateFreeze k c) := by unfold migrateFreeze; exact .byParts

/-! THAW. -/

@[simp] theorem tidy_restorePart (k c me img secs ids) : Tidy (restorePart k c me img secs ids) := by unfold restorePart; exact .byParts
@[simp] theorem tidy_restoreCores (k secs) : Tidy (restoreCores k secs) := by unfold restoreCores; exact .byParts
@[simp] theorem tidy_finishThaw (k c num e) : Tidy (finishThaw k c num e) := by unfold finishThaw; exact .byParts
@[simp] theorem tidy_migrateThaw (k c e) : Tidy (migrateThaw k c e) := by unfold migrateThaw; exact .byParts
@[simp] theorem tidy_ctxResume (k v) : Tidy (ctxResume k v) := by unfold ctxResume; exact .byParts

/-! A partition's sequencer block: PART_CTL. -/

@[simp] theorem tidy_refusePart (k) : Tidy (refusePart k) := by unfold refusePart; exact .byParts
@[simp] theorem tidy_clearPartition (k cores) : Tidy (clearPartition k cores) := by unfold clearPartition; exact .byParts
@[simp] theorem tidy_clearRing (f) : Tidy (clearRing f) := by unfold clearRing; exact .byParts
@[simp] theorem tidy_createPartition (k v) : Tidy (createPartition k v) := by unfold createPartition; exact .byParts
@[simp] theorem tidy_destroyPartition (k v) : Tidy (destroyPartition k v) := by unfold destroyPartition; exact .byParts
@[simp] theorem tidy_partCtl (k v) : Tidy (partCtl k v) := by unfold partCtl; exact .byParts
@[simp] theorem tidy_partBusyDone (k) : Tidy (partBusyDone k) := by unfold partBusyDone; exact .byParts

/-! SCHED_CFG, the shadow region, PT_ROOT and CTX_CTL. -/

@[simp] theorem tidy_schedCfg (k v) : Tidy (schedCfg k v) := by unfold schedCfg; exact .byParts
@[simp] theorem tidy_shadowConfig (k off v) : Tidy (shadowConfig k off v) := by unfold shadowConfig; exact .byParts

/-! Invalidation. -/

@[simp] theorem tidy_invCtl (k v) : Tidy (invCtl k v) := by unfold invCtl; exact .byParts
@[simp] theorem tidy_invDone (k) : Tidy (invDone k) := by unfold invDone; exact .byParts

/-! The region table's registers, the boot chain, measurements, identity and attestation: the region table. -/

@[simp] theorem tidy_refuseRgn : Tidy refuseRgn := by unfold refuseRgn; exact .byParts
@[simp] theorem tidy_rgnEntryWrite (k hi v) : Tidy (rgnEntryWrite k hi v) := by unfold rgnEntryWrite; exact .byParts
@[simp] theorem tidy_rgnWrite (off v) : Tidy (rgnWrite off v) := by unfold rgnWrite; exact .byParts
@[simp] theorem tidy_rgnSync (v) : Tidy (rgnSync v) := by unfold rgnSync; exact .byParts
@[simp] theorem tidy_rgnSyncDone : Tidy rgnSyncDone := by unfold rgnSyncDone; exact .byParts

/-! Measurements. -/

@[simp] theorem tidy_clearMeas : Tidy clearMeas := by unfold clearMeas; exact .byParts
@[simp] theorem tidy_measCmd (v) : Tidy (measCmd v) := by unfold measCmd; exact .byParts
@[simp] theorem tidy_measData (i v) : Tidy (measData i v) := by unfold measData; exact .byParts

/-! The boot ROM. -/

@[simp] theorem tidy_bootBegin (host) : Tidy (bootBegin host) := by unfold bootBegin; exact .byParts
@[simp] theorem tidy_bootFail (err) : Tidy (bootFail err) := by unfold bootFail; exact .byParts
@[simp] theorem tidy_bootLoad (img) : Tidy (bootLoad img) := by unfold bootLoad; exact .byParts
@[simp] theorem tidy_bootRest : Tidy bootRest := by unfold bootRest; exact .byParts
@[simp] theorem tidy_bootRom : Tidy bootRom := by unfold bootRom; exact .byParts
@[simp] theorem tidy_hostrdy : Tidy hostrdy := by unfold hostrdy; exact .byParts
@[simp] theorem tidy_hostrdyTimeout : Tidy hostrdyTimeout := by unfold hostrdyTimeout; exact .byParts

@[simp] theorem tidy_resetPartition (k) : Tidy (resetPartition k) := by
  unfold resetPartition
  refine .look fun s _ => .bind (tidy_clearPartition _ _) fun _ => .bind (tidy_updPart _ _) fun _ => .bind ?_ fun _ => .byParts
  exact .modify fun _ h => { h with regs := wf_clear _ _ (wf_clear _ _ h.regs) }

@[simp] theorem tidy_reload : Tidy reload := by unfold reload; exact .byParts
@[simp] theorem tidy_bootCtl (w v) : Tidy (bootCtl w v) := by unfold bootCtl; exact .byParts
@[simp] theorem tidy_hostAnswer (status data) : Tidy (hostAnswer status data) := by unfold hostAnswer; exact .byParts
@[simp] theorem tidy_bootWindow (off data) : Tidy (bootWindow off data) := by unfold bootWindow; exact .byParts

/-! Attestation. -/

@[simp] theorem tidy_spdmRequest (req) : Tidy (spdmRequest req) := by unfold spdmRequest; exact .byParts

end Sys2Proof.Laws
end

section
/-! Coach transfers, remote requests and links keep the canonical form. -/
namespace Sys2Proof.Laws
open Sys2Proof.Machine
set_option Elab.async false

variable {α β : Type}

/-! The Coach: owner jobs. -/

@[simp] theorem tidy_ownerAdd (k t l n v rels) : Tidy (ownerAdd k t l n v rels) := by unfold ownerAdd; exact .byParts
@[simp] theorem tidy_ownerPoison (k t l n cause) : Tidy (ownerPoison k t l n cause) := by unfold ownerPoison; exact .byParts

/-! Transfers and their steps. -/

@[simp] theorem tidy_updTransfer (k i f) : Tidy (updTransfer k i f) := by unfold updTransfer; exact .byParts
@[simp] theorem tidy_getTransfer (k i) : Tidy (getTransfer k i) := by unfold getTransfer; exact .byParts
@[simp] theorem tidy_endTransfer (k i t) : Tidy (endTransfer k i t) := by unfold endTransfer; exact .byParts
@[simp] theorem tidy_settleTransfer (k i) : Tidy (settleTransfer k i) := by unfold settleTransfer; exact .byParts
@[simp] theorem tidy_poisonAt (k t r n cause) : Tidy (poisonAt k t r n cause) := by unfold poisonAt; exact .byParts

/-! The blocks of a pair. -/

@[simp] theorem tidy_leafDirty (a f) : Tidy (leafDirty a f) := by unfold leafDirty; exact .byParts
@[simp] theorem tidy_coachRead (who k floor p n) : Tidy (coachRead who k floor p n) := by unfold coachRead; exact .byParts

@[simp] theorem tidy_gatherRow (who k floor far src dst len fuel o) : Tidy (gatherRow who k floor far src dst len fuel o) := by
  induction fuel generalizing o with
  | zero => exact .pure _
  | succ fuel ih => unfold gatherRow; exact .byParts

@[simp] theorem tidy_gatherBlock (who k floor far b s p ls lp rs) : Tidy (gatherBlock who k floor far b s p ls lp rs) := by
  induction rs with
  | nil => exact .pure _
  | cons a as ih => unfold gatherBlock; exact .byParts

/-! Writes. -/

@[simp] theorem tidy_addElems (pa typ z n bs) : Tidy (addElems pa typ z n bs) := by
  induction n generalizing pa bs with
  | zero => exact .pure _
  | succ n ih => unfold addElems; exact .byParts

@[simp] theorem tidy_coachWrite (who k b p d) : Tidy (coachWrite who k b p d) := by unfold coachWrite; exact .byParts

@[simp] theorem tidy_coachSend (who k b pkg peer ps) : Tidy (coachSend who k b pkg peer ps) := by
  induction ps with
  | nil => exact .pure _
  | cons a as ih => unfold coachSend; exact .byParts

/-! Data bytes of a remote request. -/

@[simp] theorem tidy_coachAnswered (k i key peer r st) : Tidy (coachAnswered k i key peer r st) := by unfold coachAnswered; exact .byParts

/-! Issuing a step. -/

@[simp] theorem tidy_issuePair (k i b t s p todo pkg) : Tidy (issuePair k i b t s p todo pkg) := by unfold issuePair; exact .byParts

@[simp] theorem tidy_gatherPeers (k i b floor t s ls ps) : Tidy (gatherPeers k i b floor t s ls ps) := by
  induction ps with
  | nil => exact .pure _
  | cons a as ih => unfold gatherPeers; exact .byParts

@[simp] theorem tidy_clearCoachReads (k i key) : Tidy (clearCoachReads k i key) := by unfold clearCoachReads; exact .byParts
@[simp] theorem tidy_rankIssued (k i s) : Tidy (rankIssued k i s) := by unfold rankIssued; exact .byParts
@[simp] theorem tidy_openStep (k i st) : Tidy (openStep k i st) := by unfold openStep; exact .byParts
@[simp] theorem tidy_coachStepIssue (k i s) : Tidy (coachStepIssue k i s) := by unfold coachStepIssue; exact .byParts

/-! Signals. -/

@[simp] theorem tidy_signalPeer (k t b key) : Tidy (signalPeer k t b key) := by unfold signalPeer; exact .byParts
@[simp] theorem tidy_coachStepSignal (k i r) : Tidy (coachStepSignal k i r) := by unfold coachStepSignal; exact .byParts

/-! Failures. -/

@[simp] theorem tidy_coachPairFail (k i s p cause) : Tidy (coachPairFail k i s p cause) := by unfold coachPairFail; exact .byParts
@[simp] theorem tidy_colltoExpiry (k i r) : Tidy (colltoExpiry k i r) := by unfold colltoExpiry; exact .byParts

/-! Adds from other packages. -/

@[simp] theorem tidy_applyAdd (k h owner) : Tidy (applyAdd k h owner) := by unfold applyAdd; exact .byParts
@[simp] theorem tidy_heldApply (k) : Tidy (heldApply k) := by unfold heldApply; exact .byParts
@[simp] theorem tidy_heldExpiry (k i) : Tidy (heldExpiry k i) := by unfold heldExpiry; exact .byParts

/-! Fabric messages at their ends: answers. -/

@[simp] theorem tidy_outDone (tag st) : Tidy (outDone tag st) := by unfold outDone; exact .byParts
@[simp] theorem tidy_answerRemote (tag st data) : Tidy (answerRemote tag st data) := by unfold answerRemote; exact .byParts
@[simp] theorem tidy_remoteResponse (m) : Tidy (remoteResponse m) := by unfold remoteResponse; exact .byParts
@[simp] theorem tidy_reply (q typ payload) : Tidy (reply q typ payload) := by unfold reply; exact .byParts
@[simp] theorem tidy_replyStatus (m st) : Tidy (replyStatus m st) := by unfold replyStatus; exact .byParts

/-! Requests. -/

@[simp] theorem tidy_noteFar (pkg gs) : Tidy (noteFar pkg gs) := by unfold noteFar; exact .byParts
@[simp] theorem tidy_serveRead (m) : Tidy (serveRead m) := by unfold serveRead; exact .byParts
@[simp] theorem tidy_serveWrite (m) : Tidy (serveWrite m) := by unfold serveWrite; exact .byParts
@[simp] theorem tidy_serveAtomic (m) : Tidy (serveAtomic m) := by unfold serveAtomic; exact .byParts
@[simp] theorem tidy_dataPlace (m) : Tidy (dataPlace m) := by unfold dataPlace; exact .byParts
@[simp] theorem tidy_serveData (m) : Tidy (serveData m) := by unfold serveData; exact .byParts
@[simp] theorem tidy_remoteRequest (m) : Tidy (remoteRequest m) := by unfold remoteRequest; exact .byParts

/-! Counter adds. -/

@[simp] theorem tidy_flitCadd (m) : Tidy (flitCadd m) := by unfold flitCadd; exact .byParts

/-! Suspended ranks. -/

@[simp] theorem tidy_rsusp (m) : Tidy (rsusp m) := by unfold rsusp; exact .byParts
@[simp] theorem tidy_rsack (m) : Tidy (rsack m) := by unfold rsack; exact .byParts

/-! Failures at ports. -/

@[simp] theorem tidy_failMsg (m cause) : Tidy (failMsg m cause) := by unfold failMsg; exact .byParts
@[simp] theorem tidy_takeQueued (p f) : Tidy (takeQueued p f) := by unfold takeQueued; exact .byParts
@[simp] theorem tidy_admitWaiting (p) : Tidy (admitWaiting p) := by unfold admitWaiting; exact .byParts
@[simp] theorem tidy_portFails (p cause) : Tidy (portFails p cause) := by unfold portFails; exact .byParts
@[simp] theorem tidy_forward (m) : Tidy (forward m) := by unfold forward; exact .byParts

/-! Time synchronisation. -/

@[simp] theorem tidy_sendTsync (p phase t1 t2 t3) : Tidy (sendTsync p phase t1 t2 t3) := by unfold sendTsync; exact .byParts
@[simp] theorem tidy_tsyncPeriod : Tidy tsyncPeriod := by unfold tsyncPeriod; exact .byParts
@[simp] theorem tidy_syncTo (θ) : Tidy (syncTo θ) := by unfold syncTo; exact .byParts
@[simp] theorem tidy_tsyncReceive (p m t) : Tidy (tsyncReceive p m t) := by unfold tsyncReceive; exact .byParts
@[simp] theorem tidy_tsyncCtl (v) : Tidy (tsyncCtl v) := by unfold tsyncCtl; exact .byParts

/-! Delivery. -/

@[simp] theorem tidy_rresume (m) : Tidy (rresume m) := by unfold rresume; exact .byParts
@[simp] theorem tidy_deliver (p m) : Tidy (deliver p m) := by unfold deliver; exact .byParts
@[simp] theorem tidy_arrive (p m) : Tidy (arrive p m) := by unfold arrive; exact .byParts
@[simp] theorem tidy_arriveAs (ok m) : Tidy (arriveAs ok m) := by unfold arriveAs; exact .byParts

/-! Timeouts. -/

@[simp] theorem tidy_holdTimeout (tag) : Tidy (holdTimeout tag) := by unfold holdTimeout; exact .byParts
@[simp] theorem tidy_responseTimeout (tag) : Tidy (responseTimeout tag) := by unfold responseTimeout; exact .byParts

/-! Routes and rank tables. -/

@[simp] theorem tidy_rankConfig (k off v) : Tidy (rankConfig k off v) := by unfold rankConfig; exact .byParts

/-! Optical links: sessions. -/

@[simp] theorem tidy_updSess (p key f) : Tidy (updSess p key f) := by unfold updSess; exact .byParts
@[simp] theorem tidy_countErr (p lo) : Tidy (countErr p lo) := by unfold countErr; exact .byParts
@[simp] theorem tidy_lockPort (p key cause) : Tidy (lockPort p key cause) := by unfold lockPort; exact .byParts
@[simp] theorem tidy_emitFlit (p key q f) : Tidy (emitFlit p key q f) := by unfold emitFlit; exact .byParts

/-! Sending. -/

@[simp] theorem tidy_flitLeft (p x n) : Tidy (flitLeft p x n) := by unfold flitLeft; exact .byParts
@[simp] theorem tidy_sendNext (p key x) : Tidy (sendNext p key x) := by unfold sendNext; exact .byParts
@[simp] theorem tidy_sendAttest (p x) : Tidy (sendAttest p x) := by unfold sendAttest; exact .byParts
@[simp] theorem tidy_flitSend (p) : Tidy (flitSend p) := by unfold flitSend; exact .byParts
@[simp] theorem tidy_sendAhead (p typ tspec) : Tidy (sendAhead p typ tspec) := by unfold sendAhead; exact .byParts
@[simp] theorem tidy_keepalive (p) : Tidy (keepalive p) := by unfold keepalive; exact .byParts
@[simp] theorem tidy_ackThreshold (p) : Tidy (ackThreshold p) := by unfold ackThreshold; exact .byParts
@[simp] theorem tidy_replayTimeout (p) : Tidy (replayTimeout p) := by unfold replayTimeout; exact .byParts
@[simp] theorem tidy_sessionExhausted (p) : Tidy (sessionExhausted p) := by unfold sessionExhausted; exact .byParts

/-! Receiving. -/

@[simp] theorem tidy_acked (p key a) : Tidy (acked p key a) := by unfold acked; exact .byParts
@[simp] theorem tidy_nakReceived (p key seq) : Tidy (nakReceived p key seq) := by unfold nakReceived; exact .byParts
@[simp] theorem tidy_sendNak (p key) : Tidy (sendNak p key) := by unfold sendNak; exact .byParts
@[simp] theorem tidy_tagFailed (p key at_) : Tidy (tagFailed p key at_) := by unfold tagFailed; exact .byParts
@[simp] theorem tidy_enterUp (p w lm sp next) : Tidy (enterUp p w lm sp next) := by unfold enterUp; exact .byParts
@[simp] theorem tidy_lsrReceived (p body) : Tidy (lsrReceived p body) := by unfold lsrReceived; exact .byParts
@[simp] theorem tidy_acceptPayload (p key f) : Tidy (acceptPayload p key f) := by unfold acceptPayload; exact .byParts
@[simp] theorem tidy_verified (p key q f) : Tidy (verified p key q f) := by unfold verified; exact .byParts
@[simp] theorem tidy_attestMessage (p body) : Tidy (attestMessage p body) := by unfold attestMessage; exact .byParts
@[simp] theorem tidy_attestFlit (p f) : Tidy (attestFlit p f) := by unfold attestFlit; exact .byParts
@[simp] theorem tidy_flitReceive (p bytes) : Tidy (flitReceive p bytes) := by unfold flitReceive; exact .byParts

/-! The link-state record. -/

@[simp] theorem tidy_lsrSend (p) : Tidy (lsrSend p) := by unfold lsrSend; exact .byParts

/-! Retraining. -/

@[simp] theorem tidy_enterRetrain (p) : Tidy (enterRetrain p) := by unfold enterRetrain; exact .byParts
@[simp] theorem tidy_retrainDone (p full half) : Tidy (retrainDone p full half) := by unfold retrainDone; exact .byParts

/-! PORT_CTL and PORT_SECRET. -/

@[simp] theorem tidy_unlockPort (p) : Tidy (unlockPort p) := by unfold unlockPort; exact .byParts
@[simp] theorem tidy_portCtl (p v) : Tidy (portCtl p v) := by unfold portCtl; exact .byParts

@[simp] theorem tidy_portCtlWrite (bit p w v) : Tidy (portCtlWrite bit p w v) := by
  have hrule := @tidy_admitted
  unfold portCtlWrite; exact .byParts

@[simp] theorem tidy_portDrained (p) : Tidy (portDrained p) := by unfold portDrained; exact .byParts
@[simp] theorem tidy_portSecret (p k v) : Tidy (portSecret p k v) := by unfold portSecret; exact .byParts

/-! Circuit mode. -/

@[simp] theorem tidy_stopSlots (p) : Tidy (stopSlots p) := by unfold stopSlots; exact .byParts
@[simp] theorem tidy_slotCfg (p v) : Tidy (slotCfg p v) := by unfold slotCfg; exact .byParts
@[simp] theorem tidy_rotationStart (p) : Tidy (rotationStart p) := by unfold rotationStart; exact .byParts
@[simp] theorem tidy_slotGuardEnd (p) : Tidy (slotGuardEnd p) := by unfold slotGuardEnd; exact .byParts
@[simp] theorem tidy_slotWindowEnd (p) : Tidy (slotWindowEnd p) := by unfold slotWindowEnd; exact .byParts
@[simp] theorem tidy_circuitTrained (p i ok) : Tidy (circuitTrained p i ok) := by unfold circuitTrained; exact .byParts

end Sys2Proof.Laws
end

section
/-! Control flow, events of cores, power, training, and loads and stores keep the canonical form. -/
namespace Sys2Proof.Laws
open Sys2Proof.Machine
set_option Elab.async false

variable {α β : Type}

/-! Control transfer and CTRL: branches. -/

@[simp] theorem tidy_branch (x) : Tidy (branch x) := by unfold branch; exact .byParts
@[simp] theorem tidy_callTo (x) : Tidy (callTo x) := by unfold callTo; exact .byParts
@[simp] theorem tidy_loopTo (x) : Tidy (loopTo x) := by unfold loopTo; exact .byParts
@[simp] theorem tidy_branchEos (x) : Tidy (branchEos x) := by unfold branchEos; exact .byParts
@[simp] theorem tidy_jumpReg (x) : Tidy (jumpReg x) := by unfold jumpReg; exact .byParts

/-! CTRL. -/

@[simp] theorem tidy_joinStream : Tidy joinStream := by unfold joinStream; exact .byParts
@[simp] theorem tidy_haltWith (x) : Tidy (haltWith x) := by unfold haltWith; exact .byParts
@[simp] theorem tidy_yieldTo : Tidy yieldTo := by unfold yieldTo; exact .byParts
@[simp] theorem tidy_superCall (x) : Tidy (superCall x) := by unfold superCall; exact .byParts
@[simp] theorem tidy_serviceReturn (x) : Tidy (serviceReturn x) := by unfold serviceReturn; exact .byParts

/-! Events of the cores. -/

@[simp] theorem tidy_phaseWriteback (c) : Tidy (phaseWriteback c) := by unfold phaseWriteback; exact .byParts
@[simp] theorem tidy_writeAccepted (c) : Tidy (writeAccepted c) := by unfold writeAccepted; exact .byParts
@[simp] theorem tidy_metWait (w c) : Tidy (metWait w c) := by unfold metWait; exact .byParts
@[simp] theorem tidy_waitSatisfied (c e) : Tidy (waitSatisfied c e) := by unfold waitSatisfied; exact .byParts
@[simp] theorem tidy_waitaAgain (a) : Tidy (waitaAgain a) := by unfold waitaAgain; exact .byParts

/-! Remote loads into channels. -/

@[simp] theorem tidy_rldFails (c r cause) : Tidy (rldFails c r cause) := by unfold rldFails; exact .byParts
@[simp] theorem tidy_rldArrives (c r data) : Tidy (rldArrives c r data) := by unfold rldArrives; exact .byParts
@[simp] theorem tidy_rldResponse (c id fail) : Tidy (rldResponse c id fail) := by unfold rldResponse; exact .byParts

/-! Sealing. -/

@[simp] theorem tidy_sealEffect (c) : Tidy (sealEffect c) := by unfold sealEffect; exact .byParts

/-! The service context. -/

@[simp] theorem tidy_serviceEntry (c cause aux) : Tidy (serviceEntry c cause aux) := by unfold serviceEntry; exact .byParts
@[simp] theorem tidy_serviceOpportunity (c) : Tidy (serviceOpportunity c) := by unfold serviceOpportunity; exact .byParts
@[simp] theorem tidy_doubleFaultNow (c cause) : Tidy (doubleFaultNow c cause) := by unfold doubleFaultNow; exact .byParts
@[simp] theorem tidy_unassigned (cause) : Tidy (unassigned cause) := by unfold unassigned; exact .byParts

/-! The special registers. -/

@[simp] theorem tidy_csrWrite (n v) : Tidy (csrWrite n v) := by unfold csrWrite; exact .byParts
@[simp] theorem tidy_csrGet (x) : Tidy (csrGet x) := by unfold csrGet; exact .byParts
@[simp] theorem tidy_csrSwap (x keep f) : Tidy (csrSwap x keep f) := by unfold csrSwap; exact .byParts

/-! The work deques. -/

@[simp] theorem tidy_setStatus (x b) : Tidy (setStatus x b) := by unfold setStatus; exact .byParts
@[simp] theorem tidy_pushDeque (x v rels) : Tidy (pushDeque x v rels) := by unfold pushDeque; exact .byParts
@[simp] theorem tidy_dequePush (x) : Tidy (dequePush x) := by unfold dequePush; exact .byParts
@[simp] theorem tidy_taken (x e) : Tidy (taken x e) := by unfold taken; exact .byParts
@[simp] theorem tidy_notTaken (x) : Tidy (notTaken x) := by unfold notTaken; exact .byParts
@[simp] theorem tidy_dequePop (x) : Tidy (dequePop x) := by unfold dequePop; exact .byParts
@[simp] theorem tidy_dequeSteal (x) : Tidy (dequeSteal x) := by unfold dequeSteal; exact .byParts
@[simp] theorem tidy_dequeLength (x) : Tidy (dequeLength x) := by unfold dequeLength; exact .byParts

/-! Scalar floating point. -/

@[simp] theorem tidy_finishFp (x r) : Tidy (finishFp x r) := by unfold finishFp; exact .byParts
@[simp] theorem tidy_fop1 (f fn x) : Tidy (fop1 f fn x) := by unfold fop1; exact .byParts
@[simp] theorem tidy_fop2 (f fn x) : Tidy (fop2 f fn x) := by unfold fop2; exact .byParts
@[simp] theorem tidy_fop3 (f fn x) : Tidy (fop3 f fn x) := by unfold fop3; exact .byParts
@[simp] theorem tidy_fcompare (fn x) : Tidy (fcompare fn x) := by unfold fcompare; exact .byParts
@[simp] theorem tidy_fconvert (fn x) : Tidy (fconvert fn x) := by unfold fconvert; exact .byParts

/-! Host accesses over CXL.mem and arrivals from the second tier. -/

@[simp] theorem tidy_hostReply (code data) : Tidy (hostReply code data) := by unfold hostReply; exact .byParts
@[simp] theorem tidy_hostPublish (pa data) : Tidy (hostPublish pa data) := by unfold hostPublish; exact .byParts
@[simp] theorem tidy_hostMemWrite (pa data poison) : Tidy (hostMemWrite pa data poison) := by unfold hostMemWrite; exact .byParts
@[simp] theorem tidy_hostMemRead (pa n) : Tidy (hostMemRead pa n) := by unfold hostMemRead; exact .byParts
@[simp] theorem tidy_secondTier (pa data poison) : Tidy (secondTier pa data poison) := by unfold secondTier; exact .byParts

/-! LAUNCH, LAUNCH.T and XPOSE. -/

@[simp] theorem tidy_launchStatus (x try_ b) : Tidy (launchStatus x try_ b) := by unfold launchStatus; exact .byParts

@[simp] theorem tidy_insertChild (x try_ source rel bytes) : Tidy (insertChild x try_ source rel bytes) := by
  unfold insertChild; exact .byParts

@[simp] theorem tidy_launchBlock (x try_ source ok bad) : Tidy (launchBlock x try_ source ok bad) := by unfold launchBlock; exact .byParts

/-! Rails, resets, clocks, DVFS points, power capping and thermal limits, phase A of the power-up sequence and die-to-die links. -/

@[simp] theorem tidy_mgmtEvt (i) : Tidy (mgmtEvt i) := by unfold mgmtEvt; exact .byParts

/-! What is lost. -/

@[simp] theorem tidy_loseCore (c) : Tidy (loseCore c) := by unfold loseCore; exact .byParts
@[simp] theorem tidy_loseCluster (n) : Tidy (loseCluster n) := by unfold loseCluster; exact .byParts
@[simp] theorem tidy_loseHbm : Tidy loseHbm := .modify fun _ h => { h with mem := wf_clear _ _ h.mem }

@[simp] theorem tidy_loseIo : Tidy loseIo :=
  .bind .byParts fun _ => .bind (.modify fun _ h => { h with regs := wf_clear _ _ h.regs }) fun _ => .byParts

/-! Rails. -/

@[simp] theorem tidy_railOff (k) : Tidy (railOff k) := by unfold railOff; exact .byParts
@[simp] theorem tidy_railsOff (ks) : Tidy (railsOff ks) := by unfold railsOff; exact .byParts
@[simp] theorem tidy_railEnWrite (v) : Tidy (railEnWrite v) := by unfold railEnWrite; exact .byParts

/-! Clock points. -/

@[simp] theorem tidy_capStatus : Tidy capStatus := by unfold capStatus; exact .byParts
@[simp] theorem tidy_tryLock (n) : Tidy (tryLock n) := by unfold tryLock; exact .byParts
@[simp] theorem tidy_movePoint (n) : Tidy (movePoint n) := by unfold movePoint; exact .byParts
@[simp] theorem tidy_lockGone (n) : Tidy (lockGone n) := by unfold lockGone; exact .byParts
@[simp] theorem tidy_dvfsByte (n b) : Tidy (dvfsByte n b) := by unfold dvfsByte; exact .byParts
@[simp] theorem tidy_dvfsWrite (v) : Tidy (dvfsWrite v) := by unfold dvfsWrite; exact .byParts
@[simp] theorem tidy_transitionDone (n) : Tidy (transitionDone n) := by unfold transitionDone; exact .byParts
@[simp] theorem tidy_breakLock (n) : Tidy (breakLock n) := by unfold breakLock; exact .byParts

/-! Phase A of the power-up sequence. -/

@[simp] theorem tidy_bringStep (n) {act} (hact : Tidy act) : Tidy (bringStep n act) := by unfold bringStep; exact .byParts
@[simp] theorem tidy_bringFail (err) : Tidy (bringFail err) := by unfold bringFail; exact .byParts
@[simp] theorem tidy_releaseFrontEnd (f) : Tidy (releaseFrontEnd f) := by unfold releaseFrontEnd; exact .byParts

/-! Resets. -/

@[simp] theorem tidy_seqErr : Tidy seqErr := by unfold seqErr; exact .byParts
@[simp] theorem tidy_rstCluster (n hold) : Tidy (rstCluster n hold) := by unfold rstCluster; exact .byParts
@[simp] theorem tidy_rstFrontEnd (f hold) : Tidy (rstFrontEnd f hold) := by unfold rstFrontEnd; exact .byParts
@[simp] theorem tidy_rstCtlWrite (v) : Tidy (rstCtlWrite v) := by unfold rstCtlWrite; exact .byParts
@[simp] theorem tidy_d2dTrained (n) : Tidy (d2dTrained n) := by unfold d2dTrained; exact .byParts
@[simp] theorem tidy_d2dDown (n) : Tidy (d2dDown n) := by unfold d2dDown; exact .byParts

/-! Power-good, faults. -/

@[simp] theorem tidy_railGood (k) : Tidy (railGood k) := by unfold railGood; exact .byParts
@[simp] theorem tidy_railFault (k) : Tidy (railFault k) := by unfold railFault; exact .byParts

/-! The timebase. -/

@[simp] theorem tidy_clkWrite (v) : Tidy (clkWrite v) := by unfold clkWrite; exact .byParts
@[simp] theorem tidy_timebaseLock : Tidy timebaseLock := by unfold timebaseLock; exact .byParts
@[simp] theorem tidy_refclkLoss (other) : Tidy (refclkLoss other) := by unfold refclkLoss; exact .byParts

/-! Power capping. -/

@[simp] theorem tidy_pcapWrite (w v) : Tidy (pcapWrite w v) := by unfold pcapWrite; exact .byParts
@[simp] theorem tidy_powerSample (pinst pavg) : Tidy (powerSample pinst pavg) := by unfold powerSample; exact .byParts
@[simp] theorem tidy_skipEnd : Tidy skipEnd := by unfold skipEnd; exact .byParts
@[simp] theorem tidy_cappingTick (power) : Tidy (cappingTick power) := by unfold cappingTick; exact .byParts

/-! Temperatures. -/

@[simp] theorem tidy_thmWrite (v) : Tidy (thmWrite v) := by unfold thmWrite; exact .byParts
@[simp] theorem tidy_thmStatus : Tidy thmStatus := by unfold thmStatus; exact .byParts
@[simp] theorem tidy_coolStep (i temp thr) : Tidy (coolStep i temp thr) := by unfold coolStep; exact .byParts
@[simp] theorem tidy_thermalTrip : Tidy thermalTrip := by unfold thermalTrip; exact .byParts
@[simp] theorem tidy_dieSample (die thr n) : Tidy (dieSample die thr n) := by unfold dieSample; exact .byParts
@[simp] theorem tidy_hbmSample (hbm ref thr n) : Tidy (hbmSample hbm ref thr n) := by unfold hbmSample; exact .byParts
@[simp] theorem tidy_thermalSample (die hbm) : Tidy (thermalSample die hbm) := by unfold thermalSample; exact .byParts
@[simp] theorem tidy_thermalEnd (action) : Tidy (thermalEnd action) := by unfold thermalEnd; exact .byParts

/-! Package reset. -/

@[simp] theorem tidy_porstAssert : Tidy porstAssert :=
  .modify fun _ h => { h.afterPowerLoss with regs := wf_set _ _ (wf_nil _) }

@[simp] theorem tidy_porstDeassert : Tidy porstDeassert := by unfold porstDeassert; exact .byParts

/-! Training: port states. -/

@[simp] theorem tidy_setPortState (p st) : Tidy (setPortState p st) := by unfold setPortState; exact .byParts
@[simp] theorem tidy_setPortCause (p cause) : Tidy (setPortCause p cause) := by unfold setPortCause; exact .byParts

/-! HBM stacks. -/

@[simp] theorem tidy_refuseStep (stat) : Tidy (refuseStep stat) := by unfold refuseStep; exact .byParts
@[simp] theorem tidy_startStep (stat unit step) : Tidy (startStep stat unit step) := by unfold startStep; exact .byParts
@[simp] theorem tidy_hbmTrn (n v) : Tidy (hbmTrn n v) := by unfold hbmTrn; exact .byParts
@[simp] theorem tidy_zeroStack (n) : Tidy (zeroStack n) := .modify fun _ h => { h with mem := wf_filter _ h.mem }
@[simp] theorem tidy_hbmStepDone (n err spares) : Tidy (hbmStepDone n err spares) := by unfold hbmStepDone; exact .byParts
@[simp] theorem tidy_hbmRef (n v) : Tidy (hbmRef n v) := by unfold hbmRef; exact .byParts
@[simp] theorem tidy_countCorrected : Tidy countCorrected := by unfold countCorrected; exact .byParts
@[simp] theorem tidy_patrolScrub (b f) : Tidy (patrolScrub b f) := by unfold patrolScrub; exact .byParts

/-! Optical ports. -/

@[simp] theorem tidy_optTrn (p v) : Tidy (optTrn p v) := by unfold optTrn; exact .byParts
@[simp] theorem tidy_optStepDone (p failed own) : Tidy (optStepDone p failed own) := by unfold optStepDone; exact .byParts

/-! A write to the MMIO range by address. -/

@[simp] theorem tidy_pmbWrite (w o v) : Tidy (pmbWrite w o v) := by unfold pmbWrite; exact .byParts
@[simp] theorem tidy_linkWrite (p b v) : Tidy (linkWrite p b v) := by unfold linkWrite; exact .byParts
@[simp] theorem tidy_fabWrite (o v) : Tidy (fabWrite o v) := by unfold fabWrite; exact .byParts
@[simp] theorem tidy_secWrite (w o v) : Tidy (secWrite w o v) := by unfold secWrite; exact .byParts
@[simp] theorem tidy_feWrite (f b v) : Tidy (feWrite f b v) := by unfold feWrite; exact .byParts
@[simp] theorem tidy_seqWrite (k b v) : Tidy (seqWrite k b v) := by unfold seqWrite; exact .byParts
@[simp] theorem tidy_flueWrite (o v) : Tidy (flueWrite o v) := by unfold flueWrite; exact .byParts
@[simp] theorem tidy_regWrite (w o v) : Tidy (regWrite w o v) := by unfold regWrite; exact .byParts
@[simp] theorem tidy_regWriteEvent (w addr v) : Tidy (regWriteEvent w addr v) := by unfold regWriteEvent; exact .byParts

/-! Loads and stores. -/

@[simp] theorem tidy_lsAddr (x n) : Tidy (lsAddr x n) := by unfold lsAddr; exact .byParts
@[simp] theorem tidy_loadBytes (a n) : Tidy (loadBytes a n) := by unfold loadBytes; exact .byParts
@[simp] theorem tidy_storeBytes (a n v) : Tidy (storeBytes a n v) := by unfold storeBytes; exact .byParts
@[simp] theorem tidy_load (signed n x) : Tidy (load signed n x) := by unfold load; exact .byParts
@[simp] theorem tidy_store (n x) : Tidy (store n x) := by unfold store; exact .byParts
@[simp] theorem tidy_svcOffset (a n) : Tidy (svcOffset a n) := by unfold svcOffset; exact .byParts
@[simp] theorem tidy_loadSp (signed n x) : Tidy (loadSp signed n x) := by unfold loadSp; exact .byParts
@[simp] theorem tidy_storeSp (n x) : Tidy (storeSp n x) := by unfold storeSp; exact .byParts
@[simp] theorem tidy_remoteLoad (signed n x) : Tidy (remoteLoad signed n x) := by unfold remoteLoad; exact .byParts

/-! A cycle of the timebase. -/

@[simp] theorem tidy_dccAdvance : Tidy dccAdvance := by unfold dccAdvance; exact .byParts
@[simp] theorem tidy_coreCycle (c) : Tidy (coreCycle c) := by unfold coreCycle; exact .byParts
@[simp] theorem tidy_classCycle (k c) : Tidy (classCycle k c) := by unfold classCycle; exact .byParts
@[simp] theorem tidy_partCycle (k) : Tidy (partCycle k) := by unfold partCycle; exact .byParts
@[simp] theorem tidy_wdogCycle (f) : Tidy (wdogCycle f) := by unfold wdogCycle; exact .byParts
@[simp] theorem tidy_dccTick : Tidy dccTick := by unfold dccTick; exact .byParts

/-! Configuring tiles, and tile loads and stores. -/

@[simp] theorem tidy_configure (x zero) : Tidy (configure x zero) := by unfold configure; exact .byParts
@[simp] theorem tidy_setValid (x) : Tidy (setValid x) := by unfold setValid; exact .byParts
@[simp] theorem tidy_readDesc (x) : Tidy (readDesc x) := by unfold readDesc; exact .byParts

/-! TLD and TST. -/

@[simp] theorem tidy_imageChecks (x d a b store) : Tidy (imageChecks x d a b store) := by unfold imageChecks; exact .byParts

@[simp] theorem tidy_loadTile (x) : Tidy (loadTile x) := by
  have hrule := @tidy_runRows
  unfold loadTile; exact .byParts

@[simp] theorem tidy_storeTile (x) : Tidy (storeTile x) := by
  have hrule := @tidy_rowsFrom
  unfold storeTile; exact .byParts

/-! Rearrangement and movement. -/

@[simp] theorem tidy_moveTypes (dst a index) : Tidy (moveTypes dst a index) := by unfold moveTypes; exact .byParts

@[simp] theorem tidy_transpose (x) : Tidy (transpose x) := by
  have hrule := @tidy_runFull
  unfold transpose; exact .byParts

@[simp] theorem tidy_permute (x) : Tidy (permute x) := by
  have hrule := @tidy_runFull
  unfold permute; exact .byParts

@[simp] theorem tidy_shuffle (x) : Tidy (shuffle x) := by
  have hrule := @tidy_runFull
  unfold shuffle; exact .byParts

@[simp] theorem tidy_gather (x) : Tidy (gather x) := by
  have hrule := @tidy_runFull
  unfold gather; exact .byParts

@[simp] theorem tidy_scatter (x) : Tidy (scatter x) := by
  have hrule := @tidy_runRows
  unfold scatter; exact .byParts

@[simp] theorem tidy_bcastRow (x) : Tidy (bcastRow x) := by unfold bcastRow; exact .byParts

@[simp] theorem tidy_bcastCol (x) : Tidy (bcastCol x) := by
  have hrule := @tidy_runFull
  unfold bcastCol; exact .byParts

@[simp] theorem tidy_bcastScalar (x) : Tidy (bcastScalar x) := by unfold bcastScalar; exact .byParts

@[simp] theorem tidy_moveTile (x) : Tidy (moveTile x) := by
  have hrule := @tidy_runFull
  unfold moveTile; exact .byParts

@[simp] theorem tidy_origin (b) : Tidy (origin b) := by unfold origin; exact .byParts

@[simp] theorem tidy_extract (x) : Tidy (extract x) := by
  have hrule := @tidy_runFull
  unfold extract; exact .byParts

@[simp] theorem tidy_insertTile (x) : Tidy (insertTile x) := by
  have hrule := @tidy_runRows
  unfold insertTile; exact .byParts

@[simp] theorem tidy_iota (x) : Tidy (iota x) := by unfold iota; exact .byParts
@[simp] theorem tidy_fill (x) : Tidy (fill x) := by unfold fill; exact .byParts

end Sys2Proof.Laws
end

section
/-! Every meaning is a program that keeps the canonical form, and every program of a step ends in a next state. -/
namespace Sys2Proof.Laws
open Sys2Proof.Machine
set_option Elab.async false

/-- The meaning of an instruction or event is a program's run, and the program keeps the canonical form. -/
theorem exec_tidy : ∀ (i : Instr) (s : State), ∃ x, Tidy x ∧ exec i s = runExec x s
  | .porstNDeassert, _ => ⟨_, tidy_porstDeassert, rfl⟩
  | .railEnWrite _ _, _ => ⟨_, tidy_admitted _ _ _ (tidy_railEnWrite ..), rfl⟩
  | .railPowerGood _, _ => ⟨_, tidy_railGood .., rfl⟩
  | .railFault _, _ => ⟨_, tidy_railFault .., rfl⟩
  | .rstCtlWrite _ _, _ => ⟨_, tidy_admitted _ _ _ (tidy_rstCtlWrite ..), rfl⟩
  | .d2dLinkTrained _, _ => ⟨_, tidy_d2dTrained .., rfl⟩
  | .clkCtlWrite _ _, _ => ⟨_, tidy_admitted _ _ _ (tidy_clkWrite ..), rfl⟩
  | .timebaseLock, _ => ⟨_, tidy_timebaseLock, rfl⟩
  | .dccTick, _ => ⟨_, tidy_dccTick, rfl⟩
  | .refclkLoss _, _ => ⟨_, tidy_refclkLoss .., rfl⟩
  | .dvfsCtlWrite _ _, _ => ⟨_, tidy_admitted _ _ _ (tidy_dvfsWrite ..), rfl⟩
  | .dvfsTransitionDone _, _ => ⟨_, tidy_transitionDone .., rfl⟩
  | .pcapCtlWrite _ _, _ => ⟨_, tidy_admitted _ _ _ (tidy_pcapWrite ..), rfl⟩
  | .powerSample _ _, _ => ⟨_, tidy_powerSample .., rfl⟩
  | .cycleSkipEnd, _ => ⟨_, tidy_skipEnd, rfl⟩
  | .cappingTick _, _ => ⟨_, tidy_cappingTick .., rfl⟩
  | .thmCfgWrite _ _, _ => ⟨_, tidy_admitted _ _ _ (tidy_thmWrite ..), rfl⟩
  | .thermalSample _ _, _ => ⟨_, tidy_thermalSample .., rfl⟩
  | .thermalActionEnd _, _ => ⟨_, tidy_thermalEnd .., rfl⟩
  | .hbmTrnGo _ _ _, _ => ⟨_, tidy_admitted _ _ _ .byParts, rfl⟩
  | .hbmPhyReset _ _ _, _ => ⟨_, tidy_admitted _ _ _ .byParts, rfl⟩
  | .hbmTrainingStepDone _ _ _, _ => ⟨_, tidy_hbmStepDone .., rfl⟩
  | .patrolScrub _ _, _ => ⟨_, tidy_patrolScrub .., rfl⟩
  | .optTrnGo _ _ _, _ => ⟨_, tidy_admitted _ _ _ .byParts, rfl⟩
  | .opticalTrainingStepDone _ _ _, _ => ⟨_, tidy_optStepDone .., rfl⟩
  | .d2dLinkDown _, _ => ⟨_, tidy_d2dDown .., rfl⟩
  | .portCtlEnWrite _ _ _, _ => ⟨_, tidy_portCtlWrite .., rfl⟩
  | .portDrained _, _ => ⟨_, tidy_portDrained .., rfl⟩
  | .portRetrainWrite _ _ _, _ => ⟨_, tidy_portCtlWrite .., rfl⟩
  | .portUnlock _ _ _, _ => ⟨_, tidy_portCtlWrite .., rfl⟩
  | .portSecretWrite _ _ _ _, _ => ⟨_, tidy_admitted _ _ _ .byParts, rfl⟩
  | .flitReceive _ _, _ => ⟨_, tidy_flitReceive .., rfl⟩
  | .nakReceive _ _, _ => ⟨_, .byParts, rfl⟩
  | .flitSend _, _ => ⟨_, tidy_flitSend .., rfl⟩
  | .replayTimeout _, _ => ⟨_, tidy_replayTimeout .., rfl⟩
  | .keepaliveTimeout _, _ => ⟨_, tidy_keepalive .., rfl⟩
  | .ackThreshold _, _ => ⟨_, tidy_ackThreshold .., rfl⟩
  | .sessionExhausted _, _ => ⟨_, tidy_sessionExhausted .., rfl⟩
  | .attestMessageReceive _ _, _ => ⟨_, .byParts, rfl⟩
  | .retrainTrigger _, _ => ⟨_, .byParts, rfl⟩
  | .retrainDone _ _ _, _ => ⟨_, tidy_retrainDone .., rfl⟩
  | .lsrSend _, _ => ⟨_, tidy_lsrSend .., rfl⟩
  | .lsrReceive _ _, _ => ⟨_, .byParts, rfl⟩
  | .lsrTimeout _, _ => ⟨_, .byParts, rfl⟩
  | .slotCfgWrite _ _ _, _ => ⟨_, tidy_admitted _ _ _ .byParts, rfl⟩
  | .rotationStart _, _ => ⟨_, tidy_rotationStart .., rfl⟩
  | .slotGuardEnd _, _ => ⟨_, tidy_slotGuardEnd .., rfl⟩
  | .slotWindowEnd _, _ => ⟨_, tidy_slotWindowEnd .., rfl⟩
  | .circuitTrained _ _ _, _ => ⟨_, tidy_circuitTrained .., rfl⟩
  | .routeWrite _ _ _, _ => ⟨_, tidy_admitted _ _ _ .byParts, rfl⟩
  | .rankTableConfigWrite _ _ _ _, _ => ⟨_, tidy_admitted _ _ _ .byParts, rfl⟩
  | .tsyncCtlWrite _ _, _ => ⟨_, tidy_admitted _ _ _ (tidy_tsyncCtl ..), rfl⟩
  | .tsyncPeriod, _ => ⟨_, tidy_tsyncPeriod, rfl⟩
  | .tsyncReceive _ _, _ => ⟨_, .byParts, rfl⟩
  | .remoteRequestReceive _, _ => ⟨_, tidy_arriveAs .., rfl⟩
  | .remoteResponseReceive _, _ => ⟨_, tidy_arriveAs .., rfl⟩
  | .holdTimeout _, _ => ⟨_, tidy_holdTimeout .., rfl⟩
  | .responseTimeout _, _ => ⟨_, tidy_responseTimeout .., rfl⟩
  | .flitCaddReceive _, _ => ⟨_, tidy_arriveAs .., rfl⟩
  | .chimReceive _, _ => ⟨_, tidy_arriveAs .., rfl⟩
  | .rsuspReceive _, _ => ⟨_, tidy_arriveAs .., rfl⟩
  | .rsackReceive _, _ => ⟨_, tidy_arriveAs .., rfl⟩
  | .rresumeReceive _, _ => ⟨_, tidy_arriveAs .., rfl⟩
  | .colltoExpiry _ _ _, _ => ⟨_, tidy_colltoExpiry .., rfl⟩
  | .rgnEntryWrite _ _ _, _ => ⟨_, tidy_admitted _ _ _ (tidy_rgnWrite ..), rfl⟩
  | .rgnSyncGo _ _, _ => ⟨_, tidy_admitted _ _ _ .byParts, rfl⟩
  | .rgnSyncDone, _ => ⟨_, tidy_rgnSyncDone, rfl⟩
  | .hostrdy, _ => ⟨_, tidy_hostrdy, rfl⟩
  | .reload, _ => ⟨_, .byParts, rfl⟩
  | .hostrdyTimeout, _ => ⟨_, tidy_hostrdyTimeout, rfl⟩
  | .measExtend _ _, _ => ⟨_, tidy_admitted _ _ _ (tidy_measCmd ..), rfl⟩
  | .spdmRequest _, _ => ⟨_, tidy_spdmRequest .., rfl⟩
  | .hostMemWrite _ _ _, _ => ⟨_, tidy_hostMemWrite .., rfl⟩
  | .hostMemRead _ _, _ => ⟨_, tidy_hostMemRead .., rfl⟩
  | .secondTierReadArrival _ _ _, _ => ⟨_, tidy_secondTier .., rfl⟩
  | .ringCtlWrite _ _ _, _ => ⟨_, tidy_admitted _ _ _ .byParts, rfl⟩
  | .ringRestart _ _ _, _ => ⟨_, tidy_admitted _ _ _ .byParts, rfl⟩
  | .ringBaseWrite _ _ _ _, _ => ⟨_, tidy_admitted _ _ _ .byParts, rfl⟩
  | .tailWriteCheck _, _ => ⟨_, tidy_tailCheck .., rfl⟩
  | .feQpushPush _ _ _, _ => ⟨_, tidy_feQpushBy .., rfl⟩
  | .feQpushStop _ _ _, _ => ⟨_, tidy_feQpushBy .., rfl⟩
  | .queueSpaceFreed _, _ => ⟨_, tidy_queueSpace .., rfl⟩
  | .cmdNop _ _, _ => ⟨_, tidy_dispatch _ _ _ fun _ => .byParts, rfl⟩
  | .cmdLaunchSlot _ _, _ => ⟨_, tidy_dispatch _ _ _ fun _ => tidy_launchSlot .., rfl⟩
  | .cmdGraphRun _ _, _ => ⟨_, tidy_dispatch _ _ _ fun _ => tidy_graphRun .., rfl⟩
  | .cmdCoach _ _, _ => ⟨_, tidy_firstOf _ (by simp), rfl⟩
  | .cmdCadd _ _, _ => ⟨_, tidy_dispatch _ _ _ fun _ => .byParts, rfl⟩
  | .cmdCwait _ _, _ => ⟨_, tidy_dispatch _ _ _ fun _ => .byParts, rfl⟩
  | .cmdSlotLoad _ _, _ => ⟨_, tidy_dispatch _ _ _ fun _ => tidy_slotLoad .., rfl⟩
  | .slotLoadDone _ _, _ => ⟨_, tidy_slotLoadDone .., rfl⟩
  | .cmdSlotEvict _ _, _ => ⟨_, tidy_dispatch _ _ _ fun _ => tidy_slotEvict .., rfl⟩
  | .slotEvictDone _ _, _ => ⟨_, tidy_slotEvictDone .., rfl⟩
  | .cmdMigrateFreeze _ _, _ => ⟨_, tidy_migrateFreeze .., rfl⟩
  | .cmdMigrateThaw _ _, _ => ⟨_, tidy_dispatch _ _ _ fun _ => .byParts, rfl⟩
  | .cmdQbar _ _, _ => ⟨_, tidy_dispatch _ _ _ fun _ => .byParts, rfl⟩
  | .cmdStamp _ _, _ => ⟨_, tidy_dispatch _ _ _ fun _ => .byParts, rfl⟩
  | .cmdWaitCancel _ _, _ => ⟨_, tidy_waitCancel .., rfl⟩
  | .completionPost _, _ => ⟨_, tidy_completionPost .., rfl⟩
  | .wdogCfgWrite _ _ _, _ => ⟨_, tidy_admitted _ _ _ .byParts, rfl⟩
  | .wdogKick _ _ _, _ => ⟨_, tidy_admitted _ _ _ .byParts, rfl⟩
  | .watchdogExpiry _, _ => ⟨_, tidy_wdogExpiry .., rfl⟩
  | .t2CfgWrite _ _, _ => ⟨_, tidy_admitted _ _ _ (tidy_t2Cfg ..), rfl⟩
  | .partCreate _ _ _, _ => ⟨_, tidy_admitted _ _ _ .byParts, rfl⟩
  | .partDestroy _ _ _, _ => ⟨_, tidy_admitted _ _ _ .byParts, rfl⟩
  | .partBusyDone _, _ => ⟨_, tidy_partBusyDone .., rfl⟩
  | .schedCfgWrite _ _ _, _ => ⟨_, tidy_admitted _ _ _ .byParts, rfl⟩
  | .graphCapture _, _ => ⟨_, tidy_graphCapture .., rfl⟩
  | .nodeTaskIssue _, _ => ⟨_, tidy_firstOf _ (by simp), rfl⟩
  | .nodeCoachIssue _, _ => ⟨_, tidy_nodeCoachIssue .., rfl⟩
  | .nodeQbarIssue _, _ => ⟨_, tidy_nodeQbarIssue .., rfl⟩
  | .nodeNopIssue _, _ => ⟨_, tidy_nodeNopIssue .., rfl⟩
  | .nodeCancel _, _ => ⟨_, tidy_firstOf _ (by simp), rfl⟩
  | .stepDrained _, _ => ⟨_, tidy_stepDrained .., rfl⟩
  | .sweepClose _, _ => ⟨_, tidy_sweepClose .., rfl⟩
  | .sweepReturn _, _ => ⟨_, tidy_sweepReturn .., rfl⟩
  | .taskStart _ _, _ => ⟨_, tidy_taskStart .., rfl⟩
  | .jobEnd _, _ => ⟨_, tidy_jobEnd .., rfl⟩
  | .taskEnd _ _, _ => ⟨_, tidy_taskEnd .., rfl⟩
  | .fatalContextError _ _ _, _ => ⟨_, tidy_fatalError .., rfl⟩
  | .quantumExpiry _, _ => ⟨_, tidy_quantumExpiry .., rfl⟩
  | .jobPreemptSave _, _ => ⟨_, tidy_preemptSave .., rfl⟩
  | .jobRestore _ _, _ => ⟨_, tidy_jobRestore .., rfl⟩
  | .residencyChange _, _ => ⟨_, tidy_residencyChange .., rfl⟩
  | .proxyPortAccess _ _ _, _ => ⟨_, tidy_proxyAccess .., rfl⟩
  | .psbDelivery _, _ => ⟨_, tidy_psbDelivery .., rfl⟩
  | .deadlockFault _, _ => ⟨_, tidy_deadlockFault .., rfl⟩
  | .shadowConfigWrite _ _ _ _, _ => ⟨_, tidy_admitted _ _ _ .byParts, rfl⟩
  | .ctxResume _ _ _, _ => ⟨_, tidy_admitted _ _ _ .byParts, rfl⟩
  | .ptRootWrite _ _ _, _ => ⟨_, tidy_admitted _ _ _ .byParts, rfl⟩
  | .invGo _ _ _, _ => ⟨_, tidy_admitted _ _ _ .byParts, rfl⟩
  | .invDone _, _ => ⟨_, tidy_invDone .., rfl⟩
  | .phaseWriteback _, _ => ⟨_, tidy_phaseWriteback .., rfl⟩
  | .waitSatisfied _ _, _ => ⟨_, tidy_waitSatisfied .., rfl⟩
  | .waitaReevaluate _, _ => ⟨_, tidy_waitaAgain .., rfl⟩
  | .timedIssue _ _, _ => ⟨_, tidy_timedIssue .., rfl⟩
  | .exposedPipelineStall _ _, _ => ⟨_, tidy_pipelineStall .., rfl⟩
  | .serviceEntry _ _ _, _ => ⟨_, tidy_serviceEntry .., rfl⟩
  | .serviceOpportunity _, _ => ⟨_, tidy_serviceOpportunity .., rfl⟩
  | .doubleFault _ _, _ => ⟨_, tidy_doubleFaultNow .., rfl⟩
  | .cartCommandStart _ _, _ => ⟨_, tidy_cartStart .., rfl⟩
  | .cartCommandComplete _ _ _, _ => ⟨_, tidy_cartComplete .., rfl⟩
  | .cartCommandFail _ _, _ => ⟨_, tidy_cartFail .., rfl⟩
  | .mfCommandComplete _ _ _, _ => ⟨_, tidy_mfComplete .., rfl⟩
  | .mfAsyncFault _ _ _, _ => ⟨_, tidy_mfAsyncFault .., rfl⟩
  | .pairRendezvous _, _ => ⟨_, tidy_pairRendezvous .., rfl⟩
  | .rldResponse _ _ _, _ => ⟨_, tidy_rldResponse .., rfl⟩
  | .coachStepIssue _ _ _, _ => ⟨_, tidy_coachStepIssue .., rfl⟩
  | .coachStepSignal _ _ _, _ => ⟨_, tidy_coachStepSignal .., rfl⟩
  | .coachPairFail _ _ _ _ _, _ => ⟨_, tidy_coachPairFail .., rfl⟩
  | .heldAddApply _, _ => ⟨_, tidy_heldApply .., rfl⟩
  | .heldAddExpiry _ _, _ => ⟨_, tidy_heldExpiry .., rfl⟩
  | .sealEffectPoint _, _ => ⟨_, tidy_sealEffect .., rfl⟩
  | .regWrite _ _ _, _ => ⟨_, tidy_regWriteEvent .., rfl⟩
  | .nop _, _ => ⟨_, tidy_runInstr _ _ (tidy_retire ..), rfl⟩
  | .add _, _ => ⟨_, tidy_runInstr _ _ (tidy_binary ..), rfl⟩
  | .sub _, _ => ⟨_, tidy_runInstr _ _ (tidy_binary ..), rfl⟩
  | .and _, _ => ⟨_, tidy_runInstr _ _ (tidy_binary ..), rfl⟩
  | .or _, _ => ⟨_, tidy_runInstr _ _ (tidy_binary ..), rfl⟩
  | .xor _, _ => ⟨_, tidy_runInstr _ _ (tidy_binary ..), rfl⟩
  | .andn _, _ => ⟨_, tidy_runInstr _ _ (tidy_binary ..), rfl⟩
  | .shl _, _ => ⟨_, tidy_runInstr _ _ (tidy_binary ..), rfl⟩
  | .shr _, _ => ⟨_, tidy_runInstr _ _ (tidy_binary ..), rfl⟩
  | .sar _, _ => ⟨_, tidy_runInstr _ _ (tidy_binary ..), rfl⟩
  | .rol _, _ => ⟨_, tidy_runInstr _ _ (tidy_binary ..), rfl⟩
  | .min _, _ => ⟨_, tidy_runInstr _ _ (tidy_binary ..), rfl⟩
  | .max _, _ => ⟨_, tidy_runInstr _ _ (tidy_binary ..), rfl⟩
  | .minu _, _ => ⟨_, tidy_runInstr _ _ (tidy_binary ..), rfl⟩
  | .maxu _, _ => ⟨_, tidy_runInstr _ _ (tidy_binary ..), rfl⟩
  | .mul _, _ => ⟨_, tidy_runInstr _ _ (tidy_binary ..), rfl⟩
  | .mulh _, _ => ⟨_, tidy_runInstr _ _ (tidy_binary ..), rfl⟩
  | .addi _, _ => ⟨_, tidy_runInstr _ _ (tidy_immediate ..), rfl⟩
  | .subi _, _ => ⟨_, tidy_runInstr _ _ (tidy_immediate ..), rfl⟩
  | .andi _, _ => ⟨_, tidy_runInstr _ _ (tidy_immediate ..), rfl⟩
  | .ori _, _ => ⟨_, tidy_runInstr _ _ (tidy_immediate ..), rfl⟩
  | .xori _, _ => ⟨_, tidy_runInstr _ _ (tidy_immediate ..), rfl⟩
  | .andni _, _ => ⟨_, tidy_runInstr _ _ (tidy_immediate ..), rfl⟩
  | .shli _, _ => ⟨_, tidy_runInstr _ _ (tidy_immediate ..), rfl⟩
  | .shri _, _ => ⟨_, tidy_runInstr _ _ (tidy_immediate ..), rfl⟩
  | .sari _, _ => ⟨_, tidy_runInstr _ _ (tidy_immediate ..), rfl⟩
  | .roli _, _ => ⟨_, tidy_runInstr _ _ (tidy_immediate ..), rfl⟩
  | .mini _, _ => ⟨_, tidy_runInstr _ _ (tidy_immediate ..), rfl⟩
  | .maxi _, _ => ⟨_, tidy_runInstr _ _ (tidy_immediate ..), rfl⟩
  | .minui _, _ => ⟨_, tidy_runInstr _ _ (tidy_immediate ..), rfl⟩
  | .maxui _, _ => ⟨_, tidy_runInstr _ _ (tidy_immediate ..), rfl⟩
  | .muli _, _ => ⟨_, tidy_runInstr _ _ (tidy_immediate ..), rfl⟩
  | .mulhi _, _ => ⟨_, tidy_runInstr _ _ (tidy_immediate ..), rfl⟩
  | .mulhu _, _ => ⟨_, tidy_runInstr _ _ (tidy_binary ..), rfl⟩
  | .div _, _ => ⟨_, tidy_runInstr _ _ (tidy_binary ..), rfl⟩
  | .divu _, _ => ⟨_, tidy_runInstr _ _ (tidy_binary ..), rfl⟩
  | .rem _, _ => ⟨_, tidy_runInstr _ _ (tidy_binary ..), rfl⟩
  | .remu _, _ => ⟨_, tidy_runInstr _ _ (tidy_binary ..), rfl⟩
  | .cmpEq _, _ => ⟨_, tidy_runInstr _ _ (tidy_binary ..), rfl⟩
  | .cmpNe _, _ => ⟨_, tidy_runInstr _ _ (tidy_binary ..), rfl⟩
  | .cmpLt _, _ => ⟨_, tidy_runInstr _ _ (tidy_binary ..), rfl⟩
  | .cmpLe _, _ => ⟨_, tidy_runInstr _ _ (tidy_binary ..), rfl⟩
  | .cmpLtu _, _ => ⟨_, tidy_runInstr _ _ (tidy_binary ..), rfl⟩
  | .cmpLeu _, _ => ⟨_, tidy_runInstr _ _ (tidy_binary ..), rfl⟩
  | .cmpGt _, _ => ⟨_, tidy_runInstr _ _ (tidy_binary ..), rfl⟩
  | .cmpGe _, _ => ⟨_, tidy_runInstr _ _ (tidy_binary ..), rfl⟩
  | .cmpGtu _, _ => ⟨_, tidy_runInstr _ _ (tidy_binary ..), rfl⟩
  | .cmpGeu _, _ => ⟨_, tidy_runInstr _ _ (tidy_binary ..), rfl⟩
  | .cmpiEq _, _ => ⟨_, tidy_runInstr _ _ (tidy_immediate ..), rfl⟩
  | .cmpiNe _, _ => ⟨_, tidy_runInstr _ _ (tidy_immediate ..), rfl⟩
  | .cmpiLt _, _ => ⟨_, tidy_runInstr _ _ (tidy_immediate ..), rfl⟩
  | .cmpiLe _, _ => ⟨_, tidy_runInstr _ _ (tidy_immediate ..), rfl⟩
  | .cmpiLtu _, _ => ⟨_, tidy_runInstr _ _ (tidy_immediate ..), rfl⟩
  | .cmpiLeu _, _ => ⟨_, tidy_runInstr _ _ (tidy_immediate ..), rfl⟩
  | .cmpiGt _, _ => ⟨_, tidy_runInstr _ _ (tidy_immediate ..), rfl⟩
  | .cmpiGe _, _ => ⟨_, tidy_runInstr _ _ (tidy_immediate ..), rfl⟩
  | .cmpiGtu _, _ => ⟨_, tidy_runInstr _ _ (tidy_immediate ..), rfl⟩
  | .cmpiGeu _, _ => ⟨_, tidy_runInstr _ _ (tidy_immediate ..), rfl⟩
  | .movi _, _ => ⟨_, tidy_runInstr _ _ (tidy_finish ..), rfl⟩
  | .movhi _, _ => ⟨_, tidy_runInstr _ _ (tidy_moveHigh ..), rfl⟩
  | .clz _, _ => ⟨_, tidy_runInstr _ _ (tidy_unary ..), rfl⟩
  | .ctz _, _ => ⟨_, tidy_runInstr _ _ (tidy_unary ..), rfl⟩
  | .popc _, _ => ⟨_, tidy_runInstr _ _ (tidy_unary ..), rfl⟩
  | .brev _, _ => ⟨_, tidy_runInstr _ _ (tidy_unary ..), rfl⟩
  | .bswap _, _ => ⟨_, tidy_runInstr _ _ (tidy_unary ..), rfl⟩
  | .sext8 _, _ => ⟨_, tidy_runInstr _ _ (tidy_unary ..), rfl⟩
  | .sext16 _, _ => ⟨_, tidy_runInstr _ _ (tidy_unary ..), rfl⟩
  | .sext32 _, _ => ⟨_, tidy_runInstr _ _ (tidy_unary ..), rfl⟩
  | .zext8 _, _ => ⟨_, tidy_runInstr _ _ (tidy_unary ..), rfl⟩
  | .zext16 _, _ => ⟨_, tidy_runInstr _ _ (tidy_unary ..), rfl⟩
  | .zext32 _, _ => ⟨_, tidy_runInstr _ _ (tidy_unary ..), rfl⟩
  | .shadd _, _ => ⟨_, tidy_runInstr _ _ (tidy_binary ..), rfl⟩
  | .alignup _, _ => ⟨_, tidy_runInstr _ _ (tidy_binary ..), rfl⟩
  | .aligndn _, _ => ⟨_, tidy_runInstr _ _ (tidy_binary ..), rfl⟩
  | .mzip _, _ => ⟨_, tidy_runInstr _ _ (tidy_binary ..), rfl⟩
  | .meven _, _ => ⟨_, tidy_runInstr _ _ (tidy_unary ..), rfl⟩
  | .modd _, _ => ⟨_, tidy_runInstr _ _ (tidy_unary ..), rfl⟩
  | .maddx _, _ => ⟨_, tidy_runInstr _ _ (tidy_binary ..), rfl⟩
  | .maddy _, _ => ⟨_, tidy_runInstr _ _ (tidy_binary ..), rfl⟩
  | .gand _, _ => ⟨_, tidy_runInstr _ _ (tidy_guards ..), rfl⟩
  | .gor _, _ => ⟨_, tidy_runInstr _ _ (tidy_guards ..), rfl⟩
  | .gxor _, _ => ⟨_, tidy_runInstr _ _ (tidy_guards ..), rfl⟩
  | .gandn _, _ => ⟨_, tidy_runInstr _ _ (tidy_guards ..), rfl⟩
  | .gset _, _ => ⟨_, tidy_runInstr _ _ (tidy_unary ..), rfl⟩
  | .gget _, _ => ⟨_, tidy_runInstr _ _ .byParts, rfl⟩
  | .mov _, _ => ⟨_, tidy_runInstr _ _ (tidy_unary ..), rfl⟩
  | .sel _, _ => ⟨_, tidy_runInstr _ _ (tidy_select ..), rfl⟩
  | .faddS _, _ => ⟨_, tidy_runInstr _ _ (tidy_fop2 ..), rfl⟩
  | .fsubS _, _ => ⟨_, tidy_runInstr _ _ (tidy_fop2 ..), rfl⟩
  | .fmulS _, _ => ⟨_, tidy_runInstr _ _ (tidy_fop2 ..), rfl⟩
  | .fdivS _, _ => ⟨_, tidy_runInstr _ _ (tidy_fop2 ..), rfl⟩
  | .fsqrtS _, _ => ⟨_, tidy_runInstr _ _ (tidy_fop1 ..), rfl⟩
  | .fminS _, _ => ⟨_, tidy_runInstr _ _ (tidy_fop2 ..), rfl⟩
  | .fmaxS _, _ => ⟨_, tidy_runInstr _ _ (tidy_fop2 ..), rfl⟩
  | .fmaS _, _ => ⟨_, tidy_runInstr _ _ (tidy_fop3 ..), rfl⟩
  | .fmsS _, _ => ⟨_, tidy_runInstr _ _ (tidy_fop3 ..), rfl⟩
  | .fnmaS _, _ => ⟨_, tidy_runInstr _ _ (tidy_fop3 ..), rfl⟩
  | .fabsS _, _ => ⟨_, tidy_runInstr _ _ (tidy_fop1 ..), rfl⟩
  | .fnegS _, _ => ⟨_, tidy_runInstr _ _ (tidy_fop1 ..), rfl⟩
  | .faddD _, _ => ⟨_, tidy_runInstr _ _ (tidy_fop2 ..), rfl⟩
  | .fsubD _, _ => ⟨_, tidy_runInstr _ _ (tidy_fop2 ..), rfl⟩
  | .fmulD _, _ => ⟨_, tidy_runInstr _ _ (tidy_fop2 ..), rfl⟩
  | .fdivD _, _ => ⟨_, tidy_runInstr _ _ (tidy_fop2 ..), rfl⟩
  | .fsqrtD _, _ => ⟨_, tidy_runInstr _ _ (tidy_fop1 ..), rfl⟩
  | .fminD _, _ => ⟨_, tidy_runInstr _ _ (tidy_fop2 ..), rfl⟩
  | .fmaxD _, _ => ⟨_, tidy_runInstr _ _ (tidy_fop2 ..), rfl⟩
  | .fmaD _, _ => ⟨_, tidy_runInstr _ _ (tidy_fop3 ..), rfl⟩
  | .fmsD _, _ => ⟨_, tidy_runInstr _ _ (tidy_fop3 ..), rfl⟩
  | .fnmaD _, _ => ⟨_, tidy_runInstr _ _ (tidy_fop3 ..), rfl⟩
  | .fabsD _, _ => ⟨_, tidy_runInstr _ _ (tidy_fop1 ..), rfl⟩
  | .fnegD _, _ => ⟨_, tidy_runInstr _ _ (tidy_fop1 ..), rfl⟩
  | .fcmpEq _, _ => ⟨_, tidy_runInstr _ _ (tidy_fcompare ..), rfl⟩
  | .fcmpLt _, _ => ⟨_, tidy_runInstr _ _ (tidy_fcompare ..), rfl⟩
  | .fcmpLe _, _ => ⟨_, tidy_runInstr _ _ (tidy_fcompare ..), rfl⟩
  | .fcmpUn _, _ => ⟨_, tidy_runInstr _ _ (tidy_fcompare ..), rfl⟩
  | .fcvtSD _, _ => ⟨_, tidy_runInstr _ _ (tidy_fconvert ..), rfl⟩
  | .fcvtDS _, _ => ⟨_, tidy_runInstr _ _ (tidy_fconvert ..), rfl⟩
  | .fcvtSL _, _ => ⟨_, tidy_runInstr _ _ (tidy_fconvert ..), rfl⟩
  | .fcvtDL _, _ => ⟨_, tidy_runInstr _ _ (tidy_fconvert ..), rfl⟩
  | .fcvtSLu _, _ => ⟨_, tidy_runInstr _ _ (tidy_fconvert ..), rfl⟩
  | .fcvtDLu _, _ => ⟨_, tidy_runInstr _ _ (tidy_fconvert ..), rfl⟩
  | .fcvtLS _, _ => ⟨_, tidy_runInstr _ _ (tidy_fconvert ..), rfl⟩
  | .fcvtLD _, _ => ⟨_, tidy_runInstr _ _ (tidy_fconvert ..), rfl⟩
  | .fcvtLuS _, _ => ⟨_, tidy_runInstr _ _ (tidy_fconvert ..), rfl⟩
  | .fcvtLuD _, _ => ⟨_, tidy_runInstr _ _ (tidy_fconvert ..), rfl⟩
  | .fcvtBS _, _ => ⟨_, tidy_runInstr _ _ (tidy_fconvert ..), rfl⟩
  | .fcvtHS _, _ => ⟨_, tidy_runInstr _ _ (tidy_fconvert ..), rfl⟩
  | .fcvtSB _, _ => ⟨_, tidy_runInstr _ _ (tidy_fconvert ..), rfl⟩
  | .fcvtSH _, _ => ⟨_, tidy_runInstr _ _ (tidy_fconvert ..), rfl⟩
  | .ldB _, _ => ⟨_, tidy_runInstr _ _ (tidy_load ..), rfl⟩
  | .ldBu _, _ => ⟨_, tidy_runInstr _ _ (tidy_load ..), rfl⟩
  | .ldH _, _ => ⟨_, tidy_runInstr _ _ (tidy_load ..), rfl⟩
  | .ldHu _, _ => ⟨_, tidy_runInstr _ _ (tidy_load ..), rfl⟩
  | .ldW _, _ => ⟨_, tidy_runInstr _ _ (tidy_load ..), rfl⟩
  | .ldWu _, _ => ⟨_, tidy_runInstr _ _ (tidy_load ..), rfl⟩
  | .ldD _, _ => ⟨_, tidy_runInstr _ _ (tidy_load ..), rfl⟩
  | .stB _, _ => ⟨_, tidy_runInstr _ _ (tidy_store ..), rfl⟩
  | .stH _, _ => ⟨_, tidy_runInstr _ _ (tidy_store ..), rfl⟩
  | .stW _, _ => ⟨_, tidy_runInstr _ _ (tidy_store ..), rfl⟩
  | .stD _, _ => ⟨_, tidy_runInstr _ _ (tidy_store ..), rfl⟩
  | .ldspB _, _ => ⟨_, tidy_runInstr _ _ (tidy_loadSp ..), rfl⟩
  | .ldspBu _, _ => ⟨_, tidy_runInstr _ _ (tidy_loadSp ..), rfl⟩
  | .ldspH _, _ => ⟨_, tidy_runInstr _ _ (tidy_loadSp ..), rfl⟩
  | .ldspHu _, _ => ⟨_, tidy_runInstr _ _ (tidy_loadSp ..), rfl⟩
  | .ldspW _, _ => ⟨_, tidy_runInstr _ _ (tidy_loadSp ..), rfl⟩
  | .ldspWu _, _ => ⟨_, tidy_runInstr _ _ (tidy_loadSp ..), rfl⟩
  | .ldspD _, _ => ⟨_, tidy_runInstr _ _ (tidy_loadSp ..), rfl⟩
  | .stspB _, _ => ⟨_, tidy_runInstr _ _ (tidy_storeSp ..), rfl⟩
  | .stspH _, _ => ⟨_, tidy_runInstr _ _ (tidy_storeSp ..), rfl⟩
  | .stspW _, _ => ⟨_, tidy_runInstr _ _ (tidy_storeSp ..), rfl⟩
  | .stspD _, _ => ⟨_, tidy_runInstr _ _ (tidy_storeSp ..), rfl⟩
  | .rldB _, _ => ⟨_, tidy_runInstr _ _ (tidy_remoteLoad ..), rfl⟩
  | .rldBu _, _ => ⟨_, tidy_runInstr _ _ (tidy_remoteLoad ..), rfl⟩
  | .rldH _, _ => ⟨_, tidy_runInstr _ _ (tidy_remoteLoad ..), rfl⟩
  | .rldHu _, _ => ⟨_, tidy_runInstr _ _ (tidy_remoteLoad ..), rfl⟩
  | .rldW _, _ => ⟨_, tidy_runInstr _ _ (tidy_remoteLoad ..), rfl⟩
  | .rldWu _, _ => ⟨_, tidy_runInstr _ _ (tidy_remoteLoad ..), rfl⟩
  | .rldD _, _ => ⟨_, tidy_runInstr _ _ (tidy_remoteLoad ..), rfl⟩
  | .atomAdd _, _ => ⟨_, tidy_runInstr _ _ (tidy_atomic ..), rfl⟩
  | .atomAnd _, _ => ⟨_, tidy_runInstr _ _ (tidy_atomic ..), rfl⟩
  | .atomOr _, _ => ⟨_, tidy_runInstr _ _ (tidy_atomic ..), rfl⟩
  | .atomXor _, _ => ⟨_, tidy_runInstr _ _ (tidy_atomic ..), rfl⟩
  | .atomMin _, _ => ⟨_, tidy_runInstr _ _ (tidy_atomic ..), rfl⟩
  | .atomMax _, _ => ⟨_, tidy_runInstr _ _ (tidy_atomic ..), rfl⟩
  | .atomMinu _, _ => ⟨_, tidy_runInstr _ _ (tidy_atomic ..), rfl⟩
  | .atomMaxu _, _ => ⟨_, tidy_runInstr _ _ (tidy_atomic ..), rfl⟩
  | .atomSwap _, _ => ⟨_, tidy_runInstr _ _ (tidy_atomic ..), rfl⟩
  | .atomCas _, _ => ⟨_, tidy_runInstr _ _ (tidy_atomic ..), rfl⟩
  | .br _, _ => ⟨_, tidy_runInstr _ _ (tidy_branch ..), rfl⟩
  | .call _, _ => ⟨_, tidy_runInstr _ _ (tidy_callTo ..), rfl⟩
  | .jr _, _ => ⟨_, tidy_runInstr _ _ (tidy_jumpReg ..), rfl⟩
  | .loop _, _ => ⟨_, tidy_runInstr _ _ (tidy_loopTo ..), rfl⟩
  | .beos _, _ => ⟨_, tidy_runInstr _ _ (tidy_branchEos ..), rfl⟩
  | .join _, _ => ⟨_, tidy_runInstr _ _ tidy_joinStream, rfl⟩
  | .halt _, _ => ⟨_, tidy_runInstr _ _ (tidy_haltWith ..), rfl⟩
  | .yield _, _ => ⟨_, tidy_runInstr _ _ tidy_yieldTo, rfl⟩
  | .svc _, _ => ⟨_, tidy_runInstr _ _ (tidy_superCall ..), rfl⟩
  | .eret _, _ => ⟨_, tidy_runInstr _ _ (tidy_serviceReturn ..), rfl⟩
  | .cadd _, _ => ⟨_, tidy_runInstr _ _ (tidy_caddReg ..), rfl⟩
  | .caddi _, _ => ⟨_, tidy_runInstr _ _ (tidy_addCoreCounter ..), rfl⟩
  | .cwait _, _ => ⟨_, tidy_runInstr _ _ (tidy_waitCounter ..), rfl⟩
  | .crd _, _ => ⟨_, tidy_runInstr _ _ (tidy_readCounter ..), rfl⟩
  | .cinit _, _ => ⟨_, tidy_runInstr _ _ (tidy_initCounter ..), rfl⟩
  | .caddM _, _ => ⟨_, tidy_runInstr _ _ (tidy_addMemCounter ..), rfl⟩
  | .cwaitM _, _ => ⟨_, tidy_runInstr _ _ (tidy_waitMemCounter ..), rfl⟩
  | .waita _, _ => ⟨_, tidy_runInstr _ _ (tidy_waitWord ..), rfl⟩
  | .fenceRel _, _ => ⟨_, tidy_runInstr _ _ (tidy_fence ..), rfl⟩
  | .fenceAcq _, _ => ⟨_, tidy_runInstr _ _ (tidy_fence ..), rfl⟩
  | .fenceAr _, _ => ⟨_, tidy_runInstr _ _ (tidy_fence ..), rfl⟩
  | .sealRange _, _ => ⟨_, tidy_runInstr _ _ (tidy_sealRange ..), rfl⟩
  | .unsealRange _, _ => ⟨_, tidy_runInstr _ _ (tidy_sealRange ..), rfl⟩
  | .qbar _, _ => ⟨_, tidy_runInstr _ _ tidy_qbarHere, rfl⟩
  | .dqpush _, _ => ⟨_, tidy_runInstr _ _ (tidy_dequePush ..), rfl⟩
  | .dqpop _, _ => ⟨_, tidy_runInstr _ _ (tidy_dequePop ..), rfl⟩
  | .dqsteal _, _ => ⟨_, tidy_runInstr _ _ (tidy_dequeSteal ..), rfl⟩
  | .dqlen _, _ => ⟨_, tidy_runInstr _ _ (tidy_dequeLength ..), rfl⟩
  | .launch _, _ => ⟨_, tidy_runInstr _ _ (tidy_launchBlock ..), rfl⟩
  | .launchT _, _ => ⟨_, tidy_runInstr _ _ (tidy_launchBlock ..), rfl⟩
  | .xpose _, _ => ⟨_, tidy_runInstr _ _ (tidy_launchBlock ..), rfl⟩
  | .csrr _, _ => ⟨_, tidy_runInstr _ _ (tidy_csrGet ..), rfl⟩
  | .csrw _, _ => ⟨_, tidy_runInstr _ _ (tidy_csrSwap ..), rfl⟩
  | .csrs _, _ => ⟨_, tidy_runInstr _ _ (tidy_csrSwap ..), rfl⟩
  | .csrc _, _ => ⟨_, tidy_runInstr _ _ (tidy_csrSwap ..), rfl⟩
  | .rprobe _, _ => ⟨_, tidy_runInstr _ _ (tidy_probe ..), rfl⟩
  | .rttld _, _ => ⟨_, tidy_runInstr _ _ (tidy_loadRtt ..), rfl⟩
  | .pbind _, _ => ⟨_, tidy_runInstr _ _ (tidy_bindPort ..), rfl⟩
  | .punbind _, _ => ⟨_, tidy_runInstr _ _ (tidy_unbindPort ..), rfl⟩
  | .ppos _, _ => ⟨_, tidy_runInstr _ _ (tidy_portPos ..), rfl⟩
  | .tcfg _, _ => ⟨_, tidy_runInstr _ _ (tidy_configure ..), rfl⟩
  | .tcfgZ _, _ => ⟨_, tidy_runInstr _ _ (tidy_configure ..), rfl⟩
  | .tval _, _ => ⟨_, tidy_runInstr _ _ (tidy_setValid ..), rfl⟩
  | .tdesc _, _ => ⟨_, tidy_runInstr _ _ (tidy_readDesc ..), rfl⟩
  | .tld _, _ => ⟨_, tidy_runInstr _ _ (tidy_loadTile ..), rfl⟩
  | .tst _, _ => ⟨_, tidy_runInstr _ _ (tidy_storeTile ..), rfl⟩
  | .tadd _, _ => ⟨_, tidy_runInstr _ _ (tidy_tileBin ..), rfl⟩
  | .tsub _, _ => ⟨_, tidy_runInstr _ _ (tidy_tileBin ..), rfl⟩
  | .tmul _, _ => ⟨_, tidy_runInstr _ _ (tidy_tileBin ..), rfl⟩
  | .tdiv _, _ => ⟨_, tidy_runInstr _ _ (tidy_tileBin ..), rfl⟩
  | .tmin _, _ => ⟨_, tidy_runInstr _ _ (tidy_tileBin ..), rfl⟩
  | .tmax _, _ => ⟨_, tidy_runInstr _ _ (tidy_tileBin ..), rfl⟩
  | .tand _, _ => ⟨_, tidy_runInstr _ _ (tidy_tileBin ..), rfl⟩
  | .tor _, _ => ⟨_, tidy_runInstr _ _ (tidy_tileBin ..), rfl⟩
  | .txor _, _ => ⟨_, tidy_runInstr _ _ (tidy_tileBin ..), rfl⟩
  | .tshl _, _ => ⟨_, tidy_runInstr _ _ (tidy_tileBin ..), rfl⟩
  | .tshr _, _ => ⟨_, tidy_runInstr _ _ (tidy_tileBin ..), rfl⟩
  | .tabsd _, _ => ⟨_, tidy_runInstr _ _ (tidy_tileBin ..), rfl⟩
  | .tfma _, _ => ⟨_, tidy_runInstr _ _ (tidy_tileTri ..), rfl⟩
  | .tfms _, _ => ⟨_, tidy_runInstr _ _ (tidy_tileTri ..), rfl⟩
  | .tfnma _, _ => ⟨_, tidy_runInstr _ _ (tidy_tileTri ..), rfl⟩
  | .tsel _, _ => ⟨_, tidy_runInstr _ _ (tidy_tileSel ..), rfl⟩
  | .tabs _, _ => ⟨_, tidy_runInstr _ _ (tidy_tileUna ..), rfl⟩
  | .tneg _, _ => ⟨_, tidy_runInstr _ _ (tidy_tileUna ..), rfl⟩
  | .tsqrt _, _ => ⟨_, tidy_runInstr _ _ (tidy_tileUna ..), rfl⟩
  | .trcp _, _ => ⟨_, tidy_runInstr _ _ (tidy_tileUna ..), rfl⟩
  | .trsq _, _ => ⟨_, tidy_runInstr _ _ (tidy_tileUna ..), rfl⟩
  | .texp2 _, _ => ⟨_, tidy_runInstr _ _ (tidy_tileUna ..), rfl⟩
  | .texp _, _ => ⟨_, tidy_runInstr _ _ (tidy_tileUna ..), rfl⟩
  | .tlog2 _, _ => ⟨_, tidy_runInstr _ _ (tidy_tileUna ..), rfl⟩
  | .tln _, _ => ⟨_, tidy_runInstr _ _ (tidy_tileUna ..), rfl⟩
  | .tsin _, _ => ⟨_, tidy_runInstr _ _ (tidy_tileUna ..), rfl⟩
  | .tcos _, _ => ⟨_, tidy_runInstr _ _ (tidy_tileUna ..), rfl⟩
  | .ttanh _, _ => ⟨_, tidy_runInstr _ _ (tidy_tileUna ..), rfl⟩
  | .tsigm _, _ => ⟨_, tidy_runInstr _ _ (tidy_tileUna ..), rfl⟩
  | .tcmpEq _, _ => ⟨_, tidy_runInstr _ _ (tidy_tileCmp ..), rfl⟩
  | .tcmpNe _, _ => ⟨_, tidy_runInstr _ _ (tidy_tileCmp ..), rfl⟩
  | .tcmpLt _, _ => ⟨_, tidy_runInstr _ _ (tidy_tileCmp ..), rfl⟩
  | .tcmpLe _, _ => ⟨_, tidy_runInstr _ _ (tidy_tileCmp ..), rfl⟩
  | .tcmpGt _, _ => ⟨_, tidy_runInstr _ _ (tidy_tileCmp ..), rfl⟩
  | .tcmpGe _, _ => ⟨_, tidy_runInstr _ _ (tidy_tileCmp ..), rfl⟩
  | .tcmpUn _, _ => ⟨_, tidy_runInstr _ _ (tidy_tileCmp ..), rfl⟩
  | .tcmul _, _ => ⟨_, tidy_runInstr _ _ (tidy_tileCpx ..), rfl⟩
  | .tconj _, _ => ⟨_, tidy_runInstr _ _ (tidy_tileConj ..), rfl⟩
  | .tcmulc _, _ => ⟨_, tidy_runInstr _ _ (tidy_tileCpx ..), rfl⟩
  | .tcvt _, _ => ⟨_, tidy_runInstr _ _ (tidy_tileCvt ..), rfl⟩
  | .tcvtSc _, _ => ⟨_, tidy_runInstr _ _ (tidy_tileScale ..), rfl⟩
  | .tdq _, _ => ⟨_, tidy_runInstr _ _ (tidy_tileScale ..), rfl⟩
  | .trsum _, _ => ⟨_, tidy_runInstr _ _ (tidy_tileRows ..), rfl⟩
  | .trmax _, _ => ⟨_, tidy_runInstr _ _ (tidy_tileRows ..), rfl⟩
  | .trmin _, _ => ⟨_, tidy_runInstr _ _ (tidy_tileRows ..), rfl⟩
  | .tcsum _, _ => ⟨_, tidy_runInstr _ _ (tidy_tileCols ..), rfl⟩
  | .tcmax _, _ => ⟨_, tidy_runInstr _ _ (tidy_tileCols ..), rfl⟩
  | .tcmin _, _ => ⟨_, tidy_runInstr _ _ (tidy_tileCols ..), rfl⟩
  | .tscanAdd _, _ => ⟨_, tidy_runInstr _ _ (tidy_tileScan ..), rfl⟩
  | .tscanMax _, _ => ⟨_, tidy_runInstr _ _ (tidy_tileScan ..), rfl⟩
  | .ttrn _, _ => ⟨_, tidy_runInstr _ _ (tidy_transpose ..), rfl⟩
  | .tperm _, _ => ⟨_, tidy_runInstr _ _ (tidy_permute ..), rfl⟩
  | .tshuf _, _ => ⟨_, tidy_runInstr _ _ (tidy_shuffle ..), rfl⟩
  | .tgath _, _ => ⟨_, tidy_runInstr _ _ (tidy_gather ..), rfl⟩
  | .tscat _, _ => ⟨_, tidy_runInstr _ _ (tidy_scatter ..), rfl⟩
  | .tbcr _, _ => ⟨_, tidy_runInstr _ _ (tidy_bcastRow ..), rfl⟩
  | .tbcc _, _ => ⟨_, tidy_runInstr _ _ (tidy_bcastCol ..), rfl⟩
  | .tbcs _, _ => ⟨_, tidy_runInstr _ _ (tidy_bcastScalar ..), rfl⟩
  | .tmov _, _ => ⟨_, tidy_runInstr _ _ (tidy_moveTile ..), rfl⟩
  | .text _, _ => ⟨_, tidy_runInstr _ _ (tidy_extract ..), rfl⟩
  | .tins _, _ => ⟨_, tidy_runInstr _ _ (tidy_insertTile ..), rfl⟩
  | .tiota _, _ => ⟨_, tidy_runInstr _ _ (tidy_iota ..), rfl⟩
  | .tfill _, _ => ⟨_, tidy_runInstr _ _ (tidy_fill ..), rfl⟩
  | .mmaFp8 _, _ => ⟨_, tidy_runInstr _ _ (tidy_issueMma ..), rfl⟩
  | .mmaFp6 _, _ => ⟨_, tidy_runInstr _ _ (tidy_issueMma ..), rfl⟩
  | .mmaFp4 _, _ => ⟨_, tidy_runInstr _ _ (tidy_issueMma ..), rfl⟩
  | .mmaBf16 _, _ => ⟨_, tidy_runInstr _ _ (tidy_issueMma ..), rfl⟩
  | .mmaFp16 _, _ => ⟨_, tidy_runInstr _ _ (tidy_issueMma ..), rfl⟩
  | .mmaFp32 _, _ => ⟨_, tidy_runInstr _ _ (tidy_issueMma ..), rfl⟩
  | .mmaFp64 _, _ => ⟨_, tidy_runInstr _ _ (tidy_issueMma ..), rfl⟩
  | .mmaInt8 _, _ => ⟨_, tidy_runInstr _ _ (tidy_issueMma ..), rfl⟩
  | .accld _, _ => ⟨_, tidy_runInstr _ _ (tidy_issueAccld ..), rfl⟩
  | .accst _, _ => ⟨_, tidy_runInstr _ _ (tidy_issueAccst ..), rfl⟩
  | .accclr _, _ => ⟨_, tidy_runInstr _ _ (tidy_issueAccclr ..), rfl⟩
  | .accstg _, _ => ⟨_, tidy_runInstr _ _ (tidy_issueAccstg ..), rfl⟩
  | .fft _, _ => ⟨_, tidy_runInstr _ _ (tidy_issueFft ..), rfl⟩
  | .ifft _, _ => ⟨_, tidy_runInstr _ _ (tidy_issueFft ..), rfl⟩
  | .rfft _, _ => ⟨_, tidy_runInstr _ _ (tidy_issueRfft ..), rfl⟩
  | .irfft _, _ => ⟨_, tidy_runInstr _ _ (tidy_issueRfft ..), rfl⟩
  | .fplan _, _ => ⟨_, tidy_runInstr _ _ (tidy_issueFplan ..), rfl⟩
  | .leggen _, _ => ⟨_, tidy_runInstr _ _ (tidy_issueLeggen ..), rfl⟩
  | .ftwm _, _ => ⟨_, tidy_runInstr _ _ (tidy_issueFtwm ..), rfl⟩
  | .ccopy _, _ => ⟨_, tidy_runInstr _ _ (tidy_issueCart ..), rfl⟩
  | .cmort _, _ => ⟨_, tidy_runInstr _ _ (tidy_issueCart ..), rfl⟩
  | .cgath _, _ => ⟨_, tidy_runInstr _ _ (tidy_issueCart ..), rfl⟩
  | .cscat _, _ => ⟨_, tidy_runInstr _ _ (tidy_issueCart ..), rfl⟩
  | .cred _, _ => ⟨_, tidy_runInstr _ _ (tidy_issueCart ..), rfl⟩
  | .ired _, _ => ⟨_, tidy_runInstr _ _ (tidy_issueCart ..), rfl⟩
  | .atomnAdd _, _ => ⟨_, tidy_runInstr _ _ (tidy_issueCart ..), rfl⟩
  | .atomnAnd _, _ => ⟨_, tidy_runInstr _ _ (tidy_issueCart ..), rfl⟩
  | .atomnOr _, _ => ⟨_, tidy_runInstr _ _ (tidy_issueCart ..), rfl⟩
  | .atomnXor _, _ => ⟨_, tidy_runInstr _ _ (tidy_issueCart ..), rfl⟩
  | .atomnMin _, _ => ⟨_, tidy_runInstr _ _ (tidy_issueCart ..), rfl⟩
  | .atomnMax _, _ => ⟨_, tidy_runInstr _ _ (tidy_issueCart ..), rfl⟩
  | .atomnMinu _, _ => ⟨_, tidy_runInstr _ _ (tidy_issueCart ..), rfl⟩
  | .atomnMaxu _, _ => ⟨_, tidy_runInstr _ _ (tidy_issueCart ..), rfl⟩
  | .atomnSwap _, _ => ⟨_, tidy_runInstr _ _ (tidy_issueCart ..), rfl⟩
  | .put _, _ => ⟨_, tidy_runInstr _ _ (tidy_issueCart ..), rfl⟩
  | .get _, _ => ⟨_, tidy_runInstr _ _ (tidy_issueCart ..), rfl⟩
  | .porstNAssert, _ => ⟨_, tidy_porstAssert, rfl⟩
  | .vauxLoss, _ => ⟨_, .modify fun _ h => h.afterPowerLoss, rfl⟩
  | .writeAccepted _, _ => ⟨_, tidy_writeAccepted .., rfl⟩
  | .bootWindowWrite _ _, _ => ⟨_, tidy_bootWindow .., rfl⟩
  | .unassignedOpcode _, _ => ⟨_, tidy_unassigned .., rfl⟩

theorem exec_next (i : Instr) (s : State) : ∃ t, exec i s = .next t := by
  obtain ⟨x, -, h⟩ := exec_tidy i s
  rw [h]
  exact runExec_next x s

/-- Settles O11: every meaning is a program's run, and both ways a program ends answer a next state. -/
theorem everyMeaningAnswers : Obligations.EveryMeaningAnswers := exec_next

namespace Canonical

variable {s t : State}

theorem exec {i : Instr} (h : Canonical s) (e : exec i s = .next t) : Canonical t := by
  obtain ⟨x, hx, hi⟩ := exec_tidy i s
  exact keeps_run hx.keeps h (hi ▸ e)

theorem fetched (h : Canonical s) (a : Agent) : Ends Canonical (s.fetched a) := by
  unfold State.fetched
  split
  · exact tidy_fetch.keeps _ h.same
  · exact h

theorem issue {a : Agent} (h : Canonical s) (e : issue a s = .next t) : Canonical t := by
  have hfetch := h.fetched a
  unfold Machine.issue at e
  cases hr : s.fetched a with
  | error f u =>
    rw [hr] at e hfetch
    cases e
    exact hfetch
  | ok ws u =>
    rw [hr] at e hfetch
    exact Canonical.exec hfetch e

theorem takeTurn {τ : Turn} (h : Canonical s) (e : takeTurn τ s = .next t) : Canonical t := by
  unfold Machine.takeTurn at e
  split at e
  · split at e
    · exact h.exec e
    · cases e
      exact h
  · split at e
    · exact h.issue e
    · cases e

theorem step (h : Canonical s) (e : step s = .next t) : Canonical t := by
  unfold Machine.step at e
  split at e
  · exact Canonical.takeTurn h.same e
  · split at e
    · cases e
      exact h
    · exact Canonical.issue h.same e

end Canonical

/-- Settles O59: a step is the fetch and the meaning of one instruction, or the meaning of one event, and each of these programs keeps
the form. -/
theorem stepKeepsCanonical : Obligations.StepKeepsCanonical :=
  fun _ _ h e => canonical_iff.2 ((canonical_iff.1 h).step e)

end Sys2Proof.Laws
end

section
/-! What reset leaves (O58): the reset value of a register by its block. -/
namespace Sys2Proof.Laws
open Sys2Proof.Machine

/-! Which table holds a register: one block of offsets per table. -/

theorem regSpec_hbm {r n k : Nat} (hn : n < 16) (hk : k < 0x1000) (h8 : k % 8 = 0) (hr : r = 0x01100000 + 0x1000 * n + k) :
    regSpec r = hbmSpec k := by
  have hmod : r % 0x1000 = k := by omega
  unfold regSpec
  simp (disch := omega) only [if_neg, if_pos, hmod]

theorem regSpec_opt {r p k : Nat} (hp : p < 36) (hk : k < 0x1000) (h8 : k % 8 = 0) (hr : r = 0x01200000 + 0x1000 * p + k) :
    regSpec r = optSpec k := by
  have hmod : r % 0x1000 = k := by omega
  unfold regSpec
  simp (disch := omega) only [if_neg, if_pos, hmod]

theorem regSpec_link {r p k : Nat} (hp : p < 36) (hk : k < 0x1000) (h8 : k % 8 = 0) (hr : r = 0x01400000 + 0x1000 * p + k) :
    regSpec r = linkSpec k := by
  have hmod : r % 0x1000 = k := by omega
  unfold regSpec
  simp (disch := omega) only [if_neg, if_pos, hmod]

theorem regSpec_fab {r k : Nat} (hk : k < 0x4000) (h8 : k % 8 = 0) (hr : r = 0x01800000 + k) : regSpec r = fabSpec k := by
  have hsub : r - 0x01800000 = k := by omega
  unfold regSpec
  simp (disch := omega) only [if_neg, if_pos, hsub]

theorem regSpec_fe {r f k : Nat} (hf : f < 8) (hk : k < 0x1000) (h8 : k % 8 = 0) (hr : r = 0x03000000 + 0x1000 * f + k) :
    regSpec r = feSpec k := by
  have hmod : r % 0x1000 = k := by omega
  unfold regSpec
  simp (disch := omega) only [if_neg, if_pos, hmod]

theorem regSpec_seq {r k o : Nat} (hk : k < 8) (ho : o < 0x1000) (h8 : o % 8 = 0) (hr : r = 0x05000000 + 0x1000 * k + o) :
    regSpec r = seqSpec o := by
  have hmod : r % 0x1000 = o := by omega
  unfold regSpec
  simp (disch := omega) only [if_neg, if_pos, hmod]

/-! Reset values. -/

theorem reg_reset (o : Nat) : State.reset.reg o = regReset o := rfl

theorem reg_reset_of {o : Nat} {x : RegSpec} (h : regSpec o = some x) : State.reset.reg o = BitVec.ofNat 64 x.reset := by
  rw [reg_reset, regReset, h]

theorem hbm_reset {n : Nat} (hn : n < 16) :
    State.reset.reg (Reg.hbmTrn n) = 2#64 ∧ State.reset.reg (Reg.hbmTstat n) = 0#64 ∧ State.reset.reg (Reg.hbmRef n) = 0x1800#64 :=
  ⟨reg_reset_of (regSpec_hbm (k := 0) hn (by omega) rfl (by unfold Reg.hbmTrn; omega)),
   reg_reset_of (regSpec_hbm (k := 8) hn (by omega) rfl (by unfold Reg.hbmTstat; omega)),
   reg_reset_of (regSpec_hbm (k := 16) hn (by omega) rfl (by unfold Reg.hbmRef; omega))⟩

theorem port_reset {p : Nat} (hp : p < 36) :
    State.reset.reg (Reg.optTrn p) = 0xFF0000#64 ∧ State.reset.reg (Reg.portCtl p) = 1#64 ∧ State.reset.portState p = 0 ∧
    State.reset.reg (Reg.linkErr p) = 0#64 := by
  have hstat := reg_reset_of (regSpec_link (r := Reg.portStat p) (k := 8) hp (by omega) rfl (by unfold Reg.portStat; omega))
  refine ⟨reg_reset_of (regSpec_opt (k := 0) hp (by omega) rfl (by unfold Reg.optTrn; omega)),
   reg_reset_of (regSpec_link (k := 0) hp (by omega) rfl (by unfold Reg.portCtl; omega)), ?_,
   reg_reset_of (regSpec_link (k := 16) hp (by omega) rfl (by unfold Reg.linkErr; omega))⟩
  rw [State.portState, State.field, hstat]
  rfl

theorem route_reset {n : Nat} (hn : n < 1024) : State.reset.reg (Reg.route n) = 0x3F#64 :=
  reg_reset_of ((regSpec_fab (k := 8 * n) (by omega) (by omega) rfl).trans (if_pos (by omega)))

theorem frontEnd_reset {f : Nat} (hf : f < 8) :
    State.reset.reg (Reg.ringCtl f) = 0#64 ∧ State.reset.ringState f = 0 ∧ State.reset.reg (Reg.wdogCfg f) = 0x03E80001#64 ∧
    State.reset.partOn f = false ∧ State.reset.reg (Reg.schedCfg f) = 0x0000006400001248#64 := by
  have hring := reg_reset_of (regSpec_fe (r := Reg.ringCtl f) (k := 0) hf (by omega) rfl (by unfold Reg.ringCtl; omega))
  have hstat := reg_reset_of (regSpec_fe (r := Reg.ringStat f) (k := 0x28) hf (by omega) rfl (by unfold Reg.ringStat; omega))
  have hpart := reg_reset_of (regSpec_seq (r := Reg.partCtl f) (o := 0) hf (by omega) rfl (by unfold Reg.partCtl; omega))
  refine ⟨hring, ?_, reg_reset_of (regSpec_fe (k := 0x30) hf (by omega) rfl (by unfold Reg.wdogCfg; omega)), ?_,
    reg_reset_of (regSpec_seq (o := 8) hf (by omega) rfl (by unfold Reg.schedCfg; omega))⟩
  · rw [State.ringState, State.field, hstat]; rfl
  · rw [State.partOn, State.flag, hpart]; rfl

/-- Settles O58: each register of the part is at the reset value that its block's table gives; the rest is the reset state as written. -/
theorem resetState : Obligations.ResetState := by
  unfold Obligations.ResetState
  refine ⟨?_, rfl, rfl⟩
  exact ⟨rfl, rfl, rfl, rfl, rfl, rfl, rfl, rfl, rfl, rfl, rfl, rfl, rfl, rfl, rfl, rfl, rfl, fun n hn => hbm_reset hn,
    fun p hp => port_reset hp, fun n hn => route_reset hn, fun f hf => frontEnd_reset hf, fun c => ⟨rfl, rfl, fun e => rfl⟩⟩

end Sys2Proof.Laws
end

section
/-! Rails, resets, die-to-die links and the timebase: what each meaning answers, case by case. -/
namespace Sys2Proof.Laws
open Sys2Proof.Machine

/-- The event of an admitted register write answers the state that the register's effect leaves. -/
theorem runExec_admitted {w : Writer} {o : Nat} {v : Word} {x : Exec Unit} {s t : State} (ha : s.admits w o v = true)
    (h : x s = .ok () t) : runExec (admitted w o v x) s = .next t := runExec_ok ((admitted_run ha).trans h)

/-- A meaning answers the state in which its program ends. -/
theorem runExec_ends {I : State → Prop} {x : Exec Unit} {s : State} (h : Ends I (x s)) : ∃ t, runExec x s = .next t ∧ I t := by
  unfold runExec
  cases hx : x s with
  | ok _ t => exact ⟨t, rfl, by rwa [hx] at h⟩
  | error _ t => exact ⟨t, rfl, by rwa [hx] at h⟩

/-- R18, R19: with no bit that switches a rail off, each rail asked for comes on unless its bit breaks a prerequisite, its fault is
latched, or the part has tripped. -/
theorem railEnWrite_run {v : Word} {s : State}
    (hoff : ∀ k < 15, s.flag Reg.railEn k = true → Word.bit v k = true ∨ s.railBreaks v k = true) :
    railEnWrite v s = .ok () ((List.range 15).reverse.foldl (fun u k =>
      if s.railBreaks v k || ! Word.bit v k || s.flag Reg.railStat (32 + k) || s.power.thermtrip then u else u.putFlag Reg.railEn k true)
      (if (List.range 15).any (s.railBreaks v) then s.putFlag Reg.railStat 47 true else s)) := by
  unfold railEnWrite
  simp only [get_then, ite_run, setFlag_then]
  rw [← apply_ite (each _ _)]
  refine each_foldl _ _ fun k hk u => ?_
  have hk : k < 15 := by simpa using hk
  by_cases hb : s.railBreaks v k
  · simp [hb]
  · by_cases hv : Word.bit v k
    · by_cases hl : s.flag Reg.railStat (32 + k) || s.power.thermtrip <;> simp_all
    · have hen : s.flag Reg.railEn k = false := Bool.eq_false_iff.mpr fun he => (hoff k hk he).elim hv hb
      simp [hb, hv, hen]

theorem railGood_run {k : Nat} {s : State} (hk : k < 15) (he : s.flag Reg.railEn k = true) (hg : s.flag Reg.railStat k = false)
    (hq : s.power.seqStep = 0) (hn : k = 0 ∨ 4 < k) : railGood k s = .ok () (s.putFlag Reg.railStat k true) := by
  have hcore : ¬ (1 ≤ k ∧ k ≤ 4) := by omega
  simp [railGood, require_ok, hk, he, hg, hq, hcore]

/-- R17, R28: a cluster's core rail comes up at code 0 with a transition under way. -/
theorem railGood_core_run {n : Nat} {s : State} (hn : n < 4) (he : s.flag Reg.railEn (n + 1) = true)
    (hg : s.flag Reg.railStat (n + 1) = false) (hq : s.power.seqStep = 0) :
    railGood (n + 1) s = .ok () ((((s.putFlag Reg.railStat (n + 1) true).putField Reg.dvfsStat (8 * n) 2 0).putFlag
      Reg.dvfsStat (8 * n + 5) true).onPower fun p => { p with target := Map.set (fun _ => 0) p.target n 0 }) := by
  have hk : n + 1 < 15 := by omega
  have hcore : n + 1 ≤ 4 := hn
  simp [railGood, require_ok, hk, he, hg, hq, hcore]

theorem railFault_run {k : Nat} {s t : State} (hk : k < 15) (he : s.flag Reg.railEn k = true) (hq : s.power.seqStep = 0)
    (hoff : let off := (List.range 15).filter fun j => (j == k || railUnder k j) && s.flag Reg.railEn j
      railsOff off (off.foldl (fun u j => u.putFlag Reg.railStat (32 + j) true) s) = .ok () t) :
    railFault k s = .ok () (t.putFlag Reg.mgmtEvt 5 true) := by
  unfold railFault
  rw [get_then, require_ok _ _ (by simp [hk, he]), bind_ok (each_foldl _ _ fun j _ u => setFlag_run _ _ _ u), bind_ok hoff]
  simp [hq]

theorem rstCtlWrite_run {v : Word} {s s1 s2 : State} (hc : each (List.range 4) (fun n => rstCluster n (Word.bit v n)) s = .ok () s1)
    (hf : each (List.range 8) (fun f => rstFrontEnd f (Word.bit v (8 + f))) s1 = .ok () s2) : rstCtlWrite v s = .ok () s2 :=
  (bind_ok hc).trans hf

theorem rstCluster_hold_used {n : Nat} {s : State} (hh : s.flag Reg.rstCtl n = false) (hu : s.clusterUsed n = true) :
    rstCluster n true s = .ok () (s.putFlag Reg.railStat 47 true) := by
  simp [rstCluster, seqErr, hh, hu]

theorem rstCluster_hold_free {n : Nat} {s t : State} (hh : s.flag Reg.rstCtl n = false) (hu : s.clusterUsed n = false)
    (hl : loseCluster n ((s.putFlag Reg.rstCtl n true).putFlag Reg.rstCtl (20 + n) false) = .ok () t) :
    rstCluster n true s = .ok () t := by
  simp [rstCluster, hh, hu, hl]

theorem rstCluster_release_unpowered {n : Nat} {s : State} (hh : s.flag Reg.rstCtl n = true)
    (hr : (s.flag Reg.railStat (1 + n) && s.flag Reg.railStat (5 + n)) = false) :
    rstCluster n false s = .ok () (s.putFlag Reg.railStat 47 true) := by
  simp [rstCluster, seqErr, hh, hr, -Bool.and_eq_true]

theorem d2dTrained_run {n : Nat} {s : State} (hn : n < 4) (hh : s.flag Reg.rstCtl n = false) (hd : s.flag Reg.rstCtl (20 + n) = false) :
    d2dTrained n s = .ok () (s.putFlag Reg.rstCtl (20 + n) true) := by
  simp [d2dTrained, require_ok, hn, hh, hd]

/-- R55: a link that goes down at a cluster without a partition ends no task. -/
theorem d2dDown_run {n : Nat} {s t : State} (hn : n < 4) (hd : s.flag Reg.rstCtl (20 + n) = true)
    (hp : ∀ k < 8, (s.part k).phys.any (fun c => c / 32 == n) = false)
    (hl : loseCluster n (s.putFlag Reg.rstCtl (20 + n) false) = .ok () t) : d2dDown n s = .ok () t := by
  have hnone : (List.range 8).filter (fun k => (s.part k).phys.any fun c => c / 32 == n) = [] :=
    List.filter_eq_nil_iff.mpr fun k hk => by simp [hp k (List.mem_range.mp hk)]
  unfold d2dDown
  rw [get_then, require_ok _ _ (by simp [hn, hd]), setFlag_then, hnone, bind_ok (each_nil ..), hl]

theorem clkWrite_on {v : Word} (s : State) (hv : Word.bit v 0 = true) : clkWrite v s = .ok () (s.wrote Reg.clkCtl v) := by
  simp [clkWrite, hv]

theorem clkWrite_off {v : Word} (s : State) (hv : Word.bit v 0 = false) :
    clkWrite v s = .ok () { (s.wrote Reg.clkCtl v).putFlag Reg.clkCtl 8 false with dccRun := false } := by
  simp [clkWrite, hv]

theorem timebaseLock_run {s : State} (hp : s.flag Reg.clkCtl 0 = true) (hl : s.flag Reg.clkCtl 8 = false)
    (hr : s.flag Reg.railStat 0 = true) (hq : s.power.seqStep ≠ 2) :
    timebaseLock s = .ok () { s.putFlag Reg.clkCtl 8 true with dccRun := true } := by
  simp [timebaseLock, require_ok, hp, hl, hr, hq]

theorem refclkLoss_held {s : State} (hl : s.flag Reg.clkCtl 8 = true) : refclkLoss false s = .ok () s := by
  simp [refclkLoss, require, hl]

theorem refclkLoss_switched {s : State} (hl : s.flag Reg.clkCtl 8 = true) :
    refclkLoss true s = .ok () ((s.putFlag Reg.clkCtl 9 (! s.flag Reg.clkCtl 9)).putFlag Reg.mgmtEvt 0 true) := by
  simp [refclkLoss, require_ok, hl]

/-! A cycle of the timebase counts; it reaches no memory, no register and no context (R24, R89). -/

/-- SR.DCC, memory, the registers, the contexts and the accesses on their way are those of `s`. -/
structure CycleFrame (s t : State) : Prop where
  dcc : t.dcc = s.dcc
  mem : t.mem = s.mem
  regs : t.regs = s.regs
  harts : t.harts = s.harts
  outq : t.outq = s.outq

theorem CycleFrame.refl (s : State) : CycleFrame s s := ⟨rfl, rfl, rfl, rfl, rfl⟩

theorem keeps_cycleFrame_updCore (s : State) (c : Nat) (f : Core → Core) : Keeps (CycleFrame s) (updCore c f) :=
  keeps_modify fun _ h => ⟨h.dcc, h.mem, h.regs, h.harts, h.outq⟩

theorem keeps_cycleFrame_updPart (s : State) (k : Nat) (f : Part → Part) : Keeps (CycleFrame s) (updPart k f) :=
  keeps_modify fun _ h => ⟨h.dcc, h.mem, h.regs, h.harts, h.outq⟩

theorem keeps_cycleFrame_coreCycle (s : State) (c : Nat) : Keeps (CycleFrame s) (coreCycle c) :=
  keeps_bind keeps_get fun _ => keeps_cycleFrame_updCore s c _

theorem keeps_cycleFrame_refreshReady (s : State) (k : Nat) : Keeps (CycleFrame s) (refreshReady k) :=
  keeps_bind keeps_get fun _ => keeps_each fun _ => keeps_bind (keeps_bind keeps_get fun _ => keeps_pure _) fun _ =>
    keeps_ite (keeps_cycleFrame_updPart s k _) (keeps_pure _)

theorem keeps_cycleFrame_classCycle (s : State) (k c : Nat) : Keeps (CycleFrame s) (classCycle k c) :=
  keeps_bind keeps_get fun _ => keeps_each fun _ => keeps_cycleFrame_updPart s k _

theorem keeps_cycleFrame_partCycle (s : State) (k : Nat) : Keeps (CycleFrame s) (partCycle k) :=
  keeps_bind (keeps_cycleFrame_refreshReady s k) fun _ => keeps_bind keeps_get fun _ => keeps_each fun _ =>
    keeps_cycleFrame_classCycle s k _

theorem keeps_cycleFrame_wdogCycle (s : State) (f : Nat) : Keeps (CycleFrame s) (wdogCycle f) :=
  keeps_bind keeps_get fun _ => keeps_ite (keeps_modify fun _ h => ⟨h.dcc, h.mem, h.regs, h.harts, h.outq⟩) (keeps_pure _)

/-- The state in which the rest of a cycle runs: SR.DCC has advanced. -/
def dccAdvanced (s : State) : State :=
  { s with dcc := s.dcc + BitVec.ofNat 64 s.dccStep, tsSlew := s.tsSlew + ((s.dccStep : Int) - 1),
           tsPhase := if s.tsSlew = 0 then 0 else s.tsPhase + 1 }

theorem dccAdvance_then {β : Type} (f : Unit → Exec β) (s : State) : (dccAdvance >>= f) s = f () (dccAdvanced s) := rfl

theorem dccTick_ends {s : State} (hr : s.dccRun = true) (hc : ∀ e ∈ s.cores, s.clockHeld e.1 = false) :
    Ends (CycleFrame (dccAdvanced s)) (dccTick s) := by
  unfold dccTick
  rw [get_then, require_ok _ _ (by simpa [hr] using hc), dccAdvance_then]
  exact keeps_bind (keeps_each (keeps_cycleFrame_coreCycle _)) (fun _ => keeps_bind (keeps_each (keeps_cycleFrame_partCycle _)) fun _ =>
    keeps_each (keeps_cycleFrame_wdogCycle _)) _ (.refl _)

theorem dccStep_of_level {s : State} (h : s.tsSlew = 0) : s.dccStep = 1 := by simp [State.dccStep, h]

theorem railEvents : Claims.RailEvents :=
  ⟨fun _ _ _ ha h => runExec_admitted ha (railEnWrite_run h),
   fun _ _ hk he hg hq hn => runExec_ok (railGood_run hk he hg hq hn),
   fun _ _ hn he hg hq => runExec_ok (railGood_core_run hn he hg hq),
   fun _ _ _ hk he hq hoff _ => runExec_ok (railFault_run hk he hq hoff),
   fun _ _ _ _ _ ha hc hf => runExec_admitted ha (rstCtlWrite_run hc hf),
   fun _ _ hh hu => rstCluster_hold_used hh hu,
   fun _ _ hh hr => rstCluster_release_unpowered hh hr,
   fun _ _ _ hh hu hl => rstCluster_hold_free hh hu hl,
   fun _ _ hn hh hd => runExec_ok (d2dTrained_run hn hh hd),
   fun _ _ _ hn hd hp hl => runExec_ok (d2dDown_run hn hd hp hl)⟩

theorem timebaseEvents : Claims.TimebaseEvents :=
  ⟨fun _ _ s ha hv => runExec_admitted ha (clkWrite_on s hv),
   fun _ _ s ha hv => runExec_admitted ha (clkWrite_off s hv),
   fun _ hp hl hr hq => runExec_ok (timebaseLock_run hp hl hr hq),
   fun _ hl => ⟨runExec_ok (refclkLoss_held hl), runExec_ok (refclkLoss_switched hl)⟩,
   fun _ hr hc =>
     have ⟨t, ht, hdcc, hmem, hregs, hharts, houtq⟩ := runExec_ends (dccTick_ends hr hc)
     ⟨t, ht, hdcc, hmem, hregs, hharts, houtq⟩,
   fun _ h => dccStep_of_level h⟩

/-- Settles O44: each event is run on its program, one equation per case; a cycle's programs all keep `CycleFrame`. -/
theorem railAndTimebaseEvents : Obligations.RailAndTimebaseEvents := ⟨railEvents, timebaseEvents⟩

end Sys2Proof.Laws
end

section
/-! Operating points, the package limits, the capping loop and thermal actions: what each meaning answers, case by case. -/
namespace Sys2Proof.Laws
open Sys2Proof.Machine

/-! Operating points (R29–R31). -/

theorem dvfsWrite_run {v : Word} {s s1 s2 s3 t : State} (h0 : dvfsByte 0 (Word.bits v 0 8) s = .ok () s1)
    (h1 : dvfsByte 1 (Word.bits v 8 8) s1 = .ok () s2) (h2 : dvfsByte 2 (Word.bits v 16 8) s2 = .ok () s3)
    (h3 : dvfsByte 3 (Word.bits v 24 8) s3 = .ok () t) : dvfsWrite v s = .ok () t :=
  calc dvfsWrite v s
      = each [1, 2, 3] (fun n => dvfsByte n (Word.bits v (8 * n) 8)) s1 := bind_ok h0
    _ = each [2, 3] (fun n => dvfsByte n (Word.bits v (8 * n) 8)) s2 := bind_ok h1
    _ = each [3] (fun n => dvfsByte n (Word.bits v (8 * n) 8)) s3 := bind_ok h2
    _ = .ok () t := bind_ok h3

theorem dvfsByte_reserved {n b : Nat} (s : State) (hb : bitsAt b 0 2 = 3) :
    dvfsByte n b s = .ok () (s.putFlag Reg.dvfsStat (8 * n + 4) true) := by
  simp [dvfsByte, hb]

/-- R29, R30: the byte of a cluster that is not locked and does not ask for a lock sets its point. -/
theorem dvfsByte_unlocked {n b : Nat} {s t u : State} (hb : bitsAt b 0 2 ≠ 3) (hk : bitsAt b 7 1 = 0) (hl : s.lockedCl n = false)
    (hl' : (s.putFlag Reg.dvfsCtl (8 * n + 7) false).lockedCl n = false)
    (ht : tryLock n ((s.putFlag Reg.dvfsCtl (8 * n + 7) false).putField Reg.dvfsCtl (8 * n) 2 (bitsAt b 0 2)) = .ok () t)
    (hm : movePoint n t = .ok () u) : dvfsByte n b s = .ok () u := by
  simp [dvfsByte, hb, hk, hl, hl', bind_ok ht, hm]

theorem transitionDone_run {n : Nat} {s t u : State} (hn : n < 4) (hb : s.flag Reg.dvfsStat (8 * n + 5) = true)
    (ht : tryLock n ((s.putField Reg.dvfsStat (8 * n) 2 (Map.get (fun _ => 0) s.power.target n)).putFlag Reg.dvfsStat (8 * n + 5) false) =
      .ok () t)
    (hm : movePoint n t = .ok () u) : transitionDone n s = .ok () u := by
  simp [transitionDone, require_ok, hn, hb, bind_ok ht, hm]

/-! The package limits and the capping loop (R34–R37). -/

theorem pcapWrite_run {w : Writer} (v : Word) (s : State) (hw : w ≠ .board) :
    pcapWrite w v s = .ok () (if Word.bits v 16 16 < 1200 ∨ 3200 < Word.bits v 16 16 ∨ Word.bits v 32 16 < Word.bits v 16 16 ∨
      3400 < Word.bits v 32 16 ∨ Word.bits v 8 8 = 0 then s.putFlag Reg.pcapStat 3 true else s.wrote Reg.pcapCtl v) := by
  unfold pcapWrite
  rw [get_then]
  simp only [hw, if_false, ite_run, setFlag_run, plainWrite_run]
  split <;> rfl

/-- R20: the board controller's write reaches PL1 alone. -/
theorem pcapWrite_board {v x : Word} {s : State} (hx : Word.setBits (s.reg Reg.pcapCtl) 16 16 (Word.bits v 16 16) = x)
    (hok : ¬ (Word.bits x 16 16 < 1200 ∨ 3200 < Word.bits x 16 16 ∨ Word.bits x 32 16 < Word.bits x 16 16 ∨
      3400 < Word.bits x 32 16 ∨ Word.bits x 8 8 = 0)) :
    pcapWrite .board v s = .ok () (s.wrote Reg.pcapCtl x) := by
  unfold pcapWrite
  rw [get_then]
  simp only [if_true, hx]
  rw [if_neg hok, plainWrite_run]

/-- R35, R37: a sample that does not start cycle skipping only updates the measurements and what is counted of them. -/
theorem powerSample_quiet {i a : Nat} {s : State} (hp : s.power.porst = false)
    (hs : ¬ ((s.field Reg.pcapCtl 32 16 < i ∨ 100 ≤ (if (s.power.samples + 1) % 10 ≠ 0 then s.power.above else
      if s.field Reg.pcapCtl 16 16 < i then s.power.above + 1 else 0)) ∧ s.flag Reg.pcapStat 4 = false)) :
    powerSample i a s = .ok () (
      let u := ((s.putField Reg.pcapStat 16 16 i).putField Reg.pcapStat 32 16 a).onPower fun p =>
        { p with samples := s.power.samples + 1,
                 above := if (s.power.samples + 1) % 10 ≠ 0 then s.power.above else
                   if s.field Reg.pcapCtl 16 16 < i then s.power.above + 1 else 0,
                 calm := if i < s.field Reg.pcapCtl 16 16 then p.calm + 1 else 0 }
      if i ≤ s.field Reg.pcapCtl 16 16 then u.putFlag Reg.pcapStat 2 false else u) := by
  unfold powerSample
  rw [get_then, require_ok _ _ (by simp [hp])]
  simp only [setField_then, updPower_then, setFlag_then, ite_run, Bool.not_eq_true', if_neg hs, pure_run]
  split <;> rfl

theorem skipEnd_run {s : State} (hf : s.flag Reg.pcapStat 4 = true) (hc : 100 ≤ s.power.calm) :
    skipEnd s = .ok () (s.putFlag Reg.pcapStat 4 false) := by
  simp [skipEnd, require_ok, hf, hc]

/-- R36: above PL1 the cluster of the highest power among those that may slow down goes one code down. -/
theorem cappingTick_slows {l : List Nat} {s t u : State} {n : Nat} (he : s.flag Reg.pcapCtl 0 = true) (hb : s.flag Reg.bootStat 0 = true)
    (hp : s.field Reg.pcapCtl 16 16 < s.field Reg.pcapStat 16 16)
    (hn : bestCluster (fun n => l.getD n 0) ((List.range 4).filter fun n => ! s.lockedCl n && decide (0 < s.effPoint n)) = some n)
    (hm : movePoint n ((s.onPower fun p => { p with below := 0 }).onPower fun p =>
      { p with eff := Map.set (fun _ => 2) p.eff n (s.effPoint n - 1) }) = .ok () t)
    (hc : capStatus t = .ok () u) : cappingTick l s = .ok () u := by
  have hbelow : ¬ s.field Reg.pcapStat 16 16 < s.field Reg.pcapCtl 16 16 - 100 := by omega
  unfold cappingTick
  rw [get_then, require_ok _ _ (by simp [he, hb])]
  simp only [updPower_then, if_neg hbelow, if_pos hp, hn, bind_bind, bind_ok hm, hc]

/-! Temperatures (R38–R41). -/

theorem thmWrite_run (v : Word) (s : State) :
    thmWrite v s = .ok () (if 0x5A < Word.bits v 32 8 ∨ 0x55 < Word.bits v 24 8 ∨ 0x5F < Word.bits v 8 8 then
      s.putFlag Reg.pcapStat 3 true else s.wrote Reg.thmCfg v) := by
  unfold thmWrite
  rw [ite_run, setFlag_run, plainWrite_run]
  split <;> rfl

/-- THM_STAT after a sample: the hottest die and the hottest stack, each with its number. -/
def sampled (die hbm : List Nat) (s : State) : State :=
  (((s.putField Reg.thmStat 24 8 (hottest die).1).putField Reg.thmStat 20 4 (hottest die).2).putField Reg.thmStat 40 8
    (hottest hbm).1).putField Reg.thmStat 36 4 (hottest hbm).2

/-- R39, R41: at a trip threshold every switched rail goes off. -/
theorem thermalSample_trips {die hbm : List Nat} {s t : State} (hp : s.power.porst = false) (hd : die.length = 5) (hh : hbm.length = 16)
    (htrip : s.field Reg.thmCfg 16 8 ≤ (hottest die).1 ∨ s.field Reg.thmCfg 40 8 ≤ (hottest hbm).1)
    (ht : railsOff (List.range 15) (sampled die hbm s) = .ok () t) :
    thermalSample die hbm s = .ok () ((t.onPower fun p => { p with thermtrip := true }).putFlag Reg.thmStat 3 true) := by
  unfold thermalSample
  rw [get_then, require_ok _ _ (by simp [hp, hd, hh])]
  simp only [setField_then, if_pos htrip]
  exact bind_ok ht

/-- R39, R40: below them every die and every stack is held against its thresholds. -/
theorem thermalSample_below {die hbm : List Nat} {s u1 u2 t : State} (hp : s.power.porst = false) (hd : die.length = 5)
    (hh : hbm.length = 16) (hdie : (hottest die).1 < s.field Reg.thmCfg 16 8) (hhbm : (hottest hbm).1 < s.field Reg.thmCfg 40 8)
    (h1 : each (List.range 5) (dieSample die (s.field Reg.thmCfg 8 8)) (sampled die hbm s) = .ok () u1)
    (h2 : each (List.range 16) (hbmSample hbm (s.field Reg.thmCfg 24 8) (s.field Reg.thmCfg 32 8)) u1 = .ok () u2)
    (ht : thmStatus u2 = .ok () t) : thermalSample die hbm s = .ok () t := by
  have hno : ¬ (s.field Reg.thmCfg 16 8 ≤ (hottest die).1 ∨ s.field Reg.thmCfg 40 8 ≤ (hottest hbm).1) := by omega
  unfold thermalSample
  rw [get_then, require_ok _ _ (by simp [hp, hd, hh])]
  simp only [setField_then, if_neg hno]
  exact (bind_ok h1).trans ((bind_ok h2).trans ht)

theorem thermalEnd_cluster {n : Nat} {s t u : State} (hn : n < 4) (hh : Map.get (fun _ => false) s.power.dieHot n = true)
    (hc : 200 ≤ Map.get (fun _ => 0) s.power.cool n)
    (hm : movePoint n (s.onPower fun p => { p with dieHot := Map.set (fun _ => false) p.dieHot n false }) = .ok () t)
    (hs : thmStatus t = .ok () u) : thermalEnd (.cluster n) s = .ok () u := by
  simp [thermalEnd, require_ok, hn, hh, hc, bind_ok hm, hs]

theorem thermalEnd_hbmRefresh {n : Nat} {s u : State} (hh : Map.get (fun _ => false) s.power.hbmRef n = true)
    (hc : 200 ≤ Map.get (fun _ => 0) s.power.cool (16 + n))
    (hs : thmStatus (s.onPower fun p => { p with hbmRef := Map.set (fun _ => false) p.hbmRef n false }) = .ok () u) :
    thermalEnd (.hbmRefresh n) s = .ok () u := by
  unfold thermalEnd
  rw [get_then]
  dsimp only
  rw [bind_bind, require_ok _ _ (by simp [hh, hc]), updPower_then, hs]

theorem thermalEnd_hbmThrottle {n : Nat} {s u : State} (hh : Map.get (fun _ => false) s.power.hbmHot n = true)
    (hc : 200 ≤ Map.get (fun _ => 0) s.power.cool (32 + n))
    (hs : thmStatus (s.onPower fun p => { p with hbmHot := Map.set (fun _ => false) p.hbmHot n false }) = .ok () u) :
    thermalEnd (.hbmThrottle n) s = .ok () u := by
  unfold thermalEnd
  rw [get_then]
  dsimp only
  rw [bind_bind, require_ok _ _ (by simp [hh, hc]), updPower_then, hs]

theorem powerEvents : Claims.PowerEvents :=
  ⟨fun _ _ _ _ _ _ _ ha h0 h1 h2 h3 => runExec_admitted ha (dvfsWrite_run h0 h1 h2 h3),
   fun _ _ s hb => dvfsByte_reserved s hb,
   fun _ _ _ _ _ hb hk hl hl' ht hm => dvfsByte_unlocked hb hk hl hl' ht hm,
   fun _ _ _ _ hn hb ht hm => runExec_ok (transitionDone_run hn hb ht hm),
   fun _ v s ha hw => runExec_admitted ha (pcapWrite_run v s hw),
   fun _ _ ha h1 h2 h3 h4 h5 => runExec_admitted ha (pcapWrite_board rfl (by omega)),
   fun _ _ _ hp hs => runExec_ok (powerSample_quiet hp hs),
   fun _ hf hc => runExec_ok (skipEnd_run hf hc),
   fun _ _ _ _ _ he hb hp hn hm hc => runExec_ok (cappingTick_slows he hb hp hn hm hc)⟩

theorem thermalEvents : Claims.ThermalEvents :=
  ⟨fun _ v s ha => runExec_admitted ha (thmWrite_run v s),
   fun _ _ _ hp hd hh => ⟨fun htrip _ ht => runExec_ok (thermalSample_trips hp hd hh htrip ht),
     fun hdie hhbm _ _ _ h1 h2 ht => runExec_ok (thermalSample_below hp hd hh hdie hhbm h1 h2 ht)⟩,
   fun _ _ _ _ hn hh hc hm hs => runExec_ok (thermalEnd_cluster hn hh hc hm hs),
   fun _ _ _ hh hc hs => runExec_ok (thermalEnd_hbmRefresh hh hc hs),
   fun _ _ _ hh hc hs => runExec_ok (thermalEnd_hbmThrottle hh hc hs)⟩

/-- Settles O45: each event is run on its program, one equation per case of the rules. -/
theorem powerAndThermalEvents : Obligations.PowerAndThermalEvents := ⟨powerEvents, thermalEvents⟩

end Sys2Proof.Laws
end

section
/-! Training of stacks and ports, and the patrol scrubber: what each meaning answers, case by case. -/
namespace Sys2Proof.Laws
open Sys2Proof.Machine

/-! HBM stacks (R45–R49). -/

theorem hbmTrn_busy {n : Nat} {v : Word} {s : State} (hv : Word.bit v 0 = true) (hb : s.flag (Reg.hbmTstat n) 0 = true) :
    hbmTrn n v s = .ok () s := by
  simp [hbmTrn, hv, hb]

theorem refuseStep_run (stat : Nat) (s : State) :
    refuseStep stat s = .ok () ((s.putField stat 16 8 0x07).putFlag stat 2 true) := rfl

theorem startStep_run (stat unit step : Nat) (s : State) :
    startStep stat unit step s = .ok () (((s.putFlag stat 0 true).putFlag stat 1 false).onPower fun p =>
      { p with training := Map.set (fun _ => 0) p.training unit step }) := rfl

theorem startStep_then {β : Type} (stat unit step : Nat) (f : Unit → Exec β) (s : State) :
    (startStep stat unit step >>= f) s = f () (((s.putFlag stat 0 true).putFlag stat 1 false).onPower fun p =>
      { p with training := Map.set (fun _ => 0) p.training unit step }) := bind_ok (startStep_run stat unit step s)

/-- R48: GO starts the next step; any other step fails with ERR 0x07. -/
theorem hbmTrn_go {n : Nat} {v : Word} {s : State} (hv : Word.bit v 0 = true) (hr : Word.bit v 1 = false)
    (hb : s.flag (Reg.hbmTstat n) 0 = false) :
    hbmTrn n v s = .ok () (let u := s.wrote (Reg.hbmTrn n) v
      if Word.bits v 8 8 = u.field (Reg.hbmTstat n) 24 8 + 1 then
        ((u.putFlag (Reg.hbmTstat n) 0 true).putFlag (Reg.hbmTstat n) 1 false).onPower fun p =>
          { p with training := Map.set (fun _ => 0) p.training n (Word.bits v 8 8) }
      else (u.putField (Reg.hbmTstat n) 16 8 0x07).putFlag (Reg.hbmTstat n) 2 true) := by
  by_cases hk : Word.bits v 8 8 = (s.wrote (Reg.hbmTrn n) v).field (Reg.hbmTstat n) 24 8 + 1
  · simp [hbmTrn, hv, hr, hb, hk, startStep_run]
  · simp [hbmTrn, hv, hr, hb, hk, refuseStep_run]

theorem hbmTrn_reset {n : Nat} {v : Word} (s : State) (hv : Word.bit v 0 = false) (hr : Word.bit v 1 = true) :
    hbmTrn n v s = .ok () ((((s.wrote (Reg.hbmTrn n) v).putField (Reg.hbmTstat n) 24 8 0).putField (Reg.hbmTstat n) 16 8 0).putField
      (Reg.hbmTstat n) 1 2 0) := by
  unfold hbmTrn
  simp only [get_then, hv, hr, Bool.false_and, Bool.false_eq_true, if_false, if_true, plainWrite_then, setField_then, Bool.not_false,
    pure_run]

/-- HBM_TSTAT when the step that runs ends well. -/
def hbmDone (n : Nat) (s : State) : State :=
  (((s.putFlag (Reg.hbmTstat n) 0 false).putFlag (Reg.hbmTstat n) 1 true).putFlag (Reg.hbmTstat n) 2 false).putField
    (Reg.hbmTstat n) 24 8 (Map.get (fun _ => 0) s.power.training n)

theorem hbmStepDone_ok {n spares : Nat} {s : State} (hn : n < 16) (hb : s.flag (Reg.hbmTstat n) 0 = true)
    (h7 : Map.get (fun _ => 0) s.power.training n ≠ 7) (h9 : Map.get (fun _ => 0) s.power.training n ≠ 9)
    (h10 : Map.get (fun _ => 0) s.power.training n ≠ 10) : hbmStepDone n 0 spares s = .ok () (hbmDone n s) := by
  simp [hbmStepDone, require_ok, hbmDone, hn, hb, h7, h9, h10]

/-- R48: step 7 reports the spare lanes that it uses. -/
theorem hbmStepDone_spares {n spares : Nat} {s : State} (hn : n < 16) (hb : s.flag (Reg.hbmTstat n) 0 = true)
    (h7 : Map.get (fun _ => 0) s.power.training n = 7) :
    hbmStepDone n 0 spares s = .ok () ((hbmDone n s).putField (Reg.hbmTstat n) 32 8 (min spares 16)) := by
  simp [hbmStepDone, require_ok, hbmDone, hn, hb, h7]

/-- R48: step 9 zeroes the stack. -/
theorem hbmStepDone_zero {n spares : Nat} {s t : State} (hn : n < 16) (hb : s.flag (Reg.hbmTstat n) 0 = true)
    (h9 : Map.get (fun _ => 0) s.power.training n = 9) (hz : zeroStack n (hbmDone n s) = .ok () t) :
    hbmStepDone n 0 spares s = .ok () t := by
  rw [hbmDone, h9] at hz
  simp [hbmStepDone, require_ok, hn, hb, h9, hz]

theorem hbmStepDone_failed {n err spares : Nat} {s : State} (hn : n < 16) (hb : s.flag (Reg.hbmTstat n) 0 = true) (h0 : 0 < err)
    (he : err < 256) (hi : s.flag (Reg.hbmTrn n) 2 = false) :
    hbmStepDone n err spares s = .ok () ((((s.putFlag (Reg.hbmTstat n) 0 false).putFlag (Reg.hbmTstat n) 1 false).putFlag
      (Reg.hbmTstat n) 2 true).putField (Reg.hbmTstat n) 16 8 err) := by
  have hne : err ≠ 0 := by omega
  have hok : (err == 0) = false := by simpa using hne
  simp [hbmStepDone, require_ok, bne, hn, hb, he, hi, hne, hok]

/-! The patrol scrubber (R127). -/

theorem patrolScrub_clean {b : Nat} {s : State} (hb : b < 2 ^ 32) (hr : s.flag (Reg.hbmRef (hbmStack b)) 0 = true) :
    patrolScrub b .clean s = .ok () s := by
  unfold patrolScrub
  rw [get_then, require_ok _ _ (by simpa [hr] using hb)]
  rfl

theorem patrolScrub_corrected {b : Nat} {s : State} (hb : b < 2 ^ 32) (hr : s.flag (Reg.hbmRef (hbmStack b)) 0 = true) :
    patrolScrub b .corrected s = .ok () (s.putField Reg.integCnt 0 32 (min (s.field Reg.integCnt 0 32 + 1) 0xFFFFFFFF)) := by
  unfold patrolScrub
  rw [get_then, require_ok _ _ (by simpa [hr] using hb)]
  rfl

theorem patrolScrub_uncorrectable {b : Nat} {s t : State} (hb : b < 2 ^ 32) (hr : s.flag (Reg.hbmRef (hbmStack b)) 0 = true)
    (hp : poisonBlock b 0x295#10 s = .ok () t) : patrolScrub b .uncorrectable s = .ok () t := by
  unfold patrolScrub
  rw [get_then, require_ok _ _ (by simpa [hr] using hb)]
  exact hp

/-! Optical ports (R52–R54). -/

theorem optTrn_refused {p : Nat} {v : Word} {s : State} (hv : Word.bit v 0 = true) (hb : s.flag (Reg.optTstat p) 0 = false)
    (hk : Word.bits v 8 8 ≠ s.field (Reg.optTstat p) 24 8 + 1 ∨ (Word.bit v 1 = true ∧ 3 ≤ Word.bits v 8 8)) :
    optTrn p v s = .ok () (((s.wrote (Reg.optTrn p) v).putField (Reg.optTstat p) 16 8 0x07).putFlag (Reg.optTstat p) 2 true) := by
  unfold optTrn
  simp only [get_then, hv, hb, Bool.and_false, Bool.not_true, Bool.false_eq_true, if_false, plainWrite_then, if_pos hk, refuseStep_run]

/-- A port's training once step `k` has started. -/
def optStarted (p k : Nat) (s : State) : State :=
  ((s.putFlag (Reg.optTstat p) 0 true).putFlag (Reg.optTstat p) 1 false).onPower fun q =>
    { q with training := Map.set (fun _ => 0) q.training (16 + p) k }

theorem optTrn_step {p : Nat} {v : Word} {s : State} (hv : Word.bit v 0 = true) (hb : s.flag (Reg.optTstat p) 0 = false)
    (hk : Word.bits v 8 8 = s.field (Reg.optTstat p) 24 8 + 1) (hc : Word.bit v 1 = false) (h2 : 2 ≤ Word.bits v 8 8)
    (h5 : Word.bits v 8 8 ≤ 5) : optTrn p v s = .ok () (optStarted p (Word.bits v 8 8) (s.wrote (Reg.optTrn p) v)) := by
  have h1 : Word.bits v 8 8 ≠ 1 := by omega
  have h6 : Word.bits v 8 8 ≠ 6 := by omega
  simp [optTrn, optStarted, startStep_run, hv, hb, ← hk, hc, h1, h6]

/-- R52: step 1 takes the lanes to train. -/
theorem optTrn_first {p : Nat} {v : Word} {s : State} (hv : Word.bit v 0 = true) (hb : s.flag (Reg.optTstat p) 0 = false)
    (hk : Word.bits v 8 8 = s.field (Reg.optTstat p) 24 8 + 1) (h1 : Word.bits v 8 8 = 1) :
    optTrn p v s = .ok () ((optStarted p (Word.bits v 8 8) (s.wrote (Reg.optTrn p) v)).putField (Reg.optTstat p) 8 8
      (Word.bits v 16 8)) := by
  have h0 : s.field (Reg.optTstat p) 24 8 = 0 := by omega
  simp [optTrn, optStarted, startStep_then, hv, hb, h0, h1]

theorem optStepDone_ok {p failed : Nat} {s : State} (hp : p < 36) (hb : s.flag (Reg.optTstat p) 0 = true)
    (hl : 2 ≤ lanes (s.field (Reg.optTstat p) 8 8 &&& (255 - failed))) (h5 : Map.get (fun _ => 0) s.power.training (16 + p) ≠ 5) :
    optStepDone p failed false s = .ok () (((((s.putField (Reg.optTstat p) 8 8 (s.field (Reg.optTstat p) 8 8 &&& (255 - failed))).putFlag
      (Reg.optTstat p) 0 false).putFlag (Reg.optTstat p) 1 true).putFlag (Reg.optTstat p) 2 false).putField (Reg.optTstat p) 24 8
      (Map.get (fun _ => 0) s.power.training (16 + p))) := by
  have hgood : (false || decide (lanes (s.field (Reg.optTstat p) 8 8 &&& (255 - failed)) < 2)) = false := by
    rw [Bool.false_or]; exact decide_eq_false (by omega)
  unfold optStepDone
  rw [get_then, require_ok _ _ (by simp [hp, hb])]
  simp only [setField_then, setFlag_then, hgood, Bool.false_eq_true, if_false, Bool.not_false, if_neg h5, pure_run]

/-- R54: a failed step, or fewer than two lanes left, fails the port. -/
theorem optStepDone_failed {p failed : Nat} {own : Bool} {s t : State} (hp : p < 36) (hb : s.flag (Reg.optTstat p) 0 = true)
    (hbad : own = true ∨ lanes (s.field (Reg.optTstat p) 8 8 &&& (255 - failed)) < 2)
    (hf : portFails p (s.field (Reg.portStat p) 48 8)
      (((((s.putField (Reg.optTstat p) 8 8 (s.field (Reg.optTstat p) 8 8 &&& (255 - failed))).putFlag (Reg.optTstat p) 0 false).putFlag
        (Reg.optTstat p) 1 false).putFlag (Reg.optTstat p) 2 true).putField (Reg.optTstat p) 16 8
        (0x10 + Map.get (fun _ => 0) s.power.training (16 + p))) = .ok () t) :
    optStepDone p failed own s = .ok () (t.putFlag Reg.mgmtEvt 3 true) := by
  have hbad : (own || decide (lanes (s.field (Reg.optTstat p) 8 8 &&& (255 - failed)) < 2)) = true := by simpa using hbad
  unfold optStepDone
  rw [get_then, require_ok _ _ (by simp [hp, hb])]
  simp only [setField_then, setFlag_then, hbad, if_true, Bool.not_true, bind_ok hf, mgmtEvt_run]

theorem exec_hbmTrnGo {n : Nat} {w : Writer} {v : Word} {s t : State} (ha : s.admits w (Reg.hbmTrn n) v = true) (hn : n < 16)
    (hv : Word.bit v 0 = true) (h : hbmTrn n v s = .ok () t) : exec (.hbmTrnGo n w v) s = .next t :=
  runExec_admitted ha ((require_ok _ _ (by simp [hn, hv])).trans h)

theorem exec_hbmPhyReset {n : Nat} {w : Writer} {v : Word} {s t : State} (ha : s.admits w (Reg.hbmTrn n) v = true) (hn : n < 16)
    (hv : Word.bit v 1 = true) (h : hbmTrn n v s = .ok () t) : exec (.hbmPhyReset n w v) s = .next t :=
  runExec_admitted ha ((require_ok _ _ (by simp [hn, hv])).trans h)

theorem exec_optTrnGo {p : Nat} {w : Writer} {v : Word} {s t : State} (ha : s.admits w (Reg.optTrn p) v = true) (hp : p < 36)
    (hv : Word.bit v 0 = true) (h : optTrn p v s = .ok () t) : exec (.optTrnGo p w v) s = .next t :=
  runExec_admitted ha ((require_ok _ _ (by simp [hp, hv])).trans h)

/-- Settles O46: each event is run on its program, one equation per case of the rules. -/
theorem trainingEvents : Obligations.TrainingEvents :=
  ⟨fun _ _ _ _ ha hn hv hb => exec_hbmTrnGo ha hn hv (hbmTrn_busy hv hb),
   fun _ _ _ _ ha hn hv hr hb => exec_hbmTrnGo ha hn hv (hbmTrn_go hv hr hb),
   fun _ _ _ s ha hn hv hr => exec_hbmPhyReset ha hn hr (hbmTrn_reset s hv hr),
   fun _ _ _ hn hb => ⟨fun h7 h9 h10 => runExec_ok (hbmStepDone_ok hn hb h7 h9 h10), fun h7 => runExec_ok (hbmStepDone_spares hn hb h7),
     fun h9 _ hz => runExec_ok (hbmStepDone_zero hn hb h9 hz)⟩,
   fun _ _ _ _ hn hb h0 he hi => runExec_ok (hbmStepDone_failed hn hb h0 he hi),
   fun _ _ hb hr => ⟨runExec_ok (patrolScrub_clean hb hr), runExec_ok (patrolScrub_corrected hb hr),
     fun _ hp => runExec_ok (patrolScrub_uncorrectable hb hr hp)⟩,
   fun _ _ _ _ ha hp hv hb =>
     ⟨fun hk => exec_optTrnGo ha hp hv (optTrn_refused hv hb hk),
       fun hk hc h2 h5 => exec_optTrnGo ha hp hv (optTrn_step hv hb hk hc h2 h5),
       fun hk h1 => exec_optTrnGo ha hp hv (optTrn_first hv hb hk h1)⟩,
   fun _ _ _ hp hb hl h5 => runExec_ok (optStepDone_ok hp hb hl h5),
   fun _ _ _ _ _ hp hb hbad hf => runExec_ok (optStepDone_failed hp hb hbad hf)⟩

end Sys2Proof.Laws
end

section
/-! Package resets, the boot chain, the region table, measurements and attestation: what each meaning answers, case by case. -/
namespace Sys2Proof.Laws
open Sys2Proof.Machine

/-! Package resets and the boot chain (R41, R44, R113–R117). -/

theorem porstDeassert_run {s t : State} (hp : s.power.porst = true)
    (hb : bringStep 1 (railEnWrite 0x0001#64) (s.onPower fun p => { p with porst := false }) = .ok () t) :
    porstDeassert s = .ok () t := by
  unfold porstDeassert
  rw [get_then, require_ok _ _ hp, updPower_then, hb]

theorem exec_reload {s t : State} (hp : s.power.porst = false) (hr : s.flag Reg.railStat 0 = true) (h : reload s = .ok () t) :
    exec .reload s = .next t := by
  refine runExec_ok ?_
  rw [get_then, require_ok _ _ (by simp [hp, hr]), h]

theorem hostrdy_run {s t : State} (hw : s.boot.waits = true) (hb : bootRest (s.onBoot fun b => { b with hostrdy := true }) = .ok () t) :
    hostrdy s = .ok () t := by
  unfold hostrdy
  rw [get_then, require_ok _ _ hw, updBoot_then, hb]

/-- R113, R116: a failing step of a ROM whose source is the host halts front end 0. -/
theorem bootFail_host {err : Nat} {s : State} (hh : s.boot.host = true) :
    bootFail err s = .ok () (((s.putField Reg.bootStat 8 8 err).putFlag Reg.bootStat 1 true).onBoot fun b => { b with step := 0 }) := by
  simp [bootFail, hh]

theorem hostrdyTimeout_run {s : State} (hw : s.boot.waits = true) :
    hostrdyTimeout s = .ok () (((s.putField Reg.bootStat 8 8 0x01).putFlag Reg.bootStat 1 true).onBoot fun b => { b with step := 0 }) := by
  have hh : s.boot.host = true := by simp_all [Boot.waits]
  unfold hostrdyTimeout
  rw [get_then, require_ok _ _ hw, bootFail_host hh]

theorem bootWindow_run (off : Nat) (data : List Byte) (s : State) :
    bootWindow off data s = .ok () (if s.boot.waits = true ∧ off + data.length ≤ 8388608 then
      s.onBoot fun b => { b with staging := Map.setN (fun _ => 0#8) b.staging off data }
    else { s with hostOut := [1#8] :: s.hostOut }) := by
  unfold bootWindow
  simp only [get_then, ite_run, Bool.and_eq_true, decide_eq_true_eq, updBoot_run, hostAnswer, modify_run]
  split <;> rfl

/-- R114: an image in good form, of an enrolled key and a version that the fuses allow, fails step 6 where its signature is wrong. -/
theorem bootRest_badSignature {s t : State} {img : List Byte} {slot : Nat}
    (hi : Map.getN (fun _ => 0#8) s.boot.staging 0 (if fld (Map.getN (fun _ => 0#8) s.boot.staging 0 512) 8 8 ≤ 8388608 then
      fld (Map.getN (fun _ => 0#8) s.boot.staging 0 512) 8 8 else 512) = img)
    (hh : fwHeaderOk img = true) (hk : s.boot.keySlot ((img.drop 24).take 97) = some slot) (hv : s.boot.minsvn ≤ fld img 16 4)
    (hs : fwSignatureOk img = false) (hf : bootFail 0x05 s = .ok () t) : bootRest s = .ok () t := by
  have hv : ¬ fld img 16 4 < s.boot.minsvn := by omega
  unfold bootRest
  simp only [get_then, hi, hh, hk, hs, if_neg hv, Bool.not_true, Bool.not_false, Bool.false_eq_true, if_false, if_true, hf]

/-! The region table and RGN_SYNC (R109, R110). -/

theorem rgnEntryWrite_locked {k : Nat} {hi : Bool} {v : Word} {s : State} (hl : s.flag (Reg.rgnLo k) 60 = true) :
    rgnEntryWrite k hi v s = .ok () (s.putFlag Reg.rgnCfg 1 true) := by
  simp [rgnEntryWrite, refuseRgn, hl]

theorem rgnEntryWrite_hi {k : Nat} {v : Word} {s : State} (hl : s.flag (Reg.rgnLo k) 60 = false) :
    rgnEntryWrite k true v s = .ok () (s.wrote (Reg.rgnHi k) v) := by
  simp [rgnEntryWrite, hl, plainWrite_run]

theorem rgnEntryWrite_lo {k : Nat} {v : Word} {s : State} (hl : s.flag (Reg.rgnLo k) 60 = false) :
    rgnEntryWrite k false v s = .ok () (if (Word.bit v 62 && Word.bit v 61) || (Word.bit v 63 && decide (s.field (Reg.rgnHi k) 16 36 <
      Word.bits v 16 36)) then s.putFlag Reg.rgnCfg 1 true else s.wrote (Reg.rgnLo k) v) := by
  unfold rgnEntryWrite
  simp only [get_then, hl, Bool.false_eq_true, if_false, ite_run, refuseRgn, setFlag_run, plainWrite_run]
  split <;> rfl

/-- A write in the table's range is one of its entry's RGN_LO or RGN_HI. -/
theorem rgnWrite_entry {off k : Nat} (v : Word) (s : State) (hlo : 0x1000 ≤ off) (hhi : off < 0x2000) (h8 : off % 8 = 0)
    (hk : (off - 0x1000) / 16 = k) : rgnWrite off v s = rgnEntryWrite k (off % 16 == 8) v s := by
  have h0 : off ≠ 0 := by omega
  rw [rgnWrite, if_neg h0, if_pos ⟨hlo, hhi, h8⟩, hk]

theorem exec_rgnSyncGo {w : Writer} {v : Word} {s : State} (ha : s.admits w Reg.rgnSync v = true) (hv : Word.bit v 0 = true) :
    exec (.rgnSyncGo w v) s = .next (s.putFlag Reg.rgnSync 1 true) := by
  refine runExec_admitted ha ?_
  rw [require_ok _ _ hv, rgnSync, if_pos hv, setFlag_run]

theorem rgnSyncDone_run {s : State} (hb : s.flag Reg.rgnSync 1 = true) (ho : s.outq = [])
    (hr : ∀ e ∈ s.remotes, e.2.answer.isSome = true) : rgnSyncDone s = .ok () (s.putFlag Reg.rgnSync 1 false) := by
  have hidle : (s.flag Reg.rgnSync 1 && s.outq.isEmpty && s.remotes.all fun e => e.2.answer.isSome) = true := by
    simpa [hb, ho] using hr
  unfold rgnSyncDone
  rw [get_then, require_ok _ _ hidle, setFlag_run]

/-! Measurements and attestation (R118–R121). -/

theorem measCmd_extends {v : Word} {s t : State} (h7 : Word.bit v 7 = false) (h8 : Word.bit v 8 = false)
    (hl : s.flag Reg.measCmd 8 = false ∨ 4 ≤ Word.bits v 0 3)
    (he : extendMeas (Word.bits v 0 3) ((List.range 6).flatMap fun w => leBytes 8 (Map.get (fun _ => 0#64) s.boot.measD w).toNat) s =
      .ok () t) : measCmd v s = .ok () t := by
  have hopen : (s.flag Reg.measCmd 8 && decide (Word.bits v 0 3 < 4)) = false := by
    rcases hl with hl | hl
    · rw [hl, Bool.false_and]
    · rw [decide_eq_false (by omega), Bool.and_false]
  unfold measCmd
  simp only [get_then, h7, h8, hopen, Bool.false_eq_true, if_false, bind_ok he, pure_run]

/-- R119: under LOCK the first four registers take no extend. -/
theorem measCmd_locked {v : Word} {s : State} (h7 : Word.bit v 7 = false) (h8 : Word.bit v 8 = false) (hl : s.flag Reg.measCmd 8 = true)
    (hn : Word.bits v 0 3 < 4) : measCmd v s = .ok () (s.putFlag Reg.measCmd 7 true) := by
  have hlocked : (s.flag Reg.measCmd 8 && decide (Word.bits v 0 3 < 4)) = true := by simp [hl, hn]
  unfold measCmd
  simp only [get_then, h7, h8, hlocked, Bool.false_eq_true, if_false, if_true, setFlag_then, pure_run]

theorem spdmRequest_run {req : List Byte} {s : State} (hb : s.flag Reg.bootStat 0 = true) :
    spdmRequest req s = .ok () ({ s with tick := s.tick + 1, boot := { s.boot with mbox := s.spdm req s.tick },
                                         hostOut := (0#8 :: s.spdm req s.tick) :: s.hostOut } : State) := by
  unfold spdmRequest
  rw [get_then, require_ok _ _ hb, fresh_then, updBoot_then]
  rfl

theorem bootEvents : Claims.BootEvents :=
  ⟨fun _ => rfl, fun _ => rfl,
   fun _ => ⟨rfl, rfl, rfl, rfl, rfl, rfl, rfl, rfl, rfl, rfl, rfl, rfl, rfl, rfl, rfl, rfl, rfl, rfl⟩,
   fun _ _ hp hb => runExec_ok (porstDeassert_run hp hb),
   fun _ _ hp hr h => exec_reload hp hr h,
   fun _ _ hw hb => runExec_ok (hostrdy_run hw hb),
   fun _ hw => runExec_ok (hostrdyTimeout_run hw),
   fun off data s => runExec_ok (bootWindow_run off data s),
   fun _ _ _ _ hi hh hk hv hs hf => bootRest_badSignature hi hh hk hv hs hf⟩

theorem securityEvents : Claims.SecurityEvents := by
  refine ⟨fun k off w v s ha hlo hhi h8 hk hl => runExec_admitted ha ?_, fun k off w v s ha hlo hhi h16 hk hl => runExec_admitted ha ?_,
    fun k off w v s ha hlo hhi h16 hk hl => runExec_admitted ha ?_, fun _ _ _ ha hv => exec_rgnSyncGo ha hv,
    fun _ hb ho hr => runExec_ok (rgnSyncDone_run hb ho hr),
    fun _ _ _ _ ha h7 h8 hl he => runExec_admitted ha (measCmd_extends h7 h8 hl he),
    fun _ _ _ ha h7 h8 hl hn => runExec_admitted ha (measCmd_locked h7 h8 hl hn),
    fun _ _ hb => runExec_ok (spdmRequest_run hb)⟩
  · rw [rgnWrite_entry v s hlo hhi h8 hk, rgnEntryWrite_locked hl]
  · rw [rgnWrite_entry v s hlo hhi (by omega) hk, h16]
    exact rgnEntryWrite_hi hl
  · rw [rgnWrite_entry v s hlo hhi (by omega) hk, h16]
    exact rgnEntryWrite_lo hl

/-- Settles O51: each event is run on its program, one equation per case; a package reset is the state as written. -/
theorem bootAndSecurityEvents : Obligations.BootAndSecurityEvents := ⟨bootEvents, securityEvents⟩

end Sys2Proof.Laws
end

section
/-! Ports in packet mode: PORT_CTL, PORT_SECRET, UNLOCK, draining, retraining and the link-state record, case by case. -/
namespace Sys2Proof.Laws
open Sys2Proof.Machine

@[simp] theorem countErr_run (p lo : Nat) (s : State) : countErr p lo s = .ok () (s.counted p lo) := rfl
@[simp] theorem countErr_then {β : Type} (p lo : Nat) (f : Unit → Exec β) (s : State) :
    (countErr p lo >>= f) s = f () (s.counted p lo) := rfl

theorem enterRetrain_run (p : Nat) (s : State) :
    enterRetrain p s = .ok () ((s.putField (Reg.portStat p) 32 3 1).counted p errRetrain) := rfl

/-! PORT_CTL and PORT_SECRET (R56, R65, R66, R70, R74). -/

/-- R70: a port that is not locked drains while EN is 0. -/
theorem portCtl_en {p : Nat} {v : Word} {s : State} (h0 : Word.bit v 0 = false) (h1 : Word.bit v 1 = false) (h2 : Word.bit v 2 = false)
    (hs : s.portState p ≠ 4) :
    portCtl p v s = .ok () ((s.wrote (Reg.portCtl p) v).onLink p fun l => { l with draining := true }) := by
  simp [portCtl, hs, h0, h1, h2]

/-- R56: RETRAIN takes a port that is UP or FAILED into retraining. -/
theorem portCtl_retrain {p : Nat} {v : Word} {s : State} (h0 : Word.bit v 0 = true) (h1 : Word.bit v 1 = true) (h2 : Word.bit v 2 = false)
    (hs : s.portState p = 3 ∨ s.portState p = 5) :
    portCtl p v s = .ok () ((((s.wrote (Reg.portCtl p) v).putField (Reg.portStat p) 32 3 1).counted p errRetrain).onLink p
      fun l => { l with draining := false }) := by
  have hopen : s.portState p ≠ 4 := by omega
  simp [portCtl, bind_ok (enterRetrain_run ..), hopen, hs, h0, h1, h2]

/-- R56: a locked port keeps EN, and UNLOCK is all that a write does there. -/
theorem portCtl_unlock {p : Nat} {v : Word} {s t : State} (h2 : Word.bit v 2 = true) (hs : s.portState p = 4)
    (hu : unlockPort p (s.wrote (Reg.portCtl p) (Word.setBit v 0 (s.flag (Reg.portCtl p) 0))) = .ok () t) :
    portCtl p v s = .ok () t := by
  simp [portCtl, hu, hs, h2]

theorem portCtlWrite_run {b : Bool} {i p : Nat} {w : Writer} {v : Word} {s t : State} (ha : s.admits w (Reg.portCtl p) v = true)
    (hp : p < 36) (hv : Word.bit v i = b) (h : portCtl p v s = .ok () t) : runExec (portCtlWrite (b, i) p w v) s = .next t :=
  runExec_admitted ha ((require_ok _ _ (by simp [hp, hv])).trans h)

theorem unlockPort_packet {p : Nat} {s : State} (hc : s.circuit p = false) (hs : s.portState p = 4) :
    unlockPort p s = .ok () ((s.onSess p 4096 fun e =>
      { e with sendSeq := 0, expect := 0, keyed := true, nakOut := false, failsAtE := 0, fails := 0, resend := [], accepted := 0, lsrPeer := [],
               attempt := 1, own := (s.link p).record }).putField (Reg.portStat p) 32 3 2) := by
  have hk : s.ctlKey p = 4096 := by simp [State.ctlKey, hc]
  unfold unlockPort
  simp only [get_then, hk, hc, hs, Bool.false_eq_true, if_false, if_true, updSess_then, setField_run]

theorem exec_portSecretWrite {p k : Nat} {w : Writer} {v : Word} {s : State} (ha : s.admits w (Reg.portSecret p k) v = true) (hp : p < 36)
    (hk : k < 6) :
    exec (.portSecretWrite p k w v) s = .next (s.onSess p (s.ctlKey p) fun e =>
      { e with secret := (if e.secret.length = 48 then e.secret else List.replicate 48 0#8).take (8 * k) ++ leBytes 8 v.toNat ++
                 (if e.secret.length = 48 then e.secret else List.replicate 48 0#8).drop (8 * k + 8) }) := by
  refine runExec_admitted ha ?_
  rw [require_ok _ _ (by simp [hp, hk]), portSecret, get_then, updSess_run]

theorem portDrained_run {p : Nat} {s : State} (hp : p < 36) (hd : (s.link p).draining = true) (h0 : s.portState p ≠ 0)
    (h4 : s.portState p ≠ 4) (hq : (s.link p).queue = []) (hw : (s.link p).waiting = []) (hr : ∀ e ∈ (s.link p).sess, e.2.resend = []) :
    portDrained p s = .ok () ((s.putField (Reg.portStat p) 32 3 0).onLink p fun l => { l with draining := false }) := by
  have hidle : ((s.link p).sess.all fun e => e.2.resend.isEmpty) = true := by simpa using fun i e he => hr (i, e) he
  unfold portDrained
  rw [get_then, require_ok _ _ (by simp only [hp, hd, hq, hw, hidle, bne_iff_ne.mpr h0, bne_iff_ne.mpr h4]; rfl), setField_then, updLink_run]

/-! Retraining (R67). -/

theorem exec_retrainTrigger {p : Nat} {s : State} (hp : p < 36) (hs : s.portState p = 3) :
    exec (.retrainTrigger p) s = .next ((s.putField (Reg.portStat p) 32 3 1).counted p errRetrain) := by
  refine runExec_ok ?_
  rw [get_then, require_ok _ _ (by simp [hp, hs]), enterRetrain_run]

/-- The lanes a port keeps after retraining, of those it asked for: the ones good at the full rate if they make a link, else all that
passed. -/
def lanesKept (full half want : Nat) : Nat :=
  if 2 ≤ popcount (full &&& want) 8 then full &&& want else (full ||| half) &&& want

/-- The rate of the lanes kept: 0 the full one, 1 half of it. -/
def rateKept (full want : Nat) : Nat := if 2 ≤ popcount (full &&& want) 8 then 0 else 1

theorem retrainDone_eq (p full half : Nat) (s : State) (hp : p < 36) (hs : s.portState p = 1) :
    retrainDone p full half s =
      let want := s.field (Reg.optTrn p) 16 8
      let lm := lanesKept full half want
      let own := (widthOf (popcount lm 8), lm, rateKept full want)
      let u := s.putField (Reg.optTstat p) 8 8 lm
      if popcount lm 8 < 2 then portFails p 0x34 u
      else .ok () (((u.onLink p fun l => { l with record := own }).putField (Reg.portStat p) 32 3 2).onSess p 4096 fun e =>
        { e with attempt := 1, own := own, lsrPeer := [] }) := by
  unfold retrainDone lanesKept rateKept
  rw [get_then, require_ok _ _ (by simp [hp, hs])]
  by_cases hf : 2 ≤ popcount (full &&& s.field (Reg.optTrn p) 16 8) 8 <;>
    simp only [hf, if_true, if_false, setField_then, ite_run, updLink_then, updSess_run]

/-! The link-state record (R68, R69). -/

theorem exec_lsrTimeout {p : Nat} {s t : State} (hp : p < 36) (hs : s.portState p = 2) (hc : s.circuit p = false)
    (hf : portFails p 0x33 s = .ok () t) : exec (.lsrTimeout p) s = .next t := by
  refine runExec_ok ?_
  rw [get_then, require_ok _ _ (by simp [hp, hs, hc]), hf]

theorem lsrSend_run {p : Nat} {s t : State} (hp : p < 36) (hs : s.portState p = 2) (hc : s.circuit p = false)
    (he : emitFlit p 4096 (s.sess p 4096).sendSeq ⟨flitHdr tyLSR 2 true true (BitVec.ofNat 10 s.pkg) (BitVec.ofNat 10 (s.farPkg p))
      (s.sess p 4096).sendSeq (s.sess p 4096).expect 32 0, fullPayload (s.lsrRecord p)⟩ s = .ok () t) :
    lsrSend p s = .ok () (t.onSess p 4096 fun x => { x with sendSeq := (s.sess p 4096).sendSeq + 1 }) := by
  unfold lsrSend
  rw [get_then, require_ok _ _ (by simp [hp, hs, hc]), bind_ok he, updSess_run]

theorem exec_lsrReceive {p : Nat} {body : List Byte} {s t : State} (hp : p < 36) (hs : s.portState p = 2) (hc : s.circuit p = false)
    (hb : body.length = 32) (h : lsrReceived p body s = .ok () t) : exec (.lsrReceive p body) s = .next t := by
  refine runExec_ok ?_
  rw [get_then, require_ok _ _ (by simp [hp, hs, hc, hb]), h]

/-- Settles O47: each event is run on its program, one equation per case of the rules. -/
theorem portEvents : Obligations.PortEvents := by
  refine ⟨fun _ _ _ _ ha hp h0 h1 h2 hs => portCtlWrite_run ha hp h0 (portCtl_en h0 h1 h2 hs),
    fun _ _ _ _ ha hp h0 h1 h2 hs => portCtlWrite_run ha hp h1 (portCtl_retrain h0 h1 h2 hs),
    fun _ _ _ _ _ ha hp h2 hs hu => portCtlWrite_run ha hp h2 (portCtl_unlock h2 hs hu),
    fun _ _ hc hs => unlockPort_packet hc hs,
    fun _ _ _ _ _ ha hp hk => exec_portSecretWrite ha hp hk,
    fun _ _ hp hd h0 h4 hq hw hr => runExec_ok (portDrained_run hp hd h0 h4 hq hw hr),
    fun _ _ hp hs => exec_retrainTrigger hp hs,
    fun p full half s hp hs => ?_,
    fun _ _ _ hp hs hc hf => exec_lsrTimeout hp hs hc hf,
    fun _ _ _ hp hs hc he => runExec_ok (lsrSend_run hp hs hc he),
    fun _ _ _ _ hp hs hc hb h => exec_lsrReceive hp hs hc hb h⟩
  have hrun := retrainDone_eq p full.toNat half.toNat s hp hs
  exact ⟨fun h => runExec_ok (hrun.trans (if_neg (Nat.not_lt.mpr h))), fun h t ht => runExec_ok (hrun.trans ((if_pos h).trans ht))⟩

end Sys2Proof.Laws
end

section
/-! Flits: which goes out next, what a received one does, NAKs, timeouts, acknowledgements, and attestation messages, case by case. -/
namespace Sys2Proof.Laws
open Sys2Proof.Machine

/-! Sending (R64, R75). -/

/-- R64: what is to be sent again goes before any message. -/
theorem flitSend_resend {p q : Nat} {f : Flit} {rest : List (Nat × Flit)} {s t : State} (hp : p < 36) (hm : s.maySend p = true)
    (ha : s.attestOnly p = false) (hu : s.upNow p = true) (hr : (s.sess p (s.sessKey p)).resend = (q, f) :: rest)
    (he : emitFlit p (s.sessKey p) q f s = .ok () t) :
    flitSend p s = .ok () (t.onSess p (s.sessKey p) fun e => { e with resend := rest }) := by
  unfold flitSend
  rw [get_then, require_ok _ _ (by simp [hp, hm])]
  simp only [ha, Bool.false_eq_true, if_false, require_ok _ _ hu, hr, bind_ok he, updSess_run]

theorem flitSend_next {p : Nat} {x : SendMsg} {s t : State} (hp : p < 36) (hm : s.maySend p = true) (ha : s.attestOnly p = false)
    (hu : s.upNow p = true) (hr : (s.sess p (s.sessKey p)).resend = []) (hl : (s.sess p (s.sessKey p)).replay.length < 4096)
    (hq : (s.sess p (s.sessKey p)).sendSeq < 2 ^ 64 - 1)
    (hx : pickMsg (s.link p) (fun x => (! s.circuit p || x.key == peerOf (s.entryWord p)) && x.msg.typ != tyATTEST) = some x)
    (hn : sendNext p (s.sessKey p) x s = .ok () t) : flitSend p s = .ok () t := by
  have hroom : (decide ((s.sess p (s.sessKey p)).replay.length < 4096) && decide ((s.sess p (s.sessKey p)).sendSeq < 2 ^ 64 - 1)) = true := by
    rw [decide_eq_true hl, decide_eq_true hq, Bool.and_self]
  unfold flitSend
  rw [get_then, require_ok _ _ (by simp [hp, hm])]
  simp only [ha, Bool.false_eq_true, if_false, require_ok _ _ hu, hr, require_ok _ _ hroom, hx, hn]

/-- The state with an ACKONLY message ahead of all that the port has queued. -/
def ackAhead (p : Nat) (s : State) : State :=
  s.onLink p fun l => { l with queue := ⟨s.farPkg p, 2, ⟨tyACKONLY, true, BitVec.ofNat 10 s.pkg, BitVec.ofNat 10 (s.farPkg p), 0#32, []⟩,
    0, false⟩ :: l.queue }

theorem sendAhead_ackOnly (p : Nat) (s : State) : sendAhead p tyACKONLY 0 s = .ok () (ackAhead p s) := rfl

theorem keepalive_run {p : Nat} {s : State} (hp : p < 36) (hu : s.upNow p = true) (hr : (s.sess p (s.sessKey p)).resend = [])
    (hq : ∀ x ∈ (s.link p).queue, x.parked = true) : keepalive p s = .ok () (ackAhead p s) := by
  unfold keepalive
  rw [get_then, require_ok _ _ (by simpa [hp, hu, hr] using hq), sendAhead_ackOnly]

theorem ackThreshold_run {p : Nat} {s : State} (hp : p < 36) (hu : s.upNow p = true) (ha : 512 ≤ (s.sess p (s.sessKey p)).accepted)
    (hq : s.ackQueued p = false) : ackThreshold p s = .ok () (ackAhead p s) := by
  unfold ackThreshold
  rw [get_then, require_ok _ _ (by simp [hp, hu, ha, hq]), sendAhead_ackOnly]

/-- R64: after a timeout the whole replay buffer is to be sent again. -/
theorem replayTimeout_run {p : Nat} {s : State} (hp : p < 36) (hu : s.upNow p = true) (hr : (s.sess p (s.sessKey p)).replay ≠ []) :
    replayTimeout p s = .ok () ((s.onSess p (s.sessKey p) fun e => { e with resend := e.replay }).counted p errReplay) := by
  unfold replayTimeout
  rw [get_then, require_ok _ _ (by simp [hp, hu, hr]), updSess_then, countErr_run]

theorem sessionExhausted_run {p : Nat} {s t : State} (hp : p < 36) (hu : s.upNow p = true)
    (hq : 2 ^ 64 - 1 ≤ (s.sess p (s.sessKey p)).sendSeq) (hl : lockPort p (s.sessKey p) 0x36 s = .ok () t) :
    sessionExhausted p s = .ok () t := by
  have hready : (decide (p < 36) && s.upNow p && decide (2 ^ 64 - 1 ≤ (s.sess p (s.sessKey p)).sendSeq)) = true := by
    rw [decide_eq_true hp, hu, decide_eq_true hq]; rfl
  unfold sessionExhausted
  rw [get_then, require_ok _ _ hready, hl]

/-! Receiving (R59, R63, R64). -/

/-- In packet mode every flit belongs to the port's one session. -/
theorem receiveKey_packet {p : Nat} {s : State} (hc : s.circuit p = false) : s.receiveKey p = some 4096 := by
  simp [State.receiveKey, hc]

/-! R63: a flit at an UP port is tried under the number nearest to the expected one. -/

section
variable {p : Nat} {bytes : List Byte} {s t : State} (hp : p < 36) (hb : bytes.length = 256) (hc : s.circuit p = false)
  (hs : s.portState p = 3)
include hp hb hc hs

theorem flitReceive_verifies {f : Flit}
    (ho : openFlit (s.sess p 4096).secret (1 - s.sendDir p) (nearest (s.sess p 4096).expect (2 ^ 32) (rawFlit bytes).seq) bytes = some f)
    (hv : verified p 4096 (nearest (s.sess p 4096).expect (2 ^ 32) (rawFlit bytes).seq) f s = .ok () t) :
    flitReceive p bytes s = .ok () t := by
  unfold flitReceive
  rw [get_then, require_ok _ _ (by simp [hp, hb])]
  simp [receiveKey_packet hc, hc, hs, ho, hv, -Nat.reducePow]

theorem flitReceive_fails
    (ho : openFlit (s.sess p 4096).secret (1 - s.sendDir p) (nearest (s.sess p 4096).expect (2 ^ 32) (rawFlit bytes).seq) bytes = none)
    (hf : tagFailed p 4096 ((rawFlit bytes).seq == (s.sess p 4096).expect % 2 ^ 32) s = .ok () t) :
    flitReceive p bytes s = .ok () t := by
  unfold flitReceive
  rw [get_then, require_ok _ _ (by simp [hp, hb])]
  simp [receiveKey_packet hc, hc, hs, ho, hf, -Nat.reducePow]

end

theorem exec_nakReceive {p : Nat} {q : BitVec 32} {s : State} (hp : p < 36) (hu : s.upNow p = true) :
    exec (.nakReceive p q) s = .next (s.onSess p (s.sessKey p) fun e =>
      { e with resend := e.replay.filter (nearest e.sendSeq (2 ^ 32) q.toNat ≤ ·.1) }) := by
  refine runExec_ok ?_
  rw [get_then, require_ok _ _ (by simp [hp, hu]), nakReceived, updSess_run]

/-! A flit whose tag verifies: its acknowledgement counts first, then its number decides (R63). -/

section
variable {p key q : Nat} {f : Flit} {s t u : State} (ht : f.typ ≠ tyLSR)
  (ha : acked p key (nearest (s.sess p key).sendSeq (2 ^ 24) (f.field 40 24)) s = .ok () t)
include ht ha

theorem verified_expected (hq : q = (s.sess p key).expect)
    (hu : acceptPayload p key f (t.onSess p key fun x =>
      { x with expect := q + 1, nextSeq := q + 1, accepted := x.accepted + 1, fails := 0, failsAtE := 0, nakOut := false }) = .ok () u) :
    verified p key q f s = .ok () u := by
  unfold verified
  rw [get_then]
  simp only [bind_ok ha, ht, ← hq, Nat.lt_irrefl, if_false, updSess_then, hu]

theorem verified_repeated (hq : q < (s.sess p key).expect) : verified p key q f s = .ok () t := by
  unfold verified
  rw [get_then]
  simp only [bind_ok ha, ht, hq, if_false, if_true, pure_run]

theorem verified_ahead (hq : (s.sess p key).expect < q) (hn : sendNak p key (t.counted p errReplay) = .ok () u) :
    verified p key q f s = .ok () u := by
  unfold verified
  rw [get_then]
  simp only [bind_ok ha, ht, hq, Nat.lt_asymm hq, if_false, if_true, countErr_then, hn]

end

/-! Attestation messages (R65). -/

/-- The length that a kind of attestation message announces: a HELLO, a REPORT, a PROOF; 0 for no kind. -/
def attestLength (kind : Nat) : Nat := match kind with | 1 => 129 | 2 => 656 | 3 => 144 | _ => 0

theorem attestMessage_run (p : Nat) (body : List Byte) (s : State) :
    attestMessage p body s = .ok () (if attestLength (body.getD 0 0#8).toNat = 0 ∨
        leVal ((body.drop 2).take 2) ≠ attestLength (body.getD 0 0#8).toNat ∨ body.length ≠ 4 + leVal ((body.drop 2).take 2)
      then s.counted p errProto else s.onLink p fun l => { l with attestIn := l.attestIn ++ [body] }) :=
  (ite_run ..).trans (apply_ite (EStateM.Result.ok ()) ..).symm

theorem exec_attestMessageReceive {p : Nat} {body : List Byte} {s t : State} (hp : p < 36) (ha : s.attestOnly p = true)
    (h : attestMessage p body s = .ok () t) : exec (.attestMessageReceive p body) s = .next t := by
  refine runExec_ok ?_
  rw [get_then, require_ok _ _ (by simp [hp, ha]), h]

/-- Settles O48: each event is run on its program, one equation per case of the rules. -/
theorem flitEvents : Obligations.FlitEvents :=
  ⟨fun _ _ _ _ _ _ hp hm ha hu hr he => runExec_ok (flitSend_resend hp hm ha hu hr he),
   fun _ _ _ _ hp hm ha hu hr hl hq hx hn => runExec_ok (flitSend_next hp hm ha hu hr hl hq hx hn),
   fun _ _ _ _ _ hp hb hc hs ho hv => runExec_ok (flitReceive_verifies hp hb hc hs ho hv),
   fun _ _ _ _ hp hb hc hs ho hf => runExec_ok (flitReceive_fails hp hb hc hs ho hf),
   fun _ _ _ _ _ _ ht hq ha _ hu => verified_expected ht ha hq hu,
   fun _ _ _ _ _ _ ht hq ha => verified_repeated ht ha hq,
   fun _ _ _ _ _ _ _ ht hq ha hn => verified_ahead ht ha hq hn,
   fun _ _ _ hp hu => exec_nakReceive hp hu,
   fun _ _ hp hu hr => runExec_ok (replayTimeout_run hp hu hr),
   fun _ _ hp hu hr hq => runExec_ok (keepalive_run hp hu hr hq),
   fun _ _ hp hu ha hq => runExec_ok (ackThreshold_run hp hu ha hq),
   fun _ _ _ hp hu hq hl => runExec_ok (sessionExhausted_run hp hu hq hl),
   fun p body s hp ha => exec_attestMessageReceive hp ha (attestMessage_run p body s)⟩

end Sys2Proof.Laws
end

section
/-! Circuit mode: SLOT_CFG, rotations, guards and windows, and the training of circuits, case by case. -/
namespace Sys2Proof.Laws
open Sys2Proof.Machine

theorem stopSlots_then {β : Type} (p : Nat) (f : Unit → Exec β) (s : State) :
    (stopSlots p >>= f) s = f () (((s.putFlag (Reg.slotCfg p) 0 false).setReg (Reg.circStat p) 0#64).onLink p
      fun l => { l with running := false, window := false, late := none }) := rfl

theorem stopSlots_run (p : Nat) (s : State) :
    stopSlots p s = .ok () (((s.putFlag (Reg.slotCfg p) 0 false).setReg (Reg.circStat p) 0#64).onLink p
      fun l => { l with running := false, window := false, late := none }) := rfl

/-! SLOT_CFG (R76, R77, R81). -/

theorem slotCfg_off {p : Nat} {v : Word} (s : State) (hv : Word.bit v 0 = false) :
    slotCfg p v s = .ok () ((((s.wrote (Reg.slotCfg p) v).putFlag (Reg.slotCfg p) 0 false).setReg (Reg.circStat p) 0#64).onLink p
      fun l => { l with running := false, window := false, late := none }) := by
  simp [slotCfg, stopSlots_run, hv]

/-- R77: EN set is refused where the table it would start does not pass the checks. -/
theorem slotCfg_on {p : Nat} {v : Word} {s : State} (hv : Word.bit v 0 = true) (he : s.flag (Reg.slotCfg p) 0 = false) :
    slotCfg p v s = .ok () (
      let u := s.wrote (Reg.slotCfg p) v
      if u.tableOk p (u.slotTable p) then u.onLink p fun l =>
        { l with mark := firstStart (Word.bits v 32 32) (rotationLength (u.slotTable p)) u.dcc.toNat, running := false, window := false,
                 late := none }
      else (u.putFlag (Reg.slotCfg p) 0 false).putFlag (Reg.slotCfg p) 1 true) := by
  unfold slotCfg
  simp only [get_then, plainWrite_then, hv, he, Bool.not_true, Bool.false_eq_true, if_false, ite_run, updLink_run, setFlag_then, setFlag_run]
  split <;> rfl

theorem exec_slotCfgWrite {p : Nat} {w : Writer} {v : Word} {s t : State} (ha : s.admits w (Reg.slotCfg p) v = true) (hp : p < 36)
    (h : slotCfg p v s = .ok () t) : exec (.slotCfgWrite p w v) s = .next t :=
  runExec_admitted ha ((require_ok _ _ (by simp [hp])).trans h)

/-! Rotations and their windows (R76, R79, R520). -/

/-- R520: a rotation captures the table; one that no longer passes the checks stops circuit mode. -/
theorem rotationStart_run {p : Nat} {s : State} (hp : p < 36) (he : s.flag (Reg.slotCfg p) 0 = true) (hr : (s.link p).running = false)
    (hm : (s.link p).mark ≤ s.dcc.toNat) :
    rotationStart p s = .ok () (if s.tableOk p (s.slotTable p) then s.onLink p fun l =>
        { l with running := true, table := s.slotTable p, entry := 0, window := false, silent := ! s.flag Reg.tsyncStat 0 }
      else ((((s.putFlag (Reg.slotCfg p) 0 false).setReg (Reg.circStat p) 0#64).onLink p
        fun l => { l with running := false, window := false, late := none })).putFlag (Reg.slotCfg p) 1 true) := by
  unfold rotationStart
  rw [get_then, require_ok _ _ (by simp [hp, he, hr, hm])]
  simp only [ite_run, updLink_run, stopSlots_then, setFlag_run]
  split <;> rfl

theorem slotGuardEnd_run {p : Nat} {s : State} (hp : p < 36) (hr : (s.link p).running = true) (hw : (s.link p).window = false)
    (hd : (s.link p).mark + guardOf (s.entryWord p) * 15 ≤ s.dcc.toNat) :
    slotGuardEnd p s = .ok () (s.onLink p fun l =>
      { l with window := true, mark := (s.link p).mark + guardOf (s.entryWord p) * 15, late := none }) := by
  unfold slotGuardEnd
  rw [get_then, require_ok _ _ (by simp [hp, hr, hw, hd]), updLink_run]

theorem slotWindowEnd_run {p : Nat} {s : State} (hp : p < 36) (hr : (s.link p).running = true) (hw : (s.link p).window = true)
    (hd : (s.link p).mark + durOf (s.entryWord p) * 15 ≤ s.dcc.toNat) :
    slotWindowEnd p s = .ok () (
      let more := decide ((s.link p).entry + 1 < (s.link p).table.length)
      s.onLink p fun l =>
        { l with window := false, mark := (s.link p).mark + durOf (s.entryWord p) * 15, late := some (s.entryWord p), running := more,
                 entry := if more then l.entry + 1 else l.entry, silent := l.silent || ! s.flag Reg.tsyncStat 0 }) := by
  unfold slotWindowEnd
  rw [get_then, require_ok _ _ (by simp [hp, hr, hw, hd]), updLink_run]

/-! The training of circuits (R78). -/

section
variable {p i : Nat} {s : State} (hp : p < 36) (hc : s.circuit p = true) (he : s.flag (Reg.slotCfg p) 0 = true)
  (hi : i < (s.link p).table.length) (hn : s.flag (Reg.circStat p) i = false)
include hp hc he hi hn

/-- A circuit whose session is keyed enters UP with what its exchange agreed on. -/
theorem circuitTrained_ok {w n sp : Nat} {s1 s2 s3 : State} (hk : (s.sess p (circuitOf ((s.link p).table.getD i 0#64))).keyed = true)
    (hs : (s.sess p (circuitOf ((s.link p).table.getD i 0#64))).secret.length = 48) (h1 : choose 54 3 s = .ok w s1)
    (h2 : choose 55 256 s1 = .ok n s2) (h3 : choose 56 2 s2 = .ok sp s3) :
    circuitTrained p i true s = .ok () (
      let width := [8, 4, 2].getD w 8
      ((((s3.putField (Reg.portStat p) 36 4 width).putField (Reg.portStat p) 40 8
        (if width ≤ popcount n 8 then n else 0xFF)).putField (Reg.portStat p) 35 1 sp).putFlag (Reg.circStat p) i true).putField
        (Reg.portStat p) 32 3 3) := by
  unfold circuitTrained
  rw [get_then, require_ok _ _ (by simp [hp, hc, he, hi, hn])]
  rw [if_pos rfl, require_ok _ _ (by rw [hk, hs]; rfl), bind_ok h1, bind_ok h2, bind_ok h3]
  simp only [setField_then, setFlag_then, setField_run]

theorem circuitTrained_failed {c : Nat} {t : State} (hch : choose 57 5 s = .ok c t) :
    circuitTrained p i false s = .ok () (t.putField (Reg.portStat p) 48 8 (0x31 + c)) := by
  unfold circuitTrained
  rw [get_then, require_ok _ _ (by simp [hp, hc, he, hi, hn])]
  simp only [Bool.false_eq_true, if_false, bind_ok hch, setField_run]

end

/-- Settles O49: each event is run on its program, one equation per case of the rules. -/
theorem circuitEvents : Obligations.CircuitEvents :=
  ⟨fun _ _ _ s ha hp hv => exec_slotCfgWrite ha hp (slotCfg_off s hv),
   fun _ _ _ _ ha hp hv he => exec_slotCfgWrite ha hp (slotCfg_on hv he),
   fun _ _ hp he hr hm => runExec_ok (rotationStart_run hp he hr hm),
   fun _ _ hp hr hw hd => runExec_ok (slotGuardEnd_run hp hr hw hd),
   fun _ _ hp hr hw hd => runExec_ok (slotWindowEnd_run hp hr hw hd),
   fun _ _ _ _ _ _ _ _ _ hp hc he hi hn hk hs h1 h2 h3 => runExec_ok (circuitTrained_ok hp hc he hi hn hk hs h1 h2 h3),
   fun _ _ _ _ _ hp hc he hi hn hch => runExec_ok (circuitTrained_failed hp hc he hi hn hch)⟩

end Sys2Proof.Laws
end

section
/-! Messages that arrive, requests that time out, routes, rank tables and time synchronisation, case by case. -/
namespace Sys2Proof.Laws
open Sys2Proof.Machine

/-! Routes and rank tables (R84–R88). -/

theorem exec_routeWrite {n : Nat} {w : Writer} {v : Word} {s : State} (ha : s.admits w (Reg.route n) v = true) (hn : n < 1024) :
    exec (.routeWrite n w v) s = .next (s.wrote (Reg.route n) v) := by
  refine runExec_admitted ha ?_
  rw [require_ok _ _ (decide_eq_true hn), plainWrite_run]

theorem exec_rankTableConfigWrite {k off : Nat} {w : Writer} {v : Word} {s t : State}
    (ha : s.admits w (Reg.rankBase k + off) v = true) (hk : k < 8) (ho : off = 0 ∨ off = 8)
    (hd : dropRanks k (s.wrote (Reg.rankBase k + off) v) = .ok () t) : exec (.rankTableConfigWrite k off w v) s = .next t := by
  refine runExec_admitted ha ?_
  rw [require_ok _ _ (by simp [hk, ho]), rankConfig, plainWrite_then, hd]

/-! Time synchronisation (R89–R92). -/

/-- R92: a master is in SYNC from the write on. -/
theorem tsyncCtl_master {v : Word} (s : State) (hn : Word.bits v 16 8 ≠ 0) (hm : Word.bit v 0 = true) :
    tsyncCtl v s = .ok () { (s.wrote Reg.tsyncCtl v).putFlag Reg.tsyncStat 0 true with tsEver := true, tsSlew := 0, tsGood := 0 } := by
  simp [tsyncCtl, hn, hm]

theorem tsyncCtl_child {v : Word} (s : State) (hn : Word.bits v 16 8 ≠ 0) (hm : Word.bit v 0 = false) (hp : Word.bits v 8 6 ≤ 35) :
    tsyncCtl v s = .ok () (s.wrote Reg.tsyncCtl v) := by
  have hport : ¬ 35 < Word.bits v 8 6 := by omega
  simp [tsyncCtl, hn, hm, hport]

theorem tsyncPeriod_run {s t : State} (hm : s.flag Reg.tsyncCtl 0 = false) (hp : s.field Reg.tsyncCtl 8 6 < 36) (hr : s.dccRun = true)
    (hs : sendTsync (s.field Reg.tsyncCtl 8 6) 1 s.dcc 0#64 0#64 { s with tsT1 := some s.dcc } = .ok () t) :
    tsyncPeriod s = .ok () t := by
  unfold tsyncPeriod
  rw [get_then, require_ok _ _ (by simp [hm, hp, hr]), modify_then, hs]

theorem tsyncReceive_request {p : Nat} {m : Msg} {x : Word} {s t : State} (h1 : msgAt m 0 1 = 1)
    (hs : sendTsync p 2 (BitVec.ofNat 64 (msgAt m 8 8)) x s.dcc s = .ok () t) : tsyncReceive p m x s = .ok () t := by
  simp [tsyncReceive, h1, hs]

/-- R89: a reply to the child's latest request corrects its timebase. -/
theorem tsyncReceive_reply {p : Nat} {m : Msg} {x : Word} {s t : State} (h2 : msgAt m 0 1 = 2) (hm : s.flag Reg.tsyncCtl 0 = false)
    (h1 : s.tsT1 = some (BitVec.ofNat 64 (msgAt m 8 8)))
    (hs : syncTo (syncOffset (BitVec.ofNat 64 (msgAt m 8 8)) (BitVec.ofNat 64 (msgAt m 16 8)) (BitVec.ofNat 64 (msgAt m 24 8)) x) s =
      .ok () t) : tsyncReceive p m x s = .ok () t := by
  simp [tsyncReceive, h2, hm, h1, hs]

/-- A request is taken at the port it came by, a reply at the port to the parent. -/
theorem exec_tsyncReceive {m : Msg} {x : Word} {s t : State} (ht : m.typ = tyTSYNC) (hd : m.dst.toNat = s.pkg)
    (h : tsyncReceive (if msgAt m 0 1 = 1 then s.cameBy m else s.field Reg.tsyncCtl 8 6) m x s = .ok () t) :
    exec (.tsyncReceive m x) s = .next t := by
  refine runExec_ok ?_
  rw [get_then, require_ok _ _ (by simp [ht, hd]), h]

/-! Delivery of a message of this package (R99). -/

section
variable {p : Nat} {m : Msg} {s : State} (hd : m.dst.toNat = s.pkg)
include hd

theorem deliver_request (ht : m.typ = tyRDREQ ∨ m.typ = tyWRREQ ∨ m.typ = tyATREQ ∨ (m.typ = tyDATA ∧ s.isGetData m = false)) :
    deliver p m s = remoteRequest m s := by
  unfold deliver
  rw [get_then, if_neg (fun h => h hd)]
  obtain ht | ht | ht | ⟨ht, hg⟩ := ht
  · rw [ht]; rfl
  · rw [ht]; rfl
  · rw [ht]; rfl
  · rw [ht, hg]; rfl

theorem deliver_response (ht : m.typ = tyRDRSP ∨ m.typ = tyATRSP ∨ m.typ = tyWRACK ∨ s.isGetData m = true) :
    deliver p m s = remoteResponse m s := by
  unfold deliver
  rw [get_then, if_neg (fun h => h hd)]
  obtain ht | ht | ht | hg := ht
  · rw [ht]; rfl
  · rw [ht]; rfl
  · rw [ht]; rfl
  · have ht : m.typ = tyDATA := by simp_all [State.isGetData]
    rw [ht, hg]; rfl

theorem deliver_cadd (ht : m.typ = tyCADD) : deliver p m s = flitCadd m s := by
  unfold deliver
  rw [get_then, if_neg (fun h => h hd), ht]; rfl

theorem deliver_chim {k : Nat} (ht : m.typ = tyCHIM) (hk : s.partOfFpid (msgAt m 0 2) = some k) : deliver p m s = chimReceived k m s := by
  unfold deliver
  rw [get_then, if_neg (fun h => h hd), ht, hk]; rfl

theorem deliver_rsusp (ht : m.typ = tyRSUSP) : deliver p m s = rsusp m s := by
  unfold deliver
  rw [get_then, if_neg (fun h => h hd), ht]; rfl

theorem deliver_rresume (ht : m.typ = tyRRESUME) : deliver p m s = rresume m s := by
  unfold deliver
  rw [get_then, if_neg (fun h => h hd), ht]; rfl

theorem deliver_rsack (ht : m.typ = tyRSACK) : deliver p m s = rsack m s := by
  unfold deliver
  rw [get_then, if_neg (fun h => h hd), ht]; rfl

end

theorem rsack_run {m : Msg} {s : State} {k : Nat} (hk : s.partOfFpid (msgAt m 0 2) = some k) :
    rsack m s = .ok () (s.updPart k fun p => { p with acks := p.acks.erase (m.src.toNat, msgAt m 4 8) }) := by
  unfold rsack
  simp only [get_then, hk, updPart_run]

/-! What accepting a message leaves of the state: the counts of the port's ingress node alone change (R99). -/

@[simp] theorem accepting_pkg (s : State) (m : Msg) : (s.accepting m).pkg = s.pkg := by unfold State.accepting; split <;> rfl

@[simp] theorem accepting_isGetData (s : State) (m n : Msg) : (s.accepting m).isGetData n = s.isGetData n := by
  unfold State.accepting; split <;> rfl

/-- A control message is not counted at the ports. -/
theorem accepting_control {s : State} {m : Msg} (h : Sys2Proof.Machine.counted m.typ = false) : s.accepting m = s := by
  simp [State.accepting, h]

theorem arrive_run (m : Msg) (s : State) : arrive (s.cameBy m) m s = deliver (s.cameBy m) m (s.accepting m) := by
  unfold arrive State.accepting
  cases Sys2Proof.Machine.counted m.typ <;> rfl

theorem arriveAs_run {ok : Msg → State → Bool} {m : Msg} {s : State} (hd : m.dst.toNat = s.pkg) (ho : ok m s = true) :
    arriveAs ok m s = deliver (s.cameBy m) m (s.accepting m) := by
  unfold arriveAs
  rw [get_then, require_ok _ _ (by simp [hd, ho]), arrive_run]

section
variable {m : Msg} {s t : State} (hd : m.dst.toNat = s.pkg)
include hd

theorem exec_remoteRequestReceive
    (ht : m.typ = tyRDREQ ∨ m.typ = tyWRREQ ∨ m.typ = tyATREQ ∨ (m.typ = tyDATA ∧ s.isGetData m = false))
    (h : remoteRequest m (s.accepting m) = .ok () t) : exec (.remoteRequestReceive m) s = .next t := by
  refine runExec_ok ((arriveAs_run hd ?_).trans ((deliver_request (by simpa using hd) (by simpa using ht)).trans h))
  simpa [or_assoc] using ht

theorem exec_remoteResponseReceive (ht : m.typ = tyRDRSP ∨ m.typ = tyATRSP ∨ m.typ = tyWRACK ∨ s.isGetData m = true)
    (h : remoteResponse m (s.accepting m) = .ok () t) : exec (.remoteResponseReceive m) s = .next t := by
  refine runExec_ok ((arriveAs_run hd ?_).trans ((deliver_response (by simpa using hd) (by simpa using ht)).trans h))
  simpa [or_assoc] using ht

theorem exec_flitCaddReceive (ht : m.typ = tyCADD) (h : flitCadd m (s.accepting m) = .ok () t) : exec (.flitCaddReceive m) s = .next t :=
  runExec_ok ((arriveAs_run hd (beq_iff_eq.mpr ht)).trans ((deliver_cadd (by simpa using hd) ht).trans h))

/-- A control message arrives without being counted. -/
theorem arriveAs_control {ok : Msg → State → Bool} (ho : ok m s = true) (hc : Sys2Proof.Machine.counted m.typ = false) :
    arriveAs ok m s = deliver (s.cameBy m) m s := by
  rw [arriveAs_run hd ho, accepting_control hc]

theorem exec_chimReceive {k : Nat} (ht : m.typ = tyCHIM) (hk : s.partOfFpid (msgAt m 0 2) = some k) (h : chimReceived k m s = .ok () t) :
    exec (.chimReceive m) s = .next t :=
  runExec_ok ((arriveAs_control hd (beq_iff_eq.mpr ht) (by rw [ht]; rfl)).trans ((deliver_chim hd ht hk).trans h))

theorem exec_rsuspReceive (ht : m.typ = tyRSUSP) (h : rsusp m s = .ok () t) : exec (.rsuspReceive m) s = .next t :=
  runExec_ok ((arriveAs_control hd (beq_iff_eq.mpr ht) (by rw [ht]; rfl)).trans ((deliver_rsusp hd ht).trans h))

theorem exec_rsackReceive {k : Nat} (ht : m.typ = tyRSACK) (hk : s.partOfFpid (msgAt m 0 2) = some k) :
    exec (.rsackReceive m) s = .next (s.updPart k fun p => { p with acks := p.acks.erase (m.src.toNat, msgAt m 4 8) }) :=
  runExec_ok ((arriveAs_control hd (beq_iff_eq.mpr ht) (by rw [ht]; rfl)).trans ((deliver_rsack hd ht).trans (rsack_run hk)))

theorem exec_rresumeReceive (ht : m.typ = tyRRESUME) (h : rresume m s = .ok () t) : exec (.rresumeReceive m) s = .next t :=
  runExec_ok ((arriveAs_control hd (beq_iff_eq.mpr ht) (by rw [ht]; rfl)).trans ((deliver_rresume hd ht).trans h))

end

/-! Timeouts (R95, R86). -/

theorem holdTimeout_run {tag : Nat} {s t u v : State} {r : Remote} {x : SendMsg} {ms : List Msg}
    (hf : Map.find s.remotes tag = some r) (ha : r.answer = none)
    (hp : s.portState r.port ≠ 3) (hq : s.queued r.port tag = some x) (hx : x.parked = false)
    (ht : takeQueued r.port (· == x) s = .ok ms u) (hw : admitWaiting r.port u = .ok () v) (he : answerRemote tag 0x241#10 [] v = .ok () t) :
    holdTimeout tag s = .ok () t := by
  unfold holdTimeout
  simp only [get_then, hf]
  rw [require_ok _ _ (by simp [ha, hp])]
  simp only [hq]
  rw [require_ok _ _ (by simp [hx]), bind_ok ht, bind_ok hw, he]

theorem responseTimeout_run {tag : Nat} {s t : State} {r : Remote} (hf : Map.find s.remotes tag = some r) (ha : r.answer = none)
    (hq : s.queued r.port tag = none) (he : answerRemote tag 0x249#10 [] s = .ok () t) : responseTimeout tag s = .ok () t := by
  unfold responseTimeout
  simp only [get_then, hf]
  rw [require_ok _ _ (by simp [ha, hq]), he]

/-! Requests (R94). -/

/-- R94: a load that the region table allows answers the bytes read once their blocks have passed the exit checks. -/
theorem remoteRequest_read {m : Msg} {s u t : State} {a n : Nat} (ht : m.typ = tyRDREQ) (hm : msgAt m 0 8 = a) (hn : msgAt m 8 4 = n)
    (ha : a < 2 ^ 40) (hr : s.rgnAllows m.world a = true) (hc : exitChecks (s.blocksOf a n) s = .ok none u)
    (h : reply m tyRDRSP (leBytes 8 0 ++ s.bytes a n) u = .ok () t) : remoteRequest m s = .ok () t := by
  have hdata : m.typ ≠ tyDATA := by rw [ht]; decide
  have hin : ¬ (2 ^ 40 ≤ a ∨ (! s.rgnAllows m.world a) = true) := by simpa [hr] using ha
  unfold remoteRequest
  simp only [get_then, hm, if_neg hdata, if_neg hin, if_pos ht]
  unfold serveRead
  simp only [get_then, hm, hn, bind_ok hc, h]

/-- R94: a request at an address of 2^40 or more, or at one that the region table does not allow, is refused. -/
theorem remoteRequest_refused {m : Msg} {s t : State} (ht : m.typ ≠ tyDATA)
    (hr : 2 ^ 40 ≤ msgAt m 0 8 ∨ s.rgnAllows m.world (msgAt m 0 8) = false) (h : replyStatus m 0x247#10 s = .ok () t) :
    remoteRequest m s = .ok () t := by
  have hout : 2 ^ 40 ≤ msgAt m 0 8 ∨ (! s.rgnAllows m.world (msgAt m 0 8)) = true := by rwa [Bool.not_eq_true']
  unfold remoteRequest
  simp only [get_then, if_neg ht, if_pos hout, h]

/-- Settles O50: each event is run on its program; a message of this package is accepted, then handled by its type. -/
theorem fabricEvents : Obligations.FabricEvents :=
  ⟨fun _ _ _ _ ha hn => exec_routeWrite ha hn,
   fun _ _ _ _ _ _ ha hk ho hd => exec_rankTableConfigWrite ha hk ho hd,
   fun _ _ s ha hn hm => runExec_admitted ha (tsyncCtl_master s hn hm),
   fun _ _ s ha hn hm hp => runExec_admitted ha (tsyncCtl_child s hn hm hp),
   fun _ _ hm hp hr hs => runExec_ok (tsyncPeriod_run hm hp hr hs),
   fun _ _ _ _ ht hd h1 hs => exec_tsyncReceive ht hd (by rw [if_pos h1]; exact tsyncReceive_request h1 hs),
   fun _ _ _ _ ht hd h2 hm h1 hs => exec_tsyncReceive ht hd (tsyncReceive_reply h2 hm h1 hs),
   fun _ _ _ hd ht h => exec_remoteRequestReceive hd ht h,
   fun _ _ _ hd ht h => exec_remoteResponseReceive hd ht h,
   fun _ _ _ hd ht h => exec_flitCaddReceive hd ht h,
   fun _ _ _ _ hd ht hk h => exec_chimReceive hd ht hk h,
   fun _ _ _ hd ht h => exec_rsuspReceive hd ht h,
   fun _ _ _ hd ht hk => exec_rsackReceive hd ht hk,
   fun _ _ _ hd ht h => exec_rresumeReceive hd ht h,
   fun _ _ _ _ _ _ _ _ hf ha hp hq hx ht hw he => runExec_ok (holdTimeout_run hf ha hp hq hx ht hw he),
   fun _ _ _ _ hf ha hq he => runExec_ok (responseTimeout_run hf ha hq he),
   fun _ _ _ _ _ _ ht hm hn ha hr hc h => remoteRequest_read ht hm hn ha hr hc h,
   fun _ _ _ ht hr h => remoteRequest_refused ht hr h⟩

end Sys2Proof.Laws
end

section
/-! Writes of consecutive bytes at a physical address: what the block writes store between them, and what they leave (R125). -/
namespace Sys2Proof.Laws
open Sys2Proof.Machine

variable {α β : Type} {s t u : State} {bs cs : List (Nat × Byte)}

/-! Bytes stored one after another. -/

/-- Memory with each listed byte stored at the home of its address, in order. -/
def storeAll (home : Nat → Nat) (m : Assoc Byte) (bs : List (Nat × Byte)) : Assoc Byte :=
  bs.foldl (fun m e => Map.set (fun _ => 0#8) m (home e.1) e.2) m

theorem putBytes_eq (s : State) (bs : List (Nat × Byte)) : s.putBytes bs = { s with mem := storeAll s.home s.mem bs } := by
  induction bs generalizing s with
  | nil => rfl
  | cons e bs ih => exact ih _

theorem get_storeAll_of_ne {home : Nat → Nat} {m : Assoc Byte} {i : Nat} (hm : Map.wf (fun _ => 0#8) m = true)
    (hi : ∀ e ∈ bs, home e.1 ≠ i) : Map.get (fun _ => 0#8) (storeAll home m bs) i = Map.get (fun _ => 0#8) m i := by
  induction bs generalizing m with
  | nil => rfl
  | cons e bs ih =>
    obtain ⟨hne, hrest⟩ := List.forall_mem_cons.mp hi
    exact (ih (wf_set _ _ hm) hrest).trans (get_set_ne _ hm hne.symm)

theorem addressed_append (a : Nat) (xs ys : List Byte) : addressed a (xs ++ ys) = addressed a xs ++ addressed (a + xs.length) ys := by
  induction xs generalizing a with
  | nil => rfl
  | cons x xs ih =>
    have hnext : a + 1 + xs.length = a + (xs.length + 1) := by omega
    simp [addressed, ih, hnext]

theorem address_of_mem_addressed {a : Nat} {data : List Byte} {e : Nat × Byte} (h : e ∈ addressed a data) :
    ∃ k < data.length, e.1 = a + k := by
  induction data generalizing a with
  | nil => cases h
  | cons b data ih =>
    rcases List.mem_cons.mp h with rfl | h
    · exact ⟨0, by simp, rfl⟩
    · obtain ⟨k, hk, he⟩ := ih h
      exact ⟨k + 1, by simpa using hk, by omega⟩

/-- Where no two addresses of a run share a home, every byte of it reads back: a later store does not reach an earlier one. -/
theorem get_storeAll_addressed {home : Nat → Nat} {m : Assoc Byte} {a k : Nat} {data : List Byte}
    (hm : Map.wf (fun _ => 0#8) m = true)
    (hinj : ∀ i < data.length, ∀ j < data.length, home (a + i) = home (a + j) → i = j) (hk : k < data.length) :
    Map.get (fun _ => 0#8) (storeAll home m (addressed a data)) (home (a + k)) = data.getD k 0#8 := by
  induction data generalizing m a k with
  | nil => cases hk
  | cons b data ih =>
    have hwf := wf_set (home a) b hm
    cases k with
    | zero =>
      refine (get_storeAll_of_ne hwf fun e he => ?_).trans (get_set _ b hm)
      obtain ⟨j, hj, hej⟩ := address_of_mem_addressed he
      rw [hej, Nat.add_assoc]
      intro h
      have := hinj (1 + j) (by simp; omega) 0 (by simp) h
      omega
    | succ k =>
      have hshift (i : Nat) : a + 1 + i = a + (i + 1) := by omega
      have htail := ih hwf (a := a + 1) (k := k)
        (fun i hi j hj h => Nat.succ.inj (hinj (i + 1) (by simpa using hi) (j + 1) (by simpa using hj) (by rwa [hshift, hshift] at h)))
        (by simpa using hk)
      rwa [hshift] at htail

/-! What a program stores. -/

/-- `t` is `s` with the listed bytes stored in order; contexts, cores, partitions and the package's number are as they were, and the
registers stay in canonical form. -/
structure Stores (bs : List (Nat × Byte)) (s t : State) : Prop where
  mem : t.mem = storeAll s.home s.mem bs
  regs : Map.wf regReset t.regs = true
  pkg : t.pkg = s.pkg
  harts : t.harts = s.harts
  cores : t.cores = s.cores
  parts : t.parts = s.parts

/-- From every state with canonical registers the program ends normally and has stored the listed bytes. -/
def Writes (x : Exec α) (bs : List (Nat × Byte)) : Prop :=
  ∀ s : State, Map.wf regReset s.regs = true → ∃ a t, x s = .ok a t ∧ Stores bs s t

namespace Stores

theorem home (h : Stores bs s t) : t.home = s.home := by
  funext pa
  simp only [State.home, h.pkg]

theorem trans (h : Stores bs s t) (k : Stores cs t u) : Stores (bs ++ cs) s u where
  mem := by rw [k.mem, h.mem, h.home]; exact List.foldl_append.symm
  regs := k.regs
  pkg := k.pkg.trans h.pkg
  harts := k.harts.trans h.harts
  cores := k.cores.trans h.cores
  parts := k.parts.trans h.parts

/-- A change of other places alone stores nothing. -/
theorem same (w : Map.wf regReset s.regs = true)
    (e : t.mem = s.mem ∧ t.regs = s.regs ∧ t.harts = s.harts ∧ t.cores = s.cores ∧ t.parts = s.parts) : Stores [] s t := by
  obtain ⟨hm, hr, hh, hc, hp⟩ := e
  exact ⟨hm, hr ▸ w, by simp only [State.pkg, State.field, State.reg, hr], hh, hc, hp⟩

theorem putBytes (w : Map.wf regReset s.regs = true) (bs : List (Nat × Byte)) : Stores bs s (s.putBytes bs) := by
  rw [putBytes_eq]
  exact ⟨rfl, w, rfl, rfl, rfl, rfl⟩

theorem setReg {o : Nat} (w : Map.wf regReset s.regs = true) (v : Word) (ho : Reg.fabCfg ≠ o) : Stores [] s (s.setReg o v) :=
  ⟨rfl, wf_set _ _ w, by simp only [State.pkg, State.field, State.reg_setReg_ne s v w ho], rfl, rfl, rfl⟩

theorem supersedeAll (w : Map.wf regReset s.regs = true) (n : Nat) (gs : List Nat) : Stores [] s (s.supersedeAll n gs) := by
  induction gs generalizing s with
  | nil => exact .same w ⟨rfl, rfl, rfl, rfl, rfl⟩
  | cons g gs ih => exact (same (t := s.supersede n g) w ⟨rfl, rfl, rfl, rfl, rfl⟩).trans (ih w)

/-- A write's publication supersedes granules' versions and stores nothing yet. -/
theorem publish (w : Map.wf regReset s.regs = true) (n : Nat) (gs : List Nat) :
    Stores [] s { s.supersedeAll n gs with gseq := n } :=
  have h := supersedeAll w n gs
  h.trans (.same h.regs ⟨rfl, rfl, rfl, rfl, rfl⟩)

theorem markWritten (w : Map.wf regReset s.regs = true) (gs : List Nat) : Stores [] s (s.markWritten gs) := by
  induction gs generalizing s with
  | nil => exact .same w ⟨rfl, rfl, rfl, rfl, rfl⟩
  | cons g gs ih =>
    exact (same (t := { s with swritten := Map.set (fun _ => false) s.swritten g true }) w ⟨rfl, rfl, rfl, rfl, rfl⟩).trans (ih w)

end Stores

namespace Writes

theorem pure (a : α) : Writes (pure a : Exec α) [] := fun s w => ⟨a, s, rfl, .same w ⟨rfl, rfl, rfl, rfl, rfl⟩⟩

theorem modify {g : State → State} (h : ∀ s, Map.wf regReset s.regs = true → Stores bs s (g s)) : Writes (modify g : Exec PUnit) bs :=
  fun s w => ⟨⟨⟩, g s, rfl, h s w⟩

theorem bind {x : Exec α} {f : α → Exec β} (hx : Writes x bs) (hf : ∀ a, Writes (f a) cs) : Writes (x >>= f) (bs ++ cs) := by
  intro s w
  obtain ⟨a, t, ht, hst⟩ := hx s w
  obtain ⟨b, u, hu, htu⟩ := hf a t hst.regs
  exact ⟨b, u, (bind_ok ht).trans hu, hst.trans htu⟩

/-- A program that stores nothing, before one that stores. -/
theorem before {x : Exec α} {f : α → Exec β} (hx : Writes x []) (hf : ∀ a, Writes (f a) bs) : Writes (x >>= f) bs := hx.bind hf

/-- A program that stores, before one that stores nothing. -/
theorem after {x : Exec α} {f : α → Exec β} (hx : Writes x bs) (hf : ∀ a, Writes (f a) []) : Writes (x >>= f) bs :=
  bs.append_nil ▸ hx.bind hf

theorem look {f : State → Exec β} (h : ∀ s, Writes (f s) bs) : Writes ((get : Exec State) >>= f) bs := fun s w => h s s w

theorem mapE {f : α → Exec β} {g : α → List (Nat × Byte)} (l : List α) (h : ∀ a, Writes (f a) (g a)) :
    Writes (mapE l f) (l.flatMap g) := by
  induction l with
  | nil => exact .pure []
  | cons a l ih => rw [List.flatMap_cons]; exact (h a).bind fun _ => ih.after fun _ => .pure _

end Writes

/-! Block writes (R125, R128). -/

theorem writes_setMeta (b : Nat) (m : Meta) : Writes (setMeta b m) [] := .modify fun _ w => .same w ⟨rfl, rfl, rfl, rfl, rfl⟩

theorem writes_poisonBlock (b : Nat) (c : Cause) : Writes (poisonBlock b c) [] := by
  unfold poisonBlock
  refine .look fun s => ?_
  split
  · exact .pure _
  · exact (writes_setMeta _ _).before fun _ => .before (.modify fun _ w => .setReg w _ (by decide)) fun _ =>
      .modify fun _ w => .setReg w _ (by decide)

theorem writes_blockWrite (bs : List (Nat × Byte)) (p : Option Cause) : Writes (blockWrite bs p) bs := by
  cases bs with
  | nil => exact .pure _
  | cons b bs =>
    unfold blockWrite
    refine .look fun s => ?_
    dsimp only
    split
    case' isTrue => refine .before (.modify fun _ w => .publish w _ _) ?_
    case' isFalse => refine .before (.modify fun _ w => .markWritten w _) ?_
    all_goals
      refine fun _ => .after (.modify fun _ w => .putBytes w _) fun _ => (writes_setMeta _ _).before fun _ => ?_
      split
      · exact (writes_poisonBlock _ _).before fun _ => .pure _
      · exact .pure _

/-! A run of bytes cut into blocks. -/

/-- The pieces of a range, each with its bytes, are the range with its bytes: `n` bytes from `a` lie in `fuel` blocks at most. -/
theorem pieces_addressed {a0 a n fuel : Nat} {data : List Byte} (ha : a0 ≤ a) (hn : a - a0 + n ≤ data.length)
    (hf : n = 0 ∨ n + a % 256 ≤ fuel * 256) :
    (pieces 256 fuel a n).flatMap (fun p => addressed p.1 ((data.drop (p.1 - a0)).take p.2)) =
      addressed a ((data.drop (a - a0)).take n) := by
  induction fuel generalizing a n with
  | zero =>
    have hzero : n = 0 := by omega
    subst hzero
    rfl
  | succ fuel ih =>
    unfold pieces
    split
    next hzero => subst hzero; rfl
    next hpos =>
      generalize hk : min n (256 - a % 256) = k
      have hsplit : n = k + (n - k) := by omega
      have hlen : ((data.drop (a - a0)).take k).length = k := by simp; omega
      have hdrop : a + k - a0 = a - a0 + k := by omega
      have hrest := ih (a := a + k) (n := n - k) (by omega) (by omega) (by omega)
      calc _ = addressed a ((data.drop (a - a0)).take k) ++ addressed (a + k) ((data.drop (a + k - a0)).take (n - k)) :=
            congrArg (_ ++ ·) hrest
        _ = addressed a ((data.drop (a - a0)).take (k + (n - k))) := by
            rw [List.take_add, addressed_append, hlen, List.drop_drop, hdrop]
        _ = _ := by rw [← hsplit]

theorem writes_physWrite (a : Nat) (data : List Byte) (p : Option Cause) : Writes (physWrite a data p) (addressed a data) := by
  have hcover : (pieces 256 (data.length / 256 + 2) a data.length).flatMap
      (fun p => addressed p.1 ((data.drop (p.1 - a)).take p.2)) = addressed a data := by
    rw [pieces_addressed (Nat.le_refl a) (by omega) (by omega)]
    simp
  exact .after (hcover ▸ .mapE _ fun _ => writes_blockWrite _ _) fun _ => .pure _

/-- R83: within less than the window onto the own package, addresses have homes of their own. -/
theorem home_inj {s : State} {a i j : Nat} (hi : i < 2 ^ 32) (hj : j < 2 ^ 32) (h : s.home (a + i) = s.home (a + j)) : i = j := by
  unfold State.home at h
  split at h <;> split at h <;> omega

/-- Settles O19: the block writes of a run store its bytes one after another, at homes of their own, and change no other byte. -/
theorem physicalWriteFrame : Obligations.PhysicalWriteFrame := by
  intro pa data poison s hm hr hlen
  obtain ⟨failed, t, hrun, hst⟩ := writes_physWrite pa data poison s hr
  have hbyte (a : Nat) : t.byte a = Map.get (fun _ => 0#8) (storeAll s.home s.mem (addressed pa data)) (s.home a) := by
    unfold State.byte
    rw [hst.mem, hst.home]
  refine ⟨failed, t, hrun, fun k hk => ?_, fun a ha => ?_, hst.harts, hst.cores, hst.parts⟩
  · rw [hbyte]
    exact get_storeAll_addressed hm (fun i hi j hj => home_inj (by omega) (by omega)) hk
  · rw [hbyte]
    refine get_storeAll_of_ne hm fun e he => ?_
    obtain ⟨k, hk, hek⟩ := address_of_mem_addressed he
    exact hek ▸ ha k hk

end Sys2Proof.Laws
end

section
/-! Accesses of the host and of the second tier, a front end's ring, FE_QPUSH and watchdog, case by case. -/
namespace Sys2Proof.Laws
open Sys2Proof.Machine

/-! Accesses of the host (R106, R126, R294, R315). -/

/-- R106: what the host may not write answers Unsupported Request. -/
theorem hostMemWrite_refused {pa : Nat} {data : List Byte} {poison : Bool} {s : State} (hp : s.power.porst = false) (hd : data ≠ [])
    (hm : s.hostMay pa data.length = false) : hostMemWrite pa data poison s = .ok () { s with hostOut := [2#8] :: s.hostOut } := by
  unfold hostMemWrite
  rw [get_then, require_ok _ _ (by simp [hp, hd]), if_pos (by simp [hm])]
  rfl

theorem hostMemWrite_done {pa : Nat} {data : List Byte} {poison b : Bool} {s t u : State} (hp : s.power.porst = false) (hd : data ≠ [])
    (hm : s.hostMay pa data.length = true) (hw : physWrite pa data (if poison then some 0x293#10 else none) s = .ok b t)
    (hu : hostPublish pa data t = .ok () u) : hostMemWrite pa data poison s = .ok () u := by
  unfold hostMemWrite
  rw [get_then, require_ok _ _ (by simp [hp, hd]), if_neg (by simp [hm]), bind_ok hw, hu]

/-- R106: what the host may not read answers Unsupported Request. -/
theorem hostMemRead_refused {pa n : Nat} {s : State} (hp : s.power.porst = false)
    (hm : (s.hostMay pa n && (range pa n).all fun a => s.place a == .hbm) = false) :
    hostMemRead pa n s = .ok () { s with hostOut := [2#8] :: s.hostOut } := by
  unfold hostMemRead
  rw [get_then, require_ok _ _ (by simp [hp]), if_pos (by simp only [hm]; rfl)]
  rfl

/-- R126: a read answers the bytes, and says whether one of their blocks failed its exit check. -/
theorem hostMemRead_done {pa n : Nat} {s t : State} {rs : List (Option Cause)} (hp : s.power.porst = false)
    (hm : (s.hostMay pa n && (range pa n).all fun a => s.place a == .hbm) = true) (hc : mapE (s.blocksOf pa n) exitCheck s = .ok rs t) :
    hostMemRead pa n s = .ok () { t with hostOut := ((if rs.any (·.isSome) then 1#8 else 0#8) :: s.bytes pa n) :: t.hostOut } := by
  unfold hostMemRead
  rw [get_then, require_ok _ _ (by simp [hp]), if_neg (by simp only [hm]; decide), bind_ok hc]
  rfl

/-- R123: data that arrives as it stands takes a fresh check value. -/
theorem secondTier_same {pa : Nat} {data : List Byte} {s : State} (hd : data ≠ []) (hb : pa % 256 + data.length ≤ 256)
    (ht : ((range pa data.length).all fun a => s.place a == .tier2) = true) (he : s.bytes pa data.length = data) :
    secondTier pa data false s = .ok ()
      { s with blocks := Map.set (fun _ => Meta.clear) s.blocks (s.block pa) { s.meta (s.block pa) with synd := 0#32 } } := by
  unfold secondTier
  rw [get_then, require_ok _ _ (by simp only [ht, decide_eq_true hb]; simp [hd])]
  simp only [he, ne_eq, not_true_eq_false, if_false, get_then, setMeta, modify_then, Bool.false_eq_true, pure_run]

theorem hostMemoryEvents : Claims.HostMemoryEvents :=
  ⟨fun _ _ _ _ hp hd hm => runExec_ok (hostMemWrite_refused hp hd hm),
   fun _ _ _ _ _ _ _ hp hd hm hw hu => runExec_ok (hostMemWrite_done hp hd hm hw hu),
   fun _ _ _ hp hm => runExec_ok (hostMemRead_refused hp hm),
   fun _ _ _ _ _ hp hm hc => runExec_ok (hostMemRead_done hp hm hc),
   fun _ _ _ hd hb ht he => runExec_ok (secondTier_same hd hb ht he)⟩

/-! The ring (R134, R135, R138–R140). -/

section
variable {f : Nat} {v : Word} {s t : State}

@[simp] theorem rejectRing_run (f : Nat) (s : State) : rejectRing f s = .ok () (s.putFlag (Reg.ringStat f) 0 true) := rfl
@[simp] theorem setRingState_run (f n : Nat) (s : State) : setRingState f n s = .ok () (s.putField (Reg.ringStat f) 16 2 n) := rfl
@[simp] theorem setRingState_then {β : Type} (f n : Nat) (g : Unit → Exec β) (s : State) :
    (setRingState f n >>= g) s = g () (s.putField (Reg.ringStat f) 16 2 n) := rfl

/-- R134: ranges that the partition may not use keep the ring stopped. -/
theorem ringCtl_rejected (hv : Word.bit v 0 = true) (h0 : s.ringState f = 0) (hr : s.ringOk f v = false) :
    ringCtl f v s = .ok () (s.putFlag (Reg.ringStat f) 0 true) := by
  unfold ringCtl
  simp only [get_then, hv, h0, hr, beq_self_eq_true, Bool.and_self, if_true, Bool.false_eq_true, if_false, rejectRing_run]

theorem ringCtl_starts (hv : Word.bit v 0 = true) (h0 : s.ringState f = 0) (hr : s.ringOk f v = true)
    (hs : startRing f (s.wrote (Reg.ringCtl f) v) = .ok () t) : ringCtl f v s = .ok () t := by
  unfold ringCtl
  simp only [get_then, hv, h0, hr, beq_self_eq_true, Bool.and_self, if_true, plainWrite_then, hs]

theorem startRing_run (hw : Map.has s.feWait f = false) :
    startRing f s = .ok () ((s.setReg (Reg.ringPos f) (s.word (s.ptrAddr f + 0x40))).putField (Reg.ringStat f) 16 2 1) := by
  unfold startRing
  simp only [get_then, setReg_then, setRingState_then, hw, Bool.false_eq_true, if_false, pure_run]

/-- R139: RESTART leaves STOPPED, unless the watchdog holds the front end. -/
theorem ringCtl_restarts (hv : Word.bit v 0 = true) (h1 : Word.bit v 1 = true) (h2 : s.ringState f = 2)
    (hh : (s.part f).holdWdog = false) (hr : restartRing f (s.wrote (Reg.ringCtl f) v) = .ok () t) : ringCtl f v s = .ok () t := by
  have hleft : (s.ringState f == 0) = false := by rw [h2]; rfl
  have hleaves : (Word.bit v 1 && s.ringState f == 2 && ! (s.part f).holdWdog) = true := by rw [h1, h2, hh]; rfl
  unfold ringCtl
  simp only [get_then, hleft, hleaves, hv, Bool.and_false, Bool.false_eq_true, if_false, if_true, plainWrite_then, bind_ok hr, Bool.not_true,
    Bool.false_and, pure_run]

theorem ringBase_run (f off : Nat) (v : Word) (s : State) :
    ringBase f off v s = .ok () (if s.ringState f = 0 then s.wrote (Reg.ringCtl f + off) v else s.putFlag (Reg.ringStat f) 0 true) := by
  unfold ringBase
  rw [get_then, ite_run, plainWrite_run, rejectRing_run]
  split <;> rfl

theorem stopRing_run (f : Nat) (c : Cause) (idx : Nat) (s : State) :
    stopRing f c idx s = .ok () (((s.putField (Reg.ringStat f) 16 2 2).putField (Reg.ringStat f) 32 10 c.toNat).posted f
      ⟨0, false, 0, c, (s.part f).lastStep.toNat % 2 ^ 32, 0#64, idx⟩) := rfl

/-- R140: a TAIL below RING_POS stops the ring. -/
theorem tailCheck_stops (hf : f < 8) (h1 : s.ringState f = 1) (ht : (s.word (s.ptrAddr f)).ult (s.reg (Reg.ringPos f)) = true) :
    tailCheck f s = .ok () (((s.putField (Reg.ringStat f) 16 2 2).putField (Reg.ringStat f) 32 10 0x2CB).posted f
      ⟨0, false, 0, 0x2CB#10, (s.part f).lastStep.toNat % 2 ^ 32, 0#64, (s.reg (Reg.ringPos f)).toNat⟩) := by
  unfold tailCheck
  rw [get_then, require_ok _ _ (by simp [hf, h1, ht]), stopRing_run]
  rfl

/-! FE_QPUSH (R512, R513). -/

theorem parkStore_run (f : Nat) (v : Word) (s : State) :
    parkStore f v s = .ok () { s with feWait := Map.insert s.feWait f v, feHold := Map.set (fun _ => false) s.feHold f true } := rfl

theorem feQpush_waits (v : Word) (h1 : s.ringState f ≠ 1) :
    feQpush f v s = .ok () { s with feWait := Map.insert s.feWait f v, feHold := Map.set (fun _ => false) s.feHold f true } := by
  unfold feQpush
  rw [get_then, if_pos h1, parkStore_run]

theorem feQpush_pushes (h1 : s.ringState f = 1) (h8 : Word.bit v 8 = false) (hlo : 1 ≤ Word.bits v 0 6) (hhi : Word.bits v 0 6 ≤ 3)
    (hp : pushGroup f (Word.bits v 0 6) v s = .ok () t) : feQpush f v s = .ok () t := by
  unfold feQpush
  rw [get_then, if_neg (not_not_intro h1), if_neg (ne_true_of_eq_false h8), if_pos ⟨hlo, hhi⟩, hp]

/-- R139, R513: a stop leaves the store parked. -/
theorem feQpush_stops (h1 : s.ringState f = 1) (h8 : Word.bit v 8 = true) (hn : Word.bits v 0 6 ≤ 2)
    (hs : stopRing f (BitVec.ofNat 10 (Word.bits v 16 10)) ((s.reg (Reg.ringPos f)).toNat + Word.bits v 0 6) s = .ok () t) :
    feQpush f v s = .ok () { t with feWait := Map.insert t.feWait f v, feHold := Map.set (fun _ => false) t.feHold f true } := by
  unfold feQpush
  rw [get_then, if_neg (not_not_intro h1), if_pos h8, if_pos hn, bind_ok hs, parkStore_run]

theorem feQpushBy_run {w : Writer} {stop : Bool} (ha : s.admits w (Reg.feQpush f) v = true) (hf : f < 8) (h8 : Word.bit v 8 = stop)
    (hw : Map.has s.feWait f = false) (h : feQpush f v s = .ok () t) : runExec (feQpushBy f w v stop) s = .next t := by
  refine runExec_admitted ha ?_
  rw [get_then, require_ok _ _ (by simp [hf, h8, hw]), h]

theorem queueSpace_run (hf : f < 8) (hv : Map.find s.feWait f = some v) (hw : s.pushWaits f = true)
    (hp : pushGroup f (Word.bits v 0 6) v s = .ok () t) : queueSpace f s = .ok () t := by
  unfold queueSpace
  rw [get_then, require_ok _ _ (by simp [hf, hw])]
  simp only [hv, hp]

/-- R513: a group without a fault goes to the tail of its class queue, where that takes it. -/
theorem pushGroup_inserts {n : Nat} {es : List (List Byte)} {e : List Byte} {u : State} (hn : (s.reg (Reg.ringPos f)).toNat = n)
    (hes : viewEntries f n (Word.bits v 0 6) s = .ok (.ok es) t) (hg : groupFault es = none) (he : es.headD [] = e)
    (hq : t.queueTakes f (entClass e) = true)
    (hu : groupDone f n (Word.bits v 0 6) (t.updPart f fun p => p.setQueue (entClass e) (p.queue (entClass e) ++
      [{ source := 0, bytes := es.flatten, rels := [], cmdidx := n, reserve := false, parent := 0, slot := entSlot e, step := 0#64,
         stage := .queued, gained := [] }])) = .ok () u) : pushGroup f (Word.bits v 0 6) v s = .ok () u := by
  subst hn he
  unfold pushGroup
  rw [get_then, bind_ok hes]
  simp only [hg, get_then, if_pos hq, updPart_then, hu]

/-! The watchdog and the second tier (R153, R155). -/

theorem wdogCfg_run (f : Nat) (v : Word) (s : State) :
    wdogCfg f v s = .ok () (if Word.bits v 16 16 < 10 then s.putFlag (Reg.ringStat f) 0 true else s.wrote (Reg.wdogCfg f) v) := by
  unfold wdogCfg
  rw [ite_run, rejectRing_run, plainWrite_run]
  split <;> rfl

theorem t2Cfg_off (s : State) (hv : Word.bit v 0 = false) : t2Cfg v s = .ok () (s.wrote Reg.t2Cfg v) := by
  unfold t2Cfg
  simp only [hv, Bool.false_and, Bool.false_eq_true, if_false, plainWrite_run]

/-! A register write by its address (R6, R107). -/

theorem regWriteEvent_run {w : Writer} {o : Nat} (h8 : o % 8 = 0) (hq : ∀ f < 8, o = Reg.feQpush f → Map.has s.feWait f = false)
    (ha : s.admits w o v = true) (h : regWrite w o v s = .ok () t) : regWriteEvent w (mmioBase + o) v s = .ok () t := by
  have haddr : (mmioBase + o) % 8 = 0 := by simp only [mmioBase]; omega
  have hfree : ((List.range 8).all fun f => ! (o == Reg.feQpush f && Map.has s.feWait f)) = true := by
    refine List.all_eq_true.mpr fun f hf => ?_
    by_cases ho : o = Reg.feQpush f
    · rw [hq f (List.mem_range.mp hf) ho, Bool.and_false, Bool.not_false]
    · rw [beq_false_of_ne ho, Bool.false_and, Bool.not_false]
  unfold regWriteEvent
  rw [require_ok _ _ (by simp [haddr]), Nat.add_sub_cancel_left, get_then, require_ok _ _ hfree, admitted_run ha, h]

/-- R107: an offset without a register ignores the write. -/
theorem regWrite_none {w : Writer} {o : Nat} (s : State) (hflue : o < Reg.flue ∨ Reg.flueEnd ≤ o) (hr : regSpec o = none) :
    regWrite w o v s = .ok () s := by
  unfold regWrite
  rw [if_neg (by omega), if_pos (by simp [hr])]
  rfl

end

/-- A write of a front end's register, once it is known that the part has the front end. -/
theorem runExec_frontEnd {f o : Nat} {w : Writer} {v : Word} {x : Exec Unit} {s t : State} (ha : s.admits w o v = true) (hf : f < 8)
    (h : x s = .ok () t) : runExec (admitted w o v (require (decide (f < 8)) >>= fun _ => x)) s = .next t :=
  runExec_admitted ha ((require_ok _ _ (decide_eq_true hf)).trans h)

theorem exec_ringRestart {f : Nat} {w : Writer} {v : Word} {s t : State} (ha : s.admits w (Reg.ringCtl f) v = true) (hf : f < 8)
    (h1 : Word.bit v 1 = true) (h2 : s.ringState f = 2) (h : ringCtl f v s = .ok () t) : exec (.ringRestart f w v) s = .next t := by
  refine runExec_admitted ha ?_
  rw [get_then, require_ok _ _ (by simp [hf, h1, h2]), h]

theorem exec_ringBaseWrite {f off : Nat} {w : Writer} {v : Word} {s : State} (ha : s.admits w (Reg.ringCtl f + off) v = true) (hf : f < 8)
    (ho : off = 0x008 ∨ off = 0x010 ∨ off = 0x018 ∨ off = 0x020) :
    exec (.ringBaseWrite f off w v) s = .next (if s.ringState f = 0 then s.wrote (Reg.ringCtl f + off) v
      else s.putFlag (Reg.ringStat f) 0 true) := by
  refine runExec_admitted ha ?_
  rw [require_ok _ _ (by simpa [hf, or_assoc] using ho), ringBase_run]

theorem ringEvents : Claims.RingEvents :=
  ⟨fun _ _ _ _ ha hf hv h0 hr => runExec_frontEnd ha hf (ringCtl_rejected hv h0 hr),
   fun _ _ _ _ _ ha hf hv h0 hr hs => runExec_frontEnd ha hf (ringCtl_starts hv h0 hr hs),
   fun _ _ hw => startRing_run hw,
   fun _ _ _ _ _ ha hf hv h1 h2 hh hr => exec_ringRestart ha hf h1 h2 (ringCtl_restarts hv h1 h2 hh hr),
   fun _ _ _ _ _ ha hf ho => exec_ringBaseWrite ha hf ho,
   fun _ _ hf h1 ht => runExec_ok (tailCheck_stops hf h1 ht),
   fun _ _ v _ ha hf h8 hw h1 => feQpushBy_run ha hf h8 hw (feQpush_waits v h1),
   fun _ _ _ _ _ ha hf h8 hw h1 hlo hhi hp => feQpushBy_run ha hf h8 hw (feQpush_pushes h1 h8 hlo hhi hp),
   fun _ _ _ _ _ ha hf h8 hw h1 hn hs => feQpushBy_run ha hf h8 hw (feQpush_stops h1 h8 hn hs),
   fun _ _ _ _ hf hv hw hp => runExec_ok (queueSpace_run hf hv hw hp),
   fun _ _ _ _ _ _ _ _ hn hes hg he hq hu => pushGroup_inserts hn hes hg he hq hu,
   fun f _ v s ha hf => runExec_frontEnd ha hf (wdogCfg_run f v s),
   fun _ _ _ _ ha hf => runExec_frontEnd ha hf rfl,
   fun _ _ _ _ _ _ h => runExec_ok h,
   fun _ _ s ha hv => runExec_admitted ha (t2Cfg_off s hv),
   fun _ _ _ _ _ h8 hq ha h => runExec_ok (regWriteEvent_run h8 hq ha h),
   fun _ _ _ s hflue hr => regWrite_none s hflue hr⟩

/-- Settles O52: each event is run on its program, one equation per case of the rules. -/
theorem hostAndRingEvents : Obligations.HostAndRingEvents := ⟨hostMemoryEvents, ringEvents⟩

end Sys2Proof.Laws
end

section
/-! Entries of class queues, hearth slots, and the freezing and thawing of partitions, case by case. -/
namespace Sys2Proof.Laws
open Sys2Proof.Machine

/-! The head of a class (R142, R145, R166). -/

section
variable {k c : Nat} {e : QEntry} {rest : List QEntry} {s t u : State}

theorem hostHead_run {kind : Nat} (hm : s.mayDispatch k (kind == 8) = true) (hq : (s.part k).queue c = e :: rest) (hs : e.source = 0)
    (hk : entKind e.bytes = kind) (hg : e.stage = .queued) (hc : entCpl e.bytes = false ∨ (s.part k).cpl.length < 256) :
    hostHead k c kind s = .ok e s := by
  have hroom : (! entCpl e.bytes || decide ((s.part k).cpl.length < 256)) = true := by simpa using hc
  unfold hostHead
  rw [get_then, require_ok _ _ hm]
  simp only [hq]
  rw [require_ok _ _ (by simp only [hs, hk, hg, hroom, beq_self_eq_true, Bool.and_self]), pure_run]

/-- R166: an entry that a program inserted is not dispatched as a host entry. -/
theorem hostHead_inserted (kind : Nat) (hq : (s.part k).queue c = e :: rest) (hs : e.source ≠ 0) :
    hostHead k c kind s = .error .done s := by
  have hno : (e.source == 0) = false := beq_false_of_ne hs
  unfold hostHead
  rw [get_then, require_then]
  simp only [hq, require_then, hno, Bool.false_and, Bool.false_eq_true, if_false, ite_self]

theorem dispatch_inserted (kind : Nat) (act : QEntry → Exec Unit) (hq : (s.part k).queue c = e :: rest) (hs : e.source ≠ 0) :
    dispatch k c kind act s = .error .done s := bind_error (hostHead_inserted kind hq hs)

theorem entryWait_none (k : Nat) (s : State) (hw : entWen e.bytes = false) : entryWait k e s = .ok (.met []) s := by
  unfold entryWait
  rw [if_neg (ne_true_of_eq_false hw), pure_run]

/-- A head that dispatches does what its kind asks for, with what its wait gained. -/
theorem dispatch_run {kind : Nat} {act : QEntry → Exec Unit} (hd : Dispatches k c kind e s t) (h : act e t = .ok () u) :
    dispatch k c kind act s = .ok () u := by
  obtain ⟨e0, rels, hhead, hwait, rfl⟩ := hd
  unfold dispatch
  rw [bind_ok hhead, bind_ok hwait]
  exact h

/-- R146: a poisoned wait cancels the entry with the counter's cause. -/
theorem waitCancel_run {f : Cause} (hq : (s.part k).queue c = e :: rest) (hh : hostHead k c (entKind e.bytes) s = .ok e s)
    (hw : entryWait k e s = .ok (.poisoned f) t) (h : complete k c e f 0#64 t = .ok () u) : waitCancel k c s = .ok () u := by
  unfold waitCancel
  rw [get_then]
  simp only [hq]
  rw [bind_ok hh, bind_ok hw]
  exact h

/-! The end of an entry (R146, R151, R166). -/

theorem dequeue_host (hq : (s.part k).queue c = e :: rest) (hs : e.source = 0) :
    dequeue k c s = .ok () (s.updPart k fun p => p.dropHead c) := by
  unfold dequeue
  rw [getPart_then]
  simp only [hq, updPart_then, hs, ne_eq, not_true_eq_false, if_false, pure_run]

theorem complete_run {status : Cause} {value : Word} (hq : dequeue k c s = .ok () t) (he : endEntry k e status value t = .ok () u) :
    complete k c e status value s = .ok () u := (bind_ok hq).trans he

/-- R151: without a signal the end posts a record, where the entry asks for one or has failed. -/
theorem endEntry_noSignal (k : Nat) (status : Cause) (value : Word) (s : State) (hs : entSen e.bytes = false) :
    endEntry k e status value s = .ok () (if entCpl e.bytes = true ∨ status ≠ 0#10 then s.posted k ⟨entKind e.bytes, entIrq e.bytes,
      entTag e.bytes, status, (s.part k).lastStep.toNat % 2 ^ 32, value, e.cmdidx⟩ else s) := by
  unfold endEntry
  simp only [get_then, hs, Bool.false_eq_true, if_false, ite_run, postCpl_run, pure_run, Bool.or_eq_true, bne_iff_ne]
  split <;> rfl

/-- R146: an entry that succeeds adds to the counter that it signals. -/
theorem endEntry_adds (value : Word) (hs : entSen e.bytes = true) (hc : entCpl e.bytes = false)
    (h : addWindow k (entSidx e.bytes) (entSinc e.bytes) (if entRel e.bytes then s.frontRel k e.gained else []) s = .ok () t) :
    endEntry k e 0#10 value s = .ok () t := by
  unfold endEntry
  simp only [get_then, hs, if_true]
  rw [bind_ok h]
  simp [hc]

/-! Runs (R149, R150, R172). -/

section
variable {act : Slot → Exec Unit} (hi : (s.part k).seq.state = .idle)
include hi

theorem startRun_acts (hr : residencyCheck k e s = .ok none t) (h : act ((t.part k).slot (entSlot e.bytes)) t = .ok () u) :
    startRun k c e act s = .ok () u := by
  unfold startRun
  rw [getPart_then, require_ok _ _ (by rw [hi]; rfl), bind_ok hr]
  exact h

theorem startRun_fails {f : Cause} (hr : residencyCheck k e s = .ok (some f) t) (h : complete k c e f 0#64 t = .ok () u) :
    startRun k c e act s = .ok () u := by
  unfold startRun
  rw [getPart_then, require_ok _ _ (by rw [hi]; rfl), bind_ok hr]
  exact h

end

/-- R150: a launch writes the REL registers of its graph's cores while no job runs there, and then it is a run of one step. -/
theorem launchSlot_run (hi : (s.part k).seq.state = .idle) (hr : residencyCheck k e s = .ok none t)
    (hl : ∀ n ∈ t.graphCores k ((t.part k).slot (entSlot e.bytes)), (t.job n).live = false)
    (h : acceptRun k c e 1 (((t.graphCores k ((t.part k).slot (entSlot e.bytes))).foldl (fun v n => v.updCore n fun y =>
      { y with rel := Map.setN (fun _ => 0#64) [] 0 ((List.range 16).map (entRelAddr e.bytes)) }) t).updPart k fun p =>
        p.setSlot (entSlot e.bytes) { (t.part k).slot (entSlot e.bytes) with launched := true }) = .ok () u) :
    launchSlot k c e s = .ok () u := by
  refine startRun_acts hi hr ?_
  rw [get_then, require_ok _ _ (by simpa using hl), bind_ok (each_foldl _ t fun _ _ _ => updCore_run ..), updPart_then, h]

theorem graphRun_run (hi : (s.part k).seq.state = .idle) (hr : residencyCheck k e s = .ok none t)
    (hl : ((t.part k).slot (entSlot e.bytes)).launched = true) (h : acceptRun k c e (entNstep e.bytes) t = .ok () u) :
    graphRun k c e s = .ok () u := by
  refine startRun_acts hi hr ?_
  rw [if_neg (by simp [hl]), h]

/-! XPOSE entries (R166). -/

theorem xposeEntry_run {n : Nat} (hm : s.mayDispatch k false = true) (hq : (s.part k).queue c = e :: rest) (hs : e.source = 2)
    (hg : e.stage = .queued) (hn : takeNumber k c s = .ok n t) (h : beginTransfer k c n e 2 e.parent e.bytes t = .ok () u) :
    xposeEntry k c s = .ok () u := by
  unfold xposeEntry
  rw [get_then, require_ok _ _ hm]
  simp only [hq]
  rw [require_ok _ _ (by rw [hs, hg]; rfl), bind_ok hn, h]

/-! The first of several programs that is not ended early. -/

theorem firstOf_first {x : Exec Unit} (xs : List (Exec Unit)) (h : x s = .ok () t) : firstOf (x :: xs) s = .ok () t := by
  simp only [firstOf, h]

theorem firstOf_later {x : Exec Unit} (xs : List (Exec Unit)) (h : x s = .error .done t) : firstOf (x :: xs) s = firstOf xs s := by
  simp only [firstOf, h]

/-! Loads and evictions (R148, R150). -/

theorem slotLoad_empty (he : ((s.part k).slot (entSlot e.bytes)).state = .empty) :
    slotLoad k c e s = .ok () (s.updPart k fun p => (p.setHead c { e with stage := .acting }).setSlot (entSlot e.bytes)
      { (s.part k).slot (entSlot e.bytes) with state := .loading, gen := entGen e.bytes }) := by
  unfold slotLoad
  rw [getPart_then, if_neg (not_not_intro he), updPart_run]

theorem slotLoad_refused (he : ((s.part k).slot (entSlot e.bytes)).state ≠ .empty) (h : complete k c e 0x2C6#10 0#64 s = .ok () t) :
    slotLoad k c e s = .ok () t := by
  unfold slotLoad
  rw [getPart_then, if_pos he, h]

section
variable {n : Nat} (ha : (s.part k).actingOn 0x06 n = some (c, e)) (hs : ((s.part k).slot n).state = .loading)
include ha hs

theorem slotLoadDone_loaded {y : Slot} (hl : loadImage k ((s.part k).slot n) e s = .ok (.ok y) t)
    (h : complete k c e 0#10 0#64 (t.updPart k fun p => p.setSlot n y) = .ok () u) : slotLoadDone k n s = .ok () u := by
  unfold slotLoadDone
  rw [getPart_then]
  simp only [ha]
  rw [require_ok _ _ (by rw [hs]; rfl), bind_ok hl]
  exact h

/-- R150: a load that fails leaves its slot EMPTY, with the generation kept. -/
theorem slotLoadDone_rejected {f : Cause} (hl : loadImage k ((s.part k).slot n) e s = .ok (.error f) t)
    (h : complete k c e f 0#64 (t.updPart k fun p => p.setSlot n { Slot.reset with gen := ((s.part k).slot n).gen }) = .ok () u) :
    slotLoadDone k n s = .ok () u := by
  unfold slotLoadDone
  rw [getPart_then]
  simp only [ha]
  rw [require_ok _ _ (by rw [hs]; rfl), bind_ok hl]
  exact h

end

theorem slotEvict_empty (he : ((s.part k).slot (entSlot e.bytes)).state = .empty) (h : complete k c e 0#10 0#64 s = .ok () t) :
    slotEvict k c e s = .ok () t := by
  unfold slotEvict
  rw [getPart_then]
  simp only [he, h]

theorem slotEvict_resident (he : ((s.part k).slot (entSlot e.bytes)).state = .resident)
    (hg : ((s.part k).slot (entSlot e.bytes)).gen = entGen e.bytes) :
    slotEvict k c e s = .ok () (s.updPart k fun p => (p.setHead c { e with stage := .acting }).setSlot (entSlot e.bytes)
      { (s.part k).slot (entSlot e.bytes) with state := .evicting }) := by
  unfold slotEvict
  rw [getPart_then]
  simp only [he, hg, ne_eq, not_true_eq_false, if_false, updPart_run]

/-- R150: an eviction ends once nothing of the slot is left to run; generation and world stay. -/
theorem slotEvictDone_run {n : Nat} (ha : (s.part k).actingOn 0x07 n = some (c, e)) (hs : ((s.part k).slot n).state = .evicting)
    (hb : (s.part k).slotBusy n = false)
    (h : complete k c e 0#10 0#64 (s.updPart k fun p =>
      p.setSlot n { Slot.reset with gen := ((s.part k).slot n).gen, world := ((s.part k).slot n).world }) = .ok () u) :
    slotEvictDone k n s = .ok () u := by
  unfold slotEvictDone
  rw [getPart_then]
  simp only [ha]
  rw [require_ok _ _ (by rw [hs, hb]; rfl), updPart_then, h]

/-! FREEZE and THAW (R214–R219). -/

section
variable (hq : (s.part k).queue c = e :: rest) (hs : e.source = 0) (hk : entKind e.bytes = 8) (h0 : entSlot e.bytes = 0)
include hq hs hk h0

/-- A FREEZE that dispatches writes the image of a partition that is frozen already, and begins to freeze any other. -/
theorem migrateFreeze_starts {e1 : QEntry} (hg : e.stage = .queued) (hd : Dispatches k c 0x08 e1 s t)
    (h : (if (s.part k).seq.state = .frozen then writeImage k c e1 else beginFreeze k c e1) t = .ok () u) :
    migrateFreeze k c s = .ok () u := by
  have hnot : e.stage ≠ .acting := by rw [hg]; decide
  unfold migrateFreeze
  rw [get_then]
  simp only [hq]
  rw [require_ok _ _ (by rw [hs, hk, h0]; rfl), if_neg hnot]
  exact dispatch_run hd h

/-- A FREEZE under way goes on at its next occurrence. -/
theorem migrateFreeze_goesOn (hg : e.stage = .acting) (h : freezeOn k c e s = .ok () u) : migrateFreeze k c s = .ok () u := by
  unfold migrateFreeze
  rw [get_then]
  simp only [hq]
  rw [require_ok _ _ (by rw [hs, hk, h0]; rfl), if_pos hg, h]

end

end

/-- An instruction or event that dispatches the head of a class. -/
theorem runExec_dispatch {k c kind : Nat} {e : QEntry} {s t u : State} {act : QEntry → Exec Unit} (hd : Dispatches k c kind e s t)
    (h : act e t = .ok () u) : runExec (dispatch k c kind act) s = .next u := runExec_ok (dispatch_run hd h)

/-- R142: NOP, CADD and CWAIT complete as they dispatch. -/
theorem exec_completesAtDispatch : ∀ p ∈ [(Instr.cmdNop, 0x00), (Instr.cmdCadd, 0x04), (Instr.cmdCwait, 0x05)], ∀ k c s e t u,
    Dispatches k c p.2 e s t → complete k c e 0#10 0#64 t = .ok () u → exec (p.1 k c) s = .next u := by
  simp only [List.forall_mem_cons, List.not_mem_nil, false_implies, implies_true, and_true]
  exact ⟨fun _ _ _ _ _ _ hd h => runExec_dispatch hd h, fun _ _ _ _ _ _ hd h => runExec_dispatch hd h,
    fun _ _ _ _ _ _ hd h => runExec_dispatch hd h⟩

/-- R149: a launch and a run that fail the residency check complete with its cause. -/
theorem exec_failsResidency : ∀ p ∈ [(Instr.cmdLaunchSlot, 0x01), (Instr.cmdGraphRun, 0x02)], ∀ k c s e t f u w, Dispatches k c p.2 e s t →
    (t.part k).seq.state = .idle → residencyCheck k e t = .ok (some f) u → complete k c e f 0#64 u = .ok () w →
    exec (p.1 k c) s = .next w := by
  simp only [List.forall_mem_cons, List.not_mem_nil, false_implies, implies_true, and_true]
  exact ⟨fun _ _ _ _ _ _ _ _ hd hi hr h => runExec_dispatch hd (startRun_fails hi hr h),
    fun _ _ _ _ _ _ _ _ hd hi hr h => runExec_dispatch hd (startRun_fails hi hr h)⟩

/-- R166: an XPOSE entry at the head of its class starts its transfer; no host entry stands there. -/
theorem exec_cmdCoach_xpose {k c n : Nat} {e : QEntry} {rest : List QEntry} {s t u : State} (hm : s.mayDispatch k false = true)
    (hq : (s.part k).queue c = e :: rest) (hs : e.source = 2) (hg : e.stage = .queued) (hn : takeNumber k c s = .ok n t)
    (h : beginTransfer k c n e 2 e.parent e.bytes t = .ok () u) : exec (.cmdCoach k c) s = .next u :=
  runExec_ok ((firstOf_later _ (dispatch_inserted _ _ hq (by omega))).trans (firstOf_first _ (xposeEntry_run hm hq hs hg hn h)))

/-- R152: a completion event leaves its list as its record and the new CTAIL are stored, and interrupts where it asks for it. -/
theorem completionPost_run {f : Nat} {x : Cpl} {rest : List Cpl} {s t u : State} (hf : f < 8) (hc : (s.part f).cpl = x :: rest)
    (h6 : 6 ≤ s.field (Reg.ringCtl f) 20 4)
    (hroom : (s.word (s.ptrAddr f + 0x80)).toNat - (s.word (s.ptrAddr f + 0xC0)).toNat < 2 ^ s.field (Reg.ringCtl f) 20 4)
    (ht : blockStore (s.cplAddr f (s.word (s.ptrAddr f + 0x80)).toNat) (cplRecord (s.word (s.ptrAddr f + 0x80)).toNat x)
      (s.updPart f fun p => { p with cpl := rest }) = .ok () t)
    (hu : blockStore (s.ptrAddr f + 0x80) (leBytes 8 (((s.word (s.ptrAddr f + 0x80)).toNat + 1) % 2 ^ 64)) t = .ok () u) :
    completionPost f s = .ok () (if (x.irq && s.flag (Reg.ringCtl f) 2) = true then
      { u with msix := s.field (Reg.ringCtl f) 8 8 % 64 :: u.msix } else u) := by
  unfold completionPost
  rw [get_then]
  simp only [hc]
  rw [require_ok _ _ (by rw [decide_eq_true hf, decide_eq_true h6, decide_eq_true hroom]; rfl), updPart_then, bind_ok ht, bind_ok hu, ite_run,
    modify_run, pure_run]
  split <;> rfl

theorem exec_cmdMigrateThaw {k c : Nat} {e : QEntry} {s t u : State} (hd : Dispatches k c 0x08 e s t) (h1 : entSlot e.bytes = 1)
    (h : migrateThaw k c e t = .ok () u) : exec (.cmdMigrateThaw k c) s = .next u :=
  runExec_dispatch hd ((require_ok _ _ (by rw [h1]; rfl)).trans h)

theorem queueEntryEvents : Claims.QueueEntryEvents :=
  ⟨fun _ _ _ _ _ _ hm hq hs hk hg hc => hostHead_run hm hq hs hk hg hc,
   fun k _ s hw => entryWait_none k s hw,
   exec_completesAtDispatch,
   fun _ _ _ _ _ _ hd h => runExec_dispatch hd h,
   fun _ _ _ _ _ _ hd h => runExec_dispatch hd h,
   fun _ _ _ _ _ _ _ _ hq hh hw h => runExec_ok (waitCancel_run hq hh hw h),
   fun _ _ _ _ _ _ _ _ hq he => complete_run hq he,
   fun _ _ _ _ _ hq hs => dequeue_host hq hs,
   fun k _ status value s hs => endEntry_noSignal k status value s hs,
   fun _ _ value _ _ hs hc h => endEntry_adds value hs hc h,
   fun _ _ _ _ _ _ _ hd hi hr hl h => runExec_dispatch hd (launchSlot_run hi hr hl h),
   fun _ _ _ _ _ _ _ hd hi hr hl h => runExec_dispatch hd (graphRun_run hi hr hl h),
   exec_failsResidency,
   fun _ _ _ _ _ _ hd h => runExec_ok (firstOf_first _ (dispatch_run hd h)),
   fun _ _ _ _ _ _ _ _ hm hq hs hg hn h => exec_cmdCoach_xpose hm hq hs hg hn h,
   fun _ _ _ _ _ _ hf hc h6 hroom ht hu => runExec_ok (completionPost_run hf hc h6 hroom ht hu)⟩

theorem slotAndMigrationEvents : Claims.SlotAndMigrationEvents :=
  ⟨fun _ _ _ _ _ hd he => runExec_dispatch hd (slotLoad_empty he),
   fun _ _ _ _ _ _ hd he h => runExec_dispatch hd (slotLoad_refused he h),
   fun _ _ _ _ _ _ _ _ ha hs hl h => runExec_ok (slotLoadDone_loaded ha hs hl h),
   fun _ _ _ _ _ _ _ _ ha hs hl h => runExec_ok (slotLoadDone_rejected ha hs hl h),
   fun _ _ _ _ _ _ hd he h => runExec_dispatch hd (slotEvict_empty he h),
   fun _ _ _ _ _ hd he hg => runExec_dispatch hd (slotEvict_resident he hg),
   fun _ _ _ _ _ _ ha hs hb h => runExec_ok (slotEvictDone_run ha hs hb h),
   fun _ _ _ _ _ _ _ _ hq hs hk h0 hg hd =>
     ⟨fun hf h => runExec_ok (migrateFreeze_starts hq hs hk h0 hg hd (by rw [if_pos hf, h])),
      fun hf h => runExec_ok (migrateFreeze_starts hq hs hk h0 hg hd (by rw [if_neg hf, h]))⟩,
   fun _ _ _ _ _ _ hq hs hk h0 hg h => runExec_ok (migrateFreeze_goesOn hq hs hk h0 hg h),
   fun _ _ _ _ _ _ hd h1 h => exec_cmdMigrateThaw hd h1 h⟩

/-- Settles O54: each event is run on its program, one equation per case of the rules. -/
theorem classQueueEvents : Obligations.ClassQueueEvents := ⟨queueEntryEvents, slotAndMigrationEvents⟩

end Sys2Proof.Laws
end

section
/-! LAUNCH, LAUNCH.T and XPOSE (R183, R184, R402, R489): the block, its check, the insertion at the tail of the task's class queue. -/
namespace Sys2Proof.Laws
open Sys2Proof.Machine

/-- The state in which a job's entry stands at the tail of its task's class queue and counts as received (R183, R189). -/
def withChild (s : State) (source rel : Nat) (bytes : List Byte) : State :=
  let j := s.job s.cur.coreNo
  (s.updPart j.part fun q => { q.setQueue j.cls (q.queue j.cls ++ [Claims.childEntry s source bytes false rel]) with
    tasks := Map.insert q.tasks j.task { Map.get (fun _ => Task.absent) q.tasks j.task with firstUsed := true } }).inCustody j.part entryNode 1 0

section
variable {x : Args} {try_ : Bool} {source rel : Nat} {bytes : List Byte} {s t u : State}

/-- R402: with room in the class queue and the release made, the entry goes in, D takes its answer and the instruction completes. -/
theorem insertChild_inserts
    (hroom : (((s.part (s.job s.cur.coreNo).part).queue (s.job s.cur.coreNo).cls).filter fun e => ! e.reserve).length < 1024)
    (hrel : (s.release rel).pending = 0) (h : launchStatus x try_ true (withChild s source rel bytes) = .ok () u) :
    insertChild x try_ source rel bytes s = .ok () (u.withHart fun h => h.past 1) := by
  have hfull := decide_eq_false (Nat.not_le.mpr hroom)
  unfold insertChild
  rw [get_then]
  simp only [hfull, hrel, Bool.false_and, Bool.false_eq_true, if_false, ne_eq, not_true_eq_false]
  exact (bind_ok h).trans (retire_one u)

theorem launchStatus_run (hw : if try_ then writeDst x.d 1#64 s = .ok () t else t = s) : launchStatus x try_ true s = .ok () t := by
  cases try_ with
  | true => exact hw
  | false => rw [show t = s from hw]; rfl

section
variable {ok : State → Job → List Byte → Bool} {bad : Cause} {a : Word} {s1 : State} (ha : readSrc 1 x.a s = .ok a s1)
include ha

theorem launchBlock_misaligned (h64 : a.toNat % 64 ≠ 0) (h : takeException s1.cur 0x143#10 (.at a) s1 = .ok () t) :
    launchBlock x try_ source ok bad s = .error .done t := by
  unfold launchBlock
  rw [bind_ok ha, if_pos h64]
  exact trapWith_run h

/-- R402: a block that is accepted after the release is inserted. -/
theorem launchBlock_accepted {o : Opnd} {s2 s3 : State} (h64 : a.toNat % 64 = 0) (h1 : findOpnd 4 s1 = .ok (some o) s1)
    (hb : readGlobal s1.cur (.at a) a.toNat 64 s1 = .ok bytes s2) (hc : clearAnswers s2.cur s2 = .ok () s3)
    (hok : ok s2 (s2.job s2.cur.coreNo) bytes = true) (h3 : findOpnd 4 s3 = .ok (some o) s3)
    (h : insertChild x try_ source o.value.toNat bytes s3 = .ok () t) : launchBlock x try_ source ok bad s = .ok () t := by
  unfold launchBlock
  rw [bind_ok ha, if_neg (not_not_intro h64), bind_ok h1]
  simp only [get_then]
  rw [bind_ok hb, get_then]
  rw [bind_ok hc, hok, Bool.not_true, if_neg Bool.false_ne_true, bind_ok h3]
  exact h

end

end

theorem launchResults_misaligned : ∀ i ∈ [Instr.launch, .launchT, .xpose], ∀ x s a s1 t, Issues (i x) s → readSrc 1 x.a s = .ok a s1 →
    a.toNat % 64 ≠ 0 → takeException s1.cur 0x143#10 (.at a) s1 = .ok () t → exec (i x) s = .next t := by
  simp only [List.forall_mem_cons, List.not_mem_nil, false_implies, implies_true, and_true]
  refine ⟨?launch, ?launchT, ?xpose⟩
  all_goals
    exact fun _ _ _ _ _ hi ha h64 h => (run_issues hi rfl rfl).trans (runExec_error (launchBlock_misaligned ha h64 h))

/-- Settles O29: each instruction reads its block, checks it and inserts its entry; LAUNCH.T alone answers in D. -/
theorem launchResults : Obligations.LaunchResults := by
  refine ⟨?_, launchResults_misaligned⟩
  simp only [List.forall_mem_cons, List.not_mem_nil, false_implies, implies_true, and_true]
  refine ⟨?launch, ?launchT, ?xpose⟩
  all_goals
    intro x s a s1 o s2 bytes t s3 s4 hi ha h64 h1 hb hc hok h3 hroom hrel hw ht
    subst ht
    exact (run_issues hi rfl rfl).trans
      (runExec_ok (launchBlock_accepted ha h64 h1 hb hc hok h3 (insertChild_inserts hroom hrel (launchStatus_run hw))))

end Sys2Proof.Laws
end

section
/-! A partition's sequencer block: PART_CTL, SCHED_CFG, the shadow region, CTX_CTL and invalidation, case by case. -/
namespace Sys2Proof.Laws
open Sys2Proof.Machine

section
variable {k : Nat} {v : Word} {s t u : State}

/-! PART_CTL (R159, R160). -/

@[simp] theorem refusePart_run (k : Nat) (s : State) : refusePart k s = .ok () (s.putFlag (Reg.partCtl k) 2 true) := rfl

/-- R159: a write that sets EN where it is clear creates the partition if it may be created, and sets REJ otherwise. -/
theorem partCtl_create (hv : Word.bit v 0 = true) (hoff : s.partOn k = false) :
    partCtl k v s = if s.mayCreate k v then createPartition k v s else .ok () (s.putFlag (Reg.partCtl k) 2 true) := by
  have hen : Word.bit (s.reg (Reg.partCtl k)) 0 = false := hoff
  unfold partCtl
  simp only [get_then, hen, hv, Bool.false_eq_true, if_false, if_true, ite_run, refusePart_run]

/-- R159: a write that clears EN and keeps mask and world destroys the partition if it may be destroyed, and sets REJ otherwise. -/
theorem partCtl_destroy (hv : Word.bit v 0 = false) (hon : s.partOn k = true)
    (hmask : Word.bits v 16 8 = Word.bits (s.reg (Reg.partCtl k)) 16 8) (hworld : Word.bit v 4 = Word.bit (s.reg (Reg.partCtl k)) 4) :
    partCtl k v s = if s.mayDestroy k then destroyPartition k v s else .ok () (s.putFlag (Reg.partCtl k) 2 true) := by
  have hen : Word.bit (s.reg (Reg.partCtl k)) 0 = true := hon
  unfold partCtl
  simp only [get_then, hen, hv, hmask, hworld, ne_eq, not_true_eq_false, or_self, Bool.false_eq_true, if_false, if_true, ite_run,
    refusePart_run]

theorem destroyPartition_run (h : clearPartition k (s.part k).phys s = .ok () t) :
    destroyPartition k v s = .ok () ((t.wrote (Reg.partCtl k) v).putFlag (Reg.partCtl k) 1 true) := by
  unfold destroyPartition
  rw [get_then, bind_ok h, plainWrite_then, setFlag_run]

theorem partBusyDone_created (hk : k < 8) (hb : s.flag (Reg.partCtl k) 1 = true) (hon : s.partOn k = true) :
    partBusyDone k s = .ok () (s.putFlag (Reg.partCtl k) 1 false) := by
  unfold partBusyDone
  rw [get_then, require_ok _ _ (by simp [hk, hb]), hon]
  rfl

/-- R160: a destroyed partition's front end is held in reset before its half-clusters are released. -/
theorem partBusyDone_destroyed (h0 : 0 < k) (hk : k < 8) (hb : s.flag (Reg.partCtl k) 1 = true) (hoff : s.partOn k = false)
    (h : holdFrontEnd k s = .ok () t) :
    partBusyDone k s = .ok () ((t.updPart k fun p => { p with phys := [], lcores := 0 }).putFlag (Reg.partCtl k) 1 false) := by
  unfold partBusyDone
  rw [get_then, require_ok _ _ (by simp [hk, hb]), hoff, Bool.not_false, if_pos rfl, if_pos (Nat.ne_of_gt h0)]
  exact bind_ok ((bind_ok h).trans rfl)

/-! SCHED_CFG and the shadow region (R162, R200). -/

theorem schedCfg_run (k : Nat) (v : Word) (s : State) :
    schedCfg k v s = .ok () (if Word.bits v 32 16 < 10 ∨ 10000 < Word.bits v 32 16 then s.putFlag (Reg.seqStat k) 3 true
      else s.wrote (Reg.schedCfg k) v) := by
  unfold schedCfg
  rw [ite_run, setFlag_run, plainWrite_run]
  split <;> rfl

theorem partCtl_shadowBase (k : Nat) : Reg.partCtl k + 0x100 = Reg.shadowBase k := by
  simp only [Reg.partCtl, Reg.shadowBase]
  omega

/-- R200: a shadow register is not written while a run or a task of the partition is live. -/
theorem shadowConfig_refused (off : Nat) (v : Word) (hlive : (s.part k).seq.state ≠ .idle ∨ (s.part k).tasks ≠ []) :
    shadowConfig k off v s = .ok () (s.putFlag (Reg.ctxStat k) 3 true) := by
  have hno : ((s.part k).seq.state == .idle && (s.part k).tasks.isEmpty) = false := by
    rw [Bool.and_eq_false_iff, beq_eq_false_iff_ne, List.isEmpty_eq_false_iff]
    exact hlive
  unfold shadowConfig
  simp only [get_then, hno, Bool.false_and, Bool.false_eq_true, if_false, setFlag_run]

theorem shadowConfig_base {sp : RegSpec} (hidle : (s.part k).seq.state = .idle) (hnone : (s.part k).tasks = [])
    (hsp : regSpec (Reg.shadowBase k) = some sp)
    (hok : s.shadowOk k (sp.write (s.reg (Reg.shadowBase k)) v) (s.reg (Reg.shadowCfg k)) = true) :
    shadowConfig k 0x100 v s = .ok () (s.setReg (Reg.shadowBase k) (sp.write (s.reg (Reg.shadowBase k)) v)) := by
  unfold shadowConfig
  simp only [get_then, partCtl_shadowBase, hsp, hok, hidle, hnone, beq_self_eq_true, List.isEmpty_nil, Bool.and_self, if_true, setReg_run]

/-! CTX_CTL (R201). -/

/-- R201: outside phase 4 a write changes nothing. -/
theorem ctxResume_ignored (v : Word) (hp : s.ctxPhase k ≠ 4) : ctxResume k v s = .ok () s := by
  unfold ctxResume
  rw [get_then, if_pos (by simp [hp]), pure_run]

theorem ctxResume_finishes {c : Nat} {e : QEntry} (hv : Word.bit v 0 = true) (hp : s.ctxPhase k = 4)
    (hs : sendSusp k tyRRESUME (s.part k).epoch ((List.range (s.part k).lcores).flatMap (s.ranksOf k)) s = .ok () u)
    (hc : ((List.range 4).findSome? fun c =>
      match ((s.part k).queue c).head? with
      | some e => if e.source = 0 ∧ entKind e.bytes = 8 ∧ e.stage = .acting then some (c, e) else none
      | none => none) = some (c, e))
    (h : finishThaw k c (s.reg (Reg.seqQbar k)).toNat e u = .ok () t) : ctxResume k v s = .ok () t := by
  unfold ctxResume
  rw [get_then, if_neg (by simp [hv, hp]), bind_ok hs]
  exact (congrArg (fun o : Option (Nat × QEntry) => (match o with
    | some (c, e) => finishThaw k c (s.reg (Reg.seqQbar k)).toNat e
    | none => pure ()) u) hc).trans h

/-! Invalidation (R281, R282). -/

theorem invCtl_busy (hv : Word.bit v 0 = true) (hb : s.flag (Reg.invCtl k) 1 = true) : invCtl k v s = .ok () s := by
  unfold invCtl
  rw [get_then, hv, Bool.not_true, if_neg Bool.false_ne_true, if_pos hb, pure_run]

theorem invCtl_starts (hv : Word.bit v 0 = true) (hb : s.flag (Reg.invCtl k) 1 = false)
    (h1 : startInvalidation k (granuleAddr (s.reg (Reg.invBase k))) (granuleAddr (s.reg (Reg.invLimit k)) + 65535)
      (((s.wrote (Reg.invCtl k) v).putFlag (Reg.invCtl k) 1 true).updPart k fun p =>
        { p with invs := [(granuleAddr (s.reg (Reg.invBase k)), granuleAddr (s.reg (Reg.invLimit k)) + 65535)] }) = .ok () t)
    (h2 : endInvalidation k (granuleAddr (s.reg (Reg.invBase k))) (granuleAddr (s.reg (Reg.invLimit k)) + 65535) t = .ok () u) :
    invCtl k v s = .ok () u := by
  unfold invCtl
  rw [get_then, hv, Bool.not_true, if_neg Bool.false_ne_true, if_neg (ne_true_of_eq_false hb), plainWrite_then, setFlag_then, updPart_then,
    bind_ok h1, h2]

/-- R282: the counter gains 1 and BUSY clears once no request of the partition's cores is on its way. -/
theorem invDone_run (hk : k < 8) (hb : s.flag (Reg.invCtl k) 1 = true) (ho : s.partOut k = false)
    (h1 : each (s.part k).invs (fun r => endInvalidation k r.1 r.2) s = .ok () t)
    (h2 : addWindow k (s.field (Reg.invCtl k) 16 13) 1 (s.frontRel k []) (t.updPart k fun p => { p with invs := [] }) = .ok () u) :
    invDone k s = .ok () (u.putFlag (Reg.invCtl k) 1 false) := by
  unfold invDone
  rw [get_then, require_ok _ _ (by simp [hk, hb, ho]), bind_ok h1, updPart_then, bind_ok h2, setFlag_run]

/-! The register writes as events (R107). -/

theorem exec_partCreate {w : Writer} (ha : s.admits w (Reg.partCtl k) v = true) (hk : k < 8) (hv : Word.bit v 0 = true)
    (hoff : s.partOn k = false) (h : partCtl k v s = .ok () t) : exec (.partCreate k w v) s = .next t :=
  runExec_admitted ha ((require_ok _ _ (by simp [hk, hv, hoff])).trans h)

theorem exec_partDestroy {w : Writer} (ha : s.admits w (Reg.partCtl k) v = true) (hk : k < 8) (hv : Word.bit v 0 = false)
    (hon : s.partOn k = true) (h : partCtl k v s = .ok () t) : exec (.partDestroy k w v) s = .next t :=
  runExec_admitted ha ((require_ok _ _ (by simp [hk, hv, hon])).trans h)

theorem exec_shadowConfigWrite {w : Writer} {off : Nat} (ha : s.admits w (Reg.partCtl k + off) v = true) (hk : k < 8)
    (ho : off = 0x100 ∨ off = 0x108) (h : shadowConfig k off v s = .ok () t) : exec (.shadowConfigWrite k off w v) s = .next t :=
  runExec_admitted ha ((require_ok _ _ (by simpa [hk] using ho)).trans h)

theorem exec_invGo {w : Writer} (ha : s.admits w (Reg.invCtl k) v = true) (hk : k < 8) (hv : Word.bit v 0 = true)
    (h : invCtl k v s = .ok () t) : exec (.invGo k w v) s = .next t :=
  runExec_admitted ha ((require_ok _ _ (by simp [hk, hv])).trans h)

end

/-- Settles O53: each write is run on its register's program, refused or carried out; the ends of a destruction and of an
invalidation are events of their own. -/
theorem partitionEvents : Obligations.PartitionEvents :=
  ⟨fun _ _ _ _ ha hk hv hoff hm => exec_partCreate ha hk hv hoff ((partCtl_create hv hoff).trans (if_neg (ne_true_of_eq_false hm))),
   fun _ _ _ _ _ ha hk hv hoff hm h => exec_partCreate ha hk hv hoff ((partCtl_create hv hoff).trans ((if_pos hm).trans h)),
   fun _ _ _ _ ha hk hv hon hmask hworld =>
     ⟨fun hm => exec_partDestroy ha hk hv hon ((partCtl_destroy hv hon hmask hworld).trans (if_neg (ne_true_of_eq_false hm))),
      fun hm _ h => exec_partDestroy ha hk hv hon
        ((partCtl_destroy hv hon hmask hworld).trans ((if_pos hm).trans (destroyPartition_run h)))⟩,
   fun _ _ hk hb hon => runExec_ok (partBusyDone_created hk hb hon),
   fun _ _ _ h0 hk hb hoff h => runExec_ok (partBusyDone_destroyed h0 hk hb hoff h),
   fun k _ v s ha hk => runExec_frontEnd ha hk (schedCfg_run k v s),
   fun _ off _ v _ ha hk ho hlive => exec_shadowConfigWrite ha hk ho (shadowConfig_refused off v hlive),
   fun k _ _ _ _ ha hk hidle hnone hsp hok =>
     exec_shadowConfigWrite (by rwa [partCtl_shadowBase k]) hk (.inl rfl) (shadowConfig_base hidle hnone hsp hok),
   fun _ _ v _ ha hk hp => runExec_frontEnd ha hk (ctxResume_ignored v hp),
   fun _ _ _ _ _ _ _ _ ha hk hv hp hs hc h => runExec_frontEnd ha hk (ctxResume_finishes hv hp hs hc h),
   fun _ _ v s ha hk => runExec_frontEnd ha hk (plainWrite_run _ v s),
   fun _ _ _ _ ha hk hv hb => exec_invGo ha hk hv (invCtl_busy hv hb),
   fun _ _ _ _ _ _ ha hk hv hb h1 h2 => exec_invGo ha hk hv (invCtl_starts hv hb h1 h2),
   fun _ _ _ _ hk hb ho h1 h2 => runExec_ok (invDone_run hk hb ho h1 h2)⟩

end Sys2Proof.Laws
end

section
/-! The graph sequencer (R167–R177, R185, R186, R188–R191), case by case. -/
namespace Sys2Proof.Laws
open Sys2Proof.Machine
open Claims (HeadMet)

section
variable {k : Nat} {n : List Byte} {rels : List Rel} {s t u w : State}

/-! Captures (R170, R171). -/

section
variable {x : Slot} (hs : (s.part k).seq.state = .capture) (hx : (s.part k).slot (s.part k).seq.slot = x)
include hs hx

/-- R170: a malformed header ends the run with 0x301. -/
theorem graphCapture_badHeader (hg : graphOk (s.part k).lcores x.imglen x.graph = false) (h : endRun k 0x301#10 s = .ok () t) :
    graphCapture k s = .ok () t := by
  unfold graphCapture
  rw [get_then, require_ok _ _ (beq_iff_eq.mpr hs)]
  simp only [hx, hg, Bool.not_false, if_true, h]

/-- R170: a malformed node ends the run with 0x300. -/
theorem graphCapture_badNode (hg : graphOk (s.part k).lcores x.imglen x.graph = true)
    (hn : (x.nodes x.graph).any (fun n => ! nodeOk (graphNlcore x.graph) x.imglen n) = true) (h : endRun k 0x300#10 s = .ok () t) :
    graphCapture k s = .ok () t := by
  unfold graphCapture
  rw [get_then, require_ok _ _ (beq_iff_eq.mpr hs)]
  simp only [hx, hg, hn, Bool.not_true, Bool.false_eq_true, if_false, if_true, h]

/-- R171: a well-formed graph is copied, and its first node stands at the head of issue. -/
theorem graphCapture_issues (hg : graphOk (s.part k).lcores x.imglen x.graph = true)
    (hn : (x.nodes x.graph).any (fun n => ! nodeOk (graphNlcore x.graph) x.imglen n) = false) :
    graphCapture k s = .ok () (s.updPart k fun p =>
      { p with seq := { p.seq with state := .issue, node := 0, step := x.step, hdr := x.graph, nodes := x.nodes x.graph } }) := by
  unfold graphCapture
  rw [get_then, require_ok _ _ (beq_iff_eq.mpr hs)]
  simp only [hx, hg, hn, Bool.not_true, Bool.false_eq_true, if_false, updPart_run]

end

/-! Node issue (R173, R174, R177). -/

theorem headNode_run (hs : (s.part k).seq.state = .issue) (hw : (s.part k).sweepOpen = false) (hp : s.ctxPhase k = 0)
    (hn : (s.part k).seq.nodes[(s.part k).seq.node]? = some n) : headNode k s = .ok n s := by
  unfold headNode
  rw [get_then, require_ok _ _ (by rw [hs, hw, hp]; rfl)]
  simp only [hn, pure_run]

theorem nodeWait_none (k st : Nat) (s : State) (hw : nodeWen n = false) : nodeWait k st n s = .ok (.met []) s := by
  unfold nodeWait
  rw [hw, Bool.not_false, if_pos rfl, pure_run]

/-- R174: a threshold above 2^64 − 1 cancels the node with 0x302. -/
theorem nodeWait_unreachable {st : Nat} (k : Nat) (s : State) (hw : nodeWen n = true) (ht : 2 ^ 64 ≤ nodeThr n st) :
    nodeWait k st n s = .ok (.poisoned 0x302#10) s := by
  unfold nodeWait
  rw [hw, Bool.not_true, if_neg Bool.false_ne_true, if_pos ht, pure_run]

theorem issueTaskNode_run {i : Nat} (hh : HeadMet k 1 n rels s t) (hf : taskNlc n ≤ s.frameCount k) (hr : s.taskRoom k (taskNlc n) = true)
    (hn : newTask k { Task.absent with
      node := n, cls := (match (s.part k).seq.entry with | some e => entClass e.bytes | none => 0), slot := (s.part k).seq.slot,
      step := (s.part k).seq.step, gained := if nodeAcq n then rels else [] } t = .ok i u)
    (ha : advance k u = .ok () w) : issueTaskNode k s = .ok () w := by
  obtain ⟨hhead, hkind, hwait⟩ := hh
  unfold issueTaskNode
  rw [bind_ok hhead, get_then, require_ok _ _ (beq_iff_eq.mpr hkind), bind_ok hwait]
  simp only [Nat.not_lt.mpr hf, if_false]
  rw [require_ok _ _ hr]
  exact (bind_ok hn).trans ha

section
variable {block : List Byte} (hh : HeadMet k 2 n rels s t) (hblock : ((s.part k).slot (s.part k).seq.slot).bytes (coachPboff n) 64 = block)
include hh hblock

theorem nodeCoachIssue_starts {i : Nat} (hb : blockOk false block = true)
    (hn : newTransfer k (Transfer.start 1 0 0 0 (s.part k).seq.node none block (if nodeAcq n then rels else [])) t = .ok i u)
    (ha : advance k u = .ok () w) : nodeCoachIssue k s = .ok () w := by
  obtain ⟨hhead, hkind, hwait⟩ := hh
  unfold nodeCoachIssue
  rw [bind_ok hhead, getPart_then, require_ok _ _ (beq_iff_eq.mpr hkind), bind_ok hwait]
  simp only [hblock, hb, Bool.not_true, Bool.false_eq_true, if_false]
  exact (bind_ok ((bind_ok hn).trans rfl)).trans ha

/-- R491: a malformed parameter block cancels the node with 0x201. -/
theorem nodeCoachIssue_badBlock (hb : blockOk false block = false) (hf : nodeFail k n 0x201#10 t = .ok () u)
    (ha : advance k u = .ok () w) : nodeCoachIssue k s = .ok () w := by
  obtain ⟨hhead, hkind, hwait⟩ := hh
  unfold nodeCoachIssue
  rw [bind_ok hhead, getPart_then, require_ok _ _ (beq_iff_eq.mpr hkind), bind_ok hwait]
  simp only [hblock, hb, Bool.not_false, if_true]
  exact (bind_ok hf).trans ha

end

theorem nodeQbarIssue_run (hh : HeadMet k 3 n rels s t) (hw : startSweep k (.node (s.part k).seq.node) t = .ok () u)
    (ha : advance k u = .ok () w) : nodeQbarIssue k s = .ok () w := by
  obtain ⟨hhead, hkind, hwait⟩ := hh
  unfold nodeQbarIssue
  rw [bind_ok hhead, getPart_then, require_ok _ _ (beq_iff_eq.mpr hkind), bind_ok hwait]
  exact (bind_ok hw).trans ha

theorem nodeNopIssue_run (hh : HeadMet k 0 n rels s t)
    (hs : nodeSignal k n (t.frontRel k (if nodeAcq n then rels else [])) t = .ok () u) (ha : advance k u = .ok () w) :
    nodeNopIssue k s = .ok () w := by
  obtain ⟨hhead, hkind, hwait⟩ := hh
  unfold nodeNopIssue
  rw [bind_ok hhead, getPart_then, require_ok _ _ (beq_iff_eq.mpr hkind), bind_ok hwait]
  exact (bind_ok hs).trans ha

/-- R174: a poisoned wait cancels the node at the head. -/
theorem cancelHead_run {f : Cause} (hh : headNode k s = .ok n s)
    (hw : nodeWait k (s.part k).seq.step.toNat n s = .ok (.poisoned f) t) (hf : nodeFail k n f t = .ok () u) (ha : advance k u = .ok () w) :
    cancelHead k s = .ok () w := by
  unfold cancelHead
  rw [bind_ok hh, getPart_then, bind_ok hw]
  exact (bind_ok hf).trans ha

/-! Drains and sweeps (R172, R188–R191). -/

theorem stepDrained_run (hs : (s.part k).seq.state = .drain) (hp : s.ctxPhase k = 0) (ht : (s.part k).tasks = [])
    (hw : (s.part k).sweepOpen = false) (hq : ∀ c < 4, ∀ e ∈ (s.part k).queue c, e.source = 0)
    (hx : ∀ x ∈ (s.part k).transfers, x.2.source = 0)
    (h : startSweep k .stepEnd (s.updPart k fun p => { p with seq := { p.seq with state := .sweep } }) = .ok () t) :
    stepDrained k s = .ok () t := by
  have hqueues : (List.range 4).all (fun c => ((s.part k).queue c).all (·.source == 0)) = true := by
    simpa [List.all_eq_true] using hq
  have htransfers : (s.part k).transfers.all (·.2.source == 0) = true := by simpa [List.all_eq_true] using hx
  unfold stepDrained
  rw [get_then, require_ok _ _ (by rw [hs, hp, ht, hw, hqueues, htransfers]; rfl), updPart_then, h]

/-- R172: a step closed with no failure and more to come is followed by the next capture. -/
theorem sweepClose_more {x : Slot} {y : Sweep} (hf : (s.part k).sweeps.find? (fun w => w.by_ == .stepEnd && w.met) = some y)
    (hs : (s.part k).seq.state = .sweep) (hx : (s.part k).slot (s.part k).seq.slot = x) (hl : 1 < (s.part k).seq.stepsLeft)
    (hc : (s.part k).seq.cause = 0#10) :
    sweepClose k s = .ok () (s.updPart k fun p =>
      { p.setSlot (s.part k).seq.slot { x with step := x.step + 1#64 } with
        lastStep := x.step + 1#64, closed := s.gseq, sweeps := p.sweeps.erase y,
        seq := { p.seq with stepsLeft := (s.part k).seq.stepsLeft - 1, state := .capture } }) := by
  have hmore : (decide (1 < (s.part k).seq.stepsLeft) && (s.part k).seq.cause == 0#10) = true := by rw [decide_eq_true hl, hc]; rfl
  unfold sweepClose
  rw [get_then]
  simp only [hf]
  rw [require_ok _ _ (beq_iff_eq.mpr hs)]
  simp only [hx, hmore, updPart_then, Bool.not_true, Bool.false_eq_true, if_false, if_true]
  rfl

section
variable {x : Sweep} {rest : List Sweep} (hq : (s.part k).sweeps = x :: rest)
include hq

/-- A pair that has met R188, or whose second sums have gone up, goes behind the others. -/
theorem sweepReturn_waits (hm : x.met = true ∨ x.second.isSome = true) :
    sweepReturn k s = .ok () (s.updPart k fun p => { p with sweeps := p.sweeps.filter (·.num != x.num) ++ [x] }) := by
  unfold sweepReturn
  rw [getPart_then]
  simp only [hq]
  rw [if_pos (by simpa using hm)]
  rfl

theorem sweepReturn_sums (hm : x.met = false) (h2 : x.second = none) (h : sweepSums k x s = .ok () t) : sweepReturn k s = .ok () t := by
  unfold sweepReturn
  rw [getPart_then]
  simp only [hq]
  rw [if_neg (by simp [hm, h2]), h]

end

/-! The end of tasks (R173, R174, R185). -/

section
variable {i : Nat} {task : Task} (ht : Map.find (s.part k).tasks i = some task) (hj : task.jobs = []) (hs : task.started = true)
include ht hj hs

/-- A task whose jobs have ended leaves the live tasks; then its node signals, or fails with the task's fatal cause. -/
theorem taskEnd_run (h : (match task.fatal with
      | none => nodeSignal k task.node task.jobRels
      | some f => nodeFail k task.node f) (s.updPart k fun p => { p with tasks := Map.erase p.tasks i }) = .ok () w) :
    taskEnd k i s = .ok () w := by
  unfold taskEnd
  rw [getPart_then]
  simp only [ht]
  rw [require_ok _ _ (by rw [hj, hs]; rfl), hs]
  exact h

theorem taskEnd_signals (hf : task.fatal = none)
    (h : nodeSignal k task.node task.jobRels (s.updPart k fun p => { p with tasks := Map.erase p.tasks i }) = .ok () w) :
    taskEnd k i s = .ok () w := taskEnd_run ht hj hs (by rw [hf]; exact h)

theorem taskEnd_fails {f : Cause} (hf : task.fatal = some f)
    (h : nodeFail k task.node f (s.updPart k fun p => { p with tasks := Map.erase p.tasks i }) = .ok () w) :
    taskEnd k i s = .ok () w := taskEnd_run ht hj hs (by rw [hf]; exact h)

end

/-- R174: the fault record goes to the queue of the task's first core. -/
theorem fatalError_run {i c : Nat} {cs : List Nat} {cause : Cause} (ht : Map.has (s.part k).tasks i = true)
    (hc : isFatal cause = true ∨ cause = 0x147#10 ∨ cause = 0x345#10) (hcs : s.taskCores k i = c :: cs)
    (h : fatalOn c 7 0 cause .plain s = .ok () u) : fatalError k i cause s = .ok () u := by
  unfold fatalError
  rw [get_then, require_ok _ _ (by simpa [ht, or_assoc] using hc)]
  simp only [hcs, h]

end

theorem sequencerEvents : Claims.SequencerEvents :=
  ⟨fun _ _ _ hs =>
     ⟨fun hg h => runExec_ok (graphCapture_badHeader hs rfl hg h),
      fun hg hn h => runExec_ok (graphCapture_badNode hs rfl hg hn h),
      fun hg hn => runExec_ok (graphCapture_issues hs rfl hg hn)⟩,
   fun _ _ _ hs hw hp hn => headNode_run hs hw hp hn,
   fun k st _ s hw => nodeWait_none k st s hw,
   fun k _ _ s hw ht => nodeWait_unreachable k s hw ht,
   fun _ _ _ _ _ _ _ _ hh hf hr hn ha => runExec_ok (firstOf_first _ (issueTaskNode_run hh hf hr hn ha)),
   fun _ _ _ _ _ _ _ _ hh =>
     ⟨fun hb hn ha => runExec_ok (nodeCoachIssue_starts hh rfl hb hn ha), fun hb hf ha => runExec_ok (nodeCoachIssue_badBlock hh rfl hb hf ha)⟩,
   fun _ _ _ _ _ _ _ hh hw ha => runExec_ok (nodeQbarIssue_run hh hw ha),
   fun _ _ _ _ _ _ _ hh hs ha => runExec_ok (nodeNopIssue_run hh hs ha),
   fun _ _ _ _ _ _ _ hh hw hf ha => runExec_ok (firstOf_first _ (cancelHead_run hh hw hf ha)),
   fun _ _ _ hs hp ht hw hq hx h => runExec_ok (stepDrained_run hs hp ht hw hq hx h),
   fun _ _ _ hf hs hl hc => runExec_ok (sweepClose_more hf hs rfl hl hc),
   fun _ _ _ _ _ hq =>
     ⟨fun hm => runExec_ok (sweepReturn_waits hq hm), fun hm h2 h => runExec_ok (sweepReturn_sums hq hm h2 h)⟩,
   fun _ _ _ _ _ _ ht hj hs hu => by
     subst hu
     exact ⟨fun hf h => runExec_ok (taskEnd_signals ht hj hs hf h), fun _ hf h => runExec_ok (taskEnd_fails ht hj hs hf h)⟩,
   fun _ _ _ _ _ _ _ ht hc hcs h => runExec_ok (fatalError_run ht hc hcs h)⟩

end Sys2Proof.Laws
end

section
/-! Jobs on cores (R178–R182, R193, R199, R202–R210, R225–R228, R235, R236), case by case. -/
namespace Sys2Proof.Laws
open Sys2Proof.Machine

/-! The start of a task (R179, R199). -/

section
variable {k i : Nat} {s0 s u v : State} {task : Task}

/-- The group starts together once no job is left on its cores; its dispatch ends once every job is on a core (R166). -/
theorem taskStart_starts {new : Task} (hr : refreshReady k s0 = .ok () s) (ht : Map.find (s.part k).tasks i = some task)
    (hstart : task.started = false) (hfatal : task.fatal = none) (hp : s.ctxPhase k = 0) (hz : (s.part k).seq.state ≠ .frozen)
    (hn : taskNlc task.node ≤ s.framesFree k) (hmux : s.flag (Reg.ctxStat k) 8 = false)
    (hfree : ∀ c ∈ s.groupCores k task, (s.job c).live = false) (hgive : ∀ c ∈ s.groupCores k task, s.canGive k task c = true)
    (hnew : { task with started := true, jobs := range s.nextJob (taskNlc task.node) } = new)
    (hg : startGroup k i s.nextJob new false (({ s with nextJob := s.nextJob + taskNlc task.node } : State).updPart k fun p =>
      { p with tasks := Map.insert p.tasks i new }) = .ok () u)
    (he : if u.allStarted k i then endChildDispatch k new u = .ok () v else v = u) : taskStart k i s0 = .ok () v := by
  have hfreeAll : ((s.groupCores k task).all fun c => ! (s.job c).live) = true := by simpa using hfree
  have hgiveAll : ((s.groupCores k task).all fun c => s.canGive k task c) = true := by simpa using hgive
  have hend : (if u.allStarted k i then endChildDispatch k new else pure () : Exec Unit) u = .ok () v := by
    rw [ite_run]
    split at he
    · rw [if_pos ‹_›, he]
    · rw [if_neg ‹_›, he, pure_run]
  unfold taskStart
  rw [bind_ok hr, get_then]
  simp only [ht, hmux, hfreeAll, hgiveAll, Bool.false_or, if_true]
  rw [require_ok _ _ (by simp [hstart, hfatal, hp, hz, hn]), require_ok _ _ rfl, hnew]
  exact (bind_ok hg).trans hend

end

section
variable {c : Nat} {s t : State}

/-! The end of a job (R235). -/

theorem jobEnd_ends {j : Job} (hjob : s.job c = j) (hl : j.live = true)
    (hst : ∀ e ∈ j.streams, (s.hart (.stream c e)).stat = .joined ∧ (s.hart (.stream c e)).priv = []) (hm : j.mcmds = []) (hf : j.fcmds = [])
    (hp : j.psb = []) (hlq : j.loadQ = []) (hsq : j.storeQ = []) (hr : j.rlds = []) (ha : s.coreAwaits c = false) (ho : s.jobOut c = false)
    (h : removeJob c s = .ok () t) :
    jobEnd c s = .ok () ((t.inCustody j.part feNode 0 1).updPart j.part fun p =>
      { p with tasks := Map.upd (fun _ => Task.absent) p.tasks j.task fun x =>
          { x with jobs := x.jobs.filter (· != j.id), jobRels := s.endRels c ++ x.jobRels } }) := by
  have hstopped : (j.streams.all fun e => (s.hart (.stream c e)).stat == .joined || (s.hart (.stream c e)).stat == .halted) = true :=
    List.all_eq_true.mpr fun e he => by rw [(hst e he).1]; rfl
  have hpublished : (j.streams.any fun e => ! (s.hart (.stream c e)).priv.isEmpty) = false :=
    List.any_eq_false.mpr fun e he => by rw [(hst e he).2]; decide
  unfold jobEnd
  rw [get_then]
  simp only [hjob]
  rw [require_ok _ _ (by simp only [hl, hstopped, hm, hf, hp, hlq, hsq, hr, ha]; rfl), hpublished, if_neg Bool.false_ne_true,
    require_ok _ _ (by rw [ho]; rfl), bind_ok h, custody_then, updPart_run]

/-! Pre-emption and restore (R181, R202, R207). -/

theorem quantumExpiry_run (hl : (s.job c).live = true) (hq : 1500 * s.field (Reg.schedCfg (s.job c).part) 32 16 ≤ (s.job c).issueTime)
    (hr : refreshReady (s.job c).part s = .ok () t) :
    quantumExpiry c s = .ok () (t.updJob c fun j => { j with quantumOver := true, stopping := j.stopping || t.otherReady c }) := by
  unfold quantumExpiry
  rw [get_then, require_ok _ _ (by simp [hl, hq]), bind_ok hr, get_then, updJob_run]

/-- Ranks that no other package knows are not suspended: the job is saved at once. -/
theorem preemptSave_saves {j : Job} (hjob : s.job c = j) (hl : j.live = true) (hstop : j.stopping = true)
    (hpts : ∀ e ∈ j.streams, (s.hart (.stream c e)).atPoint = true) (hsome : ∃ e ∈ j.streams, (s.hart (.stream c e)).stat ≠ .halted)
    (hq : s.jobQuiet c = true) (hm : s.multi j.part = false)
    (h : saveJob c (s.ctxPhase j.part == 1) (s.updJob c fun j => { j with stopping := true }) = .ok () t) : preemptSave c s = .ok () t := by
  have hall : (j.streams.all fun e => (s.hart (.stream c e)).atPoint) = true := List.all_eq_true.mpr hpts
  have hany : (j.streams.any fun e => (s.hart (.stream c e)).stat != .halted) = true := by simpa using hsome
  have hnone : (s.part j.part).ownSusp s.pkg [] = [] := by simp [Part.ownSusp]
  unfold preemptSave
  rw [get_then]
  simp only [hjob]
  rw [require_ok _ _ (by rw [hl, hstop, hall, hany, hq]; rfl), updJob_then]
  simp only [hm, hnone, Bool.false_eq_true, if_false, List.isEmpty_nil, Bool.not_true, Bool.false_and, List.all_nil]
  rw [require_ok _ _ rfl, h]

theorem jobRestore_restores {id k : Nat} {s0 : State} {f : Frame} (hf : Map.find s0.frames id = some f) (hk : f.job.part = k)
    (hr : refreshReady k s0 = .ok () s) (hl : (s.job c).live = false) (hcore : (s.part k).coreOf f.job.lcore = c)
    (hpart : s.partOfCore c = some k) (hp : s.ctxPhase k = 0) (hz : (s.part k).seq.state ≠ .frozen) (hnext : s.nextJobOn k c = some id)
    (hres : s.resident k f.job.lcore = true) (h : restoreJob c id f s = .ok () t) : jobRestore c id s0 = .ok () t := by
  unfold jobRestore
  rw [get_then]
  simp only [hf, hk]
  rw [bind_ok hr, get_then, require_ok _ _ (by simp [hl, hcore, hpart, hp, hz, hnext, hres]), h]

/-! Residency and the proxy port (R225–R228). -/

theorem residencyChange_run {k l : Nat} (hpart : s.partOfCore c = some k) (hmux : s.flag (Reg.ctxStat k) 8 = true)
    (hl : (s.job c).live = false) (hp : s.ctxPhase k = 0) (hz : (s.part k).seq.state ≠ .frozen) (hnext : s.nextResident k c = some l) :
    residencyChange c s = .ok () ((((s.moveScratch (aliasOf c 0) (s.shadowOf k (s.core c).resident 0)).moveScratch (s.shadowOf k l 0)
      (aliasOf c 0)).loadWritten (aliasOf c 0)).updCore c fun x => { x with resident := l }) := by
  unfold residencyChange
  rw [get_then]
  simp only [hpart]
  rw [require_ok _ _ (by simp [hmux, hl, hp, hz])]
  simp only [hnext]
  rfl

section
variable {k l : Nat} (hl : l < (s.part k).lcores)
include hl

theorem proxyAccess_write {off : Nat} {data : List Byte} {b : Bool} (hr : s.resident k l = false) (hd : off + data.length ≤ 4194304)
    (h : physWrite (s.shadowOf k l off) data none s = .ok b t) : proxyAccess k l (.write off data) s = .ok () t := by
  unfold proxyAccess
  rw [get_then, require_ok _ _ (decide_eq_true hl)]
  exact (require_ok _ _ (by simp [hr, hd])).trans (bind_ok h)

theorem proxyAccess_memAdd {off : Nat} {v : Word} (hr : s.resident k l = false) (hd : off + 8 ≤ 4194304) (h8 : off % 8 = 0)
    (h : addMcounter (s.shadowOf k l off) v [] s = .ok () t) : proxyAccess k l (.memAdd off v) s = .ok () t := by
  unfold proxyAccess
  rw [get_then, require_ok _ _ (decide_eq_true hl)]
  exact (require_ok _ _ (by simp [hr, hd, h8])).trans h

theorem proxyAccess_coreAdd {n : Nat} {e : Nat × Frame} (v : Word) (hn : n < 256)
    (he : s.frames.find? (fun e => e.2.job.part == k && e.2.job.lcore == l) = some e) :
    proxyAccess k l (.coreAdd n v) s =
      .ok () { s with frames := Map.insert s.frames e.1 { e.2 with job := e.2.job.addCounter n v [] } } := by
  unfold proxyAccess
  rw [get_then, require_ok _ _ (decide_eq_true hl)]
  simp only [he]
  rw [require_ok _ _ (decide_eq_true hn), modify_run]

end

/-! Deadlock (R236). -/

theorem deadlockFault_run (hd : s.deadlocked c = true) (hc : 4096 ≤ (s.core c).deadCycles)
    (h : fatalOn c 7 0 0x105#10 .plain s = .ok () t) : deadlockFault c s = .ok () t := by
  unfold deadlockFault
  rw [get_then, require_ok _ _ (by rw [hd, decide_eq_true hc]; rfl), h]

end

theorem jobEvents : Claims.JobEvents :=
  ⟨fun _ _ _ _ _ _ _ hr ht hstart hfatal hp hz hn hmux hfree hgive hg he =>
     runExec_ok (taskStart_starts hr ht hstart hfatal hp hz hn hmux hfree hgive rfl hg he),
   fun _ _ hl hst hm hf hp hlq hsq hr ha ho _ h => runExec_ok (jobEnd_ends rfl hl hst hm hf hp hlq hsq hr ha ho h),
   fun _ _ _ hl hq hr => runExec_ok (quantumExpiry_run hl hq hr),
   fun _ _ _ hl hstop hpts hsome hq hm h => runExec_ok (preemptSave_saves rfl hl hstop hpts hsome hq hm h),
   fun _ _ _ _ _ _ hf hr hl hcore hpart hp hz hnext hres h =>
     runExec_ok (jobRestore_restores hf rfl hr hl hcore hpart hp hz hnext hres h),
   fun _ _ _ _ hpart hmux hl hp hz hnext => runExec_ok (residencyChange_run hpart hmux hl hp hz hnext),
   fun _ _ _ _ _ _ _ hl hr hd h => runExec_ok (proxyAccess_write hl hr hd h),
   fun _ _ _ _ _ _ hl hr hd h8 h => runExec_ok (proxyAccess_memAdd hl hr hd h8 h),
   fun _ _ _ v _ _ hl hn he => runExec_ok (proxyAccess_coreAdd hl v hn he),
   fun _ _ _ hd hc h => runExec_ok (deadlockFault_run hd hc h)⟩

/-- Settles O55: each event is run on its program, one equation per case of the rules. -/
theorem sequencerAndJobEvents : Obligations.SequencerAndJobEvents := ⟨sequencerEvents, jobEvents⟩

end Sys2Proof.Laws
end

section
/-! Fences, sealing and QBAR (R299, R310, R311, R314, R397–R399), case by case. -/
namespace Sys2Proof.Laws
open Sys2Proof.Machine

section
variable {x : Args} {s t u : State} {id : Nat}

/-! Fences (R299, R397). -/

theorem afterImmediate_run (f : Exec Unit) (ho : s.addsOut (agentNo s.cur) = false) : afterImmediate f s = f s := by
  rw [afterImmediate, get_then, ho, if_neg Bool.false_ne_true]

theorem afterImmediate_waits (f : Exec Unit) (ho : s.addsOut (agentNo s.cur) = true) :
    afterImmediate f s = .error .done (s.withHart fun h => { h with blocked := .custody, restart := h.restartHere }) := by
  rw [afterImmediate, get_then, if_pos ho, block_run]

theorem fenceRelease_run {scope : Nat} (h : releaseHere scope s = .ok id t) :
    fenceRelease scope s = .ok () (t.withHart fun h => { h with fenceRel := some id }) := by
  rw [fenceRelease, bind_ok h, updHart_run]

theorem fenceAcquire_run (scope : Nat) (s : State) : fenceAcquire scope s = acquire s.cur scope (s.hart s.cur).lastWait s := rfl

theorem fence_releases (ho : s.addsOut (agentNo s.cur) = false) (h : fenceRelease (scopeOf x) s = .ok () t) :
    fence x true false s = .ok () (t.withHart fun h => h.past 1) := by
  rw [fence, afterImmediate_run _ ho]
  exact (bind_ok h).trans (retire_one t)

theorem fence_acquires (ho : s.addsOut (agentNo s.cur) = false) (h : fenceAcquire (scopeOf x) s = .ok () t) :
    fence x false true s = .ok () (t.withHart fun h => h.past 1) := by
  rw [fence, afterImmediate_run _ ho]
  exact (bind_ok h).trans (retire_one t)

/-- R299: the release comes before the acquire. -/
theorem fence_releasesThenAcquires (ho : s.addsOut (agentNo s.cur) = false) (h1 : fenceRelease (scopeOf x) s = .ok () t)
    (h2 : fenceAcquire (scopeOf x) t = .ok () u) : fence x true true s = .ok () (u.withHart fun h => h.past 1) := by
  rw [fence, afterImmediate_run _ ho]
  exact (bind_ok h1).trans ((bind_ok h2).trans (retire_one u))

/-! SEAL and UNSEAL (R310, R311, R398). -/

section
variable {on : Bool} {a b : Word} {s1 s2 : State} (ha : readSrc 1 x.a s = .ok a s1) (hb : readSrc 2 x.b s1 = .ok b s2)
include ha hb

/-- R398: at the effect point the waiting stream goes on. -/
theorem sealRange_effectPoint (hw : (s2.hart s2.cur).blocked = .sealing)
    (hn : ((s2.part (s2.job s2.cur.coreNo).part).seals.any fun e => e.1 == s2.cur.coreNo) = false) :
    sealRange x on s = .ok () (s2.withHart fun h => h.past 1) := by
  unfold sealRange
  rw [bind_ok ha, bind_ok hb, get_then, hw, if_pos (beq_self_eq_true _), hn, if_neg Bool.false_ne_true, retire_one]

/-- R310: a range whose leaves are so already needs the release alone. -/
theorem sealRange_already {ls : List (Leaf × Nat)} {s3 s4 : State} (hw : (s2.hart s2.cur).blocked ≠ .sealing)
    (hl : sealLeaves a b s2 = .ok ls s3) (hr : releaseHere 3 s3 = .ok id s4) (hall : (ls.all fun l => l.1.seal_ == on) = true) :
    sealRange x on s = .ok () (s4.withHart fun h => h.past 1) := by
  unfold sealRange
  rw [bind_ok ha, bind_ok hb, get_then, if_neg (by simpa using hw), bind_ok hl, bind_ok hr, if_pos hall, retire_one]

/-- R398: a range that is no whole number of 64 KiB pages faults with 0x143. -/
theorem sealRange_misaligned (hw : (s2.hart s2.cur).blocked ≠ .sealing)
    (hbad : a.toNat % 65536 ≠ 0 ∨ b.toNat % 65536 ≠ 65535 ∨ b.toNat < a.toNat) (h : takeException s2.cur 0x143#10 (.at a) s2 = .ok () t) :
    sealRange x on s = .error .done t := by
  have hleaves : sealLeaves a b s2 = .error .done t := by
    rw [sealLeaves, if_pos hbad]
    exact trapWith_run h
  unfold sealRange
  rw [bind_ok ha, bind_ok hb, get_then, if_neg (by simpa using hw), bind_error hleaves]

end

/-! QBAR (R314, R399). -/

/-- R314: once its barrier has passed, the waiting stream acquires at system scope. -/
theorem qbarHere_passes (hw : (s.hart s.cur).blocked = .qbar) (hq : (s.job s.cur.coreNo).qbar = false) (h : acquire s.cur 4 [] s = .ok () t) :
    qbarHere s = .ok () (t.withHart fun h => h.past 1) := by
  unfold qbarHere
  rw [get_then, hw, if_pos (beq_self_eq_true _), hq, if_neg Bool.false_ne_true, bind_ok h, retire_one]

theorem qbarHere_arrives (hw : (s.hart s.cur).blocked ≠ .qbar) (hr : releaseHere 4 s = .ok id t)
    (h : qbarReached (s.job s.cur.coreNo).part (s.job s.cur.coreNo).task (t.updJob s.cur.coreNo fun j => { j with qbar := true }) = .ok () u) :
    qbarHere s = .error .done (u.withHart fun h => { h with blocked := .qbar, restart := h.restartHere }) := by
  unfold qbarHere
  rw [get_then, if_neg (by simpa using hw), bind_ok hr, updJob_then, bind_ok h, block_run]

end

theorem fenceResults : Claims.FenceResults := by
  refine ⟨fun _ _ _ _ hi ho hr => ?rel, fun _ _ _ hi ho ha => ?acq, fun _ _ _ _ _ hi ho hr ha => ?ar, ?waits⟩
  case rel => exact (run_issues hi rfl rfl).trans (runExec_ok (fence_releases ho (fenceRelease_run hr)))
  case acq => exact (run_issues hi rfl rfl).trans (runExec_ok (fence_acquires ho ((fenceAcquire_run ..).trans ha)))
  case ar => exact (run_issues hi rfl rfl).trans (runExec_ok (fence_releasesThenAcquires ho (fenceRelease_run hr) ((fenceAcquire_run ..).trans ha)))
  case waits =>
    simp only [List.forall_mem_cons, List.not_mem_nil, false_implies, implies_true, and_true]
    refine ⟨?_, ?_, ?_⟩
    all_goals exact fun _ _ hi ho => (run_issues hi rfl rfl).trans (runExec_error (afterImmediate_waits _ ho))

theorem sealResults : Claims.SealResults := by
  simp only [Claims.SealResults, List.forall_mem_cons, List.not_mem_nil, false_implies, implies_true, and_true]
  refine ⟨?sealed, ?unsealed⟩
  all_goals
    exact fun _ _ _ _ _ _ hi ha hb =>
      ⟨fun hw _ _ _ _ hl hr hall => (run_issues hi rfl rfl).trans (runExec_ok (sealRange_already ha hb hw hl hr hall)),
       fun hw hn => (run_issues hi rfl rfl).trans (runExec_ok (sealRange_effectPoint ha hb hw hn)),
       fun hw hbad _ h => (run_issues hi rfl rfl).trans (runExec_error (sealRange_misaligned ha hb hw hbad h))⟩

theorem qbarResults : Claims.QbarResults :=
  ⟨fun _ _ _ hi hw hq h => (run_issues hi rfl rfl).trans (runExec_ok (qbarHere_passes hw hq h)),
   fun _ _ _ _ _ hi hw hr h => (run_issues hi rfl rfl).trans (runExec_error (qbarHere_arrives hw hr h))⟩

/-- Settles O27: each instruction is run on its program, one equation per case of the rules. -/
theorem synchronisationResults : Obligations.SynchronisationResults := ⟨fenceResults, sealResults, qbarResults⟩

end Sys2Proof.Laws
end

section
/-! Cart commands as they run (R233, R302, R312, R473, R483), case by case. -/
namespace Sys2Proof.Laws
open Sys2Proof.Machine

section
variable {c : Nat} {store : Bool} {s t u v : State}

theorem setCart_run (c : Nat) (store : Bool) (cmd : CartCmd) (s : State) :
    setCart c store cmd s =
      .ok () (s.updJob c fun j => j.setCartQ store ((j.cartQ store).map fun q => if q.id = cmd.id then cmd else q)) := rfl

theorem dropCart_run (c : Nat) (store : Bool) (id : Nat) (s : State) :
    dropCart c store id s =
      .ok () ((s.updJob c fun j => j.setCartQ store ((j.cartQ store).filter fun q => q.id != id)).inCustody (s.job c).part (128 + c) 0 1) :=
  rfl

/-! The start of the first unstarted command (R233, R302, R312). -/

section
variable {cmd : CartCmd} (hl : (s.job c).live = true) (hf : firstUnstarted ((s.job c).cartQ store) = some cmd)
include hl hf

theorem cartStart_unmet (hw : waitState (.cart c cmd.id) c cmd.cl s = .ok .unmet t) : cartStart c store s = .ok () t := by
  unfold cartStart
  rw [get_then]
  simp only [hf]
  rw [require_ok _ _ hl, bind_ok hw]
  rfl

/-- R312: a poisoned wait cancels the command, and its signal takes the poison. -/
theorem cartStart_poisoned {f : Cause} (hw : waitState (.cart c cmd.id) c cmd.cl s = .ok (.poisoned f) t)
    (hd : dropCart c store cmd.id t = .ok () u) (hs : signalPoison c cmd.cl f u = .ok () v) : cartStart c store s = .ok () v := by
  unfold cartStart
  rw [get_then]
  simp only [hf]
  rw [require_ok _ _ hl, bind_ok hw]
  exact (bind_ok hd).trans hs

/-- R233: a command whose wait is met starts; PUT and GET, which name a rank of their own, have their cases apart. -/
theorem cartStart_starts {rels : List Rel} (h8 : cmd.opc ≠ 0xE8) (h9 : cmd.opc ≠ 0xE9)
    (hw : waitState (.cart c cmd.id) c cmd.cl s = .ok (.met rels) t) :
    cartStart c store s = setCart c store
      { cmd with started := true,
                 floor := if cmd.cl.acq then cmd.floor.join (gainOf 3 (t.party (.stream c .A)) rels) else cmd.floor } t := by
  unfold cartStart
  rw [get_then]
  simp only [hf]
  rw [require_ok _ _ hl, bind_ok hw]
  simp only [get_then]
  rw [if_neg (by simp [h8, h9])]

end

/-! The work of the command at the head of its queue (R473, R483). -/

section
variable {cmd x : CartCmd} {rest : List CartCmd} (hl : (s.job c).live = true) (hq : (s.job c).cartQ store = cmd :: rest)
  (hs : cmd.started = true)
include hl hq hs

theorem cartComplete_goesOn {n : Nat} (h : cartSteps c (n + 1) cmd s = .ok (.more x) t ∨ cartSteps c (n + 1) cmd s = .ok (.waits x) t) :
    cartComplete c store n s = setCart c store x t := by
  unfold cartComplete
  rw [getJob_then]
  simp only [hq]
  rw [require_ok _ _ hl, require_ok _ _ hs]
  obtain h | h := h
  · rw [bind_ok h]
  · rw [bind_ok h]

/-- R473: the last of its work accepted, the command leaves its queue and its signal follows. -/
theorem cartComplete_ends {n : Nat} (h : cartSteps c (n + 1) cmd s = .ok (.ended x) t) (hb : x.bad = none)
    (hd : dropCart c store x.id t = .ok () u) (hv : signalDone c x.cl x.total x.gs u = .ok () v) : cartComplete c store n s = .ok () v := by
  unfold cartComplete
  rw [getJob_then]
  simp only [hq]
  rw [require_ok _ _ hl, require_ok _ _ hs, bind_ok h]
  simp only [hb]
  exact (bind_ok hd).trans hv

/-- R483: a piece that fails stops the command. -/
theorem cartFail_stops {f : Cause} {a : Word} (h : cartStep c cmd s = .ok (.fails x f a) t) (hv : failCart c store x f a x.pos t = .ok () v) :
    cartFail c store s = .ok () v := by
  unfold cartFail
  simp only [hq, hl, hs, h, Bool.not_true, Bool.or_self, Bool.false_eq_true, if_false, hv]

end

end

theorem cartEvents : Claims.CartEvents :=
  ⟨fun _ _ _ _ _ _ hl hf h8 h9 hw => runExec_ok ((cartStart_starts hl hf h8 h9 hw).trans (setCart_run ..)),
   fun _ _ _ _ _ hl hf hw => runExec_ok (cartStart_unmet hl hf hw),
   fun _ _ _ _ _ _ _ _ hl hf hw hd hs => runExec_ok (cartStart_poisoned hl hf hw hd hs),
   fun _ _ _ _ _ _ _ _ hl hq hs =>
     ⟨fun h => runExec_ok ((cartComplete_goesOn hl hq hs h).trans (setCart_run ..)),
      fun h hb _ _ hd hv => runExec_ok (cartComplete_ends hl hq hs h hb hd hv)⟩,
   fun _ _ _ _ _ _ _ _ _ _ hl hq hs h hv => runExec_ok (cartFail_stops hl hq hs h hv),
   dropCart_run⟩

end Sys2Proof.Laws
end

section
/-! Coach transfers and held adds (R303, R493, R495, R516–R518), case by case. -/
namespace Sys2Proof.Laws
open Sys2Proof.Machine

section
variable {β : Type} {k i r : Nat} {s t u v w y z : State} {x : Transfer}

@[simp] theorem updTransfer_run (k i : Nat) (g : Transfer → Transfer) (s : State) : updTransfer k i g s = .ok () (s.onTransfer k i g) := rfl
@[simp] theorem updTransfer_then (k i : Nat) (g : Transfer → Transfer) (f : Unit → Exec β) (s : State) :
    (updTransfer k i g >>= f) s = f () (s.onTransfer k i g) := rfl

theorem getTransfer_then (hx : Map.find (s.part k).transfers i = some x) (f : Transfer → Exec β) : (getTransfer k i >>= f) s = f x s :=
  bind_ok (by rw [getTransfer, getPart_then]; simp only [hx, pure_run])

/-! A rank issues its step (R493, R495, R518). -/

/-- What a rank of a step under issue does for one of its peers: its block goes out, or the pair's failure is kept (R493, R495). -/
def issuePeer (k i : Nat) (x : Transfer) (r : Nat) (q : Nat × Nat × Except Cause (List (CLoc × CData))) : Exec Unit :=
  match q.2.2 with
  | .error c => updTransfer k i fun y => { y.fail c with failed := y.failed ++ [(stepKey x.step r, q.1, c)] }
  | .ok ps => issuePair k i (cblock x.block) x.step r q.1 ps q.2.1

section
variable (ha : x.allIssued = false) (hr : (cblock x.block).ranks.contains r = true) (hi : x.issued.contains r = false)
  (hp : s.ctxPhase k = 0)
include ha hr hi hp

theorem rank_mayIssue :
    (! x.allIssued && (cblock x.block).ranks.contains r && ! x.issued.contains r && s.ctxPhase k == 0) = true := by
  simp only [ha, hr, hi, hp]
  rfl

variable (hx : Map.find (s.part k).transfers i = some x)
include hx

/-- R518: a source rank that does not resolve fails its pair with every peer of this package. -/
theorem coachStepIssue_unresolved {c : Cause} (hc : resolveRank k r s = .ok (.error c) t) (ho : openStep k i x.step t = .ok () u)
    (hri : rankIssued k i r (u.onTransfer k i fun y =>
      { y.fail c with failed := y.failed ++ (((cblock x.block).peers x.step).filter (s.localRank k)).map fun p => (stepKey x.step r, p, c) }) =
        .ok () v)
    (hset : settleTransfer k i v = .ok () w) : coachStepIssue k i r s = .ok () w := by
  unfold coachStepIssue
  rw [getTransfer_then hx, get_then, require_ok _ _ (rank_mayIssue ha hr hi hp), bind_ok hc]
  exact (bind_ok ho).trans ((bind_ok hri).trans hset)

/-- A rank on another package issues its step there. -/
theorem coachStepIssue_far {pkg l : Nat} (hc : resolveRank k r s = .ok (.ok (pkg, l)) t) (hne : pkg ≠ s.pkg)
    (hri : rankIssued k i r t = .ok () u) (hset : settleTransfer k i u = .ok () v) : coachStepIssue k i r s = .ok () v := by
  unfold coachStepIssue
  rw [getTransfer_then hx, get_then, require_ok _ _ (rank_mayIssue ha hr hi hp), bind_ok hc]
  simp only [if_pos hne]
  exact (bind_ok hri).trans hset

/-- R493: a rank of this package, with no counter to wait for or to drain, reads the blocks of its peers in full and then issues them. -/
theorem coachStepIssue_issues {l : Nat} {todo : List (Nat × Nat × Except Cause (List (CLoc × CData)))} {fl : Know} {t' : State}
    (hc : resolveRank k r s = .ok (.ok (s.pkg, l)) t) (hsusp : s.suspended k s.pkg r = false) (hwait : (cblock x.block).wsel = 0xFF)
    (hacq : (cblock x.block).acq = false) (hdrain : (cblock x.block).dsel = 0xFF)
    (hfl : ((gainOf 3 (t.party (.frontEnd k)) x.gained).join ⟨x.base, []⟩).join .zero = fl)
    (hg : gatherPeers k i (cblock x.block) fl x.step r l ((cblock x.block).peers x.step) t = .ok (some todo) u)
    (hclear : clearCoachReads k i (stepKey x.step r) u = .ok () v) (ho : openStep k i x.step v = .ok () w)
    (hpeers : each todo (issuePeer k i x r) w = .ok () y) (hri : rankIssued k i r (y.onTransfer k i fun a => a) = .ok () t')
    (hset : settleTransfer k i t' = .ok () z) : coachStepIssue k i r s = .ok () z := by
  unfold coachStepIssue
  rw [getTransfer_then hx, get_then, require_ok _ _ (rank_mayIssue ha hr hi hp), bind_ok hc]
  simp only [ne_eq, not_true_eq_false, if_false]
  rw [require_ok _ _ (by simp [hsusp])]
  simp only [hwait, hacq, hdrain, if_true]
  refine (bind_ok (t := t') (a := ()) ?_).trans hset
  rw [get_then]
  simp only [Bool.false_eq_true, if_false, hfl]
  rw [bind_ok hg]
  exact (bind_ok hclear).trans ((bind_ok ho).trans ((bind_ok hpeers).trans hri))

end

section
variable (hx : Map.find (s.part k).transfers i = some x)
include hx

/-! Signals and failures (R303, R493, R495, R518). -/

/-- R493: the counter of a peer gains the bytes of the first step that has been accepted there. -/
theorem coachStepSignal_signals {key : Nat}
    (hs : (firstKey r x.toSignal).filter (fun y => natOf x.outTo y == 0 && ! x.failed.any fun f => f.1 / 65536 == y / 65536 && f.2.1 == r) =
      some key)
    (hd : (firstKey r x.toDrain).filter (fun y => natOf x.outFrom y == 0 && ! x.failed.any fun f => f.1 == y) = none)
    (hv : signalPeer k x (cblock x.block) key s = .ok () t)
    (hset : settleTransfer k i (t.onTransfer k i fun y => { y with toSignal := y.toSignal.filter (· != key) }) = .ok () u) :
    coachStepSignal k i r s = .ok () u := by
  unfold coachStepSignal
  rw [getTransfer_then hx]
  simp only [hs, hd]
  rw [require_ok _ _ (by rfl)]
  rw [bind_bind, bind_ok hv, updTransfer_then]
  exact hset

/-- R495: a failed pair poisons the peer's counter and, where the source rank lies here, the source's. -/
theorem coachPairFail_poisons {p : Nat} {cause : Cause} {f : Nat × Nat × Cause}
    (hf : x.failed.find? (fun f => f.1 % 65536 == r && f.2.1 == p && f.2.2 == cause) = some f)
    (hpeer : poisonAt k x p (cblock x.block).ssel cause (s.onTransfer k i fun y => { y with failed := y.failed.erase f }) = .ok () t)
    (hsource : if t.localRank k r then poisonAt k x r (cblock x.block).dsel cause t = .ok () u else u = t)
    (hset : settleTransfer k i u = .ok () v) : coachPairFail k i r p cause s = .ok () v := by
  unfold coachPairFail
  rw [getTransfer_then hx]
  simp only [hf]
  rw [updTransfer_then, bind_ok hpeer, get_then]
  split at hsource
  · rw [if_pos ‹_›]
    exact (bind_ok hsource).trans hset
  · subst hsource
    rw [if_neg ‹_›]
    exact hset

end

/-! Held adds (R516, R517). -/

/-- R517: a held add is applied once its transfer has been dispatched. -/
theorem heldApply_applies {h : Held} (hf : (s.part k).held.find? (fun h => ((s.part k).ownerOf h.cls h.num).isSome) = some h)
    (hv : applyAdd k h (((s.part k).ownerOf h.cls h.num).getD 0)
      ((s.updPart k fun p => { p with held := p.held.erase h }).inCustody k heldNode 0 1) = .ok () t) : heldApply k s = .ok () t := by
  unfold heldApply
  rw [getPart_then]
  simp only [hf]
  rw [updPart_then, custody_then, hv]

/-- R517: an add held too long is discarded, with a record in the fault queue of its rank's core. -/
theorem heldExpiry_discards {h : Held} {q : Nat × Nat} (hh : (s.part k).held[i]? = some h)
    (hsusp : ((s.part k).susp.any fun y => decide (y.first ≤ h.rank) && decide (h.rank ≤ y.last)) = false)
    (hr : resolveRank k h.rank ((s.updPart k fun p => { p with held := p.held.eraseIdx i }).inCustody k heldNode 0 1) = .ok (.ok q) t)
    (hv : fqPush ((s.part k).coreOf q.2) true
      (faultRecord 0x24A#10 1 7 q.2 0 0 { FInfo.plain with counter := 0x8000 + h.counter } s.dcc) t = .ok () u) :
    heldExpiry k i s = .ok () u := by
  unfold heldExpiry
  rw [get_then]
  simp only [hh]
  rw [require_ok _ _ (by rw [hsusp]; rfl), updPart_then, custody_then, bind_ok hr]
  exact hv

end

theorem coachEvents : Claims.CoachEvents :=
  ⟨fun _ _ _ _ _ _ _ _ _ _ hx ha hr hi hp hc ho hri hset => runExec_ok (coachStepIssue_unresolved ha hr hi hp hx hc ho hri hset),
   fun _ _ _ _ _ _ _ _ _ _ hx ha hr hi hp hc hne hri hset => runExec_ok (coachStepIssue_far ha hr hi hp hx hc hne hri hset),
   fun _ _ _ _ _ _ _ _ _ _ _ _ _ _ hx ha hr hi hp hc hsusp hwait hacq hdrain hfl hg hclear ho hpeers _ hri hset =>
     runExec_ok (coachStepIssue_issues ha hr hi hp hx hc hsusp hwait hacq hdrain hfl hg hclear ho hpeers hri hset),
   fun _ _ _ _ _ _ _ _ hx hs hd hv hset => runExec_ok (coachStepSignal_signals hx hs hd hv hset),
   fun _ _ _ _ _ _ _ _ _ _ _ hx hf hpeer hsource hset => runExec_ok (coachPairFail_poisons hx hf hpeer hsource hset),
   fun _ _ _ _ _ _ _ _ _ h => runExec_ok h,
   fun _ _ _ _ hf hv => runExec_ok (heldApply_applies hf hv),
   fun _ _ _ _ _ _ _ hh hsusp hr hv => runExec_ok (heldExpiry_discards hh hsusp hr hv)⟩

/-- Settles O57: each event is run on its program, one equation per case of the rules. -/
theorem cartAndCoachEvents : Obligations.CartAndCoachEvents := ⟨cartEvents, coachEvents⟩

end Sys2Proof.Laws
end

section
/-! Tile instructions that run over their destination's rows: TCMP and the complex members (R339, R426, R431, R432), case by case. -/
namespace Sys2Proof.Laws
open Sys2Proof.Machine

section
variable {β : Type} {b : Bool} {s : State}

theorem needType_then (f : Unit → Exec β) (h : b = true) : (needType b >>= f) s = f () s := by subst h; rfl
theorem needShape_then (f : Unit → Exec β) (h : b = true) : (needShape b >>= f) s = f () s := by subst h; rfl

end

/-! Element-wise members (R426). -/

/-- An instruction whose program is `elementwise` once its sources `srcs` are read has the element-wise run. -/
theorem elementwiseRun_of {i : Args → Instr} {x : Args} {s s1 : State} {srcs : List Src} {ok : Nat → Bool} {f : List Nat → Nat → Nat}
    {body : Exec Unit} (hexec : exec (i x) s = runExec body s) (hbody : body s = elementwise x srcs ok f s1) :
    Claims.ElementwiseRun i x s s1 srcs ok f := by
  intro dst s2 t hdst htype hserves hshape hoverlap hrun
  refine hexec.trans (runExec_ok (hbody.trans ?_))
  unfold elementwise
  rw [bind_ok hdst, needType_then _ (by rw [htype, hserves]; rfl), needShape_then _ hshape, bind_ok hoverlap]
  exact hrun

/-- A member of one tile source that issues as its program. -/
theorem tileUnary_of {i : Args → Instr} {ok : Nat → Bool} {f : Args → Nat → Nat → Nat}
    (hexec : ∀ x s, Issues (i x) s →
      exec (i x) s = runExec (tileSrc 1 x.a >>= fun a => elementwise x [a] ok fun es t => f x t (es.getD 0 0)) s) :
    Claims.TileUnary i ok f :=
  fun x s _ _ hi ha => elementwiseRun_of (hexec x s hi) (bind_ok ha)

/-- A member of a tile source and a second one that may be a scalar, which issues as its program. -/
theorem tileBinary_of {i : Args → Instr} {ok : Nat → Bool} {f : Args → Nat → Nat → Nat → Nat}
    (hexec : ∀ x s, Issues (i x) s →
      exec (i x) s = runExec (tileSrc 1 x.a >>= fun a => bcastSrc 2 x.b >>= fun b =>
        elementwise x [a, b] ok fun es t => f x t (es.getD 0 0) (es.getD 1 0)) s) :
    Claims.TileBinary i ok f :=
  fun x s _ _ _ _ hi ha hb => elementwiseRun_of (hexec x s hi) ((bind_ok ha).trans (bind_ok hb))

/-! TCMP (R431). -/

/-- A comparison runs over its destination's rows with the relation `rel` of A's type; `cpx` says whether it takes complex types. -/
def CompareRun (i : Args → Instr) (cpx : Bool) (rel : Nat → Nat → Nat → Bool) : Prop :=
  ∀ x s a b s1 s2 dst s3 t, Issues (i x) s → tileSrc 1 x.a s = .ok a s1 → bcastSrc 2 x.b s1 = .ok b s2 → tileDst x s2 = .ok dst s3 →
    (isFPA a.desc.typ || isINTA a.desc.typ || (isCPX a.desc.typ && cpx)) = true → b.serves a.desc.typ = true → isINTS dst.desc.typ = true →
    (a.shaped dst.desc.rows dst.desc.cols && b.shaped dst.desc.rows dst.desc.cols) = true → checkOverlap dst [a, b] false s3 = .ok () s3 →
    runFull dst (fun r => do
      let ra ← a.row a.desc.typ dst.desc.cols r
      let rb ← b.row a.desc.typ dst.desc.cols r
      pure ((List.range dst.desc.vcols).map fun j => (rel a.desc.typ (ra.getD j 0) (rb.getD j 0)).toNat)) s3 = .ok () t →
    exec (i x) s = .next t

/-- The member of TCMP with function number `fn` compares by `relElem`; EQ, NE and UN (0, 1 and 6) alone take complex types. -/
theorem compareRun_relElem (i : Args → Instr) (fn : Nat) (hexec : ∀ x s, Issues (i x) s → exec (i x) s = runExec (tileCmp fn x) s) :
    CompareRun i (fn == 0 || fn == 1 || fn == 6) fun t => relElem t fn := by
  intro x s a b s1 s2 dst s3 t hi ha hb hdst htype hserves hint hshape hoverlap hrun
  refine (hexec x s hi).trans (runExec_ok ?_)
  unfold tileCmp
  rw [bind_ok ha, bind_ok hb, bind_ok hdst, needType_then _ (by rw [htype, hserves, hint]; rfl), needShape_then _ hshape,
    bind_ok hoverlap]
  exact hrun

/-- R431: the rule's relation of each member is `relElem` at the member's function number. -/
theorem tileCompareResults : Claims.TileCompareResults := by
  simp only [Claims.TileCompareResults, List.forall_mem_cons, List.not_mem_nil, false_implies, implies_true, and_true]
  refine ⟨?eq, ?ne, ?lt, ?le, ?gt, ?ge, ?un⟩
  case eq => exact compareRun_relElem .tcmpEq 0 fun _ _ hi => run_issues hi rfl rfl
  case ne => exact compareRun_relElem .tcmpNe 1 fun _ _ hi => run_issues hi rfl rfl
  case lt => exact compareRun_relElem .tcmpLt 2 fun _ _ hi => run_issues hi rfl rfl
  case le => exact compareRun_relElem .tcmpLe 3 fun _ _ hi => run_issues hi rfl rfl
  case gt => exact compareRun_relElem .tcmpGt 4 fun _ _ hi => run_issues hi rfl rfl
  case ge => exact compareRun_relElem .tcmpGe 5 fun _ _ hi => run_issues hi rfl rfl
  case un => exact compareRun_relElem .tcmpUn 6 fun _ _ hi => run_issues hi rfl rfl

/-! The complex members (R339, R432). -/

/-- R339, R432: the product and the conjugate of the rule are `cpxMul` and `conjElem`. -/
theorem tileComplexResults : Claims.TileComplexResults := by
  refine ⟨?tcmul, ?tcmulc, ?tconj⟩
  case tcmul => exact tileBinary_of (f := fun _ t => cpxMul t false) fun _ _ hi => run_issues hi rfl rfl
  case tcmulc => exact tileBinary_of (f := fun _ t => cpxMul t true) fun _ _ hi => run_issues hi rfl rfl
  case tconj => exact tileUnary_of (f := fun _ => conjElem) fun _ _ hi => run_issues hi rfl rfl

/-- Settles O36: each member issues as its program, which reads its sources, passes its checks and runs over its destination's rows. -/
theorem tileCompareAndComplexResults : Obligations.TileCompareAndComplexResults := ⟨tileCompareResults, tileComplexResults⟩

end Sys2Proof.Laws
end

section
/-! Encoding and decoding (R351–R354, R359): each slot form gives its fields back, each encoding stands in the row its opcode names, and
the first slot tells the length. -/
namespace Sys2Proof.Laws
open Sys2Proof.Machine
open BitVec (extractLsb'_append_eq_of_le extractLsb'_append_eq_of_add_le extractLsb'_eq_self)

/-! The fields of a packed slot (R352, R354): the fields below one are shifted out, those above it cut off. -/

section
variable (opc : BitVec 8) (fn : BitVec 4)

@[simp] theorem slotOpc_packArgs (x : Args) : slotOpc (packArgs opc fn x) = opc.toNat := by
  unfold slotOpc packArgs
  repeat rw [extractLsb'_append_eq_of_le (by decide)]
  rw [extractLsb'_eq_self]

@[simp] theorem slotFn_packArgs (x : Args) : slotFn (packArgs opc fn x) = fn.toNat := by
  unfold slotFn packArgs
  repeat rw [extractLsb'_append_eq_of_le (by decide)]
  rw [extractLsb'_append_eq_of_add_le (by decide), extractLsb'_eq_self]

@[simp] theorem slotArgs_packArgs (x : Args) : slotArgs (packArgs opc fn x) = x := by
  obtain ⟨mod, d, a, b, g, imm⟩ := x
  unfold slotArgs packArgs
  congr 1
  all_goals
    repeat rw [extractLsb'_append_eq_of_le (by decide)]
    rw [extractLsb'_append_eq_of_add_le (by decide), extractLsb'_eq_self]

@[simp] theorem slotOpc_packLong (x : LArgs) : slotOpc (packLong opc fn x) = opc.toNat := by
  unfold slotOpc packLong
  repeat rw [extractLsb'_append_eq_of_le (by decide)]
  rw [extractLsb'_eq_self]

@[simp] theorem slotFn_packLong (x : LArgs) : slotFn (packLong opc fn x) = fn.toNat := by
  unfold slotFn packLong
  repeat rw [extractLsb'_append_eq_of_le (by decide)]
  rw [extractLsb'_append_eq_of_add_le (by decide), extractLsb'_eq_self]

@[simp] theorem slotLong_packLong (x : LArgs) : slotLong (packLong opc fn x) = x := by
  obtain ⟨mod, d, a, imm⟩ := x
  unfold slotLong packLong
  congr 1
  all_goals
    repeat rw [extractLsb'_append_eq_of_le (by decide)]
    rw [extractLsb'_append_eq_of_add_le (by decide), extractLsb'_eq_self]

end

@[simp] theorem slotExt_packExt (e : Ext) : slotExt (packExt e) = e := by
  obtain ⟨wsel, wthr, acq, ssel, sinc, rel⟩ := e
  unfold slotExt packExt
  congr 1
  case e_wsel =>
    repeat rw [extractLsb'_append_eq_of_le (by decide)]
    rw [extractLsb'_eq_self]
  all_goals
    repeat rw [extractLsb'_append_eq_of_le (by decide)]
    rw [extractLsb'_append_eq_of_add_le (by decide), extractLsb'_eq_self]

@[simp] theorem slotOpc_packStamp (p : Stamp) : slotOpc (packStamp p) = 0xBF := by
  unfold slotOpc packStamp
  repeat rw [extractLsb'_append_eq_of_le (by decide)]
  rfl

@[simp] theorem slotStamp_packStamp (p : Stamp) : slotStamp (packStamp p) = p := by
  obtain ⟨resv, s⟩ := p
  unfold slotStamp packStamp
  congr 1
  all_goals
    repeat rw [extractLsb'_append_eq_of_le (by decide)]
    rw [extractLsb'_append_eq_of_add_le (by decide), extractLsb'_eq_self]

/-! The rows of the table (R359). -/

/-- The instruction at an encoding's opcode and FN, in the table of its slot form. -/
noncomputable def rowOf : Enc → Option Instr
  | .one opc fn x => oneSlot opc.toNat fn.toNat x
  | .long opc fn x => longSlot opc.toNat fn.toNat x
  | .cmd opc fn x => command opc.toNat fn.toNat x

/-- Whether an encoding's slot form is the one that its opcode tells (R351): format L at 0x07 and 0x08, a command from 0xC0 on. -/
def formOk : Enc → Bool
  | .one opc _ _ => decide (opc.toNat < 0xBF) && decide (opc.toNat ≠ 0x07) && decide (opc.toNat ≠ 0x08)
  | .long opc _ _ => decide (opc.toNat < 0xBF)
  | .cmd opc _ _ => decide (0xC0 ≤ opc.toNat)

/-- R446: an MMA's FN holds Z, P and T, and its fourth bit is 0. -/
theorem mmaBits_append (z p t : BitVec 1) (c : CArgs) : mmaBits (0#1 ++ t ++ p ++ z).toNat c = some ⟨z, p, t, c⟩ := by
  have hbits : ∀ z p t : BitVec 1, (0#1 ++ t ++ p ++ z).toNat < 8 ∧ BitVec.ofNat 1 (0#1 ++ t ++ p ++ z).toNat = z ∧
      BitVec.ofNat 1 ((0#1 ++ t ++ p ++ z).toNat / 2) = p ∧ BitVec.ofNat 1 ((0#1 ++ t ++ p ++ z).toNat / 4) = t := by decide
  obtain ⟨hlt, hz, hp, ht⟩ := hbits z p t
  unfold mmaBits
  rw [if_pos hlt, hz, hp, ht]

/-- Each instruction stands in the row that its encoding names; the FN of an MMA alone carries fields. -/
theorem enc_bind_rowOf (i : Instr) : i.enc.bind rowOf = i.enc.map fun _ => i := by
  cases i
  case mmaFp8 x | mmaFp6 x | mmaFp4 x | mmaBf16 x | mmaFp16 x | mmaFp32 x | mmaFp64 x | mmaInt8 x =>
    exact congrArg (Option.map _) (mmaBits_append x.z x.p x.t x.c)
  all_goals exact rfl

theorem enc_all_formOk (i : Instr) : i.enc.all formOk = true := by
  cases i
  all_goals exact rfl

theorem rowOf_of_enc {i : Instr} {e : Enc} (h : i.enc = some e) : rowOf e = some i := by
  simpa [h] using enc_bind_rowOf i

theorem formOk_of_enc {i : Instr} {e : Enc} (h : i.enc = some e) : formOk e = true := by
  simpa [h] using enc_all_formOk i

/-! Decoding by the first slot (R351). -/

theorem longSlot_none {opc fn : Nat} (x : LArgs) (h7 : opc ≠ 0x07) (h8 : opc ≠ 0x08) : longSlot opc fn x = none := by
  unfold longSlot
  split
  · exact absurd rfl h7
  · exact absurd rfl h8
  · rfl

theorem one_slot_of_lt {opc : Nat} (h : opc < 0xBF) : opc ≠ 0xBF ∧ ¬ 0xC0 ≤ opc := by omega

/-- The words of an encoding in its form decode to the instruction of its row, whatever follows them. -/
theorem decodeWords_words {e : Enc} {i : Instr} (hform : formOk e = true) (hrow : rowOf e = some i) (rest : List Word) :
    decodeWords (e.words ++ rest) = some i := by
  cases e with
  | one opc fn x =>
    obtain ⟨⟨hlt, h7⟩, h8⟩ : (opc.toNat < 0xBF ∧ opc.toNat ≠ 0x07) ∧ opc.toNat ≠ 0x08 := by simpa [formOk] using hform
    obtain ⟨hstamp, hcmd⟩ := one_slot_of_lt hlt
    simpa [decodeWords, decode, Enc.words, hstamp, hcmd, longSlot_none _ h7 h8, rowOf] using hrow
  | long opc fn x =>
    have hlt : opc.toNat < 0xBF := by simpa [formOk] using hform
    obtain ⟨hstamp, hcmd⟩ := one_slot_of_lt hlt
    have hlong : longSlot opc.toNat fn.toNat x = some i := hrow
    simp [decodeWords, decode, Enc.words, hstamp, hcmd, hlong]
  | cmd opc fn x =>
    have hcmd : 0xC0 ≤ opc.toNat := by simpa [formOk] using hform
    have hstamp : opc.toNat ≠ 0xBF := by omega
    obtain ⟨y, ext, _ | p⟩ := x
    · simpa [decodeWords, decode, Enc.words, hstamp, hcmd, rowOf] using hrow
    · simpa [decodeWords, decode, Enc.words, rowOf] using hrow

/-- The first slot of an encoding in its form tells how many slots it takes. -/
theorem slotsOf_words {e : Enc} (hform : formOk e = true) : slotsOf (e.words.getD 0 0#64) = e.words.length := by
  cases e with
  | one opc fn x =>
    obtain ⟨⟨hlt, -⟩, -⟩ : (opc.toNat < 0xBF ∧ opc.toNat ≠ 0x07) ∧ opc.toNat ≠ 0x08 := by simpa [formOk] using hform
    obtain ⟨hstamp, hcmd⟩ := one_slot_of_lt hlt
    simp [slotsOf, Enc.words, hstamp, hcmd]
  | long opc fn x =>
    have hlt : opc.toNat < 0xBF := by simpa [formOk] using hform
    obtain ⟨hstamp, hcmd⟩ := one_slot_of_lt hlt
    simp [slotsOf, Enc.words, hstamp, hcmd]
  | cmd opc fn x =>
    have hcmd : 0xC0 ≤ opc.toNat := by simpa [formOk] using hform
    have hstamp : opc.toNat ≠ 0xBF := by omega
    obtain ⟨y, ext, _ | p⟩ := x
    · simp [slotsOf, Enc.words, hstamp, hcmd]
    · simp [slotsOf, Enc.words]

theorem encode_eq_some {i : Instr} {ws : List Word} (h : encode i = some ws) : ∃ e, i.enc = some e ∧ e.words = ws :=
  Option.map_eq_some_iff.mp h

theorem decodeEncode : Claims.DecodeEncode := by
  intro i ws rest h
  obtain ⟨e, he, rfl⟩ := encode_eq_some h
  exact decodeWords_words (formOk_of_enc he) (rowOf_of_enc he) rest

theorem slotsOfFirst : Claims.SlotsOfFirst := by
  intro i ws h
  obtain ⟨e, he, rfl⟩ := encode_eq_some h
  exact slotsOf_words (formOk_of_enc he)

/-- Settles O15: a slot's fields come back from its word, and an instruction's row is the one that its encoding names. -/
theorem decodeInvertsEncode : Obligations.DecodeInvertsEncode := ⟨decodeEncode, slotsOfFirst⟩

theorem decodeWords_of_encode {i : Instr} {ws : List Word} (h : encode i = some ws) : decodeWords ws = some i := by
  simpa using decodeEncode i ws [] h

/-- Settles O14: the words are the encodings of their instructions; the last has an opcode of no row. -/
theorem wordsDecode : Obligations.WordsDecode :=
  ⟨decodeWords_of_encode rfl, decodeWords_of_encode rfl, decodeWords_of_encode rfl, decodeWords_of_encode rfl,
   decodeWords_of_encode rfl, decodeWords_of_encode rfl, decodeWords_of_encode rfl, decodeWords_of_encode rfl,
   decodeWords_of_encode rfl, rfl⟩

end Sys2Proof.Laws
end

section
/-! The frame of every instruction where it does not take effect (R353, R360), fetching in the middle of a line (R346, R348), and the
turns of a step. -/
namespace Sys2Proof.Laws
open Sys2Proof.Machine

/-! Encoding faults and guards (R353, R360). -/

section
variable {e : Enc} {sh : Shape} {body : Exec Unit} {s t : State} {c : Cause}

/-- R353, R360: an encoding fault is looked for before the guard. -/
theorem run_encFault (hc : encFaultOf s.cur.who e sh = some c) (h : takeException s.cur c .plain s = .ok () t) :
    run e sh body s = .next t := by
  refine runExec_error ?_
  unfold runInstr
  simp only [get_then, hc]
  exact trapWith_run h

/-- R353: with a false guard the instruction does nothing but complete. -/
theorem run_guardFalse (hc : encFaultOf s.cur.who e sh = none) (hg : (s.hart s.cur).guardOk e.args.g = false) :
    run e sh body s = runExec (retire e.slots) s := by
  unfold run runExec runInstr
  simp only [get_then, hc, hg, Bool.not_false, if_true]

end

theorem falseGuardSkips : Claims.FalseGuardSkips := by
  intro i e sh s he hsh hc hg h1
  obtain ⟨sh', hsh', body, hexec⟩ := exec_run i e he
  obtain rfl : sh' = sh := Option.some.inj (hsh'.symm.trans hsh)
  rw [hexec, run_guardFalse hc hg, h1]
  exact runExec_ok (retire_one s)

theorem encodingFaultsTrap : Claims.EncodingFaultsTrap := by
  intro i e sh s c t he hsh hc h
  obtain ⟨sh', hsh', body, hexec⟩ := exec_run i e he
  obtain rfl : sh' = sh := Option.some.inj (hsh'.symm.trans hsh)
  rw [hexec, run_encFault hc h]

/-- R360: the causes of the rows for unassigned encodings are those that `unassigned` takes. -/
theorem unassignedOpcodeTraps : Claims.UnassignedOpcodeTraps := by
  intro cause hcause
  have hrow : (0x040#10 ≤ cause && cause ≤ 0x048#10 && cause != 0x045#10 && cause != 0x046#10) = true := by
    revert cause
    decide
  intro s t h
  refine runExec_error ?_
  unfold unassigned
  rw [require_ok _ _ hrow]
  exact trapWith_run h

/-- Settles O9: the frame of every instruction looks at its encoding, then at its guard, and then runs its effect. -/
theorem guardsAndEncodingFaults : Obligations.GuardsAndEncodingFaults :=
  ⟨falseGuardSkips, encodingFaultsTrap, unassignedOpcodeTraps⟩

/-! Fetching in the middle of a line (R346, R348). -/

theorem remoteFailure_none {c : Nat} {s : State} (h : (s.job c).rldFault = []) : remoteFailure c s = .ok () s := by
  unfold remoteFailure
  simp only [getJob_then, h, pure_run]

theorem afterRelease_none {a : Agent} {s : State} (h : s.releasing (agentNo a) = false) : afterRelease a s = .ok () s := by
  unfold afterRelease
  simp only [get_then, h, Bool.false_and, Bool.false_eq_true, if_false, pure_run]

/-- The executing agent, in the middle of its line and with nothing to hold it up, reads on where it stands. -/
theorem fetch_inLine {s : State} {a : Agent} (ha : s.cur = a) (hrld : ∀ c, a = .stream c .A → (s.job c).rldFault = [])
    (hrel : s.releasing (agentNo a) = false) (hline : (s.hart a).newLine = false)
    (hused : hdrUsed (s.codeWord a (64 * lineOf (s.hart a).pc)) (slotIn (s.hart a).pc) = true) :
    fetch s = .ok ((range ((s.hart a).pc % 64 / 8) (8 - (s.hart a).pc % 64 / 8)).map fun i =>
      s.codeWord a (64 * ((s.hart a).pc / 64) + 8 * i)) s := by
  have hread := afterRelease_none hrel
  unfold fetch
  rw [get_then, ha]
  rcases a with ⟨c, _ | _ | _ | _⟩ | _ | _ | _
  case stream.A => simp [-bind_pure_comp, bind_ok (remoteFailure_none (hrld c rfl)), bind_ok hread, ha, hline, hused]
  all_goals simp [-bind_pure_comp, bind_ok hread, ha, hline, hused]

/-- Settles O13: nothing holds the agent up, and its program counter stays in its line. -/
theorem fetchInLine : Obligations.FetchInLine :=
  fun s a hrun hrld hrel hline hused => (if_pos hrun).trans (fetch_inLine (s := { s with cur := a }) rfl hrld hrel hline hused)

/-! Steps. -/

theorem issue_fetched {s t : State} {a : Agent} {ws : List Word} (h : s.fetched a = .ok ws t) : issue a s = exec (decodeSlot ws) t := by
  simp only [issue, h]

theorem decodeSlot_some {ws : List Word} {i : Instr} (h : decodeWords ws = some i) : decodeSlot ws = i := by
  simp only [decodeSlot, h]

theorem decodeSlot_none {ws : List Word} (h : decodeWords ws = none) : decodeSlot ws = .unassignedOpcode 0x040#10 := by
  simp only [decodeSlot, h]

theorem issue_notRunnable {s : State} {a : Agent} (h : s.runnable a = false) : issue a s = .next s := by
  simp [issue, State.fetched, h]

section
variable {s : State} {rest : List Turn}

theorem step_agent {a : Agent} (hs : s.sched = .agent a :: rest) (ha : agentExists a = true) :
    step s = issue a { s with sched := rest } := by
  simp [step, takeTurn, hs, ha]

theorem step_noSuchAgent {a : Agent} (hs : s.sched = .agent a :: rest) (ha : agentExists a = false) : step s = .fault .noSuchAgent := by
  simp [step, takeTurn, hs, ha]

theorem step_event {i : Instr} (hs : s.sched = .event i :: rest) (hi : isEvent i = true) : step s = exec i { s with sched := rest } := by
  simp [step, takeTurn, hs, hi]

theorem step_unscheduled {a : Agent} (hs : s.sched = []) (ha : s.nextAgent = some a) : step s = issue a { s with tick := s.tick + 1 } := by
  simp [step, hs, ha]

end

/-- Settles O12: a turn is its event's meaning or its agent's issue, and an issue runs what the fetched words decode to. -/
theorem stepRunsDecoded : Obligations.StepRunsDecoded :=
  ⟨fun _ _ _ _ _ _ hs ha hf hd => (step_agent hs ha).trans ((issue_fetched hf).trans (by rw [decodeSlot_some hd])),
   fun _ _ _ _ _ hs ha hf hd => (step_agent hs ha).trans ((issue_fetched hf).trans (by rw [decodeSlot_none hd])),
   fun _ _ _ hs hi => step_event hs hi,
   fun _ _ _ hs ha hr => (step_agent hs ha).trans (issue_notRunnable hr),
   fun _ _ _ hs ha => step_noSuchAgent hs ha,
   fun _ _ _ _ _ hs ha hf hd => (step_unscheduled hs ha).trans ((issue_fetched hf).trans (by rw [decodeSlot_some hd]))⟩

end Sys2Proof.Laws
end

section
/-! Control transfer (R350, R388, R389): BR, JR, BEOS, CALL and LOOP, case by case. -/
namespace Sys2Proof.Laws
open Sys2Proof.Machine

/-! A scalar register as an operand (R237, R238). -/

section
variable {c : BitVec 8} {n : Nat} (hc : Sel.ofCode c = .s n)
include hc

theorem readSrc_sreg (w : Nat) (s : State) : readSrc w c s = .ok ((s.hart s.cur).sreg n) s := by
  unfold readSrc
  simp only [hc, getHart_then, pure_run]

theorem writeDst_sreg (v : Word) (s : State) : writeDst c v s = .ok () (s.withHart fun h => h.setS n v) := by
  unfold writeDst
  simp only [hc, updHart_run]

end

/-! Transfers to a target (R350). -/

section
variable {target : Int} {s t : State}

theorem jump_taken (h0 : 0 ≤ target) (hok : s.targetOk s.cur target.toNat = true) :
    jump target s = .ok () (s.withHart fun h => h.to target.toNat) := by
  unfold jump
  rw [get_then, if_pos ⟨h0, hok⟩]
  rfl

theorem jump_invalid (hbad : ¬ (0 ≤ target ∧ s.targetOk s.cur target.toNat = true))
    (h : takeException s.cur 0x046#10 (.at (BitVec.ofInt 64 target)) s = .ok () t) : jump target s = .error .done t := by
  unfold jump
  rw [get_then, if_neg hbad]
  exact trapWith_run h

/-- An instruction whose program comes to a jump out of state `s` transfers to its target. -/
theorem transfers_of {i : Instr} {x : Exec Unit} {s0 : State} (hexec : exec i s0 = runExec x s0) (hx : x s0 = jump target s) :
    Claims.Transfers i s0 s target :=
  ⟨fun h0 hok => hexec.trans (runExec_ok (hx.trans (jump_taken h0 hok))),
   fun hbad _ h => hexec.trans (runExec_error (hx.trans (jump_invalid hbad h)))⟩

end

/-! The members (R388, R389). -/

section
variable {x : Args} {n : Nat} {s t : State}

theorem branch_run (x : Args) (s : State) : branch x s = jump (branchTarget (s.hart s.cur).pc x) s := rfl

theorem jumpReg_run {a : Word} (ha : readSrc 1 x.a s = .ok a t) : jumpReg x s = jump a.toNat t := bind_ok ha

theorem branchEos_run (x : Args) (s : State) :
    branchEos x s = (if ((s.job s.cur.coreNo).port (x.d.toNat - 0x70)).eos then jump (branchTarget (s.hart s.cur).pc x) s
      else retire 1 s) := by
  unfold branchEos
  rw [getHart_then, curJob_then, ite_run]

theorem callTo_taken (hd : Sel.ofCode x.d = .s n) (h0 : 0 ≤ branchTarget (s.hart s.cur).pc x)
    (hok : s.targetOk s.cur (branchTarget (s.hart s.cur).pc x).toNat = true) :
    callTo x s = .ok () ((s.withHart fun h => h.setS n (BitVec.ofNat 64 (s.follow s.cur ((s.hart s.cur).pc + 8)))).withHart fun h =>
      h.to (branchTarget (s.hart s.cur).pc x).toNat) := by
  unfold callTo
  rw [get_then, if_pos ⟨h0, hok⟩, bind_ok (writeDst_sreg hd _ s)]
  rfl

theorem callTo_invalid
    (hbad : ¬ (0 ≤ branchTarget (s.hart s.cur).pc x ∧ s.targetOk s.cur (branchTarget (s.hart s.cur).pc x).toNat = true))
    (h : takeException s.cur 0x046#10 (.at (BitVec.ofInt 64 (branchTarget (s.hart s.cur).pc x))) s = .ok () t) :
    callTo x s = .error .done t := by
  unfold callTo
  rw [get_then, if_neg hbad]
  exact trapWith_run h

/-- R389: the count that reaches 0 is written, and the stream goes on behind the LOOP whatever its target. -/
theorem loopTo_last (hd : Sel.ofCode x.d = .s n) (h1 : (s.hart s.cur).sreg n = 1#64) :
    loopTo x s = .ok () ((s.withHart fun h => h.setS n 0#64).withHart fun h => h.past 1) := by
  unfold loopTo
  rw [get_then, bind_ok (readSrc_sreg hd 0 s), h1, if_pos (by decide), bind_ok (writeDst_sreg hd _ s), retire_one]

theorem loopTo_taken (hd : Sel.ofCode x.d = .s n) (h1 : (s.hart s.cur).sreg n ≠ 1#64) (h0 : 0 ≤ branchTarget (s.hart s.cur).pc x)
    (hok : s.targetOk s.cur (branchTarget (s.hart s.cur).pc x).toNat = true) :
    loopTo x s = .ok () ((s.withHart fun h => h.setS n ((s.hart s.cur).sreg n - 1#64)).withHart fun h =>
      h.to (branchTarget (s.hart s.cur).pc x).toNat) := by
  have hcount : (s.hart s.cur).sreg n - 1#64 ≠ 0#64 := fun h => h1 (by bv_omega)
  unfold loopTo
  rw [get_then, bind_ok (readSrc_sreg hd 0 s), if_neg hcount, if_pos ⟨h0, hok⟩, bind_ok (writeDst_sreg hd _ s)]
  rfl

end

/-- Settles O22: each member issues as its program, which jumps, falls through or writes its register first. -/
theorem branchResults : Obligations.BranchResults :=
  ⟨fun x s hi => transfers_of (run_issues hi rfl rfl) (branch_run x s),
   fun _ _ _ _ hi ha => transfers_of (run_issues hi rfl rfl) (jumpReg_run ha),
   fun x s hi he => transfers_of (run_issues hi rfl rfl) ((branchEos_run x s).trans (if_pos he)),
   fun x s hi he => (run_issues hi rfl rfl).trans
     (runExec_ok (((branchEos_run x s).trans (if_neg (ne_true_of_eq_false he))).trans (retire_one s))),
   fun _ _ _ hi hd h0 hok => (run_issues hi rfl rfl).trans (runExec_ok (callTo_taken hd h0 hok)),
   fun _ _ _ hi hbad h => (run_issues hi rfl rfl).trans (runExec_error (callTo_invalid hbad h)),
   fun _ _ _ hi hd h1 => (run_issues hi rfl rfl).trans (runExec_ok (loopTo_last hd h1)),
   fun _ _ _ hi hd h1 h0 hok => (run_issues hi rfl rfl).trans (runExec_ok (loopTo_taken hd h1 h0 hok))⟩

end Sys2Proof.Laws
end

section
/-! The issue of Cart commands (R356, R471, R472, R475, R476): their clauses and records, and their place in a queue, case by case. -/
namespace Sys2Proof.Laws
open Sys2Proof.Machine

/-! The seventeen commands. -/

/-- A Cart command: it is encoded at its opcode and FN, and its effect is the issue of R472. -/
def IsCart (i : CArgs → Instr) (opc fn : Nat) : Prop :=
  (0xE0 ≤ opc ∧ opc < 0x100) ∧ ∃ sh, ∀ x,
    (i x).enc = some (.cmd (BitVec.ofNat 8 opc) (BitVec.ofNat 4 fn) x) ∧ (i x).shape = some sh ∧
    ∀ s, exec (i x) s = run (.cmd (BitVec.ofNat 8 opc) (BitVec.ofNat 4 fn) x) sh (issueCart opc fn x) s

/-- R359: the A engine alone executes the Cart's opcodes. -/
theorem engineOk_cart {opc : Nat} (fn : Nat) (e : Eng) (h : 0xE0 ≤ opc) : engineOk e opc fn = (e == .A) := by
  have hrows : ¬ opc = 0x35 ∧ ¬ opc = 0x40 ∧ ¬ opc < 0x20 ∧ ¬ opc ≤ 0x25 ∧ ¬ opc ≤ 0x34 ∧ ¬ opc = 0x41 ∧
      ¬ opc = 0x42 ∧ ¬ opc = 0x46 ∧ ¬ opc ≤ 0x48 ∧ ¬ opc ≤ 0x91 ∧ ¬ opc ≤ 0xC8 ∧ ¬ opc ≤ 0xD6 := by omega
  simp [engineOk, hrows]

/-- R360: a stamp before a command of the A engine is an encoding fault. -/
theorem stamp_none_of_cart {w : Who} {o : BitVec 8} {f : BitVec 4} {x : CArgs} {sh : Shape} (ho : 0xE0 ≤ o.toNat)
    (h : encFaultOf w (.cmd o f x) sh = none) : x.stamp = none := by
  have hengine := engineOk_cart f.toNat w.eng ho
  refine Decidable.byContradiction fun hstamp => ?_
  have hstamped : (Enc.cmd o f x).stamped = true := Option.isSome_iff_ne_none.mpr hstamp
  simp only [encFaultOf, Enc.opc, Enc.fn, hengine, hstamped, Bool.true_and] at h
  cases he : w.eng == .A with
  | true => simp only [he, Bool.not_true, Bool.false_eq_true, if_false, Bool.true_or, if_true, reduceCtorEq] at h
  | false => simp only [he, Bool.not_false, if_true, reduceCtorEq] at h

section
variable {i : CArgs → Instr} {opc fn : Nat} (hc : IsCart i opc fn) {x : CArgs} {s : State} (hi : Issues (i x) s)
include hc hi

theorem IsCart.exec_eq : exec (i x) s = runExec (issueCart opc fn x) s := by
  obtain ⟨-, sh, hrow⟩ := hc
  obtain ⟨henc, hshape, hexec⟩ := hrow x
  have hrun := run_issues (body := issueCart opc fn x) hi henc hshape
  rw [hexec, hrun]

theorem IsCart.slots : cmdSlots x = 2 := by
  obtain ⟨⟨hlo, hhi⟩, sh, hrow⟩ := hc
  obtain ⟨henc, hshape, -⟩ := hrow x
  obtain ⟨e, sh', he, hsh, hfault, -, -⟩ := hi
  cases henc.symm.trans he
  have hopc : 0xE0 ≤ (BitVec.ofNat 8 opc).toNat := by rw [BitVec.toNat_ofNat]; omega
  rw [cmdSlots, stamp_none_of_cart hopc hfault]

end

/-! The queues (R471). -/

section
variable {x : CArgs} {opc fn : Nat} {r : CartRec} {a b : Word} {cl : Clauses} {s t v : State}

/-- The entry of a command in its queue. -/
def cartEntry (x : CArgs) (opc fn : Nat) (r : CartRec) (a b : Word) (cl : Clauses) (s : State) : CartCmd :=
  { id := s.tick, w0 := packArgs (BitVec.ofNat 8 opc) (BitVec.ofNat 4 fn) x.x, w1 := packExt x.ext, opc := opc, fn := fn, mod := x.x.mod,
    pc := (s.hart s.cur).pc, cr := r, a := a, b := b, cl := cl, started := false, dest := none, sent := false,
    done := 0, sub := 0, entry := none, gs := [], bad := none, floor := ⟨s.gseq, []⟩ }

/-- The state in which a command stands at the tail of its queue and counts as received by the copy engine (R189, R471). -/
def withCartEntry (store : Bool) (cmd : CartCmd) (s : State) : State :=
  let c := s.cur.coreNo
  (({ s with tick := s.tick + 1 } : State).updPart (s.job c).part fun p => { p with custody := addNode p.custody (128 + c) 1 0 }).updJob c
    fun j => j.setCartQ store (j.cartQ store ++ [cmd])

theorem enqueueCart_waits (hfull : 64 ≤ ((s.job s.cur.coreNo).cartQ (storeSide opc r.dsp)).length) :
    enqueueCart x opc fn r a b cl s = .error .done (s.withHart fun h => { h with blocked := .cartFull, restart := h.restartHere }) := by
  unfold enqueueCart
  rw [get_then, if_pos hfull, block_run]

theorem enqueueCart_joins (hroom : ((s.job s.cur.coreNo).cartQ (storeSide opc r.dsp)).length < 64)
    (hclear : clearAnswers s.cur (withCartEntry (storeSide opc r.dsp) (cartEntry x opc fn r a b cl s) s) = .ok () v)
    (hretire : retire (cmdSlots x) v = .ok () t) : enqueueCart x opc fn r a b cl s = .ok () t := by
  unfold enqueueCart
  rw [get_then, if_neg (Nat.not_le.mpr hroom), fresh_then, custody_then, updJob_then]
  exact (bind_ok hclear).trans hretire

end

/-! Issue (R472). -/

/-- The alignment of B, where a command takes an address in it. -/
def cartAlign (opc : Nat) : Nat := if opc = 0xE2 ∨ opc = 0xE3 then 4 else if opc = 0xE5 then 8 else 1

theorem mod_cartAlign_of_mod_eight {n : Nat} (opc : Nat) (h : n % 8 = 0) : n % cartAlign opc = 0 := by
  unfold cartAlign
  split
  · omega
  · split
    · exact h
    · exact Nat.mod_one _

section
variable {x : CArgs} {opc fn : Nat} {a b : Word} {s s1 s2 v : State}
  (ha : readSrc 1 x.x.a s = .ok a s1) (hb : readSrc 2 x.x.b s1 = .ok b s2)
include ha hb

/-- R356: a command that names no valid counter is dropped, and its stream goes on. -/
theorem issueCart_dropped {ref : Word} {u : State}
    (href : badRef s2.cur.coreNo (clausesOf (s2.hart s2.cur) x.ext) s2 = .ok (some ref) v)
    (hdrop : dropCommand s2.cur.coreNo 0 (s2.hart s2.cur).pc (clausesOf (s2.hart s2.cur) x.ext) ref v = .ok () u) :
    issueCart opc fn x s = retire (cmdSlots x) u := by
  unfold issueCart
  rw [bind_ok ha, bind_ok hb, get_then]
  exact (bind_ok href).trans (bind_ok hdrop)

section
variable (href : badRef s2.cur.coreNo (clausesOf (s2.hart s2.cur) x.ext) s2 = .ok none v)
include href

/-- R484: an ATOMN has no record. -/
theorem issueCart_atomn (hal : a.toNat % (if x.x.mod.getLsbD 0 then 4 else 8) = 0) :
    issueCart 0xE6 fn x s = enqueueCart x 0xE6 fn .empty a b (clausesOf (s2.hart s2.cur) x.ext) v := by
  unfold issueCart
  rw [bind_ok ha, bind_ok hb, get_then]
  refine (bind_ok href).trans ?_
  simp only [if_true, hal, ne_eq, not_true_eq_false, if_false]

theorem issueCart_atomnMisaligned {t : State} (hal : a.toNat % (if x.x.mod.getLsbD 0 then 4 else 8) ≠ 0)
    (h : takeException v.cur 0x208#10 (.at a) v = .ok () t) : issueCart 0xE6 fn x s = .error .done t := by
  unfold issueCart
  rw [bind_ok ha, bind_ok hb, get_then]
  refine (bind_ok href).trans ?_
  simp only [if_true, if_pos hal]
  exact trapWith_run h

section
variable (hopc : opc ≠ 0xE6)
include hopc

theorem issueCart_misaligned {t : State} (h64 : a.toNat % 64 ≠ 0) (h : takeException v.cur 0x143#10 (.at a) v = .ok () t) :
    issueCart opc fn x s = .error .done t := by
  unfold issueCart
  rw [bind_ok ha, bind_ok hb, get_then]
  refine (bind_ok href).trans ?_
  simp only [if_neg hopc, if_pos h64]
  exact trapWith_run h

/-- R472, R476: the record of an aligned command decides whether it joins its queue. -/
theorem issueCart_record {bs : List Byte} {s3 : State} (h64 : a.toNat % 64 = 0) (hal : b.toNat % cartAlign opc = 0)
    (hbs : readGlobal s2.cur (.at a) a.toNat 64 v = .ok bs s3) :
    issueCart opc fn x s = (if ((cartRec bs).based (s3.job s2.cur.coreNo).rel).ok opc x.x.mod then
      enqueueCart x opc fn ((cartRec bs).based (s3.job s2.cur.coreNo).rel) a b (clausesOf (s2.hart s2.cur) x.ext) s3
      else trapAt 0x200#10 a s3) := by
  have hal4 : ¬ ((opc = 0xE2 ∨ opc = 0xE3) ∧ b.toNat % 4 ≠ 0) := by
    rintro ⟨h, hne⟩
    exact hne (by simpa [cartAlign, h] using hal)
  have hal8 : ¬ (opc = 0xE5 ∧ b.toNat % 8 ≠ 0) := by
    rintro ⟨rfl, hne⟩
    exact hne hal
  unfold issueCart
  rw [bind_ok ha, bind_ok hb, get_then]
  refine (bind_ok href).trans ?_
  simp only [if_neg hopc, if_neg (not_not_intro h64), if_neg hal4, if_neg hal8]
  rw [bind_ok hbs, get_then, ite_run]

end

end

end

/-! The obligation. -/

/-- R471, R472: an accepted command joins its queue, or its stream waits at the full queue. -/
theorem cartIssues_of {i : CArgs → Instr} {opc fn : Nat} (hc : IsCart i opc fn) : Claims.CartIssues i opc fn (cartAlign opc) := by
  intro x s a b s1 s2 v2 r s3 t hi ha hb href hal hrec
  have haccepted : issueCart opc fn x s = enqueueCart x opc fn r a b (clausesOf (s2.hart s2.cur) x.ext) s3 := by
    by_cases hopc : opc = 0xE6
    · subst hopc
      obtain ⟨haligned, rfl, rfl⟩ := (if_pos rfl).mp hrec
      exact issueCart_atomn ha hb href haligned
    · rw [if_neg hopc] at hrec
      obtain ⟨h64, bs, hbs, rfl, hok⟩ := hrec
      exact (issueCart_record ha hb href hopc h64 hal hbs).trans (if_pos hok)
  have hexec := hc.exec_eq hi
  refine ⟨fun hfull => hexec.trans (runExec_error (haccepted.trans (enqueueCart_waits hfull))), fun hroom v hclear hretire => ?_⟩
  rw [← hc.slots hi] at hretire
  exact hexec.trans (runExec_ok (haccepted.trans (enqueueCart_joins hroom hclear hretire)))

theorem cartIssueResults : Claims.CartIssueResults := by
  refine ⟨?ccopy, ?cmort, ?cgath, ?cscat, ?cred, ?ired, ?atomnAdd, ?atomnAnd, ?atomnOr, ?atomnXor, ?atomnMin, ?atomnMax, ?atomnMinu,
    ?atomnMaxu, ?atomnSwap, ?put, ?get⟩
  all_goals exact cartIssues_of ⟨by decide, _, fun _ => ⟨rfl, rfl, fun _ => rfl⟩⟩

theorem isCart_record : ∀ p ∈ [(Instr.ccopy, 0xE0), (Instr.cmort, 0xE1), (Instr.cgath, 0xE2), (Instr.cscat, 0xE3), (Instr.cred, 0xE4),
    (Instr.ired, 0xE5), (Instr.put, 0xE8), (Instr.get, 0xE9)], IsCart p.1 p.2 0 ∧ p.2 ≠ 0xE6 := by
  simp only [List.forall_mem_cons, List.not_mem_nil, false_implies, implies_true, and_true]
  refine ⟨?ccopy, ?cmort, ?cgath, ?cscat, ?cred, ?ired, ?put, ?get⟩
  all_goals exact ⟨⟨by decide, _, fun _ => ⟨rfl, rfl, fun _ => rfl⟩⟩, by decide⟩

theorem isCart_atomn : ∀ i ∈ [Instr.atomnAdd, .atomnAnd, .atomnOr, .atomnXor, .atomnMin, .atomnMax, .atomnMinu, .atomnMaxu, .atomnSwap],
    ∃ fn, IsCart i 0xE6 fn := by
  simp only [List.forall_mem_cons, List.not_mem_nil, false_implies, implies_true, and_true]
  refine ⟨?add, ?and, ?or, ?xor, ?min, ?max, ?minu, ?maxu, ?swap⟩
  all_goals exact ⟨_, by decide, _, fun _ => ⟨rfl, rfl, fun _ => rfl⟩⟩

theorem cartStops : Claims.CartStops := by
  refine ⟨?record, ?atomn⟩
  case record =>
    intro p hp x s a b s1 s2 v hi ha hb
    obtain ⟨hc, hopc⟩ := isCart_record p hp
    have hexec := hc.exec_eq hi
    refine ⟨fun ref u t href hdrop hretire => ?dropped, fun t href h64 h => ?misaligned,
      fun bs s3 t href h64 h8 hbs hbad h => ?malformed⟩
    case dropped =>
      rw [← hc.slots hi] at hretire
      exact hexec.trans (runExec_ok ((issueCart_dropped ha hb href hdrop).trans hretire))
    case misaligned => exact hexec.trans (runExec_error (issueCart_misaligned ha hb href hopc h64 h))
    case malformed =>
      have hrecord := issueCart_record (fn := 0) ha hb href hopc h64 (mod_cartAlign_of_mod_eight p.2 h8) hbs
      exact hexec.trans (runExec_error ((hrecord.trans (if_neg (ne_true_of_eq_false hbad))).trans (trapWith_run h)))
  case atomn =>
    intro i hmem x s a b s1 s2 v t hi ha hb href hal h
    obtain ⟨fn, hc⟩ := isCart_atomn i hmem
    exact (hc.exec_eq hi).trans (runExec_error (issueCart_atomnMisaligned ha hb href hal h))

/-- Settles O43: each command issues as the one program of R472, case by case. -/
theorem cartCommandResults : Obligations.CartCommandResults := ⟨cartIssueResults, cartStops⟩

end Sys2Proof.Laws
end

section
/-! The integer instructions (R374–R377, R379, R380, R389): each member issues as its shape of effect with its function of the operands. -/
namespace Sys2Proof.Laws
open Sys2Proof.Machine

/-! Shapes of effect (R238). -/

section
variable {i : Args → Instr}

theorem binary_of {f g : Word → Word → Word} (hexec : ∀ x s, Issues (i x) s → exec (i x) s = runExec (binary x f) s)
    (hfg : ∀ a b, f a b = g a b) : Binary i g := by
  intro x s a b s1 s2 t hi ha hb h
  rw [← hfg] at h
  exact (hexec x s hi).trans (runExec_ok ((bind_ok ha).trans ((bind_ok hb).trans h)))

theorem immediate_of {f g : Word → Word → Word} (hexec : ∀ x s, Issues (i x) s → exec (i x) s = runExec (immediate x f) s)
    (hfg : ∀ a b, f a b = g a b) : Immediate i g := by
  intro x s a s1 t hi ha h
  rw [← hfg] at h
  exact (hexec x s hi).trans (runExec_ok ((bind_ok ha).trans h))

theorem unary_of {f g : Word → Word} (hexec : ∀ x s, Issues (i x) s → exec (i x) s = runExec (unary x f) s)
    (hfg : ∀ a, f a = g a) : Unary i g := by
  intro x s a s1 t hi ha h
  rw [← hfg] at h
  exact (hexec x s hi).trans (runExec_ok ((bind_ok ha).trans h))

theorem ofGuards_of {f : Bool → Bool → Bool} (hexec : ∀ x s, Issues (i x) s → exec (i x) s = runExec (guards x f) s) : OfGuards i f :=
  fun x s _ _ _ _ _ hi ha hb h => (hexec x s hi).trans (runExec_ok ((bind_ok ha).trans ((bind_ok hb).trans h)))

end

/-! ALU and ALUI (R374). -/

section
variable (a b : Word)

theorem shamt_eq : shamt b = b.toNat % 64 := by
  simp [shamt, BitVec.extractLsb'_toNat]

theorem aluResult_shl : aluResult 6 a b = a <<< (b.toNat % 64) := congrArg (a <<< ·) (shamt_eq b)
theorem aluResult_shr : aluResult 7 a b = a >>> (b.toNat % 64) := congrArg (a >>> ·) (shamt_eq b)
theorem aluResult_sar : aluResult 8 a b = a.sshiftRight (b.toNat % 64) := congrArg a.sshiftRight (shamt_eq b)
theorem aluResult_rol : aluResult 9 a b = a.rotateLeft (b.toNat % 64) := congrArg a.rotateLeft (shamt_eq b)

theorem aluResult_min : aluResult 10 a b = if a.toInt < b.toInt then a else b := by
  simp only [aluResult, BitVec.slt_iff_toInt_lt]

theorem aluResult_max : aluResult 11 a b = if a.toInt < b.toInt then b else a := by
  simp only [aluResult, BitVec.slt_iff_toInt_lt]

theorem aluResult_minu : aluResult 12 a b = if a.toNat < b.toNat then a else b := by
  simp only [aluResult, BitVec.ult_iff_lt, BitVec.lt_def]

theorem aluResult_maxu : aluResult 13 a b = if a.toNat < b.toNat then b else a := by
  simp only [aluResult, BitVec.ult_iff_lt, BitVec.lt_def]

end

/-- Settles O1: each member issues as its function number's result, in ALU of A and B and in ALUI of A and imm. -/
theorem integerResults : Obligations.IntegerResults := by
  refine ⟨?add, ?sub, ?and, ?or, ?xor, ?andn, ?shl, ?shr, ?sar, ?rol, ?min, ?max, ?minu, ?maxu, ?mul, ?mulh,
    ?addi, ?subi, ?andi, ?ori, ?xori, ?andni, ?shli, ?shri, ?sari, ?roli, ?mini, ?maxi, ?minui, ?maxui, ?muli, ?mulhi⟩
  case add | sub | and | or | xor | andn | mul | mulh => exact binary_of (fun _ _ hi => run_issues hi rfl rfl) fun _ _ => rfl
  case addi | subi | andi | ori | xori | andni | muli | mulhi => exact immediate_of (fun _ _ hi => run_issues hi rfl rfl) fun _ _ => rfl
  case shl => exact binary_of (fun _ _ hi => run_issues hi rfl rfl) aluResult_shl
  case shli => exact immediate_of (fun _ _ hi => run_issues hi rfl rfl) aluResult_shl
  case shr => exact binary_of (fun _ _ hi => run_issues hi rfl rfl) aluResult_shr
  case shri => exact immediate_of (fun _ _ hi => run_issues hi rfl rfl) aluResult_shr
  case sar => exact binary_of (fun _ _ hi => run_issues hi rfl rfl) aluResult_sar
  case sari => exact immediate_of (fun _ _ hi => run_issues hi rfl rfl) aluResult_sar
  case rol => exact binary_of (fun _ _ hi => run_issues hi rfl rfl) aluResult_rol
  case roli => exact immediate_of (fun _ _ hi => run_issues hi rfl rfl) aluResult_rol
  case min => exact binary_of (fun _ _ hi => run_issues hi rfl rfl) aluResult_min
  case mini => exact immediate_of (fun _ _ hi => run_issues hi rfl rfl) aluResult_min
  case max => exact binary_of (fun _ _ hi => run_issues hi rfl rfl) aluResult_max
  case maxi => exact immediate_of (fun _ _ hi => run_issues hi rfl rfl) aluResult_max
  case minu => exact binary_of (fun _ _ hi => run_issues hi rfl rfl) aluResult_minu
  case minui => exact immediate_of (fun _ _ hi => run_issues hi rfl rfl) aluResult_minu
  case maxu => exact binary_of (fun _ _ hi => run_issues hi rfl rfl) aluResult_maxu
  case maxui => exact immediate_of (fun _ _ hi => run_issues hi rfl rfl) aluResult_maxu

/-! MULDIV (R375). -/

section
variable (a b : Word)

theorem muldivResult_div : muldivResult 1 a b = if b = 0#64 then 0xFFFFFFFFFFFFFFFF#64 else BitVec.ofInt 64 (a.toInt.tdiv b.toInt) := by
  have hdiv : a.sdiv b = BitVec.ofInt 64 (a.toInt.tdiv b.toInt) :=
    BitVec.eq_of_toInt_eq (by rw [BitVec.toInt_sdiv, BitVec.toInt_ofInt])
  exact congrArg (fun q => if b = 0#64 then BitVec.allOnes 64 else q) hdiv

theorem muldivResult_divu : muldivResult 2 a b = if b = 0#64 then 0xFFFFFFFFFFFFFFFF#64 else BitVec.ofNat 64 (a.toNat / b.toNat) :=
  congrArg (fun q => if b = 0#64 then BitVec.allOnes 64 else q) BitVec.udiv_def

theorem muldivResult_rem :
    muldivResult 3 a b = if b = 0#64 then a else BitVec.ofInt 64 (a.toInt - b.toInt * a.toInt.tdiv b.toInt) := by
  have hrem : a.srem b = BitVec.ofInt 64 (a.toInt - b.toInt * a.toInt.tdiv b.toInt) := by
    rw [← Int.tmod_def, ← BitVec.toInt_srem, BitVec.ofInt_toInt]
  exact congrArg (fun r => if b = 0#64 then a else r) hrem

theorem muldivResult_remu : muldivResult 4 a b = if b = 0#64 then a else BitVec.ofNat 64 (a.toNat - b.toNat * (a.toNat / b.toNat)) := by
  have hrem : a % b = BitVec.ofNat 64 (a.toNat - b.toNat * (a.toNat / b.toNat)) := by
    rw [← Nat.mod_eq_sub]
    exact BitVec.umod_def
  exact congrArg (fun r => if b = 0#64 then a else r) hrem

end

/-- Settles O2: each member issues as its function number's result; a zero divisor is a case of the result, and −2^63 by −1 is computed. -/
theorem muldivResults : Obligations.MuldivResults := by
  refine ⟨fun _ => ⟨rfl, rfl, rfl, rfl, rfl⟩, ?mulhu, ?div, ?divu, ?rem, ?remu, by decide⟩
  case mulhu => exact binary_of (fun _ _ hi => run_issues hi rfl rfl) fun _ _ => rfl
  case div => exact binary_of (fun _ _ hi => run_issues hi rfl rfl) muldivResult_div
  case divu => exact binary_of (fun _ _ hi => run_issues hi rfl rfl) muldivResult_divu
  case rem => exact binary_of (fun _ _ hi => run_issues hi rfl rfl) muldivResult_rem
  case remu => exact binary_of (fun _ _ hi => run_issues hi rfl rfl) muldivResult_remu

/-! CMP and CMPI (R376). -/

section
variable {c : BitVec 8} {n : Nat} {s : State}

/-- R237: a guard takes whether the result is not 0. -/
theorem writeDst_guard (hc : Sel.ofCode c = .g n) (v : Word) (s : State) :
    writeDst c v s = .ok () (s.withHart fun h => h.setG n (v != 0#64)) := by
  unfold writeDst
  simp only [hc, updHart_run]

theorem boolWord_ne_zero (b : Bool) : (boolWord b != 0#64) = b := by cases b <;> rfl

theorem finish_boolWord_sreg (hc : Sel.ofCode c = .s n) (b : Bool) :
    finish c (boolWord b) s = .ok () ((s.withHart fun h => h.setS n (if b then 1#64 else 0#64)).withHart fun h => h.past 1) :=
  (bind_ok (writeDst_sreg hc (boolWord b) s)).trans (retire_one _)

theorem finish_boolWord_guard (hc : Sel.ofCode c = .g n) (b : Bool) :
    finish c (boolWord b) s = .ok () ((s.withHart fun h => h.setG n b).withHart fun h => h.past 1) := by
  have hwrite := writeDst_guard hc (boolWord b) s
  rw [boolWord_ne_zero] at hwrite
  exact (bind_ok hwrite).trans (retire_one _)

end

/-- Settles O3: each member issues as its function number's relation, in CMP of A and B and in CMPI of A and imm. -/
theorem compareResults : Obligations.CompareResults := by
  refine ⟨fun _ => ?enc, fun _ _ b _ hc => finish_boolWord_sreg hc b, fun _ _ b _ hc => finish_boolWord_guard hc b, by decide,
    ?eq, ?ne, ?lt, ?le, ?ltu, ?leu, ?gt, ?ge, ?gtu, ?geu, ?eqi, ?nei, ?lti, ?lei, ?ltui, ?leui, ?gti, ?gei, ?gtui, ?geui⟩
  case enc => exact ⟨rfl, rfl, rfl, rfl, rfl, rfl, rfl, rfl, rfl, rfl, rfl, rfl, rfl, rfl, rfl, rfl, rfl, rfl, rfl, rfl⟩
  case eq | ne | lt | le | ltu | leu | gt | ge | gtu | geu => exact binary_of (fun _ _ hi => run_issues hi rfl rfl) fun _ _ => rfl
  case eqi | nei | lti | lei | ltui | leui | gti | gei | gtui | geui =>
    exact immediate_of (fun _ _ hi => run_issues hi rfl rfl) fun _ _ => rfl

/-! MOVI, MOVHI, MOV, SEL, GUARD and NOP (R377, R379, R380, R389). -/

/-- Settles O5: each member issues as its program, which reads its operands in order and delivers its result. -/
theorem moveAndGuardResults : Obligations.MoveAndGuardResults := by
  refine ⟨fun _ _ _ hi h => ?movi, fun _ _ _ _ _ hi hd h => ?movhi, ?mov, fun _ _ _ _ _ _ _ _ _ hi ha hb hg h => ?sel,
    ?gand, ?gor, ?gxor, ?gandn, ?gset, fun _ _ _ _ _ hi ha h => ?gget, fun _ _ _ hi h => ?nop⟩
  case movi => exact (run_issues hi rfl rfl).trans (runExec_ok h)
  case movhi => exact (run_issues hi rfl rfl).trans (runExec_ok ((bind_ok hd).trans h))
  case mov | gset => exact unary_of (fun _ _ hi => run_issues hi rfl rfl) fun _ => rfl
  case sel => exact (run_issues hi rfl rfl).trans (runExec_ok ((bind_ok ha).trans ((bind_ok hb).trans ((bind_ok hg).trans h))))
  case gand | gor | gxor | gandn => exact ofGuards_of fun _ _ hi => run_issues hi rfl rfl
  case gget => exact (run_issues hi rfl rfl).trans (runExec_ok ((bind_ok ha).trans h))
  case nop => exact (run_issues hi rfl rfl).trans (runExec_ok h)

end Sys2Proof.Laws
end

section
/-! BITS and ADDR (R378, R381): what the counts count, where each bit of a reversal and of a Morton key comes from. -/
namespace Sys2Proof.Laws
open Sys2Proof.Machine

/-! Counts (R378). -/

section
variable {a : Word}

theorem clzFrom_zero (n : Nat) : clzFrom 0#64 n = n := by
  induction n with
  | zero => rfl
  | succ n ih => rw [clzFrom, BitVec.getLsbD_zero, if_neg Bool.false_ne_true, ih, Nat.add_comm]

/-- Below bit `m` the zero bits above the highest 1 are counted. -/
theorem clzFrom_eq {n m : Nat} (hone : a.getLsbD n = true) (hzero : ∀ k, n < k → a.getLsbD k = false) (hm : n < m) :
    clzFrom a m = m - 1 - n := by
  induction m with
  | zero => exact absurd hm (Nat.not_lt_zero n)
  | succ m ih =>
    rcases Nat.lt_succ_iff_lt_or_eq.mp hm with hlt | rfl
    · rw [clzFrom, hzero m hlt, if_neg Bool.false_ne_true, ih hlt]
      omega
    · rw [clzFrom, if_pos hone]
      omega

theorem ctzFrom_zero (k n : Nat) : ctzFrom 0#64 k n = n := by
  induction n generalizing k with
  | zero => rfl
  | succ n ih => rw [ctzFrom, BitVec.getLsbD_zero, if_neg Bool.false_ne_true, ih, Nat.add_comm]

/-- From bit `k` on the zero bits below the lowest 1 are counted. -/
theorem ctzFrom_eq {n k m : Nat} (hone : a.getLsbD n = true) (hzero : ∀ j, j < n → a.getLsbD j = false) (hk : k ≤ n) (hm : n < k + m) :
    ctzFrom a k m = n - k := by
  induction m generalizing k with
  | zero => omega
  | succ m ih =>
    rcases Nat.lt_or_eq_of_le hk with hlt | rfl
    · rw [ctzFrom, hzero k hlt, if_neg Bool.false_ne_true, ih hlt (by omega)]
      omega
    · rw [ctzFrom, if_pos hone, Nat.sub_self]

theorem popc_eq_countP (a : Word) : popc a = (List.range 64).countP fun i => a.getLsbD i := List.countP_eq_length_filter.symm

end

/-! The byte reversal (R378). -/

theorem leBytes_length (n v : Nat) : (leBytes n v).length = n := by
  induction n generalizing v with
  | zero => rfl
  | succ n ih => rw [leBytes, List.length_cons, ih]

theorem getElem_leBytes {n k : Nat} (v : Nat) (hk : k < (leBytes n v).length) : (leBytes n v)[k] = BitVec.ofNat 8 (v / 256 ^ k) := by
  induction n generalizing v k with
  | zero => exact absurd hk (Nat.not_lt_zero k)
  | succ n ih =>
    cases k with
    | zero => simp [leBytes]
    | succ k => simp [leBytes, ih, Nat.div_div_eq_div_mul, Nat.pow_succ']

/-- Bit `n` of a number stands at bit `n % 8` of its byte `n / 8`. -/
theorem leVal_testBit (bs : List Byte) {n : Nat} (hn : n / 8 < bs.length) : (leVal bs).testBit n = bs[n / 8].getLsbD (n % 8) := by
  induction bs generalizing n with
  | nil => exact absurd hn (Nat.not_lt_zero _)
  | cons b bs ih =>
    have hval : leVal (b :: bs) = 2 ^ 8 * leVal bs + b.toNat := Nat.add_comm ..
    rw [hval, Nat.testBit_two_pow_mul_add _ b.isLt]
    split
    case isTrue h8 => simp [Nat.div_eq_of_lt h8, Nat.mod_eq_of_lt h8, BitVec.getLsbD]
    case isFalse h8 =>
      obtain ⟨m, rfl⟩ := Nat.exists_eq_add_of_le (Nat.le_of_not_lt h8)
      have hdiv : (8 + m) / 8 = m / 8 + 1 := by omega
      have hmod : (8 + m) % 8 = m % 8 := by omega
      have hm : m / 8 < bs.length := by rw [List.length_cons] at hn; omega
      simp only [hdiv, hmod, List.getElem_cons_succ, Nat.add_sub_cancel_left]
      exact ih hm

/-- Bit `m` of byte `k` of a number. -/
theorem byte_getLsbD (v k : Nat) {m : Nat} (hm : m < 8) : (BitVec.ofNat 8 (v / 256 ^ k)).getLsbD m = v.testBit (8 * k + m) := by
  have hpow : 256 ^ k = 2 ^ (8 * k) := by rw [Nat.pow_mul]
  rw [BitVec.getLsbD_ofNat, decide_eq_true hm, Bool.true_and, hpow, Nat.testBit_div_two_pow, Nat.add_comm]

theorem bswap_getLsbD (a : Word) {n : Nat} (hn : n < 64) : (bitsResult 4 a).getLsbD n = a.getLsbD (56 - 8 * (n / 8) + n % 8) := by
  have hbyte : n / 8 < (leBytes 8 a.toNat).reverse.length := by rw [List.length_reverse, leBytes_length]; omega
  have hplace : 8 * (8 - 1 - n / 8) + n % 8 = 56 - 8 * (n / 8) + n % 8 := by omega
  show (BitVec.ofNat 64 (leVal (leBytes 8 a.toNat).reverse)).getLsbD n = _
  rw [BitVec.getLsbD_ofNat, decide_eq_true hn, Bool.true_and, leVal_testBit _ hbyte, List.getElem_reverse, getElem_leBytes,
    byte_getLsbD _ _ (Nat.mod_lt n (by decide)), leBytes_length, hplace]
  rfl

/-! Morton keys (R243, R381). -/

theorem mortonPick_lt (w o n : Nat) : mortonPick w o n < 2 ^ n := by
  induction n with
  | zero => exact Nat.zero_lt_one
  | succ n ih => rw [mortonPick, Nat.pow_succ]; split <;> omega

theorem mortonPick_testBit (w o : Nat) {n k : Nat} (hk : k < n) : (mortonPick w o n).testBit k = w.testBit (2 * k + o) := by
  induction n with
  | zero => exact absurd hk (Nat.not_lt_zero k)
  | succ n ih =>
    have hsplit : mortonPick w o (n + 1) = 2 ^ n * (w.testBit (2 * n + o)).toNat + mortonPick w o n := by
      rw [mortonPick, Nat.add_comm]
      cases w.testBit (2 * n + o) <;> simp
    rw [hsplit, Nat.testBit_two_pow_mul_add _ (mortonPick_lt w o n)]
    rcases Nat.lt_succ_iff_lt_or_eq.mp hk with hlt | rfl
    · rw [if_pos hlt, ih hlt]
    · rw [if_neg (Nat.lt_irrefl k), Nat.sub_self, Nat.testBit_bool_toNat]
      simp

/-- The first `n` bit pairs of the key of `x` and `y`. -/
def mortonPairs (x y n : Nat) : Nat := mortonSpread x 0 n + mortonSpread y 1 n

/-- Pair `n` of a key: a bit of `x` below a bit of `y`. -/
def mortonPair (x y n : Nat) : Nat := (x.testBit n).toNat + 2 * (y.testBit n).toNat

theorem mortonPairs_succ (x y n : Nat) : mortonPairs x y (n + 1) = 2 ^ (2 * n) * mortonPair x y n + mortonPairs x y n := by
  unfold mortonPairs mortonPair
  simp only [mortonSpread, Nat.add_zero, Nat.pow_succ]
  cases x.testBit n <;> cases y.testBit n
  all_goals
    simp only [Bool.toNat_true, Bool.toNat_false, Bool.false_eq_true, if_true, if_false]
    omega

theorem mortonPair_lt (x y n : Nat) : mortonPair x y n < 4 := by
  unfold mortonPair
  cases x.testBit n <;> cases y.testBit n <;> decide

theorem mortonPairs_lt (x y n : Nat) : mortonPairs x y n < 2 ^ (2 * n) := by
  induction n with
  | zero => exact Nat.zero_lt_one
  | succ n ih =>
    have hpair := mortonPair_lt x y n
    calc mortonPairs x y (n + 1) = 2 ^ (2 * n) * mortonPair x y n + mortonPairs x y n := mortonPairs_succ x y n
      _ < 2 ^ (2 * n) * mortonPair x y n + 2 ^ (2 * n) := Nat.add_lt_add_left ih _
      _ = 2 ^ (2 * n) * (mortonPair x y n + 1) := rfl
      _ ≤ 2 ^ (2 * n) * 4 := Nat.mul_le_mul_left _ hpair
      _ = 2 ^ (2 * (n + 1)) := (Nat.pow_add 2 (2 * n) 2).symm

theorem mortonPair_testBit (x y n : Nat) : (mortonPair x y n).testBit 0 = x.testBit n ∧ (mortonPair x y n).testBit 1 = y.testBit n := by
  unfold mortonPair
  cases x.testBit n <;> cases y.testBit n <;> decide

theorem mortonPairs_testBit (x y : Nat) {n k : Nat} (hk : k < n) :
    (mortonPairs x y n).testBit (2 * k) = x.testBit k ∧ (mortonPairs x y n).testBit (2 * k + 1) = y.testBit k := by
  induction n with
  | zero => exact absurd hk (Nat.not_lt_zero k)
  | succ n ih =>
    rw [mortonPairs_succ, Nat.testBit_two_pow_mul_add _ (mortonPairs_lt x y n), Nat.testBit_two_pow_mul_add _ (mortonPairs_lt x y n)]
    rcases Nat.lt_succ_iff_lt_or_eq.mp hk with hlt | rfl
    · rw [if_pos (by omega), if_pos (by omega)]
      exact ih hlt
    · rw [if_neg (Nat.lt_irrefl _), if_neg (by omega), Nat.sub_self, Nat.add_sub_cancel_left]
      exact mortonPair_testBit x y k

/-- R381: bit `k` of the column stands at bit `2k` of the key, bit `k` of the row at bit `2k + 1`. -/
theorem mortonKey_getLsbD (x y : Nat) {k : Nat} (hk : k < 32) :
    (BitVec.ofNat 64 (mortonKey x y)).getLsbD (2 * k) = x.testBit k ∧
      (BitVec.ofNat 64 (mortonKey x y)).getLsbD (2 * k + 1) = y.testBit k := by
  rw [BitVec.getLsbD_ofNat, BitVec.getLsbD_ofNat, decide_eq_true (show 2 * k < 64 by omega),
    decide_eq_true (show 2 * k + 1 < 64 by omega), Bool.true_and, Bool.true_and]
  exact mortonPairs_testBit x y hk

/-! The members. -/

/-- R378: each member issues as its function number's result. -/
theorem bitsResults : Claims.BitsResults := by
  refine ⟨⟨bitsResult 0, bitsResult 1, bitsResult 2, bitsResult 3, bitsResult 4, ⟨?clz, ?clzZero, fun a n hn hone hzero => ?clzOne⟩,
    ⟨?ctz, ?ctzZero, fun a n hone hzero => ?ctzOne⟩, ⟨?popc, fun a => ?count⟩, ⟨?brev, fun a n hn => ?brevBit⟩,
    ⟨?bswap, fun a n hn => bswap_getLsbD a hn⟩⟩, ?sext8, ?sext16, ?sext32, ?zext8, ?zext16, ?zext32⟩
  case clz | ctz | popc | brev | bswap | sext8 | sext16 | sext32 | zext8 | zext16 | zext32 =>
    exact unary_of (fun _ _ hi => run_issues hi rfl rfl) fun _ => rfl
  case clzZero => exact congrArg (BitVec.ofNat 64) (clzFrom_zero 64)
  case clzOne => exact congrArg (BitVec.ofNat 64) (clzFrom_eq hone hzero hn)
  case ctzZero => exact congrArg (BitVec.ofNat 64) (ctzFrom_zero 0 64)
  case ctzOne =>
    have hn : n < 0 + 64 := by rw [Nat.zero_add]; exact BitVec.lt_of_getLsbD hone
    exact congrArg (BitVec.ofNat 64) (ctzFrom_eq hone hzero (Nat.zero_le n) hn)
  case count => exact congrArg (BitVec.ofNat 64) (popc_eq_countP a)
  case brevBit =>
    show a.reverse.getLsbD n = a.getLsbD (63 - n)
    rw [BitVec.getLsbD_reverse, BitVec.getMsbD_eq_getLsbD, decide_eq_true hn, Bool.true_and]

theorem alignMask_eq (b : Word) : alignMask b = BitVec.ofNat 64 (2 ^ (b.toNat % 64) - 1) := by
  rw [alignMask, shamt_eq]

/-- R381: each member issues as its function number's result; the parts of a key are the bits that `mortonPick` takes. -/
theorem addrResults : Claims.AddrResults := by
  refine ⟨fun x s a b s1 s2 t hi ha hb h => ?shadd, ?alignup, ?aligndn, fun x y => BitVec.ofNat 64 (mortonKey x y),
    fun w => mortonPick w.toNat 0 32, fun w => mortonPick w.toNat 1 32, fun x y k hk => mortonKey_getLsbD x y hk,
    fun w k hk => ⟨mortonPick_testBit w.toNat 0 hk, mortonPick_testBit w.toNat 1 hk⟩,
    fun w => ⟨mortonPick_lt w.toNat 0 32, mortonPick_lt w.toNat 1 32⟩, ?mzip, ?meven, ?modd, ?maddx, ?maddy⟩
  case shadd =>
    have hshift : (x.imm.extractLsb' 0 3).toNat = x.imm.toNat % 8 := by simp [BitVec.extractLsb'_toNat]
    rw [← hshift] at h
    exact (run_issues hi rfl rfl).trans (runExec_ok ((bind_ok ha).trans ((bind_ok hb).trans h)))
  case alignup =>
    exact binary_of (fun _ _ hi => run_issues hi rfl rfl) fun a b => congrArg (fun m => (a + m) &&& ~~~m) (alignMask_eq b)
  case aligndn =>
    exact binary_of (fun _ _ hi => run_issues hi rfl rfl) fun a b => congrArg (fun m => a &&& ~~~m) (alignMask_eq b)
  case mzip | maddx | maddy => exact binary_of (fun _ _ hi => run_issues hi rfl rfl) fun _ _ => rfl
  case meven | modd => exact unary_of (fun _ _ hi => run_issues hi rfl rfl) fun _ => rfl

/-- Settles O4: each member issues as its function, whose counts, bytes and bits are the facts above. -/
theorem bitAndAddressResults : Obligations.BitAndAddressResults := ⟨bitsResults, addrResults⟩

end Sys2Proof.Laws
end

section
/-! Scalar floating point (R382–R385): each member issues as its shape of effect with its function number's result and flags. -/
namespace Sys2Proof.Laws
open Sys2Proof.Machine

/-! Shapes of effect. -/

section
variable {i : Args → Instr}

theorem unaryFp_of {f : Fmt} {fn : Nat} {g : Args → Word → Nat × Flags}
    (hexec : ∀ x s, Issues (i x) s → exec (i x) s = runExec (fop1 f fn x) s)
    (hg : ∀ x a, fopResult f fn (rmOf x) (satOf x) a 0#64 0#64 = g x a) : UnaryFp i g := by
  intro x s a s1 t hi ha h
  rw [← hg] at h
  exact (hexec x s hi).trans (runExec_ok ((bind_ok ha).trans h))

theorem binaryFp_of {f : Fmt} {fn : Nat} {g : Args → Word → Word → Nat × Flags}
    (hexec : ∀ x s, Issues (i x) s → exec (i x) s = runExec (fop2 f fn x) s)
    (hg : ∀ x a b, fopResult f fn (rmOf x) (satOf x) a b 0#64 = g x a b) : BinaryFp i g := by
  intro x s a b s1 s2 t hi ha hb h
  rw [← hg] at h
  exact (hexec x s hi).trans (runExec_ok ((bind_ok ha).trans ((bind_ok hb).trans h)))

theorem ternaryFp_of {f : Fmt} {fn : Nat} {g : Args → Word → Word → Word → Nat × Flags}
    (hexec : ∀ x s, Issues (i x) s → exec (i x) s = runExec (fop3 f fn x) s)
    (hg : ∀ x a b c, fopResult f fn (rmOf x) (satOf x) a b c = g x a b c) : TernaryFp i g := by
  intro x s a b c s1 s2 s3 t hi ha hb hc h
  rw [← hg] at h
  exact (hexec x s hi).trans (runExec_ok ((bind_ok ha).trans ((bind_ok hb).trans ((bind_ok hc).trans h))))

theorem unaryFp_convert {fn : Nat} {g : Args → Word → Nat × Flags}
    (hexec : ∀ x s, Issues (i x) s → exec (i x) s = runExec (fconvert fn x) s)
    (hg : ∀ x a, fcvtResult fn (rmOf x) (satOf x) a = g x a) : UnaryFp i g := by
  intro x s a s1 t hi ha h
  rw [← hg] at h
  exact (hexec x s hi).trans (runExec_ok ((bind_ok ha).trans h))

end

/-! FABS and FNEG (R383): a sign bit cleared or turned over. -/

section
variable (w : Word)

theorem signOp_abs_fp32 : signOp .fp32 false w = if (fpVal .fp32 w).isNan then Fmt.fp32.nanBits else w.toNat % 2 ^ 31 := by
  have hbits : w.toNat % 2 ^ 32 % 2 ^ 31 = w.toNat % 2 ^ 31 := by omega
  exact congrArg (fun n => if (fpVal .fp32 w).isNan then Fmt.fp32.nanBits else n) hbits

theorem signOp_abs_fp64 : signOp .fp64 false w = if (fpVal .fp64 w).isNan then Fmt.fp64.nanBits else w.toNat % 2 ^ 63 := by
  have hbits : w.toNat % 2 ^ 64 % 2 ^ 63 = w.toNat % 2 ^ 63 := by omega
  exact congrArg (fun n => if (fpVal .fp64 w).isNan then Fmt.fp64.nanBits else n) hbits

/-- Turning over the highest of `k + 1` bits adds it. -/
theorem flip_top_bit {k b : Nat} (hb : b < 2 ^ (k + 1)) : (if 2 ^ k ≤ b then b - 2 ^ k else b + 2 ^ k) = (b + 2 ^ k) % 2 ^ (k + 1) := by
  rw [Nat.pow_succ] at *
  split
  · rw [Nat.mod_eq_sub_mod (by omega), Nat.mod_eq_of_lt (by omega)]
    omega
  · rw [Nat.mod_eq_of_lt (by omega)]

theorem signOp_neg_fp32 :
    signOp .fp32 true w = if (fpVal .fp32 w).isNan then Fmt.fp32.nanBits else (w.toNat % 2 ^ 32 + 2 ^ 31) % 2 ^ 32 :=
  congrArg (fun n => if (fpVal .fp32 w).isNan then Fmt.fp32.nanBits else n)
    (flip_top_bit (k := 31) (Nat.mod_lt w.toNat (by decide)))

theorem signOp_neg_fp64 :
    signOp .fp64 true w = if (fpVal .fp64 w).isNan then Fmt.fp64.nanBits else (w.toNat + 2 ^ 63) % 2 ^ 64 := by
  have hflip := flip_top_bit (k := 63) (Nat.mod_lt w.toNat (by decide))
  rw [Nat.mod_add_mod] at hflip
  exact congrArg (fun n => if (fpVal .fp64 w).isNan then Fmt.fp64.nanBits else n) hflip

end

/-- R383: the twelve members in FP32 and in FP64. -/
theorem fopResults : Claims.FopResults := by
  refine ⟨?faddS, ?fsubS, ?fmulS, ?fdivS, ?fsqrtS, ?fminS, ?fmaxS, ?fmaS, ?fmsS, ?fnmaS, ?fabsS, ?fnegS,
    ?faddD, ?fsubD, ?fmulD, ?fdivD, ?fsqrtD, ?fminD, ?fmaxD, ?fmaD, ?fmsD, ?fnmaD, ?fabsD, ?fnegD⟩
  case faddS | fsubS | fmulS | fdivS | fminS | fmaxS | faddD | fsubD | fmulD | fdivD | fminD | fmaxD =>
    exact binaryFp_of (fun _ _ hi => run_issues hi rfl rfl) fun _ _ _ => rfl
  case fsqrtS | fsqrtD => exact unaryFp_of (fun _ _ hi => run_issues hi rfl rfl) fun _ _ => rfl
  case fmaS | fmsS | fnmaS | fmaD | fmsD | fnmaD => exact ternaryFp_of (fun _ _ hi => run_issues hi rfl rfl) fun _ _ _ _ => rfl
  case fabsS => exact unaryFp_of (fun _ _ hi => run_issues hi rfl rfl) fun _ a => congrArg (·, 0#5) (signOp_abs_fp32 a)
  case fnegS => exact unaryFp_of (fun _ _ hi => run_issues hi rfl rfl) fun _ a => congrArg (·, 0#5) (signOp_neg_fp32 a)
  case fabsD => exact unaryFp_of (fun _ _ hi => run_issues hi rfl rfl) fun _ a => congrArg (·, 0#5) (signOp_abs_fp64 a)
  case fnegD => exact unaryFp_of (fun _ _ hi => run_issues hi rfl rfl) fun _ a => congrArg (·, 0#5) (signOp_neg_fp64 a)

/-! FCMP (R384). -/

/-- The format that MOD[2] selects. -/
def cmpFmt (x : Args) : Fmt := if x.mod.getLsbD 2 then .fp64 else .fp32

theorem binaryFp_compare {i : Args → Instr} {fn : Nat} {g : Args → Word → Word → Nat × Flags}
    (hexec : ∀ x s, Issues (i x) s → exec (i x) s = runExec (fcompare fn x) s)
    (hg : ∀ x a b, g x a b = ((boolWord (fcmpRel fn (fpVal (cmpFmt x) a) (fpVal (cmpFmt x) b))).toNat,
      fcmpFlags fn (fpVal (cmpFmt x) a) (fpVal (cmpFmt x) b))) : BinaryFp i g := by
  intro x s a b s1 s2 t hi ha hb h
  rw [hg, BitVec.ofNat_toNat, BitVec.setWidth_eq] at h
  exact (hexec x s hi).trans (runExec_ok ((bind_ok ha).trans ((bind_ok hb).trans h)))

/-- R384, R385: the relations with their flags, and the fourteen conversions. -/
theorem fcmpAndFcvtResults : Claims.FcmpAndFcvtResults := by
  simp only [Claims.FcmpAndFcvtResults, List.forall_mem_cons, List.not_mem_nil, false_implies, implies_true, and_true]
  refine ⟨⟨?eq, ?lt, ?le, ?un⟩, ?sd, ?ds, ?sl, ?dl, ?slu, ?dlu, ?ls, ?ld, ?lus, ?lud, ?bs, ?hs, ?sb, ?sh⟩
  case eq | lt | le | un =>
    refine binaryFp_compare (fun _ _ hi => run_issues hi rfl rfl) fun x a b => ?_
    simp [fcmpRel, fcmpFlags, cmpFmt]
  case sd | ds | sl | dl | slu | dlu | ls | ld | lus | lud | bs | hs | sb | sh =>
    exact unaryFp_convert (fun _ _ hi => run_issues hi rfl rfl) fun _ _ => rfl

/-- Settles O6: each member issues as its function number's result, rounded once, and collects its flags before it delivers. -/
theorem scalarFloatResults : Obligations.ScalarFloatResults := ⟨fopResults, fcmpAndFcvtResults⟩

end Sys2Proof.Laws
end

section
/-! Loads, stores and remote loads (R260, R270, R292, R386, R387): the address, the alignment, and what each access does, case by case. -/
namespace Sys2Proof.Laws
open Sys2Proof.Machine

/-! The address A + imm (R386). -/

section
variable {x : Args} {n : Nat} {a : Word} {s s1 t : State} (ha : readSrc 1 x.a s = .ok a s1)
include ha

theorem lsAddr_aligned (hal : (a + x.imm.signExtend 64).toNat % n = 0) : lsAddr x n s = .ok (a + x.imm.signExtend 64).toNat s1 := by
  unfold lsAddr
  rw [bind_ok ha, if_neg (not_not_intro hal), pure_run]

theorem lsAddr_misaligned (hal : (a + x.imm.signExtend 64).toNat % n ≠ 0)
    (h : takeException s1.cur 0x143#10 (.at (a + x.imm.signExtend 64)) s1 = .ok () t) : lsAddr x n s = .error .done t := by
  unfold lsAddr
  rw [bind_ok ha, if_pos hal]
  exact trapWith_run h

end

/-! LD (R386). -/

theorem loads_of {i : Args → Instr} {signed : Bool} {n : Nat} {f : List Byte → Word}
    (hexec : ∀ x s, Issues (i x) s → exec (i x) s = runExec (load signed n x) s) (hf : ∀ bs, extend signed n bs = f bs) :
    Claims.Loads i n f := by
  refine fun x s a s1 hi ha => ⟨fun hal bs s2 t hb h => ?aligned, fun hal t h => ?misaligned⟩
  case aligned =>
    rw [← hf] at h
    exact (hexec x s hi).trans (runExec_ok ((bind_ok (lsAddr_aligned ha hal)).trans ((bind_ok hb).trans h)))
  case misaligned => exact (hexec x s hi).trans (runExec_error (bind_error (lsAddr_misaligned ha hal h)))

/-- Settles O16: each form issues as a load of its width, signed or unsigned. -/
theorem loadResults : Obligations.LoadResults := by
  refine ⟨?b, ?bu, ?h, ?hu, ?w, ?wu, ?d⟩
  all_goals exact loads_of (fun _ _ hi => run_issues hi rfl rfl) fun _ => rfl

/-! ST (R386). -/

section
variable {x : Args} {n : Nat} {a v : Word} {s s1 s2 t : State} (ha : readSrc 1 x.a s = .ok a s1) (hv : readSrc 0 x.d s1 = .ok v s2)
include ha hv

theorem store_aligned (hal : (a + x.imm.signExtend 64).toNat % n = 0) :
    store n x s = storeBytes (a + x.imm.signExtend 64).toNat n v s2 := by
  unfold store
  rw [bind_ok ha, bind_ok hv, if_neg (not_not_intro hal)]

theorem store_misaligned (hal : (a + x.imm.signExtend 64).toNat % n ≠ 0)
    (h : takeException s2.cur 0x143#10 (.at (a + x.imm.signExtend 64)) s2 = .ok () t) : store n x s = .error .done t := by
  unfold store
  rw [bind_ok ha, bind_ok hv, if_pos hal]
  exact trapWith_run h

end

theorem storeBytes_global {a n : Nat} {v : Word} {s t : State} (hm : s.isMmio a = false)
    (hw : writeGlobal s.cur (.at (BitVec.ofNat 64 a)) a (leBytes n v.toNat) s = .ok () t) :
    storeBytes a n v s = .ok () (t.withHart fun h => h.past 1) := by
  unfold storeBytes
  rw [get_then, hm, if_neg Bool.false_ne_true, bind_ok hw, retire_one]

theorem stores_of {i : Args → Instr} {n : Nat} (hexec : ∀ x s, Issues (i x) s → exec (i x) s = runExec (store n x) s) :
    Claims.Stores i n :=
  fun x s _ _ _ _ hi ha hv =>
    ⟨fun hal hm _ hw => (hexec x s hi).trans (runExec_ok ((store_aligned ha hv hal).trans (storeBytes_global hm hw))),
     fun hal _ h => (hexec x s hi).trans (runExec_error (store_misaligned ha hv hal h))⟩

theorem storeForms : Claims.StoreResults := by
  refine ⟨?b, ?h, ?w, ?d⟩
  all_goals exact stores_of fun _ _ hi => run_issues hi rfl rfl

/-! A store to a granule that its stream holds privately (R292, R295). -/

/-- A stream's own bytes with `data` laid over them from `va` on. -/
def withPrivate (va : Nat) (data : List Byte) (s : State) : State :=
  s.withHart fun h => { h with priv := (addressed va data).foldl (fun m q => Map.insert m q.1 q.2) h.priv }

/-- An access that does not cross a boundary of `u` bytes is one piece. -/
theorem pieces_one {u a n fuel : Nat} (hn : 0 < n) (hfit : a % u + n ≤ u) : pieces u (fuel + 2) a n = [(a, n)] := by
  have hmin : min n (u - a % u) = n := Nat.min_eq_left (by omega)
  simp [pieces, Nat.pos_iff_ne_zero.mp hn, hmin]

theorem writePiece_private {i : FInfo} {va pa c : Nat} {g : Eng} {data : List Byte} {s : State} (hc : s.cur = .stream c g)
    (hx : xlate s.cur true false va s = .ok (.ok pa) s) (hp : (s.hart s.cur).privGranules.contains (va / 64) = true) :
    writePiece s.cur i va data s = .ok () (withPrivate va data s) := by
  have hrun : updHartOf s.cur (fun h => { h with priv := (addressed va data).foldl (fun m q => Map.insert m q.1 q.2) h.priv }) s =
    .ok () (withPrivate va data s) := rfl
  rw [hc] at hx hp hrun ⊢
  unfold writePiece
  rw [bind_ok hx]
  simp only [get_then, Agent.isUser, Bool.not_true, Bool.false_and, Bool.false_eq_true, if_false, hp, if_true]
  exact hrun

/-- R292: the store writes the stream's own bytes, in one piece. -/
theorem writeGlobal_private {i : FInfo} {va pa c : Nat} {g : Eng} {data : List Byte} {s : State} (hc : s.cur = .stream c g)
    (hx : xlate s.cur true false va s = .ok (.ok pa) s) (hp : (s.hart s.cur).privGranules.contains (va / 64) = true)
    (h0 : 0 < data.length) (hfit : va % 64 + data.length ≤ 64) : writeGlobal s.cur i va data s = .ok () (withPrivate va data s) := by
  unfold writeGlobal
  rw [pieces_one h0 hfit, each_cons]
  have hdata : (data.drop (va - va)).take data.length = data := by simp
  rw [hdata]
  exact (bind_ok (writePiece_private hc hx hp)).trans (each_nil _ _)

theorem isMmio_user {s : State} {c : Nat} {g : Eng} (hc : s.cur = .stream c g) (a : Nat) : s.isMmio a = false := by
  simp [State.isMmio, hc, Agent.isUser]

/-- An aligned access of 1, 2, 4 or 8 bytes lies in one granule. -/
theorem fits_granule {va n : Nat} (hn : n ∣ 64) (hal : va % n = 0) : va % 64 + n ≤ 64 := by
  obtain ⟨k, hk⟩ := hn
  obtain ⟨m, rfl⟩ := Nat.dvd_of_mod_eq_zero hal
  have hlt : m % k < k := Nat.mod_lt m (Nat.pos_of_ne_zero fun h => by simp [h] at hk)
  calc n * m % 64 + n = n * (m % k) + n := by rw [hk, Nat.mul_mod_mul_left]
    _ = n * (m % k + 1) := rfl
    _ ≤ n * k := Nat.mul_le_mul_left n hlt
    _ = 64 := hk.symm

theorem privateStoreFrame : Claims.PrivateStoreFrame := by
  simp only [Claims.PrivateStoreFrame, List.forall_mem_cons, List.not_mem_nil, false_implies, implies_true, and_true]
  refine ⟨?b, ?h, ?w, ?d⟩
  all_goals
    intro x s a v s1 s2 c g pa hi ha hv hc hal hp hx
    refine (run_issues hi rfl rfl).trans (runExec_ok ((store_aligned ha hv hal).trans (storeBytes_global (isMmio_user hc _) ?_)))
    refine writeGlobal_private hc hx hp ?_ ?_
    · rw [leBytes_length]; decide
    · rw [leBytes_length]; exact fits_granule (by decide) hal

/-- Settles O17: each form issues as a store of its width, which a stream that holds the granule makes to its own bytes. -/
theorem storeResults : Obligations.StoreResults := ⟨storeForms, privateStoreFrame⟩

/-! LDSP and STSP (R260, R270, R307, R386). -/

theorem svcOffset_ok {a n : Nat} (hfit : a + n ≤ 65536) (s : State) : svcOffset a n s = .ok a s := by
  rw [svcOffset, if_neg (Nat.not_lt.mpr hfit), pure_run]

section
variable {x : Args} {n c : Nat} {a : Word} {s s1 t : State} (ha : readSrc 1 x.a s = .ok a s1)
  (hal : (a + x.imm.signExtend 64).toNat % n = 0)
include ha hal

theorem loadSp_stream {signed : Bool} {g : Eng} {bs : List Byte} {s2 : State} (hc : s1.cur = .stream c g)
    (hb : scratchRead (.at (BitVec.ofNat 64 (a + x.imm.signExtend 64).toNat)) (a + x.imm.signExtend 64).toNat n s1 = .ok bs s2)
    (h : finish x.d (extend signed n bs) s2 = .ok () t) : loadSp signed n x s = .ok () t := by
  unfold loadSp
  rw [bind_ok (lsAddr_aligned ha hal), get_then, hc]
  exact (bind_ok hb).trans h

/-- R260: the service context reads its own memory. -/
theorem loadSp_service {signed : Bool} (hc : s1.cur = .service c) (hfit : (a + x.imm.signExtend 64).toNat + n ≤ 65536)
    (h : finish x.d (extend signed n (Map.getN (fun _ => 0#8) (s1.core c).svcMem (a + x.imm.signExtend 64).toNat n)) s1 = .ok () t) :
    loadSp signed n x s = .ok () t := by
  unfold loadSp
  rw [bind_ok (lsAddr_aligned ha hal), get_then, hc]
  exact (bind_ok (svcOffset_ok hfit s1)).trans h

end

theorem loadsSp_of {i : Args → Instr} {signed : Bool} {n : Nat} {f : List Byte → Word}
    (hexec : ∀ x s, Issues (i x) s → exec (i x) s = runExec (loadSp signed n x) s) (hf : ∀ bs, extend signed n bs = f bs) :
    Claims.LoadsSp i n f := by
  refine ⟨fun x s a s1 c g hi ha hc => ⟨fun hal bs s2 t hb h => ?stream, fun hal t h => ?misaligned⟩,
    fun x s a s1 c t hi ha hc hal hfit h => ?service⟩
  case stream =>
    rw [← hf] at h
    exact (hexec x s hi).trans (runExec_ok (loadSp_stream ha hal hc hb h))
  case misaligned => exact (hexec x s hi).trans (runExec_error (bind_error (lsAddr_misaligned ha hal h)))
  case service =>
    rw [← hf] at h
    exact (hexec x s hi).trans (runExec_ok (loadSp_service ha hal hc hfit h))

theorem loadSpResults : Claims.LoadSpResults := by
  refine ⟨?b, ?bu, ?h, ?hu, ?w, ?wu, ?d⟩
  all_goals exact loadsSp_of (fun _ _ hi => run_issues hi rfl rfl) fun _ => rfl

theorem scratchWrite_run {i : FInfo} {a pa n v : Nat} {s s1 t : State} (hp : scratchPlace i a n s = .ok pa s)
    (hadds : afterAdds pa n s = .ok () s1) (hw : physWrite pa (leBytes n v) none s1 = .ok false t) :
    scratchWrite i a (leBytes n v) s = .ok () t := by
  unfold scratchWrite
  rw [leBytes_length, bind_ok hp, bind_ok hadds, bind_ok hw]
  rfl

section
variable {x : Args} {n c : Nat} {a v : Word} {s s1 s2 t : State} (ha : readSrc 1 x.a s = .ok a s1) (hv : readSrc 0 x.d s1 = .ok v s2)
include ha hv

theorem storeSp_stream {g : Eng} (hc : s2.cur = .stream c g) (hal : (a + x.imm.signExtend 64).toNat % n = 0)
    (hw : scratchWrite (.at (a + x.imm.signExtend 64)) (a + x.imm.signExtend 64).toNat (leBytes n v.toNat) s2 = .ok () t) :
    storeSp n x s = .ok () (t.withHart fun h => h.past 1) := by
  unfold storeSp
  rw [bind_ok ha, bind_ok hv, if_neg (not_not_intro hal), get_then, hc]
  exact (bind_ok hw).trans (retire_one t)

/-- R260: the service context writes its own memory. -/
theorem storeSp_service (hc : s2.cur = .service c) (hal : (a + x.imm.signExtend 64).toNat % n = 0)
    (hfit : (a + x.imm.signExtend 64).toNat + n ≤ 65536) :
    storeSp n x s = .ok () ((s2.updCore c fun y =>
      { y with svcMem := Map.setN (fun _ => 0#8) y.svcMem (a + x.imm.signExtend 64).toNat (leBytes n v.toNat) }).withHart
        fun h => h.past 1) := by
  unfold storeSp
  rw [bind_ok ha, bind_ok hv, if_neg (not_not_intro hal), get_then, hc]
  exact (bind_ok ((bind_ok (svcOffset_ok hfit s2)).trans (updCore_run c _ s2))).trans (retire_one _)

theorem storeSp_misaligned (hal : (a + x.imm.signExtend 64).toNat % n ≠ 0)
    (h : takeException s2.cur 0x143#10 (.at (a + x.imm.signExtend 64)) s2 = .ok () t) : storeSp n x s = .error .done t := by
  unfold storeSp
  rw [bind_ok ha, bind_ok hv, if_pos hal]
  exact trapWith_run h

end

theorem storesSp_of {i : Args → Instr} {n : Nat} (hexec : ∀ x s, Issues (i x) s → exec (i x) s = runExec (storeSp n x) s) :
    Claims.StoresSp i n :=
  ⟨fun x s _ _ _ _ _ _ _ _ _ hi ha hv hc hal hp hadds hw =>
     (hexec x s hi).trans (runExec_ok (storeSp_stream ha hv hc hal (scratchWrite_run hp hadds hw))),
   fun x s _ _ _ _ _ hi ha hv hc hal hfit => (hexec x s hi).trans (runExec_ok (storeSp_service ha hv hc hal hfit)),
   fun x s _ _ _ _ _ hi ha hv hal h => (hexec x s hi).trans (runExec_error (storeSp_misaligned ha hv hal h))⟩

theorem storeSpResults : Claims.StoreSpResults := by
  refine ⟨?b, ?h, ?w, ?d⟩
  all_goals exact storesSp_of fun _ _ hi => run_issues hi rfl rfl

/-- Settles O18: each form issues as an access of its width to a scratchpad or, in the service context, to its own memory. -/
theorem scratchpadResults : Obligations.ScratchpadResults := ⟨loadSpResults, storeSpResults⟩

/-! RLD (R387). -/

theorem pushChan_room {c q : Nat} {e : Entry} {s : State} (hc : s.cur.coreNo = c) (h : ((s.job c).chan q).length < 8) :
    pushChan q e s = .ok () (s.updJob c fun j => j.setChan q (j.chan q ++ [e])) := by
  subst hc
  unfold pushChan
  rw [curCore_then, getJob_then, if_neg (Nat.not_le.mpr h), updJob_run]

/-- The state in which the remote load of the executing stream of core `c` holds the tail entry of channel `q`, stands in its job's list
and counts as received by its core in partition `k` (R189, R387). -/
def withRemoteLoad (k c q : Nat) (va : Word) (pa n : Nat) (signed : Bool) (s : State) : State :=
  ((({ s with tick := s.tick + 1 } : State).updJob c fun j => j.setChan q (j.chan q ++ [.reserved s.tick])).updJob c
    fun j => { j with rlds := j.rlds ++ [⟨s.tick, q, (s.hart s.cur).pc, va, pa, n, signed⟩] }).inCustody k c 1 0

section
variable {x : Args} {signed : Bool} {n : Nat} {a : Word} {s s1 s2 t : State} (ha : readSrc 1 x.a s = .ok a s1)
include ha

theorem remoteLoad_full (hfull : 8 ≤ ((s1.job s1.cur.coreNo).chan (x.d.toNat % 16)).length) :
    remoteLoad signed n x s = .error .done (s1.withHart fun h => { h with blocked := .chan, restart := h.restartHere }) := by
  unfold remoteLoad
  rw [bind_ok ha, curCore_then, getJob_then, if_pos hfull, block_run]

section
variable (hroom : ((s1.job s1.cur.coreNo).chan (x.d.toNat % 16)).length < 8)
include hroom

theorem remoteLoad_misaligned (hal : (a + x.imm.signExtend 64).toNat % n ≠ 0)
    (h : takeException s1.cur 0x143#10 (.at (a + x.imm.signExtend 64)) s1 = .ok () t) : remoteLoad signed n x s = .error .done t := by
  unfold remoteLoad
  rw [bind_ok ha, curCore_then, getJob_then, if_neg (Nat.not_le.mpr hroom), if_pos hal]
  exact trapWith_run h

/-- R387: at a place of this package the load is noted and the stream goes on. -/
theorem remoteLoad_here {pa : Nat} (hal : (a + x.imm.signExtend 64).toNat % n = 0)
    (hx : xlate s1.cur false false (a + x.imm.signExtend 64).toNat s1 = .ok (.ok pa) s2) (hcur : s2.cur = s1.cur)
    (hroom2 : ((s2.job s1.cur.coreNo).chan (x.d.toNat % 16)).length < 8) (hplace : ∀ pkg off, s1.place pa ≠ .fabric pkg off) :
    remoteLoad signed n x s = .ok () ((withRemoteLoad (s1.job s1.cur.coreNo).part s1.cur.coreNo (x.d.toNat % 16)
      (a + x.imm.signExtend 64) pa n signed s2).withHart fun h => h.past 1) := by
  have hcore : s2.cur.coreNo = s1.cur.coreNo := congrArg Agent.coreNo hcur
  unfold remoteLoad
  rw [bind_ok ha, curCore_then, getJob_then, if_neg (Nat.not_le.mpr hroom), if_neg (not_not_intro hal), get_then, bind_ok hx]
  dsimp only
  rw [fresh_then, getHart_then, bind_ok (pushChan_room (s := { s2 with tick := s2.tick + 1 }) hcore hroom2), updJob_then, custody_then]
  split
  case h_1 pkg off hfar => exact absurd hfar (hplace pkg off)
  case h_2 => exact retire_one _

end

end

theorem remoteLoads_of {i : Args → Instr} {n : Nat} {signed : Bool}
    (hexec : ∀ x s, Issues (i x) s → exec (i x) s = runExec (remoteLoad signed n x) s) : Claims.RemoteLoads i n signed :=
  ⟨fun x s _ _ _ _ hi ha hroom hal hx hcur hroom2 hplace =>
     (hexec x s hi).trans (runExec_ok (remoteLoad_here ha hroom hal hx hcur hroom2 hplace)),
   fun x s _ _ hi ha hfull => (hexec x s hi).trans (runExec_error (remoteLoad_full ha hfull)),
   fun x s _ _ _ hi ha hroom hal h => (hexec x s hi).trans (runExec_error (remoteLoad_misaligned ha hroom hal h))⟩

/-- Settles O20: each form issues as a remote load of its width, which waits, faults or reserves its entry. -/
theorem remoteLoadResults : Obligations.RemoteLoadResults := by
  refine ⟨?b, ?bu, ?h, ?hu, ?w, ?wu, ?d⟩
  all_goals exact remoteLoads_of fun _ _ hi => run_issues hi rfl rfl

end Sys2Proof.Laws
end

section
/-! JOIN, HALT, YIELD, SVC and ERET (R264, R390, R391, R408), case by case. -/
namespace Sys2Proof.Laws
open Sys2Proof.Machine

/-! Ends and requests of the executing agent (R390, R408). -/

section
variable {x : Args} {s t : State} {c id : Nat} {e : Eng}

theorem joinStream_run (hr : releaseHere 3 s = .ok id t) :
    joinStream s = .ok () (t.withHart fun h => { (h.past 1) with stat := .joined }) := by
  unfold joinStream
  rw [bind_ok hr, updHart_run]

theorem haltWith_stream (hc : s.cur = .stream c e) :
    haltWith x s = fatalOn c e.no (s.hart s.cur).pc (x.imm.extractLsb' 0 10) .plain s := by
  unfold haltWith
  simp only [get_then, hc]

theorem haltWith_controller (hc : s.cur.isUser = false) :
    haltWith x s = .ok () (s.withHart fun h => { (h.past 1) with stat := .halted }) := by
  unfold haltWith
  rcases hs : s.cur with ⟨c, e⟩ | c | f | _
  · rw [hs] at hc
    cases hc
  all_goals
    simp only [get_then, hs]
    exact updHart_run _ s

theorem yieldTo_stream (hc : s.cur = .stream c e) :
    yieldTo s = .ok () ((if s.otherReady c then s.updJob c fun j => { j with stopping := true } else s).withHart fun h => h.past 1) := by
  unfold yieldTo
  simp only [get_then, hc]
  split
  · exact retire_one _
  · exact retire_one _

theorem yieldTo_parks (hc : s.cur = .service c) (h0 : (s.core c).fqCount = 0) :
    yieldTo s = .error .done (s.withHart fun h => { h with blocked := .park, restart := h.restartHere }) := by
  unfold yieldTo
  simp only [get_then, hc, h0, if_true]
  exact block_run ..

theorem yieldTo_service (hc : s.cur = .service c) (h0 : (s.core c).fqCount ≠ 0) : yieldTo s = .ok () (s.withHart fun h => h.past 1) := by
  unfold yieldTo
  simp only [get_then, hc, h0, if_false]
  exact retire_one s

/-- R408: on a controller YIELD does nothing. -/
theorem yieldTo_controller {f : Nat} (hc : s.cur = .frontEnd f ∨ s.cur = .mgmt) : yieldTo s = .ok () (s.withHart fun h => h.past 1) := by
  unfold yieldTo
  rcases hc with hc | hc
  all_goals
    simp only [get_then, hc]
    exact retire_one s

end

theorem stopResults : Claims.StopResults := by
  refine ⟨fun _ _ _ _ hi hr => ?join, fun _ _ _ _ _ hi hc h => ?halt, fun _ _ hi hc => ?haltController, fun _ s c e hi hc hr => ?yieldReady,
    fun _ s c e hi hc hr => ?yield, fun _ _ _ hi hc h0 => ?park, fun _ _ _ hi hc h0 => ?service, fun _ _ _ hi hc => ?controller⟩
  case join => exact (run_issues hi rfl rfl).trans (runExec_ok (joinStream_run hr))
  case halt => exact (run_issues hi rfl rfl).trans (runExec_ok ((haltWith_stream hc).trans h))
  case haltController => exact (run_issues hi rfl rfl).trans (runExec_ok (haltWith_controller hc))
  case yieldReady =>
    have hyield := yieldTo_stream hc
    rw [if_pos hr] at hyield
    exact (run_issues hi rfl rfl).trans (runExec_ok hyield)
  case yield =>
    have hyield := yieldTo_stream hc
    rw [if_neg (by simp [hr])] at hyield
    exact (run_issues hi rfl rfl).trans (runExec_ok hyield)
  case park => exact (run_issues hi rfl rfl).trans (runExec_error (yieldTo_parks hc h0))
  case service => exact (run_issues hi rfl rfl).trans (runExec_ok (yieldTo_service hc h0))
  case controller => exact (run_issues hi rfl rfl).trans (runExec_ok (yieldTo_controller hc))

/-! SVC (R390). -/

theorem fqPush_run (c : Nat) (rec : List Byte) (s : State) : fqPush c false rec s = .ok () (s.recorded c rec) := rfl

theorem svcStops : Claims.SvcStops := by
  intro x s c e hi hc
  refine (run_issues hi rfl rfl).trans (runExec_ok ?_)
  unfold superCall
  simp only [get_then, hc]
  rw [bind_ok (fqPush_run ..)]
  exact updHart_run ..

/-! ERET (R264, R391). -/

/-- R391: reserved bits and the reserved ACTION make no control word, whatever the stream. -/
theorem eretOk_reserved {w : Word} (h : Word.bits w 4 12 ≠ 0 ∨ Word.bits w 26 38 ≠ 0 ∨ Word.bits w 2 2 = 3) (stopped : Option Cause) :
    eretOk w stopped = false := by
  unfold eretOk
  rcases h with h | h | h <;> simp [h]

section
variable {x : Args} {w : Word} {s s1 t : State} {c : Nat} {f : Cause} {v : Bool} (hw : readSrc 1 x.a s = .ok w s1)
  (hc : s1.cur = .service c)
include hw hc

section
variable (hlive : (s1.job c).live = true) (hstat : (s1.hart (.stream c (.ofNo (Word.bits w 0 2)))).stat = .stopped f v)
  (hok : eretOk w (some f) = true)
include hlive hstat hok

/-- R264, R391: RESUME and CONTINUE let the stream go on, CONTINUE with its grant. -/
theorem serviceReturn_resumes (hact : Word.bits w 2 2 < 2) :
    serviceReturn x s = .ok () ((s1.setHart (.stream c (.ofNo (Word.bits w 0 2)))
      { s1.hart (.stream c (.ofNo (Word.bits w 0 2))) with
        stat := .running, pc := (s1.hart (.stream c (.ofNo (Word.bits w 0 2)))).restart.pc, newLine := true,
        grant := Word.bits w 2 2 == 1, blocked := .none, wait := none }).withHart fun h => h.past 1) := by
  unfold serviceReturn
  rw [bind_ok hw, get_then, hc]
  have hcore : (Agent.service c).coreNo = c := rfl
  simp only [hcore, hstat, hlive, if_true, hok, Bool.not_true, Bool.false_eq_true, if_false]
  obtain hact | hact : Word.bits w 2 2 = 0 ∨ Word.bits w 2 2 = 1 := by omega
  all_goals
    rw [hact]
    exact retire_one _

theorem serviceReturn_terminates (hact : Word.bits w 2 2 = 2)
    (h : fatalOn c (Word.bits w 0 2) (s1.hart (.stream c (.ofNo (Word.bits w 0 2)))).restart.pc (BitVec.ofNat 10 (Word.bits w 16 10))
      .plain s1 = .ok () t) : serviceReturn x s = .ok () (t.withHart fun h => h.past 1) := by
  unfold serviceReturn
  rw [bind_ok hw, get_then, hc]
  have hcore : (Agent.service c).coreNo = c := rfl
  simp only [hcore, hstat, hlive, if_true, hok, Bool.not_true, Bool.false_eq_true, if_false, hact]
  exact (bind_ok h).trans (retire_one t)

end

/-- R391: with no live job on the core there is no stream to return to. -/
theorem serviceReturn_notLive (hdead : (s1.job c).live = false) (hok : eretOk w none = true) :
    serviceReturn x s = .ok () (s1.withHart fun h => h.past 1) := by
  unfold serviceReturn
  rw [bind_ok hw, get_then, hc]
  have hcore : (Agent.service c).coreNo = c := rfl
  cases hstat : (s1.hart (.stream c (.ofNo (Word.bits w 0 2)))).stat
  all_goals
    simp only [hcore, hstat, hdead, hok, Bool.not_true, Bool.false_eq_true, if_false]
    exact retire_one s1

omit hc in
theorem serviceReturn_reserved (hbad : Word.bits w 4 12 ≠ 0 ∨ Word.bits w 26 38 ≠ 0 ∨ Word.bits w 2 2 = 3)
    (h : takeException s1.cur 0x044#10 .plain s1 = .ok () t) : serviceReturn x s = .error .done t := by
  unfold serviceReturn
  rw [bind_ok hw, get_then]
  simp only [eretOk_reserved hbad, Bool.not_false, if_true]
  exact trapWith_run h

end

theorem eretResults : Claims.EretResults :=
  ⟨fun _ _ _ _ _ _ _ hi hw hc hlive hstat hok hact =>
     (run_issues hi rfl rfl).trans (runExec_ok (serviceReturn_resumes hw hc hlive hstat hok hact)),
   fun _ _ _ _ _ _ _ _ hi hw hc hlive hstat hok hact h =>
     (run_issues hi rfl rfl).trans (runExec_ok (serviceReturn_terminates hw hc hlive hstat hok hact h)),
   fun _ _ _ _ _ hi hw hc hdead hok => (run_issues hi rfl rfl).trans (runExec_ok (serviceReturn_notLive hw hc hdead hok)),
   fun _ _ _ _ _ _ hi hw _ hbad h => (run_issues hi rfl rfl).trans (runExec_error (serviceReturn_reserved hw hbad h))⟩

/-- Settles O23: each instruction is run on its program, one equation per case of the rules. -/
theorem stopAndReturnResults : Obligations.StopAndReturnResults := ⟨stopResults, svcStops, eretResults⟩

end Sys2Proof.Laws
end

section
/-! CADD.M, CWAIT.M and WAITA (R393, R395, R396), case by case. -/
namespace Sys2Proof.Laws
open Sys2Proof.Machine

theorem blockAt_run {α : Type} (b : Block) (w : WaitRec) (s : State) :
    (blockAt b w : Exec α) s = .error .done (s.withHart fun h => { h with blocked := b, wait := some w, restart := h.restartHere }) := rfl

section
variable {x : Args} {s t : State}

theorem acqOf_plain (hplain : x.mod.getLsbD 3 = false) : acqOf x = none := if_neg (ne_true_of_eq_false hplain)

/-- R299: a plain wait leaves what it observed to a fence behind it. -/
theorem waitDone_plain (rels : List Rel) (s : State) :
    waitDone none rels s = .ok () ((s.withHart fun h => { h with lastWait := rels }).withHart fun h => h.past 1) := by
  unfold waitDone
  rw [get_then]
  exact retire_one _

theorem addRelease_none (hrel : x.mod.getLsbD 3 = false) (hf : (s.hart s.cur).fenceRel = none) : addRelease x s = .ok 0 s := by
  have hplain : relOf x = false := hrel
  unfold addRelease
  rw [hplain, if_neg Bool.false_ne_true, getHart_then, hf]
  rfl

/-- R126: a word whose block passes its exit check is read. -/
theorem checkedWord_run {pa : Nat} (ref : Word) (h : exitCheck (s.block pa) s = .ok none s) : checkedWord ref pa s = .ok (s.word pa) s := by
  unfold checkedWord
  rw [get_then, bind_ok h]
  rfl

/-- The state in which a user stream's add is on its way, in the custody of its core (R94, R189). -/
def withAdd (c : Nat) (ref : CRef) (v : Word) (rel : Nat) (s : State) : State :=
  let u := s.inCustody (s.job c).part c 1 0
  { u with outq := u.outq ++ [⟨c, (s.job c).id, agentNo s.cur, .add ref v rel⟩] }

theorem queueAdd_user {c : Nat} {e : Eng} (hc : s.cur = .stream c e) (ref : CRef) (v : Word) (rel : Nat) :
    queueAdd ref v rel s = .ok () (withAdd c ref v rel s) := by
  have hcore : s.cur.coreNo = c := congrArg Agent.coreNo hc
  have huser : s.cur.isUser = true := congrArg Agent.isUser hc
  unfold queueAdd
  rw [get_then, if_pos huser, hcore, custody_then]
  rfl

end

section
variable {x : Args} {a d : Word} {s s1 s2 t : State} (ha : readSrc 1 x.a s = .ok a s1) (hd : readSrc 0 x.d s1 = .ok d s2)
include ha hd

/-! The reference (R393). -/

theorem memOperands_misaligned (hal : Word.bits (a + x.imm.signExtend 64) 0 3 ≠ 0)
    (h : takeException s2.cur 0x143#10 (.at (a + x.imm.signExtend 64)) s2 = .ok () t) : memOperands x s = .error .done t := by
  unfold memOperands
  rw [bind_ok ha, bind_ok hd, if_pos hal]
  exact trapWith_run h

section
variable (hal : Word.bits (a + x.imm.signExtend 64) 0 3 = 0)
include hal

theorem memOperands_aligned : memOperands x s = .ok (a + x.imm.signExtend 64, d) s2 := by
  unfold memOperands
  rw [bind_ok ha, bind_ok hd, if_neg (not_not_intro hal), pure_run]

/-! CADD.M (R395). -/

theorem addMemCounter_queues {c pa : Nat} {e : Eng} (hc : s2.cur = .stream c e)
    (hm : memRef (a + x.imm.signExtend 64) s2 = .ok (.here pa) s2) (hrel : x.mod.getLsbD 3 = false)
    (hf : (s2.hart s2.cur).fenceRel = none) :
    addMemCounter x s = .ok () ((withAdd c (.mem (a + x.imm.signExtend 64)) d 0 s2).withHart fun h => h.past 1) := by
  unfold addMemCounter
  rw [bind_ok (memOperands_aligned ha hd hal)]
  refine (bind_ok hm).trans ((bind_ok (addRelease_none hrel hf)).trans ?_)
  exact (bind_ok (queueAdd_user hc _ d 0)).trans (retire_one _)

/-! CWAIT.M (R395, R396). -/

section
variable {pa : Nat} {s3 : State} (hm : memRef (a + x.imm.signExtend 64) s2 = .ok (.here pa) s2) (hadds : afterAdds pa 8 s2 = .ok () s3)
  (hp : (s3.mcounter pa).poison = none) (hx : exitCheck (s3.block pa) s3 = .ok none s3)
include hm hadds hp hx

theorem waitMemCounter_run :
    waitMemCounter x s = (if d.ule (s3.word pa) then waitDone (acqOf x) (s3.mcounter pa).rels
      else blockAt .memWait ⟨.mem (a + x.imm.signExtend 64), false, d.toNat, acqOf x⟩) s3 := by
  unfold waitMemCounter
  rw [bind_ok (memOperands_aligned ha hd hal)]
  refine (bind_ok hm).trans ((bind_ok hadds).trans ?_)
  rw [get_then, hp]
  exact bind_ok (checkedWord_run _ hx)

theorem waitMemCounter_met (hmet : d.toNat ≤ (s3.word pa).toNat) (hplain : x.mod.getLsbD 3 = false) :
    waitMemCounter x s = .ok () ((s3.withHart fun h => { h with lastWait := (s3.mcounter pa).rels }).withHart fun h => h.past 1) := by
  have hlevel : d.ule (s3.word pa) = true := decide_eq_true hmet
  rw [waitMemCounter_run ha hd hal hm hadds hp hx, if_pos hlevel, acqOf_plain hplain]
  exact waitDone_plain _ s3

theorem waitMemCounter_unmet (hunmet : (s3.word pa).toNat < d.toNat) :
    waitMemCounter x s = .error .done (s3.withHart fun h => { h with
      blocked := .memWait, wait := some ⟨.mem (a + x.imm.signExtend 64), false, d.toNat, acqOf x⟩, restart := h.restartHere }) := by
  have hlevel : d.ule (s3.word pa) = false := decide_eq_false (Nat.not_le.mpr hunmet)
  rw [waitMemCounter_run ha hd hal hm hadds hp hx, hlevel, if_neg Bool.false_ne_true, blockAt_run]

end

/-! WAITA (R395, R396). -/

section
variable {v : Word} {rels : Option (List Rel)} {s3 : State} (hw : currentWord (a + x.imm.signExtend 64) s2 = .ok (v, rels) s3)
include hw

theorem waitWord_met (hmet : d.toNat ≤ v.toNat) (hplain : x.mod.getLsbD 3 = false) :
    waitWord x s = .ok () ((s3.withHart fun h => { h with lastWait := [] }).withHart fun h => h.past 1) := by
  unfold waitWord waitWordAt
  rw [bind_ok (memOperands_aligned ha hd hal)]
  refine (bind_ok hw).trans ?_
  dsimp only
  rw [if_pos hmet, acqOf_plain hplain]
  cases rels
  · exact waitDone_plain [] s3
  · exact waitDone_plain [] s3

theorem waitWord_unmet (hunmet : v.toNat < d.toNat) :
    waitWord x s = .error .done (s3.withHart fun h => { h with
      blocked := .memWait, wait := some ⟨.mem (a + x.imm.signExtend 64), true, d.toNat, acqOf x⟩, restart := h.restartHere }) := by
  unfold waitWord waitWordAt
  rw [bind_ok (memOperands_aligned ha hd hal)]
  refine (bind_ok hw).trans ?_
  dsimp only
  rw [if_neg (Nat.not_le.mpr hunmet), blockAt_run]

end

end

end

theorem memoryCounters_misaligned : ∀ i ∈ [Instr.caddM, .cwaitM, .waita], ∀ x s a d s1 s2 t, Issues (i x) s →
    readSrc 1 x.a s = .ok a s1 → readSrc 0 x.d s1 = .ok d s2 → Word.bits (a + x.imm.signExtend 64) 0 3 ≠ 0 →
    takeException s2.cur 0x143#10 (.at (a + x.imm.signExtend 64)) s2 = .ok () t → exec (i x) s = .next t := by
  simp only [List.forall_mem_cons, List.not_mem_nil, false_implies, implies_true, and_true]
  refine ⟨?caddM, ?cwaitM, ?waita⟩
  all_goals
    exact fun _ _ _ _ _ _ _ hi ha hd hal h =>
      (run_issues hi rfl rfl).trans (runExec_error (bind_error (memOperands_misaligned ha hd hal h)))

/-- Settles O26: each instruction is run on its program, one equation per case of the rules. -/
theorem memoryCounterResults : Obligations.MemoryCounterResults :=
  ⟨fun _ _ _ _ _ _ _ _ _ hi ha hd hc hal hm hrel hf =>
     (run_issues hi rfl rfl).trans (runExec_ok (addMemCounter_queues ha hd hal hc hm hrel hf)),
   fun _ _ _ _ _ _ _ _ hi ha hd hal hm hadds hp hx =>
     ⟨fun hmet hplain => (run_issues hi rfl rfl).trans (runExec_ok (waitMemCounter_met ha hd hal hm hadds hp hx hmet hplain)),
      fun hunmet => (run_issues hi rfl rfl).trans (runExec_error (waitMemCounter_unmet ha hd hal hm hadds hp hx hunmet))⟩,
   fun _ _ _ _ _ _ _ _ _ hi ha hd hal hw =>
     ⟨fun hmet hplain => (run_issues hi rfl rfl).trans (runExec_ok (waitWord_met ha hd hal hw hmet hplain)),
      fun hunmet => (run_issues hi rfl rfl).trans (runExec_error (waitWord_unmet ha hd hal hw hunmet))⟩,
   memoryCounters_misaligned⟩

end Sys2Proof.Laws
end

section
/-! The work deque (R400, R401): a push at the tail, a pop from the tail, a steal from the head, and the status guard. -/
namespace Sys2Proof.Laws
open Sys2Proof.Machine

/-- A change of a core's job is told by the job that it leaves. -/
theorem updJob_congr {s : State} {c : Nat} {f g : Job → Job} (h : f (s.job c) = g (s.job c)) : s.updJob c f = s.updJob c g :=
  congrArg (fun j => s.setCore c { s.core c with job := j }) h

section
variable {x : Args} {n : Nat} (hn : Sel.ofCode x.c = .g n)
include hn

theorem setStatus_run (b : Bool) (s : State) : setStatus x b s = .ok () (s.withHart fun h => h.setG n b) := by
  have hwrite := writeDst_guard hn (boolWord b) s
  rw [boolWord_ne_zero] at hwrite
  exact hwrite

theorem notTaken_run (s : State) : notTaken x s = .ok () ((s.withHart fun h => h.setG n false).withHart fun h => h.past 1) :=
  (bind_ok (setStatus_run hn false s)).trans (retire_one _)

section
variable {s t : State} (hplain : x.mod.getLsbD 3 = false)
include hplain

theorem taken_run {e : Word × List Rel} (h : finish x.d e.1 (s.withHart fun h => h.setG n true) = .ok () t) : taken x e s = .ok () t := by
  have hrel : relOf x = false := hplain
  unfold taken
  rw [bind_ok (setStatus_run hn true s), get_then, hrel]
  exact h

/-! DQPUSH (R400). -/

theorem dequePush_room {a : Word} {s1 : State} (ha : readSrc 1 x.a s = .ok a s1) (hroom : (s1.job s1.cur.coreNo).deque.length < 256) :
    dequePush x s = .ok () (((s1.updJob s1.cur.coreNo fun j => { j with deque := j.deque ++ [(a, [])] }).withHart
      fun h => h.setG n true).withHart fun h => h.past 1) := by
  have hrel : relOf x = false := hplain
  unfold dequePush pushDeque
  rw [bind_ok ha, hrel, Bool.not_false, if_pos rfl, curJob_then, curCore_then, if_pos hroom]
  exact (bind_ok ((bind_ok (updJob_run ..)).trans (setStatus_run hn true _))).trans (retire_one _)

theorem dequePush_full {a : Word} {s1 : State} (ha : readSrc 1 x.a s = .ok a s1) (hfull : 256 ≤ (s1.job s1.cur.coreNo).deque.length) :
    dequePush x s = .ok () ((s1.withHart fun h => h.setG n false).withHart fun h => h.past 1) := by
  have hrel : relOf x = false := hplain
  unfold dequePush pushDeque
  rw [bind_ok ha, hrel, Bool.not_false, if_pos rfl, curJob_then, curCore_then, if_neg (Nat.not_lt.mpr hfull)]
  exact (bind_ok (setStatus_run hn false s1)).trans (retire_one _)

/-! DQPOP and DQSTEAL (R401). -/

theorem dequePop_takes {e : Word × List Rel} {rest : List (Word × List Rel)} (hq : (s.job s.cur.coreNo).deque = rest ++ [e])
    (h : finish x.d e.1 ((s.updJob s.cur.coreNo fun j => { j with deque := rest }).withHart fun h => h.setG n true) = .ok () t) :
    dequePop x s = .ok () t := by
  have hlast : (s.job s.cur.coreNo).deque.getLast? = some e := by rw [hq, List.getLast?_concat]
  have htail : s.updJob s.cur.coreNo (fun j => { j with deque := j.deque.dropLast }) =
      s.updJob s.cur.coreNo fun j => { j with deque := rest } := updJob_congr (by rw [hq, List.dropLast_concat])
  unfold dequePop
  rw [curJob_then, curCore_then, hlast]
  dsimp only
  rw [updJob_then, htail]
  exact taken_run hn hplain h

theorem dequeSteal_takes {a : Word} {s1 : State} {v : Nat} {e : Word × List Rel} {rest : List (Word × List Rel)}
    (ha : readSrc 1 x.a s = .ok a s1) (h32 : a.toNat < 32)
    (hv : s1.victimOk s1.cur.coreNo ((s1.job s1.cur.coreNo).lcore / 32 * 32 + a.toNat) = some v) (hq : (s1.job v).deque = e :: rest)
    (h : finish x.d e.1 ((s1.updJob v fun j => { j with deque := rest, dqHead := (j.dqHead + 1) % 256 }).withHart fun h => h.setG n true) =
      .ok () t) : dequeSteal x s = .ok () t := by
  unfold dequeSteal
  rw [bind_ok ha, if_neg (Nat.not_le.mpr h32), get_then]
  simp only [hv, hq]
  exact (bind_ok (updJob_run ..)).trans (taken_run hn hplain h)

end

theorem dequePop_empty {s : State} (hq : (s.job s.cur.coreNo).deque = []) :
    dequePop x s = .ok () ((s.withHart fun h => h.setG n false).withHart fun h => h.past 1) := by
  unfold dequePop
  rw [curJob_then, curCore_then, hq]
  exact notTaken_run hn s

theorem dequeSteal_none {a : Word} {s s1 : State} (ha : readSrc 1 x.a s = .ok a s1) (h32 : a.toNat < 32)
    (hv : s1.victimOk s1.cur.coreNo ((s1.job s1.cur.coreNo).lcore / 32 * 32 + a.toNat) = none) :
    dequeSteal x s = .ok () ((s1.withHart fun h => h.setG n false).withHart fun h => h.past 1) := by
  unfold dequeSteal
  rw [bind_ok ha, if_neg (Nat.not_le.mpr h32), get_then]
  simp only [hv]
  exact notTaken_run hn s1

end

/-- Settles O28: each instruction is run on its program, one equation per case of the rules. -/
theorem dequeResults : Obligations.DequeResults :=
  ⟨fun _ _ _ _ _ hi ha hplain hn hroom => (run_issues hi rfl rfl).trans (runExec_ok (dequePush_room hn hplain ha hroom)),
   fun _ _ _ _ _ hi ha hplain hn hfull => (run_issues hi rfl rfl).trans (runExec_ok (dequePush_full hn hplain ha hfull)),
   fun _ _ _ _ _ _ _ hi hplain hn hq h => (run_issues hi rfl rfl).trans (runExec_ok (dequePop_takes hn hplain hq h)),
   fun _ _ _ hi hn hq => (run_issues hi rfl rfl).trans (runExec_ok (dequePop_empty hn hq)),
   fun _ _ _ _ _ _ _ _ _ _ hi ha h32 hplain hn hv hq h =>
     (run_issues hi rfl rfl).trans (runExec_ok (dequeSteal_takes hn hplain ha h32 hv hq h)),
   fun _ _ _ _ _ hi ha h32 hn hv => (run_issues hi rfl rfl).trans (runExec_ok (dequeSteal_none hn ha h32 hv)),
   fun _ _ _ hi h => (run_issues hi rfl rfl).trans (runExec_ok h)⟩

end Sys2Proof.Laws
end

section
/-! Tile arithmetic (R426–R430): the elements of TBIN, TTRI and TUNA by type, and the members that run over their destination's rows. -/
namespace Sys2Proof.Laws
open Sys2Proof.Machine

/-! Classes of element types (R242): an element-wise result is by component, in a float format or on integers by the type's class. -/

section
variable {t : Nat}

theorem isCPX_of_isINTA (h : isINTA t = true) : isCPX t = false := by
  simp only [isINTA, isINTS, Bool.and_eq_true, decide_eq_true_eq] at h
  simp only [isCPX, Bool.or_eq_false_iff, beq_eq_false_iff_ne]
  omega

theorem isFloat_of_isINTA (h : isINTA t = true) : isFloat t = false := by
  simp only [isINTA, isINTS, Bool.and_eq_true, decide_eq_true_eq] at h
  simp only [isFloat, decide_eq_false_iff_not]
  omega

theorem isCPX_of_isFPA (h : isFPA t = true) : isCPX t = false := by
  simp only [isFPA, decide_eq_true_eq] at h
  simp only [isCPX, Bool.or_eq_false_iff, beq_eq_false_iff_ne]
  omega

theorem isCPX_of_number (h : (isFPA t || isINTA t) = true) : isCPX t = false :=
  (Bool.or_eq_true _ _ ▸ h).elim isCPX_of_isFPA isCPX_of_isINTA

end

/-! Element-wise members (R426): the function of the elements matters at the operation type alone. -/

theorem elementwiseRun_congr {i : Args → Instr} {x : Args} {s s1 : State} {srcs : List Src} {ok : Nat → Bool} {f g : List Nat → Nat → Nat}
    (hfg : ∀ es t, ok t = true → f es t = g es t) (hf : Claims.ElementwiseRun i x s s1 srcs ok f) :
    Claims.ElementwiseRun i x s s1 srcs ok g := by
  intro dst s2 t hdst htype hserves hshape hoverlap hrun
  refine hf dst s2 t hdst htype hserves hshape hoverlap ?_
  simp only [hfg _ _ htype]
  exact hrun

section
variable {i : Args → Instr}

/-- A member of a tile source and two that may be scalars, which issues as its program. -/
theorem tileTernary_of {ok : Nat → Bool} {f : Args → Nat → Nat → Nat → Nat → Nat}
    (hexec : ∀ x s, Issues (i x) s →
      exec (i x) s = runExec (tileSrc 1 x.a >>= fun a => bcastSrc 2 x.b >>= fun b => bcastSrc 3 x.c >>= fun c =>
        elementwise x [a, b, c] ok fun es t => f x t (es.getD 0 0) (es.getD 1 0) (es.getD 2 0)) s) :
    Claims.TileTernary i ok f :=
  fun x s _ _ _ _ _ _ hi ha hb hc => elementwiseRun_of (hexec x s hi) ((bind_ok ha).trans ((bind_ok hb).trans (bind_ok hc)))

/-- The member of TBIN with function number `fn`: its result is `binElem`'s at each of the types it accepts. -/
theorem tileBinary_binElem (fn : Nat) {f : Args → Nat → Nat → Nat → Nat}
    (hexec : ∀ x s, Issues (i x) s → exec (i x) s = runExec (tileBin fn x) s)
    (hf : ∀ x t a b, binTypes fn t = true → binElem t fn (rmOf x) (satOf x) a b = f x t a b) : Claims.TileBinary i (binTypes fn) f :=
  fun x s _ _ _ _ hi ha hb => elementwiseRun_congr (fun _ _ ht => hf x _ _ _ ht)
    (elementwiseRun_of (hexec x s hi) ((bind_ok ha).trans (bind_ok hb)))

/-- The member of TUNA with function number `fn`: its result is `unaElem`'s at each of the types it accepts. -/
theorem tileUnary_unaElem (fn : Nat) {f : Args → Nat → Nat → Nat}
    (hexec : ∀ x s, Issues (i x) s → exec (i x) s = runExec (tileUna fn x) s)
    (hf : ∀ x t a, unaTypes fn t = true → unaElem t fn (rmOf x) (satOf x) a = f x t a) : Claims.TileUnary i (unaTypes fn) f :=
  fun x s _ _ hi ha => elementwiseRun_congr (fun _ _ ht => hf x _ _ ht) (elementwiseRun_of (hexec x s hi) (bind_ok ha))

end

/-! TBIN (R426–R428). -/

/-- On integer types TBIN is its integer part: what the members of logic and shifts rest on. -/
theorem binElem_of_isINTA {t : Nat} (fn rm : Nat) (sat : Bool) (a b : Nat) (h : isINTA t = true) :
    binElem t fn rm sat a b = binInt t fn sat a b := by
  simp only [binElem, isCPX_of_isINTA h, isFloat_of_isINTA h, Bool.false_eq_true, if_false]

theorem tileBinaryResults : Claims.TileBinaryResults := by
  refine ⟨?tadd, ?tsub, ?tmul, ?tdiv, ?tmin, ?tmax, ?tand, ?tor, ?txor, ?tshl, ?tshr, ?tabsd⟩
  case tadd => exact tileBinary_binElem 0 (fun _ _ hi => run_issues hi rfl rfl) fun _ _ _ _ _ => rfl
  case tsub => exact tileBinary_binElem 1 (fun _ _ hi => run_issues hi rfl rfl) fun _ _ _ _ _ => rfl
  case tmul => exact tileBinary_binElem 2 (fun _ _ hi => run_issues hi rfl rfl) fun _ _ _ _ _ => rfl
  case tdiv => exact tileBinary_binElem 3 (fun _ _ hi => run_issues hi rfl rfl) fun _ _ _ _ _ => rfl
  case tmin => exact tileBinary_binElem 4 (fun _ _ hi => run_issues hi rfl rfl) fun _ _ _ _ _ => rfl
  case tmax => exact tileBinary_binElem 5 (fun _ _ hi => run_issues hi rfl rfl) fun _ _ _ _ _ => rfl
  case tand => exact tileBinary_binElem 6 (fun _ _ hi => run_issues hi rfl rfl) fun _ _ _ _ => binElem_of_isINTA 6 _ _ _ _
  case tor => exact tileBinary_binElem 7 (fun _ _ hi => run_issues hi rfl rfl) fun _ _ _ _ => binElem_of_isINTA 7 _ _ _ _
  case txor => exact tileBinary_binElem 8 (fun _ _ hi => run_issues hi rfl rfl) fun _ _ _ _ => binElem_of_isINTA 8 _ _ _ _
  case tshl => exact tileBinary_binElem 9 (fun _ _ hi => run_issues hi rfl rfl) fun _ _ _ _ => binElem_of_isINTA 9 _ _ _ _
  case tshr => exact tileBinary_binElem 10 (fun _ _ hi => run_issues hi rfl rfl) fun _ _ _ _ => binElem_of_isINTA 10 _ _ _ _
  case tabsd => exact tileBinary_binElem 11 (fun _ _ hi => run_issues hi rfl rfl) fun _ _ _ _ _ => rfl

/-! TTRI (R429). -/

theorem tileTernaryResults : Claims.TileTernaryResults := by
  refine ⟨?tfma, ?tfms, ?tfnma, ?tsel⟩
  case tfma => exact tileTernary_of (f := fun x t => triElem t 0 (rmOf x) (satOf x)) fun _ _ hi => run_issues hi rfl rfl
  case tfms => exact tileTernary_of (f := fun x t => triElem t 1 (rmOf x) (satOf x)) fun _ _ hi => run_issues hi rfl rfl
  case tfnma => exact tileTernary_of (f := fun x t => triElem t 2 (rmOf x) (satOf x)) fun _ _ hi => run_issues hi rfl rfl
  case tsel =>
    intro x s a b c s1 s2 s3 dst s4 t hi ha hb hc hdst _ htype hshape hoverlap hrun
    refine (run_issues hi rfl rfl).trans (runExec_ok ?_)
    unfold tileSel
    rw [bind_ok ha, bind_ok hb, bind_ok hc, bind_ok hdst, needType_then _ htype, needShape_then _ hshape, bind_ok hoverlap]
    exact hrun

/-- Settles O34: the results of the rules are `binElem` and `triElem` at the members' function numbers and types. -/
theorem tileArithmeticResults : Obligations.TileArithmeticResults := ⟨tileBinaryResults, tileTernaryResults⟩

/-! TUNA (R430, R343). -/

section
variable {t : Nat} (rm : Nat) (sat : Bool) (a : Nat)

/-- The absolute value is that of a float format or of an integer: it is no member of complex types. -/
theorem unaElem_abs (h : unaTypes 0 t = true) :
    unaElem t 0 rm sat a = if isFloat t then signElem (fmtOf t) false a else cvtInt t sat (intVal t a).natAbs := by
  unfold unaElem
  rw [isCPX_of_number h]
  rfl

variable (h : (t == 1 || t == 2 || t == 3) = true)
include h

/-- FP32, BF16 and FP16 are float formats that are not complex. -/
theorem float_of_isSpecialType : isCPX t = false ∧ isFloat t = true := by
  simp only [Bool.or_eq_true, beq_iff_eq] at h
  rcases h with (rfl | rfl) | rfl <;> exact ⟨rfl, rfl⟩

theorem unaElem_sqrt : unaElem t 2 rm sat a = ((fmtOf t).round rm sat (FV.sqrt ((fmtOf t).val a))).1 := by
  obtain ⟨hcpx, hfloat⟩ := float_of_isSpecialType h
  simp only [unaElem, hcpx, hfloat, Bool.false_eq_true, if_false, if_true]

theorem unaElem_rcp : unaElem t 3 rm sat a = ((fmtOf t).round rm sat (FV.div (.fin false 1 0) ((fmtOf t).val a))).1 := by
  obtain ⟨hcpx, hfloat⟩ := float_of_isSpecialType h
  simp only [unaElem, hcpx, hfloat, Bool.false_eq_true, if_false, if_true]

/-- R343: from FN 4 on, a member is the special function of its number. -/
theorem unaElem_special (fn : Nat) : unaElem t (fn + 4) rm sat a = specialResult (fn + 4) t sat a := by
  obtain ⟨hcpx, hfloat⟩ := float_of_isSpecialType h
  simp only [unaElem, hcpx, hfloat, Bool.false_eq_true, if_false, if_true]

end

/-- A transcendental member: TUNA's with function number `fn + 4`. -/
theorem tileUnary_special {i : Args → Instr} (fn : Nat)
    (hexec : ∀ x s, Issues (i x) s → exec (i x) s = runExec (tileUna (fn + 4) x) s) :
    Claims.TileUnary i (fun t => t == 1 || t == 2 || t == 3) fun x t a => specialResult (fn + 4) t (satOf x) a :=
  tileUnary_unaElem (fn + 4) hexec fun _ _ _ ht => unaElem_special _ _ _ ht fn

/-- Settles O35: the results of the rules are `unaElem` at the members' function numbers and types. -/
theorem tileUnaryResults : Obligations.TileUnaryResults := by
  refine ⟨?tabs, ?tneg, ?tsqrt, ?trcp, ?trsq, ?texp2, ?texp, ?tlog2, ?tln, ?tsin, ?tcos, ?ttanh, ?tsigm⟩
  case tabs => exact tileUnary_unaElem 0 (fun _ _ hi => run_issues hi rfl rfl) fun _ _ _ ht => unaElem_abs _ _ _ ht
  case tneg => exact tileUnary_unaElem 1 (fun _ _ hi => run_issues hi rfl rfl) fun _ _ _ _ => rfl
  case tsqrt => exact tileUnary_unaElem 2 (fun _ _ hi => run_issues hi rfl rfl) fun _ _ _ ht => unaElem_sqrt _ _ _ ht
  case trcp => exact tileUnary_unaElem 3 (fun _ _ hi => run_issues hi rfl rfl) fun _ _ _ ht => unaElem_rcp _ _ _ ht
  case trsq => exact tileUnary_special 0 fun _ _ hi => run_issues hi rfl rfl
  case texp2 => exact tileUnary_special 1 fun _ _ hi => run_issues hi rfl rfl
  case texp => exact tileUnary_special 2 fun _ _ hi => run_issues hi rfl rfl
  case tlog2 => exact tileUnary_special 3 fun _ _ hi => run_issues hi rfl rfl
  case tln => exact tileUnary_special 4 fun _ _ hi => run_issues hi rfl rfl
  case tsin => exact tileUnary_special 5 fun _ _ hi => run_issues hi rfl rfl
  case tcos => exact tileUnary_special 6 fun _ _ hi => run_issues hi rfl rfl
  case ttanh => exact tileUnary_special 7 fun _ _ hi => run_issues hi rfl rfl
  case tsigm => exact tileUnary_special 8 fun _ _ hi => run_issues hi rfl rfl

end Sys2Proof.Laws
end

section
/-! Tile conversions, reductions, scans, rearrangement, movement, and tiles in memory (R421–R425, R433–R439), member by member: each reads
its operands, passes its checks and runs over its destination's rows. -/
namespace Sys2Proof.Laws
open Sys2Proof.Machine

/-! Operands and checks (R412, R414): what most members do before they run. -/

section
variable {x : Args} {s s1 s2 s3 t : State} {a b : Src} {dst : Dst} {cross : Bool}

/-- A member of one tile source: its operands in order, its types, its shape, its overlap, then its run. -/
theorem oneSource_run {types shape : Src → Dst → Bool} {body : Src → Dst → Exec Unit} (ha : tileSrc 1 x.a s = .ok a s1)
    (hdst : tileDst x s1 = .ok dst s2) (htype : types a dst = true) (hshape : shape a dst = true)
    (hoverlap : checkOverlap dst [a] cross s2 = .ok () s2) (hrun : body a dst s2 = .ok () t) :
    (do
      let a ← tileSrc 1 x.a
      let dst ← tileDst x
      needType (types a dst)
      needShape (shape a dst)
      checkOverlap dst [a] cross
      body a dst) s = .ok () t := by
  rw [bind_ok ha, bind_ok hdst, needType_then _ htype, needShape_then _ hshape, bind_ok hoverlap, hrun]

/-- The same of a member of two tile sources. -/
theorem twoSources_run {types shape : Src → Src → Dst → Bool} {body : Src → Src → Dst → Exec Unit} (ha : tileSrc 1 x.a s = .ok a s1)
    (hb : tileSrc 2 x.b s1 = .ok b s2) (hdst : tileDst x s2 = .ok dst s3) (htype : types a b dst = true) (hshape : shape a b dst = true)
    (hoverlap : checkOverlap dst [a, b] cross s3 = .ok () s3) (hrun : body a b dst s3 = .ok () t) :
    (do
      let a ← tileSrc 1 x.a
      let b ← tileSrc 2 x.b
      let dst ← tileDst x
      needType (types a b dst)
      needShape (shape a b dst)
      checkOverlap dst [a, b] cross
      body a b dst) s = .ok () t := by
  rw [bind_ok ha, bind_ok hb, bind_ok hdst, needType_then _ htype, needShape_then _ hshape, bind_ok hoverlap, hrun]

end

theorem beq_and_of {a b : Nat} {c : Bool} (h : a = b) (k : c = true) : (a == b && c) = true := by
  rw [h, k, beq_self_eq_true]
  rfl

/-! Conversions (R433, R434). -/

/-- R434: the types of a conversion by a scale. -/
theorem scaleTypes_ok {t bt dt : Nat} (hb : bt = 9 ∨ bt = 4) (ht : isReal t = true) (ht9 : t ≠ 9) (hd : isReal dt = true) (hd9 : dt ≠ 9) :
    ((bt == 9 || bt == 4) && isReal t && t != 9 && isReal dt && dt != 9) = true := by
  simp only [ht, hd, Bool.and_true, Bool.and_eq_true, Bool.or_eq_true, beq_iff_eq, bne_iff_ne]
  exact ⟨⟨hb, ht9⟩, hd9⟩

/-- TCVT.SC divides by the scale and TDQ multiplies with it. -/
theorem exec_tileScale : ∀ p ∈ [(Instr.tcvtSc, FV.div), (Instr.tdq, FV.mul)], ∃ mul, p.2 = (if mul then FV.mul else FV.div) ∧
    ∀ x s, Issues (p.1 x) s → exec (p.1 x) s = runExec (tileScale mul x) s := by
  simp only [List.forall_mem_cons, List.not_mem_nil, false_implies, implies_true, and_true]
  exact ⟨⟨false, rfl, fun _ _ hi => run_issues hi rfl rfl⟩, ⟨true, rfl, fun _ _ hi => run_issues hi rfl rfl⟩⟩

theorem tileConvertResults : Claims.TileConvertResults := by
  refine ⟨?tcvt, ?scaled⟩
  case tcvt =>
    intro x s a s1 dst s2 t hi ha hdst d typ htype hcpx hshape hoverlap hrun
    have htypes : (typOk a.desc.typ && isCPX a.desc.typ == isCPX dst.desc.typ) = true := by
      rw [htype, hcpx]
      exact beq_self_eq_true _
    exact (run_issues hi rfl rfl).trans (runExec_ok (oneSource_run ha hdst htypes hshape hoverlap hrun))
  case scaled =>
    intro p hp x s a b s1 s2 dst s3 t hi ha hb hdst d typ g sh hscale htype htype9 hdtype hdtype9 hbshape hashape hoverlap hrun
    obtain ⟨mul, hop, hexec⟩ := exec_tileScale p hp
    rw [hop] at hrun
    exact (hexec x s hi).trans (runExec_ok (twoSources_run ha hb hdst (scaleTypes_ok hscale htype htype9 hdtype hdtype9)
      (Bool.and_eq_true_iff.mpr ⟨hbshape, hashape⟩) hoverlap hrun))

/-! Reductions and scans (R435–R437). -/

theorem exec_tileRows : ∀ p ∈ [(Instr.trsum, 0), (Instr.trmax, 1), (Instr.trmin, 2)], ∀ x s, Issues (p.1 x) s →
    exec (p.1 x) s = runExec (tileRows p.2 x) s := by
  simp only [List.forall_mem_cons, List.not_mem_nil, false_implies, implies_true, and_true]
  exact ⟨fun _ _ hi => run_issues hi rfl rfl, fun _ _ hi => run_issues hi rfl rfl, fun _ _ hi => run_issues hi rfl rfl⟩

theorem exec_tileCols : ∀ p ∈ [(Instr.tcsum, 0), (Instr.tcmax, 1), (Instr.tcmin, 2)], ∀ x s, Issues (p.1 x) s →
    exec (p.1 x) s = runExec (tileCols p.2 x) s := by
  simp only [List.forall_mem_cons, List.not_mem_nil, false_implies, implies_true, and_true]
  exact ⟨fun _ _ hi => run_issues hi rfl rfl, fun _ _ hi => run_issues hi rfl rfl, fun _ _ hi => run_issues hi rfl rfl⟩

theorem exec_tileScan : ∀ p ∈ [(Instr.tscanAdd, false), (Instr.tscanMax, true)], ∀ x s, Issues (p.1 x) s →
    exec (p.1 x) s = runExec (tileScan p.2 x) s := by
  simp only [List.forall_mem_cons, List.not_mem_nil, false_implies, implies_true, and_true]
  exact ⟨fun _ _ hi => run_issues hi rfl rfl, fun _ _ hi => run_issues hi rfl rfl⟩

theorem tileReduceResults : Claims.TileReduceResults := by
  refine ⟨?rows, ?cols, ?scans⟩
  case rows =>
    intro p hp x s a s1 dst s2 t hi ha hdst d q w htype hrows hcols hoverlap hrun
    exact (exec_tileRows p hp x s hi).trans (runExec_ok
      (oneSource_run ha hdst htype (beq_and_of hrows (beq_iff_eq.mpr hcols)) hoverlap hrun))
  case cols =>
    intro p hp x s a s1 dst s2 t hi ha hdst d q htype hrows hcols hoverlap hrun
    exact (exec_tileCols p hp x s hi).trans (runExec_ok
      (oneSource_run ha hdst htype (beq_and_of hrows (beq_iff_eq.mpr hcols)) hoverlap hrun))
  case scans =>
    intro p hp x s a s1 dst s2 t hi ha hdst d q htype hrows hcols hoverlap hrun
    exact (exec_tileScan p hp x s hi).trans (runExec_ok
      (oneSource_run ha hdst htype (beq_and_of hrows (beq_iff_eq.mpr hcols)) hoverlap hrun))

/-- Settles O37: each member reads its sources, passes its checks and runs over its destination's rows. -/
theorem tileConvertAndReduceResults : Obligations.TileConvertAndReduceResults := ⟨tileConvertResults, tileReduceResults⟩

/-! TPERM (R438). -/

section
variable {dst : Dst} {a : Src} (h : a.desc.typ = dst.desc.typ ∧ typOk dst.desc.typ = true)
include h

/-- R438: A and D have one TYPE. -/
theorem moveTypes_ok : (a.desc.typ == dst.desc.typ && typOk dst.desc.typ && true) = true := by
  rw [Bool.and_true]
  exact beq_and_of h.1 h.2

/-- R438: an index tile has an integer TYPE. -/
theorem moveTypes_index_ok {b : Src} (hb : isINTA b.desc.typ = true) :
    (a.desc.typ == dst.desc.typ && typOk dst.desc.typ && isINTA b.desc.typ) = true := by
  rw [hb]
  exact moveTypes_ok h

end

theorem tilePermuteResults : Claims.TilePermuteResults := by
  refine ⟨?ttrn, ?tperm, ?tshuf, ?tgath, ?tscat, ?tbcr, ?tbcc, ?tbcs⟩
  case ttrn =>
    intro x s a s1 dst s2 t hi ha hdst htypes hshape hoverlap hrun
    exact (run_issues hi rfl rfl).trans (runExec_ok (oneSource_run ha hdst (moveTypes_ok htypes) hshape hoverlap hrun))
  case tperm =>
    intro x s a b s1 s2 dst s3 t hi ha hb hdst htypes hindex hdim hshape hoverlap hrun
    exact (run_issues hi rfl rfl).trans (runExec_ok
      (twoSources_run ha hb hdst (moveTypes_index_ok htypes hindex) (beq_and_of hdim hshape) hoverlap hrun))
  case tshuf =>
    intro x s a b s1 s2 dst s3 t hi ha hb hdst htypes hindex hdim hshape hoverlap hrun
    exact (run_issues hi rfl rfl).trans (runExec_ok
      (twoSources_run ha hb hdst (moveTypes_index_ok htypes hindex) (beq_and_of hdim hshape) hoverlap hrun))
  case tgath =>
    intro x s a b s1 s2 dst s3 t hi ha hb hdst htypes hindex hdim hshape hoverlap hrun
    exact (run_issues hi rfl rfl).trans (runExec_ok
      (twoSources_run ha hb hdst (moveTypes_index_ok htypes hindex) (beq_and_of hdim hshape) hoverlap hrun))
  case tscat =>
    intro x s a b s1 s2 dst s3 t hi ha hb hdst htypes hindex hdim hshape hoverlap hrun
    exact (run_issues hi rfl rfl).trans (runExec_ok
      (twoSources_run ha hb hdst (moveTypes_index_ok htypes hindex) (beq_and_of hdim hshape) hoverlap hrun))
  case tbcr =>
    intro x s a s1 dst s2 t hi ha hdst htypes hshape hoverlap hrun
    exact (run_issues hi rfl rfl).trans (runExec_ok (oneSource_run ha hdst (moveTypes_ok htypes) hshape hoverlap hrun))
  case tbcc =>
    intro x s a s1 dst s2 t hi ha hdst htypes hshape hoverlap hrun
    exact (run_issues hi rfl rfl).trans (runExec_ok (oneSource_run ha hdst (moveTypes_ok htypes) hshape hoverlap hrun))
  case tbcs =>
    intro x s a s1 dst s2 t hi ha hdst htype hrun
    exact (run_issues hi rfl rfl).trans (runExec_ok
      ((bind_ok ha).trans ((bind_ok hdst).trans ((needType_then _ htype).trans hrun))))

/-! TMOV (R439). -/

/-- The origin of the window of TEXT and TINS: its row and its column. -/
theorem origin_run {b : Word} (h : Word.bits b 32 32 = 0) (s : State) : origin b s = .ok (Word.bits b 16 16, Word.bits b 0 16) s := by
  unfold origin
  rw [if_neg (not_not_intro h), pure_run]

theorem tileMoveResults : Claims.TileMoveResults := by
  refine ⟨?tmov, ?text, ?tins, ?tiota, ?tfill⟩
  case tmov =>
    intro x s a s1 dst s2 t hi ha hdst htypes hshape hoverlap hrun
    exact (run_issues hi rfl rfl).trans (runExec_ok (oneSource_run ha hdst (moveTypes_ok htypes) hshape hoverlap hrun))
  case text =>
    intro x s a b s1 s2 dst s3 t hi ha hb hdst htypes horigin hoverlap hrun
    refine (run_issues hi rfl rfl).trans (runExec_ok ?_)
    unfold extract
    rw [bind_ok ha, bind_ok hb, bind_ok hdst, moveTypes, needType_then _ (moveTypes_ok htypes)]
    exact (bind_ok (origin_run horigin s3)).trans ((bind_ok hoverlap).trans hrun)
  case tins =>
    intro x s a b s1 s2 dst s3 t hi ha hb hdst htypes horigin hoverlap hrun
    refine (run_issues hi rfl rfl).trans (runExec_ok ?_)
    unfold insertTile
    rw [bind_ok ha, bind_ok hb, bind_ok hdst, moveTypes, needType_then _ (moveTypes_ok htypes)]
    exact (bind_ok (origin_run horigin s3)).trans ((bind_ok hoverlap).trans hrun)
  case tiota =>
    intro x s a b s1 s2 dst s3 t hi ha hb hdst htype hrun
    exact (run_issues hi rfl rfl).trans (runExec_ok
      ((bind_ok ha).trans ((bind_ok hb).trans ((bind_ok hdst).trans ((needType_then _ htype).trans hrun)))))
  case tfill =>
    intro x s a s1 dst s2 t hi ha hdst htype hrun
    exact (run_issues hi rfl rfl).trans (runExec_ok
      ((bind_ok ha).trans ((bind_ok hdst).trans ((needType_then _ (bne_iff_ne.mpr htype)).trans hrun))))

/-- Settles O38: each member reads its operands, passes its checks and runs over its destination's rows. -/
theorem tilePermuteAndMoveResults : Obligations.TilePermuteAndMoveResults := ⟨tilePermuteResults, tileMoveResults⟩

/-! TLD and TST (R421–R425). -/

/-- R422: a Morton image begins at a multiple of 64. -/
theorem imageChecks_misaligned {x : Args} {d : Desc} {a b : Word} {store : Bool} {s t : State} (hmorton : x.mod.getLsbD 1 = true)
    (h64 : a.toNat % 64 ≠ 0) (h : takeException s.cur 0x143#10 (.at a) s = .ok () t) : imageChecks x d a b store s = .error .done t := by
  unfold imageChecks
  rw [if_pos hmorton, if_pos h64]
  exact trapWith_run h

/-- Settles O39: TLD and TST read their operands, pass the checks of R422 and run over their tile's rows. -/
theorem tileMemoryResults : Obligations.TileMemoryResults := by
  refine ⟨?tld, ?tst, ?misaligned⟩
  case tld =>
    intro x s a b s1 s2 dst s3 t hi ha hb hdst hchecks hrun
    exact (run_issues hi rfl rfl).trans (runExec_ok
      ((bind_ok ha).trans ((bind_ok hb).trans ((bind_ok hdst).trans ((bind_ok hchecks).trans hrun)))))
  case tst =>
    intro x s a b s1 s2 src s3 s4 s5 hi ha hb hsrc d n hchecks hcursor hrows hclear
    refine (run_issues hi rfl rfl).trans (runExec_ok ?_)
    unfold storeTile
    rw [bind_ok ha, bind_ok hb, bind_ok hsrc, bind_ok hchecks, getHart_then, hcursor]
    exact (bind_ok hrows).trans ((get_then ..).trans ((bind_ok hclear).trans (retire_one s5)))
  case misaligned =>
    intro x s a b s1 s2 dst s3 t hi ha hb hdst hmorton h64 h
    exact (run_issues hi rfl rfl).trans (runExec_error
      ((bind_ok ha).trans ((bind_ok hb).trans ((bind_ok hdst).trans (bind_error (imageChecks_misaligned hmorton h64 h))))))

end Sys2Proof.Laws
end

section
/-! ATOM (R484, R485): the operation at its ordering point, and the ten members case by case. -/
namespace Sys2Proof.Laws
open Sys2Proof.Machine

/-- R309, R485: at its ordering point an atomic gives the old value and leaves the new one, where its member has one. -/
theorem atomicAt_run {pa n fn : Nat} {b c : Word} {s t : State} (hexit : exitCheck (s.block pa) s = .ok none s)
    (hnew : Claims.LeavesWord (atomNew fn n (leVal (s.bytes pa n)) b.toNat c.toNat) pa n s t) :
    atomicAt pa n fn b c s = .ok (.ok (leVal (s.bytes pa n))) t := by
  unfold atomicAt
  rw [get_then, bind_ok hexit]
  dsimp only
  cases hv : atomNew fn n (leVal (s.bytes pa n)) b.toNat c.toNat with
  | some v =>
    rw [hv] at hnew
    obtain ⟨r, hwrite⟩ := hnew
    exact bind_ok (bind_ok hwrite)
  | none =>
    rw [hv] at hnew
    exact congrArg _ hnew.symm

/-- A value read by one of two programs, and what follows it. -/
theorem ite_bind_ok {α β : Type} {p : Prop} [Decidable p] {y z : Exec α} {g : α → Exec β} {v : α} {s t : State}
    (h : (if p then y else z) s = .ok v t) : (if p then y >>= g else z >>= g) s = g v t := by
  by_cases hp : p
  · rw [if_pos hp] at h ⊢
    exact bind_ok h
  · rw [if_neg hp] at h ⊢
    exact bind_ok h

section
variable {x : Args} {fn : Nat} {a b c : Word} {s s1 s2 s3 : State} (ha : readSrc 1 x.a s = .ok a s1) (hb : readSrc 2 x.b s1 = .ok b s2)
  (hc : (if fn = 9 then readSrc 3 x.c else pure 0#64) s2 = .ok c s3)
include ha hb hc

/-- R484: a reference that is not aligned to the member's width. -/
theorem atomic_misaligned {t : State} (hal : a.toNat % (if x.mod.getLsbD 0 then 4 else 8) ≠ 0)
    (h : takeException s3.cur 0x208#10 (.at a) s3 = .ok () t) : atomic fn x s = .error .done t := by
  unfold atomic
  rw [bind_ok ha, bind_ok hb, ite_bind_ok hc]
  dsimp only
  rw [if_pos hal]
  exact trapWith_run h

/-- R485: an aligned reference to a word served here. -/
theorem atomic_here {pa old : Nat} {s4 s5 s6 t : State} (hal : a.toNat % (if x.mod.getLsbD 0 then 4 else 8) = 0)
    (hplace : atomPlaceOf s3.cur a s3 = .ok (.ok (.here pa)) s4)
    (hadds : afterAdds pa (if x.mod.getLsbD 0 then 4 else 8) s4 = .ok () s5)
    (hat : atomicAt pa (if x.mod.getLsbD 0 then 4 else 8) fn b c s5 = .ok (.ok old) s6)
    (h : finish x.d (BitVec.ofNat 64 old) s6 = .ok () t) : atomic fn x s = .ok () t := by
  unfold atomic
  rw [bind_ok ha, bind_ok hb, ite_bind_ok hc]
  dsimp only
  rw [if_neg (not_not_intro hal), get_then, bind_ok hplace]
  dsimp only
  rw [bind_ok hadds, bind_ok hat]
  exact h

end

/-- The member of ATOM with function number `fn`: its new word is `atomNew`'s, and CAS, number 9, alone reads C. -/
theorem atomic_of {i : Args → Instr} {cas : Bool} {f : (w old b c : Nat) → Option Nat} (fn : Nat) (hcas : cas = decide (fn = 9))
    (hexec : ∀ x s, Issues (i x) s → exec (i x) s = runExec (atomic fn x) s)
    (hf : ∀ n old b c, atomNew fn n old b c = f (8 * n) old (b % 2 ^ (8 * n)) (c % 2 ^ (8 * n))) : Claims.Atomic i cas f := by
  intro x s a b s1 s2 hi ha hb c s3 hc n
  have hread : (if fn = 9 then readSrc 3 x.c else pure 0#64) s2 = .ok c s3 := by
    by_cases h9 : fn = 9
    · rw [hcas, decide_eq_true h9] at hc
      rw [if_pos h9]
      exact hc
    · rw [hcas, decide_eq_false h9] at hc
      obtain ⟨rfl, rfl⟩ := hc
      rw [if_neg h9, pure_run]
  refine ⟨fun hal pa s4 s5 s6 t hplace hadds hexit hnew hfinish => ?here, fun hal t h => ?misaligned⟩
  case here =>
    rw [← hf] at hnew
    exact (hexec x s hi).trans (runExec_ok (atomic_here ha hb hread hal hplace hadds (atomicAt_run hexit hnew) hfinish))
  case misaligned => exact (hexec x s hi).trans (runExec_error (atomic_misaligned ha hb hread hal h))

/-- Settles O21: each member is the atomic of its function number. -/
theorem atomicResults : Obligations.AtomicResults := by
  refine ⟨?add, ?and, ?or, ?xor, ?min, ?max, ?minu, ?maxu, ?swap, ?cas⟩
  case add => exact atomic_of 0 rfl (fun _ _ hi => run_issues hi rfl rfl) fun _ _ _ _ => rfl
  case and => exact atomic_of 1 rfl (fun _ _ hi => run_issues hi rfl rfl) fun _ _ _ _ => rfl
  case or => exact atomic_of 2 rfl (fun _ _ hi => run_issues hi rfl rfl) fun _ _ _ _ => rfl
  case xor => exact atomic_of 3 rfl (fun _ _ hi => run_issues hi rfl rfl) fun _ _ _ _ => rfl
  case min => exact atomic_of 4 rfl (fun _ _ hi => run_issues hi rfl rfl) fun _ _ _ _ => rfl
  case max => exact atomic_of 5 rfl (fun _ _ hi => run_issues hi rfl rfl) fun _ _ _ _ => rfl
  case minu => exact atomic_of 6 rfl (fun _ _ hi => run_issues hi rfl rfl) fun _ _ _ _ => rfl
  case maxu => exact atomic_of 7 rfl (fun _ _ hi => run_issues hi rfl rfl) fun _ _ _ _ => rfl
  case swap => exact atomic_of 8 rfl (fun _ _ hi => run_issues hi rfl rfl) fun _ _ _ _ => rfl
  case cas => exact atomic_of 9 rfl (fun _ _ hi => run_issues hi rfl rfl) fun _ _ _ _ => rfl

end Sys2Proof.Laws
end

section
/-! The run of a tile instruction over the rows of its destination (R415). -/
namespace Sys2Proof.Laws
open Sys2Proof.Machine

/-- The state in which the row cursor has moved on to `q` (R415). -/
def atCursor (q : Nat) (s : State) : State := s.withHart fun h => { h with restart := { h.restartHere with cursor := q, ckind := 1 } }

/-- The state in which the executing stream's job has row `i` of a tile written. -/
def withRow (d : Desc) (row : Store → Nat → List Nat) (i : Nat) (s : State) : State :=
  s.updJob s.cur.coreNo fun j => { j with tstore := j.tstore.setRow d i ((row (s.job s.cur.coreNo).tstore i).map some) }

/-- A program of each row that changes the state by `g` changes it by `g` row by row, the cursor moving on after each. -/
theorem rowsFrom_foldl {f : Nat → Exec Unit} {g : State → Nat → State} (h : ∀ i u, f i u = .ok () (g u i)) (n q : Nat) (s : State) :
    rowsFrom q n f s = .ok () ((List.range' q n).foldl (fun u i => atCursor (i + 1) (g u i)) s) := by
  induction n generalizing q s with
  | zero => rfl
  | succ n ih =>
    rw [rowsFrom, bind_ok (h q s), setCursor, updHart_then, ih]
    rfl

/-- What a run over rows has left of state `s`, the tile store aside: `u` is the state and `ts` the tile store it has come to. -/
structure RowsRun (s u : State) (ts : Store) : Prop where
  cur : u.cur = s.cur
  mem : u.mem = s.mem
  regs : u.regs = s.regs
  remotes : u.remotes = s.remotes
  harts : Map.wf (fun _ => Hart.reset) u.harts = true
  cores : Map.wf (fun _ => Core.reset) u.cores = true
  tstore : (u.job s.cur.coreNo).tstore = ts
  hart : (u.hart s.cur).past 1 = (s.hart s.cur).past 1

namespace RowsRun
variable {s u : State} {ts : Store}

theorem start (hh : Map.wf (fun _ => Hart.reset) s.harts = true) (hc : Map.wf (fun _ => Core.reset) s.cores = true) :
    RowsRun s s (s.job s.cur.coreNo).tstore := ⟨rfl, rfl, rfl, rfl, hh, hc, rfl, rfl⟩

theorem row (h : RowsRun s u ts) (d : Desc) (row : Store → Nat → List Nat) (i : Nat) :
    RowsRun s (withRow d row i u) (ts.setRow d i ((row ts i).map some)) where
  cur := h.cur
  mem := h.mem
  regs := h.regs
  remotes := h.remotes
  harts := h.harts
  cores := wf_set _ _ h.cores
  tstore := by
    unfold withRow State.updJob State.updCore State.job
    rw [h.cur, State.core_setCore _ _ _ h.cores]
    exact congrArg (fun t : Store => t.setRow d i ((row t i).map some)) h.tstore
  hart := h.hart

theorem cursor (h : RowsRun s u ts) (q : Nat) : RowsRun s (atCursor q u) ts where
  cur := h.cur
  mem := h.mem
  regs := h.regs
  remotes := h.remotes
  harts := wf_set _ _ h.harts
  cores := h.cores
  tstore := h.tstore
  hart := by
    unfold atCursor State.withHart
    rw [h.cur, State.hart_setHart _ _ _ h.harts, ← h.hart]
    rfl

theorem rows (h : RowsRun s u ts) (d : Desc) (row : Store → Nat → List Nat) (is : List Nat) :
    RowsRun s (is.foldl (fun u i => atCursor (i + 1) (withRow d row i u)) u)
      (is.foldl (fun ts i => ts.setRow d i ((row ts i).map some)) ts) := by
  induction is generalizing u ts with
  | nil => exact h
  | cons i is ih => exact ih ((h.row d row i).cursor (i + 1))

end RowsRun

/-- The answers of a stream that has no request open. -/
theorem clearAnswers_none {a : Agent} {s : State} (h : s.remotes = []) : clearAnswers a s = .ok () s := by
  have hkept : ({ s with remotes := s.remotes.filter fun e => ! (e.2.who == .hart (agentNo a) && e.2.answer.isSome) } : State) = s := by
    rw [h, List.filter_nil, ← h]
  unfold clearAnswers
  rw [modify_run, hkept]

/-- A tile of the store that goes to no channel: each row of its valid region is written, then the instruction is past. -/
theorem runFull_store {n : Nat} {d : Desc} {row : Store → Nat → List Nat} {f : Nat → Exec (List Nat)} {s : State}
    (hcursor : (s.hart s.cur).restartHere.cursor = 0) (hrow : ∀ i u, f i u = .ok (row (u.job u.cur.coreNo).tstore i) u) :
    runFull (.store n d none) f s = (do
      let s ← get
      clearAnswers s.cur
      retire 1) ((List.range d.vrows).foldl (fun u i => atCursor (i + 1) (withRow d row i u)) s) := by
  unfold runFull runRows
  rw [getHart_then, hcursor, List.range_eq_range']
  refine bind_ok (rowsFrom_foldl (fun i u => ?_) _ _ s)
  exact (congrFun (bind_bind ..) u).trans (bind_ok (hrow i u))

/-- Settles O33, by induction on the rows: each writes its row of the tile store and moves the cursor on. -/
theorem rowRuns : Obligations.RowRuns := by
  intro n d row f s hharts hcores hcursor hremotes hrow
  have hrun := (RowsRun.start hharts hcores).rows d row (List.range d.vrows)
  generalize hv : (List.range d.vrows).foldl (fun u i => atCursor (i + 1) (withRow d row i u)) s = v at hrun
  refine ⟨v.withHart fun h => h.past 1, ?runs, hrun.cur, hrun.mem, hrun.regs, hrun.tstore, ?hart⟩
  case runs =>
    rw [runFull_store hcursor hrow, hv, get_then, bind_ok (clearAnswers_none (hrun.remotes.trans hremotes)), retire_one]
  case hart =>
    unfold State.withHart
    rw [hrun.cur, State.hart_setHart _ _ _ hrun.harts]
    exact hrun.hart

end Sys2Proof.Laws
end

section
/-! The issue of M and F commands (R440, R441, R444–R459, R461–R469) in a state whose list of contexts is not in canonical form.

A stamped command at its cycle clears the wait of its context before it reads its clauses (R266, R354). The statements read the clauses in
the state before that, and they do not ask for the canonical form of the contexts. Where the list names the stream's context twice and
the first entry differs from a context at reset by its wait alone, clearing the wait takes that entry off the list: the second entry is
the context from then on, and the command that joins its queue has the clauses that its registers give. -/
namespace Sys2Proof.Laws
open Sys2Proof.Machine

/-- A context at reset, but for its wait for a stamp. -/
def stampWaiter : Hart := { Hart.reset with blocked := .stamp }

/-- A context at reset, but for s1, which names the memory counter at 8. -/
def namesEight : Hart := { Hart.reset with s := [(1, 8#64)] }

/-- A tile of one row of two 64-bit words. -/
def twoWords : Desc := { vcols := 2, vrows := 1, v := true, morton := false, typ := 0x13, colsM1 := 1, rowsM1 := 0, cap := 1, base := 0 }

/-- A job whose addresses below 64 KiB are counters of another package, and whose tile T0 holds a plan's two words. -/
def farCounters : Job :=
  { Job.absent with
    rtt := [(0, { Rtt.invalid with limit := 0xFFFF, offset := 0x8010000000000, ms := true, v := true })]
    desc := [(0, twoWords.toBits)] }

/-- The stream of engine `e` on core 0, its cluster locked, its context listed twice. -/
def listedTwice (e : Eng) : State :=
  { State.reset with
    cur := .stream 0 e
    regs := [(Reg.dvfsStat, 0x80#64)]
    cores := [(0, { Core.reset with job := farCounters })]
    harts := [(agentNo (.stream 0 e), stampWaiter), (agentNo (.stream 0 e), namesEight)] }

/-- The clauses of a command that waits for nothing and adds 1 to the memory counter that s1 names. -/
def signalS1 : Ext := ⟨0x1FF#9, 0#24, 0#1, 0x101#9, 1#20, 0#1⟩

/-- Such a command with the operands `y`, stamped with cycle 0. -/
def signalsS1 (y : Args) : CArgs := ⟨y, signalS1, some ⟨0#8, 0#48⟩⟩

/-- ACCCLR of bank 0. -/
def clearsBank : CArgs := signalsS1 ⟨0#4, 0x88#8, 0#8, 0#8, 0#4, 0#20⟩

/-- FPLAN into T0 of the plan that s1 and s0 hold. -/
def plansS1 : CArgs := signalsS1 ⟨0#4, 0x20#8, 1#8, 0#8, 0#4, 0#20⟩

/-- `listedTwice` once a stamped command has come to its cycle: the job is timed, and the context waits no more. -/
def atItsCycle (e : Eng) : State :=
  ((listedTwice e).updJob 0 fun j => { j with timed := true }).withHart fun h => { h with blocked := .none, wait := none }

/-- The counter that the first command of a queue of core 0's job signals. -/
def firstSignal (e : Eng) : Host.Outcome State Fault Refusal → Option CRef
  | .next t => ((t.job 0).queueOf e).head?.bind fun m => m.cl.sig
  | _ => none

theorem hart_listedTwice (e : Eng) : (listedTwice e).hart (.stream 0 e) = stampWaiter := by cases e <;> rfl

/-- The clauses that the statements read: the signal is to the counter at 0. -/
theorem clauses_listedTwice (e : Eng) (y : Args) :
    Claims.clauses (signalsS1 y) (listedTwice e) = ⟨none, 0, false, some (.mem 0#64), 1, false⟩ :=
  (congrArg (fun h => clausesOf h signalS1) (hart_listedTwice e)).trans (by decide +kernel)

/-- The counter at 0 is one of another package. -/
theorem badRef_atItsCycle (e : Eng) : badRef 0 ⟨none, 0, false, some (.mem 0#64), 1, false⟩ (atItsCycle e) = .ok none (atItsCycle e) := by
  cases e <;> rfl

/-- At cycle 0 with every unit and bank free. -/
theorem passes_listedTwice {m : MfUnit} {bank : Option Nat} (e : Eng) (y : Args) (hlocked : (listedTwice e).locked 0 = true)
    (hnext : farCounters.units.next m = 0) (hfree : farCounters.units.free m bank = 0) :
    Claims.Passes (signalsS1 y) m bank (listedTwice e) (atItsCycle e) [] := by
  refine ⟨fun p hp => ?stamp, ?wait⟩
  case stamp =>
    cases hp
    exact .inr ⟨hlocked, rfl, hnext.le, hfree.le⟩
  case wait =>
    have hgrant : ((listedTwice e).hart (listedTwice e).cur).grant = false := congrArg Hart.grant (hart_listedTwice e)
    rw [hgrant]
    unfold Claims.WaitMet
    rw [clauses_listedTwice]
    exact ⟨_, badRef_atItsCycle e, rfl⟩

theorem issues_clearsBank : Issues (.accclr clearsBank) (listedTwice .M) :=
  ⟨_, _, rfl, rfl, by decide +kernel, by decide +kernel, by unfold Hart.unpushed; decide +kernel⟩

theorem issues_plansS1 : Issues (.fplan plansS1) (listedTwice .F) :=
  ⟨_, _, rfl, rfl, by decide +kernel, by decide +kernel, by unfold Hart.unpushed; decide +kernel⟩

/-- The ACCCLR that joins its queue signals the counter at 8. -/
theorem firstSignal_accclr : firstSignal .M (exec (.accclr clearsBank) (listedTwice .M)) = some (.mem 8#64) := by decide +kernel

/-- The FPLAN that joins its queue signals the counter at 8. -/
theorem firstSignal_fplan : firstSignal .F (exec (.fplan plansS1) (listedTwice .F)) = some (.mem 8#64) := by decide +kernel

/-- Refutes O41: an ACCCLR in `listedTwice .M` signals the counter that the second context's s1 names, and not the one that the first's
does, which the statement takes. -/
theorem not_matrixCommandResults : ¬ Obligations.MatrixCommandResults := by
  rintro ⟨-, -, -, haccclr, -⟩
  have hexec := haccclr clearsBank (listedTwice .M) _ [] issues_clearsBank
    (passes_listedTwice .M _ (by decide +kernel) rfl rfl) _ _ rfl rfl
  have hsignal := firstSignal_accclr
  rw [hexec] at hsignal
  exact absurd hsignal (by decide +kernel)

/-- Refutes O42: an FPLAN in `listedTwice .F` signals the counter that the second context's s1 names, and not the one that the first's
does, which the statement takes. -/
theorem not_transformResults : ¬ Obligations.TransformResults := by
  rintro ⟨hfplan, -⟩
  have hexec := hfplan plansS1 (listedTwice .F) _ [] 8#64 0#64 _ _ (.store 0 (farCounters.tdesc 0) none) _ 8 [8] issues_plansS1
    (passes_listedTwice .F _ (by decide +kernel) rfl rfl) rfl rfl rfl rfl rfl rfl rfl (by decide +kernel) _ _ rfl rfl
  have hsignal := firstSignal_fplan
  rw [hexec] at hsignal
  exact absurd hsignal (by decide +kernel)

end Sys2Proof.Laws
end

section
/-! The register files (O60): the contexts of the state, those of saved jobs among them, and what keeps each of them canonical. -/
namespace Sys2Proof.Laws
open Sys2Proof.Machine

variable {α β : Type}

/-! What an array lists after an entry is written, removed or looked up. -/

theorem mem_of_mem_insert {m : Assoc α} {k : Nat} {v : α} {e : Nat × α} (h : e ∈ Map.insert m k v) : e = (k, v) ∨ e ∈ m := by
  induction m with
  | nil => exact .inl (List.mem_singleton.1 h)
  | cons d m ih =>
    obtain ⟨i, w⟩ := d
    unfold Map.insert at h
    split at h
    · exact (List.mem_cons.1 h).imp_right (List.mem_cons_of_mem _)
    · split at h
      · exact List.mem_cons.1 h
      · rcases List.mem_cons.1 h with h | h
        · exact .inr (h ▸ List.mem_cons_self)
        · exact (ih h).imp_right (List.mem_cons_of_mem _)

theorem mem_of_mem_erase {m : Assoc α} {k : Nat} {e : Nat × α} (h : e ∈ Map.erase m k) : e ∈ m := by
  induction m with
  | nil => exact h
  | cons d m ih =>
    obtain ⟨i, w⟩ := d
    unfold Map.erase at h
    split at h
    · exact List.mem_cons_of_mem _ h
    · split at h
      · exact h
      · rcases List.mem_cons.1 h with h | h
        · exact h ▸ List.mem_cons_self
        · exact List.mem_cons_of_mem _ (ih h)

theorem mem_of_mem_set [DecidableEq α] {d : Nat → α} {m : Assoc α} {k : Nat} {v : α} {e : Nat × α} (h : e ∈ Map.set d m k v) :
    e = (k, v) ∨ e ∈ m := by
  unfold Map.set at h
  split at h
  · exact .inr (mem_of_mem_erase h)
  · exact mem_of_mem_insert h

theorem mem_of_find {m : Assoc α} {k : Nat} {v : α} (h : Map.find m k = some v) : (k, v) ∈ m := by
  induction m with
  | nil => cases h
  | cons d m ih =>
    obtain ⟨i, w⟩ := d
    unfold Map.find at h
    split at h
    · cases h
      subst_vars
      exact List.mem_cons_self
    · split at h
      · cases h
      · exact List.mem_cons_of_mem _ (ih h)

theorem get_default_or_mem (d : Nat → α) (m : Assoc α) (k : Nat) : Map.get d m k = d k ∨ (k, Map.get d m k) ∈ m := by
  induction m with
  | nil => exact .inl rfl
  | cons e m ih =>
    obtain ⟨i, w⟩ := e
    unfold Map.get
    split
    · subst_vars
      exact .inr List.mem_cons_self
    · split
      · exact .inl rfl
      · exact ih.imp_right (List.mem_cons_of_mem _)

/-! Changes of the state that leave every context, in a core or in a frame, as it is. -/

/-- The contexts of `t`, and its frames, are those of `s`. -/
abbrev SameContexts (s t : State) : Prop := t.harts = s.harts ∧ t.frames = s.frames

theorem SameContexts.foldl {f : State → β → State} (hf : ∀ s b, SameContexts s (f s b)) (l : List β) (s : State) :
    SameContexts s (l.foldl f s) := by
  induction l generalizing s with
  | nil => exact ⟨rfl, rfl⟩
  | cons b l ih =>
    obtain ⟨hh, hf⟩ := hf s b
    obtain ⟨hhl, hfl⟩ := ih (f s b)
    exact ⟨hhl.trans hh, hfl.trans hf⟩

@[simp] theorem putBytes_contexts (s : State) (bs : List (Nat × Byte)) : SameContexts s (s.putBytes bs) := by
  induction bs generalizing s with
  | nil => exact ⟨rfl, rfl⟩
  | cons b bs ih => exact ih _

@[simp] theorem supersedeAll_contexts (s : State) (n : Nat) (gs : List Nat) : SameContexts s (s.supersedeAll n gs) := by
  induction gs generalizing s with
  | nil => exact ⟨rfl, rfl⟩
  | cons g gs ih => exact ih (s.supersede n g)

@[simp] theorem markWritten_contexts (s : State) (gs : List Nat) : SameContexts s (s.markWritten gs) := by
  refine .foldl (fun s g => ?_) gs s
  exact ⟨rfl, rfl⟩

@[simp] theorem enqueue_contexts (s : State) (p : Nat) (m : Msg) (parked : Bool) : SameContexts s (s.enqueue p m parked) := by
  unfold State.enqueue
  dsimp only
  split
  · exact ⟨rfl, rfl⟩
  · exact ⟨rfl, rfl⟩

@[simp] theorem mapQueues_contexts (s : State) (f : SendMsg → SendMsg) : SameContexts s (s.mapQueues f) := ⟨rfl, rfl⟩
@[simp] theorem moveScratch_contexts (s : State) (a b : Nat) : SameContexts s (s.moveScratch a b) := ⟨rfl, rfl⟩
@[simp] theorem loadWritten_contexts (s : State) (a : Nat) : SameContexts s (s.loadWritten a) := ⟨rfl, rfl⟩

@[simp] theorem clearCircuit_contexts (s : State) (p key : Nat) : SameContexts s (s.clearCircuit p key) := by
  refine .foldl (fun s i => ?_) _ s
  split
  · exact ⟨rfl, rfl⟩
  · exact ⟨rfl, rfl⟩

/-! Contexts in canonical form: a fresh one, and one with a register or a guard written. -/

theorem Hart.canonical_reset : Hart.reset.canonical = true := rfl

theorem Hart.canonical_setS {h : Hart} (hc : h.canonical = true) (n : Nat) (v : Word) : (h.setS n v).canonical = true := by
  unfold Hart.setS
  split
  · exact hc
  · obtain ⟨hs, hg⟩ := Bool.and_eq_true_iff.1 hc
    exact Bool.and_eq_true_iff.2 ⟨wf_set n v hs, hg⟩

theorem Hart.canonical_setG {h : Hart} (hc : h.canonical = true) (n : Nat) (b : Bool) : (h.setG n b).canonical = true := by
  unfold Hart.setG
  split
  · exact hc
  · obtain ⟨hs, hg⟩ := Bool.and_eq_true_iff.1 hc
    exact Bool.and_eq_true_iff.2 ⟨hs, wf_set n b hg⟩

theorem Hart.canonical_restored {h : Hart} (hc : h.canonical = true) : h.restored.canonical = true := by
  unfold Hart.restored
  split
  · exact hc
  · exact hc

/-- The contexts of a saved job are in canonical form. -/
def FrameOk (f : Frame) : Prop := ∀ h ∈ f.harts, h.canonical = true

theorem FrameOk.getD {f : Frame} (hf : FrameOk f) (n : Nat) : (f.harts.getD n Hart.reset).canonical = true := by
  rw [List.getD_eq_getElem?_getD]
  cases e : f.harts[n]? with
  | none => rfl
  | some h => exact hf h (List.mem_of_getElem? e)

theorem FrameOk.addPriv {f : Frame} (hf : FrameOk f) (bs : List Byte) : FrameOk (addPriv f bs) := by
  intro h hh
  rcases List.mem_or_eq_of_mem_set hh with hh | rfl
  · exact hf h hh
  · exact hf.getD _

theorem frameOk_jobOfRecord (bs : List Byte) (id k slot : Nat) (node : List Byte) (tick : Nat) :
    FrameOk (jobOfRecord bs id k slot node tick) := by
  intro h hh
  obtain ⟨e, -, rfl⟩ := List.mem_map.1 hh
  dsimp only
  split
  · rfl
  · exact Bool.and_eq_true_iff.2 ⟨wf_setN 1 _ (wf_nil _), wf_setN 1 _ (wf_nil _)⟩

theorem frameOk_frameOfImage (secs : List Section) (k slot id tick i : Nat) : FrameOk (frameOfImage secs k slot id tick i) := by
  have hfold (l : List (List Byte)) {f : Frame} (hf : FrameOk f) : FrameOk (l.foldl addPriv f) := by
    induction l generalizing f with
    | nil => exact hf
    | cons b l ih => exact ih (hf.addPriv b)
  unfold frameOfImage
  extract_lets b node
  exact hfold _ (frameOk_jobOfRecord b id k slot node tick : ∀ h ∈ (jobOfRecord b id k slot node tick).harts, _)

/-- Every context, those of saved jobs too, is in canonical form: `State.filesCanonical` place by place. -/
structure FilesOk (s : State) : Prop where
  harts : ∀ e ∈ s.harts, e.2.canonical = true
  frames : ∀ e ∈ s.frames, FrameOk e.2

theorem filesCanonical_iff {s : State} : s.filesCanonical = true ↔ FilesOk s := by
  simp only [State.filesCanonical, Bool.and_eq_true, List.all_eq_true]
  exact ⟨fun ⟨hh, hf⟩ => ⟨hh, hf⟩, fun ⟨hh, hf⟩ => ⟨hh, hf⟩⟩

namespace FilesOk

variable {s t : State}

theorem hart (h : FilesOk s) (a : Agent) : (s.hart a).canonical = true := by
  unfold State.hart
  rcases get_default_or_mem (fun _ => Hart.reset) s.harts (agentNo a) with e | e
  · rw [e]
    rfl
  · exact h.harts _ e

theorem frame (h : FilesOk s) {id : Nat} {f : Frame} (hf : Map.find s.frames id = some f) : FrameOk f := h.frames _ (mem_of_find hf)

/-- A change of other places alone. -/
theorem same (h : FilesOk s) (e : t.harts = s.harts ∧ t.frames = s.frames) : FilesOk t := ⟨e.1 ▸ h.harts, e.2 ▸ h.frames⟩

theorem setHartNo {x : Hart} (h : FilesOk s) (n : Nat) (hx : x.canonical = true) :
    FilesOk { s with harts := Map.set (fun _ => Hart.reset) s.harts n x } where
  harts e he := by
    rcases mem_of_mem_set (d := fun _ => Hart.reset) he with rfl | he
    · exact hx
    · exact h.harts e he
  frames := h.frames

theorem setHart {x : Hart} (h : FilesOk s) (a : Agent) (hx : x.canonical = true) : FilesOk (s.setHart a x) := h.setHartNo (agentNo a) hx

theorem insertFrame {f : Frame} (h : FilesOk s) (id : Nat) (hf : FrameOk f) : FilesOk { s with frames := Map.insert s.frames id f } where
  harts := h.harts
  frames e he := by
    rcases mem_of_mem_insert he with rfl | he
    · exact hf
    · exact h.frames e he

/-- The job of a saved frame changed, its contexts kept. -/
theorem insertJob {f : Frame} (h : FilesOk t) (id : Nat) (hf : FrameOk f) (j : Job) :
    FilesOk { t with frames := Map.insert t.frames id { f with job := j } } := h.insertFrame id hf

theorem eraseFrame (h : FilesOk s) (id : Nat) : FilesOk { s with frames := Map.erase s.frames id } where
  harts := h.harts
  frames e he := h.frames e (mem_of_mem_erase he)

theorem filterFrames (h : FilesOk s) (p : Nat × Frame → Bool) : FilesOk { s with frames := s.frames.filter p } where
  harts := h.harts
  frames e he := h.frames e (List.mem_of_mem_filter he)

/-- The frames changed one by one, the contexts of each kept. -/
theorem mapFrames (h : FilesOk s) {f : Nat × Frame → Nat × Frame} (hf : ∀ e, (f e).2.harts = e.2.harts) :
    FilesOk { s with frames := s.frames.map f } where
  harts := h.harts
  frames e he := by
    obtain ⟨d, hd, rfl⟩ := List.mem_map.1 he
    exact fun x hx => h.frames d hd x (hf d ▸ hx)

theorem insertFrames {fs : List Frame} (h : FilesOk s) (hfs : ∀ f ∈ fs, FrameOk f) :
    FilesOk { s with frames := fs.foldl (fun m f => Map.insert m f.job.id f) s.frames } := by
  induction fs generalizing s with
  | nil => exact h
  | cons f fs ih =>
    obtain ⟨hf, hfs⟩ := List.forall_mem_cons.1 hfs
    exact ih (h.insertFrame f.job.id hf) hfs

theorem afterPowerLoss (s : State) : FilesOk s.afterPowerLoss := ⟨by simp [State.afterPowerLoss, State.reset], by simp [State.afterPowerLoss, State.reset]⟩

end FilesOk
end Sys2Proof.Laws
end

section
/-! Programs that keep the register files canonical, and how that is shown of a program from its parts. -/
namespace Sys2Proof.Laws
open Sys2Proof.Machine

variable {α β : Type}

/-- The program keeps every register file in canonical form, whether it ends normally or early. -/
structure KeepsFiles (x : Exec α) : Prop where
  keeps : Keeps FilesOk x

/-- `simp` shows `KeepsFiles x` by the lemma about the program that `x` is, and rewrites nothing inside `x`. -/
@[congr] theorem KeepsFiles.congr (x : Exec α) : KeepsFiles x = KeepsFiles x := rfl

namespace KeepsFiles

@[simp] theorem pure (a : α) : KeepsFiles (pure a : Exec α) := ⟨keeps_pure a⟩
@[simp] theorem halt : KeepsFiles (halt : Exec α) := ⟨keeps_halt⟩
@[simp] theorem get : KeepsFiles (get : Exec State) := ⟨keeps_get⟩
@[simp] theorem require (b : Bool) : KeepsFiles (require b) := ⟨keeps_require b⟩

/-- A change of places that hold no context. -/
theorem modifySame {g : State → State} (h : ∀ s, (g s).harts = s.harts ∧ (g s).frames = s.frames) : KeepsFiles (modify g : Exec PUnit) :=
  ⟨keeps_modify fun s hs => hs.same (h s)⟩

theorem modify {g : State → State} (h : ∀ s, FilesOk s → FilesOk (g s)) : KeepsFiles (modify g : Exec PUnit) := ⟨keeps_modify h⟩

theorem set {t : State} (h : FilesOk t) : KeepsFiles (set t : Exec PUnit) := ⟨fun _ _ => h⟩

/-- A change of the executing context that keeps its files canonical. -/
theorem updHart {f : Hart → Hart} (h : ∀ x, x.canonical = true → (f x).canonical = true) : KeepsFiles (updHart f) :=
  .modify fun s hs => hs.setHart s.cur (h _ (hs.hart s.cur))

theorem updHartOf {a : Agent} {f : Hart → Hart} (h : ∀ x, x.canonical = true → (f x).canonical = true) : KeepsFiles (updHartOf a f) :=
  .modify fun _ hs => hs.setHart a (h _ (hs.hart a))

theorem bind {x : Exec α} {f : α → Exec β} (hx : KeepsFiles x) (hf : ∀ a, KeepsFiles (f a)) : KeepsFiles (x >>= f) :=
  ⟨keeps_bind hx.keeps fun a => (hf a).keeps⟩

/-- What follows a look at the state may build on the canonical files it saw. -/
theorem look {f : State → Exec β} (h : ∀ s, FilesOk s → KeepsFiles (f s)) : KeepsFiles ((MonadState.get : Exec State) >>= f) :=
  ⟨keeps_getBind fun s hs => (h s hs).keeps s hs⟩

theorem ite {c : Prop} [Decidable c] {x y : Exec α} (hx : KeepsFiles x) (hy : KeepsFiles y) : KeepsFiles (if c then x else y) :=
  ⟨keeps_ite hx.keeps hy.keeps⟩

theorem each {l : List α} {f : α → Exec Unit} (h : ∀ a, KeepsFiles (f a)) : KeepsFiles (each l f) :=
  ⟨keeps_each fun a => (h a).keeps⟩

theorem mapE {l : List α} {f : α → Exec β} (h : ∀ a, KeepsFiles (f a)) : KeepsFiles (mapE l f) :=
  ⟨keeps_mapE fun a => (h a).keeps⟩

theorem foldlM {l : List α} {f : β → α → Exec β} {b : β} (h : ∀ b a, KeepsFiles (f b a)) : KeepsFiles (l.foldlM f b) := by
  induction l generalizing b with
  | nil => exact .pure b
  | cons a l ih =>
    rw [List.foldlM_cons]
    exact .bind (h b a) fun _ => ih

theorem within {x : Exec Unit} (h : KeepsFiles x) : KeepsFiles (within x) := ⟨keeps_within h.keeps⟩

theorem ok {x : Exec α} {s t : State} {a : α} (h : KeepsFiles x) (hs : FilesOk s) (e : x s = .ok a t) : FilesOk t := by
  have hend := h.keeps s hs
  rwa [e] at hend

theorem error {x : Exec α} {s t : State} {f : Halt} (h : KeepsFiles x) (hs : FilesOk s) (e : x s = .error f t) : FilesOk t := by
  have hend := h.keeps s hs
  rwa [e] at hend

/-- A program keeps the files canonical if its parts do. The default proof of `h` takes the program apart along its text, as
`Tidy.byParts` does: a local program (`let`) is shown once and then held by that fact alone; sequencing, branches and loops go by the
lemmas above; a change of the state changes other places or a context whose files stay as they are; what is left is a program with a
lemma of its own, or one of the facts at hand. -/
theorem byParts {x : Exec α} (h : KeepsFiles x := by
    repeat' first
      | intro _
      | (extract_lets -underBinder +onlyGivenNames k
         first
           | (guard_hyp k :~ _ → Exec _ :=~ _
              refine (fun _ : ∀ a, KeepsFiles (k a) => ?_) ?_
              clear_value k
              rotate_left
              subst k)
           | (guard_hyp k :~ Exec _ :=~ _
              refine (fun _ : KeepsFiles k => ?_) ?_
              clear_value k
              rotate_left
              subst k)
           | (guard_hyp k :~ _ → _ → Exec _ :=~ _
              refine (fun _ : ∀ a b, KeepsFiles (k a b) => ?_) ?_
              clear_value k
              rotate_left
              subst k)
           | (guard_hyp k :~ _ → _ → _ → Exec _ :=~ _
              refine (fun _ : ∀ a b c, KeepsFiles (k a b c) => ?_) ?_
              clear_value k
              rotate_left
              subst k)
           | clear_value k)
      | with_reducible apply KeepsFiles.look
      | with_reducible apply KeepsFiles.bind
      | with_reducible apply KeepsFiles.ite
      | with_reducible apply KeepsFiles.each
      | with_reducible apply KeepsFiles.mapE
      | with_reducible apply KeepsFiles.foldlM
      | with_reducible apply KeepsFiles.within
      | (with_reducible apply KeepsFiles.updHart
         intro _ hx
         exact hx)
      | (with_reducible apply KeepsFiles.updHartOf
         intro _ hx
         first
           | exact hx
           | exact Hart.canonical_reset)
      | (with_reducible apply KeepsFiles.modifySame
         intro s
         simp; done)
      | (with_reducible apply KeepsFiles.modify
         intro s hs
         first
           | with_reducible exact hs.setHart _ Hart.canonical_reset
           | with_reducible exact hs.eraseFrame _
           | with_reducible exact hs.filterFrames _
           | (with_reducible refine hs.insertJob _ (FilesOk.frame ?_ (by assumption)) _
              assumption)
           | (with_reducible refine hs.mapFrames fun e => ?_
              split
              · rfl
              · rfl))
      | (with_reducible apply KeepsFiles.set
         refine FilesOk.same ‹FilesOk _› ?_
         simp; done)
      | (simp; done)
      | with_reducible apply_assumption -exfalso -symm
      | dsimp -zeta only
      | split) : KeepsFiles x := h

end KeepsFiles
end Sys2Proof.Laws
end

section
/-! The operations that all meanings share keep the register files in canonical form. -/
namespace Sys2Proof.Laws
open Sys2Proof.Machine
set_option Elab.async false

variable {α β : Type}

/-! How a meaning is written. -/

@[simp] theorem keepsFiles_fresh : KeepsFiles fresh := ⟨fun s h => (h.same ⟨rfl, rfl⟩ : FilesOk { s with tick := s.tick + 1 })⟩
@[simp] theorem keepsFiles_choose (what n) : KeepsFiles (choose what n) := by unfold choose; exact .byParts

/-! Contexts. -/

@[simp] theorem keepsFiles_getHart : KeepsFiles getHart := by unfold getHart; exact .byParts

/-! Cores and jobs. -/

@[simp] theorem keepsFiles_updCore (c f) : KeepsFiles (updCore c f) := .modifySame fun _ => ⟨rfl, rfl⟩
@[simp] theorem keepsFiles_updJob (c f) : KeepsFiles (updJob c f) := .modifySame fun _ => ⟨rfl, rfl⟩
@[simp] theorem keepsFiles_getCore (c) : KeepsFiles (getCore c) := by unfold getCore; exact .byParts
@[simp] theorem keepsFiles_getJob (c) : KeepsFiles (getJob c) := by unfold getJob; exact .byParts
@[simp] theorem keepsFiles_curCore : KeepsFiles curCore := by unfold curCore; exact .byParts
@[simp] theorem keepsFiles_curJob : KeepsFiles curJob := by unfold curJob; exact .byParts

/-! Partitions. -/

@[simp] theorem keepsFiles_updPart (k f) : KeepsFiles (updPart k f) := by unfold updPart; exact .byParts
@[simp] theorem keepsFiles_getPart (k) : KeepsFiles (getPart k) := by unfold getPart; exact .byParts

/-! MMIO registers. -/

@[simp] theorem keepsFiles_getReg (o) : KeepsFiles (getReg o) := by unfold getReg; exact .byParts
@[simp] theorem keepsFiles_setReg (o v) : KeepsFiles (setReg o v) := .modifySame fun _ => ⟨rfl, rfl⟩
@[simp] theorem keepsFiles_setField (o lo n v) : KeepsFiles (setField o lo n v) := .modifySame fun _ => ⟨rfl, rfl⟩
@[simp] theorem keepsFiles_setFlag (o i b) : KeepsFiles (setFlag o i b) := by unfold setFlag; exact .byParts

/-! Links. -/

@[simp] theorem keepsFiles_updLink (p f) : KeepsFiles (updLink p f) := by unfold updLink; exact .byParts

/-! Power, boot. -/

@[simp] theorem keepsFiles_updPower (f) : KeepsFiles (updPower f) := by unfold updPower; exact .byParts
@[simp] theorem keepsFiles_updBoot (f) : KeepsFiles (updBoot f) := by unfold updBoot; exact .byParts

/-! Physical memory: bytes, blocks and versions. -/

@[simp] theorem keepsFiles_setMeta (b m) : KeepsFiles (setMeta b m) := by unfold setMeta; exact .byParts
@[simp] theorem keepsFiles_poisonBlock (b cause) : KeepsFiles (poisonBlock b cause) := by unfold poisonBlock; exact .byParts
@[simp] theorem keepsFiles_exitCheck (b) : KeepsFiles (exitCheck b) := by unfold exitCheck; exact .byParts

@[simp] theorem keepsFiles_exitChecks (bs) : KeepsFiles (exitChecks bs) := by
  induction bs with
  | nil => exact .pure _
  | cons b bs ih => unfold exitChecks; exact .byParts

@[simp] theorem keepsFiles_blockWrite (bytes poison) : KeepsFiles (blockWrite bytes poison) := by
  unfold blockWrite
  cases bytes with
  | nil => exact .pure _
  | cons b bytes => exact .byParts

@[simp] theorem keepsFiles_physWrite (a data poison) : KeepsFiles (physWrite a data poison) := by unfold physWrite; exact .byParts
@[simp] theorem keepsFiles_carryBlock (dst src) : KeepsFiles (carryBlock dst src) := by unfold carryBlock; exact .byParts

/-! Memory counters. -/

@[simp] theorem keepsFiles_setMcounter (pa m) : KeepsFiles (setMcounter pa m) := by unfold setMcounter; exact .byParts
@[simp] theorem keepsFiles_poisonMcounter (pa cause) : KeepsFiles (poisonMcounter pa cause) := by unfold poisonMcounter; exact .byParts
@[simp] theorem keepsFiles_addMcounter (pa v rels) : KeepsFiles (addMcounter pa v rels) := by unfold addMcounter; exact .byParts

/-! Sending messages over the optical fabric. -/

@[simp] theorem keepsFiles_sendMsg (m) : KeepsFiles (sendMsg m) := by unfold sendMsg; exact .byParts

@[simp] theorem keepsFiles_sendRequest (who part typ world dst payload) : KeepsFiles (sendRequest who part typ world dst payload) := by
  refine .look fun s h => ?_
  split
  · exact .pure _
  · exact .bind (.set (h.same (enqueue_contexts _ _ _ _))) fun _ => .pure _

@[simp] theorem keepsFiles_dropRemote (tag) : KeepsFiles (dropRemote tag) := by unfold dropRemote; exact .byParts

/-! Translation. -/

@[simp] theorem keepsFiles_setRtt (c i r) : KeepsFiles (setRtt c i r) := by unfold setRtt; exact .byParts

@[simp] theorem keepsFiles_rttLookup (c a n) : KeepsFiles (rttLookup c a n) := by
  induction n with
  | zero => exact .pure _
  | succ n ih => unfold rttLookup; exact .byParts

@[simp] theorem keepsFiles_setDirty (c a r) : KeepsFiles (setDirty c a r) := by unfold setDirty; exact .byParts
@[simp] theorem keepsFiles_translate (c w d a) : KeepsFiles (Machine.translate c w d a) := by unfold Machine.translate; exact .byParts

/-! The named operations: fault records. -/

@[simp] theorem keepsFiles_fqPush (c droppable rec) : KeepsFiles (fqPush c droppable rec) := by unfold fqPush; exact .byParts
@[simp] theorem keepsFiles_fqLost (c) : KeepsFiles (fqLost c) := by unfold fqLost; exact .byParts
@[simp] theorem keepsFiles_asyncRecord (c source pc cause i) : KeepsFiles (asyncRecord c source pc cause i) := by unfold asyncRecord; exact .byParts

/-! Parties, releases and knowledge. -/

@[simp] theorem keepsFiles_openPhase (a gained) : KeepsFiles (openPhase a gained) := by
  unfold openPhase
  refine .look fun s hs => .set ?_
  have hset (k : Know) (ps : List Phase) : FilesOk (s.setHart a { s.hart a with know := k, shown := [], phases := ps }) :=
    hs.setHart a (hs.hart a)
  exact (hset _ _).same ⟨rfl, rfl⟩

@[simp] theorem keepsFiles_acquire (a scope rels) : KeepsFiles (acquire a scope rels) := by unfold acquire; exact .byParts

/-! Custody. -/

@[simp] theorem keepsFiles_custody (k node recv sent) : KeepsFiles (custody k node recv sent) := by unfold custody; exact .byParts
@[simp] theorem keepsFiles_addWindow (k i v rels) : KeepsFiles (addWindow k i v rels) := by unfold addWindow; exact .byParts
@[simp] theorem keepsFiles_poisonWindow (k i c) : KeepsFiles (poisonWindow k i c) := by unfold poisonWindow; exact .byParts

/-! The fatal end of a task. -/

@[simp] theorem keepsFiles_resolveMem (c ref) : KeepsFiles (resolveMem c ref) := by unfold resolveMem; exact .byParts
@[simp] theorem keepsFiles_poisonRef (c r cause) : KeepsFiles (poisonRef c r cause) := by unfold poisonRef; exact .byParts

@[simp] theorem keepsFiles_dropUnstarted (c k cause qs) : KeepsFiles (dropUnstarted c k cause qs) := by
  induction qs with
  | nil => exact .pure _
  | cons q qs ih => unfold dropUnstarted; exact .byParts

@[simp] theorem keepsFiles_killJob (c cause) : KeepsFiles (killJob c cause) := by unfold killJob; exact .byParts
@[simp] theorem keepsFiles_killFrame (n cause) : KeepsFiles (killFrame n cause) := by unfold killFrame; exact .byParts
@[simp] theorem keepsFiles_fatalTask (k t cause) : KeepsFiles (fatalTask k t cause) := by unfold fatalTask; exact .byParts
@[simp] theorem keepsFiles_fatalOn (c source pc cause i) : KeepsFiles (fatalOn c source pc cause i) := by unfold fatalOn; exact .byParts

/-! The Flue and resets of controllers. -/

@[simp] theorem keepsFiles_writeFlue (slot code cause reason part pos cmdidx h faddr rec) :
    KeepsFiles (writeFlue slot code cause reason part pos cmdidx h faddr rec) := .modifySame fun _ => ⟨rfl, rfl⟩

@[simp] theorem keepsFiles_startController (a cause) : KeepsFiles (startController a cause) :=
  .bind (.modify fun _ h => h.setHart a Hart.canonical_reset) fun _ => .byParts
@[simp] theorem keepsFiles_resetFrontEnd (f) : KeepsFiles (resetFrontEnd f) := by unfold resetFrontEnd; exact .byParts
@[simp] theorem keepsFiles_restartService (c) : KeepsFiles (restartService c) := by unfold restartService; exact .byParts

/-! Taking an exception, and returning from one. -/

@[simp] theorem keepsFiles_doubleFault (c cause i) : KeepsFiles (doubleFault c cause i) := by unfold doubleFault; exact .byParts
@[simp] theorem keepsFiles_takeException (a cause i) : KeepsFiles (takeException a cause i) := by unfold takeException; exact .byParts
@[simp] theorem keepsFiles_trapWith (cause i) : KeepsFiles (trapWith cause i : Exec α) := by unfold trapWith; exact .byParts
@[simp] theorem keepsFiles_trap (cause) : KeepsFiles (trap cause : Exec α) := by unfold trap; exact .byParts
@[simp] theorem keepsFiles_trapAt (cause addr) : KeepsFiles (trapAt cause addr : Exec α) := by unfold trapAt; exact .byParts
@[simp] theorem keepsFiles_resumeStream (a grant) : KeepsFiles (resumeStream a grant) := by unfold resumeStream; exact .byParts
@[simp] theorem keepsFiles_block (b) : KeepsFiles (block b : Exec α) := by unfold block; exact .byParts
@[simp] theorem keepsFiles_blockAt (b w) : KeepsFiles (blockAt b w : Exec α) := by unfold blockAt; exact .byParts
@[simp] theorem keepsFiles_clearAnswers (a) : KeepsFiles (clearAnswers a) := by unfold clearAnswers; exact .byParts

/-! Opportunities of the service context. -/

@[simp] theorem keepsFiles_opportunity (c) : KeepsFiles (opportunity c) := by unfold opportunity; exact .byParts
@[simp] theorem keepsFiles_retire (n) : KeepsFiles (retire n) := by unfold retire; exact .byParts
@[simp] theorem keepsFiles_transfer (pc) : KeepsFiles (transfer pc) := by unfold transfer; exact .byParts

/-! Global memory as an agent sees it. -/

@[simp] theorem keepsFiles_verCheck (g v) : KeepsFiles (verCheck g v) := by unfold verCheck; exact .byParts
@[simp] theorem keepsFiles_xlate (a write dirty va) : KeepsFiles (xlate a write dirty va) := by unfold xlate; exact .byParts
@[simp] theorem keepsFiles_remoteFetch (a i pkg off n) : KeepsFiles (remoteFetch a i pkg off n) := by unfold remoteFetch; exact .byParts
@[simp] theorem keepsFiles_readPiece (a i va n) : KeepsFiles (readPiece a i va n) := by unfold readPiece; exact .byParts
@[simp] theorem keepsFiles_readGlobal (a i va n) : KeepsFiles (readGlobal a i va n) := by unfold readGlobal; exact .byParts

/-! Publication and acceptance. -/

theorem keepsFiles_updHartNo (n) {f : Hart → Hart} (hf : ∀ x, x.canonical = true → (f x).canonical = true) :
    KeepsFiles (updHartNo n f) :=
  .modify fun s hs => hs.setHartNo n (hf _ (by
    rcases get_default_or_mem (fun _ => Hart.reset) s.harts n with e | e
    · rw [e]
      rfl
    · exact hs.harts _ e))

@[simp] theorem keepsFiles_setRelease (n r) : KeepsFiles (setRelease n r) := by unfold setRelease; exact .byParts
@[simp] theorem keepsFiles_pushOut (c job agent op) : KeepsFiles (pushOut c job agent op) := by unfold pushOut; exact .byParts
@[simp] theorem keepsFiles_addPlace (a o) : KeepsFiles (addPlace a o) := by unfold addPlace; exact .byParts
@[simp] theorem keepsFiles_afterAdds (pa n) : KeepsFiles (afterAdds pa n) := by unfold afterAdds; exact .byParts
@[simp] theorem keepsFiles_afterFarAdds : KeepsFiles afterFarAdds := by unfold afterFarAdds; exact .byParts
@[simp] theorem keepsFiles_afterCoreAdds (n) : KeepsFiles (afterCoreAdds n) := by unfold afterCoreAdds; exact .byParts
@[simp] theorem keepsFiles_publishGranule (a rel g) : KeepsFiles (publishGranule a rel g) := by unfold publishGranule; exact .byParts

@[simp] theorem keepsFiles_publishGranules (a rel gs bad) : KeepsFiles (publishGranules a rel gs bad) := by
  induction gs generalizing bad with
  | nil => exact .pure _
  | cons g gs ih => unfold publishGranules; exact .byParts

@[simp] theorem keepsFiles_publish (a scope) : KeepsFiles (publish a scope) := by unfold publish; exact .byParts
@[simp] theorem keepsFiles_releaseHere (scope) : KeepsFiles (releaseHere scope) := by unfold releaseHere; exact .byParts
@[simp] theorem keepsFiles_writeBackOldest (c) : KeepsFiles (writeBackOldest c) := by unfold writeBackOldest; exact .byParts
@[simp] theorem keepsFiles_writePiece (a i va data) : KeepsFiles (writePiece a i va data) := by unfold writePiece; exact .byParts
@[simp] theorem keepsFiles_writeGlobal (a i va data) : KeepsFiles (writeGlobal a i va data) := by unfold writeGlobal; exact .byParts
@[simp] theorem keepsFiles_noteAccepted (agent rel gs) : KeepsFiles (noteAccepted agent rel gs) := by
  have hrule := @keepsFiles_updHartNo
  unfold noteAccepted; exact .byParts
@[simp] theorem keepsFiles_addCore (c id n v rels) : KeepsFiles (addCore c id n v rels) := by unfold addCore; exact .byParts
@[simp] theorem keepsFiles_addMem (c ref v rels isRel) : KeepsFiles (addMem c ref v rels isRel) := by unfold addMem; exact .byParts
@[simp] theorem keepsFiles_acceptOut (n) : KeepsFiles (acceptOut n) := by unfold acceptOut; exact .byParts

/-! Operands: restart records. -/

@[simp] theorem keepsFiles_findOpnd (which) : KeepsFiles (findOpnd which) := by unfold findOpnd; exact .byParts
@[simp] theorem keepsFiles_recordOpnd (o) : KeepsFiles (recordOpnd o) := by unfold recordOpnd; exact .byParts
@[simp] theorem keepsFiles_setOpnd (o) : KeepsFiles (setOpnd o) := by unfold setOpnd; exact .byParts

/-! Channels. -/

@[simp] theorem keepsFiles_popChan (which n wantTile) : KeepsFiles (popChan which n wantTile) := by unfold popChan; exact .byParts
@[simp] theorem keepsFiles_pushChan (n e) : KeepsFiles (pushChan n e) := by unfold pushChan; exact .byParts

/-! Scratchpad accesses of a stream. -/

@[simp] theorem keepsFiles_scratchPlace (i a n) : KeepsFiles (scratchPlace i a n) := by unfold scratchPlace; exact .byParts
@[simp] theorem keepsFiles_scratchRead (i a n) : KeepsFiles (scratchRead i a n) := by unfold scratchRead; exact .byParts
@[simp] theorem keepsFiles_scratchWrite (i a data) : KeepsFiles (scratchWrite i a data) := by unfold scratchWrite; exact .byParts

/-! Stream ports. -/

@[simp] theorem keepsFiles_boundPort (n) : KeepsFiles (boundPort n) := by unfold boundPort; exact .byParts
@[simp] theorem keepsFiles_portChecks (which n p write tile) : KeepsFiles (portChecks which n p write tile) := by unfold portChecks; exact .byParts
@[simp] theorem keepsFiles_portAddr (which n p) : KeepsFiles (portAddr which n p) := by unfold portAddr; exact .byParts
@[simp] theorem keepsFiles_portElem (which n peek) : KeepsFiles (portElem which n peek) := by unfold portElem; exact .byParts
@[simp] theorem keepsFiles_pushElem (n v) : KeepsFiles (pushElem n v) := by unfold pushElem; exact .byParts

/-! Scalars. -/

@[simp] theorem keepsFiles_readSrc (which code) : KeepsFiles (readSrc which code) := by unfold readSrc; exact .byParts
@[simp] theorem keepsFiles_readGuard (code) : KeepsFiles (readGuard code) := by unfold readGuard; exact .byParts
@[simp] theorem keepsFiles_writeDst (code v) : KeepsFiles (writeDst code v) := by
  have hs (n) : KeepsFiles (updHart fun h => h.setS n v) := .updHart fun _ hx => Hart.canonical_setS hx n v
  have hg (n) : KeepsFiles (updHart fun h => h.setG n (v != 0#64)) := .updHart fun _ hx => Hart.canonical_setG hx n _
  unfold writeDst; exact .byParts
@[simp] theorem keepsFiles_finish (code v) : KeepsFiles (finish code v) := by unfold finish; exact .byParts

@[simp] theorem keepsFiles_runInstr (e sh) {body} (hb : KeepsFiles body) : KeepsFiles (runInstr e sh body) := by
  unfold runInstr
  refine .look fun s _ => ?_
  split
  · exact .byParts
  · extract_lets h
    split
    · exact .byParts
    · split
      · exact .byParts
      · exact .byParts
      · exact hb

/-! Commands. -/

@[simp] theorem keepsFiles_refValid (c r) : KeepsFiles (refValid c r) := by unfold refValid; exact .byParts
@[simp] theorem keepsFiles_badRef (c cl) : KeepsFiles (badRef c cl) := by unfold badRef; exact .byParts
@[simp] theorem keepsFiles_dropCommand (c source pc cl ref) : KeepsFiles (dropCommand c source pc cl ref) := by unfold dropCommand; exact .byParts
@[simp] theorem keepsFiles_remoteAsk (who k pkg off n world) : KeepsFiles (remoteAsk who k pkg off n world) := by unfold remoteAsk; exact .byParts
@[simp] theorem keepsFiles_clearWho (who) : KeepsFiles (clearWho who) := by unfold clearWho; exact .byParts
@[simp] theorem keepsFiles_waitState (who c cl) : KeepsFiles (waitState who c cl) := by unfold waitState; exact .byParts
@[simp] theorem keepsFiles_signalDone (c cl inc gs) : KeepsFiles (signalDone c cl inc gs) := by unfold signalDone; exact .byParts
@[simp] theorem keepsFiles_signalPoison (c cl cause) : KeepsFiles (signalPoison c cl cause) := by unfold signalPoison; exact .byParts

/-! Reads of published memory. -/

@[simp] theorem keepsFiles_cmdReadPiece (who c floor va n) : KeepsFiles (cmdReadPiece who c floor va n) := by unfold cmdReadPiece; exact .byParts

@[simp] theorem keepsFiles_cmdRead (who c floor ps) : KeepsFiles (cmdRead who c floor ps) := by
  induction ps with
  | nil => exact .pure _
  | cons p ps ih => unfold cmdRead; exact .byParts

/-! Writes, accepted at once at a local destination; at another package once answered. -/

@[simp] theorem keepsFiles_cmdWritePa (who c k pa data poison va) : KeepsFiles (cmdWritePa who c k pa data poison va) := by
  unfold cmdWritePa; exact .byParts

@[simp] theorem keepsFiles_cmdWritePiece (who c va data poison) : KeepsFiles (cmdWritePiece who c va data poison) := by
  unfold cmdWritePiece; exact .byParts

/-! Flag computations. -/

@[simp] theorem keepsFiles_addFlags (f) : KeepsFiles (addFlags f) := by unfold addFlags; exact .byParts

/-! Counter instructions: adds. -/

@[simp] theorem keepsFiles_queueAdd (ref v rel) : KeepsFiles (queueAdd ref v rel) := by unfold queueAdd; exact .byParts
@[simp] theorem keepsFiles_addRelease (x) : KeepsFiles (addRelease x) := by unfold addRelease; exact .byParts
@[simp] theorem keepsFiles_addCoreCounter (x v) : KeepsFiles (addCoreCounter x v) := by unfold addCoreCounter; exact .byParts
@[simp] theorem keepsFiles_caddReg (x) : KeepsFiles (caddReg x) := by unfold caddReg; exact .byParts

/-! Waits. -/

@[simp] theorem keepsFiles_waitDone (acq rels) : KeepsFiles (waitDone acq rels) := by unfold waitDone; exact .byParts
@[simp] theorem keepsFiles_waitCounter (x) : KeepsFiles (waitCounter x) := by unfold waitCounter; exact .byParts
@[simp] theorem keepsFiles_readCounter (x) : KeepsFiles (readCounter x) := by unfold readCounter; exact .byParts
@[simp] theorem keepsFiles_initCounter (x) : KeepsFiles (initCounter x) := by unfold initCounter; exact .byParts

/-! Memory counters and words. -/

@[simp] theorem keepsFiles_memRef (ref) : KeepsFiles (memRef ref) := by unfold memRef; exact .byParts
@[simp] theorem keepsFiles_memOperands (x) : KeepsFiles (memOperands x) := by unfold memOperands; exact .byParts
@[simp] theorem keepsFiles_addMemCounter (x) : KeepsFiles (addMemCounter x) := by unfold addMemCounter; exact .byParts
@[simp] theorem keepsFiles_checkedWord (ref pa) : KeepsFiles (checkedWord ref pa) := by unfold checkedWord; exact .byParts
@[simp] theorem keepsFiles_waitMemCounter (x) : KeepsFiles (waitMemCounter x) := by unfold waitMemCounter; exact .byParts
@[simp] theorem keepsFiles_currentWord (ref) : KeepsFiles (currentWord ref) := by unfold currentWord; exact .byParts
@[simp] theorem keepsFiles_waitWordAt (ref thr acq) : KeepsFiles (waitWordAt ref thr acq) := by unfold waitWordAt; exact .byParts
@[simp] theorem keepsFiles_waitWord (x) : KeepsFiles (waitWord x) := by unfold waitWord; exact .byParts

/-! Memory-side atomics. -/

@[simp] theorem keepsFiles_atomicAt (pa n fn b c) : KeepsFiles (atomicAt pa n fn b c) := by unfold atomicAt; exact .byParts
@[simp] theorem keepsFiles_atomPlace (c ref) : KeepsFiles (atomPlace c ref) := by unfold atomPlace; exact .byParts
@[simp] theorem keepsFiles_atomPlaceOf (a ref) : KeepsFiles (atomPlaceOf a ref) := by unfold atomPlaceOf; exact .byParts
@[simp] theorem keepsFiles_atomic (fn x) : KeepsFiles (atomic fn x) := by unfold atomic; exact .byParts

/-! Which writes a register takes. -/

@[simp] theorem keepsFiles_admitted (w o v) {x} (hx : KeepsFiles x) : KeepsFiles (admitted w o v x) := by unfold admitted; exact .byParts
@[simp] theorem keepsFiles_plainWrite (o v) : KeepsFiles (plainWrite o v) := by unfold plainWrite; exact .byParts

/-! Fetching: code. -/

@[simp] theorem keepsFiles_jump (target) : KeepsFiles (jump target) := by unfold jump; exact .byParts

/-! Issue. -/

@[simp] theorem keepsFiles_checkLine (a n) : KeepsFiles (checkLine a n) := by unfold checkLine; exact .byParts
@[simp] theorem keepsFiles_crossLine (a) : KeepsFiles (crossLine a) := by unfold crossLine; exact .byParts
@[simp] theorem keepsFiles_remoteFailure (c) : KeepsFiles (remoteFailure c) := by unfold remoteFailure; exact .byParts
@[simp] theorem keepsFiles_afterRelease (a) : KeepsFiles (afterRelease a) := by unfold afterRelease; exact .byParts
@[simp] theorem keepsFiles_fetch : KeepsFiles fetch := by unfold fetch; exact .byParts

end Sys2Proof.Laws
end

section
/-! Commands, queues, tasks, slots and front ends keep the register files in canonical form. -/
namespace Sys2Proof.Laws
open Sys2Proof.Machine
set_option Elab.async false

variable {α β : Type}

/-! Cart commands: records. -/

@[simp] theorem keepsFiles_enqueueCart (x opc fn r a b cl) : KeepsFiles (enqueueCart x opc fn r a b cl) := by unfold enqueueCart; exact .byParts
@[simp] theorem keepsFiles_issueCart (opc fn x) : KeepsFiles (issueCart opc fn x) := by unfold issueCart; exact .byParts

/-! Ranks. -/

@[simp] theorem keepsFiles_resolveRank (k r) : KeepsFiles (resolveRank k r) := by unfold resolveRank; exact .byParts
@[simp] theorem keepsFiles_dropRanks (k) : KeepsFiles (dropRanks k) := by unfold dropRanks; exact .byParts
@[simp] theorem keepsFiles_dropRank (k r) : KeepsFiles (dropRank k r) := by unfold dropRank; exact .byParts

@[simp] theorem keepsFiles_sendToRank (who k typ pkg rank payload) : KeepsFiles (sendToRank who k typ pkg rank payload) := by
  refine .look fun s h => ?_
  split
  · exact .pure _
  · exact .bind (.set (h.same (enqueue_contexts _ _ _ _))) fun _ => .pure _

/-! Chimney sweeps: starting. -/

@[simp] theorem keepsFiles_startSweep (k b) : KeepsFiles (startSweep k b) := by unfold startSweep; exact .byParts
@[simp] theorem keepsFiles_sendCtl (k dst typ payload) : KeepsFiles (sendCtl k dst typ payload) := by unfold sendCtl; exact .byParts
@[simp] theorem keepsFiles_eachChild (k payload) : KeepsFiles (eachChild k payload) := by unfold eachChild; exact .byParts
@[simp] theorem keepsFiles_qbarReached (k t) : KeepsFiles (qbarReached k t) := by unfold qbarReached; exact .byParts

/-! Class queues, host entries and completions: waits and signals in the counter window. -/

@[simp] theorem keepsFiles_windowWait (k i thr) : KeepsFiles (windowWait k i thr) := by unfold windowWait; exact .byParts

/-! Completions. -/

@[simp] theorem keepsFiles_postCpl (k c) : KeepsFiles (postCpl k c) := by unfold postCpl; exact .byParts
@[simp] theorem keepsFiles_endEntry (k e status value) : KeepsFiles (endEntry k e status value) := by unfold endEntry; exact .byParts
@[simp] theorem keepsFiles_dequeue (k c) : KeepsFiles (dequeue k c) := by unfold dequeue; exact .byParts
@[simp] theorem keepsFiles_hostHead (k c kind) : KeepsFiles (hostHead k c kind) := by unfold hostHead; exact .byParts
@[simp] theorem keepsFiles_entryWait (k e) : KeepsFiles (entryWait k e) := by unfold entryWait; exact .byParts

@[simp] theorem keepsFiles_dispatch (k c kind) {act} (hact : ∀ e, KeepsFiles (act e)) : KeepsFiles (dispatch k c kind act) := by
  unfold dispatch; exact .byParts

@[simp] theorem keepsFiles_complete (k c e status value) : KeepsFiles (complete k c e status value) := by unfold complete; exact .byParts
@[simp] theorem keepsFiles_waitCancel (k c) : KeepsFiles (waitCancel k c) := by unfold waitCancel; exact .byParts

/-! Completion records. -/

@[simp] theorem keepsFiles_blockStore (pa data) : KeepsFiles (blockStore pa data) := by unfold blockStore; exact .byParts
@[simp] theorem keepsFiles_completionPost (f) : KeepsFiles (completionPost f) := by unfold completionPost; exact .byParts

/-! The graph sequencer: runs. -/

@[simp] theorem keepsFiles_endRun (k cause) : KeepsFiles (endRun k cause) := by unfold endRun; exact .byParts
@[simp] theorem keepsFiles_noteFailure (k cause) : KeepsFiles (noteFailure k cause) := by unfold noteFailure; exact .byParts
@[simp] theorem keepsFiles_graphCapture (k) : KeepsFiles (graphCapture k) := by unfold graphCapture; exact .byParts

/-! Node issue. -/

@[simp] theorem keepsFiles_headNode (k) : KeepsFiles (headNode k) := by unfold headNode; exact .byParts
@[simp] theorem keepsFiles_nodeWait (k st n) : KeepsFiles (nodeWait k st n) := by unfold nodeWait; exact .byParts
@[simp] theorem keepsFiles_advance (k) : KeepsFiles (advance k) := by unfold advance; exact .byParts
@[simp] theorem keepsFiles_nodeSignal (k n rels) : KeepsFiles (nodeSignal k n rels) := by unfold nodeSignal; exact .byParts
@[simp] theorem keepsFiles_nodeFail (k n cause) : KeepsFiles (nodeFail k n cause) := by unfold nodeFail; exact .byParts
@[simp] theorem keepsFiles_newTask (k t) : KeepsFiles (newTask k t) := by unfold newTask; exact .byParts
@[simp] theorem keepsFiles_issueTaskNode (k) : KeepsFiles (issueTaskNode k) := by unfold issueTaskNode; exact .byParts
@[simp] theorem keepsFiles_issueChild (k c) : KeepsFiles (issueChild k c) := by unfold issueChild; exact .byParts

@[simp] theorem keepsFiles_firstOf (xs) (h : ∀ x ∈ xs, KeepsFiles x) : KeepsFiles (firstOf xs) := by
  induction xs with
  | nil => exact .halt
  | cons x xs ih =>
    obtain ⟨hx, hxs⟩ := List.forall_mem_cons.1 h
    refine ⟨fun s hs => ?_⟩
    have hend := hx.keeps s hs
    unfold firstOf
    cases hr : x s with
    | ok a t => rw [hr] at hend; exact hend
    | error e t => exact (ih hxs).keeps s hs

@[simp] theorem keepsFiles_newTransfer (k t) : KeepsFiles (newTransfer k t) := by unfold newTransfer; exact .byParts
@[simp] theorem keepsFiles_nodeCoachIssue (k) : KeepsFiles (nodeCoachIssue k) := by unfold nodeCoachIssue; exact .byParts
@[simp] theorem keepsFiles_nodeQbarIssue (k) : KeepsFiles (nodeQbarIssue k) := by unfold nodeQbarIssue; exact .byParts
@[simp] theorem keepsFiles_nodeNopIssue (k) : KeepsFiles (nodeNopIssue k) := by unfold nodeNopIssue; exact .byParts
@[simp] theorem keepsFiles_cancelHead (k) : KeepsFiles (cancelHead k) := by unfold cancelHead; exact .byParts
@[simp] theorem keepsFiles_cancelChild (k c) : KeepsFiles (cancelChild k c) := by unfold cancelChild; exact .byParts

/-! Drains and sweeps. -/

@[simp] theorem keepsFiles_stepDrained (k) : KeepsFiles (stepDrained k) := by unfold stepDrained; exact .byParts
@[simp] theorem keepsFiles_sweepClose (k) : KeepsFiles (sweepClose k) := by unfold sweepClose; exact .byParts
@[simp] theorem keepsFiles_qbarLeave (k t) : KeepsFiles (qbarLeave k t) := by unfold qbarLeave; exact .byParts
@[simp] theorem keepsFiles_sweepMet (k w) : KeepsFiles (sweepMet k w) := by unfold sweepMet; exact .byParts
@[simp] theorem keepsFiles_sweepAgain (k w) : KeepsFiles (sweepAgain k w) := by unfold sweepAgain; exact .byParts
@[simp] theorem keepsFiles_sweepDecide (k w ok) : KeepsFiles (sweepDecide k w ok) := by unfold sweepDecide; exact .byParts
@[simp] theorem keepsFiles_sweepLast (k w) : KeepsFiles (sweepLast k w) := by unfold sweepLast; exact .byParts
@[simp] theorem keepsFiles_sweepSums (k w) : KeepsFiles (sweepSums k w) := by unfold sweepSums; exact .byParts
@[simp] theorem keepsFiles_sweepReturn (k) : KeepsFiles (sweepReturn k) := by unfold sweepReturn; exact .byParts
@[simp] theorem keepsFiles_chimReceived (k m) : KeepsFiles (chimReceived k m) := by unfold chimReceived; exact .byParts

/-! The end of tasks. -/

@[simp] theorem keepsFiles_endChildDispatch (k t) : KeepsFiles (endChildDispatch k t) := by unfold endChildDispatch; exact .byParts
@[simp] theorem keepsFiles_taskEnd (k t) : KeepsFiles (taskEnd k t) := by unfold taskEnd; exact .byParts
@[simp] theorem keepsFiles_fatalError (k t cause) : KeepsFiles (fatalError k t cause) := by unfold fatalError; exact .byParts

/-! Hearth slots and the entries that act on them: the front end's translation. -/

@[simp] theorem keepsFiles_frontRead (k ps) : KeepsFiles (frontRead k ps) := by
  induction ps with
  | nil => exact .pure _
  | cons p ps ih => unfold frontRead; exact .byParts

@[simp] theorem keepsFiles_residencyCheck (k e) : KeepsFiles (residencyCheck k e) := by unfold residencyCheck; exact .byParts

/-! Runs. -/

@[simp] theorem keepsFiles_acceptRun (k c e steps) : KeepsFiles (acceptRun k c e steps) := by unfold acceptRun; exact .byParts

@[simp] theorem keepsFiles_startRun (k c e) {act} (hact : ∀ e, KeepsFiles (act e)) : KeepsFiles (startRun k c e act) := by
  unfold startRun; exact .byParts

@[simp] theorem keepsFiles_launchSlot (k c e) : KeepsFiles (launchSlot k c e) := keepsFiles_startRun _ _ _ fun _ => .byParts
@[simp] theorem keepsFiles_graphRun (k c e) : KeepsFiles (graphRun k c e) := keepsFiles_startRun _ _ _ fun _ => .byParts

/-! Loads. -/

@[simp] theorem keepsFiles_slotLoad (k c e) : KeepsFiles (slotLoad k c e) := by unfold slotLoad; exact .byParts

@[simp] theorem keepsFiles_extendMeas (n d) : KeepsFiles (extendMeas n d) :=
  .modifySame fun s => by
    refine SameContexts.foldl (fun s w => ?_) _ s
    exact ⟨rfl, rfl⟩

@[simp] theorem keepsFiles_loadImage (k x e) : KeepsFiles (loadImage k x e) := by unfold loadImage; exact .byParts
@[simp] theorem keepsFiles_slotLoadDone (k n) : KeepsFiles (slotLoadDone k n) := by unfold slotLoadDone; exact .byParts

/-! Evictions. -/

@[simp] theorem keepsFiles_slotEvict (k c e) : KeepsFiles (slotEvict k c e) := by unfold slotEvict; exact .byParts
@[simp] theorem keepsFiles_slotEvictDone (k n) : KeepsFiles (slotEvictDone k n) := by unfold slotEvictDone; exact .byParts

/-! COACH and XPOSE entries. -/

@[simp] theorem keepsFiles_takeNumber (k c) : KeepsFiles (takeNumber k c) := by unfold takeNumber; exact .byParts

@[simp] theorem keepsFiles_beginTransfer (k c num e source owner block) : KeepsFiles (beginTransfer k c num e source owner block) := by
  unfold beginTransfer; exact .byParts

@[simp] theorem keepsFiles_coachEntry (k c e) : KeepsFiles (coachEntry k c e) := by unfold coachEntry; exact .byParts
@[simp] theorem keepsFiles_xposeEntry (k c) : KeepsFiles (xposeEntry k c) := by unfold xposeEntry; exact .byParts

/-! The front ends' registers, their watchdogs, and the insertion of entry groups into class queues: the ring's state. -/

@[simp] theorem keepsFiles_setRingState (f n) : KeepsFiles (setRingState f n) := by unfold setRingState; exact .byParts
@[simp] theorem keepsFiles_rejectRing (f) : KeepsFiles (rejectRing f) := by unfold rejectRing; exact .byParts
@[simp] theorem keepsFiles_stopRing (f cause idx) : KeepsFiles (stopRing f cause idx) := by unfold stopRing; exact .byParts
@[simp] theorem keepsFiles_parkStore (f v) : KeepsFiles (parkStore f v) := by unfold parkStore; exact .byParts
@[simp] theorem keepsFiles_unparkStore (f) : KeepsFiles (unparkStore f) := by unfold unparkStore; exact .byParts
@[simp] theorem keepsFiles_restartFrontEnd (f) : KeepsFiles (restartFrontEnd f) := by unfold restartFrontEnd; exact .byParts
@[simp] theorem keepsFiles_loadFrontEnd (f) : KeepsFiles (loadFrontEnd f) := by unfold loadFrontEnd; exact .byParts

/-! RING_CTL. -/

@[simp] theorem keepsFiles_startRing (f) : KeepsFiles (startRing f) := by unfold startRing; exact .byParts
@[simp] theorem keepsFiles_restartRing (f) : KeepsFiles (restartRing f) := by unfold restartRing; exact .byParts
@[simp] theorem keepsFiles_ringCtl (f v) : KeepsFiles (ringCtl f v) := by unfold ringCtl; exact .byParts
@[simp] theorem keepsFiles_ringBase (f off v) : KeepsFiles (ringBase f off v) := by unfold ringBase; exact .byParts
@[simp] theorem keepsFiles_tailCheck (f) : KeepsFiles (tailCheck f) := by unfold tailCheck; exact .byParts

/-! FE_QPUSH. -/

@[simp] theorem keepsFiles_viewEntry (f pa) : KeepsFiles (viewEntry f pa) := by unfold viewEntry; exact .byParts

@[simp] theorem keepsFiles_viewEntries (f i n) : KeepsFiles (viewEntries f i n) := by
  induction n generalizing i with
  | zero => exact .pure _
  | succ n ih => unfold viewEntries; exact .byParts

@[simp] theorem keepsFiles_groupDone (f pos n) : KeepsFiles (groupDone f pos n) := by unfold groupDone; exact .byParts
@[simp] theorem keepsFiles_rejectGroup (f pos n e cause) : KeepsFiles (rejectGroup f pos n e cause) := by unfold rejectGroup; exact .byParts
@[simp] theorem keepsFiles_pushGroup (f n v) : KeepsFiles (pushGroup f n v) := by unfold pushGroup; exact .byParts
@[simp] theorem keepsFiles_feQpush (f v) : KeepsFiles (feQpush f v) := by unfold feQpush; exact .byParts
@[simp] theorem keepsFiles_feQpushBy (f w v stop) : KeepsFiles (feQpushBy f w v stop) := keepsFiles_admitted _ _ _ .byParts
@[simp] theorem keepsFiles_queueSpace (f) : KeepsFiles (queueSpace f) := by unfold queueSpace; exact .byParts

/-! The watchdog. -/

@[simp] theorem keepsFiles_wdogCfg (f v) : KeepsFiles (wdogCfg f v) := by unfold wdogCfg; exact .byParts
@[simp] theorem keepsFiles_wdogKick (f) : KeepsFiles (wdogKick f) := by unfold wdogKick; exact .byParts
@[simp] theorem keepsFiles_holdFrontEnd (f) : KeepsFiles (holdFrontEnd f) := by unfold holdFrontEnd; exact .byParts
@[simp] theorem keepsFiles_wdogHold (f) : KeepsFiles (wdogHold f) := by unfold wdogHold; exact .byParts
@[simp] theorem keepsFiles_wdogExpiry (f) : KeepsFiles (wdogExpiry f) := by unfold wdogExpiry; exact .byParts

/-! The second tier. -/

@[simp] theorem keepsFiles_t2Cfg (v) : KeepsFiles (t2Cfg v) := by unfold t2Cfg; exact .byParts

end Sys2Proof.Laws
end

section
/-! The operations on registers and tiles keep the register files in canonical form. -/
namespace Sys2Proof.Laws
open Sys2Proof.Machine
set_option Elab.async false

variable {α β : Type}

/-! The integer instructions: shapes of effect. -/

@[simp] theorem keepsFiles_binary (x f) : KeepsFiles (binary x f) := by unfold binary; exact .byParts
@[simp] theorem keepsFiles_immediate (x f) : KeepsFiles (immediate x f) := by unfold immediate; exact .byParts
@[simp] theorem keepsFiles_unary (x f) : KeepsFiles (unary x f) := by unfold unary; exact .byParts
@[simp] theorem keepsFiles_guards (x f) : KeepsFiles (guards x f) := by unfold guards; exact .byParts
@[simp] theorem keepsFiles_moveHigh (x) : KeepsFiles (moveHigh x) := by unfold moveHigh; exact .byParts
@[simp] theorem keepsFiles_select (x) : KeepsFiles (select x) := by unfold select; exact .byParts

/-! Tiles: memory behind a row. -/

@[simp] theorem keepsFiles_readPieces (i sp a ps) : KeepsFiles (readPieces i sp a ps) := by unfold readPieces; exact .byParts
@[simp] theorem keepsFiles_checkPieces (i sp a ps) : KeepsFiles (checkPieces i sp a ps) := by unfold checkPieces; exact .byParts

@[simp] theorem keepsFiles_writePieces_go (i sp a ps bs) : KeepsFiles (writePieces.go i sp a ps bs) := by
  induction ps generalizing bs with
  | nil => exact .pure _
  | cons p ps ih => unfold writePieces.go; exact .byParts
@[simp] theorem keepsFiles_writePieces (i sp a ps data) : KeepsFiles (writePieces i sp a ps data) := by
  unfold writePieces; exact .byParts

/-! Tile operands. -/

@[simp] theorem keepsFiles_storeSrc (which t) : KeepsFiles (storeSrc which t) := by unfold storeSrc; exact .byParts
@[simp] theorem keepsFiles_portTile (which n peek) : KeepsFiles (portTile which n peek) := by unfold portTile; exact .byParts
@[simp] theorem keepsFiles_tileSrc (which code) : KeepsFiles (tileSrc which code) := by unfold tileSrc; exact .byParts
@[simp] theorem keepsFiles_popAny (which n) : KeepsFiles (popAny which n) := by unfold popAny; exact .byParts
@[simp] theorem keepsFiles_bcastSrc (which code) : KeepsFiles (bcastSrc which code) := by unfold bcastSrc; exact .byParts
@[simp] theorem keepsFiles_Src_row (src typ cols i) : KeepsFiles (Src.row src typ cols i) := by unfold Src.row; exact .byParts
@[simp] theorem keepsFiles_Src_all (src) : KeepsFiles (Src.all src) := by unfold Src.all; exact .byParts

/-! Tile destinations. -/

@[simp] theorem keepsFiles_storeDst (t push) : KeepsFiles (storeDst t push) := by unfold storeDst; exact .byParts
@[simp] theorem keepsFiles_tileDst (x) : KeepsFiles (tileDst x) := by unfold tileDst; exact .byParts
@[simp] theorem keepsFiles_Dst_setRow (dst i es) : KeepsFiles (Dst.setRow dst i es) := by unfold Dst.setRow; exact .byParts
@[simp] theorem keepsFiles_Dst_done (dst) : KeepsFiles (Dst.done dst) := by unfold Dst.done; exact .byParts

/-! Checks before any effect. -/

@[simp] theorem keepsFiles_checkOverlap (dst srcs cross) : KeepsFiles (checkOverlap dst srcs cross) := by unfold checkOverlap; exact .byParts
@[simp] theorem keepsFiles_typeFault : KeepsFiles (typeFault : Exec α) := by unfold typeFault; exact .byParts
@[simp] theorem keepsFiles_shapeFault : KeepsFiles (shapeFault : Exec α) := by unfold shapeFault; exact .byParts
@[simp] theorem keepsFiles_needType (b) : KeepsFiles (needType b) := by unfold needType; exact .byParts
@[simp] theorem keepsFiles_needShape (b) : KeepsFiles (needShape b) := by unfold needShape; exact .byParts

/-! The run. -/

@[simp] theorem keepsFiles_setCursor (q) : KeepsFiles (setCursor q) := by unfold setCursor; exact .byParts

@[simp] theorem keepsFiles_rowsFrom (q n) {f} (hf : ∀ i, KeepsFiles (f i)) : KeepsFiles (rowsFrom q n f) := by
  induction n generalizing q with
  | zero => exact .pure _
  | succ n ih => unfold rowsFrom; exact .byParts

@[simp] theorem keepsFiles_runRows (dst) {row} (hrow : ∀ i, KeepsFiles (row i)) : KeepsFiles (runRows dst row) := by
  unfold runRows
  exact .bind keepsFiles_getHart fun _ => .bind (keepsFiles_rowsFrom _ _ fun _ => .byParts) fun _ => .byParts

@[simp] theorem keepsFiles_runFull (dst) {row} (hrow : ∀ i, KeepsFiles (row i)) : KeepsFiles (runFull dst row) :=
  keepsFiles_runRows _ fun _ => .byParts

/-! Tile arithmetic: shapes of effect. -/

@[simp] theorem keepsFiles_elementwise (x srcs ok f) : KeepsFiles (elementwise x srcs ok f) := by
  have hrule := @keepsFiles_runFull
  unfold elementwise; exact .byParts

@[simp] theorem keepsFiles_tileBin (fn x) : KeepsFiles (tileBin fn x) := by unfold tileBin; exact .byParts
@[simp] theorem keepsFiles_tileTri (fn x) : KeepsFiles (tileTri fn x) := by unfold tileTri; exact .byParts

@[simp] theorem keepsFiles_tileSel (x) : KeepsFiles (tileSel x) := by
  have hrule := @keepsFiles_runFull
  unfold tileSel; exact .byParts

@[simp] theorem keepsFiles_tileUna (fn x) : KeepsFiles (tileUna fn x) := by unfold tileUna; exact .byParts

@[simp] theorem keepsFiles_tileCmp (fn x) : KeepsFiles (tileCmp fn x) := by
  have hrule := @keepsFiles_runFull
  unfold tileCmp; exact .byParts

@[simp] theorem keepsFiles_tileCpx (fn x) : KeepsFiles (tileCpx fn x) := by unfold tileCpx; exact .byParts
@[simp] theorem keepsFiles_tileConj (x) : KeepsFiles (tileConj x) := by unfold tileConj; exact .byParts

@[simp] theorem keepsFiles_tileCvt (x) : KeepsFiles (tileCvt x) := by
  have hrule := @keepsFiles_runFull
  unfold tileCvt; exact .byParts

@[simp] theorem keepsFiles_tileScale (mul x) : KeepsFiles (tileScale mul x) := by
  have hrule := @keepsFiles_runFull
  unfold tileScale; exact .byParts

@[simp] theorem keepsFiles_tileRows (fn x) : KeepsFiles (tileRows fn x) := by
  have hrule := @keepsFiles_runFull
  unfold tileRows; exact .byParts

@[simp] theorem keepsFiles_tileCols (fn x) : KeepsFiles (tileCols fn x) := by
  have hrule := @keepsFiles_runFull
  unfold tileCols; exact .byParts

@[simp] theorem keepsFiles_tileScan (isMax x) : KeepsFiles (tileScan isMax x) := by
  have hrule := @keepsFiles_runFull
  unfold tileScan; exact .byParts

end Sys2Proof.Laws
end

section
/-! The copy engine and the M and F engines keep the register files in canonical form. -/
namespace Sys2Proof.Laws
open Sys2Proof.Machine
set_option Elab.async false

variable {α β : Type}

/-! The copy engine: places. -/

@[simp] theorem keepsFiles_cartRead (who c floor p n) : KeepsFiles (cartRead who c floor p n) := by unfold cartRead; exact .byParts
@[simp] theorem keepsFiles_cartWrite (who c p data poison) : KeepsFiles (cartWrite who c p data poison) := by unfold cartWrite; exact .byParts

/-! Carried blocks. -/

@[simp] theorem keepsFiles_carryPlace (c write p) : KeepsFiles (carryPlace c write p) := by unfold carryPlace; exact .byParts

/-! One piece of a move. -/

@[simp] theorem keepsFiles_movePiece (c cmd src dst len pos) : KeepsFiles (movePiece c cmd src dst len pos) := by unfold movePiece; exact .byParts

/-! Rows. -/

@[simp] theorem keepsFiles_readEntry (c cmd r) : KeepsFiles (readEntry c cmd r) := by unfold readEntry; exact .byParts

/-! Combination. -/

@[simp] theorem keepsFiles_combineAt (pa op typ sat v) : KeepsFiles (combineAt pa op typ sat v) := by unfold combineAt; exact .byParts
@[simp] theorem keepsFiles_combinePiece (c cmd src dst pos) : KeepsFiles (combinePiece c cmd src dst pos) := by unfold combinePiece; exact .byParts

/-! Morton conversion. -/

@[simp] theorem keepsFiles_mortPiece (c cmd) : KeepsFiles (mortPiece c cmd) := by
  unfold mortPiece
  refine .look fun s _ => ?_
  extract_lets who r d bc rowLen toLin
  generalize (if toLin = true then _ else _) = at'
  obtain ⟨i, bj⟩ := at'
  dsimp -zeta only
  exact .byParts

/-! ATOMN. -/

@[simp] theorem keepsFiles_atomnPiece (c cmd) : KeepsFiles (atomnPiece c cmd) := by unfold atomnPiece; exact .byParts

/-! PUT and GET with another package. -/

@[simp] theorem keepsFiles_putData (c cmd ps) : KeepsFiles (putData c cmd ps) := by
  induction ps generalizing cmd with
  | nil => exact .pure _
  | cons a as ih => unfold putData; exact .byParts

@[simp] theorem keepsFiles_sendRuns (c cmd pkg ps) : KeepsFiles (sendRuns c cmd pkg ps) := by
  induction ps with
  | nil => exact .pure _
  | cons a as ih => unfold sendRuns; exact .byParts

@[simp] theorem keepsFiles_rankSend (c cmd pkg) : KeepsFiles (rankSend c cmd pkg) := by unfold rankSend; exact .byParts

@[simp] theorem keepsFiles_getWrite (c cmd ps) : KeepsFiles (getWrite c cmd ps) := by
  induction ps generalizing cmd with
  | nil => exact .pure _
  | cons a as ih => unfold getWrite; exact .byParts

/-! The steps of a command. -/

@[simp] theorem keepsFiles_cartPiece (c cmd) : KeepsFiles (cartPiece c cmd) := by unfold cartPiece; exact .byParts
@[simp] theorem keepsFiles_cartAnswered (c cmd) : KeepsFiles (cartAnswered c cmd) := by unfold cartAnswered; exact .byParts
@[simp] theorem keepsFiles_cartStep (c cmd) : KeepsFiles (cartStep c cmd) := by unfold cartStep; exact .byParts

@[simp] theorem keepsFiles_cartSteps (c n cmd) : KeepsFiles (cartSteps c n cmd) := by
  induction n generalizing cmd with
  | zero => exact .pure _
  | succ n ih =>
    refine ⟨fun s hs => ?_⟩
    have hstep := keepsFiles_cartStep c cmd
    unfold cartSteps
    split
    · exact (ih _).keeps _ (hstep.ok hs ‹_›)
    · exact hs
    · exact hstep.keeps s hs

/-! Events. -/

@[simp] theorem keepsFiles_setCart (c store cmd) : KeepsFiles (setCart c store cmd) := by unfold setCart; exact .byParts
@[simp] theorem keepsFiles_dropCart (c store id) : KeepsFiles (dropCart c store id) := by unfold dropCart; exact .byParts
@[simp] theorem keepsFiles_failCart (c store cmd f addr pos) : KeepsFiles (failCart c store cmd f addr pos) := by unfold failCart; exact .byParts
@[simp] theorem keepsFiles_cartStart (c store) : KeepsFiles (cartStart c store) := by unfold cartStart; exact .byParts
@[simp] theorem keepsFiles_cartComplete (c store n) : KeepsFiles (cartComplete c store n) := by unfold cartComplete; exact .byParts

@[simp] theorem keepsFiles_cartFail (c store) : KeepsFiles (cartFail c store) := by
  refine ⟨fun s hs => ?_⟩
  unfold cartFail
  split
  · exact hs
  · split
    · exact hs
    · split
      · exact (keepsFiles_failCart _ _ _ _ _ _).keeps _ ((keepsFiles_cartStep _ _).ok hs ‹_›)
      · exact hs

/-! How M and F commands run: operands. -/

@[simp] theorem keepsFiles_mfSrc (which code) : KeepsFiles (mfSrc which code) := by unfold mfSrc; exact .byParts
@[simp] theorem keepsFiles_mfDst (x) : KeepsFiles (mfDst x) := by unfold mfDst; exact .byParts
@[simp] theorem keepsFiles_needValid (ds) : KeepsFiles (needValid ds) := by unfold needValid; exact .byParts
@[simp] theorem keepsFiles_capture (floor src) : KeepsFiles (capture floor src) := by unfold capture; exact .byParts

/-! Stamps and waits. -/

@[simp] theorem keepsFiles_orMiss {x} (hx : KeepsFiles x) : KeepsFiles (orMiss x) := by
  refine ⟨fun s hs => ?_⟩
  unfold orMiss
  split
  · exact hx.ok hs ‹_›
  · split
    · exact hx.error hs ‹_›
    · exact (keepsFiles_trap _).keeps s hs

@[simp] theorem keepsFiles_stampGate (c m bank) {go} (hgo : KeepsFiles go) : KeepsFiles (stampGate c m bank go) := by
  have hmiss := keepsFiles_orMiss hgo
  unfold stampGate; exact .byParts

@[simp] theorem keepsFiles_waitClause (c) {go} (hgo : ∀ cl floor, KeepsFiles (go cl floor)) : KeepsFiles (waitClause c go) := by
  unfold waitClause; exact .byParts

@[simp] theorem keepsFiles_mfCommand (c m bank) {go} (hgo : ∀ cl floor, KeepsFiles (go cl floor)) : KeepsFiles (mfCommand c m bank go) :=
  keepsFiles_stampGate _ _ _ (keepsFiles_waitClause _ hgo)

/-! Issue. -/

@[simp] theorem keepsFiles_enterEngine (c tm cmd) : KeepsFiles (enterEngine c tm cmd) := by unfold enterEngine; exact .byParts
@[simp] theorem keepsFiles_issueMf (c tm cl op units ckind push) : KeepsFiles (issueMf c tm cl op units ckind push) := by unfold issueMf; exact .byParts

/-! Running. -/

@[simp] theorem keepsFiles_TileRef_elems_go (c p pos len is) : KeepsFiles (TileRef.elems.go c p pos len is) := by
  induction is with
  | nil => exact .pure _
  | cons i is ih => unfold TileRef.elems.go; exact .byParts
@[simp] theorem keepsFiles_TileRef_elems (c r) : KeepsFiles (TileRef.elems c r) := by unfold TileRef.elems; exact .byParts

@[simp] theorem keepsFiles_elemsAll (c rs) : KeepsFiles (elemsAll c rs) := by
  induction rs with
  | nil => exact .pure _
  | cons a as ih => unfold elemsAll; exact .byParts

@[simp] theorem keepsFiles_writeGranules (who c ps) : KeepsFiles (writeGranules who c ps) := by
  induction ps with
  | nil => exact .pure _
  | cons a as ih => unfold writeGranules; exact .byParts

@[simp] theorem keepsFiles_checkGranules (c ps) : KeepsFiles (checkGranules c ps) := by
  induction ps with
  | nil => exact .pure _
  | cons a as ih => unfold checkGranules; exact .byParts

@[simp] theorem keepsFiles_memRow (who c sp a off data) : KeepsFiles (memRow who c sp a off data) := by unfold memRow; exact .byParts
@[simp] theorem keepsFiles_tileRow (who c d port i es) : KeepsFiles (tileRow who c d port i es) := by unfold tileRow; exact .byParts

@[simp] theorem keepsFiles_runRowsOf {row} (hrow : ∀ i, KeepsFiles (row i)) (n cmd) : KeepsFiles (runRowsOf row n cmd) := by
  induction n generalizing cmd with
  | zero => exact .pure _
  | succ n ih => unfold runRowsOf; exact .byParts

/-! The M engine: arithmetic. -/

@[simp] theorem keepsFiles_runM (c n cmd) : KeepsFiles (runM c n cmd) := by
  have hrows {row} := @keepsFiles_runRowsOf row
  unfold runM
  exact .byParts

/-! Issue. -/

@[simp] theorem keepsFiles_captureOpt (floor s) : KeepsFiles (captureOpt floor s) := by unfold captureOpt; exact .byParts

@[simp] theorem keepsFiles_issueMma (opc x) : KeepsFiles (issueMma opc x) := by
  have hwait := @keepsFiles_waitClause
  have hmf := @keepsFiles_mfCommand
  unfold issueMma
  exact .byParts

@[simp] theorem keepsFiles_issueAccld (x) : KeepsFiles (issueAccld x) := by
  have hrule := @keepsFiles_mfCommand
  unfold issueAccld; exact .byParts

@[simp] theorem keepsFiles_issueAccst (x) : KeepsFiles (issueAccst x) := by
  have hrule := @keepsFiles_mfCommand
  unfold issueAccst; exact .byParts

@[simp] theorem keepsFiles_issueAccclr (x) : KeepsFiles (issueAccclr x) := by unfold issueAccclr; exact .byParts

@[simp] theorem keepsFiles_issueAccstg (x) : KeepsFiles (issueAccstg x) := by
  have hrule := @keepsFiles_mfCommand
  unfold issueAccstg; exact .byParts

/-! The F engine: legendre values. -/

@[simp] theorem keepsFiles_withElems (c cmd a) {f} (hf : ∀ m, KeepsFiles (f m)) : KeepsFiles (withElems c cmd a f) := by
  unfold withElems; exact .byParts

@[simp] theorem keepsFiles_runF (c n cmd) : KeepsFiles (runF c n cmd) := by
  have hrows {row} := @keepsFiles_runRowsOf row
  have helems (c cmd a f) := @keepsFiles_withElems c cmd a f
  unfold runF
  exact .byParts

/-! Issue. -/

@[simp] theorem keepsFiles_pendingPlan (q b) : KeepsFiles (pendingPlan q b) := by unfold pendingPlan; exact .byParts
@[simp] theorem keepsFiles_readPlan (b floor) : KeepsFiles (readPlan b floor) := by unfold readPlan; exact .byParts
@[simp] theorem keepsFiles_planShape (b) : KeepsFiles (planShape b) := by unfold planShape; exact .byParts

@[simp] theorem keepsFiles_issueFft (inv x) : KeepsFiles (issueFft inv x) := by
  have hrule := @keepsFiles_mfCommand
  unfold issueFft; exact .byParts

@[simp] theorem keepsFiles_issueRfft (inv x) : KeepsFiles (issueRfft inv x) := by
  have hrule := @keepsFiles_mfCommand
  unfold issueRfft; exact .byParts

@[simp] theorem keepsFiles_issueFplan (x) : KeepsFiles (issueFplan x) := by
  have hrule := @keepsFiles_mfCommand
  unfold issueFplan; exact .byParts

@[simp] theorem keepsFiles_issueLeggen (x) : KeepsFiles (issueLeggen x) := by
  have hrule := @keepsFiles_mfCommand
  unfold issueLeggen; exact .byParts

@[simp] theorem keepsFiles_issueFtwm (x) : KeepsFiles (issueFtwm x) := by
  have hrule := @keepsFiles_mfCommand
  unfold issueFtwm; exact .byParts

/-! What happens in the M and F engines: completion. -/

@[simp] theorem keepsFiles_setCmd (c e i m) : KeepsFiles (setCmd c e i m) := by unfold setCmd; exact .byParts
@[simp] theorem keepsFiles_dropCmd (c e i) : KeepsFiles (dropCmd c e i) := by unfold dropCmd; exact .byParts
@[simp] theorem keepsFiles_finishCmd (c cmd) : KeepsFiles (finishCmd c cmd) := by unfold finishCmd; exact .byParts
@[simp] theorem keepsFiles_failCmd (c e cmd cause addr) : KeepsFiles (failCmd c e cmd cause addr) := by unfold failCmd; exact .byParts
@[simp] theorem keepsFiles_runCmd (c e n cmd) : KeepsFiles (runCmd c e n cmd) := by unfold runCmd; exact .byParts
@[simp] theorem keepsFiles_settle (c e i p) : KeepsFiles (settle c e i p) := by unfold settle; exact .byParts
@[simp] theorem keepsFiles_runPair (c n) : KeepsFiles (runPair c n) := by unfold runPair; exact .byParts
@[simp] theorem keepsFiles_answeredRows (who cmd) : KeepsFiles (answeredRows who cmd) := by unfold answeredRows; exact .byParts
@[simp] theorem keepsFiles_mfComplete (c e n) : KeepsFiles (mfComplete c e n) := by unfold mfComplete; exact .byParts
@[simp] theorem keepsFiles_mfAsyncFault (c e cause) : KeepsFiles (mfAsyncFault c e cause) := by unfold mfAsyncFault; exact .byParts

/-! Timed issue. -/

theorem keepsFiles_of_mfCommandOf {w0 w1 stamp x} (h : mfCommandOf w0 w1 stamp = some x) : KeepsFiles x := by
  unfold mfCommandOf at h
  extract_lets opc fn c r at h
  have hr (sh) {b y} (hb : KeepsFiles b) (e : r sh b = some y) : KeepsFiles y := by
    cases e
    exact keepsFiles_runInstr _ _ hb
  clear_value r c fn opc
  split at h
  · obtain ⟨y, -, e⟩ := Option.bind_eq_some_iff.1 h
    exact hr _ (keepsFiles_issueMma _ _) e
  · split at h
    · exact hr _ (keepsFiles_issueAccld _) h
    · exact hr _ (keepsFiles_issueAccst _) h
    · exact hr _ (keepsFiles_issueAccclr _) h
    · exact hr _ (keepsFiles_issueAccstg _) h
    · exact hr _ (keepsFiles_issueFft _ _) h
    · exact hr _ (keepsFiles_issueFft _ _) h
    · exact hr _ (keepsFiles_issueRfft _ _) h
    · exact hr _ (keepsFiles_issueRfft _ _) h
    · exact hr _ (keepsFiles_issueFplan _) h
    · exact hr _ (keepsFiles_issueLeggen _) h
    · exact hr _ (keepsFiles_issueFtwm _) h
    · cases h

@[simp] theorem keepsFiles_timedIssue (c e) : KeepsFiles (timedIssue c e) := by
  unfold timedIssue
  refine .look fun s _ => .bind (.require _) fun _ => .bind (.modifySame fun _ => ⟨rfl, rfl⟩) fun _ => ?_
  split
  · exact keepsFiles_of_mfCommandOf ‹_›
  · exact .halt

@[simp] theorem keepsFiles_pipelineStall (c cycles) : KeepsFiles (pipelineStall c cycles) := by unfold pipelineStall; exact .byParts

/-! Pairs. -/

@[simp] theorem keepsFiles_pairFault (c cause) : KeepsFiles (pairFault c cause) := by unfold pairFault; exact .byParts
@[simp] theorem keepsFiles_pairIssue (c r b sb lead) : KeepsFiles (pairIssue c r b sb lead) := by unfold pairIssue; exact .byParts
@[simp] theorem keepsFiles_pairRendezvous (c) : KeepsFiles (pairRendezvous c) := by unfold pairRendezvous; exact .byParts

/-! The pipeline snapshot buffer. -/

@[simp] theorem keepsFiles_psbDelivery (c) : KeepsFiles (psbDelivery c) := by unfold psbDelivery; exact .byParts

end Sys2Proof.Laws
end

section
/-! Jobs, images, migration, partitions and boot keep the register files in canonical form. -/
namespace Sys2Proof.Laws
open Sys2Proof.Machine
set_option Elab.async false

variable {α β : Type}

/-! Jobs on cores: readiness. -/

@[simp] theorem keepsFiles_refreshReady (k) : KeepsFiles (refreshReady k) := by unfold refreshReady; exact .byParts

/-! Starting jobs. -/

@[simp] theorem keepsFiles_startJobOn (k t task l id c) : KeepsFiles (startJobOn k t task l id c) := by unfold startJobOn; exact .byParts
@[simp] theorem keepsFiles_startGroup (k t id task mux) : KeepsFiles (startGroup k t id task mux) := by
  have hinsert (n : Nat) (j : Job) : KeepsFiles (modify fun s => { s with frames := Map.insert s.frames n ⟨j, [], false, true, false⟩ }) :=
    .modify fun s hs => hs.insertFrame n (by simp [FrameOk])
  unfold startGroup; exact .byParts
@[simp] theorem keepsFiles_taskStart (k t) : KeepsFiles (taskStart k t) := by unfold taskStart; exact .byParts

/-! The end of a job. -/

@[simp] theorem keepsFiles_removeJob (c) : KeepsFiles (removeJob c) := by unfold removeJob; exact .byParts
@[simp] theorem keepsFiles_jobEnd (c) : KeepsFiles (jobEnd c) := by unfold jobEnd; exact .byParts

/-! Suspended ranks. -/

@[simp] theorem keepsFiles_sendSusp (k typ epoch ranks) : KeepsFiles (sendSusp k typ epoch ranks) := by unfold sendSusp; exact .byParts
@[simp] theorem keepsFiles_suspend (k ranks) : KeepsFiles (suspend k ranks) := by unfold suspend; exact .byParts
@[simp] theorem keepsFiles_resumeRanks (k ranks) : KeepsFiles (resumeRanks k ranks) := by unfold resumeRanks; exact .byParts

/-! Pre-emption. -/

@[simp] theorem keepsFiles_saveJob (c running) : KeepsFiles (saveJob c running) := by
  have hsaved {s : State} (hs : FilesOk s) : ∀ x ∈ s.savedHarts c, x.canonical = true := by
    intro x hx
    obtain ⟨e, -, rfl⟩ := List.mem_map.1 hx
    exact hs.hart _
  unfold saveJob
  refine .look fun s hs => ?_
  extract_lets j
  refine .bind .byParts fun _ => .bind .byParts fun _ => .bind (.modify fun t ht => ht.insertFrame j.id (hsaved hs)) fun _ => ?_
  exact .byParts
@[simp] theorem keepsFiles_preemptSave (c) : KeepsFiles (preemptSave c) := by unfold preemptSave; exact .byParts
theorem keepsFiles_restoreJob (c id) {f : Frame} (hf : FrameOk f) : KeepsFiles (restoreJob c id f) := by
  have hback (e : Eng) : KeepsFiles (updHartOf (.stream c e) fun _ => (f.harts.getD e.no Hart.reset).restored) :=
    .updHartOf fun _ _ => Hart.canonical_restored (hf.getD e.no)
  unfold restoreJob; exact .byParts
@[simp] theorem keepsFiles_jobRestore (c id) : KeepsFiles (jobRestore c id) := by
  unfold jobRestore
  refine .look fun s hs => ?_
  split
  · exact .halt
  · have hrestore := keepsFiles_restoreJob c id (hs.frame ‹_›)
    exact .byParts
@[simp] theorem keepsFiles_quantumExpiry (c) : KeepsFiles (quantumExpiry c) := by unfold quantumExpiry; exact .byParts

/-! Residency. -/

@[simp] theorem keepsFiles_residencyChange (c) : KeepsFiles (residencyChange c) := by unfold residencyChange; exact .byParts
@[simp] theorem keepsFiles_proxyAccess (k l a) : KeepsFiles (proxyAccess k l a) := by
  have hadd {s : State} {e : Nat × Frame} (hs : FilesOk s) (p) (he : s.frames.find? p = some e) (n v) :
      KeepsFiles (modify fun s => { s with frames := Map.insert s.frames e.1 { e.2 with job := e.2.job.addCounter n v [] } }) :=
    .modify fun _ ht => ht.insertJob e.1 (hs.frames e (List.mem_of_find?_eq_some he)) _
  unfold proxyAccess; exact .byParts

/-! Deadlock. -/

@[simp] theorem keepsFiles_deadlockFault (c) : KeepsFiles (deadlockFault c) := by unfold deadlockFault; exact .byParts

/-! Translation and port instructions: XLAT. -/

@[simp] theorem keepsFiles_probe (x) : KeepsFiles (probe x) := by unfold probe; exact .byParts
@[simp] theorem keepsFiles_loadRtt (x) : KeepsFiles (loadRtt x) := by unfold loadRtt; exact .byParts

/-! PBIND. -/

@[simp] theorem keepsFiles_bindPort (x) : KeepsFiles (bindPort x) := by unfold bindPort; exact .byParts
@[simp] theorem keepsFiles_unbindPort (x) : KeepsFiles (unbindPort x) := by unfold unbindPort; exact .byParts
@[simp] theorem keepsFiles_portPos (x) : KeepsFiles (portPos x) := by unfold portPos; exact .byParts

/-! Fences, sealing and QBAR, and the invalidation of translations: fences. -/

@[simp] theorem keepsFiles_afterImmediate {x} (hx : KeepsFiles x) : KeepsFiles (afterImmediate x) := by unfold afterImmediate; exact .byParts
@[simp] theorem keepsFiles_fenceRelease (scope) : KeepsFiles (fenceRelease scope) := by unfold fenceRelease; exact .byParts
@[simp] theorem keepsFiles_fenceAcquire (scope) : KeepsFiles (fenceAcquire scope) := by unfold fenceAcquire; exact .byParts

@[simp] theorem keepsFiles_fence (x rel acq) : KeepsFiles (fence x rel acq) := by
  have hrule := @keepsFiles_afterImmediate
  unfold fence; exact .byParts

/-! Invalidation. -/

@[simp] theorem keepsFiles_startInvalidation (k lo hi) : KeepsFiles (startInvalidation k lo hi) := by unfold startInvalidation; exact .byParts
@[simp] theorem keepsFiles_endInvalidation (k lo hi) : KeepsFiles (endInvalidation k lo hi) := by unfold endInvalidation; exact .byParts

/-! Sealing. -/

@[simp] theorem keepsFiles_sealLeaves (a b) : KeepsFiles (sealLeaves a b) := by unfold sealLeaves; exact .byParts
@[simp] theorem keepsFiles_sealRange (x on) : KeepsFiles (sealRange x on) := by unfold sealRange; exact .byParts

/-! QBAR. -/

@[simp] theorem keepsFiles_qbarHere : KeepsFiles qbarHere := by unfold qbarHere; exact .byParts

/-! Clearing a partition, FREEZE and THAW: the cores and the cleared state of a partition. -/

@[simp] theorem keepsFiles_clearCore (c l) : KeepsFiles (clearCore c l) := by unfold clearCore; exact .byParts

@[simp] theorem keepsFiles_clearPart (k lcores phys) : KeepsFiles (clearPart k lcores phys) := by unfold clearPart; exact .byParts

/-! FREEZE. -/

@[simp] theorem keepsFiles_migrateFailed (k c e cause) : KeepsFiles (migrateFailed k c e cause) := by unfold migrateFailed; exact .byParts
@[simp] theorem keepsFiles_writeImage (k c e) : KeepsFiles (writeImage k c e) := by unfold writeImage; exact .byParts
@[simp] theorem keepsFiles_beginFreeze (k c e) : KeepsFiles (beginFreeze k c e) := by unfold beginFreeze; exact .byParts
@[simp] theorem keepsFiles_freezeOn (k c e) : KeepsFiles (freezeOn k c e) := by unfold freezeOn; exact .byParts
@[simp] theorem keepsFiles_migrateFreeze (k c) : KeepsFiles (migrateFreeze k c) := by unfold migrateFreeze; exact .byParts

/-! THAW. -/

@[simp] theorem keepsFiles_restorePart (k c me img secs ids) : KeepsFiles (restorePart k c me img secs ids) := by
  unfold restorePart
  refine .look fun s _ => .bind keepsFiles_fresh fun tick => ?_
  extract_lets slot fs
  have hfs : ∀ f ∈ fs, FrameOk f := by
    intro f hf
    obtain ⟨i, -, rfl⟩ := List.mem_map.1 hf
    exact frameOk_frameOfImage _ _ _ _ _ _
  have hinsert : KeepsFiles (modify fun t =>
      { t with frames := fs.foldl (fun m f => Map.insert m f.job.id f) t.frames, nextJob := s.nextJob + ids.length }) :=
    .modify fun t ht => (ht.insertFrames hfs).same ⟨rfl, rfl⟩
  clear_value fs
  exact .byParts
@[simp] theorem keepsFiles_restoreCores (k secs) : KeepsFiles (restoreCores k secs) := by unfold restoreCores; exact .byParts
@[simp] theorem keepsFiles_finishThaw (k c num e) : KeepsFiles (finishThaw k c num e) := by unfold finishThaw; exact .byParts
@[simp] theorem keepsFiles_migrateThaw (k c e) : KeepsFiles (migrateThaw k c e) := by unfold migrateThaw; exact .byParts
@[simp] theorem keepsFiles_ctxResume (k v) : KeepsFiles (ctxResume k v) := by unfold ctxResume; exact .byParts

/-! A partition's sequencer block: PART_CTL. -/

@[simp] theorem keepsFiles_refusePart (k) : KeepsFiles (refusePart k) := by unfold refusePart; exact .byParts
@[simp] theorem keepsFiles_clearPartition (k cores) : KeepsFiles (clearPartition k cores) := by unfold clearPartition; exact .byParts
@[simp] theorem keepsFiles_clearRing (f) : KeepsFiles (clearRing f) := by unfold clearRing; exact .byParts
@[simp] theorem keepsFiles_createPartition (k v) : KeepsFiles (createPartition k v) := by unfold createPartition; exact .byParts
@[simp] theorem keepsFiles_destroyPartition (k v) : KeepsFiles (destroyPartition k v) := by unfold destroyPartition; exact .byParts
@[simp] theorem keepsFiles_partCtl (k v) : KeepsFiles (partCtl k v) := by unfold partCtl; exact .byParts
@[simp] theorem keepsFiles_partBusyDone (k) : KeepsFiles (partBusyDone k) := by unfold partBusyDone; exact .byParts

/-! SCHED_CFG, the shadow region, PT_ROOT and CTX_CTL. -/

@[simp] theorem keepsFiles_schedCfg (k v) : KeepsFiles (schedCfg k v) := by unfold schedCfg; exact .byParts
@[simp] theorem keepsFiles_shadowConfig (k off v) : KeepsFiles (shadowConfig k off v) := by unfold shadowConfig; exact .byParts

/-! Invalidation. -/

@[simp] theorem keepsFiles_invCtl (k v) : KeepsFiles (invCtl k v) := by unfold invCtl; exact .byParts
@[simp] theorem keepsFiles_invDone (k) : KeepsFiles (invDone k) := by unfold invDone; exact .byParts

/-! The region table's registers, the boot chain, measurements, identity and attestation: the region table. -/

@[simp] theorem keepsFiles_refuseRgn : KeepsFiles refuseRgn := by unfold refuseRgn; exact .byParts
@[simp] theorem keepsFiles_rgnEntryWrite (k hi v) : KeepsFiles (rgnEntryWrite k hi v) := by unfold rgnEntryWrite; exact .byParts
@[simp] theorem keepsFiles_rgnWrite (off v) : KeepsFiles (rgnWrite off v) := by unfold rgnWrite; exact .byParts
@[simp] theorem keepsFiles_rgnSync (v) : KeepsFiles (rgnSync v) := by unfold rgnSync; exact .byParts
@[simp] theorem keepsFiles_rgnSyncDone : KeepsFiles rgnSyncDone := by unfold rgnSyncDone; exact .byParts

/-! Measurements. -/

@[simp] theorem keepsFiles_clearMeas : KeepsFiles clearMeas := by unfold clearMeas; exact .byParts
@[simp] theorem keepsFiles_measCmd (v) : KeepsFiles (measCmd v) := by unfold measCmd; exact .byParts
@[simp] theorem keepsFiles_measData (i v) : KeepsFiles (measData i v) := by unfold measData; exact .byParts

/-! The boot ROM. -/

@[simp] theorem keepsFiles_bootBegin (host) : KeepsFiles (bootBegin host) := by unfold bootBegin; exact .byParts
@[simp] theorem keepsFiles_bootFail (err) : KeepsFiles (bootFail err) := by unfold bootFail; exact .byParts
@[simp] theorem keepsFiles_bootLoad (img) : KeepsFiles (bootLoad img) := by unfold bootLoad; exact .byParts
@[simp] theorem keepsFiles_bootRest : KeepsFiles bootRest := by unfold bootRest; exact .byParts
@[simp] theorem keepsFiles_bootRom : KeepsFiles bootRom := by unfold bootRom; exact .byParts
@[simp] theorem keepsFiles_hostrdy : KeepsFiles hostrdy := by unfold hostrdy; exact .byParts
@[simp] theorem keepsFiles_hostrdyTimeout : KeepsFiles hostrdyTimeout := by unfold hostrdyTimeout; exact .byParts

@[simp] theorem keepsFiles_resetPartition (k) : KeepsFiles (resetPartition k) := by unfold resetPartition; exact .byParts

@[simp] theorem keepsFiles_reload : KeepsFiles reload := by unfold reload; exact .byParts
@[simp] theorem keepsFiles_bootCtl (w v) : KeepsFiles (bootCtl w v) := by unfold bootCtl; exact .byParts
@[simp] theorem keepsFiles_hostAnswer (status data) : KeepsFiles (hostAnswer status data) := by unfold hostAnswer; exact .byParts
@[simp] theorem keepsFiles_bootWindow (off data) : KeepsFiles (bootWindow off data) := by unfold bootWindow; exact .byParts

/-! Attestation. -/

@[simp] theorem keepsFiles_spdmRequest (req) : KeepsFiles (spdmRequest req) := by unfold spdmRequest; exact .byParts

end Sys2Proof.Laws
end

section
/-! Coach transfers, remote requests and links keep the register files in canonical form. -/
namespace Sys2Proof.Laws
open Sys2Proof.Machine
set_option Elab.async false

variable {α β : Type}

/-! The Coach: owner jobs. -/

@[simp] theorem keepsFiles_ownerAdd (k t l n v rels) : KeepsFiles (ownerAdd k t l n v rels) := by unfold ownerAdd; exact .byParts
@[simp] theorem keepsFiles_ownerPoison (k t l n cause) : KeepsFiles (ownerPoison k t l n cause) := by unfold ownerPoison; exact .byParts

/-! Transfers and their steps. -/

@[simp] theorem keepsFiles_updTransfer (k i f) : KeepsFiles (updTransfer k i f) := by unfold updTransfer; exact .byParts
@[simp] theorem keepsFiles_getTransfer (k i) : KeepsFiles (getTransfer k i) := by unfold getTransfer; exact .byParts
@[simp] theorem keepsFiles_endTransfer (k i t) : KeepsFiles (endTransfer k i t) := by unfold endTransfer; exact .byParts
@[simp] theorem keepsFiles_settleTransfer (k i) : KeepsFiles (settleTransfer k i) := by unfold settleTransfer; exact .byParts
@[simp] theorem keepsFiles_poisonAt (k t r n cause) : KeepsFiles (poisonAt k t r n cause) := by unfold poisonAt; exact .byParts

/-! The blocks of a pair. -/

@[simp] theorem keepsFiles_leafDirty (a f) : KeepsFiles (leafDirty a f) := by unfold leafDirty; exact .byParts
@[simp] theorem keepsFiles_coachRead (who k floor p n) : KeepsFiles (coachRead who k floor p n) := by unfold coachRead; exact .byParts

@[simp] theorem keepsFiles_gatherRow (who k floor far src dst len fuel o) : KeepsFiles (gatherRow who k floor far src dst len fuel o) := by
  induction fuel generalizing o with
  | zero => exact .pure _
  | succ fuel ih => unfold gatherRow; exact .byParts

@[simp] theorem keepsFiles_gatherBlock (who k floor far b s p ls lp rs) : KeepsFiles (gatherBlock who k floor far b s p ls lp rs) := by
  induction rs with
  | nil => exact .pure _
  | cons a as ih => unfold gatherBlock; exact .byParts

/-! Writes. -/

@[simp] theorem keepsFiles_addElems (pa typ z n bs) : KeepsFiles (addElems pa typ z n bs) := by
  induction n generalizing pa bs with
  | zero => exact .pure _
  | succ n ih => unfold addElems; exact .byParts

@[simp] theorem keepsFiles_coachWrite (who k b p d) : KeepsFiles (coachWrite who k b p d) := by unfold coachWrite; exact .byParts

@[simp] theorem keepsFiles_coachSend (who k b pkg peer ps) : KeepsFiles (coachSend who k b pkg peer ps) := by
  induction ps with
  | nil => exact .pure _
  | cons a as ih => unfold coachSend; exact .byParts

/-! Data bytes of a remote request. -/

@[simp] theorem keepsFiles_coachAnswered (k i key peer r st) : KeepsFiles (coachAnswered k i key peer r st) := by unfold coachAnswered; exact .byParts

/-! Issuing a step. -/

@[simp] theorem keepsFiles_issuePair (k i b t s p todo pkg) : KeepsFiles (issuePair k i b t s p todo pkg) := by unfold issuePair; exact .byParts

@[simp] theorem keepsFiles_gatherPeers (k i b floor t s ls ps) : KeepsFiles (gatherPeers k i b floor t s ls ps) := by
  induction ps with
  | nil => exact .pure _
  | cons a as ih => unfold gatherPeers; exact .byParts

@[simp] theorem keepsFiles_clearCoachReads (k i key) : KeepsFiles (clearCoachReads k i key) := by unfold clearCoachReads; exact .byParts
@[simp] theorem keepsFiles_rankIssued (k i s) : KeepsFiles (rankIssued k i s) := by unfold rankIssued; exact .byParts
@[simp] theorem keepsFiles_openStep (k i st) : KeepsFiles (openStep k i st) := by unfold openStep; exact .byParts
@[simp] theorem keepsFiles_coachStepIssue (k i s) : KeepsFiles (coachStepIssue k i s) := by unfold coachStepIssue; exact .byParts

/-! Signals. -/

@[simp] theorem keepsFiles_signalPeer (k t b key) : KeepsFiles (signalPeer k t b key) := by unfold signalPeer; exact .byParts
@[simp] theorem keepsFiles_coachStepSignal (k i r) : KeepsFiles (coachStepSignal k i r) := by unfold coachStepSignal; exact .byParts

/-! Failures. -/

@[simp] theorem keepsFiles_coachPairFail (k i s p cause) : KeepsFiles (coachPairFail k i s p cause) := by unfold coachPairFail; exact .byParts
@[simp] theorem keepsFiles_colltoExpiry (k i r) : KeepsFiles (colltoExpiry k i r) := by unfold colltoExpiry; exact .byParts

/-! Adds from other packages. -/

@[simp] theorem keepsFiles_applyAdd (k h owner) : KeepsFiles (applyAdd k h owner) := by unfold applyAdd; exact .byParts
@[simp] theorem keepsFiles_heldApply (k) : KeepsFiles (heldApply k) := by unfold heldApply; exact .byParts
@[simp] theorem keepsFiles_heldExpiry (k i) : KeepsFiles (heldExpiry k i) := by unfold heldExpiry; exact .byParts

/-! Fabric messages at their ends: answers. -/

@[simp] theorem keepsFiles_outDone (tag st) : KeepsFiles (outDone tag st) := by unfold outDone; exact .byParts
@[simp] theorem keepsFiles_answerRemote (tag st data) : KeepsFiles (answerRemote tag st data) := by
  have hwake (a : Nat) : KeepsFiles (updHartNo a fun h => if h.blocked = .memWait then { h with blocked := .none } else h) := by
    refine keepsFiles_updHartNo a fun x hx => ?_
    split
    · exact hx
    · exact hx
  unfold answerRemote; exact .byParts
@[simp] theorem keepsFiles_remoteResponse (m) : KeepsFiles (remoteResponse m) := by unfold remoteResponse; exact .byParts
@[simp] theorem keepsFiles_reply (q typ payload) : KeepsFiles (reply q typ payload) := by unfold reply; exact .byParts
@[simp] theorem keepsFiles_replyStatus (m st) : KeepsFiles (replyStatus m st) := by unfold replyStatus; exact .byParts

/-! Requests. -/

@[simp] theorem keepsFiles_noteFar (pkg gs) : KeepsFiles (noteFar pkg gs) := by unfold noteFar; exact .byParts
@[simp] theorem keepsFiles_serveRead (m) : KeepsFiles (serveRead m) := by unfold serveRead; exact .byParts
@[simp] theorem keepsFiles_serveWrite (m) : KeepsFiles (serveWrite m) := by unfold serveWrite; exact .byParts
@[simp] theorem keepsFiles_serveAtomic (m) : KeepsFiles (serveAtomic m) := by unfold serveAtomic; exact .byParts
@[simp] theorem keepsFiles_dataPlace (m) : KeepsFiles (dataPlace m) := by unfold dataPlace; exact .byParts
@[simp] theorem keepsFiles_serveData (m) : KeepsFiles (serveData m) := by unfold serveData; exact .byParts
@[simp] theorem keepsFiles_remoteRequest (m) : KeepsFiles (remoteRequest m) := by unfold remoteRequest; exact .byParts

/-! Counter adds. -/

@[simp] theorem keepsFiles_flitCadd (m) : KeepsFiles (flitCadd m) := by unfold flitCadd; exact .byParts

/-! Suspended ranks. -/

@[simp] theorem keepsFiles_rsusp (m) : KeepsFiles (rsusp m) := by unfold rsusp; exact .byParts
@[simp] theorem keepsFiles_rsack (m) : KeepsFiles (rsack m) := by unfold rsack; exact .byParts

/-! Failures at ports. -/

@[simp] theorem keepsFiles_failMsg (m cause) : KeepsFiles (failMsg m cause) := by unfold failMsg; exact .byParts
@[simp] theorem keepsFiles_takeQueued (p f) : KeepsFiles (takeQueued p f) := by unfold takeQueued; exact .byParts
@[simp] theorem keepsFiles_admitWaiting (p) : KeepsFiles (admitWaiting p) := by unfold admitWaiting; exact .byParts
@[simp] theorem keepsFiles_portFails (p cause) : KeepsFiles (portFails p cause) := by unfold portFails; exact .byParts
@[simp] theorem keepsFiles_forward (m) : KeepsFiles (forward m) := by unfold forward; exact .byParts

/-! Time synchronisation. -/

@[simp] theorem keepsFiles_sendTsync (p phase t1 t2 t3) : KeepsFiles (sendTsync p phase t1 t2 t3) := by unfold sendTsync; exact .byParts
@[simp] theorem keepsFiles_tsyncPeriod : KeepsFiles tsyncPeriod := by unfold tsyncPeriod; exact .byParts
@[simp] theorem keepsFiles_syncTo (θ) : KeepsFiles (syncTo θ) := by unfold syncTo; exact .byParts
@[simp] theorem keepsFiles_tsyncReceive (p m t) : KeepsFiles (tsyncReceive p m t) := by unfold tsyncReceive; exact .byParts
@[simp] theorem keepsFiles_tsyncCtl (v) : KeepsFiles (tsyncCtl v) := by unfold tsyncCtl; exact .byParts

/-! Delivery. -/

@[simp] theorem keepsFiles_rresume (m) : KeepsFiles (rresume m) := by unfold rresume; exact .byParts
@[simp] theorem keepsFiles_deliver (p m) : KeepsFiles (deliver p m) := by unfold deliver; exact .byParts
@[simp] theorem keepsFiles_arrive (p m) : KeepsFiles (arrive p m) := by unfold arrive; exact .byParts
@[simp] theorem keepsFiles_arriveAs (ok m) : KeepsFiles (arriveAs ok m) := by unfold arriveAs; exact .byParts

/-! Timeouts. -/

@[simp] theorem keepsFiles_holdTimeout (tag) : KeepsFiles (holdTimeout tag) := by unfold holdTimeout; exact .byParts
@[simp] theorem keepsFiles_responseTimeout (tag) : KeepsFiles (responseTimeout tag) := by unfold responseTimeout; exact .byParts

/-! Routes and rank tables. -/

@[simp] theorem keepsFiles_rankConfig (k off v) : KeepsFiles (rankConfig k off v) := by unfold rankConfig; exact .byParts

/-! Optical links: sessions. -/

@[simp] theorem keepsFiles_updSess (p key f) : KeepsFiles (updSess p key f) := by unfold updSess; exact .byParts
@[simp] theorem keepsFiles_countErr (p lo) : KeepsFiles (countErr p lo) := by unfold countErr; exact .byParts
@[simp] theorem keepsFiles_lockPort (p key cause) : KeepsFiles (lockPort p key cause) := by unfold lockPort; exact .byParts
@[simp] theorem keepsFiles_emitFlit (p key q f) : KeepsFiles (emitFlit p key q f) := by unfold emitFlit; exact .byParts

/-! Sending. -/

@[simp] theorem keepsFiles_flitLeft (p x n) : KeepsFiles (flitLeft p x n) := by unfold flitLeft; exact .byParts
@[simp] theorem keepsFiles_sendNext (p key x) : KeepsFiles (sendNext p key x) := by unfold sendNext; exact .byParts
@[simp] theorem keepsFiles_sendAttest (p x) : KeepsFiles (sendAttest p x) := by unfold sendAttest; exact .byParts
@[simp] theorem keepsFiles_flitSend (p) : KeepsFiles (flitSend p) := by unfold flitSend; exact .byParts
@[simp] theorem keepsFiles_sendAhead (p typ tspec) : KeepsFiles (sendAhead p typ tspec) := by unfold sendAhead; exact .byParts
@[simp] theorem keepsFiles_keepalive (p) : KeepsFiles (keepalive p) := by unfold keepalive; exact .byParts
@[simp] theorem keepsFiles_ackThreshold (p) : KeepsFiles (ackThreshold p) := by unfold ackThreshold; exact .byParts
@[simp] theorem keepsFiles_replayTimeout (p) : KeepsFiles (replayTimeout p) := by unfold replayTimeout; exact .byParts
@[simp] theorem keepsFiles_sessionExhausted (p) : KeepsFiles (sessionExhausted p) := by unfold sessionExhausted; exact .byParts

/-! Receiving. -/

@[simp] theorem keepsFiles_acked (p key a) : KeepsFiles (acked p key a) := by unfold acked; exact .byParts
@[simp] theorem keepsFiles_nakReceived (p key seq) : KeepsFiles (nakReceived p key seq) := by unfold nakReceived; exact .byParts
@[simp] theorem keepsFiles_sendNak (p key) : KeepsFiles (sendNak p key) := by unfold sendNak; exact .byParts
@[simp] theorem keepsFiles_tagFailed (p key at_) : KeepsFiles (tagFailed p key at_) := by unfold tagFailed; exact .byParts
@[simp] theorem keepsFiles_enterUp (p w lm sp next) : KeepsFiles (enterUp p w lm sp next) := by unfold enterUp; exact .byParts
@[simp] theorem keepsFiles_lsrReceived (p body) : KeepsFiles (lsrReceived p body) := by unfold lsrReceived; exact .byParts
@[simp] theorem keepsFiles_acceptPayload (p key f) : KeepsFiles (acceptPayload p key f) := by unfold acceptPayload; exact .byParts
@[simp] theorem keepsFiles_verified (p key q f) : KeepsFiles (verified p key q f) := by unfold verified; exact .byParts
@[simp] theorem keepsFiles_attestMessage (p body) : KeepsFiles (attestMessage p body) := by unfold attestMessage; exact .byParts
@[simp] theorem keepsFiles_attestFlit (p f) : KeepsFiles (attestFlit p f) := by unfold attestFlit; exact .byParts
@[simp] theorem keepsFiles_flitReceive (p bytes) : KeepsFiles (flitReceive p bytes) := by unfold flitReceive; exact .byParts

/-! The link-state record. -/

@[simp] theorem keepsFiles_lsrSend (p) : KeepsFiles (lsrSend p) := by unfold lsrSend; exact .byParts

/-! Retraining. -/

@[simp] theorem keepsFiles_enterRetrain (p) : KeepsFiles (enterRetrain p) := by unfold enterRetrain; exact .byParts
@[simp] theorem keepsFiles_retrainDone (p full half) : KeepsFiles (retrainDone p full half) := by unfold retrainDone; exact .byParts

/-! PORT_CTL and PORT_SECRET. -/

@[simp] theorem keepsFiles_unlockPort (p) : KeepsFiles (unlockPort p) := by unfold unlockPort; exact .byParts
@[simp] theorem keepsFiles_portCtl (p v) : KeepsFiles (portCtl p v) := by unfold portCtl; exact .byParts

@[simp] theorem keepsFiles_portCtlWrite (bit p w v) : KeepsFiles (portCtlWrite bit p w v) := by
  have hrule := @keepsFiles_admitted
  unfold portCtlWrite; exact .byParts

@[simp] theorem keepsFiles_portDrained (p) : KeepsFiles (portDrained p) := by unfold portDrained; exact .byParts
@[simp] theorem keepsFiles_portSecret (p k v) : KeepsFiles (portSecret p k v) := by unfold portSecret; exact .byParts

/-! Circuit mode. -/

@[simp] theorem keepsFiles_stopSlots (p) : KeepsFiles (stopSlots p) := by unfold stopSlots; exact .byParts
@[simp] theorem keepsFiles_slotCfg (p v) : KeepsFiles (slotCfg p v) := by unfold slotCfg; exact .byParts
@[simp] theorem keepsFiles_rotationStart (p) : KeepsFiles (rotationStart p) := by unfold rotationStart; exact .byParts
@[simp] theorem keepsFiles_slotGuardEnd (p) : KeepsFiles (slotGuardEnd p) := by unfold slotGuardEnd; exact .byParts
@[simp] theorem keepsFiles_slotWindowEnd (p) : KeepsFiles (slotWindowEnd p) := by unfold slotWindowEnd; exact .byParts
@[simp] theorem keepsFiles_circuitTrained (p i ok) : KeepsFiles (circuitTrained p i ok) := by unfold circuitTrained; exact .byParts

end Sys2Proof.Laws
end

section
/-! Control flow, events of cores, power, training, and loads and stores keep the register files in canonical form. -/
namespace Sys2Proof.Laws
open Sys2Proof.Machine
set_option Elab.async false

variable {α β : Type}

/-! Control transfer and CTRL: branches. -/

@[simp] theorem keepsFiles_branch (x) : KeepsFiles (branch x) := by unfold branch; exact .byParts
@[simp] theorem keepsFiles_callTo (x) : KeepsFiles (callTo x) := by unfold callTo; exact .byParts
@[simp] theorem keepsFiles_loopTo (x) : KeepsFiles (loopTo x) := by unfold loopTo; exact .byParts
@[simp] theorem keepsFiles_branchEos (x) : KeepsFiles (branchEos x) := by unfold branchEos; exact .byParts
@[simp] theorem keepsFiles_jumpReg (x) : KeepsFiles (jumpReg x) := by unfold jumpReg; exact .byParts

/-! CTRL. -/

@[simp] theorem keepsFiles_joinStream : KeepsFiles joinStream := by unfold joinStream; exact .byParts
@[simp] theorem keepsFiles_haltWith (x) : KeepsFiles (haltWith x) := by unfold haltWith; exact .byParts
@[simp] theorem keepsFiles_yieldTo : KeepsFiles yieldTo := by unfold yieldTo; exact .byParts
@[simp] theorem keepsFiles_superCall (x) : KeepsFiles (superCall x) := by unfold superCall; exact .byParts
@[simp] theorem keepsFiles_serviceReturn (x) : KeepsFiles (serviceReturn x) := by unfold serviceReturn; exact .byParts

/-! Events of the cores. -/

@[simp] theorem keepsFiles_phaseWriteback (c) : KeepsFiles (phaseWriteback c) := by unfold phaseWriteback; exact .byParts
@[simp] theorem keepsFiles_writeAccepted (c) : KeepsFiles (writeAccepted c) := by unfold writeAccepted; exact .byParts
@[simp] theorem keepsFiles_metWait (w c) : KeepsFiles (metWait w c) := by unfold metWait; exact .byParts
@[simp] theorem keepsFiles_waitSatisfied (c e) : KeepsFiles (waitSatisfied c e) := by unfold waitSatisfied; exact .byParts
@[simp] theorem keepsFiles_waitaAgain (a) : KeepsFiles (waitaAgain a) := by unfold waitaAgain; exact .byParts

/-! Remote loads into channels. -/

@[simp] theorem keepsFiles_rldFails (c r cause) : KeepsFiles (rldFails c r cause) := by unfold rldFails; exact .byParts
@[simp] theorem keepsFiles_rldArrives (c r data) : KeepsFiles (rldArrives c r data) := by unfold rldArrives; exact .byParts
@[simp] theorem keepsFiles_rldResponse (c id fail) : KeepsFiles (rldResponse c id fail) := by unfold rldResponse; exact .byParts

/-! Sealing. -/

@[simp] theorem keepsFiles_sealEffect (c) : KeepsFiles (sealEffect c) := by unfold sealEffect; exact .byParts

/-! The service context. -/

@[simp] theorem keepsFiles_serviceEntry (c cause aux) : KeepsFiles (serviceEntry c cause aux) := by unfold serviceEntry; exact .byParts
@[simp] theorem keepsFiles_serviceOpportunity (c) : KeepsFiles (serviceOpportunity c) := by unfold serviceOpportunity; exact .byParts
@[simp] theorem keepsFiles_doubleFaultNow (c cause) : KeepsFiles (doubleFaultNow c cause) := by unfold doubleFaultNow; exact .byParts
@[simp] theorem keepsFiles_unassigned (cause) : KeepsFiles (unassigned cause) := by unfold unassigned; exact .byParts

/-! The special registers. -/

@[simp] theorem keepsFiles_csrWrite (n v) : KeepsFiles (csrWrite n v) := by unfold csrWrite; exact .byParts
@[simp] theorem keepsFiles_csrGet (x) : KeepsFiles (csrGet x) := by unfold csrGet; exact .byParts
@[simp] theorem keepsFiles_csrSwap (x keep f) : KeepsFiles (csrSwap x keep f) := by unfold csrSwap; exact .byParts

/-! The work deques. -/

@[simp] theorem keepsFiles_setStatus (x b) : KeepsFiles (setStatus x b) := by unfold setStatus; exact .byParts
@[simp] theorem keepsFiles_pushDeque (x v rels) : KeepsFiles (pushDeque x v rels) := by unfold pushDeque; exact .byParts
@[simp] theorem keepsFiles_dequePush (x) : KeepsFiles (dequePush x) := by unfold dequePush; exact .byParts
@[simp] theorem keepsFiles_taken (x e) : KeepsFiles (taken x e) := by unfold taken; exact .byParts
@[simp] theorem keepsFiles_notTaken (x) : KeepsFiles (notTaken x) := by unfold notTaken; exact .byParts
@[simp] theorem keepsFiles_dequePop (x) : KeepsFiles (dequePop x) := by unfold dequePop; exact .byParts
@[simp] theorem keepsFiles_dequeSteal (x) : KeepsFiles (dequeSteal x) := by unfold dequeSteal; exact .byParts
@[simp] theorem keepsFiles_dequeLength (x) : KeepsFiles (dequeLength x) := by unfold dequeLength; exact .byParts

/-! Scalar floating point. -/

@[simp] theorem keepsFiles_finishFp (x r) : KeepsFiles (finishFp x r) := by unfold finishFp; exact .byParts
@[simp] theorem keepsFiles_fop1 (f fn x) : KeepsFiles (fop1 f fn x) := by unfold fop1; exact .byParts
@[simp] theorem keepsFiles_fop2 (f fn x) : KeepsFiles (fop2 f fn x) := by unfold fop2; exact .byParts
@[simp] theorem keepsFiles_fop3 (f fn x) : KeepsFiles (fop3 f fn x) := by unfold fop3; exact .byParts
@[simp] theorem keepsFiles_fcompare (fn x) : KeepsFiles (fcompare fn x) := by unfold fcompare; exact .byParts
@[simp] theorem keepsFiles_fconvert (fn x) : KeepsFiles (fconvert fn x) := by unfold fconvert; exact .byParts

/-! Host accesses over CXL.mem and arrivals from the second tier. -/

@[simp] theorem keepsFiles_hostReply (code data) : KeepsFiles (hostReply code data) := by unfold hostReply; exact .byParts
@[simp] theorem keepsFiles_hostPublish (pa data) : KeepsFiles (hostPublish pa data) := by unfold hostPublish; exact .byParts
@[simp] theorem keepsFiles_hostMemWrite (pa data poison) : KeepsFiles (hostMemWrite pa data poison) := by unfold hostMemWrite; exact .byParts
@[simp] theorem keepsFiles_hostMemRead (pa n) : KeepsFiles (hostMemRead pa n) := by unfold hostMemRead; exact .byParts
@[simp] theorem keepsFiles_secondTier (pa data poison) : KeepsFiles (secondTier pa data poison) := by unfold secondTier; exact .byParts

/-! LAUNCH, LAUNCH.T and XPOSE. -/

@[simp] theorem keepsFiles_launchStatus (x try_ b) : KeepsFiles (launchStatus x try_ b) := by unfold launchStatus; exact .byParts

@[simp] theorem keepsFiles_insertChild (x try_ source rel bytes) : KeepsFiles (insertChild x try_ source rel bytes) := by
  unfold insertChild; exact .byParts

@[simp] theorem keepsFiles_launchBlock (x try_ source ok bad) : KeepsFiles (launchBlock x try_ source ok bad) := by unfold launchBlock; exact .byParts

/-! Rails, resets, clocks, DVFS points, power capping and thermal limits, phase A of the power-up sequence and die-to-die links. -/

@[simp] theorem keepsFiles_mgmtEvt (i) : KeepsFiles (mgmtEvt i) := by unfold mgmtEvt; exact .byParts

/-! What is lost. -/

@[simp] theorem keepsFiles_loseCore (c) : KeepsFiles (loseCore c) := by unfold loseCore; exact .byParts
@[simp] theorem keepsFiles_loseCluster (n) : KeepsFiles (loseCluster n) := by unfold loseCluster; exact .byParts
@[simp] theorem keepsFiles_loseHbm : KeepsFiles loseHbm := .modifySame fun _ => ⟨rfl, rfl⟩

@[simp] theorem keepsFiles_loseIo : KeepsFiles loseIo := by unfold loseIo; exact .byParts

/-! Rails. -/

@[simp] theorem keepsFiles_railOff (k) : KeepsFiles (railOff k) := by unfold railOff; exact .byParts
@[simp] theorem keepsFiles_railsOff (ks) : KeepsFiles (railsOff ks) := by unfold railsOff; exact .byParts
@[simp] theorem keepsFiles_railEnWrite (v) : KeepsFiles (railEnWrite v) := by unfold railEnWrite; exact .byParts

/-! Clock points. -/

@[simp] theorem keepsFiles_capStatus : KeepsFiles capStatus := by unfold capStatus; exact .byParts
@[simp] theorem keepsFiles_tryLock (n) : KeepsFiles (tryLock n) := by unfold tryLock; exact .byParts
@[simp] theorem keepsFiles_movePoint (n) : KeepsFiles (movePoint n) := by unfold movePoint; exact .byParts
@[simp] theorem keepsFiles_lockGone (n) : KeepsFiles (lockGone n) := by unfold lockGone; exact .byParts
@[simp] theorem keepsFiles_dvfsByte (n b) : KeepsFiles (dvfsByte n b) := by unfold dvfsByte; exact .byParts
@[simp] theorem keepsFiles_dvfsWrite (v) : KeepsFiles (dvfsWrite v) := by unfold dvfsWrite; exact .byParts
@[simp] theorem keepsFiles_transitionDone (n) : KeepsFiles (transitionDone n) := by unfold transitionDone; exact .byParts
@[simp] theorem keepsFiles_breakLock (n) : KeepsFiles (breakLock n) := by unfold breakLock; exact .byParts

/-! Phase A of the power-up sequence. -/

@[simp] theorem keepsFiles_bringStep (n) {act} (hact : KeepsFiles act) : KeepsFiles (bringStep n act) := by unfold bringStep; exact .byParts
@[simp] theorem keepsFiles_bringFail (err) : KeepsFiles (bringFail err) := by unfold bringFail; exact .byParts
@[simp] theorem keepsFiles_releaseFrontEnd (f) : KeepsFiles (releaseFrontEnd f) := by unfold releaseFrontEnd; exact .byParts

/-! Resets. -/

@[simp] theorem keepsFiles_seqErr : KeepsFiles seqErr := by unfold seqErr; exact .byParts
@[simp] theorem keepsFiles_rstCluster (n hold) : KeepsFiles (rstCluster n hold) := by unfold rstCluster; exact .byParts
@[simp] theorem keepsFiles_rstFrontEnd (f hold) : KeepsFiles (rstFrontEnd f hold) := by unfold rstFrontEnd; exact .byParts
@[simp] theorem keepsFiles_rstCtlWrite (v) : KeepsFiles (rstCtlWrite v) := by unfold rstCtlWrite; exact .byParts
@[simp] theorem keepsFiles_d2dTrained (n) : KeepsFiles (d2dTrained n) := by unfold d2dTrained; exact .byParts
@[simp] theorem keepsFiles_d2dDown (n) : KeepsFiles (d2dDown n) := by unfold d2dDown; exact .byParts

/-! Power-good, faults. -/

@[simp] theorem keepsFiles_railGood (k) : KeepsFiles (railGood k) := by unfold railGood; exact .byParts
@[simp] theorem keepsFiles_railFault (k) : KeepsFiles (railFault k) := by unfold railFault; exact .byParts

/-! The timebase. -/

@[simp] theorem keepsFiles_clkWrite (v) : KeepsFiles (clkWrite v) := by unfold clkWrite; exact .byParts
@[simp] theorem keepsFiles_timebaseLock : KeepsFiles timebaseLock := by unfold timebaseLock; exact .byParts
@[simp] theorem keepsFiles_refclkLoss (other) : KeepsFiles (refclkLoss other) := by unfold refclkLoss; exact .byParts

/-! Power capping. -/

@[simp] theorem keepsFiles_pcapWrite (w v) : KeepsFiles (pcapWrite w v) := by unfold pcapWrite; exact .byParts
@[simp] theorem keepsFiles_powerSample (pinst pavg) : KeepsFiles (powerSample pinst pavg) := by unfold powerSample; exact .byParts
@[simp] theorem keepsFiles_skipEnd : KeepsFiles skipEnd := by unfold skipEnd; exact .byParts
@[simp] theorem keepsFiles_cappingTick (power) : KeepsFiles (cappingTick power) := by unfold cappingTick; exact .byParts

/-! Temperatures. -/

@[simp] theorem keepsFiles_thmWrite (v) : KeepsFiles (thmWrite v) := by unfold thmWrite; exact .byParts
@[simp] theorem keepsFiles_thmStatus : KeepsFiles thmStatus := by unfold thmStatus; exact .byParts
@[simp] theorem keepsFiles_coolStep (i temp thr) : KeepsFiles (coolStep i temp thr) := by unfold coolStep; exact .byParts
@[simp] theorem keepsFiles_thermalTrip : KeepsFiles thermalTrip := by unfold thermalTrip; exact .byParts
@[simp] theorem keepsFiles_dieSample (die thr n) : KeepsFiles (dieSample die thr n) := by unfold dieSample; exact .byParts
@[simp] theorem keepsFiles_hbmSample (hbm ref thr n) : KeepsFiles (hbmSample hbm ref thr n) := by unfold hbmSample; exact .byParts
@[simp] theorem keepsFiles_thermalSample (die hbm) : KeepsFiles (thermalSample die hbm) := by unfold thermalSample; exact .byParts
@[simp] theorem keepsFiles_thermalEnd (action) : KeepsFiles (thermalEnd action) := by unfold thermalEnd; exact .byParts

/-! Package reset. -/

@[simp] theorem keepsFiles_porstAssert : KeepsFiles porstAssert := .modify fun s _ => (FilesOk.afterPowerLoss s).same ⟨rfl, rfl⟩

@[simp] theorem keepsFiles_porstDeassert : KeepsFiles porstDeassert := by unfold porstDeassert; exact .byParts

/-! Training: port states. -/

@[simp] theorem keepsFiles_setPortState (p st) : KeepsFiles (setPortState p st) := by unfold setPortState; exact .byParts
@[simp] theorem keepsFiles_setPortCause (p cause) : KeepsFiles (setPortCause p cause) := by unfold setPortCause; exact .byParts

/-! HBM stacks. -/

@[simp] theorem keepsFiles_refuseStep (stat) : KeepsFiles (refuseStep stat) := by unfold refuseStep; exact .byParts
@[simp] theorem keepsFiles_startStep (stat unit step) : KeepsFiles (startStep stat unit step) := by unfold startStep; exact .byParts
@[simp] theorem keepsFiles_hbmTrn (n v) : KeepsFiles (hbmTrn n v) := by unfold hbmTrn; exact .byParts
@[simp] theorem keepsFiles_zeroStack (n) : KeepsFiles (zeroStack n) := .modifySame fun _ => ⟨rfl, rfl⟩
@[simp] theorem keepsFiles_hbmStepDone (n err spares) : KeepsFiles (hbmStepDone n err spares) := by unfold hbmStepDone; exact .byParts
@[simp] theorem keepsFiles_hbmRef (n v) : KeepsFiles (hbmRef n v) := by unfold hbmRef; exact .byParts
@[simp] theorem keepsFiles_countCorrected : KeepsFiles countCorrected := by unfold countCorrected; exact .byParts
@[simp] theorem keepsFiles_patrolScrub (b f) : KeepsFiles (patrolScrub b f) := by unfold patrolScrub; exact .byParts

/-! Optical ports. -/

@[simp] theorem keepsFiles_optTrn (p v) : KeepsFiles (optTrn p v) := by unfold optTrn; exact .byParts
@[simp] theorem keepsFiles_optStepDone (p failed own) : KeepsFiles (optStepDone p failed own) := by unfold optStepDone; exact .byParts

/-! A write to the MMIO range by address. -/

@[simp] theorem keepsFiles_pmbWrite (w o v) : KeepsFiles (pmbWrite w o v) := by unfold pmbWrite; exact .byParts
@[simp] theorem keepsFiles_linkWrite (p b v) : KeepsFiles (linkWrite p b v) := by unfold linkWrite; exact .byParts
@[simp] theorem keepsFiles_fabWrite (o v) : KeepsFiles (fabWrite o v) := by unfold fabWrite; exact .byParts
@[simp] theorem keepsFiles_secWrite (w o v) : KeepsFiles (secWrite w o v) := by unfold secWrite; exact .byParts
@[simp] theorem keepsFiles_feWrite (f b v) : KeepsFiles (feWrite f b v) := by unfold feWrite; exact .byParts
@[simp] theorem keepsFiles_seqWrite (k b v) : KeepsFiles (seqWrite k b v) := by unfold seqWrite; exact .byParts
@[simp] theorem keepsFiles_flueWrite (o v) : KeepsFiles (flueWrite o v) := by unfold flueWrite; exact .byParts
@[simp] theorem keepsFiles_regWrite (w o v) : KeepsFiles (regWrite w o v) := by unfold regWrite; exact .byParts
@[simp] theorem keepsFiles_regWriteEvent (w addr v) : KeepsFiles (regWriteEvent w addr v) := by unfold regWriteEvent; exact .byParts

/-! Loads and stores. -/

@[simp] theorem keepsFiles_lsAddr (x n) : KeepsFiles (lsAddr x n) := by unfold lsAddr; exact .byParts
@[simp] theorem keepsFiles_loadBytes (a n) : KeepsFiles (loadBytes a n) := by unfold loadBytes; exact .byParts
@[simp] theorem keepsFiles_storeBytes (a n v) : KeepsFiles (storeBytes a n v) := by unfold storeBytes; exact .byParts
@[simp] theorem keepsFiles_load (signed n x) : KeepsFiles (load signed n x) := by unfold load; exact .byParts
@[simp] theorem keepsFiles_store (n x) : KeepsFiles (store n x) := by unfold store; exact .byParts
@[simp] theorem keepsFiles_svcOffset (a n) : KeepsFiles (svcOffset a n) := by unfold svcOffset; exact .byParts
@[simp] theorem keepsFiles_loadSp (signed n x) : KeepsFiles (loadSp signed n x) := by unfold loadSp; exact .byParts
@[simp] theorem keepsFiles_storeSp (n x) : KeepsFiles (storeSp n x) := by unfold storeSp; exact .byParts
@[simp] theorem keepsFiles_remoteLoad (signed n x) : KeepsFiles (remoteLoad signed n x) := by unfold remoteLoad; exact .byParts

/-! A cycle of the timebase. -/

@[simp] theorem keepsFiles_dccAdvance : KeepsFiles dccAdvance := by unfold dccAdvance; exact .byParts
@[simp] theorem keepsFiles_coreCycle (c) : KeepsFiles (coreCycle c) := by unfold coreCycle; exact .byParts
@[simp] theorem keepsFiles_classCycle (k c) : KeepsFiles (classCycle k c) := by unfold classCycle; exact .byParts
@[simp] theorem keepsFiles_partCycle (k) : KeepsFiles (partCycle k) := by unfold partCycle; exact .byParts
@[simp] theorem keepsFiles_wdogCycle (f) : KeepsFiles (wdogCycle f) := by unfold wdogCycle; exact .byParts
@[simp] theorem keepsFiles_dccTick : KeepsFiles dccTick := by unfold dccTick; exact .byParts

/-! Configuring tiles, and tile loads and stores. -/

@[simp] theorem keepsFiles_configure (x zero) : KeepsFiles (configure x zero) := by unfold configure; exact .byParts
@[simp] theorem keepsFiles_setValid (x) : KeepsFiles (setValid x) := by unfold setValid; exact .byParts
@[simp] theorem keepsFiles_readDesc (x) : KeepsFiles (readDesc x) := by unfold readDesc; exact .byParts

/-! TLD and TST. -/

@[simp] theorem keepsFiles_imageChecks (x d a b store) : KeepsFiles (imageChecks x d a b store) := by unfold imageChecks; exact .byParts

@[simp] theorem keepsFiles_loadTile (x) : KeepsFiles (loadTile x) := by
  have hrule := @keepsFiles_runRows
  unfold loadTile; exact .byParts

@[simp] theorem keepsFiles_storeTile (x) : KeepsFiles (storeTile x) := by
  have hrule := @keepsFiles_rowsFrom
  unfold storeTile; exact .byParts

/-! Rearrangement and movement. -/

@[simp] theorem keepsFiles_moveTypes (dst a index) : KeepsFiles (moveTypes dst a index) := by unfold moveTypes; exact .byParts

@[simp] theorem keepsFiles_transpose (x) : KeepsFiles (transpose x) := by
  have hrule := @keepsFiles_runFull
  unfold transpose; exact .byParts

@[simp] theorem keepsFiles_permute (x) : KeepsFiles (permute x) := by
  have hrule := @keepsFiles_runFull
  unfold permute; exact .byParts

@[simp] theorem keepsFiles_shuffle (x) : KeepsFiles (shuffle x) := by
  have hrule := @keepsFiles_runFull
  unfold shuffle; exact .byParts

@[simp] theorem keepsFiles_gather (x) : KeepsFiles (gather x) := by
  have hrule := @keepsFiles_runFull
  unfold gather; exact .byParts

@[simp] theorem keepsFiles_scatter (x) : KeepsFiles (scatter x) := by
  have hrule := @keepsFiles_runRows
  unfold scatter; exact .byParts

@[simp] theorem keepsFiles_bcastRow (x) : KeepsFiles (bcastRow x) := by unfold bcastRow; exact .byParts

@[simp] theorem keepsFiles_bcastCol (x) : KeepsFiles (bcastCol x) := by
  have hrule := @keepsFiles_runFull
  unfold bcastCol; exact .byParts

@[simp] theorem keepsFiles_bcastScalar (x) : KeepsFiles (bcastScalar x) := by unfold bcastScalar; exact .byParts

@[simp] theorem keepsFiles_moveTile (x) : KeepsFiles (moveTile x) := by
  have hrule := @keepsFiles_runFull
  unfold moveTile; exact .byParts

@[simp] theorem keepsFiles_origin (b) : KeepsFiles (origin b) := by unfold origin; exact .byParts

@[simp] theorem keepsFiles_extract (x) : KeepsFiles (extract x) := by
  have hrule := @keepsFiles_runFull
  unfold extract; exact .byParts

@[simp] theorem keepsFiles_insertTile (x) : KeepsFiles (insertTile x) := by
  have hrule := @keepsFiles_runRows
  unfold insertTile; exact .byParts

@[simp] theorem keepsFiles_iota (x) : KeepsFiles (iota x) := by unfold iota; exact .byParts
@[simp] theorem keepsFiles_fill (x) : KeepsFiles (fill x) := by unfold fill; exact .byParts

end Sys2Proof.Laws
end

section
/-! Every meaning is a program that keeps the register files canonical, and so does every step. -/
namespace Sys2Proof.Laws
open Sys2Proof.Machine

/-- The meaning of an instruction or event is a program's run, and the program keeps the register files canonical. -/
theorem exec_keepsFiles (i : Instr) (s : State) : ∃ x, KeepsFiles x ∧ exec i s = runExec x s := by
  have hadmitted := @keepsFiles_admitted
  have hdispatch := @keepsFiles_dispatch
  have hframe := @keepsFiles_runInstr
  cases i
  case porstNAssert => exact ⟨_, keepsFiles_porstAssert, rfl⟩
  case vauxLoss => exact ⟨_, .modify fun s _ => .afterPowerLoss s, rfl⟩
  all_goals exact ⟨_, .byParts, rfl⟩

namespace FilesOk

variable {s t : State}

theorem exec {i : Instr} (h : FilesOk s) (e : exec i s = .next t) : FilesOk t := by
  obtain ⟨x, hx, hi⟩ := exec_keepsFiles i s
  exact keeps_run hx.keeps h (hi ▸ e)

theorem fetched (h : FilesOk s) (a : Agent) : Ends FilesOk (s.fetched a) := by
  unfold State.fetched
  split
  · exact keepsFiles_fetch.keeps _ (h.same ⟨rfl, rfl⟩)
  · exact h

theorem issue {a : Agent} (h : FilesOk s) (e : issue a s = .next t) : FilesOk t := by
  have hfetch := h.fetched a
  unfold Machine.issue at e
  cases hr : s.fetched a with
  | error f u =>
    rw [hr] at e hfetch
    cases e
    exact hfetch
  | ok ws u =>
    rw [hr] at e hfetch
    exact FilesOk.exec hfetch e

theorem takeTurn {τ : Turn} (h : FilesOk s) (e : takeTurn τ s = .next t) : FilesOk t := by
  unfold Machine.takeTurn at e
  split at e
  · split at e
    · exact h.exec e
    · cases e
      exact h
  · split at e
    · exact h.issue e
    · cases e

theorem step (h : FilesOk s) (e : step s = .next t) : FilesOk t := by
  unfold Machine.step at e
  split at e
  · exact FilesOk.takeTurn (h.same (by simp)) e
  · split at e
    · cases e
      exact h
    · exact FilesOk.issue (h.same (by simp)) e

end FilesOk

/-- Settles O60: a step is the fetch and the meaning of one instruction, or the meaning of one event, and each of these programs writes
registers and guards through their own writes alone, moves contexts whole, or leaves them as they are. -/
theorem stepKeepsRegisterFiles : Obligations.StepKeepsRegisterFiles :=
  fun _ _ h e => filesCanonical_iff.2 ((filesCanonical_iff.1 h).step e)

end Sys2Proof.Laws
end

section
/-! Registers as operands (R237, R238): what reading them gives, what a result written to one leaves, and s0 and g0. -/
namespace Sys2Proof.Laws
open Sys2Proof.Machine

section
variable {w n : Nat} {c : BitVec 8} {v : Word} {s : State}

theorem readSrc_rel (hc : Sel.ofCode c = .rel n) :
    readSrc w c s = .ok (Map.get (fun _ => 0#64) (s.job s.cur.coreNo).rel n) s := by
  simp only [readSrc, hc, curJob_then, pure_run]

theorem readGuard_guard (hc : Sel.ofCode c = .g n) : readGuard c s = .ok ((s.hart s.cur).guard n) s := by
  simp only [readGuard, hc, getHart_then, pure_run]

/-- R237: a scalar result changes its register and completes. -/
theorem finish_sreg (hc : Sel.ofCode c = .s n) (v : Word) (s : State) :
    finish c v s = .ok () ((s.withHart fun h => h.setS n v).withHart fun h => h.past 1) :=
  (bind_ok (writeDst_sreg hc v s)).trans (retire_one _)

/-- R237: a guard result changes its guard and completes. -/
theorem finish_guard (hc : Sel.ofCode c = .g n) (v : Word) (s : State) :
    finish c v s = .ok () ((s.withHart fun h => h.setG n (v != 0#64)).withHart fun h => h.past 1) :=
  (bind_ok (writeDst_guard hc v s)).trans (retire_one _)

end

section
variable {n : Nat}

theorem setS_of_ne_zero (h : Hart) (v : Word) (hn : n ≠ 0) : h.setS n v = { h with s := Map.set (fun _ => 0#64) h.s n v } :=
  if_neg hn

theorem setG_of_ne_zero (h : Hart) (b : Bool) (hn : n ≠ 0) : h.setG n b = { h with g := Map.set (fun _ => false) h.g n b } :=
  if_neg hn

theorem sreg_setS (h : Hart) (v : Word) (hs : Map.wf (fun _ => 0#64) h.s = true) (hn : n ≠ 0) : (h.setS n v).sreg n = v := by
  rw [setS_of_ne_zero h v hn, Hart.sreg, if_neg hn]
  exact get_set n v hs

theorem sreg_setS_ne (h : Hart) (v : Word) (hs : Map.wf (fun _ => 0#64) h.s = true) (hn : n ≠ 0) {m : Nat} (hm : m ≠ n) :
    (h.setS n v).sreg m = h.sreg m := by
  rw [setS_of_ne_zero h v hn]
  unfold Hart.sreg
  rw [get_set_ne v hs hm]

theorem guard_setG (h : Hart) (b : Bool) (hg : Map.wf (fun _ => false) h.g = true) (hn : n ≠ 0) : (h.setG n b).guard n = b := by
  rw [setG_of_ne_zero h b hn, Hart.guard, beq_eq_false_iff_ne.mpr hn, Bool.false_or]
  exact get_set n b hg

theorem guard_setG_ne (h : Hart) (b : Bool) (hg : Map.wf (fun _ => false) h.g = true) (hn : n ≠ 0) {m : Nat} (hm : m ≠ n) :
    (h.setG n b).guard m = h.guard m := by
  rw [setG_of_ne_zero h b hn]
  unfold Hart.guard
  rw [get_set_ne b hg hm]

theorem guard_setS (h : Hart) (v : Word) (hn : n ≠ 0) (m : Nat) : (h.setS n v).guard m = h.guard m := by
  rw [setS_of_ne_zero h v hn]; rfl

theorem sreg_setG (h : Hart) (b : Bool) (hn : n ≠ 0) (m : Nat) : (h.setG n b).sreg m = h.sreg m := by
  rw [setG_of_ne_zero h b hn]; rfl

end

/-- Settles O7: a read names its register, a write of one changes it alone, and s0 and g0 take none. -/
theorem registerOperands : Obligations.RegisterOperands :=
  ⟨fun w _ _ s hc => readSrc_sreg hc w s, fun _ _ _ _ hc => readSrc_rel hc, fun _ _ _ hc => readGuard_guard hc,
    fun _ _ v s hc => finish_sreg hc v s, fun _ _ v s hc => finish_guard hc v s, fun _ _ _ => ⟨rfl, rfl, rfl, rfl⟩,
    fun h _ v hs hn => ⟨sreg_setS h v hs hn, fun _ => sreg_setS_ne h v hs hn, guard_setS h v hn⟩,
    fun h _ b hg hn => ⟨guard_setG h b hg hn, fun _ => guard_setG_ne h b hg hn, sreg_setG h b hn⟩⟩

end Sys2Proof.Laws
end

section
/-! Channels as operands (R247, R248, R286): a pop and what it records, a push and what keeps it, and the delivery of a result whose
push had waited. -/
namespace Sys2Proof.Laws
open Sys2Proof.Machine

section
variable {w n : Nat} {c : BitVec 8} {v : Word} {o : Opnd} {rest : List Entry} {s u : State}

theorem findOpnd_then {β : Type} (w : Nat) (f : Option Opnd → Exec β) (s : State) :
    (findOpnd w >>= f) s = f ((s.hart s.cur).restartHere.opnds.find? (·.which == w)) s := rfl

theorem readSrc_chan (hc : Sel.ofCode c = .q n) (s : State) : readSrc w c s = popChan w n false s := by
  simp only [readSrc, hc]

/-- R286: an operand on record is not popped again. -/
theorem popChan_recorded {tile : Bool} (ho : (s.hart s.cur).restartHere.opnds.find? (·.which == w) = some o)
    (ht : o.tile = tile) : popChan w n tile s = .ok o.value s := by
  simp only [popChan, findOpnd_then, ho, ht, beq_self_eq_true, if_true, pure_run]

/-- R247: the head is popped and recorded. -/
theorem popChan_scalar (ho : (s.hart s.cur).restartHere.opnds.find? (·.which == w) = none)
    (hq : (s.job s.cur.coreNo).chan n = .scalar v :: rest) :
    popChan w n false s = .ok v ((s.updJob s.cur.coreNo fun j => j.setChan n rest).withHart fun h =>
      { h with restart := { h.restartHere with opnds := h.restartHere.opnds ++ [⟨w, false, n, v⟩] } }) := by
  simp only [popChan, findOpnd_then, ho, curCore_then, getJob_then, hq]
  rfl

/-- R248: an empty channel makes the stream wait. -/
theorem popChan_empty {tile : Bool} (ho : (s.hart s.cur).restartHere.opnds.find? (·.which == w) = none)
    (hq : (s.job s.cur.coreNo).chan n = []) : popChan w n tile s = (block .chan : Exec Word) s := by
  simp only [popChan, findOpnd_then, ho, curCore_then, getJob_then, hq]

theorem pushChan_full (e : Entry) (hq : 8 ≤ ((u.job u.cur.coreNo).chan n).length) :
    pushChan n e u = (block .chan : Exec Unit) u := by
  rw [pushChan, curCore_then, getJob_then, if_pos hq]

/-- R248, R286: a result for a channel is recorded, and then pushed. -/
theorem writeDst_chan (hc : Sel.ofCode c = .q n) (hu : setOpnd ⟨0, false, n, v⟩ s = .ok () u) :
    writeDst c v s = pushChan n (.scalar v) u := by
  simp only [writeDst, hc, bind_ok hu]

theorem finish_chan (hc : Sel.ofCode c = .q n) (hu : setOpnd ⟨0, false, n, v⟩ s = .ok () u)
    (hq : ((u.job u.cur.coreNo).chan n).length < 8) :
    finish c v s = .ok () ((u.updJob u.cur.coreNo fun j => j.setChan n (j.chan n ++ [.scalar v])).withHart fun h => h.past 1) :=
  (bind_ok ((writeDst_chan hc hu).trans (pushChan_room rfl hq))).trans (retire_one _)

theorem finish_chan_full (hc : Sel.ofCode c = .q n) (hu : setOpnd ⟨0, false, n, v⟩ s = .ok () u)
    (hq : 8 ≤ ((u.job u.cur.coreNo).chan n).length) :
    finish c v s = .error .done (u.withHart fun h => { h with blocked := .chan, restart := h.restartHere }) :=
  bind_error ((writeDst_chan hc hu).trans ((pushChan_full _ hq).trans (block_run _ _)))

end

theorem channelOperands_popsAndPushes : Claims.ChannelOperands :=
  ⟨fun _ _ _ _ _ s hc ho hq => (readSrc_chan hc s).trans (popChan_scalar ho hq),
    fun _ _ _ s hc ho hq => (readSrc_chan hc s).trans ((popChan_empty ho hq).trans (block_run _ _)),
    fun _ _ _ _ s hc ho ht => (readSrc_chan hc s).trans (popChan_recorded ho ht),
    fun _ _ _ _ _ hc hu hq => finish_chan hc hu hq, fun _ _ _ _ _ hc hu hq => finish_chan_full hc hu hq⟩

/-- R286: of an instruction whose result waits for its push, the delivery is all that is executed. -/
theorem run_unpushed {e : Enc} {sh : Shape} {body : Exec Unit} {s : State} {o : Opnd} (hc : encFaultOf s.cur.who e sh = none)
    (hg : (s.hart s.cur).guardOk e.args.g = true)
    (ho : (s.hart s.cur).restartHere.opnds.find? (fun o => o.which == 0 && ! o.tile) = some o)
    (hd : sh.d = .dst ∨ sh.d = .gdst) : run e sh body s = runExec (finish e.args.d o.value) s := by
  unfold run runExec runInstr
  simp only [get_then, hc, hg, ho, Bool.not_true, Bool.false_eq_true, if_false]
  rcases hd with hd | hd <;> rw [hd]

theorem pendingPushDelivered : Claims.PendingPushDelivered := by
  intro i e sh s o t he hsh hc hg ho hd hfinish
  obtain ⟨sh', hsh', body, hexec⟩ := exec_run i e he
  obtain rfl : sh' = sh := Option.some.inj (hsh'.symm.trans hsh)
  rw [hexec, run_unpushed hc hg ho hd]
  exact runExec_ok hfinish

/-- Settles O8: a pop records what it took, a push first records what it brings, and a result on record is delivered alone. -/
theorem channelOperands : Obligations.ChannelOperands := ⟨channelOperands_popsAndPushes, pendingPushDelivered⟩

end Sys2Proof.Laws
end

section
/-! Taking an exception: a user stream (R264, R283, R286) and a front end (R409). -/
namespace Sys2Proof.Laws
open Sys2Proof.Machine

/-- R283, R286: the cursor of the fault, or the one that the instruction has on record. -/
def FInfo.resuming (i : FInfo) (h : Hart) : FInfo :=
  { i with cursor := if i.ckind = 0 then h.restartHere.cursor else i.cursor,
           ckind := if i.ckind = 0 then h.restartHere.ckind else i.ckind }

/-- R264, R286: a context stopped by a precise fault, its restart record kept. -/
def Hart.stoppedAt (h : Hart) (cause : Cause) : Hart :=
  { h with stat := .stopped cause false, cause := cause, blocked := .none, wait := none, restart := h.restartHere }

theorem takeException_stream {cause : Cause} (hf : isFatal cause = false) (c : Nat) (e : Eng) (i : FInfo) (s : State) :
    takeException (.stream c e) cause i s = .ok ()
      ((s.setHart (.stream c e) (Hart.stoppedAt (s.hart (.stream c e)) cause)).recorded c
        (jobRecord s c cause 0 e.no (s.hart (.stream c e)).pc (FInfo.resuming i (s.hart (.stream c e))))) := by
  rw [takeException, get_then]
  simp only [hf, Bool.false_eq_true, if_false]
  rfl

/-- R409: a front end stops, and its slot of the Flue is written, whose count goes on. -/
theorem takeException_frontEnd (f : Nat) (cause : Cause) (i : FInfo) (s : State) : ∃ flue,
    takeException (.frontEnd f) cause i s = .ok ()
      { s.setHart (.frontEnd f)
          { s.hart (.frontEnd f) with cause := cause, stat := .stopped cause false, blocked := .none, wait := none } with
        flue := flue,
        flueCnt := Map.set (fun _ => 0) s.flueCnt f ((Map.get (fun _ => 0) s.flueCnt f + 1) % 2 ^ 32) } :=
  ⟨_, rfl⟩

/-- Settles O10: a stream stops with its record queued, and a front end with its slot of the Flue written. -/
theorem takingAnException : Obligations.TakingAnException := by
  refine ⟨fun c e cause i s hf => takeException_stream hf c e i s, fun f cause i s hwf => ?_⟩
  obtain ⟨flue, h⟩ := takeException_frontEnd f cause i s
  exact ⟨_, h, rfl, get_set _ _ hwf, rfl, rfl⟩

end Sys2Proof.Laws
end

section
/-! Counters of a core (R256–R258, R392, R394): adding to one, waiting at one, reading one, and its resting value. -/
namespace Sys2Proof.Laws
open Sys2Proof.Machine

/-! CADD and CADDI (R257, R392). -/

section
variable {x : Args} {s : State}

/-- R392: an add without a release of an agent whose adds have all been accepted takes place at once. -/
theorem addCoreCounter_atOnce (v : Word) (hrel : x.mod.getLsbD 3 = false) (hf : (s.hart s.cur).fenceRel = none)
    (hout : s.addsOut (agentNo s.cur) = false) :
    addCoreCounter x v s =
      .ok () ((s.updJob s.cur.coreNo fun j => j.addCounter x.d.toNat v []).withHart fun h => h.past 1) := by
  unfold addCoreCounter
  simp only [bind_ok (addRelease_none hrel hf), get_then, hout, and_self, if_true, updJob_then]
  exact retire_one _

/-- R94, R392: behind an add that is on its way, one without a release goes on its way too. -/
theorem addCoreCounter_behind {c : Nat} {e : Eng} (v : Word) (hrel : x.mod.getLsbD 3 = false)
    (hf : (s.hart s.cur).fenceRel = none) (hc : s.cur = .stream c e) (hout : s.addsOut (agentNo s.cur) = true) :
    addCoreCounter x v s = .ok () ((withAdd c (.core x.d.toNat) v 0 s).withHart fun h => h.past 1) := by
  unfold addCoreCounter
  simp only [bind_ok (addRelease_none hrel hf), get_then, hout, Bool.true_eq_false, and_false, if_false]
  exact (bind_ok (queueAdd_user hc _ v 0)).trans (retire_one _)

/-- What an instruction does whose effect in `s` is a core-counter add in `s1`. -/
theorem coreAdds_of_exec {i : Instr} {v : Word} {s1 : State}
    (hexec : ∀ t, addCoreCounter x v s1 = .ok () t → exec i s = .next t) : Claims.CoreAdds i x s s1 v :=
  fun hrel hf => ⟨fun hout => hexec _ (addCoreCounter_atOnce v hrel hf hout),
    fun _ _ hc hout => hexec _ (addCoreCounter_behind v hrel hf hc hout)⟩

end

theorem counterAddResults_core : Claims.CounterAddResults :=
  ⟨fun _ _ _ _ hi ha => coreAdds_of_exec fun _ h => (run_issues hi rfl rfl).trans (runExec_ok ((bind_ok ha).trans h)),
    fun _ _ hi => coreAdds_of_exec fun _ h => (run_issues hi rfl rfl).trans (runExec_ok h)⟩

/-! The counter itself (R256, R258). -/

section
variable {k : Counter} {v : Word}

theorem Counter.add_of_poison (h : k.poison.isSome = true) (v : Word) (rels : List Rel) : k.add v rels = k := if_pos h

theorem Counter.add_overflow (h : k.poison = none) (hv : 2 ^ 64 ≤ k.phys.toNat + v.toNat) (rels : List Rel) :
    k.add v rels = { k with poison := some 0x102#10 } := by
  rw [Counter.add, if_neg (by simp [h]), if_pos hv]

theorem Counter.add_of_lt (h : k.poison = none) (hv : k.phys.toNat + v.toNat < 2 ^ 64) (rels : List Rel) :
    k.add v rels = { k with phys := k.phys + v, rels := rels ++ k.rels } := by
  rw [Counter.add, if_neg (by simp [h]), if_neg (Nat.not_le.mpr hv)]

end

theorem counterAddEffect : Claims.CounterAddEffect := by
  intro k v rels
  refine ⟨fun hp hv => ?_, fun hp hv => ?_, fun hp => Counter.add_of_poison hp v rels⟩
  · rw [Counter.add_of_lt hp hv]
    refine ⟨rfl, hp, ?_⟩
    show k.phys + v - k.base = k.phys - k.base + v
    exact sub_add_eq_add_sub _ _ _ |>.symm
  · rw [Counter.add_overflow hp hv]
    exact ⟨rfl, rfl⟩

/-- Settles O24: an add takes place at once or behind the adds on their way, and what it does follows the counter's three cases. -/
theorem counterAddResults : Obligations.CounterAddResults := ⟨counterAddResults_core, counterAddEffect⟩

/-! CWAIT, CRD and CINIT (R258, R313, R394). -/

theorem acqOf_acq {x : Args} (hacq : x.mod.getLsbD 3 = true) : acqOf x = some (x.mod.extractLsb' 0 3).toNat := if_pos hacq

/-- R297: a wait that acquires ends with the acquire of its scope. -/
theorem waitDone_acquire {scope : Nat} {rels : List Rel} {s t : State} (h : acquire s.cur scope rels s = .ok () t) :
    waitDone (some scope) rels s = .ok () (t.withHart fun h => h.past 1) := by
  unfold waitDone
  rw [get_then]
  exact (bind_ok h).trans (retire_one _)

section
variable {x : Args} {a : Word} {s s1 s2 t : State} (ha : readSrc 1 x.a s = .ok a s1) (hadds : afterCoreAdds x.d.toNat s1 = .ok () s2)
include ha hadds

/-- R258: a poisoned counter faults. -/
theorem waitCounter_poisoned {p : Cause} (hp : ((s2.job s2.cur.coreNo).counter x.d.toNat).poison = some p)
    (h : takeException s2.cur 0x101#10 { FInfo.plain with aux := p.setWidth 64, counter := 0x8000 + x.d.toNat } s2 = .ok () t) :
    waitCounter x s = .error .done t := by
  unfold waitCounter
  simp only [bind_ok ha, bind_ok hadds, curJob_then, hp]
  exact trapWith_run h

variable (hp : ((s2.job s2.cur.coreNo).counter x.d.toNat).poison = none)
include hp

theorem waitCounter_met
    (hmet : (a + x.imm.signExtend 64).toNat ≤ ((s2.job s2.cur.coreNo).counter x.d.toNat).view.toNat) :
    waitCounter x s = waitDone (acqOf x) ((s2.job s2.cur.coreNo).counter x.d.toNat).rels s2 := by
  unfold waitCounter
  simp only [bind_ok ha, bind_ok hadds, curJob_then, hp, BitVec.ule, hmet, decide_true, if_true]

/-- R313: a wait that is not met makes the stream wait at the counter. -/
theorem waitCounter_unmet
    (hunmet : ((s2.job s2.cur.coreNo).counter x.d.toNat).view.toNat < (a + x.imm.signExtend 64).toNat) :
    waitCounter x s =
      (blockAt .cwait ⟨.core x.d.toNat, false, (a + x.imm.signExtend 64).toNat, acqOf x⟩ : Exec Unit) s2 := by
  unfold waitCounter
  simp only [bind_ok ha, bind_ok hadds, curJob_then, hp, BitVec.ule, Nat.not_le.mpr hunmet, decide_false, Bool.false_eq_true, if_false]

end

section
variable {x : Args} {a : Word} {s s1 t : State}

theorem readCounter_run (hadds : afterCoreAdds x.a.toNat s = .ok () s1)
    (h : finish x.d ((s1.job s1.cur.coreNo).counter x.a.toNat).view s1 = .ok () t) : readCounter x s = .ok () t := by
  unfold readCounter
  rw [bind_ok hadds, curJob_then, h]

/-- R394: with no job on the core, CINIT writes the resting value. -/
theorem initCounter_resting (ha : readSrc 1 x.a s = .ok a s1) (hlive : (s1.job s1.cur.coreNo).live = false) :
    initCounter x s = .ok () ((s1.updCore s1.cur.coreNo fun y =>
      { y with resting := Map.set (fun _ => 0#64) y.resting x.d.toNat a }).withHart fun h => h.past 1) := by
  unfold initCounter
  simp only [bind_ok ha, get_then, hlive, Bool.false_eq_true, if_false, updCore_then]
  exact retire_one _

theorem initCounter_live (ha : readSrc 1 x.a s = .ok a s1) (hlive : (s1.job s1.cur.coreNo).live = true)
    (h : takeException s1.cur 0x103#10 .plain s1 = .ok () t) : initCounter x s = .error .done t := by
  unfold initCounter
  simp only [bind_ok ha, get_then, hlive, if_true]
  exact trapWith_run h

end

/-- Settles O25: CWAIT by the counter's poison and level, CRD, and CINIT by whether a job is on the core. -/
theorem counterWaitResults : Obligations.CounterWaitResults := by
  refine ⟨fun x s a s1 s2 hi ha hadds => ?_,
    fun _ _ _ _ hi hadds h => (run_issues hi rfl rfl).trans (runExec_ok (readCounter_run hadds h)),
    fun _ _ _ _ hi ha hlive => (run_issues hi rfl rfl).trans (runExec_ok (initCounter_resting ha hlive)),
    fun _ _ _ _ _ hi ha hlive h => (run_issues hi rfl rfl).trans (runExec_error (initCounter_live ha hlive h))⟩
  have hexec : exec (.cwait x) s = runExec (waitCounter x) s := run_issues hi rfl rfl
  refine ⟨fun hp hmet hplain => ?_, fun hp hmet hacq t h _ => ?_, fun hp hunmet => ?_, fun p t hp h => ?_⟩
  · refine hexec.trans (runExec_ok ?_)
    rw [waitCounter_met ha hadds hp hmet, acqOf_plain hplain, waitDone_plain]
  · refine hexec.trans (runExec_ok ?_)
    rw [waitCounter_met ha hadds hp hmet, acqOf_acq hacq]
    exact waitDone_acquire h
  · exact hexec.trans (runExec_error ((waitCounter_unmet ha hadds hp hunmet).trans (blockAt_run _ _ _)))
  · exact hexec.trans (runExec_error (waitCounter_poisoned ha hadds hp h))

end Sys2Proof.Laws
end

section
/-! Special registers (R239, R255, R261, R263, R403, R407): what each reads as, and the four members that read and write them. -/
namespace Sys2Proof.Laws
open Sys2Proof.Machine

/-! SR.PSTAT (R255): one bit of each port in each of three groups. -/

/-- The number whose bit `i`, below `n`, is `f i`. -/
def packBits (f : Nat → Bool) (n : Nat) : Nat := (List.range n).foldl (fun m i => m + (f i).toNat * 2 ^ i) 0

theorem packBits_succ (f : Nat → Bool) (n : Nat) : packBits f (n + 1) = 2 ^ n * (f n).toNat + packBits f n := by
  rw [packBits, List.range_succ, List.foldl_append, List.foldl_cons, List.foldl_nil, Nat.mul_comm, Nat.add_comm]
  rfl

theorem packBits_lt (f : Nat → Bool) (n : Nat) : packBits f n < 2 ^ n := by
  induction n with
  | zero => exact Nat.one_pos
  | succ n ih =>
    rw [packBits_succ, Nat.pow_succ]
    cases f n
    · simp only [Bool.toNat_false]; omega
    · simp only [Bool.toNat_true]; omega

theorem testBit_packBits (f : Nat → Bool) {i n : Nat} (hi : i < n) : (packBits f n).testBit i = f i := by
  induction n with
  | zero => exact absurd hi (Nat.not_lt_zero i)
  | succ n ih =>
    rw [packBits_succ, Nat.testBit_two_pow_mul_add _ (packBits_lt f n)]
    by_cases h : i < n
    · rw [if_pos h, ih h]
    · obtain rfl : i = n := by omega
      rw [if_neg h, Nat.sub_self]
      cases f i <;> rfl

/-- The three groups of SR.PSTAT stand beside each other. -/
theorem foldl_threeGroups (w b e : Nat → Bool) (n : Nat) :
    (List.range n).foldl (fun m i => m + (w i).toNat * 2 ^ (32 + i) + (b i).toNat * 2 ^ (16 + i) + (e i).toNat * 2 ^ i) 0 =
      2 ^ 32 * packBits w n + (2 ^ 16 * packBits b n + packBits e n) := by
  induction n with
  | zero => rfl
  | succ n ih =>
    rw [List.range_succ, List.foldl_append, ih, List.foldl_cons, List.foldl_nil, packBits_succ, packBits_succ, packBits_succ,
      Nat.pow_add, Nat.pow_add]
    ring

/-- R255: bits 15–0 say which ports are at their end, 31–16 which are bound to the reader, 47–32 which are bound for writing. -/
theorem pstat_bits (j : Job) (e : Eng) {i : Nat} (hi : i < 16) :
    (j.pstat (some e)).getLsbD i = (j.port i).eos ∧
      (j.pstat (some e)).getLsbD (16 + i) = ((j.port i).bound && e == (j.port i).eng) ∧
      (j.pstat (some e)).getLsbD (32 + i) = ((j.port i).bound && (j.port i).pat.write) := by
  have hpack : j.pstat (some e) = BitVec.ofNat 64 (2 ^ 32 * packBits (fun k => (j.port k).bound && (j.port k).pat.write) 16 +
      (2 ^ 16 * packBits (fun k => (j.port k).bound && e == (j.port k).eng) 16 + packBits (fun k => (j.port k).eos) 16)) :=
    congrArg (BitVec.ofNat 64) (foldl_threeGroups _ _ _ 16)
  have hlow := packBits_lt (fun k => (j.port k).eos) 16
  have hmid := packBits_lt (fun k => (j.port k).bound && e == (j.port k).eng) 16
  have hlows : 2 ^ 16 * packBits (fun k => (j.port k).bound && e == (j.port k).eng) 16 + packBits (fun k => (j.port k).eos) 16 <
      2 ^ 32 := by
    omega
  simp only [hpack, BitVec.getLsbD_ofNat, Nat.testBit_two_pow_mul_add _ hlows, Nat.testBit_two_pow_mul_add _ hlow]
  refine ⟨?_, ?_, ?_⟩
  · rw [if_pos (by omega), if_pos hi, testBit_packBits _ hi, decide_eq_true (by omega), Bool.true_and]
  · rw [if_pos (by omega), if_neg (by omega), Nat.add_sub_cancel_left, testBit_packBits _ hi, decide_eq_true (by omega), Bool.true_and]
  · rw [if_neg (by omega), Nat.add_sub_cancel_left, testBit_packBits _ hi, decide_eq_true (by omega), Bool.true_and]

/-! Reads (R239, R407). -/

/-- R407: the registers that describe a job read as 0 where there is none. -/
theorem csr_of_idle {j : Job} (hlive : j.live = false) (e : Option Eng) (n : Nat) : j.csr e n = 0#64 :=
  if_pos (by rw [hlive]; rfl)

/-- R261, R263: the service context reads its share and its fault queue, and the job's registers otherwise. -/
theorem csrRead_service {s : State} {c n : Nat} (hc : s.cur = .service c) (h0 : n ≠ 0) (h9 : n ≠ 9) (h12 : n ≠ 12) :
    s.csrRead n = if n = 0x100 then BitVec.ofNat 64 (s.core c).share else if n = 0x101 then (s.core c).fqstat
      else (s.job c).csr none n := by
  unfold State.csrRead
  split
  · exact absurd rfl h0
  · exact absurd rfl h9
  · exact absurd rfl h12
  · rw [hc]

theorem csrRead_service_idle {s : State} {c n : Nat} (hc : s.cur = .service c) (hlive : (s.job c).live = false) (h1 : 1 ≤ n)
    (h11 : n ≤ 11) (h9 : n ≠ 9) : s.csrRead n = 0#64 := by
  rw [csrRead_service hc (by omega) h9 (by omega), if_neg (by omega), if_neg (by omega), csr_of_idle hlive]

theorem csrRead_frontEnd {s : State} {f : Nat} (hf : s.cur = .frontEnd f) :
    s.csrRead 0x001 = (s.part f).lastStep ∧ s.csrRead 0x00B = BitVec.ofNat 64 f := by
  constructor <;> (unfold State.csrRead; rw [hf]; rfl)

theorem specialRegisterReads : Claims.SpecialRegisterReads := by
  refine ⟨fun _ => ⟨rfl, rfl, rfl⟩, fun s c e hc hlive => ?_,
    fun _ _ hc => ⟨csrRead_service hc (by decide) (by decide) (by decide), csrRead_service hc (by decide) (by decide) (by decide)⟩,
    fun _ _ _ hc hlive h1 h11 h9 => csrRead_service_idle hc hlive h1 h11 h9, fun _ _ hf => csrRead_frontEnd hf⟩
  simp only [State.csrRead, hc, Job.csr, hlive, Bool.not_true, Bool.false_eq_true, if_false, true_and]
  exact fun _ hi => pstat_bits _ e hi

/-! CSRR, CSRW, CSRS and CSRC (R403). -/

section
variable {x : Args} {keep : Bool} {f : Word → Word → Word} {a : Word} {s s1 s2 t : State}

theorem csrNo_eq (x : Args) : csrNo x = x.imm.toNat % 4096 := by
  simp [csrNo, BitVec.extractLsb'_toNat]

theorem csrGet_run (h : finish x.d (s.csrRead (x.imm.toNat % 4096)) s = .ok () t) : csrGet x s = .ok () t := by
  rw [csrGet, get_then, csrNo_eq, h]

/-- R403: the register is written, and D takes the old value. -/
theorem csrSwap_writes (ha : readSrc 1 x.a s = .ok a s1) (hkeep : (keep && x.a == 0#8) = false)
    (hw : csrWrite (x.imm.toNat % 4096) (f (s1.csrRead (x.imm.toNat % 4096)) a) s1 = .ok () s2)
    (h : finish x.d (s1.csrRead (x.imm.toNat % 4096)) s2 = .ok () t) : csrSwap x keep f s = .ok () t := by
  unfold csrSwap
  simp only [bind_ok ha, get_then, hkeep, Bool.false_eq_true, if_false, csrNo_eq]
  rw [bind_ok hw, h]

/-- R403: with s0 as A nothing is written. -/
theorem csrSwap_keeps (ha : x.a = 0#8) (h : finish x.d (s.csrRead (x.imm.toNat % 4096)) s = .ok () t) :
    csrSwap x true f s = .ok () t := by
  have hs0 : Sel.ofCode x.a = .s 0 := by rw [ha]; decide
  have hkeep : (true && x.a == 0#8) = true := by rw [ha]; rfl
  unfold csrSwap
  simp only [bind_ok (readSrc_sreg hs0 1 s), get_then, hkeep, if_true, csrNo_eq]
  exact h

end

/-- R263: a write of SR.FQSTAT moves the head of the fault queue. -/
theorem csrWrite_fqstat (v : Word) (s : State) :
    csrWrite 0x101 v s = .ok () (s.updCore s.cur.coreNo fun x => { x with fqHead := v.toNat % 16 }) := by
  have hhead : Word.bits v 0 8 % 16 = v.toNat % 16 := by
    simp only [Word.bits, BitVec.extractLsb'_toNat, Nat.shiftRight_zero]
    omega
  simp only [csrWrite, curCore_then, hhead, updCore_run]

/-- R261: SR.SHARE takes 1 to 16. -/
theorem csrWrite_share {v : Word} (h1 : 1 ≤ v.toNat) (h16 : v.toNat ≤ 16) (s : State) :
    csrWrite 0x100 v s = .ok () (s.updCore s.cur.coreNo fun x => { x with share := v.toNat }) := by
  simp only [csrWrite, curCore_then, if_pos (And.intro h1 h16), updCore_run]

theorem csrWrite_share_outside {v : Word} (h : v.toNat = 0 ∨ 16 < v.toNat) (s : State) : csrWrite 0x100 v s = .ok () s := by
  have hout : ¬ (1 ≤ v.toNat ∧ v.toNat ≤ 16) := by omega
  simp only [csrWrite, curCore_then, if_neg hout, pure_run]

theorem csrResults : Claims.CsrResults := by
  refine ⟨fun x s t hi h => (run_issues hi rfl rfl).trans (runExec_ok (csrGet_run h)),
    fun x s a s1 s2 t hi ha hw h => (run_issues hi rfl rfl).trans (runExec_ok (csrSwap_writes ha rfl hw h)), ?_, ?_,
    fun v s => ⟨rfl, rfl, csrWrite_fqstat v s, fun h1 h16 => csrWrite_share h1 h16 s, fun h => csrWrite_share_outside h s⟩⟩
  · intro p hp x s a s1 s2 t hi ha hx hw h
    have hkeep : (true && x.a == 0#8) = false := beq_eq_false_iff_ne.mpr hx
    simp only [List.mem_cons, List.not_mem_nil, or_false] at hp
    rcases hp with rfl | rfl
    · exact (run_issues hi rfl rfl).trans (runExec_ok (csrSwap_writes ha hkeep hw h))
    · exact (run_issues hi rfl rfl).trans (runExec_ok (csrSwap_writes ha hkeep hw h))
  · intro i hm x s t hi hx h
    simp only [List.mem_cons, List.not_mem_nil, or_false] at hm
    rcases hm with rfl | rfl
    · exact (run_issues hi rfl rfl).trans (runExec_ok (csrSwap_keeps hx h))
    · exact (run_issues hi rfl rfl).trans (runExec_ok (csrSwap_keeps hx h))

/-- Settles O30: the reads register by register, and the four members by whether A is s0. -/
theorem specialRegisterResults : Obligations.SpecialRegisterResults := ⟨specialRegisterReads, csrResults⟩

end Sys2Proof.Laws
end

section
/-! Range translation entries and stream ports (R250–R252, R276, R280, R404, R405). -/
namespace Sys2Proof.Laws
open Sys2Proof.Machine

/-! RPROBE and RTTLD (R280, R404). -/

/-- R280: an entry made from a leaf is not stale, so that saying so changes nothing. -/
theorem leaf_rtt_fresh (l : Leaf) (a : Nat) : ({ l.rtt a with stale := false } : Rtt) = l.rtt a := by
  unfold Leaf.rtt
  split <;> rfl

theorem setRtt_then {β : Type} (c i : Nat) (r : Rtt) (f : Unit → Exec β) (s : State) : (setRtt c i r >>= f) s =
    f () (s.updJob c fun j => { j with rtt := Map.set (fun _ => Rtt.invalid) j.rtt i r }) := rfl

section
variable {x : Args} {a b : Word} {s s1 s2 s3 t : State} (ha : readSrc 1 x.a s = .ok a s1) (hb : readSrc 2 x.b s1 = .ok b s2)
include ha hb

/-- R404: the entry of a present mapping, under no invalidation, is written. -/
theorem probe_present {l : Leaf} (hout : s2.accessesOut s2.cur.coreNo = false) (hcan : canonical a.toNat = true)
    (hwalk : s2.walk (s2.job s2.cur.coreNo).part a.toNat = .ok (some l)) (hl : l.present = true)
    (hinv : ((s2.part (s2.job s2.cur.coreNo).part).invs.any fun q =>
      decide ((l.rtt a.toNat).base ≤ q.2) && decide (q.1 ≤ (l.rtt a.toNat).limit)) = false) :
    probe x s = .ok () ((s2.updJob s2.cur.coreNo fun j =>
      { j with rtt := Map.set (fun _ => Rtt.invalid) j.rtt (b.toNat % 64) (l.rtt a.toNat) }).withHart fun h => h.past 1) := by
  unfold probe
  simp only [bind_ok ha, bind_ok hb, get_then, hout, hcan, hwalk, hl, hinv, leaf_rtt_fresh, Bool.false_eq_true, Bool.not_true, if_false,
    if_true, setRtt_then]
  exact retire_one _

/-- R404: without a mapping the probe faults. -/
theorem probe_absent (hout : s2.accessesOut s2.cur.coreNo = false)
    (hnone : canonical a.toNat = false ∨ s2.walk (s2.job s2.cur.coreNo).part a.toNat = .ok none)
    (h : takeException s2.cur 0x142#10 (.at a) s2 = .ok () t) : probe x s = .error .done t := by
  have hwalk : (if canonical a.toNat then s2.walk (s2.job s2.cur.coreNo).part a.toNat else .ok none) = .ok none := by
    rcases hnone with hcan | hwalk
    · rw [hcan]; rfl
    · rw [hwalk, ite_self]
  unfold probe
  simp only [bind_ok ha, bind_ok hb, get_then, hout, hwalk, Bool.false_eq_true, if_false]
  exact trapWith_run h

/-- R276: the entry that the range list holds is loaded. -/
theorem loadRtt_loads {bs : List Byte} {r : Rtt} (hal : a.toNat % 32 = 0) (hlive : (s2.job s2.cur.coreNo).live = true)
    (hread : readGlobal s2.cur (.at a) a.toNat 32 s2 = .ok bs s3)
    (hr : s3.loadEntry (s3.job s2.cur.coreNo).part (s3.job s2.cur.coreNo).rel bs = .ok r) :
    loadRtt x s = .ok () ((s3.updJob s2.cur.coreNo fun j =>
      { j with rtt := Map.set (fun _ => Rtt.invalid) j.rtt (b.toNat % 64) r }).withHart fun h => h.past 1) := by
  unfold loadRtt
  simp only [bind_ok ha, bind_ok hb, hal, ne_eq, not_true_eq_false, if_false, get_then, hlive, Bool.not_true, Bool.false_eq_true,
    bind_ok hread, hr, setRtt_then]
  exact retire_one _

theorem loadRtt_idle (hal : a.toNat % 32 = 0) (hlive : (s2.job s2.cur.coreNo).live = false) :
    loadRtt x s = .ok () (s2.withHart fun h => h.past 1) := by
  unfold loadRtt
  simp only [bind_ok ha, bind_ok hb, hal, ne_eq, not_true_eq_false, if_false, get_then, hlive, Bool.not_false, if_true]
  exact retire_one _

theorem loadRtt_misaligned (hal : a.toNat % 32 ≠ 0) (h : takeException s2.cur 0x143#10 (.at a) s2 = .ok () t) :
    loadRtt x s = .error .done t := by
  unfold loadRtt
  rw [bind_ok ha, bind_ok hb, if_pos hal]
  exact trapWith_run h

end

theorem translationResults : Claims.TranslationResults :=
  ⟨fun _ _ _ _ _ _ _ hi ha hb hout hcan hwalk hl hinv =>
      (run_issues hi rfl rfl).trans (runExec_ok (probe_present ha hb hout hcan hwalk hl hinv)),
    fun _ _ _ _ _ _ _ hi ha hb hout hnone h => (run_issues hi rfl rfl).trans (runExec_error (probe_absent ha hb hout hnone h)),
    fun _ _ _ _ _ _ _ _ _ hi ha hb hal hlive hread _ hr =>
      (run_issues hi rfl rfl).trans (runExec_ok (loadRtt_loads ha hb hal hlive hread hr)),
    fun _ _ _ _ _ _ hi ha hb hal hlive => (run_issues hi rfl rfl).trans (runExec_ok (loadRtt_idle ha hb hal hlive)),
    fun _ _ _ _ _ _ _ hi ha hb hal h => (run_issues hi rfl rfl).trans (runExec_error (loadRtt_misaligned ha hb hal h))⟩

/-! PBIND, PUNBIND and PPOS (R250–R252, R405). -/

section
variable {x : Args} {a : Word} {s s1 s2 t : State}

/-- R252, R405: a port that is free, or whose pattern may be replaced, is bound at position 0. -/
theorem bindPort_binds {bs : List Byte} (ha : readSrc 1 x.a s = .ok a s1) (hal : a.toNat % 64 = 0)
    (hpresent : (s1.job s1.cur.coreNo).emask.getLsbD (Eng.ofNo (x.imm.toNat % 4)).no = true)
    (hread : readGlobal s1.cur { FInfo.at a with port := some (x.d.toNat - 0x70) } a.toNat 64 s1 = .ok bs s2)
    (hok : (Pattern.ofBytes (s2.job s1.cur.coreNo).rel bs).ok = true)
    (hfree : ((s2.job s1.cur.coreNo).port (x.d.toNat - 0x70)).bound = false ∨
      ((s2.job s1.cur.coreNo).port (x.d.toNat - 0x70)).pat.unb = false)
    (hclear : clearAnswers s1.cur (s2.updJob s1.cur.coreNo fun j => j.setPort (x.d.toNat - 0x70)
      ⟨true, Pattern.ofBytes (s2.job s1.cur.coreNo).rel bs, 0, Eng.ofNo (x.imm.toNat % 4), false⟩) = .ok () t) :
    bindPort x s = .ok () (t.withHart fun h => h.past 1) := by
  have hreplace : (((s2.job s1.cur.coreNo).port (x.d.toNat - 0x70)).bound &&
      ((s2.job s1.cur.coreNo).port (x.d.toNat - 0x70)).pat.unb) = false := by
    rcases hfree with h | h <;> simp only [h, Bool.false_and, Bool.and_false]
  unfold bindPort
  simp only [bind_ok ha, hal, ne_eq, not_true_eq_false, if_false, get_then, hpresent, Bool.not_true, Bool.false_eq_true, bind_ok hread,
    getJob_then, hok, hreplace, Bool.false_and, updJob_then, bind_ok hclear]
  exact retire_one _

theorem bindPort_misaligned (ha : readSrc 1 x.a s = .ok a s1) (hal : a.toNat % 64 ≠ 0)
    (h : takeException s1.cur 0x143#10 { FInfo.at a with port := some (x.d.toNat - 0x70) } s1 = .ok () t) :
    bindPort x s = .error .done t := by
  unfold bindPort
  simp only [bind_ok ha, if_pos hal]
  exact trapWith_run h

theorem unbindPort_run (x : Args) (s : State) : unbindPort x s =
    .ok () ((s.updJob s.cur.coreNo fun j => j.setPort (x.d.toNat - 0x70) .unbound).withHart fun h => h.past 1) := by
  rw [unbindPort, curCore_then, updJob_then]
  exact retire_one _

/-- R405: the position of a bound port. -/
theorem portPos_run (h : finish x.d (if ((s.job s.cur.coreNo).port (x.a.toNat - 0x70)).bound
      then BitVec.ofNat 64 ((s.job s.cur.coreNo).port (x.a.toNat - 0x70)).pos else 0xFFFFFFFFFFFFFFFF#64) s = .ok () t) :
    portPos x s = .ok () t := by
  rw [portPos, curJob_then]
  exact h

end

theorem portResults : Claims.PortResults :=
  ⟨fun _ _ _ _ _ _ hi ha hal hpresent hread _ hok hfree _ hclear =>
      (run_issues hi rfl rfl).trans (runExec_ok (bindPort_binds ha hal hpresent hread hok hfree hclear)),
    fun _ _ _ _ _ hi ha hal h => (run_issues hi rfl rfl).trans (runExec_error (bindPort_misaligned ha hal h)),
    fun x s hi => (run_issues hi rfl rfl).trans (runExec_ok (unbindPort_run x s)),
    fun _ _ _ hi h => (run_issues hi rfl rfl).trans (runExec_ok (portPos_run h))⟩

/-- Settles O31: the probe and the load of range translation entries, and the port members, each by its checks. -/
theorem translationAndPortResults : Obligations.TranslationAndPortResults := ⟨translationResults, portResults⟩

end Sys2Proof.Laws
end

section
/-! Tile configuration (R240–R246, R418–R420) and the bits of a descriptor (R241). -/
namespace Sys2Proof.Laws
open Sys2Proof.Machine

section
variable {x : Args} {zero : Bool} {a b : Word} {s s1 s2 t : State}

section
variable (ha : readSrc 1 x.a s = .ok a s1) (hb : readSrc 2 x.b s1 = .ok b s2)
include ha hb

/-- R418, R419: the register takes the descriptor; TCFG.Z clears the bits of its range. -/
theorem configure_ok {d : Desc} (hd : newDesc ((s2.job s2.cur.coreNo).tdesc (x.d.toNat - 0x20)) (x.b == 0#8) a b = .ok d) :
    configure x zero s = .ok () ((s2.updJob s2.cur.coreNo fun j =>
      { j with desc := Map.set (fun _ => 0#128) j.desc (x.d.toNat - 0x20) d.toBits,
               tstore := if zero then j.tstore.clear (512 * d.base) (512 * (d.base + d.cap)) else j.tstore }).withHart
      fun h => h.past 1) := by
  unfold configure
  simp only [bind_ok ha, bind_ok hb, curJob_then, hd, curCore_then, updJob_then]
  exact retire_one _

theorem configure_faults {f : Cause}
    (hd : newDesc ((s2.job s2.cur.coreNo).tdesc (x.d.toNat - 0x20)) (x.b == 0#8) a b = .error f)
    (h : takeException s2.cur f .plain s2 = .ok () t) : configure x zero s = .error .done t := by
  unfold configure
  simp only [bind_ok ha, bind_ok hb, curJob_then, hd]
  exact trapWith_run h

variable (hv : ((s2.job s2.cur.coreNo).tdesc (x.d.toNat - 0x20)).v = true)
include hv

/-- R420: a valid region inside the tile is set. -/
theorem setValid_ok (hrows : a.toNat ≤ ((s2.job s2.cur.coreNo).tdesc (x.d.toNat - 0x20)).rows)
    (hcols : b.toNat ≤ ((s2.job s2.cur.coreNo).tdesc (x.d.toNat - 0x20)).cols) :
    setValid x s = .ok () ((s2.updJob s2.cur.coreNo fun j =>
      { j with desc := Map.set (fun _ => 0#128) j.desc (x.d.toNat - 0x20)
                 ({ (s2.job s2.cur.coreNo).tdesc (x.d.toNat - 0x20) with vrows := a.toNat, vcols := b.toNat } : Desc).toBits }).withHart
      fun h => h.past 1) := by
  have hin := not_or.mpr ⟨Nat.not_lt.mpr hrows, Nat.not_lt.mpr hcols⟩
  unfold setValid
  simp only [bind_ok ha, bind_ok hb, curJob_then, hv, Bool.not_true, Bool.false_eq_true, if_false, if_neg hin, curCore_then, updJob_then]
  exact retire_one _

theorem setValid_faults (hlarge : ((s2.job s2.cur.coreNo).tdesc (x.d.toNat - 0x20)).rows < a.toNat ∨
      ((s2.job s2.cur.coreNo).tdesc (x.d.toNat - 0x20)).cols < b.toNat)
    (h : takeException s2.cur 0x081#10 .plain s2 = .ok () t) : setValid x s = .error .done t := by
  unfold setValid
  simp only [bind_ok ha, bind_ok hb, curJob_then, hv, Bool.not_true, Bool.false_eq_true, if_false, if_pos hlarge]
  exact trapWith_run h

end

/-- R420: TDESC reads a half of any descriptor. -/
theorem readDesc_run (h : finish x.d (if x.mod.getLsbD 0
      then (Map.get (fun _ => 0#128) (s.job s.cur.coreNo).desc (x.a.toNat - 0x20)).extractLsb' 64 64
      else (Map.get (fun _ => 0#128) (s.job s.cur.coreNo).desc (x.a.toNat - 0x20)).extractLsb' 0 64) s = .ok () t) :
    readDesc x s = .ok () t := by
  rw [readDesc, curJob_then]
  exact h

end

theorem tileConfigResults_byMember : Claims.TileConfigResults := by
  refine ⟨?_, ?_,
    fun x s a b s1 s2 hi ha hb hv hrows hcols => (run_issues hi rfl rfl).trans (runExec_ok (setValid_ok ha hb hv hrows hcols)),
    fun x s a b s1 s2 t hi ha hb hv hlarge h => (run_issues hi rfl rfl).trans (runExec_error (setValid_faults ha hb hv hlarge h)),
    fun x s t hi h => (run_issues hi rfl rfl).trans (runExec_ok (readDesc_run h))⟩
  · intro p hp x s a b s1 s2 d hi ha hb hd
    simp only [List.mem_cons, List.not_mem_nil, or_false] at hp
    rcases hp with rfl | rfl
    · exact (run_issues hi rfl rfl).trans (runExec_ok (configure_ok ha hb hd))
    · exact (run_issues hi rfl rfl).trans (runExec_ok (configure_ok ha hb hd))
  · intro i hm x s a b s1 s2 f t hi ha hb hd h
    simp only [List.mem_cons, List.not_mem_nil, or_false] at hm
    rcases hm with rfl | rfl
    · exact (run_issues hi rfl rfl).trans (runExec_error (configure_faults ha hb hd h))
    · exact (run_issues hi rfl rfl).trans (runExec_error (configure_faults ha hb hd h))

/-- A field of `n` bits at `lo`, `low` below it and `high` above it, is what is read there. -/
theorem bits_of_split {w n lo low f high N : Nat} (hN : N = low + 2 ^ lo * (f + 2 ^ n * high)) (hw : N < 2 ^ w) (hlow : low < 2 ^ lo)
    (hf : f < 2 ^ n) : ((BitVec.ofNat w N).extractLsb' lo n).toNat = f := by
  rw [BitVec.extractLsb'_toNat, BitVec.toNat_ofNat, Nat.mod_eq_of_lt hw, Nat.shiftRight_eq_div_pow, hN,
    Nat.add_mul_div_left _ _ (Nat.two_pow_pos lo), Nat.div_eq_of_lt hlow, Nat.zero_add, Nat.add_mul_mod_self_left, Nat.mod_eq_of_lt hf]

/-- A bit at `lo`, `low` below it and `high` above it, is what is read there. -/
theorem bit_of_split {w lo low high N : Nat} {b : Bool} (hN : N = low + 2 ^ lo * (b.toNat + 2 * high)) (hw : lo < w)
    (hlow : low < 2 ^ lo) : (BitVec.ofNat w N).getLsbD lo = b := by
  rw [BitVec.getLsbD_ofNat, decide_eq_true hw, Bool.true_and, hN, Nat.add_comm, Nat.testBit_two_pow_mul_add _ hlow, if_neg (lt_irrefl lo),
    Nat.sub_self, Nat.testBit_zero, Nat.add_mul_mod_self_left]
  cases b <;> rfl

/-- R241: each field of a descriptor stands in bits of its own. -/
theorem descriptorBits : Claims.DescriptorBits := by
  rintro ⟨vcols, vrows, v, morton, typ, colsM1, rowsM1, cap, base⟩ hbase hcap hrows hcols htyp hvrows hvcols
  have hm := Bool.toNat_le morton
  have hv := Bool.toNat_le v
  simp only at hbase hcap hrows hcols htyp hvrows hvcols
  unfold Desc.toBits Desc.ofBits
  simp only
  congr 1
  · refine bits_of_split (low := base + cap * 2 ^ 11 + rowsM1 * 2 ^ 23 + colsM1 * 2 ^ 31 + typ * 2 ^ 41 + morton.toNat * 2 ^ 46 +
        v.toNat * 2 ^ 47 + vrows * 2 ^ 48)
      (high := 0) ?_ ?_ ?_ ?_ <;> omega
  · refine bits_of_split (low := base + cap * 2 ^ 11 + rowsM1 * 2 ^ 23 + colsM1 * 2 ^ 31 + typ * 2 ^ 41 + morton.toNat * 2 ^ 46 +
        v.toNat * 2 ^ 47)
      (high := vcols) ?_ ?_ ?_ ?_ <;> omega
  · refine bit_of_split (low := base + cap * 2 ^ 11 + rowsM1 * 2 ^ 23 + colsM1 * 2 ^ 31 + typ * 2 ^ 41 + morton.toNat * 2 ^ 46)
      (high := vrows + vcols * 2 ^ 9) ?_ ?_ ?_ <;> omega
  · refine bit_of_split (low := base + cap * 2 ^ 11 + rowsM1 * 2 ^ 23 + colsM1 * 2 ^ 31 + typ * 2 ^ 41)
      (high := v.toNat + vrows * 2 ^ 1 + vcols * 2 ^ 10) ?_ ?_ ?_ <;> omega
  · refine bits_of_split (low := base + cap * 2 ^ 11 + rowsM1 * 2 ^ 23 + colsM1 * 2 ^ 31)
      (high := morton.toNat + v.toNat * 2 ^ 1 + vrows * 2 ^ 2 + vcols * 2 ^ 11) ?_ ?_ ?_ ?_ <;> omega
  · refine bits_of_split (low := base + cap * 2 ^ 11 + rowsM1 * 2 ^ 23)
      (high := typ + morton.toNat * 2 ^ 5 + v.toNat * 2 ^ 6 + vrows * 2 ^ 7 + vcols * 2 ^ 16) ?_ ?_ ?_ ?_ <;> omega
  · refine bits_of_split (low := base + cap * 2 ^ 11)
      (high := colsM1 + typ * 2 ^ 10 + morton.toNat * 2 ^ 15 + v.toNat * 2 ^ 16 + vrows * 2 ^ 17 + vcols * 2 ^ 26) ?_ ?_ ?_ ?_ <;> omega
  · refine bits_of_split (low := base)
      (high := rowsM1 + colsM1 * 2 ^ 8 + typ * 2 ^ 18 + morton.toNat * 2 ^ 23 + v.toNat * 2 ^ 24 + vrows * 2 ^ 25 +
        vcols * 2 ^ 34) ?_ ?_ ?_ ?_ <;> omega
  · refine bits_of_split (low := 0)
      (high := cap + rowsM1 * 2 ^ 12 + colsM1 * 2 ^ 20 + typ * 2 ^ 30 + morton.toNat * 2 ^ 35 + v.toNat * 2 ^ 36 + vrows * 2 ^ 37 +
        vcols * 2 ^ 46) ?_ ?_ ?_ ?_ <;> omega

/-- Settles O32: the configuration members by what `newDesc` and the valid region answer, and the fields' places in the 128 bits. -/
theorem tileConfigResults : Obligations.TileConfigResults := ⟨tileConfigResults_byMember, descriptorBits⟩

end Sys2Proof.Laws
end

section
/-! An M or F command at its stream (R266, R267, R312, R354–R356, R440, R459, R460): its stamp, its wait clause, and its entry into its
engine. -/
namespace Sys2Proof.Laws
open Sys2Proof.Machine

/-! Entry (R459). -/

/-- The first cycle at which a command's stream, unit and bank are free (R459). -/
def startOf (j : Job) (tm : Timing) : Nat := max j.j (max (j.units.next tm.unit) (j.units.free tm.unit tm.bank))

/-- The job with a command in the queue of its engine, its unit and bank taken. -/
def Job.entered (j : Job) (tm : Timing) (cmd : MfCmd) : Job :=
  { (j.setQueueOf tm.unit.eng (j.queueOf tm.unit.eng ++ [cmd])) with units := j.units.use tm j.j (startOf j tm) }

theorem enterEngine_run (c : Nat) (tm : Timing) (cmd : MfCmd) (s : State) :
    enterEngine c tm cmd s = .ok () (s.updJob c fun j =>
      Job.entered j tm { cmd with visible := startOf (s.job c) tm + tm.visible, exact := s.locked c && cmd.fixedTime }) := rfl

theorem job_updJob {s : State} {c : Nat} (f : Job → Job) (hwf : Map.wf (fun _ => Core.reset) s.cores = true) :
    (s.updJob c f).job c = f (s.job c) := by
  unfold State.updJob State.updCore State.job
  rw [State.core_setCore _ _ _ hwf]

section
variable (j : Job) (tm : Timing) (cmd : MfCmd)

/-- The command stands at the end of its engine's queue. -/
theorem queueOf_entered : (Job.entered j tm cmd).queueOf tm.unit.eng = j.queueOf tm.unit.eng ++ [cmd] := by
  unfold Job.entered MfUnit.eng
  cases tm.unit <;> rfl

theorem queueOf_entered_other : (Job.entered j tm cmd).queueOf (if tm.unit = .fpipe then .M else .F) =
    j.queueOf (if tm.unit = .fpipe then .M else .F) := by
  unfold Job.entered MfUnit.eng
  cases tm.unit <;> rfl

/-- R459: the bank is taken from the command's start. -/
theorem use_bank (u : Units) (i t : Nat) :
    (tm.bank = some 0 → (u.use tm i t).bank0 = t + tm.bankUse) ∧ (tm.bank = some 1 → (u.use tm i t).bank1 = t + tm.bankUse) := by
  constructor <;> (intro h; simp only [Units.use, h])

/-- R459: the unit is taken from the command's start, whichever its bank is. -/
theorem use_unit (u : Units) (i t : Nat) :
    (tm.unit = .array → (u.use tm i t).array = t + tm.busy) ∧ (tm.unit = .port → (u.use tm i t).port = t + tm.busy) ∧
      (tm.unit = .fpipe → (u.use tm i t).fpipe = t + tm.busy) := by
  refine ⟨fun h => ?_, fun h => ?_, fun h => ?_⟩ <;> (simp only [Units.use, h]; split <;> rfl)

end

theorem engineEntry_enters : Claims.EngineEntry := by
  intro c tm cmd s hwf
  refine ⟨_, enterEngine_run c tm cmd s, rfl, rfl, rfl, ?_⟩
  rw [job_updJob _ hwf]
  obtain ⟨harray, hport, hfpipe⟩ := use_unit tm (s.job c).units (s.job c).j (startOf (s.job c) tm)
  obtain ⟨h0, h1⟩ := use_bank tm (s.job c).units (s.job c).j (startOf (s.job c) tm)
  refine ⟨queueOf_entered _ _ _, queueOf_entered_other _ _ _, harray, hport, hfpipe, h0, h1, ?_, ?_⟩
  · unfold Job.entered Job.setQueueOf; split <;> rfl
  · unfold Job.entered Job.setQueueOf; split <;> rfl

/-! The gate of a stamp (R266, R267, R460). -/

/-- The M and F commands go through the gates of their unit and bank first (R440). -/
theorem exec_mfForm (z tr : BitVec 1) {p : (CArgs → Instr) × MfUnit × (CArgs → Option Nat)} (hp : p ∈ Claims.mfForms z tr)
    (x : CArgs) :
    ∃ go, ∀ s, Issues (p.1 x) s → exec (p.1 x) s = runExec (mfCommand x p.2.1 (p.2.2 x) go) s := by
  simp only [Claims.mfForms, List.mem_cons, List.not_mem_nil, or_false] at hp
  rcases hp with rfl | rfl | rfl | rfl | rfl | rfl | rfl | rfl | rfl | rfl | rfl | rfl | rfl | rfl | rfl | rfl | rfl | rfl | rfl <;>
    exact ⟨_, fun _ hi => run_issues hi rfl rfl⟩

section
variable {x : CArgs} {m : MfUnit} {bank : Option Nat} {go : Exec Unit} {s t : State} {q : Stamp}

/-- The state in which a stream stands at a stamped command. -/
theorem timed_stamped (hq : x.stamp = some q) :
    Claims.timed x s = s.updJob s.cur.coreNo fun j => { j with timed := true } := by
  unfold Claims.timed
  rw [hq]; rfl

section
variable (hq : x.stamp = some q) (hg : (s.hart s.cur).grant = false)
include hq hg

/-- R266: on an unlocked cluster a stamped command faults. -/
theorem stampGate_unlocked (hl : s.locked s.cur.coreNo = false)
    (h : takeException (Claims.timed x s).cur 0x181#10 .plain (Claims.timed x s) = .ok () t) :
    stampGate x m bank go s = .error .done t := by
  rw [timed_stamped hq] at h
  unfold stampGate
  simp only [get_then, hq, updJob_then, hg, hl, Bool.false_eq_true, if_false, Bool.not_false, if_true]
  exact trapWith_run h

variable (hl : s.locked s.cur.coreNo = true)
include hl

/-- R267, R460: past its cycle, or at it behind a command that issued on it, a stamped command faults. -/
theorem stampGate_past
    (hpast : q.s.toNat < (s.job s.cur.coreNo).j ∨
      (q.s.toNat = (s.job s.cur.coreNo).j ∧ (s.job s.cur.coreNo).j < (s.job s.cur.coreNo).units.next m))
    (h : takeException (Claims.timed x s).cur 0x182#10 .plain (Claims.timed x s) = .ok () t) :
    stampGate x m bank go s = .error .done t := by
  rw [timed_stamped hq] at h
  unfold stampGate
  simp only [get_then, hq, updJob_then, hg, hl, Bool.false_eq_true, if_false, Bool.not_true, if_pos hpast]
  exact trapWith_run h

/-- R266: before its cycle a stamped command waits. -/
theorem stampGate_early (hearly : (s.job s.cur.coreNo).j < q.s.toNat) :
    stampGate x m bank go s = .error .done ((Claims.timed x s).withHart fun h =>
      { h with blocked := .stamp, wait := some ⟨.core 0, false, q.s.toNat, none⟩, restart := h.restartHere }) := by
  have hpast : ¬ (q.s.toNat < (s.job s.cur.coreNo).j ∨
      (q.s.toNat = (s.job s.cur.coreNo).j ∧ (s.job s.cur.coreNo).j < (s.job s.cur.coreNo).units.next m)) := by omega
  rw [timed_stamped hq]
  unfold stampGate
  simp only [get_then, hq, updJob_then, hg, hl, Bool.false_eq_true, if_false, Bool.not_true, if_neg hpast, if_pos hearly]
  exact blockAt_run _ _ _

/-- R267, R460: at its cycle, with its unit or its bank in use, a stamped command faults. -/
theorem stampGate_busy (hat : q.s.toNat = (s.job s.cur.coreNo).j) (hnext : (s.job s.cur.coreNo).units.next m ≤ (s.job s.cur.coreNo).j)
    (hbusy : (s.job s.cur.coreNo).j < (s.job s.cur.coreNo).units.free m bank)
    (h : takeException (Claims.timed x s).cur 0x180#10 .plain (Claims.timed x s) = .ok () t) :
    stampGate x m bank go s = .error .done t := by
  have hpast : ¬ (q.s.toNat < (s.job s.cur.coreNo).j ∨
      (q.s.toNat = (s.job s.cur.coreNo).j ∧ (s.job s.cur.coreNo).j < (s.job s.cur.coreNo).units.next m)) := by omega
  have hearly : ¬ (s.job s.cur.coreNo).j < q.s.toNat := by omega
  rw [timed_stamped hq] at h
  unfold stampGate
  simp only [get_then, hq, updJob_then, hg, hl, Bool.false_eq_true, if_false, Bool.not_true, if_neg hpast, if_neg hearly, if_pos hbusy]
  exact trapWith_run h

end

theorem stampGate_none (hq : x.stamp = none) (m : MfUnit) (bank : Option Nat) (go : Exec Unit) (s : State) :
    stampGate x m bank go s = go s := by
  unfold stampGate
  simp only [get_then, hq]

end

theorem stampGates : Claims.StampGates := by
  intro z tr p hp x s q t hi hq hg
  obtain ⟨go, hexec⟩ := exec_mfForm z tr hp x
  refine ⟨fun hl h => ?_, fun hl hpast h => ?_, fun hl hearly => ?_, fun hl hat hnext hbusy h => ?_⟩
  · exact (hexec s hi).trans (runExec_error (stampGate_unlocked hq hg hl h))
  · exact (hexec s hi).trans (runExec_error (stampGate_past hq hg hl hpast h))
  · exact (hexec s hi).trans (runExec_error (stampGate_early hq hg hl hearly))
  · exact (hexec s hi).trans (runExec_error (stampGate_busy hq hg hl hat hnext hbusy h))

/-! The gate of the wait clause (R312, R354, R356). -/

section
variable {x : CArgs} {go : Clauses → Know → Exec Unit} {s t u v w : State}

/-- R356: a command whose register names no counter is dropped. -/
theorem waitClause_dropped {ref : Word} (hbad : badRef s.cur.coreNo (Claims.clauses x s) s = .ok (some ref) v)
    (hdrop : dropCommand s.cur.coreNo (agentNo s.cur % 8) (s.hart s.cur).pc (Claims.clauses x s) ref v = .ok () u)
    (h : retire (cmdSlots x) u = .ok () t) : waitClause x go s = .ok () t := by
  unfold waitClause
  rw [get_then]
  exact (bind_ok hbad).trans ((bind_ok hdrop).trans h)

section
variable (hbad : badRef s.cur.coreNo (Claims.clauses x s) s = .ok none v) (hopnds : (s.hart s.cur).restartHere.opnds = [])
include hbad hopnds

/-- R312: a command that waits on a poisoned counter is cancelled, and its signal poisoned. -/
theorem waitClause_poisoned {f : Cause}
    (hwait : waitState (.hart (agentNo s.cur)) s.cur.coreNo (Claims.clauses x s) v = .ok (.poisoned f) w)
    (hsignal : signalPoison s.cur.coreNo (Claims.clauses x s) f w = .ok () u) (h : retire (cmdSlots x) u = .ok () t) :
    waitClause x go s = .ok () t := by
  unfold waitClause
  rw [get_then]
  refine (bind_ok hbad).trans ((bind_ok hwait).trans ?_)
  simp only [hopnds, List.isEmpty_nil, if_true]
  exact (bind_ok hsignal).trans h

/-- R354: a command whose wait is not met makes its stream wait. -/
theorem waitClause_unmet {r : CRef} (hwait : waitState (.hart (agentNo s.cur)) s.cur.coreNo (Claims.clauses x s) v = .ok .unmet w)
    (hr : (Claims.clauses x s).wait = some r) :
    waitClause x go s = .error .done (w.withHart fun h =>
      { h with blocked := .cmdWait (match (generalizing := false) r with | .core _ => true | .mem _ => false),
               wait := some ⟨r, false, (Claims.clauses x s).thr, none⟩, restart := h.restartHere }) := by
  have hcl : (clausesOf (s.hart s.cur) x.ext).wait = some r := hr
  unfold waitClause
  rw [get_then]
  refine (bind_ok hbad).trans ((bind_ok hwait).trans ?_)
  simp only [hopnds, List.isEmpty_nil, if_true, hcl]
  exact blockAt_run _ _ _

end

end

theorem waitGates : Claims.WaitGates := by
  intro z tr p hp x s hi hq
  obtain ⟨go, hexec⟩ := exec_mfForm z tr hp x
  have hslots : cmdSlots x = 2 := by rw [cmdSlots, hq]
  have hwait : exec (p.1 x) s = runExec (waitClause x go) s := by
    rw [hexec s hi, runExec, runExec, mfCommand, stampGate_none hq]
  refine ⟨fun ref v u t hbad hdrop h => ?_, fun v f w u t hbad hw hopnds hsignal h => ?_, fun v w r hbad hw hr hopnds => ?_⟩
  · exact hwait.trans (runExec_ok (waitClause_dropped hbad hdrop (hslots ▸ h)))
  · exact hwait.trans (runExec_ok (waitClause_poisoned hbad hopnds hw hsignal (hslots ▸ h)))
  · exact hwait.trans (runExec_error (waitClause_unmet hbad hopnds hw hr))

/-- Settles O40: the entry into an engine, and the two gates that every M and F command passes before its operands. -/
theorem engineEntry : Obligations.EngineEntry := ⟨engineEntry_enters, stampGates, waitGates⟩

end Sys2Proof.Laws
end

section
/-! Events at a core (R94, R249, R261–R268, R293, R310, R313, R387, R396): each event once its condition holds. -/
namespace Sys2Proof.Laws
open Sys2Proof.Machine

/-! Effects on their way and waits (R94, R293, R313, R396). -/

section
variable {c : Nat} {s t u : State}

theorem phaseWriteback_run (hfull : 4096 ≤ (s.job c).privOrder.length) (h : writeBackOldest c s = .ok () t) :
    phaseWriteback c s = .ok () t := by
  unfold phaseWriteback
  rw [get_then, require_ok _ _ (decide_eq_true hfull), h]

theorem writeAccepted_run {i : Nat} (hne : s.acceptable c ≠ []) (hi : choose 58 (s.acceptable c).length s = .ok i t)
    (h : acceptOut ((s.acceptable c).getD i 0) t = .ok () u) : writeAccepted c s = .ok () u := by
  have hsome : (! (s.acceptable c).isEmpty) = true := by simpa using hne
  unfold writeAccepted
  simp only [get_then, require_ok _ _ hsome, bind_ok hi, h]

/-- R313: a wait at a core counter is met at its level. -/
theorem metWait_core {n thr : Nat} {waita : Bool} {acq : Option Nat} (hp : ((s.job c).counter n).poison = none)
    (hthr : thr ≤ ((s.job c).counter n).view.toNat) :
    metWait ⟨.core n, waita, thr, acq⟩ c s = .ok ((s.job c).counter n).rels s := by
  have hmet : (((s.job c).counter n).poison.isNone && decide (thr ≤ ((s.job c).counter n).view.toNat)) = true := by
    rw [hp, decide_eq_true hthr]; rfl
  unfold metWait
  simp only [get_then, require_ok _ _ hmet, pure_run]

section
variable {e : Eng} {w : WaitRec} {rels : List Rel} (hw : (s.hart (.stream c e)).wait = some w)
  (hrun : s.runnable (.stream c e) = true) (hplain : w.waita = false) (hmet : metWait w c s = .ok rels t)
include hw hrun hplain hmet

/-- R313: a wait instruction that is met completes. -/
theorem waitSatisfied_instr
    (hblocked : (s.hart (.stream c e)).blocked = .cwait ∨ (s.hart (.stream c e)).blocked = .memWait)
    (hdone : waitDone w.acq rels { t with cur := .stream c e } = .ok () u) : waitSatisfied c e s = .ok () u := by
  have hready : (s.runnable (.stream c e) && ! w.waita) = true := by rw [hrun, hplain]; rfl
  unfold waitSatisfied
  rcases hblocked with hb | hb <;>
    simp only [get_then, hw, require_ok _ _ hready, hb, bind_ok hmet, modify_then, hdone]

/-- R354: a command whose wait is met goes on. -/
theorem waitSatisfied_cmd {b : Bool} (hblocked : (s.hart (.stream c e)).blocked = .cmdWait b) :
    waitSatisfied c e s = .ok () (t.setHart (.stream c e) { t.hart (.stream c e) with blocked := .none, wait := none }) := by
  have hready : (s.runnable (.stream c e) && ! w.waita) = true := by rw [hrun, hplain]; rfl
  unfold waitSatisfied
  simp only [get_then, hw, require_ok _ _ hready, hblocked, bind_ok hmet, updHartOf_run]

end

/-- R396: a WAITA looks at its word again. -/
theorem waitaAgain_run {a : Agent} {w : WaitRec} {r : Word} (hw : (s.hart a).wait = some w) (ha : agentExists a = true)
    (hrun : s.runnable a = true) (hwaita : w.waita = true) (hblocked : (s.hart a).blocked = .memWait) (href : w.ref = .mem r)
    (h : waitWordAt r w.thr w.acq { s with cur := a } = .ok () t) : waitaAgain a s = .ok () t := by
  have hready : (agentExists a && s.runnable a && w.waita && (s.hart a).blocked == .memWait) = true := by
    rw [ha, hrun, hwaita, hblocked]; rfl
  unfold waitaAgain
  simp only [get_then, hw, require_ok _ _ hready, href, modify_then, h]

end

/-! Answers to remote loads and effect points (R249, R310, R387). -/

section
variable {c : Nat} {s t u : State}

/-- R387: the answer of another package without a fault brings the data. -/
theorem rldResponse_answered {id tag : Nat} {r : Rld} {q : Remote} {data : List Byte}
    (hr : (s.job c).rlds.find? (·.id == id) = some r) (ha : s.answerOf (.rld c id) (fun _ => true) = some (tag, q))
    (hq : q.answer = some (0#10, data)) (h : rldArrives c r data { s with remotes := Map.erase s.remotes tag } = .ok () t) :
    rldResponse c id 0#10 s = .ok () t := by
  unfold rldResponse
  simp only [get_then, hr, ha, hq, require_ok _ _ (beq_self_eq_true _), dropRemote, modify_then, if_true, h]

/-- R249: a load of this package's memory reads and checks its blocks here. -/
theorem rldResponse_here {id : Nat} {r : Rld} {fail : Cause} (hr : (s.job c).rlds.find? (·.id == id) = some r)
    (ha : s.answerOf (.rld c id) (fun _ => true) = none) (hplace : s.place r.pa = .hbm)
    (hcheck : exitChecks (s.blocksOf r.pa r.size) s = .ok none t) (h : rldArrives c r (s.bytes r.pa r.size) t = .ok () u) :
    rldResponse c id fail s = .ok () u := by
  unfold rldResponse
  simp only [get_then, hr, ha, hplace, bind_ok hcheck, h]

/-- R310: once nothing of the partition is on its way, the invalidation of the sealed range ends. -/
theorem sealEffect_run {k lo hi : Nat} {x : Bool} (hk : (s.job c).part = k)
    (hseal : (s.part k).seals.find? (·.1 == c) = some (c, lo, hi, x))
    (hout : ∀ o ∈ s.outq, (s.part k).phys.contains o.core = true → 1024 ≤ o.agent) (h : endInvalidation k lo hi s = .ok () t) :
    sealEffect c s = .ok () (t.updPart k fun p => { p with seals := p.seals.filter (·.1 != c) }) := by
  have hquiet : (s.outq.all fun o => ! (s.part k).phys.contains o.core || decide (1024 ≤ o.agent)) = true := by
    refine List.all_eq_true.mpr fun o ho => ?_
    cases hin : (s.part k).phys.contains o.core
    · rfl
    · exact decide_eq_true (hout o ho hin)
  subst hk
  unfold sealEffect
  simp only [get_then, hseal, require_ok _ _ hquiet, bind_ok h, updPart_run]

end

/-! The service context (R261–R265). -/

section
variable {c : Nat} {cause : Cause} {s t : State}

theorem serviceEntry_run {aux : Word} (hc : c < 128) (hcause : cause = 0x1C2#10 ∨ cause = 0x1C3#10)
    (h : fqPush c true (jobRecord s c cause 3 7 0 { FInfo.plain with aux := aux }) s = .ok () t) :
    serviceEntry c cause aux s = .ok () t := by
  have henters : (decide (c < 128) && (cause == 0x1C2#10 || cause == 0x1C3#10)) = true := by
    rw [decide_eq_true hc]
    rcases hcause with rfl | rfl <;> rfl
  unfold serviceEntry
  rw [get_then, require_ok _ _ henters, h]

/-- R263: a droppable record is written while five entries stay free. -/
theorem fqPush_room (rec : List Byte) (h : (s.core c).fqCount < 11) : fqPush c true rec s = .ok () (s.recorded c rec) := by
  have hroom : (true && decide (11 ≤ (s.core c).fqCount)) = false := by rw [decide_eq_false (Nat.not_le.mpr h)]; rfl
  simp only [fqPush, updCore_run, State.updCore, hroom, Bool.false_eq_true, if_false, State.recorded]

/-- R263: otherwise it is counted as lost. -/
theorem fqPush_lost (rec : List Byte) (h : 11 ≤ (s.core c).fqCount) :
    fqPush c true rec s = .ok () (s.updCore c fun x => { x with fqLost := min (x.fqLost + 1) 0xFFFF }) := by
  have hfull : (true && decide (11 ≤ (s.core c).fqCount)) = true := by rw [decide_eq_true h]; rfl
  simp only [fqPush, updCore_run, State.updCore, hfull, if_true]

theorem serviceOpportunity_run (hc : c < 128) (hissues : s.userIssues c = true) (h : opportunity c s = .ok () t) :
    serviceOpportunity c s = .ok () t := by
  have harises : (decide (c < 128) && s.userIssues c) = true := by rw [decide_eq_true hc, hissues]; rfl
  unfold serviceOpportunity
  rw [get_then, require_ok _ _ harises, h]

/-- R265: a fault of the running service context is taken as its exception. -/
theorem doubleFaultNow_run (hc : c < 128) (hstat : (s.hart (.service c)).stat = .running)
    (h : takeException (.service c) cause .plain s = .ok () t) : doubleFaultNow c cause s = .ok () t := by
  have hruns : (decide (c < 128) && (s.hart (.service c)).stat == .running) = true := by rw [decide_eq_true hc, hstat]; rfl
  unfold doubleFaultNow
  rw [get_then, require_ok _ _ hruns, h]

end

theorem coreEvents : Claims.CoreEvents :=
  ⟨fun _ _ _ hfull h => runExec_ok (phaseWriteback_run hfull h), fun _ _ _ _ _ hne hi h => runExec_ok (writeAccepted_run hne hi h),
    fun _ _ _ _ _ _ _ hw hrun hplain hb hmet h => runExec_ok (waitSatisfied_instr hw hrun hplain hmet hb h),
    fun _ _ _ _ _ _ _ hw hrun hplain hb hmet => runExec_ok (waitSatisfied_cmd hw hrun hplain hmet hb),
    fun _ _ _ _ _ _ hp hthr => metWait_core hp hthr,
    fun _ _ _ _ _ hw ha hrun hwaita hb href h => runExec_ok (waitaAgain_run hw ha hrun hwaita hb href h),
    fun _ _ _ _ _ _ _ _ hr ha hq h => runExec_ok (rldResponse_answered hr ha hq h),
    fun _ _ _ _ _ _ _ hr ha hplace hcheck h => runExec_ok (rldResponse_here hr ha hplace hcheck h),
    fun _ _ _ _ _ _ _ hk hseal hout h => runExec_ok (sealEffect_run hk hseal hout h),
    fun _ _ _ _ _ hc hcause h => runExec_ok (serviceEntry_run hc hcause h), fun _ rec _ h => fqPush_room rec h,
    fun _ rec _ h => fqPush_lost rec h, fun _ _ _ hc hissues h => runExec_ok (serviceOpportunity_run hc hissues h),
    fun _ _ _ _ hc hstat h => runExec_ok (doubleFaultNow_run hc hstat h)⟩

end Sys2Proof.Laws
end

section
/-! Events of the M and F engines (R208, R209, R266–R268, R304, R411, R441–R443, R450–R452). -/
namespace Sys2Proof.Laws
open Sys2Proof.Machine

/-! Completion and asynchronous faults (R304, R411, R441, R442). -/

section
variable {c i n : Nat} {e : Eng} {cmd : MfCmd} {s t u v : State}

/-- The engines that run commands (R441). -/
theorem isEngine_eq_true (he : e = .M ∨ e = .F) : (e == .M || e == .F) = true := by
  rcases he with rfl | rfl <;> rfl

/-- R441: the next command of an engine, at its cycle and with room for its handle, runs to its end. -/
theorem mfComplete_run {cmd1 : MfCmd} {p : Progress} (hlive : (s.job c).live = true) (he : e = .M ∨ e = .F)
    (hanswers : s.awaiting (.engine c e.no) = false) (hnext : nextCmd ((s.job c).queueOf e) = some i)
    (hcmd : ((s.job c).queueOf e)[i]? = some cmd) (hpair : cmd.op.isPair = false) (hstop : (s.job c).stopping = false)
    (hvisible : cmd.visible ≤ (s.job c).j + 1) (hroom : (s.job c).room cmd = true)
    (hrows : answeredRows (.engine c e.no) cmd s = .ok (.upTo cmd1) t) (hrun : runCmd c e cmd1.units cmd1 t = .ok p u)
    (h : settle c e i p u = .ok () v) : mfComplete c e n s = .ok () v := by
  have hengine : ((s.job c).live && (e == .M || e == .F) && ! s.awaiting (.engine c e.no)) = true := by
    rw [hlive, isEngine_eq_true he, hanswers]; rfl
  have hdue : (decide (cmd.visible ≤ (s.job c).j + 1) && (s.job c).room cmd) = true := by rw [decide_eq_true hvisible, hroom]; rfl
  unfold mfComplete
  simp only [get_then, require_ok _ _ hengine, hnext, hcmd, hpair, hstop, Bool.false_eq_true, if_false, require_ok _ _ hdue,
    bind_ok hrows, bind_ok hrun, h]

/-- R304, R411: a command that has done its last unit leaves its queue, and then what follows it happens. -/
theorem settle_finished (hdone : cmd.units ≤ cmd.cursor) (hdrop : dropCmd c e i s = .ok () t) (h : finishCmd c cmd t = .ok () u) :
    settle c e i (.upTo cmd) s = .ok () u := by
  simp only [settle, if_pos hdone, bind_ok hdrop, h]

/-- R442: a command that fails leaves its queue, and its fault is recorded. -/
theorem settle_fails {f : Cause} {a : Word} (hdrop : dropCmd c e i s = .ok () t) (h : failCmd c e cmd f a t = .ok () u) :
    settle c e i (.fails cmd f a) s = .ok () u := by
  simp only [settle, bind_ok hdrop, h]

theorem mfAsyncFault_run (hlive : (s.job c).live = true) (he : e = .M ∨ e = .F) (hnext : nextCmd ((s.job c).queueOf e) = some i)
    (hcmd : ((s.job c).queueOf e)[i]? = some cmd) (h : settle c e i (.fails cmd 0x292#10 0#64) s = .ok () t) :
    mfAsyncFault c e 0x292#10 s = .ok () t := by
  have hengine : ((s.job c).live && (e == .M || e == .F) && (0x292#10 : Cause) == 0x292#10) = true := by
    rw [hlive, isEngine_eq_true he]; rfl
  unfold mfAsyncFault
  simp only [get_then, require_ok _ _ hengine, hnext, hcmd, h]

end

/-! Timed issue and stalls (R266–R268). -/

section
variable {c n : Nat} {e : Eng} {s t : State}

/-- R266: a stream that waits for its stamp issues its command once the issue clock has reached it. -/
theorem timedIssue_run {w : WaitRec} {x : Exec Unit} (hlive : (s.job c).live = true) (hstat : (s.hart (.stream c e)).stat = .running)
    (hblocked : (s.hart (.stream c e)).blocked = .stamp) (hw : (s.hart (.stream c e)).wait = some w) (hthr : w.thr ≤ (s.job c).j)
    (hx : mfCommandOf (s.codeWord (.stream c e) ((s.hart (.stream c e)).pc + 8))
      (s.codeWord (.stream c e) ((s.hart (.stream c e)).pc + 16))
      (some (slotStamp (s.codeWord (.stream c e) (s.hart (.stream c e)).pc))) = some x)
    (h : x { s with cur := .stream c e } = .ok () t) : timedIssue c e s = .ok () t := by
  have hreached : ((s.job c).live && (s.hart (.stream c e)).stat == .running && (s.hart (.stream c e)).blocked == .stamp &&
      decide (w.thr ≤ (s.job c).j)) = true := by
    rw [hlive, hstat, hblocked, decide_eq_true hthr]; rfl
  unfold timedIssue
  simp only [get_then, hw, require_ok _ _ hreached, modify_then, hx, h]

/-- R268: a stall freezes the issue clock of a timed job, and is recorded. -/
theorem pipelineStall_run (hlive : (s.job c).live = true) (htimed : (s.job c).timed = true)
    (h : fqPush c true (jobRecord s c 0x183#10 3 7 0 .plain)
      (s.updJob c fun j => { j with stall := j.stall + n, stampb := j.stampb + BitVec.ofNat 64 n }) = .ok () t) :
    pipelineStall c n s = .ok () t := by
  have hstalls : ((s.job c).live && (s.job c).timed) = true := by rw [hlive, htimed]; rfl
  unfold pipelineStall
  rw [get_then, require_ok _ _ hstalls, updJob_then, h]

end

/-! Pairs (R450–R452). -/

section
variable {c c2 : Nat} {s t u v : State} {lr fr : PairReq} (hlive : (s.job c).live = true) (hpair : s.atPair c = true)
  (hpartner : s.partner c = some c2) (hpair2 : s.atPair c2 = true) (heven : (s.job c).lcore % 2 = 0)
  (hlr : (s.job c).pairReq = some lr) (hfr : (s.job c2).pairReq = some fr)
include hlive hpair hpartner hpair2 heven hlr hfr

/-- R451: two multiplies of different opcodes both fault. -/
theorem pairRendezvous_mismatch (hopc : lr.opc ≠ fr.opc) (h1 : pairFault c 0x202#10 s = .ok () t)
    (h2 : pairFault c2 0x202#10 t = .ok () u) : pairRendezvous c s = .ok () u := by
  have hmeets : ((s.job c).live && s.atPair c) = true := by rw [hlive, hpair]; rfl
  unfold pairRendezvous
  simp only [get_then, require_ok _ _ hmeets, hpartner, require_ok _ _ hpair2, heven, if_true, hlr, hfr, ne_eq, hopc, not_false_eq_true,
    true_or, bind_ok h1, h2]

/-- R451: two multiplies that match issue both, with the B operands of the even core. -/
theorem pairRendezvous_issues {z tr p : Bool} {bank g : Nat} {a b sb : TileRef} {sa : Option TileRef} {ms : List (List (List Nat))}
    (hopc : lr.opc = fr.opc) (hz : lr.z = fr.z) (ht : lr.t = fr.t) (hgran : lr.gran = fr.gran) (hk : lr.k = fr.k)
    (hfb : fr.bNone = true) (hfsb : fr.sbNone = true) (hlb : lr.bNone = false) (hls : lr.stamped = false) (hfs : fr.stamped = false)
    (hbank : lr.bank = fr.bank) (hop : lr.cmd.op = .mma lr.opc z tr p bank a b sa (some sb) g)
    (helems : elemsAll c [b, sb] s = .ok (.ok ms) t)
    (h1 : pairIssue c lr (ms.getD 0 []) (ms.getD 1 []) lr.cmd t = .ok () u)
    (h2 : pairIssue c2 fr (ms.getD 0 []) (ms.getD 1 []) lr.cmd u = .ok () v) : pairRendezvous c s = .ok () v := by
  have hmeets : ((s.job c).live && s.atPair c) = true := by rw [hlive, hpair]; rfl
  have hmatch : ¬ (lr.opc ≠ fr.opc ∨ lr.z ≠ fr.z ∨ lr.t ≠ fr.t ∨ lr.gran ≠ fr.gran ∨ lr.k ≠ fr.k ∨ (! fr.bNone) = true ∨
      (! fr.sbNone) = true ∨ lr.bNone = true ∨ lr.stamped = true ∨ fr.stamped = true) := by
    simp [hopc, hz, ht, hgran, hk, hfb, hfsb, hlb, hls, hfs]
  unfold pairRendezvous
  simp only [get_then, require_ok _ _ hmeets, hpartner, require_ok _ _ hpair2, heven, if_true, hlr, hfr, if_neg hmatch, ne_eq, hbank,
    not_true_eq_false, if_false, hop, Option.getD_some, bind_ok helems, bind_ok h1, h2]

end

/-! The snapshot buffer (R208, R209). -/

/-- R209: the first saved result whose cycle has come is delivered. -/
theorem psbDelivery_run {c : Nat} {s t u : State} {p : Psb} {cmd : MfCmd}
    (hp : (s.job c).psb.find? (fun p => decide (p.cmd.visible ≤ (s.job c).j + 1)) = some p) (hlive : (s.job c).live = true)
    (hroom : (s.job c).room p.cmd = true)
    (hrun : runCmd c p.eng p.cmd.units p.cmd (s.updJob c fun j => { j with psb := j.psb.erase p }) = .ok (.upTo cmd) t)
    (h : finishCmd c cmd t = .ok () u) : psbDelivery c s = .ok () u := by
  have hdelivers : ((s.job c).live && (s.job c).room p.cmd) = true := by rw [hlive, hroom]; rfl
  unfold psbDelivery
  simp only [getJob_then, hp, require_ok _ _ hdelivers, updJob_then, bind_ok hrun, h]

theorem engineEvents : Claims.EngineEvents :=
  ⟨fun _ _ _ _ _ _ _ _ _ _ _ hlive he hans hnext hcmd hpair hstop hvis hroom hrows hrun h =>
      runExec_ok (mfComplete_run hlive he hans hnext hcmd hpair hstop hvis hroom hrows hrun h),
    fun _ _ _ _ _ _ _ hdone hdrop h => settle_finished hdone hdrop h, fun _ _ _ _ _ _ _ _ _ hdrop h => settle_fails hdrop h,
    fun _ _ _ _ _ _ hlive he hnext hcmd h => runExec_ok (mfAsyncFault_run hlive he hnext hcmd h),
    fun _ _ _ _ _ _ hlive hstat hb hw hthr hx h => runExec_ok (timedIssue_run hlive hstat hb hw hthr hx h),
    fun _ _ _ _ hlive htimed h => runExec_ok (pipelineStall_run hlive htimed h),
    fun _ _ _ _ _ _ _ hlive hp hpartner hp2 heven hlr hfr hopc h1 h2 =>
      runExec_ok (pairRendezvous_mismatch hlive hp hpartner hp2 heven hlr hfr hopc h1 h2),
    fun _ _ _ _ _ _ _ _ _ _ _ _ _ _ _ _ _ _ hlive hp hpartner hp2 heven hlr hfr hopc hz ht hgran hk hfb hfsb hlb hls hfs hbank hop
        helems h1 h2 =>
      runExec_ok (pairRendezvous_issues hlive hp hpartner hp2 heven hlr hfr hopc hz ht hgran hk hfb hfsb hlb hls hfs hbank hop helems h1 h2),
    fun _ _ _ _ _ _ hp hlive hroom hrun h => runExec_ok (psbDelivery_run hp hlive hroom hrun h)⟩

/-- Settles O56: each event of a core and of its engines, once its condition holds. -/
theorem coreAndEngineEvents : Obligations.CoreAndEngineEvents := ⟨coreEvents, engineEvents⟩

end Sys2Proof.Laws
end
